-- ==== Sys2Proof/Word.lean ====
section
/-! DEFINITION. The word types of the model and the sparse map that every store of the model is built on. -/

namespace Sys2Proof

/-- One byte. -/
abbrev Byte := BitVec 8

/-- A scalar register, an instruction word or an address before its upper byte is checked (R350). -/
abbrev Word := BitVec 64

/-- One vector-register element (R36). -/
abbrev Elem := BitVec 32

/-- A sparse map from natural numbers: entries in strictly rising key order, at most one for a key.
What an unlisted key reads as is said where the map is read. -/
abbrev NMap (α : Type) := List (Nat × α)

end Sys2Proof
end

