-- ==== Sys2Proof/Syntax.lean ====
section
/-! DEFINITION. The commands of the block: one constructor for each row of the table of operations and events,
with the operands a command of that row carries. An instruction row carries the core, the group slot and the
instruction word as the core fetched it (R66 leaves the version fetched open, so it is an operand). -/

namespace Sys2Proof

/-- A transport packet of the Aeldon links, field by field as R382 lays it out. -/
structure Packet where
  opc : BitVec 8
  fin : Bool
  mc : Bool
  retry : Bool
  dst : BitVec 12
  src : BitVec 12
  sinst : BitVec 6
  dinst : BitVec 6
  sgen : BitVec 16
  dgen : BitVec 16
  txid : BitVec 32
  addr : BitVec 40
  aop : BitVec 4
  atype : BitVec 4
  len : Nat
  life : Nat
  srctag : BitVec 18
  status : BitVec 16
  batch : BitVec 16
  count : BitVec 16
  data : List Byte
  /-- MODEL: the packet travels on VC 4 (R375); the header has no field for it -/
  tier : Bool
  deriving DecidableEq, Repr

/-- The packet with every field zero. -/
def Packet.zero : Packet :=
  { opc := 0, fin := false, mc := false, retry := false, dst := 0, src := 0, sinst := 0, dinst := 0,
    sgen := 0, dgen := 0, txid := 0, addr := 0, aop := 0, atype := 0, len := 0, life := 0, srctag := 0,
    status := 0, batch := 0, count := 0, data := [], tier := false }

/-- A flit of FLIT_RECEIVED as its codewords carry it: the 256 bytes, and the places, 0 to 543, of the symbols received wrong in the
codeword that begins in the flit, where one does (R368). -/
structure RxFlit where
  bytes : List (BitVec 8)
  errors : List Nat
  deriving DecidableEq, Repr

/-- A reading of the core rail of a sector: mV below its set point (R421). -/
structure Rail where
  sector : Nat
  below : Nat
  deriving DecidableEq, Repr

/-- What the module's meter senses at its input: voltage in mV and current in mA (R413). -/
structure Sense where
  mv : Nat
  ma : Nat
  deriving DecidableEq, Repr

/-- A read of BAR0: its byte offset and its size in bytes (R505). -/
structure BarRead where
  off : Nat
  size : Nat
  deriving DecidableEq, Repr

/-- A granule of an array that the code of R427 protects, within the core, cluster or LLC slice that a command names (R426). -/
inductive ArrayPlace where
  /-- a 16-byte granule of a core's local store -/
  | localStore (granule : Nat)
  /-- four lanes of a vector register of the group in a slot -/
  | vectorRegs (slot reg quarter : Nat)
  /-- two scalar registers of the group in a slot -/
  | scalarRegs (slot pair : Nat)
  /-- a 16-byte granule of accumulator memory -/
  | accumulator (granule : Nat)
  /-- half of a sector of a line of a cluster's L2, and the line's tag -/
  | l2Data (line sec half : Nat)
  | l2Tag (line : Nat)
  | reelQueue
  /-- the same of an LLC slice, and a directory entry -/
  | llcData (line sec half : Nat)
  | llcTag (line : Nat)
  | directory (line : Nat)
  deriving DecidableEq, Repr

/-- Bit errors met in a stored granule: which of its 144 bits (R427, R428). -/
structure Upset where
  place : ArrayPlace
  flip : BitVec 144
  deriving DecidableEq, Repr

/-- What UNIT_FENCED says of the failure: whether it is an uncorrectable error in a cluster's Reel queue or in a core's logic, the lines of
a cluster's L2 whose tags do not decode (R438), or instead of these the bit errors that a granule of an array meets, which may be a cause
to fence the unit (R439). -/
structure UnitFailure where
  queue : Bool
  lostTags : List Nat
  upset : Option Upset := none
  deriving DecidableEq, Repr

/-- What a step of the start sequence found (R465, R468, R400, R401): the units that failed their vectors or
training, the trained bundles (number, rate code, failed wires of the two directions; a bridge segment, 160 + 16 times its die and its
number, stands there where it failed its test), whether the HBM check of a warm reset passed (R466),
the time since t0, and whether the copy of an installation failed three times (R474). -/
structure StepReport where
  overrun : Bool
  prmError : Bool
  failed : List (BitVec 32)
  bundles : List (Nat × Nat × BitVec 68 × BitVec 68)
  hbmTrimOk : Bool
  us : Nat
  copyFails : Bool := false
  deriving DecidableEq, Repr

/-- What a start finds of the battery domain: kept, its cell lost or replaced, or bytes of the key store other than written, as offsets
with what has been flipped in them (R447, R460, R492). -/
inductive CellReport where
  | kept
  | lost
  | flipped (bytes : List (Nat × BitVec 8))
  deriving DecidableEq, Repr, Inhabited

/-- What a start takes in at t0: whether RECOVERY_N is low, and what it finds of the battery domain (R475, R486). -/
structure StartInputs where
  recoveryLow : Bool := false
  cell : CellReport := .kept
  deriving DecidableEq, Repr, Inhabited

/-- The class of a request at a pseudo-channel (R261). -/
inductive Prio where
  | critical
  | normal
  | bulk
  deriving DecidableEq, Repr, Inhabited

/-- The commands, in the order of the table. -/
inductive Instr where
  /-- NOP (R71). A group issues nop, which changes no state. -/
  | nop (core slot : Nat) (w : BitVec 64)
  /-- BR (R74). A conditional or unconditional branch computes the taken mask and jumps, or diverges and pushes a reconvergence entry. -/
  | br (core slot : Nat) (w : BitVec 64)
  /-- JMP (R74). An indirect jump takes its target from sA[55:0] and never diverges. -/
  | jmp (core slot : Nat) (w : BitVec 64)
  /-- CALL (R74). An indirect call reads the target from sA, writes PC + 8 to sD and jumps. -/
  | call (core slot : Nat) (w : BitVec 64)
  /-- EXIT (R75). The active threads exit and are removed from every saved and pending mask; the group ends when all 32 threads have exited. -/
  | exit (core slot : Nat) (w : BitVec 64)
  /-- BAR_GROUP (R49). The active threads park at a group barrier, and the barrier releases when the parked and exited threads cover all 32 lanes. -/
  | barGroup (core slot : Nat) (w : BitVec 64)
  /-- BARRIER_STALL (R52). The barrier watchdog count reaches 2^W and raises a barrier-stall fault. -/
  | barrierStall (core slot : Nat)
  /-- WAIT_GE (R95). A group waits until the signed difference between its arrival counter and the awaited value is at least zero. -/
  | waitGe (core slot : Nat) (w : BitVec 64)
  /-- CTR_RD (R95). A group reads an arrival counter into sD. -/
  | ctrRd (core slot : Nat) (w : BitVec 64)
  /-- CTR_SET (R97). A group sets an arrival counter at one point between advances. -/
  | ctrSet (core slot : Nat) (w : BitVec 64)
  /-- CTR_ADD (R97). A group adds to an arrival counter, indivisibly with respect to copy advances. -/
  | ctrAdd (core slot : Nat) (w : BitVec 64)
  /-- MMA_WAIT (R101). A group waits until at most n of its matrix operations are incomplete. -/
  | mmaWait (core slot : Nat) (w : BitVec 64)
  /-- RDSR (R73). A group reads a special register (cycle count, beat, phase or generation) into sD. -/
  | rdsr (core slot : Nat) (w : BitVec 64)
  /-- SCALAR_INTEGER (R118). A scalar integer function of opcode 0x10 executes once for the group. -/
  | scalarInteger (core slot : Nat) (w : BitVec 64)
  /-- SCALAR_F32 (R115). A scalar f32 function of opcode 0x11 executes, correctly rounded. -/
  | scalarF32 (core slot : Nat) (w : BitVec 64)
  /-- SCALAR_INTEGER_IMMEDIATE (R71). A scalar integer function with a sign-extended 32-bit immediate (opcode 0x18) executes as s64. -/
  | scalarIntegerImmediate (core slot : Nat) (w : BitVec 64)
  /-- MOV_HI (R71). mov.hi writes the immediate to sD[63:32] and keeps sD[31:0]. -/
  | movHi (core slot : Nat) (w : BitVec 64)
  /-- VECTOR_INTEGER (R118). A vector integer function of opcode 0x20, sel included, executes on the performing lanes. -/
  | vectorInteger (core slot : Nat) (w : BitVec 64)
  /-- VECTOR_F32 (R115). A vector f32 function of opcode 0x21 executes on the performing lanes. -/
  | vectorF32 (core slot : Nat) (w : BitVec 64)
  /-- VECTOR_INTEGER_IMMEDIATE (R71). A vector integer function with a 32-bit immediate (opcode 0x28) executes as s32. -/
  | vectorIntegerImmediate (core slot : Nat) (w : BitVec 64)
  /-- VECTOR_F32_IMMEDIATE (R71). A vector f32 function with an FP32 immediate (opcode 0x29) executes. -/
  | vectorF32Immediate (core slot : Nat) (w : BitVec 64)
  /-- CVT (R122). cvt converts each performing lane between integer and floating-point types by RND and SAT. -/
  | cvt (core slot : Nat) (w : BitVec 64)
  /-- CMP (R514). cmp writes bit i of kD for each performing lane i. -/
  | cmp (core slot : Nat) (w : BitVec 64)
  /-- MASK_LOGIC (R514). A mask-logic function (kand to kpop) executes once for the group on all 32 bits. -/
  | maskLogic (core slot : Nat) (w : BitVec 64)
  /-- TALLY (R76). A lane-census function takes a census of the active lanes and delivers one result to the group. -/
  | tally (core slot : Nat) (w : BitVec 64)
  /-- XLANE (R77). A lane exchange (pick, rot, mirror or cross) delivers to each performing lane a value from its segment. -/
  | xlane (core slot : Nat) (w : BitVec 64)
  /-- LANE_FILL (R78). lane.fill writes sA[31:0] to every performing lane of vD. -/
  | laneFill (core slot : Nat) (w : BitVec 64)
  /-- LANE_GET (R78). lane.get reads one lane of vA into sD. -/
  | laneGet (core slot : Nat) (w : BitVec 64)
  /-- LANE_PUT (R78). lane.put writes sA[31:0] to one lane of vD. -/
  | lanePut (core slot : Nat) (w : BitVec 64)
  /-- FOLD (R515). A fold (add, min, max, and, or, xor) reduces vA over the performing lanes into sD. -/
  | fold (core slot : Nat) (w : BitVec 64)
  /-- LD (R79). A load reads device memory, scalar or per lane, with an optional acquire. -/
  | ld (core slot : Nat) (w : BitVec 64)
  /-- ST (R80). A store writes device memory, scalar or per lane, with an optional release. -/
  | st (core slot : Nat) (w : BitVec 64)
  /-- ATOM (R86). An atomic operation is performed at the home, with lanes that share an address coalesced into one set. -/
  | atom (core slot : Nat) (w : BitVec 64)
  /-- FENCE (R82). A core, chip or system fence acts as a release and an acquire of its scope. -/
  | fence (core slot : Nat) (w : BitVec 64)
  /-- INV_L1 (R88). inv.l1 invalidates the whole cache portion of the core. -/
  | invL1 (core slot : Nat) (w : BitVec 64)
  /-- PIN (R89). pin asks the home to pin a 128-byte line and returns a status. -/
  | pin (core slot : Nat) (w : BitVec 64)
  /-- UNPIN (R89). unpin unpins a 128-byte line and returns a status. -/
  | unpin (core slot : Nat) (w : BitVec 64)
  /-- HINT_DEAD (R90). hint.dead declares a line dead, after the translation and permission checks. -/
  | hintDead (core slot : Nat) (w : BitVec 64)
  /-- LDS (R79). A local-store load reads bytes at a local-store offset. -/
  | lds (core slot : Nat) (w : BitVec 64)
  /-- STS (R79). A local-store store writes bytes at a local-store offset. -/
  | sts (core slot : Nat) (w : BitVec 64)
  /-- WSUM_INIT (R105). wsum.init sets an empty wide sum with a window taken from sA. -/
  | wsumInit (core slot : Nat) (w : BitVec 64)
  /-- WSUM_ACC (R106). wsum.acc adds one value term to a wide sum. -/
  | wsumAcc (core slot : Nat) (w : BitVec 64)
  /-- WSUM_MAC (R106). wsum.mac adds an exact product term to a wide sum. -/
  | wsumMac (core slot : Nat) (w : BitVec 64)
  /-- WSUM_ADD (R107). wsum.add adds two wide sums exactly. -/
  | wsumAdd (core slot : Nat) (w : BitVec 64)
  /-- WSUM_RED (R103). wsum.red gives every performing lane the exact sum of vA over the performing lanes. -/
  | wsumRed (core slot : Nat) (w : BitVec 64)
  /-- WSUM_CVT (R108). wsum.cvt rounds a wide sum once to a floating-point type. -/
  | wsumCvt (core slot : Nat) (w : BitVec 64)
  /-- CP_ASYNC (R93). cp.async reads and checks a copy descriptor and issues an async copy, or claims a staged run-ahead copy. -/
  | cpAsync (core slot : Nat) (w w1 : BitVec 64)
  /-- MMA_ASYNC (R139). mma.async checks both tile descriptors and issues a matrix operation into an engine entry. -/
  | mmaAsync (core slot : Nat) (w w1 : BitVec 64)
  /-- MMA_DRAIN (R516). mma.drain checks an epilogue descriptor and issues a drain of an accumulator tile. -/
  | mmaDrain (core slot : Nat) (w w1 : BitVec 64)
  /-- FETCH_CODE (R66). The core fetches a 128-byte code line of the launch from HBM. -/
  | fetchCode (core slot : Nat) (va : BitVec 64)
  /-- RUN_AHEAD (R59). At a stalled conditional branch, the front end scans up to 64 instructions of the predicted path and stages eligible copies. -/
  | runAhead (core slot : Nat) (w : BitVec 64) (path : List (BitVec 64))
  /-- RUN_AHEAD_STAGED (R62). The read response of a run-ahead copy lands in the staging buffer. -/
  | runAheadStaged (core idx : Nat)
  /-- COPY_DATA_LANDED (R167). Copy data arrives, is written to the local store or memory, and advances the named counters. -/
  | copyDataLanded (core id len : Nat)
  /-- MMA_START (R153). The MAC array starts the next matrix operation once the earlier and overlapping operations allow it. -/
  | mmaStart (core : Nat)
  /-- MMA_COMPLETE (R153). A matrix operation writes its results to accumulator memory and advances its counter. -/
  | mmaComplete (core : Nat)
  /-- DRAIN_START (R153). The drain unit starts the next drain once the earlier and overlapping operations allow it. -/
  | drainStart (core : Nat)
  /-- DRAIN_COMPLETE (R149). A drain has written its output tile and CRC and advances its counter by the bytes written. -/
  | drainComplete (core : Nat)
  /-- CONTEXT_KILL (R55). After a fault is detected, the launch is stopped on every core and its fault event and killed completion are written. -/
  | contextKill (inst idx : Nat)
  /-- LAUNCH_READY (R185). A ready and placeable launch cuts its grid into ranges and places them in the queues of its clusters with an up core. -/
  | launchReady (inst idx : Nat)
  /-- DEPENDENCY_POLL (R182). Every 1 µs, the part re-reads the counter-dependency word of a waiting launch by a system-scope acquire. -/
  | dependencyPoll (inst idx : Nat)
  /-- TASK_TAKE (R187). A core with a free slot takes a task from its cluster's queue and starts a group with the state of R42. -/
  | taskTake (core : Nat)
  /-- STEAL_CHOOSE (R189). An idle cluster chooses a victim by place class and published size, or chooses again at each change of a published size. -/
  | stealChoose (cl inst idx : Nat)
  /-- STEAL_REQUEST (R190). The victim's hub performs a steal indivisibly, giving the thief half of a range or a re-queued task. -/
  | stealRequest (thief victim inst idx : Nat)
  /-- COMMIT_RESERVATION (R191). After a group's last exit, the commit buffer grants the task a whole reservation when space frees, and the copy engine reads the commit sources. -/
  | commitReservation (cl : Nat)
  /-- COMMIT_POINT (R192). A task has every commit byte in the buffer, completes, frees its slot, and its writes are performed. -/
  | commitPoint (core slot : Nat)
  /-- LAUNCH_COMPLETE (R193). When every task has committed and every write is performed, the part adds CVAL at CADDR and writes the completion entry. -/
  | launchComplete (inst idx : Nat)
  /-- CORE_LOST (R194). A core lost mid-task has its tasks re-queued, or the context killed for a pinned launch or at the retry limit. -/
  | coreLost (core : Nat) (logicError : Bool)
  /-- DRAIN (R197). A drain of a core, sector or cluster stops handing tasks to the unit. -/
  | drain (unit : BitVec 32)
  /-- DRAIN_TMAX_EXPIRY (R197). At the end of TMAX, uncommitted idempotent tasks are re-queued and pinned launches are saved. -/
  | drainTmaxExpiry (unit : BitVec 32)
  /-- REEL_CLR (R199). A write of REEL.CTRL.CLR clears every Reel counter and OVF. -/
  | reelClr (src : Nat) (v : BitVec 32)
  /-- GETS (R244). The home serves a GetS read request from an L2. -/
  | gets (cl : Nat) (pa : BitVec 56) (cls : Nat) (secs : BitVec 4)
  /-- GETM (R244). The home serves a GetM ownership request from an L2. -/
  | getm (cl : Nat) (pa : BitVec 56) (cls : Nat) (secs : BitVec 4)
  /-- UPG (R244). The home serves an Upg request from an L2 in S or O. -/
  | upg (cl : Nat) (pa : BitVec 56) (cls : Nat)
  /-- GETSEC (R244). The home supplies further sectors to an L2 that holds the line. -/
  | getsec (cl : Nat) (pa : BitVec 56) (cls : Nat) (secs : BitVec 4)
  /-- PUT (R244). The home takes an eviction with its dirty sectors from an L2. -/
  | putLine (cl : Nat) (pa : BitVec 56)
  /-- RDNA (R244). The home serves a non-allocating snooping read. -/
  | rdna (inst : Nat) (pa : BitVec 56) (cls : Nat) (secs : BitVec 4) (prio : Prio)
  /-- WRNA (R246). The home performs a non-allocating snooping write, merging partial lines. -/
  | wrna (inst : Nat) (pa : BitVec 56) (cls : Nat) (data : List (BitVec 8)) (bulk : Bool)
  /-- ATOMF (R248). The home performs a far atomic on the LLC copy. -/
  | atomf (cl : Nat) (pa : BitVec 56) (cls : Nat) (op ty : BitVec 4) (x y : BitVec 256)
  /-- DEAD (R247). The home drops a dead line's copies and marks its dirty sectors dead. -/
  | dead (cl : Nat) (pa : BitVec 56)
  /-- FORWARD (R245). An L2 receives a forward request and sends its dirty sectors, from the write-back buffer if needed. -/
  | forwardReq (cl : Nat) (pa : BitVec 56)
  /-- INVALIDATION (R245). An L2 receives an invalidation, drops its copy and acknowledges. -/
  | invalidation (cl : Nat) (pa : BitVec 56)
  /-- NEAR_ATOMIC (R248). An L2 performs a near atomic once it holds the line in M. -/
  | nearAtomic (cl : Nat) (pa : BitVec 56) (cls : Nat) (op ty : BitVec 4) (x y : BitVec 256)
  /-- RETRY_RESPONSE (R233). A refused request is sent again 64 fabric cycles later. -/
  | retryResponse (slice id : Nat)
  /-- HBM_READ_DATA (R263). Read data from a pseudo-channel reaches the home slice, corrected or poisoned. -/
  | hbmReadData (pch id : Nat) (flip0 flip1 : BitVec 144)
  /-- HBM_BURST_SLOT (R262). At each burst slot a pseudo-channel controller arbitrates among the critical, normal and bulk queues. -/
  | hbmBurstSlot (pch : Nat)
  /-- PATROL (R259). A controller's patrol reads a sector and corrects correctable errors in place. -/
  | patrol (pa : BitVec 56) (flip0 flip1 : BitVec 144)
  /-- RECALIBRATION_WINDOW (R264). A PHY recalibration window of one channel opens at a beat edge or on the 2 ms internal timer. -/
  | recalibrationWindow (stack chan : Nat)
  /-- HBM_TEMPERATURE_READ (R258). Every 1 ms, each stack's temperature is read and its refresh rate set. -/
  | hbmTemperatureRead (stack : Nat) (temp : BitVec 16)
  /-- PSEUDO_CHANNEL_FENCE (R267). A pseudo-channel is fenced, its traffic poisoned or discarded, and a channel entry written to the retired list. -/
  | pseudoChannelFence (pch : Nat)
  /-- HBM_FENCE (R267). A write of HBM.FENCE.GO fences the named pseudo-channel. -/
  | hbmFence (src : Nat) (v : BitVec 32)
  /-- HBM_RETIRE (R266). A write of HBM.RETIRE.GO retires a page that no instance holds. -/
  | hbmRetire (src : Nat) (v : BitVec 32)
  /-- HBM_RETIRE_UNDO_PAGE (R266). HBM.RETIRE with UNDO = 1 and CH = 0 removes a page entry in bring-up mode. -/
  | hbmRetireUndoPage (src : Nat) (v : BitVec 32)
  /-- HBM_RETIRE_UNDO_CHANNEL (R266). HBM.RETIRE with UNDO = 1 and CH = 1 removes a channel entry in bring-up mode. -/
  | hbmRetireUndoChannel (src : Nat) (v : BitVec 32)
  /-- HBM_MARGIN (R268). A write of HBM.MCTRL.GO starts a margining run in bring-up mode. -/
  | hbmMargin (src : Nat) (v : BitVec 32)
  /-- HBM_MARGIN_DONE (R268). A margining run ends and the trained deskew and VDDQ are restored. -/
  | hbmMarginDone (errs : Nat)
  /-- LLC_CLR (R256). A write of LLC.CTRL.CLR clears every LLC counter and OVF. -/
  | llcClr (src : Nat) (v : BitVec 32)
  /-- LLC_SEL (R256). A write to LLC.SEL takes an atomic snapshot of the selected view's counters. -/
  | llcSel (src : Nat) (v : BitVec 32)
  /-- NEAR_HOME_ENABLE (R238). A write of LLC.NH CTRL.EN enables, refuses or disables a near-home range and starts the flush. -/
  | nearHomeEnable (src i : Nat) (v : BitVec 32)
  /-- NEAR_HOME_FLUSH_DONE (R238). The flush of a near-home range change completes and BUSY clears. -/
  | nearHomeFlushDone (i : Nat)
  /-- THRASH_WINDOW (R255). At the end of each 100 µs window, the thrash detector judges the unpinned hit rate of each class and may raise an event. -/
  | thrashWindow
  /-- LLC_SLICE_FENCE (R239). The steward fences an LLC slice and rehomes its lines to the next up slice. -/
  | llcSliceFence (slice : Nat)
  /-- SEQ_LAYOUT (R273). A SEQ LAYOUT entry defines a KV layout. -/
  | seqLayout (inst idx : Nat)
  /-- SEQ_CREATE (R280). A SEQ CREATE entry takes a free record and returns its handle. -/
  | seqCreate (inst idx : Nat)
  /-- SEQ_FREE (R280). A SEQ FREE entry drops the record's page-set references and frees the record. -/
  | seqFree (inst idx : Nat)
  /-- SEQ_FORK (R285). A SEQ FORK entry creates a record that shares the source's page sets. -/
  | seqFork (inst idx : Nat)
  /-- SEQ_COMMIT (R283). A SEQ COMMIT entry commits tentative tokens. -/
  | seqCommit (inst idx : Nat)
  /-- SEQ_ROLLBACK (R284). A SEQ ROLLBACK entry zeroes the rolled-back rows and drops the tentative tokens. -/
  | seqRollback (inst idx : Nat)
  /-- SEQ_EVICT (R277). A SEQ EVICT entry encrypts page sets and moves them to tier 1 or 2. -/
  | seqEvict (inst idx : Nat)
  /-- SEQ_FETCH (R278). A SEQ FETCH entry decrypts and verifies page sets and moves them to tier 0. -/
  | seqFetch (inst idx : Nat)
  /-- SEQ_QUERY (R280). A SEQ QUERY entry returns the lengths, layout and batch slot of a sequence. -/
  | seqQuery (inst idx : Nat)
  /-- STEP_BOUNDARY (R289). At a STEP's boundary, the store applies leaves, joins and runs, writes the page lists and adds DVAL at DONE. -/
  | stepBoundary (inst idx : Nat)
  /-- SLOT_ZEROED (R274). A freed slot finishes bulk zeroing and returns to the free list. -/
  | slotZeroed (inst layout slotNo : Nat)
  /-- MODEL_REGISTER (R294). A MODEL REGISTER entry records a weight set. -/
  | modelRegister (inst idx : Nat)
  /-- MODEL_LOAD (R295). A MODEL LOAD entry makes a weight set resident, evicting unreferenced sets if needed. -/
  | modelLoad (inst idx : Nat)
  /-- MODEL_EVICT (R294). A MODEL EVICT entry makes a weight set non-resident. -/
  | modelEvict (inst idx : Nat)
  /-- MODEL_PIN (R294). A MODEL PIN entry excludes a set from eviction. -/
  | modelPin (inst idx : Nat)
  /-- MODEL_UNPIN (R294). A MODEL UNPIN entry clears a set's pin. -/
  | modelUnpin (inst idx : Nat)
  /-- MODEL_ACQUIRE (R294). A MODEL ACQUIRE entry loads a set if needed and adds a reference. -/
  | modelAcquire (inst idx : Nat)
  /-- MODEL_RELEASE (R294). A MODEL RELEASE entry drops one reference. -/
  | modelRelease (inst idx : Nat)
  /-- MODEL_UNREGISTER (R294). A MODEL UNREGISTER entry removes a non-resident set. -/
  | modelUnregister (inst idx : Nat)
  /-- RESTORE (R431). Poison or a checksum failure in a restorable weight set makes readers wait while the line or block is rewritten from the backing copy. -/
  | restore (pa : BitVec 56) (block : Bool)
  /-- RESTORE_DONE (R432). The backing read returns, and the line is rewritten and the readers released, or the set is declared failed. -/
  | restoreDone (pa : BitVec 56) (ok : Bool)
  /-- SAVE (R298). A saved launch's group images are written to the instance's save area. -/
  | save (inst idx : Nat)
  /-- DOORBELL (R324). A write to SQDB makes entries fetchable, is ignored, or sets OVERRUN. -/
  | doorbell (inst size : Nat) (v : BitVec 32)
  /-- CQDB (R335). A write to CQDB releases completion slots. -/
  | cqdb (inst : Nat) (v : BitVec 32)
  /-- EQDB (R335). A write to EQDB releases event slots. -/
  | eqdb (inst : Nat) (v : BitVec 32)
  /-- ENTRY_FETCH (R325). The part fetches the next submission entry and checks its tag, generation and fields. -/
  | entryFetch (inst : Nat)
  /-- LAUNCH (R180). A LAUNCH entry is checked and registered, to start when ready. -/
  | launch (inst idx : Nat)
  /-- COPY (R329). A COPY entry moves bytes between two virtual addresses through the port's copy engine. -/
  | copy (inst idx : Nat)
  /-- WAIT (R330). A WAIT entry holds later entries until its launch, counter or beat condition holds, then completes. -/
  | wait (inst idx : Nat)
  /-- FENCE_ENTRY (R331). A FENCE entry holds later entries until every earlier entry has completed. -/
  | fenceEntry (inst idx : Nat)
  /-- EVENT (R332). An EVENT entry writes a host-marker event once every earlier entry has completed. -/
  | event (inst idx : Nat)
  /-- TAGGED_RELEASE (R307). The beat counter reaches an entry's tag and the held entry proceeds. -/
  | taggedRelease (inst idx : Nat)
  /-- CQ_COALESCE_TIMEOUT (R338). CQTIME expires since the first pending completion, and the CQ interrupt is sent. -/
  | cqCoalesceTimeout (inst : Nat)
  /-- INTCTL (R338). A write to INTCTL that clears a mask while entries are pending sends one interrupt. -/
  | intctl (inst : Nat) (v : BitVec 32)
  /-- RING_ENABLE (R323). A write of HOST.RING CFG.EN from 0 to 1 zeroes the ring indices and starts fetching. -/
  | ringEnable (src i : Nat) (v : BitVec 32)
  /-- RING_DISABLE (R323). A write of HOST.RING CFG.EN to 0 stops fetching, and ACTIVE clears after the last completion. -/
  | ringDisable (src i : Nat) (v : BitVec 32)
  /-- QUIESCE (R343). A write of HOST.CTRL.QUIESCE stops fetching from every ring, and QUIESCED sets when everything has completed. -/
  | quiesce (src : Nat) (v : BitVec 32)
  /-- LINK_DOWN (R344). The PCIe Data Link Layer goes down while the module is powered. -/
  | linkDown
  /-- DATA_WINDOW_WRITE (R340). A posted write to the BAR2 data window is performed at DPORT.ADDR as WIDTH-byte accesses. -/
  | dataWindowWrite (src off : Nat) (data : List (BitVec 8)) (allEnabled : Bool)
  /-- DATA_WINDOW_READ (R340). A read of the BAR2 data window returns data from DPORT.ADDR and advances it. -/
  | dataWindowRead (src off len : Nat) (allEnabled : Bool)
  /-- MB_GO (R355). A write to MB.GO submits, ignores, re-answers or discards a mailbox command. -/
  | mbGo (inst : Nat) (v : BitVec 32)
  /-- QUERY (R360). The QUERY command returns an instance's configuration. -/
  | query (mb : Nat)
  /-- CREATE (R359). The CREATE command activates a free instance and advances its generation. -/
  | create (mb : Nat)
  /-- CONFIG (R359). The CONFIG command changes an existing instance's configuration. -/
  | config (mb : Nat)
  /-- GRANT (R359). The GRANT command adds clusters, zeroing their local stores and resetting their predictors. -/
  | grant (mb : Nat)
  /-- REVOKE (R359). The REVOKE command removes idle clusters after writing back their L2s. -/
  | revoke (mb : Nat)
  /-- PAGES_ASSIGN (R359). PAGES with OP 0 adds free HBM pages to an instance. -/
  | pagesAssign (mb : Nat)
  /-- PAGES_RELEASE (R359). PAGES with OP 1 scrubs and removes held pages. -/
  | pagesRelease (mb : Nat)
  /-- BIND (R362). The BIND command sets or clears a peer binding. -/
  | bind (mb : Nat)
  /-- TLBINV (R353). The TLBINV command invalidates an instance's cached translations. -/
  | tlbinv (mb : Nat)
  /-- PRIVATE (R359). The PRIVATE command sets the store-private range. -/
  | privateRange (mb : Nat)
  /-- RESET (R365). The RESET command stops an instance's work, advances its generation and clears its sequence store. -/
  | reset (mb : Nat)
  /-- REMOVE (R365). The REMOVE command resets an instance, scrubs its slice and frees it. -/
  | remove (mb : Nat)
  /-- PREEMPT (R297). The PREEMPT command stops fetching, and drains, re-queues or saves the instance's launches. -/
  | preempt (mb : Nat)
  /-- RESUME (R300). The RESUME command restores the saved images and resumes fetching. -/
  | resume (mb : Nat)
  /-- SECQ (R462). The SECQ command returns the security status, signature index and variant. -/
  | secq (mb : Nat)
  /-- EVIDENCE (R452). The EVIDENCE command returns a signed attestation record for a nonce. -/
  | evidence (mb : Nat)
  /-- ENROLL (R450). The ENROLL command draws new XMSS secrets and starts key generation. -/
  | enroll (mb : Nat)
  /-- KEYGEN_DONE (R450). The hash engine finishes the root, and the store is marked enrolled and the public key returned. -/
  | keygenDone (mb : Nat)
  /-- CERTW (R462). The CERTW command writes certificate-chain bytes to flash. -/
  | certw (mb : Nat)
  /-- CERTR (R462). The CERTR command reads certificate-chain bytes. -/
  | certr (mb : Nat)
  /-- LICADD (R455). The LICADD command verifies and installs a licence. -/
  | licadd (mb : Nat)
  /-- LICDEL (R455). The LICDEL command clears a licence record. -/
  | licdel (mb : Nat)
  /-- NONCE (R446). The NONCE command returns a fresh 32-byte nonce for tokens. -/
  | nonce (mb : Nat)
  /-- LCS_DEPLOYED (R446). LCS moves the life cycle from PROVISIONED to DEPLOYED. -/
  | lcsDeployed (mb : Nat)
  /-- LCS_DEBUG (R446). LCS with a debug token enters DEBUG, zeroises the key store and advances DEBUGCNT. -/
  | lcsDebug (mb : Nat)
  /-- LCS_RETURN (R446). LCS with a return token moves from DEBUG to PROVISIONED. -/
  | lcsReturn (mb : Nat)
  /-- LCS_RETIRED (R446). LCS with a retire token moves to RETIRED. -/
  | lcsRetired (mb : Nat)
  /-- GCLR (R458). The GCLR command clears LOCKED when no Gale source is active. -/
  | gclr (mb : Nat)
  /-- MODQ (R496). The MODQ command returns module voltage, current, battery and temperatures. -/
  | modq (mb : Nat)
  /-- CALX (R496). The CALX command exports half of the stored calibration block. -/
  | calx (mb : Nat)
  /-- CALW (R497). The CALW command fills the calibration write buffer and replaces a half. -/
  | calw (mb : Nat)
  /-- CALCOMMIT (R497). The CALCOMMIT command checks the buffer and programs the calibration block. -/
  | calcommit (mb : Nat)
  /-- LOCATE (R496). The LOCATE command turns the locate light on or off. -/
  | locate (mb : Nat)
  /-- GENERATION_HOLD_EXPIRY (R363). The 1 ms since an instance's last generation advance passes, and the held generation advance takes place. -/
  | generationHoldExpiry (inst : Nat)
  /-- CAD_IN_EDGE (R304). A rising edge at CAD_IN is counted as a beat or as a glitch. -/
  | cadInEdge
  /-- CADENCE_SYMBOL (R305). A received cadence symbol sets the beat counter if it is newer, and is re-sent. -/
  | cadenceSymbol (link hops leader : Nat) (beat : BitVec 64)
  /-- SWBEAT (R304). A 64-bit write of CAD.SWBEAT counts a beat if its value exceeds the counter. -/
  | swbeat (src : Nat) (v : BitVec 64)
  /-- CAD_BEAT_PRESET (R302). A write of CAD.BEAT with no source selected presets the beat counter. -/
  | cadBeatPreset (src : Nat) (v : BitVec 64)
  /-- CAD_BEAT_READ (R303). A read of CAD.BEAT latches CAD.PHASE. -/
  | cadBeatRead (src : Nat)
  /-- CAD_SOURCE_CHANGE (R304). A write that changes CAD.CFG.SRC keeps the counter and restarts the loss timer. -/
  | cadSourceChange (src : Nat) (v : BitVec 32)
  /-- CAD_CLR (R314). A write of CAD.CTRL.CLR clears SNAPSKIP, GLITCH and CAD.LATE. -/
  | cadClr (src : Nat) (v : BitVec 32)
  /-- CADENCE_LOST (R311). No beat arrives within 2 × PERIOD, or RXLINK goes down, so LOST is set and events are written. -/
  | cadenceLost
  /-- FLIT_RECEIVED (R373). An Aeldon data or control flit is checked, accepted, discarded or NAKed, and its ACK and credits applied. -/
  | flitReceived (link : Nat) (flit : RxFlit)
  /-- REPLAY_TIMEOUT (R373). No ACK progress for 2 µs makes the sender resend from its oldest unacknowledged flit. -/
  | replayTimeout (port : Nat)
  /-- CREDIT_STALL (R375). A flit that has waited 10 ms for a credit raises a link-stall event. -/
  | creditStall (link vc : Nat)
  /-- WIDTH_REQUEST (R372). A width-request control message is answered, and both ends switch width. -/
  | widthRequest (link : Nat) (mask : BitVec 4)
  /-- GOING_DOWN (R372). A going-down control message from a neighbour is received. -/
  | goingDown (link : Nat) (reason : BitVec 8)
  /-- LANE_FAILURE (R377). A lane loses lock or exceeds uncorrectable codewords, and the link narrows. -/
  | laneFailure (link lane : Nat)
  /-- LANE_RETRAINED (R377). A failed lane finishes retraining, and the link widens again or the lane is fenced. -/
  | laneRetrained (link lane : Nat) (good : Bool)
  /-- LINK_TRAINING_RETRY (R369). Every 100 ms a down, enabled link tries to train again. -/
  | linkTrainingRetry (link : Nat)
  /-- LINK_TRAINED (R369). A link finishes training, learns its peer and enters route choice. -/
  | linkTrained (link : Nat) (lanes : BitVec 4) (peer : BitVec 12) (credits : Nat)
  /-- AELDON_LINK_DOWN (R378). A link goes down, and its router rejects buffered requests and reroutes waiting packets. -/
  | aeldonLinkDown (link : Nat)
  /-- LINK_REPORTED_DOWN (R378). A link that has not returned within 1 s is reported down. -/
  | linkReportedDown (link : Nat)
  /-- PACKET_ROUTE (R379). A router delivers or forwards a packet, or answers or drops an unroutable or expired one. -/
  | packetRoute (arrival : Option Nat) (residence : Nat) (p : Packet)
  /-- WRITE (R385). An inbound WRITE is checked and performed at the home, or held as a batch's final flag. -/
  | write (p : Packet)
  /-- READ (R384). An inbound READ is checked and answered with RDATA. -/
  | read (p : Packet)
  /-- ATOMIC (R388). An inbound ATOMIC is deduplicated, or performed at the home and recorded, and answered with ARES. -/
  | atomic (p : Packet)
  /-- CLOSE (R386). An inbound CLOSE sets a batch's count for the tracker entry. -/
  | close (p : Packet)
  /-- WACK (R384). A WACK reaches the source and acknowledges a remote write as landed. -/
  | wack (p : Packet)
  /-- RDATA (R384). An RDATA reaches the source and its bytes land, poisoned if so marked. -/
  | rdata (p : Packet)
  /-- ARES (R387). An ARES reaches the source and delivers the atomic result. -/
  | ares (p : Packet)
  /-- REJECT (R389). A REJECT reaches the source, which resends or ends the request by its status. -/
  | reject (p : Packet)
  /-- REQUEST_TIMEOUT (R389). A request draws no response within 2 ms and is resent or ended. -/
  | requestTimeout (txid : Nat)
  /-- ATOMIC_OUTCOME_UNKNOWN (R388). No ARES arrives within 10 ms of the first send, so the atomic completes outcome-unknown. -/
  | atomicOutcomeUnknown (txid : Nat)
  /-- BUSY_RESEND (R385). 2 µs after a busy REJECT, the source resends the request. -/
  | busyResend (txid : Nat)
  /-- BATCH_ENTRY_TIMEOUT (R385). A batch-tracker entry idle for 10 ms is freed, and its held final flag rejected batch-incomplete. -/
  | batchEntryTimeout (key : Nat)
  /-- DEDUP_ENTRY_EXPIRY (R388). A deduplication entry expires 10 ms after its atomic was performed. -/
  | dedupEntryExpiry (src txid : Nat)
  /-- COLL_ENABLE (R390). A write of AEL.COLL CTRL.EN enables a collective context. -/
  | collEnable (src c : Nat) (v : BitVec 32)
  /-- COLL_RUN_START (R390). The trigger word and beat condition are met, and a collective run starts. -/
  | collRunStart (c : Nat)
  /-- READY_TOKEN (R391). A ready token from NEXT arrives, and the rank sends its chunk for the step. -/
  | readyToken (c : Nat)
  /-- COLL_CHUNK (R391). A collective chunk arrives and is combined into or copied to the local buffer. -/
  | collChunk (c : Nat) (data : List (BitVec 8))
  /-- COLL_STEP_TIMEOUT (R392). A step that waits 10 ms ends the run as failed. -/
  | collStepTimeout (c : Nat)
  /-- EDDY_FLIT (R396). A die-to-die Eddy flit is corrected, accepted or discarded with NAK, delivering its messages. -/
  | eddyFlit (bundle dir : Nat) (granules : List (BitVec 144))
  /-- BUNDLE_FENCE (R402). A bundle is fenced in operation and its flits handed over to the remaining bundles. -/
  | bundleFence (bundle : Nat)
  /-- D2D_FENCE (R408). A write of D2D.FENCE.GO fences a bundle. -/
  | d2dFence (src : Nat) (v : BitVec 32)
  /-- BRIDGE_SEGMENT_FENCE (R403). A bridge segment is taken out of use, fencing the bridge below 8 segments. -/
  | bridgeSegmentFence (die seg : Nat)
  /-- FOEHN_UPDATE (R415). Every 10 µs, Foehn predicts power and sets each sector's power choice within the limits. -/
  | foehnUpdate (sense : Sense) (estMw : Nat) (ampsMa : List Nat)
  /-- CORRECTION_FACTOR (R415). Every 1 ms, Foehn computes the correction factor k and judges agreement. -/
  | correctionFactor (measMw estMw : Nat)
  /-- DIVERGED (R416). Ten consecutive disagreeing windows set DIVERGED and floor hold. -/
  | diverged
  /-- FLOOR_HOLD_RELEASE (R416). 100 consecutive agreeing windows release floor hold and clear DIVERGED. -/
  | floorHoldRelease
  /-- UNATTAINABLE_CLEAR (R415). 100 ms with the limit attainable clear UNATTAINABLE. -/
  | unattainableClear
  /-- PEAK_EXCEEDED (R417). The 1 ms average of M exceeds PEAK, and clocks are lowered. -/
  | peakExceeded (measMw : Nat)
  /-- CLOCK_CHANGE (R410). An ordered sector clock change takes effect, with the voltage stepped first on a rise. -/
  | clockChange (sector : Nat)
  /-- SECTOR_GATE (R412). A write of FOEHN.SECTOR.GATE = 1 drains and gates a sector. -/
  | sectorGate (src n : Nat) (v : BitVec 32)
  /-- SECTOR_UNGATE (R412). A write of FOEHN.SECTOR.GATE = 0 brings the sector's cores up. -/
  | sectorUngate (src n : Nat) (v : BitVec 32)
  /-- FOEHN_CLR (R424). A write of FOEHN.CTRL.CLR clears DROOPCNT and ENERGY. -/
  | foehnClr (src : Nat) (v : BitVec 32)
  /-- THERMAL_SAMPLE (R418). Every 50 µs, each sensor is sampled and the sector's thermal ceiling computed. -/
  | thermalSample (sensor : Nat) (temp : BitVec 16)
  /-- PRE_TRIP_EXIT (R420). After 1 ms at 108 °C or less, the sector leaves pre-trip throttle. -/
  | preTripExit (sector : Nat)
  /-- SENSOR_FAILED (R419). A sensor fails its self-check and is marked FAIL. -/
  | sensorFailed (sensor : Nat)
  /-- SQUALL (R422). A reading at 115 °C stops the clocks, writes the trip record, asserts THERMTRIP_N and drops the rails. -/
  | squall (sensor : Nat) (temp : BitVec 16)
  /-- THERM_CLR (R425). A write of THERM.CTRL.CLR sets every PEAK to the current TEMP. -/
  | thermClr (src : Nat) (v : BitVec 32)
  /-- DROOP (R421). The core rail falls below the droop threshold, and the sector's clock periods are stretched. -/
  | droop (rail : Rail)
  /-- ERR_FENCE (R437). A write of ERR.FCTRL.GO fences the unit in ERR.FUNIT, with an optional drain. -/
  | errFence (src : Nat) (v : BitVec 32)
  /-- UNIT_FENCED (R439). A unit is fenced automatically on its cause, and its recovery proceeds. -/
  | unitFenced (unit : BitVec 32) (failure : UnitFailure)
  /-- PACKAGE_FATAL (R441). A package-fatal error stops every core and completes every fetched entry with the package-fatal status. -/
  | packageFatal (unit : BitVec 32)
  /-- COUNTER_SATURATED (R442). A counter saturates and may raise a counter-saturated event. -/
  | counterSaturated (off : Nat)
  /-- COUNTER_LOW_READ (R444). A read of the low half of a 64-bit counter latches its high half. -/
  | counterLowRead (src : Nat) (read : BarRead)
  /-- GALE_DETECTION (R457). A Gale source is detected, a tamper-log entry is written and its level applied. -/
  | galeDetection (source : Nat) (unpowered : Bool)
  /-- FIRMWARE_INTEGRITY_CHECK (R456). Every 1 s, the PRM rechecks the digest of its running firmware against M1. -/
  | firmwareIntegrityCheck (running : List (BitVec 8))
  /-- COLD_START (R464). With the rails up and PERST_N released, a cold start begins its steps. -/
  | coldStart (inputs : StartInputs)
  /-- WARM_RESET (R464). A PERST_N or RST_N assertion or BOOT.CTRL.WARM begins a warm reset. -/
  | warmReset (pinHeld : Bool) (inputs : StartInputs)
  /-- START_STEP_DONE (R465). A step of the start sequence completes and the next begins, or the start fails. -/
  | startStepDone (r : StepReport)
  /-- FUSE_SVN (R472). After READY, the PRM blows anti-rollback fuses up to the image's SVN. -/
  | fuseSvn
  /-- ARM (R474). A write of BOOT.STAGE.ARM starts verification of the staged image. -/
  | arm (src : Nat) (v : BitVec 32)
  /-- VERIFY_DONE (R474). Staged-image verification ends in ARMED or REJECTED. -/
  | verifyDone
  /-- STAGE_ERASE (R473). A write of BOOT.STAGE.ERASE erases the staging area. -/
  | stageErase (src : Nat) (v : BitVec 32)
  /-- STAGE_ERASE_DONE (R473). The staging-area erase finishes, and waiting writes proceed. -/
  | stageEraseDone
  /-- BOOT_RECOVER (R475). A write of BOOT.CTRL.RECOVER requests recovery mode at the next start. -/
  | bootRecover (src : Nat) (v : BitVec 32)
  /-- BIST_GO (R478). A write of BIST.CTRL.GO submits a self-test request, or refuses it. -/
  | bistGo (src : Nat) (v : BitVec 32)
  /-- SCAN_DONE (R479). The scan of a core-logic test completes, its signatures are compared and failing cores fenced. -/
  | scanDone (failed : List (Nat × Nat))
  /-- BIST_DONE (R482). A self-test request ends, and its result event is written. -/
  | bistDone (fails : Nat) (us : Nat)
  /-- PERS_DEFAULTS (R508). A write of PERS.CTRL.DEFAULTS returns the persistent fields to their reset values. -/
  | persDefaults (src : Nat) (v : BitVec 32)
  /-- REGISTER_WRITE (R505). A write to a register that has no row of its own updates its fields, or is discarded. -/
  | registerWrite (src off size : Nat) (v : BitVec 64)
  /-- PWR_EN_ASSERT (R489). PWR_EN is asserted and the main rails ramp up to PWR_GOOD. -/
  | pwrEnAssert
  /-- PWR_EN_DEASSERT (R489). PWR_EN is deasserted or VIN leaves its range, and the main rails go down. The operand is VIN in mV where VIN is the cause. -/
  | pwrEnDeassert (vinMv : Option Nat)
  /-- VIN_UP (R489). VIN rises above lockout, and the standby rail and sideband come up. -/
  | vinUp (vinMv : Nat)
  /-- PRSNT_N_BREAK (R490). PRSNT_N breaks with the rails up, and going-down messages are sent. -/
  | prsntNBreak
  /-- MCTP_CONTROL (R498). An MCTP control command received on the sideband is answered. -/
  | mctpControl (cmd : BitVec 8) (data : List (BitVec 8))
  /-- PLDM_COMMAND (R499). A PLDM Type 0 or Type 2 request received on the sideband is answered. -/
  | pldmCommand (ty cmd : BitVec 8) (data : List (BitVec 8))
  /-- PLATFORM_EVENT_MESSAGE (R499). A state-sensor change is sent as a PLDM PlatformEventMessage, and ALERT_N is raised. -/
  | platformEventMessage (sensor : Nat)
  /-- VDM_STATUS (R500). The vendor-defined STATUS message returns the status registers. -/
  | vdmStatus
  /-- VDM_EVIDENCE (R500). The vendor-defined EVIDENCE message returns instance 0's evidence record. -/
  | vdmEvidence (nonce : List (BitVec 8))
  /-- VDM_ERASE (R500). The vendor-defined ERASE message erases the staging area. -/
  | vdmErase
  /-- VDM_WRITE (R500). The vendor-defined WRITE message writes staging bytes. -/
  | vdmWrite (off : Nat) (data : List (BitVec 8))
  /-- VDM_ARM (R500). The vendor-defined ARM message verifies the staged image. -/
  | vdmArm
  /-- VDM_WARM (R500). The vendor-defined WARM message starts a warm reset. -/
  | vdmWarm
  /-- VDM_RECOVER (R500). The vendor-defined RECOVER message sets BOOT.CTRL.RECOVER. -/
  | vdmRecover
  /-- LOGREAD (R500). The vendor-defined LOGREAD message returns 8 error-log records. -/
  | logread (index : BitVec 32)
  /-- VDM_LOCATE (R500). The vendor-defined LOCATE message sets the locate light. -/
  | vdmLocate (on : Bool)
  /-- DROOP_STRETCH_END (R421). After the core rail has been above the droop threshold for 16 cycles, the sector's clock stretch ends. -/
  | droopStretchEnd (sector : Nat)
  /-- GALE_SOURCE_CLEARED (R458). A Gale source stops being detected and its ACTIVE bit in SEC.GALESTAT clears, after which GCLR may be accepted. -/
  | galeSourceCleared (source : Nat)
  /-- DATA_LINK_LAYER_UP (R495). The PCIe Data Link Layer becomes active; ALERT_N is released for that cause and the host-link state sensor changes, while the port stays stopped until PERST_N. -/
  | dataLinkLayerUp (width rate : BitVec 2) (flit : Bool)
  /-- HOT_SWAP_TRIP (R488). Input current above 110 A sustained for 1 ms trips the module's hot-swap controller. -/
  | hotSwapTrip
  /-- CONFIGURATION_REQUEST (R319). The endpoint answers a PCIe configuration read or write, for example one that sets AtomicOp Requester Enable in Device Control 2. -/
  | configurationRequest (off : Nat) (write : Bool) (v : BitVec 32)
  /-- ENTDAA (R498). The sideband I3C target takes a dynamic address in response to the controller's ENTDAA, using a provisional ID from SEC.SERIAL. -/
  | entdaa (addr : BitVec 7)
  /-- ACK_REPORT_TIMER (R373). When 200 ns (Aeldon) or 100 ns (Eddy) pass without an ACK report, the receiver sends a fresh ACK. -/
  | ackReportTimer (port : Nat)
  /-- MAILBOX_COMMAND_END (R355). A long-running mailbox command (GRANT, REVOKE, PAGES release, REMOVE, CERTW, CALCOMMIT) finishes its work, writes its response and MB.DONE, and clears BUSY. -/
  | mailboxCommandEnd (mb : Nat)
  /-- RECALIBRATION_WINDOW_END (R264). A channel's PHY recalibration window of at most 1.5 µs ends, and the requests queued for that channel resume service. -/
  | recalibrationWindowEnd (stack chan : Nat)
  /-- RESET_PIN_RELEASE (R464). Release of an asserted PERST_N or RST_N with the rails up sets t0 of a warm reset and begins its start steps. -/
  | resetPinRelease (inputs : StartInputs)
  deriving DecidableEq, Repr

end Sys2Proof
end

