-- ==== Sys2Proof/Decode.lean ====
section
/-! DEFINITION. The table of commands gives no row any bits: a command reaches the block as a register access, a message or an
event, and no word spells one. -/

namespace Sys2Proof

/-- The command that a word spells by the bits of the table: none, since no row has bits. -/
def decodeTableWord (_nbits _w : Nat) : Option Instr := none

end Sys2Proof
end

