-- ==== Sys2Proof/Machine/Bits.lean ====
section
/-! DEFINITION. Bit fields, byte order and the sparse sorted map. -/

namespace Sys2Proof.Machine
open Sys2Proof

/-- Bits [lo + n - 1 : lo] of a number. -/
def fld (w lo n : Nat) : Nat := (w >>> lo) % 2 ^ n

/-- Bit i of a number. -/
def bit (w i : Nat) : Bool := w.testBit i

/-- The two's-complement value of the low n bits. -/
def sext (n v : Nat) : Int :=
  let u := v % 2 ^ n
  if n = 0 then 0 else if u < 2 ^ (n - 1) then (u : Int) else (u : Int) - (2 ^ n : Nat)

/-- The low n bits of an integer in two's complement. -/
def wrap (n : Nat) (x : Int) : Nat := (x % (2 ^ n : Nat)).toNat

/-- Fields [lo + n - 1 : lo] of a number replaced by the low n bits of v. -/
def setFld (w lo n v : Nat) : Nat := w - (fld w lo n) * 2 ^ lo + (v % 2 ^ n) * 2 ^ lo

/-- The little-endian bytes of a number, n of them (R112). -/
def leBytes : Nat → Nat → List Byte
  | 0, _ => []
  | n + 1, v => BitVec.ofNat 8 v :: leBytes n (v / 256)

/-- The number that little-endian bytes spell (R112). -/
def ofLe : List Byte → Nat
  | [] => 0
  | b :: bs => b.toNat + 256 * ofLe bs

/-- n bytes of a byte string from an offset, as a little-endian number; bytes past the end read 0. -/
def leAt (bs : List Byte) (off n : Nat) : Nat := ofLe ((bs.drop off).take n)

/-- The number of set bits among the low n bits. -/
def popc : Nat → Nat → Nat
  | 0, _ => 0
  | n + 1, v => v % 2 + popc n (v / 2)

/-- The number of binary digits of a number. -/
def bitLen (v : Nat) : Nat := if v = 0 then 0 else Nat.log2 v + 1

/-- The lowest set bit among the low n bits, or n. -/
def firstBit (n v : Nat) : Nat := ((List.range n).find? (fun i => v.testBit i)).getD n

/-- The bits of a mask that are set, in ascending order. -/
def bitsOf (n v : Nat) : List Nat := (List.range n).filter (fun i => v.testBit i)

/-- The mask of a list of bit numbers. -/
def maskOf (l : List Nat) : Nat := l.foldl (fun m i => m ||| 1 <<< i) 0

/-- The number x rounded down to a multiple of n. -/
def alignDown (x n : Nat) : Nat := x / n * n

/-- The value of a Bool as a bit. -/
def b2n (b : Bool) : Nat := if b then 1 else 0

/-! ## The sparse map -/

/-- The entry of a key. -/
def NMap.find {α : Type} : NMap α → Nat → Option α
  | [], _ => none
  | (j, x) :: m, k => if j = k then some x else NMap.find m k

/-- The entry of a key, or a default. -/
def NMap.at {α : Type} (m : NMap α) (k : Nat) (d : α) : α := (NMap.find m k).getD d

/-- The map with one entry set, keys kept rising. -/
def NMap.ins {α : Type} : NMap α → Nat → α → NMap α
  | [], k, x => [(k, x)]
  | (j, y) :: m, k, x =>
    if k < j then (k, x) :: (j, y) :: m else if k = j then (k, x) :: m else (j, y) :: NMap.ins m k x

/-- The map without the entry of a key. -/
def NMap.del {α : Type} : NMap α → Nat → NMap α
  | [], _ => []
  | (j, y) :: m, k => if j = k then NMap.del m k else (j, y) :: NMap.del m k

/-- The map with an entry set, none being kept that equals the default, so that equal maps are equal data. -/
def NMap.put {α : Type} [DecidableEq α] (d : α) (m : NMap α) (k : Nat) (x : α) : NMap α :=
  if x = d then NMap.del m k else NMap.ins m k x

/-- The map with the entry of a key changed by a function of its value. -/
def NMap.upd {α : Type} [DecidableEq α] (d : α) (m : NMap α) (k : Nat) (f : α → α) : NMap α :=
  NMap.put d m k (f (NMap.at m k d))

/-- The map without the entries whose keys a test picks. -/
def NMap.drop {α : Type} (m : NMap α) (p : Nat → Bool) : NMap α := m.filter (fun e => !p e.1)

/-- A run of bytes written into a byte map from an offset on. -/
def NMap.putBytes (d : Byte) (m : NMap Byte) (off : Nat) : List Byte → NMap Byte
  | [] => m
  | b :: bs => NMap.putBytes d (NMap.put d m off b) (off + 1) bs

/-- n bytes of a byte map from an offset on. -/
def NMap.bytes (d : Byte) (m : NMap Byte) (off n : Nat) : List Byte :=
  (List.range n).map (fun i => NMap.at m (off + i) d)

/-- A number added to a rising list without repeats. -/
def insNat : List Nat → Nat → List Nat
  | [], k => [k]
  | j :: l, k => if k < j then k :: j :: l else if k = j then j :: l else j :: insNat l k

/-- The list with the i-th element replaced. -/
def setNth {α : Type} : List α → Nat → α → List α
  | [], _, _ => []
  | _ :: l, 0, x => x :: l
  | y :: l, n + 1, x => y :: setNth l n x

/-- The least and the first of a list by a key: the element with the smallest key, the earliest among equals. -/
def argMin {α : Type} (f : α → Nat) : List α → Option α
  | [] => none
  | x :: l => match argMin f l with
    | none => some x
    | some y => if f x ≤ f y then some x else some y

end Sys2Proof.Machine
end

