-- ==== Sys2Proof/Machine/Codes.lean ====
section
/-! DEFINITION. The 144/128 granule code (R427, R428) and the CRCs of the links and of tensor blocks. -/

namespace Sys2Proof.Machine
open Sys2Proof

/-- The product of two elements of GF(16) modulo x^4 + x + 1 (R427). -/
def gfMul (a b : Nat) : Nat :=
  let p := (List.range 4).foldl (fun acc i => if a.testBit i then acc ^^^ (b <<< i) else acc) 0
  let p := if p.testBit 6 then p ^^^ (0x13 <<< 2) else p
  let p := if p.testBit 5 then p ^^^ (0x13 <<< 1) else p
  if p.testBit 4 then p ^^^ 0x13 else p

/-- Q(x, y) of R427. -/
def gfQ (x y : Nat) : Nat := gfMul x x ^^^ gfMul x y ^^^ gfMul 8 (gfMul y y)

/-- The four column symbols of a position packed as a syndrome: positions 0 to 31 data, 32 to 35 check (R427). -/
def codeColumn (k : Nat) : Nat :=
  let pack := fun a b c d => a + 16 * b + 256 * c + 4096 * d
  if k < 32 then
    let x := k % 16
    let y := 2 + k / 16
    pack 1 x y (gfQ x y)
  else match k with
    | 32 => pack 0 0 0 1
    | 33 => pack 1 0 0 0
    | 34 => pack 1 1 0 1
    | _ => pack 1 0 1 8

/-- e times a column, packed as a syndrome. -/
def codeScaled (e k : Nat) : Nat :=
  let c := codeColumn k
  (List.range 4).foldl (fun acc j => acc + gfMul e (fld c (4 * j) 4) * 16 ^ j) 0

/-- The syndrome of 36 symbols: 128 data bits and 16 check bits above them (R427). -/
def syndrome (w : Nat) : Nat := (List.range 36).foldl (fun acc k => acc ^^^ codeScaled (fld w (4 * k) 4) k) 0

/-- The check bits of 128 data bits: the one choice with syndrome 0. The check columns are solved symbol by
symbol: c2 alone meets symbol 1, c3 alone symbol 2 (R427). -/
def checkBits (d : Nat) : Nat :=
  let s := syndrome (d % 2 ^ 128)
  let s0 := fld s 0 4
  let s1 := fld s 4 4
  let s2 := fld s 8 4
  let s3 := fld s 12 4
  let c2 := s1
  let c3 := s2
  let c1 := s0 ^^^ c2 ^^^ c3
  let c0 := s3 ^^^ c2 ^^^ gfMul c3 8
  c0 + 16 * c1 + 256 * c2 + 4096 * c3

/-! ## RS(544,514) over 10-bit symbols (R368; PRESUMED, log 135: the field and the generator of IEEE 802.3 clause 91) -/

/-- The product of two elements of GF(1024) modulo x^10 + x^3 + 1. -/
def rsMul (a b : Nat) : Nat :=
  ((List.range 10).foldl (fun (acc : Nat × Nat) i =>
    (if b.testBit i then acc.1 ^^^ acc.2 else acc.1, if acc.2 < 512 then 2 * acc.2 else (2 * acc.2) ^^^ 0x409)) (0, a)).1

/-- The 30 coefficients of the generator polynomial below its leading one, highest first: its roots are the powers 0 to 29 of 2. -/
def rsGenerator : List Nat :=
  ((List.range 30).foldl (fun (acc : List Nat × Nat) _ =>
    (List.zipWith (fun x y => x ^^^ y) (acc.1 ++ [0]) (0 :: acc.1.map (fun c => rsMul acc.2 c)), rsMul acc.2 2)) ([1], 1)).1.tail

/-- The 30 parity symbols of a message: the remainder of the division by the generator. -/
def rsParity (message : List Nat) : List Nat :=
  message.foldl (fun (r : List Nat) m =>
    let f := m ^^^ r.headD 0
    List.zipWith (fun x g => x ^^^ rsMul f g) (r.tail ++ [0]) rsGenerator) (List.replicate 30 0)

/-- The 544 symbols of the codeword of 5,140 message bits. -/
def codewordOf (bits : Nat) : List Nat :=
  let m := (List.range 514).map (fun j => fld bits (10 * j) 10)
  m ++ rsParity m

/-- Symbols striped across the active lanes, one after the other. -/
def stripe (lanes : List Nat) (symbols : List Nat) : List (Nat × List (BitVec 10)) :=
  (List.range lanes.length).map (fun k =>
    (lanes.getD k 0, ((List.range symbols.length).filter (fun j => j % lanes.length = k)).map (fun j => BitVec.ofNat 10 (symbols.getD j 0))))

/-- The syndrome of a poisoned granule (R428). -/
def synPoison : Nat := 0x1FFF

/-- The verdict on a stored granule (R428). -/
inductive Verdict where
  | clean
  | poisoned
  | corrected (pos : Nat) (e : Nat)
  | uncorrectable
  deriving DecidableEq, Repr

/-- The decoding of a granule by its syndrome, first row that applies (R428). -/
def verdict (syn : Nat) : Verdict :=
  if syn = 0 then .clean
  else if syn = synPoison then .poisoned
  else
    match ((List.range 36).flatMap (fun k => (List.range 15).map (fun e => (k, e + 1)))).find? (fun p => codeScaled p.2 p.1 = syn) with
    | some (k, e) => .corrected k e
    | none => .uncorrectable

/-- A reflected CRC over bytes: polynomial, register so far, bytes. -/
def crcReflected (poly : Nat) : Nat → List Byte → Nat
  | r, [] => r
  | r, b :: bs =>
    let r1 := (List.range 8).foldl (fun r _ => if r % 2 = 1 then (r / 2) ^^^ poly else r / 2) (r ^^^ b.toNat)
    crcReflected poly r1 bs

/-- CRC-32C, Castagnoli: initial and final complement (R138). -/
def crc32c (bs : List Byte) : Nat := crcReflected 0x82F63B78 0xFFFFFFFF bs ^^^ 0xFFFFFFFF

/-- CRC-32 of IEEE 802.3 (R371). -/
def crc32 (bs : List Byte) : Nat := crcReflected 0xEDB88320 0xFFFFFFFF bs ^^^ 0xFFFFFFFF

end Sys2Proof.Machine
end

