-- ==== Sys2Proof/Machine/Formats.lean ====
section
/-! DEFINITION. Number formats and roundings of the chapter "Number formats and exact reduction": decoding to an exact
value, rounding an exact value, FP32 arithmetic and every conversion. -/

namespace Sys2Proof.Machine
open Sys2Proof

/-- A floating-point format of R111: field widths, bias, and what stands above the largest finite value. -/
structure FFmt where
  ebits : Nat
  mbits : Nat
  bias : Nat
  /-- infinity exists -/
  inf : Bool
  /-- NaN exists -/
  nan : Bool
  /-- encoding of the largest finite value -/
  maxFin : Nat
  /-- canonical NaN -/
  cnan : Nat
  deriving DecidableEq, Repr

def fmtF32 : FFmt := ⟨8, 23, 127, true, true, 0x7F7FFFFF, 0x7FC00000⟩
def fmtBf16 : FFmt := ⟨8, 7, 127, true, true, 0x7F7F, 0x7FC0⟩
def fmtF16 : FFmt := ⟨5, 10, 15, true, true, 0x7BFF, 0x7E00⟩
def fmtE5m2 : FFmt := ⟨5, 2, 15, true, true, 0x7B, 0x7E⟩
def fmtE4m3 : FFmt := ⟨4, 3, 7, false, true, 0x7E, 0x7F⟩
def fmtE3m2 : FFmt := ⟨3, 2, 3, false, false, 0x1F, 0x1F⟩
def fmtE2m3 : FFmt := ⟨2, 3, 1, false, false, 0x1F, 0x1F⟩
def fmtE2m1 : FFmt := ⟨2, 1, 1, false, false, 0x7, 0x7⟩

/-- The exact value of an element: NaN, infinity, or (-1)^neg · m · 2^e. -/
inductive FVal where
  | nan
  | inf (neg : Bool)
  | fin (neg : Bool) (m : Nat) (e : Int)
  deriving DecidableEq, Repr

/-- The value an encoding stands for (R111). -/
def FFmt.decode (f : FFmt) (b : Nat) : FVal :=
  let neg := bit b (f.ebits + f.mbits)
  let ex := fld b f.mbits f.ebits
  let ma := fld b 0 f.mbits
  if f.inf && ex = 2 ^ f.ebits - 1 then (if ma = 0 then .inf neg else .nan)
  else if f.nan && !f.inf && ex = 2 ^ f.ebits - 1 && ma = 2 ^ f.mbits - 1 then .nan
  else if ex = 0 then .fin neg ma (1 - (f.bias : Int) - f.mbits)
  else .fin neg (2 ^ f.mbits + ma) ((ex : Int) - f.bias - f.mbits)

/-- The sign bit of an encoding. -/
def FFmt.signBit (f : FFmt) (neg : Bool) : Nat := if neg then 2 ^ (f.ebits + f.mbits) else 0

/-- How a rounding operation rounds (R119); stochastic rounding carries its 16 random bits (R120). -/
inductive Rnd where
  | near | zero | stoch (r : Nat)
  deriving DecidableEq, Repr

/-- Whether the part below the grid rounds the kept part up: kept part q, rest over 2^sh (R119, R120). -/
def Rnd.up (r : Rnd) (q rest sh : Nat) : Bool :=
  match r with
  | .near => if 2 * rest = 2 ^ sh then q % 2 = 1 else 2 * rest > 2 ^ sh
  | .zero => false
  | .stoch b => rest * 65536 / 2 ^ sh + b ≥ 65536

/-- An overflowing finite value (R122). -/
def FFmt.over (f : FFmt) (r : Rnd) (sat neg : Bool) : Nat :=
  if sat || !f.nan || r = .zero then f.signBit neg + f.maxFin
  else if f.inf then f.signBit neg + (2 ^ f.ebits - 1) * 2 ^ f.mbits
  else f.cnan

/-- A finite value m · 2^e rounded to the format (R119, R120, R122). -/
def FFmt.round (f : FFmt) (r : Rnd) (sat neg : Bool) (m : Nat) (e : Int) : Nat :=
  if m = 0 then f.signBit neg
  else
    let top : Int := (Nat.log2 m : Int) + e
    let emin : Int := 1 - (f.bias : Int)
    let g : Int := max top emin - f.mbits
    let sh : Int := g - e
    let q := if sh ≤ 0 then m * 2 ^ (-sh).toNat else m >>> sh.toNat
    let rest := if sh ≤ 0 then 0 else m % 2 ^ sh.toNat
    let up := sh > 0 && rest ≠ 0 && r.up q rest sh.toNat
    let q' := q + b2n up
    let enc : Int := (g + f.mbits + f.bias) * (2 ^ f.mbits : Nat) + q' - (2 ^ f.mbits : Nat)
    if enc.toNat > f.maxFin then f.over r sat neg else f.signBit neg + enc.toNat

/-- A value converted to the format by the rules of R122. -/
def FFmt.ofVal (f : FFmt) (r : Rnd) (sat : Bool) : FVal → Nat
  | .nan => f.cnan
  | .inf neg => if sat || !f.nan then f.signBit neg + f.maxFin
    else if f.inf then f.signBit neg + (2 ^ f.ebits - 1) * 2 ^ f.mbits else f.cnan
  | .fin neg m e => f.round r sat neg m e

/-! ## Exact values -/

/-- The signed integer that a finite value is at the exponent g, which is at most its own. -/
def scaleTo (neg : Bool) (m : Nat) (e g : Int) : Int :=
  let n : Int := (m * 2 ^ (e - g).toNat : Nat)
  if neg then -n else n

/-- The exact sum (R115, R116): NaN for opposite infinities, +0 for a zero of unlike signs or unlike operands. -/
def FVal.add : FVal → FVal → FVal
  | .nan, _ => .nan
  | _, .nan => .nan
  | .inf a, .inf b => if a = b then .inf a else .nan
  | .inf a, _ => .inf a
  | _, .inf b => .inf b
  | .fin a m e, .fin b n f =>
    if m = 0 ∧ n = 0 then .fin (a && b) 0 0
    else
      let g := min e f
      let t := scaleTo a m e g + scaleTo b n f g
      .fin (decide (t < 0)) t.natAbs g

/-- The value with its sign inverted. -/
def FVal.neg : FVal → FVal
  | .nan => .nan
  | .inf a => .inf (!a)
  | .fin a m e => .fin (!a) m e

/-- The exact product (R116: infinity times zero is NaN). -/
def FVal.mul : FVal → FVal → FVal
  | .nan, _ => .nan
  | _, .nan => .nan
  | .inf a, .inf b => .inf (a ^^ b)
  | .inf a, .fin b n _ => if n = 0 then .nan else .inf (a ^^ b)
  | .fin a m _, .inf b => if m = 0 then .nan else .inf (a ^^ b)
  | .fin a m e, .fin b n f => .fin (a ^^ b) (m * n) (e + f)

/-- Whether one value is less than another; NaN compares with nothing. -/
def FVal.lt : FVal → FVal → Bool
  | .nan, _ => false
  | _, .nan => false
  | .inf a, .inf b => a && !b
  | .inf a, _ => a
  | _, .inf b => !b
  | .fin a m e, .fin b n f => let g := min e f
    decide (scaleTo a m e g < scaleTo b n f g)

/-- Whether two values are equal; NaN equals nothing, and −0 equals +0 (R116). -/
def FVal.eq : FVal → FVal → Bool
  | .nan, _ => false
  | _, .nan => false
  | x, y => !x.lt y && !y.lt x

/-- Whether a value is zero. -/
def FVal.isZero : FVal → Bool
  | .fin _ 0 _ => true
  | _ => false

/-! ## FP32 arithmetic -/

/-- The value of an FP32 pattern. -/
def f32val (b : Nat) : FVal := fmtF32.decode b

/-- A value rounded to FP32, to nearest even (R115). -/
def f32of (v : FVal) : Nat := fmtF32.ofVal .near false v

def f32add (a b : Nat) : Nat := f32of ((f32val a).add (f32val b))
def f32sub (a b : Nat) : Nat := f32of ((f32val a).add (f32val b).neg)
def f32mul (a b : Nat) : Nat := f32of ((f32val a).mul (f32val b))
def f32fma (a b c : Nat) : Nat := f32of (((f32val a).mul (f32val b)).add (f32val c))

/-- min and max of R116: NaN gives the other operand, both NaN the canonical NaN, and −0 is below +0. -/
def f32min (a b : Nat) : Nat :=
  match f32val a, f32val b with
  | .nan, .nan => fmtF32.cnan
  | .nan, _ => b
  | _, .nan => a
  | x, y => if x.lt y then a else if y.lt x then b else if bit a 31 then a else b

def f32max (a b : Nat) : Nat :=
  match f32val a, f32val b with
  | .nan, .nan => fmtF32.cnan
  | .nan, _ => b
  | _, .nan => a
  | x, y => if y.lt x then a else if x.lt y then b else if bit a 31 then b else a

def f32abs (a : Nat) : Nat := a % 2 ^ 31
def f32neg (a : Nat) : Nat := a ^^^ 2 ^ 31

/-- A positive real known as q · 2^g with its rest below the grid: one more bit tells that something is left. -/
def sticky (q rest : Nat) : Nat := 2 * q + b2n (rest ≠ 0)

/-- The quotient n · 2^e / d to 80 bits, with a sticky bit. -/
def quot (n d : Nat) (e : Int) : Nat × Int :=
  let k := 80 + bitLen d
  let t := n * 2 ^ k
  (sticky (t / d) (t % d), e - k - 1)

/-- 1/x, correctly rounded (R115, R116). -/
def f32rcp (a : Nat) : Nat :=
  match f32val a with
  | .nan => fmtF32.cnan
  | .inf n => fmtF32.signBit n
  | .fin n 0 _ => f32of (.inf n)
  | .fin n m e => let (q, g) := quot 1 m (-e); f32of (.fin n q g)

/-- √x to 60 bits with a sticky bit: m · 2^e, made even in the exponent. -/
def rootOf (m : Nat) (e : Int) : Nat × Int :=
  let (m, e) := if e % 2 = 0 then (m, e) else (2 * m, e - 1)
  let t := m * 2 ^ 120
  let q := Nat.sqrt t
  (sticky q (t - q * q), e / 2 - 60 - 1)

def f32sqrt (a : Nat) : Nat :=
  match f32val a with
  | .nan => fmtF32.cnan
  | .inf n => if n then fmtF32.cnan else a
  | .fin _ 0 _ => a
  | .fin true _ _ => fmtF32.cnan
  | .fin false m e => let (q, g) := rootOf m e; f32of (.fin false q g)

/-- 1/√x: the root of the quotient 1/x, exact to 100 bits with stickies. -/
def f32rsqrt (a : Nat) : Nat :=
  match f32val a with
  | .nan => fmtF32.cnan
  | .inf n => if n then fmtF32.cnan else 0
  | .fin n 0 _ => f32of (.inf n)
  | .fin true _ _ => fmtF32.cnan
  | .fin false m e =>
    let (m, e) := if e % 2 = 0 then (m, e) else (2 * m, e - 1)
    -- √(2^160 / m) · 2^(-80) · 2^(-e/2)
    let t := 2 ^ 160 / m
    let q := Nat.sqrt t
    f32of (.fin false (sticky q (b2n (q * q * m ≠ 2 ^ 160))) (-(e / 2) - 80 - 1))

/-! ## Elementary functions

A fixed-point number of 200 fraction bits stands for a real; its error stays far below the distance of any result
from a rounding boundary (DEDUCED: R115 and R148 ask for correct rounding, and 200 bits decide every FP32 case). -/

/-- Fraction bits of the fixed-point reals. -/
def fxBits : Nat := 200

/-- The product of two fixed-point reals. -/
def fxMul (a b : Int) : Int := a * b / (2 ^ fxBits : Nat)

/-- ln 2 as a fixed-point real, by the series Σ 1/(k · 2^k). -/
def fxLn2 : Int :=
  (((List.range 220).map (fun i => (2 ^ (fxBits + 40)) / ((i + 1) * 2 ^ (i + 1)))).foldl (· + ·) 0 / 2 ^ 40 : Nat)

/-- e^x for |x| ≤ 1, by its power series. -/
def fxExpSmall (x : Int) : Int :=
  let rec go : Nat → Nat → Int → Int → Int
    | 0, _, _, acc => acc
    | n + 1, k, t, acc => let t' := fxMul t x / (k : Int); go n (k + 1) t' (acc + t')
  go 64 1 (2 ^ fxBits : Nat) (2 ^ fxBits : Nat)

/-- e^x for a fixed-point x: k and r with e^x = r · 2^k, r a fixed-point real. -/
def fxExp (x : Int) : Int × Int :=
  let k := x / fxLn2
  (fxExpSmall (x - k * fxLn2), k)

/-- The fixed-point real of a finite value (truncated below the last fraction bit). -/
def fxOf (neg : Bool) (m : Nat) (e : Int) : Int :=
  let sh := e + fxBits
  let n : Int := if sh ≥ 0 then (m * 2 ^ sh.toNat : Nat) else (m >>> (-sh).toNat : Nat)
  if neg then -n else n

/-- A positive fixed-point real times 2^k, as a value never taken for exact. -/
def fxVal (neg : Bool) (r : Int) (k : Int) : FVal := .fin neg (2 * r.toNat + 1) (k - fxBits - 1)

/-- 2^x, correctly rounded (R115, R116). -/
def f32exp2 (a : Nat) : Nat :=
  match f32val a with
  | .nan => fmtF32.cnan
  | .inf n => if n then 0 else a
  | .fin _ 0 _ => 0x3F800000
  | .fin n m e =>
    if (Nat.log2 m : Int) + e ≥ 8 then (if n then 0 else f32of (.inf false))
    else
      let x := fxOf n m e
      let k := x / (2 ^ fxBits : Nat)
      let fr := x % (2 ^ fxBits : Nat)
      if e ≥ -fxBits && fr = 0 then f32of (.fin false 1 k)
      else f32of (fxVal false (fxExpSmall (fxMul fr fxLn2)) k)

/-- atanh of a small fixed-point real y by its odd series, doubled: ln((1+y)/(1-y)). -/
def fxLnRatio (y : Int) : Int :=
  let y2 := fxMul y y
  let rec go : Nat → Nat → Int → Int → Int
    | 0, _, _, acc => acc
    | n + 1, k, t, acc => go n (k + 2) (fxMul t y2) (acc + t / (k : Int))
  2 * go 160 1 y 0

/-- log2 x, correctly rounded (R115, R116): x = z · 2^k with 1 ≤ z < 2 (3/4 ≤ z < 3/2 about 1, so that no leading
bits cancel). -/
def f32log2 (a : Nat) : Nat :=
  match f32val a with
  | .nan => fmtF32.cnan
  | .inf n => if n then fmtF32.cnan else a
  | .fin _ 0 _ => f32of (.inf true)
  | .fin true _ _ => fmtF32.cnan
  | .fin false m e =>
    let lg := Nat.log2 m
    if m = 2 ^ lg then
      let k : Int := (lg : Int) + e
      f32of (.fin (decide (k < 0)) k.natAbs 0)
    else
      -- z = m / 2^d with 3/4 ≤ z < 3/2
      let d := if 2 * m ≥ 3 * 2 ^ lg then lg + 1 else lg
      let k : Int := (d : Int) + e
      let num : Int := (m : Int) - (2 ^ d : Nat)
      let den : Int := (m : Int) + (2 ^ d : Nat)
      let y := num * (2 ^ fxBits : Nat) / den
      let l := fxLnRatio y
      let t := k * (2 ^ fxBits : Nat) + l * (2 ^ fxBits : Nat) / fxLn2
      f32of (fxVal (decide (t < 0)) (t.natAbs : Int) 0)

/-- The functions of opcodes 0x11, 0x21 and 0x29 by FN (R71, R115, R116). -/
def f32fn (fn a b c : Nat) : Nat :=
  match fn with
  | 0 => f32add a b
  | 1 => f32sub a b
  | 2 => f32mul a b
  | 3 => f32min a b
  | 4 => f32max a b
  | 5 => f32abs a
  | 6 => f32neg a
  | 7 => f32rcp a
  | 8 => f32rsqrt a
  | 9 => f32sqrt a
  | 10 => f32exp2 a
  | 11 => f32log2 a
  | _ => f32fma a b c

/-- The comparisons of `cmp` on FP32 (R71, R116). -/
def f32cmp (fn a b : Nat) : Bool :=
  let x := f32val a
  let y := f32val b
  match fn with
  | 0 => x.eq y
  | 1 => !x.eq y
  | 2 => x.lt y
  | 3 => x.lt y || x.eq y
  | 4 => y.lt x
  | 5 => y.lt x || x.eq y
  | _ => x = .nan || y = .nan

/-! ## Stochastic bits -/

/-- sr_mix of R121. -/
def srMix (z : BitVec 64) : BitVec 64 :=
  let z := z ^^^ (z >>> 31)
  let z := z * 0xD1B54A32D192ED03
  let z := z ^^^ (z >>> 29)
  let z := z * 0xAEF17502108EF2D9
  z ^^^ (z >>> 32)

/-- sr_bits of R121: 16 bits from seed, task, stream and element. -/
def srBits (seed : BitVec 64) (task stream elem : Nat) : Nat :=
  let z := seed ^^^ BitVec.ofNat 64 ((task % 2 ^ 32) * 2 ^ 32 + stream % 2 ^ 32)
  ((srMix (z + 0x9E3779B97F4A7C15 * BitVec.ofNat 64 (elem % 2 ^ 32 + 1))) >>> 48).toNat

/-! ## Conversions -/

/-- Size in bytes of a TYPE (R69); the reserved code has none. -/
def tySize : Nat → Nat
  | 0 | 1 | 4 => 4
  | 2 | 3 => 8
  | 5 | 6 | 0xB | 0xC => 2
  | 7 | 8 | 9 | 0xA => 1
  | 0xD => 16
  | 0xE => 32
  | _ => 0

/-- Whether a TYPE is an integer type, and whether it is signed. -/
def tyInt (ty : Nat) : Bool := ty < 4 || (0x9 ≤ ty && ty ≤ 0xC)
def tySigned (ty : Nat) : Bool := ty = 1 || ty = 3 || ty = 0xA || ty = 0xC

/-- The floating-point format of a TYPE. -/
def tyFmt : Nat → Option FFmt
  | 4 => some fmtF32
  | 5 => some fmtBf16
  | 6 => some fmtF16
  | 7 => some fmtE4m3
  | 8 => some fmtE5m2
  | _ => none

/-- Largest and smallest value of an integer TYPE. -/
def tyMax (ty : Nat) : Int := if tySigned ty then 2 ^ (8 * tySize ty - 1) - 1 else 2 ^ (8 * tySize ty) - 1
def tyMin (ty : Nat) : Int := if tySigned ty then -(2 ^ (8 * tySize ty - 1)) else 0

/-- The integer that the low bits of a value are by an integer TYPE. -/
def tyVal (ty v : Nat) : Int :=
  if tySigned ty then sext (8 * tySize ty) v else ((v % 2 ^ (8 * tySize ty) : Nat) : Int)

/-- An integer clamped to the range of a TYPE. -/
def tyClamp (ty : Nat) (x : Int) : Int := max (tyMin ty) (min (tyMax ty) x)

/-- Floating point to integer (R123). -/
def fToInt (r : Rnd) (ty : Nat) : FVal → Nat
  | .nan => 0
  | .inf n => wrap (8 * tySize ty) (if n then tyMin ty else tyMax ty)
  | .fin n m e =>
    let q := if e ≥ 0 then m * 2 ^ e.toNat else m >>> (-e).toNat
    let rest := if e ≥ 0 then 0 else m % 2 ^ (-e).toNat
    let up := rest ≠ 0 && r.up q rest (-e).toNat
    let i : Int := ((q + b2n up : Nat) : Int)
    wrap (8 * tySize ty) (tyClamp ty (if n then -i else i))

/-- `cvt`: destination TYPE, source TYPE, source bits (R122 to R124). -/
def convert (r : Rnd) (sat : Bool) (dst src v : Nat) : Nat :=
  match tyFmt src, tyFmt dst with
  | some f, some g => g.ofVal r sat (f.decode v)
  | some f, none => fToInt r dst (f.decode v)
  | none, some g => let i := tyVal src v; g.ofVal r sat (.fin (decide (i < 0)) i.natAbs 0)
  | none, none => let i := tyVal src v; wrap (8 * tySize dst) (if sat then tyClamp dst i else i)

end Sys2Proof.Machine
end

