-- ==== Sys2Proof/Machine/Operands.lean ====
section
/-! DEFINITION. Instruction words: fields of the five formats (R67, R68), which row of the opcode map a word belongs to
(R71), and the checks that make a word legal (R67 to R70, R79, R81, R83, R85, R101, R118, R119). -/

namespace Sys2Proof.Machine
open Sys2Proof

/-! ## Fields -/

def wOp (w : Nat) : Nat := fld w 0 8
def wKM (w : Nat) : Nat := fld w 8 3
def wD (w : Nat) : Nat := fld w 12 8
def wA (w : Nat) : Nat := fld w 20 8
def wB (w : Nat) : Nat := fld w 28 8
def wC (w : Nat) : Nat := fld w 36 8
def wBK (w : Nat) : Nat := fld w 44 2
def wCK (w : Nat) : Nat := fld w 46 2
def wTY (w : Nat) : Nat := fld w 48 4
def wFN (w : Nat) : Nat := fld w 52 4
def wRND (w : Nat) : Nat := fld w 56 3
def wSAT (w : Nat) : Bool := bit w 59
/-- FN and IMM of format I. -/
def iFN (w : Nat) : Nat := fld w 28 4
def iIMM (w : Nat) : Nat := fld w 32 32
/-- Fields of format M. -/
def mAM (w : Nat) : Nat := fld w 36 2
def mTY (w : Nat) : Nat := fld w 38 4
def mORD (w : Nat) : Nat := fld w 42 3
def mSC (w : Nat) : Nat := fld w 45 2
def mPL (w : Nat) : Nat := fld w 47 2
def mNR (w : Nat) : Bool := bit w 49
def mIMM (w : Nat) : Int := sext 13 (fld w 50 13)
def mS (w : Nat) : Bool := bit w 63
/-- Fields of format B. -/
def bN (w : Nat) : Bool := bit w 11
def bTGT (w : Nat) : Int := sext 26 (fld w 12 26)
def bRPC (w : Nat) : Int := sext 26 (fld w 38 26)

/-- The instruction rows of the table of operations. -/
inductive Row where
  | nop | br | jmp | call | exit | barGroup | waitGe | ctrRd | ctrSet | ctrAdd | mmaWait | rdsr
  | scalarInteger | scalarF32 | scalarIntegerImmediate | movHi
  | vectorInteger | vectorF32 | vectorIntegerImmediate | vectorF32Immediate
  | cvt | cmp | maskLogic | tally | xlane | laneFill | laneGet | lanePut | fold
  | ld | st | atom | fence | invL1 | pin | unpin | hintDead | lds | sts
  | wsumInit | wsumAcc | wsumMac | wsumAdd | wsumRed | wsumCvt
  | cpAsync | mmaAsync | mmaDrain
  deriving DecidableEq, Repr

/-- The row of the opcode map that a word belongs to; none for an opcode or function that R71 does not list. -/
def rowOf (w : Nat) : Option Row :=
  let fn := wFN w
  let fi := iFN w
  match wOp w with
  | 0x00 => if fn = 0 then some .nop else none
  | 0x01 => some .br
  | 0x02 => if fn = 0 then some .jmp else if fn = 1 then some .call else none
  | 0x04 => if fn = 0 then some .exit else none
  | 0x05 => if fn = 0 then some .barGroup else none
  | 0x06 => match fi with
    | 0 | 1 => some .waitGe
    | 2 => some .ctrRd
    | 3 => some .ctrSet
    | 4 => some .ctrAdd
    | _ => none
  | 0x07 => if fi = 0 then some .mmaWait else none
  | 0x08 => if fi = 0 then some .rdsr else none
  | 0x10 => if fn ≤ 14 then some .scalarInteger else none
  | 0x11 => if fn ≤ 12 then some .scalarF32 else none
  | 0x18 => if fi ≤ 11 then some .scalarIntegerImmediate else none
  | 0x19 => if fi = 0 then some .movHi else none
  | 0x20 => some .vectorInteger
  | 0x21 => if fn ≤ 12 then some .vectorF32 else none
  | 0x23 => if fn = 0 then some .cvt else none
  | 0x28 => if fi ≤ 11 then some .vectorIntegerImmediate else none
  | 0x29 => if fi ≤ 4 then some .vectorF32Immediate else none
  | 0x30 => if fn ≤ 6 then some .cmp else none
  | 0x31 => if fn ≤ 6 then some .maskLogic else none
  | 0x32 => if fn ≤ 6 then some .tally else none
  | 0x33 => if fn ≤ 3 then some .xlane else none
  | 0x34 => match fn with
    | 0 => some .laneFill
    | 1 => some .laneGet
    | 2 => some .lanePut
    | _ => if fn ≤ 8 then some .fold else none
  | 0x40 => some .ld
  | 0x41 => some .st
  | 0x43 => some .fence
  | 0x44 => some .invL1
  | 0x45 => if mTY w = 0 then some .pin else if mTY w = 1 then some .unpin else none
  | 0x46 => some .hintDead
  | 0x47 => some .lds
  | 0x48 => some .sts
  | 0x50 => match fn with
    | 0 => some .wsumInit
    | 1 => some .wsumAcc
    | 2 => some .wsumMac
    | 3 => some .wsumAdd
    | 4 => some .wsumRed
    | 5 => some .wsumCvt
    | _ => none
  | 0x80 => some .cpAsync
  | 0x90 => some .mmaAsync
  | 0x91 => some .mmaDrain
  | op => if 0x58 ≤ op && op ≤ 0x5F then some .atom else none

/-! ## Checks: 0 legal, 1 illegal instruction, 2 illegal register (R54) -/

/-- The first cause among checks: an illegal instruction before an illegal register. -/
def worst (l : List Nat) : Nat := if l.contains 1 then 1 else if l.contains 2 then 2 else 0

def ck (ok : Bool) : Nat := if ok then 0 else 1
/-- A field that must be zero (R67). -/
def ckZ (x : Nat) : Nat := ck (x = 0)
/-- A vector group of n registers (R40, R70), V registers being held. -/
def ckV (v n r : Nat) : Nat := if r % n ≠ 0 then 1 else if r + n > v then 2 else 0
/-- A scalar and a mask register field (R70). -/
def ckS (r : Nat) : Nat := ck (r ≤ 63)
def ckK (r : Nat) : Nat := ck (r ≤ 7)

/-- Vector registers that a value of a TYPE takes (R70). -/
def tyRegs (ty : Nat) : Nat := if ty = 2 || ty = 3 then 2 else if ty = 0xD then 4 else if ty = 0xE then 8 else 1

/-- A B or C operand of its kind: the opcode's own file (0), a scalar register (1), an immediate (2) (R68). -/
def ckOp (vec : Bool) (v n kind r : Nat) : Nat :=
  match kind with
  | 0 => if vec then ckV v n r else ckS r
  | 1 => if vec then ckS r else 1
  | 2 => 0
  | _ => 1

/-- What a format-R word holds beside its operands: mask, RND, SAT and reserved bits (R67, R68, R70, R118, R119). -/
def ckR (w : Nat) (km sat : Bool) : List Nat :=
  [ck (km || wKM w = 0), ck (!bit w 11), ckZ (wRND w), ck (sat || !wSAT w), ckZ (fld w 60 4)]

def noB (w : Nat) : List Nat := [ckZ (wB w), ckZ (wBK w)]
def noC (w : Nat) : List Nat := [ckZ (wC w), ckZ (wCK w)]

/-- Integer arithmetic, opcodes 0x10 and 0x20 (R71, R118). -/
def legalInt (vec : Bool) (v w : Nat) : Nat :=
  let fn := wFN w
  let ty := wTY w
  let n := tyRegs ty
  let reg := fun r => if vec then ckV v n r else ckS r
  worst (ckR w vec (fn ≤ 1) ++ [ck (tyInt ty), reg (wD w), reg (wA w)]
    ++ (if fn = 12 || fn = 13 || fn = 14 then noB w else [ckOp vec v n (wBK w) (wB w)])
    ++ (if fn = 15 then [ckZ (wCK w), ckK (wC w)] else noC w))

/-- FP32 arithmetic, opcodes 0x11 and 0x21 (R70, R71). -/
def legalF32 (vec : Bool) (v w : Nat) : Nat :=
  let fn := wFN w
  let reg := fun r => if vec then ckV v 1 r else ckS r
  worst (ckR w vec false ++ [ck (wTY w = 4), reg (wD w), reg (wA w)]
    ++ (if 5 ≤ fn && fn ≤ 11 then noB w else [ckOp vec v 1 (wBK w) (wB w)])
    ++ (if fn = 12 then [ckOp vec v 1 (wCK w) (wC w)] else noC w))

/-- What a format-I word holds beside its operands. -/
def ckI (w : Nat) (km : Bool) : List Nat := [ck (km || wKM w = 0), ck (!bit w 11)]

def legalSInt (w : Nat) : Nat := worst (ckI w false ++ [ckS (wD w), ckS (wA w)])
def legalMovHi (w : Nat) : Nat := worst (ckI w false ++ [ckS (wD w), ckZ (wA w)])
def legalVImm (v w : Nat) : Nat := worst (ckI w true ++ [ckV v 1 (wD w), ckV v 1 (wA w)])
/-- Counter operations (R95): the counter number in A[4:0]. -/
def legalCtr (w : Nat) : Nat :=
  worst (ckI w false ++ [ck (wA w ≤ 31), if iFN w = 0 then ckZ (wD w) else ckS (wD w), if iFN w = 2 then ckZ (iIMM w) else 0])
def legalMmaWait (w : Nat) : Nat := worst (ckI w false ++ [ckZ (wD w), ckZ (wA w), ck (iIMM w ≤ 7)])
def legalRdsr (w : Nat) : Nat := worst (ckI w false ++ [ckS (wD w), ckZ (wA w), ck (iIMM w ≤ 3)])

/-- Words without operands: nop, exit, bar.group. nop is vector-class and takes a mask operand (R44). -/
def legalBare (km : Bool) (w : Nat) : Nat :=
  worst (ckR w km false ++ [ckZ (wD w), ckZ (wA w), ckZ (wTY w)] ++ noB w ++ noC w)
def legalJmp (w : Nat) : Nat :=
  worst (ckR w false false ++ [if wFN w = 1 then ckS (wD w) else ckZ (wD w), ckS (wA w), ckZ (wTY w)] ++ noB w ++ noC w)
/-- A branch: RPC is reserved when it is unconditional (R74). -/
def legalBr (w : Nat) : Nat := ck (!(wKM w = 0 && !bN w) || fld w 38 26 = 0)

/-- The sources and destinations that RND = 2 takes (R119). -/
def stochSrc (ty : Nat) : Bool := ty = 4 || ty = 5 || ty = 6
def stochDst (ty : Nat) : Bool := ty = 5 || ty = 7 || ty = 8

/-- The stream operand of a conversion: a scalar register in C with CK = 1 for RND = 2, else nothing (R121). -/
def ckStream (w : Nat) : List Nat := if wRND w = 2 then [ck (wCK w = 1), ckS (wC w)] else noC w

/-- cvt (R71, R119, R121): the source type is the immediate B. -/
def legalCvt (v w : Nat) : Nat :=
  let dst := wTY w
  let src := wB w
  worst ([ck (!bit w 11), ckZ (fld w 60 4), ck (wBK w = 2), ck (src ≤ 0xC), ck (dst ≤ 0xC), ck (wRND w ≤ 2),
    ck (wRND w ≠ 2 || (stochSrc src && stochDst dst)), ckV v (tyRegs dst) (wD w), ckV v (tyRegs src) (wA w)] ++ ckStream w)

def legalCmp (v w : Nat) : Nat :=
  let ty := wTY w
  worst (ckR w true false ++ [ck (tyInt ty || ty = 4), ck (wFN w ≠ 6 || ty = 4), ckK (wD w), ckV v (tyRegs ty) (wA w),
    ckOp true v (tyRegs ty) (wBK w) (wB w)] ++ noC w)

/-- Mask logic (R71, R514): kmov reads a scalar register, kpop writes one. -/
def legalMask (w : Nat) : Nat :=
  let fn := wFN w
  worst (ckR w false false ++ [ckZ (wTY w), if fn = 6 then ckS (wD w) else ckK (wD w),
    if fn = 5 then ckS (wA w) else ckK (wA w)]
    ++ (if fn ≤ 3 then [ckZ (wBK w), ckK (wB w)] else noB w) ++ noC w)

def legalTally (v w : Nat) : Nat :=
  let fn := wFN w
  worst (ckR w false false ++ [ckZ (wTY w), if 2 ≤ fn && fn ≤ 4 then ckS (wD w) else ckK (wD w),
    if fn = 5 then ckV v 1 (wA w) else ckK (wA w)] ++ noB w ++ noC w)

/-- Lane exchange (R77). -/
def legalXlane (v w : Nat) : Nat :=
  worst (ckR w true false ++ [ckZ (wTY w), ckV v 1 (wD w), ckV v 1 (wA w), ckOp true v 1 (wBK w) (wB w),
    ck (wCK w = 2 && [2, 4, 8, 16, 32].contains (wC w)), ck (wFN w ≠ 2 || (wBK w = 2 && wB w = 0))])

def legalLaneFill (v w : Nat) : Nat :=
  worst (ckR w true false ++ [ckZ (wTY w), ckV v 1 (wD w), ckS (wA w)] ++ noB w ++ noC w)
/-- lane.get and lane.put: the lane number from a scalar register or an immediate (R78). -/
def ckLane (w : Nat) : Nat := if wBK w = 1 then ckS (wB w) else ck (wBK w = 2)
def legalLaneGet (v w : Nat) : Nat :=
  worst (ckR w false false ++ [ckZ (wTY w), ckS (wD w), ckV v 1 (wA w), ckLane w] ++ noC w)
def legalLanePut (v w : Nat) : Nat :=
  worst (ckR w false false ++ [ckZ (wTY w), ckV v 1 (wD w), ckS (wA w), ckLane w] ++ noC w)
def legalFold (v w : Nat) : Nat :=
  worst (ckR w true false ++ [ck (tyInt (wTY w) || (wTY w = 4 && wFN w ≤ 5)), ckS (wD w), ckV v (tyRegs (wTY w)) (wA w)]
    ++ noB w ++ noC w)

/-- The value types of wsum.acc and wsum.mac, and of wsum.cvt (R103). -/
def wsumTerm (ty : Nat) : Bool := 4 ≤ ty && ty ≤ 8
def wsumDst (ty : Nat) : Bool := ty = 4 || ty = 5 || ty = 7 || ty = 8

/-- Wide sums (R103). The destination of wsum.cvt is one value of its type and any register of it (DESIGN CHOICE, log 113). -/
def legalWsum (v w : Nat) : Nat :=
  match wFN w with
  | 0 => worst (ckR w true false ++ [ck (wTY w = 0xE), ckV v 8 (wD w), ckS (wA w)] ++ noB w ++ noC w)
  | 1 => worst (ckR w true false ++ [ck (wsumTerm (wTY w)), ckV v 8 (wD w), ckZ (wA w), ckOp true v 1 (wBK w) (wB w)] ++ noC w)
  | 2 => worst (ckR w true false ++ [ck (wsumTerm (wTY w)), ckV v 8 (wD w), ckZ (wA w), ckOp true v 1 (wBK w) (wB w),
      ckOp true v 1 (wCK w) (wC w)])
  | 5 => worst ([ck (!bit w 11), ckZ (fld w 60 4), ck (wsumDst (wTY w)), ck (wRND w ≤ 2), ck (wRND w ≠ 2 || stochDst (wTY w)),
      ckV v 1 (wD w), ckV v 8 (wA w)] ++ noB w ++ ckStream w)
  | _ => worst (ckR w true false ++ [ck (wTY w = 0xE), ckV v 8 (wD w), ckV v 8 (wA w)] ++ noB w ++ noC w)

/-! ## Format M -/

/-- Scalar form takes no mask; bit 11 is reserved (R44, R67). -/
def ckM (w : Nat) : List Nat := [ck (!(mS w) || wKM w = 0), ck (!bit w 11)]
/-- S = 1 accepts only AM = 0 and types of at most 64 bits (R79). -/
def ckAM (w : Nat) : List Nat := [ck (mAM w ≠ 3), ck (!(mS w) || mAM w = 0), ck (!(mS w) || (mTY w ≠ 0xD && mTY w ≠ 0xE))]
def noOrd (w : Nat) : List Nat := [ckZ (mORD w), ckZ (mSC w)]
def noAtom (w : Nat) : List Nat := [ckZ (mPL w), ck (!(mNR w))]
/-- The scope is zero for a relaxed access and one of three otherwise (R81). -/
def ckScope (w : Nat) : Nat := ck (if mORD w = 0 then mSC w = 0 else mSC w ≠ 3)
/-- The address registers of AM (R68); B is used only by AM = 2. -/
def ckAddr (v w : Nat) : List Nat :=
  match mAM w with
  | 0 => [ckS (wA w), ckZ (wB w)]
  | 1 => [ckV v 2 (wA w), ckZ (wB w)]
  | _ => [ckS (wA w), ckV v 1 (wB w)]
/-- The data register (R70, R79). -/
def ckData (v w : Nat) : Nat := if mS w then ckS (wD w) else ckV v (tyRegs (mTY w)) (wD w)

def legalLd (v w : Nat) : Nat :=
  worst (ckM w ++ ckAM w ++ noAtom w ++ [ck (mTY w ≠ 0xF), ck (mORD w = 0 || (mORD w = 1 && mS w)), ckScope w, ckData v w]
    ++ ckAddr v w)
def legalSt (v w : Nat) : Nat :=
  worst (ckM w ++ ckAM w ++ noAtom w ++ [ck (mTY w ≠ 0xF), ck (mORD w = 0 || (mORD w = 2 && mS w)), ckScope w, ckData v w]
    ++ ckAddr v w)

/-- The operations by type of R83; cas and exch take u32 and u64. -/
def atomOk (op ty : Nat) : Bool :=
  match op with
  | 0 => ty ≤ 4 || ty = 0xE
  | 1 | 2 => ty ≤ 4
  | 3 | 4 | 5 => ty ≤ 3
  | _ => ty = 0 || ty = 2

def legalAtom (v w : Nat) : Nat :=
  let op := wOp w - 0x58
  let ty := mTY w
  let n := tyRegs ty
  let regB := fun r => if mS w then ckS r else ckV v n r
  worst (ckM w ++ [ck (mAM w ≤ 1), ck (!(mS w) || mAM w = 0), ck (!(mS w) || ty ≠ 0xE), ck (atomOk op ty), ck (mORD w ≤ 3),
    ckScope w, ck (mPL w ≠ 3), if mNR w then ckZ (wD w) else ckData v w, regB (wB w),
    if op = 7 then regB (wB w + (if mS w then 1 else n)) else 0]
    ++ [if mAM w = 1 then ckV v 2 (wA w) else ckS (wA w)])

/-- Fences and inv.l1: every operand field, TYPE, AM, IMM and S zero (R67, R79). -/
def legalFence (w : Nat) : Nat :=
  worst (ckM w ++ noAtom w ++ [ckZ (wKM w), ckZ (wD w), ckZ (wA w), ckZ (wB w), ckZ (mAM w), ckZ (mTY w), ckZ (mORD w),
    ckZ (fld w 50 13), ck (!(mS w)), if wOp w = 0x43 then ck (mSC w ≠ 3) else ckZ (mSC w)])
def legalPin (w : Nat) : Nat :=
  worst (ckM w ++ noAtom w ++ noOrd w ++ [ck (mS w), ckZ (mAM w), ckS (wD w), ckS (wA w), ckZ (wB w), ck (mTY w ≤ 1)])
def legalHint (v w : Nat) : Nat :=
  worst (ckM w ++ ckAM w ++ noAtom w ++ noOrd w ++ [ckZ (mTY w), ckZ (wD w)] ++ ckAddr v w)
def legalLds (v w : Nat) : Nat :=
  worst (ckM w ++ ckAM w ++ noAtom w ++ noOrd w ++ [ck (mTY w ≠ 0xF), ck (mAM w ≤ 1), ckData v w, ckZ (wB w),
    if mAM w = 1 then ckV v 1 (wA w) else ckS (wA w)])

/-! ## Format X -/

def legalCp (w w1 : Nat) : Nat :=
  worst [ckZ (wKM w), ck (!bit w 11), ckZ (fld w 16 48), ckZ (fld w1 37 27), ckZ (fld w1 0 5)]
def legalMma (w w1 : Nat) : Nat :=
  worst [ckZ (wKM w), ck (!bit w 11), ckZ (fld w 24 40), ckZ (fld w1 55 9), ckZ (fld w1 0 5), ckZ (fld w1 18 5)]
def legalDrain (w w1 : Nat) : Nat :=
  worst [ckZ (wKM w), ck (!bit w 11), ckZ (fld w 13 51), ckZ (fld w1 37 27), ckZ (fld w1 0 5)]

/-- The check of a word of a row for a launch with V vector registers. -/
def legal (r : Row) (v w w1 : Nat) : Nat :=
  match r with
  | .nop => legalBare true w
  | .exit | .barGroup => legalBare false w
  | .br => legalBr w
  | .jmp | .call => legalJmp w
  | .waitGe | .ctrRd | .ctrSet | .ctrAdd => legalCtr w
  | .mmaWait => legalMmaWait w
  | .rdsr => legalRdsr w
  | .scalarInteger => legalInt false v w
  | .scalarF32 => legalF32 false v w
  | .scalarIntegerImmediate => legalSInt w
  | .movHi => legalMovHi w
  | .vectorInteger => legalInt true v w
  | .vectorF32 => legalF32 true v w
  | .vectorIntegerImmediate | .vectorF32Immediate => legalVImm v w
  | .cvt => legalCvt v w
  | .cmp => legalCmp v w
  | .maskLogic => legalMask w
  | .tally => legalTally v w
  | .xlane => legalXlane v w
  | .laneFill => legalLaneFill v w
  | .laneGet => legalLaneGet v w
  | .lanePut => legalLanePut v w
  | .fold => legalFold v w
  | .ld => legalLd v w
  | .st => legalSt v w
  | .atom => legalAtom v w
  | .fence | .invL1 => legalFence w
  | .pin | .unpin => legalPin w
  | .hintDead => legalHint v w
  | .lds | .sts => legalLds v w
  | .wsumInit | .wsumAcc | .wsumMac | .wsumAdd | .wsumRed | .wsumCvt => legalWsum v w
  | .cpAsync => legalCp w w1
  | .mmaAsync => legalMma w w1
  | .mmaDrain => legalDrain w w1


end Sys2Proof.Machine
end

