-- ==== Sys2Proof/Config.lean ====
section
/-! DEFINITION. The values the manual leaves open or gives no rule for: constants with no body, so that nothing
can be proved of their value. The cryptographic functions of the standards the manual cites stand here too. -/

namespace Sys2Proof

/-- A free value: the manual states no value, and each read of it takes the next number of `Clock.free`. -/
opaque Config.freeWord : Nat → BitVec 64

/-- The unspecified contents of a local-store byte at a group's start (R42): seed and offset. -/
opaque Config.freeByte : Nat → Nat → Byte

/-- SHAKE256 of a byte string, cut to 256 bits (R447, R453, R470). -/
opaque Config.shake256 : List Byte → BitVec 256

/-- The XMSS signature with one leaf of a secret key: seed words, leaf, message (R451, RFC 8391). -/
opaque Config.xmssSign : BitVec 256 → BitVec 256 → BitVec 256 → Nat → List Byte → List Byte

/-- The XMSS root of a secret key (R450). -/
opaque Config.xmssRoot : BitVec 256 → BitVec 256 → BitVec 256 → BitVec 256

/-- Verification of a signature by the Kwenko firmware authority, whose public key the boot ROM holds (R470). -/
opaque Config.firmwareVerify : List Byte → List Byte → Bool

/-- Verification of a signature by the Kwenko licence authority (R455). -/
opaque Config.licenceVerify : List Byte → List Byte → Bool

/-- AES-256-GCM encryption of a chunk: key, IV, additional data, plain text; ciphertext and 16-byte tag (R277). -/
opaque Config.gcmSeal : BitVec 256 → List Byte → List Byte → List Byte → List Byte × List Byte

/-- AES-256-GCM decryption of a chunk: key, IV, additional data, ciphertext, tag; none on a wrong tag (R278). -/
opaque Config.gcmOpen : BitVec 256 → List Byte → List Byte → List Byte → List Byte → Option (List Byte)

/-- The boot ROM contents, whose digest is measurement M0 (R453). -/
opaque Config.bootRom : List Byte

/-- What SEC.SIGIDX reads as while neither copy of the index is valid (R451). -/
opaque Config.invalidIndex : BitVec 21

/-- The public-key identifier of the parameter set (R449; PRESUMED, log 134: the number that SP 800-208 assigns, which the spec does not
write out). -/
def Config.xmssOid : BitVec 32 := 0x12

/-- Foehn's estimate in mW at other sector clocks: the clocks in MHz that an estimate was made at, the clocks asked about,
and the estimate (R413, R415: the manual gives no power model). -/
opaque Config.powerAt : List Nat → List Nat → Nat → Nat

/-- A sector's estimated rail current in mA at another clock: the clock in MHz it was estimated at, the clock asked about, and
the current (R414). -/
opaque Config.currentAt : Nat → Nat → Nat → Nat

/-- Whether the correction sets of an image hold one for a stepping code (R406, R470: the manual gives their layout no
further). -/
opaque Config.correctionFor : List Byte → BitVec 8 → Bool

/-- The module of the previous rank of a ring, to which a context sends its ready tokens: the context and its rank (R391; its descriptor names
the next rank's module alone). -/
opaque Config.previousModule : Nat → Nat → BitVec 12

/-- The handover message of a bundle direction with its last sequence number accepted (R402: the manual gives its layout no further). -/
opaque Config.handoverMessage : Nat → Nat → BitVec 10 → BitVec 128

/-- A message between dies: its kind, a virtual channel, and the line that it concerns (R395, R398: the manual gives the messages of the fabric
no layout). -/
opaque Config.dieMessage : Nat → Nat → BitVec 128

/-- The fused voltage of a sector at a clock step, in mV (R410). -/
opaque Config.vfPoint : Nat → Nat → Nat

/-- The clock in MHz at which a sector runs while its periods are stretched: the sector and its clock (R421: by how much is not stated). -/
opaque Config.stretchedClock : Nat → Nat → Nat

/-- The equalisation to which the receiver of a lane adapts in training, from its preset: link, lane, CTLE preset (R487). -/
opaque Config.adaptedEq : Nat → Nat → Nat → BitVec 5

/-- The credits that a bundle's receiver grants on each virtual channel when it trains (R400: the manual gives no number). -/
opaque Config.eddyCredits : Nat → Nat

/-- The provisional identifier of the sideband target, derived from the unit serial (R498). -/
opaque Config.provisionalId : BitVec 64 → BitVec 48

end Sys2Proof
end

