-- ==== Sys2Proof/Machine/State.lean ====
section
/-! DEFINITION. The state of the block: every register, queue, buffer, counter, mode and pin the manual gives the
module, as plain data, with its value at reset. A field that the manual does not name is marked MODEL. -/

namespace Sys2Proof.Machine
open Sys2Proof

/-- Reasons a command stops the model. -/
inductive Fault where
  /-- Raised by any command whose operands name a core, cluster, slice, sector, stack, pseudo-channel, link, bundle
  or instance that the package does not have (R12, R31, R348). No hardware behaviour corresponds to it: safe. -/
  | noSuchUnit
  deriving DecidableEq, Repr

/-- Reasons a command is refused. -/
inductive Refusal where
  /-- Raised only by an arm of `exec` for a command that has no meaning yet, with its mnemonic: safe. -/
  | notModelled (mnemonic : String)
  deriving DecidableEq, Repr

/-- A saturating counter with its sticky overflow bit (R256, R442); `told` is set once its saturation event is
written (R442). -/
structure Ctr where
  count : Nat := 0
  ovf : Bool := false
  told : Bool := false
  deriving DecidableEq, Repr, Inhabited

/-- One 32-byte sector with the poison marks of its two granules (R229, R428). -/
structure Sector where
  data : BitVec 256 := 0
  poison : BitVec 2 := 0
  deriving DecidableEq, Repr, Inhabited

/-- The four sectors of a 128-byte line (R229). -/
structure LineData where
  s0 : Sector := {}
  s1 : Sector := {}
  s2 : Sector := {}
  s3 : Sector := {}
  deriving DecidableEq, Repr, Inhabited

/-! ## Messages that leave the part -/

/-- What the part sends outside, in the order it sends it (MODEL: the wires are not state of the part). -/
inductive OutMsg where
  /-- MSI-X message of a vector, with the address and data of its table entry (R338). -/
  | msix (vector : Nat) (addr : BitVec 64) (data : BitVec 32)
  /-- A posted write to host memory whose TLP carries the EP bit (R429): PASID, bus address and length. -/
  | epWrite (pasid : BitVec 20) (bus len : Nat)
  /-- A PCIe AtomicOp (R321): PASID, kind 0 FetchAdd, 1 Swap, 2 CAS, bus address and width. -/
  | atomicOp (pasid : BitVec 20) (kind bus width : Nat)
  /-- A completion of a read of BAR0, BAR2, BAR4 or configuration space: the bytes and the EP bit. -/
  | readCompletion (data : List Byte) (ep : Bool)
  /-- A pulse on CAD_OUT: the time in ns for which it is high (R306). -/
  | cadOut (beat : BitVec 64) (width : Nat)
  /-- A data or control flit sent on a link, 256 bytes (R370). -/
  | flit (link : Nat) (bytes : List Byte)
  /-- A codeword sent on a link: its 10-bit symbols lane by lane (R368). -/
  | codeword (link : Nat) (lanes : List (Nat × List (BitVec 10)))
  /-- A data or control flit sent on a die-to-die bundle or a bridge segment, as its sixteen granules with their check bits (R395). -/
  | eddyFlit (bundle dir : Nat) (granules : List (BitVec 144))
  /-- Message granules delivered by a bundle or a bridge segment, each with its poison mark, the virtual channel that they belong to, and the
  granule in which the first message that starts in the flit begins, 0 for none (R395, R429). -/
  | eddyDeliver (bundle dir vc first : Nat) (granules : List (BitVec 128 × Bool))
  /-- The control message of a control flit, with its poison mark (R395). -/
  | eddyControl (bundle dir : Nat) (message : BitVec 128 × Bool)
  /-- The level of a pin: 0 PWR_GOOD, 1 THERMTRIP_N, 2 ALERT_N (R486). -/
  | pin (name : Nat) (level : Bool)
  /-- An MCTP control, PLDM or vendor-defined response or event on the sideband (R498 to R500).
  It leaves from an address of the sideband, in packets of at most the bytes of a transmission unit. -/
  | sideband (addr : BitVec 7) (unit : Nat) (kind code : BitVec 8) (data : List Byte)
  /-- The dirty sectors that an owning L2 sends on a forward (R244, R245). -/
  | forwarded (cluster line : Nat) (dirty : BitVec 4) (data : LineData)
  /-- The acknowledgement of an invalidation by an L2 (R242, R245). -/
  | invAck (cluster line : Nat)
  /-- The sectors that a home delivers for a non-allocating read (R244). -/
  | homeData (line : Nat) (secs : BitVec 4) (data : LineData)
  /-- The value that an atomic at a home or in an L2 returns; none where it met poison (R87, R248, R430). -/
  | atomResult (cluster pa : Nat) (old : Option (BitVec 256))
  deriving DecidableEq, Repr

/-! ## Cores and groups -/

/-- A reconvergence-stack entry (R48). -/
structure REntry where
  rpc : Word
  saved : BitVec 32
  pendPc : Word
  pend : BitVec 32
  deriving DecidableEq, Repr, Inhabited

/-- A copy that has issued: its flags and its descriptor with the selected scalar registers added (R91 to R93,
R157, R158), and how many of its bytes have been moved (MODEL cursor: bytes land in ascending order). -/
structure CopyJob where
  id : Nat := 0
  slot : Nat := 0
  inst : Nat := 0
  idx : Nat := 0
  task : Nat := 0
  pc : Word := 0
  dec : Bool := false
  mc : Bool := false
  ck : Bool := false
  tc : Bool := false
  dir : Nat := 0
  bulk : Bool := false
  fin : Bool := false
  dslot : Nat := 0
  dsame : Bool := false
  maddr : Word := 0
  laddr : Nat := 0
  rowBytes : Nat := 0
  rows : Nat := 0
  planes : Nat := 0
  ms1 : BitVec 32 := 0
  ms2 : BitVec 32 := 0
  ls1 : Nat := 0
  ls2 : Nat := 0
  fblk : Nat := 0
  cmask : BitVec 64 := 0
  ckt : BitVec 56 := 0
  acnt : Nat := 0
  landed : Nat := 0
  /-- remote transactions of the copy that have no answer yet (R163) -/
  remote : List Nat := []
  /-- TBASE and NBLK of the side table, once its header is read (R173) -/
  table : Option (Nat × Nat) := none
  /-- bytes of a peer's memory read for a block that is not complete, by virtual address; for a load that is moved piece by
  piece, its bytes that wait for others of one step, by their number in the copy; for a store or a push, the local-store sector in
  which its last step ended, by offset -/
  buf : NMap (Byte × Bool) := []
  /-- the end of the step under way of a load that waits for a peer's bytes -/
  want : Nat := 0
  /-- bytes of a store's block that count once every write of the block is acknowledged (R167) -/
  owed : Nat := 0
  deriving DecidableEq, Repr, Inhabited

/-- A write that a task holds in the commit buffer until its commit point (R191, R192). -/
structure HeldWrite where
  pa : Nat
  leaf : Nat
  bulk : Bool
  fin : Bool
  /-- bytes with the poison marks of their granules -/
  data : List (Byte × Bool)
  /-- a side-table word, which replaces the poison of its granule (R173) -/
  crc : Bool := false
  deriving DecidableEq, Repr, Inhabited

/-- What a group is doing: running, ended and waiting for a commit reservation (R191), or with a reservation. -/
inductive GroupPhase where
  | running | ended | reserved
  deriving DecidableEq, Repr, Inhabited

/-- A resident thread group (R36, R42, R48, R49). -/
structure Group where
  inst : Nat := 0
  idx : Nat := 0
  task : Nat := 0
  pc : Word := 0
  active : BitVec 32 := 0xFFFFFFFF
  parked : BitVec 32 := 0
  exited : BitVec 32 := 0
  barAddr : Word := 0
  /-- core cycle at which the watchdog of R52 began to count, while it counts -/
  barSince : Option Nat := none
  /-- watchdog cycles counted before a save (R52) -/
  barSaved : Nat := 0
  stack : List REntry := []
  /-- s0 to s63; an unlisted register holds 0 -/
  sregs : NMap Word := []
  /-- k1 to k7; an unlisted register holds 0 -/
  kregs : NMap (BitVec 32) := []
  /-- vector registers, key 32 × register + lane; an unlisted element holds 0 -/
  vregs : NMap Elem := []
  /-- held commit copies in issue order (R191) -/
  commits : List CopyJob := []
  phase : GroupPhase := .running
  /-- transactions of remote or host accesses the group still waits for (MODEL: the group issues nothing meanwhile) -/
  await : List Nat := []
  /-- lane and value of each access of a load that waits for a peer's answer: no register is written before all are there
  (R80) -/
  got : List (Nat × Nat) := []
  /-- instructions left of the window in which a staged copy may be claimed (R63) -/
  window : Nat := 0
  /-- a fault has been detected for the launch and the group has stopped issue (R55) -/
  stopped : Bool := false
  /-- beat counter or phase taken with the last `rdsr` of the other one: its number and value (R303) -/
  instant : Option (Nat × Word) := none
  /-- poisoned granules of the register files: 8 × vector register + lane / 4, and 2048 + scalar register / 2 (R426, R428) -/
  poisoned : List Nat := []
  deriving DecidableEq, Repr, Inhabited

/-- A tile descriptor as read at issue (R134, R139). -/
structure TileDesc where
  base : Nat := 0
  stride : Nat := 0
  rows : Nat := 0
  klen : Nat := 0
  format : Nat := 0
  sparse : Bool := false
  ck : Bool := false
  scale : Nat := 0
  metaOff : Nat := 0
  ckoff : Nat := 0
  deriving DecidableEq, Repr, Inhabited

/-- An epilogue descriptor as read at issue (R146). -/
structure EpiDesc where
  out : Nat := 0
  ostride : Nat := 0
  boff : Nat := 0
  soff : Nat := 0
  ckoff : Nat := 0
  alpha : BitVec 32 := 0
  stream : BitVec 32 := 0
  m : Nat := 0
  n : Nat := 0
  otype : Nat := 0
  rnd : Nat := 0
  sat : Bool := false
  ext : Bool := false
  scl : Bool := false
  bias : Bool := false
  ck : Bool := false
  act : Nat := 0
  deriving DecidableEq, Repr, Inhabited

/-- The work of a matrix-engine entry: an operation of the MAC array or a drain. -/
inductive MatWork where
  | mma (fmt m n k : Nat) (exa sp acc : Bool) (a b : TileDesc)
  | drain (e : EpiDesc)
  deriving DecidableEq, Repr

/-- One of the 8 entries of the matrix engine (R150). -/
structure MatOp where
  slot : Nat
  inst : Nat
  idx : Nat
  task : Nat
  pc : Word
  acci : Nat
  counter : Option Nat
  started : Bool
  work : MatWork
  deriving DecidableEq, Repr

/-- What decides whether a `cp.async` claims a staged copy: its flags, its counter, its descriptor and the values of its
scalar operands (R63). -/
structure CopyKey where
  flags : Nat
  ctr : Nat
  desc : List Byte
  src : Word
  dst : Word
  deriving DecidableEq, Repr, Inhabited

/-- A staged run-ahead copy (R59 to R63). -/
structure Staged where
  slot : Nat
  key : CopyKey
  job : CopyJob
  landed : Bool
  /-- the staged bytes with the poison marks of their granules -/
  data : List (Byte × Bool)
  deriving DecidableEq, Repr, Inhabited

/-- A line of the cache portion (R156): virtual-to-device translated line address, valid sectors, contents. -/
structure L1Line where
  a : Nat
  valid : BitVec 4
  d : LineData
  deriving DecidableEq, Repr, Inhabited

/-- The slot that a class of instructions last picked, and the sector cycle in which it issued (R44). -/
structure Pick where
  slot : Nat := 15
  cycle : Option Nat := none
  deriving DecidableEq, Repr, Inhabited

/-- The issue of a core: the last pick of each class, and since which cycle each slot has been ready (R44). -/
structure Picks where
  scalar : Pick := {}
  vector : Pick := {}
  ready : NMap Nat := []
  deriving DecidableEq, Repr, Inhabited

/-- A logical core (R36). Before the first launch its whole cache portion is 32 KiB (DESIGN CHOICE, log 93: R38 gives no
split before a launch has named one). -/
structure Core where
  launch : Option (Nat × Nat) := none
  /-- resident groups by slot 0 to 15 -/
  slots : NMap Group := []
  /-- arrival counters, key 32 × slot + number; an unlisted counter holds 0 (R37, R42) -/
  ctrs : NMap (BitVec 32) := []
  /-- local-store bytes written since they last became unspecified or zero, by offset -/
  ls : NMap Byte := []
  /-- poisoned 16-byte granules of the local store, by granule number -/
  lsPoison : List Nat := []
  /-- seeds of the unspecified contents: key slot, or 16 for the shared region (R42); a region without one reads 0 -/
  lsSeed : NMap Nat := []
  /-- accumulator units; an unlisted unit holds 0 (R140, R141) -/
  acc : NMap (BitVec 32) := []
  /-- poisoned 16-byte granules of accumulator memory -/
  accPoison : List Nat := []
  /-- written bits of the 128 accumulator granules (R142) -/
  accWritten : BitVec 128 := 0
  mats : List MatOp := []
  copies : List CopyJob := []
  staged : List Staged := []
  nextCopy : Nat := 0
  /-- bytes of the cache portion (R37, R38) -/
  split : Nat := 32768
  l1 : List L1Line := []
  pick : Picks := {}
  /-- code lines fetched: address and the 128 bytes (R66) -/
  code : NMap (List Byte) := []
  /-- sector cycle count at the core's last reset (R73) -/
  cycleBase : Nat := 0
  deriving DecidableEq, Repr, Inhabited

/-! ## Clusters -/

/-- A Reel queue entry: a range of one launch, or one re-queued task (R186). -/
structure QEntry where
  inst : Nat
  idx : Nat
  lo : Nat
  hi : Nat
  requeued : Bool
  deriving DecidableEq, Repr, Inhabited

/-- The states in which an L2 holds a line (R241). -/
inductive L2State where
  | M | E | O | S | NC
  deriving DecidableEq, Repr, Inhabited

/-- An L2 line (R229, R241). Lines stand in the order of their last use, newest first. -/
structure L2Line where
  a : Nat
  st : L2State
  valid : BitVec 4
  dirty : BitVec 4
  d : LineData
  deriving DecidableEq, Repr, Inhabited

/-- A commit reservation: the task, its byte count and the writes it has not performed yet (R191, R192). -/
structure CommitRes where
  core : Nat
  slot : Nat
  inst : Nat
  idx : Nat
  task : Nat
  bytes : Nat
  writes : List HeldWrite
  /-- the task has reached its commit point -/
  committed : Bool := false
  /-- remote writes that the task's groups had not had acknowledged at that point (R202) -/
  behind : List Nat := []
  /-- commit writes sent to a peer and not acknowledged (R211) -/
  sent : List Nat := []
  deriving DecidableEq, Repr, Inhabited

/-- A cluster: its L2, Reel queue, commit buffer and predictor (R12, R186, R191, R230, R249). -/
structure Cluster where
  owner : Option Nat := none
  fenced : Bool := false
  queue : List QEntry := []
  steals : Ctr := {}
  victim : Ctr := {}
  requeue : Ctr := {}
  l2 : List L2Line := []
  /-- write-back buffer: lines whose Put is not acknowledged (R231) -/
  wb : List L2Line := []
  /-- predictor counters; an unlisted one holds 1 (R249) -/
  pred : NMap Nat := []
  /-- ended tasks that wait for a reservation, in the order of their last exits: fabric cycle, core, slot (R191) -/
  commitWait : List (Nat × Nat × Nat) := []
  commitBuf : List CommitRes := []
  ce : BitVec 16 := 0
  ue : BitVec 16 := 0
  /-- victims chosen by an idle cluster: launch instance, index, victim (R189) -/
  chosen : List (Nat × Nat × Nat) := []
  /-- times at which cores of the cluster were fenced automatically (R439) -/
  fenceTimes : List Nat := []
  /-- cores that met an uncorrectable error in their arrays within 24 h, and when (R439) -/
  arrayErrors : List (Nat × Nat) := []
  /-- requests that hold one of the 256 L2 miss registers, and those that wait for one, oldest first (R230) -/
  misses : List Instr := []
  missWait : List Instr := []
  deriving DecidableEq, Repr, Inhabited

/-! ## Launches and ring entries -/

/-- The first fault detected for a launch, with the fields of its event (R57, R58). -/
structure FaultInfo where
  code : BitVec 16
  unit : BitVec 32
  beat : BitVec 64
  phase : BitVec 32
  pc : Word
  slot : Nat
  lane : BitVec 8
  deriving DecidableEq, Repr, Inhabited

/-- The image of a saved core: its groups, counters, local store in use and accumulator granules (R298). -/
structure CoreImage where
  core : Nat
  slots : NMap Group
  ctrs : NMap (BitVec 32)
  ls : NMap Byte
  lsPoison : List Nat
  lsSeed : NMap Nat
  acc : NMap (BitVec 32)
  accPoison : List Nat
  accWritten : BitVec 128
  deriving DecidableEq, Repr, Inhabited

/-- A registered launch: the fields of its descriptor (R180) and its progress. -/
structure Launch where
  inst : Nat := 0
  idx : Nat := 0
  entry : BitVec 56 := 0
  args : BitVec 56 := 0
  gx : Nat := 0
  gy : Nat := 0
  gz : Nat := 0
  v : Nat := 32
  c : Nat := 32768
  wdog : Nat := 24
  rad : Bool := false
  exactRad : Bool := false
  pinned : Bool := false
  g : Nat := 0
  s : Nat := 0
  wlow : BitVec 16 := 0
  tmax : Nat := 0
  seed : BitVec 64 := 0
  deps : List (BitVec 16) := []
  dctr : Bool := false
  dfail : Bool := false
  dval : BitVec 32 := 0
  daddr : BitVec 56 := 0
  caddr : BitVec 56 := 0
  cval : BitVec 32 := 0
  /-- global numbers of the launch's clusters in launch cluster index order (R181) -/
  clusters : List Nat := []
  /-- the counter dependency has been found met (R182) -/
  ctrMet : Bool := false
  placed : Bool := false
  /-- tasks that have reached their commit point -/
  committed : Nat := 0
  reexec : Nat := 0
  steals : Nat := 0
  /-- losses of a task by core loss (R194) -/
  losses : NMap Nat := []
  fault : Option FaultInfo := none
  more : Bool := false
  /-- completion status that replaces context-killed (R194) -/
  killStatus : Option (BitVec 16) := none
  /-- groups saved by pre-emption or by a drain of a pinned launch (R298) -/
  images : List CoreImage := []
  /-- the launch has been saved and waits to be restored -/
  saved : Bool := false
  /-- a save has been ordered: by pre-emption (true) or by a drain (false) -/
  saveBy : Option Bool := none
  /-- the add at CADDR has been sent to a peer -/
  added : Bool := false
  deriving DecidableEq, Repr, Inhabited

/-- A fetched submission entry that has not completed (R325). -/
structure Entry where
  index : BitVec 32
  bytes : List Byte
  /-- held by its beat tag (R307) -/
  held : Bool
  /-- the tag no longer counts: released, reached or run untagged (R307, R312) -/
  free : Bool
  /-- processing has begun -/
  started : Bool
  /-- bytes of a peer's memory that the part has read for the entry, by virtual address -/
  buf : NMap (Byte × Bool) := []
  /-- transactions of the entry with a peer that have no answer yet -/
  remote : List Nat := []
  /-- status of the first read and of the first write of them that failed -/
  bad : Option (BitVec 16) := none
  wbad : Option (BitVec 16) := none
  /-- what the entry has done so far: bytes, page sets, or the counts of its result -/
  moved : Nat := 0
  /-- everything but what follows its last writes has been done -/
  applied : Bool := false
  /-- the number of a STEP's next run, once its membership changes are applied; its failed runs so far (R289) -/
  run : Option Nat := none
  fails : Nat := 0
  deriving DecidableEq, Repr, Inhabited

/-! ## Instances -/

/-- The states of an instance (R360). -/
inductive InstState where
  | free | active | resetting | preempted | removing
  deriving DecidableEq, Repr, Inhabited

/-- An event record (R336). -/
structure Record where
  cls : BitVec 8
  code : BitVec 16
  flags : BitVec 8
  unit : BitVec 32
  beat : BitVec 64
  phase : BitVec 32
  detail : BitVec 96
  deriving DecidableEq, Repr, Inhabited

/-- The rings of an instance (R323, R345, R346). -/
structure Ring where
  sqbase : BitVec 64 := 0
  cqbase : BitVec 64 := 0
  eqbase : BitVec 64 := 0
  sqlog : Nat := 6
  cqlog : Nat := 6
  eqlog : Nat := 6
  en : Bool := false
  cqvec : BitVec 11 := 0
  eqvec : BitVec 11 := 0
  sqhead : BitVec 32 := 0
  sqtail : BitVec 32 := 0
  cqtail : BitVec 32 := 0
  eqtail : BitVec 32 := 0
  cqhead : BitVec 32 := 0
  eqhead : BitVec 32 := 0
  overrun : Bool := false
  eqdrop : BitVec 16 := 0
  /-- events dropped since the last events-lost record (R337) -/
  lost : Nat := 0
  /-- events held while the ring is full, oldest first (R337) -/
  eqHeld : List Record := []
  cqmask : Bool := true
  eqmask : Bool := true
  cqcnt : BitVec 8 := 0
  cqtime : BitVec 16 := 0
  /-- completions pending for coalescing, and when the first was written (R338) -/
  cqPending : Nat := 0
  cqFirst : Option Nat := none
  deriving DecidableEq, Repr, Inhabited

/-- A mailbox response (R354). -/
structure MbResponse where
  token : BitVec 32
  status : BitVec 16
  payload : List Byte
  deriving DecidableEq, Repr, Inhabited

/-- A running mailbox command: token, opcode, payload, and its result once its work is done (R355). -/
structure MbRunning where
  token : BitVec 32
  opcode : BitVec 16
  payload : List Byte
  /-- the reserved bytes of the header were not zero -/
  badHeader : Bool
  result : Option (BitVec 16 × List Byte)
  deriving DecidableEq, Repr, Inhabited

/-- A mailbox (R354 to R356). -/
structure Mailbox where
  /-- command area by byte offset; an unlisted byte reads 0 -/
  cmd : NMap Byte := []
  rspToken : BitVec 32 := 0
  rspStatus : BitVec 16 := 0
  rspLen : BitVec 16 := 0
  rspPayload : List Byte := []
  dropped : Bool := false
  done : BitVec 32 := 0
  running : Option MbRunning := none
  /-- last 16 responses, newest first -/
  cache : List MbResponse := []
  deriving DecidableEq, Repr, Inhabited

/-- A peer binding (R362). -/
structure Binding where
  module : BitVec 12
  rinst : BitVec 6
  rgen : BitVec 16
  deriving DecidableEq, Repr, Inhabited

/-- A KV layout with its pool's reference counts (R273, R274). -/
structure Layout where
  lg : Nat
  tb : Nat
  pool : BitVec 56
  nslot : Nat
  /-- reference counts of the slots that are held; an unlisted slot that is not being zeroed is free -/
  refs : NMap Nat
  /-- slots that wait to be zeroed -/
  zeroing : List Nat
  deriving DecidableEq, Repr, Inhabited

/-- A leaf of a sequence's page table (R275). -/
structure KvLeaf where
  /-- 1 tier 0, 2 tier 1, 3 tier 2 -/
  tier : Nat
  /-- slot number in tier 0, device virtual address otherwise -/
  addr : Nat
  evn : BitVec 64
  deriving DecidableEq, Repr, Inhabited

/-- A sequence record (R271, R282). -/
structure SeqRec where
  layout : Nat
  cl : Nat
  tc : Nat
  pages : NMap KvLeaf
  /-- batch slot while active (R287) -/
  slot : Option Nat
  /-- the store-private addresses of its page-table nodes: key 0 the root, 1 + m middle node m, 64 + l leaf node l (R275), and under
  4096 that of the record itself (R272) -/
  nodes : NMap Nat := []
  deriving DecidableEq, Repr, Inhabited

/-- The running reset or removal of an instance (R365). -/
structure ResetJob where
  remove : Bool
  mb : Nat
  sqhead : BitVec 32
  deriving DecidableEq, Repr, Inhabited

/-- An instance (R348). -/
structure Inst where
  state : InstState := .free
  pasid : BitVec 20 := 0
  root : BitVec 56 := 0
  ways : BitVec 16 := 0
  linkw : Nat := 0
  recq : Nat := 0
  batchq : Nat := 0
  gen : BitVec 16 := 0
  /-- time of the last generation advance (R363) -/
  genAt : Option Nat := none
  /-- page ranges held, first and last page, ascending and not touching (R359) -/
  ranges : List (Nat × Nat) := []
  binds : NMap Binding := []
  ring : Ring := {}
  mb : Mailbox := {}
  /-- fetched entries that have not completed, in index order -/
  entries : List Entry := []
  /-- the last 4,096 LAUNCH entries fetched: index, and status once completed (R182) -/
  launchLog : List (BitVec 32 × Option (BitVec 16)) := []
  layouts : NMap Layout := []
  records : NMap SeqRec := []
  /-- reuse counts of records; an unlisted one is 0 (R271) -/
  reuse : NMap (BitVec 16) := []
  /-- eviction counter (R277) -/
  evn : BitVec 64 := 0
  resetJob : Option ResetJob := none
  /-- launches re-queued or saved by the running pre-emption -/
  preempting : Bool := false
  deriving DecidableEq, Repr, Inhabited

/-! ## Memory -/

/-- The memories a device address reaches (R205). Both are lists of bytes in one canonical form: addresses strictly
rising and no entry 0, since an unlisted byte reads 0 (HBM: zeroed by every start, R465). -/
structure Mem where
  hbm : List Host.Cell := []
  /-- poisoned 16-byte granules of HBM, by granule number, rising -/
  hbmPoison : List Nat := []
  host : List Host.Cell := []
  /-- seeds of HBM whose contents a margining run destroyed (R268), key 8 × page + hemi: a byte of it holds its listed
  value exclusive-or a free byte -/
  lost : NMap Nat := []
  deriving DecidableEq, Repr, Inhabited

/-- A cached page-table entry (R353): agent (core number, 8192 the port's copy engine, 8193 the sequence store). -/
structure TlbEntry where
  agent : Nat
  inst : Nat
  /-- virtual base of the range that the entry maps and log2 of its size -/
  va : Nat
  log2 : Nat
  /-- the entry as it was read -/
  leaf : BitVec 64
  /-- whether it is the entry of a non-leaf level -/
  node : Bool := false
  deriving DecidableEq, Repr, Inhabited

/-! ## LLC and HBM -/

/-- An LLC line (R229, R247, R251). Lines stand in the order of their last use, newest first. -/
structure LlcLine where
  a : Nat
  valid : BitVec 4
  dirty : BitVec 4
  dead : BitVec 4
  pinned : Bool
  d : LineData
  way : Nat
  /-- the instances that have pinned it since it was last unpinned (R239) -/
  pinBy : List Nat := []
  /-- the request that last dirtied it was a bulk one (R261) -/
  bulk : Bool := false
  deriving DecidableEq, Repr, Inhabited

/-- Directory states (R242). -/
inductive DirState where
  | S | EM | O
  deriving DecidableEq, Repr, Inhabited

/-- A directory entry (R242). Entries stand in the order of their last use, newest first. -/
structure DirEntry where
  a : Nat
  st : DirState
  owner : Nat
  sharers : BitVec 32
  deriving DecidableEq, Repr, Inhabited

/-- A miss register with its waiter list, oldest first (R233, R235). -/
structure Miss where
  a : Nat
  /-- sectors asked of HBM, and those of them not yet returned -/
  asked : BitVec 4
  need : BitVec 4
  waiters : List Instr
  deriving DecidableEq, Repr, Inhabited

/-- A refused request that will be sent again (R233). -/
structure Refused where
  id : Nat
  request : Instr
  tries : Nat
  since : Nat
  deriving DecidableEq, Repr

/-- An LLC slice (R232). -/
structure Slice where
  fenced : Bool := false
  lines : List LlcLine := []
  dir : List DirEntry := []
  miss : List Miss := []
  refused : List Refused := []
  nextRefused : Nat := 0
  /-- the most recent far-atomic lines with their clusters, newest first (R248) -/
  hist : List (Nat × Nat) := []
  /-- counters, key 5 × class + kind: 0 HITU, 1 HITP, 2 MISS, 3 PINREF, 4 RDB (R254) -/
  cnt : NMap Ctr := []
  ce : BitVec 16 := 0
  ue : BitVec 16 := 0
  /-- times of uncorrectable data granules (R439) -/
  uncTimes : List Nat := []
  deriving DecidableEq, Repr, Inhabited

/-- A near-home range (R237, R238, R256). -/
structure NearHome where
  base : BitVec 19 := 0
  limit : BitVec 19 := 0
  die : BitVec 2 := 0
  en : Bool := false
  busy : Bool := false
  refused : Bool := false
  /-- the extent and the die in effect, while the range is enabled: first page, last page, die -/
  live : Option (Nat × Nat × Nat) := none
  /-- the old and new extents that a change is flushing: first and last page -/
  flushing : List (Nat × Nat) := []
  deriving DecidableEq, Repr, Inhabited

/-- The LLC block (R256). -/
structure Llc where
  satev : Bool := false
  view : BitVec 9 := 0
  /-- the snapshot of the selected view, key 5 × class + kind -/
  snap : NMap Ctr := []
  thrash : NMap (BitVec 7) := []
  thrashActive : NMap Bool := []
  thrashBelow : NMap Nat := []
  /-- HITU and MISS of each class at the last window's end, key 2 × class + (0 HITU, 1 MISS) -/
  thrashBase : NMap Nat := []
  /-- live quotas; an unlisted slice has the default 8 -/
  quota : NMap (BitVec 4) := []
  nh : NMap NearHome := []
  deriving DecidableEq, Repr, Inhabited

/-- A request in a pseudo-channel queue (R261, R262). -/
structure HbmReq where
  id : Nat
  /-- the slice that waits, the line address and the sector -/
  slice : Nat
  a : Nat
  sec : Nat
  /-- later requests served before it -/
  bypassed : Nat
  /-- the time of its acceptance -/
  since : Nat
  /-- a write of the sector, whose data HBM already holds -/
  write : Bool := false
  /-- a patrol read, with the bit errors its two granules meet (R259) -/
  patrol : Option (BitVec 144 × BitVec 144) := none
  deriving DecidableEq, Repr, Inhabited

/-- A pseudo-channel (R262, R265, R269). -/
structure Pch where
  /-- 0 in service, 1 fenced, 2 margining, 3 untrained; at reset it is as the register table gives it (R269) -/
  state : BitVec 2 := 0
  crit : List HbmReq := []
  norm : List HbmReq := []
  bulk : List HbmReq := []
  flight : List HbmReq := []
  /-- of the last 10 slots, newest first, those given to bulk; a slot that serves nothing counts (R262) -/
  slots : List Bool := []
  /-- the row open in each bank, by stack ID, bank and bank group -/
  openRows : NMap Nat := []
  ce : BitVec 16 := 0
  ue : BitVec 16 := 0
  deriving DecidableEq, Repr, Inhabited

/-- The HBM block (R258 to R269). -/
structure Hbm where
  up : BitVec 16 := 0
  pch : NMap Pch := []
  /-- the deskew and reference settings in use in the PHY of each pseudo-channel (R466) -/
  trim : NMap (BitVec 64) := []
  /-- stack temperatures, signed 1/256 °C; an unlisted stack reads 0 -/
  temp : NMap (BitVec 16) := []
  /-- stacks refreshed at twice the standard rate, being above 85 °C (R258) -/
  refresh2 : BitVec 16 := 0
  /-- open recalibration windows: stack and channel (R264) -/
  recal : List (Nat × Nat) := []
  /-- the beat at which each stack's last window opened -/
  recalBeat : NMap Nat := []
  /-- time at which the internal timer last opened a window of each stack -/
  recalAt : NMap Nat := []
  /-- the beat at which each channel's last window opened: key 32 × stack + channel (R264) -/
  recalChan : NMap Nat := []
  /-- retired list: page entries and channel entries (R266) -/
  pages : List Nat := []
  chans : List Nat := []
  result : BitVec 2 := 0
  mpch : BitVec 10 := 0
  mbit : BitVec 6 := 0
  mdeskew : BitVec 6 := 0
  mvddq : BitVec 5 := 0
  mgo : Bool := false
  mrefused : Bool := false
  merrs : BitVec 16 := 0
  /-- corrected sectors within 24 h: page, sector number, time (R265) -/
  corrected : List (Nat × Nat × Nat) := []
  /-- uncorrectable sectors within 1 s: pseudo-channel, page, time (R265) -/
  uncorr : List (Nat × Nat × Nat) := []
  nextReq : Nat := 0
  deriving DecidableEq, Repr, Inhabited

/-! ## Serving -/

/-- A weight set of the model hot set (R292, R293, R301). -/
structure WSet where
  /-- 0 unregistered, 1 registered, 2 loading, 3 resident -/
  state : BitVec 2 := 0
  pin : Bool := false
  restorable : Bool := false
  bulk : Bool := false
  ck : Bool := false
  pages : Nat := 0
  src : BitVec 56 := 0
  backing : BitVec 56 := 0
  grant : BitVec 64 := 0
  ckt : BitVec 56 := 0
  first : Nat := 0
  /-- references of each instance -/
  refs : NMap Nat := []
  use : Nat := 0
  deriving DecidableEq, Repr, Inhabited

/-- A restore in progress: the device address and whether it covers a block (R431). -/
structure Restore where
  pa : Nat
  block : Bool
  set : Nat
  since : Nat
  /-- reads of a backing copy in a peer module: transactions without an answer, bytes by offset, and whether one failed -/
  asked : Bool := false
  remote : List Nat := []
  buf : NMap (Byte × Bool) := []
  failed : Bool := false
  deriving DecidableEq, Repr, Inhabited

/-- The SEQ block and the hot set (R292, R301). -/
structure Seq where
  hsbase : BitVec 19 := 0
  hspages : BitVec 20 := 0
  sets : NMap WSet := []
  saveBase : NMap (BitVec 19) := []
  savePages : NMap (BitVec 16) := []
  /-- store-private range: first page and count (R272) -/
  privFirst : Nat := 0
  privCount : Nat := 0
  /-- bytes of the private range, from its end on, that the hot-set tables and the page-table nodes have taken; freed nodes of 256 and of
  512 bytes -/
  nodeTop : Nat := 0
  nodeFree : List Nat := []
  leafFree : List Nat := []
  /-- bytes of it, from its beginning on, that records have taken; freed records -/
  recTop : Nat := 0
  recFree : List Nat := []
  restores : List Restore := []
  useTick : Nat := 0
  deriving DecidableEq, Repr, Inhabited

/-! ## Clock and cadence -/

/-- MODEL: the time since the module got power, in ns, and the number of the next free value. -/
structure Clock where
  now : Nat := 0
  free : Nat := 0
  deriving DecidableEq, Repr, Inhabited

/-- A snapshot record under way: its address, header and body, and whether the body has been sent (R313). -/
structure SnapJob where
  at_ : Nat
  head : List Byte
  body : List Byte
  sent : Bool
  deriving DecidableEq, Repr

/-- The cadence unit (R302 to R314). -/
structure Cad where
  src : BitVec 2 := 0
  leader : Bool := false
  outen : Bool := false
  rxlink : BitVec 5 := 0
  delay : BitVec 10 := 0
  period : BitVec 30 := 1000000
  txlinks : BitVec 24 := 0
  losspol : BitVec 64 := 0
  beat : BitVec 64 := 0
  phase : BitVec 32 := 0
  phaseLatch : BitVec 32 := 0
  lost : Bool := false
  hops : BitVec 4 := 0
  snapskip : BitVec 8 := 0
  glitch : BitVec 16 := 0
  meas : BitVec 32 := 0
  late : Ctr := {}
  div : BitVec 16 := 0
  log2 : BitVec 4 := 0
  snapaddr : BitVec 56 := 0
  snapseq : BitVec 32 := 0
  /-- time until which the last snapshot record is being written (R313) -/
  snapUntil : Nat := 0
  /-- the record that is being written -/
  snapJob : Option SnapJob := none
  /-- times at which edges that have reached the pins are taken (R304) -/
  edges : List Nat := []
  /-- time of the last counted beat, and of the selection of the source (R311) -/
  beatAt : Option Nat := none
  selectAt : Nat := 0
  deriving DecidableEq, Repr, Inhabited

/-! ## Host port -/

/-- The host port (R315 to R345). -/
structure HostPort where
  step : BitVec 3 := 0
  ready : Bool := false
  recovery : Bool := false
  failed : Bool := false
  width : BitVec 2 := 0
  rate : BitVec 2 := 0
  flit : Bool := false
  quiesce : Bool := false
  /-- MSI-X table entries; an unlisted one reads with its mask bit set -/
  msix : NMap (BitVec 128) := []
  /-- pending bits that are set -/
  pba : List Nat := []
  /-- Data Link Layer state, and whether the port is stopped since it went down (R344) -/
  dll : Bool := false
  stopped : Bool := false
  /-- AtomicOp Requester Enable in Device Control 2 of configuration space (R321) -/
  atomicOps : Bool := false
  /-- the base addresses in BAR0, BAR2 and BAR4 (R317) -/
  bars : NMap (BitVec 64) := []
  /-- Max_Payload_Size code of Device Control, PASID Enable, MSI-X Enable and Function Mask (R315) -/
  mps : BitVec 3 := 0
  pasidEn : Bool := false
  msixEn : Bool := false
  msixMask : Bool := false
  deriving DecidableEq, Repr, Inhabited

/-- An access of the data window: a write of bytes at an address of a SPACE, or a read request, the SPACE and address of each of its
accesses in order (none for one outside its space) and their width (R341, R342). -/
inductive PortAccess where
  | write (space : BitVec 2) (addr : Nat) (data : List Byte)
  | read (parts : List (Option (BitVec 2 × Nat))) (width : Nat)
  deriving DecidableEq, Repr

/-- Whether an access is a write of the staging area. -/
def PortAccess.stages : PortAccess → Bool
  | .write sp _ _ => sp = 1
  | .read _ _ => false

/-- The data port (R340 to R347). -/
structure DPort where
  addr : BitVec 56 := 0
  width : BitVec 2 := 0
  inc : BitVec 2 := 1
  space : BitVec 2 := 0
  range : Bool := false
  poison : Bool := false
  size : Bool := false
  /-- accesses received and not yet performed, oldest first (R342, R473) -/
  waiting : List PortAccess := []
  deriving DecidableEq, Repr, Inhabited

/-! ## Aeldon links -/

/-- A data flit that has been sent and not acknowledged (R370, R373): its sequence number, channel, FIRST field and body, and
the packet whose units it carries. -/
structure SentFlit where
  seq : BitVec 12
  vc : Nat
  first : Nat
  body : List Byte
  packet : Packet
  deriving DecidableEq, Repr

/-- A packet that waits at a port: its virtual channel, since when it waits there, the time in ns that it had spent in the router before, and
whether its stall has been reported (R375, R383). -/
structure Queued where
  vc : Nat
  since : Nat
  spent : Nat
  told : Bool := false
  packet : Packet
  deriving DecidableEq, Repr

/-- The presets of a lane in the calibration block: transmitter pre-cursor and post-cursor, receiver CTLE (R487, R494). -/
structure Preset where
  pre : Nat := 8
  post : Nat := 8
  ctle : Nat := 16
  deriving DecidableEq, Repr, Inhabited

/-- An Aeldon link (R369 to R378, R393). -/
structure Link where
  /-- 0 down, 1 training, 2 up, 3 disabled -/
  state : BitVec 2 := 0
  width : BitVec 2 := 0
  good : BitVec 4 := 0
  fenced : BitVec 4 := 0
  peer : BitVec 12 := 0
  crc : BitVec 16 := 0
  replay : BitVec 16 := 0
  uncorr : BitVec 16 := 0
  widthchg : BitVec 16 := 0
  txNext : BitVec 12 := 0
  txBuf : List SentFlit := []
  rxExpected : BitVec 12 := 0
  nakSent : Bool := false
  /-- flits accepted since the last ACK report -/
  sinceAck : Nat := 0
  /-- credits held per VC -/
  credits : NMap Nat := []
  /-- packets that wait for a credit, oldest first -/
  waiting : List Queued := []
  /-- flits by which forwarded traffic is ahead of this module's own while it waits (R376) -/
  fwdAhead : Nat := 0
  /-- the deficit of each instance with waiting traffic, in flits, and the instance whose turn it is (R376) -/
  deficit : NMap Nat := []
  turn : Nat := 0
  /-- received units of an unfinished packet per VC, byte string -/
  assembling : NMap (List Byte) := []
  /-- flits of the receive buffer per VC whose units are not all those of whole packets, and credits to return (R375) -/
  partHeld : NMap Nat := []
  owed : NMap Nat := []
  /-- whole packets received and not yet routed: VC, flits of the receive buffer that leave with it, packet -/
  inbox : List (Nat × Nat × Packet) := []
  /-- lane mask asked of the other end and not yet answered (R372) -/
  asked : Option (BitVec 4) := none
  /-- lane and time of uncorrectable codewords of the last 1 ms (R377) -/
  uncTimes : List (Nat × Nat) := []
  /-- failed trainings per lane; a lane with an entry is out of use -/
  laneFails : NMap Nat := []
  /-- bits of flits sent that do not fill a codeword yet: their value and their number (R368) -/
  txBits : Nat := 0
  txFill : Nat := 0
  /-- message bits received of the codeword that the next flit begins in, and whether that codeword is uncorrectable (R368) -/
  rxFill : Nat := 0
  rxBad : Bool := false
  /-- the presets of each lane, from which it trains, and the equalisation that its receiver has adapted (R487) -/
  presets : NMap Preset := []
  rxEq : NMap (BitVec 5) := []
  /-- time of the last ACK progress, and the time the link went down -/
  progressAt : Nat := 0
  downAt : Option Nat := none
  reported : Bool := false
  trainAt : Nat := 0
  deriving DecidableEq, Repr, Inhabited

/-- What waits for the answer to a remote request (R389). -/
inductive RemoteFor where
  /-- a load of a group: the lane (or the scalar register), the byte offset in the answer, register, type and the
  scope of its acquire (0 where there is none) -/
  | load (core slot : Nat) (scalar : Bool) (lane off dst ty acq : Nat)
  /-- an atomic of a group: the lanes of its set with their operands, register, operation and type (R86) -/
  | atomic (core slot : Nat) (scalar : Bool) (lanes : List (Nat × Nat × Nat)) (dst op ty acq : Nat) (ret : Bool)
  /-- a store of a group -/
  | store (core slot : Nat)
  /-- a store of a group of one or two bytes: their offset in the word, and the bytes (log 79) -/
  | narrow (core slot off : Nat) (data : List Byte)
  /-- bytes of a copy: first byte and length -/
  | copy (core id first len : Nat)
  /-- source or side-table bytes of a copy with CK or DEC: their virtual address -/
  | fetch (core id va : Nat)
  /-- an access of a ring entry of an instance: its virtual address -/
  | entry (inst idx va : Nat)
  /-- bytes of a backing copy for the restore of a device address: their offset in it -/
  | restore (pa off : Nat)
  /-- a commit write of a task that ran on a core of a cluster -/
  | commit (core inst idx : Nat)
  /-- the add of a launch or step at its completion (R193, R289) -/
  | add (inst idx : Nat)
  deriving DecidableEq, Repr

/-- An outstanding remote request (R382, R388, R389). -/
structure Outstanding where
  txid : BitVec 32
  p : Packet
  /-- the index of the binding that the leaf named (R362) -/
  bind : Nat
  first : Nat
  sent : Nat
  owner : RemoteFor
  inst : Nat
  tag : BitVec 16
  router : BitVec 32
  busyAt : Option Nat
  deriving DecidableEq, Repr

/-- A batch-tracker entry (R385). -/
structure Batch where
  src : BitVec 12
  sinst : BitVec 6
  srctag : BitVec 18
  batch : BitVec 16
  landed : BitVec 16
  fin : Option Packet
  close : Option (BitVec 16)
  last : Nat
  deriving DecidableEq, Repr, Inhabited

/-- A deduplication entry (R388). -/
structure Dedup where
  src : BitVec 12
  txid : BitVec 32
  status : BitVec 16
  data : List Byte
  since : Nat
  deriving DecidableEq, Repr, Inhabited

/-- An open batch of a source toward one module (R385). -/
structure SrcBatch where
  /-- the source tag in bits 17 to 0, and above them which accesses of the part share it (MODEL) -/
  tag : Nat
  dst : BitVec 12
  inst : BitVec 6
  /-- the index of the binding of its last write (R362) -/
  bind : Nat := 0
  number : BitVec 16
  count : BitVec 16
  deriving DecidableEq, Repr, Inhabited

/-- The descriptor of a collective as read at the start of a run (R390). -/
structure CollDesc where
  op : Nat
  etype : Nat
  p : Nat
  rank : Nat
  next : BitVec 12
  ninst : BitVec 6
  buf : BitVec 56
  elems : Nat
  trig : BitVec 56
  done : BitVec 56
  dval : BitVec 32
  bstep : Nat
  beat0 : Nat
  deriving DecidableEq, Repr, Inhabited

/-- A collective context (R390 to R393). -/
structure Coll where
  desc : BitVec 56 := 0
  inst : BitVec 6 := 0
  en : Bool := false
  /-- runs completed since EN was set; RUNS is this modulo 2^16 -/
  runs : Nat := 0
  /-- the running run: its descriptor, the number of the next send and of the next receive, and the last progress -/
  run : Option CollDesc := none
  sent : Nat := 0
  recvd : Nat := 0
  tokens : Nat := 0
  since : Nat := 0
  /-- transactions of the run's packets, whose rejection ends it (R392) -/
  txids : List (BitVec 32) := []
  /-- bytes of a peer's memory read for the start of a run, by virtual address, and the reads not yet answered -/
  buf : NMap (Byte × Bool) := []
  remote : List Nat := []
  deriving DecidableEq, Repr, Inhabited

/-- The AEL block (R368 to R393). -/
structure Ael where
  id : BitVec 12 := 0
  en : BitVec 24 := 0xFFFFFF
  links : NMap Link := []
  route : NMap (BitVec 24) := []
  mcast : NMap (BitVec 25) := []
  coll : NMap Coll := []
  tracker : List Batch := []
  dedup : List Dedup := []
  txid : BitVec 32 := 0
  outst : List Outstanding := []
  batches : List SrcBatch := []
  /-- the next batch number of each source tag toward each module, key 4096 × tag + module (R385) -/
  batchNext : NMap (BitVec 16) := []
  /-- packets delivered to this module that wait to be acted on -/
  delivered : List Packet := []
  /-- reduce engines of IN and IS in service (R468) -/
  reduceUp : BitVec 2 := 3
  deriving DecidableEq, Repr, Inhabited

/-! ## Dies -/

/-- A data flit of a bundle: its sequence number, virtual channel, FIRST, the line its message concerns, and the bytes of its granules 1
to 15 (R395, R398). -/
structure SentEddy where
  seq : BitVec 10 := 0
  vc : Nat
  first : Nat
  line : Nat
  body : List Byte
  deriving DecidableEq, Repr

/-- One direction of a bundle's Eddy layer (R395, R396): what its receiver expects and owes, and its sender's replay buffer, the flits
that wait for a credit, and the credits held. -/
structure EddyDir where
  rxExpected : BitVec 10 := 0
  nakSent : Bool := false
  sinceAck : Nat := 0
  txNext : BitVec 10 := 0
  unacked : List SentEddy := []
  waiting : List SentEddy := []
  credits : NMap Nat := []
  owed : NMap Nat := []
  progressAt : Nat := 0
  deriving DecidableEq, Repr, Inhabited

/-- A die-to-die bundle, or a segment of a hemi bridge (R394 to R403, R408). -/
structure Bundle where
  /-- 0 in service, 1 fenced at start, 2 fenced in operation, 3 untrained -/
  state : BitVec 2 := 3
  rate : BitVec 2 := 0
  map : BitVec 32 := 0
  corr : BitVec 16 := 0
  disc : BitVec 16 := 0
  dir0 : EddyDir := {}
  dir1 : EddyDir := {}
  /-- times of discarded flits (R402) -/
  discTimes : List Nat := []
  deriving DecidableEq, Repr, Inhabited

/-- The D2D block (R394 to R408). -/
structure D2d where
  /-- bundles 0 to 159; segment i of the bridge of die d is 160 + 16 d + i, with direction 0 from hemi 0 to hemi 1 (MODEL) -/
  bundles : NMap Bundle := []
  bridgeFenced : BitVec 4 := 0
  pkgfeat : BitVec 32 := 0
  mixed : Bool := false
  deriving DecidableEq, Repr, Inhabited

/-! ## Power and temperature -/

/-- Per-sector clock state (R409 to R421). -/
structure SectorClk where
  cap : BitVec 5 := 20
  /-- clock step in effect, 31 when stopped or below the floor -/
  step : Nat := 0
  /-- clock in effect in MHz; 0 stopped -/
  mhz : Nat := 1000
  /-- clock ordered and not yet in effect -/
  ordered : Option Nat := none
  /-- core rail voltage set, in mV (R410) -/
  mv : Nat := 0
  mode : BitVec 3 := 0
  gate : Bool := false
  /-- the sector is held at the test clock (R479) -/
  test : Bool := false
  /-- Foehn's power choice (R415) -/
  choice : Nat := 0
  /-- thermal ceiling in effect (R418) -/
  ceil : Nat := 0
  pretrip : Bool := false
  /-- time since which every acting sensor has read 108 °C or less (R420) -/
  coolSince : Option Nat := none
  droops : Ctr := {}
  stretched : Bool := false
  /-- time of the last droop-at-floor event (R421) -/
  droopAt : Option Nat := none
  /-- core cycles counted, and the thousandths of a cycle left over (MODEL tick) -/
  cycles : Nat := 0
  frac : Nat := 0
  deriving DecidableEq, Repr, Inhabited

/-- The figures that an update works from: E and M in mW and the sector currents in mA (R413, R414). -/
structure Figures where
  meas : Nat := 0
  est : Nat := 0
  amps : List Nat := []
  deriving DecidableEq, Repr, Inhabited

/-- The FOEHN block (R413 to R424). Power figures are in mW inside, W in the registers. -/
structure Foehn where
  sust : BitVec 12 := 2800
  peak : BitVec 12 := 3600
  diverged : Bool := false
  floorhold : Bool := false
  unattainable : Bool := false
  limiter : BitVec 2 := 0
  satev : Bool := false
  meas : BitVec 16 := 0
  est : BitVec 16 := 0
  meas1s : BitVec 16 := 0
  /-- the figures of the last update, and those of M and E in mW since the last correction factor (R413) -/
  last : Figures := {}
  recentM : List Nat := []
  recentE : List Nat := []
  kfact : BitVec 16 := 0x0100
  energy : Ctr := {}
  /-- input energy below one mJ not yet counted, in nJ -/
  energyRest : Nat := 0
  /-- the last 1 ms averages of M in mW, newest first, at most 1,000 -/
  window : List Nat := []
  disagree : Nat := 0
  agree : Nat := 0
  /-- time since which the limit has been attainable again (R415) -/
  attainSince : Option Nat := none
  sectors : NMap SectorClk := []
  /-- floor hold because the calibration block was invalid at the last start (R411, R494) -/
  calInvalid : Bool := false
  deriving DecidableEq, Repr, Inhabited

/-- A temperature sensor (R418, R425). -/
structure Sens where
  temp : BitVec 16 := 0
  peak : BitVec 15 := 0
  fail : Bool := false
  deriving DecidableEq, Repr, Inhabited

/-- The THERM block (R418 to R425). The trip log is in the battery domain. -/
structure Therm where
  sens : NMap Sens := []
  tripcnt : BitVec 16 := 0
  newest : BitVec 4 := 0
  trips : NMap (BitVec 256) := []
  /-- a trip has stopped the clocks and holds the rails down (R422) -/
  tripped : Bool := false
  /-- a trip was recorded since the last start (R422, R501) -/
  tripNew : Bool := false
  deriving DecidableEq, Repr, Inhabited

/-! ## Errors, security, start -/

/-- A running fence command (R437). -/
structure FenceJob where
  unit : BitVec 32
  drain : Bool
  deriving DecidableEq, Repr, Inhabited

/-- The ERR block (R434 to R445). -/
structure Err where
  funit : BitVec 32 := 0
  fdrain : Bool := false
  fence : Option FenceJob := none
  result : BitVec 2 := 0
  fatal : Bool := false
  logtail : BitVec 32 := 0
  failset : BitVec 64 := 0
  /-- fenced or absent logical cores of each cluster -/
  cfenced : NMap (BitVec 64) := []
  secfenced : BitVec 64 := 0
  log : NMap (BitVec 256) := []
  /-- time of the last corrected record of a unit, for merging: unit, slot, time (R436) -/
  merge : List (BitVec 32 × Nat × Nat) := []
  deriving DecidableEq, Repr, Inhabited

/-- A licence record (R447). -/
structure Licence where
  id : BitVec 32
  grant : BitVec 32
  digest : BitVec 256
  deriving DecidableEq, Repr, Inhabited

/-- The security block and the key store (R446 to R463). -/
structure Sec where
  /-- 0 MANUF, 1 PROVISIONED, 2 DEPLOYED, 3 DEBUG, 4 RETIRED (fuse) -/
  lcs : BitVec 3 := 1
  debugcnt : BitVec 4 := 0
  serial : BitVec 64 := 0
  enrolled : Bool := false
  keygen : Bool := false
  keygenOpen : Bool := false
  exhausted : Bool := false
  locked : Bool := false
  /-- the module is in lock since the last start (steps 2 and 3 of R458 done) -/
  lockInForce : Bool := false
  battlow : Bool := false
  skSeed : BitVec 256 := 0
  skPrf : BitVec 256 := 0
  pubSeed : BitVec 256 := 0
  root : BitVec 256 := 0
  dataRoot : BitVec 256 := 0
  /-- EPOCH and ACTIVE of each instance record -/
  epochs : NMap (BitVec 64) := []
  epochActive : BitVec 64 := 0
  licences : NMap Licence := []
  /-- the two copies of the signature index, each with its complement (R451) -/
  idxA : BitVec 32 := 0
  idxANot : BitVec 32 := 0xFFFFFFFF
  idxB : BitVec 32 := 0
  idxBNot : BitVec 32 := 0xFFFFFFFF
  nonce : Option (List Byte) := none
  /-- data-encryption keys held in the AES engine, by instance (R448) -/
  deks : NMap (BitVec 256) := []
  active : BitVec 7 := 0
  seen : BitVec 7 := 0
  tlogcnt : BitVec 16 := 0
  tlognext : BitVec 8 := 0
  tlog : NMap (BitVec 128) := []
  /-- when each source last made a tamper-log entry: source, slot, time (R461) -/
  tlogAt : List (Nat × Nat × Nat) := []
  seconds : BitVec 32 := 0
  meas : NMap (BitVec 256) := []
  /-- certificate chain in module flash, 16 KiB -/
  certs : NMap Byte := []
  deriving DecidableEq, Repr, Inhabited

/-- The BOOT block and module flash (R464 to R483). -/
structure Boot where
  cause : BitVec 8 := 0
  failstep : BitVec 3 := 0
  mode : BitVec 2 := 0
  recsrc : BitVec 3 := 0
  fusesvn : BitVec 8 := 0
  version : BitVec 32 := 0
  svn : BitVec 8 := 0
  bound : Bool := false
  recover : Bool := false
  /-- 0 EMPTY, 1 VERIFYING, 2 ARMED, 3 INSTALLING, 4 INSTALLED, 5 REJECTED -/
  stage : BitVec 3 := 0
  reason : BitVec 8 := 0
  erasing : Bool := false
  sversion : BitVec 32 := 0
  ssvn : BitVec 8 := 0
  steptime : NMap (BitVec 32) := []
  /-- a start is running (true: cold start), and its time origin -/
  starting : Option Bool := none
  t0 : Nat := 0
  /-- an asserted reset pin holds the module in warm reset -/
  held : Bool := false
  /-- BRINGUP and RECOVERY_N as sampled at t0 -/
  bringupAtT0 : Bool := false
  recoveryPin : Bool := false
  recoverAtT0 : Bool := false
  /-- active slot and staging area of module flash, by byte offset; erased bytes read 0xFF -/
  active : NMap Byte := []
  staging : NMap Byte := []
  /-- offsets of the staging area that have been written twice since its last erase (R473) -/
  rewritten : List Nat := []
  /-- the saved deskew and reference settings of each pseudo-channel, and their digest (R466, R493) -/
  hbmTrim : NMap (BitVec 64) := []
  hbmDigest : BitVec 256 := 0
  /-- the module has left lock, which no event has told yet (R411, R458) -/
  lockLeft : Bool := false
  /-- READY was reached by this start and the anti-rollback fuses have not been brought up to the image (R472) -/
  svnDue : Bool := false
  /-- physical cores whose sequencers failed the check of step 5 (R467) -/
  badCores : List (BitVec 32) := []
  deriving DecidableEq, Repr, Inhabited

/-- The BIST block (R477 to R484). -/
structure Bist where
  unit : BitVec 32 := 0
  target : BitVec 2 := 0
  legacy : Bool := false
  busy : Bool := false
  result : BitVec 3 := 0
  fails : BitVec 16 := 0
  failmap : NMap (BitVec 36) := []
  dur : BitVec 32 := 0
  since : Nat := 0
  scanned : Bool := false
  /-- lanes or channels of an analog test that are still to be tested, in their order (R477) -/
  left : List Nat := []
  /-- physical positions of failing spares that are not in use, fenced until the next start: cluster and position (R479) -/
  spares : List (Nat × Nat) := []
  deriving DecidableEq, Repr, Inhabited

/-- The PERS block, battery-backed (R508). -/
structure Pers where
  sust : BitVec 12 := 2800
  peak : BitVec 12 := 3600
  aelid : BitVec 12 := 0
  aelen : BitVec 24 := 0xFFFFFF
  cadSrc : BitVec 2 := 0
  cadLeader : Bool := false
  cadOuten : Bool := false
  cadRxlink : BitVec 5 := 0
  cadPeriod : BitVec 30 := 1000000
  cadTx : BitVec 24 := 0
  snapDiv : BitVec 16 := 0
  snapLog2 : BitVec 4 := 0
  losspol : BitVec 64 := 0
  snapaddr : BitVec 56 := 0
  /-- two bits per source: 0 lock, 1 erase, 2 lock, 3 lock, 4 lock, 5 notice, 6 lock (R456) -/
  galepol : BitVec 14 := 0x1159
  bringup : Bool := false
  failcnt : BitVec 4 := 0
  bootcnt : BitVec 32 := 0
  /-- unlisted slices have 8 -/
  quota : NMap (BitVec 4) := []
  deriving DecidableEq, Repr, Inhabited

/-- The capability descriptor that a die fuses (R399, R405). -/
structure DieFuse where
  kind : BitVec 4
  stepping : BitVec 8
  bundles : BitVec 7
  feat : BitVec 32
  deriving DecidableEq, Repr, Inhabited

/-- Fuses that other blocks report (R14, R18, R399, R407, R424). -/
structure Fuses where
  /-- capability descriptors of dies 0 to 5; an unlisted die has that of its position, a compute die of stepping 0xB0 -/
  dies : NMap DieFuse := []
  /-- spare use of a cluster at assembly: SUB0 to SUB3 and USED, 28 bits -/
  clusterMap : NMap (BitVec 28) := []
  /-- assembly lane maps of bundles -/
  bundleMap : NMap (BitVec 28) := []
  /-- ICCMAX of sectors in A; an unlisted sector has 60 -/
  iccmax : NMap (BitVec 8) := []
  deriving DecidableEq, Repr, Inhabited

/-- The calibration that a start has applied (R494): the power-meter gains in 16.16 fixed point and the current offset in mA, the droop
threshold of each sector in mV below the set point, the trim of each sensor in 1/256 °C, the lane presets and the reference offset of each
channel in steps of 0.25 %. An entry that a map leaves out has the value that an invalid block gives. -/
structure Cal where
  vgain : Nat := 65536
  igain : Nat := 65536
  ioff : Int := 0
  droop : NMap Nat := []
  ttrim : NMap Int := []
  lanes : NMap Preset := []
  vref : NMap Int := []
  deriving DecidableEq, Repr, Inhabited

/-- Module hardware, pins and sideband (R485 to R501). -/
structure Board where
  /-- VIN above lockout: standby rail and sideband up -/
  standby : Bool := true
  /-- VIN has passed the overvoltage shutdown and not come back below it (R488) -/
  overvolt : Bool := false
  pwrEn : Bool := true
  pwrGood : Bool := true
  /-- main rails up -/
  rails : Bool := true
  thermtrip : Bool := false
  /-- time of the last PWR_EN deassertion -/
  pwrOffAt : Nat := 0
  /-- the hot-swap controller has tripped (R488) -/
  hotTrip : Bool := false
  locate : Bool := false
  /-- calibration block in module flash, 4 KiB; an unlisted byte reads 0 -/
  cal : NMap Byte := []
  calBuf : Option (NMap Byte) := none
  /-- the block is being programmed; it was cut off in that and is invalid (R497) -/
  calProgramming : Bool := false
  calBroken : Bool := false
  /-- what the last start applied of it (R494) -/
  applied : Cal := {}
  /-- ID.CLUSTER_MAP of each cluster as the last start left it; an unlisted one is as fused -/
  clusterMap : NMap (BitVec 32) := []
  i3cAddr : Option (BitVec 7) := none
  /-- MCTP endpoint identifier and PLDM terminus identifier, 0 while unassigned (R498) -/
  eid : BitVec 8 := 0
  tid : BitVec 8 := 0
  /-- the bytes of a transmission unit, 64 to 256 (R498) -/
  unit : Nat := 64
  /-- PLDM events that wait for the bus owner: state sensor and its state at the change (R495, R499) -/
  pldm : List (BitVec 8 × Bool) := []
  /-- last reported state-sensor values, sensors 0 to 5 (R499) -/
  sensorState : NMap Bool := []
  deriving DecidableEq, Repr, Inhabited

/-- Why a unit is being drained (R27, R197): a reset of the unit, or the drain alone of a cluster; a fence; gating and its end;
a test; a pre-emption. A mailbox command that R361 orders stands in the same list with its mailbox, the instance it concerns and
the clusters it names. -/
inductive DrainWhy where
  | command | fence | gate | ungate | test | preempt
  | mailbox (mb inst : Nat) (clusters : List Nat)
  deriving DecidableEq, Repr, Inhabited

/-- A control command that has been accepted and has not ended, with its drain (R27, R29, R197). -/
structure Drain where
  unit : BitVec 32
  why : DrainWhy
  since : Nat
  /-- no earlier command on an overlapping unit holds it back any more (R29): tasks are held back from its cores -/
  begun : Bool
  /-- the unit has been drained and the action on it is under way -/
  acted : Bool
  deriving DecidableEq, Repr, Inhabited

/-- What reads of counter registers have latched: the high half of each 64-bit register whose low half has been read, by the register's
offset; and of each group of REEL.CSTAT the registers not read since its snapshot, with the values of the snapshot (R199, R444). -/
structure Latch where
  high : NMap (BitVec 32) := []
  groups : NMap (List Nat × List Nat) := []
  deriving DecidableEq, Repr, Inhabited

/-- The state of the block. -/
structure State where
  /-- commands that wait, first in first out -/
  pending : List Instr := []
  clock : Clock := {}
  out : List OutMsg := []
  cad : Cad := {}
  host : HostPort := {}
  dport : DPort := {}
  insts : NMap Inst := []
  cores : NMap Core := []
  clusters : NMap Cluster := []
  launches : List Launch := []
  mem : Mem := {}
  tlb : List TlbEntry := []
  slices : NMap Slice := []
  llc : Llc := {}
  hbm : Hbm := {}
  seq : Seq := {}
  ael : Ael := {}
  d2d : D2d := {}
  foehn : Foehn := {}
  therm : Therm := {}
  err : Err := {}
  sec : Sec := {}
  boot : Boot := {}
  bist : Bist := {}
  pers : Pers := {}
  fuses : Fuses := {}
  board : Board := {}
  /-- control commands in the order in which they were received -/
  drains : List Drain := []
  /-- latched high halves and group snapshots of the counters (R444) -/
  latch : Latch := {}
  deriving DecidableEq, Repr, Inhabited

/-- The module right after reset: the rails have come up, no start has begun yet, and COLD_START begins one. Instance 0
exists and holds every LLC way (R349). -/
def State.reset : State := { insts := [(0, { state := .active, ways := 0xFFFF })] }

end Sys2Proof.Machine
end

