-- ==== Sys2Proof/Machine/Flags.lean ====
section
/-! DEFINITION. Counters and their sticky bits (R256, R442, R443), and the 16-bit error counters. -/

namespace Sys2Proof.Machine
open Sys2Proof

/-- The largest value of a 48-bit counter (R442). -/
def ctrMax : Nat := 2 ^ 48 - 1

/-- A 48-bit counter that n is added to: it stops at all ones and sets OVF (R256, R442). -/
def Ctr.add (c : Ctr) (n : Nat) : Ctr :=
  if c.count + n > ctrMax then { c with count := ctrMax, ovf := true } else { c with count := c.count + n }

/-- The 64-bit register view of a counter: COUNT in [47:0], OVF in [63]. -/
def Ctr.reg (c : Ctr) : Nat := c.count + b2n c.ovf * 2 ^ 63

/-- A 16-bit error counter, which stops at 0xFFFF (R442). -/
def sat16 (c : BitVec 16) (n : Nat) : BitVec 16 := BitVec.ofNat 16 (min 0xFFFF (c.toNat + n))

/-- A W1C write of all ones clears a 16-bit counter, any other value leaves it (R442). -/
def clr16 (c : BitVec 16) (v : Nat) : BitVec 16 := if v % 2 ^ 16 = 0xFFFF then 0 else c

/-- Signed difference of two 32-bit ring indices or counter values (R95, R324). -/
def diff32 (a b : BitVec 32) : Int := (a - b).toInt

end Sys2Proof.Machine
end

