-- ==== Sys2Proof/Machine/Ops.lean ====
section
/-! DEFINITION. The named operations on the state that every family shares: access to the numbered units, unit IDs,
writes to host memory, interrupts, event records, error records and completions. -/

namespace Sys2Proof.Machine
open Sys2Proof

/-- The outcome of a command. -/
abbrev Out := Host.Outcome State Fault Refusal

/-- A command that names a unit the package does not have stops (R12, R31, R348); any other goes on. -/
def onUnit (ok : Bool) (t : State) : Out := if ok then .next t else .fault .noSuchUnit

/-! ## Numbered units -/

def State.inst (s : State) (i : Nat) : Inst := NMap.at s.insts i {}
def State.setInst (s : State) (i : Nat) (x : Inst) : State := { s with insts := NMap.put {} s.insts i x }
def State.updInst (s : State) (i : Nat) (f : Inst → Inst) : State := s.setInst i (f (s.inst i))

def State.core (s : State) (g : Nat) : Core := NMap.at s.cores g {}
def State.setCore (s : State) (g : Nat) (x : Core) : State := { s with cores := NMap.put {} s.cores g x }
def State.updCore (s : State) (g : Nat) (f : Core → Core) : State := s.setCore g (f (s.core g))

def State.cluster (s : State) (n : Nat) : Cluster := NMap.at s.clusters n {}
def State.setCluster (s : State) (n : Nat) (x : Cluster) : State := { s with clusters := NMap.put {} s.clusters n x }
def State.updCluster (s : State) (n : Nat) (f : Cluster → Cluster) : State := s.setCluster n (f (s.cluster n))

def State.slice (s : State) (n : Nat) : Slice := NMap.at s.slices n {}
def State.setSlice (s : State) (n : Nat) (x : Slice) : State := { s with slices := NMap.put {} s.slices n x }
def State.updSlice (s : State) (n : Nat) (f : Slice → Slice) : State := s.setSlice n (f (s.slice n))

def State.pch (s : State) (n : Nat) : Pch := NMap.at s.hbm.pch n {}
def State.setPch (s : State) (n : Nat) (x : Pch) : State := { s with hbm := { s.hbm with pch := NMap.put {} s.hbm.pch n x } }
def State.updPch (s : State) (n : Nat) (f : Pch → Pch) : State := s.setPch n (f (s.pch n))

def State.link (s : State) (n : Nat) : Link := NMap.at s.ael.links n {}
def State.setLink (s : State) (n : Nat) (x : Link) : State := { s with ael := { s.ael with links := NMap.put {} s.ael.links n x } }
def State.updLink (s : State) (n : Nat) (f : Link → Link) : State := s.setLink n (f (s.link n))

def State.bundle (s : State) (n : Nat) : Bundle := NMap.at s.d2d.bundles n {}
def State.setBundle (s : State) (n : Nat) (x : Bundle) : State := { s with d2d := { s.d2d with bundles := NMap.put {} s.d2d.bundles n x } }
def State.updBundle (s : State) (n : Nat) (f : Bundle → Bundle) : State := s.setBundle n (f (s.bundle n))

def State.sectorClk (s : State) (n : Nat) : SectorClk := NMap.at s.foehn.sectors n {}
def State.setSectorClk (s : State) (n : Nat) (x : SectorClk) : State :=
  { s with foehn := { s.foehn with sectors := NMap.put {} s.foehn.sectors n x } }
def State.updSectorClk (s : State) (n : Nat) (f : SectorClk → SectorClk) : State := s.setSectorClk n (f (s.sectorClk n))

def State.sensor (s : State) (n : Nat) : Sens := NMap.at s.therm.sens n {}
def State.setSensor (s : State) (n : Nat) (x : Sens) : State := { s with therm := { s.therm with sens := NMap.put {} s.therm.sens n x } }

def State.coll (s : State) (n : Nat) : Coll := NMap.at s.ael.coll n {}
def State.setColl (s : State) (n : Nat) (x : Coll) : State := { s with ael := { s.ael with coll := NMap.put {} s.ael.coll n x } }

def State.wset (s : State) (n : Nat) : WSet := NMap.at s.seq.sets n {}
def State.setWset (s : State) (n : Nat) (x : WSet) : State := { s with seq := { s.seq with sets := NMap.put {} s.seq.sets n x } }

/-- The registered launch of an instance and ring index. -/
def State.launch (s : State) (i idx : Nat) : Option Launch := s.launches.find? (fun l => l.inst = i && l.idx = idx)
def State.setLaunch (s : State) (l : Launch) : State :=
  { s with launches := s.launches.map (fun m => if m.inst = l.inst && m.idx = l.idx then l else m) }
def State.updLaunch (s : State) (i idx : Nat) (f : Launch → Launch) : State :=
  match s.launch i idx with
  | some l => s.setLaunch (f l)
  | none => s

/-- The group in a slot of a core. -/
def State.group (s : State) (g slot : Nat) : Option Group := NMap.find (s.core g).slots slot
def State.setGroup (s : State) (g slot : Nat) (x : Group) : State :=
  s.updCore g (fun c => { c with slots := NMap.ins c.slots slot x })
def State.updGroup (s : State) (g slot : Nat) (f : Group → Group) : State :=
  match s.group g slot with
  | some x => s.setGroup g slot (f x)
  | none => s

/-- SEC.VARIANT: the OR of GRANT over the valid licence records (R454). -/
def State.variant (s : State) : BitVec 32 := s.sec.licences.foldl (fun a l => a ||| l.2.grant) 0

/-- A message sent outside the part. -/
def State.send (s : State) (m : OutMsg) : State := { s with out := s.out ++ [m] }

/-- The next free value, and the state past it (R-silent values of `Config`). -/
def State.draw (s : State) : BitVec 64 × State :=
  (Config.freeWord s.clock.free, { s with clock := { s.clock with free := s.clock.free + 1 } })

/-- n free bytes. -/
def State.drawBytes (s : State) (n : Nat) : List Byte × State :=
  ((List.range n).map (fun i => BitVec.truncate 8 (Config.freeWord (s.clock.free + i))),
    { s with clock := { s.clock with free := s.clock.free + n } })

/-- A free 256-bit number. -/
def State.draw256 (s : State) : BitVec 256 × State :=
  let f := fun i => (Config.freeWord (s.clock.free + i)).toNat
  (BitVec.ofNat 256 (f 0 + 2 ^ 64 * f 1 + 2 ^ 128 * f 2 + 2 ^ 192 * f 3),
    { s with clock := { s.clock with free := s.clock.free + 4 } })

/-! ## Numbering and unit IDs (R31 to R34) -/

/-- A unit ID from its fields (R32). -/
def unitId (kind die hemi sub low : Nat) : BitVec 32 :=
  BitVec.ofNat 32 (kind * 2 ^ 28 + die * 2 ^ 25 + hemi * 2 ^ 24 + sub * 2 ^ 20 + low * 2 ^ 12)

def coreUnit (g : Nat) : BitVec 32 := unitId 1 (g / 2048) (g / 1024 % 2) (g / 64 % 16) (g % 64)
def clusterUnit (n : Nat) : BitVec 32 := unitId 2 (n / 32) (n / 16 % 2) (n % 16) 0
def sliceUnit (n : Nat) : BitVec 32 := unitId 3 (n / 64) (n / 32 % 2) 0 (n % 32)
def pchUnit (n : Nat) : BitVec 32 := unitId 4 (n / 256) (n / 128 % 2) (n / 64 % 2) (n % 64)
def linkUnit (n : Nat) : BitVec 32 := unitId 5 (if n < 12 then 4 else 5) 0 0 n
def sectorUnit (n : Nat) : BitVec 32 := unitId 7 (n / 16) (n / 8 % 2) (n % 8) 0
def stewardUnit (d : Nat) : BitVec 32 := unitId 8 d 0 0 0
def blockUnit (die code : Nat) : BitVec 32 := unitId 9 die 0 0 code
def stackUnit (n : Nat) : BitVec 32 := unitId 0xA (n / 4) (n / 2 % 2) (n % 2) 0
def bridgeUnit (d : Nat) : BitVec 32 := unitId 0xB d 0 0 0

/-- The link router of a link (R34). -/
def routerUnit (link : Nat) : BitVec 32 := blockUnit (if link < 12 then 4 else 5) 8

/-- The cluster and the sector of a core (R22). -/
def clusterOf (g : Nat) : Nat := g / 64
def sectorOf (g : Nat) : Nat := g / 1024 * 8 + (2 * (g / 64 % 16 / 4) + g % 64 / 32)

/-- The cores of a cluster, and of a sector (R21), in ascending order. -/
def coresOf (n : Nat) : List Nat := (List.range 64).map (fun c => n * 64 + c)
def sectorCores (x : Nat) : List Nat :=
  (List.range 4).flatMap (fun j => (List.range 32).map (fun c =>
    x / 8 * 1024 + (4 * (x % 8 / 2) + j) * 64 + x % 8 % 2 * 32 + c))
/-- The four clusters that a sector touches (R21). -/
def sectorClusters (x : Nat) : List Nat := (List.range 4).map (fun j => x / 8 * 16 + 4 * (x % 8 / 2) + j)

/-- Whether a core is fenced or absent (R17). -/
def State.fencedCore (s : State) (g : Nat) : Bool := ((NMap.at s.err.cfenced (g / 64) 0).toNat).testBit (g % 64)

/-- The logical cores of a core, cluster or sector; none for a core in physical form. -/
def unitCores (u : BitVec 32) : List Nat :=
  let w := u.toNat
  let d := fld w 25 3
  let h := fld w 24 1
  let k := fld w 20 4
  match fld w 28 4 with
  | 1 => if bit w 19 then [] else [d * 2048 + h * 1024 + k * 64 + fld w 12 7]
  | 2 => coresOf (d * 32 + h * 16 + k)
  | 7 => sectorCores (d * 16 + h * 8 + k)
  | _ => []

/-- Whether a unit ID names a logical core, a cluster or a sector of the package. -/
def coreUnitOk (u : BitVec 32) : Bool :=
  match unitCores u with
  | [] => false
  | g :: _ => g < 8192 && (u = coreUnit g || u = clusterUnit (clusterOf g) || u = sectorUnit (sectorOf g))

/-- Whether a drain holds tasks back from a core (R197). -/
def State.draining (s : State) (g : Nat) : Bool := s.drains.any (fun d => d.begun && (unitCores d.unit).contains g)

/-- Whether a core may take work: present, its cluster and sector in service and clocked, not drained, and no
package-fatal error or thermal trip (R17, R26, R197, R412, R441). -/
def State.coreUp (s : State) (g : Nat) : Bool :=
  let k := s.sectorClk (sectorOf g)
  g < 8192 && !s.fencedCore g && !(s.cluster (clusterOf g)).fenced && !(s.err.secfenced.toNat.testBit (sectorOf g))
    && !k.gate && k.mhz ≠ 0 && !s.err.fatal && !s.therm.tripped && s.board.rails

/-! ## Accesses of BAR0 (R318, R319, R446, R475) -/

/-- Whether an access of a source reaches a block that answers only from READY. -/
def State.regOpen (s : State) (src : Nat) : Bool := src = 0 && s.host.ready && s.sec.lcs ≠ 4

/-- Whether the blocks that answer from the second step of a start on take an access of a source. -/
def State.earlyOpen (s : State) (src : Nat) : Bool := src = 0 && (2 ≤ s.host.step.toNat || s.host.failed)

/-- The same for the DPORT and BOOT blocks, which a retired part does not answer. -/
def State.bootOpen (s : State) (src : Nat) : Bool := s.earlyOpen src && s.sec.lcs ≠ 4

/-- Whether the doorbells and INTCTL of the BAR4 pages answer. -/
def State.ringsOpen (s : State) : Bool := s.bootOpen 0 && !s.host.recovery

/-! ## Host memory and interrupts -/

/-- Where the host's memory holds a bus address that a request with an instance's PASID names (R315, R320; DESIGN CHOICE, log
103: no two PASIDs name the same memory). -/
def State.hostAt (s : State) (i bus : Nat) : Nat := (s.inst i).pasid.toNat * 2 ^ 64 + bus

/-- A write of the part to host memory at a bus address, with the PASID of an instance; once the port is stopped it is discarded
(R320, R344). -/
def State.hostWrite (s : State) (i bus : Nat) (bs : List Byte) : State :=
  if s.host.stopped then s else { s with mem := { s.mem with host := NMap.putBytes 0 s.mem.host (s.hostAt i bus) bs } }

/-- A read of host memory at a bus address, with the PASID of an instance. -/
def State.hostRead (s : State) (i bus n : Nat) : List Byte := NMap.bytes 0 s.mem.host (s.hostAt i bus) n

/-- The reset value of an MSI-X table entry: its mask bit set (R345). -/
def msixReset : BitVec 128 := BitVec.ofNat 128 (2 ^ 96)

/-- An interrupt on a vector: sent, or pending where the table masks the vector (R338). -/
def State.interrupt (s : State) (v : Nat) : State :=
  if s.host.stopped then s
  else
    let e := NMap.at s.host.msix v msixReset
    if e.getLsbD 96 then { s with host := { s.host with pba := insNat s.host.pba v } }
    else s.send (.msix v (e.truncate 64) (BitVec.ofNat 32 (e.toNat / 2 ^ 64)))

/-! ## Event records (R336 to R338) -/

/-- The 32 bytes of a record. -/
def Record.bytes (r : Record) : List Byte :=
  leBytes 1 r.cls.toNat ++ leBytes 2 r.code.toNat ++ leBytes 1 r.flags.toNat ++ leBytes 4 r.unit.toNat
    ++ leBytes 8 r.beat.toNat ++ leBytes 4 r.phase.toNat ++ leBytes 12 r.detail.toNat

/-- A record of a class and code at the present beat and phase. -/
def State.record (s : State) (cls code flags : Nat) (unit : BitVec 32) (detail : Nat) : Record :=
  { cls := BitVec.ofNat 8 cls, code := BitVec.ofNat 16 code, flags := BitVec.ofNat 8 flags, unit := unit,
    beat := s.cad.beat, phase := s.cad.phase, detail := BitVec.ofNat 96 detail }

/-- A record written at EQTAIL, and its interrupt (R336, R338). -/
def State.putRecord (s : State) (i : Nat) (r : Record) : State :=
  let g := (s.inst i).ring
  let s := s.hostWrite i (g.eqbase.toNat + 32 * (g.eqtail.toNat % 2 ^ g.eqlog)) r.bytes
  let s := s.updInst i (fun x => { x with ring := { x.ring with eqtail := x.ring.eqtail + 1 } })
  if g.eqmask then s else s.interrupt g.eqvec.toNat

/-- Whether the event ring has a free slot. -/
def Ring.eqFree (g : Ring) : Bool := (g.eqtail - g.eqhead).toNat < 2 ^ g.eqlog

/-- An event for an instance: written, held behind a full ring, or dropped and counted (R337). -/
def State.event (s : State) (i : Nat) (r : Record) : State :=
  let g := (s.inst i).ring
  let drop := fun (x : Inst) => { x with ring := { x.ring with eqdrop := sat16 x.ring.eqdrop 1, lost := x.ring.lost + 1 } }
  if !g.en then s.updInst i drop
  else if g.eqHeld = [] && g.eqFree then s.putRecord i r
  else if g.eqHeld.length < 64 then s.updInst i (fun x => { x with ring := { x.ring with eqHeld := x.ring.eqHeld ++ [r] } })
  else s.updInst i drop

/-- Held events written as slots free, oldest first, at most n of them. -/
def State.flushHeld : Nat → State → Nat → State
  | 0, s, _ => s
  | n + 1, s, i =>
    let g := (s.inst i).ring
    match g.eqHeld with
    | [] =>
      if g.lost ≠ 0 && g.eqFree then
        let s1 := s.putRecord i (s.record 3 3 0 (blockUnit 4 0) (min 0xFFFF g.lost))
        s1.updInst i (fun x => { x with ring := { x.ring with lost := 0 } })
      else s
    | r :: rs =>
      if g.eqFree then
        let s1 := s.updInst i (fun x => { x with ring := { x.ring with eqHeld := rs } })
        (s1.putRecord i r).flushHeld n i
      else s

/-- An event that is written once the ring is enabled (R422, R458, R468, R494). -/
def State.eventLater (s : State) (i : Nat) (r : Record) : State :=
  if (s.inst i).ring.en then s.event i r
  else s.updInst i (fun x => { x with ring := { x.ring with eqHeld := x.ring.eqHeld ++ [r] } })

/-- An event written to each of several instances. -/
def State.eventTo (s : State) (l : List Nat) (r : Record) : State := l.foldl (fun s i => s.event i r) s

/-! ## Error records (R434 to R436) -/

/-- The detail bytes of an error record. -/
def errDetail (addr pos synd inst count : Nat) : Nat :=
  addr % 2 ^ 56 + pos * 2 ^ 56 + synd * 2 ^ 64 + inst * 2 ^ 80 + count * 2 ^ 88

/-- A record written to the ERR log (R436). -/
def State.log (s : State) (r : Record) : State :=
  let k := s.err.logtail.toNat % 1024
  { s with err := { s.err with log := NMap.put 0 s.err.log k (BitVec.ofNat 256 (ofLe r.bytes)), logtail := s.err.logtail + 1 } }

/-- A corrected error: merged into the unit's record of the last 1 ms, or a record of its own (R436). -/
def State.logCorrected (s : State) (unit : BitVec 32) (addr pos synd inst : Nat) : State :=
  match s.err.merge.find? (fun m => m.1 = unit && s.clock.now < m.2.2 + 1000000 && (s.err.logtail.toNat + 2 ^ 32 - m.2.1) % 2 ^ 32 ≤ 1024) with
  | some m =>
    let k := m.2.1 % 1024
    let v := (NMap.at s.err.log k 0).toNat
    let v := setFld v 248 8 (min 255 (fld v 248 8 + 1))
    let v := setFld v 26 1 1
    { s with err := { s.err with log := NMap.put 0 s.err.log k (BitVec.ofNat 256 v) } }
  | none =>
    let k := s.err.logtail.toNat
    let s := s.log (s.record 2 1 1 unit (errDetail addr pos synd inst 0))
    { s with err := { s.err with merge := (unit, k, s.clock.now) :: s.err.merge.filter (fun m => m.1 ≠ unit) } }

/-- An error record to the log and to instances, each once; those of a start reach a ring once it is enabled (R435, R436,
R468). -/
def State.errRecord (s : State) (code flags : Nat) (unit : BitVec 32) (detail : Nat) (dests : List Nat) : State :=
  let r := s.record 2 code flags unit detail
  if s.host.ready then (s.log r).eventTo dests.eraseDups r
  else dests.eraseDups.foldl (fun (s : State) i => s.eventLater i r) (s.log r)

/-! ## Completions (R333, R334, R338) -/

/-- The CQ interrupt after a completion, with coalescing (R338). -/
def State.cqInterrupt (s : State) (i : Nat) : State :=
  let g := (s.inst i).ring
  if g.cqmask then s
  else if g.cqcnt = 0 && g.cqtime = 0 then s.interrupt g.cqvec.toNat
  else
    let p := g.cqPending + 1
    if g.cqcnt ≠ 0 && p ≥ g.cqcnt.toNat then
      (s.updInst i (fun x => { x with ring := { x.ring with cqPending := 0, cqFirst := none } })).interrupt g.cqvec.toNat
    else
      s.updInst i (fun x => { x with ring := { x.ring with
        cqPending := p, cqFirst := some (x.ring.cqFirst.getD s.clock.now) } })

/-- The bytes of a completion entry. -/
def cqBytes (tag status gen ty : Nat) (phase : Bool) (sqhead : Nat) (result : Nat) : List Byte :=
  leBytes 2 tag ++ leBytes 2 status ++ leBytes 2 gen ++ leBytes 1 ty ++ leBytes 1 (b2n phase) ++ leBytes 4 sqhead
    ++ leBytes 4 0 ++ leBytes 12 result ++ leBytes 4 0

/-- A completion written at CQTAIL (R333, R334). -/
def State.putCompletion (s : State) (i : Nat) (tag status ty : Nat) (noirq : Bool) (result : Nat) : State :=
  let x := s.inst i
  let g := x.ring
  let phase := !(g.cqtail.toNat.testBit g.cqlog)
  let s := s.hostWrite i (g.cqbase.toNat + 32 * (g.cqtail.toNat % 2 ^ g.cqlog))
    (cqBytes tag status x.gen.toNat ty phase g.sqhead.toNat result)
  let s := s.updInst i (fun x => { x with ring := { x.ring with cqtail := x.ring.cqtail + 1 } })
  if noirq then s else s.cqInterrupt i

/-- The fetched entry of an instance with a ring index. -/
def State.entry (s : State) (i idx : Nat) : Option Entry := (s.inst i).entries.find? (fun e => e.index.toNat = idx)

def State.updEntry (s : State) (i idx : Nat) (f : Entry → Entry) : State :=
  s.updInst i (fun x => { x with entries := x.entries.map (fun e => if e.index.toNat = idx then f e else e) })

/-- An entry completes with a status and a result: it leaves the instance's list, a LAUNCH entry's status is kept for
the dependencies that name it (R182), and a completion is written unless NOCOMP holds it back (R327). -/
def State.complete (s : State) (i idx status : Nat) (result : Nat) : State :=
  match s.entry i idx with
  | none => s
  | some e =>
    let ty := leAt e.bytes 0 1
    let nocomp := bit (leAt e.bytes 1 1) 0
    let noirq := bit (leAt e.bytes 1 1) 1
    let s := s.updInst i (fun x => { x with
      entries := x.entries.filter (fun e => e.index.toNat ≠ idx)
      launchLog := x.launchLog.map (fun p => if p.1.toNat = idx then (p.1, some (BitVec.ofNat 16 status)) else p) })
    if nocomp && status = 0 then s else s.putCompletion i (idx % 2 ^ 16) status ty noirq result

end Sys2Proof.Machine
end

