-- ==== Sys2Proof/Machine/Caches.lean ====
section
/-! DEFINITION. HBM, the LLC slices, the directories and the cluster L2s (chapters "HBM memory system" and "Cluster
caches, the LLC and coherence"): the home's actions of R244 as operations on the state. -/

namespace Sys2Proof.Machine
open Sys2Proof

/-- A byte with the poison mark of its granule. -/
abbrev PByte := Byte × Bool

/-- Bytes without poison. -/
def clean (bs : List Byte) : List PByte := bs.map (fun b => (b, false))
def plain (bs : List PByte) : List Byte := bs.map Prod.fst
def anyPoison (bs : List PByte) : Bool := bs.any Prod.snd

/-- The offset of the first poisoned byte of a run: an error record names its granule (R434). -/
def firstBad (bs : List PByte) : Nat := bs.findIdx Prod.snd

/-! ## Sectors and lines -/

/-- Bytes [off, off + n) of a sector. -/
def Sector.read (x : Sector) (off n : Nat) : List PByte :=
  (List.range n).map (fun i => (BitVec.ofNat 8 (x.data.toNat >>> (8 * (off + i))), x.poison.getLsbD ((off + i) / 16)))

/-- Bytes written into a sector from an offset. A granule written whole takes the poison of its new bytes, one written
in part stays poisoned if it was (R430). -/
def Sector.write (x : Sector) (off : Nat) (bs : List PByte) : Sector :=
  let d := setFld x.data.toNat (8 * off) (8 * bs.length) (ofLe (plain bs))
  let pz := fun (g : Nat) =>
    let lo := max off (16 * g)
    let hi := min (off + bs.length) (16 * g + 16)
    if hi ≤ lo then x.poison.getLsbD g
    else anyPoison ((bs.drop (lo - off)).take (hi - lo)) || (hi - lo < 16 && x.poison.getLsbD g)
  { data := BitVec.ofNat 256 d, poison := BitVec.ofNat 2 (b2n (pz 0) + 2 * b2n (pz 1)) }

def LineData.get (d : LineData) (j : Nat) : Sector :=
  match j with
  | 0 => d.s0
  | 1 => d.s1
  | 2 => d.s2
  | _ => d.s3

def LineData.set (d : LineData) (j : Nat) (x : Sector) : LineData :=
  match j with
  | 0 => { d with s0 := x }
  | 1 => { d with s1 := x }
  | 2 => { d with s2 := x }
  | _ => { d with s3 := x }

/-- The one-bit mask of a sector. -/
def secBit (j : Nat) : BitVec 4 := BitVec.ofNat 4 (1 <<< j)

/-! ## HBM -/

/-- The line address of a device address (R229). -/
def lineOf (pa : Nat) : Nat := pa / 128

/-- Whether a device address lies in this module's HBM, in the host window, in a peer module (R205). -/
def inHbm (pa : Nat) : Bool := pa < 2 ^ 40
def inHost (pa : Nat) : Bool := 2 ^ 52 ≤ pa && pa < 2 ^ 55
def inPeer (pa : Nat) : Bool := 2 ^ 55 ≤ pa && pa < 2 ^ 55 + 2 ^ 52

/-- The hemi d × 2 + h beside which HBM holds a device address (R260). -/
def hemiOf (pa : Nat) : Nat :=
  let l := pa / 128 % 2 ^ 14
  (l ^^^ (l >>> 3) ^^^ (l >>> 6) ^^^ (l >>> 9)) % 8

/-- The global pseudo-channel of a device address (R260). -/
def pchOf (pa : Nat) : Nat :=
  let set := pa / 2 ^ 21 % 128
  let e := hemiOf pa
  (4 * (e / 2) + 2 * (e % 2) + set / 64) * 64 + set % 64

/-- The row of a device address in its pseudo-channel, with bank group, bank and stack ID (R260). -/
def hbmRow (pa : Nat) : Nat :=
  let page := pa / 2 ^ 21
  let l := pa / 128 % 2 ^ 14
  let o := (page / 128) * 2 ^ 18 + (l / 8) * 128 + pa % 128
  let bg := ((o >>> 10) ^^^ (o >>> 20)) % 4
  let bank := ((o >>> 12) ^^^ (o >>> 22)) % 4
  (o >>> 16) % 2 ^ 14 * 64 + (o >>> 14) % 4 * 16 + bank * 4 + bg

/-- The column of a device address: its 32-byte burst in the row (R260). -/
def hbmColumn (pa : Nat) : Nat :=
  let page := pa / 2 ^ 21
  let l := pa / 128 % 2 ^ 14
  (((page / 128) * 2 ^ 18 + (l / 8) * 128 + pa % 128) >>> 5) % 32

/-- The free bytes that stand for contents destroyed by margining, over one sector; zero elsewhere (R268). -/
def State.lostMask (s : State) (p : Nat) : Nat :=
  match NMap.find s.mem.lost (8 * (p / 2 ^ 21) + hemiOf p) with
  | none => 0
  | some k => ofLe ((List.range 32).map (fun i => Config.freeByte k (p + i)))

/-- One sector as HBM holds it; a fenced pseudo-channel returns poison (R267). -/
def State.hbmSector (s : State) (pa : Nat) : Sector :=
  let p := alignDown pa 32
  { data := BitVec.ofNat 256 (ofLe (NMap.bytes 0 s.mem.hbm p 32) ^^^ s.lostMask p),
    poison := if (s.pch (pchOf p)).state = 1 then 3
      else BitVec.ofNat 2 (b2n (s.mem.hbmPoison.contains (p / 16)) + 2 * b2n (s.mem.hbmPoison.contains (p / 16 + 1))) }

/-- The poison marks of a sector's two granules set in the list of poisoned granules. -/
def markPoison (l : List Nat) (p : Nat) (m : BitVec 2) : List Nat :=
  let l := l.filter (fun g => g ≠ p / 16 && g ≠ p / 16 + 1)
  let l := if m.getLsbD 0 then insNat l (p / 16) else l
  if m.getLsbD 1 then insNat l (p / 16 + 1) else l

/-- One sector written to HBM; a fenced pseudo-channel discards it (R267). -/
def State.hbmPut (s : State) (pa : Nat) (x : Sector) : State :=
  let p := alignDown pa 32
  if (s.pch (pchOf p)).state = 1 then s
  else { s with mem := { s.mem with
    hbm := NMap.putBytes 0 s.mem.hbm p (leBytes 32 (x.data.toNat ^^^ s.lostMask p))
    hbmPoison := markPoison s.mem.hbmPoison p x.poison } }

/-! ## Homing (R236 to R239) -/

/-- The near-home range of a device address (R237). -/
def State.nearRange (s : State) (pa : Nat) : Option (Nat × NearHome) :=
  s.llc.nh.find? (fun e => match e.2.live with
    | some (lo, hi, _) => lo ≤ pa / 2 ^ 21 && pa / 2 ^ 21 ≤ hi
    | none => false)

/-- The next slice of the die that is not fenced (R239). -/
def State.nextSlice (s : State) : Nat → Nat → Nat
  | 0, h => h
  | n + 1, h => if (s.slice h).fenced then s.nextSlice n (h / 64 * 64 + (h + 1) % 64) else h

/-- home_slice of R236. -/
def State.homeSlice (s : State) (pa : Nat) : Nat :=
  let a := pa / 128 % 2 ^ 49
  let h := (List.range 7).foldl (fun h j => h ^^^ (a >>> (8 * j)) % 256) 0
  let h := match s.nearRange pa with
    | some (_, r) => (match r.live with
      | some (_, _, die) => die
      | none => 0) * 64 + h % 64
    | none => h
  s.nextSlice 64 h

/-! ## LLC counters and pins (R250, R254) -/

/-- Who asks at a home: the LLC class (R253), the way mask of the instance, whether the access allocates (R234), the pin
attribute of its page and the instance (R239, R251), whether the sectors it touches are delivered to the requester (R254),
the sectors that an earlier request of the same fill has read from HBM (R235), whether it is a GetSec, which the owner serves
with clean sectors too (R244), and the class in which a sector that the LLC lacks is asked of HBM: none where that was done
when the request came in (R261). -/
structure Acc where
  cls : Nat := 6
  ways : BitVec 16 := 0xFFFF
  alloc : Bool := true
  pinPage : Bool := false
  inst : Option Nat := none
  deliver : Bool := true
  fetched : BitVec 4 := 0
  getsec : Bool := false
  ask : Option Prio := none
  deriving DecidableEq, Repr

/-- An LLC counter of a slice: kind 0 HITU, 1 HITP, 2 MISS, 3 PINREF, 4 RDB (R254). -/
def State.count (s : State) (n cls kind k : Nat) : State :=
  s.updSlice n (fun x => { x with cnt := NMap.upd {} x.cnt (5 * cls + kind) (fun c => c.add k) })

def llcSet (a : Nat) : Nat := (a / 256 % 2 ^ 20) % 768
def dirSet (a : Nat) : Nat := a / 256 % 2048
def l2Set (a : Nat) : Nat := (a ^^^ (a >>> 11)) % 2048

def Slice.line (x : Slice) (a : Nat) : Option LlcLine := x.lines.find? (fun l => l.a = a)

/-- A line put in front as the most recently used. -/
def Slice.setLine (x : Slice) (l : LlcLine) : Slice := { x with lines := l :: x.lines.filter (fun m => m.a ≠ l.a) }
def Slice.dropLine (x : Slice) (a : Nat) : Slice := { x with lines := x.lines.filter (fun m => m.a ≠ a) }

/-- The pinned-way quota of a slice (R250). -/
def State.quota (s : State) (n : Nat) : Nat := (NMap.at s.llc.quota n 8).toNat

/-- Whether a pin of line a would be granted, its way being w (R250). -/
def State.pinOk (s : State) (n a w : Nat) (ways : BitVec 16) : Bool :=
  let pinned := (s.slice n).lines.filter (fun l => llcSet l.a = llcSet a && l.pinned)
  let inMask := (pinned.filter (fun l => ways.getLsbD l.way)).length + b2n (ways.getLsbD w)
  pinned.length < s.quota n && popc 16 ways.toNat ≥ inMask + 4

/-- The weight set that is resident at a page and its number (R292, R301). -/
def State.setAt (s : State) (page : Nat) : Option (Nat × WSet) :=
  s.seq.sets.find? (fun e => (e.2.state = 3 || e.2.state = 2) && e.2.first ≤ page && page < e.2.first + e.2.pages)

/-- The resident, restorable and not failed weight set of a device address (R431, R433). -/
def State.restorable (s : State) (pa : Nat) : Option Nat :=
  if !inHbm pa then none
  else match s.setAt (pa / 2 ^ 21) with
    | some (n, w) => if w.state = 3 && w.restorable && !s.err.failset.toNat.testBit n then some n else none
    | none => none

/-- A restore begun for the line or the 4 KiB block of a device address; one at a time for each (R431, R432). -/
def State.startRestore (s : State) (pa : Nat) (block : Bool) : State :=
  let p := alignDown pa (if block then 4096 else 128)
  match s.restorable pa with
  | none => s
  | some n =>
    if s.seq.restores.any (fun r => r.pa = p && r.block = block) then s
    else { s with seq := { s.seq with restores := s.seq.restores ++ [{ pa := p, block := block, set := n, since := s.clock.now }] } }

/-- One sector written to HBM by a slice: the data is in HBM at once, and the write takes its place in the queue of its
class at the pseudo-channel (R261, R262). A fenced pseudo-channel discards it (R267). -/
def State.hbmStore (s : State) (n pa : Nat) (x : Sector) (bulk : Bool) : State :=
  if (s.pch (pchOf pa)).state = 1 then s
  else
    let q : HbmReq := { id := s.hbm.nextReq, slice := n, a := lineOf pa, sec := pa % 128 / 32, bypassed := 0,
                        since := s.clock.now, write := true }
    let s := s.hbmPut pa x
    let s := { s with hbm := { s.hbm with nextReq := s.hbm.nextReq + 1 } }
    s.updPch (pchOf pa) (fun p => if bulk then { p with bulk := p.bulk ++ [q] } else { p with norm := p.norm ++ [q] })

/-- Poison that a write-back finds in a sector begins the restore of a restorable set's line (R431). -/
def State.mendSector (s : State) (pa : Nat) (x : Sector) : State := if x.poison ≠ 0 then s.startRestore pa false else s

/-- An LLC line that leaves: dirty sectors go to HBM in the class of the request that dirtied them last, dead sectors as
zeros (R234, R247, R261, R431). -/
def State.llcEvict (s : State) (n : Nat) (l : LlcLine) : State :=
  let s := (List.range 4).foldl (fun s j =>
    if l.dead.getLsbD j then s.hbmStore n (128 * l.a + 32 * j) {} l.bulk
    else if l.dirty.getLsbD j then (s.hbmStore n (128 * l.a + 32 * j) (l.d.get j) l.bulk).mendSector (128 * l.a + 32 * j) (l.d.get j) else s) s
  s.updSlice n (fun x => x.dropLine l.a)

/-- The way in which a new line of a set would stand: a free way of the mask, else that of the least recently used
unpinned line in the mask (R234). -/
def State.llcWay (s : State) (n a : Nat) (ways : BitVec 16) : Option (Nat × Option LlcLine) :=
  let set := (s.slice n).lines.filter (fun l => llcSet l.a = llcSet a)
  match (bitsOf 16 ways.toNat).find? (fun w => !set.any (fun l => l.way = w)) with
  | some w => some (w, none)
  | none =>
    match (set.filter (fun l => !l.pinned && ways.getLsbD l.way)).getLast? with
    | some l => some (l.way, some l)
    | none => none

/-- A new empty line allocated for an access, pinned where its page asks for it and the pin is granted (R251). -/
def State.llcAlloc (s : State) (c : Acc) (n a : Nat) : Option LlcLine × State :=
  match s.llcWay n a c.ways with
  | none => (none, s)
  | some (w, victim) =>
    let s := match victim with
      | some v => s.llcEvict n v
      | none => s
    let ok := c.pinPage && s.pinOk n a w c.ways
    let s := if c.pinPage && !ok then s.count n c.cls 3 1 else s
    let l : LlcLine := { a := a, valid := 0, dirty := 0, dead := 0, pinned := ok, d := {}, way := w,
                         pinBy := if ok then c.inst.toList else [] }
    (some l, s.updSlice n (fun x => x.setLine l))

/-- The pin attribute of its page applied to an unpinned line that is filled (R250, R251, R252). -/
def State.pinFill (s : State) (c : Acc) (n : Nat) (l : LlcLine) : LlcLine × State :=
  if !c.pinPage || l.pinned then (l, s)
  else if s.pinOk n l.a l.way c.ways then ({ l with pinned := true, pinBy := c.inst.toList }, s)
  else (l, s.count n c.cls 3 1)

/-- The bytes of a sector delivered to a requester (R254). -/
def State.countBytes32 (s : State) (c : Acc) (n : Nat) : State := if c.deliver then s.count n c.cls 4 32 else s

/-- A hit on a line, pinned or not, with the bytes delivered (R254). -/
def State.countHit (s : State) (c : Acc) (n : Nat) (pinned : Bool) : State :=
  (s.count n c.cls (if pinned then 1 else 0) 1).countBytes32 c n

/-- One sector asked of the pseudo-channel that holds it, in a class (R261). A fenced pseudo-channel answers at once (R267). -/
def State.askSector (s : State) (n a j : Nat) (c : Prio) : State :=
  let pa := 128 * a + 32 * j
  if (s.pch (pchOf pa)).state = 1 then s
  else
    let q : HbmReq := { id := s.hbm.nextReq, slice := n, a := a, sec := j, bypassed := 0, since := s.clock.now }
    ({ s with hbm := { s.hbm with nextReq := s.hbm.nextReq + 1 } }).updPch (pchOf pa) (fun p => match c with
      | .critical => { p with crit := p.crit ++ [q] }
      | .normal => { p with norm := p.norm ++ [q] }
      | .bulk => { p with bulk := p.bulk ++ [q] })

/-- A sector that the LLC lacks asked of HBM in the class of the access, where that has not been done yet. -/
def State.askMiss (s : State) (c : Acc) (n a j : Nat) : State :=
  match c.ask with
  | some p => s.askSector n a j p
  | none => s

/-- One sector read from the LLC, or from HBM with allocation (R234, R244, R247, R254, R261). -/
def State.llcRead (s : State) (c : Acc) (n a j : Nat) : Sector × State :=
  match (s.slice n).line a with
  | some l =>
    if l.dead.getLsbD j then ({}, (s.updSlice n (fun x => x.setLine l)).countHit c n l.pinned)
    else if l.valid.getLsbD j then (l.d.get j, (s.updSlice n (fun x => x.setLine l)).countHit c n l.pinned)
    else
      let x := s.hbmSector (128 * a + 32 * j)
      let (l, s) := (s.askMiss c n a j).pinFill c n l
      let l := { l with valid := l.valid ||| secBit j, d := l.d.set j x }
      (x, ((s.updSlice n (fun y => y.setLine l)).count n c.cls 2 1).countBytes32 c n)
  | none =>
    let x := s.hbmSector (128 * a + 32 * j)
    let s := ((s.askMiss c n a j).count n c.cls (if c.fetched.getLsbD j then 0 else 2) 1).countBytes32 c n
    if !c.alloc then (x, s)
    else match s.llcAlloc c n a with
      | (some l, s) => (x, s.updSlice n (fun y => y.setLine { l with valid := secBit j, d := l.d.set j x }))
      | (none, s) => (x, s)

/-- One whole sector written at the home: in the LLC where the line is or may be, else in HBM (R231, R234). -/
def State.llcPut (s : State) (c : Acc) (n a j : Nat) (x : Sector) : State :=
  let put := fun (l : LlcLine) (s : State) => s.updSlice n (fun y => y.setLine
    { l with valid := l.valid ||| secBit j, dirty := l.dirty ||| secBit j, dead := l.dead &&& ~~~(secBit j), d := l.d.set j x,
             bulk := !c.alloc })
  match (s.slice n).line a with
  | some l => put l s
  | none =>
    if !c.alloc then s.hbmStore n (128 * a + 32 * j) x true
    else match s.llcAlloc c n a with
      | (some l, s) => put l s
      | (none, s) => s.hbmStore n (128 * a + 32 * j) x false

/-! ## L2 lines and the write-back buffer -/

def State.l2line (s : State) (q a : Nat) : Option L2Line := (s.cluster q).l2.find? (fun l => l.a = a)
def State.wbline (s : State) (q a : Nat) : Option L2Line := (s.cluster q).wb.find? (fun l => l.a = a)
def State.l2Drop (s : State) (q a : Nat) : State :=
  s.updCluster q (fun x => { x with l2 := x.l2.filter (fun l => l.a ≠ a) })

/-- A line put in front of its L2; where the set is full, the least recently used line leaves, with a Put if it is
owned (R230, R231). -/
def State.l2Put (s : State) (q : Nat) (l : L2Line) : State :=
  let rest := (s.cluster q).l2.filter (fun m => m.a ≠ l.a)
  let set := rest.filter (fun m => l2Set m.a = l2Set l.a)
  if set.length < 16 then s.updCluster q (fun x => { x with l2 := l :: rest })
  else match set.getLast? with
    | none => s.updCluster q (fun x => { x with l2 := l :: rest })
    | some v =>
      let owned := v.st = .M || v.st = .E || v.st = .O
      s.updCluster q (fun x => { x with
        l2 := l :: rest.filter (fun m => m.a ≠ v.a)
        wb := if owned then x.wb ++ [v] else x.wb })

/-- The copy from which an owner answers: its L2, else its write-back buffer (R245). -/
def State.ownerLine (s : State) (q a : Nat) : Option L2Line := (s.l2line q a).or (s.wbline q a)

/-- How an access of a cluster's own L2 allocates: in the ways of the instance that holds the cluster. -/
def State.clusterWays (s : State) (q : Nat) : BitVec 16 :=
  match (s.cluster q).owner with
  | some i => (s.inst i).ways
  | none => 0xFFFF

/-- The dirty sectors of a line written to the LLC (R234, R244, R431; DESIGN CHOICE, log 145: it pins nothing). -/
def State.writeBack (s : State) (q n : Nat) (l : L2Line) : State :=
  let c : Acc := { ways := s.clusterWays q }
  (List.range 4).foldl (fun s j => if l.dirty.getLsbD j then (s.llcPut c n l.a j (l.d.get j)).mendSector (128 * l.a + 32 * j) (l.d.get j) else s) s

/-! ## The directory (R242) -/

def State.dirEntry (s : State) (n a : Nat) : Option DirEntry := (s.slice n).dir.find? (fun e => e.a = a)
def State.dirDel (s : State) (n a : Nat) : State := s.updSlice n (fun x => { x with dir := x.dir.filter (fun e => e.a ≠ a) })

/-- The bit of a cluster's sharer group. -/
def groupBit (q : Nat) : BitVec 32 := BitVec.ofNat 32 (1 <<< (q / 4))

/-- The S copies of a line in the marked groups dropped, those of one cluster excepted (R242, R244). -/
def State.invalidate (s : State) (a : Nat) (sharers : BitVec 32) (except : Option Nat) : State :=
  (List.range 128).foldl (fun s q =>
    let held : Bool := match s.l2line q a with
      | some l => decide (l.st = .S)
      | none => false
    if sharers.getLsbD (q / 4) && except ≠ some q && held then s.l2Drop q a else s) s

/-- The owner's copy recalled: its dirty sectors to the LLC, its line dropped (R242, R244). -/
def State.recall (s : State) (n a x : Nat) : State :=
  match s.ownerLine x a with
  | none => s
  | some l => (s.writeBack x n l).l2Drop x a

/-- Every L2 copy that a directory entry records removed, and the entry with it. -/
def State.recallEntry (s : State) (n : Nat) (e : DirEntry) : State :=
  let s := if e.st = DirState.S then s else s.recall n e.a e.owner
  let s := if e.st = DirState.EM then s else s.invalidate e.a e.sharers none
  s.dirDel n e.a

/-- The entries of a line's directory set that may be evicted for it: those of other lines with no transaction in
progress (R242). -/
def Slice.dirFree (x : Slice) (a : Nat) : List DirEntry :=
  x.dir.filter (fun m => m.a ≠ a && dirSet m.a = dirSet a && !x.miss.any (fun k => k.a = m.a))

/-- Whether a new entry finds its directory set full of lines with transactions in progress, so that it waits (R242). -/
def Slice.dirFull (x : Slice) (a : Nat) : Bool :=
  !x.dir.any (fun m => m.a = a) && (x.dir.filter (fun m => dirSet m.a = dirSet a)).length ≥ 16 && x.dirFree a = []

/-- A directory entry put in front; where the set is full, the line of the least recently used entry with no transaction
in progress is recalled (R242). -/
def State.dirPut (s : State) (n : Nat) (e : DirEntry) : State :=
  let rest := (s.slice n).dir.filter (fun m => m.a ≠ e.a)
  let set := rest.filter (fun m => dirSet m.a = dirSet e.a)
  let s := if set.length < 16 then s
    else match ((s.slice n).dirFree e.a).getLast? with
      | some v => s.recallEntry n v
      | none => s
  s.updSlice n (fun x => { x with dir := e :: x.dir.filter (fun m => m.a ≠ e.a) })

/-! ## Home actions (R244) -/

/-- The Put of a line in a cluster's write-back buffer, as the home takes it (R244): dirty sectors from the owner go
to the LLC, the entry becomes none or S; from any other cluster the data is discarded. -/
def State.takePut (s : State) (q a : Nat) : State :=
  match s.wbline q a with
  | none => s
  | some l =>
    let n := s.homeSlice (128 * a)
    let s1 := match s.dirEntry n a with
      | some e =>
        if e.st ≠ DirState.S && e.owner = q && (s.l2line q a).isNone then
          let s := s.writeBack q n l
          if e.st = DirState.O && e.sharers ≠ 0 then s.dirPut n { e with st := .S, owner := 0 } else s.dirDel n a
        else s
      | none => s
    s1.updCluster q (fun x => { x with wb := x.wb.filter (fun m => m.a ≠ a) })

/-- A directory entry becomes the most recently used of its set (R242). -/
def State.dirTouch (s : State) (n a : Nat) : State :=
  match s.dirEntry n a with
  | some e => s.updSlice n (fun x => { x with dir := e :: x.dir.filter (fun m => m.a ≠ a) })
  | none => s

/-- The sector that the owner of a line sends: a dirty one, to a GetSec every one that it holds (R244). -/
def State.fromOwner (s : State) (n a j : Nat) (except : Option Nat) (getsec : Bool) : Option Sector :=
  (s.dirEntry n a).bind (fun e =>
    if e.st = DirState.S || some e.owner = except then none
    else (s.ownerLine e.owner a).bind (fun l =>
      if l.dirty.getLsbD j || (getsec && l.valid.getLsbD j) then some (l.d.get j) else none))

/-- The sector that the home delivers: from the owner where it sends one, else from the LLC or HBM. -/
def State.homeSector (s : State) (c : Acc) (n a j : Nat) (except : Option Nat) : Sector × State :=
  let own := s.fromOwner n a j except c.getsec
  let s := s.dirTouch n a
  match own with
  | some x =>
    let pinned := match (s.slice n).line a with
      | some m => m.pinned
      | none => false
    (x, s.countHit c n pinned)
  | none => s.llcRead c n a j

/-- The owner's copy of a line changed in place, in the L2 or the write-back buffer. -/
def State.setOwnerState (s : State) (x a : Nat) (st : L2State) : State :=
  s.updCluster x (fun y => { y with
    l2 := y.l2.map (fun l => if l.a = a then { l with st := st } else l)
    wb := y.wb.map (fun l => if l.a = a then { l with st := st } else l) })

/-- GetS of a cluster that does not hold the line: the state granted (R244). The data is read by `homeSector`. -/
def State.homeGetS (s : State) (q a : Nat) : L2State × State :=
  let n := s.homeSlice (128 * a)
  match s.dirEntry n a with
  | none => (.E, s.dirPut n { a := a, st := .EM, owner := q, sharers := 0 })
  | some e =>
    match e.st with
    | .S => (.S, s.dirPut n { e with sharers := e.sharers ||| groupBit q })
    | .O => (.S, s.dirPut n { e with sharers := e.sharers ||| groupBit q })
    | .EM =>
      let dirty : Bool := match s.ownerLine e.owner a with
        | some l => decide (l.dirty ≠ 0)
        | none => false
      if dirty then
        (.S, (s.setOwnerState e.owner a .O).dirPut n { e with st := .O, sharers := groupBit q })
      else
        (.S, (s.setOwnerState e.owner a .S).dirPut n
          { e with st := .S, owner := 0, sharers := groupBit e.owner ||| groupBit q })

/-- GetM or Upg: every other copy removed, the sectors that the old owner held dirty handed over, and whether the
grant found another owner or another sharer group; the sectors forwarded count as hits (R244, R248, R254). -/
def State.homeGetM (s : State) (c : Acc) (q a : Nat) : BitVec 4 × LineData × Bool × State :=
  let n := s.homeSlice (128 * a)
  let grant := fun (s : State) => s.dirPut n { a := a, st := .EM, owner := q, sharers := 0 }
  let pinned := match (s.slice n).line a with
    | some m => m.pinned
    | none => false
  match s.dirEntry n a with
  | none => (0, {}, false, grant s)
  | some e =>
    let others := e.sharers &&& ~~~(groupBit q)
    let s := if e.st = DirState.EM then s else s.invalidate a e.sharers (some q)
    if e.st = DirState.S || e.owner = q then (0, {}, decide (others ≠ 0), grant s)
    else
      match s.ownerLine e.owner a with
      | some l => (l.dirty, l.d, true,
          (bitsOf 4 l.dirty.toNat).foldl (fun (s : State) _ => s.countHit c n pinned) (grant (s.l2Drop e.owner a)))
      | none => (0, {}, true, grant s)

/-- Every L2 copy of a line removed for a WrNA or a far atomic, dirty sectors going to the LLC; whether one was
(R244, R246, R248). -/
def State.homeClean (s : State) (a : Nat) : Bool × State :=
  let n := s.homeSlice (128 * a)
  match s.dirEntry n a with
  | none => (false, s)
  | some e => (true, s.recallEntry n e)

/-- RdNA of one sector (R244). -/
def State.rdNA (s : State) (c : Acc) (pa : Nat) : Sector × State :=
  s.homeSector c (s.homeSlice pa) (lineOf pa) (pa % 128 / 32) none

/-- WrNA of bytes within one sector: the copies removed, a part of a sector merged, the bytes applied (R246). -/
def State.wrNA (s : State) (c : Acc) (pa : Nat) (bs : List PByte) : State :=
  let a := lineOf pa
  let n := s.homeSlice pa
  let j := pa % 128 / 32
  let s := (s.homeClean a).2
  let c := { c with deliver := false }
  if bs.length = 32 then
    let pinned := match (s.slice n).line a with
      | some m => m.pinned
      | none => false
    (s.count n c.cls (if pinned then 1 else 0) 1).llcPut c n a j (({} : Sector).write 0 bs)
  else
    let (x, s) := s.llcRead c n a j
    s.llcPut c n a j (x.write (pa % 32) bs)

/-! ## Reads and writes of runs of bytes -/

/-- Bytes read from HBM by non-allocating snooping reads, sector by sector (at most k sectors). -/
def State.readNA : Nat → State → Acc → Nat → Nat → List PByte × State
  | 0, s, _, _, _ => ([], s)
  | k + 1, s, c, pa, n =>
    if n = 0 then ([], s)
    else
      let m := min n (32 - pa % 32)
      let (x, s) := s.rdNA c pa
      let (r, s) := s.readNA k c (pa + m) (n - m)
      (x.read (pa % 32) m ++ r, s)

/-- Bytes read from HBM. -/
def State.hbmRead (s : State) (c : Acc) (pa n : Nat) : List PByte × State := s.readNA (n / 32 + 2) c pa n

/-- Bytes written to HBM by non-allocating snooping writes, sector by sector (at most k sectors). -/
def State.writeNA : Nat → State → Acc → Nat → List PByte → State
  | 0, s, _, _, _ => s
  | k + 1, s, c, pa, bs =>
    match bs with
    | [] => s
    | _ =>
      let m := min bs.length (32 - pa % 32)
      (s.wrNA c pa (bs.take m)).writeNA k c (pa + m) (bs.drop m)

/-- Bytes written to HBM. -/
def State.hbmWrite (s : State) (c : Acc) (pa : Nat) (bs : List PByte) : State := s.writeNA (bs.length / 32 + 2) c pa bs

/-! ## Accesses of a cluster's L2 -/

/-- A sector read through the L2 of cluster q: present, or obtained by GetSec or GetS (R231, R243, R244). -/
def State.l2Read (s : State) (c : Acc) (q a j : Nat) : Sector × State :=
  let s := s.takePut q a
  let n := s.homeSlice (128 * a)
  match s.l2line q a with
  | some l =>
    if l.valid.getLsbD j then (l.d.get j, s.l2Put q l)
    else
      let (x, s) := s.homeSector { c with getsec := true } n a j (some q)
      (x, s.l2Put q { l with valid := l.valid ||| secBit j, d := l.d.set j x })
  | none =>
    let (st, s) := s.homeGetS q a
    let (x, s) := s.homeSector c n a j (some q)
    (x, s.l2Put q { a := a, st := st, valid := secBit j, dirty := 0, d := ({} : LineData).set j x })

/-- The line obtained in M by cluster q (GetM or Upg where needed), and whether the grant was contended: `none` where
no request was sent (R231, R244, R248). -/
def State.l2Own (s : State) (c : Acc) (q a : Nat) : Option Bool × L2Line × State :=
  let s := s.takePut q a
  let fresh : L2Line := { a := a, st := .M, valid := 0, dirty := 0, d := {} }
  let own := fun (l : L2Line) (s : State) =>
    let (m, d, cont, s) := s.homeGetM c q a
    let d' := (List.range 4).foldl (fun (acc : LineData) j => if m.getLsbD j then acc.set j (d.get j) else acc) l.d
    let l := { l with st := .M, valid := l.valid ||| m, dirty := l.dirty ||| m, d := d' }
    (some cont, l, s.l2Put q l)
  match s.l2line q a with
  | some l =>
    if l.st = .M || l.st = .E then
      let l := { l with st := .M }
      (none, l, s.l2Put q l)
    else own l s
  | none => own fresh s

/-- A sector of a line held in M made valid, from the home where it is missing. -/
def State.l2Fill (s : State) (c : Acc) (q a j : Nat) (l : L2Line) : L2Line × State :=
  if l.valid.getLsbD j then (l, s)
  else
    let (x, s) := s.homeSector c (s.homeSlice (128 * a)) a j (some q)
    ({ l with valid := l.valid ||| secBit j, d := l.d.set j x }, s)

/-- A store of bytes within one sector through the L2 of cluster q (R231). -/
def State.l2Write (s : State) (c : Acc) (q pa : Nat) (bs : List PByte) : State :=
  let a := lineOf pa
  let j := pa % 128 / 32
  let (_, l, s) := s.l2Own c q a
  let (l, s) := if bs.length = 32 then (l, s) else s.l2Fill c q a j l
  let d := l.d.set j ((l.d.get j).write (pa % 32) bs)
  s.l2Put q { l with valid := l.valid ||| secBit j, dirty := l.dirty ||| secBit j, d := d }

/-- Every line of a cluster's L2 and write-back buffer written back and dropped (R359, R438). -/
def State.flushL2 (s : State) (q : Nat) : State :=
  let x := s.cluster q
  let s := (x.wb.map (fun l => l.a)).foldl (fun s a => s.takePut q a) s
  let s := x.l2.foldl (fun s l =>
    let n := s.homeSlice (128 * l.a)
    match s.dirEntry n l.a with
    | some e =>
      if e.st ≠ DirState.S && e.owner = q then
        let s := s.recall n l.a q
        if e.st = DirState.O && e.sharers ≠ 0 then s.dirPut n { e with st := .S, owner := 0 } else s.dirDel n l.a
      else s.l2Drop q l.a
    | none => s.l2Drop q l.a) s
  s.updCluster q (fun y => { y with l2 := [], wb := [] })

/-- Every L2 copy of a line written back and every cached copy of it dropped, its dirty data in HBM. -/
def State.flushLine (s : State) (a : Nat) : State :=
  let s := (List.range 128).foldl (fun s q => s.takePut q a) s
  let s := (s.homeClean a).2
  let n := s.homeSlice (128 * a)
  match (s.slice n).line a with
  | some l => s.llcEvict n l
  | none => s

/-- The line addresses cached anywhere in an address range [lo, hi). -/
def State.cachedLines (s : State) (lo hi : Nat) : List Nat :=
  let pick := fun (l : List Nat) => l.filter (fun a => lo ≤ 128 * a && 128 * a < hi)
  (pick (s.clusters.flatMap (fun e => e.2.l2.map (fun l => l.a) ++ e.2.wb.map (fun l => l.a)))
    ++ pick (s.slices.flatMap (fun e => e.2.lines.map (fun l => l.a)))).eraseDups

/-- Every copy of every line of a range written back and dropped. -/
def State.flushRange (s : State) (lo hi : Nat) : State := (s.cachedLines lo hi).foldl (fun s a => s.flushLine a) s

/-- The line that a request command names. -/
def reqLine (c : Instr) : Nat :=
  match c with
  | .gets _ pa _ _ => lineOf pa.toNat
  | .getm _ pa _ _ => lineOf pa.toNat
  | .upg _ pa _ => lineOf pa.toNat
  | .getsec _ pa _ _ => lineOf pa.toNat
  | .putLine _ pa => lineOf pa.toNat
  | .dead _ pa => lineOf pa.toNat
  | .rdna _ pa _ _ _ => lineOf pa.toNat
  | .wrna _ pa _ _ _ => lineOf pa.toNat
  | .atomf _ pa _ _ _ _ _ => lineOf pa.toNat
  | _ => 0

/-- Every byte of HBM in a range zero and without poison. -/
def Mem.zero (m : Mem) (lo hi : Nat) : Mem :=
  { m with
    hbm := m.hbm.filter (fun c => !(lo ≤ c.1 && c.1 < hi))
    hbmPoison := m.hbmPoison.filter (fun g => !(lo ≤ 16 * g && 16 * g < hi))
    lost := m.lost.filter (fun e => !(lo ≤ e.1 / 8 * 2 ^ 21 && e.1 / 8 * 2 ^ 21 < hi)) }

/-- Every copy of every line of a range of pages dropped unwritten, with its pins, and every byte of it zero (R252, R359). -/
def State.scrub (s : State) (lo hi : Nat) : State :=
  let inR := fun (a : Nat) => decide (lo ≤ 128 * a ∧ 128 * a < hi)
  { s with
    clusters := s.clusters.map (fun e => (e.1, { e.2 with
      l2 := e.2.l2.filter (fun l => !inR l.a), wb := e.2.wb.filter (fun l => !inR l.a)
      misses := e.2.misses.filter (fun c => !inR (reqLine c)), missWait := e.2.missWait.filter (fun c => !inR (reqLine c)) }))
    slices := s.slices.map (fun e => (e.1, { e.2 with
      lines := e.2.lines.filter (fun l => !inR l.a), dir := e.2.dir.filter (fun d => !inR d.a),
      miss := e.2.miss.filter (fun m => !inR m.a), refused := e.2.refused.filter (fun r => !inR (reqLine r.request)) }))
    mem := s.mem.zero lo hi }

/-- Every byte of a range of pages zero as well, and no copy of it with data in any cache; its pins and the transactions of its lines stay
(R252). -/
def State.overwrite (s : State) (lo hi : Nat) : State :=
  let inR := fun (a : Nat) => decide (lo ≤ 128 * a ∧ 128 * a < hi)
  let busy := fun (x : Slice) (a : Nat) => x.miss.any (fun m => m.a = a)
  { s with
    clusters := s.clusters.map (fun e => (e.1, { e.2 with l2 := e.2.l2.filter (fun l => !inR l.a), wb := e.2.wb.filter (fun l => !inR l.a) }))
    slices := s.slices.map (fun e => (e.1, { e.2 with
      lines := (e.2.lines.filter (fun l => !inR l.a || l.pinned)).map (fun l =>
        if inR l.a then { l with valid := 0, dirty := 0, dead := 0, d := {} } else l)
      dir := e.2.dir.filter (fun d => !inR d.a || busy e.2 d.a) }))
    mem := s.mem.zero lo hi }

/-! ## Far and near atomics' lines, pins, dead lines -/

/-- The index of a cluster's placement predictor (R249). -/
def predIndex (pa : Nat) : Nat :=
  let a := pa / 128
  (a ^^^ (a >>> 10) ^^^ (a >>> 20) ^^^ (a >>> 30) ^^^ (a >>> 40)) % 1024

/-- place_far of R249. -/
def State.placeFar (s : State) (q pa : Nat) : Bool :=
  match s.l2line q (lineOf pa) with
  | some l => l.st ≠ .M && NMap.at (s.cluster q).pred (predIndex pa) 1 ≥ 2
  | none => NMap.at (s.cluster q).pred (predIndex pa) 1 ≥ 2

/-- pred_update of R249. -/
def State.predUpdate (s : State) (q pa : Nat) (contended : Bool) : State :=
  s.updCluster q (fun x => { x with pred := NMap.upd 1 x.pred (predIndex pa) (fun c =>
    if contended then (if c < 3 then c + 1 else c) else c - 1) })

/-- The far-atomic history of a slice: whether the line's last far atomic came from another cluster, and the line put
in front (R232, R248). -/
def State.farHistory (s : State) (n a q : Nat) : Bool × State :=
  let h := (s.slice n).hist
  let other := match h.find? (fun e => e.1 = a) with
    | some e => e.2 ≠ q
    | none => false
  (other, s.updSlice n (fun x => { x with hist := ((a, q) :: x.hist.filter (fun e => e.1 ≠ a)).take 64 }))

/-- `pin` at the home: its status (R89, R250, R251). -/
def State.pinLine (s : State) (c : Acc) (pa : Nat) : Nat × State :=
  if !inHbm pa then (2, s)
  else
    let a := lineOf pa
    let n := s.homeSlice pa
    match (s.slice n).line a with
    | some l =>
      let by_ := l.pinBy ++ c.inst.toList.filter (fun i => !l.pinBy.contains i)
      if l.pinned then (0, s.updSlice n (fun x => x.setLine { l with pinBy := by_ }))
      else if s.pinOk n a l.way c.ways then (0, s.updSlice n (fun x => x.setLine { l with pinned := true, pinBy := c.inst.toList }))
      else (1, s.count n c.cls 3 1)
    | none =>
      match s.llcWay n a c.ways with
      | none => (1, s.count n c.cls 3 1)
      | some (w, _) =>
        if s.pinOk n a w c.ways then
          match s.llcAlloc { c with pinPage := false } n a with
          | (some l, s) => (0, s.updSlice n (fun x => x.setLine { l with pinned := true, pinBy := c.inst.toList }))
          | (none, s) => (1, s)
        else (1, s.count n c.cls 3 1)

/-- `unpin` at the home: its status, 3 where the line was not pinned, which a line outside HBM never is (R89, R252). -/
def State.unpinLine (s : State) (pa : Nat) : Nat × State :=
  if !inHbm pa then (3, s)
  else
    let n := s.homeSlice pa
    match (s.slice n).line (lineOf pa) with
    | some l => if l.pinned then (0, s.updSlice n (fun x => x.setLine { l with pinned := false, pinBy := [] })) else (3, s)
    | none => (3, s)

/-- Whether a page lies in the hot-set region (R292). -/
def State.inHotSet (s : State) (page : Nat) : Bool :=
  s.seq.hsbase.toNat ≤ page && page < s.seq.hsbase.toNat + s.seq.hspages.toNat

/-- The owning group's L2 line of a line, where its directory state gives it one. -/
def State.deadOwner (s : State) (n a : Nat) : Option L2Line :=
  match s.dirEntry n a with
  | some e => if e.st = DirState.S then none else s.ownerLine e.owner a
  | none => none

/-- The L2 copies of a dead line gone, with its directory entry. -/
def State.dropCopies (s : State) (n a : Nat) : State :=
  match s.dirEntry n a with
  | some e =>
    let s := s.invalidate a e.sharers none
    let s := s.updCluster e.owner (fun x => if e.st = DirState.S then x else
      { x with l2 := x.l2.filter (fun l => l.a ≠ a), wb := x.wb.filter (fun l => l.a ≠ a) })
    s.dirDel n a
  | none => s

/-- The owner's dirty sectors that carry poison kept at the home. -/
def State.keepPoisoned (s : State) (c : Acc) (n a : Nat) (owner : Option L2Line) (odirty : BitVec 4) : State :=
  (List.range 4).foldl (fun s j =>
    let src : Sector := match owner with
      | some l => l.d.get j
      | none => {}
    if odirty.getLsbD j && src.poison ≠ 0 then s.llcPut c n a j src else s) s

/-- The home's line of a dead line: its kept sectors, its dead ones, or none; where it has no line and none can be
allocated, the dead sectors go to HBM, where the kept ones are. -/
def State.markDead (s : State) (c : Acc) (n a : Nat) (dead kept : BitVec 4) : State :=
  match (s.slice n).line a with
  | some l =>
    if dead = 0 && kept = 0 then s.updSlice n (fun x => x.dropLine a)
    else s.updSlice n (fun x => x.setLine { l with valid := kept, dirty := kept, dead := dead })
  | none =>
    if dead = 0 then s
    else match s.llcAlloc { c with pinPage := false } n a with
      | (some l, s) => s.updSlice n (fun x => x.setLine { l with dead := dead })
      | (none, s) => (List.range 4).foldl (fun s j => if dead.getLsbD j then s.hbmStore n (128 * a + 32 * j) {} false else s) s

/-- A Dead request at the home (R226, R227, R247): ignored on a pinned line or in the hot-set region. A poisoned dirty
sector keeps its data and its poison. -/
def State.deadLine (s : State) (c : Acc) (pa : Nat) : State :=
  let a := lineOf pa
  let n := s.homeSlice pa
  let pinned := match (s.slice n).line a with
    | some l => l.pinned
    | none => false
  if !inHbm pa || pinned || s.inHotSet (pa / 2 ^ 21) then s
  else
    let owner := s.deadOwner n a
    let odirty : BitVec 4 := match owner with
      | some l => l.dirty
      | none => 0
    let s := s.dropCopies n a
    let ldirty : BitVec 4 := match (s.slice n).line a with
      | some l => l.dirty ||| l.dead
      | none => 0
    let s := s.keepPoisoned c n a owner odirty
    let keep := fun (j : Nat) => match (s.slice n).line a with
      | some l => l.dirty.getLsbD j && (l.d.get j).poison ≠ 0 && (!odirty.getLsbD j || match owner with
          | some o => (o.d.get j).poison ≠ 0
          | none => false)
      | none => odirty.getLsbD j && owner.any (fun o => (o.d.get j).poison ≠ 0)
    let dead := (odirty ||| ldirty) &&& BitVec.ofNat 4 (maskOf ((List.range 4).filter (fun j => !keep j)))
    let kept := BitVec.ofNat 4 (maskOf ((List.range 4).filter keep))
    s.markDead c n a dead kept

end Sys2Proof.Machine
end

