-- ==== Sys2Proof/Machine/Translate.lean ====
section
/-! DEFINITION. Page tables, translation and permission (R350 to R353, R523), and reads and writes of virtual ranges by
the part's own agents. -/

namespace Sys2Proof.Machine
open Sys2Proof

/-- What an access asks of a page. -/
inductive XKind where
  | read
  | write
  | exec
  /-- an access of the sequence store to stored page sets (R276) -/
  | store
  deriving DecidableEq, Repr

/-- A translation: the device address and the leaf, or a fault cause of R54 with the address of poison met. -/
inductive Tr where
  | ok (pa : Nat) (leaf : Nat)
  | bad (code addr : Nat)
  deriving DecidableEq, Repr

/-- The instance that holds an HBM page. -/
def Inst.holds (x : Inst) (page : Nat) : Bool := x.ranges.any (fun r => r.1 ≤ page && page ≤ r.2)
def State.holder (s : State) (page : Nat) : Option Nat := (s.insts.find? (fun e => e.2.holds page)).map Prod.fst

def leafW (l : Nat) : Bool := bit l 2
def leafX (l : Nat) : Bool := bit l 3
def leafCls (l : Nat) : Nat := fld l 4 3
def leafNH (l : Nat) : Bool := bit l 7
def leafPin (l : Nat) : Bool := bit l 8
def leafRst (l : Nat) : Bool := bit l 9
def leafHC (l : Nat) : Bool := bit l 10
def leafEnc (l : Nat) : Bool := bit l 11
def leafOut (l : Nat) : Nat := fld l 16 40 * 2 ^ 16
def leafBind (l : Nat) : Nat := fld l 56 6

/-- The checks of a leaf whose page has 2^sz bytes; a peer leaf's binding names the module of its address (R205, R351, R352, R384). -/
def State.leafOk (s : State) (i l sz : Nat) : Bool :=
  let out := leafOut l
  let x := s.inst i
  let pages := (List.range (2 ^ (sz - 21))).map (fun k => out / 2 ^ 21 + k)
  let hbmOk := inHbm out && pages.all (fun p =>
    (x.holds p || (s.inHotSet p && !leafW l && !leafX l)) && ((s.nearRange (p * 2 ^ 21)).isSome == leafNH l))
  fld l 12 4 = 0 && fld l 62 2 = 0 && leafCls l < 7 && out % 2 ^ sz = 0
    && (hbmOk || (!inHbm out && (inHost out || inPeer out)
          && !leafPin l && !leafRst l && !leafX l && !leafNH l))
    && (!leafHC l || inHost out) && (!leafEnc l || inHost out || inPeer out)
    && (if inPeer out then (NMap.find x.binds (leafBind l)).any (fun b => b.module.toNat = out / 2 ^ 40 % 4096) else leafBind l = 0)

/-- Address bits below the field that a level indexes, and the field's width (R350). -/
def levelBits : Nat → Nat × Nat
  | 0 => (48, 8)
  | 1 => (39, 9)
  | 2 => (30, 9)
  | 3 => (21, 9)
  | _ => (16, 5)

/-- Whether a page is being flushed for a change of near-home ranges, so that accesses to it wait (R238). -/
def State.nearBusy (s : State) (pa : Nat) : Bool :=
  inHbm pa && s.llc.nh.any (fun e => e.2.busy && e.2.flushing.any (fun r => r.1 ≤ pa / 2 ^ 21 && pa / 2 ^ 21 ≤ r.2))

/-- Whether a line or block that is being restored lies in a run of n bytes (R431). -/
def State.restoring (s : State) (pa n : Nat) : Bool :=
  s.seq.restores.any (fun r => r.pa < pa + n && pa < r.pa + (if r.block then 4096 else 128))

/-- Whether accesses to a line wait: its page is being flushed (R238), it is being restored (R431), or its directory set
is full of lines with transactions in progress (R242). -/
def State.lineBlocked (s : State) (a : Nat) : Bool :=
  s.nearBusy (128 * a)
    || s.restoring (128 * a) 128
    || (s.slice (s.homeSlice (128 * a))).dirFull a

/-- Whether an access of an agent without a cache waits at the home of a device address: the line is blocked, another
transaction of it is in progress, or no miss register is free for it (R233, R235, R245). -/
def State.held (s : State) (pa : Nat) : Bool :=
  inHbm pa && (s.lineBlocked (lineOf pa)
    || (let x := s.slice (s.homeSlice pa); x.miss.any (fun m => m.a = lineOf pa) || 124 ≤ x.miss.length))

/-- The same for a run of n bytes. -/
def State.heldRun (s : State) (pa n : Nat) : Bool :=
  inHbm pa && (List.range ((pa + n - 1) / 128 - pa / 128 + 1)).any (fun k => s.held (128 * (pa / 128 + k)))

/-- The leaf that an agent has cached for an address of an instance (R353). -/
def State.cachedLeaf (s : State) (agent i va : Nat) : Option TlbEntry :=
  s.tlb.find? (fun t => !t.node && t.agent = agent && t.inst = i && t.va = va / 2 ^ t.log2)

/-- The node to which a cached entry of a non-leaf level leads; such an entry maps 2^lo bytes (R353). -/
def State.cachedNode (s : State) (agent i va lo : Nat) : Option Nat :=
  (s.tlb.find? (fun t => t.node && t.agent = agent && t.inst = i && t.log2 = lo && t.va = va / 2 ^ lo)).map
    (fun t => fld t.leaf.toNat 8 48 * 2 ^ 8)

/-- The walk from a node: k levels are left (R350 to R352, R523); a cached entry of a non-leaf level is used in place of the
one in memory, and one that is read is cached (R353). The answer is the leaf and log2 of its page size. -/
def State.walk : Nat → State → Nat → Nat → Nat → Nat → (Tr × Nat) × State
  | 0, s, _, _, _, _ => ((.bad 9 0, 0), s)
  | k + 1, s, agent, i, va, node =>
    let lv := 4 - k
    let (lo, n) := levelBits lv
    match s.cachedNode agent i va lo with
    | some child => s.walk k agent i va child
    | none =>
    if !inHbm node || !(s.inst 0).holds (node / 2 ^ 21) then ((.bad 9 0, 0), s)
    else
      let c : Acc := { cls := 5, ways := (s.inst i).ways, ask := some .critical }
      let (bs, s) := s.hbmRead c (node + 8 * fld va lo n) 8
      let e := ofLe (plain bs)
      if anyPoison bs then ((.bad 0xC (node + 8 * fld va lo n), 0), s)
      else if !bit e 0 then ((.bad 9 0, 0), s)
      else if bit e 1 then
        if lv < 2 || !s.leafOk i e lo then ((.bad 9 0, 0), s)
        else ((.ok (leafOut e + va % 2 ^ lo) e, lo), s)
      else
        let child := fld e 8 48 * 2 ^ 8
        let size := if lv = 3 then 256 else 4096
        if lv = 4 || fld e 2 6 ≠ 0 || fld e 56 8 ≠ 0 || child % size ≠ 0 then ((.bad 9 0, 0), s)
        else
          State.walk k { s with tlb := { agent := agent, inst := i, va := va / 2 ^ lo, log2 := lo, leaf := BitVec.ofNat 64 e, node := true } :: s.tlb }
            agent i va child

/-- A permission that the leaf denies, as a fault cause; none where it allows the access (R351, R352). -/
def denied (k : XKind) (leaf : Nat) : Bool :=
  match k with
  | .read => leafEnc leaf
  | .write => leafEnc leaf || !leafW leaf
  | .exec => leafEnc leaf || !leafX leaf
  | .store => false

/-- Whether a leaf still stands for an address: the near-home attribute of an HBM page agrees with the range table, and a
peer's binding names the address's module (R237, R352, R384). -/
def State.leafHolds (s : State) (i l pa : Nat) : Bool :=
  if inHbm pa then (s.nearRange pa).isSome == leafNH l
  else !inPeer pa || (NMap.find (s.inst i).binds (leafBind l)).any (fun b => b.module.toNat = pa / 2 ^ 40 % 4096)

/-- A translation with its permission check. A cached translation is used until it is invalidated (R353), but never one
that the near-home ranges or the bindings no longer bear out (R237, R362). -/
def State.translate (s : State) (agent i : Nat) (k : XKind) (va : Nat) : Tr × State :=
  if va ≥ 2 ^ 56 then (.bad 9 0, s)
  else
    match s.cachedLeaf agent i va with
    | some t =>
      let l := t.leaf.toNat
      if !s.leafHolds i l (leafOut l + va % 2 ^ t.log2) then (.bad 9 0, s)
      else if denied k l then (.bad 0xA 0, s) else (.ok (leafOut l + va % 2 ^ t.log2) l, s)
    | none =>
      match s.walk 5 agent i va (s.inst i).root.toNat with
      | ((.ok pa l, sz), s) =>
        let s := { s with tlb := { agent := agent, inst := i, va := va / 2 ^ sz, log2 := sz, leaf := BitVec.ofNat 64 l } :: s.tlb }
        if denied k l then (.bad 0xA 0, s) else (.ok pa l, s)
      | ((.bad c a, _), s) => (.bad c a, s)

/-- Whether a walk of k levels from a node would read a line that has to wait at its home (R238, R245, R431). -/
def State.walkHeld : Nat → State → Nat → Nat → Nat → Nat → Bool
  | 0, _, _, _, _, _ => false
  | k + 1, s, agent, i, va, node =>
    let (lo, n) := levelBits (4 - k)
    let a := node + 8 * fld va lo n
    match s.cachedNode agent i va lo with
    | some child => s.walkHeld k agent i va child
    | none =>
    if !inHbm node || !(s.inst 0).holds (node / 2 ^ 21) then false
    else if s.held a then true
    else
      let e := ofLe (plain (s.hbmRead { cls := 5 } a 8).1)
      bit e 0 && !bit e 1 && s.walkHeld k agent i va (fld e 8 48 * 2 ^ 8)

/-- Whether a translation of an agent has to wait for a line that its walk reads. -/
def State.walkWaits (s : State) (agent i va : Nat) : Bool :=
  (s.cachedLeaf agent i va).isNone && s.walkHeld 5 agent i va (s.inst i).root.toNat

/-- Cached translations of an instance dropped (R353). -/
def State.tlbInv (s : State) (i : Nat) : State := { s with tlb := s.tlb.filter (fun t => t.inst ≠ i) }

/-- How an access through a leaf is served at a home (R234, R251, R253). -/
def State.accOf (s : State) (i leaf : Nat) (bulk : Bool) : Acc :=
  { cls := leafCls leaf, ways := (s.inst i).ways, alloc := !bulk, pinPage := leafPin leaf, inst := some i,
    ask := some (if bulk then .bulk else .normal) }

/-- The binding that a peer leaf names, valid and agreeing with the address (R362). -/
def State.bindingOk (s : State) (i leaf pa : Nat) : Option Binding :=
  match NMap.find (s.inst i).binds (leafBind leaf) with
  | some b => if b.module.toNat = pa / 2 ^ 40 % 4096 then some b else none
  | none => none

/-! ## The agents of the part -/

/-- Agent numbers of cached translations: a core by its number, the port's copy engine, the part's other agents. -/
def agentPort : Nat := 8192
def agentPart : Nat := 8193
/-- The part loading a weight set, whose remote reads travel on VC 4 (R375). -/
def agentLoad : Nat := 8194

/-- Bytes read from a device address that is no peer's: HBM by non-allocating snooping reads, the host window by a
host read, which comes back poisoned once the port is stopped (R344). -/
def State.devRead (s : State) (c : Acc) (pa n : Nat) : List PByte × State :=
  if inHbm pa then s.hbmRead c pa n
  else if inHost pa then ((s.hostRead (c.inst.getD 0) (pa - 2 ^ 52) n).map (fun b => (b, s.host.stopped)), s)
  else ((List.range n).map (fun _ => ((0 : Byte), true)), s)

/-- Bytes written to a device address that is no peer's; poisoned bytes go to the host with the EP bit (R429). -/
def State.devWrite (s : State) (c : Acc) (pa : Nat) (bs : List PByte) : State :=
  if inHbm pa then s.hbmWrite c pa bs
  else if inHost pa then
    let i := c.inst.getD 0
    let s1 := s.hostWrite i (pa - 2 ^ 52) (plain bs)
    if anyPoison bs && !s.host.stopped then s1.send (.epWrite (s.inst i).pasid (pa - 2 ^ 52) bs.length) else s1
  else s

/-- The granule of HBM that holds an address, without poison, with bytes put in it there (R173). -/
def State.wholeGranule (s : State) (pa : Nat) (bs : List Byte) : List PByte :=
  let old := plain (s.hbmRead { deliver := false } (alignDown pa 16) 16).1
  clean (old.take (pa % 16) ++ bs ++ old.drop (pa % 16 + bs.length))

/-- Whether a cluster's L2 serves an access of a sector by itself: it holds the sector, for a write in M or E (R231, R241). -/
def State.l2Hit (s : State) (q pa : Nat) (write : Bool) : Bool :=
  match s.l2line q (lineOf pa) with
  | some l => l.valid.getLsbD (pa % 128 / 32) && (!write || l.st = .M || l.st = .E)
  | none => false

/-- Whether an access of a core waits: where its L2 does not serve it, it needs the home and one of the L2's 256 miss
registers; a page being flushed stalls every access (R230, R233, R238, R245). -/
def State.heldAt (s : State) (g pa : Nat) (write : Bool) : Bool :=
  let q := g / 64
  s.nearBusy pa || (inHbm pa && !s.l2Hit q pa write && (s.held pa || 256 ≤ (s.cluster q).misses.length))

/-- Bytes read from a device address that carry poison of a restorable set: the restore of the first such line, for which the
reader waits (R431). -/
def State.mend (s : State) (pa : Nat) (bs : List PByte) : Option State :=
  match (bs.zip (List.range bs.length)).find? (fun e => e.1.2) with
  | some e => if (s.restorable (pa + e.2)).isSome then some (s.startRestore (pa + e.2) false) else none
  | none => none

/-- A weight set becomes failed: its bit and its region-failed record, to instance 0 and to the granted instances (R433). -/
def State.regionFailed (s : State) (n pa : Nat) : State :=
  if s.err.failset.toNat.testBit n then s
  else
    let s := { s with err := { s.err with failset := s.err.failset ||| BitVec.ofNat 64 (1 <<< n) } }
    s.errRecord 6 0 (sliceUnit (s.homeSlice pa)) (errDetail pa 0xFF 0 0x80 0) (0 :: bitsOf 64 (s.wset n).grant.toNat)

/-- Poison or a bad checksum met at a device address: a resident set without a backing copy becomes failed (R433). -/
def State.setPoisoned (s : State) (pa : Nat) : State :=
  if !inHbm pa then s
  else match s.setAt (pa / 2 ^ 21) with
    | some (n, w) => if w.state = 3 && !w.restorable then s.regionFailed n pa else s
    | none => s

/-- Bytes read from a device address whose poison no restore mends: their set becomes failed (R433). -/
def State.notePoison (s : State) (pa : Nat) (bs : List PByte) : State := if anyPoison bs then s.setPoisoned (pa + firstBad bs) else s

/-- Poison met in a line: its restore is begun where the line lies in a restorable set, and a set without a backing copy becomes failed
(R431, R433). -/
def State.metPoisonAt (s : State) (pa : Nat) : State :=
  if (s.restorable pa).isSome then s.startRestore pa false else s.setPoisoned pa

/-- The event of a write to host memory that failed because the port is stopped (R164, R344). -/
def State.hostFailed (s : State) (i tag : Nat) : State :=
  if s.host.stopped then s.event i (s.record 3 7 0 (blockUnit 4 0) (tag % 2 ^ 16)) else s

/-! ## Store-private memory (R272) -/

/-- The key of a record's own 256 bytes. -/
def recKey : Nat := 4096

/-- The bytes of a node, or of a record. -/
def nodeSize (key : Nat) : Nat := if key < 64 || key = recKey then 256 else 512

/-- A node or a record freed. -/
def Seq.giveNode (q : Seq) (key a : Nat) : Seq :=
  if key = recKey then { q with recFree := a :: q.recFree }
  else if nodeSize key = 256 then { q with nodeFree := a :: q.nodeFree }
  else { q with leafFree := a :: q.leafFree }

/-- The bytes of the hot-set tables at the end of the store-private range, and those of one set in them (DESIGN CHOICE, log 100). -/
def hotTableBytes : Nat := 4096
def WSet.bytes (w : WSet) : List Byte :=
  leBytes 1 w.state.toNat ++ leBytes 1 (b2n w.pin + 2 * b2n w.restorable + 4 * b2n w.bulk + 8 * b2n w.ck) ++ leBytes 2 (w.refs.map Prod.snd).sum
    ++ leBytes 4 w.first ++ leBytes 4 w.pages ++ leBytes 4 w.use ++ leBytes 8 w.src.toNat ++ leBytes 8 w.backing.toNat
    ++ leBytes 8 w.ckt.toNat ++ leBytes 8 w.grant.toNat ++ leBytes 16 0

/-- The entry of a set in the hot-set tables written, where a store-private range is assigned. -/
def State.writeSet (s : State) (n : Nat) : State :=
  if s.seq.privCount = 0 then s
  else s.hbmWrite {} ((s.seq.privFirst + s.seq.privCount) * 2 ^ 21 - hotTableBytes + 64 * n) (clean (s.wset n).bytes)

/-- The entries of every set that is listed. -/
def State.writeSets (s : State) : State := (s.seq.sets.map Prod.fst).foldl (fun (s : State) n => s.writeSet n) s

/-- A set changed, with its entry in the hot-set tables. -/
def State.putWset (s : State) (n : Nat) (w : WSet) : State := (s.setWset n w).writeSet n

/-- The bytes of a virtual range that fall in its first 64 KiB. -/
def chunk (va n : Nat) : Nat := min n (65536 - va % 65536)

/-- The completion status that stands for a fault cause (R510, R518, R523). -/
def faultStatus (code : Nat) : Nat := if code = 9 then 0x0008 else if code = 0xA then 0x0009 else 0x0307

end Sys2Proof.Machine
end

