-- ==== Sys2Proof/Machine/Cores.lean ====
section
/-! DEFINITION. Thread groups: registers, divergence, barriers, faults and the issue of one instruction (chapter "Cores
and thread groups"). -/

namespace Sys2Proof.Machine
open Sys2Proof

/-! ## Registers (R36, R41, R42, R70) -/

def Group.s (x : Group) (r : Nat) : Word := NMap.at x.sregs r 0
def Group.setS (x : Group) (r : Nat) (v : Word) : Group := { x with sregs := NMap.put 0 x.sregs r v }
/-- k0 reads as all ones (R41). -/
def Group.k (x : Group) (r : Nat) : BitVec 32 := if r = 0 then 0xFFFFFFFF else NMap.at x.kregs r 0
/-- Writes to k0 are discarded (R41). -/
def Group.setK (x : Group) (r : Nat) (v : BitVec 32) : Group :=
  if r = 0 then x else { x with kregs := NMap.put 0 x.kregs r v }
def Group.v (x : Group) (r lane : Nat) : Elem := NMap.at x.vregs (32 * r + lane) 0
def Group.setV (x : Group) (r lane : Nat) (v : Elem) : Group := { x with vregs := NMap.put 0 x.vregs (32 * r + lane) v }

/-- The value of n consecutive vector registers of a lane, lowest first (R70). -/
def Group.vN (x : Group) (r lane : Nat) : Nat → Nat
  | 0 => 0
  | n + 1 => (x.v r lane).toNat + 2 ^ 32 * x.vN (r + 1) lane n

/-- A value written to n consecutive vector registers of a lane (R70). -/
def Group.setVN (x : Group) (r lane : Nat) : Nat → Nat → Group
  | 0, _ => x
  | n + 1, v => (x.setV r lane (BitVec.ofNat 32 v)).setVN (r + 1) lane n (v / 2 ^ 32)

/-- A value of a TYPE written to a vector register group: bits above a narrow type are zero (R70). -/
def Group.setVT (x : Group) (ty r lane v : Nat) : Group := x.setVN r lane (tyRegs ty) (v % 2 ^ (8 * tySize ty))

/-- A value of a TYPE as a scalar register holds it: extended by the sign for signed types, by zeros otherwise (R70). -/
def scalarOf (ty v : Nat) : Word :=
  if tySigned ty then BitVec.ofInt 64 (sext (8 * tySize ty) v) else BitVec.ofNat 64 (v % 2 ^ (8 * tySize ty))
def Group.setST (x : Group) (ty r v : Nat) : Group := x.setS r (scalarOf ty v)

/-- Granules of the vector registers d to d + n - 1 that an instruction writes whole lose their poison; one written in part keeps its
own (R430). -/
def Group.wrote (x : Group) (lanes : List Nat) (d n : Nat) : Group :=
  { x with poisoned := x.poisoned.filter (fun k =>
    !(8 * d ≤ k && k < 8 * (d + n) && (List.range 4).all (fun i => lanes.contains (4 * (k % 8) + i)))) }

/-- The first of some lanes in which a vector register of an operand (first register and count) lies in a poisoned granule, or in which a
scalar one does (R430). -/
def Group.poisonedLane (x : Group) (lanes : List Nat) (vec : List (Nat × Nat)) (sca : List Nat) : Option Nat :=
  lanes.find? (fun l => sca.any (fun r => x.poisoned.contains (2048 + r / 2))
    || vec.any (fun e => (List.range e.2).any (fun i => x.poisoned.contains (8 * (e.1 + i) + l / 4))))

/-- The performing lanes of an instruction with mask register km (R39). -/
def Group.lanes (x : Group) (km : Nat) : List Nat := bitsOf 32 (x.active &&& x.k km).toNat

/-! ## The state of a group at its start (R42) -/

/-- The key of an arrival counter. -/
def ctrKey (slot n : Nat) : Nat := 32 * slot + n
def State.ctr (s : State) (g slot n : Nat) : BitVec 32 := NMap.at (s.core g).ctrs (ctrKey slot n) 0
def State.setCtr (s : State) (g slot n : Nat) (v : BitVec 32) : State :=
  s.updCore g (fun c => { c with ctrs := NMap.put 0 c.ctrs (ctrKey slot n) v })

/-- The first registers of a group: coordinates, argument block, core and slot, tag (R42). -/
def startGroup (l : Launch) (task g slot : Nat) : Group :=
  let x := task % l.gx
  let y := task / l.gx % l.gy
  let z := task / l.gx / l.gy
  let b : Group := { inst := l.inst, idx := l.idx, task := task, pc := l.entry.setWidth 64 }
  let b := (((((b.setS 0 (BitVec.ofNat 64 x)).setS 1 (BitVec.ofNat 64 y)).setS 2 (BitVec.ofNat 64 z)).setS 3 (l.args.setWidth 64)).setS 4
    (BitVec.ofNat 64 (g + slot * 2 ^ 16))).setS 5 (BitVec.ofNat 64 (l.idx % 2 ^ 16))
  (List.range 32).foldl (fun b i => b.setV 0 i (BitVec.ofNat 32 i)) b

/-! ## Divergence and barriers (R48 to R51) -/

/-- on_reach of R48, n rounds at most. -/
def Group.reach : Nat → Group → Group
  | 0, x => x
  | n + 1, x =>
    match x.stack with
    | [] => x
    | t :: rest =>
      if x.pc = t.rpc || x.active = 0 then
        if t.pend ≠ 0 then
          ({ x with active := t.pend, pc := t.pendPc, stack := { t with pend := 0 } :: rest }).reach n
        else ({ x with active := t.saved, pc := t.rpc, stack := rest }).reach n
      else x

/-- A group with no active thread releases its barrier, or ends when all threads have exited (R48, R50). -/
def Group.release (x : Group) : Group :=
  if x.active ≠ 0 then x
  else if x.exited = 0xFFFFFFFF then { x with phase := .ended }
  else if x.parked ||| x.exited = 0xFFFFFFFF then
    { x with stack := [], active := x.parked, parked := 0, pc := x.barAddr + 8, barSince := none, barSaved := 0 }
  else x

/-- What is checked before each issue (R48). -/
def Group.settle (x : Group) : Group := (x.reach 65).release

/-- Threads removed from every saved and pending mask (R48, R49). -/
def Group.strip (x : Group) (m : BitVec 32) : Group :=
  { x with stack := x.stack.map (fun e => { e with saved := e.saved &&& ~~~m, pend := e.pend &&& ~~~m }) }

/-- on_branch of R48: none on a stack overflow. -/
def Group.branch (x : Group) (target rpc : Word) (taken : BitVec 32) : Option Group :=
  if taken = x.active then some { x with pc := target }
  else if taken = 0 then some { x with pc := x.pc + 8 }
  else if x.stack.length = 32 then none
  else some { x with
    stack := { rpc := rpc, saved := x.active, pendPc := x.pc + 8, pend := x.active &&& ~~~taken } :: x.stack
    active := taken
    pc := target }

/-- on_exit of R48. -/
def Group.exit (x : Group) : Group :=
  let y := x.strip x.active
  { y with exited := x.exited ||| x.active, active := 0 }

/-- bar.group by the active threads at its address (R49). -/
def Group.park (x : Group) (cycle : Nat) : Group :=
  let y := x.strip x.active
  { y with parked := x.parked ||| x.active, barAddr := x.pc, active := 0,
           barSince := some (x.barSince.getD cycle) }

/-! ## Faults (R53 to R58) -/

/-- Core cycles counted since the core's last reset (R73). -/
def State.cycles (s : State) (g : Nat) : Nat := (s.sectorClk (sectorOf g)).cycles - (s.core g).cycleBase

/-- A fault detected for a launch: the first is kept for the event, further ones set its flag, and the group stops
issue (R55, R57, R58). -/
def State.kill (s : State) (i idx : Nat) (f : FaultInfo) : State :=
  s.updLaunch i idx (fun l => if l.fault.isSome then { l with more := true } else { l with fault := some f })

/-- A fault of the group in a slot at its present instruction (R55, R57). -/
def State.raise (s : State) (g slot code lane : Nat) : State :=
  match s.group g slot with
  | none => s
  | some x =>
    let f : FaultInfo :=
      { code := BitVec.ofNat 16 code, unit := coreUnit g, beat := s.cad.beat, phase := s.cad.phase,
        pc := x.pc, slot := slot, lane := BitVec.ofNat 8 lane }
    (s.kill x.inst x.idx f).setGroup g slot { x with stopped := true }

/-- Poison consumed at a device address, or at a byte offset of a core array: the record of its granule goes to the log,
instance 0 and the owning instance, and the group faults (R430, R435). -/
def State.raisePoison (s : State) (g slot code addr lane owner : Nat) : State :=
  let erec := if code = 0xD then 4 else 3
  (s.errRecord erec 0 (coreUnit g) (errDetail (addr / 16 * 16) 0xFF 0 owner 0) [0, owner]).raise g slot code lane

/-! ## Issue -/

/-- Staged run-ahead copies of a slot discarded (R63). -/
def State.dropStaged (s : State) (g slot : Nat) : State :=
  s.updCore g (fun c => { c with staged := c.staged.filter (fun t => t.slot ≠ slot) })

/-- One instruction executed within the window in which staged copies may be claimed; the copies left when the window
closes are discarded (R63). -/
def State.tickWindow (s : State) (g slot : Nat) : State :=
  match s.group g slot with
  | none => s
  | some x =>
    if x.window = 0 then s
    else
      let s := s.setGroup g slot { x with window := x.window - 1 }
      if x.window = 1 then s.dropStaged g slot else s

/-- The group moves past an instruction of n bytes. -/
def State.advance (s : State) (g slot n : Nat) : State :=
  (s.updGroup g slot (fun x => { x with pc := x.pc + BitVec.ofNat 64 n })).tickWindow g slot

/-- The launch of a group. -/
def State.launchOf (s : State) (x : Group) : Launch := (s.launch x.inst x.idx).getD {}

/-- Whether a group may issue: running, not stopped by a fault of its launch, waiting for no remote answer, and its
core in service (R17, R55). -/
def State.mayIssue (s : State) (g : Nat) (x : Group) : Bool :=
  x.phase = .running && !x.stopped && x.await = [] && (s.launchOf x).fault.isNone && !s.fencedCore g
    && !s.err.fatal && !s.therm.tripped && s.board.rails && (s.sectorClk (sectorOf g)).mhz ≠ 0

end Sys2Proof.Machine
end

