-- ==== Sys2Proof/Machine/Remote.lean ====
section
/-! DEFINITION. The sending side of the Aeldon links: routing of packets, remote requests, batches (R375, R379, R381 to
R386). -/

namespace Sys2Proof.Machine
open Sys2Proof

/-! ## Ports -/

/-- The virtual channel of a packet (R375). -/
def vcOf (p : Packet) : Nat :=
  let opc := p.opc.toNat
  if 0x81 ≤ opc then 2 else if opc = 5 then 3 else if p.tier then 4 else if opc = 1 || opc = 4 then 0 else 1

/-- Whether a packet is a request, which is answered when it cannot be delivered (R379, R382). -/
def isRequest (opc : Nat) : Bool := 1 ≤ opc && opc ≤ 5

/-- Flits that a packet takes: two header units and its data units, 15 units a flit (R370, R382). -/
def flitsOf (p : Packet) : Nat := (2 + (p.data.length + 15) / 16 + 14) / 15

/-- Whether a link is up and enabled (R369, R379). -/
def State.linkUp (s : State) (l : Nat) : Bool := (s.link l).state = 2 && s.ael.en.toNat.testBit l

/-! ## Flits sent (R370 to R373) -/

/-- The header and the data units of a packet (R382). -/
def packetBytes (p : Packet) : List Byte :=
  let n := (p.data.length + 15) / 16
  let opc := p.opc.toNat
  leBytes 1 opc ++ leBytes 1 (n + 32 * b2n p.fin + 64 * b2n p.mc + 128 * b2n p.retry)
    ++ leBytes 2 p.dst.toNat ++ leBytes 2 p.src.toNat ++ leBytes 1 p.sinst.toNat ++ leBytes 1 p.dinst.toNat
    ++ leBytes 2 p.sgen.toNat ++ leBytes 2 p.dgen.toNat ++ leBytes 4 p.txid.toNat ++ leBytes 5 p.addr.toNat
    ++ leBytes 1 (p.aop.toNat + 16 * p.atype.toNat) ++ leBytes 1 (p.len - 1) ++ leBytes 1 p.life
    ++ leBytes 4 (if 0x81 ≤ opc then p.status.toNat else p.srctag.toNat) ++ leBytes 2 p.batch.toNat ++ leBytes 2 p.count.toNat
    ++ p.data ++ leBytes (16 * n - p.data.length) 0

/-- The 256 bytes of a flit from its SEQ, VC and CTL bits, its ACK and NAK, the credits that it returns, FIRST and its body, which
is filled up with zeros (R370, R371). -/
def flitBytes (head ack cvc ccnt first : Nat) (body : List Byte) : List Byte :=
  let b := leBytes 2 head ++ leBytes 2 ack ++ leBytes 2 (cvc + 16 * ccnt) ++ leBytes 1 first ++ leBytes 5 0
    ++ body ++ leBytes (240 - body.length) 0
  b ++ leBytes 4 (crc32 b)

/-- The lanes in use of a link. -/
def Link.active (k : Link) : List Nat := (List.range 4).filter (fun j => k.good.getLsbD j)

/-- The bits of a flit put on a link: directly in the message bits of its codewords, of which one is sent when it is full, striped across the
active lanes (R368). -/
def State.putBits (s : State) (l : Nat) (flit : List Byte) : State :=
  let k := s.link l
  let v := k.txBits + ofLe flit * 2 ^ k.txFill
  let n := k.txFill + 2048
  if n < 5140 then s.setLink l { k with txBits := v, txFill := n }
  else (s.setLink l { k with txBits := v / 2 ^ 5140, txFill := n - 5140 }).send (.codeword l (stripe k.active (codewordOf v)))

/-- A flit sent on a link: with the last data flit received in order, and with the credits owed on one channel (R370, R373, R375). -/
def State.emit (s : State) (l head : Nat) (nak : Bool) (first : Nat) (body : List Byte) : State :=
  let k := s.link l
  let (cvc, ccnt) := (k.owed.find? (fun e => e.2 ≠ 0)).getD (0, 0)
  let f := flitBytes head ((k.rxExpected - 1).toNat + 4096 * b2n nak) cvc ccnt first body
  ((s.setLink l { k with owed := NMap.del k.owed cvc, sinceAck := 0 }).send (.flit l f)).putBits l f

/-- A control flit with messages of 16 bytes each (R371, R372). -/
def State.sendControl (s : State) (l : Nat) (nak : Bool) (messages : List (List Byte)) : State :=
  s.emit l (2 ^ 15) nak 0 messages.flatten

/-- The control messages (R372). -/
def symbolMessage (hops : Nat) (leader : BitVec 12) (beat : BitVec 64) : List Byte :=
  leBytes 1 1 ++ leBytes 1 hops ++ leBytes 2 leader.toNat ++ leBytes 4 0 ++ leBytes 8 beat.toNat
def grantMessage (vc n : Nat) : List Byte := leBytes 1 2 ++ leBytes 1 vc ++ leBytes 2 n ++ leBytes 12 0
def widthMessage (mask : Nat) : List Byte := leBytes 1 3 ++ leBytes 1 mask ++ leBytes 14 0
def goingDownMessage (reason : Nat) : List Byte := leBytes 1 4 ++ leBytes 1 reason ++ leBytes 14 0

/-! ## Widths (R369, R372, R377) -/

/-- The widest width that a mask of lanes gives: all four, a pair, or the lowest lane alone (R369). -/
def widest (m : Nat) : Nat :=
  if m % 16 = 15 then 15 else if fld m 0 2 = 3 then 3 else if fld m 2 2 = 3 then 12 else if m % 16 = 0 then 0 else 2 ^ firstBit 4 m

/-- The WIDTH code of a lane mask (R393). -/
def widthCode (m : Nat) : Nat := popc 4 m / 2

/-- Lanes of a link that are neither failed nor fenced. -/
def Link.sound (k : Link) : Nat := maskOf ((List.range 4).filter (fun l => !k.fenced.getLsbD l && (NMap.find k.laneFails l).isNone))

/-- A link switched to a lane mask (R372, R377). -/
def State.setWidth (s : State) (l m : Nat) : State :=
  s.updLink l (fun k => { k with
    good := BitVec.ofNat 4 m
    width := BitVec.ofNat 2 (widthCode m)
    asked := none
    widthchg := if k.good.toNat = m then k.widthchg else sat16 k.widthchg 1 })

/-- A lane mask asked of the other end; both ends switch once it has answered (R372). -/
def State.askWidth (s : State) (l m : Nat) : State :=
  if (s.link l).good.toNat = m then s
  else (s.updLink l (fun k => { k with asked := some (BitVec.ofNat 4 m) })).sendControl l false [widthMessage m]

/-- The lane of a link that a test takes next, removed by width request, with the link up on the others; one that is the last sound lane is
passed over (R377, R477, R481). -/
def State.nextLane (s : State) (l : Nat) : List Nat → State
  | [] => { s with bist := { s.bist with left := [] } }
  | lane :: rest =>
    let k := s.link l
    let out := { k with laneFails := NMap.ins k.laneFails lane 0 }
    if (NMap.find k.laneFails lane).isSome || k.fenced.getLsbD lane || widest out.sound = 0 then s.nextLane l rest
    else ({ s with bist := { s.bist with left := lane :: rest } }.setLink l out).askWidth l (widest out.sound)

/-- A link whose lanes are tested in turn (R477). -/
def State.narrowLink (s : State) (l : Nat) : State := if (s.link l).state ≠ 2 then s else s.nextLane l (List.range 4)

/-- Whether a lane of a link is the one that a test has removed. -/
def State.testsLane (s : State) (l lane : Nat) : Bool :=
  s.bist.busy && s.bist.target = 2 && s.bist.unit = linkUnit l && s.bist.left.head? = some lane

/-! ## Data flits (R371, R373, R375) -/

/-- A data flit of the replay buffer sent (R373). -/
def State.sendData (s : State) (l : Nat) (f : SentFlit) : State := s.emit l (f.seq.toNat + 4096 * f.vc) false f.first f.body

/-- Every data flit of the replay buffer from a sequence number on sent again (R373). -/
def State.resendFlits (s : State) (l : Nat) (seq : BitVec 12) : State :=
  ((s.link l).txBuf.filter (fun f => (f.seq - seq).toNat < 2048)).foldl (fun (s : State) f => s.sendData l f) s

/-- A packet put on a link whose port holds the credits and the replay-buffer room for it: it begins in a data flit of its own and
runs on in the next ones (R371, R373, R375; DESIGN CHOICE, log 106). -/
def State.transmit (s : State) (l : Nat) (p : Packet) : State :=
  let n := flitsOf p
  let k := s.link l
  let units := packetBytes p
  let fs : List SentFlit := (List.range n).map (fun j =>
    { seq := k.txNext + BitVec.ofNat 12 j, vc := vcOf p, first := if j = 0 then 0 else 15, body := (units.drop (240 * j)).take 240, packet := p })
  let s := s.setLink l { k with
    credits := NMap.upd 0 k.credits (vcOf p) (fun c => c - n)
    txBuf := k.txBuf ++ fs
    progressAt := if k.txBuf = [] then s.clock.now else k.progressAt
    txNext := k.txNext + BitVec.ofNat 12 n }
  fs.foldl (fun (s : State) f => s.sendData l f) s

/-- Whether a link may send n more flits on a virtual channel. -/
def Link.room (k : Link) (vc n : Nat) : Bool := n ≤ NMap.at k.credits vc 0 && k.txBuf.length + n ≤ 512

/-- A packet sent on a link, or left waiting for its credits; with the time that it has spent in this router (R375). -/
def State.sendOn (s : State) (l spent : Nat) (p : Packet) : State :=
  let k := s.link l
  let vc := vcOf p
  if !k.waiting.any (fun w => w.vc = vc) && k.room vc (flitsOf p) then s.transmit l p
  else s.updLink l (fun k => { k with waiting := k.waiting ++ [{ vc := vc, since := s.clock.now, spent := spent, packet := p }] })

/-! ## The division of a port's flit slots (R376) -/

/-- The packet of a part of the waiting traffic that a link sends next on some channels: the oldest of those that come first on their
channel, where the channel has room. -/
def Link.next (k : Link) (vcs : List Nat) (sel : Packet → Bool) : Option Queued :=
  let heads := vcs.filterMap (fun vc =>
    (k.waiting.find? (fun w => w.vc = vc && sel w.packet)).filter (fun w => k.room vc (flitsOf w.packet)))
  k.waiting.find? (fun w => heads.contains w)

/-- Whether a packet comes from another module and is forwarded. -/
def State.forwards (s : State) (p : Packet) : Bool := p.src ≠ s.ael.id

/-- The packet of this module's own traffic whose turn it is, by deficit round robin among the instances in units of flits: each gets
its link weight when its turn comes, and sends while its deficit lasts. With it, the link as the choice leaves it. -/
def State.nextOwn (s : State) : Nat → Link → Option (Queued × Link)
  | 0, _ => none
  | m + 1, k =>
    let i := k.turn % 64
    let mine := fun (j : Nat) (p : Packet) => !s.forwards p && p.sinst.toNat = j
    let j := (i + 1) % 64
    let pass (d : NMap Nat) : Link := { k with
      turn := j
      deficit := if k.waiting.any (fun w => mine j w.packet) then NMap.upd 0 d j (fun c => c + max 1 (s.inst j).linkw) else NMap.del d j }
    match k.next [0, 1, 3, 4] (mine i) with
    | some w =>
      let n := flitsOf w.packet
      if n ≤ NMap.at k.deficit i 0 then some (w, { k with deficit := NMap.upd 0 k.deficit i (fun c => c - n) })
      else s.nextOwn m (pass k.deficit)
    | none => s.nextOwn m (pass (if k.waiting.any (fun w => mine i w.packet) then k.deficit else NMap.del k.deficit i))

/-- The packet that a link sends next, and the link as the choice leaves it: VC 2 first; then forwarded traffic wherever it would
otherwise fall behind this module's own while it waits. -/
def State.nextPacket (s : State) (k : Link) : Option (Queued × Link) :=
  match k.next [2] (fun _ => true) with
  | some w => some (w, k)
  | none =>
    let k := if k.waiting.any (fun w => w.vc ≠ 2 && s.forwards w.packet) then k else { k with fwdAhead := 0 }
    match k.next [0, 1, 3, 4] s.forwards, s.nextOwn 256 k with
    | some f, none => some (f, { k with fwdAhead := k.fwdAhead + flitsOf f.packet })
    | none, some r => some r
    | some f, some (w, k') =>
      if k.fwdAhead < flitsOf w.packet then some (f, { k with fwdAhead := k.fwdAhead + flitsOf f.packet })
      else some (w, { k' with fwdAhead := k.fwdAhead - flitsOf w.packet })
    | none, none => none

/-! ## Routing (R379, R381, R383) -/

/-- The answer to a request that is not performed. -/
def State.rejectOf (s : State) (p : Packet) (status : Nat) : Packet :=
  { Packet.zero with
    opc := 0x84
    dst := p.src
    src := s.ael.id
    sinst := p.dinst
    dinst := p.sinst
    sgen := p.dgen
    dgen := p.sgen
    txid := p.txid
    life := 250
    status := BitVec.ofNat 16 status }

/-- A packet delivered to this module. -/
def State.deliver (s : State) (p : Packet) : State := { s with ael := { s.ael with delivered := s.ael.delivered ++ [p] } }

/-- The port of a unicast packet: among the up ports of its route, the one with the most credits (R379). -/
def State.port (s : State) (p : Packet) : Option Nat :=
  let m := NMap.at s.ael.route p.dst.toNat 0
  let up := (bitsOf 24 m.toNat).filter (fun l => s.linkUp l)
  argMin (fun l => 65536 - NMap.at (s.link l).credits (vcOf p) 0) up

/-- What a router takes off LIFE for the time in ns that a packet spent in it (R383). -/
def lifeCost (spent : Nat) : Nat := max 1 ((spent + 3999) / 4000)

/-- The ports by which a multicast packet leaves (R381). -/
def State.mcastPorts (s : State) (arrival : Option Nat) (p : Packet) : List Nat :=
  (bitsOf 24 (NMap.at s.ael.mcast (p.dst.toNat % 256) 0).toNat).filter (fun l => s.linkUp l && arrival ≠ some l)

/-- A packet at a link router: delivered, forwarded, answered or dropped; the port by which it left (R379, R383). -/
def State.routeN : Nat → State → Option Nat → Nat → Packet → Option Nat × State
  | 0, s, _, _, _ => (none, s)
  | n + 1, s, arrival, res, p =>
    let k := lifeCost res
    let answer := fun (status : Nat) =>
      if isRequest p.opc.toNat then (s.routeN n none 0 (s.rejectOf p status)).2 else s
    if p.life < k then (none, answer 0x0303)
    else
      let p := { p with life := p.life - k }
      if p.mc then
        if p.opc ≠ 5 then
          (none, match arrival with
            | some l => s.updLink l (fun x => { x with crc := sat16 x.crc 1 })
            | none => s)
        else
          let s := (s.mcastPorts arrival p).foldl (fun (s : State) l => s.sendOn l res p) s
          (none, if (NMap.at s.ael.mcast (p.dst.toNat % 256) 0).getLsbD 24 then s.deliver p else s)
      else if p.dst = s.ael.id then (none, s.deliver p)
      else match s.port p with
        | some l => (some l, s.sendOn l res p)
        | none => (none, answer 0x0301)

def State.route (s : State) (arrival : Option Nat) (res : Nat) (p : Packet) : Option Nat × State := s.routeN 2 arrival res p

/-- A packet that leaves a port after its wait: LIFE less what the wait has added to its time in the router; one that has none left is
dropped, and answered where it is a request (R383). -/
def State.sendQueued (s : State) (l : Nat) (w : Queued) : State :=
  let more := lifeCost (w.spent + (s.clock.now - w.since)) - lifeCost w.spent
  if w.packet.life < more then
    if isRequest w.packet.opc.toNat then (s.route none 0 (s.rejectOf w.packet 0x0303)).2 else s
  else s.transmit l { w.packet with life := w.packet.life - more }

/-- Waiting packets of a link sent as credits allow, n of them at most (R376). -/
def State.drainLink : Nat → State → Nat → State
  | 0, s, _ => s
  | n + 1, s, l =>
    match s.nextPacket (s.link l) with
    | none => s
    | some (w, k) => ((s.setLink l { k with waiting := k.waiting.erase w }).sendQueued l w).drainLink n l

/-! ## Requests (R382, R384, R389) -/

/-- A source tag (R382). -/
def srcTag (core slot : Nat) (commit : Bool) : Nat := core + slot * 2 ^ 13 + b2n commit * 2 ^ 17

/-- The tag of the batches of a group: its source tag, and above it the task, so that a batch is of one group (R224). -/
def groupTag (core slot inst idx task : Nat) : Nat := srcTag core slot false + 2 ^ 20 * (1 + inst + 64 * (idx + 2 ^ 32 * task))

/-- The source tags of the part's own remote accesses, and of those of them that are sequence-store transfers and hot-set
loads, which travel on VC 4 (R375). R382 names no tag for them and gives each of its 2^18 values to a core's slot: they carry that of the
commit writes of core 0 slot 0, and the bits above the tag keep their batches apart (DESIGN CHOICE, log 107). -/
def partTag : Nat := srcTag 0 0 true + 2 ^ 18
def tierTag : Nat := srcTag 0 0 true + 2 ^ 19

/-- The request of an instance to a device address of a peer, by the binding of its leaf; none where the binding does
not hold (R362, R384). -/
def State.request (s : State) (i leaf pa tag opc : Nat) : Option Packet :=
  (s.bindingOk i leaf pa).map (fun b =>
    { Packet.zero with
      opc := BitVec.ofNat 8 opc
      dst := b.module
      src := s.ael.id
      sinst := BitVec.ofNat 6 i
      dinst := b.rinst
      sgen := (s.inst i).gen
      dgen := b.rgen
      addr := BitVec.ofNat 40 pa
      life := 250
      srctag := BitVec.ofNat 18 tag
      tier := tag = tierTag })

/-- The link router through which a request left (R389). -/
def routerOf (l : Option Nat) : BitVec 32 :=
  match l with
  | some l => routerUnit l
  | none => routerUnit 0

/-- A request sent through the binding of an index, and recorded until it is answered; its transaction ID. -/
def State.sendRequest (s : State) (p : Packet) (bind : Nat) (owner : RemoteFor) (tag : BitVec 16) : Nat × State :=
  let p := { p with txid := s.ael.txid }
  let s := { s with ael := { s.ael with txid := s.ael.txid + 1 } }
  let (l, s) := s.route none 0 p
  let o : Outstanding :=
    { txid := p.txid, p := p, bind := bind, first := s.clock.now, sent := s.clock.now, owner := owner, inst := p.sinst.toNat, tag := tag,
      router := routerOf l, busyAt := none }
  (p.txid.toNat, { s with ael := { s.ael with outst := s.ael.outst ++ [o] } })

/-- A batch number of a source tag toward a module: each batch takes the next one (R385). -/
def State.takeBatch (s : State) (tag : Nat) (dst : BitVec 12) : BitVec 16 × State :=
  let key := 4096 * (tag % 2 ^ 18) + dst.toNat
  (NMap.at s.ael.batchNext key 0, { s with ael := { s.ael with batchNext := NMap.upd 0 s.ael.batchNext key (fun n => n + 1) } })

/-- One write added to the open batch of a source and its instance toward a module: its number, and its count where the write is the
last one (R385). -/
def State.batchWrite (s : State) (p : Packet) (tag bind : Nat) (fin : Bool) : Packet × State :=
  let mine := fun (b : SrcBatch) => b.tag = tag && b.dst = p.dst && b.inst = p.sinst
  let (b, s) : SrcBatch × State := match s.ael.batches.find? mine with
    | some b => (b, s)
    | none =>
      let (n, s) := s.takeBatch tag p.dst
      ({ tag := tag, dst := p.dst, inst := p.sinst, number := n, count := 0 }, s)
  let rest := s.ael.batches.filter (fun b => !mine b)
  let c := b.count + 1
  ({ p with batch := b.number, fin := fin, count := if fin then c else 0 },
    { s with ael := { s.ael with batches := if fin then rest else rest ++ [{ b with count := c, bind := bind }] } })

/-- A remote write of bytes within one aligned 256-byte block. -/
def State.sendWrite (s : State) (p : Packet) (stag bind : Nat) (data : List Byte) (fin : Bool) (owner : RemoteFor) (tag : BitVec 16) : Nat × State :=
  let (p, s) := s.batchWrite { p with data := data, len := data.length } stag bind fin
  s.sendRequest p bind owner tag

/-- A run of bytes cut at aligned 256-byte blocks: offset and length of each part (R382). -/
def blocks256 : Nat → Nat → Nat → Nat → List (Nat × Nat)
  | 0, _, _, _ => []
  | k + 1, pa, off, n =>
    if n = 0 then []
    else
      let m := min n (256 - pa % 256)
      (off, m) :: blocks256 k (pa + m) (off + m) (n - m)

/-- A run of bytes written to a peer module; the transaction IDs. The last packet carries FIN where asked (R224). -/
def State.writePeer (s : State) (i leaf pa stag : Nat) (data : List Byte) (fin : Bool) (owner : Nat → Nat → RemoteFor) (tag : BitVec 16) :
    List Nat × State :=
  match s.request i leaf pa stag 1 with
  | none => ([], s)
  | some p =>
    (blocks256 (data.length / 256 + 2) (pa % 2 ^ 40) 0 data.length).foldl (fun (acc : List Nat × State) b =>
      let (t, s) := acc.2.sendWrite { p with addr := BitVec.ofNat 40 (pa + b.1) } stag (leafBind leaf) ((data.drop b.1).take b.2)
        (fin && b.1 + b.2 = data.length) (owner b.1 b.2) tag
      (acc.1 ++ [t], s)) ([], s)

/-- A run of bytes read from a peer module; the transaction IDs. -/
def State.readPeer (s : State) (i leaf pa stag n : Nat) (owner : Nat → Nat → RemoteFor) (tag : BitVec 16) : List Nat × State :=
  match s.request i leaf pa stag 2 with
  | none => ([], s)
  | some p =>
    (blocks256 (n / 256 + 2) (pa % 2 ^ 40) 0 n).foldl (fun (acc : List Nat × State) b =>
      let (t, s) := acc.2.sendRequest { p with addr := BitVec.ofNat 40 (pa + b.1), len := b.2 } (leafBind leaf) (owner b.1 b.2) tag
      (acc.1 ++ [t], s)) ([], s)

/-- CLOSE packets for the open batches of a source tag, each through the binding of its last write; none is sent where that
binding no longer holds (R362, R386). -/
def State.closeBatches (s : State) (stag : Nat) : State :=
  let mine := s.ael.batches.filter (fun b => b.tag = stag)
  mine.foldl (fun s b =>
    let x := s.inst b.inst.toNat
    let bind := (NMap.find x.binds b.bind).filter (fun e => e.module = b.dst)
    let p : Packet :=
      { Packet.zero with
        opc := 4
        dst := b.dst
        src := s.ael.id
        sinst := b.inst
        dinst := (bind.map (fun e => e.rinst)).getD 0
        sgen := x.gen
        dgen := (bind.map (fun e => e.rgen)).getD 0
        txid := s.ael.txid
        life := 250
        srctag := BitVec.ofNat 18 b.tag
        batch := b.number
        count := b.count
        tier := stag = tierTag }
    let s := { s with ael := { s.ael with
      txid := s.ael.txid + 1
      batches := s.ael.batches.filter (fun e => e ≠ b) } }
    if bind.isNone then s else (s.route none 0 p).2) s

/-! ## Reports of lost remote writes and atomics (R164, R388, R389) -/

/-- The event of a remote write that failed, or of an atomic whose outcome is unknown. -/
def State.remoteFailed (s : State) (code : Nat) (o : Outstanding) (status : Nat) : State :=
  s.event o.inst (s.record 9 code 0 o.router (o.tag.toNat + status * 2 ^ 16))

/-- WRITE packets of a core or of a group that await WACK (R225, R384). -/
def State.unacked (s : State) (g : Nat) (slot : Option Nat) : Nat :=
  (s.ael.outst.filter (fun o => o.p.opc = 1 && (match o.owner with
    | .store c t => c = g && (slot.isNone || slot = some t)
    | .copy c _ _ _ => c = g && slot.isNone
    | .commit c _ _ => c = g && slot.isNone
    | _ => false))).length

/-- An ended task asks for its commit reservation, in the order of last exits; those of one fabric cycle, of which there are three
in 2 ns, by core and slot (R23, R191). -/
def State.askCommit (s : State) (g slot : Nat) : State :=
  let n := s.clock.now * 3 / 2
  let after := fun (e : Nat × Nat × Nat) => n < e.1 || (n = e.1 && (g < e.2.1 || (g = e.2.1 && slot < e.2.2)))
  s.updCluster (clusterOf g) (fun c => { c with
    commitWait := c.commitWait.takeWhile (fun e => !after e) ++ (n, g, slot) :: c.commitWait.dropWhile (fun e => !after e) })

/-- The bytes that a copy moves. -/
def CopyJob.total (j : CopyJob) : Nat := j.rowBytes * j.rows * j.planes

/-- The open batches of a group closed, once it has ended and its store copies have sent their last bytes: those belong to its batches (R224,
R386). -/
def State.closeEnded (s : State) (g slot inst idx task : Nat) : State :=
  let runs := (s.group g slot).any (fun x => x.inst = inst && x.idx = idx && x.task = task && x.phase = .running)
  let sends := (s.core g).copies.any (fun j => j.slot = slot && j.inst = inst && j.idx = idx && j.task = task && j.dir = 1 && j.landed < j.total)
  if runs || sends then s else s.closeBatches (groupTag g slot inst idx task)

/-- What follows a group's last exit: its open batches closed (R386), and its commit copies waiting for a reservation
(R191). -/
def State.groupEnded (s : State) (g slot : Nat) : State :=
  match s.group g slot with
  | none => s
  | some x =>
    if x.phase ≠ .ended then s
    else
      let s := (s.dropStaged g slot).closeEnded g slot x.inst x.idx x.task
      if x.commits = [] then s else s.askCommit g slot

end Sys2Proof.Machine
end

