-- ==== Sys2Proof/Machine/Issue.lean ====
section
/-! DEFINITION. The issue of one instruction by a group: the addresses of memory instructions and their checks, what an
instruction waits for, and which ready group a core picks in each class (R44, R48, R79, R80, R94 to R101). -/

namespace Sys2Proof.Machine
open Sys2Proof

/-! ## Addresses and checks -/

/-- The address of an access of a lane (R68, R79), in 64-bit arithmetic. -/
def memAddr (x : Group) (w lane : Nat) : Nat :=
  let imm := mIMM w
  match mAM w with
  | 0 => wrap 64 ((x.s (wA w)).toNat + imm)
  | 1 => wrap 64 (x.vN (wA w) lane 2 + imm)
  | _ => wrap 64 ((x.s (wA w)).toNat + sext 32 (x.v (wB w) lane).toNat + imm)

/-- The accesses of a format-M word: one for the group, or one for each performing lane (R79). The scalar access stands
as lane 0xFF, as its fault record has it (R57). -/
def memLanes (x : Group) (w : Nat) : List Nat := if mS w then [0xFF] else x.lanes (wKM w)

/-- A checked access: lane, device address and leaf. -/
structure Hit where
  lane : Nat
  pa : Nat
  leaf : Nat
  deriving DecidableEq, Repr

/-- A cause found by the checks of an access, with its lane and the address of poison met in a walk. -/
structure Cause where
  code : Nat
  lane : Nat
  addr : Nat
  deriving DecidableEq, Repr

/-- The checks of one access: alignment, translation, permission, and for a peer its binding and link weight (R79, R352,
R362, R376). -/
def State.checkOne (s : State) (core i : Nat) (k : XKind) (size lane va : Nat) : Except Cause Hit × State :=
  if va % size ≠ 0 then (.error ⟨8, lane, 0⟩, s)
  else match s.translate core i k va with
    | (.bad c a, s) => (.error ⟨c, lane, a⟩, s)
    | (.ok pa leaf, s) =>
      if inPeer pa && (s.bindingOk i leaf pa).isNone then (.error ⟨9, lane, 0⟩, s)
      else if inPeer pa && (s.inst i).linkw = 0 then (.error ⟨0xA, lane, 0⟩, s)
      else (.ok ⟨lane, pa, leaf⟩, s)

/-- The checks of an access that sends nothing to a peer: translation and permission (R89, R90, R227). -/
def State.checkHere (s : State) (core i : Nat) (k : XKind) (lane va : Nat) : Except Cause Hit × State :=
  match s.translate core i k va with
  | (.bad c a, s) => (.error ⟨c, lane, a⟩, s)
  | (.ok pa leaf, s) => (.ok ⟨lane, pa, leaf⟩, s)

/-- The same for every lane, in ascending lane order (R57, R80). -/
def State.checkEach (s : State) (core i : Nat) (k : XKind) : List (Nat × Nat) → Except Cause (List Hit) × State
  | [] => (.ok [], s)
  | (lane, va) :: r =>
    match s.checkHere core i k lane va with
    | (.error e, s) => (.error e, s)
    | (.ok h, s) =>
      match s.checkEach core i k r with
      | (.error e, s) => (.error e, s)
      | (.ok hs, s) => (.ok (h :: hs), s)

/-- The checks of every access of an instruction, in ascending lane order: the lowest faulting lane decides (R57, R80). -/
def State.checkAll (s : State) (core i : Nat) (k : XKind) (size : Nat) : List (Nat × Nat) → Except Cause (List Hit) × State
  | [] => (.ok [], s)
  | (lane, va) :: r =>
    match s.checkOne core i k size lane va with
    | (.error e, s) => (.error e, s)
    | (.ok h, s) =>
      match s.checkAll core i k size r with
      | (.error e, s) => (.error e, s)
      | (.ok hs, s) => (.ok (h :: hs), s)

/-! ## What an instruction waits for -/

/-- A valid sector of the cache portion. -/
def State.l1Get (s : State) (g a j : Nat) : Option Sector :=
  match (s.core g).l1.find? (fun l => l.a = a) with
  | some l => if l.valid.getLsbD j then some (l.d.get j) else none
  | none => none

/-- A release or fence completes only once every earlier remote write of the group is acknowledged (R211, R225). -/
def State.released (s : State) (g slot : Nat) : Bool := s.unacked g (some slot) = 0

/-- Copy entries in use, those of held commit copies included (R162, R191). -/
def State.copyEntries (s : State) (core : Nat) : Nat :=
  let c := s.core core
  c.copies.length + (c.slots.map (fun e => e.2.commits.length)).sum

/-- The value that a counter operation adds or awaits: sD[31:0] + IMM, IMM alone for FN 0 (R95). -/
def ctrOperand (x : Group) (w : Nat) : BitVec 32 :=
  (if iFN w = 0 then 0 else (x.s (wD w)).truncate 32) + BitVec.ofNat 32 (iIMM w)

/-- Incomplete matrix operations that the group in a slot issued (R101). -/
def State.matsOf (s : State) (g slot : Nat) : Nat :=
  match s.group g slot with
  | none => 0
  | some x => ((s.core g).mats.filter (fun m => m.slot = slot && m.inst = x.inst && m.idx = x.idx && m.task = x.task)).length

/-- Whether a group has a store copy with FIN with bytes left to send: no later remote write of it leaves before (R224). -/
def State.finPending (s : State) (g slot : Nat) (x : Group) : Bool :=
  (s.core g).copies.any (fun j => j.fin && j.slot = slot && j.inst = x.inst && j.idx = x.idx && j.task = x.task && j.landed < j.total)

/-- Whether an atomic of a core on HBM is performed at the home (R84, R249). -/
def State.atHome (s : State) (g pl pa : Nat) : Bool := pl = 2 || (pl = 0 && s.placeFar (clusterOf g) pa)

/-- Whether a checked access has to wait: its page is being flushed, or it needs its home and has no place there (R230,
R233, R238, R245). -/
def State.accessWaits (s : State) (g : Nat) (r : Row) (n : Nat) (h : Hit) : Bool :=
  match r with
  | .ld => s.nearBusy h.pa || ((s.l1Get g (lineOf h.pa) (h.pa % 128 / 32)).isNone && s.heldAt g h.pa false)
  | .st => s.heldAt g h.pa true
  | .atom => if s.atHome g (mPL n) h.pa then s.held h.pa || (inHbm h.pa && 256 ≤ (s.cluster (clusterOf g)).misses.length)
             else s.heldAt g h.pa true
  | _ => s.held h.pa

/-- Whether an instruction that a group has reached cannot issue yet: an arrival counter or the matrix engine has not come
far enough, a unit has no free entry, an earlier remote write is not acknowledged, or a line waits (R82, R94, R95, R99, R101,
R162, R225, R384). An access that faults does not wait. -/
def State.waits (s : State) (g slot : Nat) (x : Group) (r : Row) (n : Nat) : Bool :=
  let far := fun (hits : List Hit) => (hits.filter (fun h => inPeer h.pa)).length
  let release := (mORD n = 2 || mORD n = 3) && !s.released g slot
  let mem := r = .ld || r = .st || r = .atom || r = .pin || r = .unpin || r = .hintDead
  let all := fun (k : XKind) => (s.checkAll g x.inst k (tySize (mTY n)) ((memLanes x n).map (fun l => (l, memAddr x n l)))).1
  (mem && (memLanes x n).any (fun l => s.walkWaits g x.inst (memAddr x n l))) ||
  match r with
  | .waitGe => diff32 (s.ctr g slot (wA n)) (ctrOperand x n) < 0
  | .mmaWait => iIMM n < s.matsOf g slot
  | .cpAsync => 32 ≤ s.copyEntries g
  | .mmaAsync | .mmaDrain => 8 ≤ (s.core g).mats.length
  | .fence => !s.released g slot
  | .ld => match all .read with
    | .error _ => false
    | .ok hits => hits.any (s.accessWaits g r n)
  | .st => match all .write with
    | .error _ => false
    | .ok hits => hits.any (s.accessWaits g r n) || release || (far hits ≠ 0 && (4096 < s.unacked g none + far hits || s.finPending g slot x))
  | .atom => match all .write with
    | .error _ => false
    | .ok hits => hits.any (s.accessWaits g r n) || release
  | .pin | .unpin => match (s.checkHere g x.inst .read 0xFF (memAddr x n 0)).1 with
    | .error _ => false
    | .ok h => s.accessWaits g r n h
  | .hintDead => match (s.checkEach g x.inst .write ((memLanes x n).map (fun l => (l, memAddr x n l)))).1 with
    | .error _ => false
    | .ok hits => hits.any (s.accessWaits g r n)
  | _ => false

/-! ## The pick of a core (R44) -/

/-- Whether an instruction is of the vector class; every other one is of the scalar class. -/
def vectorClass (r : Row) (n : Nat) : Bool :=
  match r with
  | .nop | .vectorInteger | .vectorF32 | .vectorIntegerImmediate | .vectorF32Immediate | .cvt | .cmp | .xlane
  | .laneFill | .laneGet | .lanePut | .fold | .wsumInit | .wsumAcc | .wsumMac | .wsumAdd | .wsumRed | .wsumCvt => true
  | .ld | .st | .atom | .lds | .sts | .hintDead => !mS n
  | _ => false

/-- The eight bytes of an instruction word as the core has fetched them; none where it has not fetched their line (R66). -/
def Core.wordAt (c : Core) (pc : Word) : Option Word :=
  (NMap.find c.code (pc.toNat / 128)).map (fun bs => BitVec.ofNat 64 (leAt bs (pc.toNat % 128) 8))

/-- Whether a word is what a group finds at its program counter, its line having been fetched (R66). -/
def Core.fetched (c : Core) (x : Group) (w w1 : Word) : Bool :=
  c.wordAt x.pc = some w && (!bit w.toNat 7 || c.wordAt (x.pc + 8) = some w1)

/-- The class in which the group of a slot could issue its next instruction now, as far as its code has been fetched. -/
def State.readyClass (s : State) (g k : Nat) : Option Bool :=
  match s.group g k with
  | none => none
  | some x0 =>
    let x := x0.settle
    if !s.mayIssue g x0 || x.phase ≠ .running || x.active = 0 then none
    else (s.core g).wordAt x.pc |>.bind (fun w => (rowOf w.toNat).bind (fun r =>
      if s.waits g k x r w.toNat then none else some (vectorClass r w.toNat)))

/-- The cycle of a core's sector clock. -/
def State.cycleOf (s : State) (g : Nat) : Nat := (s.sectorClk (sectorOf g)).cycles

/-- Since when each slot of a core is ready, brought up to the present cycle. -/
def State.noteReady (s : State) (g : Nat) : State :=
  let c := s.core g
  s.setCore g { c with pick := { c.pick with ready := c.slots.filterMap (fun e =>
    if (s.readyClass g e.1).isSome then some (e.1, NMap.at c.pick.ready e.1 (s.cycleOf g)) else none) } }

/-- Whether a core picks a slot in a class in this cycle: nothing has issued in the class yet, the other class has not issued
for this slot, and no other ready slot of the class has been ready longer, or as long and comes first after the slot last
picked (R44). -/
def State.picked (s : State) (g slot : Nat) (vec : Bool) : Bool :=
  let c := s.core g
  let now := s.cycleOf g
  let (p, o) := if vec then (c.pick.vector, c.pick.scalar) else (c.pick.scalar, c.pick.vector)
  let since := fun k => NMap.at c.pick.ready k now
  let turn := fun k => (k + 31 - p.slot) % 16
  p.cycle ≠ some now && !(o.cycle = some now && o.slot = slot)
    && c.slots.all (fun e => e.1 = slot || s.readyClass g e.1 ≠ some vec
        || since slot < since e.1 || (since slot = since e.1 && turn slot < turn e.1))

/-- The pick recorded. -/
def State.pick (s : State) (g slot : Nat) (vec : Bool) : State :=
  let p : Pick := { slot := slot, cycle := some (s.cycleOf g) }
  s.updCore g (fun c => { c with pick :=
    if vec then { c.pick with vector := p, ready := NMap.del c.pick.ready slot }
    else { c.pick with scalar := p, ready := NMap.del c.pick.ready slot } })

/-! ## Issue -/

/-- Whether an instruction ends run-ahead (R61; DESIGN CHOICE, log 143: any further conditional branch). -/
def endsRunAhead (r : Row) (w : Nat) : Bool :=
  match r with
  | .br => wKM w ≠ 0 || bN w
  | .fence | .atom | .barGroup | .waitGe | .invL1 | .st | .pin | .hintDead | .exit => true
  | .ld => mORD w ≠ 0
  | _ => false

/-- Whether a group that reaches an instruction loses its staged copies: those of R61 but a branch, which the group resolves,
and an exit, and the copies that write memory (R61, R63). -/
def dropsStaged (r : Row) (n : Nat) : Bool := r ≠ .br && r ≠ .exit && endsRunAhead r n

/-- One instruction of a row issued by a group: the checks before issue (R48), the pick of the core (R44), the legality of
the word, what it waits for, then its effect. A word of another row is not this row's command. -/
def State.issue (s : State) (g slot : Nat) (r : Row) (w w1 : Word) (eff : State → Group → State) : State :=
  match s.group g slot with
  | none => s
  | some x0 =>
    if !s.mayIssue g x0 then s
    else
      let x := x0.settle
      let s := s.setGroup g slot x
      if x.phase ≠ .running || x.active = 0 || !(s.core g).fetched x w w1 then s
      else
        match rowOf w.toNat with
        | none => s.raise g slot 1 0xFF
        | some r' =>
          if r' ≠ r || !s.picked g slot (vectorClass r w.toNat) then s
          else match legal r (s.launchOf x).v w.toNat w1.toNat with
            | 0 =>
              let s := if dropsStaged r w.toNat then s.dropStaged g slot else s
              if s.waits g slot x r w.toNat then s else eff (s.pick g slot (vectorClass r w.toNat)) x
            | c => s.raise g slot c 0xFF

/-- A change of the group's own state, then the advance past the word. -/
def State.stepGroup (s : State) (g slot n : Nat) (x : Group) : State := (s.setGroup g slot x).advance g slot n

/-- An instruction command: the core and slot exist, and the group issues the word. -/
def onGroup (g slot : Nat) (t : State) : Out := onUnit (g < 8192 && slot < 16) t

end Sys2Proof.Machine
end

