-- ==== Sys2Proof/Machine/WideSum.lean ====
section
/-! DEFINITION. The wide sum (R105 to R109, R521, R522). -/

namespace Sys2Proof.Machine
open Sys2Proof

/-- A wide sum: SUM, and the fields of its status word (R105). An invalid one is the empty sum (R521). -/
structure WSum where
  sum : BitVec 192 := 0
  low : Int := 0
  valid : Bool := false
  loss : Bool := false
  wmiss : Bool := false
  ovf : Bool := false
  wconf : Bool := false
  pinf : Bool := false
  ninf : Bool := false
  nan : Bool := false
  deriving DecidableEq, Repr

/-- The empty sum. -/
def WSum.empty : WSum := {}

/-- The window exponents that are valid (R105). -/
def lowOk (l : Int) : Bool := -448 ≤ l && l ≤ 192

/-- The sum that 256 bits hold: empty without VALID (R521), and a window conflict for a LOW outside its range (R105). -/
def WSum.ofBits (v : Nat) : WSum :=
  let st := fld v 192 64
  if !bit st 16 then WSum.empty
  else
    let low := sext 16 st
    let ok := lowOk low
    { sum := BitVec.ofNat 192 v, low := if ok then low else -448, valid := true,
      loss := bit st 24, wmiss := bit st 25, ovf := bit st 26, wconf := bit st 27 || !ok,
      pinf := bit st 28, ninf := bit st 29, nan := bit st 30 }

/-- The 256 bits that hold a sum, reserved bits zero. -/
def WSum.bits (w : WSum) : Nat :=
  if !w.valid then 0
  else
    w.sum.toNat + 2 ^ 192 * (wrap 16 w.low + 2 ^ 16 + b2n w.loss * 2 ^ 24 + b2n w.wmiss * 2 ^ 25
      + b2n w.ovf * 2 ^ 26 + b2n w.wconf * 2 ^ 27 + b2n w.pinf * 2 ^ 28 + b2n w.ninf * 2 ^ 29 + b2n w.nan * 2 ^ 30)

/-- Whether an exact sum has left the range of SUM. -/
def sumOver (x : Int) : Bool := x < -(2 ^ 191 : Nat) || x ≥ (2 ^ 191 : Nat)

/-- The zero sum of a window. -/
def WSum.zero (low : Int) : WSum := { low := low, valid := true }

/-- A special term sets its flag; a finite one none. -/
def WSum.flag (w : WSum) : FVal → WSum
  | .nan => { w with nan := true }
  | .inf false => { w with pinf := true }
  | .inf true => { w with ninf := true }
  | .fin _ _ _ => w

/-- One term added (R106, R522). -/
def WSum.term (w : WSum) (t : FVal) : WSum :=
  if !w.valid then
    if t.isZero then WSum.empty
    else (({ low := -448, valid := true, wconf := true } : WSum)).flag t
  else if w.wconf then w.flag t
  else
    match t with
    | .fin n m e =>
      if m = 0 then w
      else if (Nat.log2 m : Int) + e ≥ w.low + 127 then { w with wmiss := true }
      else
        let sh := e - w.low
        let q := if sh ≥ 0 then m * 2 ^ sh.toNat else m >>> (-sh).toNat
        let rest := if sh ≥ 0 then 0 else m % 2 ^ (-sh).toNat
        let d : Int := if n then -(q : Int) else q
        { w with
          sum := w.sum + BitVec.ofInt 192 d
          loss := w.loss || rest ≠ 0
          ovf := w.ovf || sumOver (w.sum.toInt + d) }
    | t => w.flag t

/-- The sum of two wide sums (R107). -/
def WSum.add (x y : WSum) : WSum :=
  if !x.valid && !y.valid then WSum.empty
  else if !x.valid then y
  else if !y.valid then x
  else
    let fl : WSum :=
      { valid := true, low := min x.low y.low, loss := x.loss || y.loss, wmiss := x.wmiss || y.wmiss,
        ovf := x.ovf || y.ovf, wconf := x.wconf || y.wconf, pinf := x.pinf || y.pinf, ninf := x.ninf || y.ninf,
        nan := x.nan || y.nan }
    if x.low ≠ y.low || x.wconf || y.wconf then { fl with wconf := true }
    else { fl with sum := x.sum + y.sum, ovf := fl.ovf || sumOver (x.sum.toInt + y.sum.toInt) }

/-- A sum as stored, with the reserved status bits zero (R105, R107). -/
def wsumStored (v : Nat) : Nat := fld v 0 209 + fld v 216 7 * 2 ^ 216

/-- The bits of X + Y. The sum as stored is the answer when the other is empty (R107 rule 1). -/
def wsumAddBits (x y : Nat) : Nat :=
  let a := WSum.ofBits x
  let b := WSum.ofBits y
  if !a.valid && !b.valid then 0
  else if !a.valid then wsumStored y
  else if !b.valid then wsumStored x
  else (a.add b).bits

/-- The value that a sum converts to (R108). -/
def WSum.val (w : WSum) : FVal :=
  if !w.valid then .fin false 0 0
  else if w.nan || w.wconf || w.wmiss || w.ovf || (w.pinf && w.ninf) then .nan
  else if w.pinf then .inf false
  else if w.ninf then .inf true
  else if w.sum = 0 then .fin false 0 0
  else .fin (decide (w.sum.toInt < 0)) w.sum.toInt.natAbs w.low

end Sys2Proof.Machine
end

