-- ==== Sys2Proof/Machine/Arith.lean ====
section
/-! DEFINITION. Arithmetic, conversions, compares, masks, lanes and wide sums (R71, R76 to R78, R103 to R125, R514,
R515). -/

namespace Sys2Proof.Machine
open Sys2Proof

/-! ## Integer functions (R71, R118) -/

/-- An integer function by FN on operands of a TYPE; the result is the low bits of the type's width. -/
def intFn (fn ty a b : Nat) (sat : Bool) : Nat :=
  let n := 8 * tySize ty
  let x := tyVal ty a
  let y := tyVal ty b
  let u := a % 2 ^ n
  let v := b % 2 ^ n
  let sh := v % n
  match fn with
  | 0 => wrap n (if sat then tyClamp ty (x + y) else x + y)
  | 1 => wrap n (if sat then tyClamp ty (x - y) else x - y)
  | 2 => wrap n (x * y)
  | 3 => wrap n (x * y / (2 ^ n : Nat))
  | 4 => u &&& v
  | 5 => u ||| v
  | 6 => u ^^^ v
  | 7 => u * 2 ^ sh % 2 ^ n
  | 8 => u / 2 ^ sh
  | 9 => wrap n (sext n u / (2 ^ sh : Nat))
  | 10 => if x ≤ y then u else v
  | 11 => if x ≥ y then u else v
  | 12 => u
  | 13 => popc n u
  | _ => n - bitLen u

/-- The comparisons of cmp on integers (R71, R118). -/
def intCmp (fn ty a b : Nat) : Bool :=
  let x := tyVal ty a
  let y := tyVal ty b
  match fn with
  | 0 => x = y
  | 1 => x ≠ y
  | 2 => x < y
  | 3 => x ≤ y
  | 4 => y < x
  | _ => y ≤ x

/-- The value of an 8-bit signed immediate for an operation of n bits, and as FP32 (R70). -/
def immInt (r n : Nat) : Nat := wrap n (sext 8 r)
def immF32 (r : Nat) : Nat :=
  let i := sext 8 r
  fmtF32.ofVal .near false (.fin (decide (i < 0)) i.natAbs 0)

/-- A B or C operand of scalar opcodes. -/
def scalarSrc (x : Group) (kind r n : Nat) (f32 : Bool) : Nat :=
  if kind = 2 then (if f32 then immF32 r else immInt r n) else (x.s r).toNat

/-- A B or C operand of vector opcodes in a lane: vector group, scalar register or immediate (R68, R70). -/
def vectorSrc (x : Group) (lane kind r regs n : Nat) (f32 : Bool) : Nat :=
  match kind with
  | 0 => x.vN r lane regs
  | 1 => (x.s r).toNat % 2 ^ n
  | _ => if f32 then immF32 r else immInt r n

/-- A function of each performing lane written to a register group of a TYPE (R39). -/
def Group.mapLanes (x : Group) (km ty d : Nat) (f : Nat → Nat) : Group :=
  ((x.lanes km).foldl (fun y i => y.setVT ty d i (f i)) x).wrote (x.lanes km) d (tyRegs ty)

/-- Scalar integer, opcode 0x10 (R71, R118). -/
def execScalarInteger (core slot : Nat) (w : BitVec 64) (s : State) : Out :=
  onGroup core slot (s.issue core slot .scalarInteger w 0 (fun s x =>
    let n := w.toNat
    let r := intFn (wFN n) (wTY n) (x.s (wA n)).toNat (scalarSrc x (wBK n) (wB n) 64 false) (wSAT n)
    s.stepGroup core slot 8 (x.setST (wTY n) (wD n) r)))

/-- Scalar f32, opcode 0x11 (R71, R115, R116). -/
def execScalarF32 (core slot : Nat) (w : BitVec 64) (s : State) : Out :=
  onGroup core slot (s.issue core slot .scalarF32 w 0 (fun s x =>
    let n := w.toNat
    let r := f32fn (wFN n) ((x.s (wA n)).toNat % 2 ^ 32) (scalarSrc x (wBK n) (wB n) 32 true % 2 ^ 32)
      (scalarSrc x (wCK n) (wC n) 32 true % 2 ^ 32)
    s.stepGroup core slot 8 (x.setST 4 (wD n) r)))

/-- Scalar integer with a 32-bit immediate, opcode 0x18: s64 (R71). -/
def execScalarIntegerImmediate (core slot : Nat) (w : BitVec 64) (s : State) : Out :=
  onGroup core slot (s.issue core slot .scalarIntegerImmediate w 0 (fun s x =>
    let n := w.toNat
    let r := intFn (iFN n) 3 (x.s (wA n)).toNat (wrap 64 (sext 32 (iIMM n))) false
    s.stepGroup core slot 8 (x.setST 3 (wD n) r)))

/-- mov.hi (R71). -/
def execMovHi (core slot : Nat) (w : BitVec 64) (s : State) : Out :=
  onGroup core slot (s.issue core slot .movHi w 0 (fun s x =>
    let n := w.toNat
    s.stepGroup core slot 8 (x.setS (wD n) (BitVec.ofNat 64 ((x.s (wD n)).toNat % 2 ^ 32 + iIMM n * 2 ^ 32)))))

/-- Vector integer, opcode 0x20, sel included (R71, R118). -/
def execVectorInteger (core slot : Nat) (w : BitVec 64) (s : State) : Out :=
  onGroup core slot (s.issue core slot .vectorInteger w 0 (fun s x =>
    let n := w.toNat
    let ty := wTY n
    let g := tyRegs ty
    s.stepGroup core slot 8 (x.mapLanes (wKM n) ty (wD n) (fun i =>
      let a := x.vN (wA n) i g
      let b := vectorSrc x i (wBK n) (wB n) g (8 * tySize ty) false
      if wFN n = 15 then (if (x.k (wC n)).getLsbD i then a else b) else intFn (wFN n) ty a b (wSAT n)))))

/-- Vector f32, opcode 0x21 (R71, R115, R116). -/
def execVectorF32 (core slot : Nat) (w : BitVec 64) (s : State) : Out :=
  onGroup core slot (s.issue core slot .vectorF32 w 0 (fun s x =>
    let n := w.toNat
    s.stepGroup core slot 8 (x.mapLanes (wKM n) 4 (wD n) (fun i =>
      f32fn (wFN n) (x.v (wA n) i).toNat (vectorSrc x i (wBK n) (wB n) 1 32 true) (vectorSrc x i (wCK n) (wC n) 1 32 true)))))

/-- Vector integer with a 32-bit immediate, opcode 0x28: s32 (R71). -/
def execVectorIntegerImmediate (core slot : Nat) (w : BitVec 64) (s : State) : Out :=
  onGroup core slot (s.issue core slot .vectorIntegerImmediate w 0 (fun s x =>
    let n := w.toNat
    s.stepGroup core slot 8 (x.mapLanes (wKM n) 1 (wD n) (fun i => intFn (iFN n) 1 (x.v (wA n) i).toNat (iIMM n) false))))

/-- Vector f32 with an FP32 immediate, opcode 0x29 (R71). -/
def execVectorF32Immediate (core slot : Nat) (w : BitVec 64) (s : State) : Out :=
  onGroup core slot (s.issue core slot .vectorF32Immediate w 0 (fun s x =>
    let n := w.toNat
    s.stepGroup core slot 8 (x.mapLanes (wKM n) 4 (wD n) (fun i => f32fn (iFN n) (x.v (wA n) i).toNat (iIMM n) 0))))

/-- The rounding that RND names, with the bits of R121 for a lane. -/
def State.rnd (s : State) (x : Group) (w lane : Nat) : Rnd :=
  match wRND w with
  | 0 => .near
  | 1 => .zero
  | _ => .stoch (srBits (s.launchOf x).seed x.task ((x.s (wC w)).toNat % 2 ^ 32) lane)

/-- cvt (R122 to R124). -/
def execCvt (core slot : Nat) (w : BitVec 64) (s : State) : Out :=
  onGroup core slot (s.issue core slot .cvt w 0 (fun s x =>
    let n := w.toNat
    let src := wB n
    s.stepGroup core slot 8 (x.mapLanes (wKM n) (wTY n) (wD n) (fun i =>
      convert (s.rnd x n i) (wSAT n) (wTY n) src (x.vN (wA n) i (tyRegs src) % 2 ^ (8 * tySize src))))))

/-- A mask with bit i replaced for each of some lanes (R39, R514). -/
def maskLanes (m : BitVec 32) (l : List Nat) (f : Nat → Bool) : BitVec 32 :=
  BitVec.ofNat 32 (maskOf ((List.range 32).filter (fun i => if l.contains i then f i else m.getLsbD i)))

/-- cmp (R71, R116, R118). -/
def execCmp (core slot : Nat) (w : BitVec 64) (s : State) : Out :=
  onGroup core slot (s.issue core slot .cmp w 0 (fun s x =>
    let n := w.toNat
    let ty := wTY n
    let g := tyRegs ty
    let f := fun i =>
      let a := x.vN (wA n) i g
      let b := vectorSrc x i (wBK n) (wB n) g (8 * tySize ty) (ty = 4)
      if ty = 4 then f32cmp (wFN n) a b else intCmp (wFN n) ty a b
    s.stepGroup core slot 8 (x.setK (wD n) (maskLanes (x.k (wD n)) (x.lanes (wKM n)) f))))

/-- Mask logic (R71, R514): every bit of the masks, whatever the active mask. kandn is kA and not kB (DESIGN CHOICE, log 113). -/
def execMaskLogic (core slot : Nat) (w : BitVec 64) (s : State) : Out :=
  onGroup core slot (s.issue core slot .maskLogic w 0 (fun s x =>
    let n := w.toNat
    let a := x.k (wA n)
    let b := x.k (wB n)
    s.stepGroup core slot 8 (match wFN n with
      | 0 => x.setK (wD n) (a &&& b)
      | 1 => x.setK (wD n) (a ||| b)
      | 2 => x.setK (wD n) (a ^^^ b)
      | 3 => x.setK (wD n) (a &&& ~~~b)
      | 4 => x.setK (wD n) (~~~a)
      | 5 => x.setK (wD n) ((x.s (wA n)).truncate 32)
      | _ => x.setS (wD n) (BitVec.ofNat 64 (popc 32 a.toNat)))))

/-- The lane census (R76): it looks only at the active mask. -/
def execTally (core slot : Nat) (w : BitVec 64) (s : State) : Out :=
  onGroup core slot (s.issue core slot .tally w 0 (fun s x =>
    let n := w.toNat
    let d := wD n
    let a := x.k (wA n) &&& x.active
    let all := fun (c : Bool) => if c then (0xFFFFFFFF : BitVec 32) else 0
    let vals := (bitsOf 32 x.active.toNat).map (fun i => x.v (wA n) i)
    s.stepGroup core slot 8 (match wFN n with
      | 0 => x.setK d (all (a = 0))
      | 1 => x.setK d (all (a = x.active))
      | 2 => x.setS d (BitVec.ofNat 64 (popc 32 a.toNat))
      | 3 => x.setS d (a.setWidth 64)
      | 4 => x.setS d (BitVec.ofNat 64 (firstBit 32 a.toNat))
      | 5 => x.setK d (all (vals.all (fun v => some v = vals.head?)))
      | _ => x.setK d (all (a ≠ 0 && a ≠ x.active)))))

/-- The source lane of a lane exchange (R77). -/
def exchangeLane (fn i b width : Nat) : Nat :=
  let base := i / width * width
  let r := i - base
  let o := b % width
  match fn with
  | 0 => base + o
  | 1 => base + (r + o) % width
  | 2 => base + (width - 1 - r)
  | _ => base + (r ^^^ o) % width

/-- xlane (R77): sources are read whether or not their lane is active. -/
def execXlane (core slot : Nat) (w : BitVec 64) (s : State) : Out :=
  onGroup core slot (s.issue core slot .xlane w 0 (fun s x =>
    let n := w.toNat
    s.stepGroup core slot 8 (x.mapLanes (wKM n) 0 (wD n) (fun i =>
      (x.v (wA n) (exchangeLane (wFN n) i (vectorSrc x i (wBK n) (wB n) 1 32 false) (wC n))).toNat))))

/-- lane.fill (R78). -/
def execLaneFill (core slot : Nat) (w : BitVec 64) (s : State) : Out :=
  onGroup core slot (s.issue core slot .laneFill w 0 (fun s x =>
    let n := w.toNat
    s.stepGroup core slot 8 (x.mapLanes (wKM n) 0 (wD n) (fun _ => (x.s (wA n)).toNat))))

/-- The lane that lane.get and lane.put name (R78). -/
def laneNumber (x : Group) (w : Nat) : Nat := (if wBK w = 1 then (x.s (wB w)).toNat else wB w) % 32

/-- lane.get (R78). -/
def execLaneGet (core slot : Nat) (w : BitVec 64) (s : State) : Out :=
  onGroup core slot (s.issue core slot .laneGet w 0 (fun s x =>
    let n := w.toNat
    s.stepGroup core slot 8 (x.setS (wD n) ((x.v (wA n) (laneNumber x n)).setWidth 64))))

/-- lane.put (R78). -/
def execLanePut (core slot : Nat) (w : BitVec 64) (s : State) : Out :=
  onGroup core slot (s.issue core slot .lanePut w 0 (fun s x =>
    let n := w.toNat
    s.stepGroup core slot 8 (x.setV (wD n) (laneNumber x n) ((x.s (wA n)).truncate 32))))

/-- The identity that a lane which does not perform contributes to a fold (R515). -/
def foldIdentity (fn ty : Nat) : Nat :=
  match fn with
  | 3 => 0
  | 4 => if ty = 4 then 0x7F800000 else wrap 64 (tyMax ty)
  | 5 => if ty = 4 then 0xFF800000 else wrap 64 (tyMin ty)
  | 6 => 2 ^ 64 - 1
  | _ => 0

/-- One step of a fold on FP32 patterns. -/
def foldF32 (fn a b : Nat) : Nat := if fn = 3 then f32add a b else if fn = 4 then f32min a b else f32max a b

/-- Pairs of neighbours combined, once. -/
def pairUp (f : Nat → Nat → Nat) : List Nat → List Nat
  | a :: b :: l => f a b :: pairUp f l
  | l => l

/-- The five-level pairwise tree over 32 lanes (R515). -/
def tree5 (f : Nat → Nat → Nat) (l : List Nat) : Nat :=
  (pairUp f (pairUp f (pairUp f (pairUp f (pairUp f l))))).headD 0

/-- The value of a fold over the performing lanes (R515). -/
def foldValue (x : Group) (w : Nat) : Word :=
  let fn := wFN w
  let ty := wTY w
  let l := x.lanes (wKM w)
  let val := fun i => x.vN (wA w) i (tyRegs ty)
  if ty = 4 then
    if l = [] then BitVec.ofNat 64 (foldIdentity fn 4)
    else if fn ≠ 3 && l.all (fun i => f32val (val i) = .nan) then BitVec.ofNat 64 fmtF32.cnan
    else BitVec.ofNat 64 (tree5 (foldF32 fn) ((List.range 32).map (fun i => if l.contains i then val i else foldIdentity fn 4)))
  else
    let vs := l.map (fun i => tyVal ty (val i))
    match fn with
    | 3 => BitVec.ofInt 64 (vs.foldl (· + ·) 0)
    | 4 => BitVec.ofInt 64 (vs.foldl min (tyMax ty))
    | 5 => BitVec.ofInt 64 (vs.foldl max (tyMin ty))
    | 6 => scalarOf ty (l.foldl (fun a i => a &&& val i) (2 ^ 64 - 1))
    | 7 => scalarOf ty (l.foldl (fun a i => a ||| val i) 0)
    | _ => scalarOf ty (l.foldl (fun a i => a ^^^ val i) 0)

/-- fold.add to fold.xor (R78, R515). -/
def execFold (core slot : Nat) (w : BitVec 64) (s : State) : Out :=
  onGroup core slot (s.issue core slot .fold w 0 (fun s x =>
    s.stepGroup core slot 8 (x.setS (wD w.toNat) (foldValue x w.toNat))))

/-! ## Wide sums (R103 to R109) -/

def Group.wsum (x : Group) (r lane : Nat) : WSum := WSum.ofBits (x.vN r lane 8)
def Group.wsumMap (x : Group) (km d : Nat) (f : Nat → Nat) : Group :=
  ((x.lanes km).foldl (fun y i => y.setVN d i 8 (f i)) x).wrote (x.lanes km) d 8

/-- The registers that a B or C operand of a wide-sum instruction reads: vector ones and scalar ones. -/
def operandRegs (kind r : Nat) : List (Nat × Nat) × List Nat := if kind = 0 then ([(r, 1)], []) else ([], if kind = 1 then [r] else [])

/-- The first performing lane of a wide-sum instruction with a poisoned operand (R430). -/
def wsumPoison (x : Group) (r : Row) (w : Nat) : Option Nat :=
  let l := x.lanes (wKM w)
  let b := operandRegs (wBK w) (wB w)
  let c := operandRegs (wCK w) (wC w)
  match r with
  | .wsumInit => x.poisonedLane l [] [wA w]
  | .wsumAcc => x.poisonedLane l ((wD w, 8) :: b.1) b.2
  | .wsumMac => x.poisonedLane l ((wD w, 8) :: b.1 ++ c.1) (b.2 ++ c.2)
  | .wsumAdd => x.poisonedLane l [(wD w, 8), (wA w, 8)] []
  | .wsumRed | .wsumCvt => x.poisonedLane l [(wA w, 8)] []
  | _ => none

/-- A wide-sum instruction: poison in an operand is consumed, in the registers of a core, which have no offset (R430, R434); otherwise its
effect. -/
def State.wsumIssue (s : State) (core slot : Nat) (r : Row) (w : BitVec 64) (eff : State → Group → State) : State :=
  s.issue core slot r w 0 (fun s x => match wsumPoison x r w.toNat with
    | some lane => s.raisePoison core slot 0xC 0 lane x.inst
    | none => eff s x)

/-- The value of a wsum.acc or wsum.mac operand of a TYPE; an immediate is its integer (R70). -/
def termVal (x : Group) (lane kind r ty : Nat) : FVal :=
  if kind = 2 then (let i := sext 8 r; .fin (decide (i < 0)) i.natAbs 0)
  else ((tyFmt ty).getD fmtF32).decode (vectorSrc x lane kind r 1 32 false % 2 ^ (8 * tySize ty))

/-- wsum.init: a window outside its range or non-zero upper bits are an illegal instruction (R105). -/
def execWsumInit (core slot : Nat) (w : BitVec 64) (s : State) : Out :=
  onGroup core slot (s.wsumIssue core slot .wsumInit w (fun s x =>
    let n := w.toNat
    let a := (x.s (wA n)).toNat
    if a ≥ 2 ^ 16 || !lowOk (sext 16 a) then s.raise core slot 1 0xFF
    else s.stepGroup core slot 8 (x.wsumMap (wKM n) (wD n) (fun _ => (WSum.zero (sext 16 a)).bits))))

/-- wsum.acc (R106, R522). -/
def execWsumAcc (core slot : Nat) (w : BitVec 64) (s : State) : Out :=
  onGroup core slot (s.wsumIssue core slot .wsumAcc w (fun s x =>
    let n := w.toNat
    s.stepGroup core slot 8 (x.wsumMap (wKM n) (wD n) (fun i =>
      ((x.wsum (wD n) i).term (termVal x i (wBK n) (wB n) (wTY n))).bits))))

/-- wsum.mac (R106, R522): the exact product. -/
def execWsumMac (core slot : Nat) (w : BitVec 64) (s : State) : Out :=
  onGroup core slot (s.wsumIssue core slot .wsumMac w (fun s x =>
    let n := w.toNat
    s.stepGroup core slot 8 (x.wsumMap (wKM n) (wD n) (fun i =>
      ((x.wsum (wD n) i).term ((termVal x i (wBK n) (wB n) (wTY n)).mul (termVal x i (wCK n) (wC n) (wTY n)))).bits))))

/-- wsum.add (R107). -/
def execWsumAdd (core slot : Nat) (w : BitVec 64) (s : State) : Out :=
  onGroup core slot (s.wsumIssue core slot .wsumAdd w (fun s x =>
    let n := w.toNat
    s.stepGroup core slot 8 (x.wsumMap (wKM n) (wD n) (fun i => wsumAddBits (x.vN (wD n) i 8) (x.vN (wA n) i 8)))))

/-- wsum.red: the exact sum over the performing lanes, in every one of them, added in ascending lane order (R103, R104; DESIGN
CHOICE, log 113: OVF may depend on the order, R110). -/
def execWsumRed (core slot : Nat) (w : BitVec 64) (s : State) : Out :=
  onGroup core slot (s.wsumIssue core slot .wsumRed w (fun s x =>
    let n := w.toNat
    let sum := (x.lanes (wKM n)).foldl (fun acc i => wsumAddBits acc (x.vN (wA n) i 8)) 0
    s.stepGroup core slot 8 (x.wsumMap (wKM n) (wD n) (fun _ => sum))))

/-- wsum.cvt (R108). -/
def execWsumCvt (core slot : Nat) (w : BitVec 64) (s : State) : Out :=
  onGroup core slot (s.wsumIssue core slot .wsumCvt w (fun s x =>
    let n := w.toNat
    s.stepGroup core slot 8 (x.mapLanes (wKM n) (wTY n) (wD n) (fun i =>
      ((tyFmt (wTY n)).getD fmtF32).ofVal (s.rnd x n i) (wSAT n) (x.wsum (wA n) i).val))))

end Sys2Proof.Machine
end

