-- ==== Sys2Proof/Machine/Eddy.lean ====
section
/-! DEFINITION. The sending side of the package: bundles and bridge segments, Eddy flits, and the routes between dies (R379, R394 to R398,
R403). -/

namespace Sys2Proof.Machine
open Sys2Proof

/-! ## Bundles (R394) -/

/-- The unit ID of a bundle. -/
def bundleUnit (n : Nat) : BitVec 32 :=
  if n < 32 then unitId 6 0 (n / 16) 1 n
  else if n < 64 then unitId 6 2 ((n - 32) / 16) 1 (n - 32)
  else if n < 96 then unitId 6 0 1 2 (n - 64)
  else if n < 128 then unitId 6 1 1 2 (n - 96)
  else if n < 136 then unitId 6 0 0 0 (n - 128)
  else if n < 144 then unitId 6 1 0 0 (n - 136)
  else if n < 152 then unitId 6 2 1 0 (n - 144)
  else unitId 6 3 1 0 (n - 152)

/-- The bundles of an edge. -/
def edgeBundles (e : Nat) : List Nat :=
  if e < 4 then (List.range 32).map (fun b => 32 * e + b) else (List.range 8).map (fun b => 128 + 8 * (e - 4) + b)

def State.usable (s : State) (e : Nat) : List Nat := (edgeBundles e).filter (fun n => (s.bundle n).state = 0)

/-- Whether an I/O die would lose its last edge with a bundle (R398, R441). -/
def State.cutsDie (s : State) (n : Nat) : Bool :=
  128 ≤ n && (s.usable 4).erase n = [] && (s.usable 5).erase n = [] && n < 144
    || 144 ≤ n && n < 160 && (s.usable 6).erase n = [] && (s.usable 7).erase n = []

/-- The segments of the bridge of a die that are in use (R403); none of a bridge that is fenced. -/
def State.segments (s : State) (d : Nat) : List Nat :=
  if s.d2d.bridgeFenced.getLsbD d then [] else ((List.range 16).map (fun i => 160 + 16 * d + i)).filter (fun n => (s.bundle n).state = 0)

/-- D2D.BRIDGE[d].SEGS: the segments in use (R408). -/
def State.segs (s : State) (d : Nat) : BitVec 16 := BitVec.ofNat 16 (maskOf ((List.range 16).filter (fun i => (s.bundle (160 + 16 * d + i)).state = 0)))

def Bundle.dir (b : Bundle) (d : Nat) : EddyDir := if d = 0 then b.dir0 else b.dir1
def Bundle.setDir (b : Bundle) (d : Nat) (x : EddyDir) : Bundle := if d = 0 then { b with dir0 := x } else { b with dir1 := x }

/-! ## Flits on bundles (R395, R396) -/

/-- The sixteen granules of a flit: the header of its SEQ, VC and CTL bits, its ACK and NAK, the credits that it returns and FIRST, and its
body, filled up with zeros; each with its check bits. -/
def eddyGranules (head ack cvc ccnt first : Nat) (body : List Byte) : List (BitVec 144) :=
  let h := head + ack * 2 ^ 16 + cvc * 2 ^ 32 + ccnt * 2 ^ 36 + first * 2 ^ 48
  (h :: (List.range 15).map (fun j => leAt body (16 * j) 16)).map (fun d => BitVec.ofNat 144 (d + checkBits d * 2 ^ 128))

/-- A flit sent in a direction of a bundle: with the last data flit accepted in the other direction, and credits owed there. -/
def State.emitEddy (s : State) (n d head : Nat) (nak : Bool) (first : Nat) (body : List Byte) : State :=
  let b := s.bundle n
  let y := b.dir (1 - d)
  let (cvc, ccnt) := (y.owed.find? (fun e => e.2 ≠ 0)).getD (0, 0)
  let g := eddyGranules head ((y.rxExpected - 1).toNat + 2 ^ 10 * b2n nak) cvc ccnt first body
  (s.setBundle n (b.setDir (1 - d) { y with owed := NMap.del y.owed cvc, sinceAck := 0 })).send (.eddyFlit n d g)

/-- A control flit sent in a direction, with a control message in granule 1 or none. -/
def State.controlEddy (s : State) (n d : Nat) (nak : Bool) (message : List Byte) : State := s.emitEddy n d (2 ^ 15) nak 0 message

/-- The receiver of a direction reports: a control flit in the other one. -/
def State.reportEddy (s : State) (n d : Nat) (nak : Bool) : State := s.controlEddy n (1 - d) nak []

/-- A data flit of the replay buffer sent. -/
def State.sendEddyData (s : State) (n d : Nat) (f : SentEddy) : State := s.emitEddy n d (f.seq.toNat + 2 ^ 10 * f.vc) false f.first f.body

/-- Every flit of the replay buffer from a sequence number on sent again. -/
def State.resendEddy (s : State) (n d : Nat) (seq : BitVec 10) : State :=
  (((s.bundle n).dir d).unacked.filter (fun f => (f.seq - seq).toNat < 512)).foldl (fun (s : State) f => s.sendEddyData n d f) s

/-- Whether a sender holds a credit and replay-buffer room for one flit more: 256 flits at most are unacknowledged. -/
def EddyDir.room (x : EddyDir) (vc : Nat) : Bool := 0 < NMap.at x.credits vc 0 && x.unacked.length < 256

/-- A new data flit numbered, kept until it is acknowledged, and sent. -/
def State.transmitEddy (s : State) (n d : Nat) (f : SentEddy) : State :=
  let b := s.bundle n
  let x := b.dir d
  let f := { f with seq := x.txNext }
  (s.setBundle n (b.setDir d { x with
    txNext := x.txNext + 1
    unacked := x.unacked ++ [f]
    credits := NMap.upd 0 x.credits f.vc (fun c => c - 1)
    progressAt := if x.unacked = [] then s.clock.now else x.progressAt })).sendEddyData n d f

/-- A data flit sent in a direction of a bundle, or left waiting for a credit behind those of its channel. -/
def State.sendEddy (s : State) (n d : Nat) (f : SentEddy) : State :=
  let b := s.bundle n
  let x := b.dir d
  if x.room f.vc && !x.waiting.any (fun w => w.vc = f.vc) then s.transmitEddy n d f
  else s.setBundle n (b.setDir d { x with waiting := x.waiting ++ [f] })

/-- Waiting flits of a direction sent as credits allow, m of them at most. -/
def State.drainEddy : Nat → State → Nat → Nat → State
  | 0, s, _, _ => s
  | m + 1, s, n, d =>
    let b := s.bundle n
    let x := b.dir d
    match x.waiting.find? (fun f => x.room f.vc) with
    | none => s
    | some f => ((s.setBundle n (b.setDir d { x with waiting := x.waiting.erase f })).transmitEddy n d f).drainEddy m n d

/-! ## Routes between dies (R398). Direction 0 of an edge leads away from its lower-numbered compute die, direction 0 of a bridge from hemi 0
to hemi 1. Dies are 0 to 3, IN is 4 and IS 5. -/

/-- A step of a route: an edge, 0 to 7, or the bridge of a die, 8 to 11; its direction; and on an east-west edge the hemi whose bundles it
takes. -/
structure Hop where
  edge : Nat
  dir : Nat
  hemi : Nat
  deriving DecidableEq, Repr

/-- The dies at which an edge begins and ends in direction 0. -/
def edgeEnds (e : Nat) : Nat × Nat :=
  match e with
  | 0 => (0, 1)
  | 1 => (2, 3)
  | 2 => (0, 2)
  | 3 => (1, 3)
  | 4 => (0, 4)
  | 5 => (1, 4)
  | 6 => (2, 5)
  | _ => (3, 5)

/-- The die that a step of a route along an edge leaves. -/
def legFrom (l : Nat × Nat) : Nat := if l.2 = 0 then (edgeEnds l.1).1 else (edgeEnds l.1).2
def legTo (l : Nat × Nat) : Nat := if l.2 = 0 then (edgeEnds l.1).2 else (edgeEnds l.1).1

/-- The hemi at which a die meets an edge that does not run east and west: the southern one of C0 and C1 to C2 and C3, and the outer one to an
I/O die (R11). -/
def hemiAt (die e : Nat) : Nat := if e = 2 || e = 3 then (if die < 2 then 1 else 0) else if e < 6 then 0 else 1

/-- The edges of the route between two dies: direct, or between diagonal dies east or west first; to the I/O die of the other row
through the compute die beside it. -/
def legsBetween (a b : Nat) : List (Nat × Nat) :=
  match a, b with
  | 0, 1 => [(0, 0)]
  | 1, 0 => [(0, 1)]
  | 2, 3 => [(1, 0)]
  | 3, 2 => [(1, 1)]
  | 0, 2 => [(2, 0)]
  | 2, 0 => [(2, 1)]
  | 1, 3 => [(3, 0)]
  | 3, 1 => [(3, 1)]
  | 0, 3 => [(0, 0), (3, 0)]
  | 3, 0 => [(1, 1), (2, 1)]
  | 1, 2 => [(0, 1), (2, 0)]
  | 2, 1 => [(1, 0), (3, 1)]
  | 0, 4 => [(4, 0)]
  | 1, 4 => [(5, 0)]
  | 2, 4 => [(2, 1), (4, 0)]
  | 3, 4 => [(3, 1), (5, 0)]
  | 0, 5 => [(2, 0), (6, 0)]
  | 1, 5 => [(3, 0), (7, 0)]
  | 2, 5 => [(6, 0)]
  | 3, 5 => [(7, 0)]
  | 4, 0 => [(4, 1)]
  | 4, 1 => [(5, 1)]
  | 4, 2 => [(4, 1), (2, 0)]
  | 4, 3 => [(5, 1), (3, 0)]
  | 5, 0 => [(6, 1), (2, 1)]
  | 5, 1 => [(7, 1), (3, 1)]
  | 5, 2 => [(6, 1)]
  | 5, 3 => [(7, 1)]
  | _, _ => []

/-- The way around a lost edge in direction 0, through the other two compute dies or, to an I/O die, through the other compute die. -/
def aroundEdge (e : Nat) : List (Nat × Nat) :=
  match e with
  | 0 => [(2, 0), (1, 0), (3, 1)]
  | 1 => [(2, 1), (0, 0), (3, 0)]
  | 2 => [(0, 0), (3, 0), (1, 1)]
  | 3 => [(0, 1), (2, 0), (1, 0)]
  | 4 => [(0, 0), (5, 0)]
  | 5 => [(0, 1), (4, 0)]
  | 6 => [(1, 0), (7, 0)]
  | _ => [(1, 1), (6, 0)]

/-- A route the other way. -/
def turned (l : List (Nat × Nat)) : List (Nat × Nat) := (l.map (fun h => (h.1, 1 - h.2))).reverse

/-- The edges of a route with the way around each edge that has no usable bundle. -/
def State.legs (s : State) (l : List (Nat × Nat)) : List (Nat × Nat) :=
  l.flatMap (fun h => if s.usable h.1 = [] then (if h.2 = 0 then aroundEdge h.1 else turned (aroundEdge h.1)) else [h])

/-- The usable bundles of the part of an edge that lies on a hemi; every one of another edge. -/
def State.edgePart (s : State) (e hemi : Nat) : List Nat := (s.usable e).filter (fun n => 2 ≤ e || n / 16 % 2 = hemi)

/-- The other die of an east-west pair. -/
def pairOf (d : Nat) : Nat := if d % 2 = 0 then d + 1 else d - 1

/-- The bridge of a die crossed from one hemi to the other, where they differ; an I/O die has none. A bridge without a segment in use is
passed over the east-west edge and the adjacent die's bridge (R403). -/
def State.overBridge (s : State) (die hemi other : Nat) : List Hop :=
  if 4 ≤ die || hemi = other then []
  else
    let over' : Hop := { edge := 8 + die, dir := hemi, hemi := 0 }
    let east := die % 2
    let beside := pairOf die
    if s.segments die ≠ [] || s.segments beside = [] then [over']
    else [{ edge := die / 2, dir := east, hemi := hemi }, { over' with edge := 8 + beside }, { edge := die / 2, dir := 1 - east, hemi := other }]

/-- The steps of a route from a hemi of a die along its edges to a hemi of its last die. On an east-west edge it takes the bundles of the hemi
from which it leaves the far die or in which it is delivered there; where they are all lost, those of the other hemi. -/
def State.hopsN (s : State) : Nat → Nat → List (Nat × Nat) → Nat → List Hop
  | die, hemi, [], last => s.overBridge die hemi last
  | _, hemi, (e, d) :: rest, last =>
    let die := legFrom (e, d)
    let far := legTo (e, d)
    let want := match rest with
      | [] => last
      | h :: _ => if h.1 < 2 then hemi else hemiAt far h.1
    let out := if 2 ≤ e then hemiAt die e else if s.edgePart e want = [] then 1 - want else want
    let arrive := if 2 ≤ e then hemiAt far e else out
    s.overBridge die hemi out ++ { edge := e, dir := d, hemi := out } :: s.hopsN far arrive rest last

/-- The route of a message from a hemi of a die to a hemi of another. -/
def State.routeDies (s : State) (a hemiA b hemiB : Nat) : List Hop := s.hopsN a hemiA (s.legs (legsBetween a b)) hemiB

/-- The edge of a bundle. -/
def edgeOf (n : Nat) : Nat := if n < 128 then n / 32 else 4 + (n - 128) / 8

/-- The route by which the flits of a direction of a bundle or segment go where it is fenced: over the rest of its edge or bridge, or the
way around (R402, R403). -/
def State.pathOf (s : State) (n d : Nat) : List Hop :=
  if n < 160 then
    let leg := (edgeOf n, d)
    let hemi := fun (die : Nat) => if leg.1 < 2 then n / 16 % 2 else hemiAt die leg.1
    s.hopsN (legFrom leg) (hemi (legFrom leg)) (s.legs [leg]) (hemi (legTo leg))
  else s.overBridge ((n - 160) / 16) d (1 - d)

/-- The bundles or segments among which a step of a route chooses. -/
def State.choices (s : State) (h : Hop) : List Nat := if h.edge < 8 then s.edgePart h.edge h.hemi else s.segments (h.edge - 8)

/-- A flit sent along a route, on each step over the bundle of its line. -/
def State.sendAlong (s : State) (hops : List Hop) (f : SentEddy) : State :=
  hops.foldl (fun (s : State) h =>
    let us := s.choices h
    if us = [] then s else s.sendEddy (us.getD ((f.line ^^^ (f.line >>> 6)) % us.length) 0) h.dir f) s

/-- A message of the fabric that concerns a line, from a hemi of a die to a hemi of another die (R395, R398; DESIGN CHOICE, log 125: the
manual gives it no layout, and it takes one granule of a flit of its own). -/
def State.dieMessage (s : State) (a hemiA b hemiB vc line : Nat) : State :=
  if a = b && (hemiA = hemiB || 4 ≤ a) then s
  else s.sendAlong (s.routeDies a hemiA b hemiB)
    { vc := vc, first := 1, line := line, body := leBytes 16 (Config.dieMessage vc line).toNat }

/-- A message from a cluster to the home of a line, or from the home to the cluster (R237, R243 to R245, R398). -/
def State.toHome (s : State) (q a vc : Nat) : State :=
  let n := s.homeSlice (128 * a)
  s.dieMessage (q / 32) (q / 16 % 2) (n / 64) (n / 32 % 2) vc a
def State.fromHome (s : State) (q a vc : Nat) : State :=
  let n := s.homeSlice (128 * a)
  s.dieMessage (n / 64) (n / 32 % 2) (q / 32) (q / 16 % 2) vc a

/-- A message from one cluster to another, as of a steal (R188, R398); it concerns no line and goes by the number given. -/
def State.toCluster (s : State) (q r vc line : Nat) : State := s.dieMessage (q / 32) (q / 16 % 2) (r / 32) (r / 16 % 2) vc line

/-- A control command from the package root manager, on IN, to the steward of the die that a unit ID names (R20, R398). -/
def State.toSteward (s : State) (u : BitVec 32) : State :=
  if u = 0 then s else s.dieMessage 4 0 (fld u.toNat 25 3) (fld u.toNat 24 1) 3 0

/-! ## Transit between the I/O dies (R379, R398) -/

/-- VC 3 credits of an edge in a direction. -/
def State.edgeCredits (s : State) (e dir : Nat) : Nat := ((s.usable e).map (fun n => NMap.at ((s.bundle n).dir dir).credits 3 0)).sum

/-- The flits of VC 3 that carry a packet. -/
def packetFlits (p : Packet) : List SentEddy :=
  let units := packetBytes p
  (List.range (flitsOf p)).map (fun j =>
    { vc := 3, first := if j = 0 then 1 else 0, line := p.addr.toNat / 128, body := (units.drop (240 * j)).take 240 })

/-- A packet that crosses the package, south from IN to IS or north: through the column whose north-south edge holds more VC 3 credits, west on
a tie (R398). -/
def State.crossPackage (s : State) (south : Bool) (p : Packet) : State :=
  let d := if south then 0 else 1
  let west := if s.usable 3 = [] then true else if s.usable 2 = [] then false else s.edgeCredits 3 d ≤ s.edgeCredits 2 d
  let path : List (Nat × Nat) := if west then [(4, 1), (2, 0), (6, 0)] else [(5, 1), (3, 0), (7, 0)]
  let hops := s.hopsN (if south then 4 else 5) 0 (s.legs (if south then path else turned path)) 0
  (packetFlits p).foldl (fun (s : State) f => s.sendAlong hops f) s

end Sys2Proof.Machine
end

