-- ==== Sys2Proof/Machine/Control.lean ====
section
/-! DEFINITION. Control flow, barriers, arrival counters, waits and special registers (R48 to R52, R71 to R75, R95 to
R101). -/

namespace Sys2Proof.Machine
open Sys2Proof

/-- nop changes no state (R71). -/
def execNop (core slot : Nat) (w : BitVec 64) (s : State) : Out :=
  onGroup core slot (s.issue core slot .nop w 0 (fun s _ => s.advance core slot 8))

/-- An address 8·n bytes from an instruction. -/
def relAddr (pc : Word) (n : Int) : Word := pc + BitVec.ofInt 64 (8 * n)

/-- br (R48, R74). -/
def execBr (core slot : Nat) (w : BitVec 64) (s : State) : Out :=
  onGroup core slot (s.issue core slot .br w 0 (fun s x =>
    let n := w.toNat
    let m := if bN n then ~~~(x.k (wKM n)) else x.k (wKM n)
    match x.branch (relAddr x.pc (bTGT n)) (relAddr x.pc (bRPC n)) (x.active &&& m) with
    | some y => (s.setGroup core slot y).tickWindow core slot
    | none => s.raise core slot 3 0xFF))

/-- The target of an indirect jump; one that is no multiple of 8 is misaligned (R65, R74). -/
def jumpTo (core slot : Nat) (s : State) (x : Group) (target : Word) : State :=
  if target.toNat % 8 ≠ 0 then s.raise core slot 8 0xFF
  else (s.setGroup core slot { x with pc := target }).tickWindow core slot

/-- sA[55:0] as an address. -/
def addr56 (v : Word) : Word := v &&& 0x00FFFFFFFFFFFFFF

/-- jmp (R74). -/
def execJmp (core slot : Nat) (w : BitVec 64) (s : State) : Out :=
  onGroup core slot (s.issue core slot .jmp w 0 (fun s x => jumpTo core slot s x (addr56 (x.s (wA w.toNat)))))

/-- call: the target is read before the link register is written (R74). -/
def execCall (core slot : Nat) (w : BitVec 64) (s : State) : Out :=
  onGroup core slot (s.issue core slot .call w 0 (fun s x =>
    jumpTo core slot s (if (addr56 (x.s (wA w.toNat))).toNat % 8 = 0 then x.setS (wD w.toNat) (x.pc + 8) else x)
      (addr56 (x.s (wA w.toNat)))))

/-- exit (R48, R75): the group goes on with the next path, releases a barrier, or ends. -/
def execExit (core slot : Nat) (w : BitVec 64) (s : State) : Out :=
  onGroup core slot (s.issue core slot .exit w 0 (fun s x => 
    ((s.setGroup core slot x.exit.settle).groupEnded core slot).tickWindow core slot))

/-- bar.group (R49 to R51). -/
def execBarGroup (core slot : Nat) (w : BitVec 64) (s : State) : Out :=
  onGroup core slot (s.issue core slot .barGroup w 0 (fun s x =>
    if x.parked ≠ 0 && x.barAddr ≠ x.pc then s.raise core slot 5 0xFF
    else s.setGroup core slot (x.park (s.cycles core)).settle))

/-- wait.ge: the group stays at the wait until it is satisfied (R95, R96). -/
def execWaitGe (core slot : Nat) (w : BitVec 64) (s : State) : Out :=
  onGroup core slot (s.issue core slot .waitGe w 0 (fun s _ => s.advance core slot 8))

/-- ctr.rd (R95). -/
def execCtrRd (core slot : Nat) (w : BitVec 64) (s : State) : Out :=
  onGroup core slot (s.issue core slot .ctrRd w 0 (fun s x =>
    s.stepGroup core slot 8 (x.setS (wD w.toNat) ((s.ctr core slot (wA w.toNat)).setWidth 64))))

/-- ctr.set (R95, R97). -/
def execCtrSet (core slot : Nat) (w : BitVec 64) (s : State) : Out :=
  onGroup core slot (s.issue core slot .ctrSet w 0 (fun s x =>
    (s.setCtr core slot (wA w.toNat) (ctrOperand x w.toNat)).advance core slot 8))

/-- ctr.add (R95, R97). -/
def execCtrAdd (core slot : Nat) (w : BitVec 64) (s : State) : Out :=
  onGroup core slot (s.issue core slot .ctrAdd w 0 (fun s x =>
    (s.setCtr core slot (wA w.toNat) (s.ctr core slot (wA w.toNat) + ctrOperand x w.toNat)).advance core slot 8))

/-- mma.wait (R101). -/
def execMmaWait (core slot : Nat) (w : BitVec 64) (s : State) : Out :=
  onGroup core slot (s.issue core slot .mmaWait w 0 (fun s _ => s.advance core slot 8))

/-- The special registers of R73. -/
def special (s : State) (g : Nat) (x : Group) (n : Nat) : Word :=
  match n with
  | 0 => BitVec.ofNat 64 (s.cycles g)
  | 1 => s.cad.beat
  | 2 => s.cad.phase.setWidth 64
  | _ => (s.inst x.inst).gen.setWidth 64

/-- What a read of a special register returns, and the group after it. The beat counter and the phase within the beat are of one
instant: a read of one of them also takes the other, for the group's next read of it (R303; DESIGN CHOICE, log 104). -/
def readSpecial (s : State) (g : Nat) (x : Group) (n : Nat) : Word × Group :=
  match n with
  | 0 | 3 => (special s g x n, x)
  | _ => match x.instant with
    | some (m, v) => if m = n then (v, { x with instant := none }) else (special s g x n, { x with instant := some (3 - n, special s g x (3 - n)) })
    | none => (special s g x n, { x with instant := some (3 - n, special s g x (3 - n)) })

/-- rdsr (R73, R303). -/
def execRdsr (core slot : Nat) (w : BitVec 64) (s : State) : Out :=
  onGroup core slot (s.issue core slot .rdsr w 0 (fun s x =>
    let (v, x) := readSpecial s core x (iIMM w.toNat)
    s.stepGroup core slot 8 (x.setS (wD w.toNat) v)))

end Sys2Proof.Machine
end

