-- ==== Sys2Proof/Machine/Memory.lean ====
section
/-! DEFINITION. Loads, stores, atomics, fences, pins, dead lines, local-store accesses and code fetch (R66, R79 to R90,
R201 to R227, R248, R249, R430). -/

namespace Sys2Proof.Machine
open Sys2Proof

/-- The instance that owns a device address, for error records. -/
def State.ownerOf (s : State) (pa i : Nat) : Nat := if inHbm pa then (s.holder (pa / 2 ^ 21)).getD i else i

/-- A fault found by an access: poison met in a walk is consumed (R430), any other cause faults (R54). -/
def State.raiseMiss (s : State) (g slot i : Nat) (e : Cause) : State :=
  if e.code = 0xC then s.raisePoison g slot 0xC e.addr e.lane (s.ownerOf e.addr i) else s.raise g slot e.code e.lane

/-! ## The cache portion (R37, R156, R219) -/

/-- A sector put into the cache portion, which holds split / 128 lines, the most recently used in front. -/
def State.l1Fill (s : State) (g a j : Nat) (x : Sector) : State :=
  s.updCore g (fun c =>
    let l := (c.l1.find? (fun l => l.a = a)).getD { a := a, valid := 0, d := {} }
    { c with l1 := ({ l with valid := l.valid ||| secBit j, d := l.d.set j x } :: c.l1.filter (fun l => l.a ≠ a)).take (c.split / 128) })

/-- The whole cache portion invalidated (R88, R219). -/
def State.l1Clear (s : State) (g : Nat) : State := s.updCore g (fun c => { c with l1 := [] })
def State.l1Drop (s : State) (g a : Nat) : State := s.updCore g (fun c => { c with l1 := c.l1.filter (fun l => l.a ≠ a) })

/-- A store updates a line that the cache portion holds (R219). -/
def State.l1Store (s : State) (g pa : Nat) (bs : List PByte) : State :=
  let a := lineOf pa
  let j := pa % 128 / 32
  s.updCore g (fun c => { c with l1 := c.l1.map (fun l =>
    if l.a = a && l.valid.getLsbD j then { l with d := l.d.set j ((l.d.get j).write (pa % 32) bs) } else l) })

/-! ## One access -/

/-- A sector of host-cacheable memory through the cluster L2, which holds it untracked (R221, R241). -/
def State.ncRead (s : State) (i q pa : Nat) : Sector × State :=
  let a := lineOf pa
  let j := pa % 128 / 32
  let fresh := fun (_ : Unit) =>
    let bs := s.hostRead i (alignDown pa 32 - 2 ^ 52) 32
    (({} : Sector).write 0 (bs.map (fun b => (b, s.host.stopped))))
  match s.l2line q a with
  | some l =>
    if l.valid.getLsbD j then (l.d.get j, s.l2Put q l)
    else
      let x := fresh ()
      (x, if s.host.stopped then s else s.l2Put q { l with valid := l.valid ||| secBit j, d := l.d.set j x })
  | none =>
    let x := fresh ()
    (x, if s.host.stopped then s
        else s.l2Put q { a := a, st := .NC, valid := secBit j, dirty := 0, d := ({} : LineData).set j x })

/-- Bytes of a local or host location as a load of a core reads them (R204, R219 to R221). -/
def State.loadBytes (s : State) (g i : Nat) (h : Hit) (n : Nat) : List PByte × State :=
  let a := lineOf h.pa
  let j := h.pa % 128 / 32
  let q := clusterOf g
  if inHbm h.pa || leafHC h.leaf then
    match s.l1Get g a j with
    | some x => (x.read (h.pa % 32) n, s)
    | none =>
      let (x, s) := if inHbm h.pa then s.l2Read (s.accOf i h.leaf false) q a j else s.ncRead i q h.pa
      (x.read (h.pa % 32) n, if x.poison ≠ 0 then s else s.l1Fill g a j x)
  else s.devRead {} h.pa n

/-- Bytes stored by a core at a local or host location (R219, R221, R231). -/
def State.storeBytes (s : State) (g i tag : Nat) (h : Hit) (bs : List PByte) : State :=
  let q := clusterOf g
  let s := s.l1Store g h.pa bs
  if inHbm h.pa then s.l2Write (s.accOf i h.leaf false) q h.pa bs
  else
    let j := h.pa % 128 / 32
    let s := if !leafHC h.leaf then s else s.updCluster q (fun c => { c with l2 := c.l2.map (fun l =>
      if l.a = lineOf h.pa && l.valid.getLsbD j then { l with d := l.d.set j ((l.d.get j).write (h.pa % 32) bs) } else l) })
    (s.devWrite {} h.pa bs).hostFailed i tag

/-! ## Releases and acquires (R82, R211, R219, R221, R225) -/

/-- The acquire part: at chip or system scope the cache portion goes, at system scope also the cluster's host-cacheable
lines (R219, R221). -/
def State.acquire (s : State) (g scope : Nat) : State :=
  if scope = 0 then s
  else
    let s := s.l1Clear g
    if scope = 2 then s.updCluster (clusterOf g) (fun c => { c with l2 := c.l2.filter (fun l => l.st ≠ .NC) }) else s

/-- The register of a load or atomic written with a value of its type: a narrow integer extends by its sign or by zeros to
the register (R70, R79). -/
def Group.setData (x : Group) (scalar : Bool) (ty r lane v : Nat) : Group :=
  if scalar then x.setST ty r v
  else if tySigned ty && tySize ty < 4 then x.setV r lane (BitVec.ofInt 32 (sext (8 * tySize ty) v))
  else x.setVT ty r lane v

/-- The registers of a load written with the value of every lane (R80). -/
def Group.setAll (x : Group) (scalar : Bool) (ty r : Nat) (l : List (Nat × Nat)) : Group :=
  let y := l.foldl (fun (y : Group) e => y.setData scalar ty r e.1 e.2) x
  if scalar then y else y.wrote (l.map Prod.fst) r (tyRegs ty)

/-! ## ld and st -/

/-- Each access read in turn: lane, address and bytes. -/
def State.loadAll (s : State) (g i n : Nat) : List Hit → List (Hit × List PByte) × State
  | [] => ([], s)
  | h :: r =>
    let (bs, s) := s.loadBytes g i h n
    let (rs, s) := s.loadAll g i n r
    ((h, bs) :: rs, s)

/-- The read request of a lane's peer load: the aligned words that hold it (R382, R384). -/
def State.loadPeer (s : State) (g slot i : Nat) (scalar : Bool) (w : Nat) (tag : Nat) (h : Hit) : List Nat × State :=
  let n := tySize (mTY w)
  let lo := alignDown h.pa 4
  s.readPeer i h.leaf lo (srcTag g slot false) (max n 4)
    (fun _ _ => .load g slot scalar h.lane (h.pa - lo) (wD w) (mTY w) (if mORD w = 0 then 0 else mSC w)) (BitVec.ofNat 16 tag)

/-- ld (R79 to R82, R204, R208, R219, R430, R431). -/
def execLd (core slot : Nat) (w : BitVec 64) (s : State) : Out :=
  onGroup core slot (s.issue core slot .ld w 0 (fun s x =>
    let n := w.toNat
    let size := tySize (mTY n)
    match s.checkAll core x.inst .read size ((memLanes x n).map (fun l => (l, memAddr x n l))) with
    | (.error e, s) => s.raiseMiss core slot x.inst e
    | (.ok hits, s) =>
      let near := hits.filter (fun h => !inPeer h.pa)
      let (vals, s1) := s.loadAll core x.inst size near
      match vals.find? (fun v => anyPoison v.2) with
      | some v =>
        if (s.restorable v.1.pa).isSome then s.startRestore v.1.pa false
        else (s1.setPoisoned v.1.pa).raisePoison core slot 0xC (v.1.pa + firstBad v.2) v.1.lane (s.ownerOf v.1.pa x.inst)
      | none =>
        let got := vals.map (fun v => (v.1.lane, ofLe (plain v.2)))
        let (txs, s1) := (hits.filter (fun h => inPeer h.pa)).foldl (fun (acc : List Nat × State) h =>
          let (t, s) := acc.2.loadPeer core slot x.inst (mS n) n x.idx h
          (acc.1 ++ t, s)) ([], s1)
        let s1 := if mORD n = 0 then s1 else s1.acquire core (mSC n)
        s1.stepGroup core slot 8 (if txs = [] then x.setAll (mS n) (mTY n) (wD n) got else { x with await := txs, got := got })))

/-- The bytes that a store of a lane writes. -/
def storeData (x : Group) (w lane : Nat) : List Byte :=
  let size := tySize (mTY w)
  leBytes size (if mS w then (x.s (wD w)).toNat else x.vN (wD w) lane (tyRegs (mTY w)))

/-- The accesses of a store but those whose bytes a higher lane of it writes as well: accesses of one size are aligned, so two
that overlap name one address (R79, R80). -/
def lastWriters : List Hit → List Hit
  | [] => []
  | h :: r => if r.any (fun k => k.pa = h.pa) then lastWriters r else h :: lastWriters r

/-- The compare and new value of the ATOMIC that performs a narrow store where its word is expected to hold v (log 79). -/
def narrowData (v off : Nat) (bs : List Byte) : List Byte :=
  let old := leBytes 4 v
  leBytes 8 v ++ leBytes 8 (ofLe (old.take off ++ bs ++ old.drop (off + bs.length)))

/-- A store of a lane to a peer: a WRITE, or for the one or two bytes of a narrow type, which R382 gives no WRITE, a `cas` of the word that
holds them, repeated with the value found until it meets it (R382; DESIGN CHOICE, log 79). The group waits for the answer of the latter. -/
def State.storePeer (s : State) (g slot : Nat) (x : Group) (h : Hit) (bs : List Byte) : List Nat × State :=
  let tag := BitVec.ofNat 16 x.idx
  if 4 ≤ bs.length then
    ([], (s.writePeer x.inst h.leaf h.pa (groupTag g slot x.inst x.idx x.task) bs false (fun _ _ => .store g slot) tag).2)
  else
    let off := h.pa % 4
    match s.request x.inst h.leaf (h.pa - off) (srcTag g slot false) 3 with
    | none => ([], s)
    | some p =>
      let (t, s) := s.sendRequest { p with aop := 7, data := narrowData 0 off bs } (leafBind h.leaf) (.narrow g slot off bs) tag
      ([t], s)

/-- st (R79 to R82, R207, R219, R223, R231). -/
def execSt (core slot : Nat) (w : BitVec 64) (s : State) : Out :=
  onGroup core slot (s.issue core slot .st w 0 (fun s x =>
    let n := w.toNat
    match s.checkAll core x.inst .write (tySize (mTY n)) ((memLanes x n).map (fun l => (l, memAddr x n l))) with
    | (.error e, s) => s.raiseMiss core slot x.inst e
    | (.ok hits, s) =>
      let (txs, s) := (lastWriters hits).foldl (fun (acc : List Nat × State) h =>
        if inPeer h.pa then
          let (t, s) := acc.2.storePeer core slot x h (storeData x n h.lane)
          (acc.1 ++ t, s)
        else (acc.1, acc.2.storeBytes core x.inst x.idx h (clean (storeData x n h.lane)))) ([], s)
      s.stepGroup core slot 8 { x with await := txs }))

/-! ## Atomics (R83 to R87, R217, R248, R249) -/

/-- One operation of R72 on the value of a location. -/
def atomFn (op ty v x y : Nat) : Nat :=
  match op with
  | 0 => if ty = 4 then f32add v x else if ty = 0xE then wsumAddBits v x else intFn 0 ty v x false
  | 1 => if ty = 4 then f32min v x else intFn 10 ty v x false
  | 2 => if ty = 4 then f32max v x else intFn 11 ty v x false
  | 3 => intFn 4 ty v x false
  | 4 => intFn 5 ty v x false
  | 5 => intFn 6 ty v x false
  | 6 => x
  | _ => if v % 2 ^ (8 * tySize ty) = x % 2 ^ (8 * tySize ty) then y else v

/-- A set of R86 performed on the value v: the new value, and what each lane receives. -/
def atomSet (op ty v : Nat) (ops : List (Nat × Nat × Nat)) : Nat × List (Nat × Nat) :=
  if op = 0 && ty = 4 then
    let r := ops.foldl (fun (acc : Option Nat × List (Nat × Nat)) o =>
      match acc.1 with
      | none => (some o.2.1, acc.2 ++ [(o.1, v)])
      | some m => (some (f32add m o.2.1), acc.2 ++ [(o.1, f32add v m)])) (none, [])
    (match r.1 with
      | some m => f32add v m
      | none => v, r.2)
  else
    ops.foldl (fun (acc : Nat × List (Nat × Nat)) o => (atomFn op ty acc.1 o.2.1 o.2.2, acc.2 ++ [(o.1, acc.1)])) (v, [])

/-- A far atomic on HBM at the home: the value found (none where it meets poison), whether it was contended (R244, R248). -/
def State.atomFar (s : State) (c : Acc) (q pa n : Nat) (f : Nat → Nat) : Option Nat × Bool × State :=
  let a := lineOf pa
  let h := s.homeSlice pa
  let (removed, s) := (s.takePut q a).homeClean a
  let (other, s) := s.farHistory h a q
  let (x, s) := s.llcRead { c with deliver := false } h a (pa % 128 / 32)
  let bs := x.read (pa % 32) n
  if anyPoison bs then (none, removed || other, s)
  else
    let v := ofLe (plain bs)
    (some v, removed || other, s.llcPut c h a (pa % 128 / 32) (x.write (pa % 32) (clean (leBytes n (f v)))))

/-- A near atomic on HBM in the cluster's L2: as above; no contention report where no request was sent. A line held in M or E whose
sector is missing sends a GetSec, which is a request that met no other cluster (R248, R249; DESIGN CHOICE, log 132). -/
def State.atomNear (s : State) (c : Acc) (q pa n : Nat) (f : Nat → Nat) : Option Nat × Option Bool × State :=
  let a := lineOf pa
  let j := pa % 128 / 32
  let (own, l, s) := s.l2Own c q a
  let cont := if l.valid.getLsbD j then own else own.or (some false)
  let (l, s) := s.l2Fill c q a j l
  let bs := (l.d.get j).read (pa % 32) n
  if anyPoison bs then (none, cont, s.l2Put q l)
  else
    let v := ofLe (plain bs)
    let d := l.d.set j ((l.d.get j).write (pa % 32) (clean (leBytes n (f v))))
    (some v, cont, s.l2Put q { l with dirty := l.dirty ||| secBit j, d := d })

/-- An atomic of a core on HBM by its placement (R84, R249). -/
def State.atomHbm (s : State) (c : Acc) (q pl pa n : Nat) (f : Nat → Nat) : Option Nat × State :=
  if s.atHome (64 * q) pl pa then
    let (v, cont, s) := s.atomFar c q pa n f
    (v, if pl = 0 then s.predUpdate q pa cont else s)
  else
    let (v, cont, s) := s.atomNear c q pa n f
    (v, match cont with
      | some b => if pl = 0 then s.predUpdate q pa b else s
      | none => s)

/-- The PCIe AtomicOp of an operation and type (R321): 0 FetchAdd, 1 Swap, 2 CAS. -/
def hostAtomic (op ty : Nat) : Option Nat :=
  if op = 0 && ty ≤ 3 then some 0 else if op = 6 then some 1 else if op = 7 then some 2 else none

/-- The host-cacheable lines of a range of the host window dropped from a cluster's L2, which its own agents have written
(R98, R209). -/
def State.ncDrop (s : State) (q pa n : Nat) : State :=
  if !inHost pa then s
  else s.updCluster q (fun x => { x with l2 := x.l2.filter (fun l => l.a < pa / 128 || (pa + n - 1) / 128 < l.a) })

/-- An atomic on the host window, at its bus address, for the agents of a cluster or for the part; a stopped port sends none
(R209, R218, R321, R344). -/
def State.atomHost (s : State) (i : Nat) (q : Option Nat) (kind pa n : Nat) (f : Nat → Nat) : Nat × State :=
  if s.host.stopped then (0, s)
  else
    let v := ofLe (s.hostRead i (pa - 2 ^ 52) n)
    let s := match q with
      | some q => s.ncDrop q pa n
      | none => s
    (v, (s.hostWrite i (pa - 2 ^ 52) (leBytes n (f v))).send (.atomicOp (s.inst i).pasid kind (pa - 2 ^ 52) n))

/-- The operand of a lane, and the new value of a cas; the scalar form takes the new value of a 64-bit type from sB + 1 (R85; DESIGN
CHOICE, log 113). -/
def atomOperand (x : Group) (w lane : Nat) : Nat × Nat :=
  let m := 2 ^ (8 * tySize (mTY w))
  let n := tyRegs (mTY w)
  if mS w then ((x.s (wB w)).toNat % m, if wOp w = 0x5F then (x.s (wB w + 1)).toNat % m else 0)
  else (x.vN (wB w) lane n, if wOp w = 0x5F then x.vN (wB w + n) lane n else 0)

/-- The performing lanes gathered by address, sets in order of their lowest lane (R86). -/
def gather (x : Group) (w : Nat) (hits : List Hit) : List (Hit × List (Nat × Nat × Nat)) :=
  let lanesAt := fun (pa : Nat) => (hits.filter (fun h => h.pa = pa)).map (fun h => (h.lane, atomOperand x w h.lane))
  hits.foldl (fun (acc : List (Hit × List (Nat × Nat × Nat))) h =>
    if acc.any (fun e => e.1.pa = h.pa) then acc else acc ++ [(h, lanesAt h.pa)]) []

/-- The one operand with which a set travels to a peer (R86, R387). -/
def mergeOperands (op ty : Nat) (ops : List (Nat × Nat × Nat)) : Nat :=
  match ops with
  | [] => 0
  | o :: r => r.foldl (fun m o => atomFn op ty m o.2.1 o.2.2) o.2.1

/-- The data of the ATOMIC of a set: its merged operand, or for a cas the value compared and what the whole set leaves where the
location holds it (R86, R387). -/
def atomData (op ty : Nat) (ops : List (Nat × Nat × Nat)) (compare : Nat) : List Byte :=
  if ty = 0xE then leBytes 32 (mergeOperands op ty ops)
  else if op = 7 then leBytes 8 compare ++ leBytes 8 (atomSet op ty compare ops).1
  else leBytes 8 (mergeOperands op ty ops) ++ leBytes 8 0

/-- The ATOMIC packet of a set (R387). The set of a cas takes one position: it is sent with its first lane's compare value, and
again with the value found where that differs and the set would change it (DESIGN CHOICE, log 96). -/
def State.atomPeer (s : State) (g slot i tag w : Nat) (h : Hit) (ops : List (Nat × Nat × Nat)) : List Nat × State :=
  let op := wOp w - 0x58
  let ty := mTY w
  let acq := if mORD w = 1 || mORD w = 3 then mSC w else 0
  match s.request i h.leaf h.pa (srcTag g slot false) 3 with
  | none => ([], s)
  | some p =>
    let (t, s) := s.sendRequest { p with
        aop := BitVec.ofNat 4 op
        atype := BitVec.ofNat 4 ty
        data := atomData op ty ops ((ops.map (fun o => o.2.1)).headD 0) }
      (leafBind h.leaf) (.atomic g slot (mS w) ops (wD w) op ty acq (!(mNR w))) (BitVec.ofNat 16 tag)
    ([t], s)

/-- Sets performed one after another; the group's registers written where a result is asked for. -/
def State.atomAll (s : State) (g slot w : Nat) (x : Group) : List (Hit × List (Nat × Nat × Nat)) → List Nat × Group × State
  | [] => ([], x, s)
  | (h, ops) :: r =>
    let op := wOp w - 0x58
    let ty := mTY w
    let f := fun v => (atomSet op ty v ops).1
    let put := fun (x : Group) (v : Nat) => if mNR w then x else x.setAll (mS w) ty (wD w) (atomSet op ty v ops).2
    if inPeer h.pa then
      let (t, s) := s.atomPeer g slot x.inst x.idx w h ops
      let (t', x, s) := s.atomAll g slot w x r
      (t ++ t', x, s)
    else if inHost h.pa then
      let (v, s) := s.atomHost x.inst (some (clusterOf g)) ((hostAtomic op ty).getD 0) h.pa (tySize ty) f
      (s.hostFailed x.inst x.idx).atomAll g slot w (put x v) r
    else
      let (v, s) := s.atomHbm (s.accOf x.inst h.leaf false) (clusterOf g) (mPL w) h.pa (tySize ty) f
      s.atomAll g slot w (match v with
        | some v => put x v
        | none => x) r

/-- The bytes of the location of a set where the atomic would be performed; those of a stopped host are poisoned (R344, R430). -/
def State.atomBytes (s : State) (w : Nat) (h : Hit) : List PByte :=
  if inHbm h.pa then (s.rdNA {} h.pa).1.read (h.pa % 32) (tySize (mTY w))
  else List.replicate (tySize (mTY w)) (0, inHost h.pa && s.host.stopped && !(mNR w))

/-- Whether an atomic meets poison there (R430). -/
def State.metPoison (s : State) (w : Nat) (h : Hit) : Bool := anyPoison (s.atomBytes w h)

/-- atom (R82 to R87, R217 to R219, R248, R249, R321, R430). -/
def execAtom (core slot : Nat) (w : BitVec 64) (s : State) : Out :=
  onGroup core slot (s.issue core slot .atom w 0 (fun s x =>
    let n := w.toNat
    let ty := mTY n
    match s.checkAll core x.inst .write (tySize ty) ((memLanes x n).map (fun l => (l, memAddr x n l))) with
    | (.error e, s) => s.raiseMiss core slot x.inst e
    | (.ok hits, s) =>
      match hits.find? (fun h => inHost h.pa && !((hostAtomic (wOp n - 0x58) ty).isSome && s.host.atomicOps)) with
      | some h => s.raise core slot 0xA h.lane
      | none =>
        let s := hits.foldl (fun (s : State) h => s.l1Drop core (lineOf h.pa)) s
        let sets := gather x n hits
        match sets.find? (fun e => s.metPoison n e.1) with
        | some e =>
          if (s.restorable e.1.pa).isSome then s.startRestore e.1.pa false
          else (s.setPoisoned e.1.pa).raisePoison core slot 0xC (e.1.pa + firstBad (s.atomBytes n e.1)) e.1.lane (s.ownerOf e.1.pa x.inst)
        | none =>
          let (txs, y, s) := s.atomAll core slot n x sets
          let s := if mORD n = 1 || mORD n = 3 then s.acquire core (mSC n) else s
          s.stepGroup core slot 8 { y with await := txs }))

/-! ## Fences, the cache portion, pins, dead lines -/

/-- fence (R82, R219, R225). -/
def execFence (core slot : Nat) (w : BitVec 64) (s : State) : Out :=
  onGroup core slot (s.issue core slot .fence w 0 (fun s _ => (s.acquire core (mSC w.toNat)).advance core slot 8))

/-- inv.l1 (R88). -/
def execInvL1 (core slot : Nat) (w : BitVec 64) (s : State) : Out :=
  onGroup core slot (s.issue core slot .invL1 w 0 (fun s _ => (s.l1Clear core).advance core slot 8))

/-- pin and unpin: the line of the address, and the status that goes to sD (R89). -/
def pinOp (core slot : Nat) (w : Nat) (s : State) (x : Group) (op : Acc → Nat → State → Nat × State) : State :=
  match s.checkHere core x.inst .read 0xFF (memAddr x w 0) with
  | (.error e, s) => s.raiseMiss core slot x.inst e
  | (.ok h, s) =>
    let (st, s) := op (s.accOf x.inst h.leaf false) h.pa s
    s.stepGroup core slot 8 (x.setS (wD w) (BitVec.ofNat 64 st))

/-- pin (R89, R250, R251). -/
def execPin (core slot : Nat) (w : BitVec 64) (s : State) : Out :=
  onGroup core slot (s.issue core slot .pin w 0 (fun s x =>
    pinOp core slot w.toNat s x (fun c pa s => s.pinLine c pa)))

/-- unpin (R89, R252). -/
def execUnpin (core slot : Nat) (w : BitVec 64) (s : State) : Out :=
  onGroup core slot (s.issue core slot .unpin w 0 (fun s x => pinOp core slot w.toNat s x (fun _ pa s => s.unpinLine pa)))

/-- hint.dead (R90, R226, R227, R247). -/
def execHintDead (core slot : Nat) (w : BitVec 64) (s : State) : Out :=
  onGroup core slot (s.issue core slot .hintDead w 0 (fun s x =>
    let n := w.toNat
    match s.checkEach core x.inst .write ((memLanes x n).map (fun l => (l, memAddr x n l))) with
    | (.error e, s) => s.raiseMiss core slot x.inst e
    | (.ok hits, s) =>
      (hits.foldl (fun (s : State) h => s.deadLine (s.accOf x.inst h.leaf false) h.pa) s).advance core slot 8))

/-! ## The local store (R42, R47, R79, R203) -/

/-- The part of the local store that a group may use: the shared region and the region of its slot (R47). -/
def lsOk (l : Launch) (slot off n : Nat) : Bool :=
  off + n ≤ l.s || (l.s + slot * l.g ≤ off && off + n ≤ l.s + (slot + 1) * l.g) || (slot = 0 && off + n ≤ l.s + l.g)

/-- The seed key of a local-store byte: its slot, or 16 for the shared region. -/
def lsRegion (l : Launch) (off : Nat) : Nat := if off < l.s then 16 else if l.g = 0 then 16 else (off - l.s) / l.g

/-- One local-store byte with its poison mark: written, unspecified since the region's group started, or zero (R42, R43). -/
def State.lsByte (s : State) (g off : Nat) : PByte :=
  let c := s.core g
  let l : Launch := match c.launch with
    | some (i, idx) => (s.launch i idx).getD {}
    | none => {}
  let b := match NMap.find c.ls off with
    | some b => b
    | none => match NMap.find c.lsSeed (lsRegion l off) with
      | some seed => Config.freeByte seed off
      | none => 0
  (b, c.lsPoison.contains (off / 16))

def State.lsRead (s : State) (g off n : Nat) : List PByte := (List.range n).map (fun i => s.lsByte g (off + i))

/-- Bytes written to the local store: a granule written whole takes the poison of its bytes, one written in part keeps
its own (R430). -/
def State.lsWrite (s : State) (g off : Nat) (bs : List PByte) : State :=
  let n := bs.length
  let mark := fun (l : List Nat) (k : Nat) =>
    let lo := max off (16 * k)
    let hi := min (off + n) (16 * k + 16)
    let bad := anyPoison ((bs.drop (lo - off)).take (hi - lo))
    if bad then insNat l k else if hi - lo = 16 then l.filter (fun j => j ≠ k) else l
  s.updCore g (fun c => { c with
    ls := (List.range n).foldl (fun m i => NMap.ins m (off + i) (plain bs)[i]!) c.ls
    lsPoison := if n = 0 then c.lsPoison
      else (List.range ((off + n - 1) / 16 - off / 16 + 1)).foldl (fun l i => mark l (off / 16 + i)) c.lsPoison })

/-- The local-store offset of an access: sA + IMM, or vA[31:0] + IMM for a lane (R79). -/
def lsOffset (x : Group) (w lane : Nat) : Nat :=
  if mAM w = 0 then wrap 64 ((x.s (wA w)).toNat + mIMM w) else wrap 64 ((x.v (wA w) lane).toNat + mIMM w)

/-- The checks of local-store accesses: alignment, then bounds; the lowest faulting lane decides (R47, R79). -/
def State.lsCheck (s : State) (slot : Nat) (x : Group) (w : Nat) : Option (Nat × Nat) :=
  let n := tySize (mTY w)
  (memLanes x w).findSome? (fun lane =>
    let off := lsOffset x w lane
    if off % n ≠ 0 then some (8, lane) else if !lsOk (s.launchOf x) slot off n then some (6, lane) else none)

/-- lds (R47, R79, R430). -/
def execLds (core slot : Nat) (w : BitVec 64) (s : State) : Out :=
  onGroup core slot (s.issue core slot .lds w 0 (fun s x =>
    let n := w.toNat
    let size := tySize (mTY n)
    match s.lsCheck slot x n with
    | some (c, lane) => s.raise core slot c lane
    | none =>
      match (memLanes x n).find? (fun lane => anyPoison (s.lsRead core (lsOffset x n lane) size)) with
      | some lane => s.raisePoison core slot 0xC (lsOffset x n lane + firstBad (s.lsRead core (lsOffset x n lane) size)) lane x.inst
      | none =>
        s.stepGroup core slot 8 (x.setAll (mS n) (mTY n) (wD n) ((memLanes x n).map (fun lane =>
          (lane, ofLe (plain (s.lsRead core (lsOffset x n lane) size))))))))

/-- sts (R47, R79). -/
def execSts (core slot : Nat) (w : BitVec 64) (s : State) : Out :=
  onGroup core slot (s.issue core slot .sts w 0 (fun s x =>
    let n := w.toNat
    match s.lsCheck slot x n with
    | some (c, lane) => s.raise core slot c lane
    | none =>
      let s := (memLanes x n).foldl (fun (s : State) lane => s.lsWrite core (lsOffset x n lane) (clean (storeData x n lane))) s
      s.advance core slot 8))

/-! ## Code -/

/-- A 128-byte code line fetched for a group, from HBM pages with X (R65, R66, R352, R430). -/
def execFetchCode (core slot : Nat) (va : BitVec 64) (s : State) : Out :=
  onGroup core slot (match s.group core slot with
    | none => s
    | some x =>
      if !s.mayIssue core x || s.walkWaits core x.inst va.toNat then s
      else
        match s.checkOne core x.inst .exec 1 0xFF (alignDown va.toNat 128) with
        | (.error e, s) => s.raiseMiss core slot x.inst e
        | (.ok h, s) =>
          if s.heldAt core h.pa false then s
          else
            let (bs, s1) := s.hbmRead { s.accOf x.inst h.leaf false with ask := some .critical } h.pa 128
            if anyPoison bs then
              if (s.restorable h.pa).isSome then s.startRestore h.pa false
              else (s1.setPoisoned h.pa).raisePoison core slot 0xC (h.pa + firstBad bs) 0xFF (s.ownerOf h.pa x.inst)
            else s1.updCore core (fun c => { c with code := NMap.ins c.code (va.toNat / 128) (plain bs) }))

end Sys2Proof.Machine
end

