-- ==== Sys2Proof/Machine/Copies.lean ====
section
/-! DEFINITION. Async copies, block checksums, packed weights and run-ahead (R59 to R64, R91 to R94, R157 to R179, R191,
R429 to R431, R517). -/

namespace Sys2Proof.Machine
open Sys2Proof

/-! ## Descriptors (R157, R158, R160, R161, R517) -/

/-- Row and plane of a byte of a copy, and the offset in the row. -/
def CopyJob.place (j : CopyJob) (k : Nat) : Nat × Nat × Nat :=
  (k / j.rowBytes / j.rows, k / j.rowBytes % j.rows, k % j.rowBytes)

/-- The memory-side address of a byte (for a push its source offset), in 64-bit two's complement (R158). -/
def CopyJob.memVa (j : CopyJob) (k : Nat) : Nat :=
  let (p, r, o) := j.place k
  wrap 64 (j.maddr.toNat + p * j.ms2.toInt + r * j.ms1.toInt + o)

/-- The local-store offset of a byte. -/
def CopyJob.lsOff (j : CopyJob) (k : Nat) : Nat :=
  let (p, r, o) := j.place k
  j.laddr + p * j.ls2 + r * j.ls1 + o

/-- Whether every row of a copy's local-store side lies where a slot may reach (R161). -/
def CopyJob.inBounds (j : CopyJob) (l : Launch) (slot : Nat) (off : Nat → Nat) : Bool :=
  (List.range (j.rows * j.planes)).all (fun k => lsOk l slot (off (k * j.rowBytes)) j.rowBytes)

/-- The copy that a `cp.async` names, its descriptor read and the selected scalar registers added (R93, R158). -/
def State.buildJob (s : State) (core slot : Nat) (x : Group) (w w1 : Nat) (pc : Word) : CopyJob × List Byte :=
  let d := plain (s.lsRead core (fld w1 0 18) 64)
  let f := fun off n => leAt d off n
  let dir := fld (f 18 1) 0 2
  let ss := if bit w1 24 then (x.s (fld w1 18 6)).toNat else 0
  let sd := if bit w1 31 then (x.s (fld w1 25 6)).toNat else 0
  ({ slot := slot, inst := x.inst, idx := x.idx, task := x.task, pc := pc,
     dec := bit w 12, mc := bit w 13, ck := bit w 14, tc := bit w 15, dir := dir,
     bulk := fld (f 18 1) 2 2 = 1, fin := bit (f 18 1) 4,
     dslot := fld (f 19 1) 0 4, dsame := bit (f 19 1) 4,
     maddr := BitVec.ofNat 64 (fld (f 0 8) 0 56 + (if dir = 1 then sd else ss)),
     laddr := (fld (f 8 4) 0 18 + (if dir = 1 then ss else sd)) % 2 ^ 64,
     rowBytes := f 12 2 + 1, rows := f 14 2 + 1, planes := f 16 2 + 1,
     ms1 := BitVec.ofNat 32 (f 20 4), ms2 := BitVec.ofNat 32 (f 24 4),
     ls1 := fld (f 28 4) 0 18, ls2 := fld (f 32 4) 0 18, fblk := f 36 4,
     cmask := BitVec.ofNat 64 (f 40 8), ckt := BitVec.ofNat 56 (f 48 8), acnt := fld w1 32 5 }, d)

/-- Whether a descriptor breaks a rule of R157, R159, R160 or R517. -/
def CopyJob.malformed (j : CopyJob) (d : List Byte) (groups : Nat) : Bool :=
  let f := fun off n => leAt d off n
  let m4 := fun (n : Nat) => n % 4 = 0
  let m4k := fun (n : Nat) => n % 4096 = 0
  !(fld (f 0 8) 56 8 = 0 && fld (f 8 4) 18 14 = 0 && j.dir ≠ 3 && fld (f 18 1) 2 2 ≤ 1 && fld (f 18 1) 5 3 = 0
    && fld (f 19 1) 5 3 = 0 && fld (f 28 4) 18 14 = 0 && fld (f 32 4) 18 14 = 0 && fld (f 48 8) 56 8 = 0 && f 56 8 = 0
    && 4 ≤ j.rowBytes && j.total ≤ 2 ^ 24
    && m4 j.rowBytes && m4 j.maddr.toNat && m4 j.laddr && m4 j.ms1.toNat && m4 j.ms2.toNat && m4 j.ls1 && m4 j.ls2
    && (j.dir ≠ 2 || (fld (f 0 8) 18 38 = 0 && j.mc))
    && (!j.dec || (j.dir = 0 && j.rows = 1 && j.planes = 1 && m4k j.rowBytes && j.laddr % 32 = 0 && j.maddr.toNat % 128 = 0))
    && (j.dec || j.fblk = 0)
    && (if j.mc then j.dir ≠ 1 && j.cmask ≠ 0 && (!j.dsame || j.dslot = 0) && j.dslot < groups
        else j.cmask = 0 && j.dslot = 0 && !j.dsame)
    && (!j.ck || (j.dir ≠ 2 && j.ckt.toNat % 16 = 0
        && (j.dec || (m4k j.maddr.toNat && m4k j.rowBytes && (j.rows = 1 && j.planes = 1 || (m4k j.ms1.toNat && m4k j.ms2.toNat))))))
    && (j.ck || j.ckt = 0)
    && (!j.tc || j.dir = 1) && (!j.fin || j.dir = 1))

/-- groups_per_core of R45, 0 where S does not fit (R46). -/
def groupsPerCore (l : Launch) : Nat :=
  let room := 256 * 1024 - l.c - 2048
  if l.s > room then 0
  else min 16 (min (1024 / l.v) (if l.g = 0 then 16 else (room - l.s) / l.g))

/-- The checks made at the issue of a copy: a fault cause, or 0 (R160, R161, R517). -/
def State.checkJob (s : State) (x : Group) (j : CopyJob) (d : List Byte) : Nat :=
  let l := s.launchOf x
  if j.malformed d (groupsPerCore l) then 0xB
  else if !j.inBounds l (if j.mc && !j.dsame then j.dslot else j.slot) j.lsOff then 6
  else if j.dir = 2 && !j.inBounds l j.slot j.memVa then 6
  else 0

/-! ## Progress of a running copy -/

/-- The tag of the batches to which a copy's remote writes belong (R224). -/
def CopyJob.tag (j : CopyJob) (core : Nat) : Nat := groupTag core j.slot j.inst j.idx j.task


/-- A fault of a running copy, against the `cp.async` that issued it (R161). -/
def State.raiseJobOf (s : State) (core : Nat) (j : CopyJob) (code addr owner : Nat) : State :=
  let s := if code = 0xC || code = 0xD then
      s.errRecord (if code = 0xD then 4 else 3) 0 (coreUnit core) (errDetail (addr / 16 * 16) 0xFF 0 owner 0) [0, owner]
    else s
  let f : FaultInfo :=
    { code := BitVec.ofNat 16 code, unit := coreUnit core, beat := s.cad.beat, phase := s.cad.phase, pc := j.pc,
      slot := j.slot, lane := 0xFF }
  (s.kill j.inst j.idx f).updGroup core j.slot (fun x => if x.inst = j.inst && x.idx = j.idx then { x with stopped := true } else x)

/-- The same, poison or a bad checksum being at a device address. -/
def State.raiseJob (s : State) (core : Nat) (j : CopyJob) (code addr : Nat) : State :=
  s.raiseJobOf core j code addr (s.ownerOf addr j.inst)

def State.job (s : State) (core id : Nat) : Option CopyJob := (s.core core).copies.find? (fun j => j.id = id)

/-- A copy put back, or its entry freed once every byte has been counted (R162). -/
def State.putJob (s : State) (core : Nat) (j : CopyJob) : State :=
  let keep := fun (l : List CopyJob) =>
    if j.landed ≥ j.total && j.remote = [] then l.filter (fun e => e.id ≠ j.id) else l.map (fun e => if e.id = j.id then j else e)
  s.updCore core (fun c => { c with copies := keep c.copies })

/-- A store copy whose step has been sent: put back, and once all of it has left, the batches of its group closed where that has ended
(R386). -/
def State.sentTo (s : State) (core : Nat) (j : CopyJob) : State := (s.putJob core j).closeEnded core j.slot j.inst j.idx j.task

/-- A counter advanced by bytes (R167, R168). -/
def State.countBytes (s : State) (core slot n k : Nat) : State := s.setCtr core slot n (s.ctr core slot n + BitVec.ofNat 32 k)

/-- A counter of the issuing group advanced; a group that has ended has none, and a later group of its slot receives
nothing (R100, R102, R167). -/
def State.countOwn (s : State) (core slot inst idx task n k : Nat) : State :=
  match s.group core slot with
  | none => s
  | some x => if x.inst = inst && x.idx = idx && x.task = task then s.countBytes core slot n k else s

/-- Bytes of a copy counted for the group that issued it (R167). -/
def State.countFor (s : State) (core : Nat) (j : CopyJob) (k : Nat) : State :=
  s.countOwn core j.slot j.inst j.idx j.task j.acnt k

/-- Destination cores and the slot whose counter advances (R167, R169): bytes for a core out of service are discarded. -/
def State.dests (s : State) (core : Nat) (j : CopyJob) : List Nat × Nat :=
  if j.mc then
    (((bitsOf 64 j.cmask.toNat).map (fun c => clusterOf core * 64 + c)).filter (fun g => s.coreUp g),
      if j.dsame then j.slot else j.dslot)
  else ([core], j.slot)

/-- Bytes landed in every destination local store, and counted (R167 to R170). -/
def State.landBytes (s : State) (core : Nat) (j : CopyJob) (k : Nat) (bs : List PByte) : State :=
  let (cores, slot) := s.dests core j
  cores.foldl (fun (s : State) g =>
    let s := s.lsWrite g (j.lsOff k) bs
    if j.mc then s.countBytes g slot j.acnt bs.length else s.countFor core j bs.length) s

/-- The parts of a run of a copy's bytes that lie within one row and one 64 KiB page. -/
def CopyJob.pieces (j : CopyJob) : Nat → Nat → Nat → List (Nat × Nat)
  | 0, _, _ => []
  | f + 1, k, n =>
    if n = 0 then []
    else
      let m := min n (min (j.rowBytes - k % j.rowBytes) (65536 - j.memVa k % 65536))
      (k, m) :: j.pieces f (k + m) (n - m)

def CopyJob.run (j : CopyJob) (k e : Nat) : List (Nat × Nat) := j.pieces (e - k + 1) k (e - k)

/-- Whether no two rows or planes of a copy's local-store side share a sector (R171). -/
def CopyJob.apart (j : CopyJob) : Bool :=
  j.rows * j.planes = 1
    || (j.laddr % 32 = 0 && j.ls1 % 32 = 0 && j.ls2 % 32 = 0 && (j.rows = 1 || j.rowBytes ≤ j.ls1)
      && (j.planes = 1 || (j.rows - 1) * j.ls1 + j.rowBytes ≤ j.ls2))

/-- The first point at or past byte k where a step of a copy may end: no memory line that one row covers and no local-store
sector that the copy writes whole is then moved in two steps (R171, R207, R208). A load or push whose rows share sectors moves in one
step, a copy with CK or DEC by blocks; a source sector that two steps of a store or push read is kept between them. -/
def CopyJob.cut (j : CopyJob) (k : Nat) : Nat :=
  let k := if j.ck || j.dec then (k + 4095) / 4096 * 4096 else k
  let row := k / j.rowBytes * j.rowBytes
  let up := if j.dir = 2 then k + (32 - j.lsOff k % 32) % 32 else k + (128 - j.memVa k % 128) % 128
  if j.total ≤ k || (j.dir ≠ 1 && !j.apart) then j.total
  else if k % j.rowBytes = 0 then k
  else if up < row + j.rowBytes && (j.dir = 1 || (j.lsOff row + (up - row)) % 32 = 0) then up
  else row + j.rowBytes

/-- Local-store bytes that a store or push reads as its source: those of the sector in which its last step ended come from that step's
read (R171). -/
def State.source (s : State) (core : Nat) (j : CopyJob) (off n : Nat) : List PByte :=
  (List.range n).map (fun i => (NMap.find j.buf (off + i)).getD (s.lsByte core (off + i)))

/-- Bytes put in a buffer under their keys. -/
def putBuf (m : NMap (Byte × Bool)) (k : Nat) (bs : List PByte) : NMap (Byte × Bool) :=
  (bs.zip (List.range bs.length)).foldl (fun m b => NMap.ins m (k + b.2) b.1) m

/-- A store or push whose step has ended at byte e: the source sector of its last byte is kept (R171). -/
def State.keepSector (s : State) (core : Nat) (j : CopyJob) (src : Nat → Nat) (e : Nat) : CopyJob :=
  let lo := alignDown (src (e - 1)) 32
  { j with landed := e, buf := putBuf [] lo (s.source core j lo 32) }

/-- How far a step has come: the state and the copy after it, whether it may go on, and the bytes that it will land. -/
structure Progress where
  s : State
  j : CopyJob
  on : Bool
  acc : List PByte := []

/-- A translation for a copy, with the checks of a peer access: a fault cause and address, or where it goes. -/
def State.copyTranslate (s : State) (core : Nat) (j : CopyJob) (k : XKind) (va : Nat) : Except Cause Hit × State :=
  s.checkOne core j.inst k 1 0xFF va

/-- The device address that a virtual address of a copy leads to, for an error record (R434). -/
def State.recordAddr (s : State) (core : Nat) (j : CopyJob) (va : Nat) : Nat :=
  match (s.copyTranslate core j .read va).1 with
  | .ok h => h.pa
  | .error _ => 0

/-- Pieces of a copy with where each goes, or the first cause that a piece faults with. -/
def State.copyHits (s : State) (core : Nat) (j : CopyJob) (k : XKind) : List (Nat × Nat) → Except Cause (List (Nat × Nat × Hit)) × State
  | [] => (.ok [], s)
  | e :: r =>
    match s.copyTranslate core j k (j.memVa e.1) with
    | (.error c, s) => (.error c, s)
    | (.ok h, s) =>
      match s.copyHits core j k r with
      | (.error c, s) => (.error c, s)
      | (.ok hs, s) => (.ok ((e.1, e.2, h) :: hs), s)

/-- The bytes of one step of a load that are all there landed and counted (R167, R171). -/
def State.landStep (s : State) (core : Nat) (j : CopyJob) : State :=
  if j.remote ≠ [] then s.putJob core j
  else
    let s := (j.run j.landed j.want).foldl (fun (s : State) e =>
      s.landBytes core j e.1 ((List.range e.2).map (fun i => NMap.at j.buf (e.1 + i) (0, false)))) s
    s.putJob core { j with landed := j.want, buf := [] }

/-- One step of a load without CK or DEC, to byte e: every byte of this module and of the host read, and those of a peer asked
for (R163, R164, R429, R431). -/
def State.loadStep (s : State) (core : Nat) (j : CopyJob) (e : Nat) : State :=
  match s.copyHits core j .read (j.run j.landed e) with
  | (.error c, s) => s.raiseJob core j c.code c.addr
  | (.ok hits, s) =>
    if hits.any (fun h => s.heldRun h.2.2.pa h.2.1) then s
    else
      let near := hits.filter (fun h => !inPeer h.2.2.pa)
      let (vals, s1) := near.foldl (fun (acc : List ((Nat × Nat × Hit) × List PByte) × State) h =>
        let (bs, s) := acc.2.devRead (s.accOf j.inst h.2.2.leaf j.bulk) h.2.2.pa h.2.1
        (acc.1 ++ [(h, bs)], s)) ([], s)
      match vals.findSome? (fun v => s.mend v.1.2.2.pa v.2) with
      | some s => s
      | none =>
        let s1 := vals.foldl (fun (s : State) v => s.notePoison v.1.2.2.pa v.2) s1
        let buf := vals.foldl (fun m v => putBuf m v.1.1 v.2) j.buf
        let (txs, s1) := (hits.filter (fun h => inPeer h.2.2.pa)).foldl (fun (acc : List Nat × State) h =>
          let (t, s) := acc.2.readPeer j.inst h.2.2.leaf h.2.2.pa (j.tag core) h.2.1
            (fun o m => .copy core j.id (h.1 + o) m) (BitVec.ofNat 16 j.idx)
          (acc.1 ++ t, s)) ([], s1)
        s1.landStep core { j with buf := buf, want := e, remote := txs }

/-- Bytes of a store written to this module's HBM or to the host: the lines of the core's cache portion, and the host-cacheable
ones of its cluster's L2, are dropped first (R98, R156, R164, R209). -/
def State.copyWrite (s : State) (core : Nat) (j : CopyJob) (h : Hit) (bs : List PByte) : State :=
  let s := (List.range ((h.pa + bs.length - 1) / 128 - h.pa / 128 + 1)).foldl (fun (s : State) i => s.l1Drop core (lineOf h.pa + i)) s
  let s := (s.ncDrop (clusterOf core) h.pa bs.length).devWrite (s.accOf j.inst h.leaf j.bulk) h.pa bs
  if inHost h.pa then s.hostFailed j.inst j.idx else s

/-- Whether an earlier store copy of the same group has bytes left to send, or a store copy with FIN that was issued before a
copy: the final flag leaves after every write that belongs to its batch, and no later write before it (R224). -/
def State.finWaits (s : State) (core : Nat) (j : CopyJob) (last : Bool) : Bool :=
  (s.core core).copies.any (fun k => k.id < j.id && k.slot = j.slot && k.inst = j.inst && k.idx = j.idx && k.task = j.task
    && k.dir = 1 && k.landed < k.total && (k.fin || (j.fin && last)))

/-- Packets that a run of bytes takes on the way to a peer (R382). -/
def packetsOf (pa n : Nat) : Nat := (pa + n - 1) / 256 - pa / 256 + 1

/-- Whether the writes of a store copy have to wait: a line waits, the core's limit of unacknowledged writes, or a final flag
(R224, R384). -/
def State.writesWait (s : State) (core : Nat) (j : CopyJob) (e : Nat) (hits : List (Nat × Nat × Hit)) : Bool :=
  let far := hits.filter (fun h => inPeer h.2.2.pa)
  hits.any (fun h => s.heldRun h.2.2.pa h.2.1) || s.finWaits core j (e = j.total)
    || (far ≠ [] && 4096 < s.unacked core none + (far.map (fun h => packetsOf h.2.2.pa h.2.1)).sum)

/-- The WRITE packets of a run of a copy's bytes. -/
def State.copySend (s : State) (core : Nat) (j : CopyJob) (h : Nat × Nat × Hit) (bs : List Byte) (count : Bool) : List Nat × State :=
  s.writePeer j.inst h.2.2.leaf h.2.2.pa (j.tag core) bs (j.fin && h.1 + h.2.1 = j.total)
    (fun o m => .copy core j.id (h.1 + o) (if count then m else 0)) (BitVec.ofNat 16 j.idx)

/-- One step of a store without CK, to byte e (R156, R163, R164, R167, R429). -/
def State.storeStep (s : State) (core : Nat) (j : CopyJob) (e : Nat) : State :=
  match s.copyHits core j .write (j.run j.landed e) with
  | (.error c, s) => s.raiseJob core j c.code c.addr
  | (.ok hits, s) =>
    if s.writesWait core j e hits then s
    else match hits.find? (fun h => inPeer h.2.2.pa && anyPoison (s.source core j (j.lsOff h.1) h.2.1)) with
      | some h => s.raiseJobOf core j 0xC (j.lsOff h.1 + firstBad (s.source core j (j.lsOff h.1) h.2.1)) j.inst
      | none =>
        let (txs, s) := hits.foldl (fun (acc : List Nat × State) h =>
          let bs := acc.2.source core j (j.lsOff h.1) h.2.1
          if inPeer h.2.2.pa then
            let (t, s) := acc.2.copySend core j h (plain bs) true
            (acc.1 ++ t, s)
          else (acc.1, (acc.2.copyWrite core j h.2.2 bs).countFor core j h.2.1)) ([], s)
        s.sentTo core { s.keepSector core j j.lsOff e with remote := j.remote ++ txs }

/-- One step of a push, to byte e: the issuing core's bytes in every destination (R170). -/
def State.pushStep (s : State) (core : Nat) (j : CopyJob) (e : Nat) : State :=
  let s := (j.run j.landed e).foldl (fun (s : State) p => s.landBytes core j p.1 (s.source core j (j.memVa p.1) p.2)) s
  s.putJob core (s.keepSector core j j.memVa e)

/-! ## Source bytes of a copy with CK or DEC -/

/-- What a read for a block came to. -/
inductive Fetched where
  | bytes (bs : List PByte)
  | wait
  | bad (e : Cause)
  deriving DecidableEq, Repr

/-- Bytes of a virtual range read for a block, page by page; bytes of a peer's memory are read into the copy's buffer
first (R163). -/
def State.fetchVirt : Nat → State → Nat → CopyJob → Nat → Nat → Fetched × CopyJob × State
  | 0, s, _, j, _, _ => (.bytes [], j, s)
  | f + 1, s, core, j, va, n =>
    if n = 0 then (.bytes [], j, s)
    else
      let m := chunk va n
      if s.walkWaits core j.inst va then (.wait, j, s)
      else match s.copyTranslate core j .read va with
      | (.error e, s) => (.bad e, j, s)
      | (.ok h, s) =>
        let (here, j, s) : Fetched × CopyJob × State :=
          if s.heldRun h.pa m then (.wait, j, s)
          else if inPeer h.pa then
            let got := (List.range m).filterMap (fun i => NMap.find j.buf (va + i))
            if got.length = m then (.bytes got, j, s)
            else if j.remote ≠ [] then (.wait, j, s)
            else
              let (t, s) := s.readPeer j.inst h.leaf h.pa (j.tag core) m
                (fun o _ => .fetch core j.id (va + o)) (BitVec.ofNat 16 j.idx)
              (.wait, { j with remote := t }, s)
          else
            let (bs, s1) := s.devRead (s.accOf j.inst h.leaf j.bulk) h.pa m
            match s.mend h.pa bs with
            | some s => (.wait, j, s)
            | none => (.bytes bs, j, s1.notePoison h.pa bs)
        match here with
        | .bytes bs =>
          match s.fetchVirt f core j (va + m) (n - m) with
          | (.bytes r, j, s) => (.bytes (bs ++ r), j, s)
          | e => e
        | e => (e, j, s)

def State.fetch (s : State) (core : Nat) (j : CopyJob) (va n : Nat) : Fetched × CopyJob × State :=
  if va ≥ 2 ^ 64 then (.bad ⟨9, 0xFF, 0⟩, j, s) else s.fetchVirt (n / 65536 + 2) core j va n

/-- A read for a block continued with its bytes; the copy waits or has faulted where it answers none. -/
def onBytes (core : Nat) (p : Progress) (r : Fetched × CopyJob × State) (f : List PByte → Progress → Option (List PByte) × Progress) :
    Option (List PByte) × Progress :=
  match r with
  | (.wait, j, s) => (none, { p with s := s, j := j, on := false })
  | (.bad e, j, s) => (none, { p with s := s.raiseJob core j e.code e.addr, j := j, on := false })
  | (.bytes bs, j, s) => f bs { p with s := s, j := j }

/-- A side-table header that breaks R173. -/
def tableBad (bs : List Byte) : Bool := fld (leAt bs 0 8) 56 8 ≠ 0 || leAt bs 0 8 % 4096 ≠ 0 || leAt bs 12 4 ≠ 0

/-- The side-table header read once for a copy and kept with it: `none` where the copy has to wait or has faulted, the
progress saying which (R173). Poison in it stops a load, and a commit copy by R520; a plain store goes on with its bytes (DESIGN CHOICE,
log 130). -/
def readTable (core : Nat) (p : Progress) : Option (Nat × Nat) × Progress :=
  match p.j.table with
  | some t => (some t, p)
  | none =>
    match onBytes core p (p.s.fetch core p.j p.j.ckt.toNat 16) (fun bs p => (some bs, p)) with
    | (none, p) => (none, p)
    | (some bs, p) =>
      if anyPoison bs && (p.j.dir = 0 || p.j.tc) then
        (none, { p with s := p.s.raiseJob core p.j 0xC (p.s.recordAddr core p.j p.j.ckt.toNat), on := false })
      else if tableBad (plain bs) then (none, { p with s := p.s.raiseJob core p.j 0xB 0, on := false })
      else
        let t := (leAt (plain bs) 0 8, leAt (plain bs) 8 4)
        (some t, { p with j := { p.j with table := some t, buf := [] } })

/-- The index of a block in its side table; none below TBASE or at or above NBLK (R173). -/
def tableIndex (t : Nat × Nat) (va : Nat) : Option Nat :=
  if va < t.1 then none
  else
    let i := (va - t.1) / 4096
    if i < t.2 then some i else none

/-! ## Packed weights (R175 to R179) -/

/-- The bits of a payload, most significant bit of each byte first (R178). -/
def bitStream (bs : List Byte) : List Bool := bs.flatMap (fun b => (List.range 8).map (fun i => b.getLsbD (7 - i)))

/-- n bits read, most significant first; none where the limit is reached. -/
def getBits : Nat → List Bool → Option (Nat × List Bool)
  | 0, st => some (0, st)
  | _ + 1, [] => none
  | n + 1, b :: st => (getBits n st).map (fun r => (b2n b * 2 ^ n + r.1, r.2))

/-- Exponent and mantissa bits of EFMT (R176). -/
def packFmt (e : Nat) : Nat × Nat := if e = 0 then (4, 3) else if e = 1 then (5, 2) else if e = 2 then (8, 7) else (5, 10)

/-- A packed header: format, block count, offsets, and symbols with their lengths. -/
structure PackHdr where
  efmt : Nat
  nblk : Nat
  otab : Nat
  data : Nat
  syms : List (Nat × Nat)
  deriving DecidableEq, Repr

/-- A header by R175, none where R176 does not hold. -/
def packHeader (bs : List Byte) : Option PackHdr :=
  let n := leAt bs 3 1
  let syms := (List.range n).map (fun i => (leAt bs (64 + 2 * i) 1, fld (leAt bs (65 + 2 * i) 1) 0 4))
  let e := fld (leAt bs 2 1) 0 4
  let ok := leAt bs 0 2 = 1 && e ≤ 3 && 1 ≤ n && n ≤ 64
    && (syms.map Prod.fst).eraseDups.length = n
    && syms.all (fun x => x.1 < 2 ^ (packFmt e).1 && 1 ≤ x.2 && x.2 ≤ 15)
    && (syms.map (fun x => 2 ^ (15 - x.2))).sum ≤ 2 ^ 15
  if ok then some { efmt := e, nblk := leAt bs 4 4, otab := leAt bs 8 8, data := leAt bs 16 8, syms := syms } else none

/-- The canonical codes: symbol, length and code (R176). -/
def packCodes (syms : List (Nat × Nat)) : List (Nat × Nat × Nat) :=
  ((List.range 15).foldl (fun (acc : Nat × List (Nat × Nat × Nat)) i =>
    let r := syms.foldl (fun (acc : Nat × List (Nat × Nat × Nat)) x =>
      if x.2 = i + 1 then (acc.1 + 1, acc.2 ++ [(x.1, i + 1, acc.1)]) else acc) acc
    (2 * r.1, r.2)) (0, [])).2

/-- One code read: at most n more bits, after len bits of value code. -/
def readSym (codes : List (Nat × Nat × Nat)) : Nat → Nat → Nat → List Bool → Option (Nat × List Bool)
  | 0, _, _, _ => none
  | _ + 1, _, _, [] => none
  | n + 1, len, code, b :: st =>
    let code := 2 * code + b2n b
    match codes.find? (fun c => c.2.1 = len + 1 && c.2.2 = code) with
    | some c => some (c.1, st)
    | none => readSym codes n (len + 1) code st

/-- The elements decoded one after another; zero says which the bitmap marks (R178). -/
def decodeElems (h : PackHdr) (codes : List (Nat × Nat × Nat)) : List Bool → List Bool → Option (List Nat × List Bool)
  | [], st => some ([], st)
  | true :: z, st => (decodeElems h codes z st).map (fun r => (0 :: r.1, r.2))
  | false :: z, st =>
    let (eb, mb) := packFmt h.efmt
    match readSym codes 15 0 0 st with
    | none => none
    | some (sym, st) =>
      match getBits (1 + mb) st with
      | none => none
      | some (v, st) =>
        let e := (v / 2 ^ mb) * 2 ^ (eb + mb) + sym * 2 ^ mb + v % 2 ^ mb
        (decodeElems h codes z st).map (fun r => (e :: r.1, r.2))

/-- decode_block of R178; none for a decode error. -/
def decodeBlock (h : PackHdr) (mode : Nat) (payload : List Byte) : Option (List Byte) :=
  if mode = 0 then some payload
  else
    let size := if h.efmt ≤ 1 then 1 else 2
    let n := 4096 / size
    let st := bitStream payload
    if mode = 2 && st.length < n then none
    else
      let zero := if mode = 2 then st.take n else (List.range n).map (fun _ => false)
      let st := if mode = 2 then st.drop n else st
      match decodeElems h (packCodes h.syms) zero st with
      | none => none
      | some (es, rest) => if rest.any id then none else some (es.flatMap (fun e => leBytes size e))

/-- What is known of a raw block of a packed tensor: its header, the coding of its payload with its virtual address and
length, and whether what says so is poisoned. -/
structure Packed where
  hdr : PackHdr
  mode : Nat
  va : Nat
  len : Nat

/-- Where raw block n of the packed tensor at MADDR lies (R175, R177, R179). Poison in what says so leaves the block poisoned;
`none` in the second place says that it is. -/
def packedAt (core : Nat) (p : Progress) (n : Nat) : Option (Option Packed) × Progress :=
  let bad := fun (p : Progress) => ((none : Option (Option Packed)), ({ p with s := p.s.raiseJob core p.j 0xB 0, on := false } : Progress))
  let read := fun (p : Progress) (va n : Nat) => onBytes core p (p.s.fetch core p.j va n) (fun bs p => (some bs, p))
  let base := p.j.maddr.toNat
  match read p base 256 with
  | (none, p) => (none, p)
  | (some hb, p) =>
    if anyPoison hb then (some none, p)
    else match packHeader (plain hb) with
      | none => bad p
      | some h =>
        if n ≥ h.nblk then bad p
        else match read p (base + h.otab % 2 ^ 56 + 8 * n) 8 with
          | (none, p) => (none, p)
          | (some eb, p) =>
            let e := ofLe (plain eb)
            let mode := fld e 37 2
            let nu := fld e 32 5
            if anyPoison eb then (some none, p)
            else if mode = 3 || (mode = 0 && nu ≠ 31) then bad p
            else (some (some { hdr := h, mode := mode, va := base + h.data % 2 ^ 56 + fld e 0 32 * 128, len := (nu + 1) * 128 }), p)

/-! ## Blocks (R167, R172 to R174, R178) -/

/-- The bytes of the block that begins at byte k of a load with CK or DEC; a packed block whose source is poisoned lands
poisoned (R164, R429). -/
def blockBytes (core : Nat) (p : Progress) (k : Nat) : Option (List PByte) × Progress :=
  let dead : List PByte := List.replicate 4096 (0, true)
  if !p.j.dec then onBytes core p (p.s.fetch core p.j (p.j.memVa k) 4096) (fun bs p => (some bs, p))
  else match packedAt core p (p.j.fblk + k / 4096) with
    | (none, p) => (none, p)
    | (some none, p) => (some dead, p)
    | (some (some x), p) => onBytes core p (p.s.fetch core p.j x.va x.len) (fun pb p =>
        if anyPoison pb then (some dead, p)
        else match decodeBlock x.hdr x.mode (plain pb) with
          | none => (none, { p with s := p.s.raiseJob core p.j 0xB 0, on := false })
          | some out => (some (clean out), p))

/-- The virtual range that a block comes from: its own 4 KiB, or the payload of a packed one (R174, R177). -/
def blockSource (core : Nat) (p : Progress) (k : Nat) : Nat × Nat :=
  if !p.j.dec then (p.j.memVa k, 4096)
  else match (packedAt core p (p.j.fblk + k / 4096)).1 with
    | some (some x) => (x.va, x.len)
    | _ => (p.j.maddr.toNat, 256)

/-- A block that fails its checksum: the 4 KiB blocks of a restorable set that it comes from are restored, and the copy holds
it; any other mismatch faults (R174, R431, R433). -/
def blockFails (core : Nat) (p : Progress) (k : Nat) : Progress :=
  let (va, n) := blockSource core p k
  let hits := (List.range ((va + n - 1) / 4096 - va / 4096 + 1)).filterMap (fun i =>
    match (p.s.copyTranslate core p.j .read (if i = 0 then va else (va / 4096 + i) * 4096)).1 with
    | .ok h => some h.pa
    | .error _ => none)
  let mine := hits.filter (fun pa => (p.s.restorable pa).isSome)
  if mine ≠ [] then { p with s := mine.foldl (fun (s : State) pa => s.startRestore pa true) p.s, j := { p.j with buf := [] }, on := false }
  else
    let pa := hits.headD 0
    { p with s := (p.s.setPoisoned pa).raiseJob core p.j 0xD pa, on := false }

/-- One block of a load with CK or DEC: fetched, decoded and verified (R172 to R174, R178, R431). A poisoned block does not
verify. -/
def loadBlock (core : Nat) (p : Progress) (k : Nat) : Progress :=
  let done := fun (p : Progress) (bs : List PByte) => ({ p with acc := p.acc ++ bs } : Progress)
  if !p.on then p
  else if !p.j.ck then
    match blockBytes core p k with
    | (some bs, p) => done p bs
    | (none, p) => p
  else
    match readTable core p with
    | (none, p) => p
    | (some t, p) =>
      match (if p.j.dec then (if p.j.fblk + k / 4096 < t.2 then some (p.j.fblk + k / 4096) else none) else tableIndex t (p.j.memVa k)) with
      | none => { p with s := p.s.raiseJob core p.j 0xB 0, on := false }
      | some i =>
        match blockBytes core p k with
        | (none, p) => p
        | (some bs, p) =>
          match onBytes core p (p.s.fetch core p.j (p.j.ckt.toNat + 16 + 4 * i) 4) (fun c p => (some c, p)) with
          | (none, p) => p
          | (some c, p) =>
            if anyPoison c then
              { p with s := p.s.raiseJob core p.j 0xC (p.s.recordAddr core p.j (p.j.ckt.toNat + 16 + 4 * i)), on := false }
            else if !anyPoison bs && ofLe (plain c) = crc32c (plain bs) then done p bs
            else blockFails core p k

/-- One step of a load with CK or DEC, to byte e: its blocks land and count once every one of them has verified. -/
def State.blockLoad (s : State) (core : Nat) (j : CopyJob) (e : Nat) : State :=
  let n := (e - j.landed) / 4096
  let p := (List.range n).foldl (fun p i => loadBlock core p (j.landed + 4096 * i)) ({ s := s, j := j, on := true } : Progress)
  if !p.on then p.s.putJob core p.j
  else
    let s := (List.range n).foldl (fun (s : State) i =>
      s.landBytes core p.j (j.landed + 4096 * i) ((p.acc.drop (4096 * i)).take 4096)) p.s
    s.putJob core { p.j with landed := e, buf := [] }

/-- A side-table entry written whole: in this module's HBM it replaces the poison of its granule (R173). -/
def State.putCrc (s : State) (core : Nat) (j : CopyJob) (h : Hit) (crc : List Byte) : State :=
  if !inHbm h.pa then s.copyWrite core j h (clean crc)
  else s.copyWrite core j { h with pa := alignDown h.pa 16 } (s.wholeGranule h.pa crc)

/-- The blocks of one step of a store with CK, each with its data and its side-table entry: where both go, or the cause of the
fault with the rules of R173 checked. -/
def State.storeHits (s : State) (core : Nat) (j : CopyJob) (t : Nat × Nat) : List Nat → Except Cause (List (Nat × Hit × Hit)) × State
  | [] => (.ok [], s)
  | k :: r =>
    match tableIndex t (j.memVa k) with
    | none => (.error ⟨0xB, 0xFF, 0⟩, s)
    | some i =>
      match s.copyTranslate core j .write (j.memVa k) with
      | (.error c, s) => (.error c, s)
      | (.ok h, s) =>
        match s.copyTranslate core j .write (j.ckt.toNat + 16 + 4 * i) with
        | (.error c, s) => (.error c, s)
        | (.ok x, s) =>
          match s.storeHits core j t r with
          | (.error c, s) => (.error c, s)
          | (.ok hs, s) => (.ok ((k, h, x) :: hs), s)

/-- One step of a store with CK, to byte e: each block's side-table entry and then its bytes, so that a final flag leaves last
(R224), counted once both are performed (R167, R173). -/
def State.blockStore (s : State) (core : Nat) (j : CopyJob) (e : Nat) : State :=
  match readTable core { s := s, j := j, on := true } with
  | (none, p) => p.s.putJob core p.j
  | (some t, p) =>
    let j := p.j
    let s := p.s
    match s.storeHits core j t ((List.range ((e - j.landed) / 4096)).map (fun i => j.landed + 4096 * i)) with
    | (.error c, s) => s.raiseJob core j c.code c.addr
    | (.ok bl, s) =>
      if s.writesWait core j e (bl.flatMap (fun b => [(b.1, 4096, b.2.1), (b.1, 4, b.2.2)])) then s.putJob core j
      else match bl.find? (fun b => inPeer b.2.1.pa && anyPoison (s.source core j (j.lsOff b.1) 4096)) with
        | some b => s.raiseJobOf core j 0xC (j.lsOff b.1 + firstBad (s.source core j (j.lsOff b.1) 4096)) j.inst
        | none =>
          let (txs, owed, s) := bl.foldl (fun (acc : List Nat × Nat × State) b =>
            let (txs, owed, s) := acc
            let bs := s.source core j (j.lsOff b.1) 4096
            let crc := leBytes 4 (crc32c (plain bs))
            let (t1, s) := if inPeer b.2.2.pa then
                s.writePeer j.inst b.2.2.leaf b.2.2.pa (j.tag core) crc false
                  (fun _ _ => .copy core j.id b.1 0) (BitVec.ofNat 16 j.idx)
              else ([], s.putCrc core j b.2.2 crc)
            let (t2, s) := if inPeer b.2.1.pa then s.copySend core j (b.1, 4096, b.2.1) (plain bs) false
              else ([], s.copyWrite core j b.2.1 bs)
            if t1 = [] && t2 = [] then (txs, owed, s.countFor core j 4096) else (txs ++ t1 ++ t2, owed + 4096, s)) ([], 0, s)
          s.sentTo core { s.keepSector core j j.lsOff e with remote := txs, owed := owed }

/-- Whether the rule of FIN still has to be checked and fails: MADDR leads to a peer (R160, R517). -/
def State.finFault (s : State) (core : Nat) (j : CopyJob) : Option Cause × State :=
  if !j.fin || j.landed ≠ 0 then (none, s)
  else match s.copyTranslate core j .write j.maddr.toNat with
    | (.error e, s) => (some e, s)
    | (.ok h, s) => (if inPeer h.pa then none else some ⟨0xB, 0xFF, 0⟩, s)

/-- A running copy moved on by n bytes, to the next point where a step may end (R162 to R174). A load, and a store with CK,
take no step while a peer has not answered the last one. -/
def State.moveCopy (s : State) (core : Nat) (j : CopyJob) (n : Nat) : State :=
  match s.finFault core j with
  | (some e, s) => s.raiseJob core j e.code e.addr
  | (none, s) =>
    let e := j.cut (j.landed + n)
    if n = 0 || j.total ≤ j.landed || (j.run j.landed e).any (fun r => s.walkWaits core j.inst (j.memVa r.1)) || (j.remote ≠ [] && (j.dir = 0 || j.ck)) then s
    else if j.dir = 2 then s.pushStep core j e
    else if j.ck || j.dec then (if j.dir = 0 then s.blockLoad core j e else s.blockStore core j e)
    else if j.dir = 0 then s.loadStep core j e
    else s.storeStep core j e

/-- COPY_DATA_LANDED (R162 to R174, R429, R430): the next bytes of a running copy arrive; a killed launch's copies are
abandoned (R166). -/
def execCopyDataLanded (core id len : Nat) (s : State) : Out :=
  onUnit (core < 8192) (match s.job core id with
    | none => s
    | some j =>
      if ((s.launch j.inst j.idx).getD {}).fault.isSome || j.tc || s.err.fatal || s.therm.tripped || !s.board.rails then s
      else s.moveCopy core j len)

/-! ## Issue -/

/-- What a copy is for a claim: its flags, counter, descriptor bytes and the values of its selected scalar registers (R63). -/
def copyKey (x : Group) (d : List Byte) (w w1 : Nat) : CopyKey :=
  { flags := fld w 12 4, ctr := fld w1 32 5, desc := d,
    src := if bit w1 24 then x.s (fld w1 18 6) else 0, dst := if bit w1 31 then x.s (fld w1 25 6) else 0 }

/-- Whether every page of a load's source is in the core's translation cache, lies in HBM and permits the read (R60). -/
def State.sourceReady (s : State) (core : Nat) (j : CopyJob) : Bool :=
  (j.run 0 j.total).all (fun e =>
    let va := j.memVa e.1
    (s.cachedLeaf core j.inst va).isSome
      && (match (s.translate core j.inst .read va).1 with
          | .ok pa _ => inHbm pa
          | .bad _ _ => false))

/-- What the read of a staged copy comes to: its bytes, or none where it has to wait. -/
def State.stagedBytes (s : State) (core : Nat) (j : CopyJob) : Option (List PByte) × State :=
  match s.copyHits core j .read (j.run 0 j.total) with
  | (.error _, s) => (none, s)
  | (.ok hits, s) =>
    if hits.any (fun h => s.heldRun h.2.2.pa h.2.1) then (none, s)
    else
      let (bs, s1) := hits.foldl (fun (acc : List PByte × State) h =>
        let (b, s) := acc.2.hbmRead { s.accOf j.inst h.2.2.leaf j.bulk with pinPage := false } h.2.2.pa h.2.1
        (acc.1 ++ b, s)) ([], s)
      match hits.findSome? (fun h => s.mend h.2.2.pa ((bs.drop h.1).take h.2.1)) with
      | some s => (none, s)
      | none => (some bs, hits.foldl (fun (s : State) h => s.notePoison h.2.2.pa ((bs.drop h.1).take h.2.1)) s1)

/-- A staged copy claimed: its bytes land and count at the issue, as if they had been fetched then; where they have not been
staged yet they are read now, and where that has to wait the copy is performed afresh (R63). -/
def State.claim (s : State) (core : Nat) (t : Staged) (j : CopyJob) (fresh : State → State) : State :=
  let s := s.updCore core (fun c => { c with staged := c.staged.erase t })
  match (if t.landed then (some t.data, s) else s.stagedBytes core t.job) with
  | (some bs, s) => (j.run 0 j.total).foldl (fun (s : State) e => s.landBytes core j e.1 ((bs.drop e.1).take e.2)) s
  | (none, s) => fresh s

/-- Bytes of a group's held commit copies (R191). -/
def commitBytes (l : List CopyJob) : Nat := (l.map CopyJob.total).sum

/-- A copy that enters the engine. -/
def State.startCopy (s : State) (core : Nat) (j : CopyJob) : State :=
  s.updCore core (fun c => { c with copies := c.copies ++ [{ j with id := c.nextCopy }], nextCopy := c.nextCopy + 1 })

/-- cp.async: the descriptor checked, then a held commit copy (R191), a claimed staged copy (R63) or a new entry of the
engine (R93, R94, R162). -/
def execCpAsync (core slot : Nat) (w w1 : BitVec 64) (s : State) : Out :=
  onGroup core slot (s.issue core slot .cpAsync w w1 (fun s x =>
    if !lsOk (s.launchOf x) slot (fld w1.toNat 0 18) 64 then s.raise core slot 6 0xFF
    else
      let (j, d) := s.buildJob core slot x w.toNat w1.toNat x.pc
      let code := s.checkJob x j d
      if code ≠ 0 then s.raise core slot code 0xFF
      else if j.tc && (x.commits.length = 8 || commitBytes (x.commits ++ [j]) > 524288) then s.raise core slot 0xB 0xFF
      else
        let s := if j.dir = 1 then s.dropStaged core slot else s
        if j.tc then
          (s.updCore core (fun c => { c with nextCopy := c.nextCopy + 1 })).stepGroup core slot 16
            { x with commits := x.commits ++ [{ j with id := (s.core core).nextCopy }] }
        else
          match (s.core core).staged.find? (fun t => t.slot = slot && t.key = copyKey x d w.toNat w1.toNat) with
          | some t => (s.claim core t j (fun s => s.startCopy core j)).advance core slot 16
          | none => (s.startCopy core j).advance core slot 16))

/-! ## Run-ahead (R59 to R64) -/

/-- The scalar register that an instruction of the path writes. -/
def writesScalar (r : Row) (w : Nat) : Option Nat :=
  match r with
  | .scalarInteger | .scalarF32 | .scalarIntegerImmediate | .movHi | .ctrRd | .rdsr | .call | .laneGet | .fold | .unpin => some (wD w)
  | .maskLogic => if wFN w = 6 then some (wD w) else none
  | .tally => if 2 ≤ wFN w && wFN w ≤ 4 then some (wD w) else none
  | .ld | .lds => if mS w then some (wD w) else none
  | _ => none

/-- Whether a copy found on the path may be staged (R60); one that would fault when issued is not (R62). -/
def State.eligible (s : State) (core : Nat) (x : Group) (j : CopyJob) (d : List Byte) (w w1 : Nat) (written : List Nat) (stored : Bool) : Bool :=
  let staged := (s.core core).staged
  j.dir = 0 && !j.ck && !j.dec && !j.mc && !j.tc && j.total ≤ 4096 && !stored
    && !(bit w1 24 && written.contains (fld w1 18 6)) && !(bit w1 31 && written.contains (fld w1 25 6))
    && legal .cpAsync (s.launchOf x).v w w1 = 0
    && s.checkJob x j d = 0 && staged.length < 8 && (staged.map (fun t => t.job.total)).sum + j.total ≤ 16384
    && s.sourceReady core j

/-- Where the path goes after an instruction that the front end does not execute: on an unconditional branch its target, on a
jump or call the address in its register, unless an instruction of the path writes it; any other instruction is passed. -/
def pathNext (x : Group) (written : List Nat) (r : Row) (w : Nat) (pc : Word) : Option Word :=
  match r with
  | .br => some (relAddr pc (bTGT w))
  | .jmp | .call =>
    let a := addr56 (x.s (wA w))
    if written.contains (wA w) || a.toNat % 8 ≠ 0 then none else some a
  | _ => some (pc + (if bit w 7 then 16 else 8))

/-- The next word of the path: the one fetched, or the first of those the front end reads from lines not fetched yet. -/
def State.pathWord (s : State) (core : Nat) (path : List Word) (pc : Word) : Option (Word × List Word) :=
  match (s.core core).wordAt pc with
  | some w => some (w, path)
  | none => path.head?.map (fun w => (w, path.tail))

/-- The scan of the predicted path from an address: at most n more instructions (R59 to R61; DESIGN CHOICE, log 143: the descriptor as an
operand). -/
def State.scan : Nat → State → Nat → Nat → Group → List Nat → Bool → List Word → Word → State
  | 0, s, _, _, _, _, _, _, _ => s
  | n + 1, s, core, slot, x, written, stored, path, pc =>
    match s.pathWord core path pc with
    | none => s
    | some (w, path) =>
      match rowOf w.toNat with
      | none => s
      | some r =>
        match pathNext x written r w.toNat pc with
        | none => s
        | some next =>
          if endsRunAhead r w.toNat then s
          else
            let (w1v, path) := if bit w.toNat 7 then (s.pathWord core path (pc + 8)).getD (0, path) else (0, path)
            let w1 := w1v.toNat
            let written := match writesScalar r w.toNat with
              | some d => d :: written
              | none => written
            let stored := stored || r = .sts || r = .mmaDrain
            if r = .cpAsync && lsOk (s.launchOf x) slot (fld w1 0 18) 64 then
              let (j, d) := s.buildJob core slot x w.toNat w1 0
              if j.dir = 1 then s
              else if s.eligible core x j d w.toNat w1 written stored then
                (s.updCore core (fun c => { c with staged := c.staged ++ [{ slot := slot, key := copyKey x d w.toNat w1, job := j, landed := false, data := [] }] })).scan
                  n core slot x written stored path next
              else s.scan n core slot x written (stored || j.dir = 2) path next
            else s.scan n core slot x written stored path next

/-- Whether a word is the conditional branch at which a group stands (R59). That its mask waits for an incomplete instruction
is a matter of timing (log 95). -/
def State.aheadAt (s : State) (core : Nat) (x : Group) (w : Word) : Bool :=
  (s.core core).wordAt x.pc = some w && rowOf w.toNat = some .br && wKM w.toNat ≠ 0

/-- Whether a group waits for a peer's answer to an acquire: no copy source may be read before it (R82, R210). -/
def State.acquiring (s : State) (core slot : Nat) : Bool :=
  s.ael.outst.any (fun o => match o.owner with
    | .load c t _ _ _ _ _ acq => c = core && t = slot && acq ≠ 0
    | .atomic c t _ _ _ _ _ acq _ => c = core && t = slot && acq ≠ 0
    | _ => false)

/-- RUN_AHEAD: a group stalled at a conditional branch looks along the fall-through path of a forward branch, or the target of
a backward one, and copies are staged; nothing architectural changes. Once begun at a branch it does not begin there again, and
at a second branch the copies of the first are discarded (R59 to R61, R63, R64). -/
def execRunAhead (core slot : Nat) (w : BitVec 64) (path : List (BitVec 64)) (s : State) : Out :=
  onGroup core slot (match s.group core slot with
    | none => s
    | some x0 =>
      let x := x0.settle
      if !s.aheadAt core x w || (s.launchOf x).rad || x.window = 65 || x.phase ≠ .running || x.active = 0 || x.stopped
          || (s.launchOf x).fault.isSome || !s.coreUp core || s.acquiring core slot then s
      else
        let pc := if bTGT w.toNat > 0 then x.pc + 8 else relAddr x.pc (bTGT w.toNat)
        ((s.dropStaged core slot).setGroup core slot { x with window := 65 }).scan 64 core slot x [] false path pc)

/-- RUN_AHEAD_STAGED: the bytes of a staged copy arrive by non-allocating snooping reads; one that would fault is dropped
(R62). -/
def execRunAheadStaged (core idx : Nat) (s : State) : Out :=
  onUnit (core < 8192) (match (s.core core).staged[idx]? with
    | none => s
    | some t =>
      if t.landed then s
      else if !s.sourceReady core t.job then s.updCore core (fun c => { c with staged := c.staged.erase t })
      else match s.stagedBytes core t.job with
        | (some bs, s) => s.updCore core (fun c => { c with staged := setNth c.staged idx { t with landed := true, data := bs } })
        | (none, s) => s)

/-! ## The barrier watchdog (R52, R432) -/

/-- The virtual ranges that a load copy reads next: its bytes or those of its packed block, and what it needs of its side table. -/
def State.nextReads (s : State) (core : Nat) (j : CopyJob) : List (Nat × Nat) :=
  let data := if j.dec then [blockSource core { s := s, j := j, on := true } j.landed]
    else (j.run j.landed (j.cut (j.landed + 1))).map (fun e => (j.memVa e.1, e.2))
  let entry := match j.table with
    | none => []
    | some t => (if j.dec then some (j.fblk + j.landed / 4096) else tableIndex t (j.memVa j.landed)).toList.map (fun i => (j.ckt.toNat + 16 + 4 * i, 4))
  data ++ (if j.ck then (j.ckt.toNat, 16) :: entry else [])

/-- Whether a group waits as a reader for a restore: the memory instruction at which its active path stands, or a load copy of its task, reads
a line or block that is being restored (R432). -/
def State.waitsRestore (s : State) (core slot : Nat) : Bool :=
  let meets := fun (i va n : Nat) => match (s.translate core i .read va).1 with
    | .ok pa _ => s.restoring pa n
    | .bad _ _ => false
  s.seq.restores ≠ [] && (s.group core slot).any (fun x0 =>
    let x := x0.settle
    ((s.core core).wordAt x.pc).any (fun w => ((rowOf w.toNat).any (fun r => r = .ld || r = .st || r = .atom))
      && (memLanes x w.toNat).any (fun l => meets x.inst (memAddr x w.toNat l) (tySize (mTY w.toNat))))
    || (s.core core).copies.any (fun j => j.dir = 0 && j.slot = slot && j.inst = x.inst && j.idx = x.idx && j.task = x.task
      && (s.nextReads core j).any (fun e => meets j.inst e.1 e.2)))

/-- The watchdog of a slot expires at 2^W cycles from the first parked thread, but not while the group waits for a restore (R52, R432). The fault
record holds the group's pc, since no instruction raises it (R57; DESIGN CHOICE, log 112). -/
def execBarrierStall (core slot : Nat) (s : State) : Out :=
  onGroup core slot (match s.group core slot with
    | none => s
    | some x =>
      match x.barSince with
      | none => s
      | some c =>
        if s.cycles core - c + x.barSaved ≥ 2 ^ (s.launchOf x).wdog && !x.stopped && x.phase = .running && !s.waitsRestore core slot then
          s.raise core slot 4 0xFF
        else s)

end Sys2Proof.Machine
end

