-- ==== Sys2Proof/Machine/Fencing.lean ====
section
/-! DEFINITION. What several chapters share about taking units out of use: mailbox responses, sector clocks, tasks stopped
and re-queued, core loss, saves and restores, fences of cores, clusters and sectors, and control commands with their
drains (R27 to R30, R194, R195, R197, R298, R300, R355, R411, R412, R438). -/

namespace Sys2Proof.Machine
open Sys2Proof

/-! ## Mailbox responses (R354, R355) -/

/-- The mailbox whose command an entry of the list of control commands is. -/
def Drain.mailbox (d : Drain) : Option Nat :=
  match d.why with
  | .mailbox m _ _ => some m
  | _ => none

/-- The running command of a mailbox ends: payload, header and MB.DONE written, the response kept among the last 16, the
mailbox-done event, BUSY clear. -/
def State.respond (s : State) (m status : Nat) (payload : List Byte) : State :=
  match (s.inst m).mb.running with
  | none => s
  | some r =>
    let a : MbResponse := { token := r.token, status := BitVec.ofNat 16 status, payload := payload }
    let s := s.updInst m (fun x => { x with mb := { x.mb with
      rspPayload := payload ++ x.mb.rspPayload.drop payload.length
      rspToken := r.token
      rspStatus := a.status
      rspLen := BitVec.ofNat 16 payload.length
      done := r.token
      running := none
      cache := (a :: x.mb.cache).take 16 } })
    let s := { s with drains := s.drains.filter (fun d => d.mailbox ≠ some m) }
    if (s.inst m).ring.en then s.event m (s.record 3 4 0 0 r.token.toNat) else s

/-! ## Units -/

/-- The cluster and the sector of a core named in physical form (R14, R22, R32). -/
def physicalPlace (u : BitVec 32) : Option (Nat × Nat) :=
  let w := u.toNat
  let n := fld w 25 3 * 32 + fld w 24 1 * 16 + fld w 20 4
  if fld w 28 4 = 1 && bit w 19 then some (n, n / 16 * 8 + 2 * (n % 16 / 4) + fld w 12 7 / 36) else none

/-- The instances that own a cluster with a core in a unit (R27). -/
def State.ownersOf (s : State) (u : BitVec 32) : List Nat :=
  (((unitCores u).map clusterOf ++ (physicalPlace u).toList.map Prod.fst).eraseDups.filterMap (fun n => (s.cluster n).owner)).eraseDups

/-- Whether two units overlap (R29): a core or a pseudo-channel lies in the units that contain it. -/
def unitsOverlap (u v : BitVec 32) : Bool :=
  let within := fun (u v : BitVec 32) => (physicalPlace u).any (fun p => v = clusterUnit p.1 || v = sectorUnit p.2)
    || (fld u.toNat 28 4 = 4 && fld v.toNat 28 4 = 0xA && fld u.toNat 25 3 = fld v.toNat 25 3 && fld u.toNat 24 1 = fld v.toNat 24 1
      && fld u.toNat 20 4 = fld v.toNat 20 4)
  u = v || (unitCores u).any (fun g => (unitCores v).contains g) || within u v || within v u

/-- ID.CLUSTER_MAP of a cluster (R18). -/
def State.clusterMapOf (s : State) (n : Nat) : BitVec 32 :=
  (NMap.find s.board.clusterMap n).getD (BitVec.ofNat 32 ((NMap.at s.fuses.clusterMap n 0).toNat + 2 ^ 28))

/-- The logical core that a physical position of a cluster serves: none for a spare not in use and for a core that a
spare replaces (R14, R15, R18). -/
def State.logicalOf (s : State) (n p : Nat) : Option Nat :=
  let m := (s.clusterMapOf n).toNat
  let r := p / 9
  let c := p % 9
  if r > 7 then none
  else if c = 8 then
    if r % 2 = 1 && bit m (24 + r / 2) then some (fld m (6 * (r / 2)) 6) else none
  else
    let l := 8 * r + c
    if bit m (24 + r / 2) && fld m (6 * (r / 2)) 6 = l then none else some l

/-- The physical position that serves a logical core (R14, R15). -/
def State.physicalOf (s : State) (n l : Nat) : Nat :=
  let m := (s.clusterMapOf n).toNat
  let r := l / 8
  if bit m (24 + r / 2) && fld m (6 * (r / 2)) 6 = l then 9 * (2 * (r / 2) + 1) + 8 else 9 * r + l % 8

/-- A unit ID of a core in physical form turned into its logical form; other units stay as they are (R35). -/
def State.logicalUnit (s : State) (u : BitVec 32) : Option (BitVec 32) :=
  let w := u.toNat
  if fld w 28 4 = 1 && bit w 19 then
    let n := fld w 25 3 * 32 + fld w 24 1 * 16 + fld w 20 4
    (s.logicalOf n (fld w 12 7)).map (fun l => coreUnit (n * 64 + l))
  else some u

/-- An event of a control command: begun or ended; 1 reset, 2 gating, 3 test (R27). Those of a test go to instance 0 as well (R482). -/
def State.controlEvent (s : State) (u : BitVec 32) (ended : Bool) (kind : Nat) : State :=
  s.eventTo (if kind = 3 then (0 :: s.ownersOf u).eraseDups else s.ownersOf u) (s.record 5 (if ended then 2 else 1) 0 u kind)

/-! ## Sector clocks (R409 to R411) -/

/-- The row of R411 that applies to a sector: MODE, STEP and clock in MHz. -/
def State.sectorTarget (s : State) (n : Nat) : Nat × Nat × Nat :=
  let k := s.sectorClk n
  let failed := ((List.range 4).filter (fun j => (s.sensor (4 * n + j)).fail)).length
  if s.sec.lockInForce then (7, 31, 250)
  else if k.pretrip then (6, 31, 500)
  else if k.gate then (5, 31, 0)
  else if k.test then (4, 0, 1000)
  else if s.foehn.floorhold || 2 ≤ failed || s.foehn.calInvalid then (3, 0, 1000)
  else
    let m := min k.choice (min k.cap.toNat k.ceil)
    (if k.choice ≤ m then 0 else if k.cap.toNat ≤ m then 1 else 2, m, 1000 + 25 * m)

/-- The core rail voltage of a sector for a clock: the fused point of its step, and below the floor clock or with the clock stopped that of step
0 (R410; DESIGN CHOICE, log 139). -/
def railFor (n mhz : Nat) : Nat := Config.vfPoint n ((mhz - 1000) / 25)

/-- The clock that R411 gives put into effect, with the voltage that a fall leaves to step down (R410). -/
def State.applyClock (s : State) (n : Nat) : State :=
  let (mode, step, mhz) := s.sectorTarget n
  s.updSectorClk n (fun k => { k with mode := BitVec.ofNat 3 mode, step := step, mhz := mhz, ordered := none, mv := railFor n mhz })

/-- A change of clock ordered where R411 gives another clock than the one in effect; for a higher one the voltage rises first (R410). -/
def State.reclock (s : State) (n : Nat) : State :=
  let (mode, _, mhz) := s.sectorTarget n
  s.updSectorClk n (fun k =>
    if mhz = k.mhz then { k with mode := BitVec.ofNat 3 mode, ordered := none }
    else { k with ordered := some mhz, mv := if k.mhz < mhz then railFor n mhz else k.mv })

/-- Below-floor entered or left: 1 pre-trip, 2 lock (R411). -/
def State.floorEvent (s : State) (n : Nat) (left : Bool) (why : Nat) : State :=
  s.eventTo (0 :: s.ownersOf (sectorUnit n)).eraseDups (s.record 5 (if left then 5 else 4) 0 (sectorUnit n) why)

/-! ## Slots and cores emptied (R28, R56, R166, R194) -/

/-- A slot freed: its counters and staged copies go, its open batches close once its store copies have sent their last bytes. The copies
and matrix operations of its task that are still under way go on. -/
def State.freeSlot (s : State) (g slot : Nat) : State :=
  let t := s.updCore g (fun c => { c with
    slots := NMap.del c.slots slot
    ctrs := c.ctrs.filter (fun e => e.1 / 32 ≠ slot)
    staged := c.staged.filter (fun t => t.slot ≠ slot) })
  match s.group g slot with
  | some x => t.closeEnded g slot x.inst x.idx x.task
  | none => t

/-- Copies and matrix operations of a core dropped, and the batches that this leaves ended closed (R28, R56, R386). -/
def State.endCopies (s : State) (g : Nat) (copy : CopyJob → Bool) (mat : MatOp → Bool) : State :=
  let t := s.updCore g (fun c => { c with copies := c.copies.filter (fun j => !copy j), mats := c.mats.filter (fun m => !mat m) })
  ((s.core g).copies.filter copy).foldl (fun (s : State) j => s.closeEnded g j.slot j.inst j.idx j.task) t

/-- A task that is stopped before its commit point leaves its slot: its copies, matrix operations and held commits go too. -/
def State.clearSlot (s : State) (g slot : Nat) : State :=
  match s.group g slot with
  | none => s
  | some x =>
    let s := (s.freeSlot g slot).endCopies g
      (fun j => j.slot = slot && j.inst = x.inst && j.idx = x.idx && j.task = x.task)
      (fun m => m.slot = slot && m.inst = x.inst && m.idx = x.idx && m.task = x.task)
    s.updCluster (clusterOf g) (fun c => { c with
      commitWait := c.commitWait.filter (fun e => e.2 ≠ (g, slot))
      commitBuf := c.commitBuf.filter (fun r => !(r.core = g && r.slot = slot && !r.committed)) })

/-- A task put back at the front of its cluster's queue (R194, R197, R199). -/
def State.requeue (s : State) (g : Nat) (x : Group) : State :=
  let s := s.updLaunch x.inst x.idx (fun l => { l with reexec := min 0xFFFFFFFF (l.reexec + 1) })
  s.updCluster (clusterOf g) (fun c => { c with
    queue := { inst := x.inst, idx := x.idx, lo := x.task, hi := x.task + 1, requeued := true } :: c.queue
    requeue := c.requeue.add 1 })

/-- A kill of a launch that no running group of it caused: cause, unit, PC and slot of its event (R194, R195, R438). -/
def State.killAt (s : State) (i idx code : Nat) (unit : BitVec 32) (pc : Word) (slot : Nat) : State :=
  s.kill i idx { code := BitVec.ofNat 16 code, unit := unit, beat := s.cad.beat, phase := s.cad.phase, pc := pc, slot := slot, lane := 0xFF }

/-- A mid-task task whose core is lost: re-queued, or its context killed (R194, R195). -/
def State.loseTask (s : State) (g slot : Nat) (logic : Bool) : State :=
  match s.group g slot with
  | none => s
  | some x =>
    let l := s.launchOf x
    let cause := if logic then 0xE else 0xF
    let s := s.clearSlot g slot
    if l.fault.isSome then s
    else if l.pinned then s.killAt x.inst x.idx cause (coreUnit g) x.settle.pc slot
    else
      let n := NMap.at l.losses x.task 0 + 1
      let s := s.updLaunch x.inst x.idx (fun l => { l with losses := NMap.ins l.losses x.task n })
      if n ≥ 4 then
        (s.updLaunch x.inst x.idx (fun l => { l with killStatus := some 0x0103 })).killAt x.inst x.idx cause (coreUnit g) x.settle.pc slot
      else s.requeue g x

/-- What a core loses with its power or reset: local memory, registers, accumulator memory, caches (R28); its cycle count
begins again (R73). -/
def State.wipeCore (s : State) (g : Nat) : State :=
  let base := (s.sectorClk (sectorOf g)).cycles
  let s := (s.endCopies g (fun _ => true) (fun _ => true)).updCore g (fun c => { cycleBase := base, nextCopy := c.nextCopy })
  { s with tlb := s.tlb.filter (fun t => t.agent ≠ g) }

/-- A core lost (R28, R194, R195). -/
def State.coreLost (s : State) (g : Nat) (logic : Bool) : State :=
  (((s.core g).slots.map Prod.fst).foldr (fun slot s => s.loseTask g slot logic) s).wipeCore g

/-- A task stopped without a loss: re-queued, or left to the kill of its launch (R197). -/
def State.stopTask (s : State) (g slot : Nat) : State :=
  match s.group g slot with
  | none => s
  | some x =>
    let s := s.clearSlot g slot
    if (s.launchOf x).fault.isSome then s else s.requeue g x

/-! ## Saves and restores (R297 to R300) -/

/-- The cores that hold groups of a launch. -/
def State.coresWith (s : State) (i idx : Nat) : List Nat :=
  (s.cores.filter (fun e => e.2.slots.any (fun x => x.2.inst = i && x.2.idx = idx))).map Prod.fst

/-- The bytes that the image of a core takes: its groups, and the granules of accumulator memory written (R298). -/
def imageBytes (l : Launch) (groups : Nat) (written : BitVec 128) : Nat :=
  groups * (l.v * 128 + 1856 + l.g + 128) + l.s + 512 * popc 128 written.toNat

/-- B_live of a launch on the cores that hold its groups, or in its saved images (R298). -/
def State.liveBytes (s : State) (l : Launch) : Nat :=
  (if l.saved then l.images.map (fun m => imageBytes l m.slots.length m.accWritten)
   else (s.coresWith l.inst l.idx).map (fun g => imageBytes l (s.core g).slots.length (s.core g).accWritten)).sum

/-- Whether the save area of an instance holds the images of its launches that are saved, those on the way there, and more
that are to be saved (R301). -/
def State.saveFits (s : State) (i : Nat) (ls : List Launch) : Bool :=
  let mine := s.launches.filter (fun l => l.inst = i && (l.saved || l.saveBy.isSome) && !ls.any (fun m => m.idx = l.idx))
  ((mine ++ ls).map s.liveBytes).sum ≤ (NMap.at s.seq.savePages i 0).toNat * 2 ^ 21

/-- Images written to the save area of an instance: where in it a byte of an image stands is not stated, so its bytes become
free ones (R298). -/
def State.markSaved (s : State) (i : Nat) : State :=
  let first := (NMap.at s.seq.saveBase i 0).toNat
  let n := (NMap.at s.seq.savePages i 0).toNat
  let s := s.overwrite (first * 2 ^ 21) ((first + n) * 2 ^ 21)
  let seed := s.clock.free
  { s with
    clock := { s.clock with free := seed + 1 }
    mem := { s.mem with lost := (List.range n).foldl (fun (m : NMap Nat) k =>
      (List.range 8).foldl (fun (m : NMap Nat) e => NMap.ins m (8 * (first + k) + e) seed) m) s.mem.lost } }

/-- The image of a core (R298, R52). -/
def State.imageOf (s : State) (g : Nat) : CoreImage :=
  let c := s.core g
  let now := s.cycles g
  { core := g
    slots := c.slots.map (fun e => (e.1, { e.2 with
      barSaved := e.2.barSaved + (match e.2.barSince with
        | some t => now - t
        | none => 0)
      barSince := e.2.barSince.map (fun _ => 0), window := 0 }))
    ctrs := c.ctrs, ls := c.ls, lsPoison := c.lsPoison, lsSeed := c.lsSeed, acc := c.acc, accPoison := c.accPoison,
    accWritten := c.accWritten }

/-- The groups of a launch taken off their cores, their images kept. Commit copies that wait in a cluster's order go with
their groups (R191, R298). -/
def State.saveLaunch (s : State) (l : Launch) : State :=
  let cs := s.coresWith l.inst l.idx
  let images := cs.map s.imageOf
  let s := cs.foldl (fun (s : State) g =>
    let slots := (s.core g).slots.map Prod.fst
    let s := s.updCore g (fun c => { c with slots := [], ctrs := [], staged := [], l1 := [] })
    s.updCluster (clusterOf g) (fun c => { c with
      commitWait := c.commitWait.filter (fun e => !(e.2.1 = g && slots.contains e.2.2))
      commitBuf := c.commitBuf.filter (fun r => !(r.core = g && slots.contains r.slot && !r.committed)) })) s
  (s.markSaved l.inst).setLaunch { l with images := images, saved := true, saveBy := none }

/-- One core image put back: its groups go on where they stopped (R300). A group that had ended asks again for its commit
reservation. -/
def State.restoreImage (s : State) (l : Launch) (m : CoreImage) : State :=
  let now := s.cycles m.core
  let back := fun (x : Group) => { x with
    barSince := x.barSince.map (fun _ => now)
    phase := if x.phase = .reserved then .ended else x.phase }
  let s := s.updCore m.core (fun c => { c with
    launch := some (l.inst, l.idx), slots := m.slots.map (fun e => (e.1, back e.2)), ctrs := m.ctrs, ls := m.ls,
    lsPoison := m.lsPoison, lsSeed := m.lsSeed, acc := m.acc, accPoison := m.accPoison, accWritten := m.accWritten,
    split := l.c, mats := [], copies := [], staged := [], l1 := [], code := [] })
  (m.slots.filter (fun e => e.2.phase ≠ .running && e.2.commits ≠ [])).foldl (fun (s : State) e => s.askCommit m.core e.1) s

/-- Every image of a launch restored. A core that is absent or fenced kills a pinned launch with cause 0x000F; the groups
of an idempotent launch on it are re-queued (R197, R300). -/
def State.restoreLaunch (s : State) (l : Launch) : State :=
  let gone := fun (m : CoreImage) => s.fencedCore m.core || (s.cluster (clusterOf m.core)).fenced || s.err.secfenced.toNat.testBit (sectorOf m.core)
  let s0 := s.setLaunch { l with images := [], saved := false, saveBy := none }
  match l.images.find? gone with
  | some m =>
    if l.pinned then
      let (slot, pc) := match m.slots with
        | e :: _ => (e.1, e.2.pc)
        | [] => (0, 0)
      s0.killAt l.inst l.idx 0xF (coreUnit m.core) pc slot
    else l.images.foldl (fun (s : State) m =>
      if gone m then m.slots.foldl (fun (s : State) e => s.requeue m.core e.2) s else s.restoreImage l m) s0
  | none => l.images.foldl (fun (s : State) m => s.restoreImage l m) s0

/-! ## Fences of cores, clusters and sectors (R435, R438, R439) -/

/-- Unit-fenced or unit-recovered records. -/
def State.unitRecord (s : State) (code : Nat) (u : BitVec 32) (dests : List Nat) : State :=
  s.errRecord code 0 u (errDetail 0 0xFF 0 0x80 0) (0 :: dests)

/-- A core marked fenced in ERR.CFENCED. -/
def State.markFenced (s : State) (g : Nat) : State :=
  { s with err := { s.err with cfenced := NMap.put 0 s.err.cfenced (g / 64) (NMap.at s.err.cfenced (g / 64) 0 ||| BitVec.ofNat 64 (1 <<< (g % 64))) } }

/-- The launches of a list killed with cause 0x000E by the fence of a cluster (R438). -/
def State.killAll (s : State) (u : BitVec 32) (ls : List Launch) : State :=
  ls.foldl (fun (s : State) l => if l.fault.isSome then s else s.killAt l.inst l.idx 0xE u 0 0) s

/-- A cluster fenced (R438): its cores lost, its L2 written back, its queue kept unless the queue itself failed. -/
def State.fenceCluster (s : State) (n : Nat) (queueError : Bool) : State :=
  let u := clusterUnit n
  let s := (coresOf n).foldl (fun (s : State) g => (s.coreLost g false).markFenced g) s
  let s := s.flushL2 n
  let s := s.updCluster n (fun c => { c with fenced := true, misses := [], missWait := [] })
  let s := if queueError then
      (s.killAll u (s.launches.filter (fun l => l.clusters.contains n))).updCluster n (fun c => { c with queue := [] })
    else
      let stuck := s.launches.filter (fun l => (s.cluster n).queue.any (fun q => q.inst = l.inst && q.idx = l.idx)
        && !l.clusters.any (fun m => (coresOf m).any s.coreUp))
      s.killAll u stuck
  (s.unitRecord 7 u (s.ownersOf u)).unitRecord 8 u (s.ownersOf u)

/-- A core fenced; the fourth of a cluster within 24 h fences the cluster (R438, R439). -/
def State.fenceCore (s : State) (g : Nat) (logic : Bool) : State :=
  let u := coreUnit g
  let n := clusterOf g
  let s := (s.coreLost g logic).markFenced g
  let s := s.updCluster n (fun c => { c with fenceTimes := s.clock.now :: c.fenceTimes.filter (fun t => s.clock.now - t < 86400 * 10 ^ 9) })
  let s := (s.unitRecord 7 u (s.ownersOf u)).unitRecord 8 u (s.ownersOf u)
  if (s.cluster n).fenceTimes.length ≥ 4 && !(s.cluster n).fenced then s.fenceCluster n false else s

/-- A sector fenced: its cores lost, the sector gated (R438, R439). -/
def State.fenceSector (s : State) (x : Nat) : State :=
  let u := sectorUnit x
  let s := (sectorCores x).foldl (fun (s : State) g => s.coreLost g false) s
  let s := { s with err := { s.err with secfenced := s.err.secfenced ||| BitVec.ofNat 64 (1 <<< x) } }
  let s := (s.updSectorClk x (fun k => { k with gate := true })).applyClock x
  (s.unitRecord 7 u (s.ownersOf u)).unitRecord 8 u (s.ownersOf u)

/-- Whether a core, cluster or sector is fenced or absent already (R440). -/
def State.fencedUnit (s : State) (u : BitVec 32) : Bool :=
  let w := u.toNat
  let d := fld w 25 3
  let h := fld w 24 1
  let k := fld w 20 4
  match fld w 28 4 with
  | 1 => s.fencedCore (d * 2048 + h * 1024 + k * 64 + fld w 12 7)
  | 2 => (s.cluster (d * 32 + h * 16 + k)).fenced
  | 7 => s.err.secfenced.toNat.testBit (d * 16 + h * 8 + k)
  | _ => false

/-- A core, cluster or sector fenced. -/
def State.fenceUnit (s : State) (u : BitVec 32) (queueError logic : Bool) : State :=
  let w := u.toNat
  let d := fld w 25 3
  let h := fld w 24 1
  let k := fld w 20 4
  if s.fencedUnit u then s
  else match fld w 28 4 with
    | 1 => s.fenceCore (d * 2048 + h * 1024 + k * 64 + fld w 12 7) logic
    | 2 => s.fenceCluster (d * 32 + h * 16 + k) queueError
    | 7 => s.fenceSector (d * 16 + h * 8 + k)
    | _ => s

/-! ## Control commands and drains (R27, R29, R197, R412) -/

/-- A control command received, and on its way to its steward (R20). -/
def State.control (s : State) (u : BitVec 32) (why : DrainWhy) : State :=
  { s.toSteward u with drains := s.drains ++ [{ unit := u, why := why, since := s.clock.now, begun := false, acted := false }] }

def State.endControl (s : State) (d : Drain) : State := { s with drains := s.drains.erase d }

/-- Whether the cores of a unit hold no group (R197). -/
def State.drained (s : State) (u : BitVec 32) : Bool := (unitCores u).all (fun g => (s.core g).slots = [])

/-- The units on which a command acts: for a mailbox command those of the instance that it concerns and those that it names
(R29, R361). -/
def State.unitsOf (s : State) (d : Drain) : List (BitVec 32) :=
  match d.why with
  | .mailbox _ i cs => (((s.clusters.filter (fun c => c.2.owner = some i)).map Prod.fst ++ cs).eraseDups).map clusterUnit
  | _ => [d.unit]

/-- Whether two commands are run one after the other: they concern one instance, or act on overlapping units. A pre-emption's
drains are its command's own (R29, R361). -/
def State.clash (s : State) (d e : Drain) : Bool :=
  let same : Bool := match d.why, e.why with
    | .mailbox _ i _, .mailbox _ j _ => i = j
    | _, _ => false
  d.why ≠ .preempt && e.why ≠ .preempt
    && (same || (s.unitsOf d).any (fun u => (s.unitsOf e).any (fun v => unitsOverlap u v)))

/-- Whether a command received earlier has to end first (R29, R361). -/
def State.heldBack (s : State) (d : Drain) : Bool := (s.drains.takeWhile (fun e => e ≠ d)).any (fun e => s.clash e d)

/-- The fence of a unit that holds no core: at once, or in its turn where a command on an overlapping unit has not ended (R29,
R437). -/
def State.fenceInTurn (s : State) (u : BitVec 32) (act : State → State) : State :=
  let d : Drain := { unit := u, why := .fence, since := s.clock.now, begun := false, acted := false }
  if s.drains.any (fun e => s.clash e d) then s.control u .fence else act s

/-- Whether a command is the drained reset of a core or sector; of a cluster only the drain is one (R27). -/
def Drain.resets (d : Drain) : Bool := d.why = .command && fld d.unit.toNat 28 4 ≠ 2

/-- A command begins: tasks are held back from the unit's cores, their staged copies discarded (R63, R197), and the event
of a reset, gating or test is written (R27). -/
def State.beginControl (s : State) (d : Drain) : State :=
  let s := (unitCores d.unit).foldl (fun (s : State) g => if (s.core g).staged = [] then s else s.updCore g (fun c => { c with staged := [] })) s
  let s := { s with drains := s.drains.replace d { d with begun := true, since := s.clock.now } }
  match d.why with
  | .command => if d.resets then s.controlEvent d.unit false 1 else s
  | .gate => s.controlEvent d.unit false 2
  | .test => s.controlEvent d.unit false 3
  | _ => s

/-- The sector that a test of core logic moves to the test clock (R479). -/
def testSector (u : BitVec 32) : Option Nat :=
  match physicalPlace u, unitCores u with
  | some p, _ => some p.2
  | none, g :: _ => if fld u.toNat 28 4 = 2 then none else some (sectorOf g)
  | none, [] => none

/-- The channels of a pseudo-channel or a stack under test, as 32 times the stack and the channel (R477). -/
def testChannels (u : BitVec 32) : List Nat :=
  let w := u.toNat
  let stack := fld w 25 3 * 4 + fld w 24 1 * 2 + fld w 20 4
  if fld w 28 4 = 4 then [32 * stack + fld w 12 8 / 2] else (List.range 32).map (fun c => 32 * stack + c)

/-- What a command does once its unit is drained: reset its cores, gate the sector, bring it up, fence the unit, or move it to
the test clock (R27, R28, R412, R437, R479). -/
def State.actControl (s : State) (d : Drain) : State :=
  let w := d.unit.toNat
  let x := fld w 25 3 * 16 + fld w 24 1 * 8 + fld w 20 4
  match d.why with
  | .command =>
    let s := s.endControl d
    if d.resets then ((unitCores d.unit).foldl (fun (s : State) g => s.wipeCore g) s).controlEvent d.unit true 1 else s
  | .fence =>
    let s := (s.endControl d).fenceUnit d.unit false false
    { s with err := { s.err with fence := none, result := 0 } }
  | .gate =>
    let s := (unitCores d.unit).foldl (fun (s : State) g => s.wipeCore g) (s.endControl d)
    ((s.updSectorClk x (fun k => { k with gate := true })).applyClock x).controlEvent d.unit true 2
  | .ungate => ((s.endControl d).updSectorClk x (fun k => { k with gate := false })).applyClock x
  | .test =>
    let s := { s with drains := s.drains.replace d { d with acted := true } }
    match testSector d.unit with
    | some x => (s.updSectorClk x (fun k => { k with test := true })).applyClock x
    | none => match (List.range 24).find? (fun l => linkUnit l = d.unit) with
      | some l => s.narrowLink l
      | none =>
        if fld w 28 4 = 2 then s.flushL2 (fld w 25 3 * 32 + fld w 24 1 * 16 + fld w 20 4)
        else if fld w 28 4 = 4 || fld w 28 4 = 0xA then { s with bist := { s.bist with left := testChannels d.unit } }
        else s
  | .preempt => s
  | .mailbox _ _ _ => s

/-- The first command that can move on: one not begun and not held back, or one whose unit is drained; a fence without a
drain does not wait for it (R437, R438). Mailbox commands run by their own rows, fences of units without cores by those of the
fabric. -/
def State.nextControl (s : State) : Option Drain :=
  let now := fun (d : Drain) => s.drained d.unit || (d.why = DrainWhy.fence && s.err.fence.all (fun j => !j.drain))
  s.drains.find? (fun d => d.mailbox.isNone && !(d.why = .fence && unitCores d.unit = [])
    && (if d.begun then !d.acted && d.why ≠ .preempt && now d else !s.heldBack d))

/-- Control commands moved on, n steps at most. -/
def State.runControls : Nat → State → State
  | 0, s => s
  | n + 1, s =>
    match s.nextControl with
    | none => s
    | some d => (if d.begun then s.actControl d else s.beginControl d).runControls n

/-- Launches that a drain saved, restored once no drain, gate or test holds a core of theirs and their cores hold no group
(R38, R197). -/
def State.restoreDrained (s : State) : State :=
  s.launches.foldl (fun (s : State) l =>
    if l.saved && !(s.inst l.inst).preempting && (s.inst l.inst).state = .active
        && l.images.all (fun m => !s.draining m.core && (s.core m.core).slots = []
          && (!(s.sectorClk (sectorOf m.core)).gate || s.err.secfenced.toNat.testBit (sectorOf m.core))) then s.restoreLaunch l
    else s) s

/-- An instance is pre-empted when every core of its clusters holds no group: its drains end and the command answers (R297). -/
def State.endPreempts (s : State) : State :=
  (s.insts.filter (fun e => e.2.preempting)).foldl (fun (s : State) e =>
    let mine := (s.clusters.filter (fun c => c.2.owner = some e.1)).map Prod.fst
    if mine.all (fun n => (coresOf n).all (fun g => (s.core g).slots = [])) then
      let s := s.updInst e.1 (fun x => { x with preempting := false, state := .preempted })
      let s := { s with drains := s.drains.filter (fun d => !(d.why = DrainWhy.preempt && mine.any (fun n => d.unit = clusterUnit n))) }
      s.respond 0 0 []
    else s) s

/-- What follows whenever groups leave cores or a control command is received or ends. -/
def State.settleControls (s : State) : State :=
  let s := (s.runControls (2 * s.drains.length + 2)).endPreempts
  (s.runControls (2 * s.drains.length + 2)).restoreDrained

end Sys2Proof.Machine
end

