-- ==== Sys2Proof/Machine/RingOps.lean ====
section
/-! DEFINITION. Memory accesses of the part for ring entries: reads, writes and adds at virtual addresses, dependencies
on launches, and the end of a launch (R182, R193, R202, R211, R320, R321, R329, R362, R518, R519, R523). -/

namespace Sys2Proof.Machine
open Sys2Proof

/-- The source tag of an access for an entry (R375). -/
def tagOf (agent : Nat) (k : XKind) : Nat := if k = .store || agent = agentLoad then tierTag else partTag

/-- What a read of the part came to. -/
inductive Got where
  | bytes (bs : List PByte)
  | wait
  | bad (status : Nat)
  deriving DecidableEq, Repr

/-- A translation for an entry, with the checks of a peer access: a status, or address and leaf (R362, R376, R518). -/
def State.entryPage (s : State) (agent i : Nat) (k : XKind) (va : Nat) : Except Nat (Nat × Nat) × State :=
  match s.translate agent i k va with
  | (.bad c _, s) => (.error (faultStatus c), s)
  | (.ok pa leaf, s) =>
    if inPeer pa && (s.bindingOk i leaf pa).isNone then (.error 0x0008, s)
    else if inPeer pa && (s.inst i).linkw = 0 then (.error 0x0009, s)
    else (.ok (pa, leaf), s)

/-- Whether an access moves stored page sets or a weight set: an unreachable peer or host then fails the item; any other read
gets poisoned bytes from it, and any other write is dropped (R164, R278, R329). -/
def movesTier (agent : Nat) (k : XKind) : Bool := k = .store || agent = agentLoad

/-- Bytes of a virtual range of instance i read for a ring entry of instance own, page by page. Bytes of a peer's memory are
asked for, and are there once the entry's buffer holds them. -/
def State.entryReadN : Nat → State → Nat → Nat → Nat → Nat → XKind → Nat → Nat → Bool → Got × State
  | 0, s, _, _, _, _, _, _, _, _ => (.bytes [], s)
  | f + 1, s, agent, own, i, idx, k, va, n, bulk =>
    if n = 0 then (.bytes [], s)
    else
      let m := chunk va n
      if s.walkWaits agent i va then (.wait, s)
      else match s.entryPage agent i k va with
      | (.error st, s) => (.bad st, s)
      | (.ok (pa, leaf), s) =>
        let e := (s.entry own idx).getD { index := 0, bytes := [], held := false, free := false, started := false }
        let (here, s) : Got × State :=
          if s.heldRun pa m then (.wait, s)
          else if inPeer pa then
            let got := (List.range m).filterMap (fun j => NMap.find e.buf (va + j))
            match e.bad.filter (fun st => st = 0x0008 || movesTier agent k) with
            | some st => (.bad st.toNat, s)
            | none =>
              if got.length = m then (.bytes got, s)
              else if e.remote ≠ [] then (.wait, s)
              else
                let (t, s) := s.readPeer i leaf pa (tagOf agent k) m (fun o _ => .entry own idx (va + o)) (BitVec.ofNat 16 idx)
                (.wait, s.updEntry own idx (fun e => { e with remote := e.remote ++ t }))
          else if inHost pa && s.host.stopped && movesTier agent k then (.bad 0x0301, s)
          else
            let s := if inHost pa && s.host.stopped then s.updEntry own idx (fun e => { e with bad := some (e.bad.getD 0x0301) }) else s
            let (bs, s1) := s.devRead (s.accOf i leaf bulk) pa m
            match s.mend pa bs with
            | some s => (.wait, s)
            | none => (.bytes bs, s1.notePoison pa bs)
        match here with
        | .bytes bs =>
          match s.entryReadN f agent own i idx k (va + m) (n - m) bulk with
          | (.bytes r, s) => (.bytes (bs ++ r), s)
          | r => r
        | r => (r, s)

def State.entryReadFor (s : State) (agent own i idx : Nat) (k : XKind) (va n : Nat) (bulk : Bool) : Got × State :=
  s.entryReadN (n / 65536 + 2) agent own i idx k va n bulk

/-- The same in the entry's own instance. -/
def State.entryRead (s : State) (agent i idx : Nat) (k : XKind) (va n : Nat) (bulk : Bool) : Got × State :=
  s.entryReadFor agent i i idx k va n bulk

/-- Whether a write of n bytes at a virtual address has to wait: a walk does, or a line of this module's HBM at its home (R233, R235, R238,
R245); page by page, k pages at most. A page without a translation is left to the write. -/
def State.writeHeld : Nat → State → Nat → Nat → XKind → Nat → Nat → Bool
  | 0, _, _, _, _, _, _ => false
  | f + 1, s, agent, i, k, va, n =>
    if n = 0 then false
    else if s.walkWaits agent i va then true
    else match s.translate agent i k va with
      | (.bad _ _, _) => false
      | (.ok pa _, s) => s.heldRun pa (chunk va n) || s.writeHeld f agent i k (va + chunk va n) (n - chunk va n)

def State.writeWaits (s : State) (agent i : Nat) (k : XKind) (va n : Nat) : Bool := s.writeHeld (n / 65536 + 2) agent i k va n

/-- Bytes written to a virtual range for a ring entry, page by page: a status where a page denies it. Writes to a peer are
sent and stay with the entry until they are acknowledged; the lines of 128 bytes with poison are not sent (R519), and
whether there was one is told. -/
def State.entryWriteN : Nat → State → Nat → Nat → Nat → XKind → Nat → List PByte → Bool → Option Nat × Bool × State
  | 0, s, _, _, _, _, _, _, _ => (none, false, s)
  | f + 1, s, agent, i, idx, k, va, bs, bulk =>
    if bs.isEmpty then (none, false, s)
    else
      let m := chunk va bs.length
      match s.entryPage agent i k va with
      | (.error st, s) => (some st, false, s)
      | (.ok (pa, leaf), s) =>
        let lost : Bool := inHost pa && s.host.stopped
        if lost && movesTier agent k then (some 0x0301, false, s.hostFailed i idx)
        else
        let here := bs.take m
        let (skipped, s) : Bool × State :=
          if lost then (false, (s.hostFailed i idx).updEntry i idx (fun e => { e with wbad := some (e.wbad.getD 0x0301) }))
          else if inPeer pa then
            let cut := blocksOf 128 (m / 128 + 2) pa 0 m
            let (t, s) := cut.foldl (fun (acc : List Nat × State) b =>
              let part := (here.drop b.1).take b.2
              if anyPoison part then acc
              else
                let (t, s) := acc.2.writePeer i leaf (pa + b.1) (tagOf agent k) (plain part) false
                  (fun o _ => .entry i idx (va + b.1 + o)) (BitVec.ofNat 16 idx)
                (acc.1 ++ t, s)) ([], s)
            (anyPoison here, s.updEntry i idx (fun e => { e with remote := e.remote ++ t }))
          else
            let s := s.devWrite (s.accOf i leaf bulk) pa here
            (false, s)
        match s.entryWriteN f agent i idx k (va + m) (bs.drop m) bulk with
        | (st, b, s) => (st, b || skipped, s)
where
  /-- A run cut at aligned blocks: offset and length of each part. -/
  blocksOf (size : Nat) : Nat → Nat → Nat → Nat → List (Nat × Nat)
    | 0, _, _, _ => []
    | k + 1, pa, off, n =>
      if n = 0 then []
      else
        let m := min n (size - pa % size)
        (off, m) :: blocksOf size k (pa + m) (off + m) (n - m)

def State.entryWrite (s : State) (agent i idx : Nat) (k : XKind) (va : Nat) (bs : List PByte) (bulk : Bool) : Option Nat × Bool × State :=
  s.entryWriteN (bs.length / 65536 + 2) agent i idx k va bs bulk

/-- What an add at the end of an entry came to. -/
inductive Added where
  | done
  | sent
  | wait
  | bad (status : Nat)
  deriving DecidableEq, Repr

/-- A 32-bit value added to the word at a virtual address as a system-scope release atomic (R193, R289, R321, R518; DESIGN CHOICE, log 148:
it stands for no cluster). -/
def State.addWord (s : State) (i idx va : Nat) (v : BitVec 32) : Added × State :=
  let f := fun x => (x + v.toNat) % 2 ^ 32
  if s.walkWaits agentPart i va then (.wait, s)
  else match s.entryPage agentPart i .write va with
  | (.error st, s) => (.bad st, s)
  | (.ok (pa, leaf), s) =>
    if s.held pa then (.wait, s)
    else if inHbm pa then
      match s.atomFar (s.accOf i leaf false) 128 pa 4 f with
      | (some _, _, s) => (.done, s)
      | (none, _, s) => (.bad 0x0307, s)
    else if inHost pa then
      if !s.host.atomicOps then (.bad 0x0009, s)
      else (.done, (s.atomHost i none 0 pa 4 f).2.hostFailed i idx)
    else
      match s.request i leaf pa partTag 3 with
      | none => (.bad 0x0008, s)
      | some p =>
        (.sent, (s.sendRequest { p with data := leBytes 16 v.toNat } (leafBind leaf) (.add i idx) (BitVec.ofNat 16 idx)).2)

/-- The word that a counter dependency or a WAIT reads: met or not, or a status; a word that cannot be reached is poisoned (R164,
R182, R330, R518). -/
def State.pollWord (s : State) (i idx va : Nat) (v : BitVec 32) : Except Nat Bool × State :=
  match s.entryRead agentPart i idx .read va 4 false with
  | (.bad st, s) => (.error st, s)
  | (.wait, s) => (.ok false, s)
  | (.bytes bs, s) =>
    let s := s.updEntry i idx (fun e => { e with buf := [], bad := none })
    if anyPoison bs then (.error 0x0307, s)
    else (.ok (0 ≤ diff32 (BitVec.ofNat 32 (ofLe (plain bs))) v), s)

/-- How the launches named by tags stand for the entry of index `own`: none to wait, else whether every one counts as met
(R182, R330). -/
def State.depsMet (s : State) (i own : Nat) (tags : List (BitVec 16)) (dfail : Bool) : Option Bool :=
  let x := s.inst i
  let states := tags.map (fun t =>
    let d := (own % 2 ^ 16 + 2 ^ 16 - t.toNat) % 2 ^ 16
    let d := if d = 0 then 65536 else d
    let j := (own + 2 ^ 32 - d) % 2 ^ 32
    match x.launchLog.find? (fun p => p.1.toNat = j) with
    | some (_, none) => none
    | some (_, some st) => some (st = 0 || dfail)
    | none => some true)
  if states.any (fun r => r = some false) then some false
  else if states.any Option.isNone then none else some true

/-! ## Commit writes (R191, R192, R202, R211) -/

/-- The reservations of tasks past their commit point whose writes are all performed given back. -/
def State.freeCommits (s : State) (cl : Nat) : State :=
  s.updCluster cl (fun c => { c with commitBuf := c.commitBuf.filter (fun r => !(r.committed && r.writes = [] && r.sent = [])) })

/-- Whether what a task did before its last exit is performed: its copies, its matrix operations and its remote writes (R202). -/
def State.exitReleased (s : State) (r : CommitRes) : Bool :=
  let c := s.core r.core
  !c.copies.any (fun j => j.slot = r.slot && j.inst = r.inst && j.idx = r.idx && j.task = r.task)
    && !c.mats.any (fun m => m.slot = r.slot && m.inst = r.inst && m.idx = r.idx && m.task = r.task)
    && !s.ael.outst.any (fun o => r.behind.contains o.txid.toNat)

/-- One commit write performed as a non-allocating snooping write, its transactions with a peer told; one that fails is
reported (R164, R192, R362, R429). -/
def State.commitWrite (s : State) (r : CommitRes) (w : HeldWrite) : List Nat × State :=
  let tag := BitVec.ofNat 16 r.idx
  if inPeer w.pa then
    if (s.bindingOk r.inst w.leaf w.pa).isNone then ([], s.event r.inst (s.record 9 1 0 (routerUnit 0) (tag.toNat + 8 * 2 ^ 16)))
    else s.writePeer r.inst w.leaf w.pa (srcTag r.core r.slot true) (plain w.data) w.fin (fun _ _ => .commit r.core r.inst r.idx) tag
  else
    let s := (List.range ((w.pa + w.data.length - 1) / 128 - w.pa / 128 + 1)).foldl (fun (s : State) k => s.l1Drop r.core (lineOf w.pa + k)) s
    let (pa, bs) := if w.crc && inHbm w.pa then (alignDown w.pa 16, s.wholeGranule w.pa (plain w.data)) else (w.pa, w.data)
    let s := (s.ncDrop (clusterOf r.core) w.pa w.data.length).devWrite (s.accOf r.inst w.leaf w.bulk) pa bs
    ([], if inHost w.pa then s.hostFailed r.inst r.idx else s)

/-- Commit writes performed in order until one has to wait for a line or for the core's limit of unacknowledged writes (R384):
their transactions, and what is left. -/
def State.commitWrites (r : CommitRes) : State → List HeldWrite → List Nat × List HeldWrite × State
  | s, [] => ([], [], s)
  | s, w :: ws =>
    if s.heldRun w.pa w.data.length || (inPeer w.pa && 4096 < s.unacked r.core none + packetsOf w.pa w.data.length) then ([], w :: ws, s)
    else
      let (t, s) := s.commitWrite r w
      let (ts, left, s) := State.commitWrites r s ws
      (t ++ ts, left, s)

/-- One reservation moved on. -/
def State.drainCommit (cl : Nat) (s : State) (r : CommitRes) : State :=
  let busy := ((s.cluster cl).commitBuf.takeWhile (fun e => e ≠ r)).any (fun e => e.core = r.core && e.slot = r.slot && e.writes ≠ [])
  if !r.committed || r.writes = [] || busy || !s.exitReleased r then s
  else
    let (ts, left, s) := s.commitWrites r r.writes
    let s := s.updCluster cl (fun c => { c with
      commitBuf := c.commitBuf.map (fun e => if e = r then { r with writes := left, sent := r.sent ++ ts } else e) })
    if left = [] then s.closeBatches (srcTag r.core r.slot true) else s

/-- The commit buffer of a cluster: the writes of the tasks past their commit point are performed, in the order of their
reservations, and reservations whose writes are all performed are given back (R191, R192, R386). -/
def State.drainCommits (s : State) (cl : Nat) : State :=
  if s.err.fatal || s.therm.tripped || !s.board.rails then s
  else ((s.cluster cl).commitBuf.foldl (State.drainCommit cl) s).freeCommits cl

/-- Whether every write of a launch is performed at system scope: no task of it holds commit bytes, no copy or matrix operation
of it is under way, and no remote write or atomic of it awaits its answer (R193, R202, R211). -/
def State.launchPerformed (s : State) (i idx : Nat) : Bool :=
  !s.clusters.any (fun c => c.2.commitBuf.any (fun r => r.inst = i && r.idx = idx))
    && !s.cores.any (fun c => c.2.copies.any (fun j => j.inst = i && j.idx = idx) || c.2.mats.any (fun m => m.inst = i && m.idx = idx))
    && !s.ael.outst.any (fun o => o.inst = i && o.tag.toNat = idx % 2 ^ 16 && (o.p.opc = 1 || o.p.opc = 3))

/-! ## The end of a launch -/

/-- The type-specific result of a launch (R193). -/
def launchResult (l : Launch) : Nat :=
  l.reexec + 2 ^ 32 * min 0xFFFFFFFF l.steals + 2 ^ 64 * (l.clusters.length - 1)

/-- Everything that queues, cores and commit buffers hold of a launch dropped; its groups' open batches close (R55, R56,
R166). -/
def State.dropWork (s : State) (i idx : Nat) : State :=
  let s := (s.coresWith i idx).foldl (fun (s : State) g =>
    ((s.core g).slots.filter (fun e => e.2.inst = i && e.2.idx = idx)).foldl (fun (s : State) e => s.clearSlot g e.1) s) s
  let s := (s.cores.map Prod.fst).foldl (fun (s : State) g =>
    s.endCopies g (fun j => j.inst = i && j.idx = idx) (fun m => m.inst = i && m.idx = idx)) s
  { s with
    clusters := s.clusters.map (fun e => (e.1, { e.2 with
      queue := e.2.queue.filter (fun q => !(q.inst = i && q.idx = idx))
      chosen := e.2.chosen.filter (fun c => !(c.1 = i && c.2.1 = idx)) })) }

/-- A launch removed from the part's list and from the cores that last ran it. -/
def State.removeLaunch (s : State) (i idx : Nat) : State :=
  { s with
    launches := s.launches.filter (fun l => !(l.inst = i && l.idx = idx))
    cores := s.cores.map (fun e => (e.1, if e.2.launch = some (i, idx) then { e.2 with launch := none } else e.2)) }

/-- The clusters of an instance in ascending global number (R181). -/
def State.clustersOf (s : State) (i : Nat) : List Nat := (List.range 128).filter (fun n => (s.cluster n).owner = some i)

/-- The type-specific result of a well-formed entry of an instance with n clusters as far as it has got: of a LAUNCH that has placed nothing
its count of clusters (R181, R193), of an EVICT or FETCH the page sets moved (R280), of a STEP its failed runs and the page sets promoted
(R289). -/
def Entry.resultSoFar (e : Entry) (n : Nat) : Nat :=
  let f := fun (off n : Nat) => leAt e.bytes off n
  match f 0 1 with
  | 1 => 2 ^ 64 * ((if f 65 1 = 0 then n - f 64 1 else f 65 1) - 1)
  | 3 => if f 16 1 = 7 || f 16 1 = 8 then e.moved else 0
  | 4 => if e.remote = [2 ^ 32] then e.moved else e.fails + e.moved * 2 ^ 32
  | _ => 0

/-- A launch ends: its completion entry is written (R193). -/
def State.finishLaunch (s : State) (l : Launch) (status : Nat) : State :=
  (s.removeLaunch l.inst l.idx).complete l.inst l.idx status (launchResult l)

end Sys2Proof.Machine
end

