-- ==== Sys2Proof/Machine/Fatal.lean ====
section
/-! DEFINITION. The pin ALERT_N, and the end of all fetched work: package-fatal errors (R441, R495). -/

namespace Sys2Proof.Machine
open Sys2Proof

/-- Whether ALERT_N is held low (R495). -/
def State.alert (s : State) : Bool :=
  s.err.fatal || s.sec.locked || (!s.host.dll && s.board.rails) || s.board.pldm ≠ []

/-- A change of state with the change of ALERT_N that follows from it (R495). -/
def State.withAlert (s t : State) : State := if s.alert = t.alert then t else t.send (.pin 2 (!t.alert))

/-- Every fetched entry of every instance completed with one status, a launch with its counts (R193), any other entry with its result so far
(R280, R459); its launches end without a further event (R441, R458). -/
def State.abandonAll (s : State) (status : Nat) : State :=
  let result := fun (i : Nat) (x : Entry) => match s.launch i x.index.toNat with
    | some l => launchResult l
    | none => x.resultSoFar (s.clustersOf i).length
  let s := s.launches.foldl (fun (s : State) l => (s.dropWork l.inst l.idx).removeLaunch l.inst l.idx) s
  let s := s.insts.foldl (fun (s : State) e => e.2.entries.foldl (fun (s : State) x =>
    s.complete e.1 x.index.toNat status (result e.1 x)) s) s
  { s with seq := { s.seq with sets := s.seq.sets.map (fun e => if e.2.state = 2 then (e.1, { e.2 with state := 1, first := 0 }) else e) } }

/-- A package-fatal error found at a unit (R441). -/
def State.packageFatal (s : State) (u : BitVec 32) : State :=
  if s.err.fatal then s
  else
    let t := { s with err := { s.err with fatal := true } }
    let t := t.abandonAll 0x000B
    let rings := (t.insts.filter (fun e => e.2.ring.en)).map Prod.fst
    s.withAlert (t.errRecord 0xA 0 u (errDetail 0 0xFF 0 0x80 0) rings)

end Sys2Proof.Machine
end

