-- ==== Sys2Proof/Machine/Homes.lean ====
section
/-! DEFINITION. The home's own commands (chapter "Cluster caches, the LLC and coherence"): requests with miss registers,
waiter lists and refusals, forwards and invalidations at an L2, counters, near-home ranges, the thrash detector and the
fence of a slice (R229 to R257). -/

namespace Sys2Proof.Machine
open Sys2Proof

/-! ## Requests (R233, R235, R243 to R245) -/

/-- What a request asks of its home: the line, the requesting cluster, the LLC class, the sectors it reads, its class at HBM (R261),
and whether it is a GetSec. -/
structure HomeReq where
  a : Nat
  by_ : Option Nat
  cls : Nat
  secs : BitVec 4
  prio : Prio := .normal
  getsec : Bool := false
  deriving DecidableEq, Repr

/-- The sectors that a write covers in part (R246). -/
def partSectors (off n : Nat) : BitVec 4 :=
  BitVec.ofNat 4 (maskOf ((List.range 4).filter (fun j =>
    let lo := max off (32 * j)
    let hi := min (off + n) (32 * j + 32)
    lo < hi && hi - lo < 32)))

/-- The class of an access at HBM by its PRI (R157, R261). -/
def prioOf (bulk : Bool) : Prio := if bulk then .bulk else .normal

def homeReq (c : Instr) : Option HomeReq :=
  match c with
  | .gets cl pa cls secs => some { a := lineOf pa.toNat, by_ := some cl, cls := cls, secs := secs }
  | .getm cl pa cls secs => some { a := lineOf pa.toNat, by_ := some cl, cls := cls, secs := secs }
  | .upg cl pa cls => some { a := lineOf pa.toNat, by_ := some cl, cls := cls, secs := 0 }
  | .getsec cl pa cls secs => some { a := lineOf pa.toNat, by_ := some cl, cls := cls, secs := secs, getsec := true }
  | .putLine cl pa => some { a := lineOf pa.toNat, by_ := some cl, cls := 6, secs := 0 }
  | .dead cl pa => some { a := lineOf pa.toNat, by_ := some cl, cls := 6, secs := 0 }
  | .rdna _ pa cls secs prio => some { a := lineOf pa.toNat, by_ := none, cls := cls, secs := secs, prio := prio }
  | .wrna _ pa cls data bulk =>
    some { a := lineOf pa.toNat, by_ := none, cls := cls, secs := partSectors (pa.toNat % 128) data.length, prio := prioOf bulk }
  | .atomf _ pa cls _ _ _ _ => some { a := lineOf pa.toNat, by_ := none, cls := cls, secs := secBit (pa.toNat % 128 / 32) }
  | _ => none

/-- Whether a device address lies in a page with the pin attribute: some cached translation has it (R251). -/
def State.pinAttr (s : State) (pa : Nat) : Bool :=
  s.tlb.any (fun t => !t.node && leafPin t.leaf.toNat && leafOut t.leaf.toNat / 2 ^ t.log2 = pa / 2 ^ t.log2)

/-- How a cluster's own requests are served: class, the ways of the owner of the cluster, and the attribute of the page. -/
def State.clusterAcc (s : State) (q cls pa : Nat) : Acc :=
  { cls := cls, ways := s.clusterWays q, pinPage := s.pinAttr pa, inst := (s.cluster q).owner }

/-- The same for a request of an agent that acts for an instance. -/
def State.instAcc (s : State) (i cls pa : Nat) (bulk : Bool) : Acc :=
  { cls := cls, ways := (s.inst i).ways, alloc := !bulk, pinPage := s.pinAttr pa, inst := some i }

/-- The named sectors of an L2 line made valid, from the home where they are missing. -/
def State.l2Sectors (s : State) (c : Acc) (q a : Nat) (l : L2Line) (secs : BitVec 4) : L2Line × State :=
  (bitsOf 4 secs.toNat).foldl (fun (r : L2Line × State) j => r.2.l2Fill c q a j r.1) (l, s)

/-- Whether a cluster may write a line without asking (R241). -/
def State.holdsME (s : State) (q a : Nat) : Bool :=
  match s.l2line q a with
  | some l => l.st = .M || l.st = .E
  | none => false

/-- A request for ownership served: GetM, or Upg with no sectors; nothing where the cluster owns the line alone. -/
def State.serveM (s : State) (c : Acc) (q a : Nat) (secs : BitVec 4) : State :=
  if s.holdsME q a then s
  else
    let (_, l, s) := s.l2Own c q a
    let (l, s) := s.l2Sectors c q a l secs
    s.l2Put q l

/-- A request served at its home; f are the sectors that earlier requests of the same fill have read (R235, R244). -/
def State.homeAct (s : State) (f : BitVec 4) (c : Instr) : State :=
  match c with
  | .gets q pa cls secs =>
    let a := lineOf pa.toNat
    let s := s.takePut q a
    if (s.l2line q a).isSome then s
    else
      let (st, s) := s.homeGetS q a
      let (l, s) := s.l2Sectors { s.clusterAcc q cls pa.toNat with fetched := f } q a
        { a := a, st := st, valid := 0, dirty := 0, d := {} } secs
      s.l2Put q l
  | .getm q pa cls secs => s.serveM { s.clusterAcc q cls pa.toNat with fetched := f } q (lineOf pa.toNat) secs
  | .upg q pa cls => s.serveM (s.clusterAcc q cls pa.toNat) q (lineOf pa.toNat) 0
  | .getsec q pa cls secs =>
    match s.l2line q (lineOf pa.toNat) with
    | none => s
    | some l =>
      let (l, s) := s.l2Sectors { s.clusterAcc q cls pa.toNat with fetched := f, getsec := true } q (lineOf pa.toNat) l secs
      s.l2Put q l
  | .putLine q pa => s.takePut q (lineOf pa.toNat)
  | .dead q pa => s.deadLine (s.clusterAcc q 6 pa.toNat) pa.toNat
  | .rdna i pa cls secs prio =>
    let a := lineOf pa.toNat
    let c : Acc := { s.instAcc i cls pa.toNat (prio = .bulk) with fetched := f }
    let (d, s) := (bitsOf 4 secs.toNat).foldl (fun (r : LineData × State) j =>
      let (x, s) := r.2.rdNA c (128 * a + 32 * j)
      (r.1.set j x, s)) ({}, s)
    s.send (.homeData a secs d)
  | .wrna i pa cls data bulk =>
    s.hbmWrite (s.instAcc i cls pa.toNat bulk) pa.toNat (clean (data.take (128 - pa.toNat % 128)))
  | .atomf q pa cls op ty x y =>
    let n := tySize ty.toNat
    let (old, _, s) := s.atomFar { s.clusterAcc q cls pa.toNat with fetched := f } q pa.toNat n (fun v => atomFn op.toNat ty.toNat v x.toNat y.toNat)
    s.send (.atomResult q pa.toNat (old.map (BitVec.ofNat 256)))
  | _ => s

/-- The cluster whose L2 sends a request that holds one of its miss registers (R230). -/
def l2Request (c : Instr) : Option Nat :=
  match c with
  | .gets q _ _ _ => some q
  | .getm q _ _ _ => some q
  | .upg q _ _ => some q
  | .getsec q _ _ _ => some q
  | .atomf q _ _ _ _ _ _ => some q
  | _ => none

/-- A request served, the miss register of its L2 free again (R230), and the answer of the home on its way (R244, R398). -/
def State.homeServe (s : State) (f : BitVec 4) (c : Instr) : State :=
  let s := match l2Request c with
    | some q => (s.homeAct f c).updCluster q (fun x => { x with misses := x.misses.erase c })
    | none => s.homeAct f c
  match homeReq c with
  | some { by_ := some q, a := a, .. } => s.fromHome q a 2
  | _ => s

/-- Whether HBM has to be read for a sector: the owner does not send it, the LLC does not hold it, and the requester does
not either; a fenced pseudo-channel answers with poison at once (R267). -/
def State.needsHbm (s : State) (n a j : Nat) (by_ : Option Nat) (getsec : Bool) : Bool :=
  let llc : Bool := match (s.slice n).line a with
    | some l => l.valid.getLsbD j || l.dead.getLsbD j
    | none => false
  let own : Bool := match by_.bind (fun q => s.l2line q a) with
    | some l => l.valid.getLsbD j
    | none => false
  (s.fromOwner n a j none getsec).isNone && !llc && !own && (s.pch (pchOf (128 * a + 32 * j))).state ≠ 1

/-- A request that finds no place: it will be sent again (R233). -/
def State.refuse (s : State) (n : Nat) (c : Instr) (tries : Nat) : State :=
  s.updSlice n (fun x => { x with
    refused := x.refused ++ [{ id := x.nextRefused, request := c, tries := tries + 1, since := s.clock.now }]
    nextRefused := x.nextRefused + 1 })

/-- Sectors asked of the pseudo-channels that hold them, in the class of the request (R261). -/
def State.askHbm (s : State) (n : Nat) (r : HomeReq) (secs : BitVec 4) : State :=
  (bitsOf 4 secs.toNat).foldl (fun (s : State) j => s.askSector n r.a j r.prio) s

/-- A request that arrives at its home: it joins the line's waiter list, is refused where no register is free, is served at
once, or takes a miss register (R233, R235, R245). -/
def State.homeEnter (s : State) (c : Instr) (tries : Nat) : State :=
  match homeReq c with
  | none => s
  | some r =>
    let n := s.homeSlice (128 * r.a)
    let need := BitVec.ofNat 4 (maskOf ((bitsOf 4 r.secs.toNat).filter (fun j => s.needsHbm n r.a j r.by_ r.getsec)))
    match (s.slice n).miss.find? (fun m => m.a = r.a) with
    | some m =>
      if m.waiters.length ≥ 64 then s.refuse n c tries
      else
        let more := need &&& ~~~m.asked
        (s.updSlice n (fun x => { x with miss := x.miss.map (fun m => if m.a = r.a then
          { m with asked := m.asked ||| more, need := m.need ||| more, waiters := m.waiters ++ [c] } else m) })).askHbm n r more
    | none =>
      let bad := (bitsOf 4 r.secs.toNat).any (fun j => !need.getLsbD j && (s.homeSector { getsec := r.getsec } n r.a j r.by_).1.poison ≠ 0)
      let s := if bad then s.metPoisonAt (128 * r.a) else s
      if (s.slice n).miss.length ≥ (if tries ≥ 8 then 128 else 124) then s.refuse n c tries
      else if need = 0 && !s.lineBlocked r.a then s.homeServe 0 c
      else (s.updSlice n (fun x => { x with miss := x.miss ++ [{ a := r.a, asked := need, need := need, waiters := [c] }] })).askHbm n r need

/-- The waiters of a miss register served in order. A sector that one of them has read from HBM is not read again, until
a write of the line (R235, R245). -/
def State.serveWaiters : State → BitVec 4 → List Instr → State
  | s, _, [] => s
  | s, f, c :: r =>
    let f' := match c with
      | .wrna .. => 0
      | .atomf .. => 0
      | _ => f ||| (match homeReq c with
        | some q => q.secs
        | none => 0)
    (s.homeServe f c).serveWaiters f' r

/-- Refused requests that have been refused eight times take registers as they become free (R233). -/
def State.admitRefused (s : State) (n : Nat) : State :=
  ((s.slice n).refused.filter (fun r => 8 ≤ r.tries)).foldl (fun (s : State) r =>
    if (s.slice n).miss.length ≥ 128 then s
    else (s.updSlice n (fun x => { x with refused := x.refused.filter (fun q => q.id ≠ r.id) })).homeEnter r.request r.tries) s

/-- Miss registers of a slice whose sectors are all there and whose line does not wait: their waiters served in order. -/
def State.settleSlice (s : State) (n : Nat) : State :=
  (((s.slice n).miss.filter (fun m => m.need = 0)).foldl (fun (s : State) m =>
    if s.lineBlocked m.a then s
    else (s.updSlice n (fun x => { x with miss := x.miss.filter (fun k => k.a ≠ m.a) })).serveWaiters 0 m.waiters) s).admitRefused n

/-- A request on its way to its home; that of a cluster goes on VC 0 (R395, R398). -/
def State.toItsHome (s : State) (c : Instr) : State :=
  match homeReq c with
  | some { by_ := some q, a := a, .. } => s.toHome q a 0
  | _ => s

/-- A request of an L2 takes one of its 256 miss registers, or waits for one (R230); any other request goes to its home. -/
def State.l2Enter (s : State) (c : Instr) : State :=
  match l2Request c with
  | none => (s.toItsHome c).homeEnter c 0
  | some q =>
    if (s.cluster q).misses.length ≥ 256 then s.updCluster q (fun x => { x with missWait := x.missWait ++ [c] })
    else ((s.toItsHome c).updCluster q (fun x => { x with misses := x.misses ++ [c] })).homeEnter c 0

/-- The requests of a cluster that waited for an L2 miss register enter as registers are free, oldest first (R230). -/
def State.admitL2 (s : State) (q : Nat) : State :=
  (s.cluster q).missWait.foldl (fun (s : State) c =>
    if (s.cluster q).misses.length ≥ 256 then s
    else (s.updCluster q (fun x => { x with missWait := x.missWait.erase c })).l2Enter c) s

def State.settleMisses (s : State) : State :=
  let s := (s.slices.map Prod.fst).foldl (fun (s : State) n => s.settleSlice n) s
  (s.clusters.map Prod.fst).foldl (fun (s : State) q => s.admitL2 q) s

/-- A request command: its line lies in HBM and its class is one of R253. -/
def homeCommand (ok : Bool) (c : Instr) (s : State) : Out :=
  onUnit ok (match homeReq c with
    | some r => if inHbm (128 * r.a) && r.cls < 7 then s.l2Enter c else s
    | none => s)

/-- GetS (R243, R244). -/
def execGets (cl : Nat) (pa : BitVec 56) (cls : Nat) (secs : BitVec 4) (s : State) : Out :=
  homeCommand (cl < 128) (.gets cl pa cls secs) s
/-- GetM (R243, R244). -/
def execGetm (cl : Nat) (pa : BitVec 56) (cls : Nat) (secs : BitVec 4) (s : State) : Out :=
  homeCommand (cl < 128) (.getm cl pa cls secs) s
/-- Upg, treated as GetM from a cluster that no longer holds the line (R244, R245). -/
def execUpg (cl : Nat) (pa : BitVec 56) (cls : Nat) (s : State) : Out := homeCommand (cl < 128) (.upg cl pa cls) s
/-- GetSec (R243, R244). -/
def execGetsec (cl : Nat) (pa : BitVec 56) (cls : Nat) (secs : BitVec 4) (s : State) : Out :=
  homeCommand (cl < 128) (.getsec cl pa cls secs) s
/-- Put of the line in the cluster's write-back buffer (R231, R244). -/
def execPut (cl : Nat) (pa : BitVec 56) (s : State) : Out := homeCommand (cl < 128) (.putLine cl pa) s
/-- RdNA for an instance's access (R234, R244). -/
def execRdna (inst : Nat) (pa : BitVec 56) (cls : Nat) (secs : BitVec 4) (prio : Prio) (s : State) : Out :=
  homeCommand (inst < 64) (.rdna inst pa cls secs prio) s
/-- WrNA for an instance's access, of bytes within one line (R234, R244, R246). -/
def execWrna (inst : Nat) (pa : BitVec 56) (cls : Nat) (data : List (BitVec 8)) (bulk : Bool) (s : State) : Out :=
  homeCommand (inst < 64) (.wrna inst pa cls data bulk) s
/-- Dead (R226, R227, R247). -/
def execDead (cl : Nat) (pa : BitVec 56) (s : State) : Out := homeCommand (cl < 128) (.dead cl pa) s

/-- Whether an operation, its type and its address make an atomic on HBM (R83, R87). -/
def atomWell (pa op ty : Nat) : Bool := inHbm pa && op ≤ 7 && atomOk op ty && pa % tySize ty = 0

/-- AtomF (R84, R244, R248). -/
def execAtomf (cl : Nat) (pa : BitVec 56) (cls : Nat) (op ty : BitVec 4) (x y : BitVec 256) (s : State) : Out :=
  if atomWell pa.toNat op.toNat ty.toNat then homeCommand (cl < 128) (.atomf cl pa cls op ty x y) s else onUnit (cl < 128) s

/-- A near atomic in the L2 of a cluster (R84, R245, R248). -/
def execNearAtomic (cl : Nat) (pa : BitVec 56) (cls : Nat) (op ty : BitVec 4) (x y : BitVec 256) (s : State) : Out :=
  onUnit (cl < 128) (
    if atomWell pa.toNat op.toNat ty.toNat && cls < 7 && !s.heldAt (64 * cl) pa.toNat true then
      let (old, _, s) := s.atomNear (s.clusterAcc cl cls pa.toNat) cl pa.toNat (tySize ty.toNat)
        (fun v => atomFn op.toNat ty.toNat v x.toNat y.toNat)
      s.send (.atomResult cl pa.toNat (old.map (BitVec.ofNat 256)))
    else s)

/-- A forward at an L2: the dirty sectors sent, from the write-back buffer where the Put is not acknowledged (R245). What
becomes of the copy, the home's transaction says (R244). It comes on VC 1, and the sectors go back on VC 2 (R395, R398). -/
def execForward (cl : Nat) (pa : BitVec 56) (s : State) : Out :=
  onUnit (cl < 128) (match s.ownerLine cl (lineOf pa.toNat) with
    | some l => (((s.fromHome cl l.a 1).toHome cl l.a 2)).send (.forwarded cl l.a l.dirty l.d)
    | none => s.fromHome cl (lineOf pa.toNat) 1)

/-- An invalidation at an L2: an S copy dropped, and the acknowledgement sent, holder or not (R242, R245). -/
def execInvalidation (cl : Nat) (pa : BitVec 56) (s : State) : Out :=
  onUnit (cl < 128) (
    let a := lineOf pa.toNat
    let s := match s.l2line cl a with
      | some l => if l.st = L2State.S then s.l2Drop cl a else s
      | none => s
    ((s.fromHome cl a 1).toHome cl a 2).send (.invAck cl a))

/-- A refused request sent again 64 fabric cycles, 43 ns, later (R233). -/
def execRetryResponse (slice id : Nat) (s : State) : Out :=
  onUnit (slice < 256) (match (s.slice slice).refused.find? (fun r => r.id = id) with
    | some r =>
      if s.clock.now < r.since + 43 then s
      else ((s.toItsHome r.request).updSlice slice (fun x => { x with refused := x.refused.filter (fun q => q.id ≠ id) })).homeEnter r.request r.tries
    | none => s)

/-! ## Counters (R254, R256) -/

/-- A write of LLC.CTRL: CLR clears every counter of every slice; SATEV is kept as written (R256). -/
def execLlcClr (src : Nat) (v : BitVec 32) (s : State) : Out :=
  .next (if s.regOpen src then
    let s := { s with llc := { s.llc with satev := v.getLsbD 1 } }
    if v.getLsbD 0 then
      { s with slices := s.slices.map (fun e => (e.1, { e.2 with cnt := [] })), llc := { s.llc with thrashBase := [] } }
    else s
  else s)

/-- The slices of a view: one slice, the package, or one hemi (R256). -/
def viewSlices (v : Nat) : List Nat :=
  if v < 256 then [v] else if v = 256 then List.range 256
  else if v < 265 then (List.range 32).map (fun k => (v - 257) * 32 + k) else []

/-- The sum of one counter over slices, saturating on its own (R254). -/
def State.sumCtr (s : State) (l : List Nat) (key : Nat) : Ctr :=
  l.foldl (fun (c : Ctr) n =>
    let d := NMap.at (s.slice n).cnt key {}
    let e := c.add d.count
    { e with ovf := e.ovf || d.ovf, told := false }) {}

/-- A write of LLC.SEL: the view selected and its counters snapshotted (R256). A reserved view is not taken (R8). -/
def execLlcSel (src : Nat) (v : BitVec 32) (s : State) : Out :=
  .next (if s.regOpen src && v.toNat % 512 < 265 then
    let l := viewSlices (v.toNat % 512)
    { s with llc := { s.llc with
      view := BitVec.ofNat 9 v.toNat
      snap := (List.range 35).foldl (fun (m : NMap Ctr) k => NMap.put {} m k (s.sumCtr l k)) [] } }
  else s)

/-! ## Near-home ranges (R237, R238) -/

/-- The LLC lines of a range of pages that are pinned, with the slice that holds each. -/
def State.pinnedLines (s : State) (lo hi : Nat) : List LlcLine :=
  s.slices.flatMap (fun e => e.2.lines.filter (fun l => l.pinned && lo ≤ 128 * l.a / 2 ^ 21 && 128 * l.a / 2 ^ 21 ≤ hi))

/-- A pinned line whose copies a change of homing has removed is allocated again, empty and pinned, at its new home: the
change ends no pin (R252). Where that set has no way for it, the pin is refused (R250). -/
def State.repin (s : State) (l : LlcLine) : State :=
  let n := s.homeSlice (128 * l.a)
  match s.llcAlloc {} n l.a with
  | (some m, s) => s.updSlice n (fun x => x.setLine { m with pinned := true, pinBy := l.pinBy })
  | (none, s) => s.count n 6 3 1

/-- A write of LLC.NH[i].CTRL: a range enabled, changed, refused for an overlap, or disabled; every copy of every line of
its old and its new extent is written back and dropped, and accesses to those pages wait (R238). -/
def execNearHomeEnable (src i : Nat) (v : BitVec 32) (s : State) : Out :=
  onUnit (i < 64) (
    let r := NMap.at s.llc.nh i {}
    let put := fun (s : State) (r : NearHome) => { s with llc := { s.llc with nh := NMap.put {} s.llc.nh i r } }
    if !s.regOpen src then s
    else
      let die : BitVec 2 := BitVec.ofNat 2 v.toNat
      let en := v.getLsbD 8
      let lo := r.base.toNat
      let hi := r.limit.toNat
      let clash := en && s.llc.nh.any (fun e => e.1 ≠ i && (match e.2.live with
        | some (a, b, _) => a ≤ hi && lo ≤ b
        | none => false))
      let live := if en && !clash then some (lo, hi, die.toNat) else none
      let r' := { r with die := die, en := live.isSome, refused := clash, live := live }
      if live = r.live then put s r'
      else
        let old := match r.live with
          | some (a, b, _) => [(a, b)]
          | none => []
        let new := if live.isSome then [(lo, hi)] else []
        let pins := ((old ++ new).flatMap (fun e => s.pinnedLines e.1 e.2)).eraseDups
        let s := (old ++ new).foldl (fun (s : State) e => s.flushRange (e.1 * 2 ^ 21) ((e.2 + 1) * 2 ^ 21)) s
        let s := put s { r' with busy := true, flushing := (if r.busy then r.flushing else []) ++ old ++ new }
        pins.foldl (fun (s : State) l => s.repin l) s)

/-- The flush of a range ends: BUSY clears and the accesses that wait go on (R238). -/
def execNearHomeFlushDone (i : Nat) (s : State) : Out :=
  onUnit (i < 64) (
    let r := NMap.at s.llc.nh i {}
    if r.busy then ({ s with llc := { s.llc with nh := NMap.put {} s.llc.nh i { r with busy := false, flushing := [] } } }).settleMisses else s)

/-! ## Thrash detection (R255) -/

/-- One class judged at the end of a window (DESIGN CHOICE, log 147). -/
def State.thrashClass (s : State) (c : Nat) : State :=
  let all := List.range 256
  let hit := (s.sumCtr all (5 * c)).count
  let miss := (s.sumCtr all (5 * c + 2)).count
  let dh := hit - NMap.at s.llc.thrashBase (2 * c) 0
  let dm := miss - NMap.at s.llc.thrashBase (2 * c + 1) 0
  let pct := min 100 (NMap.at s.llc.thrash c 0).toNat
  let below := decide (4096 ≤ dh + dm ∧ 100 * dh < pct * (dh + dm))
  let run := if below then NMap.at s.llc.thrashBelow c 0 + 1 else 0
  let active := NMap.at s.llc.thrashActive c false
  let above := decide (pct * (dh + dm) ≤ 100 * dh ∧ 0 < dh + dm)
  let fire := decide (10 ≤ run) && !active && pct ≠ 0
  let s := { s with llc := { s.llc with
    thrashBase := NMap.put 0 (NMap.put 0 s.llc.thrashBase (2 * c) hit) (2 * c + 1) miss
    thrashBelow := NMap.put 0 s.llc.thrashBelow c run
    thrashActive := NMap.put false s.llc.thrashActive c (if fire then true else active && !above) } }
  if fire then
    let rate := 100 * dh / (dh + dm)
    s.event 0 (s.record 6 1 0 0 (c + pct * 2 ^ 8 + rate * 2 ^ 16 + (s.sumCtr all (5 * c + 3)).count * 2 ^ 32))
  else s

/-- The end of a 100 µs window. -/
def execThrashWindow (s : State) : Out := .next ((List.range 7).foldl (fun (s : State) c => s.thrashClass c) s)

/-! ## The fence of a slice (R239, R439) -/

/-- Whether a slice is the last of its die in service. -/
def State.lastSlice (s : State) (n : Nat) : Bool :=
  ((List.range 64).filter (fun k => !(s.slice (n / 64 * 64 + k)).fenced)).length = 1 && !(s.slice n).fenced

/-- A slice fenced: its L2 copies recalled, its dirty sectors written to HBM, its requests sent to the new homes, and the
owners of pinned lines told. -/
def State.fenceSlice (s : State) (n : Nat) : State :=
  let u := sliceUnit n
  let x := s.slice n
  let owners := (x.lines.filter (fun l => l.pinned)).flatMap (fun l => (s.holder (128 * l.a / 2 ^ 21)).toList ++ l.pinBy)
  let s := (s.clusters.map Prod.fst).foldl (fun (s : State) q =>
    ((s.cluster q).wb.map (fun l => l.a)).foldl (fun (s : State) a => if s.homeSlice (128 * a) = n then s.takePut q a else s) s) s
  let s := (s.slice n).dir.foldl (fun (s : State) e => s.recallEntry n e) s
  let s := (s.slice n).lines.foldl (fun (s : State) l => s.llcEvict n l) s
  let held := x.miss.flatMap (fun m => m.waiters) ++ x.refused.map (fun r => r.request)
  let s := s.updSlice n (fun y => { y with fenced := true, lines := [], dir := [], miss := [], refused := [], hist := [] })
  let s := held.foldl (fun (s : State) c => s.homeEnter c 0) s
  let s := s.eventTo owners.eraseDups (s.record 6 2 0 u 0)
  let tell := fun (code : Nat) (s : State) => s.errRecord code 0 u (errDetail 0 0xFF 0 0x80 0) (0 :: owners)
  tell 8 (tell 7 s)

/-- The directory of a slice made anew from what every L2 holds of its lines (R439). -/
def State.searchL2s (s : State) (n : Nat) : State :=
  let held := s.clusters.flatMap (fun e => ((e.2.l2 ++ e.2.wb).filter (fun l => l.st ≠ .NC && s.homeSlice (128 * l.a) = n)).map (fun l => (e.1, l)))
  let entry := fun (a : Nat) =>
    let mine := held.filter (fun e => e.2.a = a)
    let group := BitVec.ofNat 32 (maskOf ((mine.filter (fun e => e.2.st = L2State.S)).map (fun e => e.1 / 4)).eraseDups)
    match mine.find? (fun e => e.2.st ≠ L2State.S) with
    | some e => ({ a := a, st := if e.2.st = .O then .O else .EM, owner := e.1, sharers := group } : DirEntry)
    | none => { a := a, st := .S, owner := 0, sharers := group }
  s.updSlice n (fun x => { x with dir := ((held.map (fun e => e.2.a)).eraseDups).map entry })

/-- The failure of a slice: fenced, or a package-fatal error where it is the last of its die (R239, R441). -/
def State.loseSlice (s : State) (n : Nat) : State :=
  if (s.slice n).fenced then s else if s.lastSlice n then s.packageFatal (sliceUnit n) else s.fenceSlice n

/-- The steward fences an LLC slice (R239, R441). -/
def execLlcSliceFence (slice : Nat) (s : State) : Out := onUnit (slice < 256) (s.loseSlice slice)

end Sys2Proof.Machine
end

