-- ==== Sys2Proof/Machine/Hbm.lean ====
section
/-! DEFINITION. The HBM controllers (chapter "HBM memory system"): arbitration, read data, patrol, recalibration, fences,
retirement and margining (R258 to R269), with the granule decoding of R428. -/

namespace Sys2Proof.Machine
open Sys2Proof

/-! ## Arbitration (R261, R262) -/

/-- The bank of a line, and its row. -/
def HbmReq.bank (q : HbmReq) : Nat := hbmRow (128 * q.a + 32 * q.sec) % 64
def HbmReq.row (q : HbmReq) : Nat := hbmRow (128 * q.a + 32 * q.sec) / 64

def Pch.rowReady (p : Pch) (q : HbmReq) : Bool := NMap.find p.openRows q.bank = some q.row

/-- The next critical request: the oldest whose row is open, else the oldest. -/
def Pch.nextCrit (p : Pch) : Option HbmReq :=
  let w := p.crit.take 32
  (w.find? p.rowReady).or w.head?

/-- The next normal request: the oldest whose row is open, unless an older one has been bypassed 16 times. -/
def Pch.nextNorm (p : Pch) : Option HbmReq :=
  let w := p.norm.take 128
  match w.find? p.rowReady with
  | none => w.head?
  | some q => if (w.takeWhile (fun r => r.id ≠ q.id)).any (fun r => r.bypassed ≥ 16) then w.head? else some q

/-- The request that the next burst slot serves, and whether it is a bulk one. A stack above 95 °C grants bulk its floor
only (R420). -/
def Pch.pick (p : Pch) (hot : Bool) : Option (HbmReq × Bool) :=
  let bulk := (p.bulk.take 64).head?
  match p.nextCrit with
  | some q => some (q, false)
  | none =>
    match bulk with
    | some b => if (p.slots.take 10).all (fun x => !x) then some (b, true)
      else match p.nextNorm with
        | some q => some (q, false)
        | none => if hot then none else some (b, true)
    | none => p.nextNorm.map (fun q => (q, false))

def State.hotStack (s : State) (stack : Nat) : Bool := (NMap.at s.hbm.temp stack 0).toInt > 95 * 256

/-- One burst slot of a pseudo-channel in service whose channel has no recalibration window open: the request served, or
an unused slot. A write that is served has ended; the data of a read is in flight (R262, R264). -/
def execHbmBurstSlot (pch : Nat) (s : State) : Out :=
  onUnit (pch < 1024) (
    let p := s.pch pch
    if p.state ≠ 0 || s.hbm.recal.contains (pch / 64, pch % 64 / 2) then s
    else match p.pick (s.hotStack (pch / 64)) with
      | none => s.updPch pch (fun p => { p with slots := false :: p.slots.take 9 })
      | some (q, bulk) =>
        s.updPch pch (fun p => { p with
          crit := p.crit.filter (fun r => r.id ≠ q.id)
          norm := (p.norm.map (fun r => if p.norm.any (fun m => m.id = q.id) && r.id < q.id then { r with bypassed := r.bypassed + 1 } else r)).filter
            (fun r => r.id ≠ q.id)
          bulk := p.bulk.filter (fun r => r.id ≠ q.id)
          flight := if q.write then p.flight else p.flight ++ [q]
          slots := bulk :: p.slots.take 9
          openRows := NMap.ins p.openRows q.bank q.row }))

/-! ## Fences of pseudo-channels and stacks (R265, R267) -/

/-- The pages of a pseudo-channel's set that an instance holds (R260, R267). -/
def Inst.pagesInSet (x : Inst) (set : Nat) : Nat :=
  (x.ranges.map (fun r => (r.2 + 128 - set) / 128 - (r.1 + 127 - set) / 128)).sum

/-- The reads of a pseudo-channel that have no answer get poison: their waiters are served from it. -/
def State.failReads (s : State) (n : Nat) : State :=
  let p := s.pch n
  let s := s.setPch n { p with crit := [], norm := [], bulk := [], flight := [] }
  ((p.flight ++ p.crit ++ p.norm ++ p.bulk).foldl (fun (s : State) q =>
    s.updSlice q.slice (fun x => { x with miss := x.miss.map (fun m =>
      if m.a = q.a then { m with need := m.need &&& ~~~(secBit q.sec) } else m) })) s).settleMisses

/-- A pseudo-channel fenced. -/
def State.fencePch (s : State) (n : Nat) : State :=
  if (s.pch n).state = 1 then s
  else
    let u := pchUnit n
    let s := (s.updPch n (fun p => { p with state := 1 })).failReads n
    let s := { s with hbm := { s.hbm with chans := insNat s.hbm.chans n } }
    let mine := s.insts.filter (fun e => e.2.pagesInSet (n % 128) ≠ 0)
    let s := mine.foldl (fun (s : State) e => s.event e.1 (s.record 6 4 0 u (e.2.pagesInSet (n % 128)))) s
    let tell := fun (code : Nat) (s : State) => s.errRecord code 0 u (errDetail 0 0xFF 0 0x80 0) (0 :: mine.map Prod.fst)
    tell 8 (tell 7 s)

/-- A stack fenced: its 64 pseudo-channels, the stack out of service, and its own records (R265, R434). -/
def State.fenceStack (s : State) (k : Nat) : State :=
  let s := (List.range 64).foldl (fun (s : State) j => s.fencePch (64 * k + j)) s
  let s := { s with hbm := { s.hbm with up := s.hbm.up &&& ~~~(BitVec.ofNat 16 (1 <<< k)) } }
  let mine := (s.insts.filter (fun e => (List.range 64).any (fun j => e.2.pagesInSet ((64 * k + j) % 128) ≠ 0))).map Prod.fst
  let tell := fun (code : Nat) (s : State) => s.errRecord code 0 (stackUnit k) (errDetail 0 0xFF 0 0x80 0) (0 :: mine)
  tell 8 (tell 7 s)

/-- A pseudo-channel fenced automatically (R265, R267). -/
def execPseudoChannelFence (pch : Nat) (s : State) : Out := onUnit (pch < 1024) (s.fencePch pch)

/-- A write of HBM.FENCE (R267, R269). -/
def execHbmFence (src : Nat) (v : BitVec 32) (s : State) : Out :=
  .next (if s.regOpen src && v.getLsbD 31 then s.fenceInTurn (pchUnit (v.toNat % 1024)) (fun s => s.fencePch (v.toNat % 1024)) else s)

/-! ## Reads and the granule code (R263, R265, R428) -/

/-- A stored granule read with some of its 144 bits flipped: its verdict, and the bits that are delivered and written back. -/
def decodeGranule (data : Nat) (poison : Bool) (flip : Nat) : Verdict × Nat × Nat :=
  let w := (data + (checkBits data ^^^ (if poison then 0xFFFF else 0)) * 2 ^ 128) ^^^ flip
  let syn := syndrome w
  match verdict syn with
  | .corrected k e => (.corrected k e, (w ^^^ (e <<< (4 * k))) % 2 ^ 128, syn)
  | v => (v, w % 2 ^ 128, syn)

/-- A corrected sector counted, and the page advised for retirement when 16 distinct sectors of it have been corrected
within 24 h (R265). -/
def State.notedCorrected (s : State) (pa : Nat) : State :=
  let n := pchOf pa
  let page := pa / 2 ^ 21
  let live := s.hbm.corrected.filter (fun e => s.clock.now < e.2.2 + 86400 * 10 ^ 9)
  let new := !live.any (fun e => e.2.1 = pa / 32)
  let live := (page, pa / 32, s.clock.now) :: live.filter (fun e => e.2.1 ≠ pa / 32)
  let s := (s.updPch n (fun p => { p with ce := sat16 p.ce 1 }))
  let s := { s with hbm := { s.hbm with corrected := live } }
  if new && (live.filter (fun e => e.1 = page)).length = 16 then s.event 0 (s.record 6 3 0 (pchUnit n) page) else s

/-- An uncorrectable sector counted, its page advised for retirement, and the pseudo-channel fenced when three pages of it
have had one within 1 s (R265). -/
def State.notedUncorrectable (s : State) (pa : Nat) : State :=
  let n := pchOf pa
  let page := pa / 2 ^ 21
  let live := (n, page, s.clock.now) :: s.hbm.uncorr.filter (fun e => s.clock.now < e.2.2 + 10 ^ 9)
  let s := s.updPch n (fun p => { p with ue := sat16 p.ue 1 })
  let s := { s with hbm := { s.hbm with uncorr := live } }
  let s := s.event 0 (s.record 6 3 0 (pchUnit n) page)
  if (((live.filter (fun e => e.1 = n)).map (fun e => e.2.1)).eraseDups).length ≥ 3 then s.fencePch n else s

/-- A sector read whose two granules, of bits 127..0 and 255..128, have been decoded: written back as decoded, its
corrections and losses logged and counted. -/
def State.decodedSector (s : State) (p : Nat) (r0 r1 : Verdict × Nat × Nat) : State :=
  let n := pchOf p
  let bad := fun (v : Verdict) => v = .poisoned || v = .uncorrectable
  let s := s.hbmPut p { data := BitVec.ofNat 256 (r0.2.1 + r1.2.1 * 2 ^ 128), poison := BitVec.ofNat 2 (b2n (bad r0.1) + 2 * b2n (bad r1.1)) }
  let i := s.holder (p / 2 ^ 21)
  let own := i.getD 0x80
  let note := fun (v : Verdict) (syn addr : Nat) (s : State) => match v with
    | .corrected k _ => s.logCorrected (pchUnit n) addr k syn own
    | .uncorrectable => s.errRecord 2 2 (pchUnit n) (errDetail addr 0xFF syn own 0) (0 :: i.toList)
    | _ => s
  let s := note r1.1 r1.2.2 (p + 16) (note r0.1 r0.2.2 p s)
  let fixed := fun (v : Verdict) => match v with
    | .corrected _ _ => true
    | _ => false
  let s := if fixed r0.1 || fixed r1.1 then s.notedCorrected p else s
  if r0.1 = .uncorrectable || r1.1 = .uncorrectable then s.notedUncorrectable p else s

/-- One sector of HBM read: each granule decoded, corrected or poisoned in place, counted and recorded (R265, R428, R434). -/
def State.readSector (s : State) (pa : Nat) (flip0 flip1 : BitVec 144) : State :=
  let p := alignDown pa 32
  if (s.pch (pchOf p)).state = 1 then s
  else
    let x := s.hbmSector p
    s.decodedSector p (decodeGranule (x.data.toNat % 2 ^ 128) (x.poison.getLsbD 0) flip0.toNat)
      (decodeGranule (x.data.toNat / 2 ^ 128) (x.poison.getLsbD 1) flip1.toNat)

/-- Poison that a read meets starts a restore in a restorable set, and makes a set without a backing copy failed (R431, R433). -/
def State.restoreIfBad (s : State) (pa : Nat) : State :=
  if (s.hbmSector pa).poison ≠ 0 then s.metPoisonAt pa else s

/-- Read data reaches the home slice: the requests that waited for it alone are served; a patrol read ends (R235, R259, R263). -/
def execHbmReadData (pch id : Nat) (flip0 flip1 : BitVec 144) (s : State) : Out :=
  onUnit (pch < 1024) (match (s.pch pch).flight.find? (fun q => q.id = id) with
    | none => s
    | some q =>
      let pa := 128 * q.a + 32 * q.sec
      let s := s.updPch pch (fun p => { p with flight := p.flight.filter (fun r => r.id ≠ id) })
      let f := q.patrol.getD (0, 0)
      let s := (s.readSector pa (flip0 ^^^ f.1) (flip1 ^^^ f.2)).restoreIfBad pa
      let s := if q.patrol.isSome then s else s.updSlice q.slice (fun x => { x with miss := x.miss.map (fun m =>
        if m.a = q.a then { m with need := m.need &&& ~~~(secBit q.sec) } else m) })
      s.settleMisses)

/-- A patrol read enters the bulk queue of its pseudo-channel, with the bit errors that the sector holds; it is served at a
burst slot and decoded when its data returns (R259, R261, R265, R431). -/
def execPatrol (pa : BitVec 56) (flip0 flip1 : BitVec 144) (s : State) : Out :=
  .next (
    let n := pchOf pa.toNat
    if inHbm pa.toNat && (s.pch n).state = 0 then
      let q : HbmReq := { id := s.hbm.nextReq, slice := 0, a := lineOf pa.toNat, sec := pa.toNat % 128 / 32, bypassed := 0,
                          since := s.clock.now, patrol := some (flip0, flip1) }
      ({ s with hbm := { s.hbm with nextReq := s.hbm.nextReq + 1 } }).updPch n (fun p => { p with bulk := p.bulk ++ [q] })
    else s)

/-! ## Recalibration and temperature (R258, R264, R420) -/

/-- A recalibration window of a channel opens: at a beat edge at least 8 beats after the stack's last one, or with no cadence on the 2 ms
timer; one channel of a stack at a time, each channel once in 1,000 beats, and not while a critical request has waited over 400 ns. A
channel under self-test is tested in its window (R477; DESIGN CHOICE, log 149: a timer for each stack). -/
def execRecalibrationWindow (stack chan : Nat) (s : State) : Out :=
  onUnit (stack < 16 && chan < 32) (
    let waits := (List.range 2).any (fun j => (s.pch (64 * stack + 2 * chan + j)).crit.any (fun q => q.since + 400 < s.clock.now))
    let beats := s.cad.src ≠ 0 && !s.cad.lost
    let due := if beats then s.cad.phase = 0 && (match NMap.find s.hbm.recalBeat stack with
        | some b => b + 8 ≤ s.cad.beat.toNat
        | none => true)
      else match NMap.find s.hbm.recalAt stack with
        | some t => t + 2000000 ≤ s.clock.now
        | none => true
    let again := beats && (match NMap.find s.hbm.recalChan (32 * stack + chan) with
      | some b => s.cad.beat.toNat < b + 1000
      | none => false)
    if waits || !due || again || s.hbm.recal.any (fun w => w.1 = stack) then s
    else
      let s := if s.bist.busy && s.bist.target = 2 && !(List.range 24).any (fun l => linkUnit l = s.bist.unit) then
          { s with bist := { s.bist with left := s.bist.left.erase (32 * stack + chan) } }
        else s
      { s with hbm := { s.hbm with
      recal := (stack, chan) :: s.hbm.recal
      recalBeat := NMap.ins s.hbm.recalBeat stack s.cad.beat.toNat
      recalAt := NMap.ins s.hbm.recalAt stack s.clock.now
      recalChan := NMap.ins s.hbm.recalChan (32 * stack + chan) s.cad.beat.toNat } })

/-- The window ends; what waits is served again (R264). -/
def execRecalibrationWindowEnd (stack chan : Nat) (s : State) : Out :=
  onUnit (stack < 16 && chan < 32) { s with hbm := { s.hbm with recal := s.hbm.recal.filter (fun w => w ≠ (stack, chan)) } }

/-- A stack's temperature read: the refresh doubles above 85 °C, and crossing 95 °C writes the HBM-thermal event (R258, R420). -/
def execHbmTemperatureRead (stack : Nat) (temp : BitVec 16) (s : State) : Out :=
  onUnit (stack < 16) (
    let was := s.hotStack stack
    let m := BitVec.ofNat 16 (2 ^ stack)
    let s := { s with hbm := { s.hbm with
      temp := NMap.put 0 s.hbm.temp stack temp
      refresh2 := if temp.toInt ≤ 85 * 256 then s.hbm.refresh2 &&& ~~~m else s.hbm.refresh2 ||| m } }
    if s.hotStack stack && !was then s.event 0 (s.record 6 5 0 (stackUnit stack) temp.toNat) else s)

/-! ## Retirement (R266, R269) -/

/-- Bring-up mode (R476). -/
def State.bringup (s : State) : Bool := s.boot.mode = 2

/-- Whether a page is retired or will be when it is released (R266, R267). -/
def State.retiredPage (s : State) (page : Nat) : Bool :=
  s.hbm.pages.contains page || s.hbm.chans.any (fun n => n % 128 = page % 128)

/-- A write of HBM.RETIRE with UNDO = 0: a page retired; discarded with CH = 1. -/
def execHbmRetire (src : Nat) (v : BitVec 32) (s : State) : Out :=
  .next (if s.regOpen src && v.getLsbD 31 && !v.getLsbD 30 && !v.getLsbD 29 then
    let page := v.toNat % 2 ^ 19
    if (s.holder page).isSome then { s with hbm := { s.hbm with result := 1 } }
    else if s.hbm.pages.length ≥ 4096 then { s with hbm := { s.hbm with result := 2 } }
    else { s with hbm := { s.hbm with pages := insNat s.hbm.pages page, result := 0 } }
  else s)

/-- A write of HBM.RETIRE with UNDO = 1 and CH = 0: a page entry removed in bring-up mode. -/
def execHbmRetireUndoPage (src : Nat) (v : BitVec 32) (s : State) : Out :=
  .next (if s.regOpen src && v.getLsbD 31 && v.getLsbD 30 && !v.getLsbD 29 then
    let page := v.toNat % 2 ^ 19
    if s.bringup && s.hbm.pages.contains page then
      { s with hbm := { s.hbm with pages := s.hbm.pages.filter (fun p => p ≠ page), result := 0 } }
    else { s with hbm := { s.hbm with result := 3 } }
  else s)

/-- A write of HBM.RETIRE with UNDO = 1 and CH = 1: a channel entry removed in bring-up mode. -/
def execHbmRetireUndoChannel (src : Nat) (v : BitVec 32) (s : State) : Out :=
  .next (if s.regOpen src && v.getLsbD 31 && v.getLsbD 30 && v.getLsbD 29 then
    let n := v.toNat % 1024
    if s.bringup && s.hbm.chans.contains n then
      { s with hbm := { s.hbm with chans := s.hbm.chans.filter (fun p => p ≠ n), result := 0 } }
    else { s with hbm := { s.hbm with result := 3 } }
  else s)

/-! ## Margining (R268, R269) -/

/-- A write of HBM.MCTRL with GO: the fields are kept, and the run starts or is refused. -/
def execHbmMargin (src : Nat) (v : BitVec 32) (s : State) : Out :=
  .next (if s.regOpen src && v.getLsbD 31 then
    if s.hbm.mgo then { s with hbm := { s.hbm with mrefused := true } }
    else
      let n := v.toNat % 1024
      let line := fld v.toNat 10 6
      let vd := sext 5 (fld v.toNat 22 5)
      let ok := s.bringup && s.insts.all (fun e => e.2.pagesInSet (n % 128) = 0) && line < 36 && -12 ≤ vd && vd ≤ 12
      let s := { s with hbm := { s.hbm with
        mpch := BitVec.ofNat 10 n, mbit := BitVec.ofNat 6 line, mdeskew := BitVec.ofNat 6 (fld v.toNat 16 6)
        mvddq := BitVec.ofNat 5 (fld v.toNat 22 5), mgo := ok, mrefused := !ok } }
      if ok then s.updPch n (fun p => if p.state = 0 then { p with state := 2 } else p) else s
  else s)

/-- The run ends: the trained settings are back, and the contents of the pseudo-channel are lost. -/
def execHbmMarginDone (errs : Nat) (s : State) : Out :=
  .next (if s.hbm.mgo then
    let n := s.hbm.mpch.toNat
    let e := 2 * (n / 256) + n / 128 % 2
    let here := fun (pa : Nat) => pchOf pa = n
    let seed := s.clock.free
    let s := s.updPch n (fun p => if p.state = 2 then { p with state := 0 } else p)
    { s with
      clock := { s.clock with free := seed + 1 }
      hbm := { s.hbm with mgo := false, merrs := BitVec.ofNat 16 (min 0xFFFF errs) }
      mem := { s.mem with
        hbm := s.mem.hbm.filter (fun c => !here c.1)
        hbmPoison := s.mem.hbmPoison.filter (fun g => !here (16 * g))
        lost := (List.range 4096).foldl (fun (m : NMap Nat) k => NMap.ins m (8 * (128 * k + n % 128) + e) seed) s.mem.lost } }
  else s)

end Sys2Proof.Machine
end

