-- ==== Sys2Proof/Machine/Cadence.lean ====
section
/-! DEFINITION. The cadence unit: beats, symbols, loss and snapshots (chapter "Cadence and beat scheduling"; R302 to R314). -/

namespace Sys2Proof.Machine
open Sys2Proof

/-! ## The snapshot record (R313) -/

/-- The counter window of some slices: 64 bytes a class (R256). -/
def llcWindow (m : NMap Ctr) : List Byte :=
  (List.range 7).flatMap (fun c => (List.range 8).flatMap (fun k =>
    leBytes 8 (if k < 5 then (NMap.at m (5 * c + k) {}).reg else 0)))

/-- The counters of a view. -/
def State.viewCounters (s : State) (v : Nat) : NMap Ctr :=
  (List.range 35).foldl (fun (m : NMap Ctr) k => NMap.put {} m k (s.sumCtr (viewSlices v) k)) []

/-- REEL.CSTAT[n].QUEUE: the entries in use and the tag of the oldest launch that has one (R199). -/
def State.queueReg (s : State) (n : Nat) : Nat :=
  let q := (s.cluster n).queue
  let oldest := s.launches.find? (fun l => q.any (fun e => e.inst = l.inst && e.idx = l.idx))
  q.length % 2 ^ 13 + ((oldest.map (fun l => l.idx % 2 ^ 16)).getD 0) * 2 ^ 16

/-- REEL.CSTAT[n] (R199). -/
def State.cstat (s : State) (n : Nat) : List Byte :=
  let c := s.cluster n
  leBytes 8 (s.queueReg n) ++ leBytes 8 c.steals.reg ++ leBytes 8 c.victim.reg ++ leBytes 8 c.requeue.reg

/-- HBM.PCSTAT[n] and HBM.ERRCNT[n] (R269). -/
def State.pcstat (s : State) (n : Nat) : Nat := (s.pch n).state.toNat + (NMap.at s.hbm.temp (n / 64) 0).toNat * 2 ^ 16
def State.hbmErrcnt (s : State) (n : Nat) : Nat := (s.pch n).ce.toNat + (s.pch n).ue.toNat * 2 ^ 16

/-- The body of a snapshot record from offset 0x40 on. -/
def State.snapBody (s : State) : List Byte :=
  llcWindow (s.viewCounters 256) ++ List.replicate 0x200 0
    ++ (List.range 128).flatMap s.cstat
    ++ (List.range 1024).flatMap (fun n => leBytes 4 (s.hbmErrcnt n))
    ++ (List.range 1024).flatMap (fun n => leBytes 4 (s.pcstat n))
    ++ List.replicate 0xC00 0

/-- A part of a snapshot record written, where none of its lines has to wait. -/
def State.putSnap (s : State) (va : Nat) (bs : List Byte) : State :=
  ((s.entryWrite agentPart 0 (2 ^ 32) .write va (clean bs) false).2.2).closeBatches partTag

/-- The snapshot record under way moved on: its body, and once every write of that is performed its header, which is released so at
system scope (R211, R313). -/
def State.driveSnap (s : State) : State :=
  let waits := fun (s : State) (va n : Nat) => s.writeWaits agentPart 0 .write va n
  let away := s.ael.outst.any (fun o => o.p.opc = 1 && (match o.owner with
    | .entry i idx _ => i = 0 && idx = 2 ^ 32
    | _ => false))
  match s.cad.snapJob with
  | none => s
  | some j =>
    if !j.sent then
      if waits s (j.at_ + 64) j.body.length then s
      else
        let s := s.putSnap (j.at_ + 64) j.body
        { s with cad := { s.cad with snapJob := some { j with sent := true } } }
    else if away || waits s j.at_ j.head.length then s
    else
      let s := s.putSnap j.at_ j.head
      { s with cad := { s.cad with snapJob := none } }

/-- A snapshot that falls due at a beat: its contents are taken, and its record is begun; it is skipped while the previous one is
being written. -/
def State.snapshot (s : State) : State :=
  let c := s.cad
  if s.clock.now < c.snapUntil || c.snapJob.isSome then
    { s with cad := { c with snapskip := BitVec.ofNat 8 (min 255 (c.snapskip.toNat + 1)) } }
  else
    let job : SnapJob :=
      { at_ := c.snapaddr.toNat + 16384 * (c.snapseq.toNat % 2 ^ c.log2.toNat)
        head := leBytes 8 c.beat.toNat ++ leBytes 4 c.phase.toNat ++ leBytes 4 c.snapseq.toNat ++ leBytes 4 0x3400 ++ leBytes 44 0
        body := s.snapBody
        sent := false }
    let s := { s with cad := { c with snapseq := c.snapseq + 1, snapUntil := s.clock.now + 20000, snapJob := some job } }
    s.driveSnap.driveSnap

/-! ## Beats (R302 to R306, R311) -/

/-- An event for every active instance (R311, R360). -/
def State.eventAll (s : State) (r : Record) : State := s.eventTo ((s.insts.filter (fun e => e.2.state = .active)).map Prod.fst) r

/-- A symbol sent on the up links of a mask. -/
def State.sendSymbol (s : State) (mask : BitVec 24) (hops : Nat) (leader : BitVec 12) : State :=
  (bitsOf 24 mask.toNat).foldl (fun (s : State) l => if s.linkUp l then s.sendControl l false [symbolMessage hops leader s.cad.beat] else s) s

/-- A beat counted: the counter, the phase and CAD.MEAS, the cadence regained, CAD_OUT, a leader's symbol, a snapshot. -/
def State.countBeat (s : State) (b : BitVec 64) : State :=
  let c := s.cad
  let meas := match c.beatAt with
    | some t => BitVec.ofNat 32 (min 0xFFFFFFFF (s.clock.now - t))
    | none => c.meas
  let s := { s with cad := { c with beat := b, phase := 0, meas := meas, lost := false, beatAt := some s.clock.now } }
  let s := if c.lost then s.eventAll (s.record 8 2 0 (blockUnit 4 5) c.src.toNat) else s
  let s := if c.outen then s.send (.cadOut b (min 500 (c.period.toNat / 2))) else s
  let s := if c.leader && (c.src = 1 || c.src = 3) then s.sendSymbol c.txlinks 0 s.ael.id else s
  if c.div ≠ 0 && c.beat.toNat / c.div.toNat < b.toNat / c.div.toNat then s.snapshot else s

/-- A pin edge taken: a beat, or a glitch when it comes within half a period of the last one. The greatest beat number stays,
since the counter never wraps (R302, R304). -/
def State.takeEdge (s : State) : State :=
  let c := s.cad
  let early : Bool := match c.beatAt with
    | some t => decide (2 * (s.clock.now - t) < c.period.toNat)
    | none => false
  if c.src ≠ 1 || !s.board.rails then s
  else if early then { s with cad := { c with glitch := sat16 c.glitch 1 } }
  else if c.beat.toNat = 2 ^ 64 - 1 then s
  else s.countBeat (c.beat + 1)

/-- The edges whose delay is over, taken in the order in which they reached the pins (R304). -/
def State.takeEdges (s : State) : State :=
  let due := s.cad.edges.filter (fun t => t ≤ s.clock.now)
  due.foldl (fun (s : State) _ => s.takeEdge) { s with cad := { s.cad with edges := s.cad.edges.filter (fun t => s.clock.now < t) } }

/-- CAD_IN_EDGE: an edge at the pins, taken at once or after the delay; ignored where the pins are not the selected source (R304). -/
def execCadInEdge (s : State) : Out :=
  .next (if s.cad.src ≠ 1 then s
    else if s.cad.delay = 0 then s.takeEdge
    else { s with cad := { s.cad with edges := s.cad.edges ++ [s.clock.now + s.cad.delay.toNat] } })

/-- A symbol received on a link (R304, R305). -/
def State.symbolIn (s : State) (link hops leader : Nat) (beat : BitVec 64) : State :=
  let c := s.cad
  if c.src ≠ 2 || c.rxlink.toNat ≠ link || !s.linkUp link || beat.toNat ≤ c.beat.toNat then s
  else
    let s := ({ s with cad := { c with hops := BitVec.ofNat 4 hops } }).countBeat beat
    if hops % 16 = 15 then s
    else s.sendSymbol (c.txlinks &&& ~~~(BitVec.ofNat 24 (1 <<< link))) (hops % 16 + 1) (BitVec.ofNat 12 leader)

/-- CADENCE_SYMBOL (R304, R305). -/
def execCadenceSymbol (link hops leader : Nat) (beat : BitVec 64) (s : State) : Out :=
  onUnit (link < 24) (s.symbolIn link hops leader beat)

/-- SWBEAT: a 64-bit write (R304, R314). -/
def execSwbeat (src : Nat) (v : BitVec 64) (s : State) : Out :=
  .next (if s.regOpen src && s.cad.src = 3 && s.cad.beat.toNat < v.toNat then s.countBeat v else s)

/-- CAD_BEAT_PRESET (R302, R314). -/
def execCadBeatPreset (src : Nat) (v : BitVec 64) (s : State) : Out :=
  .next (if s.regOpen src && s.cad.src = 0 && s.cad.beat.toNat ≤ v.toNat then { s with cad := { s.cad with beat := v } } else s)

/-- CAD_BEAT_READ: the counter is returned and the phase latched (R303). -/
def execCadBeatRead (src : Nat) (s : State) : Out :=
  .next (if s.regOpen src then
    ({ s with cad := { s.cad with phaseLatch := s.cad.phase } }).send (.readCompletion (leBytes 8 s.cad.beat.toNat) false)
  else s.send (.readCompletion (leBytes 8 0) false))

/-- CAD_SOURCE_CHANGE: a write of CAD.CFG. A change of source keeps the counter and the time of the last counted beat, and
restarts the loss timer; without a source the cadence is never lost (R304, R311, R314). -/
def execCadSourceChange (src : Nat) (v : BitVec 32) (s : State) : Out :=
  .next (
    let w := v.toNat
    if !s.regOpen src || 24 ≤ fld w 4 5 then s
    else
      let c := { s.cad with
        src := BitVec.ofNat 2 w, leader := bit w 2, outen := bit w 3, rxlink := BitVec.ofNat 5 (fld w 4 5), delay := BitVec.ofNat 10 (fld w 10 10) }
      if c.src = s.cad.src then { s with cad := c }
      else { s with cad := { c with selectAt := s.clock.now, lost := c.lost && c.src ≠ 0 } })

/-- CAD_CLR (R314). -/
def execCadClr (src : Nat) (v : BitVec 32) (s : State) : Out :=
  .next (if s.regOpen src && v.getLsbD 0 then { s with cad := { s.cad with snapskip := 0, glitch := 0, late := {} } } else s)

/-- The time the loss timer runs from: the last counted beat, or the selection of the source when that is later (R311). -/
def Cad.since (c : Cad) : Nat :=
  match c.beatAt with
  | some t => max t c.selectAt
  | none => c.selectAt

/-- Held entries released at the loss of the cadence, of every instance with policy 1 (R312). -/
def State.runUntagged (s : State) : State :=
  { s with insts := s.insts.map (fun e =>
    if s.cad.losspol.toNat.testBit e.1 then
      (e.1, { e.2 with entries := e.2.entries.map (fun o => if o.held then { o with held := false, free := true } else o) })
    else e) }

/-- The cadence lost where it is: no beat within two periods, or the receiving link has gone down (R311). -/
def State.loseCadence (s : State) (down : Bool) : State :=
  let c := s.cad
  let due := c.since + 2 * c.period.toNat ≤ s.clock.now || down
  if c.src = 0 || c.lost || !due then s
  else
    let s := ({ s with cad := { c with lost := true } }).runUntagged
    s.eventAll (s.record 8 1 0 (blockUnit 4 5) c.src.toNat)

/-- CADENCE_LOST (R311). -/
def execCadenceLost (s : State) : Out := .next (s.loseCadence false)

end Sys2Proof.Machine
end

