-- ==== Sys2Proof/Machine/Flits.lean ====
section
/-! DEFINITION. The Aeldon link layer: flits, replay, credits, widths, training and loss of links, and routing (R368 to
R383). -/

namespace Sys2Proof.Machine
open Sys2Proof

/-! ## Collectives that end (R392) -/

/-- A run that fails: EN cleared, RUNS and DONE left, the event to the instance and to instance 0. -/
def State.failColl (s : State) (c : Nat) : State :=
  let x := s.coll c
  match x.run with
  | none => s
  | some d =>
    let up := (bitsOf 24 (NMap.at s.ael.route d.next.toNat 0).toNat).filter (fun l => s.linkUp l)
    let s := s.setColl c { x with en := false, run := none, tokens := 0, txids := [], buf := [], remote := [] }
    s.eventTo [x.inst.toNat, 0].eraseDups (s.record 9 4 0 (routerUnit (up.headD 0)) c)

/-- Runs whose next module has no up port any more (R392). -/
def State.failCut (s : State) : State :=
  (List.range 64).foldl (fun (s : State) c =>
    match (s.coll c).run with
    | none => s
    | some d => if (bitsOf 24 (NMap.at s.ael.route d.next.toNat 0).toNat).any (fun l => s.linkUp l) then s else s.failColl c) s

/-! ## Loss of a link (R369, R378, R439) -/

/-- The packets of a replay buffer, each once. -/
def sentPackets : List SentFlit → List Packet
  | [] => []
  | f :: r => f.packet :: (r.filter (fun g => g.first ≠ 15)).map SentFlit.packet

/-- A packet that waited for a port that has gone, routed again (R378). Where its new port is one of the other I/O die it crosses the package,
and a request has then left through that die's router (R379, R389). -/
def State.reroute (s : State) (gone : Nat) (w : Queued) : State :=
  let p := w.packet
  if p.mc then s
  else match s.port p with
    | some l =>
      let s := if (gone < 12) ≠ (l < 12) then s.crossPackage (gone < 12) p else s
      let s := if isRequest p.opc.toNat && !s.forwards p then
          { s with ael := { s.ael with outst := s.ael.outst.map (fun o => if o.txid = p.txid then { o with router := routerUnit l } else o) } }
        else s
      s.updLink l (fun k => { k with waiting := k.waiting ++ [{ w with told := false }] })
    | none => if isRequest p.opc.toNat then (s.route none 0 (s.rejectOf p 0x0301)).2 else s

/-- Packets that waited for a port that has gone, routed again and sent where there are credits. -/
def State.rerouteAll (s : State) (gone : Nat) (ws : List Queued) : State :=
  let s := ws.foldl (fun (s : State) w => s.reroute gone w) s
  (List.range 24).foldl (fun (s : State) l => s.drainLink (s.link l).waiting.length l) s

/-- A link down: out of route choice, requests that may or may not have arrived rejected with link-lost, responses dropped,
waiting packets routed again (R378). -/
def State.linkDown (s : State) (l : Nat) : State :=
  let k := s.link l
  if k.state ≠ 2 then s
  else
    let s := s.setLink l { k with
      state := if s.ael.en.getLsbD l then 0 else 3
      width := 0, good := 0, txNext := 0, txBuf := [], rxExpected := 0, nakSent := false, sinceAck := 0
      credits := [], waiting := [], fwdAhead := 0, deficit := [], turn := 0, assembling := [], partHeld := [], owed := []
      inbox := k.inbox.map (fun e => (e.1, 0, e.2.2)), asked := none, uncTimes := [], downAt := some s.clock.now, reported := false }
    let s := s.unitRecord 7 (linkUnit l) []
    let lost := (sentPackets k.txBuf).filter (fun p => isRequest p.opc.toNat)
    let s := lost.foldl (fun (s : State) p => (s.route none 0 (s.rejectOf p 0x0302)).2) s
    let s := s.rerouteAll l k.waiting
    (if s.cad.src = 2 && s.cad.rxlink.toNat = l then s.loseCadence true else s).failCut

/-- A link fenced: it goes down, or where it is not up it is out of service with the same record (R437, R439). -/
def State.fenceLink (s : State) (l : Nat) : State :=
  let s := if (s.link l).state = 2 then s.linkDown l
    else (s.updLink l (fun k => { k with downAt := some (k.downAt.getD s.clock.now) })).unitRecord 7 (linkUnit l) []
  s.updLink l (fun k => { k with fenced := 15 })

/-- AELDON_LINK_DOWN (R369, R378, R392, R439). -/
def execAeldonLinkDown (link : Nat) (s : State) : Out := onUnit (link < 24) (s.linkDown link)

/-- A going-down message of the neighbour (R372, R389). -/
def execGoingDown (link : Nat) (_reason : BitVec 8) (s : State) : Out := onUnit (link < 24) (s.linkDown link)

/-- LINK_REPORTED_DOWN: a link that has not come back within 1 s (R378, R439). -/
def execLinkReportedDown (link : Nat) (s : State) : Out :=
  onUnit (link < 24) (
    let k := s.link link
    match k.downAt with
    | none => s
    | some t =>
      if k.state = 2 || k.reported || s.clock.now < t + 10 ^ 9 then s
      else
        let s := s.setLink link { k with reported := true }
        (s.event 0 (s.record 9 5 0 (linkUnit link) 0)).unitRecord 8 (linkUnit link) [])

/-! ## Training (R369) -/

/-- LINK_TRAINING_RETRY: an enabled link that is down tries again every 100 ms; one that has been reported stays down (R369, R378). -/
def execLinkTrainingRetry (link : Nat) (s : State) : Out :=
  onUnit (link < 24) (
    let k := s.link link
    if !s.ael.en.getLsbD link || k.state = 2 || k.reported || !s.board.rails || (k.trainAt ≠ 0 && s.clock.now < k.trainAt + 10 ^ 8) then s
    else s.setLink link { k with state := 1, trainAt := s.clock.now })

/-- A link trained on some lanes: the widest width, the peer, fresh sequence numbers, the credits that each end grants the other
(R369, R372, R375). -/
def State.train (s : State) (l : Nat) (lanes : Nat) (peer : BitVec 12) (credits : Nat) : State :=
  let k := s.link l
  let usable := lanes &&& (15 - k.fenced.toNat)
  let m := widest usable
  if m = 0 then s.setLink l { k with state := 0 }
  else
    let back := k.downAt.isSome
    let fails := ((List.range 4).filter (fun j => !lanes.testBit j && !k.fenced.getLsbD j)).map (fun j => (j, NMap.at k.laneFails j 0))
    let s := s.setLink l { k with
      state := 2
      width := BitVec.ofNat 2 (widthCode m)
      good := BitVec.ofNat 4 m
      peer := peer
      txNext := 0, txBuf := [], rxExpected := 0, nakSent := false, sinceAck := 0, txBits := 0, txFill := 0, rxFill := 0, rxBad := false
      rxEq := (bitsOf 4 usable).map (fun j => (j, Config.adaptedEq l j (NMap.at k.presets j {}).ctle))
      credits := if credits = 0 then [] else (List.range 5).map (fun v => (v, credits))
      waiting := [], fwdAhead := 0, deficit := [], turn := 0, assembling := [], partHeld := [], owed := []
      inbox := k.inbox.map (fun e => (e.1, 0, e.2.2)), asked := none, uncTimes := [], laneFails := fails
      progressAt := s.clock.now, downAt := none, reported := false }
    let s := s.sendControl l false ((List.range 5).map (fun vc => grantMessage vc 64))
    if back then s.unitRecord 8 (linkUnit l) [] else s

/-- LINK_TRAINED (R369, R375, R378, R439). -/
def execLinkTrained (link : Nat) (lanes : BitVec 4) (peer : BitVec 12) (credits : Nat) (s : State) : Out :=
  onUnit (link < 24) (
    if !s.ael.en.getLsbD link || (s.link link).state = 2 || (s.link link).reported || !s.board.rails then s
    else s.train link lanes.toNat peer credits)

/-- WIDTH_REQUEST: the answer to a request of this end, or a request, which is answered and taken. Where the requests of both ends cross,
both take the widest width that the two masks have in common (R372; DESIGN CHOICE, log 106). -/
def State.widthAsked (s : State) (l : Nat) (m : Nat) : State :=
  let k := s.link l
  if k.state ≠ 2 || widest m ≠ m || m = 0 || m &&& k.fenced.toNat ≠ 0 then s
  else match k.asked with
    | some a => if widest (a.toNat &&& m) = 0 then s else s.setWidth l (widest (a.toNat &&& m))
    | none => (s.sendControl l false [widthMessage m]).setWidth l m

def execWidthRequest (link : Nat) (mask : BitVec 4) (s : State) : Out := onUnit (link < 24) (s.widthAsked link mask.toNat)

/-- A lane that fails: it is out of use, with its record, and the link goes on with two lanes or one, or goes down when none of its lanes is
left (R369, R377, R439). The record names the link, a lane having no unit ID (DESIGN CHOICE, log 131). -/
def State.failLane (s : State) (l lane : Nat) : State :=
  let k := s.link l
  if k.state ≠ 2 || k.fenced.getLsbD lane then s
  else
    let k := { k with laneFails := NMap.ins k.laneFails lane (NMap.at k.laneFails lane 0) }
    let s := s.setLink l k
    if !k.good.getLsbD lane then s
    else
      let m := widest (k.good.toNat &&& k.sound)
      let s := s.unitRecord 7 (linkUnit l) []
      if m = 0 then s.linkDown l else s.askWidth l m

/-- LANE_FAILURE (R377). -/
def execLaneFailure (link lane : Nat) (s : State) : Out := onUnit (link < 24 && lane < 4) (s.failLane link lane)

/-- A lane that is out of use for good or back in it: the record of a lane that had failed; and the lane after one that was under test
(R377, R439, R477). -/
def State.laneDone (s : State) (l lane : Nat) (good : Bool) : State :=
  if s.testsLane l lane then
    let s := if good then s else { s with bist := { s.bist with
      fails := s.bist.fails + 1, failmap := NMap.upd 0 s.bist.failmap 0 (fun m => m ||| BitVec.ofNat 36 (1 <<< lane)) } }
    let s := s.nextLane l s.bist.left.tail
    if s.bist.left = [] then s.askWidth l (widest (s.link l).sound) else s
  else (s.askWidth l (widest (s.link l).sound)).unitRecord 8 (linkUnit l) []

/-- LANE_RETRAINED: the link widens again, or a lane that fails a third time is fenced until the next start; the check of a lane under
self-test is its retraining (R377, R439, R477, R481). -/
def execLaneRetrained (link lane : Nat) (good : Bool) (s : State) : Out :=
  onUnit (link < 24 && lane < 4) (
    let k := s.link link
    match NMap.find k.laneFails lane with
    | none => s
    | some n =>
      if k.state ≠ 2 then s
      else if good then (s.setLink link { k with laneFails := NMap.del k.laneFails lane }).laneDone link lane true
      else if n + 1 ≥ 3 then
        (s.setLink link { k with laneFails := NMap.del k.laneFails lane, fenced := k.fenced ||| BitVec.ofNat 4 (1 <<< lane) }).laneDone link lane false
      else s.setLink link { k with laneFails := NMap.ins k.laneFails lane (n + 1) })

/-! ## Flits (R370 to R376) -/

/-- The packet that header and data units spell, in whole (R382); none for a reserved opcode. -/
def parsePacket (tier : Bool) (h data : List Byte) : Option Packet :=
  let f := fun off n => leAt h off n
  let opc := f 0 1
  let resp := opc ≥ 0x81
  if !((1 ≤ opc && opc ≤ 5) || (0x81 ≤ opc && opc ≤ 0x84)) then none
  else
    let long := opc = 1 || opc = 2 || opc = 0x82
    let len := if long then f 22 1 + 1 else 0
    some
      { opc := BitVec.ofNat 8 opc
        fin := bit (f 1 1) 5
        mc := bit (f 1 1) 6
        retry := bit (f 1 1) 7
        dst := BitVec.ofNat 12 (f 2 2)
        src := BitVec.ofNat 12 (f 4 2)
        sinst := BitVec.ofNat 6 (f 6 1)
        dinst := BitVec.ofNat 6 (f 7 1)
        sgen := BitVec.ofNat 16 (f 8 2)
        dgen := BitVec.ofNat 16 (f 10 2)
        txid := BitVec.ofNat 32 (f 12 4)
        addr := BitVec.ofNat 40 (f 16 5)
        aop := BitVec.ofNat 4 (f 21 1)
        atype := BitVec.ofNat 4 (f 21 1 / 16)
        len := len
        life := f 23 1
        srctag := if resp then 0 else BitVec.ofNat 18 (f 24 4)
        status := if resp then BitVec.ofNat 16 (f 24 2) else 0
        batch := BitVec.ofNat 16 (f 28 2)
        count := BitVec.ofNat 16 (f 30 2)
        data := if long then data.take len else data
        tier := tier }

/-- Whole packets at the front of a channel's byte string, and what is left of it; a unit that begins with opcode 0 where a
packet would start ends the flit. -/
def takePackets (tier : Bool) : Nat → List Byte → List Packet × List Byte
  | 0, bs => ([], bs)
  | n + 1, bs =>
    if leAt bs 0 1 = 0 then ([], [])
    else
      let m := 32 + 16 * (leAt bs 1 1 % 32)
      if bs.length < 32 || bs.length < m then ([], bs)
      else
        let (ps, r) := takePackets tier n (bs.drop m)
        (match parsePacket tier (bs.take 32) ((bs.take m).drop 32) with
          | some p => p :: ps
          | none => ps, r)

/-- The body of an accepted data flit joined to its channel's unfinished packet. The flit keeps its place in the receive buffer until
the packets whose units it holds are routed (R371, R375). -/
def State.takeBody (s : State) (l vc first : Nat) (body : List Byte) : State :=
  s.updLink l (fun k =>
    let old := NMap.at k.assembling vc []
    let bs := if old = [] then (if first = 15 then [] else body.drop (16 * first)) else old ++ body
    let (ps, r) := takePackets (vc = 4) 16 bs
    let held := NMap.at k.partHeld vc 0 + 1
    let rest := if r = [] then 0 else if ps = [] then held else 1
    let gone := held - rest
    { k with
      assembling := NMap.put [] k.assembling vc r
      partHeld := NMap.put 0 k.partHeld vc rest
      owed := if ps = [] then NMap.upd 0 k.owed vc (fun n => n + gone) else k.owed
      inbox := k.inbox ++ ps.dropLast.map (fun p => (vc, 0, p)) ++ ps.getLast?.toList.map (fun p => (vc, gone, p)) })

/-- One control message (R372). -/
def State.message (s : State) (l : Nat) (m : List Byte) : State :=
  match leAt m 0 1 with
  | 1 => s.symbolIn l (leAt m 1 1 % 16) (leAt m 2 2 % 4096) (BitVec.ofNat 64 (leAt m 8 8))
  | 2 => if leAt m 1 1 % 8 ≤ 4 then s.updLink l (fun k => { k with credits := NMap.put 0 k.credits (leAt m 1 1 % 8) (leAt m 2 2) }) else s
  | 3 => s.widthAsked l (leAt m 1 1 % 16)
  | 4 => s.linkDown l
  | _ => s

/-- The ACK, NAK and credits of a flit (R371, R373, R375). -/
def State.applyAck (s : State) (l : Nat) (ack : BitVec 12) (nak : Bool) (cvc ccnt : Nat) : State :=
  let k := s.link l
  let left := k.txBuf.filter (fun f => (ack - f.seq).toNat ≥ 2048)
  let k := { k with
    txBuf := left
    progressAt := if left.length < k.txBuf.length then s.clock.now else k.progressAt
    credits := if cvc ≤ 4 then NMap.upd 0 k.credits cvc (fun c => c + ccnt) else k.credits }
  let s := s.setLink l k
  let s := if nak && left ≠ [] then (s.updLink l (fun k => { k with replay := sat16 k.replay 1 })).resendFlits l (ack + 1) else s
  s.drainLink k.waiting.length l

/-- A flit discarded and counted; one NAK for a gap (R373, R374). -/
def State.discardFlit (s : State) (l : Nat) : State :=
  let k := s.link l
  let s := s.setLink l { k with crc := sat16 k.crc 1, nakSent := true }
  if k.nakSent then s else s.sendControl l true []

/-- A received flit (R370 to R375). -/
def State.flitIn (s : State) (l : Nat) (f : List Byte) : State :=
  let w := leAt f 0 2
  let a := leAt f 2 2
  let c := leAt f 4 2
  let ctl := bit w 15
  let vc := fld w 12 3
  let clean := f.length = 256 && leAt f 252 4 = crc32 (f.take 252) && fld a 13 3 = 0 && !bit c 3 && fld (leAt f 6 1) 4 4 = 0
    && leAt f 7 5 = 0 && (if ctl then fld w 0 15 = 0 else vc ≤ 4)
  if !clean then s.discardFlit l
  else
    let s := s.applyAck l (BitVec.ofNat 12 a) (bit a 12) (fld c 0 3) (fld c 4 12)
    let body := (f.drop 12).take 240
    if ctl then
      let s := (List.range 15).foldl (fun (s : State) i => s.message l ((body.drop (16 * i)).take 16)) s
      s.drainLink (s.link l).waiting.length l
    else
      let k := s.link l
      let d := (BitVec.ofNat 12 w - k.rxExpected).toNat
      if d = 0 then
        let s := s.setLink l { k with rxExpected := k.rxExpected + 1, nakSent := false, sinceAck := k.sinceAck + 1 }
        let s := s.takeBody l vc (leAt f 6 1 % 16) body
        if k.sinceAck + 1 ≥ 32 then s.sendControl l false [] else s
      else if d ≥ 2048 then
        (s.setLink l { k with crc := sat16 k.crc 1 }).sendControl l false []
      else s.discardFlit l

/-- The symbol errors of a codeword on each lane: symbol j travels on the active lane j modulo their number (R368). -/
def laneErrors (lanes : List Nat) (errors : List Nat) : Nat → Nat :=
  fun lane => (errors.filter (fun j => lanes.getD (j % max 1 lanes.length) 4 = lane)).length

/-- A codeword with more symbol errors than the code corrects: it is counted and goes to the account of the lane with the most errors, which
fails with 8 of them within 1 ms (R368, R377). -/
def State.uncorrectable (s : State) (l : Nat) (errors : List Nat) : State :=
  let at' := laneErrors (s.link l).active errors
  let lane := (argMin (fun j => 65536 - at' j) [0, 1, 2, 3]).getD 0
  let s := s.updLink l (fun k => { k with
    uncorr := sat16 k.uncorr 1
    uncTimes := (lane, s.clock.now) :: k.uncTimes.filter (fun e => s.clock.now < e.2 + 1000000) })
  if 8 ≤ ((s.link l).uncTimes.filter (fun e => e.1 = lane)).length then s.failLane l lane else s

/-- FLIT_RECEIVED: a flit out of the message bits of its codewords. A flit of 2,048 bits begins at most one codeword of 5,140; it is lost
where the one it begins in or the one that begins in it has more than 15 symbols wrong (R368, R370 to R375; DESIGN CHOICE, log 108). -/
def execFlitReceived (link : Nat) (flit : RxFlit) (s : State) : Out :=
  onUnit (link < 24) (
    let k := s.link link
    if k.state ≠ 2 then s
    else
      let begins := k.rxFill = 0 || 5140 < k.rxFill + 2048
      let errors := (flit.errors.filter (fun j => j < 544)).eraseDups
      let bad := begins && 15 < errors.length
      let lost := bad || (k.rxFill ≠ 0 && k.rxBad)
      let s := s.setLink link { k with rxFill := (k.rxFill + 2048) % 5140, rxBad := if begins then bad else k.rxBad }
      if !lost then s.flitIn link flit.bytes
      else
        let s := s.discardFlit link
        if bad then s.uncorrectable link errors else s)

/-- CREDIT_STALL: a flit that has waited 10 ms for a credit, reported once (R375). -/
def execCreditStall (link vc : Nat) (s : State) : Out :=
  onUnit (link < 24) (
    match (s.link link).waiting.find? (fun w => w.vc = vc && !w.told && w.since + 10000000 ≤ s.clock.now) with
    | none => s
    | some w =>
      let s := s.updLink link (fun k => { k with waiting := k.waiting.map (fun v => if v = w then { w with told := true } else v) })
      s.event 0 (s.record 9 3 0 (linkUnit link) vc))

end Sys2Proof.Machine
end

