-- ==== Sys2Proof/Machine/Dies.lean ====
section
/-! DEFINITION. Dies in the package: Eddy flits received, fences of bundles and bridge segments, packets at the link routers, and the timers of
the two link layers (R373, R379, R395, R396, R402, R403, R408). -/

namespace Sys2Proof.Machine
open Sys2Proof

/-! ## Fences of bundles and segments (R402, R403) -/

/-- A direction of a fenced bundle or segment: the handover message with its receiver's last accepted sequence number, and every flit after it
sent again over the remaining ones (R402, R403). -/
def State.handover (s : State) (n d : Nat) (x : EddyDir) : State :=
  let left := x.unacked.filter (fun f => (f.seq - x.rxExpected).toNat < 512) ++ x.waiting
  let message := leBytes 16 (Config.handoverMessage n d (x.rxExpected - 1)).toNat
  let s := (s.pathOf n (1 - d)).foldl (fun (s : State) h => match (s.choices h).head? with
    | some m => s.controlEddy m h.dir false message
    | none => s) s
  left.foldl (fun (s : State) f => s.sendAlong (s.pathOf n d) f) s

/-- A bundle fenced in operation: its flits go on over the remaining ones (R402, R439). -/
def State.fenceBundle (s : State) (n : Nat) : State :=
  let b := s.bundle n
  if b.state ≠ 0 then s
  else
    let fatal := s.cutsDie n
    let s := s.setBundle n { b with state := 2, dir0 := {}, dir1 := {} }
    let s := (s.handover n 0 b.dir0).handover n 1 b.dir1
    let s := (s.unitRecord 7 (bundleUnit n) []).unitRecord 8 (bundleUnit n) []
    if fatal then s.packageFatal (bundleUnit n) else s

/-- A bridge fenced: its segments carry no flit any more; a package-fatal error where the pair's other bridge is fenced too (R403, R439,
R441). -/
def State.fenceBridge (s : State) (d : Nat) : State :=
  if s.d2d.bridgeFenced.getLsbD d then s
  else
    let left := s.segments d
    let dirs := left.map (fun n => (n, s.bundle n))
    let s := { s with d2d := { s.d2d with bridgeFenced := s.d2d.bridgeFenced ||| BitVec.ofNat 4 (1 <<< d) } }
    let s := left.foldl (fun (s : State) n => s.updBundle n (fun b => { b with dir0 := {}, dir1 := {} })) s
    let s := dirs.foldl (fun (s : State) e => (s.handover e.1 0 e.2.dir0).handover e.1 1 e.2.dir1) s
    let s := (s.unitRecord 7 (bridgeUnit d) []).unitRecord 8 (bridgeUnit d) []
    if s.d2d.bridgeFenced.getLsbD (pairOf d) then s.packageFatal (bridgeUnit d) else s

/-- A segment taken out of use: its flits go on over the others, and with fewer than 8 of them the bridge is fenced (R403). -/
def State.fenceSegment (s : State) (die seg : Nat) : State :=
  let n := 160 + 16 * die + seg
  let b := s.bundle n
  if b.state ≠ 0 then s
  else
    let s := s.setBundle n { b with state := 2, dir0 := {}, dir1 := {} }
    let s := (s.handover n 0 b.dir0).handover n 1 b.dir1
    if popc 16 (s.segs die).toNat < 8 then s.fenceBridge die else s

/-- A bundle or a segment fenced. -/
def State.fenceEddy (s : State) (n : Nat) : State := if n < 160 then s.fenceBundle n else s.fenceSegment ((n - 160) / 16) ((n - 160) % 16)

/-- BUNDLE_FENCE (R402, R441). -/
def execBundleFence (bundle : Nat) (s : State) : Out := onUnit (bundle < 160) (s.fenceBundle bundle)

/-- A fence-refused record (R440). -/
def State.fenceRefused (s : State) (u : BitVec 32) : State := s.errRecord 9 0 u (errDetail 0 0xFF 0 0x80 0) [0]

/-- D2D_FENCE (R402, R408, R437, R440). -/
def execD2dFence (src : Nat) (v : BitVec 32) (s : State) : Out :=
  .next (
    let n := v.toNat % 256
    if !s.regOpen src || !v.getLsbD 31 || 160 ≤ n then s
    else if (s.bundle n).state = 0 && s.cutsDie n then s.fenceRefused (bundleUnit n)
    else s.fenceInTurn (bundleUnit n) (fun s => s.fenceBundle n))

/-- BRIDGE_SEGMENT_FENCE (R403). -/
def execBridgeSegmentFence (die seg : Nat) (s : State) : Out := onUnit (die < 4 && seg < 16) (s.fenceSegment die seg)

/-! ## Eddy flits (R395, R396) -/

/-- The granules of a flit as decoded: data and poison mark, none for a flit that is discarded; with the corrections made. -/
def decodeFlit (gs : List (BitVec 144)) : Option (List (BitVec 128 × Bool)) × List (Nat × Nat) :=
  let vs := gs.map (fun g => (g.toNat, syndrome g.toNat, verdict (syndrome g.toNat)))
  let fixes := vs.filterMap (fun v => match v.2.2 with
    | .corrected k _ => some (k, v.2.1)
    | _ => none)
  let data := vs.filterMap (fun v => match v.2.2 with
    | .clean => some (BitVec.ofNat 128 v.1, false)
    | .poisoned => some (BitVec.ofNat 128 v.1, true)
    | .corrected k e => some (BitVec.ofNat 128 (v.1 ^^^ (e * 16 ^ k)), false)
    | .uncorrectable => none)
  let headOk := match data with
    | h :: _ => !h.2
    | [] => false
  (if data.length = 16 && headOk then some data else none, fixes)

/-- The unit to which a flit of a bundle or of a bridge segment is put down. -/
def eddyUnit (n : Nat) : BitVec 32 := if n < 160 then bundleUnit n else bridgeUnit ((n - 160) / 16)

/-- A flit discarded: counted, one NAK for a gap, and the bundle or segment fenced at 16 within 1 ms (R396, R402, R403). -/
def State.discardEddy (s : State) (n d : Nat) (nak : Bool) : State :=
  let b := s.bundle n
  let x := b.dir d
  let times := s.clock.now :: b.discTimes.filter (fun t => s.clock.now < t + 1000000)
  let s := s.setBundle n { b.setDir d { x with nakSent := x.nakSent || nak } with disc := sat16 b.disc 1, discTimes := times }
  let s := if nak && x.nakSent then s else s.reportEddy n d nak
  if times.length ≥ 16 then s.fenceEddy n else s

/-- The ACK, NAK and credits of a flit, which belong to the other direction. -/
def State.applyEddyAck (s : State) (n d : Nat) (ack : BitVec 10) (nak : Bool) (cvc ccnt : Nat) : State :=
  let b := s.bundle n
  let x := b.dir d
  let left := x.unacked.filter (fun f => (ack - f.seq).toNat ≥ 512)
  let s := s.setBundle n (b.setDir d { x with
    unacked := left
    progressAt := if left.length < x.unacked.length then s.clock.now else x.progressAt
    credits := NMap.upd 0 x.credits cvc (fun c => c + ccnt) })
  let s := if nak && left ≠ [] then s.resendEddy n d (ack + 1) else s
  s.drainEddy x.waiting.length n d

/-- EDDY_FLIT on a bundle, or on segment i of the bridge of die d as 160 + 16 d + i (R395, R396, R402, R403, R428). An accepted flit is consumed
at once, and its credit is owed. -/
def execEddyFlit (bundle dir : Nat) (granules : List (BitVec 144)) (s : State) : Out :=
  onUnit (bundle < 224 && dir < 2) (
    if (s.bundle bundle).state ≠ 0 || !s.board.rails then s
    else
      let (flit, fixes) := decodeFlit granules
      let s := s.updBundle bundle (fun b => { b with corr := sat16 b.corr fixes.length })
      let s := fixes.foldl (fun (s : State) f => s.logCorrected (eddyUnit bundle) 0 f.1 f.2 0x80) s
      match (if granules.length = 16 then flit else none) with
      | none => s.discardEddy bundle dir true
      | some gs =>
        let h := (gs.headD (0, false)).1.toNat
        let s := s.applyEddyAck bundle (1 - dir) (BitVec.ofNat 10 (fld h 16 10)) (bit h 26) (fld h 32 2) (fld h 36 12)
        if bit h 15 then
          let m := gs.getD 1 (0, false)
          if m = (0, false) then s else s.send (.eddyControl bundle dir m)
        else
          let b := s.bundle bundle
          let x := b.dir dir
          let d := (BitVec.ofNat 10 h - x.rxExpected).toNat
          if d = 0 then
            let s := s.setBundle bundle (b.setDir dir { x with
              rxExpected := x.rxExpected + 1, nakSent := false, sinceAck := x.sinceAck + 1
              owed := NMap.upd 0 x.owed (fld h 10 2) (fun c => c + 1) })
            let s := if x.sinceAck + 1 ≥ 32 then s.reportEddy bundle dir false else s
            s.send (.eddyDeliver bundle dir (fld h 10 2) (fld h 48 4) gs.tail)
          else s.discardEddy bundle dir (d < 512))

/-! ## Packets at the link routers (R379 to R383, R398) -/

/-- PACKET_ROUTE (R379 to R383, R398). -/
def execPacketRoute (arrival : Option Nat) (residence : Nat) (p : Packet) (s : State) : Out :=
  onUnit (arrival.all (fun l => l < 24)) (
    if !s.board.rails then s
    else
      let s := match arrival with
        | some l => s.updLink l (fun (k : Link) => match k.inbox.find? (fun (e : Nat × Nat × Packet) => e.2.2 = p) with
          | some e => { k with inbox := k.inbox.erase e, owed := NMap.upd 0 k.owed e.1 (fun n => n + e.2.1) }
          | none => k)
        | none => s
      let copies := if p.mc && p.opc = 5 && lifeCost residence ≤ p.life then s.mcastPorts arrival p else []
      let (out, s) := s.route arrival residence p
      match arrival with
      | some l => if (out.toList ++ copies).any (fun m => (l < 12) ≠ (m < 12)) then s.crossPackage (l < 12) p else s
      | none => s)

/-! ## Timers of the link layers (R373, R396). Ports 0 to 23 are the links, 24 + 2 n + d direction d of bundle or segment n. -/

/-- REPLAY_TIMEOUT: no progress of ACK for 2 µs. -/
def execReplayTimeout (port : Nat) (s : State) : Out :=
  onUnit (port < 472) (
    if port < 24 then
      let k := s.link port
      match k.txBuf with
      | [] => s
      | f :: _ =>
        if k.state ≠ 2 || s.clock.now < k.progressAt + 2000 then s
        else (s.setLink port { k with replay := sat16 k.replay 1, progressAt := s.clock.now }).resendFlits port f.seq
    else
      let n := (port - 24) / 2
      let d := port % 2
      let b := s.bundle n
      let x := b.dir d
      match x.unacked with
      | [] => s
      | f :: _ =>
        if b.state ≠ 0 || s.clock.now < x.progressAt + 2000 then s
        else (s.setBundle n (b.setDir d { x with progressAt := s.clock.now })).resendEddy n d f.seq)

/-- ACK_REPORT_TIMER: a fresh ACK after 200 ns on a link, 100 ns on a bundle. -/
def execAckReportTimer (port : Nat) (s : State) : Out :=
  onUnit (port < 472) (
    if port < 24 then
      let k := s.link port
      if k.state ≠ 2 then s else s.sendControl port false []
    else
      let n := (port - 24) / 2
      if (s.bundle n).state ≠ 0 then s else s.reportEddy n (port % 2) false)

end Sys2Proof.Machine
end

