-- ==== Sys2Proof/Machine/Errors.lean ====
section
/-! DEFINITION. Errors and fencing: the units that a fence command or a failure names, ERR.FCTRL, package-fatal errors and
counters that saturate (R437 to R442, R445). -/

namespace Sys2Proof.Machine
open Sys2Proof

/-- The number of the unit that a unit ID names within its kind, for the kinds that can be fenced (R32, R440). -/
def unitNumber (u : BitVec 32) : Option Nat :=
  let w := u.toNat
  let d := fld w 25 3
  let h := fld w 24 1
  let k := fld w 20 4
  let low := fld w 12 8
  let check := fun (n bound : Nat) (f : Nat → BitVec 32) => if n < bound && f n = u then some n else none
  match fld w 28 4 with
  | 1 => check (d * 2048 + h * 1024 + k * 64 + low) 8192 coreUnit
  | 2 => check (d * 32 + h * 16 + k) 128 clusterUnit
  | 3 => check (d * 64 + h * 32 + low) 256 sliceUnit
  | 4 => check (d * 256 + h * 128 + k * 64 + low) 1024 pchUnit
  | 5 => check low 24 linkUnit
  | 6 => (List.range 160).find? (fun n => bundleUnit n = u)
  | 7 => check (d * 16 + h * 8 + k) 64 sectorUnit
  | 0xA => check (d * 4 + h * 2 + k) 16 stackUnit
  | 0xB => check d 4 bridgeUnit
  | _ => none

/-- The kind of a unit ID (R32). -/
def unitKind (u : BitVec 32) : Nat := fld u.toNat 28 4

/-- Whether a unit ID names a unit of the package that can be fenced, a core in either form (R32, R35, R440). -/
def fenceable (u : BitVec 32) : Bool :=
  let w := u.toNat
  (unitNumber u).isSome || (unitKind u = 1 && bit w 19 && fld w 12 7 < 72 && fld w 25 3 < 4 && fld w 0 12 = 0)

/-- Whether a unit is fenced or absent already (R440). -/
def State.outOfService (s : State) (u : BitVec 32) (n : Nat) : Bool :=
  match unitKind u with
  | 3 => (s.slice n).fenced
  | 4 => (s.pch n).state = 1
  | 5 => (s.link n).fenced = 15
  | 6 => (s.bundle n).state ≠ 0
  | 0xA => !s.hbm.up.getLsbD n
  | 0xB => s.d2d.bridgeFenced.getLsbD n
  | _ => s.fencedUnit u

/-- Whether the fence of a unit would make the package fatal (R441). -/
def State.wouldBeFatal (s : State) (u : BitVec 32) (n : Nat) : Bool :=
  match unitKind u with
  | 3 => s.lastSlice n
  | 6 => s.cutsDie n
  | 0xB => s.d2d.bridgeFenced.getLsbD (pairOf n)
  | _ => false

/-- A unit of the fabric, a link or a die-to-die unit fenced. -/
def State.fenceFabric (s : State) (u : BitVec 32) (n : Nat) : State :=
  match unitKind u with
  | 3 => s.loseSlice n
  | 4 => s.fencePch n
  | 5 => s.fenceLink n
  | 6 => s.fenceBundle n
  | 0xA => s.fenceStack n
  | 0xB => s.fenceBridge n
  | _ => s

def State.fenceResult (s : State) (r : Nat) : State := { s with err := { s.err with result := BitVec.ofNat 2 r } }

/-- The fence of a unit that holds no core carried out; what ERR.FSTAT says of it is told where ERR.FCTRL asked for it (R440). -/
def State.fenceFabricUnit (s : State) (u : BitVec 32) (n : Nat) : State :=
  let mine : Bool := s.err.fence.any (fun j => j.unit = u)
  let told := fun (s : State) (r : Nat) => if mine then { s.fenceResult r with err := { (s.fenceResult r).err with fence := none } } else s
  if s.outOfService u n then told s 1
  else if s.wouldBeFatal u n then told (s.fenceRefused u) 2
  else told (s.fenceFabric u n) 0

/-- The fences of units without cores that waited for their turn carried out, n at most (R29). -/
def State.settleFabric : Nat → State → State
  | 0, s => s
  | k + 1, s =>
    match s.drains.find? (fun d => d.why = .fence && unitCores d.unit = [] && !s.heldBack d) with
    | none => s
    | some d =>
      (match unitNumber d.unit with
        | some n => (s.endControl d).fenceFabricUnit d.unit n
        | none => s.endControl d).settleFabric k

/-- What follows where a command on units of any kind ends. -/
def State.settleAll (s : State) : State := (s.settleFabric s.drains.length).settleControls

/-- A fence command on the unit that ERR.FUNIT names (R29, R35, R437, R440). A physical position that a spare replaced is
powered off and so absent. -/
def State.fenceCommand (s : State) (drain : Bool) : State :=
  let u := s.err.funit
  let p := fld u.toNat 12 7
  if !fenceable u then s.fenceResult 3
  else match s.logicalUnit u with
  | none => s.fenceResult (if p / 9 ≤ 7 && p % 9 ≠ 8 then 1 else 3)
  | some u =>
    match unitNumber u with
    | none => s.fenceResult 3
    | some n =>
      if s.outOfService u n then s.fenceResult 1
      else if s.wouldBeFatal u n then (s.fenceRefused u).fenceResult 2
      else
        let s := { s with err := { s.err with fence := some { unit := u, drain := drain } } }
        (s.control u .fence).settleAll

/-- A write of ERR.FCTRL; a fence that runs is not started again. -/
def State.writeFctrl (s : State) (v : BitVec 32) : State :=
  let s := { s with err := { s.err with fdrain := v.getLsbD 0 } }
  if v.getLsbD 31 && s.err.fence.isNone then s.fenceCommand (v.getLsbD 0) else s

/-- ERR_FENCE (R437 to R440, R445). -/
def execErrFence (src : Nat) (v : BitVec 32) (s : State) : Out :=
  .next (if s.regOpen src then s.writeFctrl v else s)

/-- A line of a cluster's L2 whose tag does not decode: it is dropped without write-back, and its home marks poisoned what the
directory records as the cluster's (R438). -/
def State.loseTag (s : State) (q a : Nat) : State :=
  if (s.l2line q a).isNone then s
  else
    let n := s.homeSlice (128 * a)
    let s := s.l2Drop q a
    match s.dirEntry n a with
    | none => s
    | some e =>
      if e.st = DirState.S || e.owner ≠ q then s
      else
        let s := (List.range 4).foldl (fun (s : State) j => s.llcPut { ways := s.clusterWays q } n a j { poison := 3 }) s
        if e.st = DirState.O && e.sharers ≠ 0 then s.dirPut n { e with st := .S, owner := 0 } else s.dirDel n a

/-- The lines that a failing unit's L2 loses: those of a cluster only. -/
def State.loseTags (s : State) (u : BitVec 32) (l : List Nat) : State :=
  if unitKind u = 2 then l.foldl (fun (s : State) a => s.loseTag ((unitNumber u).getD 0) a) s else s

/-- A unit that failed is fenced (R439). -/
def State.unitFails (s : State) (u : BitVec 32) (n : Nat) (f : UnitFailure) : State :=
  if s.outOfService u n then s
  else if unitCores u = [] then s.fenceFabric u n
  else ((s.loseTags u f.lostTags).fenceUnit u f.queue f.queue).settleControls

/-! ## Errors in the arrays (R426, R428, R439, R445) -/

/-- Corrected and uncorrectable granules counted in the registers of a core's or queue's cluster, or of a slice (R445). -/
def State.countErrors (s : State) (u : BitVec 32) (n ce ue : Nat) : State :=
  if unitKind u = 3 then s.updSlice n (fun x => { x with ce := sat16 x.ce ce, ue := sat16 x.ue ue })
  else s.updCluster (if unitKind u = 1 then clusterOf n else n) (fun x => { x with ce := sat16 x.ce ce, ue := sat16 x.ue ue })

/-- A granule of a unit's array that has been decoded: counted and recorded with its address and the instance that owns it (R428, R434,
R435). -/
def State.noteError (s : State) (u : BitVec 32) (n addr : Nat) (owner : Option Nat) (r : Verdict × Nat × Nat) : State :=
  let own := owner.getD 0x80
  match r.1 with
  | .corrected k _ => (s.countErrors u n 1 0).logCorrected u addr k r.2.2 own
  | .uncorrectable => (s.countErrors u n 0 1).errRecord 2 2 u (errDetail addr 0xFF r.2.2 own 0) (0 :: owner.toList)
  | _ => s

/-- Whether a decoded granule is delivered and kept with its poison mark. -/
def isBad (v : Verdict) : Bool := v = .poisoned || v = .uncorrectable

/-- One of four parts of a granule. -/
def part (r : Verdict × Nat × Nat) (w i : Nat) : Nat := fld r.2.1 (w * i) w

/-- A list of poisoned granules with a decoded one. -/
def keepMark (l : List Nat) (k : Nat) (r : Verdict × Nat × Nat) : List Nat := if isBad r.1 then insNat l k else l.filter (fun j => j ≠ k)

/-- A granule of a core's arrays read with bit errors: what it decodes to, its offset for the record, and the core with the granule written
back (R428, R434). -/
def State.upsetCore (s : State) (g : Nat) (e : Upset) : Option ((Verdict × Nat × Nat) × Nat × State) :=
  let f := e.flip.toNat
  match e.place with
  | .localStore k =>
    if 16384 ≤ k then none
    else
      let bs := s.lsRead g (16 * k) 16
      let r := decodeGranule (ofLe (plain bs)) (anyPoison bs) f
      some (r, 16 * k, s.lsWrite g (16 * k) ((leBytes 16 r.2.1).map (fun b => (b, isBad r.1))))
  | .accumulator k =>
    if 4096 ≤ k then none
    else
      let c := s.core g
      let d := ((List.range 4).map (fun i => (NMap.at c.acc (4 * k + i) 0).toNat * 2 ^ (32 * i))).sum
      let r := decodeGranule d (c.accPoison.contains k) f
      some (r, 16 * k, s.setCore g { c with
        acc := (List.range 4).foldl (fun m i => NMap.put 0 m (4 * k + i) (BitVec.ofNat 32 (part r 32 i))) c.acc
        accPoison := keepMark c.accPoison k r })
  | .vectorRegs slot reg q =>
    match s.group g slot with
    | none => none
    | some x =>
      if 8 ≤ q || (s.launchOf x).v ≤ reg then none
      else
        let r := decodeGranule (((List.range 4).map (fun i => (x.v reg (4 * q + i)).toNat * 2 ^ (32 * i))).sum) (x.poisoned.contains (8 * reg + q)) f
        let y := (List.range 4).foldl (fun (y : Group) i => y.setV reg (4 * q + i) (BitVec.ofNat 32 (part r 32 i))) x
        some (r, 0, s.setGroup g slot { y with poisoned := keepMark x.poisoned (8 * reg + q) r })
  | .scalarRegs slot p =>
    match s.group g slot with
    | none => none
    | some x =>
      if 32 ≤ p then none
      else
        let r := decodeGranule ((x.s (2 * p)).toNat + (x.s (2 * p + 1)).toNat * 2 ^ 64) (x.poisoned.contains (2048 + p)) f
        let y := (x.setS (2 * p) (BitVec.ofNat 64 (part r 64 0))).setS (2 * p + 1) (BitVec.ofNat 64 (part r 64 1))
        some (r, 0, s.setGroup g slot { y with poisoned := keepMark x.poisoned (2048 + p) r })
  | _ => none

/-- Half of a sector of a line decoded, and the sector with it written back. -/
def Sector.upset (x : Sector) (half : Nat) (flip : BitVec 144) : (Verdict × Nat × Nat) × Sector :=
  let r := decodeGranule (fld x.data.toNat (128 * half) 128) (x.poison.getLsbD half) flip.toNat
  (r, { data := BitVec.ofNat 256 (setFld x.data.toNat (128 * half) 128 r.2.1),
        poison := BitVec.ofNat 2 (setFld x.poison.toNat half 1 (b2n (isBad r.1))) })

/-- The owner of a line's page. -/
def State.lineOwner (s : State) (a : Nat) : Option Nat := s.holder (128 * a / 2 ^ 21)

/-- A core whose arrays have met an uncorrectable error is fenced at the second within 24 h (R439). -/
def State.coreError (s : State) (u : BitVec 32) (g : Nat) : State :=
  let q := clusterOf g
  let live := (s.cluster q).arrayErrors.filter (fun e => s.clock.now < e.2 + 86400 * 10 ^ 9)
  let s := s.updCluster q (fun c => { c with arrayErrors := (g, s.clock.now) :: live })
  if live.any (fun e => e.1 = g) then s.unitFails u g { queue := false, lostTags := [] } else s

/-- A slice that has met an uncorrectable data granule is fenced at the sixteenth within 1 s (R439). -/
def State.sliceError (s : State) (n : Nat) : State :=
  let live := s.clock.now :: (s.slice n).uncTimes.filter (fun t => s.clock.now < t + 10 ^ 9)
  let s := s.updSlice n (fun x => { x with uncTimes := live })
  if 16 ≤ live.length then s.loseSlice n else s

/-- A line of a slice whose tag does not decode: it is dropped, and the sectors that it held dirty are poisoned (DESIGN CHOICE, log 131). -/
def State.loseLlcLine (s : State) (n a : Nat) : State :=
  match (s.slice n).line a with
  | none => s
  | some l =>
    (List.range 4).foldl (fun (s : State) j => if l.dirty.getLsbD j || l.dead.getLsbD j then s.hbmPut (128 * a + 32 * j) { poison := 3 } else s)
      (s.updSlice n (fun x => x.dropLine a))

/-- Bit errors met in a granule of an array: decoded, corrected or poisoned in place, counted and recorded; what the unit is fenced on
follows (R426, R428, R434, R439). -/
def State.upset (s : State) (u : BitVec 32) (n : Nat) (e : Upset) : State :=
  let blank := decodeGranule 0 false e.flip.toNat
  let lost : Bool := blank.1 = .uncorrectable
  match unitKind u, e.place with
  | 1, _ => match s.upsetCore n e with
    | none => s
    | some (r, addr, t) =>
      let t := t.noteError u n addr (s.cluster (clusterOf n)).owner r
      if r.1 = .uncorrectable then t.coreError u n else t
  | 2, .l2Data a j h => match ((s.cluster n).l2 ++ (s.cluster n).wb).find? (fun l => l.a = a && l.valid.getLsbD j) with
    | none => s
    | some l =>
      let (r, x) := (l.d.get j).upset (h % 2) e.flip
      let put := fun (m : List L2Line) => m.map (fun k => if k.a = a then { k with d := k.d.set j x } else k)
      (s.updCluster n (fun c => { c with l2 := put c.l2, wb := put c.wb })).noteError u n (128 * a + 32 * j + 16 * (h % 2)) (s.lineOwner a) r
  | 2, .l2Tag a =>
    let t := s.noteError u n (128 * a) (s.lineOwner a) blank
    if lost then t.unitFails u n { queue := false, lostTags := [a] } else t
  | 2, .reelQueue =>
    let t := s.noteError u n 0 none blank
    if lost then t.unitFails u n { queue := true, lostTags := [] } else t
  | 3, .llcData a j h => match (s.slice n).line a with
    | none => s
    | some l =>
      if !l.valid.getLsbD j then s
      else
        let (r, x) := (l.d.get j).upset (h % 2) e.flip
        let t := (s.updSlice n (fun y => y.setLine { l with d := l.d.set j x })).noteError u n (128 * a + 32 * j + 16 * (h % 2)) (s.lineOwner a) r
        if r.1 = .uncorrectable then t.sliceError n else t
  | 3, .llcTag a =>
    let t := s.noteError u n (128 * a) (s.lineOwner a) blank
    if lost then (t.loseLlcLine n a).loseSlice n else t
  | 3, .directory a =>
    let t := s.noteError u n (128 * a) (s.lineOwner a) blank
    if lost then (t.searchL2s n).loseSlice n else t
  | _, _ => s

/-- UNIT_FENCED: a unit that failed is fenced, or an array of it meets bit errors, on which it may be fenced (R426, R439). The flag says of
a cluster that its Reel queue failed, and of a core that its logic did (R194, R438). -/
def execUnitFenced (unit : BitVec 32) (failure : UnitFailure) (s : State) : Out :=
  onUnit (fenceable unit) (match s.logicalUnit unit with
    | none => s
    | some u =>
      match unitNumber u with
      | none => s
      | some n =>
        if !s.board.rails || s.outOfService u n then s
        else match failure.upset with
          | some e => s.upset u n e
          | none => s.unitFails u n failure)

/-- PACKAGE_FATAL (R441). -/
def execPackageFatal (unit : BitVec 32) (s : State) : Out := .next (if s.board.rails then s.packageFatal unit else s)

/-! ## Counters that saturate (R442) -/

/-- The event of a counter's first saturation. -/
def State.saturated (s : State) (off : Nat) (satev : Bool) : State := if satev then s.event 0 (s.record 0xC 2 0 0 off) else s

/-- COUNTER_SATURATED: the counter at a BAR0 offset has its overflow bit set. The blocks with SATEV are LLC and FOEHN. -/
def execCounterSaturated (off : Nat) (s : State) : Out :=
  .next (
    if off = 0x40018 then
      if s.foehn.energy.ovf && !s.foehn.energy.told then
        { s with foehn := { s.foehn with energy := { s.foehn.energy with told := true } } }.saturated off s.foehn.satev
      else s
    else if 0x40500 ≤ off && off < 0x40700 && off % 8 = 0 then
      let n := (off - 0x40500) / 8
      let c := (s.sectorClk n).droops
      if c.ovf && !c.told then (s.updSectorClk n (fun k => { k with droops := { k.droops with told := true } })).saturated off s.foehn.satev
      else s
    else if 0xB1000 ≤ off && off < 0xB1000 + 0x40 * 7 then
      let key := 5 * ((off - 0xB1000) / 0x40) + (off - 0xB1000) % 0x40 / 8
      if off % 8 ≠ 0 || 5 ≤ (off - 0xB1000) % 0x40 / 8 then s
      else
        match s.slices.find? (fun e => (NMap.at e.2.cnt key {}).ovf && !(NMap.at e.2.cnt key {}).told) with
        | some e => (s.updSlice e.1 (fun x => { x with cnt := NMap.upd {} x.cnt key (fun c => { c with told := true }) })).saturated off s.llc.satev
        | none => s
    else s)

end Sys2Proof.Machine
end

