-- ==== Sys2Proof/Machine/SelfTest.lean ====
section
/-! DEFINITION. Self-test while the part runs: requests, the scan of core logic, the end of a test (R477 to R482, R484). -/

namespace Sys2Proof.Machine
open Sys2Proof

/-- The sectors in which a unit under test lies: one for a core or a sector, two for a cluster, none for other units. -/
def unitSectors (u : BitVec 32) : List Nat :=
  ((physicalPlace u).toList.map Prod.snd ++ (unitCores u).map sectorOf).eraseDups

/-- The temperature of a sector: the highest of its own working sensors and of the corner sensors of its hemi, in 1/256 °C;
none where all of them have failed (R418). -/
def State.sectorTemp (s : State) (n : Nat) : Option Int :=
  let own := (List.range 4).map (fun j => 4 * n + j)
  let corners := (List.range 2).map (fun c => 256 + 4 * (n / 16) + 2 * (n / 8 % 2) + c)
  ((own ++ corners).filter (fun i => !(s.sensor i).fail)).foldl (fun (t : Option Int) i =>
    let v := (s.sensor i).temp.toInt
    some (match t with
      | some x => max x v
      | none => v)) none

/-- Whether a unit is one that a target can test (R477). -/
def testPairing (target : Nat) (u : BitVec 32) : Bool :=
  let physical := match physicalPlace u with
    | some p => p.1 < 128 && fld u.toNat 12 7 / 9 ≤ 7 && (fld u.toNat 12 7 % 9 ≠ 8 || fld u.toNat 12 7 / 9 % 2 = 1) && u.toNat % 2 ^ 12 = 0
    | none => false
  match target, unitKind u with
  | 0, 1 => (unitNumber u).isSome || physical
  | 0, 7 => (unitNumber u).isSome
  | 1, 2 => (unitNumber u).isSome
  | 2, 5 => (unitNumber u).isSome
  | 2, 4 => (unitNumber u).isSome
  | 2, 0xA => (unitNumber u).isSome
  | _, _ => false

/-- The unit ID of a physical position of a cluster (R32, R35). -/
def positionUnit (f : Nat × Nat) : BitVec 32 := unitId 1 (f.1 / 32) (f.1 / 16 % 2) (f.1 % 16) (128 + f.2)

/-- Whether a unit ID names a spare that a test has fenced (R479). -/
def State.fencedSpare (s : State) (u : BitVec 32) : Bool :=
  match physicalPlace u with
  | some q => s.bist.spares.contains (q.1, fld u.toNat 12 7)
  | none => false

/-- Why a request is refused before it starts: the RESULT (R478). -/
def State.testRefusal (s : State) (target : Nat) (legacy : Bool) (u : BitVec 32) : Option Nat :=
  if !testPairing target u then some 6
  else
    let held := target = 1 && (s.cluster ((unitNumber u).getD 0)).owner.isSome
    let gone := match s.logicalUnit u with
      | some v => (unitNumber v).any (fun n => s.outOfService v n) || (unitKind u = 1 && (unitNumber v).any (fun g => (s.cluster (clusterOf g)).fenced))
      | none => false
    if held || gone || s.fencedSpare u then some 4
    else if legacy && s.sec.lcs ≠ 0 && s.sec.lcs ≠ 3 then some 2
    else if (unitSectors u).any (fun x => (s.sectorClk x).pretrip || (s.sectorClk x).gate || (s.sectorTemp x).any (fun t => t > 105 * 256)) then some 1
    else none

/-- The unit ID of a core in physical form; another unit's as it is (R32, R35). -/
def State.physicalUnit (s : State) (u : BitVec 32) : BitVec 32 :=
  match unitNumber u with
  | some g => if unitKind u = 1 then u - unitId 0 0 0 0 (g % 64) + unitId 0 0 0 0 (128 + s.physicalOf (clusterOf g) (g % 64)) else u
  | none => u

/-- The result event: to instance 0 and, for cores and sectors, to the owners; it names a core in physical form (R35, R482). -/
def State.testEvent (s : State) (r : Nat) : State :=
  let u := s.physicalUnit s.bist.unit
  let others := if unitKind u = 1 || unitKind u = 7 then s.ownersOf u else []
  s.eventTo (0 :: others).eraseDups (s.record 5 3 0 u (r + s.bist.fails.toNat * 2 ^ 8))

/-- A request ends with a result: the unit leaves the test clock, the drain ends, the events are written (R479, R482). -/
def State.endTest (s : State) (r us : Nat) : State :=
  let d := s.drains.find? (fun d => d.why = DrainWhy.test)
  let s := { s with bist := { s.bist with busy := false, result := BitVec.ofNat 3 r, dur := BitVec.ofNat 32 (min 0xFFFFFFFF us) } }
  match d with
  | none => s.testEvent r
  | some d =>
    let s := s.endControl d
    let s := match testSector d.unit with
      | some x => (s.updSectorClk x (fun k => { k with test := false })).reclock x
      | none => s
    let s := if d.begun then s.controlEvent d.unit true 3 else s
    (s.testEvent r).settleAll

/-- A write of BIST.CTRL: the fields kept, and with GO a request refused or accepted (R477, R478, R484). -/
def State.writeBistCtrl (s : State) (v : BitVec 32) : State :=
  if s.bist.busy then s
  else
    let t := v.toNat % 4
    let s := { s with bist := { s.bist with target := BitVec.ofNat 2 t, legacy := v.getLsbD 2 } }
    if !v.getLsbD 31 then s
    else
      let s := { s with bist := { s.bist with fails := 0, failmap := [], dur := 0, scanned := false, left := [], since := s.clock.now } }
      match s.testRefusal t (v.getLsbD 2) s.bist.unit with
      | some r => { s with bist := { s.bist with result := BitVec.ofNat 3 r } }.testEvent r
      | none =>
        let s := { s with bist := { s.bist with busy := true } }
        (s.control ((s.logicalUnit s.bist.unit).getD s.bist.unit) .test).settleControls

/-- BIST_GO. -/
def execBistGo (src : Nat) (v : BitVec 32) (s : State) : Out := .next (if s.regOpen src then s.writeBistCtrl v else s)

/-- Whether the test's unit is drained and at the test clock. -/
def State.testActed (s : State) : Bool := s.drains.any (fun d => d.why = DrainWhy.test && d.acted)

/-- Whether a cluster's physical position lies in a unit under test of core logic. -/
def inTest (u : BitVec 32) (n p : Nat) : Bool :=
  p / 9 ≤ 7 && (p % 9 ≠ 8 || p / 9 % 2 = 1) &&
  match physicalPlace u with
  | some q => q.1 = n && fld u.toNat 12 7 = p
  | none => unitKind u = 7 && (unitSectors u).any (fun x => (sectorClusters x).contains n && x % 2 = p / 36)

/-- SCAN_DONE: the failing physical cores, by cluster and position, noted in FAILMAP; every core of the unit cleared, and the
failing ones fenced, a spare that is not in use under its physical form (R35, R479, R480). -/
def execScanDone (failed : List (Nat × Nat)) (s : State) : Out :=
  .next (
    let u := s.bist.unit
    if !s.bist.busy || s.bist.target ≠ 0 || s.bist.scanned || !s.testActed then s
    else
      let named := fun (f : Nat × Nat) => inTest u f.1 f.2
        || (physicalPlace u = none && unitKind u = 1 && (unitCores u).any (fun g => clusterOf g = f.1 && s.physicalOf f.1 (g % 64) = f.2))
      let bad := (failed.filter named).eraseDups
      let map := bad.foldl (fun (m : NMap (BitVec 36)) f => NMap.upd 0 m (f.1 % 4) (fun b => b ||| BitVec.ofNat 36 (1 <<< (f.2 % 36)))) []
      let cores := unitCores ((s.logicalUnit u).getD u)
      let s := cores.foldl (fun (s : State) g => { s.wipeCore g with tlb := s.tlb.filter (fun t => t.agent ≠ g) }) s
      let s := { s with bist := { s.bist with scanned := true, fails := BitVec.ofNat 16 bad.length, failmap := map } }
      bad.foldl (fun (s : State) f => match s.logicalOf f.1 f.2 with
        | some l => if s.fencedCore (64 * f.1 + l) then s else s.fenceCore (64 * f.1 + l) true
        | none =>
          if s.bist.spares.contains f then s
          else
            let u := positionUnit f
            let s := { s with bist := { s.bist with spares := f :: s.bist.spares } }
            (s.unitRecord 7 u (s.ownersOf u)).unitRecord 8 u (s.ownersOf u)) s)

/-- n distinct elements of a list, which the manual does not name: a free choice. -/
def pickFree : Nat → List Nat → State → List Nat × State
  | 0, _, s => ([], s)
  | n + 1, l, s =>
    if l = [] then ([], s)
    else
      let (r, s) := s.draw
      let x := l.getD (r.toNat % l.length) 0
      let (xs, s) := pickFree n (l.erase x) s
      (x :: xs, s)

/-- The end of a cluster-fabric test (R481). -/
def State.endFabricTest (s : State) (fails us : Nat) : State :=
  let n := (unitNumber s.bist.unit).getD 0
  let s := (s.flushL2 n).updCluster n (fun c => { c with l2 := [], wb := [], queue := [], pred := [] })
  let s := { s with bist := { s.bist with fails := BitVec.ofNat 16 (min fails 1) } }
  let s := s.endTest 0 us
  if fails = 0 then s else (s.fenceUnit s.bist.unit false false).settleControls

/-- The end of an analog test: the lanes of a link have been tested in their turn; failing channels' pseudo-channels are fenced (R477,
R481). -/
def State.endAnalogTest (s : State) (fails us : Nat) : State :=
  let u := s.bist.unit
  let n := (unitNumber u).getD 0
  if unitKind u = 5 then s.endTest 0 us
  else
    let (bad, s) := pickFree fails (if unitKind u = 4 then [n / 2 % 32] else List.range 32) s
    let first := if unitKind u = 4 then n / 64 * 64 else 64 * n
    let s := { s with bist := { s.bist with fails := BitVec.ofNat 16 bad.length } }
    (bad.foldl (fun (s : State) c => (s.fencePch (first + 2 * c)).fencePch (first + 2 * c + 1)) s).endTest 0 us

/-- Whether an analog test still has lanes or channels to test; a link that has gone down has none (R477). -/
def State.testGoesOn (s : State) : Bool :=
  s.bist.left ≠ [] && (unitKind s.bist.unit ≠ 5 || (s.link ((unitNumber s.bist.unit).getD 0)).state = 2)

/-- BIST_DONE: the request ends. A test of core logic that ends before its scan found the core rail outside ±3 % of the set
point (R478). -/
def execBistDone (fails us : Nat) (s : State) : Out :=
  .next (
    if !s.bist.busy then s
    else if !s.testActed then s
    else if s.bist.target = 2 then (if s.testGoesOn then s else s.endAnalogTest fails us)
    else if s.bist.target = 1 then s.endFabricTest fails us
    else if s.bist.scanned then s.endTest 0 us
    else s.endTest 3 us)

/-- Pre-trip throttle begins in a sector: a test there is aborted, its cores cleared and none fenced (R411, R479). -/
def State.abortTest (s : State) (x : Nat) : State :=
  if !s.bist.busy || s.bist.scanned || !(unitSectors s.bist.unit).contains x then s
  else
    let us := (s.clock.now - s.bist.since) / 1000
    let s := if s.bist.target = 0 && s.testActed then (unitCores ((s.logicalUnit s.bist.unit).getD s.bist.unit)).foldl (fun (s : State) g => s.wipeCore g) s else s
    s.endTest 5 us

end Sys2Proof.Machine
end

