-- ==== Sys2Proof/Machine/Resets.lean ====
section
/-! DEFINITION. What a start and a loss of the rails leave: the volatile state lost, the battery domain, the fuses and the
module flash kept, the tamper log, lock and erase, measurements and signatures (R28, R447 to R461, R464 to R466, R489). -/

namespace Sys2Proof.Machine
open Sys2Proof

/-! ## Sector clocks after a change (R411) -/

/-- The change of a sector's row of R411 from one state to the next: events for the rows below the floor, and the new clock,
at once where it is one of rows 1 to 4, ordered otherwise (R410, R411). -/
def State.settleClock (before s : State) (n : Nat) : State :=
  let (old, _, _) := before.sectorTarget n
  let (new, _, _) := s.sectorTarget n
  let why := fun (m : Nat) => if m = 6 then 1 else 2
  let s := if 6 ≤ old && new ≠ old then s.floorEvent n true (why old) else s
  let s := if 6 ≤ new && new ≠ old then s.floorEvent n false (why new) else s
  if 4 ≤ new then s.applyClock n else s.reclock n

def State.settleClocks (before s : State) : State := (List.range 64).foldl (fun (s : State) n => before.settleClock s n) s

/-! ## Volatile state (R24, R464, R466) -/

/-- A start that ended without READY counted (R469). -/
def State.startLost (s : State) : State :=
  if s.boot.starting.isSome then
    { s with pers := { s.pers with failcnt := if s.pers.failcnt = 15 then 15 else s.pers.failcnt + 1 }, boot := { s.boot with starting := none } }
  else s

/-- An erase that is cut off leaves the bytes of the staging area undefined (R473). -/
def State.cutErase (s : State) : State :=
  if s.boot.erasing then
    let (bs, s) := s.drawBytes s.boot.staging.length
    { s with boot := { s.boot with staging := (s.boot.staging.map Prod.fst).zip bs, erasing := false } }
  else s

/-- Everything but the battery domain, the fuses, the module flash and the standby side at its reset value. With it goes the fence of a core
that was fenced in operation: the known-answer run of the next start tests it again (R16, R437; DESIGN CHOICE, log 111). -/
def State.wipe (s : State) : State :=
  let s := s.cutErase
  { pending := s.pending
    clock := s.clock
    out := s.out
    insts := State.reset.insts
    mem := { host := s.mem.host }
    hbm := { pages := s.hbm.pages, chans := s.hbm.chans }
    therm := { tripcnt := s.therm.tripcnt, newest := s.therm.newest, trips := s.therm.trips, tripped := s.therm.tripped, tripNew := s.therm.tripNew }
    sec := { s.sec with keygen := false, lockInForce := false, nonce := none, deks := [], active := s.sec.active &&& 0x33, meas := [] }
    boot := { fusesvn := s.boot.fusesvn, stage := if s.boot.stage = 1 then 0 else if s.boot.stage = 3 then 2 else s.boot.stage, reason := s.boot.reason, sversion := s.boot.sversion, ssvn := s.boot.ssvn, active := s.boot.active, staging := s.boot.staging, rewritten := s.boot.rewritten, hbmTrim := s.boot.hbmTrim, hbmDigest := s.boot.hbmDigest, lockLeft := s.boot.lockLeft || s.sec.lockInForce && !s.sec.locked }
    pers := s.pers
    fuses := s.fuses
    board := { s.board with calBuf := none, calProgramming := false, clusterMap := [], applied := {} } }

/-- A loss of power while the calibration block is programmed leaves it invalid, with bytes of no stated value (R497). -/
def State.cutCal (s : State) : State :=
  if s.board.calProgramming then
    let (bs, s) := s.drawBytes 4096
    { s with board := { s.board with cal := NMap.putBytes 0 [] 0 bs, calProgramming := false, calBroken := true } }
  else s

/-- The loss of the main rails (R464, R489). -/
def State.losePower (s : State) : State :=
  if !s.board.rails then s
  else
    let t := s.startLost.cutCal.wipe
    let t := { t with board := { t.board with rails := false, pwrGood := false } }
    s.withAlert (t.send (.pin 0 false))

/-! ## Tamper log (R456, R457, R461) -/

/-- The level of a source in SEC.GALEPOL. -/
def State.galeLevel (s : State) (source : Nat) : Nat := fld s.pers.galepol.toNat (2 * source) 2

/-- An entry of the tamper log, or a detection merged into the source's entry of the last second. -/
def State.tamper (s : State) (source level : Nat) (unpowered : Bool) : State :=
  let c := s.sec
  match c.tlogAt.find? (fun t => t.1 = source && s.clock.now < t.2.2 + 10 ^ 9) with
  | some t =>
    let v := (NMap.at c.tlog t.2.1 0).toNat
    let v := setFld v 16 8 (min 255 (fld v 16 8 + 1))
    { s with sec := { c with tlog := NMap.put 0 c.tlog t.2.1 (BitVec.ofNat 128 v) } }
  | none =>
    let v := source + level * 2 ^ 8 + b2n unpowered * 2 ^ 24 + c.seconds.toNat * 2 ^ 32 + s.pers.bootcnt.toNat * 2 ^ 64
    { s with sec := { c with
      tlog := NMap.put 0 c.tlog c.tlognext.toNat (BitVec.ofNat 128 v)
      tlogAt := (source, c.tlognext.toNat, s.clock.now) :: c.tlogAt.filter (fun t => t.1 ≠ source)
      tlognext := c.tlognext + 1
      tlogcnt := sat16 c.tlogcnt 1 } }

/-! ## Lock and erase (R458, R459) -/

/-- Step 1 of lock: the data-key root, every instance record and the data keys gone, LOCKED set. -/
def State.lockKeys (s : State) : State :=
  { s with sec := { s.sec with dataRoot := 0, epochs := [], epochActive := 0, deks := [], locked := true } }

/-- The key area of the store zeroised: the attestation key and its state. -/
def State.dropKey (s : State) : State :=
  { s with sec := { s.sec with skSeed := 0, skPrf := 0, pubSeed := 0, root := 0, enrolled := false, keygen := false, keygenOpen := false } }

/-- The whole key store zeroised (R446, R459). An ENROLL that runs is aborted. -/
def State.eraseStore (s : State) : State :=
  let running := s.sec.keygen
  let s := s.dropKey
  let s := { s with sec := { s.sec with dataRoot := 0, epochs := [], epochActive := 0, licences := [] } }
  match (s.inst 0).mb.running with
  | some r => if running && r.opcode = 0x32 then s.respond 0 0x0502 [] else s
  | none => s

/-- The commands that run in the mailboxes of instances 1 to 63 given up unanswered: in lock only mailbox 0 answers (R458; DESIGN CHOICE, log
128). -/
def State.silence (s : State) : State :=
  { s with
    insts := s.insts.map (fun e => (e.1, if e.1 = 0 then e.2 else { e.2 with mb := { e.2.mb with running := none } }))
    drains := s.drains.filter (fun d => d.mailbox.all (fun m => m = 0)) }

/-- Steps 2 and 3 of lock: fetching stops, every sector goes to the lock clock, the event is written, and every fetched entry
completes with the security-lock status. -/
def State.enterLock (s : State) (source : Nat) : State :=
  if s.sec.lockInForce then s
  else
    let t := { s with sec := { s.sec with lockInForce := true } }
    let t := (s.settleClocks t).silence
    let t := t.eventLater 0 (t.record 0xB 1 0 (blockUnit 4 3) source)
    t.abandonAll 0x000C

/-- A level applied to the module: 1 lock, 2 erase; without power only step 1. -/
def State.applyLevel (s : State) (source level : Nat) (unpowered : Bool) : State :=
  if level = 0 then s
  else
    let t := if level = 2 then s.lockKeys.eraseStore else s.lockKeys
    let t := if unpowered then t else t.enterLock source
    s.withAlert t

/-- The source of the newest tamper-log entry that applied lock or erase. -/
def State.lockSource (s : State) : Nat :=
  let at' := fun (k : Nat) => (NMap.at s.sec.tlog ((s.sec.tlognext.toNat + 255 - k) % 256) 0).toNat
  match (List.range 256).find? (fun k => fld (at' k) 8 8 ≠ 0) with
  | some k => fld (at' k) 0 8
  | none => 0

/-! ## Signatures (R451) -/

/-- The signature index: the larger of the valid copies. -/
def Sec.sigIndex (c : Sec) : Option Nat :=
  let a := if c.idxANot = ~~~c.idxA then some c.idxA.toNat else none
  let b := if c.idxBNot = ~~~c.idxB then some c.idxB.toNat else none
  match a, b with
  | some x, some y => some (max x y)
  | some x, none => some x
  | none, y => y

/-- Both copies of the index written with their complements. -/
def Sec.putIndex (c : Sec) (i : Nat) : Sec :=
  let v := BitVec.ofNat 32 i
  { c with idxA := v, idxANot := ~~~v, idxB := v, idxBNot := ~~~v }

/-- A signature over the message that an index completes, with the key-wear and key-exhausted events; none once the key is
exhausted. -/
def State.sign (s : State) (message : Nat → List Byte) : Option (List Byte) × State :=
  match s.sec.sigIndex with
  | none => (none, s)
  | some i =>
    if 2 ^ 20 ≤ i || s.sec.exhausted then (none, s)
    else
      let t := { s with sec := s.sec.putIndex (i + 1) }
      let sig := Config.xmssSign s.sec.skSeed s.sec.skPrf s.sec.pubSeed i (message i)
      let unit := blockUnit 4 3
      let t := if 2 ^ 20 - 65536 ≤ i && i % 4096 = 0 then t.event 0 (t.record 0xB 2 0 unit i) else t
      let t := if i + 1 = 2 ^ 20 then
          let t := { t with sec := { t.sec with exhausted := true } }
          t.event 0 (t.record 0xB 3 0 unit (i + 1))
        else t
      (some (sig ++ List.replicate (2820 - sig.length) 0 |>.take 2820), t)

/-! ## Measurements (R453) -/

/-- The registers of the PERS block that measurement M4 takes in after SEC.GALEPOL: power, links and cadence (R508). -/
def Pers.measured (p : Pers) : List Byte :=
  leBytes 4 p.galepol.toNat ++ leBytes 4 p.sust.toNat ++ leBytes 4 p.peak.toNat ++ leBytes 4 p.aelid.toNat
    ++ leBytes 4 p.aelen.toNat
    ++ leBytes 4 (p.cadSrc.toNat + b2n p.cadLeader * 4 + b2n p.cadOuten * 8 + p.cadRxlink.toNat * 16)
    ++ leBytes 4 p.cadPeriod.toNat ++ leBytes 4 p.cadTx.toNat ++ leBytes 4 (p.snapDiv.toNat + p.snapLog2.toNat * 2 ^ 16)
    ++ leBytes 8 p.losspol.toNat ++ leBytes 8 p.snapaddr.toNat

/-- A licence record of the key store (R447). -/
def Licence.bytes (l : Licence) : List Byte :=
  leBytes 4 l.id.toNat ++ leBytes 4 l.grant.toNat ++ leBytes 24 1 ++ leBytes 32 l.digest.toNat

def Sec.licenceBytes (c : Sec) : List Byte :=
  (List.range 12).flatMap (fun j => match NMap.find c.licences j with
    | some l => l.bytes
    | none => leBytes 64 0)

def State.measure (s : State) (m : Nat) (item : List Byte) : State :=
  { s with sec := { s.sec with meas := NMap.put 0 s.sec.meas m (Config.shake256 item) } }

def State.measureCal (s : State) : State := s.measure 3 (NMap.bytes 0 s.board.cal 0 4096)
def State.measurePers (s : State) : State := s.measure 4 s.pers.measured
def State.measureLicences (s : State) : State := s.measure 5 s.sec.licenceBytes

/-! ## The key store (R447) -/

/-- The key store from offset 0x020 on. -/
def Sec.storeBody (c : Sec) : List Byte :=
  leBytes 32 c.skSeed.toNat ++ leBytes 32 c.skPrf.toNat ++ leBytes 32 c.pubSeed.toNat ++ leBytes 32 c.root.toNat
    ++ leBytes 32 c.dataRoot.toNat ++ leBytes 64 0
    ++ (List.range 64).flatMap (fun i => leBytes 8 (NMap.at c.epochs i 0).toNat ++ leBytes 8 (b2n (c.epochActive.getLsbD i)))
    ++ c.licenceBytes

/-- The check of a header: the first 128 bits of the digest of the body. -/
def headerCheck (body : List Byte) : List Byte := leBytes 16 (Config.shake256 body).toNat

/-- The key store, with the header that the part writes after every change. -/
def Sec.keyStore (c : Sec) : List Byte :=
  let body := c.storeBody
  leBytes 2 1 ++ leBytes 1 (b2n c.enrolled + 2 * b2n c.keygenOpen) ++ leBytes 13 0 ++ headerCheck body ++ body

/-- The licence record at an offset of the key store; none where it is not valid. -/
def licenceAt (bs : List Byte) (off : Nat) : Option Licence :=
  if bit (leAt bs (off + 8) 1) 0 then
    some { id := BitVec.ofNat 32 (leAt bs off 4), grant := BitVec.ofNat 32 (leAt bs (off + 4) 4), digest := BitVec.ofNat 256 (leAt bs (off + 32) 32) }
  else none

/-- What the security block takes from the key store. -/
def Sec.loadStore (c : Sec) (bs : List Byte) : Sec :=
  let w := fun (off : Nat) => BitVec.ofNat 256 (leAt bs off 32)
  { c with
    enrolled := bit (leAt bs 2 1) 0
    keygenOpen := bit (leAt bs 2 1) 1
    skSeed := w 0x20
    skPrf := w 0x40
    pubSeed := w 0x60
    root := w 0x80
    dataRoot := w 0xA0
    epochs := (List.range 64).foldl (fun m i => NMap.put 0 m i (BitVec.ofNat 64 (leAt bs (0x100 + 16 * i) 8))) []
    epochActive := BitVec.ofNat 64 (maskOf ((List.range 64).filter (fun i => bit (leAt bs (0x108 + 16 * i) 1) 0)))
    licences := (List.range 12).foldl (fun (m : NMap Licence) j => match licenceAt bs (0x500 + 64 * j) with
      | some l => NMap.ins m j l
      | none => m) [] }

/-- Whether a header has its format and matches its check. -/
def headerGood (bs : List Byte) : Bool := leAt bs 0 2 = 1 && (bs.drop 16).take 16 = headerCheck (bs.drop 32)

/-- Bytes with some of them flipped. -/
def flipBytes (bs : List Byte) (fs : List (Nat × Byte)) : List Byte :=
  fs.foldl (fun l f => setNth l f.1 (l.getD f.1 0 ^^^ f.2)) bs

/-! ## Battery loss (R460) -/

/-- The effects of a lost cell: every battery-backed register at its default, the signature index invalid, one tamper-log
entry, LOCKED set. -/
def State.batteryLost (s : State) : State :=
  let s := s.eraseStore
  let s := { s with
    pers := {}
    therm := { s.therm with tripcnt := 0, newest := 0, trips := [], tripNew := false }
    sec := { s.sec with
      exhausted := false, idxA := 0, idxANot := 0, idxB := 0, idxBNot := 0
      seen := 0, tlog := [], tlogAt := [], tlogcnt := 0, tlognext := 0, seconds := 0, locked := true } }
  s.tamper 0xFF 2 false

/-! ## Data keys (R448) -/

/-- The data-encryption key of an instance taken anew from the data-key root and its EPOCH. -/
def State.newKey (s : State) (i : Nat) : State :=
  let name := [0x4B, 0x57, 0x4D, 0x2D, 0x49, 0x44, 0x4B]
  let k := Config.shake256 (name ++ leBytes 32 s.sec.dataRoot.toNat ++ leBytes 1 i ++ leBytes 8 (NMap.at s.sec.epochs i 0).toNat)
  { s with sec := { s.sec with deks := NMap.ins s.sec.deks i k } }

/-- EPOCH of an instance advanced, its ACTIVE bit set or cleared, and its new key taken. -/
def State.advanceEpoch (s : State) (i : Nat) (active : Bool) : State :=
  let bitOf := BitVec.ofNat 64 (1 <<< i)
  { s with sec := { s.sec with
    epochs := NMap.upd 0 s.sec.epochs i (fun e => e + 1)
    epochActive := if active then s.sec.epochActive ||| bitOf else s.sec.epochActive &&& ~~~bitOf } }.newKey i

/-! ## The beginning of a start (R447, R448, R450, R451, R458, R464) -/

/-- The key store as a start finds it: the header's check decides whether the battery domain is taken as lost (R447, R460, R492). -/
def State.checkStore (s : State) (cell : CellReport) : State :=
  match cell with
  | .kept => s
  | .lost => s.batteryLost
  | .flipped fs =>
    let bs := flipBytes s.sec.keyStore fs
    if headerGood bs then { s with sec := s.sec.loadStore bs } else s.batteryLost

/-- A start begins at t0: the key store checked, a fresh data-key root, lock put in force again where LOCKED is set, and a
thermal trip since the last start reported, and the end of lock in each sector (R411). -/
def State.beginStart (s : State) (cold : Bool) (inputs : StartInputs) (recover : Bool) : State :=
  let s := s.checkStore inputs.cell
  let s := if s.sec.keygenOpen then s.dropKey else s
  let s := if s.sec.sigIndex.isNone then { s with sec := { s.sec with exhausted := true } } else s
  let (root, s) := s.draw256
  let s := { s with
    sec := { s.sec with dataRoot := root }
    boot := { s.boot with starting := some cold, t0 := s.clock.now, held := false, bringupAtT0 := s.pers.bringup, recoveryPin := inputs.recoveryLow, recoverAtT0 := recover }
    board := { s.board with locate := s.board.locate && !cold } }
  let s := s.newKey 0
  let s := if s.therm.tripNew then
      { (s.eventLater 0 (s.record 0xA 7 0 0 s.therm.newest.toNat)) with therm := { s.therm with tripNew := false } }
    else s
  let s := if s.boot.lockLeft then
      (List.range 64).foldl (fun (s : State) n => s.eventLater 0 (s.record 5 5 0 (sectorUnit n) 2)) { s with boot := { s.boot with lockLeft := false } }
    else s
  if s.sec.locked then s.enterLock s.lockSource else s

end Sys2Proof.Machine
end

