-- ==== Sys2Proof/Machine/Images.lean ====
section
/-! DEFINITION. Firmware images and module flash: the checks on an image, the staging area and BOOT.STAGE, the calibration
block (R470 to R474, R494). -/

namespace Sys2Proof.Machine
open Sys2Proof

/-- Bytes of a flash region, which reads 0xFF where it is erased, and a field of it. -/
def flashBytes (m : NMap Byte) (off n : Nat) : List Byte := NMap.bytes 0xFF m off n
def flashNat (m : NMap Byte) (off n : Nat) : Nat := ofLe (flashBytes m off n)

/-! ## The header (R470) -/

/-- A section of an image. -/
structure Section where
  kind : Nat
  off : Nat
  len : Nat
  digest : Nat
  zero : Bool

def imageSections (m : NMap Byte) : List Section :=
  (List.range (min 8 (flashNat m 28 1))).map (fun s =>
    let o := 64 + 48 * s
    { kind := flashNat m o 1, off := flashNat m (o + 4) 4, len := flashNat m (o + 8) 4, digest := flashNat m (o + 16) 32,
      zero := flashNat m (o + 1) 3 = 0 && flashNat m (o + 12) 4 = 0 })

/-- The bytes of the section of a kind. -/
def imageSection (m : NMap Byte) (kind : Nat) : List Byte :=
  match (imageSections m).find? (fun x => x.kind = kind) with
  | some x => flashBytes m x.off x.len
  | none => []

def imageVersion (m : NMap Byte) : BitVec 32 := BitVec.ofNat 32 (flashNat m 20 4)
def imageSvn (m : NMap Byte) : Nat := flashNat m 16 1
def imageBound (m : NMap Byte) : Bool := bit (flashNat m 17 1) 0

/-- Row 0x01 of R471: the header's form and the placement of the sections. -/
def imageForm (m : NMap Byte) : Bool :=
  let len := flashNat m 24 4
  let ss := imageSections m
  let placed := ss.all (fun x => x.zero && x.off % 4096 = 0 && x.off + x.len ≤ len && (x.kind ≠ 1 || x.len ≤ 2 ^ 22))
  let apart := (List.range ss.length).all (fun i => (List.range i).all (fun j =>
    match ss[i]?, ss[j]? with
    | some x, some y => x.len = 0 || y.len = 0 || x.off + x.len ≤ y.off || y.off + y.len ≤ x.off
    | _, _ => true))
  let once := [1, 2, 3].all (fun k => (ss.filter (fun x => x.kind = k)).length = 1)
  flashNat m 0 2 = 1 && flashNat m 2 2 = 0 && imageSvn m ≤ 128 && flashNat m 17 1 < 2 && flashNat m 18 2 = 0
    && (imageBound m || flashNat m 8 8 = 0)
    && len % 4096 = 0 && 4096 ≤ len && len ≤ 2 ^ 26 && 3 ≤ flashNat m 28 1 && flashNat m 28 1 ≤ 8
    && flashNat m 29 35 = 0 && flashNat m 448 64 = 0 && flashNat m 3332 764 = 0 && placed && apart && once

/-- Whether the sections of some kinds match their digests. -/
def imageDigests (m : NMap Byte) (kind : Nat → Bool) : Bool :=
  (imageSections m).all (fun x => !kind x.kind || (Config.shake256 (flashBytes m x.off x.len)).toNat = x.digest)

/-- The capability descriptor of a die: compute dies 0 to 3, I/O dies 4 and 5 (R399, R405; DESIGN CHOICE, log 136: an unlisted die). -/
def State.dieFuse (s : State) (d : Nat) : DieFuse :=
  NMap.at s.fuses.dies d (if d < 4 then { kind := 1, stepping := 0xB0, bundles := 72, feat := 0xF0003 } else { kind := 2, stepping := 0xA0, bundles := 16, feat := 3 })
def State.stepping (s : State) (d : Nat) : BitVec 8 := (s.dieFuse d).stepping

/-- Whether an image has a correction set for every fitted die (R406). -/
def State.corrected (s : State) (m : NMap Byte) : Bool :=
  (List.range 6).all (fun d => Config.correctionFor (imageSection m 3) (s.stepping d))

/-- The first row of R471, up to 0x05, that an image fails; 0 where none. -/
def State.headerReason (s : State) (m : NMap Byte) : Nat :=
  if !imageForm m then 1
  else if flashNat m 4 4 ≠ 0x1280 then 2
  else if imageBound m && flashNat m 8 8 ≠ s.sec.serial.toNat then 3
  else if imageSvn m < s.boot.fusesvn.toNat then 4
  else if !Config.firmwareVerify (flashBytes m 0 512) (flashBytes m 512 2820) then 5
  else 0

/-- The first row of R471 that an image fails; 0 where it is valid. -/
def State.imageReason (s : State) (m : NMap Byte) : Nat :=
  let r := s.headerReason m
  if r ≠ 0 then r
  else if !imageDigests m (fun _ => true) then 6
  else if !s.corrected m then 7
  else 0

/-! ## Staging (R473, R474, R483) -/

/-- The first row of R471 that the staged image fails. One that contains a byte written twice since the last erase fails row 0x01 or 0x06,
whichever the undefined value makes it (R473). -/
def State.stagedReason (s : State) : Nat × State :=
  if s.boot.rewritten.any (fun a => a < max 4096 (flashNat s.boot.staging 24 4)) then
    let (f, s) := s.draw
    (if f.getLsbD 0 then 1 else 6, s)
  else (s.imageReason s.boot.staging, s)

/-- A write to the staging area received: BOOT.STAGE returns to EMPTY. While an installation runs the write is discarded. -/
def State.stagingTouched (s : State) : State := if s.boot.stage = 3 then s else { s with boot := { s.boot with stage := 0 } }

/-- Bytes programmed in the staging area: a byte written twice since the last erase holds an undefined value. -/
def State.stagingWrite (s : State) (off : Nat) (bs : List Byte) : State :=
  (List.range bs.length).foldl (fun (s : State) k =>
    let a := off + k
    if 2 ^ 26 ≤ a then s
    else match NMap.find s.boot.staging a with
      | some _ =>
        let (r, s) := s.draw
        { s with boot := { s.boot with staging := NMap.ins s.boot.staging a (r.truncate 8), rewritten := insNat s.boot.rewritten a } }
      | none => { s with boot := { s.boot with staging := NMap.ins s.boot.staging a (bs.getD k 0) } }) s

/-- A write of BOOT.STAGE: ERASE, then ARM. -/
def State.writeStage (s : State) (arm erase : Bool) : State :=
  let s := if erase && s.boot.stage ≠ 3 then { s with boot := { s.boot with erasing := true, stage := 0 } } else s
  if arm && s.boot.stage = 0 then { s with boot := { s.boot with stage := 1 } } else s

/-- ARM and STAGE_ERASE: a write of BOOT.STAGE. -/
def State.stageRegister (s : State) (src : Nat) (v : BitVec 32) : State :=
  if s.bootOpen src then s.writeStage (v.getLsbD 0) (v.getLsbD 1) else s

def execArm (src : Nat) (v : BitVec 32) (s : State) : Out := .next (s.stageRegister src v)
def execStageErase (src : Nat) (v : BitVec 32) (s : State) : Out := .next (s.stageRegister src v)

/-! ## Accesses of the data port that wait (R341, R342) -/

/-- How the data port's requests are served at a home: class DMA, in the ways of instance 0 (R220, R234, R253). -/
def State.portAcc (s : State) : Acc := { cls := 4, ways := (s.inst 0).ways, ask := some .normal }

/-- Whether a write received cannot be performed yet: an erase of the staging area runs, or its line has to wait at its home
(R238, R245, R473). -/
def State.portStalls (s : State) (space : BitVec 2) (a n : Nat) : Bool := if space = 1 then s.boot.erasing else s.heldRun a n

/-- One access of a read that need not wait: its bytes; those of the staging area are free while an erase runs. -/
def State.portGet (s : State) (w : Nat) (p : Option (BitVec 2 × Nat)) : List PByte × State :=
  match p with
  | none => (clean (leBytes w 0), s)
  | some (sp, a) =>
    if sp = 1 then
      if s.boot.erasing then
        let (bs, s) := s.drawBytes w
        (clean bs, s)
      else (clean (flashBytes s.boot.staging a w), s)
    else
      let (bs, s) := s.devRead s.portAcc a w
      (bs, s.notePoison a bs)

/-- The addresses of HBM that a read reaches. -/
def hbmParts (parts : List (Option (BitVec 2 × Nat))) : List Nat :=
  parts.filterMap (fun p => p.bind (fun e => if e.1 = 1 then none else some e.2))

/-- A read at the head of the queue performed: its bytes, or none where a line has to wait, or poison of a restorable set has begun
a restore (R238, R245, R431). -/
def State.portRead (s : State) (parts : List (Option (BitVec 2 × Nat))) (w : Nat) : Option (List PByte) × State :=
  let at_ := hbmParts parts
  if at_.any (fun a => s.heldRun a w) then (none, s)
  else match at_.findSome? (fun a => s.mend a (s.devRead s.portAcc a w).1) with
    | some s => (none, s)
    | none =>
      let (bs, s) := parts.foldl (fun (acc : List PByte × State) p =>
        let (b, s) := acc.2.portGet w p
        (acc.1 ++ b, s)) ([], s)
      (some bs, s)

/-- The completion of a read, with the EP bit where data is poisoned (R341, R429). -/
def State.portAnswer (s : State) (bs : List PByte) : State :=
  { s with dport := { s.dport with poison := s.dport.poison || anyPoison bs } }.send (.readCompletion (plain bs) (anyPoison bs))

/-- Accesses received and not yet performed: performed from the oldest on as far as they can be (R342). -/
def State.drainPortN : Nat → State → State
  | 0, s => s
  | k + 1, s =>
    let next := fun (r : List PortAccess) (s : State) => { s with dport := { s.dport with waiting := r } }
    match s.dport.waiting with
    | [] => s
    | .write sp a bs :: r =>
      if s.portStalls sp a bs.length then s
      else
        let s := next r s
        (if sp = 1 then s.stagingWrite a bs else s.devWrite s.portAcc a (clean bs)).drainPortN k
    | .read parts w :: r =>
      match s.portRead parts w with
      | (none, s) => s
      | (some bs, s) => ((next r s).portAnswer bs).drainPortN k

def State.drainPort (s : State) : State := s.drainPortN s.dport.waiting.length

/-- An access of the data port received. -/
def State.portAccess (s : State) (a : PortAccess) : State :=
  ({ s with dport := { s.dport with waiting := s.dport.waiting ++ [a] } }).drainPort

/-- A write of the staging area received from either path (R473); while an installation runs it is discarded. -/
def State.stagingAccess (s : State) (off : Nat) (bs : List Byte) : State :=
  if s.boot.stage = 3 then s else s.stagingTouched.portAccess (.write 1 off bs)

/-- STAGE_ERASE_DONE: the area is erased, and the writes that waited proceed in order. -/
def execStageEraseDone (s : State) : Out :=
  .next (
    if !s.boot.erasing then s
    else
      ({ s with boot := { s.boot with erasing := false, staging := [], rewritten := [] } }).drainPort)

/-- VERIFY_DONE: once every received write is programmed, ARMED or REJECTED. -/
def execVerifyDone (s : State) : Out :=
  .next (
    if s.boot.stage ≠ 1 || s.boot.erasing || s.dport.waiting.any PortAccess.stages then s
    else
      let m := s.boot.staging
      let (r, s) := s.stagedReason
      if r = 0 then { s with boot := { s.boot with stage := 2, reason := 0, sversion := imageVersion m, ssvn := BitVec.ofNat 8 (imageSvn m) } }
      else { s with boot := { s.boot with stage := 5, reason := BitVec.ofNat 8 r } })

/-! ## The calibration block (R494) -/

/-- Whether a block's fields lie in their ranges and its other bytes are zero, FORMAT and SERIAL included. -/
def calForm (bs : List Byte) (serial : BitVec 64) : Bool :=
  let u := fun (off n : Nat) => leAt bs off n
  let i := fun (off n : Nat) => sext (8 * n) (leAt bs off n)
  let gain := fun (off : Nat) => 58983 ≤ u off 4 && u off 4 ≤ 72089
  u 0 2 = 1 && u 2 2 = 0 && u 4 8 = serial.toNat && u 0x10 16 = 0
    && gain 0x40 && gain 0x44 && -2000 ≤ i 0x48 4 && i 0x48 4 ≤ 2000 && u 0x4C 4 = 0
    && u 0x50 2 < 1024 && u 0x52 0x2E = 0
    && (List.range 64).all (fun n => 10 ≤ u (0x80 + 2 * n) 2 && u (0x80 + 2 * n) 2 ≤ 100)
    && (List.range 280).all (fun n => -2560 ≤ i (0x100 + 2 * n) 2 && i (0x100 + 2 * n) 2 ≤ 2560)
    && u 0x330 0xD0 = 0
    && (List.range 96).all (fun n => u (0x400 + 4 * n) 1 ≤ 15 && u (0x401 + 4 * n) 1 ≤ 15 && u (0x402 + 4 * n) 1 ≤ 31 && u (0x403 + 4 * n) 1 = 0)
    && u 0x580 0x80 = 0
    && (List.range 512).all (fun n => -40 ≤ i (0x600 + n) 1 && i (0x600 + n) 1 ≤ 40)
    && u 0x800 0x800 = 0

/-- The digest of a block: over 0x000 to 0x01F and 0x040 to 0xFFF. -/
def calDigest (bs : List Byte) : BitVec 256 := Config.shake256 (bs.take 0x20 ++ bs.drop 0x40)

/-- The stored block. -/
def State.calBlock (s : State) : List Byte := NMap.bytes 0 s.board.cal 0 4096

/-- What a block gives (R494). -/
def calOf (bs : List Byte) : Cal :=
  let u := fun (off n : Nat) => leAt bs off n
  let i := fun (off n : Nat) => sext (8 * n) (leAt bs off n)
  { vgain := u 0x40 4
    igain := u 0x44 4
    ioff := i 0x48 4
    droop := (List.range 64).map (fun n => (n, u (0x80 + 2 * n) 2))
    ttrim := (List.range 280).map (fun n => (n, i (0x100 + 2 * n) 2))
    lanes := (List.range 96).map (fun n => (n, { pre := u (0x400 + 4 * n) 1, post := u (0x401 + 4 * n) 1, ctle := u (0x402 + 4 * n) 1 }))
    vref := (List.range 512).map (fun n => (n, i (0x600 + n) 1)) }

/-- Whether the stored block is valid; one whose programming was cut off is not (R497). -/
def State.calValid (s : State) : Bool :=
  !s.board.calBroken && calForm s.calBlock s.sec.serial && leAt s.calBlock 0x20 32 = (calDigest s.calBlock).toNat

end Sys2Proof.Machine
end

