-- ==== Sys2Proof/Machine/DataPort.lean ====
section
/-! DEFINITION. The data port: runs of accesses through the data window to HBM and to the staging area (R340 to R342, R473). -/

namespace Sys2Proof.Machine
open Sys2Proof

/-- The bytes of one access. -/
def DPort.bytes (d : DPort) : Nat := if d.width = 1 then 8 else 4

/-- Whether the data window takes an access at an offset (R318, R319, R340). -/
def State.windowOpen (s : State) (src off : Nat) : Bool := s.bootOpen src && off < 2 ^ 16

/-- Whether a request is discarded: its length or its byte enables (R340). -/
def State.windowSize (s : State) (n : Nat) (allEnabled : Bool) : Bool :=
  !allEnabled || n = 0 || 512 < n || n % s.dport.bytes ≠ 0

/-- Whether an access of n bytes lies in its space and may be performed; HBM may be accessed once a start has trained it
(R341). -/
def State.inSpace (s : State) (n : Nat) : Bool :=
  let a := s.dport.addr.toNat
  if s.dport.space = 1 then a + n ≤ 2 ^ 26 else a + n ≤ 2 ^ 40 && !s.host.recovery && 4 ≤ s.host.step.toNat

/-- ADDR after an access. -/
def DPort.advance (d : DPort) : DPort := if d.inc = 1 then { d with addr := d.addr + BitVec.ofNat 56 d.bytes } else d

/-- One access of a write, performed in the order of its receipt. -/
def State.windowPut (s : State) (bs : List Byte) : State :=
  let d := s.dport
  let s :=
    if !s.inSpace bs.length then { s with dport := { s.dport with range := true } }
    else if d.space = 1 then s.stagingAccess d.addr.toNat bs
    else s.portAccess (.write d.space d.addr.toNat bs)
  { s with dport := s.dport.advance }

/-- A run of n-byte accesses over the bytes of a request; k bounds their number. -/
def State.windowWrite (n : Nat) : Nat → State → List Byte → State
  | 0, s, _ => s
  | k + 1, s, bs => if bs.isEmpty then s else (s.windowPut (bs.take n)).windowWrite n k (bs.drop n)

/-- DATA_WINDOW_WRITE. -/
def execDataWindowWrite (src off : Nat) (data : List (BitVec 8)) (allEnabled : Bool) (s : State) : Out :=
  .next (
    if !s.windowOpen src off then s
    else if s.windowSize data.length allEnabled then { s with dport := { s.dport with size := true } }
    else s.windowWrite s.dport.bytes data.length data)

/-- The accesses of a read request in order, and ADDR and RANGE after them (R341). -/
def State.windowParts (w : Nat) : Nat → State → List (Option (BitVec 2 × Nat)) × State
  | 0, s => ([], s)
  | k + 1, s =>
    let ok := s.inSpace w
    let part := if ok then some (s.dport.space, s.dport.addr.toNat) else none
    let s := { s with dport := { s.dport.advance with range := s.dport.range || !ok } }
    let (rest, s) := s.windowParts w k
    (part :: rest, s)

/-- DATA_WINDOW_READ: the request takes its place behind the accesses received before it, and is answered when they are performed and
its lines need not wait (R342). -/
def execDataWindowRead (src off len : Nat) (allEnabled : Bool) (s : State) : Out :=
  .next (
    if !s.windowOpen src off then s.send (.readCompletion (leBytes len 0) false)
    else if s.windowSize len allEnabled then
      { s with dport := { s.dport with size := true } }.send (.readCompletion (leBytes len 0) false)
    else
      let w := s.dport.bytes
      let (parts, s) := s.windowParts w (len / w)
      s.portAccess (.read parts w))

end Sys2Proof.Machine
end

