-- ==== Sys2Proof/Machine/Mailbox.lean ====
section
/-! DEFINITION. Mailboxes: GO, the gate every command passes, its form, and the instance commands with reset, removal and
pre-emption (R297, R300, R348 to R366). -/

namespace Sys2Proof.Machine
open Sys2Proof

/-! ## GO (R354, R355) -/

/-- Whether a mailbox answers (R319, R446, R458, R475). -/
def State.mbAnswers (s : State) (m : Nat) : Bool :=
  if m = 0 then s.earlyOpen 0
  else s.host.ready && !s.sec.lockInForce && s.sec.lcs ≠ 4

/-- The opcodes of R357, R462 and R496. -/
def opcodes : List Nat :=
  [0x01, 0x10, 0x11, 0x12, 0x13, 0x14, 0x15, 0x16, 0x17, 0x20, 0x21, 0x22, 0x23, 0x30, 0x31, 0x32, 0x33, 0x34, 0x35, 0x36,
   0x37, 0x38, 0x39, 0x40, 0x41, 0x42, 0x43, 0x44]

/-- The instance that a payload names. -/
def targetOf (p : List Byte) : Nat := leAt p 0 1 % 64

/-! ## The gate (R9, R357, R358, R446, R454, R458, R475, R476, R511) -/

/-- Whether bytes of a payload from an offset on are zero. -/
def restZero (p : List Byte) (n : Nat) : Bool := (p.drop n).all (fun b => b = 0)

/-- Whether a payload has the form of its command; one that has not is malformed (R9). The rules of the commands leave open what is wrong with pages
past the last one, with MANUF as the target of a life-cycle change and with a licence or a token shorter than its layout: each is
malformed here (DESIGN CHOICE, log 109). -/
def payloadForm (op : Nat) (p : List Byte) : Bool :=
  let f := fun (off n : Nat) => leAt p off n
  f 0 1 < 64 && p.length % 4 = 0 && p.length ≤ 4064 &&
  match op with
  | 0x01 | 0x16 | 0x20 | 0x21 | 0x23 | 0x30 | 0x32 | 0x37 | 0x39 | 0x40 | 0x43 => restZero p 1
  | 0x10 | 0x11 => f 1 3 = 0 && f 4 4 < 2 ^ 20 && f 8 8 < 2 ^ 56 && f 19 1 = 0 && f 20 4 ≤ 65536 && f 24 2 ≤ 8192 && restZero p 26
  | 0x12 | 0x13 => f 1 15 = 0 && restZero p 32
  | 0x14 => f 1 1 ≤ 1 && f 2 2 = 0 && 1 ≤ f 8 4 && f 4 4 + f 8 4 ≤ 2 ^ 19 && restZero p 12
  | 0x15 => f 1 1 < 64 && f 2 1 ≤ 1 && f 3 1 = 0 && f 4 2 < 4096 && f 6 1 < 64 && f 7 1 = 0 && restZero p 10
  | 0x17 => f 1 3 = 0 && 1 ≤ f 8 4 && f 4 4 + f 8 4 ≤ 2 ^ 19 && restZero p 12
  | 0x22 => f 1 1 ≤ 1 && f 2 2 = 0 && restZero p 8
  | 0x31 => f 1 3 = 0 && restZero p 36
  | 0x33 => f 1 3 = 0 && 8 ≤ p.length && f 4 4 + (p.length - 8) ≤ 16384
  | 0x34 => f 1 3 = 0 && f 4 4 + f 8 4 ≤ 16384 && f 8 4 ≤ 4064 && restZero p 12
  | 0x35 => f 1 3 = 0 && 2888 ≤ p.length && restZero p 2888
  | 0x36 => f 1 3 = 0 && restZero p 8
  | 0x38 => 1 ≤ f 1 1 && f 1 1 ≤ 4 && f 2 2 = 0 && (if f 1 1 = 2 then restZero p 4 else 2888 ≤ p.length && restZero p 2888)
  | 0x41 => f 1 3 = 0 && (f 4 4 = 0 || f 4 4 = 2048) && restZero p 8
  | 0x42 => f 1 3 = 0 && (f 4 4 = 0 || f 4 4 = 2048) && p.length = 2056
  | 0x44 => f 1 1 ≤ 1 && restZero p 2
  | _ => false

/-- Whether an instance may issue a command on a target (R357, R462, R496); no instance is excluded from a reserved opcode, which is
malformed (R9). -/
def issuerOk (m op t : Nat) : Bool :=
  match op with
  | 0x01 | 0x31 => m = 0 || t = m
  | 0x30 | 0x34 => true
  | 0x20 => t ≠ 0 && (m = 0 || t = m)
  | 0x21 => m = 0 && t ≠ 0
  | _ => m = 0 || !opcodes.contains op

/-- Commands that act on an instance, which has to exist. -/
def namesInstance (op : Nat) : Bool := [0x01, 0x11, 0x12, 0x13, 0x14, 0x15, 0x16, 0x17, 0x20, 0x21, 0x22, 0x23, 0x31].contains op

/-- Whether R446 permits the change to a life-cycle state that an LCS command names: the direction, and for DEBUG the entries that the fuses
have left. A state that no LCS command names is malformed, not refused. -/
def State.lcsAllowed (s : State) (state : Nat) : Bool :=
  match state with
  | 1 => s.sec.lcs = 3
  | 2 => s.sec.lcs = 1
  | 3 => (s.sec.lcs = 1 || s.sec.lcs = 2) && s.sec.debugcnt.toNat < 8
  | 4 => s.sec.lcs ≠ 4
  | _ => true

/-- The status with which a command is turned away before it acts, in the order of R511. -/
def State.mbGate (s : State) (m : Nat) (r : MbRunning) : Option Nat :=
  let op := r.opcode.toNat
  let t := targetOf r.payload
  if s.sec.lockInForce then (if [0x01, 0x30, 0x31, 0x39].contains op then none else some 0x000C)
  else if s.host.recovery && [0x01, 0x30, 0x31].contains op = false then some 4
  else if s.sec.lcs = 4 && 0x40 ≤ op && op < 0x50 then some 4
  else if !issuerOk m op t then some 4
  else if op = 0x38 && !s.lcsAllowed (leAt r.payload 1 1) then some 4
  else if op = 0x10 && ((16 ≤ t && !s.variant.getLsbD 0) || (t ≠ 0 && s.bringup)) then some 4
  else none

/-- The checks that follow: the instance named, then the form. -/
def State.mbCheck (s : State) (m : Nat) (r : MbRunning) : Option Nat :=
  match s.mbGate m r with
  | some st => some st
  | none =>
    let op := r.opcode.toNat
    if namesInstance op && (s.inst (targetOf r.payload)).state = .free then some 7
    else if r.badHeader || !payloadForm op r.payload then some 1
    else none

/-- Commands that R361 runs one at a time for an instance. -/
def ordered (op : Nat) : Bool := [0x10, 0x11, 0x12, 0x13, 0x14, 0x20, 0x21, 0x22, 0x23].contains op

/-- Whether no row of its own answers a command: a reserved opcode, or a form that names no operation. -/
def MbRunning.rowless (r : MbRunning) : Bool :=
  let op := r.opcode.toNat
  !opcodes.contains op || ((op = 0x38 || op = 0x14) && !payloadForm op r.payload)

/-- Whether an instance is being reset or removed: from step 1 of R365 until the response. -/
def State.inReset (s : State) (i : Nat) : Bool := (s.inst i).state = .resetting || (s.inst i).state = .removing

/-- The answer to a command that no row answers; it waits while its own instance is being reset (R366). -/
def State.answerRowless (s : State) (m : Nat) : State :=
  match (s.inst m).mb.running with
  | some r => if r.rowless && !s.inReset m then s.respond m ((s.mbCheck m r).getD 1) [] else s
  | none => s

/-- A write of MB.GO (R355); a command that R29 and R361 order takes its place among the control commands. -/
def State.go (s : State) (m : Nat) (v : BitVec 32) : State :=
  let b := (s.inst m).mb
  let cmd := fun (off n : Nat) => NMap.bytes 0 b.cmd off n
  let same : Bool := match b.running with
    | some r => r.token = v
    | none => false
  if same then s
  else if b.running.isSome || v = 0 || v.toNat ≠ ofLe (cmd 0 4) then s.updInst m (fun x => { x with mb := { x.mb with dropped := true } })
  else
    match b.cache.find? (fun a => a.token = v) with
    | some a => s.updInst m (fun x => { x with mb := { x.mb with
        rspPayload := a.payload ++ x.mb.rspPayload.drop a.payload.length
        rspToken := a.token, rspStatus := a.status, rspLen := BitVec.ofNat 16 a.payload.length, done := a.token } })
    | none =>
      let op := ofLe (cmd 4 2)
      let p := cmd 16 (ofLe (cmd 6 2))
      let r : MbRunning := { token := v, opcode := BitVec.ofNat 16 op, payload := p, badHeader := ofLe (cmd 8 8) ≠ 0, result := none }
      let s := s.updInst m (fun x => { x with mb := { x.mb with running := some r } })
      let names := if op = 0x12 || op = 0x13 then bitsOf 128 (leAt p 16 16) else []
      let s := if ordered op && !r.rowless then s.control 0 (.mailbox m (targetOf p) names) else s
      s.answerRowless m

/-- MB_GO. -/
def execMbGo (inst : Nat) (v : BitVec 32) (s : State) : Out := onUnit (inst < 64) (if s.mbAnswers inst then s.go inst v else s)

/-! ## Running a command (R29, R355, R361, R366) -/

/-- Whether a command waits: its own instance is being reset, or a command received earlier has to end first (R29, R361, R366). -/
def State.mbWaits (s : State) (m : Nat) (r : MbRunning) : Bool :=
  s.inReset m || s.drains.any (fun d => d.mailbox = some m && s.heldBack d) || (r.opcode = 0x32 && s.sec.keygen)

/-- A command row: the running command of the mailbox, if it is this one and may run now, is turned away or acts. -/
def State.mbRun (s : State) (m op : Nat) (act : List Byte → State → State) : State :=
  match (s.inst m).mb.running with
  | none => s
  | some r =>
    if r.opcode.toNat ≠ op || r.result.isSome || s.mbWaits m r then s
    else (match s.mbCheck m r with
      | some st => s.respond m st []
      | none => act r.payload s).settleControls

/-- The work of a long command is done; MAILBOX_COMMAND_END will respond. -/
def State.mbResult (s : State) (m status : Nat) (payload : List Byte) : State :=
  s.updInst m (fun x => { x with mb := { x.mb with running := x.mb.running.map (fun r => { r with result := some (BitVec.ofNat 16 status, payload) }) } })

/-- A command whose work is done answers; the end of a removal leaves its instance free, and a command that waited on its page
and that no row answers is answered then (R355, R365, R366). -/
def State.endCommand (s : State) (m : Nat) : State :=
  match (s.inst m).mb.running with
  | none => s
  | some r =>
    match r.result with
    | none => s
    | some (st, p) =>
      let t := targetOf r.payload
      let gone : Bool := r.opcode = 0x21 && (s.inst t).state = .removing
      let s := if gone then s.updInst t (fun x => { x with state := .free }) else s
      let s := if r.opcode = 0x43 then { s with board := { s.board with calProgramming := false } } else s
      let s := s.respond m st.toNat p
      (if gone then s.answerRowless t else s).settleControls

/-- MAILBOX_COMMAND_END. -/
def execMailboxCommandEnd (mb : Nat) (s : State) : Out := onUnit (mb < 64) (s.endCommand mb)

/-! ## Pages (R348, R349, R359) -/

/-- A run of pages added to an instance's ranges. -/
def addRange : List (Nat × Nat) → Nat → Nat → List (Nat × Nat)
  | [], a, b => [(a, b)]
  | (x, y) :: l, a, b =>
    if y + 1 < a then (x, y) :: addRange l a b
    else if b + 1 < x then (a, b) :: (x, y) :: l
    else addRange l (min a x) (max b y)

/-- A run of pages taken out of an instance's ranges. -/
def cutRange (l : List (Nat × Nat)) (a b : Nat) : List (Nat × Nat) :=
  l.flatMap (fun r => (if r.1 < a then [(r.1, min r.2 (a - 1))] else []) ++ (if b < r.2 then [(max r.1 (b + 1), r.2)] else []))

/-- Whether every page of a run is held. -/
def holdsRun (l : List (Nat × Nat)) (a b : Nat) : Bool := l.any (fun r => r.1 ≤ a && b ≤ r.2)

/-- Whether a run meets n pages from a first one on. -/
def meets (a b first n : Nat) : Bool := n ≠ 0 && first ≤ b && a < first + n

/-- Whether pages are free but for the store-private range (R349). -/
def State.freeRun (s : State) (a b : Nat) : Bool :=
  s.insts.all (fun e => e.2.ranges.all (fun r => b < r.1 || r.2 < a))
    && (List.range 64).all (fun i => !meets a b (NMap.at s.seq.saveBase i 0).toNat (NMap.at s.seq.savePages i 0).toNat)
    && !meets a b s.seq.hsbase.toNat s.seq.hspages.toNat
    && s.hbm.pages.all (fun p => p < a || b < p)
    && s.hbm.chans.all (fun n => ({ ranges := [(a, b)] } : Inst).pagesInSet (n % 128) = 0)

/-- Pages of an instance that are retirement-pending (R267). -/
def State.pendingPages (s : State) (x : Inst) : Nat := (((s.hbm.chans.map (fun n => n % 128)).eraseDups).map (fun k => x.pagesInSet k)).sum

/-- Pages taken from an instance: scrubbed, its translations invalid (R252, R353, R359). -/
def State.releasePages (s : State) (i a b : Nat) : State :=
  let s := s.scrub (a * 2 ^ 21) ((b + 1) * 2 ^ 21)
  (s.updInst i (fun x => { x with ranges := cutRange x.ranges a b })).tlbInv i

/-! ## The configuration commands (R359, R360, R362) -/

def stateCode : InstState → Nat
  | .free => 0
  | .active => 1
  | .resetting => 2
  | .preempted => 3
  | .removing => 4

/-- The clusters of an instance as a mask. -/
def State.clusterMask (s : State) (i : Nat) : Nat := maskOf ((List.range 128).filter (fun n => (s.cluster n).owner = some i))

/-- The QUERY payload. -/
def State.queryPayload (s : State) (i : Nat) : List Byte :=
  let x := s.inst i
  leBytes 2 x.gen.toNat ++ leBytes 1 (stateCode x.state) ++ leBytes 1 0 ++ leBytes 4 x.pasid.toNat
    ++ leBytes 16 (s.clusterMask i) ++ leBytes 2 x.ways.toNat ++ leBytes 1 x.linkw ++ leBytes 1 0 ++ leBytes 4 x.recq
    ++ leBytes 2 x.batchq ++ leBytes 2 0 ++ leBytes 4 ((x.ranges.map (fun r => r.2 + 1 - r.1)).sum) ++ leBytes 1 x.ranges.length
    ++ leBytes 3 0 ++ leBytes 4 (s.pendingPages x)

/-- QUERY. -/
def execQuery (mb : Nat) (s : State) : Out :=
  onUnit (mb < 64) (s.mbRun mb 0x01 (fun p s => s.respond mb 0 (s.queryPayload (targetOf p))))

/-- Why a configuration is refused: the checks that CREATE and CONFIG share. -/
def State.configRefusal (s : State) (t : Nat) (p : List Byte) : Option Nat :=
  let others := s.insts.filter (fun e => e.1 ≠ t && e.2.state ≠ .free)
  let root := leAt p 8 8
  if others.any (fun e => e.2.pasid.toNat = leAt p 4 4) then some 5
  else if popc 16 (leAt p 16 2) < 4 then some 6
  else if 8192 < leAt p 24 2 + (others.map (fun e => e.2.batchq)).sum then some 6
  else if s.seq.privCount * 2 ^ 21 < 256 * (leAt p 20 4 + (others.map (fun e => e.2.recq)).sum) then some 6
  else if root % 2048 ≠ 0 || 2 ^ 40 ≤ root || !(s.inst 0).holds (root / 2 ^ 21) then some 9
  else none

def Inst.configure (x : Inst) (p : List Byte) : Inst :=
  { x with
    pasid := BitVec.ofNat 20 (leAt p 4 4)
    root := BitVec.ofNat 56 (leAt p 8 8)
    ways := BitVec.ofNat 16 (leAt p 16 2)
    linkw := leAt p 18 1
    recq := leAt p 20 4
    batchq := leAt p 24 2 }

/-- Whether an instance's generation may advance now (R363). -/
def State.genFree (s : State) (i : Nat) : Bool :=
  match (s.inst i).genAt with
  | some t => t + 10 ^ 6 ≤ s.clock.now
  | none => true

/-- CREATE; it waits where the generation may not advance yet. No translation of the instance's last use stays cached. -/
def execCreate (mb : Nat) (s : State) : Out :=
  onUnit (mb < 64) (s.mbRun mb 0x10 (fun p s =>
    let t := targetOf p
    if (s.inst t).state ≠ .free then s.respond mb 5 []
    else match s.configRefusal t p with
      | some st => s.respond mb st []
      | none =>
        if !s.genFree t then s
        else
          let s := s.updInst t (fun x => { x.configure p with
            state := .active, gen := x.gen + 1, genAt := some s.clock.now, evn := 0, mb := { x.mb with cache := [] } })
          ((s.advanceEpoch t true).tlbInv t).respond mb 0 []))

/-- CONFIG. -/
def execConfig (mb : Nat) (s : State) : Out :=
  onUnit (mb < 64) (s.mbRun mb 0x11 (fun p s =>
    let t := targetOf p
    let x := s.inst t
    let moved : Bool := x.pasid.toNat ≠ leAt p 4 4 && (x.ring.en || x.entries ≠ [])
    let used := (x.records.filter (fun r => r.2.slot.isSome)).length
    match s.configRefusal t p with
    | some 5 => s.respond mb 5 []
    | r =>
      if moved then s.respond mb 5 []
      else if leAt p 20 4 < x.records.length || leAt p 24 2 < used then s.respond mb 6 []
      else match r with
        | some st => s.respond mb st []
        | none =>
          let s1 := s.setInst t (x.configure p)
          (if x.root.toNat = leAt p 8 8 then s1 else s1.tlbInv t).respond mb 0 []))

/-- The clusters that a payload names. -/
def maskClusters (p : List Byte) : List Nat := bitsOf 128 (leAt p 16 16)

/-- GRANT. -/
def execGrant (mb : Nat) (s : State) : Out :=
  onUnit (mb < 64) (s.mbRun mb 0x12 (fun p s =>
    let cs := maskClusters p
    if cs.any (fun n => (s.cluster n).owner.isSome) then s.respond mb 5 []
    else
      let s := cs.foldl (fun (s : State) n =>
        let s := (coresOf n).foldl (fun (s : State) g => s.updCore g (fun c => { c with ls := [], lsPoison := [], lsSeed := [] })) s
        s.updCluster n (fun c => { c with owner := some (targetOf p), pred := [] })) s
      s.mbResult mb 0 []))

/-- Clusters taken from their instance, their L2s written back. -/
def State.revokeClusters (s : State) (cs : List Nat) : State :=
  cs.foldl (fun (s : State) n => (s.flushL2 n).updCluster n (fun c => { c with owner := none })) s

/-- REVOKE. -/
def execRevoke (mb : Nat) (s : State) : Out :=
  onUnit (mb < 64) (s.mbRun mb 0x13 (fun p s =>
    let cs := maskClusters p
    let free := fun (n : Nat) => (s.cluster n).owner = some (targetOf p) && (s.cluster n).queue = [] && (coresOf n).all (fun g => (s.core g).slots = [])
    if cs.all free then (s.revokeClusters cs).mbResult mb 0 [] else s.respond mb 5 []))

/-- PAGES with OP 0. -/
def execPagesAssign (mb : Nat) (s : State) : Out :=
  onUnit (mb < 64) (s.mbRun mb 0x14 (fun p s =>
    let t := targetOf p
    let a := leAt p 4 4
    let b := a + leAt p 8 4 - 1
    let l := addRange (s.inst t).ranges a b
    if leAt p 1 1 ≠ 0 then s
    else if !s.freeRun a b || meets a b s.seq.privFirst s.seq.privCount then s.respond mb 5 []
    else if 64 < l.length then s.respond mb 6 []
    else (s.updInst t (fun x => { x with ranges := l })).respond mb 0 []))

/-- PAGES with OP 1. -/
def execPagesRelease (mb : Nat) (s : State) : Out :=
  onUnit (mb < 64) (s.mbRun mb 0x14 (fun p s =>
    let t := targetOf p
    let a := leAt p 4 4
    let b := a + leAt p 8 4 - 1
    if leAt p 1 1 ≠ 1 then s
    else if !holdsRun (s.inst t).ranges a b then s.respond mb 5 []
    else if 64 < (cutRange (s.inst t).ranges a b).length then s.respond mb 6 []
    else (s.releasePages t a b).mbResult mb 0 []))

/-- BIND. -/
def execBind (mb : Nat) (s : State) : Out :=
  onUnit (mb < 64) (s.mbRun mb 0x15 (fun p s =>
    let b : Binding := { module := BitVec.ofNat 12 (leAt p 4 2), rinst := BitVec.ofNat 6 (leAt p 6 1), rgen := BitVec.ofNat 16 (leAt p 8 2) }
    (s.updInst (targetOf p) (fun x => { x with
      binds := if leAt p 2 1 = 1 then NMap.ins x.binds (leAt p 1 1) b else NMap.del x.binds (leAt p 1 1) })).respond mb 0 []))

/-- TLBINV (R353). -/
def execTlbinv (mb : Nat) (s : State) : Out :=
  onUnit (mb < 64) (s.mbRun mb 0x16 (fun p s => (s.tlbInv (targetOf p)).respond mb 0 []))

/-- PRIVATE. -/
def execPrivateRange (mb : Nat) (s : State) : Out :=
  onUnit (mb < 64) (s.mbRun mb 0x17 (fun p s =>
    let a := leAt p 4 4
    let n := leAt p 8 4
    if s.insts.any (fun e => e.2.records ≠ []) || !s.freeRun a (a + n - 1) then s.respond mb 5 []
    else
      let s := { s with seq := { s.seq with
        privFirst := a, privCount := n, nodeTop := hotTableBytes, nodeFree := [], leafFree := [], recTop := 0, recFree := [] } }
      s.writeSets.respond mb 0 []))

/-! ## Reset and removal (R363 to R366, R392) -/

/-- Whether an outstanding request belongs to an instance: it was sent for it, or for an entry of it. -/
def Outstanding.serves (o : Outstanding) (i : Nat) : Bool :=
  o.inst = i || (match o.owner with
    | .entry j _ _ => i = j
    | _ => false)

/-- Step 2: all work of an instance stopped, its entries abandoned, a weight set that one of them was loading left as it was
registered, its collective contexts disabled. -/
def State.stopInstance (s : State) (i : Nat) : State :=
  let mine := s.launches.filter (fun l => l.inst = i)
  let loading := ((s.inst i).entries.filter (fun e => leAt e.bytes 0 1 = 7 && e.applied)).map (fun e => leAt e.bytes 18 1)
  let s := mine.foldl (fun (s : State) l => (s.dropWork i l.idx).removeLaunch i l.idx) s
  let s := s.updInst i (fun x => { x with entries := [], launchLog := [] })
  let s := { s with
    clusters := s.clusters.map (fun (e : Nat × Cluster) => (e.1, { e.2 with commitBuf := e.2.commitBuf.filter (fun r => r.inst ≠ i) }))
    seq := { s.seq with sets := s.seq.sets.map (fun (e : Nat × WSet) => if loading.contains e.1 && e.2.state = 2 then (e.1, { e.2 with state := 1, first := 0 }) else e) }
    ael := { s.ael with
      outst := s.ael.outst.filter (fun o => !o.serves i)
      coll := s.ael.coll.map (fun (e : Nat × Coll) => (e.1, if e.2.inst.toNat = i then { e.2 with en := false, run := none, txids := [], buf := [], remote := [] } else e.2)) } }
  s.writeSets

/-- The ring indices set to 0 with EN unchanged; what was held for the old generation discarded (R364, R365). -/
def Ring.restart (g : Ring) : Ring :=
  { g with sqhead := 0, sqtail := 0, cqtail := 0, eqtail := 0, cqhead := 0, eqhead := 0, eqHeld := [], lost := 0, cqPending := 0, cqFirst := none }

/-- Step 5: every record freed, layouts undefined, references dropped, a new key. -/
def State.clearStore (s : State) (i : Nat) (active : Bool) : State :=
  let nodes : List (Nat × Nat) := (s.inst i).records.flatMap (fun r => r.2.nodes)
  let s := { s with seq := nodes.foldl (fun (q : Seq) (e : Nat × Nat) => q.giveNode e.1 e.2) s.seq }
  let s := s.updInst i (fun x => { x with
    reuse := x.records.foldl (fun (m : NMap (BitVec 16)) (r : Nat × SeqRec) => NMap.upd 0 m r.1 (fun c => c + 1)) x.reuse
    records := [], layouts := [], evn := 0 })
  let s := { s with seq := { s.seq with sets := s.seq.sets.map (fun (e : Nat × WSet) => (e.1, { e.2 with refs := NMap.del e.2.refs i })) } }
  s.writeSets.advanceEpoch i active

/-- Steps 4 to 6; a removal ends with MAILBOX_COMMAND_END. -/
def State.finishReset (s : State) (i : Nat) : State :=
  match (s.inst i).resetJob with
  | none => s
  | some j =>
    let s := s.updInst i (fun x => { x with gen := x.gen + 1, genAt := some s.clock.now, ring := x.ring.restart, resetJob := none, preempting := false })
    if j.remove then
      let s := s.clearStore i false
      let s := (s.inst i).ranges.foldl (fun (s : State) r => s.releasePages i r.1 r.2) s
      let s := s.revokeClusters ((List.range 128).filter (fun n => (s.cluster n).owner = some i))
      let s := (s.updInst i (fun x => { state := .removing, gen := x.gen, genAt := x.genAt, ring := x.ring, mb := { x.mb with cache := [] }, reuse := x.reuse })).tlbInv i
      (s.event 0 (s.record 3 6 0 0 (i * 2 ^ 32))).mbResult j.mb 0 []
    else
      let s := (s.clearStore i true).updInst i (fun x => { x with state := .active })
      ((s.eventTo [i, 0].eraseDups (s.record 3 5 0 0 (j.sqhead.toNat + i * 2 ^ 32))).respond j.mb 0 []).answerRowless i

/-- Steps 1 and 2, and the rest at once where the generation may advance. -/
def State.beginReset (s : State) (mb i : Nat) (remove : Bool) : State :=
  let j : ResetJob := { remove := remove, mb := mb, sqhead := (s.inst i).ring.sqhead }
  let s := s.updInst i (fun x => { x with state := if remove then .removing else .resetting, resetJob := some j })
  let s := (s.stopInstance i).settleControls
  if s.genFree i then s.finishReset i else s

/-- RESET. -/
def execReset (mb : Nat) (s : State) : Out :=
  onUnit (mb < 64) (s.mbRun mb 0x20 (fun p s => s.beginReset mb (targetOf p) false))

/-- REMOVE. -/
def execRemove (mb : Nat) (s : State) : Out :=
  onUnit (mb < 64) (s.mbRun mb 0x21 (fun p s => s.beginReset mb (targetOf p) true))

/-- GENERATION_HOLD_EXPIRY (R363). -/
def execGenerationHoldExpiry (inst : Nat) (s : State) : Out :=
  onUnit (inst < 64) (if s.genFree inst then (s.finishReset inst).settleControls else s)

/-! ## Pre-emption (R297, R300, R361) -/

/-- The groups of a launch stopped and their tasks re-queued (R197). -/
def State.requeueLaunch (s : State) (l : Launch) : State :=
  (s.coresWith l.inst l.idx).foldl (fun (s : State) g =>
    (((s.core g).slots.filter (fun e => e.2.inst = l.inst && e.2.idx = l.idx)).map Prod.fst).foldl (fun (s : State) k => s.stopTask g k) s) s

/-- PREEMPT. -/
def execPreempt (mb : Nat) (s : State) : Out :=
  onUnit (mb < 64) (s.mbRun mb 0x22 (fun p s =>
    let t := targetOf p
    let keep := leAt p 1 1 = 1
    let d := leAt p 4 4
    let mine := s.launches.filter (fun l => l.inst = t && l.placed && l.fault.isNone && !l.saved)
    let drained := fun (l : Launch) => l.tmax ≠ 0 && l.tmax ≤ d
    let saves := mine.filter (fun l => !drained l && (l.pinned || keep) && s.coresWith l.inst l.idx ≠ [])
    if (s.inst t).state = .preempted then s.respond mb 0 []
    else if !s.saveFits t saves then s.respond mb 6 []
    else
      let s := s.updInst t (fun x => { x with preempting := true })
      let s := (mine.filter (fun l => !drained l && !l.pinned && !keep)).foldl (fun (s : State) l => s.requeueLaunch l) s
      let s := saves.foldl (fun (s : State) l => s.updLaunch l.inst l.idx (fun l => { l with saveBy := some true })) s
      let s := ((List.range 128).filter (fun n => (s.cluster n).owner = some t)).foldl (fun (s : State) n => s.control (clusterUnit n) .preempt) s
      s.settleControls))

/-- RESUME. -/
def execResume (mb : Nat) (s : State) : Out :=
  onUnit (mb < 64) (s.mbRun mb 0x23 (fun p s =>
    let t := targetOf p
    if (s.inst t).state ≠ .preempted then s.respond mb 5 []
    else
      let s := s.updInst t (fun x => { x with state := .active })
      let s := (s.launches.filter (fun l => l.inst = t && l.saved)).foldl (fun (s : State) l => s.restoreLaunch l) s
      s.respond mb 0 []))

end Sys2Proof.Machine
end

