-- ==== Sys2Proof/Machine/Security.lean ====
section
/-! DEFINITION. Security: the mailbox security commands, life cycle, attestation, licences and Gale (R446 to R463). -/

namespace Sys2Proof.Machine
open Sys2Proof

/-! ## Status (R462, R463) -/

def State.secStat (s : State) : Nat :=
  let c := s.sec
  c.lcs.toNat + b2n c.enrolled * 8 + b2n c.keygen * 16 + b2n c.exhausted * 32 + b2n c.locked * 64 + b2n c.battlow * 128 + c.debugcnt.toNat * 256

def State.sigidx (s : State) : Nat := (s.sec.sigIndex.getD Config.invalidIndex.toNat) % 2 ^ 21

/-- SECQ. -/
def execSecq (mb : Nat) (s : State) : Out :=
  onUnit (mb < 64) (s.mbRun mb 0x30 (fun _ s =>
    s.respond mb 0 (leBytes 4 s.secStat ++ leBytes 4 s.sigidx ++ leBytes 4 (s.variant.toNat % 16))))

/-! ## Attestation (R449 to R453) -/

/-- Bytes 0 to 351 of the evidence record of an instance, signed with an index. -/
def State.evidenceRecord (s : State) (i : Nat) (nonce : List Byte) (index : Nat) : List Byte :=
  let c := s.sec
  leBytes 2 1 ++ leBytes 1 c.lcs.toNat ++ leBytes 1 (b2n c.locked + b2n c.exhausted * 2 + c.debugcnt.toNat * 16) ++ leBytes 1 i
    ++ leBytes 3 0 ++ leBytes 8 c.serial.toNat ++ leBytes 4 index ++ leBytes 4 (s.variant.toNat % 16)
    ++ leBytes 32 (ofLe nonce) ++ leBytes 8 s.cad.beat.toNat
    ++ (List.range 8).flatMap (fun m => leBytes 32 (NMap.at c.meas m 0).toNat)
    ++ leBytes 32 (Config.shake256 (s.queryPayload i)).toNat

/-- The evidence of an instance: the status and the record with its signature. -/
def State.evidence (s : State) (i : Nat) (nonce : List Byte) : Nat × List Byte × State :=
  if s.sec.keygen then (5, [], s)
  else if !s.sec.enrolled then (0x0502, [], s)
  else match s.sign (s.evidenceRecord i nonce) with
    | (some sig, t) => (0, s.evidenceRecord i nonce (s.sec.sigIndex.getD 0) ++ sig, t)
    | (none, t) => (0x0501, [], t)

/-- EVIDENCE. -/
def execEvidence (mb : Nat) (s : State) : Out :=
  onUnit (mb < 64) (s.mbRun mb 0x31 (fun p s =>
    let (st, out, s) := s.evidence (targetOf p) ((p.drop 4).take 32)
    s.respond mb st out))

/-- ENROLL: the secrets drawn and key generation begun (R450). -/
def execEnroll (mb : Nat) (s : State) : Out :=
  onUnit (mb < 64) (s.mbRun mb 0x32 (fun _ s =>
    if (s.sec.enrolled && !s.sec.exhausted) || s.sec.lcs = 0 || s.sec.lcs = 4 then s.respond mb 5 []
    else
      let (a, s) := s.draw256
      let (b, s) := s.draw256
      let (c, s) := s.draw256
      { s with sec := { s.sec with keygen := true, keygenOpen := true, skSeed := a, skPrf := b, pubSeed := c } }))

/-- KEYGEN_DONE: the root, index 0, the key enrolled, the public key returned. -/
def execKeygenDone (mb : Nat) (s : State) : Out :=
  onUnit (mb < 64) (match (s.inst mb).mb.running with
    | none => s
    | some r =>
      if r.opcode ≠ 0x32 || !s.sec.keygen then s
      else
        let root := Config.xmssRoot s.sec.skSeed s.sec.skPrf s.sec.pubSeed
        let s := { s with sec := { (s.sec.putIndex 0) with root := root, keygen := false, keygenOpen := false, enrolled := true, exhausted := false } }
        s.respond mb 0 (leBytes 4 Config.xmssOid.toNat ++ leBytes 32 root.toNat ++ leBytes 32 s.sec.pubSeed.toNat ++ leBytes 8 s.sec.serial.toNat))

/-- CERTW. -/
def execCertw (mb : Nat) (s : State) : Out :=
  onUnit (mb < 64) (s.mbRun mb 0x33 (fun p s =>
    ({ s with sec := { s.sec with certs := NMap.putBytes 0xFF s.sec.certs (leAt p 4 4) (p.drop 8) } }).mbResult mb 0 []))

/-- CERTR. -/
def execCertr (mb : Nat) (s : State) : Out :=
  onUnit (mb < 64) (s.mbRun mb 0x34 (fun p s => s.respond mb 0 (NMap.bytes 0xFF s.sec.certs (leAt p 4 4) (leAt p 8 4))))

/-! ## Licences and tokens (R446, R454, R455) -/

/-- Whether 2,884 bytes are a licence (kind 0) or a token of this module. -/
def State.licenceOk (s : State) (kind : Nat) (l : List Byte) : Bool :=
  let f := fun (off n : Nat) => leAt l off n
  let nonce : Bool := if kind = 0 then f 24 32 = 0 else match s.sec.nonce with
    | some n => f 24 32 = ofLe n
    | none => false
  f 0 2 = 1 && f 2 1 = kind && f 3 1 = 0 && f 4 4 ≠ 0 && f 8 8 = s.sec.serial.toNat && (if kind = 0 then f 16 4 < 16 else f 16 4 = 0)
    && f 20 4 = 0x1280 && nonce && f 56 8 = 0 && Config.licenceVerify (l.take 64) ((l.drop 64).take 2820)

/-- LICADD. -/
def execLicadd (mb : Nat) (s : State) : Out :=
  onUnit (mb < 64) (s.mbRun mb 0x35 (fun p s =>
    let l := (p.drop 4).take 2884
    let x : Licence := { id := BitVec.ofNat 32 (leAt l 4 4), grant := BitVec.ofNat 32 (leAt l 16 4), digest := Config.shake256 l }
    let slot := match s.sec.licences.find? (fun e => e.2.id = x.id) with
      | some e => some e.1
      | none => (List.range 12).find? (fun j => (NMap.find s.sec.licences j).isNone)
    if !s.licenceOk 0 l then s.respond mb 0x0503 []
    else match slot with
      | none => s.respond mb 6 []
      | some j => (({ s with sec := { s.sec with licences := NMap.ins s.sec.licences j x } }).measureLicences).respond mb 0 []))

/-- LICDEL. -/
def execLicdel (mb : Nat) (s : State) : Out :=
  onUnit (mb < 64) (s.mbRun mb 0x36 (fun p s =>
    (({ s with sec := { s.sec with licences := s.sec.licences.filter (fun e => e.2.id.toNat ≠ leAt p 4 4) } }).measureLicences).respond mb 0 []))

/-- NONCE. -/
def execNonce (mb : Nat) (s : State) : Out :=
  onUnit (mb < 64) (s.mbRun mb 0x37 (fun _ s =>
    let (n, s) := s.drawBytes 32
    ({ s with sec := { s.sec with nonce := some n } }).respond mb 0 n))

/-! ## Life cycle (R446) -/

/-- An LCS command whose byte 1 names a state, in a direction that R446 permits: the token checked, then the change made. -/
def State.lcs (s : State) (mb state kind : Nat) (act : State → State) : State :=
  s.mbRun mb 0x38 (fun p s =>
    if leAt p 1 1 ≠ state then s
    else if kind ≠ 0 && !s.licenceOk kind ((p.drop 4).take 2884) then s.respond mb 0x0503 []
    else
      let s := act s
      ({ s with sec := { s.sec with lcs := BitVec.ofNat 3 state, nonce := if kind = 0 then s.sec.nonce else none } }).respond mb 0 [])

/-- LCS_DEPLOYED. -/
def execLcsDeployed (mb : Nat) (s : State) : Out := onUnit (mb < 64) (s.lcs mb 2 0 (fun s => s))

/-- LCS_DEBUG. -/
def execLcsDebug (mb : Nat) (s : State) : Out :=
  onUnit (mb < 64) (s.lcs mb 3 1 (fun s => { s.eraseStore with sec := { s.eraseStore.sec with debugcnt := s.sec.debugcnt + 1 } }))

/-- LCS_RETURN. -/
def execLcsReturn (mb : Nat) (s : State) : Out := onUnit (mb < 64) (s.lcs mb 1 2 State.eraseStore)

/-- LCS_RETIRED. -/
def execLcsRetired (mb : Nat) (s : State) : Out := onUnit (mb < 64) (s.lcs mb 4 3 State.eraseStore)

/-! ## Gale (R456 to R458, R461) -/

/-- A source detected: SEEN and ACTIVE, the tamper log, its level applied. -/
def State.detect (s : State) (source : Nat) (unpowered : Bool) : State :=
  let level := s.galeLevel source
  let b := BitVec.ofNat 7 (1 <<< source)
  let t := { s with sec := { s.sec with active := s.sec.active ||| b, seen := s.sec.seen ||| b, battlow := s.sec.battlow || source = 5 } }
  (t.tamper source level unpowered).applyLevel source level unpowered

/-- GALE_DETECTION: sources 2, 3 and 6 are watched only while the module is powered. -/
def execGaleDetection (source : Nat) (unpowered : Bool) (s : State) : Out :=
  .next (
    let off := unpowered || !s.board.rails
    if 7 ≤ source || (off && (source = 2 || source = 3 || source = 6)) then s else s.detect source off)

/-- GALE_SOURCE_CLEARED. -/
def execGaleSourceCleared (source : Nat) (s : State) : Out :=
  .next (
    if 7 ≤ source then s
    else { s with sec := { s.sec with
      active := s.sec.active &&& ~~~(BitVec.ofNat 7 (1 <<< source))
      battlow := s.sec.battlow && source ≠ 5 } })

/-- FIRMWARE_INTEGRITY_CHECK: the digest of the running firmware against measurement M1. -/
def execFirmwareIntegrityCheck (running : List (BitVec 8)) (s : State) : Out :=
  .next (
    if !s.board.rails || s.host.step.toNat < 3 || Config.shake256 running = NMap.at s.sec.meas 1 0 then s
    else s.detect 6 false)

/-- GCLR: LOCKED cleared where no source is active; the module leaves lock at the next warm reset (R458). -/
def execGclr (mb : Nat) (s : State) : Out :=
  onUnit (mb < 64) (s.mbRun mb 0x39 (fun _ s =>
    if s.sec.active ≠ 0 then s.respond mb 0x000C []
    else (s.withAlert { s with sec := { s.sec with locked := false } }).respond mb 0 []))

end Sys2Proof.Machine
end

