-- ==== Sys2Proof/Machine/Power.lean ====
section
/-! DEFINITION. Power and clocks: Foehn's updates and correction factor, floor hold, the limits, clock changes, gating and
droop (R409 to R417, R421, R424). -/

namespace Sys2Proof.Machine
open Sys2Proof

/-- Whether Foehn and the wardens work: rails up and no thermal trip. -/
def State.powered (s : State) : Bool := s.board.rails && !s.therm.tripped

/-! ## Clocks under a choice of steps (R411, R415) -/

/-- Whether a sector's clock follows Foehn's power choice: row 6 of R411. -/
def State.unheld (s : State) (n : Nat) : Bool := (s.sectorTarget n).1 < 3

/-- The step in effect of an unheld sector. -/
def State.stepOf (s : State) (n : Nat) : Nat := (s.sectorTarget n).2.1

/-- The clocks of the 64 sectors that R411 gives, in MHz. -/
def State.clocks (s : State) : List Nat := (List.range 64).map (fun n => (s.sectorTarget n).2.2)

/-- The clocks in effect. -/
def State.clocksNow (s : State) : List Nat := (List.range 64).map (fun n => (s.sectorClk n).mhz)

def State.setChoice (s : State) (n c : Nat) : State := s.updSectorClk n (fun k => { k with choice := c })

/-- M in mW from what the meter senses: the gains of the calibration block, and its offset added to the current that the gain has corrected
(R413; DESIGN CHOICE, log 138: that order). -/
def State.metered (s : State) (x : Sense) : Nat :=
  let c := s.board.applied
  (((x.mv * c.vgain / 65536 : Nat) : Int) * (((x.ma * c.igain / 65536 : Nat) : Int) + c.ioff) / 1000).toNat

/-- The power predicted for some clocks: k × E while the figures agree, the larger of M and E without k while DIVERGED
(R415, R416). -/
def State.predict (s : State) (f : Figures) (clocks : List Nat) : Nat :=
  let at' := Config.powerAt s.clocksNow clocks
  if s.foehn.diverged then max (at' f.meas) (at' f.est) else s.foehn.kfact.toNat * at' f.est / 256

/-- Whether the sustained limit holds with the next window's power: the average of M over the rolling second (R415). -/
def State.sustOk (s : State) (p : Nat) : Bool :=
  let w := s.foehn.window.take 999
  w.sum + p ≤ s.foehn.sust.toNat * 1000 * (w.length + 1)

def State.peakOk (s : State) (p : Nat) : Bool := p ≤ s.foehn.peak.toNat * 1000

/-- The current limit of a sector in A (R414, R424). -/
def State.iccmax (s : State) (n : Nat) : Nat := (NMap.at s.fuses.iccmax n 60).toNat

/-- Whether every sector's scaled current stays within its limit (R414). -/
def State.currentOk (s : State) (f : Figures) (n : Nat) : Bool :=
  let a := Config.currentAt (s.sectorClk n).mhz (s.sectorTarget n).2.2 (f.amps.getD n 0)
  (if s.foehn.diverged then a else s.foehn.kfact.toNat * a / 256) ≤ 1000 * s.iccmax n

/-- The limit that the present choices break: 1 sustained, 2 peak, 3 current, 0 none. -/
def State.broken (s : State) (f : Figures) : Nat :=
  let p := s.predict f s.clocks
  if !s.sustOk p then 1 else if !s.peakOk p then 2
  else if (List.range 64).any (fun n => s.unheld n && !s.currentOk f n) then 3 else 0

/-- One step off the highest-clocked unheld sector, the lower number first; for the current limit, off the sectors that
break it (R415). -/
def State.lowerOne (s : State) (f : Figures) (why : Nat) : Option State :=
  let l := (List.range 64).filter (fun n => s.unheld n && s.stepOf n ≠ 0 && (why ≠ 3 || !s.currentOk f n))
  (argMin (fun n => 20 - s.stepOf n) l).map (fun n => s.setChoice n (s.stepOf n - 1))

/-- Steps taken off until no limit is broken, at most n of them. -/
def State.lowerAll : Nat → State → Figures → State
  | 0, s, _ => s
  | n + 1, s, f =>
    let why := s.broken f
    if why = 0 then s
    else match s.lowerOne f why with
      | some t => t.lowerAll n f
      | none => s

/-- One step added to the lowest-clocked unheld sector whose choice can rise, the lower number first (R415). -/
def State.raiseOne (s : State) : Option State :=
  let l := (List.range 64).filter (fun n => s.unheld n && (s.sectorClk n).choice < 20)
  (argMin s.stepOf l).map (fun n => s.setChoice n ((s.sectorClk n).choice + 1))

/-- Steps added while no limit is broken, at most n of them, with the limit that stopped it. -/
def State.raiseAll : Nat → State → Figures → State × Nat
  | 0, s, _ => (s, 0)
  | n + 1, s, f =>
    match s.raiseOne with
    | none => (s, 0)
    | some t => if t.broken f = 0 then t.raiseAll n f else (s, t.broken f)

/-- The power at the floor clock on every up sector (R415). -/
def State.floorPower (s : State) (f : Figures) : Nat :=
  s.predict f ((List.range 64).map (fun n => min 1000 (s.sectorTarget n).2.2))

/-- Every sector's change of clock ordered. -/
def State.orderClocks (s : State) : State := (List.range 64).foldl (fun (s : State) n => if (s.sectorTarget n).1 < 4 then s.reclock n else s) s

/-- The input energy of 10 µs counted in mJ (R424). -/
def Foehn.addEnergy (k : Foehn) (mw : Nat) : Foehn :=
  let nj := k.energyRest + 10 * mw
  { k with energy := k.energy.add (nj / 10 ^ 6), energyRest := nj % 10 ^ 6 }

/-- The figures of an update kept: the last of them, and M and E of the running 1 ms (R413, R415). -/
def Foehn.note (k : Foehn) (f : Figures) : Foehn := { k with last := f, recentM := f.meas :: k.recentM, recentE := f.est :: k.recentE }

/-- The average of the figures of 1 ms; without one, what a command gives for it. -/
def averageOr (l : List Nat) (other : Nat) : Nat := if l = [] then other else l.sum / l.length

/-- FOEHN_UPDATE: the choices of the next 10 µs (R413 to R416). -/
def execFoehnUpdate (sense : Sense) (estMw : Nat) (ampsMa : List Nat) (s : State) : Out :=
  .next (
    if !s.powered then s
    else
      let f : Figures := { meas := s.metered sense, est := estMw, amps := ampsMa }
      let s := { s with foehn := (s.foehn.addEnergy f.meas).note f }
      let p := s.floorPower f
      let limit := if s.foehn.sust.toNat * 1000 ≤ p then 1 else if s.foehn.peak.toNat * 1000 ≤ p then 2 else 0
      if limit ≠ 0 then
        let was := s.foehn.unattainable
        let s := (List.range 64).foldl (fun (s : State) n => s.setChoice n 0) s
        let s := { s with foehn := { s.foehn with unattainable := true, attainSince := none, limiter := BitVec.ofNat 2 limit } }
        let s := if was then s else s.event 0 (s.record 0xA 1 0 0 limit)
        s.orderClocks
      else
        let s := { s with foehn := { s.foehn with
          attainSince := if s.foehn.unattainable then some (s.foehn.attainSince.getD s.clock.now) else none } }
        let why := s.broken f
        let (s, why) := if why ≠ 0 then (s.lowerAll 1280 f, why) else s.raiseAll 1280 f
        { s with foehn := { s.foehn with limiter := BitVec.ofNat 2 why } }.orderClocks)

/-- CORRECTION_FACTOR: the 1 ms averages of the updates since the last one, k as their ratio, and whether they agree (R413, R415, R416). The
ratio to an estimate of 0 is a free value. The operands stand in for a millisecond without an update (DESIGN CHOICE, log 138). -/
def execCorrectionFactor (meanMw meanEst : Nat) (s : State) : Out :=
  .next (
    if !s.powered then s
    else
      let measMw := averageOr s.foehn.recentM meanMw
      let estMw := averageOr s.foehn.recentE meanEst
      let (k, s) := if estMw = 0 then
          let (r, s) := s.draw
          (r.toNat % 2 ^ 16, s)
        else (min 0xFFFF (measMw * 256 / estMw), s)
      let w := (measMw :: s.foehn.window).take 1000
      let bad : Bool := 5 * min measMw estMw < 4 * max measMw estMw
      { s with foehn := { s.foehn with
        kfact := BitVec.ofNat 16 k
        meas := BitVec.ofNat 16 (measMw / 1000)
        est := BitVec.ofNat 16 (estMw / 1000)
        meas1s := BitVec.ofNat 16 (w.sum / w.length / 1000)
        window := w
        recentM := [], recentE := []
        disagree := if bad then s.foehn.disagree + 1 else 0
        agree := if bad then 0 else s.foehn.agree + 1 } })

/-- The DETAIL of the divergence and agreement events. -/
def State.powerDetail (s : State) : Nat := s.foehn.meas.toNat + s.foehn.est.toNat * 2 ^ 16

/-- DIVERGED (R416). -/
def execDiverged (s : State) : Out :=
  .next (
    if s.foehn.disagree < 10 || s.foehn.diverged then s
    else
      let t := { s with foehn := { s.foehn with diverged := true, floorhold := true, agree := 0 } }
      (t.event 0 (t.record 0xA 2 0 0 t.powerDetail)).orderClocks)

/-- FLOOR_HOLD_RELEASE (R416). -/
def execFloorHoldRelease (s : State) : Out :=
  .next (
    if s.foehn.agree < 100 || !s.foehn.diverged then s
    else
      let t := { s with foehn := { s.foehn with diverged := false, floorhold := false } }
      (t.event 0 (t.record 0xA 3 0 0 t.powerDetail)).orderClocks)

/-- UNATTAINABLE_CLEAR: 100 ms with the limit attainable (R415). -/
def execUnattainableClear (s : State) : Out :=
  .next (match s.foehn.attainSince with
    | some t => if s.foehn.unattainable && t + 10 ^ 8 ≤ s.clock.now then
        { s with foehn := { s.foehn with unattainable := false, attainSince := none } }
      else s
    | none => s)

/-- PEAK_EXCEEDED: the 1 ms average of M exceeds PEAK, and the choices fall until the limit holds again as predicted from the last estimate
(R415, R417). -/
def execPeakExceeded (measMw : Nat) (s : State) : Out :=
  .next (
    if !s.powered || s.peakOk measMw then s
    else
      let f : Figures := { s.foehn.last with meas := measMw }
      match s.lowerOne f 2 with
      | some t => { t.lowerAll 1280 f with foehn := { (t.lowerAll 1280 f).foehn with limiter := 2 } }.orderClocks
      | none => s)

/-- CLOCK_CHANGE: an ordered clock takes effect (R410, R417). -/
def execClockChange (sector : Nat) (s : State) : Out :=
  onUnit (sector < 64) (if (s.sectorClk sector).ordered.isSome && s.powered then s.applyClock sector else s)

/-! ## Gating (R412) -/

/-- What the last write of GATE of a sector asked for: that of the latest gating or ungating that has not ended, else the bit in force. -/
def State.gateAsked (s : State) (n : Nat) : Bool :=
  match (s.drains.filter (fun d => d.unit = sectorUnit n && (d.why = DrainWhy.gate || d.why = DrainWhy.ungate))).getLast? with
  | some d => d.why = DrainWhy.gate
  | none => (s.sectorClk n).gate

/-- A write of GATE in FOEHN.SECTOR[n]: a command of its own where it changes what was asked for last, run in its turn (R29). -/
def State.writeGate (s : State) (n : Nat) (gate : Bool) : State :=
  if s.err.secfenced.getLsbD n || gate = s.gateAsked n then s
  else (s.control (sectorUnit n) (if gate then .gate else .ungate)).settleControls

/-- A write of the low half of FOEHN.SECTOR[n]: a CAP of 21 to 31 discards it (R424). -/
def State.writeSector (s : State) (n : Nat) (v : Nat) : State :=
  if 20 < fld v 0 5 then s
  else ((s.updSectorClk n (fun k => { k with cap := BitVec.ofNat 5 v })).writeGate n (bit v 19)).orderClocks

/-- SECTOR_GATE and SECTOR_UNGATE: a write of FOEHN.SECTOR[n] (R412). -/
def execSectorGate (src n : Nat) (v : BitVec 32) (s : State) : Out :=
  onUnit (n < 64) (if s.regOpen src then s.writeSector n v.toNat else s)

def execSectorUngate (src n : Nat) (v : BitVec 32) (s : State) : Out :=
  onUnit (n < 64) (if s.regOpen src then s.writeSector n v.toNat else s)

/-- FOEHN_CLR: a write of FOEHN.CTRL (R424). -/
def execFoehnClr (src : Nat) (v : BitVec 32) (s : State) : Out :=
  .next (
    if !s.regOpen src then s
    else
      let s := { s with foehn := { s.foehn with satev := v.getLsbD 1 } }
      if !v.getLsbD 0 then s
      else
        let s := (List.range 64).foldl (fun (s : State) n => s.updSectorClk n (fun k => { k with droops := {} })) s
        { s with foehn := { s.foehn with energy := {}, energyRest := 0 } })

/-! ## Droop (R421) -/

/-- DROOP: a rail below the threshold of the calibration block; the detection counted, the clock stretched above the floor clock; at the floor
clock an event, once in each 1 ms. -/
def execDroop (rail : Rail) (s : State) : Out :=
  onUnit (rail.sector < 64) (
    let sector := rail.sector
    let k := s.sectorClk sector
    if !s.powered || k.mhz = 0 || rail.below ≤ NMap.at s.board.applied.droop sector 50 then s
    else
      let s := s.setSectorClk sector { k with droops := k.droops.add 1, stretched := 1000 < k.mhz }
      let due : Bool := match k.droopAt with
        | some t => t + 10 ^ 6 ≤ s.clock.now
        | none => true
      if k.mhz = 1000 && due then
        let s := s.updSectorClk sector (fun k => { k with droopAt := some s.clock.now })
        s.event 0 (s.record 0xA 5 0 (sectorUnit sector) 0)
      else s)

/-- DROOP_STRETCH_END. -/
def execDroopStretchEnd (sector : Nat) (s : State) : Out :=
  onUnit (sector < 64) (s.updSectorClk sector (fun k => { k with stretched := false }))

end Sys2Proof.Machine
end

