-- ==== Sys2Proof/Machine/Thermal.lean ====
section
/-! DEFINITION. Temperature: sensor samples, ceilings, pre-trip throttle, failed sensors and the thermal trip (R418 to R420,
R422, R423, R425). -/

namespace Sys2Proof.Machine
open Sys2Proof

/-- A temperature in °C, in the 1/256 °C of the sensors. -/
def degC (t : Int) : Int := 256 * t

/-- 20 less one step for each half degree above 95 °C, rounded up. -/
def stepsBelow (t : Int) : Int := if t ≤ degC 95 then 20 else 20 - (t - degC 95 + 127) / 128

/-- The thermal ceiling at a temperature after a previous ceiling (R418). -/
def ceilingStep (t : Int) (prev : Nat) : Nat :=
  let s := max 0 (stepsBelow t)
  if (prev : Int) < s then (min 20 (max (prev : Int) (stepsBelow (t + degC 1)))).toNat else s.toNat

/-- The sectors that a sensor acts on (R418). -/
def sensorSectors (i : Nat) : List Nat :=
  if i < 256 then [i / 4]
  else if i < 272 then (List.range 8).map (fun k => (i - 256) / 4 * 16 + (i - 256) % 4 / 2 * 8 + k)
  else []

/-- The unit that names a sensor: its sector, or the steward of its die (R419, R423). -/
def sensorUnit (i : Nat) : BitVec 32 :=
  if i < 256 then sectorUnit (i / 4) else stewardUnit ((i - 256) / 4)

/-- The sensors that act on a sector. -/
def actingSensors (n : Nat) : List Nat :=
  (List.range 4).map (fun j => 4 * n + j) ++ (List.range 2).map (fun c => 256 + 4 * (n / 16) + 2 * (n / 8 % 2) + c)

/-- A sample's effect on one sector: its ceiling, and pre-trip throttle entered, or its cooling followed (R418, R420). -/
def State.sampleSector (s : State) (n : Nat) (temp : Int) : State :=
  let k := s.sectorClk n
  let k := match s.sectorTemp n with
    | some t => { k with ceil := ceilingStep t k.ceil }
    | none => k
  let cool := (actingSensors n).all (fun i => (s.sensor i).fail || (s.sensor i).temp.toInt ≤ degC 108)
  let enters := temp > degC 110
  let t := s.setSectorClk n { k with
    pretrip := k.pretrip || enters
    coolSince := if cool && k.pretrip then some (k.coolSince.getD s.clock.now) else none }
  let t := if enters && !k.pretrip then t.abortTest n else t
  s.settleClock t n

/-! ## The trip (R422, R423) -/

/-- A trip record. -/
def State.tripRecord (s : State) (i : Nat) (temp : BitVec 16) : BitVec 256 :=
  let pre := (sensorSectors i).any (fun n => (s.sectorClk n).pretrip)
  BitVec.ofNat 256 (ofLe (leBytes 4 (sensorUnit i).toNat ++ leBytes 2 i ++ leBytes 2 temp.toNat ++ leBytes 8 s.cad.beat.toNat
    ++ leBytes 4 s.cad.phase.toNat ++ leBytes 4 s.pers.bootcnt.toNat ++ leBytes 2 s.foehn.meas.toNat
    ++ leBytes 1 (b2n pre + 2 * b2n s.foehn.floorhold) ++ leBytes 5 0))

/-- Squall: the clocks stop, the record is written, THERMTRIP_N is asserted and the rails go down. -/
def State.trip (s : State) (i : Nat) (temp : BitVec 16) : State :=
  if s.therm.tripped || !s.board.rails then s
  else
    let k := s.therm.newest + 1
    let t := { s with
      therm := { s.therm with trips := NMap.put 0 s.therm.trips k.toNat (s.tripRecord i temp), newest := k, tripcnt := sat16 s.therm.tripcnt 1, tripped := true, tripNew := true }
      board := { s.board with thermtrip := true } }
    (t.send (.pin 1 false)).losePower

/-- Whether a reading crosses the trip threshold. -/
def trips (temp : BitVec 16) : Bool := temp.toInt ≥ degC 115

/-- A reading with the thermal trim of its sensor (R418, R494). -/
def State.trimmed (s : State) (sensor : Nat) (raw : BitVec 16) : BitVec 16 :=
  BitVec.ofInt 16 (max (-32768) (min 32767 (raw.toInt + NMap.at s.board.applied.ttrim sensor 0)))

/-- THERMAL_SAMPLE: the sample of a working sensor (R418, R420, R422, R425). -/
def execThermalSample (sensor : Nat) (raw : BitVec 16) (s : State) : Out :=
  onUnit (sensor < 280) (
    let temp := s.trimmed sensor raw
    let x := s.sensor sensor
    if !s.powered || x.fail then s
    else
      let high := BitVec.ofNat 15 (temp.toNat / 2)
      let s1 := s.setSensor sensor { x with temp := temp, peak := if x.peak.toInt < high.toInt then high else x.peak }
      if trips temp then s1.trip sensor temp
      else
        let s2 := (sensorSectors sensor).foldl (fun (s : State) n => s.sampleSector n temp.toInt) s1
        if 272 ≤ sensor && temp.toInt ≥ degC 100 && x.temp.toInt < degC 100 then
          s2.event 0 (s2.record 0xA 6 0 (sensorUnit sensor) (sensor + temp.toNat * 2 ^ 16))
        else s2)

/-- SQUALL: the sample of a working sensor compared with 115 °C, after its trim (R418, R422). -/
def execSquall (sensor : Nat) (raw : BitVec 16) (s : State) : Out :=
  onUnit (sensor < 280) (
    let temp := s.trimmed sensor raw
    if trips temp && !(s.sensor sensor).fail then s.trip sensor temp else s)

/-- PRE_TRIP_EXIT: every acting sensor at 108 °C or less for 1 ms (R420). -/
def execPreTripExit (sector : Nat) (s : State) : Out :=
  onUnit (sector < 64) (
    let k := s.sectorClk sector
    match k.coolSince with
    | some t => if k.pretrip && t + 10 ^ 6 ≤ s.clock.now then
        s.settleClock (s.setSectorClk sector { k with pretrip := false, coolSince := none }) sector
      else s
    | none => s)

/-- SENSOR_FAILED (R411, R419). -/
def execSensorFailed (sensor : Nat) (s : State) : Out :=
  onUnit (sensor < 280) (
    let x := s.sensor sensor
    if !s.powered || x.fail then s
    else
      let t := s.setSensor sensor { x with fail := true }
      let t := t.event 0 (t.record 0xA 4 0 (sensorUnit sensor) sensor)
      (sensorSectors sensor).foldl (fun (t : State) n => s.settleClock t n) t)

/-- THERM_CLR: every PEAK set to the current TEMP (R425). -/
def execThermClr (src : Nat) (v : BitVec 32) (s : State) : Out :=
  .next (
    if !s.regOpen src || !v.getLsbD 0 then s
    else (List.range 280).foldl (fun (s : State) i =>
      s.setSensor i { s.sensor i with peak := BitVec.ofNat 15 ((s.sensor i).temp.toNat / 2) }) s)

end Sys2Proof.Machine
end

