-- ==== Sys2Proof/Machine/Starts.lean ====
section
/-! DEFINITION. Cold start and warm reset: the steps of a start, what each finds, recovery and bring-up mode, anti-rollback
fuses (R16, R18, R399 to R401, R405, R406, R464 to R469, R472, R474 to R476, R509). -/

namespace Sys2Proof.Machine
open Sys2Proof

/-! ## Starts begun and ended (R464, R469) -/

/-- A start that cannot continue (R469). -/
def State.failStart (s : State) (step cause : Nat) : State :=
  let s := s.startLost
  { s with
    host := { s.host with failed := true }
    boot := { s.boot with cause := BitVec.ofNat 8 cause, failstep := BitVec.ofNat 3 step } }

/-- A warm reset: at once by the register, or held by a pin until its release. -/
def State.warmReset (s : State) (pin : Bool) (inputs : StartInputs) : State :=
  if !s.board.rails then s
  else
    let recover := s.boot.recover
    let t := s.startLost.wipe
    s.withAlert (if pin then { t with boot := { t.boot with held := true, recover := recover } } else t.beginStart false inputs recover)

/-- A warm reset by a write of BOOT.CTRL or by the sideband. RECOVERY_N is sampled at the write, and no command tells its level there: it is a
free value (R464, R475, R486; DESIGN CHOICE, log 61). -/
def State.warmByRegister (s : State) : State :=
  let (f, s) := s.draw
  s.warmReset false { recoveryLow := f.getLsbD 0 }

/-- COLD_START: the rails have come up, no start has begun since, and PERST_N is released. -/
def execColdStart (inputs : StartInputs) (s : State) : Out :=
  .next (
    if !s.board.rails || !s.board.pwrGood || s.therm.tripped || s.boot.starting.isSome || s.boot.held || s.host.step ≠ 0
        || s.host.failed || s.host.recovery then s
    else s.withAlert (s.beginStart true inputs false))

/-- WARM_RESET (R464). -/
def execWarmReset (pinHeld : Bool) (inputs : StartInputs) (s : State) : Out := .next (s.warmReset pinHeld inputs)

/-- RESET_PIN_RELEASE (R464). -/
def execResetPinRelease (inputs : StartInputs) (s : State) : Out :=
  .next (if s.boot.held && s.board.rails then s.withAlert ({ s with boot := { s.boot with recover := false } }.beginStart false inputs s.boot.recover) else s)

/-! ## Step 1 and recovery mode (R465, R475) -/

/-- Whether the active image passes the checks of ROM. -/
def State.activeOk (s : State) : Bool := s.headerReason s.boot.active = 0 && imageDigests s.boot.active (fun k => k = 1)

/-- The reason for which a start enters recovery mode; 0 where there is none. -/
def State.recoverySrc (s : State) : Nat :=
  if s.boot.recoveryPin then 1 else if !s.activeOk then 2 else if 3 ≤ s.pers.failcnt.toNat then 3 else if s.boot.recoverAtT0 then 4 else 0

/-- Whether an installation may still take the reason away. -/
def State.mayInstall (s : State) : Bool := s.boot.stage = 2 || s.boot.stage = 3

def State.enterRecovery (s : State) (src : Nat) : State :=
  { s with host := { s.host with recovery := true }, boot := { s.boot with mode := 1, recsrc := BitVec.ofNat 3 src } }

/-- The registers and measurements that the active image gives. -/
def State.loadActive (s : State) : State :=
  let m := s.boot.active
  let s := { s with boot := { s.boot with version := imageVersion m, svn := BitVec.ofNat 8 (imageSvn m), bound := imageBound m } }
  s.measure 1 (imageSection m 1)

def State.step1 (s : State) : State :=
  let s := { s with pers := { s.pers with bootcnt := if s.pers.bootcnt = 0xFFFFFFFF then s.pers.bootcnt else s.pers.bootcnt + 1 } }
  let s := (s.measure 0 Config.bootRom).measureCal.measureLicences.measurePers
  let s := s.measure 6 [s.sec.lcs.zeroExtend 8, s.sec.debugcnt.zeroExtend 8]
  let s := if s.activeOk then s.loadActive else s
  let src := s.recoverySrc
  if src = 0 || (s.mayInstall && (src = 2 || src = 3)) then s else s.enterRecovery src

/-- Step 2: an armed image begins to install; a start in recovery mode with nothing to install stops here. -/
def State.step2 (s : State) : State :=
  if s.boot.stage = 2 then { s with boot := { s.boot with stage := 3 } }
  else if s.host.recovery then s.startLost else s

/-! ## Installation (R474) -/

/-- The installation between steps 2 and 3: the staged image rechecked and copied, or rejected. A copy that fails three times leaves the
active slot with bytes of no stated value, and its REASON is not stated either: both are free values. -/
def State.install (s : State) (copyFails : Bool) : State :=
  let image := s.boot.staging.filter (fun e => e.1 < flashNat s.boot.staging 24 4)
  let (r, s) := s.stagedReason
  let s := if r ≠ 0 then { s with boot := { s.boot with stage := 5, reason := BitVec.ofNat 8 r } }
    else if copyFails then
      let (f, s) := s.draw
      let (bs, s) := s.drawBytes image.length
      { s with boot := { s.boot with stage := 5, reason := f.truncate 8, active := (image.map Prod.fst).zip bs } }
    else
      { s with boot := { s.boot with stage := 4, active := image }, pers := { s.pers with failcnt := 0 } }.loadActive
  let src := s.recoverySrc
  if src = 0 then s else (s.enterRecovery src).startLost

/-! ## Step 3: discovery and settings (R399, R405, R406, R454, R494, R508, R509) -/

/-- The package feature level: what the descriptors have in common (R405). -/
def State.packageFeatures (s : State) : BitVec 32 :=
  let all := (List.range 6).map (fun d => (s.dieFuse d).feat)
  let low := all.foldl (fun a b => a &&& b) 0xFFFF
  let high := (all.take 4).foldl (fun a b => a &&& b) 0xFF0000
  low ||| high

/-- The cause of a die whose descriptor fails: its code by the report, or a kind or stepping that its position does not take (R399). -/
def State.dieCause (s : State) (r : StepReport) : Nat :=
  let wrong := (List.range 6).any (fun d => r.failed.contains (stewardUnit d)
    || (s.dieFuse d).kind ≠ (if d < 4 then 1 else 2)
    || (if d < 4 then s.stepping d ≠ 0xA1 && s.stepping d ≠ 0xB0 else s.stepping d ≠ 0xA0))
  if wrong then 1 else if !imageDigests s.boot.active (fun k => k = 3) || !s.corrected s.boot.active then 2 else 0

/-- The settings of the PERS block loaded, cut to what the variant grants. -/
def State.loadPers (s : State) : State :=
  let p := s.pers
  let v := s.variant
  let cut := fun (w : BitVec 12) (top : Nat) => if v.getLsbD 2 || w.toNat ≤ top then w else BitVec.ofNat 12 top
  { s with
    foehn := { s.foehn with sust := cut p.sust 2800, peak := cut p.peak 3600 }
    ael := { s.ael with id := p.aelid, en := if v.getLsbD 1 then p.aelen else p.aelen &&& 0xFFF }
    cad := { s.cad with src := p.cadSrc, leader := p.cadLeader, outen := p.cadOuten, rxlink := p.cadRxlink, period := p.cadPeriod, txlinks := p.cadTx, losspol := p.losspol, div := p.snapDiv, log2 := p.snapLog2, snapaddr := p.snapaddr, selectAt := s.clock.now }
    llc := { s.llc with quota := p.quota } }

/-- The calibration block applied; an invalid one gives unit gains, zero offsets and trims, a threshold of 50 mV and mid-range presets, and
holds every sector at the floor clock (R494; DESIGN CHOICE, log 137: mid-range). -/
def State.applyCal (s : State) : State :=
  if s.calValid then { s with
    cad := { s.cad with delay := BitVec.ofNat 10 (leAt s.calBlock 0x50 2) }
    board := { s.board with applied := calOf s.calBlock } }
  else
    let t := { s with foehn := { s.foehn with calInvalid := true }, board := { s.board with applied := {} } }
    (s.settleClocks t).eventLater 0 (t.record 0xC 1 0 0 0)

def State.step3 (s : State) (r : StepReport) : State :=
  let cause := s.dieCause r
  if cause ≠ 0 then s.failStart 3 cause
  else
    let mixed : Bool := (List.range 4).any (fun d => s.stepping d ≠ s.stepping 0)
    let bringup := s.boot.bringupAtT0 && (s.sec.lcs = 0 || s.sec.lcs = 1 || s.sec.lcs = 3)
    let s := { s with
      d2d := { s.d2d with pkgfeat := s.packageFeatures, mixed := mixed }
      boot := { s.boot with mode := if bringup then 2 else 0 } }
    s.loadPers.applyCal

/-! ## Step 4: wires, HBM and links (R265, R369, R398, R400, R401, R466) -/

/-- One direction of a bundle mapped: the data lane of each spare, the spares in use and the bad spares. -/
def laneMap (failed : BitVec 68) : BitVec 32 :=
  let lanes := (List.range 64).filter (fun j => failed.getLsbD j)
  let good := (List.range 4).filter (fun j => !failed.getLsbD (64 + j))
  let used := good.zip lanes
  let subs := (used.map (fun e => e.2 * 2 ^ (6 * e.1) + 2 ^ (24 + e.1))).sum
  BitVec.ofNat 32 (subs + failed.toNat / 2 ^ 64 * 2 ^ 28)

/-- The map where the good spares reach; none where they run short. -/
def mapLanes (failed : BitVec 68) : Option (BitVec 32) :=
  if popc 4 (15 - failed.toNat / 2 ^ 64) < popc 64 (failed.toNat % 2 ^ 64) then none else some (laneMap failed)

/-- One direction of a bundle as it trains: the credits that its receiver grants (R400). -/
def trainedDir : EddyDir := { credits := (List.range 4).foldl (fun m vc => NMap.put 0 m vc (Config.eddyCredits vc)) [] }

/-- A bundle fenced at a start, with its record (R400, R401, R435). -/
def State.bundleFails (s : State) (n : Nat) (map : BitVec 32) : State :=
  (s.updBundle n (fun b => { b with state := 1, map := map })).unitRecord 7 (bundleUnit n) []

/-- A bundle after its wire test and training; one without a report passed no rate. -/
def State.trainBundle (s : State) (r : StepReport) (n : Nat) : State :=
  match r.bundles.find? (fun b => b.1 = n) with
  | none => s.bundleFails n (s.bundle n).map
  | some (_, rate, f0, f1) =>
    match mapLanes f0, mapLanes f1 with
    | some m, some _ =>
      if rate < 3 then s.updBundle n (fun b => { b with
        state := 0, rate := BitVec.ofNat 2 rate, map := m, dir0 := trainedDir, dir1 := trainedDir })
      else s.bundleFails n m
    | _, _ => s.bundleFails n (laneMap f0)

/-- The segments of a die's bridge in service but for those that the report names as failed, under the numbers of MODEL; with fewer than 8 of
them the bridge is fenced (R403, R477). -/
def State.trainBridge (s : State) (r : StepReport) (d : Nat) : State :=
  let s := (List.range 16).foldl (fun (s : State) i =>
    let n := 160 + 16 * d + i
    s.updBundle n (fun b => if r.bundles.any (fun e => e.1 = n) then { b with state := 1 } else { b with state := 0, dir0 := trainedDir, dir1 := trainedDir })) s
  if popc 16 (s.segs d).toNat < 8 then s.fenceBridge d else s

/-- The bundles of an edge at the rate of its slowest. -/
def State.edgeRate (s : State) (e : Nat) : State :=
  match argMin (fun n => (s.bundle n).rate.toNat) (s.usable e) with
  | none => s
  | some k => (s.usable e).foldl (fun (s : State) n => s.updBundle n (fun b => { b with rate := (s.bundle k).rate })) s

/-- Whether a compute-die or I/O-die pair has lost every bundle to an I/O die (R398). -/
def State.noEdge (s : State) : Bool := (s.usable 4 = [] && s.usable 5 = []) || (s.usable 6 = [] && s.usable 7 = [])

/-- The settings of the pseudo-channels as bytes, over which their digest is taken (R466). -/
def trimBytes (m : NMap (BitVec 64)) : List Byte := (List.range 1024).flatMap (fun n => leBytes 8 (NMap.at m n 0).toNat)

/-- Every stack trained: the settings of each pseudo-channel are what training finds. -/
def State.trainAfresh (s : State) : State :=
  let k := s.clock.free
  { s with
    clock := { s.clock with free := k + 1024 }
    hbm := { s.hbm with trim := (List.range 1024).foldl (fun m n => NMap.put 0 m n (Config.freeWord (k + n))) [] } }

/-- The settings of the HBM PHYs: trained and saved by a cold start, restored by a warm reset where their digest and the check of every
pseudo-channel pass, else trained afresh (R466). -/
def State.setHbm (s : State) (r : StepReport) (cold : Bool) : State :=
  if cold then
    let s := s.trainAfresh
    { s with boot := { s.boot with hbmTrim := s.hbm.trim, hbmDigest := Config.shake256 (trimBytes s.hbm.trim) } }
  else if r.hbmTrimOk && s.boot.hbmDigest = Config.shake256 (trimBytes s.boot.hbmTrim) then
    { s with hbm := { s.hbm with trim := s.boot.hbmTrim } }
  else s.trainAfresh

/-- HBM trained: every pseudo-channel in service but those that failed. -/
def State.trainHbm (s : State) (r : StepReport) (cold : Bool) : State :=
  let s := s.setHbm r cold
  let s := { s with hbm := { s.hbm with up := 0xFFFF } }
  let s := (List.range 1024).foldl (fun (s : State) n => s.updPch n (fun p => { p with state := 0 })) s
  r.failed.foldl (fun (s : State) u => match unitKind u, unitNumber u with
    | 4, some n => s.fencePch n
    | 0xA, some n => s.fenceStack n
    | _, _ => s) s

/-- Links that are enabled begin to train, each lane from its presets (R487, R497). -/
def State.startLinks (s : State) : State :=
  (List.range 24).foldl (fun (s : State) l =>
    let presets : NMap Preset := (List.range 4).map (fun j => (j, NMap.at s.board.applied.lanes (4 * l + j) {}))
    s.updLink l (fun k =>
      let k := { k with presets := presets, rxEq := presets.map (fun (e : Nat × Preset) => (e.1, BitVec.ofNat 5 e.2.ctle)) }
      if s.ael.en.getLsbD l then { k with state := 1, trainAt := s.clock.now } else { k with state := 3 })) s

def State.step4 (s : State) (r : StepReport) (cold : Bool) : State :=
  let s := (List.range 160).foldl (fun (s : State) n => s.trainBundle r n) s
  let s := (List.range 8).foldl (fun (s : State) e => s.edgeRate e) s
  let s := (List.range 4).foldl (fun (s : State) d => s.trainBridge r d) s
  if s.noEdge then s.failStart 4 3 else (s.trainHbm r cold).startLinks

/-! ## Steps 5 and 6: core firmware and the known-answer run (R16, R18, R467, R468) -/

def State.step5 (s : State) (r : StepReport) : State :=
  if !imageDigests s.boot.active (fun k => k = 2) then s.failStart 5 5
  else
    let s := s.measure 2 (imageSection s.boot.active 2)
    { s with boot := { s.boot with badCores := r.failed.filter (fun u => unitKind u = 1) } }

/-- The spares of a cluster substituted for failing positions: its map, and the logical cores left absent. Of several failing
cores of a row pair the lowest takes the spare. -/
def substitute (m : Nat) (bad : List Nat) : Nat × List Nat :=
  (List.range 4).foldl (fun (acc : Nat × List Nat) r =>
    let used := bit m (24 + r)
    let sub := fld m (6 * r) 6
    let spareBad := bad.contains (9 * (2 * r + 1) + 8)
    let failing := ((List.range 16).map (fun k => 16 * r + k)).filter (fun l =>
      if used && l = sub then spareBad else bad.contains (9 * (l / 8) + l % 8))
    match failing with
    | l :: rest =>
      if used || spareBad then (acc.1, acc.2 ++ failing)
      else (setFld (setFld (setFld acc.1 (6 * r) 6 l) (24 + r) 1 1) 28 1 0, acc.2 ++ rest)
    | [] => acc) (m, [])

/-- The failing physical positions of a cluster among the units reported. -/
def State.badPositions (s : State) (us : List (BitVec 32)) (n : Nat) : List Nat :=
  us.filterMap (fun u =>
    let w := u.toNat
    if fld w 28 4 = 1 && fld w 25 3 * 32 + fld w 24 1 * 16 + fld w 20 4 = n then
      some (if bit w 19 then fld w 12 7 else s.physicalOf n (fld w 12 7 % 64))
    else none)

/-- The map of a cluster as substitution leaves it, and the positions without a spare fenced. -/
def State.setClusterMap (s : State) (n fused : Nat) (m : Nat × List Nat) : State :=
  let s := if m.1 = fused then s else { s with board := { s.board with clusterMap := NMap.ins s.board.clusterMap n (BitVec.ofNat 32 m.1) } }
  m.2.foldl (fun (s : State) l => s.markFenced (64 * n + l)) s

/-- The cores of a cluster after the run. -/
def State.runCluster (s : State) (us : List (BitVec 32)) (n : Nat) : State :=
  match s.badPositions us n with
  | [] => s
  | bad =>
    let fused := (NMap.at s.fuses.clusterMap n 0).toNat + 2 ^ 28
    s.setClusterMap n fused (substitute fused bad)

/-- A fabric unit that failed its vectors. -/
def State.failFabric (s : State) (u : BitVec 32) : State :=
  match unitKind u, unitNumber u with
  | 2, some n => if (s.cluster n).fenced then s else s.fenceCluster n false
  | 3, some n => if (s.slice n).fenced || s.lastSlice n then s else s.fenceSlice n
  | 4, some n => s.fencePch n
  | 9, _ => if fld u.toNat 12 8 = 8 && (fld u.toNat 25 3 = 4 || fld u.toNat 25 3 = 5) then
      { s with ael := { s.ael with reduceUp := s.ael.reduceUp &&& ~~~(BitVec.ofNat 2 (fld u.toNat 25 3 - 3)) } }
    else s
  | _, _ => s

/-- Step 6: the units that the report names fail; a core that was fenced before the start and passes the run is in service (R16; DESIGN
CHOICE, log 111). -/
def State.step6 (s : State) (r : StepReport) : State :=
  let us := r.failed ++ s.boot.badCores
  let dead := (List.range 4).any (fun d => (List.range 64).all (fun k => us.contains (sliceUnit (64 * d + k))))
  let s := (List.range 128).foldl (fun (s : State) n => s.runCluster us n) s
  let s := r.failed.foldl (fun (s : State) u => s.failFabric u) s
  if dead then s.failStart 6 4
  else if (List.range 8192).all (fun g => s.fencedCore g || (s.cluster (clusterOf g)).fenced) then s.failStart 6 8
  else { s with boot := { s.boot with badCores := [] } }

/-! ## Step 7 (R319, R469, R472) -/

def State.step7 (s : State) : State :=
  let s := { s with
    host := { s.host with ready := true }
    pers := { s.pers with failcnt := 0 }
    boot := { s.boot with starting := none, svnDue := s.boot.fusesvn < s.boot.svn } }
  if (s.inst 0).ring.en then s.event 0 (s.record 3 1 0 (blockUnit 4 2) 0) else s

/-! ## A step of the start (R465) -/

/-- The work of a step, and the step completed unless the start ended in it. -/
def State.runStep (s : State) (k : Nat) (r : StepReport) (cold : Bool) : State :=
  let t := match k with
    | 1 => s.step1
    | 2 => s.step2
    | 3 => s.step3 r
    | 4 => s.step4 r cold
    | 5 => s.step5 r
    | 6 => s.step6 r
    | _ => s.step7
  if t.host.failed then t
  else { t with
    host := { t.host with step := BitVec.ofNat 3 k }
    boot := { t.boot with steptime := NMap.put 0 t.boot.steptime k (BitVec.ofNat 32 (min 0xFFFFFFFF r.us)) } }

/-- START_STEP_DONE: the next step completes, an installation before step 3 included, or the start fails (R465, R469, R474). -/
def execStartStepDone (r : StepReport) (s : State) : Out :=
  .next (
    match s.boot.starting with
    | none => s
    | some cold =>
      let k := s.host.step.toNat + 1
      s.withAlert (
        if r.overrun then s.failStart k 7
        else if r.prmError then s.failStart k 6
        else
          let s := if k = 3 && s.boot.stage = 3 then s.install r.copyFails else s
          if s.boot.starting.isNone then s else s.runStep k r cold))

/-- FUSE_SVN (R472). -/
def execFuseSvn (s : State) : Out :=
  .next (if s.boot.svnDue && s.host.ready then { s with boot := { s.boot with fusesvn := s.boot.svn, svnDue := false } } else s)

/-- BOOT_RECOVER: a write of BOOT.CTRL (R464, R475, R476, R483). -/
def State.writeBootCtrl (s : State) (v : BitVec 32) : State :=
  let s := { s with pers := { s.pers with bringup := v.getLsbD 0 }, boot := { s.boot with recover := v.getLsbD 1 } }
  if v.getLsbD 31 then s.warmByRegister else s

def execBootRecover (src : Nat) (v : BitVec 32) (s : State) : Out := .next (if s.bootOpen src then s.writeBootCtrl v else s)

end Sys2Proof.Machine
end

