-- ==== Sys2Proof/Machine/Board.lean ====
section
/-! DEFINITION. Module hardware: power sequencing and pins, loss of the host link, the module commands of the mailbox, and the
management sideband (R343, R344, R485 to R501). -/

namespace Sys2Proof.Machine
open Sys2Proof

/-! ## Power and pins (R486, R488 to R490) -/

/-- The main rails come up where PWR_EN is asserted, VIN is in range and nothing holds them down. -/
def State.railsUp (s : State) : State :=
  if s.board.rails || !s.board.pwrEn || !s.board.standby || s.board.overvolt || s.therm.tripped || s.board.hotTrip then s
  else
    let t := { s with board := { s.board with rails := true, pwrGood := true } }
    s.withAlert (t.send (.pin 0 true))

/-- PWR_EN_ASSERT: a thermal trip is over once PWR_EN has been deasserted for 10 ms. -/
def execPwrEnAssert (s : State) : Out :=
  .next (
    if s.board.pwrEn then s
    else
      let over' := s.board.pwrOffAt + 10 ^ 7 ≤ s.clock.now
      ({ s with
        board := { s.board with pwrEn := true }
        therm := { s.therm with tripped := s.therm.tripped && !over' } }).railsUp)

/-- THERMTRIP_N is released (R486). -/
def State.releaseTrip (s : State) : State :=
  if s.board.thermtrip then { s with board := { s.board with thermtrip := false } }.send (.pin 1 true) else s

/-- PWR_EN_DEASSERT: PWR_EN itself, or VIN below lockout, which is below the overvoltage shutdown too, or above that shutdown (R488, R495). -/
def execPwrEnDeassert (vinMv : Option Nat) (s : State) : Out :=
  .next (
    match vinMv with
    | none =>
      if !s.board.pwrEn then s
      else
        let t := s.losePower.releaseTrip
        { t with board := { t.board with pwrEn := false, pwrOffAt := s.clock.now, hotTrip := false } }
    | some v =>
      if v < 41000 then
        let t := s.losePower
        t.withAlert { t with board := { t.board with standby := false, overvolt := false, i3cAddr := none, eid := 0, tid := 0, pldm := [], hotTrip := false } }
      else if 66000 < v then
        let t := s.losePower
        { t with board := { t.board with overvolt := true } }
      else if s.board.overvolt && v < 65000 then { s with board := { s.board with overvolt := false } }.railsUp
      else s)

/-- VIN_UP: VIN rises above lockout, comes back below the overvoltage shutdown, or rises above it (R488, R489). -/
def execVinUp (vinMv : Nat) (s : State) : Out :=
  .next (
    if vinMv < 41000 || (vinMv < 43000 && !s.board.standby) then s
    else if 66000 < vinMv then
      let t := s.losePower
      { t with board := { t.board with standby := true, overvolt := true } }
    else
      let t := { s with board := { s.board with standby := true, overvolt := s.board.overvolt && 65000 ≤ vinMv } }
      t.railsUp)

/-- HOT_SWAP_TRIP (R488). -/
def execHotSwapTrip (s : State) : Out :=
  .next (
    if !s.board.rails then s
    else
      let t := s.losePower
      { t with board := { t.board with hotTrip := true } })

/-- The host link lost: fetching stops, host writes are discarded, and the port stays stopped (R344). -/
def State.loseHost (s : State) : State :=
  s.withAlert { s with host := { s.host with dll := false, stopped := true } }

/-- LINK_DOWN. -/
def execLinkDown (s : State) : Out := .next (if s.host.dll && s.board.rails then s.loseHost else s)

/-- DATA_LINK_LAYER_UP: the link of a powered module trained, at a width and a rate that the port has (R316, R345, R495). -/
def execDataLinkLayerUp (width rate : BitVec 2) (flit : Bool) (s : State) : Out :=
  .next (
    if !s.board.rails || width = 3 || rate = 3 then s
    else s.withAlert { s with host := { s.host with dll := true, width := width, rate := rate, flit := flit } })

/-- PRSNT_N_BREAK: the going-down message on every up link, then the loss of the host link (R490). -/
def execPrsntNBreak (s : State) : Out :=
  .next (
    if !s.board.rails then s
    else
      let up := (List.range 24).filter (fun l => (s.link l).state = 2)
      (up.foldl (fun (s : State) l => s.sendControl l false [goingDownMessage 1]) s).loseHost)

/-! ## Module commands (R496, R497) -/

/-- The lights: green in bits 1 and 0, amber in bits 3 and 2 (0 off, 1 on, 2 blinking), blue in bit 4 (R501). -/
def State.lights (s : State) : Nat :=
  let green := if s.board.pwrGood then 1 else if s.board.standby then 2 else 0
  let amber := if s.host.failed || s.host.recovery then 2 else b2n (s.err.fatal || s.sec.locked || s.therm.tripNew)
  green + 4 * amber + 16 * b2n s.board.locate

/-- MODQ: the measured values are free. -/
def execModq (mb : Nat) (s : State) : Out :=
  onUnit (mb < 64) (s.mbRun mb 0x40 (fun _ s =>
    let (m, s) := s.drawBytes 14
    s.respond mb 0 (m ++ leBytes 1 s.lights)))

/-- CALX. -/
def execCalx (mb : Nat) (s : State) : Out :=
  onUnit (mb < 64) (s.mbRun mb 0x41 (fun p s => s.respond mb 0 ((s.calBlock.drop (leAt p 4 4)).take 2048)))

/-- CALW: one half of the write buffer, which the stored block fills first. -/
def execCalw (mb : Nat) (s : State) : Out :=
  onUnit (mb < 64) (s.mbRun mb 0x42 (fun p s =>
    let buf := NMap.putBytes 0 (s.board.calBuf.getD s.board.cal) (leAt p 4 4) (p.drop 8)
    ({ s with board := { s.board with calBuf := some buf } }).respond mb 0 []))

/-- CALCOMMIT: the buffer checked, completed with WRITECNT and DIGEST, and programmed. -/
def execCalcommit (mb : Nat) (s : State) : Out :=
  onUnit (mb < 64) (s.mbRun mb 0x43 (fun _ s =>
    match s.board.calBuf with
    | none => s.respond mb 1 []
    | some buf =>
      if !calForm (NMap.bytes 0 buf 0 4096) s.sec.serial then s.respond mb 1 []
      else
        let count := leBytes 4 (min 0xFFFFFFFF (leAt s.calBlock 12 4 + 1))
        let buf := NMap.putBytes 0 buf 12 count
        let buf := NMap.putBytes 0 buf 0x20 (leBytes 32 (calDigest (NMap.bytes 0 buf 0 4096)).toNat)
        ({ s with board := { s.board with cal := buf, calBuf := none, calProgramming := true, calBroken := false } }).measureCal.mbResult mb 0 count))

/-- LOCATE. -/
def execLocate (mb : Nat) (s : State) : Out :=
  onUnit (mb < 64) (s.mbRun mb 0x44 (fun p s => ({ s with board := { s.board with locate := leAt p 1 1 = 1 } }).respond mb 0 []))

/-! ## The sideband target and MCTP control (R498) -/

/-- The address at which the sideband answers: its dynamic one, or without one the static address of I2C. -/
def State.sidebandAddr (s : State) : BitVec 7 := s.board.i3cAddr.getD 0x5A

/-- A response or an event on the sideband. -/
def State.sendSideband (s : State) (kind code : BitVec 8) (data : List Byte) : State :=
  s.send (.sideband s.sidebandAddr s.board.unit kind code data)

/-- ENTDAA: a target without a dynamic address sends its provisional ID and takes the address given. -/
def execEntdaa (addr : BitVec 7) (s : State) : Out :=
  .next (
    if !s.board.standby || s.board.i3cAddr.isSome then s
    else ({ s with board := { s.board with i3cAddr := some addr } }).send
      (.sideband addr s.board.unit 0x10 0 (leBytes 6 (Config.provisionalId s.sec.serial).toNat)))

/-- A byte of a request; a missing one reads 0. -/
def byteAt (l : List Byte) (k : Nat) : Byte := l.getD k 0

/-- The answer to an MCTP control command, from its completion code on (DSP0236). -/
def State.mctp (s : State) (cmd : Nat) (data : List Byte) : List Byte × State :=
  match cmd with
  | 1 =>
    let op := (byteAt data 0).toNat % 4
    let eid := byteAt data 1
    if 2 ≤ op || eid = 0 || eid = 0xFF then ([2], s)
    else ([0, 0, eid, 0], { s with board := { s.board with eid := eid } })
  | 2 => ([0, s.board.eid, 0, 0], s)
  | 4 =>
    let (v, s) := s.drawBytes 4
    if [0, 1, 0x7F, 0xFF].contains (byteAt data 0).toNat then ([0, 1] ++ v, s) else ([0x80], s)
  | 5 => ([0, 2, 1, 0x7F], s)
  | 6 =>
    let (v, s) := s.drawBytes 2
    if byteAt data 0 = 0 then ([0, 0xFF, 1, 0x00, 0x01, 0xC4, 0xE5] ++ v, s) else ([2], s)
  | _ => ([5], s)

/-- MCTP_CONTROL. -/
def execMctpControl (cmd : BitVec 8) (data : List (BitVec 8)) (s : State) : Out :=
  .next (
    if !s.board.standby then s
    else
      let (r, s) := s.mctp cmd.toNat data
      s.sendSideband 0 cmd r)

/-! ## PLDM (R499) -/

/-- The highest reading of a working sensor (R425): its index and its temperature. -/
def State.hottest (s : State) : Nat × BitVec 16 :=
  match argMin (fun i => (32768 - (s.sensor i).temp.toInt).toNat) ((List.range 280).filter (fun i => !(s.sensor i).fail)) with
  | some i => (i, (s.sensor i).temp)
  | none => (0, 0)

/-- The reading of a numeric sensor: 1 VIN, 2 input current, 3 input power, 4 hottest die sensor, 5 hottest HBM stack, 6 coolant
inlet, 7 cold plate, 8 battery; none while a die sensor is unavailable. A measured value is free. -/
def State.numericSensor (s : State) (k : Nat) : Option (BitVec 32) × State :=
  match k with
  | 4 => (if s.board.rails then some (s.hottest.2.signExtend 32) else none, s)
  | 5 =>
    let temps := (List.range 16).map (fun n => NMap.at s.hbm.temp n (0 : BitVec 16))
    let top := temps.foldl (fun (a b : BitVec 16) => if a.toInt < b.toInt then b else a) (temps.headD 0)
    (if s.board.rails then some (top.signExtend 32) else none, s)
  | 3 => (some (s.foehn.meas.zeroExtend 32), s)
  | _ => (some (s.draw.1.truncate 32), s.draw.2)

/-- The state sensors: 0 READY, 1 RECOVERY, 2 FATAL, 3 LOCKED, 4 thermal trip, 5 host link. -/
def State.stateSensor (s : State) (k : Nat) : Bool :=
  match k with
  | 0 => s.host.ready
  | 1 => s.host.recovery
  | 2 => s.err.fatal
  | 3 => s.sec.locked
  | 4 => s.therm.tripped
  | _ => s.host.dll

/-- A state-sensor event: sensor, class, offset, present and previous state (DSP0248). -/
def eventBytes (k : BitVec 8) (now : Bool) : List Byte := [k, 0, 1, 0, BitVec.ofNat 8 (b2n now), BitVec.ofNat 8 (b2n !now)]

/-- PLATFORM_EVENT_MESSAGE: a state sensor whose value has changed since it was last reported. -/
def execPlatformEventMessage (sensor : Nat) (s : State) : Out :=
  .next (
    if 6 ≤ sensor || !s.board.standby || s.stateSensor sensor = NMap.at s.board.sensorState sensor false then s
    else s.withAlert { s with board := { s.board with
      sensorState := NMap.put false s.board.sensorState sensor (s.stateSensor sensor)
      pldm := s.board.pldm ++ [(BitVec.ofNat 8 sensor, s.stateSensor sensor)] } })

/-- The answer to a PLDM request, from its completion code on: type 0 SetTID, GetTID, version, types and commands; type 2 the
event poll, numeric and state readings (DSP0240, DSP0248). -/
def State.pldm (s : State) (ty cmd : Nat) (data : List Byte) : List Byte × State :=
  match ty, cmd with
  | 0, 1 => if byteAt data 0 = 0 || byteAt data 0 = 0xFF then ([2], s) else ([0], { s with board := { s.board with tid := byteAt data 0 } })
  | 0, 2 => ([0, s.board.tid], s)
  | 0, 3 =>
    let (v, s) := s.drawBytes 4
    ([0, 0, 0, 0, 0, 5] ++ v, s)
  | 0, 4 => (0 :: leBytes 8 5, s)
  | 0, 5 => (0 :: leBytes 32 (if byteAt data 0 = 0 then 0x3E else if byteAt data 0 = 2 then 2 ^ 0x0B + 2 ^ 0x11 + 2 ^ 0x21 else 0), s)
  | 2, 0x0B =>
    match s.board.pldm with
    | [] => ([0, s.board.tid, 0, 0], s)
    | (k, now) :: rest => (([0, s.board.tid, 1, 0] : List Byte) ++ eventBytes k now, s.withAlert { s with board := { s.board with pldm := rest } })
  | 2, 0x11 =>
    let k := leAt data 0 2
    if k = 0 || 8 < k then ([0x80], s)
    else match s.numericSensor k with
      | (some v, s) => (([0, 5, 0, 0, 0, 0, 0] : List Byte) ++ leBytes 4 v.toNat, s)
      | (none, s) => ([0, 5, 2, 0, 0, 0, 0, 0, 0, 0, 0], s)
  | 2, 0x21 =>
    let k := leAt data 0 2
    if 6 ≤ k then ([0x80], s)
    else ([0, 1, 0, BitVec.ofNat 8 (b2n (s.stateSensor k)), BitVec.ofNat 8 (b2n (NMap.at s.board.sensorState k false)), 0], s)
  | _, _ => ([5], s)

/-- PLDM_COMMAND. -/
def execPldmCommand (ty cmd : BitVec 8) (data : List (BitVec 8)) (s : State) : Out :=
  .next (
    if !s.board.standby then s
    else
      let (r, s) := s.pldm ty.toNat cmd.toNat data
      s.sendSideband (ty + 1) cmd r)

/-! ## Registers that the sideband and the host both read (R345, R445, R483) -/

/-- Whether nothing fetched is left to complete and no event left to write (R343). -/
def State.quiesced (s : State) : Bool := s.host.quiesce && s.insts.all (fun e => e.2.entries = [] && e.2.ring.eqHeld = [])

def State.hostStat (s : State) : Nat :=
  s.host.step.toNat + 8 * b2n s.host.ready + 16 * b2n s.host.recovery + 32 * b2n s.host.failed + 64 * b2n s.quiesced
    + 256 * s.host.width.toNat + 1024 * s.host.rate.toNat + 4096 * b2n s.host.flit

/-! ## Vendor-defined messages (R500) -/

/-- A vendor-defined command, which is answered from step 2 of a start on. -/
def State.vdm (s : State) (cmd : Nat) (act : State → List Byte × State) : State :=
  if !s.bootOpen 0 then s
  else
    let (r, s) := act s
    s.sendSideband 0x7F (BitVec.ofNat 8 cmd) r

/-- VDM_EVIDENCE: a status, and the record of instance 0. -/
def execVdmEvidence (nonce : List (BitVec 8)) (s : State) : Out :=
  .next (s.vdm 2 (fun s =>
    let (st, r, s) := s.evidence 0 nonce
    (leBytes 2 st ++ r, s)))

/-- VDM_ERASE. -/
def execVdmErase (s : State) : Out := .next (s.vdm 3 (fun s => ([], s.writeStage false true)))

/-- VDM_WRITE: as the data port with SPACE = 1; one outside the staging area is not performed and sets RANGE. -/
def execVdmWrite (off : Nat) (data : List (BitVec 8)) (s : State) : Out :=
  .next (
    if data.isEmpty || 1024 < data.length then s
    else s.vdm 4 (fun s => ([],
      if 2 ^ 26 < off + data.length then { s with dport := { s.dport with range := true } }
      else s.stagingAccess off data)))

/-- VDM_ARM. -/
def execVdmArm (s : State) : Out := .next (s.vdm 5 (fun s => ([], s.writeStage true false)))

/-- VDM_WARM. -/
def execVdmWarm (s : State) : Out :=
  .next (if s.bootOpen 0 then (s.sendSideband 0x7F 6 []).warmByRegister else s)

/-- VDM_RECOVER. -/
def execVdmRecover (s : State) : Out := .next (s.vdm 7 (fun s => ([], { s with boot := { s.boot with recover := true } })))

/-- LOGREAD: 8 records of the error log from an index on. -/
def execLogread (index : BitVec 32) (s : State) : Out :=
  .next (s.vdm 8 (fun s =>
    ((List.range 8).flatMap (fun k => leBytes 32 (NMap.at s.err.log ((index.toNat + k) % 1024) 0).toNat), s)))

/-- VDM_LOCATE. -/
def execVdmLocate (on : Bool) (s : State) : Out := .next (s.vdm 9 (fun s => ([], { s with board := { s.board with locate := on } })))

end Sys2Proof.Machine
end

