-- ==== Sys2Proof/Machine/Reel.lean ====
section
/-! DEFINITION. Reel: launches started, tasks taken and stolen, commits, completions, kills, core loss and drains (chapter
"Reel: launches, queues and stealing"; R53 to R58). -/

namespace Sys2Proof.Machine
open Sys2Proof

/-! ## Kills (R53 to R58, R194) -/

/-- CONTEXT_KILL: every group of the launch stopped, the fault event written, then the completion (R55 to R58). -/
def execContextKill (inst idx : Nat) (s : State) : Out :=
  onUnit (inst < 64) (match s.launch inst idx with
    | none => s
    | some l =>
      match l.fault with
      | none => s
      | some f =>
        let s := s.dropWork inst idx
        let r : Record :=
          { cls := 1, code := f.code, flags := BitVec.ofNat 8 (b2n l.more), unit := f.unit, beat := f.beat, phase := f.phase,
            detail := BitVec.ofNat 96 (f.pc.toNat % 2 ^ 56 + f.slot * 2 ^ 64 + f.lane.toNat * 2 ^ 72 + idx % 2 ^ 16 * 2 ^ 80) }
        ((s.event inst r).finishLaunch l (l.killStatus.getD 0x0102).toNat).settleControls)

/-! ## Start (R46, R181 to R185) -/

/-- Whether ranges or re-queued tasks of a launch stand in a cluster's queue. -/
def Cluster.hasTask (c : Cluster) (i idx : Nat) : Bool := c.queue.any (fun q => q.inst = i && q.idx = idx)

/-- Tasks of a launch (R181). -/
def Launch.tasks (l : Launch) : Nat := l.gx * l.gy * l.gz

/-- Whether a launch may place its ranges: every earlier one that shares a cluster has placed all and has none left (R183). -/
def State.placeable (s : State) (l : Launch) : Bool :=
  s.launches.all (fun m =>
    if m.inst = l.inst && diff32 (BitVec.ofNat 32 m.idx) (BitVec.ofNat 32 l.idx) < 0 && m.clusters.any l.clusters.contains then
      m.placed && !s.clusters.any (fun c => c.2.hasTask m.inst m.idx)
    else true)

/-- The ranges placed (R185). -/
def State.placeRanges (s : State) (l : Launch) (cs : List Nat) : State :=
  let m := cs.length
  let s := (cs.zip (List.range m)).foldl (fun (s : State) e =>
    let lo := l.tasks * e.2 / m
    let hi := l.tasks * (e.2 + 1) / m
    if lo = hi then s
    else s.updCluster e.1 (fun c => { c with
      queue := c.queue ++ [{ inst := l.inst, idx := l.idx, lo := lo, hi := hi, requeued := false }] })) s
  s.setLaunch { l with placed := true }

/-- LAUNCH_READY: dependencies judged, the fit checked, the ranges placed (R46, R182 to R185). -/
def execLaunchReady (inst idx : Nat) (s : State) : Out :=
  onUnit (inst < 64) (match s.launch inst idx, s.entry inst idx with
    | some l, some e =>
      if e.held || l.placed || l.fault.isSome || (s.inst inst).state = .resetting || (s.inst inst).state = .removing then s
      else match s.depsMet inst idx l.deps l.dfail with
        | none => s
        | some false => s.finishLaunch l 0x0104
        | some true =>
          if l.dctr && !l.ctrMet then s
          else if groupsPerCore l = 0 then s.finishLaunch l 0x0101
          else if !s.placeable l then s
          else
            let cs := l.clusters.filter (fun n => (coresOf n).any s.coreUp)
            if cs = [] then s.finishLaunch l 0x0101 else s.placeRanges l cs
    | _, _ => s)

/-- DEPENDENCY_POLL: the awaited word read again, for as long as the launch waits (R182, R518). -/
def execDependencyPoll (inst idx : Nat) (s : State) : Out :=
  onUnit (inst < 64) (match s.launch inst idx with
    | none => s
    | some l =>
      if !l.dctr || l.placed || l.fault.isSome then s
      else match s.pollWord inst idx l.daddr.toNat l.dval with
        | (.error st, s) => s.finishLaunch l st
        | (.ok b, s) => s.setLaunch { l with ctrMet := b })

/-! ## Tasks (R38, R42, R45, R141, R187) -/

/-- The launches whose tasks a core may take: its own while it holds groups, else the oldest with entries in its queue
(R187). -/
def State.launchFor (s : State) (g : Nat) : Option (Nat × Nat) :=
  let c := s.core g
  let q := (s.cluster (clusterOf g)).queue
  if c.slots ≠ [] then c.launch
  else
    (s.launches.find? (fun l => q.any (fun e => e.inst = l.inst && e.idx = l.idx))).map (fun l => (l.inst, l.idx))

/-- The entry from which a task of a launch is taken: a re-queued one first (R187). -/
def takeFrom (q : List QEntry) (i idx : Nat) : Option QEntry :=
  (q.find? (fun e => e.inst = i && e.idx = idx && e.requeued)).or (q.find? (fun e => e.inst = i && e.idx = idx))

/-- A queue with the first entry equal to one replaced by another. -/
def swapFirst : List QEntry → QEntry → QEntry → List QEntry
  | [], _, _ => []
  | x :: q, e, f => if x = e then f :: q else x :: swapFirst q e f

/-- A queue without the first task of one of its entries. -/
def dropFirst (q : List QEntry) (e : QEntry) : List QEntry :=
  if e.hi ≤ e.lo + 1 then q.erase e else swapFirst q e { e with lo := e.lo + 1 }

/-- A core made ready for the groups of a launch: the split, the accumulators, the cache portion, the shared region, and no code line of an
earlier launch (R38, R42, R66, R141). -/
def Core.begin (c : Core) (l : Launch) (seed : Nat) : Core :=
  { c with
    launch := some (l.inst, l.idx)
    split := l.c
    acc := []
    accPoison := []
    accWritten := 0
    l1 := []
    code := []
    ls := []
    lsPoison := []
    lsSeed := [(16, seed)] }

/-- The counters and the local-store region of a slot as a group starts with them (R42). -/
def Core.freshSlot (c : Core) (l : Launch) (slot seed : Nat) : Core :=
  let lo := l.s + slot * l.g
  { c with
    ctrs := c.ctrs.filter (fun e => e.1 / 32 ≠ slot)
    ls := c.ls.filter (fun e => !(lo ≤ e.1 && e.1 < lo + l.g))
    lsPoison := c.lsPoison.filter (fun k => !(lo ≤ 16 * k && 16 * k < lo + l.g))
    lsSeed := NMap.ins c.lsSeed slot seed }

/-- A core without its shared region's contents, for the first of a new set of groups (R42). -/
def Core.freshShared (c : Core) (l : Launch) (seed : Nat) : Core :=
  { c with ls := c.ls.filter (fun e => l.s ≤ e.1), lsPoison := c.lsPoison.filter (fun k => l.s ≤ 16 * k), lsSeed := NMap.ins c.lsSeed 16 seed }

/-- Whether a saved launch will come back to a core: it takes no task until then (R38, R197). -/
def State.awaitsImage (s : State) (g : Nat) : Bool := s.launches.any (fun l => l.saved && l.images.any (fun m => m.core = g))

/-- TASK_TAKE: the next task of the cluster's queue starts in the lowest free slot (R42, R45, R187, R202). -/
def execTaskTake (core : Nat) (s : State) : Out :=
  onUnit (core < 8192) (
    let n := clusterOf core
    if !s.coreUp core || s.draining core || s.awaitsImage core then s
    else match s.launchFor core with
      | none => s
      | some (i, idx) =>
        match s.launch i idx, takeFrom (s.cluster n).queue i idx with
        | some l, some e =>
          let x := s.inst i
          if l.fault.isSome || l.saved || l.saveBy.isSome || x.state ≠ .active || x.preempting then s
          else match (List.range (groupsPerCore l)).find? (fun t => (s.group core t).isNone) with
            | none => s
            | some slot =>
              let s := s.updCluster n (fun c => { c with queue := dropFirst c.queue e })
              let free := s.clock.free
              let s := { s with clock := { s.clock with free := free + 2 } }
              let s := s.updCore core (fun c =>
                let c := if c.launch ≠ some (i, idx) then c.begin l free else if c.slots = [] then c.freshShared l free else c
                c.freshSlot l slot (free + 1))
              (s.setGroup core slot (startGroup l e.lo core slot)).acquire core 2
        | _, _ => s)

/-! ## Stealing (R188 to R190) -/

/-- The place class of two clusters: 0 same hemi, 1 other hemi of the die, 2 adjacent die, 3 diagonal die (R11, R189). -/
def placeClass (a b : Nat) : Nat :=
  if a / 16 = b / 16 then 0
  else if a / 32 = b / 32 then 1
  else
    let d := a / 32 + b / 32
    if d = 3 then 3 else 2

/-- The size a cluster publishes for a launch: its largest stealable entry, re-queued tasks counting as 1 (R188, R189). -/
def Cluster.published (c : Cluster) (i idx : Nat) : Nat :=
  (c.queue.filter (fun q => q.inst = i && q.idx = idx)).foldl (fun m q =>
    max m (if q.requeued then 1 else if q.hi - q.lo ≥ 2 then q.hi - q.lo else 0)) 0

/-- choose_victim of R189, on global cluster numbers. -/
def State.chooseVictim (s : State) (l : Launch) (thief : Nat) : Option Nat :=
  let n := l.clusters.length
  let t := l.clusters.idxOf thief
  let ring := (List.range (n - 1)).map (fun j => l.clusters.getD ((t + j + 1) % n) 0)
  (List.range 4).findSome? (fun cls =>
    let cand := ring.filter (fun v => placeClass thief v = cls && (s.cluster v).published l.inst l.idx > 0)
    argMin (fun v => 2 ^ 40 - (s.cluster v).published l.inst l.idx) cand)

/-- Whether a cluster is idle for a launch: none of its tasks queued, and an up core that may take one (R187, R188). -/
def State.idleFor (s : State) (n : Nat) (l : Launch) : Bool :=
  let c := s.cluster n
  let older := s.launches.takeWhile (fun m => !(m.inst = l.inst && m.idx = l.idx))
  !c.hasTask l.inst l.idx && l.clusters.contains n && l.placed && l.fault.isNone && !l.saved && l.saveBy.isNone
    && (s.inst l.inst).state = .active && !(s.inst l.inst).preempting
    && (coresOf n).any (fun g => s.coreUp g && !s.draining g
      && !s.awaitsImage g
      && (if (s.core g).slots = [] then older.all (fun m => !c.hasTask m.inst m.idx) else (s.core g).launch = some (l.inst, l.idx))
      && (List.range (groupsPerCore l)).any (fun t => (s.group g t).isNone))

/-- STEAL_CHOOSE (R188, R189). -/
def execStealChoose (cl inst idx : Nat) (s : State) : Out :=
  onUnit (cl < 128 && inst < 64) (match s.launch inst idx with
    | none => s
    | some l =>
      let rest := (s.cluster cl).chosen.filter (fun c => !(c.1 = inst && c.2.1 = idx))
      let pick := if s.idleFor cl l then s.chooseVictim l cl else none
      s.updCluster cl (fun c => { c with chosen := match pick with
        | some v => rest ++ [(inst, idx, v)]
        | none => rest }))

/-- STEAL_REQUEST: the steal at the victim's hub, against its queue as it stands; a thief whose cores have all gone down since its choice
receives nothing (R26, R190, R199). -/
def execStealRequest (thief victim inst idx : Nat) (s : State) : Out :=
  onUnit (thief < 128 && victim < 128 && inst < 64) (
    if !(s.cluster thief).chosen.contains (inst, idx, victim) then s
    else
      let up := (coresOf thief).any s.coreUp
      let s := (s.toCluster thief victim 0 idx).toCluster victim thief 2 idx
      let s := s.updCluster thief (fun c => { c with chosen := c.chosen.erase (inst, idx, victim) })
      let mine := fun (q : QEntry) => q.inst = inst && q.idx = idx
      let q := (s.cluster victim).queue
      let won := fun (give : QEntry) (left : List QEntry) =>
        let s := s.updCluster victim (fun c => { c with queue := left, victim := c.victim.add 1 })
        let s := s.updCluster thief (fun c => { c with queue := c.queue ++ [give], steals := c.steals.add 1 })
        s.updLaunch inst idx (fun l => { l with steals := l.steals + 1 })
      if !up then s
      else match q.find? (fun e => mine e && e.requeued) with
      | some e => won e (q.erase e)
      | none =>
        match q.find? (fun e => mine e && e.hi - e.lo ≥ 2) with
        | none => s
        | some e =>
          let cut := e.hi - (e.hi - e.lo) / 2
          won { e with lo := cut } (swapFirst q e { e with hi := cut }))

/-! ## Commit (R160, R191 to R193, R429, R520) -/

/-- The writes of one piece of a commit copy; a failure faults the launch, and a walk that has to wait holds the reservation. -/
def commitPiece (core : Nat) (acc : Progress × List HeldWrite) (k n : Nat) : Progress × List HeldWrite :=
  let (p, ws) := acc
  if !p.on then acc
  else if p.s.walkWaits core p.j.inst (p.j.memVa k) then ({ p with on := false }, ws)
  else match p.s.copyTranslate core p.j .write (p.j.memVa k) with
    | (.error e, s) => ({ p with s := s.raiseJob core p.j e.code e.addr, on := false }, ws)
    | (.ok h, s) =>
      let bs := s.lsRead core (p.j.lsOff k) n
      if inPeer h.pa && anyPoison bs then ({ p with s := s.raiseJobOf core p.j 0xC (p.j.lsOff k + firstBad bs) p.j.inst, on := false }, ws)
      else ({ p with s := s }, ws ++ [{ pa := h.pa, leaf := h.leaf, bulk := p.j.bulk, fin := p.j.fin && k + n = p.j.total, data := bs }])

/-- The side-table word of one block of a commit copy with CK (R173, R520). -/
def commitCrc (core : Nat) (t : Nat × Nat) (acc : Progress × List HeldWrite) (k : Nat) : Progress × List HeldWrite :=
  let (p, ws) := acc
  if !p.on then acc
  else match tableIndex t (p.j.memVa k) with
    | none => ({ p with s := p.s.raiseJob core p.j 0xB 0, on := false }, ws)
    | some i =>
      let crc := crc32c (plain (p.s.lsRead core (p.j.lsOff k) 4096))
      if p.s.walkWaits core p.j.inst (p.j.ckt.toNat + 16 + 4 * i) then ({ p with on := false }, ws)
      else match p.s.copyTranslate core p.j .write (p.j.ckt.toNat + 16 + 4 * i) with
      | (.error e, s) => ({ p with s := s.raiseJob core p.j e.code e.addr, on := false }, ws)
      | (.ok h, s) => ({ p with s := s }, ws ++ [{ pa := h.pa, leaf := h.leaf, bulk := false, fin := false, data := clean (leBytes 4 crc), crc := true }])

/-- Every write of one commit copy: the FIN rule, its side-table words, and its bytes, whose last write carries the final flag
(R160, R224, R520). -/
def commitJob (core : Nat) (s : State) (j : CopyJob) : Progress × List HeldWrite :=
  match s.finFault core j with
  | (some e, s) => ({ s := s.raiseJob core j e.code e.addr, j := j, on := false }, [])
  | (none, s) =>
    let p : Progress := { s := s, j := j, on := true }
    let blocks := (List.range (j.total / 4096)).map (fun i => 4096 * i)
    if j.ck then
      match readTable core p with
      | (none, p) => (p, [])
      | (some t, p) =>
        (j.run 0 j.total).foldl (fun acc e => commitPiece core acc e.1 e.2) (blocks.foldl (fun acc k => commitCrc core t acc k) (p, []))
    else (j.run 0 j.total).foldl (fun acc e => commitPiece core acc e.1 e.2) (p, [])

/-- The commit copies of a task in issue order: the state, the copies as they now stand, the writes, and whether all went
well. -/
def commitJobs (core : Nat) : State → List CopyJob → State × List CopyJob × List HeldWrite × Bool
  | s, [] => (s, [], [], true)
  | s, j :: js =>
    let (p, ws) := commitJob core s j
    if !p.on then (p.s, p.j :: js, [], false)
    else
      let (s, js, ws', ok) := commitJobs core p.s js
      (s, p.j :: js, ws ++ ws', ok)

/-- COMMIT_RESERVATION: the first waiting task of the cluster gets room for all its commit bytes, and its sources are read
(R191, R520). -/
def execCommitReservation (cl : Nat) (s : State) : Out :=
  onUnit (cl < 128) (
    let c := s.cluster cl
    match c.commitWait with
    | [] => s
    | (_, g, slot) :: rest =>
      match s.group g slot with
      | none => s.updCluster cl (fun c => { c with commitWait := rest })
      | some x =>
        let need := commitBytes x.commits
        let used := (c.commitBuf.map (fun r => r.bytes)).sum
        if x.stopped || (s.launchOf x).fault.isSome || used + need > 524288 then s
        else
          let (s, js, ws, ok) := commitJobs g s x.commits
          let s := s.updGroup g slot (fun y => { y with commits := js })
          if !ok then s
          else
            let s := s.updGroup g slot (fun y => { y with phase := .reserved })
            s.updCluster cl (fun c => { c with
              commitWait := rest
              commitBuf := c.commitBuf ++ [{ core := g, slot := slot, inst := x.inst, idx := x.idx, task := x.task, bytes := need, writes := ws }] }))

/-- COMMIT_POINT: every commit byte of an ended task is in the buffer: the task is complete and its slot free; its writes are
performed once everything it did before its last exit is (R192, R202). -/
def execCommitPoint (core slot : Nat) (s : State) : Out :=
  onUnit (core < 8192 && slot < 16) (match s.group core slot with
    | none => s
    | some x =>
      let mine := fun (r : CommitRes) => r.core = core && r.slot = slot && !r.committed
      let ready := (x.phase = .ended && x.commits = []) || (x.phase = .reserved && (s.cluster (clusterOf core)).commitBuf.any mine)
      if !ready || x.stopped || (s.launchOf x).fault.isSome then s
      else
        let behind := (s.ael.outst.filter (fun o => o.p.opc = 1 && o.owner = .store core slot)).map (fun o => o.txid.toNat)
        let s := s.updCluster (clusterOf core) (fun c => { c with
          commitBuf := c.commitBuf.map (fun r => if mine r then { r with committed := true, behind := behind } else r) })
        let s := (s.freeSlot core slot).drainCommits (clusterOf core)
        (s.updLaunch x.inst x.idx (fun l => { l with committed := l.committed + 1 })).settleControls)

/-- LAUNCH_COMPLETE: every task committed and every write of the launch performed; the add at CADDR, then the completion (R193,
R202, R518). -/
def execLaunchComplete (inst idx : Nat) (s : State) : Out :=
  onUnit (inst < 64) (match s.launch inst idx with
    | none => s
    | some l =>
      if !l.placed || l.fault.isSome || l.added || l.committed < l.tasks || !s.launchPerformed inst idx then s
      else if l.caddr = 0 then s.finishLaunch l 0
      else match s.addWord inst idx l.caddr.toNat l.cval with
        | (.done, s) => s.finishLaunch l 0
        | (.bad st, s) => s.finishLaunch l st
        | (.sent, s) => s.setLaunch { l with added := true }
        | (.wait, s) => s)

/-! ## Core loss and drains (R194 to R198) -/

/-- CORE_LOST (R28, R194, R195). -/
def execCoreLost (core : Nat) (logicError : Bool) (s : State) : Out :=
  onUnit (core < 8192) (s.coreLost core logicError).settleControls

/-- DRAIN: the drained reset of a core or sector, or the drain of a cluster's cores, which nothing resets (R27, R29, R197; DESIGN
CHOICE, log 99: a drain stands for the reset that R27 begins with it). -/
def execDrain (unit : BitVec 32) (s : State) : Out :=
  onUnit (coreUnitOk unit) (s.control unit .command).settleControls

/-- A drain's end of TMAX for one group: re-queued, or its launch ordered to be saved (R197). -/
def State.expireGroup (s : State) (since g slot : Nat) : State :=
  match s.group g slot with
  | none => s
  | some x =>
    let l := s.launchOf x
    if s.clock.now < since + l.tmax * 1000 || l.fault.isSome then s
    else if l.saveBy.isSome then s
    else if !l.pinned then s.stopTask g slot
    else s.updLaunch x.inst x.idx (fun l => { l with saveBy := some false })

/-- A drain whose pinned launches do not fit their save area is refused: the fence goes on without a drain; a reset, gating or
test is given up, with the event of its end (R27, R301, R438). -/
def State.refuseDrain (s : State) (d : Drain) : State :=
  let x := fld d.unit.toNat 25 3 * 16 + fld d.unit.toNat 24 1 * 8 + fld d.unit.toNat 20 4
  match d.why with
  | .fence => s.actControl d
  | .test => s.endTest 4 ((s.clock.now - s.bist.since) / 1000)
  | .gate => ((s.endControl d).updSectorClk x (fun k => { k with gate := false })).controlEvent d.unit true 2
  | .command => if d.resets then (s.endControl d).controlEvent d.unit true 1 else s.endControl d
  | _ => s.endControl d

/-- DRAIN_TMAX_EXPIRY: for each task of the unit whose launch's TMAX has passed (R197, R301). -/
def execDrainTmaxExpiry (unit : BitVec 32) (s : State) : Out :=
  onUnit (coreUnitOk unit) (match s.drains.find? (fun d => d.unit = unit && d.begun && !d.acted) with
    | none => s
    | some d =>
      let due := s.launches.filter (fun l => l.pinned && l.saveBy.isNone && s.clock.now ≥ d.since + l.tmax * 1000
        && (unitCores unit).any (fun g => (s.core g).slots.any (fun e => e.2.inst = l.inst && e.2.idx = l.idx)))
      if due.any (fun l => !s.saveFits l.inst (due.filter (fun m => m.inst = l.inst))) then (s.refuseDrain d).settleControls
      else
        let cells := (unitCores unit).flatMap (fun g => ((s.core g).slots.map Prod.fst).map (fun t => (g, t)))
        (cells.foldr (fun (c : Nat × Nat) (s : State) => s.expireGroup d.since c.1 c.2) s).settleControls)

/-- A write of REEL.CTRL: CLR clears every counter (R199). -/
def execReelClr (src : Nat) (v : BitVec 32) (s : State) : Out :=
  .next (if s.regOpen src && v.getLsbD 0 then
    { s with clusters := s.clusters.map (fun e => (e.1, { e.2 with steals := {}, victim := {}, requeue := {} })) }
  else s)

end Sys2Proof.Machine
end

