-- ==== Sys2Proof/Machine/Rings.lean ====
section
/-! DEFINITION. The host port's rings: doorbells, entries fetched and checked, the entries LAUNCH, COPY, WAIT, FENCE and
EVENT, completion and event slots, interrupts and the ring set-up (chapter "Host port, rings and the data port"; R307 to
R312, R180 to R182). -/

namespace Sys2Proof.Machine
open Sys2Proof

/-! ## Fields of an entry (R9, R327) -/

def Entry.f (e : Entry) (off n : Nat) : Nat := leAt e.bytes off n
def Entry.ty (e : Entry) : Nat := e.f 0 1
def Entry.beatTag (e : Entry) : Nat := e.f 8 8

/-- The tags of the launches an entry names: n of them from a byte on. -/
def Entry.tags (e : Entry) (off n : Nat) : List (BitVec 16) := (List.range n).map (fun k => BitVec.ofNat 16 (e.f (off + 2 * k) 2))

/-- Whether an entry's tags past the first n of four are zero. -/
def Entry.tagsZero (e : Entry) (off n : Nat) : Bool := e.f (off + 2 * n) (2 * (4 - n)) = 0

/-- A 56-bit address field that is a multiple of m, its upper byte zero. -/
def Entry.addrOk (e : Entry) (off m : Nat) : Bool := e.f off 8 < 2 ^ 56 && e.f off 8 % m = 0

/-- A LAUNCH entry of an instance with n clusters (R52, R180, R181). -/
def Entry.launchOk (e : Entry) (n : Nat) : Bool :=
  let wdog := fld (e.f 45 1) 0 5
  let exact := bit (e.f 45 1) 6
  let wlow := sext 16 (e.f 50 2)
  let first := e.f 64 1
  let count := e.f 65 1
  let deps := fld (e.f 66 1) 0 3
  let dctr := bit (e.f 66 1) 3
  e.addrOk 16 8 && e.addrOk 24 1
    && (e.f 32 4 + 1) * (e.f 36 4 + 1) * (e.f 40 4 + 1) ≤ 2 ^ 32
    && fld (e.f 44 1) 3 3 ≠ 0 && fld (e.f 44 1) 6 2 = 0
    && (wdog = 0 || 16 ≤ wdog && wdog ≤ 30)
    && e.f 46 2 ≤ 896 && e.f 48 2 ≤ 896
    && (if exact then -448 ≤ wlow && wlow ≤ 192 else wlow = 0)
    && first ≤ n && count ≤ 128 && (count = 0 || first + count ≤ n)
    && deps ≤ 4 && fld (e.f 66 1) 5 3 = 0 && e.f 67 1 = 0 && e.tagsZero 68 deps
    && e.addrOk 80 4 && (dctr || e.f 76 4 = 0 && e.f 80 8 = 0)
    && e.addrOk 88 4 && (e.f 88 8 ≠ 0 || e.f 96 4 = 0)
    && e.f 100 28 = 0

/-- A COPY entry (R329, R519). -/
def Entry.copyOk (e : Entry) : Bool :=
  e.addrOk 16 4 && e.addrOk 24 4 && e.f 32 4 % 4 = 0 && e.f 32 4 ≠ 0 && e.f 36 92 ≤ 1

/-- A SEQ entry: the fields that its operation does not use are zero (R273, R279). -/
def Entry.seqOk (e : Entry) : Bool :=
  let op := e.f 16 1
  let used := fun (l : List Nat) (off n : Nat) => l.contains op || e.f off n = 0
  1 ≤ op && op ≤ 9 && fld (e.f 17 1) 6 2 = 0
    && ([1, 2].contains op || fld (e.f 17 1) 0 4 = 0)
    && (if op = 7 then 2 ≤ fld (e.f 17 1) 4 2 else fld (e.f 17 1) 4 2 = 0)
    && used [1] 18 2 && used [3, 4, 5, 6, 7, 8, 9] 20 4 && used [1, 4, 5] 24 4
    && used [7, 8] 28 4 && used [1, 7, 8] 32 4 && e.f 36 4 = 0
    && used [1, 7] 40 8 && e.f 40 8 < 2 ^ 56 && e.f 48 80 = 0
    && (op ≠ 1 || (1 ≤ e.f 18 2 && e.f 18 2 ≤ 64 && 1 ≤ e.f 24 4 && e.f 24 4 ≤ 512 && e.f 18 2 * 128 * (128 * e.f 24 4) ≤ 2 ^ 26
          && 1 ≤ e.f 32 4 && e.f 32 4 ≤ 2 ^ 20 && e.f 40 8 % 2 ^ 16 = 0))

/-- A STEP entry (R287). -/
def Entry.stepOk (e : Entry) : Bool :=
  e.addrOk 16 32 && e.f 24 2 + e.f 26 2 + e.f 28 2 ≤ 16384 && fld (e.f 30 1) 0 3 ≤ 4 && fld (e.f 30 1) 3 5 = 0
    && e.f 31 1 = 0 && e.addrOk 32 4 && e.f 52 76 = 0

/-- A WAIT entry (R330). -/
def Entry.waitOk (e : Entry) : Bool :=
  let kind := e.f 16 1
  let deps := fld (e.f 17 1) 0 3
  1 ≤ kind && kind ≤ 3
    && (if kind = 1 then 1 ≤ deps && deps ≤ 4 && fld (e.f 17 1) 4 4 = 0 && e.tagsZero 18 deps else e.f 17 9 = 0)
    && e.f 26 2 = 0 && (kind = 2 || e.f 28 12 = 0) && e.addrOk 32 4 && (kind = 3 || e.f 40 8 = 0) && e.f 48 80 = 0

/-- A MODEL entry (R293). -/
def Entry.modelOk (e : Entry) : Bool :=
  let op := e.f 16 1
  1 ≤ op && op ≤ 8 && fld (e.f 17 1) 3 5 = 0 && e.f 18 1 < 64 && e.f 19 1 = 0 && e.f 20 4 < 2 ^ 20
    && e.f 24 8 < 2 ^ 56 && e.f 32 8 < 2 ^ 56 && e.f 48 8 < 2 ^ 56 && e.f 56 72 = 0
    && (op ≠ 1 || (1 ≤ e.f 20 4 && e.f 24 8 % 4096 = 0
          && (bit (e.f 17 1) 0 || e.f 32 8 = 0) && (bit (e.f 17 1) 2 || e.f 48 8 = 0)))

/-- The checks of R9 on an entry of an instance with n clusters. -/
def Entry.wellFormed (e : Entry) (n : Nat) : Bool :=
  fld (e.f 1 1) 2 6 = 0 && e.f 6 2 = 0 &&
  (match e.ty with
    | 1 => e.launchOk n
    | 2 => e.copyOk
    | 3 => e.seqOk
    | 4 => e.stepOk
    | 5 => e.waitOk
    | 6 => e.f 18 2 = 0 && e.f 32 96 = 0
    | 7 => e.modelOk
    | 8 => e.f 16 112 = 0
    | _ => false)

/-! ## Fetch (R307, R308, R312, R319, R325 to R328) -/

/-- Whether tagged entries of an instance run untagged now: its policy is 1 and the cadence is lost or has no source
(R311, R312). -/
def State.runsUntagged (s : State) (i : Nat) : Bool := s.cad.losspol.toNat.testBit i && (s.cad.lost || s.cad.src = 0)

/-- Whether the module does work of its own: started, not locked, no package-fatal error, no thermal trip. -/
def State.working (s : State) : Bool :=
  s.host.ready && !s.sec.lockInForce && !s.err.fatal && !s.therm.tripped && s.board.rails

/-- Whether the part may fetch the next entry of an instance (R297, R308, R319, R323, R326, R328, R343, R344). -/
def State.mayFetch (s : State) (i : Nat) : Bool :=
  let x := s.inst i
  let g := x.ring
  s.working && s.sec.lcs ≠ 4 && !s.host.quiesce && !s.host.stopped && g.en && x.state = .active && !x.preempting
    && g.sqhead ≠ g.sqtail
    && x.entries.length + (g.cqtail - g.cqhead).toNat < 2 ^ g.cqlog
    && (x.entries.filter (fun e => e.held)).length < 1024
    && !x.entries.any (fun e => e.ty = 5 || e.ty = 6 || e.ty = 8)

/-- ENTRY_FETCH: the entry at SQHEAD read, noted if it is a LAUNCH (R182), checked in the order of R325, and held by its beat tag
or not (R307, R312). -/
def execEntryFetch (inst : Nat) (s : State) : Out :=
  onUnit (inst < 64) (
    if !s.mayFetch inst then s
    else
      let x := s.inst inst
      let g := x.ring
      let idx := g.sqhead
      let bytes := s.hostRead inst (g.sqbase.toNat + 128 * (idx.toNat % 2 ^ g.sqlog)) 128
      let e : Entry := { index := idx, bytes := bytes, held := false, free := false, started := false }
      let s := s.updInst inst (fun x => { x with ring := { x.ring with sqhead := idx + 1 }, entries := x.entries ++ [e] })
      let s := if e.ty = 1 then s.updInst inst (fun x => { x with launchLog := ((idx, none) :: x.launchLog).take 4096 }) else s
      let n := (s.clustersOf inst).length
      let result := if e.wellFormed n then e.resultSoFar n else 0
      if e.f 2 2 ≠ idx.toNat % 2 ^ 16 then s.complete inst idx.toNat 2 result
      else if e.f 4 2 ≠ x.gen.toNat then s.complete inst idx.toNat 3 result
      else if !e.wellFormed n then s.complete inst idx.toNat 1 0
      else
        if e.beatTag = 0 then s
        else if s.runsUntagged inst then s.updEntry inst idx.toNat (fun e => { e with free := true })
        else if e.beatTag ≤ s.cad.beat.toNat then
          { s.updEntry inst idx.toNat (fun e => { e with free := true }) with cad := { s.cad with late := s.cad.late.add 1 } }
        else s.updEntry inst idx.toNat (fun e => { e with held := true }))

/-- TAGGED_RELEASE: the tag is reached, or the entry runs untagged (R307, R312). -/
def execTaggedRelease (inst idx : Nat) (s : State) : Out :=
  onUnit (inst < 64) (match s.entry inst idx with
    | none => s
    | some e =>
      if e.held && (e.beatTag ≤ s.cad.beat.toNat || s.runsUntagged inst) then
        s.updEntry inst idx (fun e => { e with held := false, free := true })
      else s)

/-- Types whose entries begin in index order even where a beat tag holds one of them: SEQ and STEP, and COPY (R281, R308, R329). -/
def tied (a b : Nat) : Bool := ((a = 3 || a = 4) && (b = 3 || b = 4)) || (a = 2 && b = 2)

/-- Whether one of the entries before lets a later entry of a type begin: it has begun itself, or a beat tag holds it or an entry
that it is tied to; SEQ and STEP entries have to have completed for another one (R281, R308, R328). -/
def letsBegin (earlier : List Entry) (ty : Nat) (o : Entry) : Bool :=
  let held := o.held || (earlier.takeWhile (fun h => h.index ≠ o.index)).any (fun h => h.held && tied h.ty o.ty)
  if ty ≠ 2 && tied o.ty ty then false else o.started || (held && o.ty ≠ 1 && !tied o.ty ty)

/-- The entry that a command names, if it is of the type and may begin now. -/
def State.begins (s : State) (i idx ty : Nat) : Option Entry :=
  match s.entry i idx with
  | none => none
  | some e =>
    let x := s.inst i
    let earlier := x.entries.takeWhile (fun o => o.index ≠ e.index)
    if e.ty = ty && s.working && x.state ≠ .resetting && x.state ≠ .removing && (ty = 1 || !e.held) && earlier.all (letsBegin earlier ty)
    then some e else none

/-! ## LAUNCH (R52, R180 to R182) -/

/-- The launch that an entry describes, on the clusters cs of its instance. -/
def Entry.launch (e : Entry) (i : Nat) (cs : List Nat) : Launch :=
  let w := fld (e.f 45 1) 0 5
  let first := e.f 64 1
  let count := if e.f 65 1 = 0 then cs.length - first else e.f 65 1
  { inst := i
    idx := e.index.toNat
    entry := BitVec.ofNat 56 (e.f 16 8)
    args := BitVec.ofNat 56 (e.f 24 8)
    gx := e.f 32 4 + 1
    gy := e.f 36 4 + 1
    gz := e.f 40 4 + 1
    v := 32 * (fld (e.f 44 1) 0 3 + 1)
    c := 32768 * fld (e.f 44 1) 3 3
    wdog := if w = 0 then 24 else w
    rad := bit (e.f 45 1) 5
    exactRad := bit (e.f 45 1) 6
    pinned := bit (e.f 45 1) 7
    g := 256 * e.f 46 2
    s := 256 * e.f 48 2
    wlow := BitVec.ofNat 16 (e.f 50 2)
    tmax := e.f 52 4
    seed := BitVec.ofNat 64 (e.f 56 8)
    deps := e.tags 68 (fld (e.f 66 1) 0 3)
    dctr := bit (e.f 66 1) 3
    dfail := bit (e.f 66 1) 4
    dval := BitVec.ofNat 32 (e.f 76 4)
    daddr := BitVec.ofNat 56 (e.f 80 8)
    caddr := BitVec.ofNat 56 (e.f 88 8)
    cval := BitVec.ofNat 32 (e.f 96 4)
    clusters := (cs.drop first).take count }

/-- LAUNCH: the launch is registered; it starts once it is ready (R181, R182). -/
def execLaunch (inst idx : Nat) (s : State) : Out :=
  onUnit (inst < 64) (match s.begins inst idx 1 with
    | none => s
    | some e =>
      if e.started then s
      else
        let s := s.updEntry inst idx (fun e => { e with started := true })
        { s with launches := s.launches ++ [e.launch inst (s.clustersOf inst)] })

/-! ## COPY (R329, R519, R523) -/

/-- The completion of a copy whose writes have all been performed. -/
def State.endCopy (s : State) (i idx : Nat) : State :=
  match s.entry i idx with
  | none => s
  | some e =>
    match e.bad.or e.wbad with
    | some st => s.complete i idx st.toNat 0
    | none => s.complete i idx (if e.moved = 0 then 0 else 0x0307) 0

/-- COPY: the source read, then the destination written, once none of its lines has to wait; once no write awaits its
acknowledgement, the completion. -/
def execCopy (inst idx : Nat) (s : State) : Out :=
  onUnit (inst < 64) (match s.begins inst idx 2 with
    | none => s
    | some e =>
      if e.applied then (if e.remote = [] then s.endCopy inst idx else s)
      else
        let bulk := e.f 36 1 = 1
        let s := s.updEntry inst idx (fun e => { e with started := true })
        if s.writeWaits agentPort inst .write (e.f 24 8) (e.f 32 4) then s
        else match s.entryRead agentPort inst idx .read (e.f 16 8) (e.f 32 4) bulk with
        | (.wait, s) => s
        | (.bad st, s) => s.complete inst idx st 0
        | (.bytes bs, s) =>
          let (st, skipped, s) := s.entryWrite agentPort inst idx .write (e.f 24 8) bs bulk
          let s := s.closeBatches partTag
          let s := s.updEntry inst idx (fun e => { e with
            applied := true
            wbad := e.wbad.or (st.map (BitVec.ofNat 16))
            moved := b2n skipped
            buf := [] })
          if ((s.entry inst idx).map (fun e => e.remote)).getD [] = [] then s.endCopy inst idx else s)

/-! ## WAIT, FENCE, EVENT (R330 to R332, R518) -/

/-- WAIT: completes once its condition holds (R312, R330, R518). -/
def execWait (inst idx : Nat) (s : State) : Out :=
  onUnit (inst < 64) (match s.begins inst idx 5 with
    | none => s
    | some e =>
      match e.f 16 1 with
      | 1 =>
        match s.depsMet inst idx (e.tags 18 (fld (e.f 17 1) 0 3)) (bit (e.f 17 1) 3) with
        | none => s
        | some ok => s.complete inst idx (if ok then 0 else 0x0104) 0
      | 2 =>
        match s.pollWord inst idx (e.f 32 8) (BitVec.ofNat 32 (e.f 28 4)) with
        | (.error st, s) => s.complete inst idx st 0
        | (.ok met, s) => if met then s.complete inst idx 0 0 else s
      | _ => if e.f 40 8 ≤ s.cad.beat.toNat || s.runsUntagged inst then s.complete inst idx 0 0 else s)

/-- Whether an entry is the first of its instance that has not completed. -/
def State.isFirst (s : State) (i idx : Nat) : Bool := ((s.inst i).entries.head?.map (fun e => e.index.toNat)) = some idx

/-- FENCE_ENTRY (R331). -/
def execFenceEntry (inst idx : Nat) (s : State) : Out :=
  onUnit (inst < 64) (match s.begins inst idx 8 with
    | none => s
    | some _ => if s.isFirst inst idx then s.complete inst idx 0 0 else s)

/-- EVENT: a host-marker event, once every earlier entry has completed (R332). -/
def execEvent (inst idx : Nat) (s : State) : Out :=
  onUnit (inst < 64) (match s.begins inst idx 6 with
    | none => s
    | some e =>
      if s.isFirst inst idx then (s.event inst (s.record 4 (e.f 16 2) 0 0 (e.f 20 12))).complete inst idx 0 0 else s)

/-! ## Doorbells and slots (R323, R324, R335, R337) -/

/-- Whether a doorbell of an instance counts: not while it is being reset or removed (R319, R365). -/
def State.doorOpen (s : State) (i : Nat) : Bool := s.ringsOpen && (s.inst i).state ≠ .resetting && (s.inst i).state ≠ .removing

/-- DOORBELL: a write to SQDB (R323, R324). -/
def execDoorbell (inst size : Nat) (v : BitVec 32) (s : State) : Out :=
  onUnit (inst < 64) (
    let g := (s.inst inst).ring
    if size ≠ 4 || !s.doorOpen inst || !g.en then s
    else if diff32 v g.sqtail ≤ 0 then s
    else if (v - g.sqhead).toNat > 2 ^ g.sqlog then
      let s := s.updInst inst (fun x => { x with ring := { x.ring with overrun := true } })
      s.event inst (s.record 3 2 0 (blockUnit 4 0) (v.toNat + g.sqtail.toNat * 2 ^ 32))
    else s.updInst inst (fun x => { x with ring := { x.ring with sqtail := v } }))

/-- Whether a head written by the host is accepted (R335). -/
def headOk (w head tail : BitVec 32) : Bool := diff32 w head > 0 && diff32 tail w ≥ 0

/-- CQDB (R335). -/
def execCqdb (inst : Nat) (v : BitVec 32) (s : State) : Out :=
  onUnit (inst < 64) (
    let g := (s.inst inst).ring
    if s.doorOpen inst && headOk v g.cqhead g.cqtail then s.updInst inst (fun x => { x with ring := { x.ring with cqhead := v } }) else s)

/-- EQDB: held events take the slots that are released (R335, R337). -/
def execEqdb (inst : Nat) (v : BitVec 32) (s : State) : Out :=
  onUnit (inst < 64) (
    let g := (s.inst inst).ring
    if s.doorOpen inst && headOk v g.eqhead g.eqtail then
      (s.updInst inst (fun x => { x with ring := { x.ring with eqhead := v } })).flushHeld 65 inst
    else s)

/-! ## Interrupts (R338) -/

/-- CQ_COALESCE_TIMEOUT: CQTIME has passed since the first pending completion. -/
def execCqCoalesceTimeout (inst : Nat) (s : State) : Out :=
  onUnit (inst < 64) (
    let g := (s.inst inst).ring
    match g.cqFirst with
    | none => s
    | some t =>
      if g.cqtime = 0 || s.clock.now < t + 1000 * g.cqtime.toNat || g.cqmask then s
      else (s.updInst inst (fun x => { x with ring := { x.ring with cqPending := 0, cqFirst := none } })).interrupt g.cqvec.toNat)

/-- INTCTL: a mask cleared while its ring holds entries past the recorded head sends one interrupt; nothing is pending for
coalescing then. -/
def execIntctl (inst : Nat) (v : BitVec 32) (s : State) : Out :=
  onUnit (inst < 64) (if !s.ringsOpen then s else
    let g := (s.inst inst).ring
    let s := s.updInst inst (fun x => { x with ring := { x.ring with
      cqmask := v.getLsbD 0, eqmask := v.getLsbD 1, cqcnt := BitVec.ofNat 8 (fld v.toNat 8 8), cqtime := BitVec.ofNat 16 (fld v.toNat 16 16) } })
    let s := if g.cqmask && !v.getLsbD 0 && g.cqtail ≠ g.cqhead then
        (s.updInst inst (fun x => { x with ring := { x.ring with cqPending := 0, cqFirst := none } })).interrupt g.cqvec.toNat
      else s
    if g.eqmask && !v.getLsbD 1 && g.eqtail ≠ g.eqhead then s.interrupt g.eqvec.toNat else s)

/-! ## Ring set-up and quiescing (R319, R323, R343, R345) -/

/-- A write of HOST.RING[i].CFG. The LOG fields are accepted with EN = 0 and ACTIVE = 0 only; EN from 0 to 1 zeroes the
indices (R323). -/
def State.writeRingCfg (s : State) (i : Nat) (v : BitVec 32) : State :=
  let x := s.inst i
  let w := v.toNat
  let log := fun lo => fld w lo 5
  let good := fun n => 6 ≤ n && n ≤ 16
  if !good (log 0) || !good (log 8) || !good (log 16) then s
  else if x.ring.en then (if v.getLsbD 31 then s else s.updInst i (fun x => { x with ring := { x.ring with en := false } }))
  else if x.entries ≠ [] then s
  else
    let s := s.updInst i (fun x => { x with ring := { x.ring with sqlog := log 0, cqlog := log 8, eqlog := log 16 } })
    if !v.getLsbD 31 then s
    else (s.updInst i (fun x => { x with
      launchLog := []
      ring := { x.ring with en := true, sqhead := 0, sqtail := 0, cqtail := 0, eqtail := 0, cqhead := 0, eqhead := 0 } })).flushHeld 65 i

/-- RING_ENABLE (R323). -/
def execRingEnable (src i : Nat) (v : BitVec 32) (s : State) : Out :=
  onUnit (i < 64) (if s.earlyOpen src then s.writeRingCfg i v else s)

/-- RING_DISABLE (R323). -/
def execRingDisable (src i : Nat) (v : BitVec 32) (s : State) : Out :=
  onUnit (i < 64) (if s.earlyOpen src then s.writeRingCfg i v else s)

/-- QUIESCE: a write of HOST.CTRL (R343). -/
def execQuiesce (src : Nat) (v : BitVec 32) (s : State) : Out :=
  .next (if s.earlyOpen src then { s with host := { s.host with quiesce := v.getLsbD 0 } } else s)

end Sys2Proof.Machine
end

