-- ==== Sys2Proof/Machine/Store.lean ====
section
/-! DEFINITION. The sequence store: layouts and their pools, sequence records, tiers, and the SEQ entries (chapter
"Sequence store, batching and the model hot set"; R270 to R286). -/

namespace Sys2Proof.Machine
open Sys2Proof

/-! ## Reads and writes of the store in local memory -/

/-- Whether a virtual range of an instance lies in HBM, as the slots of a pool do (R273): page by page, n pages at most; no bytes where it
does, a status where it does not, or a wait for a walk. A page without a translation is left to the access itself. -/
def State.slotInHbm : Nat → State → Nat → Nat → Nat → Got × State
  | 0, s, _, _, _ => (.bytes [], s)
  | k + 1, s, i, va, n =>
    if n = 0 then (.bytes [], s)
    else if s.walkWaits agentPart i va then (.wait, s)
    else
      let m := chunk va n
      match s.entryPage agentPart i .read va with
      | (.error _, s) => (.bytes [], s)
      | (.ok (pa, _), s) => if inHbm pa then s.slotInHbm k i (va + m) (n - m) else (.bad 0x0009, s)

/-- Bytes of a slot read for an entry. -/
def State.storeRead (s : State) (i idx va n : Nat) : Got × State :=
  match s.slotInHbm (n / 65536 + 2) i va n with
  | (.bytes _, s) => s.entryRead agentPart i idx .read va n true
  | r => r

/-- Bytes written to a slot for an entry, at bulk class: no bytes when done, a status where a page denies it or lies outside HBM, or
a wait for a line. -/
def State.storeWrite (s : State) (i idx va : Nat) (bs : List PByte) : Got × State :=
  match s.slotInHbm (bs.length / 65536 + 2) i va bs.length with
  | (.bytes _, s) =>
    if s.writeWaits agentPart i .write va bs.length then (.wait, s)
    else match s.entryWrite agentPart i idx .write va bs true with
      | (some st, _, s) => (.bad st, s)
      | (none, _, s) => (.bytes [], s)
  | r => r

/-- n zero bytes. -/
def zeros (n : Nat) : List PByte := List.replicate n ((0 : Byte), false)

/-! ## Layouts and slots (R273, R274) -/

/-- The bytes of a page set. -/
def Layout.psb (L : Layout) : Nat := L.lg * 128 * L.tb

/-- The address of a slot, and of a token row of a layer group in it. -/
def Layout.slotAddr (L : Layout) (k : Nat) : Nat := L.pool.toNat + k * L.psb
def Layout.rowAddr (L : Layout) (k g t : Nat) : Nat := L.slotAddr k + g * 128 * L.tb + t * L.tb

def Layout.refCount (L : Layout) (k : Nat) : Nat := NMap.at L.refs k 0
def Layout.isFree (L : Layout) (k : Nat) : Bool := k < L.nslot && L.refCount k = 0 && !L.zeroing.contains k

def State.layout (s : State) (i n : Nat) : Option Layout := NMap.find (s.inst i).layouts n
def State.setLayout (s : State) (i n : Nat) (L : Layout) : State := s.updInst i (fun x => { x with layouts := NMap.ins x.layouts n L })
def State.updLayout (s : State) (i n : Nat) (f : Layout → Layout) : State :=
  match s.layout i n with
  | some L => s.setLayout i n (f L)
  | none => s

/-- The first number of n from a free starting point on, in a circle, that a test picks (R274, R280: which one is left open). -/
def State.pickFree (s : State) (n : Nat) (p : Nat → Bool) : Option Nat × State :=
  let (f, t) := s.draw
  (((List.range n).map (fun k => (f.toNat + k) % n)).find? p, t)

/-- A free slot taken with one reference. -/
def State.takeSlot (s : State) (i n : Nat) : Option Nat × State :=
  match s.layout i n with
  | none => (none, s)
  | some L =>
    match s.pickFree L.nslot L.isFree with
    | (some k, t) => (some k, t.setLayout i n { L with refs := NMap.ins L.refs k 1 })
    | (none, t) => (none, t)

/-- One reference of a slot dropped; the last one sends the slot to be zeroed (R274). -/
def Layout.dropRef (L : Layout) (k : Nat) : Layout :=
  if L.refCount k ≤ 1 then { L with refs := NMap.del L.refs k, zeroing := insNat L.zeroing k }
  else { L with refs := NMap.ins L.refs k (L.refCount k - 1) }

/-- The page sets of some leaves no longer held by a sequence. -/
def State.dropLeaves (s : State) (i n : Nat) (ls : List KvLeaf) : State :=
  s.updLayout i n (fun L => ls.foldl (fun (L : Layout) l => if l.tier = 1 then L.dropRef l.addr else L) L)

/-- What is done in every layer group of a layout, until one has to wait or fails. -/
def Layout.eachGroup (L : Layout) (f : Nat → State → Got × State) (s : State) : Got × State :=
  (List.range L.lg).foldl (fun (acc : Got × State) g =>
    match acc with
    | (.bytes _, s) => f g s
    | r => r) (.bytes [], s)

/-- Token rows r to r + k - 1 of a slot zeroed in every layer group (R284). -/
def State.zeroRows (s : State) (i idx : Nat) (L : Layout) (slot r k : Nat) : Got × State :=
  L.eachGroup (fun g s => s.storeWrite i idx (L.rowAddr slot g r) (zeros (k * L.tb))) s

/-- The first k token rows of one slot copied into another in every layer group (R286). -/
def State.copyRows (s : State) (i idx : Nat) (L : Layout) (src dst k : Nat) : Got × State :=
  L.eachGroup (fun g s => match s.storeRead i idx (L.rowAddr src g 0) (k * L.tb) with
    | (.bytes bs, s) => s.storeWrite i idx (L.rowAddr dst g 0) bs
    | r => r) s

/-- Whether a STEP of an instance is under way: a slot that one of its runs has freed serves no append of it (R291). -/
def State.stepUnderWay (s : State) (i : Nat) : Bool := (s.inst i).entries.any (fun e => e.ty = 4 && e.run.isSome && !e.applied)

/-- SLOT_ZEROED: a freed slot written with zeros through the instance's translation and returned to the free list, but not while a STEP of
the instance is under way; a page that denies the write leaves it waiting (R274, R291). -/
def execSlotZeroed (inst layout slotNo : Nat) (s : State) : Out :=
  onUnit (inst < 64) (match s.layout inst layout with
    | none => s
    | some L =>
      if !L.zeroing.contains slotNo || !s.working || s.stepUnderWay inst then s
      else match s.storeWrite inst (2 ^ 32) (L.slotAddr slotNo) (zeros L.psb) with
        | (.bytes _, t) => t.updLayout inst layout (fun L => { L with zeroing := L.zeroing.erase slotNo })
        | (_, t) => t)

/-! ## Records (R271, R282) -/

def SeqRec.vl (r : SeqRec) : Nat := r.cl + r.tc

/-- The record that a handle names, and its number: none where the record is free or the reuse count is another (R271). -/
def State.seqOf (s : State) (i h : Nat) : Option (Nat × SeqRec) :=
  let n := h % 2 ^ 16
  if (NMap.at (s.inst i).reuse n 0).toNat ≠ h / 2 ^ 16 then none else (NMap.find (s.inst i).records n).map (fun r => (n, r))

/-! ## Page-table nodes (R272, R275) -/

/-- The keys of the nodes that a page table with some leaves has, after that of its record: a node exists while one of its entries does. -/
def nodeKeys (pages : NMap KvLeaf) : List Nat :=
  recKey :: (if pages = [] then []
    else 0 :: ((pages.map (fun e => 1 + e.1 / 1024)).eraseDups ++ (pages.map (fun e => 64 + e.1 / 32)).eraseDups))

/-- A record's place or a node taken from those freed, or from what is left of the private range (DESIGN CHOICE, log 100: records from its
beginning up, nodes from its end down below the hot-set tables); none where there is no room. -/
def State.takeNode (s : State) (key : Nat) : Option (Nat × State) :=
  let q := s.seq
  let set := fun (a : Nat) (q : Seq) => some (a, { s with seq := q })
  let all := q.privCount * 2 ^ 21
  let n := nodeSize key
  if key = recKey then
    match q.recFree with
    | a :: l => set a { q with recFree := l }
    | [] => if all < q.recTop + n + q.nodeTop then none else set (q.privFirst * 2 ^ 21 + q.recTop) { q with recTop := q.recTop + n }
  else
    match (if n = 256 then q.nodeFree else q.leafFree) with
    | a :: l => set a (if n = 256 then { q with nodeFree := l } else { q with leafFree := l })
    | [] =>
      if all < q.nodeTop + n + max q.recTop (256 * (s.insts.map (fun e => e.2.recq)).sum) then none
      else set (q.privFirst * 2 ^ 21 + all - q.nodeTop - n) { q with nodeTop := q.nodeTop + n }

def State.giveNode (s : State) (key a : Nat) : State := { s with seq := s.seq.giveNode key a }

/-- The bytes of a record (DESIGN CHOICE, log 100): its layout, its lengths, its batch slot, and the address of its root. -/
def SeqRec.bytes (r : SeqRec) : List Byte :=
  leBytes 1 r.layout ++ leBytes 1 r.tc ++ leBytes 2 (r.slot.getD 0xFFFF) ++ leBytes 4 r.cl ++ leBytes 8 ((NMap.find r.nodes 0).getD 0) ++ leBytes 240 0

/-- The words of a node of a record, or the record's own bytes. -/
def SeqRec.node (r : SeqRec) (key : Nat) : List Byte :=
  let child := fun (k : Nat) => match NMap.find r.nodes k with
    | some a => leBytes 8 (1 + a)
    | none => leBytes 8 0
  let leaf := fun (p : Nat) => match NMap.find r.pages p with
    | some l => leBytes 8 (l.tier + (if l.tier = 1 then l.addr * 256 else alignDown l.addr 256)) ++ leBytes 8 l.evn.toNat
    | none => leBytes 16 0
  if key = recKey then r.bytes
  else if key = 0 then (List.range 32).flatMap (fun m => child (1 + m))
  else if key < 64 then (List.range 32).flatMap (fun q => child (64 + 32 * (key - 1) + q))
  else (List.range 32).flatMap (fun e => leaf (32 * (key - 64) + e))

/-- The record and the nodes of a page table that has changed: those without an entry freed, those that appear taken, and every one whose
words are others than before written; none where the private range has no room. -/
def State.syncNodes (s : State) (old r : SeqRec) : Option (SeqRec × State) :=
  let keys := nodeKeys r.pages
  let s := (old.nodes.filter (fun e => !keys.contains e.1)).foldl (fun (s : State) e => s.giveNode e.1 e.2) s
  let kept := old.nodes.filter (fun e => keys.contains e.1)
  let got := (keys.filter (fun k => (NMap.find kept k).isNone)).foldl (fun (acc : Option (NMap Nat × State)) k =>
    acc.bind (fun x => (x.2.takeNode k).map (fun t => (NMap.ins x.1 k t.1, t.2)))) (some (kept, s))
  got.map (fun x =>
    let r := { r with nodes := x.1 }
    (r, x.1.foldl (fun (s : State) e =>
      if NMap.find old.nodes e.1 = some e.2 && old.node e.1 = r.node e.1 then s else s.hbmWrite {} e.2 (clean (r.node e.1))) x.2))

/-- Some of the nodes of a record read, with critical-class requests that are not allocated (R261, R272): whether one is poisoned. -/
def State.readKeys (s : State) (nodes : NMap Nat) : Bool × State :=
  nodes.foldl (fun (acc : Bool × State) e =>
    let (bs, s) := acc.2.hbmRead { alloc := false, ask := some .critical } e.2 (nodeSize e.1)
    (acc.1 || anyPoison bs, s)) (false, s)

/-- A record and every node of its page table read. -/
def State.readNodes (s : State) (r : SeqRec) : Bool × State := s.readKeys r.nodes

/-- Whether a line of a record or of its nodes has to wait at its home (R245). -/
def State.nodesHeld (s : State) (r : SeqRec) : Bool := r.nodes.any (fun e => s.heldRun e.2 (nodeSize e.1))

/-- A record written, with its page table; none where its nodes find no room. -/
def State.putSeq (s : State) (i n : Nat) (r : SeqRec) : Option State :=
  let old := (NMap.find (s.inst i).records n).getD { r with pages := [], nodes := [] }
  (s.syncNodes old r).map (fun t => t.2.updInst i (fun x => { x with records := NMap.ins x.records n t.1 }))

/-- A record written whose page table needs no further node. -/
def State.setSeq (s : State) (i n : Nat) (r : SeqRec) : State := (s.putSeq i n r).getD s

/-- A free record taken with contents; its handle, or a status: the quota is used up (R270, R280), or its nodes find no room. -/
def State.takeRecord (s : State) (i : Nat) (r : SeqRec) : Except Nat Nat × State :=
  let x := s.inst i
  if x.records.length ≥ min x.recq 65536 then (.error 6, s)
  else match s.pickFree 65536 (fun n => (NMap.find x.records n).isNone) with
    | (some n, t) => (match t.putSeq i n r with
      | some u => (.ok (n + (NMap.at x.reuse n 0).toNat * 2 ^ 16), u)
      | none => (.error 0x0207, s))
    | (none, t) => (.error 6, t)

/-- A record freed: its page-set references and nodes dropped, its reuse count advanced (R271, R275, R280). -/
def State.freeRecord (s : State) (i n : Nat) (r : SeqRec) : State :=
  let s := s.dropLeaves i r.layout (r.pages.map Prod.snd)
  let s := r.nodes.foldl (fun (s : State) e => s.giveNode e.1 e.2) s
  s.updInst i (fun x => { x with records := NMap.del x.records n, reuse := NMap.put 0 x.reuse n (NMap.at x.reuse n 0 + 1) })

/-- A rollback: the rows of the kept page that were tentative zeroed, the page sets from token page ceil(CL / 128) on
dropped (R284). -/
def State.rollback (s : State) (i idx : Nat) (r : SeqRec) : Got × SeqRec × State :=
  match s.layout i r.layout with
  | none => (.bad 1, r, s)
  | some L =>
    let p := r.cl / 128
    let keep := (r.cl + 127) / 128
    let (st, s) : Got × State := match NMap.find r.pages p with
      | some l =>
        if r.tc = 0 || r.cl % 128 = 0 || l.tier ≠ 1 then (.bytes [], s)
        else s.zeroRows i idx L l.addr (r.cl % 128) (min r.vl (128 * (p + 1)) - r.cl)
      | none => (.bytes [], s)
    let gone := r.pages.filter (fun e => keep ≤ e.1)
    let r' := { r with tc := 0, pages := r.pages.filter (fun e => e.1 < keep) }
    (st, r', s.dropLeaves i r.layout (gone.map Prod.snd))

/-! ## The stored form (R276, R277) -/

/-- The 4 KiB chunks of a page set of n bytes: offset and length, and how many. -/
def chunkCount (n : Nat) : Nat := (n + 4095) / 4096
def storedBytes (n : Nat) : Nat := n + 16 * chunkCount n
def stride (n : Nat) : Nat := (storedBytes n + 255) / 256 * 256

/-- The n bytes of a number, most significant first. -/
def beBytes (n v : Nat) : List Byte := (leBytes n v).reverse

def chunkIv (evn : BitVec 64) (c : Nat) : List Byte := beBytes 8 evn.toNat ++ beBytes 4 c
def chunkAad (handle p psb : Nat) : List Byte := leBytes 4 handle ++ leBytes 4 p ++ leBytes 4 psb

/-- The stored form of a page set: ciphertext, then the tags (R277). -/
def sealSet (key : BitVec 256) (evn : BitVec 64) (handle p : Nat) (bs : List Byte) : List Byte :=
  let cs := (List.range (chunkCount bs.length)).map (fun c =>
    Config.gcmSeal key (chunkIv evn c) (chunkAad handle p bs.length) ((bs.drop (4096 * c)).take 4096))
  cs.flatMap Prod.fst ++ cs.flatMap Prod.snd

/-- A stored page set opened: none where a chunk fails its tag (R278). -/
def openSet (key : BitVec 256) (evn : BitVec 64) (handle p psb : Nat) (bs : List Byte) : Option (List Byte) :=
  (List.range (chunkCount psb)).foldr (fun c acc =>
    let n := min 4096 (psb - 4096 * c)
    match acc, Config.gcmOpen key (chunkIv evn c) (chunkAad handle p psb) ((bs.drop (4096 * c)).take n) ((bs.drop (psb + 16 * c)).take 16) with
    | some rest, some x => some (x ++ rest)
    | _, _ => none) (some [])

/-- The key of an instance's stored page sets, as the AES engine holds it (R448). -/
def State.dek (s : State) (i : Nat) : BitVec 256 := NMap.at s.sec.deks i 0

/-- Whether the pages of a range are store pages of a tier: encrypted, writable where asked, in a peer's memory for tier 1
and in host memory for tier 2 (R276, R351); a status otherwise, or a wait for a walk. -/
def State.storedPages : Nat → State → Nat → Nat → Nat → Nat → Bool → Got × State
  | 0, s, _, _, _, _, _ => (.bytes [], s)
  | k + 1, s, i, va, n, tier, write =>
    if n = 0 then (.bytes [], s)
    else if s.walkWaits agentPart i va then (.wait, s)
    else
      let m := chunk va n
      match s.entryPage agentPart i .store va with
      | (.error st, s) => (.bad st, s)
      | (.ok (pa, leaf), s) =>
        if !leafEnc leaf || (write && !leafW leaf) || !(if tier = 2 then inPeer pa else inHost pa) then (.bad 0x0009, s)
        else s.storedPages k i (va + m) (n - m) tier write

/-- The status of a move whose source or destination cannot be reached (R278). -/
def tierStatus (st : Nat) : Nat := if 0x0301 ≤ st && st ≤ 0x0306 then 0x0205 else st

/-- A stored page set asked for and read: its bytes once they are all there. -/
def State.readStored (s : State) (i idx psb : Nat) (l : KvLeaf) : Got × State :=
  match s.storedPages (storedBytes psb / 65536 + 2) i l.addr (storedBytes psb) l.tier false with
  | (.bytes _, s) =>
    match s.entryRead agentPart i idx .store l.addr (storedBytes psb) true with
    | (.bad st, s) => (.bad (tierStatus st), s)
    | (.wait, s) => (.wait, s)
    | (.bytes bs, s) => if anyPoison bs then (.bad 0x0307, s) else (.bytes bs, s)
  | r => r

/-- Why work of the store stops: it has to wait, or it fails with a status. -/
inductive Stop where
  | wait
  | fail (status : Nat)
  deriving DecidableEq, Repr

/-- A stored page set whose bytes are at hand moved to a free slot (R278): the slot, or a status, or a wait for a line, which takes
none. A slot that was taken for a page set that fails goes to be zeroed. -/
def State.promote (s : State) (i idx handle p : Nat) (n : Nat) (L : Layout) (l : KvLeaf) (got : Got) : Except Stop Nat × State :=
  match s.takeSlot i n with
  | (none, s) => (.error (.fail 0x0207), s)
  | (some k, t) =>
    let fail := fun (st : Nat) (s : State) => ((.error (.fail st) : Except Stop Nat), s.updLayout i n (fun L => L.dropRef k))
    match got with
    | .wait => (.error .wait, s)
    | .bad st => fail st t
    | .bytes bs =>
      match openSet (s.dek i) l.evn handle p L.psb (plain bs) with
      | none => fail 0x0204 t
      | some x =>
        match t.storeWrite i idx (L.slotAddr k) (clean x) with
        | (.wait, _) => (.error .wait, s)
        | (.bad st, t) => fail st t
        | (.bytes _, t) => (.ok k, t)

/-! ## SEQ entries (R273, R279 to R286) -/

/-- The SEQ entry that a command names, if its operation is op and the store may process it now (R281). -/
def State.seqEntry (s : State) (i idx op : Nat) : Option Entry :=
  (s.begins i idx 3).filter (fun e => e.f 16 1 = op)

/-- A SEQ entry on the sequence that its handle names; one whose page table is poisoned ends it (R272, R523). -/
def State.onSeq (s : State) (i idx op : Nat) (f : Entry → Nat → SeqRec → State → State) : State :=
  match s.seqEntry i idx op with
  | none => s
  | some e =>
    match s.seqOf i (e.f 20 4) with
    | none => s.complete i idx 0x0201 0
    | some (n, r) =>
      if s.nodesHeld r then s
      else match s.readNodes r with
      | (true, s) => s.complete i idx 0x0307 e.moved
      | (false, s) => f e n r s

/-- SEQ_LAYOUT: every slot of the pool has to be zeroed before it is free; a pool whose base is mapped outside HBM is malformed
(R273, R274; DESIGN CHOICE, log 101: a page of it that is not mapped yet is judged when it is written). -/
def execSeqLayout (inst idx : Nat) (s : State) : Out :=
  onUnit (inst < 64) (match s.seqEntry inst idx 1 with
    | none => s
    | some e =>
      let n := fld (e.f 17 1) 0 4
      if (s.inst inst).records.any (fun r => r.2.layout = n) then s.complete inst idx 0x0202 0
      else match s.slotInHbm 2 inst (e.f 40 8) 1 with
      | (.wait, s) => s
      | (.bad _, s) => s.complete inst idx 1 0
      | (.bytes _, s) =>
        let L : Layout := { lg := e.f 18 2, tb := 128 * e.f 24 4, pool := BitVec.ofNat 56 (e.f 40 8), nslot := e.f 32 4, refs := [],
                            zeroing := List.range (e.f 32 4) }
        (s.setLayout inst n L).complete inst idx 0 0)

/-- SEQ_CREATE (R271, R280). -/
def execSeqCreate (inst idx : Nat) (s : State) : Out :=
  onUnit (inst < 64) (match s.seqEntry inst idx 2 with
    | none => s
    | some e =>
      let n := fld (e.f 17 1) 0 4
      if (s.layout inst n).isNone then s.complete inst idx 1 0
      else match s.takeRecord inst { layout := n, cl := 0, tc := 0, pages := [], slot := none } with
        | (.ok h, s) => s.complete inst idx 0 h
        | (.error st, s) => s.complete inst idx st 0)

/-- SEQ_FREE (R280). -/
def execSeqFree (inst idx : Nat) (s : State) : Out :=
  onUnit (inst < 64) (s.onSeq inst idx 3 (fun _ n r s =>
    if r.slot.isSome then s.complete inst idx 0x0202 0 else (s.freeRecord inst n r).complete inst idx 0 0))

/-- SEQ_FORK (R285). -/
def execSeqFork (inst idx : Nat) (s : State) : Out :=
  onUnit (inst < 64) (s.onSeq inst idx 4 (fun e _ r s =>
    let k := e.f 24 4
    let shared := r.pages.filter (fun p => 128 * p.1 < k)
    let slots := (shared.filter (fun p => p.2.tier = 1)).map (fun p => p.2.addr)
    if k > r.cl then s.complete inst idx 1 0
    else match s.layout inst r.layout with
      | none => s.complete inst idx 1 0
      | some L =>
        if slots.any (fun a => L.refCount a ≥ 65535) then s.complete inst idx 6 0
        else match s.takeRecord inst { layout := r.layout, cl := k, tc := 0, pages := shared, slot := none } with
          | (.error st, s) => s.complete inst idx st 0
          | (.ok h, s) =>
            let s := s.updLayout inst r.layout (fun L => slots.foldl (fun (L : Layout) a => { L with refs := NMap.ins L.refs a (L.refCount a + 1) }) L)
            s.complete inst idx 0 h))

/-- SEQ_COMMIT (R283). -/
def execSeqCommit (inst idx : Nat) (s : State) : Out :=
  onUnit (inst < 64) (s.onSeq inst idx 5 (fun e n r s =>
    let k := e.f 24 4
    if k > r.tc then s.complete inst idx 0x0206 0
    else (s.setSeq inst n { r with cl := r.cl + k, tc := r.tc - k }).complete inst idx 0 (r.cl + k)))

/-- SEQ_ROLLBACK (R284). -/
def execSeqRollback (inst idx : Nat) (s : State) : Out :=
  onUnit (inst < 64) (s.onSeq inst idx 6 (fun _ n r s0 =>
    match s0.rollback inst idx r with
    | (.wait, _, _) => s0
    | (.bad st, _, _) => s0.complete inst idx st 0
    | (.bytes _, r, s) => (s.setSeq inst n r).complete inst idx 0 r.cl))

/-- SEQ_QUERY (R280). -/
def execSeqQuery (inst idx : Nat) (s : State) : Out :=
  onUnit (inst < 64) (s.onSeq inst idx 9 (fun _ _ r s =>
    s.complete inst idx 0 (r.cl + r.tc * 2 ^ 64 + r.layout * 2 ^ 72 + r.slot.getD 0xFFFF * 2 ^ 80)))

/-- The token pages of an EVICT or FETCH in a tier that a test picks, in ascending order. -/
def pagesIn (e : Entry) (r : SeqRec) (p : Nat → Bool) : List (Nat × KvLeaf) :=
  r.pages.filter (fun x => e.f 28 4 ≤ x.1 && x.1 < e.f 28 4 + e.f 32 4 && p x.2.tier)

/-- Page sets moved out one by one until one is under way or the entry ends (R276, R277, R280): a page set is encrypted and
sent, and once its writes are acknowledged its leaf moves; a leaf keeps bits 55 to 8 of where it went (R275). At most k steps. -/
def State.evictN : Nat → State → Nat → Nat → State
  | 0, s, _, _ => s
  | k + 1, s, i, idx =>
    match s.seqEntry i idx 7 with
    | none => s
    | some e =>
      let s := s.updEntry i idx (fun e => { e with started := true })
      match s.seqOf i (e.f 20 4) with
      | none => s.complete i idx 0x0201 0
      | some (n, r) =>
        match pagesIn e r (fun t => t = 1), s.layout i r.layout with
        | [], _ => s.complete i idx 0 e.moved
        | _, none => s.complete i idx 1 0
        | (p, l) :: _, some L =>
          let tier := fld (e.f 17 1) 4 2
          let addr := e.f 40 8 + (p - e.f 28 4) * stride L.psb
          let evn := (s.inst i).evn
          if e.applied then
            if e.remote ≠ [] then s
            else match e.wbad with
              | some st => s.complete i idx (tierStatus st.toNat) e.moved
              | none =>
                let s := s.setSeq i n { r with pages := NMap.ins r.pages p { tier := tier, addr := alignDown addr 256, evn := evn - 1 } }
                let s := s.updLayout i r.layout (fun L => L.dropRef l.addr)
                (s.updEntry i idx (fun e => { e with applied := false, moved := e.moved + 1 })).evictN k i idx
          else if 128 * (p + 1) > r.cl || L.refCount l.addr > 1 then s.complete i idx 0x0203 e.moved
          else match s.storedPages (storedBytes L.psb / 65536 + 2) i addr (storedBytes L.psb) tier true with
            | (.wait, s) => s
            | (.bad st, s) => s.complete i idx st e.moved
            | (.bytes _, s) =>
              match s.storeRead i idx (L.slotAddr l.addr) L.psb with
              | (.bad st, s) => s.complete i idx st e.moved
              | (.wait, s) => s
              | (.bytes bs, s) =>
                if anyPoison bs then s.complete i idx 0x0307 e.moved
                else if s.writeWaits agentPart i .store addr (storedBytes L.psb) then s
                else
                  let out := sealSet (s.dek i) evn (e.f 20 4) p (plain bs)
                  let (st, _, s) := s.entryWrite agentPart i idx .store addr (clean out) true
                  let s := s.closeBatches tierTag
                  let s := s.updInst i (fun x => { x with evn := evn + 1 })
                  (s.updEntry i idx (fun e => { e with applied := true, wbad := e.wbad.or (st.map (BitVec.ofNat 16)) })).evictN k i idx

/-- SEQ_EVICT (R276, R277, R280, R454). -/
def execSeqEvict (inst idx : Nat) (s : State) : Out :=
  onUnit (inst < 64) (s.onSeq inst idx 7 (fun e _ r s =>
    if !s.variant.getLsbD 3 then s.complete inst idx 4 0
    else s.evictN (2 * (pagesIn e r (fun t => t = 1)).length + 1) inst idx))

/-- Page sets moved in one by one until one is under way or the entry ends (R278, R280). At most k steps. -/
def State.fetchN : Nat → State → Nat → Nat → State
  | 0, s, _, _ => s
  | k + 1, s, i, idx =>
    match s.seqEntry i idx 8 with
    | none => s
    | some e =>
      match s.seqOf i (e.f 20 4) with
      | none => s.complete i idx 0x0201 0
      | some (n, r) =>
        match pagesIn e r (fun t => t ≠ 1), s.layout i r.layout with
        | [], _ => s.complete i idx 0 e.moved
        | _, none => s.complete i idx 1 0
        | (p, l) :: _, some L =>
          if !(List.range L.nslot).any L.isFree then s.complete i idx 0x0207 e.moved
          else
            let s := s.updEntry i idx (fun e => { e with started := true })
            match s.readStored i idx L.psb l with
            | (.wait, s) => s
            | (got, s) =>
              match s.promote i idx (e.f 20 4) p r.layout L l got with
              | (.error .wait, s) => s
              | (.error (.fail st), s) => s.complete i idx st e.moved
              | (.ok slot, s) =>
                let s := s.setSeq i n { r with pages := NMap.ins r.pages p { tier := 1, addr := slot, evn := 0 } }
                (s.updEntry i idx (fun e => { e with buf := [], moved := e.moved + 1 })).fetchN k i idx

/-- SEQ_FETCH (R278, R280). -/
def execSeqFetch (inst idx : Nat) (s : State) : Out :=
  onUnit (inst < 64) (s.onSeq inst idx 8 (fun e _ r s => s.fetchN ((pagesIn e r (fun t => t ≠ 1)).length + 1) inst idx))

end Sys2Proof.Machine
end

