-- ==== Sys2Proof/Machine/Steps.lean ====
section
/-! DEFINITION. Batch steps: the check of a STEP's list, leaves, joins and runs, page lists, and the word at DONE (chapter
"Sequence store, batching and the model hot set"; R282, R286 to R290). -/

namespace Sys2Proof.Machine
open Sys2Proof

/-- A step record (R288). -/
structure StepRec where
  handle : Nat
  kind : Nat
  flags : Nat
  accept : Nat
  ntok : Nat
  wstart : Nat
  pout : Nat
  rest : Nat
  deriving DecidableEq, Repr, Inhabited

/-- The record in 32 bytes. -/
def stepRec (bs : List Byte) : StepRec :=
  { handle := leAt bs 0 4, kind := leAt bs 4 1, flags := leAt bs 5 1, accept := leAt bs 6 2, ntok := leAt bs 8 4,
    wstart := leAt bs 12 4, pout := leAt bs 16 8, rest := leAt bs 24 8 }

def StepRec.tent (r : StepRec) : Bool := bit r.flags 0
def StepRec.resolve (r : StepRec) : Bool := bit r.flags 1
def StepRec.free (r : StepRec) : Bool := bit r.flags 2

/-- The records of a list by section: leaves, joins, runs. -/
structure StepList where
  leaves : List StepRec
  joins : List StepRec
  runs : List StepRec
  deriving DecidableEq, Repr, Inhabited

def stepList (e : Entry) (bs : List Byte) : StepList :=
  let rs := fun (a n : Nat) => (List.range n).map (fun k => stepRec ((bs.drop (32 * (a + k))).take 32))
  { leaves := rs 0 (e.f 24 2), joins := rs (e.f 24 2) (e.f 26 2), runs := rs (e.f 24 2 + e.f 26 2) (e.f 28 2) }

/-- A run's lengths before and after its append: committed and tentative after RESOLVE, and the new visible length. -/
def StepRec.base (r : StepRec) (q : SeqRec) : Nat × Nat := if r.resolve then (q.cl + r.accept, 0) else (q.cl, q.tc)
def StepRec.newVl (r : StepRec) (q : SeqRec) : Nat := (r.base q).1 + (r.base q).2 + r.ntok

/-- The fields of a leave or join record (R288). -/
def StepRec.plainOk (r : StepRec) (kind flags : Nat) : Bool :=
  r.kind = kind && (r.flags = 0 || r.flags = flags) && r.accept = 0 && r.ntok = 0 && r.wstart = 0 && r.pout = 0 && r.rest = 0

/-- The fields of a run record on its sequence (R282, R288). -/
def StepRec.runOk (r : StepRec) (q : SeqRec) : Bool :=
  r.kind = 3 && r.flags < 4 && (if r.resolve then r.accept ≤ q.tc else r.accept = 0)
    && r.newVl q ≤ 4194304 && r.wstart ≤ r.newVl q && r.pout % 32 = 0 && r.pout < 2 ^ 56 && r.rest = 0
    && (r.tent || r.ntok = 0 || (r.base q).2 = 0)

/-- Active sequences of an instance, and batch slots in use in the package (R287). -/
def Inst.activeSeqs (x : Inst) : Nat := (x.records.filter (fun r => r.2.slot.isSome)).length
def State.slotUsed (s : State) (k : Nat) : Bool := s.insts.any (fun e => e.2.records.any (fun r => r.2.slot = some k))

/-- The check of the whole list (R271, R289 step 1): a status where it fails. -/
def State.checkList (s : State) (i : Nat) (l : StepList) : Option Nat :=
  let all := l.leaves ++ l.joins ++ l.runs
  let twice := fun (rs : List StepRec) => (rs.map (fun r => r.handle)).eraseDups.length ≠ rs.length
  let seq := fun (r : StepRec) => (s.seqOf i r.handle).map Prod.snd
  let active := fun (r : StepRec) => match seq r with
    | some q => q.slot.isSome
    | none => false
  let inL := fun (rs : List StepRec) (r : StepRec) => rs.any (fun x => x.handle = r.handle)
  let shape := l.leaves.all (fun r => r.plainOk 1 4) && l.joins.all (fun r => r.plainOk 2 0)
    && l.runs.all (fun r => r.kind = 3) && !twice l.leaves && !twice l.joins && !twice l.runs
  let fields := l.runs.all (fun r => match seq r with
    | some q => r.runOk q
    | none => true)
  let members := l.leaves.all active && l.joins.all (fun r => !active r)
    && l.runs.all (fun r => (active r && !inL l.leaves r) || inL l.joins r)
  let quota := (s.inst i).activeSeqs + l.joins.length ≤ (s.inst i).batchq + l.leaves.length
  if !shape || !fields then some 1
  else if all.any (fun r => (seq r).isNone) then some 0x0201
  else if !members || !quota then some 1
  else none

/-! ## Stored page sets that a run has to bring in -/

/-- The stored page sets that a run promotes: those of its window, and the page that its append continues (R289). -/
def runStored (r : StepRec) (q : SeqRec) : List (Nat × KvLeaf) :=
  let vl := (r.base q).1 + (r.base q).2
  q.pages.filter (fun x => x.2.tier ≠ 1 && 128 * x.1 < r.newVl q &&
    (r.wstart / 128 ≤ x.1 || (x.1 = vl / 128 && vl % 128 ≠ 0 && r.ntok ≠ 0)))

/-! ## One run (R283, R284, R286, R289, R290) -/

/-- What a part of a run came to: a count, or why it stops, and the state. -/
abbrev RunResult := Except Stop Nat × State

/-- The page sets of a run moved to tier 0; how many. -/
def State.promoteRun (s : State) (i idx h : Nat) : List (Nat × KvLeaf) → RunResult
  | [] => (.ok 0, s)
  | (p, l) :: ps =>
    match s.seqOf i h with
    | none => (.error (.fail 0x0201), s)
    | some (n, q) =>
      match s.layout i q.layout with
      | none => (.error (.fail 1), s)
      | some L =>
        match s.readStored i idx L.psb l with
        | (.wait, s) => (.error .wait, s)
        | (got, s) =>
          match s.promote i idx h p q.layout L l got with
          | (.error e, s) => (.error e, s)
          | (.ok slot, s) =>
            let s := s.setSeq i n { q with pages := NMap.ins q.pages p { tier := 1, addr := slot, evn := 0 } }
            match s.promoteRun i idx h ps with
            | (.ok c, s) => (.ok (c + 1), s)
            | r => r

/-- Page sets for new token pages allocated. -/
def State.growRun (s : State) (i h : Nat) : List Nat → RunResult
  | [] => (.ok 0, s)
  | p :: ps =>
    match s.seqOf i h with
    | none => (.error (.fail 0x0201), s)
    | some (n, q) =>
      match s.takeSlot i q.layout with
      | (none, s) => (.error (.fail 0x0207), s)
      | (some k, s) =>
        match s.putSeq i n { q with pages := NMap.ins q.pages p { tier := 1, addr := k, evn := 0 } } with
        | some s => s.growRun i h ps
        | none => (.error (.fail 0x0207), s)

/-- The page that an append continues made the sequence's own where it is shared: the rows it holds copied to a new slot (R286),
and its tentative rows zeroed in the page that the others keep, so that no rollback leaves one there (R284). -/
def State.ownPage (s : State) (i idx h : Nat) : RunResult :=
  match s.seqOf i h with
  | none => (.error (.fail 0x0201), s)
  | some (n, q) =>
    match s.layout i q.layout, NMap.find q.pages (q.vl / 128) with
    | some L, some l =>
      if q.vl % 128 = 0 || l.tier ≠ 1 || L.refCount l.addr ≤ 1 then (.ok 0, s)
      else match s.takeSlot i q.layout with
        | (none, s) => (.error (.fail 0x0207), s)
        | (some k, s) =>
          match s.copyRows i idx L l.addr k (q.vl % 128) with
          | (.wait, s) => (.error .wait, s)
          | (.bad st, s) => (.error (.fail st), s)
          | (.bytes _, s) =>
            let own := max q.cl (q.vl / 128 * 128)
            match (if own < q.vl then s.zeroRows i idx L l.addr (own % 128) (q.vl - own) else (.bytes [], s)) with
            | (.wait, s) => (.error .wait, s)
            | (.bad st, s) => (.error (.fail st), s)
            | (.bytes _, s) =>
              let s := s.updLayout i q.layout (fun L => L.dropRef l.addr)
              (.ok 0, s.setSeq i n { q with pages := NMap.ins q.pages (q.vl / 128) { tier := 1, addr := k, evn := 0 } })
    | _, _ => (.ok 0, s)

/-- RESOLVE of a run (R283, R284). -/
def State.resolveRun (s : State) (i idx : Nat) (r : StepRec) (n : Nat) (q : SeqRec) : RunResult :=
  if !r.resolve then (.ok 0, s)
  else match s.rollback i idx { q with cl := q.cl + r.accept, tc := q.tc - r.accept } with
    | (.wait, _, s) => (.error .wait, s)
    | (.bad st, _, s) => (.error (.fail st), s)
    | (.bytes _, q, s) => (.ok 0, s.setSeq i n q)

/-- The append of a run: the page it continues made its own, then page sets for the new token pages, then its length (R286,
R289). -/
def State.appendRun (s : State) (i idx : Nat) (r : StepRec) (vl newVl : Nat) : RunResult :=
  match (if r.ntok = 0 then (.ok 0, s) else s.ownPage i idx r.handle) with
  | (.ok _, s) =>
    let first := (vl + 127) / 128
    match s.growRun i r.handle ((List.range ((newVl + 127) / 128 - first)).map (fun k => first + k)) with
    | (.ok _, s) =>
      match s.seqOf i r.handle with
      | none => (.error (.fail 0x0201), s)
      | some (n, q) => (.ok 0, s.setSeq i n (if r.tent then { q with tc := q.tc + r.ntok } else { q with cl := q.cl + r.ntok }))
    | e => e
  | e => e

/-- A run applied: RESOLVE, the append, the promotions (R289 step 3). -/
def State.applyRun (s : State) (i idx : Nat) (r : StepRec) : RunResult :=
  match s.seqOf i r.handle with
  | none => (.error (.fail 0x0201), s)
  | some (n, q) =>
    if s.nodesHeld q then (.error .wait, s)
    else match s.readNodes q with
    | (true, s) => (.error (.fail 0x0307), s)
    | (false, s) =>
      if r.tent && (r.base q).2 + r.ntok > 64 then (.error (.fail 0x0206), s)
      else match s.resolveRun i idx r n q with
        | (.ok _, s) =>
          match s.appendRun i idx r ((r.base q).1 + (r.base q).2) (r.newVl q) with
          | (.ok _, s) => s.promoteRun i idx r.handle (runStored r q)
          | e => e
        | e => e

/-- What a run that fails leaves: everything as it was before it, but for the slots that it took, which go to be zeroed again
(R278, R289 step 4). -/
def State.undoRun (s t : State) (i : Nat) (r : StepRec) : State :=
  match s.seqOf i r.handle with
  | none => s
  | some (_, q) =>
    match s.layout i q.layout, t.layout i q.layout with
    | some L, some M =>
      let taken := (M.refs.map Prod.fst).filter (fun k => L.isFree k) ++ M.zeroing.filter (fun k => L.isFree k)
      { s with clock := t.clock }.setLayout i q.layout { L with zeroing := taken.foldl insNat L.zeroing }
    | _, _ => s

/-- What a run that has to wait leaves: everything as it was before it, but for what it waits for: what it has asked of a peer
and of the memory. -/
def State.holdRun (s t : State) (i idx : Nat) : State :=
  match t.entry i idx with
  | none => s
  | some e => ({ s with ael := t.ael, tlb := t.tlb, hbm := t.hbm, clock := t.clock, out := t.out, seq := { s.seq with restores := t.seq.restores } }).updEntry i idx (fun x => { x with buf := e.buf, remote := e.remote, bad := e.bad })

/-- The page-list record of a run (R290). -/
def State.pageList (s : State) (i : Nat) (r : StepRec) (status : Nat) : List Byte :=
  match s.seqOf i r.handle with
  | none => []
  | some (_, q) =>
    let first := r.wstart / 128
    let np := if status ≠ 0 then 0 else (q.vl + 127) / 128 - first
    let addr := fun (k : Nat) => match s.layout i q.layout, NMap.find q.pages (first + k) with
      | some L, some l => L.slotAddr l.addr
      | _, _ => 0
    leBytes 2 status ++ leBytes 1 q.layout ++ leBytes 1 q.tc ++ leBytes 4 q.cl ++ leBytes 4 q.vl ++ leBytes 4 first ++ leBytes 4 np
      ++ leBytes 12 0 ++ (List.range np).flatMap (fun k => leBytes 8 (addr k))

/-- The key under which a STEP keeps its list once it is read (MODEL). -/
def listKey : Nat := 2 ^ 57

/-- One run ended: its page-list record is written, and the entry goes on to the next one. A record that a page denies gives the
step its status (R289 steps 3 and 4). -/
def State.endRun (s : State) (i idx k : Nat) (r : StepRec) (status proms : Nat) : State :=
  let s := s.updEntry i idx (fun e => { e with bad := none, buf := e.buf.filter (fun b => listKey ≤ b.1) })
  let (st, _, s) := s.entryWrite agentPart i idx .write r.pout (clean (s.pageList i r status)) false
  s.updEntry i idx (fun e => { e with
    wbad := e.wbad.or (st.map (BitVec.ofNat 16))
    run := some (k + 1), fails := e.fails + b2n (status ≠ 0), moved := e.moved + proms })

/-- Whether the page-list record of a run has to wait for a line (R245). -/
def State.recordWaits (s : State) (i : Nat) (r : StepRec) (status : Nat) : Bool :=
  s.writeWaits agentPart i .write r.pout (s.pageList i r status).length

/-- The runs of a step from the entry's next one on, in list order; a run that waits leaves the rest for later. -/
def State.runAll (s : State) (i idx : Nat) : List (Nat × StepRec) → Bool × State
  | [] => (true, s)
  | (k, r) :: rs =>
    let ended := fun (t u : State) (status proms : Nat) =>
      if u.recordWaits i r status then (false, s.holdRun t i idx) else (u.endRun i idx k r status proms).runAll i idx rs
    match s.applyRun i idx r with
    | (.error .wait, t) => (false, s.holdRun t i idx)
    | (.error (.fail st), t) => ended t (s.undoRun t i r) st 0
    | (.ok c, t) => ended t t 0 c

/-! ## Membership (R289 step 2) -/

def State.leave (s : State) (i : Nat) (r : StepRec) : State :=
  match s.seqOf i r.handle with
  | none => s
  | some (n, q) =>
    let q := { q with slot := none }
    if r.free then s.freeRecord i n q else s.setSeq i n q

def State.join (s : State) (i : Nat) (r : StepRec) : State :=
  match s.seqOf i r.handle with
  | none => s
  | some (n, q) =>
    let (k, s) := s.pickFree 8192 (fun k => !s.slotUsed k)
    s.setSeq i n { q with slot := k }

/-! ## The step -/

/-- The list of a STEP, read once. -/
def State.readList (s : State) (i idx : Nat) (e : Entry) : Got × State :=
  let n := 32 * (e.f 24 2 + e.f 26 2 + e.f 28 2)
  if (NMap.find e.buf listKey).isSome || n = 0 then
    (.bytes ((List.range n).map (fun k => NMap.at e.buf (listKey + k) (0, false))), s)
  else match s.entryRead agentPart i idx .read (e.f 16 8) n false with
    | (.bytes bs, s) =>
      if anyPoison bs then (.bad 0x0307, s)
      else (.bytes bs, s.updEntry i idx (fun e => { e with buf := (bs.zip (List.range n)).map (fun b => (listKey + b.2, b.1)) }))
    | r => r

/-- The result of a step: failed runs, then page sets promoted (R289). -/
def Entry.stepResult (e : Entry) : Nat := e.fails + e.moved * 2 ^ 32

/-- The end of a step: DVAL added at DONE, then the completion (R289 step 5). -/
def State.endStep (s : State) (i idx : Nat) (e : Entry) : State :=
  let status := (e.wbad.map BitVec.toNat).getD 0
  if e.f 32 8 = 0 then s.complete i idx status e.stepResult
  else match s.addWord i idx (e.f 32 8) (BitVec.ofNat 32 (e.f 40 4)) with
    | (.done, s) => s.complete i idx status e.stepResult
    | (.bad st, s) => s.complete i idx (if status = 0 then st else status) e.stepResult
    | (.sent, s) => s.updEntry i idx (fun e => { e with free := true, remote := [2 ^ 32], moved := e.stepResult })
    | (.wait, s) => s

/-- The runs of a step whose membership changes are applied, and its end once the last of them has written its record (R289
steps 3 to 5). -/
def State.stepOn (s : State) (i idx from' : Nat) (l : StepList) : State :=
  match s.runAll i idx (((List.range l.runs.length).zip l.runs).drop from') with
  | (false, s) => s
  | (true, s) =>
    let s := (s.closeBatches partTag).updEntry i idx (fun e => { e with applied := true, buf := [] })
    match s.entry i idx with
    | some e => if e.remote = [] then s.endStep i idx e else s
    | none => s

/-- The records of the sequences of some step records read with critical-class requests (R261, R272): whether one is poisoned. -/
def State.readRecords (s : State) (i : Nat) (rs : List StepRec) : Bool × State :=
  rs.foldl (fun (acc : Bool × State) r => match s.seqOf i r.handle with
    | none => acc
    | some (_, q) =>
      let (bad, s) := acc.2.readKeys (q.nodes.filter (fun e => e.1 = recKey))
      (acc.1 || bad, s)) (false, s)

/-- The boundary: the list checked, the membership changes applied, then the runs (R289). A poisoned record of a sequence that leaves or joins
gives the step its status, as it gives a SEQ entry its own (R523; DESIGN CHOICE, log 100). -/
def State.boundary (s : State) (i idx : Nat) (e : Entry) (bs : List Byte) : State :=
  let l := stepList e bs
  match e.run with
  | some k => s.stepOn i idx k l
  | none =>
    match s.checkList i l with
    | some st => s.complete i idx st 0
    | none =>
      match s.readRecords i (l.leaves ++ l.joins) with
      | (true, s) => s.complete i idx 0x0307 0
      | (false, s) =>
        let s := l.leaves.foldl (fun s r => s.leave i r) s
        let s := l.joins.foldl (fun s r => s.join i r) s
        (s.updEntry i idx (fun e => { e with run := some 0 })).stepOn i idx 0 l

/-- STEP_BOUNDARY: the entry begins; its boundary comes once the launches that it names have completed (R289). -/
def execStepBoundary (inst idx : Nat) (s : State) : Out :=
  onUnit (inst < 64) (match s.begins inst idx 4 with
    | none => s
    | some e =>
      let s := s.updEntry inst idx (fun e => { e with started := true })
      if e.applied then (if e.remote = [] then s.endStep inst idx e else s)
      else match s.depsMet inst idx (e.tags 44 (fld (e.f 30 1) 0 3)) true with
        | none => s
        | some _ =>
          match s.readList inst idx e with
          | (.wait, s) => s
          | (.bad st, s) => s.complete inst idx st 0
          | (.bytes bs, s) => s.boundary inst idx e (plain bs))

end Sys2Proof.Machine
end

