-- ==== Sys2Proof/Machine/Transport.lean ====
section
/-! DEFINITION. Remote requests at their target and their answers at the source (R362, R364, R384 to R389). -/

namespace Sys2Proof.Machine
open Sys2Proof

/-! ## At the target -/

/-- A packet taken out of the list of delivered packets. -/
def State.take (s : State) (p : Packet) : State := { s with ael := { s.ael with delivered := s.ael.delivered.erase p } }

/-- Why an inbound request is not performed (R362, R366, R458). -/
def State.refusal (s : State) (p : Packet) : Option Nat :=
  let x := s.inst p.dinst.toNat
  let lo := p.addr.toNat
  let hi := lo + max 1 p.len - 1
  if s.sec.lockInForce then some 0x0009
  else if x.state = .resetting || x.state = .removing || x.gen ≠ p.dgen then some 0x0306
  else if !x.binds.any (fun b => b.2.module = p.src && b.2.rinst = p.sinst) then some 0x0009
  else if !x.binds.any (fun b => b.2.module = p.src && b.2.rinst = p.sinst && b.2.rgen = p.sgen) then some 0x0306
  else if !(x.holds (lo / 2 ^ 21) && x.holds (hi / 2 ^ 21)) then some 0x0009
  else none

/-- A response to a request (R382). -/
def State.answer (s : State) (p : Packet) (opc status : Nat) (data : List Byte) : State :=
  (s.route none 0 { s.rejectOf p status with opc := BitVec.ofNat 8 opc, len := data.length, data := data }).2

/-- How an inbound request is served at its home. -/
def State.inboundAcc (s : State) (p : Packet) : Acc := { cls := 4, ways := (s.inst p.dinst.toNat).ways }

/-- An inbound request command: the packet taken; rejected, left until a near-home flush has ended, or performed. -/
def State.inbound (s : State) (opc : Nat) (p : Packet) (f : State → State) : State :=
  if p.opc.toNat ≠ opc || !s.board.rails || s.therm.tripped then s
  else match s.refusal p with
    | some st => if opc = 4 then s.take p else (s.take p).answer p 0x84 st []
    | none => if s.heldRun p.addr.toNat (max 1 p.len) then s else f (s.take p)

/-- A WRITE performed at chip scope, and acknowledged (R384). -/
def State.landWrite (s : State) (p : Packet) : State :=
  (s.hbmWrite (s.inboundAcc p) p.addr.toNat (clean p.data)).answer p 0x81 0 []

/-- Whether a tracker entry is that of a packet's batch (R385). -/
def Batch.isOf (b : Batch) (p : Packet) : Bool := b.src = p.src && b.sinst = p.sinst && b.srctag = p.srctag && b.batch = p.batch

def State.setTracker (s : State) (l : List Batch) : State := { s with ael := { s.ael with tracker := l } }

/-- A batch's entry as it now stands: its final flag performed once every other write has landed, the entry freed then, or
once a CLOSE's count has landed (R385, R386). -/
def State.settleBatch (s : State) (b : Batch) : State :=
  let rest := s.ael.tracker.filter (fun e => !(e.src = b.src && e.sinst = b.sinst && e.srctag = b.srctag && e.batch = b.batch))
  match b.fin with
  | some f => if b.landed = f.count - 1 then (s.setTracker rest).landWrite f else s.setTracker (rest ++ [b])
  | none => s.setTracker (if b.close = some b.landed then rest else rest ++ [b])

/-- Whether the held final flag of a packet's batch could not be performed now: its line waits at its home (R245, R385). -/
def State.finBlocked (s : State) (p : Packet) : Bool :=
  match (s.ael.tracker.find? (fun b => b.isOf p)).bind Batch.fin with
  | some f => !(p.fin && p.count = 1) && (s.refusal p).isNone && s.heldRun f.addr.toNat (max 1 f.len)
  | none => false

/-- WRITE (R207, R224, R362, R384, R385). -/
def execWrite (p : Packet) (s : State) : Out :=
  .next (if s.finBlocked p then s else s.inbound 1 p (fun s =>
    let e := s.ael.tracker.find? (fun b => b.isOf p)
    if p.fin && p.count = 1 then s.landWrite p
    else if e.isNone && s.ael.tracker.length ≥ 4096 then s.answer p 0x84 0x0005 []
    else
      let b : Batch := e.getD
        { src := p.src, sinst := p.sinst, srctag := p.srctag, batch := p.batch, landed := 0, fin := none, close := none, last := 0 }
      if p.fin then s.settleBatch { b with fin := some p, last := s.clock.now }
      else (s.landWrite p).settleBatch { b with landed := b.landed + 1, last := s.clock.now }))

/-- CLOSE (R386); one that meets no entry is dropped. -/
def execClose (p : Packet) (s : State) : Out :=
  .next (s.inbound 4 p (fun s => match s.ael.tracker.find? (fun b => b.isOf p) with
    | some b => s.settleBatch { b with close := some p.count }
    | none => s))

/-- READ: the bytes, and the poisoned status where a sector is poisoned (R384, R429). -/
def execRead (p : Packet) (s : State) : Out :=
  .next (s.inbound 2 p (fun s =>
    let lo := p.addr.toNat / 32 * 32
    let (bs, s) := s.hbmRead (s.inboundAcc p) lo ((p.addr.toNat + p.len + 31) / 32 * 32 - lo)
    s.answer p 0x82 (if anyPoison bs then 0x0307 else 0) (plain ((bs.drop (p.addr.toNat - lo)).take p.len))))

/-- ATOMIC: answered from its deduplication entry, or performed at the home and recorded (R387, R388, R430). -/
def execAtomic (p : Packet) (s : State) : Out :=
  .next (if !atomOk p.aop.toNat p.atype.toNat then s.take p
  else s.inbound 3 p (fun s =>
    match s.ael.dedup.find? (fun d => d.src = p.src && d.txid = p.txid) with
    | some d => s.answer p 0x83 d.status.toNat d.data
    | none =>
      if s.ael.dedup.length ≥ 65536 then s.answer p 0x84 0x0005 []
      else
        let ty := p.atype.toNat
        let n := tySize ty
        let x := if ty = 0xE then leAt p.data 0 32 else leAt p.data 0 n
        let y := if ty = 0xE then 0 else leAt p.data 8 n
        let (old, _, s) := s.atomFar (s.inboundAcc p) 128 p.addr.toNat n (fun v => atomFn p.aop.toNat ty v x y)
        let status := if old.isSome then 0 else 0x0307
        let data := match old with
          | some v => leBytes (if ty = 0xE then 32 else 16) v
          | none => []
        let d : Dedup := { src := p.src, txid := p.txid, status := BitVec.ofNat 16 status, data := data, since := s.clock.now }
        let s := { s with ael := { s.ael with dedup := s.ael.dedup ++ [d] } }
        s.answer p 0x83 status data))

/-- BATCH_ENTRY_TIMEOUT: an entry of the tracker, by its place in it, that has received no write for 10 ms (R385). -/
def execBatchEntryTimeout (key : Nat) (s : State) : Out :=
  .next (match s.ael.tracker[key]? with
    | none => s
    | some b =>
      if s.clock.now < b.last + 10000000 then s
      else
        let s := s.setTracker (s.ael.tracker.erase b)
        match b.fin with
        | some f => s.answer f 0x84 0x0304 []
        | none => s)

/-- DEDUP_ENTRY_EXPIRY (R388). -/
def execDedupEntryExpiry (src txid : Nat) (s : State) : Out :=
  .next ({ s with ael := { s.ael with dedup := s.ael.dedup.filter (fun d =>
    !(d.src.toNat = src && d.txid.toNat = txid && d.since + 10000000 ≤ s.clock.now)) } })

/-! ## At the source -/

/-- Entries whose index stands for a collective context in the owners of its accesses (MODEL). -/
def collIdx : Nat := 2 ^ 33

/-- A collective run that has added DVAL at DONE (R391). -/
def State.endColl (s : State) (c : Nat) : State :=
  let x := s.coll c
  if x.run.isNone then s else s.setColl c { x with run := none, runs := x.runs + 1, txids := [] }

/-- A transaction that leaves everything that waits for it. -/
def State.updWaiting (s : State) (o : Outstanding) (f : List Nat → List Nat) : State :=
  match o.owner with
  | .load c t _ _ _ _ _ _ => s.updGroup c t (fun x => { x with await := f x.await })
  | .atomic c t _ _ _ _ _ _ _ => s.updGroup c t (fun x => { x with await := f x.await })
  | .narrow c t _ _ => s.updGroup c t (fun x => { x with await := f x.await })
  | .copy c id _ _ => s.updCore c (fun k => { k with copies := k.copies.map (fun j => if j.id = id then { j with remote := f j.remote } else j) })
  | .fetch c id _ =>
    let g := fun (l : List CopyJob) => l.map (fun j => if j.id = id then { j with remote := f j.remote } else j)
    s.updCore c (fun k => { k with copies := g k.copies, slots := k.slots.map (fun e => (e.1, { e.2 with commits := g e.2.commits })) })
  | .entry i idx _ =>
    if idx ≥ collIdx then s.setColl (idx - collIdx) { s.coll (idx - collIdx) with remote := f (s.coll (idx - collIdx)).remote }
    else s.updEntry i idx (fun e => { e with remote := f e.remote })
  | .restore pa _ => { s with seq := { s.seq with restores := s.seq.restores.map (fun r =>
      if r.remote.contains o.txid.toNat && r.pa = pa then { r with remote := f r.remote } else r) } }
  | _ => s

/-- The device address of a peer that a request names. -/
def peerAddr (p : Packet) : Nat := 2 ^ 55 + p.dst.toNat * 2 ^ 40 + p.addr.toNat

/-- Poison that comes back for an instruction the group has already moved past: it faults at that instruction (R387, R430). -/
def State.remotePoison (s : State) (c t lane : Nat) (o : Outstanding) : State :=
  match s.group c t with
  | none => s
  | some x => (s.setGroup c t { x with pc := x.pc - 8 }).raisePoison c t 0xC (peerAddr o.p) lane x.inst

/-- A scope at which an answer acquires: nothing staged before it may be claimed after it (R63, R82, R213). -/
def State.acquireLate (s : State) (c t scope : Nat) : State := if scope = 0 then s else (s.dropStaged c t).acquire c scope

/-- What a request that has ended does at the source: status 0, or the status with which it failed, and the bytes that came
back. Failed writes count as performed (R164); failed reads land poisoned. A load of which a lane has faulted writes no register (R80). -/
def State.land (s : State) (o : Outstanding) (st : Nat) (bs : List PByte) : State :=
  let tx := o.txid.toNat
  match o.owner with
  | .load c t scalar lane off dst ty acq =>
    match s.group c t with
    | none => s
    | some x =>
      if !x.await.contains tx then s
      else
        let here := (bs.drop off).take (tySize ty)
        let s := s.updWaiting o (fun l => l.erase tx)
        if anyPoison here || here.length < tySize ty then s.remotePoison c t lane o
        else
          let s := s.updGroup c t (fun x =>
            let got := x.got ++ [(lane, ofLe (plain here))]
            if x.await ≠ [] then { x with got := got }
            else if x.stopped then { x with got := [] }
            else { x.setAll scalar ty dst got with got := [] })
          s.acquireLate c t acq
  | .atomic c t scalar lanes dst op ty acq ret =>
    match s.group c t with
    | none => s
    | some x =>
      if !x.await.contains tx then s
      else
        let s := s.updWaiting o (fun l => l.erase tx)
        if st = 0x0307 || (st ≠ 0 && ret) then s.remotePoison c t ((lanes.map Prod.fst).headD 0xFF) o
        else if st ≠ 0 then s.remoteFailed 2 o st
        else
          let v := leAt (plain bs) 0 (tySize ty)
          if op = 7 && v ≠ leAt o.p.data 0 (tySize ty) && (atomSet op ty v lanes).1 ≠ v then
            let (tx, s) := s.sendRequest { o.p with data := atomData op ty lanes v, retry := false } o.bind o.owner o.tag
            s.updGroup c t (fun x => { x with await := x.await ++ [tx] })
          else
            let s := if ret then s.updGroup c t (fun x => x.setAll scalar ty dst (atomSet op ty v lanes).2) else s
            s.acquireLate c t acq
  | .store _ _ => s
  | .narrow c t off data =>
    let s := s.updWaiting o (fun l => l.erase tx)
    let v := leAt (plain bs) 0 4
    if st ≠ 0 then s.remoteFailed 1 o st
    else if v = leAt o.p.data 0 4 then s
    else
      let (tx, s) := s.sendRequest { o.p with data := narrowData v off data, retry := false } o.bind o.owner o.tag
      s.updGroup c t (fun x => { x with await := x.await ++ [tx] })
  | .copy c id first len =>
    match s.job c id with
    | none => s
    | some j =>
      let j := { j with remote := j.remote.erase tx }
      if j.dir = 0 then s.landStep c { j with buf := putBuf j.buf first bs }
      else
        let s := s.countFor c j (len + if j.remote = [] then j.owed else 0)
        s.putJob c (if j.remote = [] then { j with owed := 0 } else j)
  | .fetch c id va =>
    let g := fun (l : List CopyJob) => l.map (fun j =>
      if j.id = id then { j with remote := j.remote.erase tx, buf := putBuf j.buf va bs } else j)
    s.updCore c (fun k => { k with copies := g k.copies, slots := k.slots.map (fun e => (e.1, { e.2 with commits := g e.2.commits })) })
  | .entry i idx va =>
    let s := s.updWaiting o (fun l => l.erase tx)
    if idx ≥ collIdx then
      s.setColl (idx - collIdx) { s.coll (idx - collIdx) with buf := putBuf (s.coll (idx - collIdx)).buf va bs }
    else s.updEntry i idx (fun e => { e with
      bad := if st = 0 || st = 0x0307 || o.p.opc ≠ 2 then e.bad else some (e.bad.getD (BitVec.ofNat 16 st))
      wbad := if st = 0 || o.p.opc = 2 then e.wbad else some (e.wbad.getD (BitVec.ofNat 16 st))
      buf := if o.p.opc = 2 then putBuf e.buf va bs else e.buf })
  | .restore pa off =>
    { s with seq := { s.seq with restores := s.seq.restores.map (fun r =>
      if r.pa = pa && r.remote.contains tx then
        { r with remote := r.remote.erase tx, buf := putBuf r.buf off bs, failed := r.failed || anyPoison bs }
      else r) } }
  | .commit c _ _ => (s.updCluster (clusterOf c) (fun k => { k with
      commitBuf := k.commitBuf.map (fun r => { r with sent := r.sent.erase tx }) })).drainCommits (clusterOf c)
  | .add i idx =>
    if idx ≥ collIdx then (if st = 0 then s.endColl (idx - collIdx) else s.failColl (idx - collIdx))
    else match s.launch i idx with
      | some l => if l.fault.isSome then s else s.finishLaunch l st
      | none =>
        match s.entry i idx with
        | some e => if e.remote = [2 ^ 32] then s.complete i idx (match e.wbad with
            | some b => b.toNat
            | none => st) e.moved else s
        | none => s

/-- An outstanding request taken from the list. -/
def State.settle (s : State) (o : Outstanding) : State := { s with ael := { s.ael with outst := s.ael.outst.erase o } }
def State.outstOf (s : State) (txid : Nat) : Option Outstanding := s.ael.outst.find? (fun o => o.txid.toNat = txid)
def State.setOutst (s : State) (o o' : Outstanding) : State :=
  { s with ael := { s.ael with outst := s.ael.outst.map (fun e => if e = o then o' else e) } }

/-- A request that ends without its effect (R164, R389). -/
def State.endFailed (s : State) (o : Outstanding) (st : Nat) : State :=
  let s := s.settle o
  match o.p.opc.toNat with
  | 1 => (s.remoteFailed 1 o st).land o st []
  | 2 => s.land o st (List.replicate o.p.len ((0 : Byte), true))
  | _ => s.land o st []

/-- A request whose binding no longer holds when it would be sent again: a translation fault of the group or copy, the status of
an entry, and of a write its event (R164, R362). -/
def State.unbound (s : State) (o : Outstanding) : State :=
  let lost := s.settle o
  let copy := fun (c id : Nat) =>
    match ((s.core c).copies ++ (s.core c).slots.flatMap (fun e => e.2.commits)).find? (fun j => j.id = id) with
    | some j => lost.raiseJob c j 9 0
    | none => lost
  match o.owner, o.p.opc.toNat with
  | _, 1 => s.endFailed o 0x0008
  | .load c t _ lane _ _ _ _, _ => (lost.updGroup c t (fun x => { x with pc := x.pc - 8 })).raise c t 9 lane
  | .atomic c t _ lanes _ _ _ _ _, _ => (lost.updGroup c t (fun x => { x with pc := x.pc - 8 })).raise c t 9 ((lanes.map Prod.fst).headD 0xFF)
  | .copy c id _ _, _ => copy c id
  | .fetch c id _, _ => copy c id
  | _, _ => s.endFailed o 0x0008

/-- A request sent again under a transaction ID: the binding that its leaf named is read again (R362, R388, R389). -/
def State.resend (s : State) (o : Outstanding) (txid : BitVec 32) (retry : Bool) : State :=
  match (NMap.find (s.inst o.inst).binds o.bind).filter (fun b => b.module = o.p.dst) with
  | none => s.unbound o
  | some b =>
    let p := { o.p with txid := txid, retry := retry, dinst := b.rinst, dgen := b.rgen, sgen := (s.inst o.inst).gen }
    let s := s.setOutst o { o with txid := txid, p := p, sent := s.clock.now, busyAt := none }
    let (l, s) := s.route none 0 p
    match s.outstOf txid.toNat with
    | some o' => s.setOutst o' { o' with router := match l with
        | some l => routerUnit l
        | none => o'.router }
    | none => s

/-- A READ sent again with a new transaction ID until 9 ms after its first send; after that its bytes land poisoned (R389). -/
def State.resendRead (s : State) (o : Outstanding) : State :=
  if s.clock.now < o.first + 9000000 then
    let t := s.ael.txid
    let s := { s with ael := { s.ael with txid := t + 1 } }
    let s := s.updWaiting o (fun l => l.map (fun k => if k = o.txid.toNat then t.toNat else k))
    s.resend o t false
  else s.endFailed o 0x0301

/-- A response that reaches the source: taken, and matched with the request it answers; a late or stale one is discarded
(R364, R388). -/
def State.answered (s : State) (opc req : Nat) (p : Packet) (f : State → Outstanding → State) : State :=
  if p.opc.toNat ≠ opc || !s.board.rails || s.therm.tripped then s
  else
    let s := s.take p
    match s.outstOf p.txid.toNat with
    | none => s
    | some o => if (req ≠ 0 && o.p.opc.toNat ≠ req) || p.dinst ≠ o.p.sinst || p.dgen ≠ (s.inst o.inst).gen then s else f s o

/-- WACK (R211, R225, R384). -/
def execWack (p : Packet) (s : State) : Out := .next (s.answered 0x81 1 p (fun s o => (s.settle o).land o 0 []))

/-- RDATA (R164, R384, R429). -/
def execRdata (p : Packet) (s : State) : Out :=
  .next (s.answered 0x82 2 p (fun s o =>
    (s.settle o).land o p.status.toNat (p.data.map (fun b => (b, p.status = 0x0307)))))

/-- ARES (R387, R388). -/
def execAres (p : Packet) (s : State) : Out :=
  .next (s.answered 0x83 3 p (fun s o => (s.settle o).land o p.status.toNat (clean p.data)))

/-- The statuses with which a REJECT ends a request at once (R389). -/
def endsAtOnce (st : Nat) : Bool := st = 0x0301 || st = 0x0306 || st = 0x0009

/-- What a REJECT does to its request (R388, R389). -/
def State.rejected (s : State) (o : Outstanding) (st : Nat) : State :=
  let opc := o.p.opc.toNat
  if st = 0x0005 then s.setOutst o { o with busyAt := some s.clock.now }
  else if opc = 1 || endsAtOnce st then s.endFailed o st
  else if opc = 2 then s.resendRead o
  else if st = 0x0302 && s.clock.now < o.first + 9000000 then s.resend o o.txid true
  else s

/-- REJECT; one that answers a packet of a collective ends its run (R389, R392). -/
def execReject (p : Packet) (s : State) : Out :=
  .next (
    let hit := (List.range 64).find? (fun c => (s.coll c).txids.contains p.txid)
    match hit with
    | some c => if p.opc = 0x84 && s.board.rails && !s.therm.tripped then (s.take p).failColl c else s
    | none => s.answered 0x84 0 p (fun s o => s.rejected o p.status.toNat))

/-- REQUEST_TIMEOUT: no response for 2 ms (R388, R389). The status that the event of a dropped WRITE carries is free. -/
def execRequestTimeout (txid : Nat) (s : State) : Out :=
  .next (match s.outstOf txid with
    | none => s
    | some o =>
      if o.busyAt.isSome || s.clock.now < o.sent + 2000000 || !s.board.rails || s.therm.tripped then s
      else match o.p.opc.toNat with
        | 1 =>
          let (v, s) := s.draw
          s.endFailed o (v.toNat % 2 ^ 16)
        | 2 => s.resendRead o
        | _ => if s.clock.now < o.first + 9000000 then s.resend o o.txid true else s)

/-- ATOMIC_OUTCOME_UNKNOWN: no ARES 10 ms after the first send (R388). -/
def execAtomicOutcomeUnknown (txid : Nat) (s : State) : Out :=
  .next (match s.outstOf txid with
    | none => s
    | some o => if o.p.opc = 3 && o.first + 10000000 ≤ s.clock.now && s.board.rails then s.endFailed o 0x0305 else s)

/-- BUSY_RESEND: 2 µs after a busy REJECT (R385, R388, R389). -/
def execBusyResend (txid : Nat) (s : State) : Out :=
  .next (match s.outstOf txid with
    | none => s
    | some o =>
      match o.busyAt with
      | none => s
      | some t =>
        if s.clock.now < t + 2000 || !s.board.rails || s.therm.tripped || (o.p.opc = 3 && o.first + 9000000 ≤ s.clock.now) then s
        else s.resend o o.txid (o.p.opc = 3))

end Sys2Proof.Machine
end

