-- ==== Sys2Proof/Machine/Collect.lean ====
section
/-! DEFINITION. The reduce engines: collective contexts and their runs (R390 to R393). -/

namespace Sys2Proof.Machine
open Sys2Proof

/-! ## Descriptors (R390) -/

/-- Bytes of an element. -/
def elemBytes (ety : Nat) : Nat := if ety = 1 then 2 else if ety = 2 then 32 else 4

/-- Bytes of a chunk. -/
def CollDesc.chunk (d : CollDesc) : Nat := d.elems * elemBytes d.etype

/-- Steps of all phases of a run (R391). -/
def CollDesc.steps (d : CollDesc) : Nat := if d.op = 1 then 2 * (d.p - 1) else d.p - 1

/-- Whether a step belongs to a reduce phase. -/
def CollDesc.reduces (d : CollDesc) (k : Nat) : Bool := d.op ≠ 3 && k < d.p - 1

/-- The chunks sent and received in step k of a run (R391). -/
def CollDesc.sends (d : CollDesc) (k : Nat) : Nat :=
  if d.op = 1 && d.p - 1 ≤ k then (d.rank + 1 + d.p - (k - (d.p - 1))) % d.p else (d.rank + d.p - k) % d.p
def CollDesc.recvs (d : CollDesc) (k : Nat) : Nat :=
  if d.op = 1 && d.p - 1 ≤ k then (d.rank + d.p - (k - (d.p - 1))) % d.p else (d.rank + 2 * d.p - k - 1) % d.p

/-- The virtual address of a chunk. -/
def CollDesc.chunkVa (d : CollDesc) (c : Nat) : Nat := d.buf.toNat + c * d.chunk

/-- A descriptor from its 64 bytes; none where a field breaks R390. -/
def collDesc (b : List Byte) : Option CollDesc :=
  let f := fun off n => leAt b off n
  let d : CollDesc :=
    { op := f 0 1, etype := f 1 1, p := f 2 1, rank := f 3 1, next := BitVec.ofNat 12 (f 4 2), ninst := BitVec.ofNat 6 (f 6 1),
      buf := BitVec.ofNat 56 (f 8 8), elems := f 16 4, trig := BitVec.ofNat 56 (f 24 8), done := BitVec.ofNat 56 (f 32 8),
      dval := BitVec.ofNat 32 (f 40 4), bstep := f 44 4, beat0 := f 48 8 }
  let ok := 1 ≤ d.op && d.op ≤ 3 && d.etype ≤ 4 && 2 ≤ d.p && d.p ≤ 64 && d.rank < d.p && f 4 2 < 4096 && f 6 1 < 64
    && f 7 1 = 0 && f 8 8 < 2 ^ 56 && f 8 8 % 256 = 0 && 1 ≤ d.elems && d.chunk % 4 = 0 && f 20 4 = 0
    && f 24 8 < 2 ^ 56 && f 24 8 % 4 = 0 && f 32 8 < 2 ^ 56 && f 32 8 % 4 = 0 && f 56 8 = 0
  if ok then some d else none

/-! ## Accesses of the engine -/

/-- Bytes read by the engine at a virtual address of its instance (within one page); a peer's are asked for first. -/
def State.collRead (s : State) (c va n : Nat) : Option (List PByte) × State :=
  let x := s.coll c
  let i := x.inst.toNat
  if s.walkWaits agentPart i va then (none, s)
  else match s.entryPage agentPart i .read va with
  | (.error _, s) => (none, s)
  | (.ok (pa, leaf), s) =>
    if s.heldRun pa n then (none, s)
    else if inPeer pa then
      let got := (List.range n).filterMap (fun j => NMap.find x.buf (va + j))
      if got.length = n then (some got, s)
      else if x.remote ≠ [] then (none, s)
      else
        let (t, s) := s.readPeer i leaf pa partTag n (fun o _ => .entry i (collIdx + c) (va + o)) 0
        (none, s.setColl c { s.coll c with remote := t })
    else if inHost pa && s.host.stopped then (none, s)
    else
      let (bs, s1) := s.devRead (s.accOf i leaf false) pa n
      match s.mend pa bs with
      | some s => (none, s)
      | none => (some bs, s1)

/-- A run of bytes of an HBM-backed virtual range read, or written, page by page; none where a page denies it. -/
def State.bufRead : Nat → State → Nat → Nat → Nat → Option (List PByte) × State
  | 0, s, _, _, _ => (some [], s)
  | k + 1, s, i, va, n =>
    if n = 0 then (some [], s)
    else
      let m := chunk va n
      match s.entryPage agentPart i .read va with
      | (.error _, s) => (none, s)
      | (.ok (pa, leaf), s) =>
        if !inHbm pa then (none, s)
        else
          let (bs, s) := s.hbmRead (s.accOf i leaf false) pa m
          match s.bufRead k i (va + m) (n - m) with
          | (some r, s) => (some (bs ++ r), s)
          | r => r

def State.bufWrite : Nat → State → Nat → Nat → List Byte → Bool × State
  | 0, s, _, _, _ => (true, s)
  | k + 1, s, i, va, bs =>
    if bs.isEmpty then (true, s)
    else
      let m := chunk va bs.length
      match s.entryPage agentPart i .write va with
      | (.error _, s) => (false, s)
      | (.ok (pa, leaf), s) =>
        if !inHbm pa then (false, s)
        else (s.hbmWrite (s.accOf i leaf false) pa (clean (bs.take m))).bufWrite k i (va + m) (bs.drop m)

/-- Whether a run of bytes of a buffer has to wait: for a line that a walk reads, or for one of its own (R238, R245). -/
def State.bufWaits : Nat → State → Nat → Nat → Nat → Bool
  | 0, _, _, _, _ => false
  | k + 1, s, i, va, n =>
    n ≠ 0 && (s.walkWaits agentPart i va ||
      (match (s.entryPage agentPart i .read va).1 with
        | .ok (pa, _) => s.heldRun pa (chunk va n)
        | .error _ => false) || s.bufWaits k i (va + chunk va n) (n - chunk va n))

/-! ## Elements (R391) -/

/-- incoming ⊕ local. -/
def combineElem (ety x y : Nat) : Nat :=
  match ety with
  | 0 => f32add x y
  | 1 => fmtBf16.ofVal .near false ((fmtBf16.decode x).add (fmtBf16.decode y))
  | 2 => wsumAddBits x y
  | _ => (x + y) % 2 ^ 32

/-- A chunk combined element by element. -/
def combine (ety n : Nat) (inc loc : List Byte) : List Byte :=
  (List.range n).flatMap (fun k =>
    leBytes (elemBytes ety) (combineElem ety (leAt inc (k * elemBytes ety) (elemBytes ety)) (leAt loc (k * elemBytes ety) (elemBytes ety))))

/-! ## Runs (R390 to R392) -/

/-- COLL packets to the next rank: a chunk in packets of 256 bytes at most. The manual does not say how the parts of a chunk
are told apart. -/
def State.sendChunk (s : State) (c : Nat) (d : CollDesc) (data : List Byte) : State :=
  let inst := (s.coll c).inst
  (List.range ((data.length + 255) / 256)).foldl (fun (s : State) j =>
    let p : Packet := { Packet.zero with
      opc := 5
      dst := d.next
      src := s.ael.id
      sinst := inst
      dinst := BitVec.ofNat 6 c
      sgen := (s.inst inst.toNat).gen
      txid := s.ael.txid
      life := 250
      data := (data.drop (256 * j)).take 256 }
    let s := { s with ael := { s.ael with txid := s.ael.txid + 1 } }
    (s.setColl c { s.coll c with txids := (s.coll c).txids ++ [p.txid] }).route none 0 p |>.2) s

/-- A ready token to the previous rank: a COLL packet without data units (R391). The descriptor does not name that rank's module: it is a free
value (DESIGN CHOICE, log 82). -/
def State.sendToken (s : State) (c : Nat) (d : CollDesc) : State :=
  let inst := (s.coll c).inst
  let p : Packet := { Packet.zero with
    opc := 5
    dst := Config.previousModule c d.rank
    src := s.ael.id
    sinst := inst
    dinst := BitVec.ofNat 6 c
    sgen := (s.inst inst.toNat).gen
    txid := s.ael.txid
    life := 250 }
  let s := { s with ael := { s.ael with txid := s.ael.txid + 1 } }
  ((s.setColl c { s.coll c with txids := (s.coll c).txids ++ [p.txid] }).route none 0 p).2

/-- The next chunk sent, where its token has come and the step before it has been received. -/
def State.trySend (s : State) (c : Nat) : State :=
  let x := s.coll c
  match x.run with
  | none => s
  | some d =>
    let va := d.chunkVa (d.sends x.sent)
    if x.tokens = 0 || d.steps ≤ x.sent || x.recvd < x.sent || s.bufWaits (d.chunk / 65536 + 2) x.inst.toNat va d.chunk then s
    else match s.bufRead (d.chunk / 65536 + 2) x.inst.toNat va d.chunk with
      | (none, s) => s.failColl c
      | (some bs, s) =>
        if anyPoison bs then s.failColl c
        else
          let s := s.setColl c { s.coll c with sent := x.sent + 1, tokens := x.tokens - 1, since := s.clock.now }
          s.sendChunk c d (plain bs)

/-- The end of a run once every step is sent and received: DVAL added at DONE, then RUNS (R391). -/
def State.tryEnd (s : State) (c : Nat) : State :=
  let x := s.coll c
  match x.run with
  | none => s
  | some d =>
    if x.sent ≠ d.steps || x.recvd < d.steps then s
    else if d.done = 0 then s.endColl c
    else match s.addWord x.inst.toNat (collIdx + c) d.done.toNat d.dval with
      | (.done, s) => s.endColl c
      | (.bad _, s) => s.failColl c
      | (.sent, s) => s.setColl c { s.coll c with sent := d.steps + 1 }
      | (.wait, s) => s

/-- COLL_RUN_START (R390): descriptor and trigger read with a system-scope acquire, the run begun and the first token sent. A token
that the next rank has sent before counts. -/
def execCollRunStart (c : Nat) (s : State) : Out :=
  onUnit (c < 64) (
    let x := s.coll c
    if !x.en || x.run.isSome || !s.working || s.ael.reduceUp = 0 then s
    else match s.collRead c x.desc.toNat 64 with
      | (none, s) => s
      | (some db, s) =>
        match (if anyPoison db then none else collDesc (plain db)) with
        | none => s.setColl c { s.coll c with buf := [] }
        | some d =>
          match s.collRead c d.trig.toNat 4 with
          | (none, s) => s
          | (some t, s) =>
            let s := s.setColl c { s.coll c with buf := [] }
            let due := !anyPoison t && 0 ≤ diff32 (BitVec.ofNat 32 (ofLe (plain t))) (BitVec.ofNat 32 (x.runs + 1))
              && (d.beat0 = 0 || d.beat0 + x.runs * d.bstep ≤ s.cad.beat.toNat)
            if !due then s
            else ((s.setColl c { s.coll c with run := some d, sent := 0, recvd := 0, since := s.clock.now, txids := [] }).sendToken c d).trySend c)

/-- Delivered COLL packets of a context dropped, with data or without. -/
def State.dropColl (s : State) (c : Nat) (token : Bool) : State :=
  { s with ael := { s.ael with delivered := s.ael.delivered.filter (fun p => !(p.opc = 5 && p.dinst.toNat = c && p.data.isEmpty == token)) } }

/-- Delivered COLL packets of a context rejected with the permission-fault status: in lock no inbound request is performed (R458). -/
def State.rejectColl (s : State) (c : Nat) (token : Bool) : State :=
  (s.ael.delivered.filter (fun p => p.opc = 5 && p.dinst.toNat = c && p.data.isEmpty == token)).foldl (fun (s : State) p =>
    (s.take p).answer p 0x84 0x0009 []) s

/-- READY_TOKEN (R391, R392, R458): kept where the next rank has started the run first; dropped where the context is not enabled. -/
def execReadyToken (c : Nat) (s : State) : Out :=
  onUnit (c < 64) (
    if s.sec.lockInForce then s.rejectColl c true
    else
    let s := s.dropColl c true
    let x := s.coll c
    if !x.en then s
    else if x.run.isNone then s.setColl c { x with tokens := x.tokens + 1 }
    else ((s.setColl c { x with tokens := x.tokens + 1, since := s.clock.now }).trySend c).tryEnd c)

/-- COLL_CHUNK: a chunk, put together from its packets, combined into or copied to the local buffer (R391, R458). -/
def execCollChunk (c : Nat) (data : List (BitVec 8)) (s : State) : Out :=
  onUnit (c < 64) (
    if s.sec.lockInForce then s.rejectColl c false
    else
    let x := s.coll c
    match x.run with
    | none => s.dropColl c false
    | some d =>
      let i := x.inst.toNat
      let va := d.chunkVa (d.recvs x.recvd)
      let n := d.chunk / 65536 + 2
      if !x.en || d.steps ≤ x.recvd || data.length ≠ d.chunk then s.dropColl c false
      else if s.bufWaits n i va d.chunk then s
      else
        let s := s.dropColl c false
        let (new, s) : Option (List Byte) × State :=
          if d.reduces x.recvd then
            match s.bufRead n i va d.chunk with
            | (some old, s) => (if anyPoison old then none else some (combine d.etype d.elems data (plain old)), s)
            | (none, s) => (none, s)
          else (some data, s)
        match new with
        | none => s.failColl c
        | some bs =>
          match s.bufWrite n i va bs with
          | (false, s) => s.failColl c
          | (true, s) =>
            let s := s.setColl c { s.coll c with recvd := x.recvd + 1, since := s.clock.now }
            let s := if x.recvd + 1 < d.steps then s.sendToken c d else s
            (s.trySend c).tryEnd c)

/-- COLL_STEP_TIMEOUT: a step that has waited 10 ms (R392). -/
def execCollStepTimeout (c : Nat) (s : State) : Out :=
  onUnit (c < 64) (
    let x := s.coll c
    if x.run.isSome && x.since + 10000000 ≤ s.clock.now then s.failColl c else s)

/-- A write of AEL.COLL[c].CTRL (R390, R393). -/
def State.writeCollCtrl (s : State) (c : Nat) (v : BitVec 32) : State :=
  let x := s.coll c
  let w := v.toNat
  let en := bit w 8
  if x.en then
    if en then s else s.setColl c { x with en := false, run := none, tokens := 0, txids := [], buf := [], remote := [] }
  else
    let i := fld w 0 6
    if en && (s.inst i).linkw = 0 then s
    else s.setColl c { x with inst := BitVec.ofNat 6 i, en := en, runs := if en then 0 else x.runs }

/-- COLL_ENABLE (R390, R393). -/
def execCollEnable (src c : Nat) (v : BitVec 32) (s : State) : Out :=
  onUnit (c < 64) (if s.regOpen src then s.writeCollCtrl c v else s)

end Sys2Proof.Machine
end

