-- ==== Sys2Proof/Machine/HotSet.lean ====
section
/-! DEFINITION. The model hot set and its MODEL entries, restores from backing copies, and the saves of pre-emption (chapter
"Sequence store, batching and the model hot set"; R174, R292 to R299, R431 to R433). -/

namespace Sys2Proof.Machine
open Sys2Proof

/-! ## Weight sets and the region (R292, R295, R301) -/

/-- References that the instances hold of a set. -/
def WSet.refCount (w : WSet) : Nat := (w.refs.map Prod.snd).sum

/-- Whether a set occupies region pages. -/
def WSet.placed (w : WSet) : Bool := w.state = 2 || w.state = 3

/-- The sets that occupy pages. -/
def State.placedSets (s : State) : List (Nat × WSet) := s.seq.sets.filter (fun e => e.2.placed)

/-- First pages of the runs of n region pages that no set of a list occupies. -/
def State.freeRuns (s : State) (n : Nat) (used : List (Nat × WSet)) : List Nat :=
  let lo := s.seq.hsbase.toNat
  let hi := lo + s.seq.hspages.toNat
  if hi < lo + n then []
  else ((List.range (hi - n - lo + 1)).map (fun k => lo + k)).filter (fun p =>
    used.all (fun e => e.2.first + e.2.pages ≤ p || p + n ≤ e.2.first))

/-- Sets in the order of their last use, the least recent first. -/
def byUse (l : List (Nat × WSet)) : List (Nat × WSet) := l.mergeSort (fun a b => decide (a.2.use ≤ b.2.use))

/-- The sets that a load evicts, and the runs that are then free: the fewest, least recently used first (R295). -/
def State.roomFor (s : State) (n : Nat) : Option (List Nat × List Nat) :=
  let placed := s.placedSets
  let cand := byUse (placed.filter (fun e => e.2.state = 3 && !e.2.pin && e.2.refCount = 0))
  (List.range (cand.length + 1)).findSome? (fun k =>
    let out := (cand.take k).map Prod.fst
    match s.freeRuns n (placed.filter (fun e => !out.contains e.1)) with
    | [] => none
    | l => some (out, l))

/-- A resident set becomes non-resident: its failed mark clears, and instance 0 is told (R295, R433). -/
def State.evictSet (s : State) (n : Nat) : State :=
  let s := s.putWset n { s.wset n with state := 1, first := 0 }
  let s := { s with err := { s.err with failset := s.err.failset &&& ~~~(BitVec.ofNat 64 (1 <<< n)) } }
  s.event 0 (s.record 7 1 0 0 n)

/-- A use of a set counted (R295). -/
def State.useSet (s : State) (n : Nat) : State :=
  { s with seq := { s.seq with useTick := s.seq.useTick + 1 } }.putWset n { s.wset n with use := s.seq.useTick + 1 }

/-! ## MODEL entries (R293, R294) -/

/-- The MODEL entry that a command names, if its operation is op and it may begin now. -/
def State.modelEntry (s : State) (i idx op : Nat) : Option Entry := (s.begins i idx 7).filter (fun e => e.f 16 1 = op)

/-- A MODEL entry of instance 0 on its set; from another instance it is not permitted. -/
def State.onSet (s : State) (i idx op : Nat) (f : Entry → Nat → WSet → State → State) : State :=
  match s.modelEntry i idx op with
  | none => s
  | some e =>
    if i ≠ 0 then s.complete i idx 4 0
    else f e (e.f 18 1) (s.wset (e.f 18 1)) (s.updEntry i idx (fun e => { e with started := true }))

/-- An entry of an instance in the set's GRANT mask. -/
def State.onGrant (s : State) (i idx op : Nat) (f : Nat → WSet → State → State) : State :=
  match s.modelEntry i idx op with
  | none => s
  | some e =>
    let w := s.wset (e.f 18 1)
    if !w.grant.getLsbD i then s.complete i idx 4 0
    else f (e.f 18 1) w (s.updEntry i idx (fun e => { e with started := true }))

/-- Whether the source of a weight set may lie where its addresses lead: nowhere in HBM (R293); page by page, k pages at most: no bytes
where it may, a status where it may not, or a wait for a walk. A page without a translation is left to the read. -/
def State.sourceOutside : Nat → State → Nat → Nat → Got × State
  | 0, s, _, _ => (.bytes [], s)
  | k + 1, s, va, n =>
    if n = 0 then (.bytes [], s)
    else if s.walkWaits agentLoad 0 va then (.wait, s)
    else match s.entryPage agentLoad 0 .read va with
      | (.ok (pa, _), s) => if inHbm pa then (.bad 0x0009, s) else s.sourceOutside k (va + chunk va n) (n - chunk va n)
      | (.error _, s) => (.bytes [], s)

/-- MODEL_REGISTER: a source that is mapped to HBM now is malformed; one that leads there at the load is a permission fault
(R293; DESIGN CHOICE, log 102). -/
def execModelRegister (inst idx : Nat) (s : State) : Out :=
  onUnit (inst < 64) (s.onSet inst idx 1 (fun e n w s =>
    if w.state ≠ 0 then s.complete inst idx 1 0
    else match s.sourceOutside 1 (e.f 24 8) 1 with
    | (.wait, s) => s
    | (.bad _, s) => s.complete inst idx 1 0
    | (.bytes _, s) =>
      let w : WSet :=
        { state := 1
          restorable := bit (e.f 17 1) 0
          bulk := bit (e.f 17 1) 1
          ck := bit (e.f 17 1) 2
          pages := e.f 20 4
          src := BitVec.ofNat 56 (e.f 24 8)
          backing := BitVec.ofNat 56 (e.f 32 8)
          grant := BitVec.ofNat 64 (e.f 40 8)
          ckt := BitVec.ofNat 56 (e.f 48 8) }
      (s.putWset n w).complete inst idx 0 0))

/-- The CRCs of a loaded set checked against its side table (R172, R295): a status where one fails, or a wait. -/
def State.checkSet (s : State) (i idx : Nat) (w : WSet) (bs : List Byte) : Got × State :=
  match s.entryReadFor agentLoad i 0 idx .read w.ckt.toNat 16 false with
  | (.bytes hd, s) =>
    let t := (leAt (plain hd) 0 8, leAt (plain hd) 8 4)
    let base := w.src.toNat
    if anyPoison hd then (.bad 0x0307, s)
    else if tableBad (plain hd) || base < t.1 || (base - t.1) / 4096 + w.pages * 512 > t.2 then (.bad 0x000A, s)
    else
      match s.entryReadFor agentLoad i 0 idx .read (w.ckt.toNat + 16 + 4 * ((base - t.1) / 4096)) (2048 * w.pages) false with
      | (.bytes cs, s) =>
        if anyPoison cs then (.bad 0x0307, s)
        else if (List.range (512 * w.pages)).all (fun k => leAt (plain cs) (4 * k) 4 = crc32c ((bs.drop (4096 * k)).take 4096)) then (.bytes [], s)
        else (.bad 0x000A, s)
      | r => r
  | r => r

/-- A load that fails leaves its set non-resident, and the entries that wait for it share its status (R294, R295). -/
def State.failLoad (s : State) (i idx n st : Nat) : State :=
  let s := (s.putWset n { s.wset n with state := 1, first := 0 }).complete i idx st 0
  s.insts.foldl (fun (s : State) x => x.2.entries.foldl (fun (s : State) e =>
    if e.ty = 7 && e.started && !e.applied && e.f 18 1 = n && (e.f 16 1 = 2 || e.f 16 1 = 6) then s.complete x.1 e.index.toNat st 0 else s) s) s

/-- A weight set's bytes, read and checked, stored in its pages once none of their lines has to wait (R245): the set is resident and its
entry goes on (DESIGN CHOICE, log 146: class 6). -/
def storeLoad (i idx n : Nat) (w : WSet) (next : State → State) (bs : List PByte) (g : Got × State) : State :=
  match g with
  | (.wait, s) => s
  | (.bad st, s) => s.failLoad i idx n st
  | (.bytes _, s) =>
    if s.heldRun (w.first * 2 ^ 21) bs.length then s
    else
    let s := s.devWrite { alloc := !w.bulk, ask := some (prioOf w.bulk) } (w.first * 2 ^ 21) bs
    next ((s.updEntry i idx (fun e => { e with buf := [] })).putWset n { s.wset n with state := 3 })

/-- A weight set's bytes as read from its source, checked against its side table where it was registered with one. -/
def checkLoad (i idx n : Nat) (w : WSet) (next : State → State) (g : Got × State) : State :=
  match g with
  | (.wait, s) => s
  | (.bad st, s) => s.failLoad i idx n st
  | (.bytes bs, s) => storeLoad i idx n w next bs (if w.ck then s.checkSet i idx w (plain bs) else (.bytes [], s))

/-- A weight set whose source has been looked at: it may not lie in HBM (R293); else it is read in instance 0's space. -/
def readLoad (i idx n : Nat) (w : WSet) (next : State → State) (g : Got × State) : State :=
  match g with
  | (.wait, s) => s
  | (.bad st, s) => s.failLoad i idx n st
  | (.bytes _, s) => checkLoad i idx n w next (s.entryReadFor agentLoad i 0 idx .read w.src.toNat (w.pages * 2 ^ 21) w.bulk)

/-- The load that an entry has begun: the source read, verified, written (R295). The source's poison is copied with it (R429). -/
def State.runLoad (s : State) (i idx n : Nat) (next : State → State) : State :=
  let w := s.wset n
  readLoad i idx n w next (s.sourceOutside (w.pages * 32 + 1) w.src.toNat (w.pages * 2 ^ 21))

/-- A set made resident for an entry, which then goes on (R295): it is so already, or another entry loads it, or it is
loaded by this one; an eviction waits for the restores of its set (R432). -/
def State.loadSet (s : State) (i idx n : Nat) (next : State → State) : State :=
  let w := s.wset n
  let mine := ((s.entry i idx).map (fun e => e.applied)).getD false
  if w.state = 3 then next s
  else if w.state = 2 then (if mine then s.runLoad i idx n next else s)
  else match s.roomFor w.pages with
    | none => s.complete i idx 0x0207 0
    | some (out, runs) =>
      if s.seq.restores.any (fun r => out.contains r.set) then s
      else
      let s := out.foldl (fun (s : State) k => s.evictSet k) s
      let (f, s) := s.draw
      let s := s.putWset n { s.wset n with state := 2, first := runs.getD (f.toNat % runs.length) 0 }
      (s.updEntry i idx (fun e => { e with applied := true })).runLoad i idx n next

/-- MODEL_LOAD: the result is the first region page (R294, R295). -/
def execModelLoad (inst idx : Nat) (s : State) : Out :=
  onUnit (inst < 64) (s.onSet inst idx 2 (fun _ n w s =>
    if w.state = 0 then s.complete inst idx 1 0
    else s.loadSet inst idx n (fun s => (s.useSet n).complete inst idx 0 (s.wset n).first)))

/-- MODEL_EVICT: refused while references are held; it waits for a load and for restores of the set (R294, R432). -/
def execModelEvict (inst idx : Nat) (s : State) : Out :=
  onUnit (inst < 64) (s.onSet inst idx 3 (fun _ n w s =>
    if w.state = 0 then s.complete inst idx 1 0
    else if w.state = 1 then s.complete inst idx 0 0
    else if w.refCount ≠ 0 then s.complete inst idx 0x0202 0
    else if w.state = 2 || s.seq.restores.any (fun r => r.set = n) then s
    else (s.evictSet n).complete inst idx 0 0))

/-- MODEL_PIN. -/
def execModelPin (inst idx : Nat) (s : State) : Out :=
  onUnit (inst < 64) (s.onSet inst idx 4 (fun _ n w s =>
    if w.state = 0 then s.complete inst idx 1 0 else (s.putWset n { w with pin := true }).complete inst idx 0 0))

/-- MODEL_UNPIN. -/
def execModelUnpin (inst idx : Nat) (s : State) : Out :=
  onUnit (inst < 64) (s.onSet inst idx 5 (fun _ n w s =>
    if w.state = 0 then s.complete inst idx 1 0 else (s.putWset n { w with pin := false }).complete inst idx 0 0))

/-- MODEL_ACQUIRE: the set loaded if it is not resident, then one more reference of the instance; a failed set is refused (R294, R433;
DEDUCED, log 68: status 6 beyond 65,535 references). -/
def execModelAcquire (inst idx : Nat) (s : State) : Out :=
  onUnit (inst < 64) (s.onGrant inst idx 6 (fun n w s =>
    if w.state = 0 then s.complete inst idx 1 0
    else s.loadSet inst idx n (fun s =>
      let w := s.wset n
      if s.err.failset.toNat.testBit n then s.complete inst idx 0x0208 0
      else if w.refCount ≥ 65535 then s.complete inst idx 6 0
      else
        let s := s.putWset n { w with refs := NMap.put 0 w.refs inst (NMap.at w.refs inst 0 + 1) }
        (s.useSet n).complete inst idx 0 w.first)))

/-- MODEL_RELEASE: the result is the references left (R294). -/
def execModelRelease (inst idx : Nat) (s : State) : Out :=
  onUnit (inst < 64) (s.onGrant inst idx 7 (fun n w s =>
    let k := NMap.at w.refs inst 0
    if k = 0 then s.complete inst idx 1 0
    else
      let w := { w with refs := NMap.put 0 w.refs inst (k - 1) }
      (s.putWset n w).complete inst idx 0 w.refCount))

/-- MODEL_UNREGISTER: of a non-resident set (R294). -/
def execModelUnregister (inst idx : Nat) (s : State) : Out :=
  onUnit (inst < 64) (s.onSet inst idx 8 (fun _ n w s =>
    if w.state ≠ 1 then s.complete inst idx 1 0 else (s.putWset n {}).complete inst idx 0 0))

/-! ## Restores (R174, R431 to R433) -/

def Restore.size (r : Restore) : Nat := if r.block then 4096 else 128
def State.restoreAt (s : State) (pa : Nat) (block : Bool) : Option Restore := s.seq.restores.find? (fun r => r.pa = pa && r.block = block)
def State.updRestore (s : State) (pa : Nat) (block : Bool) (f : Restore → Restore) : State :=
  { s with seq := { s.seq with restores := s.seq.restores.map (fun r => if r.pa = pa && r.block = block then f r else r) } }
def State.endRestore (s : State) (pa : Nat) (block : Bool) : State :=
  ({ s with seq := { s.seq with restores := s.seq.restores.filter (fun r => !(r.pa = pa && r.block = block)) } }).settleMisses

/-- The address of the backing copy of a restore, in instance 0's space (R431). -/
def State.backingVa (s : State) (r : Restore) : Nat :=
  let w := s.wset r.set
  w.backing.toNat + (r.pa - w.first * 2 ^ 21)

/-- Whether a line of HBM or of the LLC holds poison. -/
def State.linePoisoned (s : State) (pa : Nat) : Bool :=
  (List.range 4).any (fun j => (s.rdNA {} (alignDown pa 128 + 32 * j)).1.poison ≠ 0)

/-- The backing copy of a restore asked for at the page that its translation gave: where it lies in a peer, by READ packets. -/
def askBacking (p : Nat) (block : Bool) (r : Restore) (e : Except Nat (Nat × Nat) × State) : State :=
  match e with
  | (.error _, s) => s.updRestore p block (fun r => { r with asked := true, failed := true })
  | (.ok (ba, leaf), s) =>
    if !inPeer ba then s.updRestore p block (fun r => { r with asked := true })
    else
      let (t, s) := s.readPeer 0 leaf ba partTag r.size (fun o _ => .restore p o) 0
      s.updRestore p block (fun r => { r with asked := true, remote := t })

/-- Whether a line's restore has to be one of its whole block: its set was registered with a side table, which holds a checksum of 4 KiB
blocks only, and another line of the block holds poison too, so that the block could not verify (R431; DESIGN CHOICE, log 133). -/
def State.wholeBlock (s : State) (pa : Nat) : Bool :=
  (s.restorable pa).any (fun n => (s.wset n).ck)
    && (List.range 32).any (fun k => let a := alignDown pa 4096 + 128 * k; a ≠ alignDown pa 128 && s.linePoisoned a)

/-- The restores of lines of a block made one of the block, since the first of them began. -/
def State.widenRestore (s : State) (pa : Nat) : State :=
  let base := alignDown pa 4096
  let mine := s.seq.restores.filter (fun r => !r.block && alignDown r.pa 4096 = base)
  match mine with
  | [] => s
  | r :: _ =>
    let rest := s.seq.restores.filter (fun r => !mine.contains r)
    let whole : Restore := { pa := base, block := true, set := r.set, since := r.since }
    { s with seq := { s.seq with restores := if rest.any (fun r => r.pa = base && r.block) then rest else rest ++ [whole] } }

/-- RESTORE: the restore begun, and the backing copy asked for where it lies in a peer (R431, R432). Poison in a set that has
no backing copy marks the set failed (R433). -/
def execRestore (pa : BitVec 56) (block : Bool) (s : State) : Out :=
  .next (
    let p := alignDown pa.toNat (if block then 4096 else 128)
    let s := if !block && inHbm p && s.linePoisoned p then s.metPoisonAt p else s
    let (p, block, s) := if !block && s.wholeBlock p then (alignDown p 4096, true, s.widenRestore p) else (p, block, s)
    match s.restoreAt p block with
    | none => s
    | some r =>
      if r.asked || s.walkWaits agentPart 0 (s.backingVa r) then s
      else askBacking p block r (s.entryPage agentPart 0 .read (s.backingVa r)))

/-- The bytes of a backing copy at the page that its translation gave. -/
def backingFrom (r : Restore) (e : Except Nat (Nat × Nat) × State) : Option (List Byte) × State :=
  match e with
  | (.error _, s) => (none, s)
  | (.ok (ba, leaf), s) =>
    let (bs, s) : List PByte × State :=
      if inPeer ba then ((List.range r.size).map (fun k => NMap.at r.buf k (0, true)), s)
      else s.devRead (s.accOf 0 leaf false) ba r.size
    if anyPoison bs then (none, s) else (some (plain bs), s)

/-- The bytes of a backing copy that have come back, or none where the read failed, or is poisoned. -/
def State.backingBytes (s : State) (r : Restore) : Option (List Byte) × State :=
  if r.failed || r.remote ≠ [] then (none, s) else backingFrom r (s.entryPage agentPart 0 .read (s.backingVa r))

/-- Whether a block agrees with its entry of a side table whose header has been read. -/
def tableEntryOk (hd : List PByte) (whole : List Byte) (c : Got × State) : Bool × State :=
  match c with
  | (.bytes c, s) => (!anyPoison hd && !anyPoison c && ofLe (plain c) = crc32c whole, s)
  | (_, s) => (false, s)

/-- Whether a block agrees with the entry of a side table at an index; no index where the block lies outside the table. -/
def tableAt (w : WSet) (hd : List PByte) (whole : List Byte) (s : State) (k : Option Nat) : Bool × State :=
  match k with
  | none => (false, s)
  | some k => tableEntryOk hd whole (s.entryRead agentPart 0 (2 ^ 32) .read (w.ckt.toNat + 16 + 4 * k) 4 false)

/-- Whether a block agrees with a side table, from the read of its header. -/
def tableAgrees (w : WSet) (base : Nat) (whole : List Byte) (g : Got × State) : Bool × State :=
  match g with
  | (.bytes hd, s) =>
    tableAt w hd whole s (tableIndex (leAt (plain hd) 0 8, leAt (plain hd) 8 4) (w.src.toNat + (base - w.first * 2 ^ 21)))
  | (_, s) => (false, s)

/-- Whether restored bytes agree with the set's side table, where it was registered with one. A line is checked with the
rest of its block as it stands (R431 step 3). -/
def State.restoredOk (s : State) (r : Restore) (bs : List Byte) : Bool × State :=
  let w := s.wset r.set
  if !w.ck then (true, s)
  else
    let base := alignDown r.pa 4096
    let whole := if r.block then bs else
      let old := plain (s.hbmRead {} base 4096).1
      old.take (r.pa - base) ++ bs ++ old.drop (r.pa - base + 128)
    tableAgrees w base whole (s.entryRead agentPart 0 (2 ^ 32) .read w.ckt.toNat 16 false)

/-- A restore that failed: tried again until 10 ms, then the set is failed and its readers are released (R432, R433). -/
def State.retryRestore (s : State) (r : Restore) : State :=
  if s.clock.now ≥ r.since + 10000000 then (s.regionFailed r.set r.pa).endRestore r.pa r.block
  else s.updRestore r.pa r.block (fun r => { r with asked := false, failed := false, buf := [], remote := [] })

/-- RESTORE_DONE: the backing read returned (ok) or failed (R431 to R433, R435). -/
def execRestoreDone (pa : BitVec 56) (ok : Bool) (s : State) : Out :=
  .next (match s.seq.restores.find? (fun r => r.asked && r.remote = [] && (r.pa = pa.toNat)) with
    | none => s
    | some r =>
      if !ok then s.retryRestore r
      else if s.walkWaits agentPart 0 (s.backingVa r) then s
      else match s.backingBytes r with
        | (none, s) => s.retryRestore r
        | (some bs, s) =>
          match s.restoredOk r bs with
          | (false, s) => s.retryRestore r
          | (true, s) =>
            let s := s.devWrite {} r.pa (clean bs)
            (s.errRecord 5 0 (sliceUnit (s.homeSlice r.pa)) (errDetail r.pa 0xFF 0 0x80 0) [0]).endRestore r.pa r.block)

/-! ## Saves (R197, R297 to R299) -/

/-- SAVE: a launch ordered to be saved leaves its cores once its matrix operations and its copies other than commit copies
have completed (R142, R298), and no group waits for the answer of a peer. -/
def execSave (inst idx : Nat) (s : State) : Out :=
  onUnit (inst < 64) (match s.launch inst idx with
    | none => s
    | some l =>
      let busy := (s.coresWith inst idx).any (fun g =>
        (s.core g).mats.any (fun m => m.inst = inst && m.idx = idx)
          || (s.core g).copies.any (fun j => j.inst = inst && j.idx = idx && !j.tc)
          || (s.core g).slots.any (fun e => e.2.await ≠ []))
      if l.saveBy.isNone || l.fault.isSome || busy then s else (s.saveLaunch l).settleControls)

end Sys2Proof.Machine
end

