-- ==== Sys2Proof/Machine/Matrix.lean ====
section
/-! DEFINITION. The matrix engine (R99 to R102, R126 to R154, R516): tile and epilogue descriptors, the MAC array, the
drain unit and its activations. -/

namespace Sys2Proof.Machine
open Sys2Proof

/-! ## Formats and shapes (R127 to R130) -/

/-- Element bits of a format code. -/
def matBits (f : Nat) : Nat := match f with
  | 2 | 3 => 16
  | 6 | 7 => 6
  | 8 | 0xB => 4
  | _ => 8

/-- The pairing group of a format code. -/
def matGroup (f : Nat) : Nat := match f with
  | 0 | 1 => 1
  | 2 => 2
  | 3 => 3
  | 4 | 5 | 6 | 7 | 9 => 4
  | 8 => 5
  | 0xA => 6
  | _ => 7

/-- Whether a format carries MX block scales, and whether it carries row scales. -/
def matMx (f : Nat) : Bool := 4 ≤ f && f ≤ 9
def matRowScale (f : Nat) : Bool := f = 0xA || f = 0xB

/-- The value of an element's bits (R111, R127). -/
def matElem (f v : Nat) : FVal :=
  let int := fun (n : Nat) (e : Int) => let x := sext n v; FVal.fin (decide (x < 0)) x.natAbs e
  match f with
  | 0 | 4 => fmtE4m3.decode v
  | 1 | 5 => fmtE5m2.decode v
  | 2 => fmtBf16.decode v
  | 3 => fmtF16.decode v
  | 6 => fmtE3m2.decode v
  | 7 => fmtE2m3.decode v
  | 8 => fmtE2m1.decode v
  | 9 => int 8 (-6)
  | 0xA => int 8 0
  | _ => int 4 0

/-- M, N and K of a SHAPE code (R130). -/
def matShape (c : Nat) : Option (Nat × Nat × Nat) := match c with
  | 0 => some (32, 32, 32)
  | 1 => some (64, 32, 32)
  | 2 => some (32, 64, 32)
  | 3 => some (64, 64, 32)
  | 4 => some (32, 32, 64)
  | 5 => some (64, 64, 64)
  | 6 => some (128, 64, 64)
  | 7 => some (64, 128, 64)
  | 8 => some (128, 128, 64)
  | _ => none

/-! ## Issue of mma.async (R134 to R139) -/

/-- A tile descriptor read from the local store, and its bytes. -/
def State.tile (s : State) (core off : Nat) : TileDesc × List Byte :=
  let d := plain (s.lsRead core off 32)
  let f := fun o n => leAt d o n
  ({ base := fld (f 0 4) 0 18, stride := fld (f 4 4) 0 18, rows := f 8 2, klen := f 10 2, format := fld (f 12 1) 0 4,
     sparse := bit (f 13 1) 0, ck := fld (f 13 1) 1 2 = 1, scale := fld (f 16 4) 0 18, metaOff := fld (f 20 4) 0 18,
     ckoff := fld (f 24 4) 0 18 }, d)

/-- Stored bytes of k logical elements of a row (R135). -/
def TileDesc.bytes (t : TileDesc) (k : Nat) : Nat := k * matBits t.format / 8 / (if t.sparse then 2 else 1)

/-- Whether a tile descriptor breaks a rule of R134 or R139, for `rows` rows and k elements used. -/
def TileDesc.malformed (t : TileDesc) (d : List Byte) (rows k : Nat) : Bool :=
  let f := fun o n => leAt d o n
  !(fld (f 0 4) 18 14 = 0 && fld (f 4 4) 18 14 = 0 && fld (f 12 1) 4 4 = 0 && fld (f 13 1) 1 2 ≤ 1 && fld (f 13 1) 3 5 = 0
    && f 14 2 = 0 && fld (f 16 4) 18 14 = 0 && fld (f 20 4) 18 14 = 0 && fld (f 24 4) 18 14 = 0 && f 28 4 = 0
    && t.format ≤ 0xB && [32, 64, 128].contains t.rows && [32, 64].contains t.klen && rows ≤ t.rows && k ≤ t.klen
    && t.base % 32 = 0 && t.stride % 8 = 0 && t.bytes t.klen ≤ t.stride
    && (matMx t.format || matRowScale t.format || t.scale = 0) && (!matRowScale t.format || t.scale % 4 = 0)
    && (t.sparse || t.metaOff = 0) && t.ckoff % 4 = 0 && (t.ck || t.ckoff = 0))

/-- The local-store runs that an issue reads from a tile: offset and length (R135 to R138). -/
def TileDesc.runs (t : TileDesc) (rows k : Nat) : List (Nat × Nat) :=
  (List.range rows).flatMap (fun r =>
    [(t.base + r * t.stride, t.bytes k)]
      ++ (if matMx t.format then [(t.scale + r * (t.klen / 32), k / 32)] else [])
      ++ (if matRowScale t.format then [(t.scale + 4 * r, 4)] else [])
      ++ (if t.sparse then [(t.metaOff + r * (t.klen / 8), k / 8)] else []))
  ++ (if t.ck then [(t.ckoff, 4)] else [])

/-- Units of an accumulator tile (R140). -/
def accUnits (wide : Bool) (m n : Nat) : Nat := m * n * (if wide then 8 else 1)

/-- The first poisoned byte among local-store runs (R154, R430). -/
def State.poisonIn (s : State) (core : Nat) (runs : List (Nat × Nat)) : Option Nat :=
  (runs.flatMap (fun e => (List.range e.2).map (fun i => e.1 + i))).find? (fun o => (s.core core).lsPoison.contains (o / 16))

/-- A descriptor that a matrix operation reads at issue: a poisoned granule of it is consumed (R139, R430). -/
def State.withDescs (s : State) (core slot inst : Nat) (runs : List (Nat × Nat)) (eff : State) : State :=
  match s.poisonIn core runs with
  | some off => s.raisePoison core slot 0xC off 0xFF inst
  | none => eff

/-- An operation put into the engine (R99, R150). -/
def State.enqueue (s : State) (core slot : Nat) (x : Group) (acci : Nat) (ctr : Option Nat) (work : MatWork) : State :=
  let op : MatOp :=
    { slot := slot, inst := x.inst, idx := x.idx, task := x.task, pc := x.pc, acci := acci, counter := ctr,
      started := false, work := work }
  (s.updCore core (fun c => { c with mats := c.mats ++ [op] })).advance core slot 16

/-- mma.async (R99, R100, R128 to R130, R139). Of several causes that apply it raises the first of: descriptor out of bounds, malformed, operands
out of bounds, accumulator out of bounds (DESIGN CHOICE, log 14). -/
def execMmaAsync (core slot : Nat) (w w1 : BitVec 64) (s : State) : Out :=
  onGroup core slot (s.issue core slot .mmaAsync w w1 (fun s x =>
    let v := w.toNat
    let u := w1.toNat
    let l := s.launchOf x
    let fmt := fld v 12 4
    let exa := bit v 20
    let sp := bit v 21
    let acci := fld u 36 14
    let ad := fld u 0 18
    let bd := fld u 18 18
    let fault := fun c => s.raise core slot c 0xFF
    match matShape (fld v 16 4) with
    | none => fault 0xB
    | some (m, n, k) =>
      if !lsOk l slot ad 32 || !lsOk l slot bd 32 then fault 6
      else s.withDescs core slot x.inst [(ad, 32), (bd, 32)] (
        let (a, da) := s.tile core ad
        let (b, db) := s.tile core bd
        let g := matGroup fmt
        if fmt > 0xB || a.malformed da m k || b.malformed db n k || a.format ≠ fmt || matGroup b.format ≠ g
            || (sp && !(g ≤ 3 || g = 6)) || a.sparse ≠ sp || b.sparse
            || (exa && (!([0, 1, 2, 4].contains (fld v 16 4)) || !l.exactRad)) || acci % 8 ≠ 0 then fault 0xB
        else if !(a.runs m k ++ b.runs n k).all (fun e => lsOk l slot e.1 e.2) then fault 6
        else if acci + accUnits exa m n > 16384 then fault 7
        else s.enqueue core slot x acci (if bit v 23 then none else some (fld u 50 5))
          (.mma fmt m n k exa sp (bit v 22) a b))))

/-! ## Issue of mma.drain (R146, R147, R516) -/

/-- Bits of an output element, and whether it is an MX type (R146). -/
def outBits (o : Nat) : Nat := match o with
  | 0 => 32
  | 1 | 2 => 16
  | 7 | 8 => 6
  | 9 => 4
  | 0xB => 256
  | _ => 8
def outMx (o : Nat) : Bool := 5 ≤ o && o ≤ 0xA

/-- An epilogue descriptor read from the local store, and its bytes. -/
def State.epi (s : State) (core off : Nat) : EpiDesc × List Byte :=
  let d := plain (s.lsRead core off 32)
  let f := fun o n => leAt d o n
  let b := f 25 1
  ({ out := fld (f 0 4) 0 18, ostride := fld (f 0 4) 18 14, boff := fld (f 4 4) 0 18, soff := fld (f 8 4) 0 18,
     ckoff := fld (f 12 4) 0 18, alpha := BitVec.ofNat 32 (f 16 4), stream := BitVec.ofNat 32 (f 20 4),
     m := 32 * 2 ^ fld (f 24 1) 0 2, n := 32 * 2 ^ fld (f 24 1) 2 2, otype := fld (f 24 1) 4 4, rnd := fld b 0 2,
     sat := bit b 2, ext := bit b 3, scl := bit b 4, bias := bit b 5, ck := bit b 6, act := fld (f 26 1) 0 5 }, d)

/-- Whether an epilogue descriptor breaks a rule of R146, R147 or R139 (DESIGN CHOICE, log 144: the stride of wide sums). -/
def EpiDesc.malformed (e : EpiDesc) (d : List Byte) : Bool :=
  let f := fun o n => leAt d o n
  !(fld (f 4 4) 18 14 = 0 && fld (f 8 4) 18 14 = 0 && fld (f 12 4) 18 14 = 0 && fld (f 24 1) 0 2 ≠ 3 && fld (f 24 1) 2 2 ≠ 3
    && !bit (f 25 1) 7 && fld (f 26 1) 5 3 = 0 && f 27 5 = 0 && e.otype ≤ 0xB && e.rnd ≠ 3 && e.act ≤ 7
    && e.out % 32 = 0 && e.boff % 4 = 0 && (e.bias || e.boff = 0) && (outMx e.otype || e.soff = 0)
    && e.ckoff % 4 = 0 && (e.ck || e.ckoff = 0) && (e.scl || e.alpha = 0)
    && (e.otype ≠ 0xB || (e.ext && !e.scl && !e.bias && e.act = 0))
    && (e.rnd ≠ 2 || [1, 3, 4, 5, 6].contains e.otype)
    && e.n * outBits e.otype / 8 ≤ e.ostride * 8)

/-- The local-store runs that a drain reads or writes. -/
def EpiDesc.runs (e : EpiDesc) : List (Nat × Nat) :=
  (List.range e.m).map (fun r => (e.out + r * e.ostride * 8, e.n * outBits e.otype / 8))
    ++ (if e.bias then [(e.boff, 4 * e.n)] else [])
    ++ (if outMx e.otype then [(e.soff, e.m * e.n / 32)] else [])
    ++ (if e.ck then [(e.ckoff, 4)] else [])

/-- mma.drain (R102, R147, R516). -/
def execMmaDrain (core slot : Nat) (w w1 : BitVec 64) (s : State) : Out :=
  onGroup core slot (s.issue core slot .mmaDrain w w1 (fun s x =>
    let u := w1.toNat
    let l := s.launchOf x
    let acci := fld u 18 14
    let fault := fun c => s.raise core slot c 0xFF
    if !lsOk l slot (fld u 0 18) 32 then fault 6
    else s.withDescs core slot x.inst [(fld u 0 18, 32)] (
      let (e, d) := s.epi core (fld u 0 18)
      if e.malformed d || acci % 8 ≠ 0 then fault 0xB
      else if !e.runs.all (fun r => lsOk l slot r.1 r.2) then fault 6
      else if acci + accUnits e.ext e.m e.n > 16384 then fault 7
      else s.enqueue core slot x acci (if bit w.toNat 12 then none else some (fld u 32 5)) (.drain e))))

/-! ## Order of execution (R150, R151) -/

def MatOp.isDrain (o : MatOp) : Bool := match o.work with
  | .drain _ => true
  | .mma _ _ _ _ _ _ _ _ _ => false

/-- The accumulator units of an operation. -/
def MatOp.units (o : MatOp) : Nat := match o.work with
  | .mma _ m n _ exa _ _ _ _ => accUnits exa m n
  | .drain e => accUnits e.ext e.m e.n

def MatOp.overlaps (o p : MatOp) : Bool := o.acci < p.acci + p.units && p.acci < o.acci + o.units

/-- The next operation of a unit started, unless an earlier one of the other unit that overlaps it is incomplete, or an earlier
drain is: drains run one at a time, from start to completion. The MAC array begins an operation once the previous one's last
MAC cycle is past, which may be before its completion (R150, R151, R153). -/
def startNext (drain : Bool) : List MatOp → List MatOp → List MatOp
  | _, [] => []
  | before, o :: r =>
    if o.isDrain = drain && !o.started then
      if before.any (fun p => (p.isDrain ≠ drain && p.overlaps o) || (drain && p.isDrain)) then o :: r else { o with started := true } :: r
    else o :: startNext drain (o :: before) r

/-- MMA_START (R150, R151, R153). -/
def execMmaStart (core : Nat) (s : State) : Out :=
  onUnit (core < 8192) (s.updCore core (fun c => { c with mats := startNext false [] c.mats }))

/-- DRAIN_START (R150, R151, R153). -/
def execDrainStart (core : Nat) (s : State) : Out :=
  onUnit (core < 8192) (s.updCore core (fun c => { c with mats := startNext true [] c.mats }))

/-! ## Execution of mma.async (R126, R136 to R138, R143 to R145, R154) -/

/-- The K values of a row of a tile with their scales; none where sparsity metadata breaks its order (R136, R137, R143).
A position that a sparse row leaves empty is `none`. -/
def State.rowVals (s : State) (core : Nat) (t : TileDesc) (k r : Nat) : Option (List (Option FVal)) :=
  let b := matBits t.format
  let row := ofLe (plain (s.lsRead core (t.base + r * t.stride) (t.bytes k)))
  let scaled := fun (i : Nat) (v : FVal) =>
    if matMx t.format then
      let x := ofLe (plain (s.lsRead core (t.scale + r * (t.klen / 32) + i / 32) 1))
      if x = 0xFF then FVal.nan else v.mul (.fin false 1 ((x : Int) - 127))
    else if matRowScale t.format then v.mul (f32val (ofLe (plain (s.lsRead core (t.scale + 4 * r) 4))))
    else v
  if !t.sparse then
    some ((List.range k).map (fun i => some (scaled i (matElem t.format (fld row (b * i) b)))))
  else
    let mt := ofLe (plain (s.lsRead core (t.metaOff + r * (t.klen / 8)) (k / 8)))
    let nib := fun g => fld mt (4 * g) 4
    if (List.range (k / 4)).any (fun g => nib g % 4 ≥ nib g / 4) then none
    else some ((List.range k).map (fun i =>
      let g := i / 4
      let v := fun j => some (scaled i (matElem t.format (fld row (b * (2 * g + j)) b)))
      if nib g % 4 = i % 4 then v 0 else if nib g / 4 = i % 4 then v 1 else none))

/-- The exact product terms of an output element (R143). -/
def terms (a b : List (Option FVal)) : List FVal :=
  (a.zip b).map (fun e => match e.1, e.2 with
    | some x, some y => x.mul y
    | _, _ => .fin false 0 0)

/-- The exact sum of a chunk, in FVal; NaN and infinities as R144 says. -/
def sumVals : List FVal → FVal
  | [] => .fin false 0 0
  | x :: r => r.foldl FVal.add x

/-- An FP32 element after its chunks, in ascending order of K (R144). -/
def mmaF32 (c : Nat) (ts : List FVal) : Nat :=
  (List.range (ts.length / 32)).foldl (fun c i => f32add c (f32of (sumVals ((ts.drop (32 * i)).take 32)))) c

/-- The value of n accumulator units. -/
def Core.accN (c : Core) (u : Nat) : Nat → Nat
  | 0 => 0
  | n + 1 => (NMap.at c.acc u 0).toNat + 2 ^ 32 * c.accN (u + 1) n
def Core.setAccN (c : Core) (u : Nat) : Nat → Nat → Core
  | 0, _ => c
  | n + 1, v => ({ c with acc := NMap.put 0 c.acc u (BitVec.ofNat 32 v) }).setAccN (u + 1) n (v / 2 ^ 32)

/-- A fault found while an operation executes, against its issuing instruction (R154). -/
def State.raiseMat (s : State) (core : Nat) (o : MatOp) (code addr : Nat) : State :=
  s.raiseJobOf core { slot := o.slot, inst := o.inst, idx := o.idx, pc := o.pc } code addr o.inst

/-- The checksum of the bytes that an issue uses of a tile (R138). -/
def State.tileCrc (s : State) (core : Nat) (t : TileDesc) (rows k : Nat) : Nat :=
  crc32c ((List.range rows).flatMap (fun r => plain (s.lsRead core (t.base + r * t.stride) (t.bytes k))))

def State.crcBad (s : State) (core : Nat) (t : TileDesc) (rows k : Nat) : Bool :=
  t.ck && s.tileCrc core t rows k ≠ ofLe (plain (s.lsRead core t.ckoff 4))

/-- The granules of 512 bytes that a run of units touches, as a mask (R142). -/
def granMask (u n : Nat) : BitVec 128 :=
  BitVec.ofNat 128 (maskOf ((List.range 128).filter (fun g => u < 128 * g + 128 && 128 * g < u + n)))

/-- The tile of an mma.async computed, element by element (R126, R144, R145). -/
def mmaTile (c : Core) (acci m n : Nat) (exa acc : Bool) (wlow : Nat) (a b : List (List (Option FVal))) : Core :=
  (List.range (m * n)).foldl (fun (c : Core) i =>
    let ts := terms (a.getD (i / n) []) (b.getD (i % n) [])
    if exa then
      let u := acci + 8 * i
      let w0 := if acc then WSum.ofBits (c.accN u 8) else WSum.zero (sext 16 wlow)
      c.setAccN u 8 (ts.foldl WSum.term w0).bits
    else
      let u := acci + i
      c.setAccN u 1 (mmaF32 (if acc then c.accN u 1 else 0) ts)) c

/-- An operation removed from the engine. -/
def State.dropMat (s : State) (core : Nat) (o : MatOp) : State := s.updCore core (fun c => { c with mats := c.mats.erase o })

/-- MMA_COMPLETE: the MAC array's oldest started operation writes its tile and advances its counter by 1, or faults (R100, R126, R142 to
R145, R153, R154; DESIGN CHOICE, log 141: when it reads). -/
def execMmaComplete (core : Nat) (s : State) : Out :=
  onUnit (core < 8192) (match (s.core core).mats.find? (fun o => !o.isDrain) with
    | none => s
    | some o =>
      let l := (s.launch o.inst o.idx).getD {}
      if !o.started || l.fault.isSome then s
      else match o.work with
        | .drain _ => s
        | .mma _ m n k exa _ acc a b =>
          let u := accUnits exa m n
          let gone := s.dropMat core o
          match s.poisonIn core (a.runs m k ++ b.runs n k) with
          | some off => gone.raiseMat core o 0xC off
          | none =>
            match (s.core core).accPoison.find? (fun g => acc && o.acci < 4 * g + 4 && 4 * g < o.acci + u) with
            | some g => gone.raiseMat core o 0xC (16 * g)
            | none =>
              let av := (List.range m).map (fun r => s.rowVals core a k r)
              let bv := (List.range n).map (fun r => s.rowVals core b k r)
              if av.any Option.isNone then gone.raiseMat core o 0xB 0
              else if s.crcBad core a m k then gone.raiseMat core o 0xD a.base
              else if s.crcBad core b n k then gone.raiseMat core o 0xD b.base
              else
                let s := gone.updCore core (fun c =>
                  let c := mmaTile c o.acci m n exa acc l.wlow.toNat (av.map (fun r => r.getD [])) (bv.map (fun r => r.getD []))
                  { c with
                    accWritten := c.accWritten ||| granMask o.acci u
                    accPoison := c.accPoison.filter (fun g => !(o.acci ≤ 4 * g && 4 * g + 4 ≤ o.acci + u)) })
                match o.counter with
                | some a => s.countOwn core o.slot o.inst o.idx o.task a 1
                | none => s)

/-! ## Activations (R148) -/

/-- e^y / (1 + e^y) for a fixed-point y: q and k with the value q · 2^(k - 200). -/
def fxSigmoid (y : Int) : Nat × Int :=
  let one : Int := (2 ^ fxBits : Nat)
  if y < 0 then
    let (r, k) := fxExp y
    let t : Int := if k < -400 then 0 else r / (2 ^ (-k).toNat : Nat)
    ((r * one / (one + t)).toNat, k)
  else
    let (r, k) := fxExp (-y)
    let t : Int := if k < -400 then 0 else if k > 0 then r * 2 else r / (2 ^ (-k).toNat : Nat)
    ((one * one / (one + t)).toNat, 0)

/-- x · sigmoid(y), correctly rounded. -/
def timesSigmoid (neg : Bool) (m : Nat) (e : Int) (y : Int) : Nat :=
  let (q, k) := fxSigmoid y
  f32of (.fin neg (m * (2 * q + 1)) (e + k - fxBits - 1))

/-- The arc tangent of 1 / d as a fixed-point real with 240 fraction bits. -/
def fxAtanInv (d : Nat) : Int :=
  (List.range 120).foldl (fun (acc : Int) i =>
    let t : Int := ((2 ^ 240 / (d ^ (2 * i + 1) * (2 * i + 1)) : Nat) : Int)
    if i % 2 = 0 then acc + t else acc - t) 0

/-- 2 · √(2 / π) as a fixed-point real. -/
def fxGelu : Nat :=
  let pi := (16 * fxAtanInv 5 - 4 * fxAtanInv 239).toNat
  Nat.sqrt (8 * 2 ^ (240 + 2 * fxBits) / pi)

/-- A finite value compared with a power of two: whether its magnitude is at least 2^n. -/
def finGe (m : Nat) (e n : Int) : Bool := m ≠ 0 && (Nat.log2 m : Int) + e ≥ n

/-- The activation of a code (R148). -/
def activate (act x : Nat) : Nat :=
  match f32val x with
  | .nan => fmtF32.cnan
  | .inf neg =>
    match act with
    | 0 | 3 => x
    | 1 => if neg then 0 else x
    | 2 => if neg then 0 else 0x40C00000
    | 4 | 5 => if neg then 2 ^ 31 else x
    | 6 => if neg then 0 else 0x3F800000
    | _ => if neg then 0xBF800000 else 0x3F800000
  | .fin neg m e =>
    let fx := fxOf neg m e
    match act with
    | 0 => x
    | 1 => if neg || m = 0 then 0 else x
    | 2 => if neg || m = 0 then 0 else f32min x 0x40C00000
    | 3 => if neg && m ≠ 0 then f32of (.fin neg m (e - 6)) else x
    | 4 =>
      if m = 0 then x
      else if finGe m e 5 then (if neg then 2 ^ 31 else x)
      else
        let cube := fxMul (fxMul fx fx) fx
        timesSigmoid neg m e (fxMul fxGelu (fx + cube * 44715 / 1000000))
    | 5 =>
      if m = 0 then x
      else if finGe m e 8 then (if neg then 2 ^ 31 else x)
      else timesSigmoid neg m e fx
    | 6 =>
      if m = 0 then 0x3F000000
      else if finGe m e 8 then (if neg then 0 else 0x3F800000)
      else
        let (q, k) := fxSigmoid fx
        f32of (.fin false (2 * q + 1) (k - fxBits - 1))
    | _ =>
      if !finGe m e (-13) then x
      else if finGe m e 6 then (if neg then 0xBF800000 else 0x3F800000)
      else
        let one : Int := (2 ^ fxBits : Nat)
        let (r, k) := fxExp (-2 * (fx.natAbs : Int))
        let t : Int := if k > 0 then r * 2 else r / (2 ^ (-k).toNat : Nat)
        f32of (fxVal neg ((one - t) * one / (one + t)) 0)

/-! ## Drains (R125, R147 to R149) -/

/-- The element format of a plain or MX output type. -/
def outFmt (o : Nat) : FFmt := match o with
  | 0 => fmtF32
  | 1 => fmtBf16
  | 2 => fmtF16
  | 3 | 5 => fmtE4m3
  | 4 | 6 => fmtE5m2
  | 7 => fmtE3m2
  | 8 => fmtE2m3
  | _ => fmtE2m1

/-- emax of R125. -/
def outEmax (o : Nat) : Int := match o with
  | 5 => 8
  | 6 => 15
  | 7 => 4
  | 8 | 9 => 2
  | _ => 0

/-- The power of two at or below the magnitude of a finite non-zero value. -/
def topOf : FVal → Option Int
  | .fin _ m e => if m = 0 then none else some ((Nat.log2 m : Int) + e)
  | _ => none

/-- One block quantised: scale and elements (R125). -/
def mxBlock (o : Nat) (xs : List Nat) (rnd : Nat → Rnd) : Nat × List Nat :=
  let vs := xs.map f32val
  if vs.any (fun v => match v with | .fin _ _ _ => false | _ => true) then (0xFF, xs.map (fun _ => 0))
  else match (vs.filterMap topOf).foldl (fun (acc : Option Int) t => some (match acc with | some a => max a t | none => t)) none with
    | none => (0, xs.map (fun _ => 0))
    | some top =>
      let e := max (-127) (min 127 (top - outEmax o))
      ((e + 127).toNat, vs.zipIdx.map (fun p =>
        match p.1 with
        | .fin neg m x =>
          if o = 0xA then fToInt (rnd p.2) 0xA (.fin neg m (x - e + 6)) % 256
          else (outFmt o).ofVal (rnd p.2) true (.fin neg m (x - e))
        | _ => 0))

/-- The rounding of element elem of a drain (R119, R121, R147). -/
def epiRnd (e : EpiDesc) (seed : BitVec 64) (task elem : Nat) : Rnd :=
  match e.rnd with
  | 0 => .near
  | 1 => .zero
  | _ => .stoch (srBits seed task e.stream.toNat elem)

/-- The FP32 value of an element after scale, bias and activation (R147). -/
def epiF32 (e : EpiDesc) (acc bias : Nat) : Nat :=
  let x := if e.ext then fmtF32.ofVal .near false (WSum.ofBits acc).val else acc
  let x := if e.scl then f32mul x e.alpha.toNat else x
  let x := if e.bias then f32add x bias else x
  activate e.act x

/-- The encoded elements of an output row and its MX scales (R147, R149). -/
def epiRow (e : EpiDesc) (seed : BitVec 64) (task r : Nat) (acc bias : Nat → Nat) : List Nat × List Nat :=
  let rnd := fun j => epiRnd e seed task (r * e.n + j)
  if e.otype = 0xB then ((List.range e.n).map acc, [])
  else if outMx e.otype then
    let bs := (List.range (e.n / 32)).map (fun b =>
      mxBlock e.otype ((List.range 32).map (fun i => epiF32 e (acc (32 * b + i)) (bias (32 * b + i)))) (fun i => rnd (32 * b + i)))
    (bs.flatMap Prod.snd, bs.map Prod.fst)
  else if e.ext && !e.scl && !e.bias && e.act = 0 then
    ((List.range e.n).map (fun j => (outFmt e.otype).ofVal (rnd j) e.sat (WSum.ofBits (acc j)).val), [])
  else ((List.range e.n).map (fun j => (outFmt e.otype).ofVal (rnd j) e.sat (f32val (epiF32 e (acc j) (bias j)))), [])

/-- Elements packed into bytes (R112). -/
def packRow (bits : Nat) (l : List Nat) : List Byte :=
  leBytes (l.length * bits / 8) (l.zipIdx.foldl (fun acc p => acc + (p.1 % 2 ^ bits) * 2 ^ (bits * p.2)) 0)

/-- The bytes that a drain writes for the counter (R149). -/
def EpiDesc.written (e : EpiDesc) : Nat :=
  e.m * e.n * outBits e.otype / 8 + (if outMx e.otype then e.m * e.n / 32 else 0) + (if e.ck then 4 else 0)

/-- DRAIN_COMPLETE: the oldest started drain writes its rows, scales and CRC and advances its counter, or faults on
poison (R147 to R149, R153, R154). -/
def execDrainComplete (core : Nat) (s : State) : Out :=
  onUnit (core < 8192) (match (s.core core).mats.find? (fun o => o.isDrain) with
    | none => s
    | some o =>
      let l := (s.launch o.inst o.idx).getD {}
      if !o.started || l.fault.isSome then s
      else match o.work with
        | .mma _ _ _ _ _ _ _ _ _ => s
        | .drain e =>
          let gone := s.dropMat core o
          let u := accUnits e.ext e.m e.n
          match (s.core core).accPoison.find? (fun g => o.acci < 4 * g + 4 && 4 * g < o.acci + u) with
          | some g => gone.raiseMat core o 0xC (16 * g)
          | none =>
            match s.poisonIn core (if e.bias then [(e.boff, 4 * e.n)] else []) with
            | some off => gone.raiseMat core o 0xC off
            | none =>
              let k := if e.ext then 8 else 1
              let acc := fun r j => (s.core core).accN (o.acci + k * (r * e.n + j)) k
              let bias := fun j => if e.bias then ofLe (plain (s.lsRead core (e.boff + 4 * j) 4)) else 0
              let rows := (List.range e.m).map (fun r =>
                let x := epiRow e l.seed o.task r (acc r) bias
                (packRow (outBits e.otype) x.1, x.2.map (BitVec.ofNat 8)))
              let t := rows.zipIdx.foldl (fun (t : State) p =>
                let t := t.lsWrite core (e.out + p.2 * e.ostride * 8) (clean p.1.1)
                if p.1.2 = [] then t else t.lsWrite core (e.soff + p.2 * (e.n / 32)) (clean p.1.2)) gone
              let t := if e.ck then t.lsWrite core e.ckoff (clean (leBytes 4 (crc32c (rows.flatMap Prod.fst)))) else t
              match o.counter with
              | some a => t.countOwn core o.slot o.inst o.idx o.task a e.written
              | none => t)

end Sys2Proof.Machine
end

