-- ==== Sys2Proof/Machine/Registers.lean ====
section
/-! DEFINITION. The register maps: what every register of BAR0 and every word of a BAR4 page reads as, what a write to it does,
the persistent settings, and configuration space (R8, R18, R199, R256, R269, R301, R314, R318, R319, R345 to R347, R354, R393,
R407, R408, R424, R425, R444, R445, R463, R483, R484, R504 to R509). -/

namespace Sys2Proof.Machine
open Sys2Proof

/-! ## Reading -/

/-- One 32-bit word of a register that is wider than 64 bits. -/
def wordOf (v k : Nat) : Nat := v / 2 ^ (32 * k) % 2 ^ 32

/-- The index of an offset in an array of registers that starts at a base, has a stride and n members: the index and the offset
in the member. -/
def arrayAt (off base stride n : Nat) : Option (Nat × Nat) :=
  if base ≤ off && off < base + stride * n then some ((off - base) / stride, (off - base) % stride) else none

/-- ID.DIE[x] (R407): kind, stepping, bundles and feature bits. -/
def State.dieReg (s : State) (d : Nat) : Nat :=
  let f := s.dieFuse d
  f.kind.toNat + f.stepping.toNat * 2 ^ 8 + f.bundles.toNat * 2 ^ 16 + f.feat.toNat * 2 ^ 32

/-- FOEHN.STAT. -/
def State.foehnStat (s : State) : Nat :=
  let f := s.foehn
  b2n f.diverged + 2 * b2n f.floorhold + 4 * b2n f.unattainable + 8 * f.limiter.toNat + 32 * b2n s.sec.lockInForce

/-- FOEHN.SECTOR[n]. -/
def State.sectorReg (s : State) (n : Nat) : Nat :=
  let k := s.sectorClk n
  k.cap.toNat + (if 5 ≤ k.mode.toNat then 31 else k.step) * 2 ^ 8 + k.mode.toNat * 2 ^ 16 + b2n k.gate * 2 ^ 19

/-- SEQ.WSET[i]. -/
def State.wsetReg (s : State) (i : Nat) : Nat :=
  let w := s.wset i
  w.state.toNat + 4 * b2n w.pin + 8 * b2n w.restorable + ((w.refs.map Prod.snd).sum % 2 ^ 16) * 2 ^ 16
    + (if w.state = 3 then w.first else 0) * 2 ^ 32

/-- SEQ.ISTAT[i]. -/
def State.istatReg (s : State) (i : Nat) : Nat :=
  let x := s.inst i
  x.records.length + (x.records.filter (fun r => r.2.slot.isSome)).length * 2 ^ 32 + b2n (x.state = .preempted) * 2 ^ 63

/-- BOOT.STAT, BOOT.STAGE and ERR.STAT. -/
def State.bootStat (s : State) : Nat :=
  let b := s.boot
  b.cause.toNat + b.failstep.toNat * 2 ^ 8 + b.mode.toNat * 2 ^ 11 + b.recsrc.toNat * 2 ^ 13 + s.pers.failcnt.toNat * 2 ^ 16
    + b.fusesvn.toNat * 2 ^ 20

def State.stageReg (s : State) : Nat :=
  2 * b2n s.boot.erasing + 4 * s.boot.stage.toNat + (if s.boot.stage = 5 then s.boot.reason.toNat else 0) * 2 ^ 8

def State.errStat (s : State) : Nat := b2n s.err.fatal

/-- The 64-bit registers of a block, by block number and offset in the block. -/
def State.reg64 (s : State) (blk o : Nat) : Option Nat :=
  match blk with
  | 0x00 => if o = 0 then some (0x1280 + 2 ^ 32)
    else if o = 0x140 then some (s.d2d.pkgfeat.toNat + b2n s.d2d.mixed * 2 ^ 32)
    else match arrayAt o 0x100 8 6 with
      | some (d, 0) => some (s.dieReg d)
      | _ => none
  | 0x01 => match arrayAt o 0x1000 0x40 64 with
    | some (i, 0) => some (s.inst i).ring.sqbase.toNat
    | some (i, 8) => some (s.inst i).ring.cqbase.toNat
    | some (i, 16) => some (s.inst i).ring.eqbase.toNat
    | _ => none
  | 0x02 => if o = 0 then some s.dport.addr.toNat else none
  | 0x03 => match o with
    | 0x10 => some s.cad.losspol.toNat
    | 0x18 => some s.cad.beat.toNat
    | 0x38 => some s.cad.late.reg
    | 0x48 => some s.cad.snapaddr.toNat
    | _ => none
  | 0x04 => if o = 0x10 then some (s.foehn.meas.toNat + s.foehn.est.toNat * 2 ^ 16 + s.foehn.meas1s.toNat * 2 ^ 32 + s.foehn.kfact.toNat * 2 ^ 48)
    else if o = 0x18 then some s.foehn.energy.reg
    else match arrayAt o 0x100 8 64, arrayAt o 0x500 8 64 with
      | some (n, 0), _ => some (s.sectorReg n)
      | _, some (n, 0) => some (s.sectorClk n).droops.reg
      | _, _ => none
  | 0x06 => if o = 0x20 then some s.err.failset.toNat
    else if o = 0x1C00 then some s.err.secfenced.toNat
    else match arrayAt o 0x1800 8 128 with
      | some (n, 0) => some (NMap.at s.err.cfenced n 0).toNat
      | _ => none
  | 0x07 => if o = 8 then some s.sec.serial.toNat else none
  | 0x08 => if o = 8 then some (s.boot.version.toNat + s.boot.svn.toNat * 2 ^ 32 + b2n s.boot.bound * 2 ^ 40)
    else if o = 0x28 then some (if s.boot.stage = 2 || s.boot.stage = 4 then s.boot.sversion.toNat + s.boot.ssvn.toNat * 2 ^ 32 else 0)
    else none
  | 0x09 => match arrayAt o 0x10 8 4 with
    | some (q, 0) => some (NMap.at s.bist.failmap q 0).toNat
    | _ => none
  | 0x0A => match o with
    | 0x20 => some s.pers.losspol.toNat
    | 0x28 => some s.pers.snapaddr.toNat
    | _ => none
  | 0x0B => match arrayAt o 0x1000 0x40 7 with
    | some (c, k) => if k % 8 = 0 && k / 8 < 5 then some (NMap.at s.llc.snap (5 * c + k / 8) {}).reg else none
    | none => none
  | 0x0D => match arrayAt o 0x9000 0x10 64 with
    | some (c, 0) => some (s.coll c).desc.toNat
    | _ => none
  | 0x0F => match arrayAt o 0x1000 0x20 128 with
    | some (n, 0) => some (s.queueReg n)
    | some (n, 8) => some (s.cluster n).steals.reg
    | some (n, 16) => some (s.cluster n).victim.reg
    | some (n, 24) => some (s.cluster n).requeue.reg
    | _ => none
  | 0x10 => match arrayAt o 0x100 8 64, arrayAt o 0x1000 8 64 with
    | some (i, 0), _ => some (s.wsetReg i)
    | _, some (i, 0) => some (s.istatReg i)
    | _, _ => none
  | _ => none

/-- The ID and HOST blocks: 32-bit words. -/
def State.hostWord (s : State) (blk o : Nat) : Nat :=
  match blk with
  | 0x00 => match arrayAt o 0x1000 4 128 with
    | some (n, _) => (s.clusterMapOf n).toNat
    | none => 0
  | 0x01 =>
    if o = 0 then s.hostStat
    else if o = 4 then b2n s.host.quiesce
    else match arrayAt o 0x1000 0x40 64, arrayAt o 0x7000 4 64, arrayAt o 0x8000 16 2048 with
      | some (i, k), _, _ =>
        let x := s.inst i
        let g := x.ring
        (match k with
        | 0x18 => g.sqlog + g.cqlog * 2 ^ 8 + g.eqlog * 2 ^ 16 + b2n g.en * 2 ^ 31
        | 0x1C => g.cqvec.toNat + g.eqvec.toNat * 2 ^ 16
        | 0x20 => g.sqhead.toNat
        | 0x24 => g.sqtail.toNat
        | 0x28 => g.cqtail.toNat
        | 0x2C => g.eqtail.toNat
        | 0x30 => b2n (x.entries ≠ []) + 2 * b2n g.overrun + g.eqdrop.toNat * 2 ^ 16
        | _ => 0)
      | _, some (w, _), _ => maskOf ((s.host.pba.filter (fun v => v / 32 = w)).map (fun v => v % 32))
      | _, _, some (v, k) => wordOf (NMap.at s.host.msix v msixReset).toNat (k / 4)
      | _, _, _ => 0
  | _ => 0

/-- DPORT, CAD, FOEHN, THERM and ERR. -/
def State.controlWord (s : State) (blk o : Nat) : Nat :=
  match blk with
  | 0x02 =>
    let d := s.dport
    (match o with
    | 8 => d.width.toNat + 4 * d.inc.toNat + 16 * d.space.toNat
    | 0x10 => b2n d.range + 2 * b2n d.poison + 4 * b2n d.size + 8 * b2n (d.waiting ≠ [])
    | _ => 0)
  | 0x03 =>
    let c := s.cad
    (match o with
    | 0 => c.src.toNat + 4 * b2n c.leader + 8 * b2n c.outen + 16 * c.rxlink.toNat + c.delay.toNat * 2 ^ 10
    | 4 => c.period.toNat
    | 8 => c.txlinks.toNat
    | 0x20 => c.phaseLatch.toNat
    | 0x30 => b2n c.lost + 16 * c.hops.toNat + c.snapskip.toNat * 2 ^ 8 + c.glitch.toNat * 2 ^ 16
    | 0x34 => c.meas.toNat
    | 0x44 => c.div.toNat + c.log2.toNat * 2 ^ 16
    | 0x50 => c.snapseq.toNat
    | _ => 0)
  | 0x04 =>
    match o with
    | 0 => s.foehn.sust.toNat
    | 4 => s.foehn.peak.toNat
    | 8 => s.foehnStat
    | 12 => 2 * b2n s.foehn.satev
    | _ => match arrayAt o 0x400 4 64 with
      | some (n, _) => s.iccmax n
      | none => 0
  | 0x05 =>
    match o with
    | 4 =>
      let pre := ((List.range 64).filter (fun n => (s.sectorClk n).pretrip)).length
      s.hottest.1 + pre * 2 ^ 9 + s.hottest.2.toNat * 2 ^ 16
    | 8 => s.therm.tripcnt.toNat + s.therm.newest.toNat * 2 ^ 16
    | _ => match arrayAt o 0x100 4 280, arrayAt o 0x1000 0x20 16 with
      | some (i, _), _ => (s.sensor i).temp.toNat + (s.sensor i).peak.toNat * 2 ^ 16 + b2n (s.sensor i).fail * 2 ^ 31
      | _, some (k, j) => wordOf (NMap.at s.therm.trips k 0).toNat (j / 4)
      | _, _ => 0
  | 0x06 =>
    match o with
    | 0 => s.err.funit.toNat
    | 4 => b2n s.err.fdrain + b2n s.err.fence.isSome * 2 ^ 31
    | 8 => b2n s.err.fence.isSome + 2 * s.err.result.toNat
    | 12 => s.errStat
    | 0x10 => s.err.logtail.toNat
    | _ => match arrayAt o 0x1000 4 128, arrayAt o 0x1200 4 256, arrayAt o 0x8000 32 1024 with
      | some (n, _), _, _ => (s.cluster n).ce.toNat + (s.cluster n).ue.toNat * 2 ^ 16
      | _, some (n, _), _ => (s.slice n).ce.toNat + (s.slice n).ue.toNat * 2 ^ 16
      | _, _, some (k, j) => wordOf (NMap.at s.err.log k 0).toNat (j / 4)
      | _, _, _ => 0
  | _ => 0

/-- SEC, BOOT, BIST and PERS. -/
def State.systemWord (s : State) (blk o : Nat) : Nat :=
  match blk with
  | 0x07 =>
    let c := s.sec
    (match o with
    | 0 => s.secStat
    | 0x10 => s.sigidx
    | 0x14 => s.variant.toNat % 16
    | 0x18 => s.pers.galepol.toNat
    | 0x1C => c.active.toNat + c.seen.toNat * 2 ^ 8
    | 0x20 => c.tlogcnt.toNat + c.tlognext.toNat * 2 ^ 16
    | _ => match arrayAt o 0x100 0x20 8, arrayAt o 0x1000 16 256 with
      | some (m, j), _ => wordOf (NMap.at c.meas m 0).toNat (j / 4)
      | _, some (k, j) => wordOf (NMap.at c.tlog k 0).toNat (j / 4)
      | _, _ => 0)
  | 0x08 =>
    match o with
    | 0 => s.bootStat
    | 0x10 => b2n s.pers.bringup + 2 * b2n s.boot.recover
    | 0x20 => s.stageReg
    | _ => match arrayAt o 0x104 4 7 with
      | some (k, _) => (NMap.at s.boot.steptime (k + 1) 0).toNat
      | none => 0
  | 0x09 =>
    let b := s.bist
    (match o with
    | 0 => b.unit.toNat
    | 4 => b.target.toNat + 4 * b2n b.legacy + b2n b.busy * 2 ^ 31
    | 8 => b2n b.busy + 2 * b.result.toNat + b.fails.toNat * 2 ^ 16
    | 0x40 => b.dur.toNat
    | _ => 0)
  | 0x0A =>
    let p := s.pers
    (match o with
    | 0 => p.sust.toNat
    | 4 => p.peak.toNat
    | 8 => p.aelid.toNat
    | 12 => p.aelen.toNat
    | 0x10 => p.cadSrc.toNat + 4 * b2n p.cadLeader + 8 * b2n p.cadOuten + 16 * p.cadRxlink.toNat
    | 0x14 => p.cadPeriod.toNat
    | 0x18 => p.cadTx.toNat
    | 0x1C => p.snapDiv.toNat + p.snapLog2.toNat * 2 ^ 16
    | 0x30 => p.galepol.toNat
    | 0x34 => b2n p.bringup + 16 * p.failcnt.toNat
    | 0x38 => p.bootcnt.toNat
    | _ => match arrayAt o 0x100 4 256 with
      | some (n, _) => (NMap.at p.quota n 8).toNat
      | none => 0)
  | _ => 0

/-- LLC, HBM, AEL, D2D and SEQ. -/
def State.memoryWord (s : State) (blk o : Nat) : Nat :=
  match blk with
  | 0x0B =>
    match o with
    | 0 => 2 * b2n s.llc.satev
    | 0x10 => s.llc.view.toNat
    | _ => match arrayAt o 0x20 4 8, arrayAt o 0x40 4 7, arrayAt o 0x400 4 256, arrayAt o 0x800 0x10 64 with
      | some (i, _), _, _, _ => maskOf ((List.range 32).filter (fun j => (s.slice (32 * i + j)).fenced))
      | _, some (c, _), _, _ => (NMap.at s.llc.thrash c 0).toNat + b2n (NMap.at s.llc.thrashActive c false) * 2 ^ 7
      | _, _, some (n, _), _ => s.quota n
      | _, _, _, some (i, k) =>
        let r := NMap.at s.llc.nh i {}
        (match k with
        | 0 => r.base.toNat
        | 4 => r.limit.toNat
        | 8 => r.die.toNat + b2n r.en * 2 ^ 8
        | _ => b2n r.busy + 2 * b2n r.refused)
      | _, _, _, _ => 0
  | 0x0C =>
    let h := s.hbm
    (match o with
    | 0 => h.up.toNat + b2n s.bringup * 2 ^ 16
    | 0x24 => 2 * h.result.toNat + h.pages.length * 2 ^ 16
    | 0x28 => h.chans.length
    | 0x40 => h.mpch.toNat + h.mbit.toNat * 2 ^ 10 + h.mdeskew.toNat * 2 ^ 16 + h.mvddq.toNat * 2 ^ 22 + b2n h.mgo * 2 ^ 31
    | 0x44 => b2n h.mrefused + h.merrs.toNat * 2 ^ 16
    | _ => match arrayAt o 0x1000 4 1024, arrayAt o 0x2000 4 1024 with
      | some (n, _), _ => s.pcstat n
      | _, some (n, _) => s.hbmErrcnt n
      | _, _ => 0)
  | 0x0D =>
    match o with
    | 0 => s.ael.id.toNat
    | 4 => s.ael.en.toNat
    | 0x10 => s.ael.tracker.length
    | 0x14 => s.ael.dedup.length
    | _ => match arrayAt o 0x100 0x10 24, arrayAt o 0x4000 4 4096, arrayAt o 0x8000 4 256, arrayAt o 0x9000 0x10 64 with
      | some (l, k), _, _, _ =>
        let x := s.link l
        (match k with
        | 0 => x.state.toNat + 4 * x.width.toNat + 16 * x.good.toNat + x.fenced.toNat * 2 ^ 8 + x.peer.toNat * 2 ^ 12
        | 4 => x.crc.toNat + x.replay.toNat * 2 ^ 16
        | 8 => x.uncorr.toNat + x.widthchg.toNat * 2 ^ 16
        | _ => 0)
      | _, some (m, _), _, _ => (NMap.at s.ael.route m 0).toNat
      | _, _, some (g, _), _ => (NMap.at s.ael.mcast g 0).toNat
      | _, _, _, some (c, k) =>
        let x := s.coll c
        if k = 8 then x.inst.toNat + b2n x.en * 2 ^ 8 + b2n x.run.isSome * 2 ^ 9 + x.runs % 2 ^ 16 * 2 ^ 16 else 0
      | _, _, _, _ => 0
  | 0x0E =>
    match arrayAt o 0x100 4 4, arrayAt o 0x1000 0x10 160 with
    | some (d, _), _ => (s.segs d).toNat + b2n (s.d2d.bridgeFenced.getLsbD d) * 2 ^ 16
    | _, some (n, k) =>
      let b := s.bundle n
      (match k with
      | 0 => b.state.toNat + 4 * b.rate.toNat
      | 4 => b.map.toNat
      | 8 => (NMap.at s.fuses.bundleMap n 0).toNat
      | _ => b.corr.toNat + b.disc.toNat * 2 ^ 16)
    | _, _ => 0
  | 0x10 =>
    match o with
    | 0 => s.seq.hsbase.toNat
    | 4 => s.seq.hspages.toNat
    | 8 =>
      let used := s.seq.sets.filter (fun e => e.2.state = 3)
      let held := (s.seq.sets.filter (fun e => 2 ≤ e.2.state.toNat)).map (fun e => e.2.pages)
      used.length + (s.seq.hspages.toNat - held.sum) * 2 ^ 8
    | _ => match arrayAt o 0x2000 8 64 with
      | some (i, 0) => (NMap.at s.seq.saveBase i 0).toNat
      | some (i, _) => (NMap.at s.seq.savePages i 0).toNat
      | none => 0
  | _ => 0

/-- Whether a block answers an access (R319, R446, R475). -/
def State.blockOpen (s : State) (src blk : Nat) : Bool :=
  if blk ≤ 1 then s.earlyOpen src
  else if blk = 2 || blk = 8 then s.bootOpen src
  else if blk = 7 then src = 0 && s.host.ready
  else s.regOpen src

/-- The register of 64 bits at an offset of BAR0. -/
def State.wide (s : State) (off : Nat) : Option Nat := s.reg64 (off / 2 ^ 16) (off % 2 ^ 16)

/-- The 32-bit word at an offset of BAR0, as it stands. -/
def State.bar0Word (s : State) (off : Nat) : Nat :=
  let blk := off / 2 ^ 16
  let o := off % 2 ^ 16
  match s.wide off, (if off % 8 = 4 then s.wide (off - 4) else none) with
  | some v, _ => v % 2 ^ 32
  | _, some v => v / 2 ^ 32
  | none, none => if blk ≤ 1 then s.hostWord blk o else if blk ≤ 6 then s.controlWord blk o else if blk ≤ 0xA then s.systemWord blk o else s.memoryWord blk o

/-- A 4-byte word of the BAR4 page of an instance (R346, R354, R506). -/
def State.pageWord (s : State) (i o : Nat) : Nat :=
  let x := s.inst i
  let b := x.mb
  if o < 0xFFC then ofLe (NMap.bytes 0 b.cmd o 4)
  else if o = 0x1000 then b.rspToken.toNat
  else if o = 0x1004 then b.rspStatus.toNat + b.rspLen.toNat * 2 ^ 16
  else if o = 0x1008 then x.gen.toNat
  else if 0x1010 ≤ o && o < 0x1FF0 then leAt b.rspPayload (o - 0x1010) 4
  else if o = 0x1FF8 then b2n b.running.isSome + 2 * b2n b.dropped
  else if o = 0x1FFC then b.done.toNat
  else if o = 0x2010 then x.ring.sqhead.toNat
  else if o = 0x2100 then b2n x.ring.cqmask + 2 * b2n x.ring.eqmask + x.ring.cqcnt.toNat * 2 ^ 8 + x.ring.cqtime.toNat * 2 ^ 16
  else 0

/-- Whether a word of a page answers now: the mailbox where it answers, the ring words from the endpoint's start on (R319). -/
def State.pageOpen (s : State) (i o : Nat) : Bool := i < 64 && (if o < 0x2000 then s.mbAnswers i else s.ringsOpen)

/-- The group of REEL.CSTAT that an offset of BAR0 lies in, and the register in it. -/
def cstatAt (off : Nat) : Option (Nat × Nat) :=
  if off / 2 ^ 16 = 0x0F then (arrayAt (off % 2 ^ 16) 0x1000 0x20 128).map (fun e => (e.1, e.2 / 8)) else none

/-- A 64-bit register as a read takes it. A register of REEL.CSTAT comes from one snapshot of its group, which is taken afresh at the read of a
register that has been read from the last one (R199, R444; DESIGN CHOICE, log 140). -/
def State.takeWide (s : State) (off v : Nat) : Nat × State :=
  match cstatAt off with
  | none => (v, s)
  | some (n, k) =>
    let put := fun (left : List Nat) (vals : List Nat) => { s with latch := { s.latch with groups := NMap.ins s.latch.groups n (left, vals) } }
    let (left, vals) := NMap.at s.latch.groups n ([], [])
    if left.contains k then (vals.getD k 0, put (left.erase k) vals)
    else (v, put ((List.range 4).erase k) ((List.range 4).map (fun j => (s.wide (off / 32 * 32 + 8 * j)).getD 0)))

/-- A 4-byte read: the low half of a 64-bit register latches its high half for the next read of that register (R444). -/
def State.readWord (s : State) (off : Nat) : Nat × State :=
  match s.wide off with
  | some v =>
    let (v, s) := s.takeWide off v
    (v % 2 ^ 32, { s with latch := { s.latch with high := NMap.ins s.latch.high off (BitVec.ofNat 32 (v / 2 ^ 32)) } })
  | none =>
    match (if off % 8 = 4 then s.wide (off - 4) else none), NMap.find s.latch.high (off - 4) with
    | some _, some h => (h.toNat, { s with latch := { s.latch with high := NMap.del s.latch.high (off - 4) } })
    | some v, none =>
      let (v, s) := s.takeWide (off - 4) v
      (v / 2 ^ 32, s)
    | none, _ => (s.bar0Word off, s)

/-- An 8-byte read: a 64-bit register whole, or the two words that stand there. -/
def State.readPair (s : State) (off : Nat) : Nat × State :=
  match s.wide off with
  | some v => s.takeWide off v
  | none => (s.bar0Word off + s.bar0Word (off + 4) * 2 ^ 32, s)

/-- A read of a register of BAR0 that its block answers; that of CAD.BEAT latches the phase (R303). -/
def State.readBar0 (s : State) (read : BarRead) : Nat × State :=
  let (v, s) := if read.size = 4 then s.readWord read.off else s.readPair read.off
  (v, if read.off = 0x030018 then { s with cad := { s.cad with phaseLatch := s.cad.phase } } else s)

/-- COUNTER_LOW_READ: a read of BAR0, or of a BAR4 page behind it at 2^26 + 2^16 times its number. One of another size or alignment reads as
zero (R303, R444, R505). -/
def execCounterLowRead (src : Nat) (read : BarRead) (s : State) : Out :=
  .next (
    let answer := fun (r : Nat × State) => r.2.send (.readCompletion (leBytes read.size r.1) false)
    let off := read.off
    if (read.size ≠ 4 && read.size ≠ 8) || off % read.size ≠ 0 then answer (0, s)
    else if 2 ^ 26 ≤ off then
      let i := (off - 2 ^ 26) / 2 ^ 16
      let word := fun (o : Nat) => if s.pageOpen i o then s.pageWord i o else 0
      let o := off % 2 ^ 16
      answer (word o + (if read.size = 8 then word (o + 4) * 2 ^ 32 else 0), s)
    else if !s.blockOpen src (off / 2 ^ 16) then answer (0, s)
    else answer (s.readBar0 read))

/-! ## Writing -/

/-- The state that a command's effect leaves, where it has one. -/
def after (o : Out) (s : State) : State :=
  match o with
  | .next t => t
  | _ => s

/-- The HOST block: a ring's vectors, its flags, and the MSI-X table, where an unmasked pending vector is sent (R323, R337, R338,
R345). -/
def State.writeRing (s : State) (i k v : Nat) : State :=
  let x := s.inst i
  match k with
  | 0x18 => s.writeRingCfg i (BitVec.ofNat 32 v)
  | 0x1C => if x.ring.en || x.entries ≠ [] then s
    else s.updInst i (fun x => { x with ring := { x.ring with cqvec := BitVec.ofNat 11 v, eqvec := BitVec.ofNat 11 (v / 2 ^ 16) } })
  | 0x30 => s.updInst i (fun x => { x with ring := { x.ring with
      overrun := x.ring.overrun && !bit v 1
      eqdrop := clr16 x.ring.eqdrop (v / 2 ^ 16) } })
  | _ => s

/-- A word of an MSI-X entry written; all 128 bits are kept and read back, and an unmasked vector that waits is sent (R338, R345; DESIGN
CHOICE, log 142). -/
def State.writeMsix (s : State) (n k v : Nat) : State :=
  let old := NMap.at s.host.msix n msixReset
  let new := BitVec.ofNat 128 (setFld old.toNat (32 * k) 32 v)
  let s := { s with host := { s.host with msix := NMap.put msixReset s.host.msix n new } }
  if !new.getLsbD 96 && s.host.pba.contains n then
    ({ s with host := { s.host with pba := s.host.pba.filter (fun p => p ≠ n) } }).interrupt n
  else s

def State.writeHost (s : State) (o v : Nat) : State :=
  if o = 4 then { s with host := { s.host with quiesce := bit v 0 } }
  else match arrayAt o 0x1000 0x40 64, arrayAt o 0x8000 16 2048 with
    | some (i, k), _ => s.writeRing i k v
    | _, some (n, k) => s.writeMsix n (k / 4) v
    | _, _ => s

/-- DPORT.CTRL, where a reserved value discards the write, and DPORT.STAT (R347). -/
def State.writeDport (s : State) (o v : Nat) : State :=
  let d := s.dport
  match o with
  | 8 => if 2 ≤ fld v 0 2 || 2 ≤ fld v 2 2 || 2 ≤ fld v 4 2 then s
    else { s with dport := { d with width := BitVec.ofNat 2 v, inc := BitVec.ofNat 2 (v / 4), space := BitVec.ofNat 2 (v / 16) } }
  | 0x10 => { s with dport := { d with range := d.range && !bit v 0, poison := d.poison && !bit v 1, size := d.size && !bit v 2 } }
  | _ => s

/-- A period that CAD.PERIOD and PERS.CADPERIOD take. -/
def periodOk (v : Nat) : Bool := 5000 ≤ v % 2 ^ 30 && v % 2 ^ 30 ≤ 10 ^ 9

def State.writeCad (s : State) (o v : Nat) : State :=
  let c := s.cad
  match o with
  | 0 => after (execCadSourceChange 0 (BitVec.ofNat 32 v) s) s
  | 4 => if periodOk v then { s with cad := { c with period := BitVec.ofNat 30 v } } else s
  | 8 => { s with cad := { c with txlinks := BitVec.ofNat 24 v } }
  | 0x40 => after (execCadClr 0 (BitVec.ofNat 32 v) s) s
  | 0x44 => if 13 ≤ fld v 16 4 then s else { s with cad := { c with div := BitVec.ofNat 16 v, log2 := BitVec.ofNat 4 (v / 2 ^ 16) } }
  | _ => s

/-- The limits of FOEHN and PERS: in range, and above the base figures only where the variant grants it (R424, R454, R508). -/
def sustIn (v peak : Nat) : Bool := 1800 ≤ v && v ≤ 3200 && v ≤ peak
def peakIn (v sust : Nat) : Bool := sust ≤ v && v ≤ 4000

def State.writeFoehn (s : State) (o v : Nat) : State :=
  let w := v % 2 ^ 12
  let f := s.foehn
  match o with
  | 0 => if sustIn w f.peak.toNat && (w ≤ 2800 || s.variant.getLsbD 2) then { s with foehn := { f with sust := BitVec.ofNat 12 w } } else s
  | 4 => if peakIn w f.sust.toNat && (w ≤ 3600 || s.variant.getLsbD 2) then { s with foehn := { f with peak := BitVec.ofNat 12 w } } else s
  | 12 => after (execFoehnClr 0 (BitVec.ofNat 32 v) s) s
  | _ => match arrayAt o 0x100 8 64 with
    | some (n, 0) => s.writeSector n v
    | _ => s

def State.writeErr (s : State) (o v : Nat) : State :=
  match o with
  | 0 => { s with err := { s.err with funit := BitVec.ofNat 32 v } }
  | 4 => s.writeFctrl (BitVec.ofNat 32 v)
  | _ => match arrayAt o 0x1000 4 128, arrayAt o 0x1200 4 256 with
    | some (n, _), _ => s.updCluster n (fun c => { c with ce := clr16 c.ce v, ue := clr16 c.ue (v / 2 ^ 16) })
    | _, some (n, _) => s.updSlice n (fun c => { c with ce := clr16 c.ce v, ue := clr16 c.ue (v / 2 ^ 16) })
    | _, _ => s

/-- A write of the levels of Gale, which is accepted in MANUF, PROVISIONED and DEBUG and has no level 3 (R457, R463, R508). -/
def State.writeGalepol (s : State) (v : Nat) : State :=
  let open_ := s.sec.lcs = 0 || s.sec.lcs = 1 || s.sec.lcs = 3
  if !open_ || (List.range 7).any (fun k => fld v (2 * k) 2 = 3) then s
  else { s with pers := { s.pers with galepol := BitVec.ofNat 14 v } }.measurePers

def State.writeSec (s : State) (o v : Nat) : State :=
  match o with
  | 0x18 => s.writeGalepol v
  | 0x1C => { s with sec := { s.sec with seen := s.sec.seen &&& ~~~(BitVec.ofNat 7 (v / 2 ^ 8)) } }
  | _ => s

def State.writeBoot (s : State) (o v : Nat) : State :=
  match o with
  | 0x10 => s.writeBootCtrl (BitVec.ofNat 32 v)
  | 0x20 => s.writeStage (bit v 0) (bit v 1)
  | _ => s

def State.writeBist (s : State) (o v : Nat) : State :=
  match o with
  | 0 => if s.bist.busy then s else { s with bist := { s.bist with unit := BitVec.ofNat 32 v } }
  | 4 => s.writeBistCtrl (BitVec.ofNat 32 v)
  | _ => s

/-- The PERS block returned to its reset values, but for GALEPOL while it is read-only (R508). -/
def State.persDefaults (s : State) : State :=
  let keep := s.sec.lcs = 2 || s.sec.lcs = 4
  let d : Pers := {}
  { s with pers := { d with
    galepol := if keep then s.pers.galepol else d.galepol
    failcnt := s.pers.failcnt
    bootcnt := s.pers.bootcnt } }.measurePers

/-- PERS_DEFAULTS: a write of PERS.CTRL. -/
def execPersDefaults (src : Nat) (v : BitVec 32) (s : State) : Out :=
  .next (if s.regOpen src && v.getLsbD 0 then s.persDefaults else s)

/-- A quota as written: 13 to 15 set 12 (R256, R508). -/
def quotaOf (v : Nat) : BitVec 4 := BitVec.ofNat 4 (min 12 (v % 16))

/-- Power, link and cadence settings; they retake measurement M4 (R508, R509). -/
def State.writePers (s : State) (o v : Nat) : State :=
  let p := s.pers
  let put := fun (q : Pers) => { s with pers := q }.measurePers
  match o with
  | 0 => if sustIn (v % 2 ^ 12) p.peak.toNat then put { p with sust := BitVec.ofNat 12 v } else s
  | 4 => if peakIn (v % 2 ^ 12) p.sust.toNat then put { p with peak := BitVec.ofNat 12 v } else s
  | 8 => put { p with aelid := BitVec.ofNat 12 v }
  | 12 => put { p with aelen := BitVec.ofNat 24 v }
  | 0x10 => if 24 ≤ fld v 4 5 then s
    else put { p with cadSrc := BitVec.ofNat 2 v, cadLeader := bit v 2, cadOuten := bit v 3, cadRxlink := BitVec.ofNat 5 (v / 16) }
  | 0x14 => if periodOk v then put { p with cadPeriod := BitVec.ofNat 30 v } else s
  | 0x18 => put { p with cadTx := BitVec.ofNat 24 v }
  | 0x1C => if 13 ≤ fld v 16 4 then s else put { p with snapDiv := BitVec.ofNat 16 v, snapLog2 := BitVec.ofNat 4 (v / 2 ^ 16) }
  | 0x30 => s.writeGalepol v
  | 0x34 => { s with pers := { p with bringup := bit v 0 } }
  | 0x3C => if bit v 0 then s.persDefaults else s
  | _ => match arrayAt o 0x100 4 256 with
    | some (n, _) => { s with pers := { p with quota := NMap.put 8 p.quota n (quotaOf v) } }
    | none => s

/-- The LLC block: quotas, thresholds, near-home ranges; the pages of a range change only while it is disabled (R238, R256). -/
def State.writeLlc (s : State) (o v : Nat) : State :=
  match o with
  | 0 => after (execLlcClr 0 (BitVec.ofNat 32 v) s) s
  | 0x10 => after (execLlcSel 0 (BitVec.ofNat 32 v) s) s
  | _ => match arrayAt o 0x40 4 7, arrayAt o 0x400 4 256, arrayAt o 0x800 0x10 64 with
    | some (c, _), _, _ => { s with llc := { s.llc with thrash := NMap.put 0 s.llc.thrash c (BitVec.ofNat 7 v) } }
    | _, some (n, _), _ => { s with llc := { s.llc with quota := NMap.put 8 s.llc.quota n (quotaOf v) } }
    | _, _, some (i, k) =>
      let r := NMap.at s.llc.nh i {}
      let put := fun (r : NearHome) => { s with llc := { s.llc with nh := NMap.put {} s.llc.nh i r } }
      (match k with
      | 0 => put { r with base := BitVec.ofNat 19 v }
      | 4 => put { r with limit := BitVec.ofNat 19 v }
      | 8 => after (execNearHomeEnable 0 i (BitVec.ofNat 32 v) s) s
      | _ => s)
    | _, _, _ => s

/-- The HBM block; MCTRL without GO sets its fields while no run is under way (R269). -/
def State.writeHbm (s : State) (o v : Nat) : State :=
  let w := BitVec.ofNat 32 v
  match o with
  | 0x10 => after (execHbmFence 0 w s) s
  | 0x20 =>
    if !bit v 30 then after (execHbmRetire 0 w s) s
    else if bit v 29 then after (execHbmRetireUndoChannel 0 w s) s
    else after (execHbmRetireUndoPage 0 w s) s
  | 0x40 =>
    if bit v 31 then after (execHbmMargin 0 w s) s
    else if s.hbm.mgo then s
    else { s with hbm := { s.hbm with
      mpch := BitVec.ofNat 10 v, mbit := BitVec.ofNat 6 (v / 2 ^ 10), mdeskew := BitVec.ofNat 6 (v / 2 ^ 16), mvddq := BitVec.ofNat 5 (v / 2 ^ 22) } }
  | _ => match arrayAt o 0x2000 4 1024 with
    | some (n, _) => s.updPch n (fun p => { p with ce := clr16 p.ce v, ue := clr16 p.ue (v / 2 ^ 16) })
    | none => s

/-- One link after AEL.EN has changed: disabled with a going-down message, or in training (R369, R372, R378). -/
def State.enableLink (s : State) (l : Nat) : State :=
  let k := s.link l
  if s.ael.en.getLsbD l then (if k.state = 3 then s.setLink l { k with state := 1, trainAt := s.clock.now } else s)
  else if k.state = 2 then (s.sendControl l false [goingDownMessage 0]).linkDown l
  else s.setLink l { k with state := 3, downAt := none, reported := false }

/-- The AEL block. A write that sets links which the variant does not grant is discarded (R393, R454). -/
def State.writeAel (s : State) (o v : Nat) : State :=
  match o with
  | 0 => { s with ael := { s.ael with id := BitVec.ofNat 12 v } }
  | 4 =>
    if fld v 12 12 ≠ 0 && !s.variant.getLsbD 1 then s
    else
      let s := { s with ael := { s.ael with en := BitVec.ofNat 24 v } }
      (List.range 24).foldl (fun (s : State) l => s.enableLink l) s
  | _ => match arrayAt o 0x100 0x10 24, arrayAt o 0x4000 4 4096, arrayAt o 0x8000 4 256, arrayAt o 0x9000 0x10 64 with
    | some (l, 4), _, _, _ => s.updLink l (fun k => { k with crc := clr16 k.crc v, replay := clr16 k.replay (v / 2 ^ 16) })
    | some (l, 8), _, _, _ => s.updLink l (fun k => { k with uncorr := clr16 k.uncorr v, widthchg := clr16 k.widthchg (v / 2 ^ 16) })
    | _, some (m, _), _, _ => { s with ael := { s.ael with route := NMap.put 0 s.ael.route m (BitVec.ofNat 24 v) } }
    | _, _, some (g, _), _ => { s with ael := { s.ael with mcast := NMap.put 0 s.ael.mcast g (BitVec.ofNat 25 v) } }
    | _, _, _, some (c, 8) => s.writeCollCtrl c (BitVec.ofNat 32 v)
    | _, _, _, _ => s

def State.writeD2d (s : State) (o v : Nat) : State :=
  if o = 0 then after (execD2dFence 0 (BitVec.ofNat 32 v) s) s
  else match arrayAt o 0x1000 0x10 160 with
    | some (n, 12) => s.updBundle n (fun b => { b with corr := clr16 b.corr v, disc := clr16 b.disc (v / 2 ^ 16) })
    | _ => s

/-- The SEQ block: the hot-set region changes only while no set is resident or loading (R301). -/
def State.writeSeq (s : State) (o v : Nat) : State :=
  let idle := s.seq.sets.all (fun e => e.2.state.toNat < 2)
  match o with
  | 0 => if idle then { s with seq := { s.seq with hsbase := BitVec.ofNat 19 v } } else s
  | 4 => if idle then { s with seq := { s.seq with hspages := BitVec.ofNat 20 v } } else s
  | _ => match arrayAt o 0x2000 8 64 with
    | some (i, 0) => { s with seq := { s.seq with saveBase := NMap.put 0 s.seq.saveBase i (BitVec.ofNat 19 v) } }
    | some (i, _) => { s with seq := { s.seq with savePages := NMap.put 0 s.seq.savePages i (BitVec.ofNat 16 v) } }
    | none => s

/-- A write of a 32-bit word of BAR0 that is no part of a 64-bit register. -/
def State.writeWord (s : State) (off v : Nat) : State :=
  let o := off % 2 ^ 16
  match off / 2 ^ 16 with
  | 0x01 => s.writeHost o v
  | 0x02 => s.writeDport o v
  | 0x03 => s.writeCad o v
  | 0x04 => s.writeFoehn o v
  | 0x05 => if o = 0 then after (execThermClr 0 (BitVec.ofNat 32 v) s) s else s
  | 0x06 => s.writeErr o v
  | 0x07 => s.writeSec o v
  | 0x08 => s.writeBoot o v
  | 0x09 => s.writeBist o v
  | 0x0A => s.writePers o v
  | 0x0B => s.writeLlc o v
  | 0x0C => s.writeHbm o v
  | 0x0D => s.writeAel o v
  | 0x0E => s.writeD2d o v
  | 0x0F => if o = 0 then after (execReelClr 0 (BitVec.ofNat 32 v) s) s else s
  | 0x10 => s.writeSeq o v
  | _ => s

/-- A write of a 64-bit register; none where the register takes no write of that width or is read-only. -/
def State.writeWide (s : State) (off v : Nat) : State :=
  let o := off % 2 ^ 16
  let base := BitVec.ofNat 64 (v / 4096 * 4096)
  let addr := BitVec.ofNat 56 v
  let ring := fun (i : Nat) (f : Ring → Ring) =>
    if (s.inst i).ring.en || (s.inst i).entries ≠ [] then s else s.updInst i (fun x => { x with ring := f x.ring })
  match off / 2 ^ 16 with
  | 0x01 => match arrayAt o 0x1000 0x40 64 with
    | some (i, 0) => ring i (fun g => { g with sqbase := base })
    | some (i, 8) => ring i (fun g => { g with cqbase := base })
    | some (i, 16) => ring i (fun g => { g with eqbase := base })
    | _ => s
  | 0x02 => { s with dport := { s.dport with addr := addr } }
  | 0x03 => match o with
    | 0x10 => { s with cad := { s.cad with losspol := BitVec.ofNat 64 v } }
    | 0x18 => after (execCadBeatPreset 0 (BitVec.ofNat 64 v) s) s
    | 0x48 => if addr.toNat % 16384 = 0 then { s with cad := { s.cad with snapaddr := addr } } else s
    | _ => s
  | 0x04 => match arrayAt o 0x100 8 64 with
    | some (n, 0) => s.writeSector n (v % 2 ^ 32)
    | _ => s
  | 0x0A => match o with
    | 0x20 => { s with pers := { s.pers with losspol := BitVec.ofNat 64 v } }.measurePers
    | 0x28 => if addr.toNat % 16384 = 0 then { s with pers := { s.pers with snapaddr := addr } }.measurePers else s
    | _ => s
  | 0x0D => match arrayAt o 0x9000 0x10 64 with
    | some (c, 0) => if (s.coll c).en then s else s.setColl c { s.coll c with desc := addr }
    | _ => s
  | _ => s

/-- A write of one half of a 64-bit register: the register is written with its other half as it stands. The upper halves of the FOEHN registers
hold reserved and read-only fields alone (R8, R424). -/
def State.writeHalf (s : State) (off v : Nat) : State :=
  match s.wide off, (if off % 8 = 4 then s.wide (off - 4) else none) with
  | some r, _ => s.writeWide off (setFld r 0 32 v)
  | _, some r => if off / 2 ^ 16 = 0x04 then s else s.writeWide (off - 4) (setFld r 32 32 v)
  | none, none => s.writeWord off v

/-- An access of BAR0: 4 bytes, or 8 bytes to one 64-bit register or to two words; CAD.SWBEAT takes 8 bytes only (R505). -/
def State.writeBar0 (s : State) (off size v : Nat) : State :=
  if size = 4 then s.writeHalf off (v % 2 ^ 32)
  else if off = 0x030028 then after (execSwbeat 0 (BitVec.ofNat 64 v) s) s
  else if (s.wide off).isSome then s.writeWide off v
  else (s.writeWord off (v % 2 ^ 32)).writeWord (off + 4) (v / 2 ^ 32)

/-- A word written to the BAR4 page of an instance (R324, R335, R338, R346, R354, R506). Bytes 0x0FF0 to 0x0FFB lie in the command area of R506 and
in no field of R354: they are stored and read back (DESIGN CHOICE, log 110). -/
def State.writePage (s : State) (i o v : Nat) : State :=
  let w := BitVec.ofNat 32 v
  if o < 0xFFC then s.updInst i (fun x => { x with mb := { x.mb with cmd := NMap.putBytes 0 x.mb.cmd o (leBytes 4 v) } })
  else if o = 0xFFC then s.go i w
  else if o = 0x1FF8 then s.updInst i (fun x => { x with mb := { x.mb with dropped := x.mb.dropped && !bit v 1 } })
  else if o = 0x2000 then after (execDoorbell i 4 w s) s
  else if o = 0x2004 then after (execCqdb i w s) s
  else if o = 0x2008 then after (execEqdb i w s) s
  else if o = 0x2100 then after (execIntctl i w s) s
  else s

/-- REGISTER_WRITE: BAR0 below 2^26; page i of BAR4 at 2^26 + 2^16 i (MODEL numbering). -/
def execRegisterWrite (src off size : Nat) (v : BitVec 64) (s : State) : Out :=
  .next (
    if !(size = 4 || size = 8) || off % size ≠ 0 then s
    else if off < 2 ^ 26 then (if s.blockOpen src (off / 2 ^ 16) then s.writeBar0 off size v.toNat else s)
    else
      let i := (off - 2 ^ 26) / 2 ^ 16
      let o := off % 2 ^ 16
      if !s.pageOpen i o then s
      else if size = 4 then s.writePage i o (v.toNat % 2 ^ 32)
      else if 0x2000 ≤ o then s
      else (s.writePage i o (v.toNat % 2 ^ 32)).writePage i (o + 4) (v.toNat / 2 ^ 32))

/-! ## Configuration space (R315, R317, R319, R321) -/

/-- A BAR of configuration space by the offset of its lower half: its number and the size of its window (R317). -/
def barAt (off : Nat) : Option (Nat × Nat) :=
  match off with
  | 0x10 => some (0, 2 ^ 26)
  | 0x18 => some (2, 2 ^ 20)
  | 0x20 => some (4, 2 ^ 22)
  | _ => none

/-- The bits of a word of configuration space that the manual fixes: each field's place, width and value. The offsets are those of
the PCI header, of the PCIe capability at 0x40, MSI-X at 0x80 and PASID at 0x100 (PRESUMED, log 105). -/
def State.configFields (s : State) (off : Nat) : List (Nat × Nat × Nat) :=
  let bar := fun (o : Nat) => (barAt o).map (fun b => (NMap.at s.host.bars b.1 0).toNat)
  match bar off, (if off < 4 then none else bar (off - 4)) with
  | some v, _ => [(0, 32, v % 2 ^ 32 + 4)]
  | _, some v => [(0, 32, v / 2 ^ 32)]
  | none, none => match off with
    | 0x08 => [(8, 24, 0x120000)]
    | 0x44 => [(0, 3, 2)]
    | 0x48 => [(5, 3, s.host.mps.toNat)]
    | 0x68 => [(6, 1, b2n s.host.atomicOps)]
    | 0x80 => [(16, 11, 2047), (30, 1, b2n s.host.msixMask), (31, 1, b2n s.host.msixEn)]
    | 0x84 => [(0, 32, 0x018000)]
    | 0x88 => [(0, 32, 0x017000)]
    | 0x104 => [(1, 2, 0), (16, 1, b2n s.host.pasidEn), (17, 2, 0)]
    | _ => []

/-- A write of a word of configuration space: a BAR takes the base that its size allows, Max_Payload_Size one of its three codes
(R315, R317, R321). -/
def State.writeConfig (s : State) (off v : Nat) : State :=
  let base := fun (b : Nat × Nat) (w : Nat) => { s with host := { s.host with bars := NMap.put 0 s.host.bars b.1 (BitVec.ofNat 64 (alignDown w b.2)) } }
  let old := fun (b : Nat × Nat) => (NMap.at s.host.bars b.1 0).toNat
  match barAt off, (if off < 4 then none else barAt (off - 4)) with
  | some b, _ => base b (setFld (old b) 0 32 v)
  | _, some b => base b (setFld (old b) 32 32 v)
  | none, none => match off with
    | 0x48 => if fld v 5 3 ≤ 2 then { s with host := { s.host with mps := BitVec.ofNat 3 (fld v 5 3) } } else s
    | 0x68 => { s with host := { s.host with atomicOps := bit v 6 } }
    | 0x80 => { s with host := { s.host with msixMask := bit v 30, msixEn := bit v 31 } }
    | 0x104 => { s with host := { s.host with pasidEn := bit v 16 } }
    | _ => s

/-- CONFIGURATION_REQUEST: the bits that the manual fixes; every other bit of configuration space reads as a free value. -/
def execConfigurationRequest (off : Nat) (write : Bool) (v : BitVec 32) (s : State) : Out :=
  .next (
    if !s.earlyOpen 0 || off % 4 ≠ 0 || 4096 ≤ off then s
    else if write then s.writeConfig off v.toNat
    else
      let (f, s) := s.draw
      let r := (s.configFields off).foldl (fun r e => setFld r e.1 e.2.1 e.2.2) (f.toNat % 2 ^ 32)
      s.send (.readCompletion (leBytes 4 r) false))

/-! ## STATUS of the sideband (R500) -/

/-- VDM_STATUS. -/
def execVdmStatus (s : State) : Out :=
  .next (s.vdm 1 (fun s => (leBytes 4 s.hostStat ++ leBytes 4 s.bootStat ++ leBytes 4 s.stageReg ++ leBytes 4 s.errStat, s)))

end Sys2Proof.Machine
end

