-- ==== Sys2Proof/Machine/Dispatch.lean ====
section
/-! DEFINITION. The dispatch of every command to its meaning. -/

namespace Sys2Proof.Machine
open Sys2Proof

def exec (i : Instr) (s : State) : Host.Outcome State Fault Refusal :=
  match i with
  | .nop core slot w => Sys2Proof.Machine.execNop core slot w s
  | .br core slot w => Sys2Proof.Machine.execBr core slot w s
  | .jmp core slot w => Sys2Proof.Machine.execJmp core slot w s
  | .call core slot w => Sys2Proof.Machine.execCall core slot w s
  | .exit core slot w => Sys2Proof.Machine.execExit core slot w s
  | .barGroup core slot w => Sys2Proof.Machine.execBarGroup core slot w s
  | .barrierStall core slot => Sys2Proof.Machine.execBarrierStall core slot s
  | .waitGe core slot w => Sys2Proof.Machine.execWaitGe core slot w s
  | .ctrRd core slot w => Sys2Proof.Machine.execCtrRd core slot w s
  | .ctrSet core slot w => Sys2Proof.Machine.execCtrSet core slot w s
  | .ctrAdd core slot w => Sys2Proof.Machine.execCtrAdd core slot w s
  | .mmaWait core slot w => Sys2Proof.Machine.execMmaWait core slot w s
  | .rdsr core slot w => Sys2Proof.Machine.execRdsr core slot w s
  | .scalarInteger core slot w => Sys2Proof.Machine.execScalarInteger core slot w s
  | .scalarF32 core slot w => Sys2Proof.Machine.execScalarF32 core slot w s
  | .scalarIntegerImmediate core slot w => Sys2Proof.Machine.execScalarIntegerImmediate core slot w s
  | .movHi core slot w => Sys2Proof.Machine.execMovHi core slot w s
  | .vectorInteger core slot w => Sys2Proof.Machine.execVectorInteger core slot w s
  | .vectorF32 core slot w => Sys2Proof.Machine.execVectorF32 core slot w s
  | .vectorIntegerImmediate core slot w => Sys2Proof.Machine.execVectorIntegerImmediate core slot w s
  | .vectorF32Immediate core slot w => Sys2Proof.Machine.execVectorF32Immediate core slot w s
  | .cvt core slot w => Sys2Proof.Machine.execCvt core slot w s
  | .cmp core slot w => Sys2Proof.Machine.execCmp core slot w s
  | .maskLogic core slot w => Sys2Proof.Machine.execMaskLogic core slot w s
  | .tally core slot w => Sys2Proof.Machine.execTally core slot w s
  | .xlane core slot w => Sys2Proof.Machine.execXlane core slot w s
  | .laneFill core slot w => Sys2Proof.Machine.execLaneFill core slot w s
  | .laneGet core slot w => Sys2Proof.Machine.execLaneGet core slot w s
  | .lanePut core slot w => Sys2Proof.Machine.execLanePut core slot w s
  | .fold core slot w => Sys2Proof.Machine.execFold core slot w s
  | .ld core slot w => Sys2Proof.Machine.execLd core slot w s
  | .st core slot w => Sys2Proof.Machine.execSt core slot w s
  | .atom core slot w => Sys2Proof.Machine.execAtom core slot w s
  | .fence core slot w => Sys2Proof.Machine.execFence core slot w s
  | .invL1 core slot w => Sys2Proof.Machine.execInvL1 core slot w s
  | .pin core slot w => Sys2Proof.Machine.execPin core slot w s
  | .unpin core slot w => Sys2Proof.Machine.execUnpin core slot w s
  | .hintDead core slot w => Sys2Proof.Machine.execHintDead core slot w s
  | .lds core slot w => Sys2Proof.Machine.execLds core slot w s
  | .sts core slot w => Sys2Proof.Machine.execSts core slot w s
  | .wsumInit core slot w => Sys2Proof.Machine.execWsumInit core slot w s
  | .wsumAcc core slot w => Sys2Proof.Machine.execWsumAcc core slot w s
  | .wsumMac core slot w => Sys2Proof.Machine.execWsumMac core slot w s
  | .wsumAdd core slot w => Sys2Proof.Machine.execWsumAdd core slot w s
  | .wsumRed core slot w => Sys2Proof.Machine.execWsumRed core slot w s
  | .wsumCvt core slot w => Sys2Proof.Machine.execWsumCvt core slot w s
  | .cpAsync core slot w w1 => Sys2Proof.Machine.execCpAsync core slot w w1 s
  | .mmaAsync core slot w w1 => Sys2Proof.Machine.execMmaAsync core slot w w1 s
  | .mmaDrain core slot w w1 => Sys2Proof.Machine.execMmaDrain core slot w w1 s
  | .fetchCode core slot va => Sys2Proof.Machine.execFetchCode core slot va s
  | .runAhead core slot w path => Sys2Proof.Machine.execRunAhead core slot w path s
  | .runAheadStaged core idx => Sys2Proof.Machine.execRunAheadStaged core idx s
  | .copyDataLanded core id len => Sys2Proof.Machine.execCopyDataLanded core id len s
  | .mmaStart core => Sys2Proof.Machine.execMmaStart core s
  | .mmaComplete core => Sys2Proof.Machine.execMmaComplete core s
  | .drainStart core => Sys2Proof.Machine.execDrainStart core s
  | .drainComplete core => Sys2Proof.Machine.execDrainComplete core s
  | .contextKill inst idx => Sys2Proof.Machine.execContextKill inst idx s
  | .launchReady inst idx => Sys2Proof.Machine.execLaunchReady inst idx s
  | .dependencyPoll inst idx => Sys2Proof.Machine.execDependencyPoll inst idx s
  | .taskTake core => Sys2Proof.Machine.execTaskTake core s
  | .stealChoose cl inst idx => Sys2Proof.Machine.execStealChoose cl inst idx s
  | .stealRequest thief victim inst idx => Sys2Proof.Machine.execStealRequest thief victim inst idx s
  | .commitReservation cl => Sys2Proof.Machine.execCommitReservation cl s
  | .commitPoint core slot => Sys2Proof.Machine.execCommitPoint core slot s
  | .launchComplete inst idx => Sys2Proof.Machine.execLaunchComplete inst idx s
  | .coreLost core logicError => Sys2Proof.Machine.execCoreLost core logicError s
  | .drain unit => Sys2Proof.Machine.execDrain unit s
  | .drainTmaxExpiry unit => Sys2Proof.Machine.execDrainTmaxExpiry unit s
  | .reelClr src v => Sys2Proof.Machine.execReelClr src v s
  | .gets cl pa cls secs => Sys2Proof.Machine.execGets cl pa cls secs s
  | .getm cl pa cls secs => Sys2Proof.Machine.execGetm cl pa cls secs s
  | .upg cl pa cls => Sys2Proof.Machine.execUpg cl pa cls s
  | .getsec cl pa cls secs => Sys2Proof.Machine.execGetsec cl pa cls secs s
  | .putLine cl pa => Sys2Proof.Machine.execPut cl pa s
  | .rdna inst pa cls secs prio => Sys2Proof.Machine.execRdna inst pa cls secs prio s
  | .wrna inst pa cls data bulk => Sys2Proof.Machine.execWrna inst pa cls data bulk s
  | .atomf cl pa cls op ty x y => Sys2Proof.Machine.execAtomf cl pa cls op ty x y s
  | .dead cl pa => Sys2Proof.Machine.execDead cl pa s
  | .forwardReq cl pa => Sys2Proof.Machine.execForward cl pa s
  | .invalidation cl pa => Sys2Proof.Machine.execInvalidation cl pa s
  | .nearAtomic cl pa cls op ty x y => Sys2Proof.Machine.execNearAtomic cl pa cls op ty x y s
  | .retryResponse slice id => Sys2Proof.Machine.execRetryResponse slice id s
  | .hbmReadData pch id flip0 flip1 => Sys2Proof.Machine.execHbmReadData pch id flip0 flip1 s
  | .hbmBurstSlot pch => Sys2Proof.Machine.execHbmBurstSlot pch s
  | .patrol pa flip0 flip1 => Sys2Proof.Machine.execPatrol pa flip0 flip1 s
  | .recalibrationWindow stack chan => Sys2Proof.Machine.execRecalibrationWindow stack chan s
  | .hbmTemperatureRead stack temp => Sys2Proof.Machine.execHbmTemperatureRead stack temp s
  | .pseudoChannelFence pch => Sys2Proof.Machine.execPseudoChannelFence pch s
  | .hbmFence src v => Sys2Proof.Machine.execHbmFence src v s
  | .hbmRetire src v => Sys2Proof.Machine.execHbmRetire src v s
  | .hbmRetireUndoPage src v => Sys2Proof.Machine.execHbmRetireUndoPage src v s
  | .hbmRetireUndoChannel src v => Sys2Proof.Machine.execHbmRetireUndoChannel src v s
  | .hbmMargin src v => Sys2Proof.Machine.execHbmMargin src v s
  | .hbmMarginDone errs => Sys2Proof.Machine.execHbmMarginDone errs s
  | .llcClr src v => Sys2Proof.Machine.execLlcClr src v s
  | .llcSel src v => Sys2Proof.Machine.execLlcSel src v s
  | .nearHomeEnable src k v => Sys2Proof.Machine.execNearHomeEnable src k v s
  | .nearHomeFlushDone k => Sys2Proof.Machine.execNearHomeFlushDone k s
  | .thrashWindow => Sys2Proof.Machine.execThrashWindow s
  | .llcSliceFence slice => Sys2Proof.Machine.execLlcSliceFence slice s
  | .seqLayout inst idx => Sys2Proof.Machine.execSeqLayout inst idx s
  | .seqCreate inst idx => Sys2Proof.Machine.execSeqCreate inst idx s
  | .seqFree inst idx => Sys2Proof.Machine.execSeqFree inst idx s
  | .seqFork inst idx => Sys2Proof.Machine.execSeqFork inst idx s
  | .seqCommit inst idx => Sys2Proof.Machine.execSeqCommit inst idx s
  | .seqRollback inst idx => Sys2Proof.Machine.execSeqRollback inst idx s
  | .seqEvict inst idx => Sys2Proof.Machine.execSeqEvict inst idx s
  | .seqFetch inst idx => Sys2Proof.Machine.execSeqFetch inst idx s
  | .seqQuery inst idx => Sys2Proof.Machine.execSeqQuery inst idx s
  | .stepBoundary inst idx => Sys2Proof.Machine.execStepBoundary inst idx s
  | .slotZeroed inst layout slotNo => Sys2Proof.Machine.execSlotZeroed inst layout slotNo s
  | .modelRegister inst idx => Sys2Proof.Machine.execModelRegister inst idx s
  | .modelLoad inst idx => Sys2Proof.Machine.execModelLoad inst idx s
  | .modelEvict inst idx => Sys2Proof.Machine.execModelEvict inst idx s
  | .modelPin inst idx => Sys2Proof.Machine.execModelPin inst idx s
  | .modelUnpin inst idx => Sys2Proof.Machine.execModelUnpin inst idx s
  | .modelAcquire inst idx => Sys2Proof.Machine.execModelAcquire inst idx s
  | .modelRelease inst idx => Sys2Proof.Machine.execModelRelease inst idx s
  | .modelUnregister inst idx => Sys2Proof.Machine.execModelUnregister inst idx s
  | .restore pa block => Sys2Proof.Machine.execRestore pa block s
  | .restoreDone pa ok => Sys2Proof.Machine.execRestoreDone pa ok s
  | .save inst idx => Sys2Proof.Machine.execSave inst idx s
  | .doorbell inst size v => Sys2Proof.Machine.execDoorbell inst size v s
  | .cqdb inst v => Sys2Proof.Machine.execCqdb inst v s
  | .eqdb inst v => Sys2Proof.Machine.execEqdb inst v s
  | .entryFetch inst => Sys2Proof.Machine.execEntryFetch inst s
  | .launch inst idx => Sys2Proof.Machine.execLaunch inst idx s
  | .copy inst idx => Sys2Proof.Machine.execCopy inst idx s
  | .wait inst idx => Sys2Proof.Machine.execWait inst idx s
  | .fenceEntry inst idx => Sys2Proof.Machine.execFenceEntry inst idx s
  | .event inst idx => Sys2Proof.Machine.execEvent inst idx s
  | .taggedRelease inst idx => Sys2Proof.Machine.execTaggedRelease inst idx s
  | .cqCoalesceTimeout inst => Sys2Proof.Machine.execCqCoalesceTimeout inst s
  | .intctl inst v => Sys2Proof.Machine.execIntctl inst v s
  | .ringEnable src k v => Sys2Proof.Machine.execRingEnable src k v s
  | .ringDisable src k v => Sys2Proof.Machine.execRingDisable src k v s
  | .quiesce src v => Sys2Proof.Machine.execQuiesce src v s
  | .linkDown => Sys2Proof.Machine.execLinkDown s
  | .dataWindowWrite src off data allEnabled => Sys2Proof.Machine.execDataWindowWrite src off data allEnabled s
  | .dataWindowRead src off len allEnabled => Sys2Proof.Machine.execDataWindowRead src off len allEnabled s
  | .mbGo inst v => Sys2Proof.Machine.execMbGo inst v s
  | .query mb => Sys2Proof.Machine.execQuery mb s
  | .create mb => Sys2Proof.Machine.execCreate mb s
  | .config mb => Sys2Proof.Machine.execConfig mb s
  | .grant mb => Sys2Proof.Machine.execGrant mb s
  | .revoke mb => Sys2Proof.Machine.execRevoke mb s
  | .pagesAssign mb => Sys2Proof.Machine.execPagesAssign mb s
  | .pagesRelease mb => Sys2Proof.Machine.execPagesRelease mb s
  | .bind mb => Sys2Proof.Machine.execBind mb s
  | .tlbinv mb => Sys2Proof.Machine.execTlbinv mb s
  | .privateRange mb => Sys2Proof.Machine.execPrivateRange mb s
  | .reset mb => Sys2Proof.Machine.execReset mb s
  | .remove mb => Sys2Proof.Machine.execRemove mb s
  | .preempt mb => Sys2Proof.Machine.execPreempt mb s
  | .resume mb => Sys2Proof.Machine.execResume mb s
  | .secq mb => Sys2Proof.Machine.execSecq mb s
  | .evidence mb => Sys2Proof.Machine.execEvidence mb s
  | .enroll mb => Sys2Proof.Machine.execEnroll mb s
  | .keygenDone mb => Sys2Proof.Machine.execKeygenDone mb s
  | .certw mb => Sys2Proof.Machine.execCertw mb s
  | .certr mb => Sys2Proof.Machine.execCertr mb s
  | .licadd mb => Sys2Proof.Machine.execLicadd mb s
  | .licdel mb => Sys2Proof.Machine.execLicdel mb s
  | .nonce mb => Sys2Proof.Machine.execNonce mb s
  | .lcsDeployed mb => Sys2Proof.Machine.execLcsDeployed mb s
  | .lcsDebug mb => Sys2Proof.Machine.execLcsDebug mb s
  | .lcsReturn mb => Sys2Proof.Machine.execLcsReturn mb s
  | .lcsRetired mb => Sys2Proof.Machine.execLcsRetired mb s
  | .gclr mb => Sys2Proof.Machine.execGclr mb s
  | .modq mb => Sys2Proof.Machine.execModq mb s
  | .calx mb => Sys2Proof.Machine.execCalx mb s
  | .calw mb => Sys2Proof.Machine.execCalw mb s
  | .calcommit mb => Sys2Proof.Machine.execCalcommit mb s
  | .locate mb => Sys2Proof.Machine.execLocate mb s
  | .generationHoldExpiry inst => Sys2Proof.Machine.execGenerationHoldExpiry inst s
  | .cadInEdge => Sys2Proof.Machine.execCadInEdge s
  | .cadenceSymbol link hops leader beat => Sys2Proof.Machine.execCadenceSymbol link hops leader beat s
  | .swbeat src v => Sys2Proof.Machine.execSwbeat src v s
  | .cadBeatPreset src v => Sys2Proof.Machine.execCadBeatPreset src v s
  | .cadBeatRead src => Sys2Proof.Machine.execCadBeatRead src s
  | .cadSourceChange src v => Sys2Proof.Machine.execCadSourceChange src v s
  | .cadClr src v => Sys2Proof.Machine.execCadClr src v s
  | .cadenceLost => Sys2Proof.Machine.execCadenceLost s
  | .flitReceived link flit => Sys2Proof.Machine.execFlitReceived link flit s
  | .replayTimeout port => Sys2Proof.Machine.execReplayTimeout port s
  | .creditStall link vc => Sys2Proof.Machine.execCreditStall link vc s
  | .widthRequest link mask => Sys2Proof.Machine.execWidthRequest link mask s
  | .goingDown link reason => Sys2Proof.Machine.execGoingDown link reason s
  | .laneFailure link lane => Sys2Proof.Machine.execLaneFailure link lane s
  | .laneRetrained link lane good => Sys2Proof.Machine.execLaneRetrained link lane good s
  | .linkTrainingRetry link => Sys2Proof.Machine.execLinkTrainingRetry link s
  | .linkTrained link lanes peer credits => Sys2Proof.Machine.execLinkTrained link lanes peer credits s
  | .aeldonLinkDown link => Sys2Proof.Machine.execAeldonLinkDown link s
  | .linkReportedDown link => Sys2Proof.Machine.execLinkReportedDown link s
  | .packetRoute arrival residence p => Sys2Proof.Machine.execPacketRoute arrival residence p s
  | .write p => Sys2Proof.Machine.execWrite p s
  | .read p => Sys2Proof.Machine.execRead p s
  | .atomic p => Sys2Proof.Machine.execAtomic p s
  | .close p => Sys2Proof.Machine.execClose p s
  | .wack p => Sys2Proof.Machine.execWack p s
  | .rdata p => Sys2Proof.Machine.execRdata p s
  | .ares p => Sys2Proof.Machine.execAres p s
  | .reject p => Sys2Proof.Machine.execReject p s
  | .requestTimeout txid => Sys2Proof.Machine.execRequestTimeout txid s
  | .atomicOutcomeUnknown txid => Sys2Proof.Machine.execAtomicOutcomeUnknown txid s
  | .busyResend txid => Sys2Proof.Machine.execBusyResend txid s
  | .batchEntryTimeout key => Sys2Proof.Machine.execBatchEntryTimeout key s
  | .dedupEntryExpiry src txid => Sys2Proof.Machine.execDedupEntryExpiry src txid s
  | .collEnable src c v => Sys2Proof.Machine.execCollEnable src c v s
  | .collRunStart c => Sys2Proof.Machine.execCollRunStart c s
  | .readyToken c => Sys2Proof.Machine.execReadyToken c s
  | .collChunk c data => Sys2Proof.Machine.execCollChunk c data s
  | .collStepTimeout c => Sys2Proof.Machine.execCollStepTimeout c s
  | .eddyFlit bundle dir granules => Sys2Proof.Machine.execEddyFlit bundle dir granules s
  | .bundleFence bundle => Sys2Proof.Machine.execBundleFence bundle s
  | .d2dFence src v => Sys2Proof.Machine.execD2dFence src v s
  | .bridgeSegmentFence die seg => Sys2Proof.Machine.execBridgeSegmentFence die seg s
  | .foehnUpdate sense estMw ampsMa => Sys2Proof.Machine.execFoehnUpdate sense estMw ampsMa s
  | .correctionFactor measMw estMw => Sys2Proof.Machine.execCorrectionFactor measMw estMw s
  | .diverged => Sys2Proof.Machine.execDiverged s
  | .floorHoldRelease => Sys2Proof.Machine.execFloorHoldRelease s
  | .unattainableClear => Sys2Proof.Machine.execUnattainableClear s
  | .peakExceeded measMw => Sys2Proof.Machine.execPeakExceeded measMw s
  | .clockChange sector => Sys2Proof.Machine.execClockChange sector s
  | .sectorGate src n v => Sys2Proof.Machine.execSectorGate src n v s
  | .sectorUngate src n v => Sys2Proof.Machine.execSectorUngate src n v s
  | .foehnClr src v => Sys2Proof.Machine.execFoehnClr src v s
  | .thermalSample sensor temp => Sys2Proof.Machine.execThermalSample sensor temp s
  | .preTripExit sector => Sys2Proof.Machine.execPreTripExit sector s
  | .sensorFailed sensor => Sys2Proof.Machine.execSensorFailed sensor s
  | .squall sensor temp => Sys2Proof.Machine.execSquall sensor temp s
  | .thermClr src v => Sys2Proof.Machine.execThermClr src v s
  | .droop rail => Sys2Proof.Machine.execDroop rail s
  | .errFence src v => Sys2Proof.Machine.execErrFence src v s
  | .unitFenced unit failure => Sys2Proof.Machine.execUnitFenced unit failure s
  | .packageFatal unit => Sys2Proof.Machine.execPackageFatal unit s
  | .counterSaturated off => Sys2Proof.Machine.execCounterSaturated off s
  | .counterLowRead src read => Sys2Proof.Machine.execCounterLowRead src read s
  | .galeDetection source unpowered => Sys2Proof.Machine.execGaleDetection source unpowered s
  | .firmwareIntegrityCheck running => Sys2Proof.Machine.execFirmwareIntegrityCheck running s
  | .coldStart inputs => Sys2Proof.Machine.execColdStart inputs s
  | .warmReset pinHeld inputs => Sys2Proof.Machine.execWarmReset pinHeld inputs s
  | .startStepDone r => Sys2Proof.Machine.execStartStepDone r s
  | .fuseSvn => Sys2Proof.Machine.execFuseSvn s
  | .arm src v => Sys2Proof.Machine.execArm src v s
  | .verifyDone => Sys2Proof.Machine.execVerifyDone s
  | .stageErase src v => Sys2Proof.Machine.execStageErase src v s
  | .stageEraseDone => Sys2Proof.Machine.execStageEraseDone s
  | .bootRecover src v => Sys2Proof.Machine.execBootRecover src v s
  | .bistGo src v => Sys2Proof.Machine.execBistGo src v s
  | .scanDone failed => Sys2Proof.Machine.execScanDone failed s
  | .bistDone fails us => Sys2Proof.Machine.execBistDone fails us s
  | .persDefaults src v => Sys2Proof.Machine.execPersDefaults src v s
  | .registerWrite src off size v => Sys2Proof.Machine.execRegisterWrite src off size v s
  | .pwrEnAssert => Sys2Proof.Machine.execPwrEnAssert s
  | .pwrEnDeassert vinMv => Sys2Proof.Machine.execPwrEnDeassert vinMv s
  | .vinUp vinMv => Sys2Proof.Machine.execVinUp vinMv s
  | .prsntNBreak => Sys2Proof.Machine.execPrsntNBreak s
  | .mctpControl cmd data => Sys2Proof.Machine.execMctpControl cmd data s
  | .pldmCommand ty cmd data => Sys2Proof.Machine.execPldmCommand ty cmd data s
  | .platformEventMessage sensor => Sys2Proof.Machine.execPlatformEventMessage sensor s
  | .vdmStatus => Sys2Proof.Machine.execVdmStatus s
  | .vdmEvidence nonce => Sys2Proof.Machine.execVdmEvidence nonce s
  | .vdmErase => Sys2Proof.Machine.execVdmErase s
  | .vdmWrite off data => Sys2Proof.Machine.execVdmWrite off data s
  | .vdmArm => Sys2Proof.Machine.execVdmArm s
  | .vdmWarm => Sys2Proof.Machine.execVdmWarm s
  | .vdmRecover => Sys2Proof.Machine.execVdmRecover s
  | .logread index => Sys2Proof.Machine.execLogread index s
  | .vdmLocate on => Sys2Proof.Machine.execVdmLocate on s
  | .droopStretchEnd sector => Sys2Proof.Machine.execDroopStretchEnd sector s
  | .galeSourceCleared source => Sys2Proof.Machine.execGaleSourceCleared source s
  | .dataLinkLayerUp width rate flit => Sys2Proof.Machine.execDataLinkLayerUp width rate flit s
  | .hotSwapTrip => Sys2Proof.Machine.execHotSwapTrip s
  | .configurationRequest off write v => Sys2Proof.Machine.execConfigurationRequest off write v s
  | .entdaa addr => Sys2Proof.Machine.execEntdaa addr s
  | .ackReportTimer port => Sys2Proof.Machine.execAckReportTimer port s
  | .mailboxCommandEnd mb => Sys2Proof.Machine.execMailboxCommandEnd mb s
  | .recalibrationWindowEnd stack chan => Sys2Proof.Machine.execRecalibrationWindowEnd stack chan s
  | .resetPinRelease inputs => Sys2Proof.Machine.execResetPinRelease inputs s

end Sys2Proof.Machine
end

