-- ==== Sys2Proof/Machine/Tick.lean ====
section
/-! DEFINITION. One nanosecond of the block's own clock: the time, the phase within the beat, the cycle counters of the sectors and
the seconds of the battery domain (R73, R303, R409, R461, R491), and what goes on by itself: edges whose delay is over, control
commands and drains, commit writes, writes of the data port, sends of collectives, and since when groups are ready. -/

namespace Sys2Proof.Machine

/-- The clock at which a sector's cycles run: the one in effect, or while its periods are stretched a lower one with periods of 1.0 ns at most
(R421). -/
def SectorClk.rate (k : SectorClk) (sector : Nat) : Nat :=
  if k.stretched && 1000 < k.mhz then max 1000 (min k.mhz (Config.stretchedClock sector k.mhz)) else k.mhz

/-- The cycles of a sector in one nanosecond, the fraction kept in thousandths. -/
def SectorClk.tick (k : SectorClk) (sector : Nat) : SectorClk :=
  let r := k.frac + k.rate sector
  { k with cycles := k.cycles + r / 1000, frac := r % 1000 }

/-- The phase one nanosecond later: it saturates (R303). -/
def phaseTick (p : BitVec 32) : BitVec 32 := if p = 0xFFFFFFFF then p else p + 1

/-- Time one nanosecond on. The seconds counter runs whether the rails are up or not; phase and cycles need them. -/
def State.pass (s : State) : State :=
  let now := s.clock.now + 1
  let s := { s with
    clock := { s.clock with now := now }
    sec := { s.sec with seconds := if now % 10 ^ 9 = 0 then s.sec.seconds + 1 else s.sec.seconds } }
  if !s.board.rails then s
  else
    let s := { s with cad := { s.cad with phase := phaseTick s.cad.phase } }
    (List.range 64).foldl (fun (s : State) n => s.setSectorClk n ((s.sectorClk n).tick n)) s

/-- The watchdogs of groups that wait for a restore stand still: what the clock of their core has counted since an earlier state is added to
where they began (R432; DESIGN CHOICE, log 129). -/
def State.holdWatchdogs (s t : State) : State :=
  if s.seq.restores = [] then t
  else s.cores.foldl (fun (t : State) e => e.2.slots.foldl (fun (t : State) g =>
    if g.2.barSince.isSome && s.waitsRestore e.1 g.1 then
      t.updGroup e.1 g.1 (fun x => { x with barSince := x.barSince.map (fun c => c + (t.cycles e.1 - s.cycles e.1)) })
    else t) t) t

/-- What has waited and can go on: control commands (R29), commit writes (R192), writes of the data port (R342), sends of collectives
(R391), a snapshot record under way (R313), and the groups that have become ready noted (R44). -/
def State.goOn (s : State) : State :=
  let s := s.settleControls.drainPort.driveSnap
  let s := (s.clusters.filter (fun e => e.2.commitBuf ≠ [])).foldl (fun (s : State) e => s.drainCommits e.1) s
  let s := (s.ael.coll.filter (fun e => e.2.run.isSome)).foldl (fun (s : State) e => (s.trySend e.1).tryEnd e.1) s
  (s.cores.filter (fun e => e.2.slots ≠ [])).foldl (fun (s : State) e => s.noteReady e.1) s

/-- One nanosecond. -/
def State.tick (s : State) : State :=
  let s := s.holdWatchdogs s.pass
  if !s.board.rails then s else s.takeEdges.goOn

end Sys2Proof.Machine
end

