-- ==== Sys2Proof/WellFormed.lean ====
section
/-! DEFINITION. Which commands name only units that the package has (R12, R31, R32, R35, R348). -/

namespace Sys2Proof

/-- Whether every unit that a command names exists: cores 0 to 8191 and their 16 slots, clusters 0 to 127, slices 0 to 255,
pseudo-channels 0 to 1023, stacks 0 to 15, links 0 to 23, bundles 0 to 159, sectors 0 to 63, sensors 0 to 279, and
instances 0 to 63. -/
def Instr.wf (i : Instr) : Bool :=
  match i with
  | .nop core slot _ => core < 8192 && slot < 16
  | .br core slot _ => core < 8192 && slot < 16
  | .jmp core slot _ => core < 8192 && slot < 16
  | .call core slot _ => core < 8192 && slot < 16
  | .exit core slot _ => core < 8192 && slot < 16
  | .barGroup core slot _ => core < 8192 && slot < 16
  | .barrierStall core slot => core < 8192 && slot < 16
  | .waitGe core slot _ => core < 8192 && slot < 16
  | .ctrRd core slot _ => core < 8192 && slot < 16
  | .ctrSet core slot _ => core < 8192 && slot < 16
  | .ctrAdd core slot _ => core < 8192 && slot < 16
  | .mmaWait core slot _ => core < 8192 && slot < 16
  | .rdsr core slot _ => core < 8192 && slot < 16
  | .scalarInteger core slot _ => core < 8192 && slot < 16
  | .scalarF32 core slot _ => core < 8192 && slot < 16
  | .scalarIntegerImmediate core slot _ => core < 8192 && slot < 16
  | .movHi core slot _ => core < 8192 && slot < 16
  | .vectorInteger core slot _ => core < 8192 && slot < 16
  | .vectorF32 core slot _ => core < 8192 && slot < 16
  | .vectorIntegerImmediate core slot _ => core < 8192 && slot < 16
  | .vectorF32Immediate core slot _ => core < 8192 && slot < 16
  | .cvt core slot _ => core < 8192 && slot < 16
  | .cmp core slot _ => core < 8192 && slot < 16
  | .maskLogic core slot _ => core < 8192 && slot < 16
  | .tally core slot _ => core < 8192 && slot < 16
  | .xlane core slot _ => core < 8192 && slot < 16
  | .laneFill core slot _ => core < 8192 && slot < 16
  | .laneGet core slot _ => core < 8192 && slot < 16
  | .lanePut core slot _ => core < 8192 && slot < 16
  | .fold core slot _ => core < 8192 && slot < 16
  | .ld core slot _ => core < 8192 && slot < 16
  | .st core slot _ => core < 8192 && slot < 16
  | .atom core slot _ => core < 8192 && slot < 16
  | .fence core slot _ => core < 8192 && slot < 16
  | .invL1 core slot _ => core < 8192 && slot < 16
  | .pin core slot _ => core < 8192 && slot < 16
  | .unpin core slot _ => core < 8192 && slot < 16
  | .hintDead core slot _ => core < 8192 && slot < 16
  | .lds core slot _ => core < 8192 && slot < 16
  | .sts core slot _ => core < 8192 && slot < 16
  | .wsumInit core slot _ => core < 8192 && slot < 16
  | .wsumAcc core slot _ => core < 8192 && slot < 16
  | .wsumMac core slot _ => core < 8192 && slot < 16
  | .wsumAdd core slot _ => core < 8192 && slot < 16
  | .wsumRed core slot _ => core < 8192 && slot < 16
  | .wsumCvt core slot _ => core < 8192 && slot < 16
  | .cpAsync core slot _ _ => core < 8192 && slot < 16
  | .mmaAsync core slot _ _ => core < 8192 && slot < 16
  | .mmaDrain core slot _ _ => core < 8192 && slot < 16
  | .fetchCode core slot _ => core < 8192 && slot < 16
  | .runAhead core slot _ _ => core < 8192 && slot < 16
  | .runAheadStaged core _ => core < 8192
  | .copyDataLanded core _ _ => core < 8192
  | .mmaStart core => core < 8192
  | .mmaComplete core => core < 8192
  | .drainStart core => core < 8192
  | .drainComplete core => core < 8192
  | .contextKill inst _ => inst < 64
  | .launchReady inst _ => inst < 64
  | .dependencyPoll inst _ => inst < 64
  | .taskTake core => core < 8192
  | .stealChoose cl inst _ => cl < 128 && inst < 64
  | .stealRequest thief victim inst _ => thief < 128 && victim < 128 && inst < 64
  | .commitReservation cl => cl < 128
  | .commitPoint core slot => core < 8192 && slot < 16
  | .launchComplete inst _ => inst < 64
  | .coreLost core _ => core < 8192
  | .drain unit => Machine.coreUnitOk unit
  | .drainTmaxExpiry unit => Machine.coreUnitOk unit
  | .reelClr _ _ => true
  | .gets cl _ _ _ => cl < 128
  | .getm cl _ _ _ => cl < 128
  | .upg cl _ _ => cl < 128
  | .getsec cl _ _ _ => cl < 128
  | .putLine cl _ => cl < 128
  | .rdna inst _ _ _ _ => inst < 64
  | .wrna inst _ _ _ _ => inst < 64
  | .atomf cl _ _ _ _ _ _ => cl < 128
  | .dead cl _ => cl < 128
  | .forwardReq cl _ => cl < 128
  | .invalidation cl _ => cl < 128
  | .nearAtomic cl _ _ _ _ _ _ => cl < 128
  | .retryResponse slice _ => slice < 256
  | .hbmReadData pch _ _ _ => pch < 1024
  | .hbmBurstSlot pch => pch < 1024
  | .patrol _ _ _ => true
  | .recalibrationWindow stack chan => stack < 16 && chan < 32
  | .hbmTemperatureRead stack _ => stack < 16
  | .pseudoChannelFence pch => pch < 1024
  | .hbmFence _ _ => true
  | .hbmRetire _ _ => true
  | .hbmRetireUndoPage _ _ => true
  | .hbmRetireUndoChannel _ _ => true
  | .hbmMargin _ _ => true
  | .hbmMarginDone _ => true
  | .llcClr _ _ => true
  | .llcSel _ _ => true
  | .nearHomeEnable _ i _ => i < 64
  | .nearHomeFlushDone i => i < 64
  | .thrashWindow => true
  | .llcSliceFence slice => slice < 256
  | .seqLayout inst _ => inst < 64
  | .seqCreate inst _ => inst < 64
  | .seqFree inst _ => inst < 64
  | .seqFork inst _ => inst < 64
  | .seqCommit inst _ => inst < 64
  | .seqRollback inst _ => inst < 64
  | .seqEvict inst _ => inst < 64
  | .seqFetch inst _ => inst < 64
  | .seqQuery inst _ => inst < 64
  | .stepBoundary inst _ => inst < 64
  | .slotZeroed inst _ _ => inst < 64
  | .modelRegister inst _ => inst < 64
  | .modelLoad inst _ => inst < 64
  | .modelEvict inst _ => inst < 64
  | .modelPin inst _ => inst < 64
  | .modelUnpin inst _ => inst < 64
  | .modelAcquire inst _ => inst < 64
  | .modelRelease inst _ => inst < 64
  | .modelUnregister inst _ => inst < 64
  | .restore _ _ => true
  | .restoreDone _ _ => true
  | .save inst _ => inst < 64
  | .doorbell inst _ _ => inst < 64
  | .cqdb inst _ => inst < 64
  | .eqdb inst _ => inst < 64
  | .entryFetch inst => inst < 64
  | .launch inst _ => inst < 64
  | .copy inst _ => inst < 64
  | .wait inst _ => inst < 64
  | .fenceEntry inst _ => inst < 64
  | .event inst _ => inst < 64
  | .taggedRelease inst _ => inst < 64
  | .cqCoalesceTimeout inst => inst < 64
  | .intctl inst _ => inst < 64
  | .ringEnable _ i _ => i < 64
  | .ringDisable _ i _ => i < 64
  | .quiesce _ _ => true
  | .linkDown => true
  | .dataWindowWrite _ _ _ _ => true
  | .dataWindowRead _ _ _ _ => true
  | .mbGo inst _ => inst < 64
  | .query mb => mb < 64
  | .create mb => mb < 64
  | .config mb => mb < 64
  | .grant mb => mb < 64
  | .revoke mb => mb < 64
  | .pagesAssign mb => mb < 64
  | .pagesRelease mb => mb < 64
  | .bind mb => mb < 64
  | .tlbinv mb => mb < 64
  | .privateRange mb => mb < 64
  | .reset mb => mb < 64
  | .remove mb => mb < 64
  | .preempt mb => mb < 64
  | .resume mb => mb < 64
  | .secq mb => mb < 64
  | .evidence mb => mb < 64
  | .enroll mb => mb < 64
  | .keygenDone mb => mb < 64
  | .certw mb => mb < 64
  | .certr mb => mb < 64
  | .licadd mb => mb < 64
  | .licdel mb => mb < 64
  | .nonce mb => mb < 64
  | .lcsDeployed mb => mb < 64
  | .lcsDebug mb => mb < 64
  | .lcsReturn mb => mb < 64
  | .lcsRetired mb => mb < 64
  | .gclr mb => mb < 64
  | .modq mb => mb < 64
  | .calx mb => mb < 64
  | .calw mb => mb < 64
  | .calcommit mb => mb < 64
  | .locate mb => mb < 64
  | .generationHoldExpiry inst => inst < 64
  | .cadInEdge => true
  | .cadenceSymbol link _ _ _ => link < 24
  | .swbeat _ _ => true
  | .cadBeatPreset _ _ => true
  | .cadBeatRead _ => true
  | .cadSourceChange _ _ => true
  | .cadClr _ _ => true
  | .cadenceLost => true
  | .flitReceived link _ => link < 24
  | .replayTimeout port => port < 472
  | .creditStall link _ => link < 24
  | .widthRequest link _ => link < 24
  | .goingDown link _ => link < 24
  | .laneFailure link lane => link < 24 && lane < 4
  | .laneRetrained link lane _ => link < 24 && lane < 4
  | .linkTrainingRetry link => link < 24
  | .linkTrained link _ _ _ => link < 24
  | .aeldonLinkDown link => link < 24
  | .linkReportedDown link => link < 24
  | .packetRoute arrival _ _ => arrival.all (fun l => l < 24)
  | .write _ => true
  | .read _ => true
  | .atomic _ => true
  | .close _ => true
  | .wack _ => true
  | .rdata _ => true
  | .ares _ => true
  | .reject _ => true
  | .requestTimeout _ => true
  | .atomicOutcomeUnknown _ => true
  | .busyResend _ => true
  | .batchEntryTimeout _ => true
  | .dedupEntryExpiry _ _ => true
  | .collEnable _ c _ => c < 64
  | .collRunStart c => c < 64
  | .readyToken c => c < 64
  | .collChunk c _ => c < 64
  | .collStepTimeout c => c < 64
  | .eddyFlit bundle dir _ => bundle < 224 && dir < 2
  | .bundleFence bundle => bundle < 160
  | .d2dFence _ _ => true
  | .bridgeSegmentFence die seg => die < 4 && seg < 16
  | .foehnUpdate _ _ _ => true
  | .correctionFactor _ _ => true
  | .diverged => true
  | .floorHoldRelease => true
  | .unattainableClear => true
  | .peakExceeded _ => true
  | .clockChange sector => sector < 64
  | .sectorGate _ n _ => n < 64
  | .sectorUngate _ n _ => n < 64
  | .foehnClr _ _ => true
  | .thermalSample sensor _ => sensor < 280
  | .preTripExit sector => sector < 64
  | .sensorFailed sensor => sensor < 280
  | .squall sensor _ => sensor < 280
  | .thermClr _ _ => true
  | .droop rail => rail.sector < 64
  | .errFence _ _ => true
  | .unitFenced unit _ => Machine.fenceable unit
  | .packageFatal _ => true
  | .counterSaturated _ => true
  | .counterLowRead _ _ => true
  | .galeDetection _ _ => true
  | .firmwareIntegrityCheck _ => true
  | .coldStart _ => true
  | .warmReset _ _ => true
  | .startStepDone _ => true
  | .fuseSvn => true
  | .arm _ _ => true
  | .verifyDone => true
  | .stageErase _ _ => true
  | .stageEraseDone => true
  | .bootRecover _ _ => true
  | .bistGo _ _ => true
  | .scanDone _ => true
  | .bistDone _ _ => true
  | .persDefaults _ _ => true
  | .registerWrite _ _ _ _ => true
  | .pwrEnAssert => true
  | .pwrEnDeassert _ => true
  | .vinUp _ => true
  | .prsntNBreak => true
  | .mctpControl _ _ => true
  | .pldmCommand _ _ _ => true
  | .platformEventMessage _ => true
  | .vdmStatus => true
  | .vdmEvidence _ => true
  | .vdmErase => true
  | .vdmWrite _ _ => true
  | .vdmArm => true
  | .vdmWarm => true
  | .vdmRecover => true
  | .logread _ => true
  | .vdmLocate _ => true
  | .droopStretchEnd sector => sector < 64
  | .galeSourceCleared _ => true
  | .dataLinkLayerUp _ _ _ => true
  | .hotSwapTrip => true
  | .configurationRequest _ _ _ => true
  | .entdaa _ => true
  | .ackReportTimer port => port < 472
  | .mailboxCommandEnd mb => mb < 64
  | .recalibrationWindowEnd stack chan => stack < 16 && chan < 32
  | .resetPinRelease _ => true

end Sys2Proof
end

