-- ==== Sys2Proof/Safety.lean ====
section
/-! DEFINITION. What claims call a sound state, and the shapes that claims about commands share. -/

namespace Sys2Proof.Machine
open Sys2Proof

/-- A sparse map in its canonical form: keys strictly rising and no entry equal to what an unlisted key reads as. -/
abbrev NMap.canon {α : Type} [DecidableEq α] (d : α) (m : NMap α) : Prop :=
  m.Pairwise (fun a b => a.1 < b.1) ∧ ∀ e ∈ m, e.2 ≠ d

/-- HBM and host memory are in their canonical form (an unlisted byte reads 0). -/
abbrev Mem.wf (m : Mem) : Prop := NMap.canon 0 m.hbm ∧ NMap.canon 0 m.host

/-! ## Instructions of a core -/

/-- The state in which a group that has reached a word of a row examines what it waits for: the group settled (R48), and the copies staged
for it dropped where the instruction ends run-ahead (R61). -/
def State.atWord (s : State) (core slot : Nat) (r : Row) (w : Word) (x : Group) : State :=
  if dropsStaged r w.toNat then (s.setGroup core slot x).dropStaged core slot else s.setGroup core slot x

/-- The state on which an instruction acts: the pick of its class recorded as well (R44). -/
def State.atIssue (s : State) (core slot : Nat) (r : Row) (w : Word) (x : Group) : State :=
  (s.atWord core slot r w x).pick core slot (vectorClass r w.toNat)

/-- The group in a slot may issue and stands at a word that its core has fetched: x is the group once a path or barrier has been
settled (R48, R66). -/
def Finds (s : State) (core slot : Nat) (w w1 : Word) (x : Group) : Prop :=
  core < 8192 ∧ slot < 16 ∧ (∃ x0, s.group core slot = some x0 ∧ s.mayIssue core x0 = true ∧ x0.settle = x) ∧ x.phase = .running ∧
    x.active ≠ 0 ∧ (s.core core).fetched x w w1 = true

/-- The word is of a row, and the core picks the group in the word's class (R44). -/
def Meets (s : State) (core slot : Nat) (r : Row) (w w1 : Word) (x : Group) : Prop :=
  Finds s core slot w w1 x ∧ rowOf w.toNat = some r ∧ (s.setGroup core slot x).picked core slot (vectorClass r w.toNat) = true

/-- The word is a legal one of its row. -/
def Reaches (s : State) (core slot : Nat) (r : Row) (w w1 : Word) (x : Group) : Prop :=
  Meets s core slot r w w1 x ∧ legal r (s.launchOf x).v w.toNat w1.toNat = 0

/-- The group in a slot issues a word: it has reached it, and nothing that the instruction waits for is missing (R44, R48). -/
def Issues (s : State) (core slot : Nat) (r : Row) (w w1 : Word) (x : Group) : Prop :=
  Reaches s core slot r w w1 x ∧ (s.atWord core slot r w x).waits core slot x r w.toNat = false

/-- Nothing but one group, the copies staged for it, and the picks of its core may differ. -/
def SameBut (s t : State) (core slot : Nat) : Prop :=
  t = { s with cores := t.cores } ∧ (∀ g, g ≠ core → t.core g = s.core g) ∧
  (∀ k, k ≠ slot → t.group core k = s.group core k) ∧
  t.core core = { s.core core with slots := (t.core core).slots, staged := (t.core core).staged, pick := (t.core core).pick }

/-- The command completes: the group moves past a word, writes one scalar register, and changes nothing else. -/
def WritesScalar (i : Instr) (s : State) (core slot : Nat) (x : Group) (d : Nat) (v : Word) : Prop :=
  ∃ t y, exec i s = .next t ∧ t.group core slot = some y ∧ y.pc = x.pc + 8 ∧
    (∀ r, y.s r = if r = d then v else x.s r) ∧
    y = { x with pc := y.pc, sregs := y.sregs, window := x.window - 1 } ∧ SameBut s t core slot

/-- The command completes: the group moves past a word, writes one mask register (k0 discards it, R41), and changes nothing
else. -/
def WritesMask (i : Instr) (s : State) (core slot : Nat) (x : Group) (d : Nat) (v : BitVec 32) : Prop :=
  ∃ t y, exec i s = .next t ∧ t.group core slot = some y ∧ y.pc = x.pc + 8 ∧
    (∀ r, y.k r = if r = d ∧ d ≠ 0 then v else x.k r) ∧
    y = { x with pc := y.pc, kregs := y.kregs, window := x.window - 1 } ∧ SameBut s t core slot

/-- The command completes: the group moves past a word, each lane of a list gets the value of a function in n vector
registers from d on, granules written whole lose their poison, and nothing else changes (R39, R430). -/
def WritesLanes (i : Instr) (s : State) (core slot : Nat) (x : Group) (lanes : List Nat) (d n : Nat) (f : Nat → Nat) : Prop :=
  ∃ t y, exec i s = .next t ∧ t.group core slot = some y ∧ y.pc = x.pc + 8 ∧
    (∀ r l, l < 32 → y.v r l = if l ∈ lanes ∧ d ≤ r ∧ r < d + n then BitVec.ofNat 32 (f l / 2 ^ (32 * (r - d))) else x.v r l) ∧
    y = { x with pc := y.pc, vregs := y.vregs, poisoned := (x.wrote lanes d n).poisoned, window := x.window - 1 } ∧ SameBut s t core slot

/-- The command completes with a state that differs in one group and the copies staged for it: what the group becomes. -/
def BecomesGroup (i : Instr) (s : State) (core slot : Nat) (y : Group) : Prop :=
  ∃ t, exec i s = .next t ∧ t.group core slot = some y ∧ SameBut s t core slot

/-- The first fault of a launch is kept, and a later one only marks it (R57, R58). -/
def Launch.faulted (l : Launch) (f : FaultInfo) : Launch :=
  if l.fault.isSome then { l with more := true } else { l with fault := some f }

/-- The command completes with the trap of its group: of a state, only the group, which stops at its word, and its launch, which
takes the fault record, differ (R55, R57, R58). -/
def Traps (i : Instr) (s base : State) (core slot : Nat) (x : Group) (code lane : Nat) : Prop :=
  ∀ l, base.launch x.inst x.idx = some l → ∃ t, exec i s = .next t ∧ t = { base with cores := t.cores, launches := t.launches } ∧
    t.group core slot = some { x with stopped := true } ∧ (∀ g, g ≠ core → t.core g = base.core g) ∧
    t.launch x.inst x.idx = some (l.faulted { code := BitVec.ofNat 16 code, unit := coreUnit core, beat := s.cad.beat, phase := s.cad.phase, pc := x.pc, slot := slot, lane := BitVec.ofNat 8 lane })

/-- The command of a mailbox that runs: it has an opcode, may run now, passes the checks of R357 and R511, and has not acted
yet. -/
def MbReady (s : State) (mb op : Nat) (r : MbRunning) : Prop :=
  mb < 64 ∧ (s.inst mb).mb.running = some r ∧ r.opcode.toNat = op ∧ r.result = none ∧ s.mbWaits mb r = false ∧
    s.mbCheck mb r = none

end Sys2Proof.Machine
end

