-- ==== Sys2Proof/Certificates/Slice0/Obligations.lean ====
section
/-! DEFINITION. The statements for the provers, each from the rules of the manual that it cites. -/

open Sys2Proof Sys2Proof.Machine

/-- For every state and word that a group may issue: scalar integer, scalar f32, scalar integer immediate, mov.hi, rdsr,
ctr.rd, lane.get, the folds, kpop and tally.count, mask and first answer a next state in which the destination scalar
register holds the value the opcode map gives, the pc has moved by 8, every other register of the group, every other
group and all other state (memory, flags, special registers, accumulators) is unchanged. rdsr of the beat counter or
of the phase also takes the other one at the same instant, for the group's next read of it (R303; the model's choice,
log 104). It says where these complete: CTR_RD, RDSR, SCALAR_INTEGER, SCALAR_F32, SCALAR_INTEGER_IMMEDIATE, MOV_HI,
MASK_LOGIC, TALLY, LANE_GET, FOLD. (R39, R70, R71, R73, R76, R78, R95, R514, R515) -/
def Obligations.ScalarResults : Prop :=
  ∀ (s : State) (core slot : Nat) (w : Word) (x : Group),
    (Issues s core slot .scalarInteger w 0 x → WritesScalar (.scalarInteger core slot w) s core slot x (wD w.toNat)
      (scalarOf (wTY w.toNat) (intFn (wFN w.toNat) (wTY w.toNat) (x.s (wA w.toNat)).toNat
        (scalarSrc x (wBK w.toNat) (wB w.toNat) 64 false) (wSAT w.toNat)))) ∧
    (Issues s core slot .scalarF32 w 0 x → WritesScalar (.scalarF32 core slot w) s core slot x (wD w.toNat)
      (scalarOf 4 (f32fn (wFN w.toNat) ((x.s (wA w.toNat)).toNat % 2 ^ 32)
        (scalarSrc x (wBK w.toNat) (wB w.toNat) 32 true % 2 ^ 32) (scalarSrc x (wCK w.toNat) (wC w.toNat) 32 true % 2 ^ 32)))) ∧
    (Issues s core slot .scalarIntegerImmediate w 0 x →
      WritesScalar (.scalarIntegerImmediate core slot w) s core slot x (wD w.toNat)
        (scalarOf 3 (intFn (iFN w.toNat) 3 (x.s (wA w.toNat)).toNat (wrap 64 (sext 32 (iIMM w.toNat))) false))) ∧
    (Issues s core slot .movHi w 0 x → WritesScalar (.movHi core slot w) s core slot x (wD w.toNat)
      (BitVec.ofNat 64 ((x.s (wD w.toNat)).toNat % 2 ^ 32 + iIMM w.toNat * 2 ^ 32))) ∧
    (Issues s core slot .rdsr w 0 x → ∃ t y, exec (.rdsr core slot w) s = .next t ∧ t.group core slot = some y ∧
      y.pc = x.pc + 8 ∧ y = { x with pc := y.pc, sregs := y.sregs, instant := y.instant, window := x.window - 1 } ∧
      SameBut s t core slot ∧ (∀ r, r ≠ wD w.toNat → y.s r = x.s r) ∧
      (iIMM w.toNat = 0 → y.s (wD w.toNat) = BitVec.ofNat 64 (s.cycles core) ∧ y.instant = x.instant) ∧
      (iIMM w.toNat = 3 → y.s (wD w.toNat) = (s.inst x.inst).gen.setWidth 64 ∧ y.instant = x.instant) ∧
      (∀ v, iIMM w.toNat = 1 ∨ iIMM w.toNat = 2 → x.instant = some (iIMM w.toNat, v) → y.s (wD w.toNat) = v ∧ y.instant = none) ∧
      (iIMM w.toNat = 1 → (∀ v, x.instant ≠ some (1, v)) →
        y.s (wD w.toNat) = s.cad.beat ∧ y.instant = some (2, s.cad.phase.setWidth 64)) ∧
      (iIMM w.toNat = 2 → (∀ v, x.instant ≠ some (2, v)) →
        y.s (wD w.toNat) = s.cad.phase.setWidth 64 ∧ y.instant = some (1, s.cad.beat))) ∧
    (Issues s core slot .ctrRd w 0 x → WritesScalar (.ctrRd core slot w) s core slot x (wD w.toNat)
      ((s.ctr core slot (wA w.toNat)).setWidth 64)) ∧
    (Issues s core slot .laneGet w 0 x → WritesScalar (.laneGet core slot w) s core slot x (wD w.toNat)
      ((x.v (wA w.toNat) (laneNumber x w.toNat)).setWidth 64)) ∧
    (Issues s core slot .fold w 0 x → WritesScalar (.fold core slot w) s core slot x (wD w.toNat) (foldValue x w.toNat)) ∧
    (Issues s core slot .maskLogic w 0 x → wFN w.toNat = 6 →
      WritesScalar (.maskLogic core slot w) s core slot x (wD w.toNat) (BitVec.ofNat 64 (popc 32 (x.k (wA w.toNat)).toNat))) ∧
    (Issues s core slot .tally w 0 x → wFN w.toNat = 2 →
      WritesScalar (.tally core slot w) s core slot x (wD w.toNat)
        (BitVec.ofNat 64 (popc 32 (x.k (wA w.toNat) &&& x.active).toNat))) ∧
    (Issues s core slot .tally w 0 x → wFN w.toNat = 3 →
      WritesScalar (.tally core slot w) s core slot x (wD w.toNat) ((x.k (wA w.toNat) &&& x.active).setWidth 64)) ∧
    (Issues s core slot .tally w 0 x → wFN w.toNat = 4 →
      WritesScalar (.tally core slot w) s core slot x (wD w.toNat)
        (BitVec.ofNat 64 (firstBit 32 (x.k (wA w.toNat) &&& x.active).toNat)))

/-- For every state and word that a group may issue: cmp, mask logic other than kpop, and tally.none, every, same and
split answer a next state in which the destination mask register holds the value the rules give (a write to k0 is
discarded), the pc has moved by 8, and nothing else changes. cmp leaves the bits of lanes that do not perform. kandn
is A and not B (the model's choice, log 113). It says where these complete: CMP, MASK_LOGIC, TALLY. (R39, R41, R71,
R76, R116, R118, R514) -/
def Obligations.MaskResults : Prop :=
  ∀ (s : State) (core slot : Nat) (w : Word) (x : Group),
    (Issues s core slot .cmp w 0 x → WritesMask (.cmp core slot w) s core slot x (wD w.toNat)
      (maskLanes (x.k (wD w.toNat)) (x.lanes (wKM w.toNat)) (fun i =>
        let a := x.vN (wA w.toNat) i (tyRegs (wTY w.toNat))
        let b := vectorSrc x i (wBK w.toNat) (wB w.toNat) (tyRegs (wTY w.toNat)) (8 * tySize (wTY w.toNat)) (wTY w.toNat = 4)
        if wTY w.toNat = 4 then f32cmp (wFN w.toNat) a b else intCmp (wFN w.toNat) (wTY w.toNat) a b))) ∧
    (Issues s core slot .maskLogic w 0 x → wFN w.toNat ≤ 5 → WritesMask (.maskLogic core slot w) s core slot x (wD w.toNat)
      (match wFN w.toNat with
        | 0 => x.k (wA w.toNat) &&& x.k (wB w.toNat)
        | 1 => x.k (wA w.toNat) ||| x.k (wB w.toNat)
        | 2 => x.k (wA w.toNat) ^^^ x.k (wB w.toNat)
        | 3 => x.k (wA w.toNat) &&& ~~~x.k (wB w.toNat)
        | 4 => ~~~x.k (wA w.toNat)
        | _ => (x.s (wA w.toNat)).truncate 32)) ∧
    (Issues s core slot .tally w 0 x → wFN w.toNat ∈ [0, 1, 5, 6] →
      WritesMask (.tally core slot w) s core slot x (wD w.toNat)
        (if (match wFN w.toNat with
            | 0 => decide (x.k (wA w.toNat) &&& x.active = 0)
            | 1 => decide (x.k (wA w.toNat) &&& x.active = x.active)
            | 5 => (List.range 32).all (fun i => (List.range 32).all (fun j => !x.active.getLsbD i || !x.active.getLsbD j ||
                x.v (wA w.toNat) i == x.v (wA w.toNat) j))
            | _ => decide (x.k (wA w.toNat) &&& x.active ≠ 0 ∧ x.k (wA w.toNat) &&& x.active ≠ x.active)) = true
          then 0xFFFFFFFF else 0))

/-- For every state and word that a group may issue: vector integer (sel included), vector f32, both immediate forms, cvt,
xlane, lane.fill, lane.put and the wide-sum functions answer a next state in which each performing lane's destination
registers hold the value the rules give, lanes that do not perform and every other register are unchanged, a granule
written whole loses its poison, the pc has moved by 8, and nothing else changes. A wide-sum function with a poisoned
operand traps with code 0x000C at the lowest performing lane, after one error record. The order of wsum.red (log 113),
the value of an immediate term (log 18) and the reserved bits of wsum.add (log 33) are the model's choices. It says
where these complete: VECTOR_INTEGER, VECTOR_F32, VECTOR_INTEGER_IMMEDIATE, VECTOR_F32_IMMEDIATE, CVT, XLANE,
LANE_FILL, LANE_PUT, WSUM_INIT, WSUM_ACC, WSUM_MAC, WSUM_ADD, WSUM_RED, WSUM_CVT. (R39, R70, R71, R77, R78, R103,
R106, R107, R108, R118, R122, R430) -/
def Obligations.VectorResults : Prop :=
  ∀ (s : State) (core slot : Nat) (w : Word) (x : Group),
    (Issues s core slot .vectorInteger w 0 x →
      WritesLanes (.vectorInteger core slot w) s core slot x (x.lanes (wKM w.toNat)) (wD w.toNat) (tyRegs (wTY w.toNat)) (fun i =>
        (let a := x.vN (wA w.toNat) i (tyRegs (wTY w.toNat))
         let b := vectorSrc x i (wBK w.toNat) (wB w.toNat) (tyRegs (wTY w.toNat)) (8 * tySize (wTY w.toNat)) false
         if wFN w.toNat = 15 then (if (x.k (wC w.toNat)).getLsbD i then a else b)
         else intFn (wFN w.toNat) (wTY w.toNat) a b (wSAT w.toNat)) % 2 ^ (8 * tySize (wTY w.toNat)))) ∧
    (Issues s core slot .vectorF32 w 0 x →
      WritesLanes (.vectorF32 core slot w) s core slot x (x.lanes (wKM w.toNat)) (wD w.toNat) 1 (fun i =>
        f32fn (wFN w.toNat) (x.v (wA w.toNat) i).toNat (vectorSrc x i (wBK w.toNat) (wB w.toNat) 1 32 true)
          (vectorSrc x i (wCK w.toNat) (wC w.toNat) 1 32 true) % 2 ^ 32)) ∧
    (Issues s core slot .vectorIntegerImmediate w 0 x →
      WritesLanes (.vectorIntegerImmediate core slot w) s core slot x (x.lanes (wKM w.toNat)) (wD w.toNat) 1 (fun i =>
        intFn (iFN w.toNat) 1 (x.v (wA w.toNat) i).toNat (iIMM w.toNat) false % 2 ^ 32)) ∧
    (Issues s core slot .vectorF32Immediate w 0 x →
      WritesLanes (.vectorF32Immediate core slot w) s core slot x (x.lanes (wKM w.toNat)) (wD w.toNat) 1 (fun i =>
        f32fn (iFN w.toNat) (x.v (wA w.toNat) i).toNat (iIMM w.toNat) 0 % 2 ^ 32)) ∧
    (Issues s core slot .cvt w 0 x →
      WritesLanes (.cvt core slot w) s core slot x (x.lanes (wKM w.toNat)) (wD w.toNat) (tyRegs (wTY w.toNat)) (fun i =>
        convert (s.rnd x w.toNat i) (wSAT w.toNat) (wTY w.toNat) (wB w.toNat)
          (x.vN (wA w.toNat) i (tyRegs (wB w.toNat)) % 2 ^ (8 * tySize (wB w.toNat))) % 2 ^ (8 * tySize (wTY w.toNat)))) ∧
    (Issues s core slot .xlane w 0 x →
      WritesLanes (.xlane core slot w) s core slot x (x.lanes (wKM w.toNat)) (wD w.toNat) 1 (fun i =>
        (x.v (wA w.toNat) (exchangeLane (wFN w.toNat) i (vectorSrc x i (wBK w.toNat) (wB w.toNat) 1 32 false)
          (wC w.toNat))).toNat % 2 ^ 32)) ∧
    (Issues s core slot .laneFill w 0 x →
      WritesLanes (.laneFill core slot w) s core slot x (x.lanes (wKM w.toNat)) (wD w.toNat) 1 (fun _ =>
        (x.s (wA w.toNat)).toNat % 2 ^ 32)) ∧
    (Issues s core slot .lanePut w 0 x →
      WritesLanes (.lanePut core slot w) s core slot x [laneNumber x w.toNat] (wD w.toNat) 1 (fun _ =>
        (x.s (wA w.toNat)).toNat % 2 ^ 32)) ∧
    (Issues s core slot .wsumInit w 0 x → wsumPoison x .wsumInit w.toNat = none → (x.s (wA w.toNat)).toNat < 2 ^ 16 → lowOk (sext 16 (x.s (wA w.toNat)).toNat) = true →
      WritesLanes (.wsumInit core slot w) s core slot x (x.lanes (wKM w.toNat)) (wD w.toNat) 8 (fun _ =>
        (WSum.zero (sext 16 (x.s (wA w.toNat)).toNat)).bits)) ∧
    (Issues s core slot .wsumAcc w 0 x → wsumPoison x .wsumAcc w.toNat = none →
      WritesLanes (.wsumAcc core slot w) s core slot x (x.lanes (wKM w.toNat)) (wD w.toNat) 8 (fun i =>
        ((x.wsum (wD w.toNat) i).term (termVal x i (wBK w.toNat) (wB w.toNat) (wTY w.toNat))).bits)) ∧
    (Issues s core slot .wsumMac w 0 x → wsumPoison x .wsumMac w.toNat = none →
      WritesLanes (.wsumMac core slot w) s core slot x (x.lanes (wKM w.toNat)) (wD w.toNat) 8 (fun i =>
        ((x.wsum (wD w.toNat) i).term ((termVal x i (wBK w.toNat) (wB w.toNat) (wTY w.toNat)).mul
          (termVal x i (wCK w.toNat) (wC w.toNat) (wTY w.toNat)))).bits)) ∧
    (Issues s core slot .wsumAdd w 0 x → wsumPoison x .wsumAdd w.toNat = none →
      WritesLanes (.wsumAdd core slot w) s core slot x (x.lanes (wKM w.toNat)) (wD w.toNat) 8 (fun i =>
        wsumAddBits (x.vN (wD w.toNat) i 8) (x.vN (wA w.toNat) i 8))) ∧
    (Issues s core slot .wsumRed w 0 x → wsumPoison x .wsumRed w.toNat = none →
      WritesLanes (.wsumRed core slot w) s core slot x (x.lanes (wKM w.toNat)) (wD w.toNat) 8 (fun _ =>
        (x.lanes (wKM w.toNat)).foldl (fun acc i => wsumAddBits acc (x.vN (wA w.toNat) i 8)) 0)) ∧
    (Issues s core slot .wsumCvt w 0 x → wsumPoison x .wsumCvt w.toNat = none →
      WritesLanes (.wsumCvt core slot w) s core slot x (x.lanes (wKM w.toNat)) (wD w.toNat) (tyRegs (wTY w.toNat)) (fun i =>
        ((tyFmt (wTY w.toNat)).getD fmtF32).ofVal (s.rnd x w.toNat i) (wSAT w.toNat) (x.wsum (wA w.toNat) i).val
          % 2 ^ (8 * tySize (wTY w.toNat)))) ∧
    (∀ c r, (c, r) ∈ [(Instr.wsumInit core slot w, Row.wsumInit), (.wsumAcc core slot w, .wsumAcc), (.wsumMac core slot w, .wsumMac),
        (.wsumAdd core slot w, .wsumAdd), (.wsumRed core slot w, .wsumRed), (.wsumCvt core slot w, .wsumCvt)] →
      Issues s core slot r w 0 x → ∀ lane, wsumPoison x r w.toNat = some lane →
      Traps c s ((s.atIssue core slot r w x).errRecord 3 0 (coreUnit core) (errDetail 0 0xFF 0 x.inst 0) [0, x.inst]) core slot x 0xC lane)

/-- On two 64-bit operands of type u64 or s64 without saturation: add, sub, mul.lo, and, or, xor, the shifts by the
operand modulo 64, the minimum and maximum of the type, mov, popc and clz, and mul.hi of s64 and u64, have the values
of the bit-vector operations of the same name. For every offset and segment width 2, 4, 8, 16 or 32, pick, rot, mirror
and cross give a lane below 32 the source lane of the table, which lies in its own segment; mirror and cross undo
themselves. (R71, R77, R118) -/
def Obligations.IntegerFunctions : Prop :=
  (∀ (a b : BitVec 64) (ty : Nat), ty = 2 ∨ ty = 3 →
    intFn 0 ty a.toNat b.toNat false = (a + b).toNat ∧
    intFn 1 ty a.toNat b.toNat false = (a - b).toNat ∧
    intFn 2 ty a.toNat b.toNat false = (a * b).toNat ∧
    intFn 3 2 a.toNat b.toNat false = (a.toNat * b.toNat) / 2 ^ 64 ∧
    intFn 3 3 a.toNat b.toNat false = (BitVec.ofInt 64 (a.toInt * b.toInt / 2 ^ 64)).toNat ∧
    intFn 4 ty a.toNat b.toNat false = (a &&& b).toNat ∧
    intFn 5 ty a.toNat b.toNat false = (a ||| b).toNat ∧
    intFn 6 ty a.toNat b.toNat false = (a ^^^ b).toNat ∧
    intFn 7 ty a.toNat b.toNat false = (a <<< (b.toNat % 64)).toNat ∧
    intFn 8 ty a.toNat b.toNat false = (a >>> (b.toNat % 64)).toNat ∧
    intFn 9 ty a.toNat b.toNat false = (a.sshiftRight (b.toNat % 64)).toNat ∧
    intFn 10 2 a.toNat b.toNat false = min a.toNat b.toNat ∧
    intFn 10 3 a.toNat b.toNat false = (if a.toInt ≤ b.toInt then a else b).toNat ∧
    intFn 11 2 a.toNat b.toNat false = max a.toNat b.toNat ∧
    intFn 11 3 a.toNat b.toNat false = (if b.toInt ≤ a.toInt then a else b).toNat ∧
    intFn 12 ty a.toNat b.toNat false = a.toNat ∧
    intFn 13 ty a.toNat b.toNat false = ((List.range 64).filter (fun k => a.getLsbD k)).length ∧
    intFn 14 ty a.toNat b.toNat false = (if a = 0 then 64 else 63 - a.toNat.log2)) ∧
    (∀ (fn i b width : Nat), i < 32 → width ∈ [2, 4, 8, 16, 32] →
      (fn ≤ 3 → exchangeLane fn i b width / width = i / width ∧ exchangeLane fn i b width < 32) ∧
      exchangeLane 0 i b width = (i - i % width) + b % width ∧
      exchangeLane 1 i b width = (i - i % width) + (i % width + b) % width ∧
      exchangeLane 2 i b width = (i - i % width) + (width - 1 - i % width) ∧
      exchangeLane 3 i b width = (i - i % width) + (i % width ^^^ b % width) ∧
      exchangeLane 2 (exchangeLane 2 i b width) b width = i ∧
      exchangeLane 3 (exchangeLane 3 i b width) b width = i)

/-- For every state and word that a group may issue: nop only moves the pc; br goes to its target, to the next word, or
diverges by a push within 32 levels; jmp goes to sA[55:0] and call also writes the link register, where the target is
a multiple of 8; exit removes the active threads from every mask and bar.group parks them, both then settle the group.
Nothing else changes. It says where these complete: NOP, BR, JMP, CALL, EXIT, BAR_GROUP. (R39, R48, R49, R50, R71,
R74, R75) -/
def Obligations.ControlFlow : Prop :=
  ∀ (s : State) (core slot : Nat) (w : Word) (x : Group),
    (Issues s core slot .nop w 0 x →
      BecomesGroup (.nop core slot w) s core slot { x with pc := x.pc + 8, window := x.window - 1 }) ∧
    (Issues s core slot .br w 0 x → ∀ taken, taken = x.active &&& (if bN w.toNat then ~~~(x.k (wKM w.toNat)) else x.k (wKM w.toNat)) →
      (taken = x.active → BecomesGroup (.br core slot w) s core slot
        { x with pc := x.pc + BitVec.ofInt 64 (8 * bTGT w.toNat), window := x.window - 1 }) ∧
      (taken = 0 → BecomesGroup (.br core slot w) s core slot { x with pc := x.pc + 8, window := x.window - 1 }) ∧
      (taken ≠ x.active → taken ≠ 0 → x.stack.length < 32 → BecomesGroup (.br core slot w) s core slot
        { x with
          stack := { rpc := x.pc + BitVec.ofInt 64 (8 * bRPC w.toNat), saved := x.active, pendPc := x.pc + 8,
                     pend := x.active &&& ~~~taken } :: x.stack
          active := taken, pc := x.pc + BitVec.ofInt 64 (8 * bTGT w.toNat), window := x.window - 1 })) ∧
    (Issues s core slot .jmp w 0 x → (x.s (wA w.toNat)).toNat % 8 = 0 →
      BecomesGroup (.jmp core slot w) s core slot
        { x with pc := x.s (wA w.toNat) &&& 0x00FFFFFFFFFFFFFF, window := x.window - 1 }) ∧
    (Issues s core slot .call w 0 x → (x.s (wA w.toNat)).toNat % 8 = 0 →
      BecomesGroup (.call core slot w) s core slot
        { x.setS (wD w.toNat) (x.pc + 8) with pc := x.s (wA w.toNat) &&& 0x00FFFFFFFFFFFFFF, window := x.window - 1 }) ∧
    (Issues s core slot .exit w 0 x → x.exit.settle.phase = .running →
      BecomesGroup (.exit core slot w) s core slot { x.exit.settle with window := x.exit.settle.window - 1 }) ∧
    (Issues s core slot .barGroup w 0 x → (x.parked = 0 ∨ x.barAddr = x.pc) →
      BecomesGroup (.barGroup core slot w) s core slot (x.park (s.cycles core)).settle)

/-- wait.ge moves on when the signed difference of the counter and the awaited value is not negative and stays where it is
when it is negative; ctr.set and ctr.add write the group's own counter and no other; mma.wait moves on when at most n
matrix operations of the group are incomplete; a watchdog that has counted 2^W cycles raises a barrier stall, unless
the group waits for a restore; its fault record holds the group's pc (the model's choice, log 112). It says where
these complete: BARRIER_STALL, WAIT_GE, CTR_SET, CTR_ADD, MMA_WAIT. (R52, R95, R96, R97, R101, R432) -/
def Obligations.CountersAndWaits : Prop :=
  ∀ (s : State) (core slot : Nat) (w : Word) (x : Group),
    (Reaches s core slot .waitGe w 0 x →
      0 ≤ (s.ctr core slot (wA w.toNat) - ((if iFN w.toNat = 0 then 0 else (x.s (wD w.toNat)).truncate 32) +
        BitVec.ofNat 32 (iIMM w.toNat))).toInt →
      BecomesGroup (.waitGe core slot w) s core slot { x with pc := x.pc + 8, window := x.window - 1 }) ∧
    (Reaches s core slot .waitGe w 0 x →
      (s.ctr core slot (wA w.toNat) - ((if iFN w.toNat = 0 then 0 else (x.s (wD w.toNat)).truncate 32) +
        BitVec.ofNat 32 (iIMM w.toNat))).toInt < 0 →
      BecomesGroup (.waitGe core slot w) s core slot x) ∧
    (Issues s core slot .ctrSet w 0 x → ∃ t, exec (.ctrSet core slot w) s = .next t ∧
      t.group core slot = some { x with pc := x.pc + 8, window := x.window - 1 } ∧ t.mem = s.mem ∧
      ∀ k j, k < 16 → j < 32 → t.ctr core k j = if k = slot ∧ j = wA w.toNat then
        (x.s (wD w.toNat)).truncate 32 + BitVec.ofNat 32 (iIMM w.toNat) else s.ctr core k j) ∧
    (Issues s core slot .ctrAdd w 0 x → ∃ t, exec (.ctrAdd core slot w) s = .next t ∧
      t.group core slot = some { x with pc := x.pc + 8, window := x.window - 1 } ∧ t.mem = s.mem ∧
      ∀ k j, k < 16 → j < 32 → t.ctr core k j = if k = slot ∧ j = wA w.toNat then
        s.ctr core slot j + ((x.s (wD w.toNat)).truncate 32 + BitVec.ofNat 32 (iIMM w.toNat)) else s.ctr core k j) ∧
    (Reaches s core slot .mmaWait w 0 x → ((s.core core).mats.filter (fun m =>
        m.slot = slot && m.inst = x.inst && m.idx = x.idx && m.task = x.task)).length ≤ iIMM w.toNat →
      BecomesGroup (.mmaWait core slot w) s core slot { x with pc := x.pc + 8, window := x.window - 1 }) ∧
    (core < 8192 → slot < 16 → ∀ c l, s.group core slot = some x → x.barSince = some c → x.stopped = false →
      x.phase = .running → s.launch x.inst x.idx = some l → 2 ^ l.wdog ≤ s.cycles core - c + x.barSaved → s.waitsRestore core slot = false →
      ∃ t, exec (.barrierStall core slot) s = .next t ∧ t.group core slot = some { x with stopped := true } ∧
        t.launch x.inst x.idx = some (l.faulted { code := 4, unit := coreUnit core, beat := s.cad.beat, phase := s.cad.phase, pc := x.pc, slot := slot, lane := 0xFF }))

/-- For every group: k0 reads all ones, a write to k0 leaves the whole group as it is, and the lanes that perform an
instruction with mask operand k0 are the active lanes. (R41) -/
def Obligations.MaskZeroIsOnes : Prop :=
  ∀ (x : Group) (v : BitVec 32), x.k 0 = 0xFFFFFFFF ∧ x.setK 0 v = x ∧
    ∀ i, i ∈ x.lanes 0 ↔ (i < 32 ∧ x.active.getLsbD i = true)

/-- A group at a word of no row, or at a word of a row that its check refuses, traps with code 1 or 2; br that would push
beyond 32 entries with 3; bar.group met at a second address with 5; jmp and call to an address that is no multiple of
8 with 8; lds and sts with what their check of alignment and bounds finds in the lowest faulting lane (8 or 6); ld, st
and atom with what their checks find there: 8 for an address that is no multiple of the size, the cause of the walk
for one that does not translate, and for poison met in the walk 0x000C after its error record. The launch's first
fault is kept with code, unit, beat, phase, pc, slot and lane, a later one only marks it; the group stops, and the
instruction does nothing else. It says where these complete: NOP, BR, JMP, CALL, EXIT, BAR_GROUP, WAIT_GE, CTR_RD,
CTR_SET, CTR_ADD, MMA_WAIT, RDSR, SCALAR_INTEGER, SCALAR_F32, MOV_HI, VECTOR_INTEGER, VECTOR_F32, CVT, CMP,
MASK_LOGIC, TALLY, XLANE, LANE_FILL, LANE_GET, LANE_PUT, FOLD, LD, ST, ATOM, FENCE, PIN, LDS, STS, WSUM_INIT,
WSUM_ACC, WSUM_ADD, CP_ASYNC, MMA_ASYNC, MMA_DRAIN, WRITE, READ. (R40, R47, R48, R51, R54, R55, R56, R57, R58, R74,
R79, R80) -/
def Obligations.InstructionTraps : Prop :=
  ∀ (s : State) (core slot : Nat) (w w1 : Word) (x : Group),
    (∀ c, c ∈ [Instr.nop core slot w, .br core slot w, .scalarInteger core slot w, .ld core slot w, .wsumAcc core slot w] →
      Finds s core slot w 0 x → rowOf w.toNat = none → Traps c s (s.setGroup core slot x) core slot x 1 0xFF) ∧
    (∀ c r, (c, r) ∈ [(Instr.nop core slot w, Row.nop), (.br core slot w, .br), (.jmp core slot w, .jmp), (.call core slot w, .call),
        (.exit core slot w, .exit), (.barGroup core slot w, .barGroup), (.waitGe core slot w, .waitGe), (.ctrRd core slot w, .ctrRd),
        (.ctrSet core slot w, .ctrSet), (.ctrAdd core slot w, .ctrAdd), (.mmaWait core slot w, .mmaWait), (.rdsr core slot w, .rdsr),
        (.scalarInteger core slot w, .scalarInteger), (.scalarF32 core slot w, .scalarF32), (.movHi core slot w, .movHi),
        (.vectorInteger core slot w, .vectorInteger), (.vectorF32 core slot w, .vectorF32), (.cvt core slot w, .cvt),
        (.cmp core slot w, .cmp), (.maskLogic core slot w, .maskLogic), (.tally core slot w, .tally), (.xlane core slot w, .xlane),
        (.laneFill core slot w, .laneFill), (.laneGet core slot w, .laneGet), (.lanePut core slot w, .lanePut), (.fold core slot w, .fold),
        (.ld core slot w, .ld), (.st core slot w, .st), (.atom core slot w, .atom), (.fence core slot w, .fence), (.pin core slot w, .pin),
        (.lds core slot w, .lds), (.sts core slot w, .sts), (.wsumInit core slot w, .wsumInit), (.wsumAdd core slot w, .wsumAdd)] →
      Meets s core slot r w 0 x → legal r (s.launchOf x).v w.toNat 0 ≠ 0 →
      legal r (s.launchOf x).v w.toNat 0 ≤ 2 ∧
        Traps c s (s.setGroup core slot x) core slot x (legal r (s.launchOf x).v w.toNat 0) 0xFF) ∧
    (∀ c r, (c, r) ∈ [(Instr.cpAsync core slot w w1, Row.cpAsync), (.mmaAsync core slot w w1, .mmaAsync), (.mmaDrain core slot w w1, .mmaDrain)] →
      Meets s core slot r w w1 x → legal r (s.launchOf x).v w.toNat w1.toNat ≠ 0 →
      Traps c s (s.setGroup core slot x) core slot x (legal r (s.launchOf x).v w.toNat w1.toNat) 0xFF) ∧
    (Issues s core slot .br w 0 x → ∀ taken, taken = x.active &&& (if bN w.toNat then ~~~(x.k (wKM w.toNat)) else x.k (wKM w.toNat)) →
      taken ≠ x.active → taken ≠ 0 → 32 ≤ x.stack.length →
      Traps (.br core slot w) s (s.atIssue core slot .br w x) core slot x 3 0xFF) ∧
    (Issues s core slot .barGroup w 0 x → x.parked ≠ 0 → x.barAddr ≠ x.pc →
      Traps (.barGroup core slot w) s (s.atIssue core slot .barGroup w x) core slot x 5 0xFF) ∧
    (Issues s core slot .jmp w 0 x → (x.s (wA w.toNat)).toNat % 8 ≠ 0 →
      Traps (.jmp core slot w) s (s.atIssue core slot .jmp w x) core slot x 8 0xFF) ∧
    (Issues s core slot .call w 0 x → (x.s (wA w.toNat)).toNat % 8 ≠ 0 →
      Traps (.call core slot w) s (s.atIssue core slot .call w x) core slot x 8 0xFF) ∧
    (∀ c r, (c, r) ∈ [(Instr.lds core slot w, Row.lds), (.sts core slot w, .sts)] → Issues s core slot r w 0 x →
      (∀ code lane, s.lsCheck slot x w.toNat = some (code, lane) →
        Traps c s (s.atIssue core slot r w x) core slot x code lane) ∧
      (mS w.toNat = true → lsOffset x w.toNat 0xFF % tySize (mTY w.toNat) ≠ 0 →
        Traps c s (s.atIssue core slot r w x) core slot x 8 0xFF) ∧
      (mS w.toNat = true → lsOffset x w.toNat 0xFF % tySize (mTY w.toNat) = 0 →
        lsOk (s.launchOf x) slot (lsOffset x w.toNat 0xFF) (tySize (mTY w.toNat)) = false →
        Traps c s (s.atIssue core slot r w x) core slot x 6 0xFF)) ∧
    (∀ c r k, (c, r, k) ∈ [(Instr.ld core slot w, Row.ld, XKind.read), (.st core slot w, .st, .write), (.atom core slot w, .atom, .write)] →
      Issues s core slot r w 0 x →
      (∀ e u, (s.atIssue core slot r w x).checkAll core x.inst k (tySize (mTY w.toNat))
          ((memLanes x w.toNat).map (fun l => (l, memAddr x w.toNat l))) = (.error e, u) →
        (e.code ≠ 0xC → Traps c s u core slot x e.code e.lane) ∧
        (e.code = 0xC → Traps c s (u.errRecord 3 0 (coreUnit core) (errDetail (e.addr / 16 * 16) 0xFF 0 (u.ownerOf e.addr x.inst) 0)
          [0, u.ownerOf e.addr x.inst]) core slot x 0xC e.lane)) ∧
      (mS w.toNat = true → memAddr x w.toNat 0xFF % tySize (mTY w.toNat) ≠ 0 →
        Traps c s (s.atIssue core slot r w x) core slot x 8 0xFF) ∧
      (∀ e a u, mS w.toNat = true → memAddr x w.toNat 0xFF % tySize (mTY w.toNat) = 0 → e ≠ 0xC →
        (s.atIssue core slot r w x).translate core x.inst k (memAddr x w.toNat 0xFF) = (.bad e a, u) →
        Traps c s u core slot x e 0xFF))

/-- Where the checks of alignment and bounds find nothing and the bytes read carry no poison, lds writes the little-endian
value of its bytes to the scalar register or to each performing lane, a narrow integer extended by its type; sts
writes the value's bytes, the highest lane's value remaining where two lanes write a byte, and every other byte of the
local store, all memory, every register and every other group are unchanged. It says where these complete: LDS, STS.
(R47, R70, R79, R80) -/
def Obligations.LocalStoreAccesses : Prop :=
  ∀ (s : State) (core slot : Nat) (w : Word) (x : Group),
    (Issues s core slot .lds w 0 x → s.lsCheck slot x w.toNat = none →
      (∀ l ∈ memLanes x w.toNat, anyPoison (s.lsRead core (lsOffset x w.toNat l) (tySize (mTY w.toNat))) = false) →
      (mS w.toNat = true → WritesScalar (.lds core slot w) s core slot x (wD w.toNat)
        (scalarOf (mTY w.toNat) (ofLe (plain (s.lsRead core (lsOffset x w.toNat 0xFF) (tySize (mTY w.toNat))))))) ∧
      (mS w.toNat = false → WritesLanes (.lds core slot w) s core slot x (x.lanes (wKM w.toNat)) (wD w.toNat)
        (tyRegs (mTY w.toNat)) (fun l =>
          let v := ofLe (plain (s.lsRead core (lsOffset x w.toNat l) (tySize (mTY w.toNat))))
          if tySigned (mTY w.toNat) && tySize (mTY w.toNat) < 4 then wrap 32 (sext (8 * tySize (mTY w.toNat)) v)
          else v % 2 ^ (8 * tySize (mTY w.toNat))))) ∧
    (Issues s core slot .sts w 0 x → s.lsCheck slot x w.toNat = none →
      ∃ t, exec (.sts core slot w) s = .next t ∧ t = { s with cores := t.cores } ∧ (∀ g, g ≠ core → t.core g = s.core g) ∧
        t.group core slot = some { x with pc := x.pc + 8, window := x.window - 1 } ∧
        (∀ k, k ≠ slot → t.group core k = s.group core k) ∧
        (∀ off, (∀ l ∈ memLanes x w.toNat, off < lsOffset x w.toNat l ∨ lsOffset x w.toNat l + tySize (mTY w.toNat) ≤ off) →
          (t.lsByte core off).1 = (s.lsByte core off).1) ∧
        (∀ l ∈ memLanes x w.toNat, ∀ i, i < tySize (mTY w.toNat) →
          (∀ m ∈ memLanes x w.toNat, l < m → lsOffset x w.toNat l + i < lsOffset x w.toNat m ∨
            lsOffset x w.toNat m + tySize (mTY w.toNat) ≤ lsOffset x w.toNat l + i) →
          (t.lsByte core (lsOffset x w.toNat l + i)).1 = (storeData x w.toNat l).getD i 0))

/-- Where the translation and permission checks of every access succeed, nothing that the instruction waits for is missing
and no byte read is poisoned, ld, st, atom, hint.dead, pin, unpin and a code fetch answer the next state that the
shared cache, home and remote operations give: the bytes of this module and of the host read, written or updated at
once, one request sent for each access of a peer, whose answers the group of a load or atomic awaits, and the pc past
the word. Of the lanes of a store that name one address only the highest writes. An acquire invalidates after the
read. The model's choices here: the bytes are read or written at once (log 20), caches and homes act at once (log 19),
pin, unpin and hint.dead only translate (log 34), and a store of one or two bytes to a peer is a cas that the group
awaits (log 79). It says where these complete: LD, ST, ATOM, PIN, UNPIN, HINT_DEAD, FETCH_CODE. (R79, R80, R82, R84,
R85, R86, R90, R226, R66, R352) -/
def Obligations.MemoryAccessesComplete : Prop :=
  ∀ (s : State) (core slot : Nat) (w : Word) (x : Group) (hits : List Hit) (s2 : State),
    (Issues s core slot .ld w 0 x →
      (s.atIssue core slot .ld w x).checkAll core x.inst .read (tySize (mTY w.toNat))
        ((memLanes x w.toNat).map (fun l => (l, memAddr x w.toNat l))) = (.ok hits, s2) →
      ∀ vals s3, s2.loadAll core x.inst (tySize (mTY w.toNat)) (hits.filter (fun h => !inPeer h.pa)) = (vals, s3) →
      (∀ v ∈ vals, anyPoison v.2 = false) →
      ∀ txs s4, (hits.filter (fun h => inPeer h.pa)).foldl (fun (acc : List Nat × State) h =>
        let (t, s) := acc.2.loadPeer core slot x.inst (mS w.toNat) w.toNat x.idx h
        (acc.1 ++ t, s)) ([], s3) = (txs, s4) →
      exec (.ld core slot w) s = .next
        ((if mORD w.toNat = 0 then s4 else s4.acquire core (mSC w.toNat)).stepGroup core slot 8
          (let got := vals.map (fun v => (v.1.lane, ofLe (plain v.2)))
           if txs = [] then x.setAll (mS w.toNat) (mTY w.toNat) (wD w.toNat) got else { x with await := txs, got := got }))) ∧
    (Issues s core slot .st w 0 x →
      (s.atIssue core slot .st w x).checkAll core x.inst .write (tySize (mTY w.toNat))
        ((memLanes x w.toNat).map (fun l => (l, memAddr x w.toNat l))) = (.ok hits, s2) →
      ∀ txs s3, (lastWriters hits).foldl (fun (acc : List Nat × State) h =>
        if inPeer h.pa then
          let (t, s) := acc.2.storePeer core slot x h (storeData x w.toNat h.lane)
          (acc.1 ++ t, s)
        else (acc.1, acc.2.storeBytes core x.inst x.idx h (clean (storeData x w.toNat h.lane)))) ([], s2) = (txs, s3) →
      exec (.st core slot w) s = .next (s3.stepGroup core slot 8 { x with await := txs })) ∧
    (Issues s core slot .atom w 0 x →
      (s.atIssue core slot .atom w x).checkAll core x.inst .write (tySize (mTY w.toNat))
        ((memLanes x w.toNat).map (fun l => (l, memAddr x w.toNat l))) = (.ok hits, s2) →
      (∀ h ∈ hits, inHost h.pa = true → (hostAtomic (wOp w.toNat - 0x58) (mTY w.toNat)).isSome = true ∧ s2.host.atomicOps = true) →
      ∀ s3, s3 = hits.foldl (fun (s : State) h => s.l1Drop core (lineOf h.pa)) s2 →
      (∀ e ∈ gather x w.toNat hits, s3.metPoison w.toNat e.1 = false) →
      ∀ txs y s4, s3.atomAll core slot w.toNat x (gather x w.toNat hits) = (txs, y, s4) →
      exec (.atom core slot w) s = .next
        ((if mORD w.toNat = 1 || mORD w.toNat = 3 then s4.acquire core (mSC w.toNat) else s4).stepGroup core slot 8
          { y with await := txs })) ∧
    (Issues s core slot .hintDead w 0 x →
      (s.atIssue core slot .hintDead w x).checkEach core x.inst .write
        ((memLanes x w.toNat).map (fun l => (l, memAddr x w.toNat l))) = (.ok hits, s2) →
      exec (.hintDead core slot w) s = .next
        ((hits.foldl (fun (s : State) h => s.deadLine (s.accOf x.inst h.leaf false) h.pa) s2).advance core slot 8)) ∧
    (Issues s core slot .pin w 0 x → ∀ h,
      (s.atIssue core slot .pin w x).checkHere core x.inst .read 0xFF (memAddr x w.toNat 0) = (.ok h, s2) →
      exec (.pin core slot w) s = .next ((s2.pinLine (s2.accOf x.inst h.leaf false) h.pa).2.stepGroup core slot 8
        (x.setS (wD w.toNat) (BitVec.ofNat 64 (s2.pinLine (s2.accOf x.inst h.leaf false) h.pa).1)))) ∧
    (Issues s core slot .unpin w 0 x → ∀ h,
      (s.atIssue core slot .unpin w x).checkHere core x.inst .read 0xFF (memAddr x w.toNat 0) = (.ok h, s2) →
      exec (.unpin core slot w) s = .next ((s2.unpinLine h.pa).2.stepGroup core slot 8
        (x.setS (wD w.toNat) (BitVec.ofNat 64 (s2.unpinLine h.pa).1)))) ∧
    (core < 8192 → slot < 16 → s.group core slot = some x → s.mayIssue core x = true → s.walkWaits core x.inst w.toNat = false → ∀ h,
      s.checkOne core x.inst .exec 1 0xFF (alignDown w.toNat 128) = (.ok h, s2) → s2.heldAt core h.pa false = false →
      anyPoison (s2.hbmRead { s2.accOf x.inst h.leaf false with ask := some .critical } h.pa 128).1 = false →
      exec (.fetchCode core slot w) s = .next ((s2.hbmRead { s2.accOf x.inst h.leaf false with ask := some .critical } h.pa 128).2.updCore core (fun c =>
        let line := plain (s2.hbmRead { s2.accOf x.inst h.leaf false with ask := some .critical } h.pa 128).1
        { c with code := NMap.ins c.code (w.toNat / 128) line })))

/-- When no remote write of the group lacks its acknowledgement, fence moves on with memory unchanged; at chip or system
scope the core's cache portion is empty and at system scope the cluster's L2 holds no host-cacheable line. While one
lacks it, the group stays where it is. inv.l1 moves on with the cache portion empty and nothing else of the state
changed. It says where these complete: FENCE, INV_L1. (R82, R88, R211, R219, R221) -/
def Obligations.FencesInvalidate : Prop :=
  ∀ (s : State) (core slot : Nat) (w : Word) (x : Group),
    (Reaches s core slot .fence w 0 x → s.unacked core (some slot) = 0 →
      ∃ t, exec (.fence core slot w) s = .next t ∧
        t.group core slot = some { x with pc := x.pc + 8, window := x.window - 1 } ∧
        t = { s with cores := t.cores, clusters := t.clusters } ∧ (∀ g, g ≠ core → t.core g = s.core g) ∧
        (∀ n, n ≠ core / 64 → t.cluster n = s.cluster n) ∧
        (mSC w.toNat = 0 → (t.core core).l1 = (s.core core).l1 ∧ t.cluster (core / 64) = s.cluster (core / 64)) ∧
        (mSC w.toNat ≠ 0 → (t.core core).l1 = []) ∧
        (mSC w.toNat = 2 → (t.cluster (core / 64)).l2 = (s.cluster (core / 64)).l2.filter (fun l => l.st ≠ .NC))) ∧
    (Reaches s core slot .fence w 0 x → s.unacked core (some slot) ≠ 0 → BecomesGroup (.fence core slot w) s core slot x) ∧
    (Reaches s core slot .invL1 w 0 x →
      ∃ t, exec (.invL1 core slot w) s = .next t ∧
        t.group core slot = some { x with pc := x.pc + 8, window := x.window - 1 } ∧
        t = { s with cores := t.cores } ∧ (∀ g, g ≠ core → t.core g = s.core g) ∧ (t.core core).l1 = [])

/-- pin answers 0, 1 or 2, and 2 exactly for an address that is not HBM-backed, which changes nothing; a line that is
already pinned answers 0, stays pinned, and nothing but the note of who pinned it changes. unpin answers 0 or 3,
changes the state only with 0, and answers 0 exactly for a line that is pinned. (R89, R250, R251, R252) -/
def Obligations.PinStatuses : Prop :=
  ∀ (s : State) (c : Acc) (pa : Nat),
    (s.pinLine c pa).1 ≤ 2 ∧ ((s.pinLine c pa).1 = 2 ↔ inHbm pa = false) ∧
    (inHbm pa = false → (s.pinLine c pa).2 = s) ∧
    (∀ l, inHbm pa = true → (s.slice (s.homeSlice pa)).line (lineOf pa) = some l → l.pinned = true →
      ∃ by_, s.pinLine c pa = (0, s.updSlice (s.homeSlice pa) (fun x => x.setLine { l with pinBy := by_ }))) ∧
    (s.unpinLine pa).1 ∈ [0, 3] ∧ ((s.unpinLine pa).1 ≠ 0 → (s.unpinLine pa).2 = s) ∧
    ((s.unpinLine pa).1 = 0 ↔ inHbm pa = true ∧ ∃ l, (s.slice (s.homeSlice pa)).line (lineOf pa) = some l ∧ l.pinned = true)

/-- Where the descriptors pass the checks of issue and an entry is free, cp.async starts a copy, holds a commit copy or
claims the staged copy that has landed, and mma.async and mma.drain add an operation that has not started to the eight
of the core; the pc moves by 16. It says where these complete: CP_ASYNC, MMA_ASYNC, MMA_DRAIN. (R63, R91, R93, R99,
R100, R102, R139, R162, R191) -/
def Obligations.AsyncIssueCompletes : Prop :=
  ∀ (s : State) (core slot : Nat) (w w1 : Word) (x : Group),
    (Issues s core slot .cpAsync w w1 x → lsOk (s.launchOf x) slot (fld w1.toNat 0 18) 64 = true →
      ∀ u, u = s.atIssue core slot .cpAsync w x →
      ∀ j d, u.buildJob core slot x w.toNat w1.toNat x.pc = (j, d) → u.checkJob x j d = 0 →
      ∀ s0, s0 = (if j.dir = 1 then u.dropStaged core slot else u) →
      (j.tc = true → x.commits.length < 8 → commitBytes (x.commits ++ [j]) ≤ 524288 →
        exec (.cpAsync core slot w w1) s = .next
          ((s0.updCore core (fun c => { c with nextCopy := c.nextCopy + 1 })).stepGroup core slot 16
            { x with commits := x.commits ++ [{ j with id := (s.core core).nextCopy }] })) ∧
      (j.tc = false → (s0.core core).staged.find? (fun t => t.slot = slot && t.key = copyKey x d w.toNat w1.toNat) = none →
        exec (.cpAsync core slot w w1) s = .next ((s0.startCopy core j).advance core slot 16)) ∧
      (∀ t, j.tc = false → (s0.core core).staged.find? (fun t => t.slot = slot && t.key = copyKey x d w.toNat w1.toNat) = some t →
        t.landed = true → exec (.cpAsync core slot w w1) s = .next
          (((j.run 0 j.total).foldl (fun (s : State) e => s.landBytes core j e.1 ((t.data.drop e.1).take e.2))
            (s0.updCore core (fun c => { c with staged := c.staged.erase t }))).advance core slot 16))) ∧
    (Issues s core slot .mmaAsync w w1 x → ∀ m n k, matShape (fld w.toNat 16 4) = some (m, n, k) →
      lsOk (s.launchOf x) slot (fld w1.toNat 0 18) 32 = true → lsOk (s.launchOf x) slot (fld w1.toNat 18 18) 32 = true →
      s.poisonIn core [(fld w1.toNat 0 18, 32), (fld w1.toNat 18 18, 32)] = none →
      ∀ a da b db, s.tile core (fld w1.toNat 0 18) = (a, da) → s.tile core (fld w1.toNat 18 18) = (b, db) →
      fld w.toNat 12 4 ≤ 0xB → a.malformed da m k = false → b.malformed db n k = false → a.format = fld w.toNat 12 4 →
      matGroup b.format = matGroup (fld w.toNat 12 4) →
      (bit w.toNat 21 = true → matGroup (fld w.toNat 12 4) ≤ 3 ∨ matGroup (fld w.toNat 12 4) = 6) →
      a.sparse = bit w.toNat 21 → b.sparse = false →
      (bit w.toNat 20 = true → fld w.toNat 16 4 ∈ [0, 1, 2, 4] ∧ (s.launchOf x).exactRad = true) → fld w1.toNat 36 14 % 8 = 0 →
      (∀ e ∈ a.runs m k ++ b.runs n k, lsOk (s.launchOf x) slot e.1 e.2 = true) →
      fld w1.toNat 36 14 + accUnits (bit w.toNat 20) m n ≤ 16384 →
      ∃ t, exec (.mmaAsync core slot w w1) s = .next t ∧
        t.group core slot = some { x with pc := x.pc + 16, window := x.window - 1 } ∧ t.mem = s.mem ∧
        (t.core core).mats = (s.core core).mats ++
          [{ slot := slot, inst := x.inst, idx := x.idx, task := x.task, pc := x.pc, acci := fld w1.toNat 36 14,
             counter := if bit w.toNat 23 then none else some (fld w1.toNat 50 5), started := false,
             work := .mma (fld w.toNat 12 4) m n k (bit w.toNat 20) (bit w.toNat 21) (bit w.toNat 22) a b }]) ∧
    (Issues s core slot .mmaDrain w w1 x → lsOk (s.launchOf x) slot (fld w1.toNat 0 18) 32 = true →
      s.poisonIn core [(fld w1.toNat 0 18, 32)] = none →
      ∀ e d, s.epi core (fld w1.toNat 0 18) = (e, d) → e.malformed d = false →
      fld w1.toNat 18 14 % 8 = 0 → (∀ r ∈ e.runs, lsOk (s.launchOf x) slot r.1 r.2 = true) →
      fld w1.toNat 18 14 + accUnits e.ext e.m e.n ≤ 16384 →
      ∃ t, exec (.mmaDrain core slot w w1) s = .next t ∧
        t.group core slot = some { x with pc := x.pc + 16, window := x.window - 1 } ∧ t.mem = s.mem ∧
        (t.core core).mats = (s.core core).mats ++
          [{ slot := slot, inst := x.inst, idx := x.idx, task := x.task, pc := x.pc, acci := fld w1.toNat 18 14,
             counter := if bit w.toNat 12 then none else some (fld w1.toNat 32 5), started := false, work := .drain e }])

/-- Arriving bytes of a copy move it to the next point where a step may end, by the step of its kind; run-ahead at a
conditional branch looks along the predicted path and stages what it may; the bytes of a staged copy arrive; the
matrix engine starts the oldest operation of its kind that has not started; an operation that meets no poison, invalid
metadata or checksum mismatch leaves the engine, writes its tile or its rows and advances its counter by 1 or by the
bytes written. The model's choices here: the path and the prediction of a branch to itself (log 95), the points where
a step may end (logs 97 and 27), the order of completion (log 30), and that the array reads its operands at completion
(log 141). It says where these complete: RUN_AHEAD, RUN_AHEAD_STAGED, COPY_DATA_LANDED, MMA_START, MMA_COMPLETE,
DRAIN_START, DRAIN_COMPLETE. (R59, R62, R126, R142, R147, R150, R151, R153, R154, R162) -/
def Obligations.AsyncWorkCompletes : Prop :=
  ∀ (s : State) (core : Nat), core < 8192 →
    (∀ id len j, s.job core id = some j → ((s.launch j.inst j.idx).getD {}).fault = none → j.tc = false → s.err.fatal = false →
      s.therm.tripped = false → s.board.rails = true → len ≠ 0 → j.landed < j.total → j.remote = [] →
      ∀ u, s.finFault core j = (none, u) → ∀ e, e = j.cut (j.landed + len) →
      (∀ r ∈ j.run j.landed e, u.walkWaits core j.inst (j.memVa r.1) = false) →
      exec (.copyDataLanded core id len) s = .next (
        if j.dir = 2 then u.pushStep core j e
        else if j.ck || j.dec then (if j.dir = 0 then u.blockLoad core j e else u.blockStore core j e)
        else if j.dir = 0 then u.loadStep core j e else u.storeStep core j e)) ∧
    (∀ (slot : Nat) (w : Word) (path : List Word) x0 x, slot < 16 → s.group core slot = some x0 → x0.settle = x →
      ((s.core core).wordAt x.pc = some w ∨ (s.core core).wordAt x.pc = none) →
      rowOf w.toNat = some .br → wKM w.toNat ≠ 0 → (s.launchOf x).rad = false → x.window ≠ 65 → x.phase = .running → x.active ≠ 0 →
      x.stopped = false → (s.launchOf x).fault = none → s.coreUp core = true → s.acquiring core slot = false →
      exec (.runAhead core slot w path) s = .next (((s.dropStaged core slot).setGroup core slot { x with window := 65 }).scan 64 core slot x []
        false path (if bTGT w.toNat > 0 then x.pc + 8 else x.pc + BitVec.ofInt 64 (8 * bTGT w.toNat)))) ∧
    (∀ (idx : Nat) t bs u, (s.core core).staged[idx]? = some t → t.landed = false → s.sourceReady core t.job = true →
      s.stagedBytes core t.job = (some bs, u) →
      exec (.runAheadStaged core idx) s =
        .next (u.updCore core (fun c => { c with staged := setNth c.staged idx { t with landed := true, data := bs } }))) ∧
    exec (.mmaStart core) s = .next (s.updCore core (fun c => { c with mats := startNext false [] c.mats })) ∧
    exec (.drainStart core) s = .next (s.updCore core (fun c => { c with mats := startNext true [] c.mats })) ∧
    (∀ o fmt m n k exa sp acc a b av bv, (s.core core).mats.find? (fun o => !o.isDrain) = some o → o.started = true →
      ((s.launch o.inst o.idx).getD {}).fault = none → o.work = .mma fmt m n k exa sp acc a b →
      s.poisonIn core (a.runs m k ++ b.runs n k) = none →
      (s.core core).accPoison.find? (fun g => acc && o.acci < 4 * g + 4 && 4 * g < o.acci + accUnits exa m n) = none →
      (List.range m).map (fun r => s.rowVals core a k r) = av.map some →
      (List.range n).map (fun r => s.rowVals core b k r) = bv.map some →
      s.crcBad core a m k = false → s.crcBad core b n k = false →
      ∃ t c, exec (.mmaComplete core) s = .next t ∧ t.mem = s.mem ∧ (t.core core).mats = (s.core core).mats.erase o ∧
        c = mmaTile { s.core core with mats := (s.core core).mats.erase o } o.acci m n exa acc
          (((s.launch o.inst o.idx).getD {}).wlow.toNat) av bv ∧
        (t.core core).acc = c.acc ∧ (t.core core).accWritten = c.accWritten ||| granMask o.acci (accUnits exa m n) ∧
        (∀ q x, o.counter = some q → s.group core o.slot = some x → x.inst = o.inst → x.idx = o.idx → x.task = o.task →
          t.ctr core o.slot q = NMap.at c.ctrs (ctrKey o.slot q) 0 + 1)) ∧
    (∀ o e, (s.core core).mats.find? (fun o => o.isDrain) = some o → o.started = true →
      ((s.launch o.inst o.idx).getD {}).fault = none → o.work = .drain e →
      (s.core core).accPoison.find? (fun g => o.acci < 4 * g + 4 && 4 * g < o.acci + accUnits e.ext e.m e.n) = none →
      s.poisonIn core (if e.bias then [(e.boff, 4 * e.n)] else []) = none →
      ∀ rows, rows = (List.range e.m).map (fun r =>
        let x := epiRow e ((s.launch o.inst o.idx).getD {}).seed o.task r
          (fun j => (s.core core).accN (o.acci + (if e.ext then 8 else 1) * (r * e.n + j)) (if e.ext then 8 else 1))
          (fun j => if e.bias then ofLe (plain (s.lsRead core (e.boff + 4 * j) 4)) else 0)
        (packRow (outBits e.otype) x.1, x.2.map (BitVec.ofNat 8))) →
      ∀ t, t = rows.zipIdx.foldl (fun (t : State) p =>
        let t := t.lsWrite core (e.out + p.2 * e.ostride * 8) (clean p.1.1)
        if p.1.2 = [] then t else t.lsWrite core (e.soff + p.2 * (e.n / 32)) (clean p.1.2)) (s.dropMat core o) →
      ∀ u, u = (if e.ck then t.lsWrite core e.ckoff (clean (leBytes 4 (crc32c (rows.flatMap Prod.fst)))) else t) →
      exec (.drainComplete core) s = .next (match o.counter with
        | some a => u.countOwn core o.slot o.inst o.idx o.task a e.written
        | none => u))

/-- For a launch whose shared region fits beside the cache portion and the counters, the model's groups per core is the
least of 16, 1024 divided by V, and the regions of G bytes that the rest of the local store holds (16 where G is 0).
(R45) -/
def Obligations.GroupsPerCoreFormula : Prop :=
  ∀ (l : Launch) (v g sh c : Nat), l.v = v → l.g = g → l.s = sh → l.c = c → 0 < v → sh + 2048 + c ≤ 256 * 1024 →
    groupsPerCore l =
      (let byRegs := 1024 / v
       let byLs := if g = 0 then 16 else (256 * 1024 - c - 2048 - sh) / g
       let n := 16
       let n := if byRegs < n then byRegs else n
       if byLs < n then byLs else n)

/-- Where the core may take work and no saved launch will come back to it, its cluster's queue has a task of the launch
and a slot is free, TASK_TAKE answers a state in which that slot holds a group at the entry address with all threads
active, s0 to s5 as the table says and s6 to s63 zero, v0 the lane number and the other vector registers zero, k1 to
k7 zero, an empty stack, nothing parked, its arrival counters zero, and the core's cache portion empty. It says where
these complete: TASK_TAKE. (R42, R141, R187, R219) -/
def Obligations.TaskStartState : Prop :=
  ∀ (s : State) (core i idx slot : Nat) (l : Launch) (e : QEntry), core < 8192 → s.coreUp core = true → s.draining core = false →
    s.awaitsImage core = false →
    s.launchFor core = some (i, idx) → s.launch i idx = some l → takeFrom (s.cluster (core / 64)).queue i idx = some e →
    l.fault = none → l.saved = false → l.saveBy = none → (s.inst i).state = .active → (s.inst i).preempting = false →
    (List.range (groupsPerCore l)).find? (fun t => (s.group core t).isNone) = some slot →
    ∃ t y, exec (.taskTake core) s = .next t ∧ t.group core slot = some y ∧ t.mem = s.mem ∧
      (y.inst, y.idx, y.task) = (l.inst, l.idx, e.lo) ∧ y.pc = l.entry.setWidth 64 ∧ y.active = 0xFFFFFFFF ∧ y.stack = [] ∧
      (y.parked, y.exited) = (0, 0) ∧
      y.s 0 = BitVec.ofNat 64 (e.lo % l.gx) ∧ y.s 1 = BitVec.ofNat 64 (e.lo / l.gx % l.gy) ∧
      y.s 2 = BitVec.ofNat 64 (e.lo / l.gx / l.gy) ∧ y.s 3 = l.args.setWidth 64 ∧
      y.s 4 = BitVec.ofNat 64 (core + slot * 2 ^ 16) ∧ y.s 5 = BitVec.ofNat 64 (l.idx % 2 ^ 16) ∧
      (∀ r, 6 ≤ r → y.s r = 0) ∧ (∀ lane, lane < 32 → y.v 0 lane = BitVec.ofNat 32 lane) ∧
      (∀ r lane, 0 < r → lane < 32 → y.v r lane = 0) ∧ (∀ r, 0 < r → y.k r = 0) ∧ (∀ n, n < 32 → t.ctr core slot n = 0) ∧
      (t.core core).l1 = []

/-- A steal that finds a range of at least two tasks of the launch and no re-queued one leaves the victim the lower tasks
and gives the thief the upper half, rounded down; one that finds a re-queued task moves it whole. The tasks of the
launch in the two queues together stay as many, both counters and the launch's steal count go up by one, and every
other cluster is unchanged. A thief that has no core up receives nothing. It says where these complete: STEAL_REQUEST.
(R26, R189, R190, R199) -/
def Obligations.StealsMoveHalf : Prop :=
  (∀ (s : State) (thief victim inst idx : Nat) (l : Launch) (e : QEntry), thief < 128 → victim < 128 → inst < 64 → thief ≠ victim →
    (inst, idx, victim) ∈ (s.cluster thief).chosen → s.launch inst idx = some l →
    (coresOf thief).any s.coreUp = true → (s.cluster victim).queue.find? (fun q => q.inst = inst && q.idx = idx && q.requeued) = some e ∨
      ((s.cluster victim).queue.find? (fun q => q.inst = inst && q.idx = idx && q.requeued) = none ∧
       (s.cluster victim).queue.find? (fun q => q.inst = inst && q.idx = idx && q.hi - q.lo ≥ 2) = some e) →
    ∃ t g, exec (.stealRequest thief victim inst idx) s = .next t ∧
      (t.cluster thief).queue = (s.cluster thief).queue ++ [g] ∧
      (e.requeued = true → g = e) ∧ (e.requeued = false → g = { e with lo := e.hi - (e.hi - e.lo) / 2 }) ∧
      (g.hi - g.lo) + ((t.cluster victim).queue.map (fun q => q.hi - q.lo)).sum =
        ((s.cluster victim).queue.map (fun q => q.hi - q.lo)).sum ∧
      (t.cluster victim).victim = (s.cluster victim).victim.add 1 ∧ (t.cluster thief).steals = (s.cluster thief).steals.add 1 ∧
      (∃ m, t.launch inst idx = some m ∧ m.steals = l.steals + 1) ∧
      (∀ n, n ≠ thief → n ≠ victim → t.cluster n = s.cluster n) ∧ t.cores = s.cores ∧ t.mem = s.mem) ∧
    (∀ (s : State) (thief victim inst idx : Nat), thief < 128 → victim < 128 → inst < 64 →
      (inst, idx, victim) ∈ (s.cluster thief).chosen → (coresOf thief).any s.coreUp = false →
      ∃ t, exec (.stealRequest thief victim inst idx) s = .next t ∧ (∀ n, (t.cluster n).queue = (s.cluster n).queue) ∧
        t.launches = s.launches ∧ t.cores = s.cores ∧ t.mem = s.mem)

/-- Each command of the Reel answers the next state of its rule where its conditions hold: a launch with met dependencies
is placed or completes as not fitting, the awaited word is read and its answer kept, an idle cluster chooses its
victim, a reservation reads the commit copies, a commit point marks the task's buffered writes as committed, frees its
slot, counts the task and performs what may be performed, a launch whose tasks have all committed completes, a killed
launch writes its event and completes, a lost core and a drain act, and CLR clears the counters of every cluster.
DRAIN is taken as the drain of a reset (the model's choice, log 99). It says where these complete: CONTEXT_KILL,
LAUNCH_READY, DEPENDENCY_POLL, STEAL_CHOOSE, COMMIT_RESERVATION, COMMIT_POINT, LAUNCH_COMPLETE, CORE_LOST, DRAIN,
DRAIN_TMAX_EXPIRY, REEL_CLR. (R46, R55, R57, R182, R185, R188, R191, R192, R193, R194, R197, R199) -/
def Obligations.LaunchProgress : Prop :=
  ∀ (s : State) (inst idx : Nat) (l : Launch), inst < 64 → s.launch inst idx = some l →
    (∀ e cs, s.entry inst idx = some e → e.held = false → l.placed = false → l.fault = none → (s.inst inst).state = .active →
      s.depsMet inst idx l.deps l.dfail = some true → (l.dctr = false ∨ l.ctrMet = true) → s.placeable l = true →
      groupsPerCore l ≠ 0 → cs = l.clusters.filter (fun n => (coresOf n).any s.coreUp) → cs ≠ [] →
      exec (.launchReady inst idx) s = .next (s.placeRanges l cs)) ∧
    (∀ e, s.entry inst idx = some e → e.held = false → l.placed = false → l.fault = none → (s.inst inst).state = .active →
      s.depsMet inst idx l.deps l.dfail = some true → (l.dctr = false ∨ l.ctrMet = true) → groupsPerCore l = 0 →
      exec (.launchReady inst idx) s = .next (s.finishLaunch l 0x0101)) ∧
    (∀ b t, l.dctr = true → l.placed = false → l.fault = none →
      s.pollWord inst idx l.daddr.toNat l.dval = (.ok b, t) →
      exec (.dependencyPoll inst idx) s = .next (t.setLaunch { l with ctrMet := b })) ∧
    (∀ cl v, cl < 128 → s.idleFor cl l = true → s.chooseVictim l cl = some v →
      ∃ t, exec (.stealChoose cl inst idx) s = .next t ∧ (inst, idx, v) ∈ (t.cluster cl).chosen ∧
        (∀ n, n ≠ cl → t.cluster n = s.cluster n)) ∧
    (l.placed = true → l.fault = none → l.added = false → l.tasks ≤ l.committed →
      s.launchPerformed inst idx = true → l.caddr = 0 →
      exec (.launchComplete inst idx) s = .next (s.finishLaunch l 0)) ∧
    (∀ f, l.fault = some f → l.killStatus = none →
      exec (.contextKill inst idx) s = .next (((s.dropWork inst idx).event inst
        { cls := 1, code := f.code, flags := BitVec.ofNat 8 (b2n l.more), unit := f.unit, beat := f.beat, phase := f.phase,
          detail := BitVec.ofNat 96 (f.pc.toNat % 2 ^ 56 + f.slot * 2 ^ 64 + f.lane.toNat * 2 ^ 72 + idx % 2 ^ 16 * 2 ^ 80) }
        |>.finishLaunch l 0x0102).settleControls)) ∧
    (∀ cl w g slot rest x s1 js ws, cl < 128 → (s.cluster cl).commitWait = (w, g, slot) :: rest → s.group g slot = some x →
      x.stopped = false → (s.launchOf x).fault = none →
      ((s.cluster cl).commitBuf.map (fun r => r.bytes)).sum + commitBytes x.commits ≤ 524288 →
      commitJobs g s x.commits = (s1, js, ws, true) →
      ∃ t, exec (.commitReservation cl) s = .next t ∧ (t.cluster cl).commitWait = rest ∧
        (t.cluster cl).commitBuf = (((s1.updGroup g slot (fun y => { y with commits := js })).updGroup g slot
            (fun y => { y with phase := .reserved })).cluster cl).commitBuf ++
          [{ core := g, slot := slot, inst := x.inst, idx := x.idx, task := x.task, bytes := commitBytes x.commits, writes := ws }]) ∧
    (∀ core slot x, core < 8192 → slot < 16 → s.group core slot = some x →
      (x.phase = .ended ∧ x.commits = []) ∨ (x.phase = .reserved ∧
        ∃ r ∈ (s.cluster (clusterOf core)).commitBuf, r.core = core ∧ r.slot = slot ∧ r.committed = false) →
      x.stopped = false → (s.launchOf x).fault = none →
      exec (.commitPoint core slot) s = .next
        (((((s.updCluster (clusterOf core) (fun c => { c with commitBuf := c.commitBuf.map (fun r =>
            if r.core = core && r.slot = slot && !r.committed then { r with committed := true, behind :=
              (s.ael.outst.filter (fun o => o.p.opc = 1 && o.owner = .store core slot)).map (fun o => o.txid.toNat) } else r) })
          ).freeSlot core slot).drainCommits (clusterOf core)).updLaunch x.inst x.idx
            (fun l => { l with committed := l.committed + 1 })).settleControls)) ∧
    (∀ core logic, core < 8192 → exec (.coreLost core logic) s = .next (s.coreLost core logic).settleControls) ∧
    (∀ u, coreUnitOk u = true → exec (.drain u) s = .next (s.control u .command).settleControls) ∧
    (∀ u d, coreUnitOk u = true → s.drains.find? (fun d => d.unit = u && d.begun && !d.acted) = some d →
      (∀ m ∈ s.launches, m.pinned = false) →
      exec (.drainTmaxExpiry u) s = .next ((((unitCores u).flatMap (fun g => ((s.core g).slots.map Prod.fst).map (fun t => (g, t)))).foldr
        (fun (c : Nat × Nat) (s : State) => s.expireGroup d.since c.1 c.2) s).settleControls)) ∧
    (∀ v, s.regOpen 0 = true → v.getLsbD 0 = true → ∃ t, exec (.reelClr 0 v) s = .next t ∧
      (∀ n, (t.cluster n).steals = {} ∧ (t.cluster n).victim = {} ∧ (t.cluster n).requeue = {} ∧
        (t.cluster n).queue = (s.cluster n).queue) ∧ t.mem = s.mem)

/-- Every request command of a cluster or an instance, on an HBM line that no miss register names, that waits for no
restore or flush, whose L2 and home have a miss register free, and whose sectors the home has without a read of HBM,
answers the state the home's action leaves: GetS of a line that no L2 holds grants E with an entry naming the owner,
GetM and Upg leave the requester the sole owner, a Put empties the write-back buffer of the line, and RdNA and AtomF
send their answer. The message between a cluster and a home of another die is the model's own (log 125). It says where
these complete: GETS, GETM, UPG, GETSEC, PUT, RDNA, WRNA, ATOMF, DEAD. (R230, R231, R233, R242, R243, R244, R245,
R246, R247, R248) -/
def Obligations.HomeRequestsServed : Prop :=
  ∀ (s : State) (cl : Nat) (pa : BitVec 56) (cls : Nat) (secs : BitVec 4), cl < 128 → cls < 7 → inHbm (128 * lineOf pa.toNat) = true →
    (∀ m ∈ (s.slice (s.homeSlice (128 * lineOf pa.toNat))).miss, m.a ≠ lineOf pa.toNat) → s.lineBlocked (lineOf pa.toNat) = false →
    (s.cluster cl).misses.length < 256 → (s.slice (s.homeSlice (128 * lineOf pa.toNat))).miss.length < 124 →
    (∀ (b : Option Nat) j g, j < 4 → s.needsHbm (s.homeSlice (128 * lineOf pa.toNat)) (lineOf pa.toNat) j b g = false) →
    (∀ (b : Option Nat) j g, j < 4 →
      (s.homeSector { getsec := g } (s.homeSlice (128 * lineOf pa.toNat)) (lineOf pa.toNat) j b).1.poison = 0) →
    (s.l2line cl (lineOf pa.toNat) = none → s.wbline cl (lineOf pa.toNat) = none →
      s.dirEntry (s.homeSlice (128 * lineOf pa.toNat)) (lineOf pa.toNat) = none →
      ∃ t, exec (.gets cl pa cls secs) s = .next t ∧ (t.l2line cl (lineOf pa.toNat)).map (fun l => l.st) = some .E ∧
        t.dirEntry (s.homeSlice (128 * lineOf pa.toNat)) (lineOf pa.toNat) =
          some { a := lineOf pa.toNat, st := .EM, owner := cl, sharers := 0 }) ∧
    (s.holdsME cl (lineOf pa.toNat) = false → ∀ c ∈ [Instr.getm cl pa cls secs, .upg cl pa cls],
      ∃ t, exec c s = .next t ∧ (t.l2line cl (lineOf pa.toNat)).map (fun l => l.st) = some .M ∧
        t.dirEntry (s.homeSlice (128 * lineOf pa.toNat)) (lineOf pa.toNat) =
          some { a := lineOf pa.toNat, st := .EM, owner := cl, sharers := 0 }) ∧
    (∀ l, s.l2line cl (lineOf pa.toNat) = some l → ∃ t m, exec (.getsec cl pa cls secs) s = .next t ∧
      t.l2line cl (lineOf pa.toNat) = some m ∧ m.st = l.st ∧ m.dirty = l.dirty ∧ m.valid = l.valid ||| secs) ∧
    (∃ t, exec (.putLine cl pa) s = .next t ∧ t.wbline cl (lineOf pa.toNat) = none) ∧
    exec (.dead cl pa) s = .next (((s.toHome cl (lineOf pa.toNat) 0).deadLine (s.clusterAcc cl 6 pa.toNat) pa.toNat).fromHome cl
      (lineOf pa.toNat) 2) ∧
    (∀ inst prio, inst < 64 → ∃ t d, exec (.rdna inst pa cls secs prio) s = .next t ∧
      t.out = s.out ++ [.homeData (lineOf pa.toNat) secs d]) ∧
    (∀ inst data bulk, inst < 64 → exec (.wrna inst pa cls data bulk) s =
      .next (s.hbmWrite (s.instAcc inst cls pa.toNat bulk) pa.toNat (clean (data.take (128 - pa.toNat % 128))))) ∧
    (∀ op ty x y, atomWell pa.toNat op.toNat ty.toNat = true → ∃ t old, exec (.atomf cl pa cls op ty x y) s = .next t ∧
      ∃ a b, t.out = s.out ++ a ++ [.atomResult cl pa.toNat old] ++ b)

/-- A request for a line with a miss register joins its waiters, the 65th being refused; one that has to wait for HBM, for
a restore or for a flush takes a register, with the sectors that HBM has to give, while fewer than 124 are taken, 128
for a request that has been refused eight times, and is refused beyond that. A GetS of an L2 whose 256 miss registers
are all taken waits there. A refused request is sent again once 43 ns have passed. It says where these complete: GETS,
RETRY_RESPONSE. (R230, R233, R235, R245, R261) -/
def Obligations.HomeMissRegisters : Prop :=
  ∀ (s : State) (c : Instr) (r : HomeReq) (tries n : Nat), homeReq c = some r → n = s.homeSlice (128 * r.a) →
    (∀ m, (s.slice n).miss.find? (fun m => m.a = r.a) = some m → m.waiters.length < 64 →
      ∃ m', (s.homeEnter c tries).slice n = { s.slice n with miss := (s.slice n).miss.map (fun k => if k.a = r.a then
          { k with asked := k.asked ||| m', need := k.need ||| m', waiters := k.waiters ++ [c] } else k) } ∧
        m' &&& m.asked = 0) ∧
    (∀ m, (s.slice n).miss.find? (fun m => m.a = r.a) = some m → 64 ≤ m.waiters.length →
      s.homeEnter c tries = s.refuse n c tries) ∧
    ((s.slice n).miss.find? (fun m => m.a = r.a) = none →
      (s.lineBlocked r.a = true ∨ ∃ j, j < 4 ∧ r.secs.getLsbD j = true ∧ s.needsHbm n r.a j r.by_ r.getsec = true) →
      ((s.slice n).miss.length < (if tries ≥ 8 then 128 else 124) → ∃ need : BitVec 4,
        (∀ j, j < 4 → need.getLsbD j = (r.secs.getLsbD j && s.needsHbm n r.a j r.by_ r.getsec)) ∧
        ((s.homeEnter c tries).slice n).miss = (s.slice n).miss ++ [{ a := r.a, asked := need, need := need, waiters := [c] }]) ∧
      ((if tries ≥ 8 then 128 else 124) ≤ (s.slice n).miss.length → ((s.homeEnter c tries).slice n).miss = (s.slice n).miss ∧
        ∃ q, ((s.homeEnter c tries).slice n).refused = (s.slice n).refused ++ [q] ∧ q.request = c ∧ q.tries = tries + 1)) ∧
    (∀ cl pa cls secs, cl < 128 → cls < 7 → inHbm (128 * lineOf (BitVec.toNat pa)) = true → 256 ≤ (s.cluster cl).misses.length →
      exec (.gets cl pa cls secs) s = .next (s.updCluster cl (fun x => { x with missWait := x.missWait ++ [.gets cl pa cls secs] }))) ∧
    (∀ (slice id : Nat) q, slice < 256 → (s.slice slice).refused.find? (fun q => q.id = id) = some q →
      (q.since + 43 ≤ s.clock.now → exec (.retryResponse slice id) s = .next (((s.toItsHome q.request).updSlice slice (fun x =>
        { x with refused := x.refused.filter (fun p => p.id ≠ id) })).homeEnter q.request q.tries)) ∧
      (s.clock.now < q.since + 43 → exec (.retryResponse slice id) s = .next s))

/-- A forward sends the dirty sectors of the copy that the cluster owns, from its L2 or else its write-back buffer, and
changes nothing but what is on its way between the two (log 125); an invalidation drops an S copy, leaves any other,
and is acknowledged by holder and non-holder alike; a near atomic on HBM for which nothing waits sends its result and
leaves the cluster holding the line in M. It says where these complete: FORWARD, INVALIDATION, NEAR_ATOMIC. (R84,
R242, R245, R248) -/
def Obligations.L2Answers : Prop :=
  ∀ (s : State) (cl : Nat) (pa : BitVec 56), cl < 128 →
    (∀ l, s.ownerLine cl (lineOf pa.toNat) = some l →
      exec (.forwardReq cl pa) s = .next (((s.fromHome cl l.a 1).toHome cl l.a 2).send (.forwarded cl l.a l.dirty l.d))) ∧
    (∃ t, exec (.invalidation cl pa) s = .next t ∧ (∃ a, t.out = s.out ++ a ++ [.invAck cl (lineOf pa.toNat)]) ∧ t.mem = s.mem ∧
      t.slices = s.slices ∧ (∀ l, t.l2line cl (lineOf pa.toNat) = some l → l.st ≠ .S ∧ s.l2line cl (lineOf pa.toNat) = some l) ∧
      (∀ a, a ≠ lineOf pa.toNat → t.l2line cl a = s.l2line cl a) ∧ (∀ q, q ≠ cl → t.cluster q = s.cluster q)) ∧
    (∀ cls op ty x y, atomWell pa.toNat op.toNat ty.toNat = true → cls < 7 → s.heldAt (64 * cl) pa.toNat true = false →
      ∃ t old, exec (.nearAtomic cl pa cls op ty x y) s = .next t ∧ t.out = s.out ++ [.atomResult cl pa.toNat old] ∧
        (t.l2line cl (lineOf pa.toNat)).map (fun l => l.st) = some .M)

/-- CLR clears the counters of every slice and SATEV is kept; SEL selects a view and snapshots its counters, a reserved
view excepted; enabling a range that overlaps an enabled one is refused, any other change flushes the old and the new
extent and holds BUSY until the flush ends; a write that changes nothing in effect flushes nothing, and one while BUSY
adds its extents to those being flushed (the model's choice, log 44); a thrash window takes each class's counts as the
next base; a fenced slice holds no line, directory entry or miss register, and the last slice of a die in service is a
package-fatal error instead. It says where these complete: LLC_CLR, LLC_SEL, NEAR_HOME_ENABLE, NEAR_HOME_FLUSH_DONE,
THRASH_WINDOW, LLC_SLICE_FENCE. (R8, R237, R238, R239, R250, R254, R255, R256, R439, R441) -/
def Obligations.LlcCommands : Prop :=
  ∀ (s : State) (v : BitVec 32), s.regOpen 0 = true →
    (∃ t, exec (.llcClr 0 v) s = .next t ∧ t.llc.satev = v.getLsbD 1 ∧ t.mem = s.mem ∧
      (v.getLsbD 0 = true → ∀ n, (t.slice n).cnt = [] ∧ (t.slice n).lines = (s.slice n).lines ∧ (t.slice n).dir = (s.slice n).dir) ∧
      (v.getLsbD 0 = false → t.slices = s.slices)) ∧
    (v.toNat % 512 < 265 → ∃ t, exec (.llcSel 0 v) s = .next t ∧ t.llc.view = BitVec.ofNat 9 v.toNat ∧ t.slices = s.slices ∧
      ∀ k, k < 35 → NMap.at t.llc.snap k {} = s.sumCtr (viewSlices (v.toNat % 512)) k) ∧
    (265 ≤ v.toNat % 512 → exec (.llcSel 0 v) s = .next s) ∧
    (∀ i r, i < 64 → r = NMap.at s.llc.nh i {} →
      (v.getLsbD 8 = true → r.live = none → (∃ e ∈ s.llc.nh, e.1 ≠ i ∧ ∃ a b d, e.2.live = some (a, b, d) ∧ a ≤ r.limit.toNat ∧
          r.base.toNat ≤ b) → ∃ t, exec (.nearHomeEnable 0 i v) s = .next t ∧
        NMap.at t.llc.nh i {} = { r with die := BitVec.ofNat 2 v.toNat, en := false, refused := true } ∧ t.slices = s.slices ∧
        t.mem = s.mem) ∧
      (v.getLsbD 8 = true → r.live = none → (∀ e ∈ s.llc.nh, e.1 ≠ i → ∀ a b d, e.2.live = some (a, b, d) → r.limit.toNat < a ∨
          b < r.base.toNat) → ∃ t, exec (.nearHomeEnable 0 i v) s = .next t ∧
        NMap.at t.llc.nh i {} = { r with
          die := BitVec.ofNat 2 v.toNat, en := true, refused := false, live := some (r.base.toNat, r.limit.toNat, v.toNat % 4),
          busy := true, flushing := (if r.busy then r.flushing else []) ++ [(r.base.toNat, r.limit.toNat)] }) ∧
      (∀ a b d, v.getLsbD 8 = false → r.live = some (a, b, d) → ∃ t, exec (.nearHomeEnable 0 i v) s = .next t ∧
        NMap.at t.llc.nh i {} = { r with
          die := BitVec.ofNat 2 v.toNat, en := false, refused := false, live := none,
          busy := true, flushing := (if r.busy then r.flushing else []) ++ [(a, b)] })) ∧
    (∀ i r a b d, i < 64 → r = NMap.at s.llc.nh i {} → v.getLsbD 8 = true → r.live = some (a, b, d) →
      (∀ e ∈ s.llc.nh, e.1 ≠ i → ∀ a b d, e.2.live = some (a, b, d) → r.limit.toNat < a ∨ b < r.base.toNat) →
      ∃ t, exec (.nearHomeEnable 0 i v) s = .next t ∧ NMap.at t.llc.nh i {} =
        (if (a, b, d) = (r.base.toNat, r.limit.toNat, v.toNat % 4) then
          { r with die := BitVec.ofNat 2 v.toNat, en := true, refused := false, live := some (a, b, d) }
         else { r with
          die := BitVec.ofNat 2 v.toNat, en := true, refused := false, live := some (r.base.toNat, r.limit.toNat, v.toNat % 4),
          busy := true, flushing := (if r.busy then r.flushing else []) ++ [(a, b)] ++ [(r.base.toNat, r.limit.toNat)] })) ∧
    (∀ i, i < 64 → (NMap.at s.llc.nh i {}).busy = true → ∃ t, exec (.nearHomeFlushDone i) s = .next t ∧
      (NMap.at t.llc.nh i {}).busy = false) ∧
    (∃ t, exec .thrashWindow s = .next t ∧ t.slices = s.slices ∧
      ∀ c, c < 7 → NMap.at t.llc.thrashBase (2 * c) 0 = (s.sumCtr (List.range 256) (5 * c)).count ∧
        NMap.at t.llc.thrashBase (2 * c + 1) 0 = (s.sumCtr (List.range 256) (5 * c + 2)).count) ∧
    (∀ n, n < 256 → (s.slice n).fenced = false → s.lastSlice n = false → exec (.llcSliceFence n) s = .next (s.fenceSlice n) ∧
      ∃ x, x = (s.fenceSlice n).slice n ∧ x.fenced = true ∧ x.lines = [] ∧ x.dir = [] ∧ x.miss = []) ∧
    (∀ n, n < 256 → s.lastSlice n = true → exec (.llcSliceFence n) s = .next (s.packageFatal (sliceUnit n)))

/-- A burst slot of a pseudo-channel in service takes the oldest critical request first, an open row before the others; a
read is then in flight and a write has ended. In a recalibration window it takes none, and a slot with nothing to
serve counts as one. Read data leaves the flight and answers the miss register that asked for it. A patrol read enters
the bulk queue, and its data is decoded and corrected in place. A recalibration window opens at a beat edge at least 8
beats after the stack's last one and 1,000 after the channel's when no critical request has waited over 400 ns, one
channel of a stack at a time, and closes. It says where these complete: HBM_READ_DATA, HBM_BURST_SLOT, PATROL,
RECALIBRATION_WINDOW, RECALIBRATION_WINDOW_END. (R235, R259, R261, R262, R263, R264, R265, R428) -/
def Obligations.HbmScheduling : Prop :=
  ∀ (s : State) (pch : Nat), pch < 1024 →
    ((s.pch pch).state = 0 → (pch / 64, pch % 64 / 2) ∉ s.hbm.recal → ∀ q, (s.pch pch).nextCrit = some q →
      ∃ t, exec (.hbmBurstSlot pch) s = .next t ∧ (t.pch pch).flight = (if q.write then (s.pch pch).flight else (s.pch pch).flight ++ [q]) ∧
        (t.pch pch).crit = (s.pch pch).crit.filter (fun r => r.id ≠ q.id) ∧ NMap.find (t.pch pch).openRows q.bank = some q.row ∧
        (∀ n, n ≠ pch → t.pch n = s.pch n) ∧ t.mem = s.mem ∧ t.slices = s.slices) ∧
    ((pch / 64, pch % 64 / 2) ∈ s.hbm.recal → exec (.hbmBurstSlot pch) s = .next s) ∧
    ((s.pch pch).state = 0 → (pch / 64, pch % 64 / 2) ∉ s.hbm.recal → (s.pch pch).pick (s.hotStack (pch / 64)) = none →
      exec (.hbmBurstSlot pch) s = .next (s.updPch pch (fun p => { p with slots := false :: p.slots.take 9 }))) ∧
    (∀ id q f0 f1, (s.pch pch).flight.find? (fun q => q.id = id) = some q → q.patrol = none →
      exec (.hbmReadData pch id f0 f1) s = .next ((((((s.updPch pch (fun p => { p with flight := p.flight.filter (fun r => r.id ≠ id) })).readSector
          (128 * q.a + 32 * q.sec) f0 f1).restoreIfBad (128 * q.a + 32 * q.sec)).updSlice q.slice (fun x =>
            { x with miss := x.miss.map (fun m => if m.a = q.a then { m with need := m.need &&& ~~~(secBit q.sec) } else m) })).settleMisses))) ∧
    (∀ id q f0 f1 e0 e1, (s.pch pch).flight.find? (fun q => q.id = id) = some q → q.patrol = some (e0, e1) →
      exec (.hbmReadData pch id f0 f1) s = .next ((((s.updPch pch (fun p => { p with flight := p.flight.filter (fun r => r.id ≠ id) })).readSector
          (128 * q.a + 32 * q.sec) (f0 ^^^ e0) (f1 ^^^ e1)).restoreIfBad (128 * q.a + 32 * q.sec)).settleMisses)) ∧
    (∀ pa f0 f1, inHbm (BitVec.toNat pa) = true → (s.pch (pchOf pa.toNat)).state = 0 →
      ∃ t q, exec (.patrol pa f0 f1) s = .next t ∧
        (t.pch (pchOf pa.toNat)).bulk = (s.pch (pchOf pa.toNat)).bulk ++ [q] ∧ q.a = lineOf pa.toNat ∧ q.sec = pa.toNat % 128 / 32 ∧
        q.patrol = some (f0, f1) ∧ q.write = false ∧ (∀ n, n ≠ pchOf pa.toNat → t.pch n = s.pch n) ∧ t.mem = s.mem) ∧
    (∀ stack chan, stack < 16 → chan < 32 →
      (∀ j, j < 2 → ∀ q ∈ (s.pch (64 * stack + 2 * chan + j)).crit, s.clock.now ≤ q.since + 400) →
      (∀ w ∈ s.hbm.recal, w.1 ≠ stack) → s.cad.src ≠ 0 → s.cad.lost = false → s.cad.phase = 0 →
      (∀ b, NMap.find s.hbm.recalBeat stack = some b → b + 8 ≤ s.cad.beat.toNat) →
      (∀ b, NMap.find s.hbm.recalChan (32 * stack + chan) = some b → b + 1000 ≤ s.cad.beat.toNat) →
      ∃ t, exec (.recalibrationWindow stack chan) s = .next t ∧ t.hbm.recal = (stack, chan) :: s.hbm.recal ∧
        NMap.find t.hbm.recalBeat stack = some s.cad.beat.toNat ∧ t.hbm.pch = s.hbm.pch ∧ t.mem = s.mem) ∧
    (∀ stack chan, stack < 16 → chan < 32 → ∃ t, exec (.recalibrationWindowEnd stack chan) s = .next t ∧
      (∀ w, w ∈ t.hbm.recal ↔ w ∈ s.hbm.recal ∧ w ≠ (stack, chan)) ∧ t.hbm.pch = s.hbm.pch ∧ t.mem = s.mem)

/-- Fencing a pseudo-channel, automatically or by HBM.FENCE with no control command in progress, marks it fenced and
writes its channel entry, so that its reads return poison; a page that no instance holds is retired with RESULT 0, a
page that one holds gets RESULT 1 and a full list RESULT 2; an entry is removed in bring-up mode only, RESULT 3
otherwise; a temperature read keeps the value, and one above 95 degrees on a stack that was not above it writes one
HBM-thermal event to instance 0, with the reading, and no other does (that an event is written on the crossing alone
is the model's reading, log 50). It says where these complete: HBM_TEMPERATURE_READ, PSEUDO_CHANNEL_FENCE, HBM_FENCE,
HBM_RETIRE, HBM_RETIRE_UNDO_PAGE, HBM_RETIRE_UNDO_CHANNEL. (R258, R265, R266, R267, R269, R420) -/
def Obligations.HbmFencesAndRetirement : Prop :=
  ∀ (s : State), s.regOpen 0 = true →
    (∀ pch v, pch < 1024 → (s.pch pch).state ≠ 1 → (v = BitVec.ofNat 32 (2 ^ 31 + pch)) →
      ∃ t, exec (.pseudoChannelFence pch) s = .next t ∧ (s.drains = [] → exec (.hbmFence 0 v) s = .next t) ∧ (t.pch pch).state = 1 ∧
        pch ∈ t.hbm.chans ∧ ∀ pa, pchOf (alignDown pa 32) = pch → (t.hbmSector pa).poison = 3) ∧
    (∀ v : BitVec 32, v.getLsbD 31 = true → v.getLsbD 30 = false → v.getLsbD 29 = false →
      ((s.holder (v.toNat % 2 ^ 19)).isSome = true → exec (.hbmRetire 0 v) s = .next { s with hbm := { s.hbm with result := 1 } }) ∧
      (s.holder (v.toNat % 2 ^ 19) = none → 4096 ≤ s.hbm.pages.length →
        exec (.hbmRetire 0 v) s = .next { s with hbm := { s.hbm with result := 2 } }) ∧
      (s.holder (v.toNat % 2 ^ 19) = none → s.hbm.pages.length < 4096 → ∃ t, exec (.hbmRetire 0 v) s = .next t ∧
        t.hbm.result = 0 ∧ v.toNat % 2 ^ 19 ∈ t.hbm.pages ∧ (∀ p ∈ s.hbm.pages, p ∈ t.hbm.pages) ∧ t.mem = s.mem)) ∧
    (∀ v : BitVec 32, v.getLsbD 31 = true → v.getLsbD 30 = true → v.getLsbD 29 = false →
      (s.bringup = true → v.toNat % 2 ^ 19 ∈ s.hbm.pages → ∃ t, exec (.hbmRetireUndoPage 0 v) s = .next t ∧ t.hbm.result = 0 ∧
        (∀ p, p ∈ t.hbm.pages ↔ p ∈ s.hbm.pages ∧ p ≠ v.toNat % 2 ^ 19) ∧ t.hbm.chans = s.hbm.chans ∧ t.mem = s.mem) ∧
      (s.bringup = false → exec (.hbmRetireUndoPage 0 v) s = .next { s with hbm := { s.hbm with result := 3 } })) ∧
    (∀ v : BitVec 32, v.getLsbD 31 = true → v.getLsbD 30 = true → v.getLsbD 29 = true →
      (s.bringup = true → v.toNat % 1024 ∈ s.hbm.chans → ∃ t, exec (.hbmRetireUndoChannel 0 v) s = .next t ∧ t.hbm.result = 0 ∧
        (∀ p, p ∈ t.hbm.chans ↔ p ∈ s.hbm.chans ∧ p ≠ v.toNat % 1024) ∧ t.hbm.pages = s.hbm.pages ∧ t.mem = s.mem) ∧
      (s.bringup = false → exec (.hbmRetireUndoChannel 0 v) s = .next { s with hbm := { s.hbm with result := 3 } })) ∧
    (∀ stack temp, stack < 16 → ∃ t, exec (.hbmTemperatureRead stack temp) s = .next t ∧ NMap.at t.hbm.temp stack 0 = temp ∧
      ((BitVec.toInt temp ≤ 95 * 256 ∨ s.hotStack stack = true) → t.mem = s.mem ∧ t.insts = s.insts) ∧
      (95 * 256 < BitVec.toInt temp → s.hotStack stack = false → ∃ u : State, u = { s with hbm := u.hbm } ∧ NMap.at u.hbm.temp stack 0 = temp ∧
        t = u.event 0 (s.record 6 5 0 (stackUnit stack) temp.toNat)))

/-- A request with GO is refused outside bring-up mode, and while a run is active it is refused without touching the run;
where it is accepted, the pseudo-channel leaves service and GO stays set. When the run ends the pseudo-channel is back
in service, the error count is shown, every stored byte of it is lost (its bytes then read as free values, which no
one knows), and every byte of the other pseudo-channels stays. That a second GO is refused while a run is active is
the model's reading (log 72). It says where these complete: HBM_MARGIN, HBM_MARGIN_DONE. (R268, R269) -/
def Obligations.HbmMarginRun : Prop :=
  ∀ (s : State) (v : BitVec 32), s.regOpen 0 = true → v.getLsbD 31 = true →
    (s.hbm.mgo = true → exec (.hbmMargin 0 v) s = .next { s with hbm := { s.hbm with mrefused := true } }) ∧
    (s.hbm.mgo = false → s.bringup = false → ∃ t, exec (.hbmMargin 0 v) s = .next t ∧ t.hbm.mrefused = true ∧ t.hbm.mgo = false ∧
      t.hbm.pch = s.hbm.pch ∧ t.mem = s.mem) ∧
    (s.hbm.mgo = false → s.bringup = true → (∀ e ∈ s.insts, e.2.pagesInSet (v.toNat % 1024 % 128) = 0) → fld v.toNat 10 6 < 36 →
      -12 ≤ sext 5 (fld v.toNat 22 5) → sext 5 (fld v.toNat 22 5) ≤ 12 → ∃ t, exec (.hbmMargin 0 v) s = .next t ∧
        t.hbm.mrefused = false ∧ t.hbm.mgo = true ∧ t.hbm.mpch.toNat = v.toNat % 1024 ∧ (t.pch (v.toNat % 1024)).state ≠ 0 ∧
        t.mem = s.mem) ∧
    (∀ errs, s.hbm.mgo = true → ∃ t, exec (.hbmMarginDone errs) s = .next t ∧ t.hbm.mgo = false ∧
      ((s.pch s.hbm.mpch.toNat).state = 2 → (t.pch s.hbm.mpch.toNat).state = 0) ∧
      t.hbm.merrs = BitVec.ofNat 16 (min 0xFFFF errs) ∧
      (∀ a, pchOf a = s.hbm.mpch.toNat → NMap.at t.mem.hbm a 0 = 0 ∧ a / 16 ∉ t.mem.hbmPoison) ∧
      (∀ a, inHbm a = true → pchOf a = s.hbm.mpch.toNat → NMap.find t.mem.lost (8 * (a / 2 ^ 21) + hemiOf a) = some s.clock.free ∧
        (a % 32 = 0 → (t.hbmSector a).data = BitVec.ofNat 256 (ofLe ((List.range 32).map (fun i => Config.freeByte s.clock.free (a + i)))))) ∧
      (∀ a, pchOf a ≠ s.hbm.mpch.toNat → NMap.at t.mem.hbm a 0 = NMap.at s.mem.hbm a 0))

/-- Where the port is running and an entry of an instance completes, with any status unless NOCOMP holds back a success,
the 32 bytes of its completion stand at CQBASE + 32 * (CQTAIL mod the ring's size), with the phase bit of the lap, the
index's low 16 bits as tag and SQHEAD as it is; CQTAIL goes up by one, the entry leaves the list, and no other
instance is touched. (R333, R334, R338) -/
def Obligations.CompletionWritten : Prop :=
  ∀ (s : State) (i idx status result : Nat) (e : Entry) (t : State), s.entry i idx = some e → s.host.stopped = false →
    (bit (leAt e.bytes 1 1) 0 = true → status ≠ 0) → t = s.complete i idx status result →
    (∀ k, k < 32 → NMap.at t.mem.host ((s.inst i).ring.cqbase.toNat +
        32 * ((s.inst i).ring.cqtail.toNat % 2 ^ (s.inst i).ring.cqlog) + k) 0 =
      (cqBytes (idx % 2 ^ 16) status (s.inst i).gen.toNat (leAt e.bytes 0 1) (!((s.inst i).ring.cqtail.toNat.testBit (s.inst i).ring.cqlog))
        (s.inst i).ring.sqhead.toNat result).getD k 0) ∧
    (t.inst i).ring.cqtail = (s.inst i).ring.cqtail + 1 ∧ t.entry i idx = none ∧ t.mem.hbm = s.mem.hbm ∧
    (∀ j, j ≠ i → t.inst j = s.inst j) ∧ t.launches = s.launches ∧ t.cores = s.cores

/-- For a SEQ entry that may begin: SEQ_LAYOUT with no sequence in the layout sets it up with every slot waiting to be
zeroed, or is malformed where its pool begins outside HBM; SEQ_CREATE takes a record of the layout and returns its
handle, with status 6 where the quota is used up (logs 101 and 65: which addresses of a pool are looked at, that every
slot starts in zeroing, and the status 6 are the model's readings). A handle that names no record gets status 0x0201,
and one whose record or page table reads as poison 0x0307. Otherwise, on the state that the reads of its page table
leave: SEQ_FREE of a sequence in no batch frees the record; SEQ_FORK shares the page sets of the first K tokens;
SEQ_COMMIT moves K tentative tokens to the committed length and returns it; SEQ_QUERY returns the lengths, layout and
batch slot. It says where these complete: SEQ_LAYOUT, SEQ_CREATE, SEQ_FREE, SEQ_FORK, SEQ_COMMIT, SEQ_QUERY. (R270,
R271, R272, R273, R274, R280, R282, R283, R285, R523) -/
def Obligations.SequenceRecords : Prop :=
  ∀ (s : State) (inst idx : Nat) (e : Entry), inst < 64 →
    (s.seqEntry inst idx 1 = some e → (∀ r ∈ (s.inst inst).records, r.2.layout ≠ fld (e.f 17 1) 0 4) →
      (∀ bs u, s.slotInHbm 2 inst (e.f 40 8) 1 = (.bytes bs, u) → exec (.seqLayout inst idx) s = .next ((u.setLayout inst (fld (e.f 17 1) 0 4)
        { lg := e.f 18 2, tb := 128 * e.f 24 4, pool := BitVec.ofNat 56 (e.f 40 8), nslot := e.f 32 4, refs := [],
          zeroing := List.range (e.f 32 4) }).complete inst idx 0 0)) ∧
      (∀ st u, s.slotInHbm 2 inst (e.f 40 8) 1 = (.bad st, u) → exec (.seqLayout inst idx) s = .next (u.complete inst idx 1 0))) ∧
    (s.seqEntry inst idx 2 = some e → (s.layout inst (fld (e.f 17 1) 0 4)).isSome = true →
      (∀ h t, s.takeRecord inst { layout := fld (e.f 17 1) 0 4, cl := 0, tc := 0, pages := [], slot := none } = (.ok h, t) →
        exec (.seqCreate inst idx) s = .next (t.complete inst idx 0 h) ∧
        (t.seqOf inst h).map (fun x => (x.1, x.2.layout, x.2.cl, x.2.tc, x.2.pages, x.2.slot)) =
          some (h % 2 ^ 16, fld (e.f 17 1) 0 4, 0, 0, [], none) ∧
        NMap.find (s.inst inst).records (h % 2 ^ 16) = none) ∧
      (min (s.inst inst).recq 65536 ≤ (s.inst inst).records.length → exec (.seqCreate inst idx) s = .next (s.complete inst idx 6 0))) ∧
    (∀ op c, (op, c) ∈ [(3, Instr.seqFree inst idx), (4, .seqFork inst idx), (5, .seqCommit inst idx), (6, .seqRollback inst idx),
        (7, .seqEvict inst idx), (8, .seqFetch inst idx), (9, .seqQuery inst idx)] → s.seqEntry inst idx op = some e →
      (s.seqOf inst (e.f 20 4) = none → exec c s = .next (s.complete inst idx 0x0201 0)) ∧
      (∀ n r u, s.seqOf inst (e.f 20 4) = some (n, r) → s.nodesHeld r = false → s.readNodes r = (true, u) →
        exec c s = .next (u.complete inst idx 0x0307 e.moved))) ∧
    (∀ n r u, s.seqOf inst (e.f 20 4) = some (n, r) → s.nodesHeld r = false → s.readNodes r = (false, u) →
      (s.seqEntry inst idx 3 = some e → r.slot = none →
        exec (.seqFree inst idx) s = .next ((u.freeRecord inst n r).complete inst idx 0 0)) ∧
      (s.seqEntry inst idx 4 = some e → e.f 24 4 ≤ r.cl → ∀ L h t, u.layout inst r.layout = some L →
        (∀ p ∈ r.pages, 128 * p.1 < e.f 24 4 → p.2.tier = 1 → L.refCount p.2.addr < 65535) →
        u.takeRecord inst { layout := r.layout, cl := e.f 24 4, tc := 0, pages := r.pages.filter (fun p => 128 * p.1 < e.f 24 4), slot := none } =
          (.ok h, t) → ∃ v : State, exec (.seqFork inst idx) s = .next (v.complete inst idx 0 h) ∧
          (v.seqOf inst h).map (fun x => (x.1, x.2.layout, x.2.cl, x.2.tc, x.2.pages, x.2.slot)) =
            some (h % 2 ^ 16, r.layout, e.f 24 4, 0, r.pages.filter (fun p => 128 * p.1 < e.f 24 4), none) ∧
          v.seqOf inst (e.f 20 4) = some (n, r)) ∧
      (s.seqEntry inst idx 5 = some e → e.f 24 4 ≤ r.tc → exec (.seqCommit inst idx) s =
        .next ((u.setSeq inst n { r with cl := r.cl + e.f 24 4, tc := r.tc - e.f 24 4 }).complete inst idx 0 (r.cl + e.f 24 4))) ∧
      (s.seqEntry inst idx 9 = some e → exec (.seqQuery inst idx) s =
        .next (u.complete inst idx 0 (r.cl + r.tc * 2 ^ 64 + r.layout * 2 ^ 72 + r.slot.getD 0xFFFF * 2 ^ 80))))

/-- A freed slot is written with zeros and returns to the free list, while no STEP of the instance runs. On the state that
the reads of the page table leave, where none is poisoned: a roll-back leaves the committed length alone and no
tentative token; an EVICT without the variant's grant gets status 4, one with nothing in tier 0 completes with the
page sets moved, and one whose writes are acknowledged moves its leaf to the tier and to bits 55 to 8 of the address
asked for, gives the slot back and goes on; a FETCH with nothing stored completes. A STEP whose list fails its check
completes with the status and touches no sequence; a STEP of no records completes with nothing failed. Which of a pool
and of the stored addresses is checked when, and what a STEP that fails leaves, are the model's readings (logs 101 and
67). It says where these complete: SEQ_ROLLBACK, SEQ_EVICT, SEQ_FETCH, STEP_BOUNDARY, SLOT_ZEROED. (R272, R274, R275,
R276, R277, R278, R280, R284, R289, R454) -/
def Obligations.PageSetsMove : Prop :=
  ∀ (s : State) (inst idx : Nat) (e : Entry), inst < 64 →
    (∀ layout slotNo L t, s.layout inst layout = some L → slotNo ∈ L.zeroing → s.working = true → s.stepUnderWay inst = false → ∀ bs,
      s.storeWrite inst (2 ^ 32) (L.slotAddr slotNo) (zeros L.psb) = (.bytes bs, t) →
      exec (.slotZeroed inst layout slotNo) s =
        .next (t.updLayout inst layout (fun L => { L with zeroing := L.zeroing.erase slotNo }))) ∧
    (∀ n r u v, s.seqOf inst (e.f 20 4) = some (n, r) → s.nodesHeld r = false → s.readNodes r = (false, u) →
      v = u.updEntry inst idx (fun e => { e with started := true }) →
      (s.seqEntry inst idx 6 = some e → ∀ bs q t, u.rollback inst idx r = (.bytes bs, q, t) →
        exec (.seqRollback inst idx) s = .next ((t.setSeq inst n q).complete inst idx 0 r.cl) ∧ q.cl = r.cl ∧ q.tc = 0 ∧
          (∀ p ∈ q.pages, 128 * p.1 < r.cl)) ∧
      (s.seqEntry inst idx 7 = some e →
        (u.variant.getLsbD 3 = false → exec (.seqEvict inst idx) s = .next (u.complete inst idx 4 0)) ∧
        (u.variant.getLsbD 3 = true → pagesIn e r (fun t => t = 1) = [] →
          exec (.seqEvict inst idx) s = .next (v.complete inst idx 0 e.moved)) ∧
        (u.variant.getLsbD 3 = true → ∀ p l ps L new, pagesIn e r (fun t => t = 1) = (p, l) :: ps → s.layout inst r.layout = some L →
          e.applied = true → e.remote = [] → e.wbad = none →
          new = KvLeaf.mk (fld (e.f 17 1) 4 2) (alignDown (e.f 40 8 + (p - e.f 28 4) * stride L.psb) 256) ((s.inst inst).evn - 1) →
          exec (.seqEvict inst idx) s = .next (State.evictN (2 * (ps.length + 1))
            (((v.setSeq inst n { r with pages := NMap.ins r.pages p new }).updLayout inst r.layout (fun L => L.dropRef l.addr)).updEntry inst idx
              (fun e => { e with applied := false, moved := e.moved + 1 })) inst idx))) ∧
      (s.seqEntry inst idx 8 = some e → pagesIn e r (fun t => t ≠ 1) = [] →
        exec (.seqFetch inst idx) s = .next (u.complete inst idx 0 e.moved))) ∧
    (s.begins inst idx 4 = some e → e.applied = false → e.run = none →
      s.depsMet inst idx (e.tags 44 (fld (e.f 30 1) 0 3)) true ≠ none →
      (∀ bs t st, (s.updEntry inst idx (fun e => { e with started := true })).readList inst idx e = (.bytes bs, t) → t.checkList inst (stepList e (plain bs)) = some st →
        exec (.stepBoundary inst idx) s = .next (t.complete inst idx st 0)) ∧
      (e.f 24 2 + e.f 26 2 + e.f 28 2 = 0 → e.f 32 8 = 0 → e.wbad = none → e.remote = [] → s.ael.batches = [] →
        (s.inst inst).activeSeqs ≤ (s.inst inst).batchq →
        ∃ t, exec (.stepBoundary inst idx) s = .next t ∧ t.entry inst idx = none ∧ (t.inst inst).records = (s.inst inst).records))

/-- For a MODEL entry that may begin: an operation of instance 0 from another instance, and an ACQUIRE or RELEASE from an
instance outside GRANT, get status 4; REGISTER fills an unused set whose source does not begin in HBM, PIN and UNPIN
set its mark, LOAD and ACQUIRE of a resident set return its first page, EVICT of a resident set with no references
makes it non-resident, RELEASE gives one reference back and UNREGISTER frees a non-resident set. The order of the
checks and what counts as a source outside HBM are the model's readings (logs 102 and 68). It says where these
complete: MODEL_REGISTER, MODEL_LOAD, MODEL_EVICT, MODEL_PIN, MODEL_UNPIN, MODEL_ACQUIRE, MODEL_RELEASE,
MODEL_UNREGISTER. (R292, R293, R294, R295, R432, R433) -/
def Obligations.ModelEntries : Prop :=
  ∀ (s : State) (inst idx : Nat) (e : Entry) (w : WSet) (u : State), inst < 64 → w = s.wset (e.f 18 1) →
    u = s.updEntry inst idx (fun e => { e with started := true }) →
    (∀ op c, (op, c) ∈ [(1, Instr.modelRegister inst idx), (2, .modelLoad inst idx), (3, .modelEvict inst idx), (4, .modelPin inst idx),
        (5, .modelUnpin inst idx), (8, .modelUnregister inst idx)] → s.modelEntry inst idx op = some e → inst ≠ 0 →
      exec c s = .next (s.complete inst idx 4 0)) ∧
    (∀ op c, (op, c) ∈ [(6, Instr.modelAcquire inst idx), (7, .modelRelease inst idx)] → s.modelEntry inst idx op = some e →
      w.grant.getLsbD inst = false → exec c s = .next (s.complete inst idx 4 0)) ∧
    (s.modelEntry 0 idx 1 = some e → inst = 0 → w.state = 0 → (∃ bs, (u.sourceOutside 1 (e.f 24 8) 1).1 = .bytes bs) → ∃ (t : State) (m : WSet), exec (.modelRegister 0 idx) s = .next (t.complete 0 idx 0 0) ∧
      t.wset (e.f 18 1) = m ∧ m.state = 1 ∧ m.pages = e.f 20 4 ∧ m.src.toNat = e.f 24 8 % 2 ^ 56 ∧ m.grant.toNat = e.f 40 8 % 2 ^ 64 ∧
      m.refs = [] ∧ m.pin = false) ∧
    (s.modelEntry 0 idx 4 = some e → inst = 0 → w.state ≠ 0 →
      exec (.modelPin 0 idx) s = .next ((u.putWset (e.f 18 1) { w with pin := true }).complete 0 idx 0 0)) ∧
    (s.modelEntry 0 idx 5 = some e → inst = 0 → w.state ≠ 0 →
      exec (.modelUnpin 0 idx) s = .next ((u.putWset (e.f 18 1) { w with pin := false }).complete 0 idx 0 0)) ∧
    (s.modelEntry 0 idx 2 = some e → inst = 0 → w.state = 3 →
      exec (.modelLoad 0 idx) s = .next ((u.useSet (e.f 18 1)).complete 0 idx 0 w.first)) ∧
    (s.modelEntry 0 idx 3 = some e → inst = 0 → w.state = 3 → w.refCount = 0 → (∀ r ∈ s.seq.restores, r.set ≠ e.f 18 1) →
      exec (.modelEvict 0 idx) s = .next ((u.evictSet (e.f 18 1)).complete 0 idx 0 0)) ∧
    (s.modelEntry 0 idx 8 = some e → inst = 0 → w.state = 1 →
      exec (.modelUnregister 0 idx) s = .next ((u.putWset (e.f 18 1) {}).complete 0 idx 0 0)) ∧
    (s.modelEntry inst idx 6 = some e → w.grant.getLsbD inst = true → w.state = 3 → s.err.failset.toNat.testBit (e.f 18 1) = false →
      w.refCount < 65535 → ∃ t : State, exec (.modelAcquire inst idx) s = .next (t.complete inst idx 0 w.first) ∧
        NMap.at (t.wset (e.f 18 1)).refs inst 0 = NMap.at w.refs inst 0 + 1) ∧
    (s.modelEntry inst idx 7 = some e → w.grant.getLsbD inst = true → NMap.at w.refs inst 0 ≠ 0 →
      ∃ (t : State) (k : Nat), exec (.modelRelease inst idx) s = .next (t.complete inst idx 0 k) ∧ k = (t.wset (e.f 18 1)).refCount ∧
        NMap.at (t.wset (e.f 18 1)).refs inst 0 = NMap.at w.refs inst 0 - 1)

/-- RESTORE of a line under way asks for the backing copy once, marking the restore failed where its page denies the read;
RESTORE_DONE with the backing bytes at hand and verified writes them, records the restored line and ends the restore,
and one that failed is retried; SAVE of a launch that pre-emption has ordered to save, with no matrix operation, no
copy and no remote answer of it under way, saves it. It says where these complete: RESTORE, RESTORE_DONE, SAVE. (R298,
R431, R432, R433, R435) -/
def Obligations.RestoresAndSaves : Prop :=
  ∀ (s : State),
    (∀ (pa : BitVec 56) block r, s.restoreAt (alignDown pa.toNat (if block then 4096 else 128)) block = some r → r.asked = false →
      (block = true ∨ (s.linePoisoned (alignDown pa.toNat 128) = false ∧ s.wholeBlock (alignDown pa.toNat 128) = false)) →
      s.walkWaits agentPart 0 (s.backingVa r) = false →
      (∀ e t, s.entryPage agentPart 0 .read (s.backingVa r) = (.error e, t) → exec (.restore pa block) s =
        .next (t.updRestore (alignDown pa.toNat (if block then 4096 else 128)) block (fun r => { r with asked := true, failed := true }))) ∧
      (∀ ba leaf t, s.entryPage agentPart 0 .read (s.backingVa r) = (.ok (ba, leaf), t) → inPeer ba = false → exec (.restore pa block) s =
        .next (t.updRestore (alignDown pa.toNat (if block then 4096 else 128)) block (fun r => { r with asked := true })))) ∧
    (∀ (pa : BitVec 56) r, s.seq.restores.find? (fun r => r.asked && r.remote = [] && (r.pa = pa.toNat)) = some r →
      exec (.restoreDone pa false) s = .next (s.retryRestore r) ∧
      (∀ bs t u, s.walkWaits agentPart 0 (s.backingVa r) = false → s.backingBytes r = (some bs, t) → t.restoredOk r bs = (true, u) → exec (.restoreDone pa true) s =
        .next ((((u.devWrite {} r.pa (clean bs)).errRecord 5 0 (sliceUnit ((u.devWrite {} r.pa (clean bs)).homeSlice r.pa))
          (errDetail r.pa 0xFF 0 0x80 0) [0]).endRestore r.pa r.block)))) ∧
    (∀ inst idx l, inst < 64 → s.launch inst idx = some l → l.saveBy.isSome = true → l.fault = none →
      (∀ g ∈ s.coresWith inst idx, (∀ m ∈ (s.core g).mats, m.inst ≠ inst ∨ m.idx ≠ idx) ∧
        (∀ j ∈ (s.core g).copies, (j.inst ≠ inst ∨ j.idx ≠ idx) ∨ j.tc = true) ∧ ∀ y ∈ (s.core g).slots, y.2.await = []) →
      exec (.save inst idx) s = .next ((s.saveLaunch l).settleControls))

/-- Of an instance that is not being reset or removed, a doorbell ahead of SQTAIL that leaves no overrun sets SQTAIL, one
behind it is ignored; a CQDB or EQDB ahead of the head and within the slots written sets the head, any other value is
ignored; the interrupt of a coalesced CQ is sent once CQTIME has passed and the pending count is cleared; INTCTL keeps
the masks and coalescing fields; RING.CFG with EN from 0 to 1 takes the sizes and zeroes the indices, and EN to 0
disables, a write whose sizes lie outside 6 to 16 being discarded whole (the model's reading, log 39); QUIESCE is kept
as written. It says where these complete: DOORBELL, CQDB, EQDB, CQ_COALESCE_TIMEOUT, INTCTL, RING_ENABLE,
RING_DISABLE, QUIESCE. (R319, R323, R324, R335, R338, R343) -/
def Obligations.RingSlots : Prop :=
  ∀ (s : State) (i : Nat) (v : BitVec 32), i < 64 →
    (s.doorOpen i = true → (s.inst i).ring.en = true → 0 < diff32 v (s.inst i).ring.sqtail →
      (v - (s.inst i).ring.sqhead).toNat ≤ 2 ^ (s.inst i).ring.sqlog →
      exec (.doorbell i 4 v) s = .next (s.updInst i (fun x => { x with ring := { x.ring with sqtail := v } }))) ∧
    (s.doorOpen i = true → diff32 v (s.inst i).ring.sqtail ≤ 0 → exec (.doorbell i 4 v) s = .next s) ∧
    (s.doorOpen i = true → (s.inst i).ring.en = true → 0 < diff32 v (s.inst i).ring.sqtail →
      2 ^ (s.inst i).ring.sqlog < (v - (s.inst i).ring.sqhead).toNat → ∃ t, exec (.doorbell i 4 v) s = .next t ∧
        (t.inst i).ring.overrun = true ∧ (t.inst i).ring.sqtail = (s.inst i).ring.sqtail) ∧
    (s.doorOpen i = true → 0 < diff32 v (s.inst i).ring.cqhead → 0 ≤ diff32 (s.inst i).ring.cqtail v →
      exec (.cqdb i v) s = .next (s.updInst i (fun x => { x with ring := { x.ring with cqhead := v } }))) ∧
    (diff32 (s.inst i).ring.cqtail v < 0 ∨ diff32 v (s.inst i).ring.cqhead ≤ 0 → exec (.cqdb i v) s = .next s) ∧
    (diff32 (s.inst i).ring.eqtail v < 0 ∨ diff32 v (s.inst i).ring.eqhead ≤ 0 → exec (.eqdb i v) s = .next s) ∧
    (s.doorOpen i = true → 0 < diff32 v (s.inst i).ring.eqhead → 0 ≤ diff32 (s.inst i).ring.eqtail v →
      ∃ t, exec (.eqdb i v) s = .next t ∧ (t.inst i).ring.eqhead = v ∧ (t.inst i).ring.cqhead = (s.inst i).ring.cqhead ∧
        (t.inst i).ring.eqHeld.length ≤ (s.inst i).ring.eqHeld.length ∧ (∀ j, j ≠ i → t.inst j = s.inst j)) ∧
    (∀ n, (s.inst i).ring.cqFirst = some n → (s.inst i).ring.cqtime ≠ 0 → n + 1000 * (s.inst i).ring.cqtime.toNat ≤ s.clock.now →
      (s.inst i).ring.cqmask = false → exec (.cqCoalesceTimeout i) s = .next ((s.updInst i (fun x =>
        { x with ring := { x.ring with cqPending := 0, cqFirst := none } })).interrupt (s.inst i).ring.cqvec.toNat)) ∧
    (s.ringsOpen = true → ∃ t, exec (.intctl i v) s = .next t ∧ (t.inst i).ring.cqmask = v.getLsbD 0 ∧
      (t.inst i).ring.eqmask = v.getLsbD 1 ∧ (t.inst i).ring.cqcnt = BitVec.ofNat 8 (fld v.toNat 8 8) ∧
      (t.inst i).ring.cqtime = BitVec.ofNat 16 (fld v.toNat 16 16) ∧ (∀ j, j ≠ i → t.inst j = s.inst j) ∧ t.mem = s.mem) ∧
    (s.earlyOpen 0 = true → (s.inst i).ring.en = false → (s.inst i).entries = [] → v.getLsbD 31 = true →
      (∀ lo ∈ [0, 8, 16], 6 ≤ fld v.toNat lo 5 ∧ fld v.toNat lo 5 ≤ 16) → (s.inst i).ring.eqHeld = [] → (s.inst i).ring.lost = 0 →
      ∃ t g, exec (.ringEnable 0 i v) s = .next t ∧ g = (t.inst i).ring ∧ g.en = true ∧
        (g.sqlog, g.cqlog, g.eqlog) = (fld v.toNat 0 5, fld v.toNat 8 5, fld v.toNat 16 5) ∧
        (g.sqhead, g.sqtail, g.cqhead, g.cqtail, g.eqhead, g.eqtail) = (0, 0, 0, 0, 0, 0) ∧ t.mem = s.mem) ∧
    (s.earlyOpen 0 = true → (s.inst i).ring.en = true → v.getLsbD 31 = false →
      ((∀ lo ∈ [0, 8, 16], 6 ≤ fld v.toNat lo 5 ∧ fld v.toNat lo 5 ≤ 16) → exec (.ringDisable 0 i v) s =
        .next (s.updInst i (fun x => { x with ring := { x.ring with en := false } }))) ∧
      ((∃ lo ∈ [0, 8, 16], fld v.toNat lo 5 < 6 ∨ 16 < fld v.toNat lo 5) → exec (.ringDisable 0 i v) s = .next s)) ∧
    (s.earlyOpen 0 = true → exec (.quiesce 0 v) s = .next { s with host := { s.host with quiesce := v.getLsbD 0 } })

/-- Where the part may fetch for an instance, ENTRY_FETCH moves SQHEAD by one and lists the 128 bytes that host memory
holds at SQBASE + 128 * (SQHEAD mod the ring's size); an index that does not match completes with status 2, a
generation that does not with status 3, a malformed entry with status 1, the result of a well-formed LAUNCH naming its
clusters; a LAUNCH is noted whatever becomes of it. A tag of 0 holds nothing, one that has passed counts as late, one
in a lost cadence under policy 1 runs untagged, a tag that is not yet reached holds the entry, and the release lets it
begin once the tag is reached. It says where these complete: ENTRY_FETCH, TAGGED_RELEASE. (R9, R182, R193, R307, R308,
R312, R325, R326, R327) -/
def Obligations.EntriesFetched : Prop :=
  ∀ (s : State) (i : Nat) (e : Entry), i < 64 → s.mayFetch i = true →
    e = { index := (s.inst i).ring.sqhead,
          bytes := s.hostRead i ((s.inst i).ring.sqbase.toNat + 128 * ((s.inst i).ring.sqhead.toNat % 2 ^ (s.inst i).ring.sqlog)) 128,
          held := false, free := false, started := false } →
    (∀ v u, v = s.updInst i (fun x => { x with ring := { x.ring with sqhead := e.index + 1 }, entries := x.entries ++ [e] }) →
      u = (if e.ty = 1 then v.updInst i (fun x => { x with launchLog := ((e.index, none) :: x.launchLog).take 4096 }) else v) →
      (e.f 2 2 ≠ e.index.toNat % 2 ^ 16 → exec (.entryFetch i) s = .next (u.complete i e.index.toNat 2
        (if e.wellFormed (s.clustersOf i).length then e.resultSoFar (s.clustersOf i).length else 0))) ∧
      (e.f 2 2 = e.index.toNat % 2 ^ 16 → e.f 4 2 ≠ (s.inst i).gen.toNat →
        exec (.entryFetch i) s = .next (u.complete i e.index.toNat 3
          (if e.wellFormed (s.clustersOf i).length then e.resultSoFar (s.clustersOf i).length else 0))) ∧
      (e.f 2 2 = e.index.toNat % 2 ^ 16 → e.f 4 2 = (s.inst i).gen.toNat → e.wellFormed (s.clustersOf i).length = false →
        exec (.entryFetch i) s = .next (u.complete i e.index.toNat 1 0)) ∧
      (e.f 2 2 = e.index.toNat % 2 ^ 16 → e.f 4 2 = (s.inst i).gen.toNat → e.wellFormed (s.clustersOf i).length = true →
        (e.beatTag = 0 → exec (.entryFetch i) s = .next u) ∧
        (e.beatTag ≠ 0 → s.runsUntagged i = true →
          exec (.entryFetch i) s = .next (u.updEntry i e.index.toNat (fun x => { x with free := true }))) ∧
        (e.beatTag ≠ 0 → s.runsUntagged i = false → e.beatTag ≤ s.cad.beat.toNat → exec (.entryFetch i) s =
          .next { u.updEntry i e.index.toNat (fun x => { x with free := true }) with cad := { s.cad with late := s.cad.late.add 1 } }) ∧
        (e.beatTag ≠ 0 → s.runsUntagged i = false → s.cad.beat.toNat < e.beatTag →
          exec (.entryFetch i) s = .next (u.updEntry i e.index.toNat (fun x => { x with held := true }))))) ∧
    (∀ idx o, s.entry i idx = some o → o.held = true → (o.beatTag ≤ s.cad.beat.toNat ∨ s.runsUntagged i = true) →
      ∃ t, exec (.taggedRelease i idx) s = .next t ∧ (t.entry i idx).map (fun e => (e.held, e.free)) = some (false, true) ∧
        t.mem = s.mem)

/-- An entry that may begin does its work: a LAUNCH is registered with the fields of its entry, a COPY whose source bytes
are at hand, whose destination lines do not wait and whose writes need no acknowledgement completes, a WAIT completes
once its launches, its word or its beat are met (and with status 0x0104 where a launch failed), a FENCE and an EVENT
complete when they are the oldest entry, the EVENT after its marker record. It says where these complete: LAUNCH,
COPY, WAIT, FENCE_ENTRY, EVENT. (R181, R307, R328, R329, R330, R331, R332) -/
def Obligations.EntriesRun : Prop :=
  ∀ (s : State) (i idx : Nat) (e : Entry), i < 64 →
    (s.begins i idx 1 = some e → e.started = false → ∃ t, exec (.launch i idx) s = .next t ∧
      t.launches = s.launches ++ [e.launch i (s.clustersOf i)] ∧ (t.entry i idx).map (fun x => x.started) = some true ∧
      t.mem = s.mem ∧ t.cores = s.cores) ∧
    (s.begins i idx 2 = some e → e.applied = true → e.remote = [] →
      exec (.copy i idx) s = .next (s.complete i idx (match e.bad.or e.wbad with
        | some st => st.toNat
        | none => if e.moved = 0 then 0 else 0x0307) 0)) ∧
    (s.begins i idx 2 = some e → e.applied = false → ∀ u t v st sk bs, u = s.updEntry i idx (fun x => { x with started := true }) →
      u.writeWaits agentPort i .write (e.f 24 8) (e.f 32 4) = false →
      u.entryRead agentPort i idx .read (e.f 16 8) (e.f 32 4) (e.f 36 1 = 1) = (.bytes bs, t) →
      t.entryWrite agentPort i idx .write (e.f 24 8) bs (e.f 36 1 = 1) = (st, sk, v) →
      (∀ x, (v.closeBatches partTag).entry i idx = some x → x.remote = []) →
      ∃ w : State, exec (.copy i idx) s = .next (w.endCopy i idx) ∧ w.mem = (v.closeBatches partTag).mem) ∧
    (s.begins i idx 5 = some e → e.f 16 1 = 1 → ∀ ok, s.depsMet i idx (e.tags 18 (fld (e.f 17 1) 0 3)) (bit (e.f 17 1) 3) = some ok →
      exec (.wait i idx) s = .next (s.complete i idx (if ok then 0 else 0x0104) 0)) ∧
    (s.begins i idx 5 = some e → e.f 16 1 = 2 → ∀ u, s.pollWord i idx (e.f 32 8) (BitVec.ofNat 32 (e.f 28 4)) = (.ok true, u) →
      exec (.wait i idx) s = .next (u.complete i idx 0 0)) ∧
    (s.begins i idx 5 = some e → e.f 16 1 = 3 → (e.f 40 8 ≤ s.cad.beat.toNat ∨ s.runsUntagged i = true) →
      exec (.wait i idx) s = .next (s.complete i idx 0 0)) ∧
    (s.begins i idx 8 = some e → s.isFirst i idx = true → exec (.fenceEntry i idx) s = .next (s.complete i idx 0 0)) ∧
    (s.begins i idx 6 = some e → s.isFirst i idx = true → exec (.event i idx) s =
      .next ((s.event i (s.record 4 (e.f 16 2) 0 0 (e.f 20 12))).complete i idx 0 0))

/-- A request of a length that the port does not take sets SIZE and writes nothing; a write to the staging area while no
erase runs and no earlier write waits programs its bytes and advances ADDR by the access width where INC is set; one
outside the space sets RANGE; a read of the staging area returns its bytes; a read of HBM whose line waits, or behind
a write that waits, takes its place in the order and answers nothing yet. Where the port is closed, to instance 0 or
to another (that the command names its instance is the model's choice, log 40), a read returns zeros and a write does
nothing. It says where these complete: DATA_WINDOW_WRITE, DATA_WINDOW_READ. (R318, R319, R340, R341, R342, R473) -/
def Obligations.DataPort : Prop :=
  (∀ (s : State) (off src len : Nat) (en : Bool), s.windowOpen src off = false →
      exec (.dataWindowRead src off len en) s = .next (s.send (.readCompletion (leBytes len 0) false))) ∧
    (∀ (s : State) (off src : Nat) (data : List Byte) (en : Bool), s.windowOpen src off = false →
      exec (.dataWindowWrite src off data en) s = .next s) ∧
    ∀ (s : State) (off : Nat) (data : List Byte), s.windowOpen 0 off = true →
    (∀ en, s.windowSize data.length en = true →
      exec (.dataWindowWrite 0 off data en) s = .next { s with dport := { s.dport with size := true } }) ∧
    (s.dport.space = 1 → s.dport.width = 0 → s.dport.waiting = [] → data.length = 4 → s.boot.erasing = false → s.boot.stage ≠ 3 → s.dport.addr.toNat + 4 ≤ 2 ^ 26 →
      ∃ t, exec (.dataWindowWrite 0 off data true) s = .next t ∧ t.dport = s.dport.advance ∧ t.mem = s.mem ∧
        t.boot.staging = (s.stagingWrite s.dport.addr.toNat data).boot.staging) ∧
    (s.dport.space = 1 → s.dport.width = 0 → data.length = 4 → 2 ^ 26 < s.dport.addr.toNat + 4 →
      ∃ t, exec (.dataWindowWrite 0 off data true) s = .next t ∧ t.dport.range = true ∧ t.mem = s.mem ∧ t.boot = s.boot) ∧
    (s.dport.space = 1 → s.dport.width = 0 → s.dport.waiting = [] → s.boot.erasing = false → s.dport.addr.toNat + 4 ≤ 2 ^ 26 →
      ∃ t, exec (.dataWindowRead 0 off 4 true) s = .next t ∧ t.dport = s.dport.advance ∧ t.mem = s.mem ∧
        t.out = s.out ++ [.readCompletion (flashBytes s.boot.staging s.dport.addr.toNat 4) false]) ∧
    (s.dport.space = 0 → s.dport.width = 0 → s.inSpace 4 = true → s.dport.waiting = [] → s.heldRun s.dport.addr.toNat 4 = true →
      ∃ t, exec (.dataWindowRead 0 off 4 true) s = .next t ∧ t.dport = { s.dport.advance with
          waiting := [.read [some (0, s.dport.addr.toNat)] 4] } ∧ t.mem = s.mem ∧ t.out = s.out) ∧
    (∀ sp a bs r, s.dport.waiting = .write sp a bs :: r → s.portStalls sp a bs.length = true → s.dport.space = 0 → s.dport.width = 0 →
      s.inSpace 4 = true → ∃ t, exec (.dataWindowRead 0 off 4 true) s = .next t ∧ t.out = s.out ∧ t.mem = s.mem ∧
        t.dport = { s.dport.advance with waiting := s.dport.waiting ++ [.read [some (0, s.dport.addr.toNat)] 4] })

/-- A GO whose token is the buffer's header token and not 0, with nothing running and no kept response of the token, takes
the command of the buffer as running; one whose token has a kept response copies it to the response buffer and DONE; a
GO that does not match sets DROPPED. A command that ends writes the response, sets DONE to its token, clears BUSY and
is kept among the last 16; a long command's end does the same with the result it holds, and the end of a removal frees
its instance, and that of CALCOMMIT ends the programming. The gate turns a command away with its status. Control
commands that waited then move on (R29). It says where these complete: MB_GO, MAILBOX_COMMAND_END. (R354, R355, R356,
R357, R511) -/
def Obligations.MailboxProtocol : Prop :=
  ∀ (s : State) (m : Nat), m < 64 →
    (∀ v : BitVec 32, s.mbAnswers m = true → (s.inst m).mb.running = none →
      v ≠ 0 → v.toNat = ofLe (NMap.bytes 0 (s.inst m).mb.cmd 0 4) →
      ((∀ a ∈ (s.inst m).mb.cache, a.token ≠ v) → opcodes.contains (ofLe (NMap.bytes 0 (s.inst m).mb.cmd 4 2)) = true →
        ofLe (NMap.bytes 0 (s.inst m).mb.cmd 4 2) ≠ 0x38 → ofLe (NMap.bytes 0 (s.inst m).mb.cmd 4 2) ≠ 0x14 →
        ∃ t r, exec (.mbGo m v) s = .next t ∧ (t.inst m).mb.running = some r ∧ r.token = v ∧ r.result = none ∧
          r.opcode = BitVec.ofNat 16 (ofLe (NMap.bytes 0 (s.inst m).mb.cmd 4 2)) ∧
          r.payload = NMap.bytes 0 (s.inst m).mb.cmd 16 (ofLe (NMap.bytes 0 (s.inst m).mb.cmd 6 2)) ∧ t.mem = s.mem) ∧
      (∀ a, (s.inst m).mb.cache.find? (fun a => a.token = v) = some a → ∃ t, exec (.mbGo m v) s = .next t ∧
        (t.inst m).mb.done = a.token ∧ (t.inst m).mb.rspStatus = a.status ∧
        (t.inst m).mb.rspPayload.take a.payload.length = a.payload ∧ (t.inst m).mb.running = none)) ∧
    (∀ v : BitVec 32, s.mbAnswers m = true → (s.inst m).mb.running = none →
      (v = 0 ∨ v.toNat ≠ ofLe (NMap.bytes 0 (s.inst m).mb.cmd 0 4)) →
      exec (.mbGo m v) s = .next (s.updInst m (fun x => { x with mb := { x.mb with dropped := true } }))) ∧
    (∀ r st p, (s.inst m).mb.running = some r → r.result = some (st, p) →
      ((r.opcode ≠ 0x21 ∨ (s.inst (targetOf r.payload)).state ≠ .removing) → ∀ u : State,
        u = (if r.opcode = 0x43 then { s with board := { s.board with calProgramming := false } } else s) →
        exec (.mailboxCommandEnd m) s = .next (u.respond m st.toNat p).settleControls) ∧
      (r.opcode = 0x21 → (s.inst (targetOf r.payload)).state = .removing →
        exec (.mailboxCommandEnd m) s = .next ((((s.updInst (targetOf r.payload) (fun x => { x with state := .free })).respond m
          st.toNat p).answerRowless (targetOf r.payload)).settleControls))) ∧
    (∀ r st p t, (s.inst m).mb.running = some r → t = s.respond m st p →
      (t.inst m).mb.running = none ∧ (t.inst m).mb.done = r.token ∧ (t.inst m).mb.rspToken = r.token ∧
      (t.inst m).mb.rspStatus = BitVec.ofNat 16 st ∧ (t.inst m).mb.rspPayload.take p.length = p ∧
      (t.inst m).mb.rspLen = BitVec.ofNat 16 p.length ∧
      (t.inst m).mb.cache = ({ token := r.token, status := BitVec.ofNat 16 st, payload := p } :: (s.inst m).mb.cache).take 16 ∧
      (∀ j, j ≠ m → t.inst j = s.inst j)) ∧
    (∀ op act r st, (s.inst m).mb.running = some r → r.opcode.toNat = op → r.result = none → s.mbWaits m r = false →
      s.mbCheck m r = some st → s.mbRun m op act = (s.respond m st []).settleControls)

/-- A command that passes the checks has its effect, after which control commands that waited move on (R29): QUERY returns
the state of its instance; CREATE of a free instance whose configuration is accepted makes it active with its
generation advanced and a new data key, derived from the root, its number and the epoch that follows (R448); CONFIG
replaces the fields; GRANT gives free clusters to the instance with their local stores cleared; REVOKE takes idle
clusters back; PAGES assigns a free run or releases a held one; BIND sets or clears a binding; TLBINV invalidates;
PRIVATE places the store-private range. It says where these complete: QUERY, CREATE, CONFIG, GRANT, REVOKE,
PAGES_ASSIGN, PAGES_RELEASE, BIND, TLBINV, PRIVATE. (R348, R349, R351, R353, R357, R359, R360, R361, R362) -/
def Obligations.InstanceConfiguration : Prop :=
  ∀ (s : State) (mb : Nat) (r : MbRunning) (p : List Byte) (t a b : Nat), p = r.payload → t = targetOf p → a = leAt p 4 4 →
    b = a + leAt p 8 4 - 1 →
    (MbReady s mb 0x01 r → exec (.query mb) s = .next ((s.respond mb 0 (s.queryPayload t)).settleControls)) ∧
    (MbReady s mb 0x10 r → (s.inst t).state = .free → s.configRefusal t p = none → s.genFree t = true →
      ∃ u : State, exec (.create mb) s = .next u.settleControls ∧ (u.inst t).state = .active ∧ (u.inst t).gen = (s.inst t).gen + 1 ∧
        (u.inst t).pasid = BitVec.ofNat 20 (leAt p 4 4) ∧ (u.inst t).recq = leAt p 20 4 ∧ (u.inst t).batchq = leAt p 24 2 ∧
        (u.inst t).ways = BitVec.ofNat 16 (leAt p 16 2) ∧ (u.inst mb).mb.done = r.token ∧ (u.inst mb).mb.rspStatus = 0 ∧
        NMap.at u.sec.epochs t 0 = NMap.at s.sec.epochs t 0 + 1 ∧ NMap.find u.sec.deks t = some (Config.shake256
          ([0x4B, 0x57, 0x4D, 0x2D, 0x49, 0x44, 0x4B] ++ leBytes 32 s.sec.dataRoot.toNat ++ leBytes 1 t ++
            leBytes 8 (NMap.at s.sec.epochs t 0 + 1).toNat)) ∧ u.sec.dataRoot = s.sec.dataRoot) ∧
    (MbReady s mb 0x11 r → s.configRefusal t p = none → (s.inst t).ring.en = false → (s.inst t).entries = [] →
      (s.inst t).records = [] → ∃ u : State, exec (.config mb) s = .next u.settleControls ∧ (u.inst t).pasid = BitVec.ofNat 20 (leAt p 4 4) ∧
        (u.inst t).recq = leAt p 20 4 ∧ (u.inst t).gen = (s.inst t).gen ∧ (u.inst mb).mb.rspStatus = 0) ∧
    (MbReady s mb 0x12 r → (∀ n ∈ maskClusters p, (s.cluster n).owner = none) → ∃ u : State, exec (.grant mb) s = .next u.settleControls ∧
      (∀ n ∈ maskClusters p, (u.cluster n).owner = some t ∧ ∀ g ∈ coresOf n, (u.core g).ls = [] ∧ (u.core g).slots = (s.core g).slots) ∧
      (∀ n, n ∉ maskClusters p → u.cluster n = s.cluster n) ∧
      (u.inst mb).mb.running = some { r with result := some (0, []) }) ∧
    (MbReady s mb 0x13 r → (∀ n ∈ maskClusters p, (s.cluster n).owner = some t ∧ (s.cluster n).queue = [] ∧
        ∀ g ∈ coresOf n, (s.core g).slots = []) →
      exec (.revoke mb) s = .next (((s.revokeClusters (maskClusters p)).mbResult mb 0 []).settleControls)) ∧
    (MbReady s mb 0x14 r → leAt p 1 1 = 0 → s.freeRun a b = true → meets a b s.seq.privFirst s.seq.privCount = false →
      (addRange (s.inst t).ranges a b).length ≤ 64 → exec (.pagesAssign mb) s =
        .next (((s.updInst t (fun x => { x with ranges := addRange (s.inst t).ranges a b })).respond mb 0 []).settleControls)) ∧
    (MbReady s mb 0x14 r → leAt p 1 1 = 1 → holdsRun (s.inst t).ranges a b = true →
      (cutRange (s.inst t).ranges a b).length ≤ 64 → ∃ u : State, exec (.pagesRelease mb) s = .next u.settleControls ∧
        (u.inst t).ranges = cutRange (s.inst t).ranges a b ∧
        (∀ k, a * 2 ^ 21 ≤ k → k < (b + 1) * 2 ^ 21 → NMap.at u.mem.hbm k 0 = 0) ∧
        (∀ k, k < a * 2 ^ 21 ∨ (b + 1) * 2 ^ 21 ≤ k → NMap.at u.mem.hbm k 0 = NMap.at s.mem.hbm k 0)) ∧
    (MbReady s mb 0x15 r → ∃ u : State, exec (.bind mb) s = .next u.settleControls ∧ (u.inst mb).mb.rspStatus = 0 ∧
      (NMap.find (u.inst t).binds (leAt p 1 1)).map (fun c => (c.module, c.rinst, c.rgen)) =
        if leAt p 2 1 = 1 then some (BitVec.ofNat 12 (leAt p 4 2), BitVec.ofNat 6 (leAt p 6 1), BitVec.ofNat 16 (leAt p 8 2)) else none) ∧
    (MbReady s mb 0x16 r → exec (.tlbinv mb) s = .next (((s.tlbInv t).respond mb 0 []).settleControls)) ∧
    (MbReady s mb 0x17 r → (∀ e ∈ s.insts, e.2.records = []) → s.freeRun a (a + leAt p 8 4 - 1) = true → ∃ u : State,
      exec (.privateRange mb) s = .next u.settleControls ∧ u.seq.privFirst = a ∧ u.seq.privCount = leAt p 8 4 ∧ (u.inst mb).mb.rspStatus = 0)

/-- RESET and REMOVE stop the instance's work and, once its generation may advance, finish: the generation goes up by one,
the ring indices are 0, the sequence store's records and layouts are gone, and the instance is active again after a
reset; after a removal it is free once MAILBOX_COMMAND_END has answered. A generation hold that expires finishes the
reset. That REMOVE keeps the generation and RESET restarts the rings with EN unchanged is log entry 60. PREEMPT with
nothing to save marks the instance and orders its clusters drained; PREEMPT of a pre-empted instance responds; RESUME
makes it active and restores its saved launches. Control commands that waited then move on (R29). It says where these
complete: RESET, REMOVE, PREEMPT, RESUME, GENERATION_HOLD_EXPIRY. (R297, R300, R361, R363, R364, R365, R366) -/
def Obligations.InstanceLifecycle : Prop :=
  ∀ (s : State) (mb : Nat) (r : MbRunning) (t : Nat), t = targetOf r.payload →
    (∀ (op : Nat) (rm : Bool) (c : Instr), (c = .reset mb ∧ op = 0x20 ∧ rm = false) ∨ (c = .remove mb ∧ op = 0x21 ∧ rm = true) → MbReady s mb op r →
      ∀ u : State, u = ((s.updInst t (fun x => let j : ResetJob := { remove := rm, mb := mb, sqhead := (s.inst t).ring.sqhead }
          { x with state := if rm then .removing else .resetting, resetJob := some j })).stopInstance t).settleControls →
      (u.genFree t = true → exec c s = .next (u.finishReset t).settleControls) ∧
      (u.genFree t = false → exec c s = .next u.settleControls)) ∧
    (t < 64 → s.genFree t = true → ∀ j, (s.inst t).resetJob = some j → ∃ u : State, exec (.generationHoldExpiry t) s = .next u.settleControls ∧
      u = s.finishReset t ∧ (u.inst t).gen = (s.inst t).gen + 1 ∧ (u.inst t).records = [] ∧ (u.inst t).layouts = [] ∧
      (u.inst t).resetJob = none ∧ ((u.inst t).ring.sqhead, (u.inst t).ring.sqtail, (u.inst t).ring.cqtail) = (0, 0, 0) ∧
      (u.inst t).state = if j.remove then .removing else .active) ∧
    (MbReady s mb 0x22 r → (s.inst t).state = .preempted → exec (.preempt mb) s = .next ((s.respond mb 0 []).settleControls)) ∧
    (MbReady s mb 0x22 r → (s.inst t).state ≠ .preempted → (∀ l ∈ s.launches, l.inst ≠ t) → s.saveFits t [] = true →
      exec (.preempt mb) s = .next (((((List.range 128).filter (fun n => (s.cluster n).owner = some t)).foldl
        (fun (s : State) n => s.control (clusterUnit n) .preempt) (s.updInst t (fun x => { x with preempting := true }))).settleControls).settleControls)) ∧
    (MbReady s mb 0x23 r → (s.inst t).state = .preempted → ∃ u : State, exec (.resume mb) s = .next ((u.respond mb 0 []).settleControls) ∧
      u = (s.launches.filter (fun l => l.inst = t && l.saved)).foldl (fun (s : State) l => s.restoreLaunch l)
        (s.updInst t (fun x => { x with state := .active })))

/-- A command that passes the checks has its effect, after which control commands that waited move on (R29): SECQ returns
the status words; EVIDENCE returns a status and a record; ENROLL of a module without a usable key draws its secrets
and generates, and the end of key generation stores the root and returns the public key; CERTW and CERTR write and
read the certificate region; LICADD keeps a valid licence and LICDEL removes one; NONCE keeps and returns 32 free
bytes; the LCS commands move the life cycle from the states of R446, and a change that R446 does not allow does not
pass the checks; GCLR clears LOCKED where no source is active. The statuses of LICDEL and of a change that is not
allowed are log entry 56. It says where these complete: SECQ, EVIDENCE, ENROLL, KEYGEN_DONE, CERTW, CERTR, LICADD,
LICDEL, NONCE, LCS_DEPLOYED, LCS_DEBUG, LCS_RETURN, LCS_RETIRED, GCLR. (R446, R449, R450, R451, R453, R454, R455,
R462, R463) -/
def Obligations.SecurityCommands : Prop :=
  ∀ (s : State) (mb : Nat) (r : MbRunning) (p : List Byte), p = r.payload →
    (MbReady s mb 0x30 r → exec (.secq mb) s =
      .next ((s.respond mb 0 (leBytes 4 s.secStat ++ leBytes 4 s.sigidx ++ leBytes 4 (s.variant.toNat % 16))).settleControls)) ∧
    (MbReady s mb 0x31 r → ∀ st bs u, s.evidence (targetOf p) ((p.drop 4).take 32) = (st, bs, u) →
      exec (.evidence mb) s = .next ((u.respond mb st bs).settleControls)) ∧
    (MbReady s mb 0x32 r → s.sec.enrolled = false → s.sec.lcs ≠ 0 → s.sec.lcs ≠ 4 → ∃ u : State, exec (.enroll mb) s = .next u.settleControls ∧
      u.sec.keygen = true ∧ u.sec.enrolled = false ∧ (u.inst mb).mb.running = some r ∧ u.mem = s.mem) ∧
    (mb < 64 → (s.inst mb).mb.running = some r → r.opcode = 0x32 → s.sec.keygen = true → ∃ u : State, exec (.keygenDone mb) s = .next u ∧
      u.sec.enrolled = true ∧ u.sec.keygen = false ∧ u.sec.sigIndex = some 0 ∧
      u.sec.root = Config.xmssRoot s.sec.skSeed s.sec.skPrf s.sec.pubSeed ∧ (u.inst mb).mb.rspStatus = 0) ∧
    (MbReady s mb 0x33 r → ∃ u : State, exec (.certw mb) s = .next u.settleControls ∧ (∀ k, NMap.at u.sec.certs (leAt p 4 4 + k) 0xFF =
      if k < (p.drop 8).length then (p.drop 8).getD k 0 else NMap.at s.sec.certs (leAt p 4 4 + k) 0xFF)) ∧
    (MbReady s mb 0x34 r → exec (.certr mb) s = .next ((s.respond mb 0 (NMap.bytes 0xFF s.sec.certs (leAt p 4 4) (leAt p 8 4))).settleControls)) ∧
    (MbReady s mb 0x35 r → s.licenceOk 0 ((p.drop 4).take 2884) = true → s.sec.licences = [] → ∃ u : State, exec (.licadd mb) s = .next u.settleControls ∧
      u.sec.licences = [(0, { id := BitVec.ofNat 32 (leAt p 8 4), grant := BitVec.ofNat 32 (leAt p 20 4), digest := Config.shake256 ((p.drop 4).take 2884) })] ∧
      u.variant = BitVec.ofNat 32 (leAt ((p.drop 4).take 2884) 16 4) ∧ (u.inst mb).mb.rspStatus = 0) ∧
    (MbReady s mb 0x35 r → s.licenceOk 0 ((p.drop 4).take 2884) = false → exec (.licadd mb) s = .next ((s.respond mb 0x0503 []).settleControls)) ∧
    (MbReady s mb 0x36 r → ∃ u : State, exec (.licdel mb) s = .next u.settleControls ∧ (u.inst mb).mb.rspStatus = 0 ∧
      ∀ e, e ∈ u.sec.licences ↔ e ∈ s.sec.licences ∧ e.2.id.toNat ≠ leAt p 4 4) ∧
    (MbReady s mb 0x37 r → ∃ (u : State) (n : List Byte), exec (.nonce mb) s = .next u.settleControls ∧ n.length = 32 ∧ u.sec.nonce = some n ∧
      (u.inst mb).mb.rspPayload.take 32 = n) ∧
    (∀ (st kind : Nat) (c : Instr), (c = .lcsDeployed mb ∧ st = 2 ∧ kind = 0) ∨ (c = .lcsDebug mb ∧ st = 3 ∧ kind = 1) ∨
        (c = .lcsReturn mb ∧ st = 1 ∧ kind = 2) ∨ (c = .lcsRetired mb ∧ st = 4 ∧ kind = 3) →
      MbReady s mb 0x38 r → leAt p 1 1 = st → (kind ≠ 0 → s.licenceOk kind ((p.drop 4).take 2884) = true) →
      (st = 2 → s.sec.lcs = 1) → (st = 3 → (s.sec.lcs = 1 ∨ s.sec.lcs = 2) ∧ s.sec.debugcnt.toNat < 8) → (st = 1 → s.sec.lcs = 3) →
      (st = 4 → s.sec.lcs ≠ 4) → s.sec.keygen = false →
      ∃ u : State, exec c s = .next u.settleControls ∧ u.sec.lcs.toNat = st ∧ (u.inst mb).mb.rspStatus = 0 ∧ (st ≠ 2 → u.sec.licences = []) ∧
        (st = 3 → u.sec.debugcnt = s.sec.debugcnt + 1)) ∧
    (r.opcode = 0x38 → s.lcsAllowed (leAt p 1 1) = false → s.mbCheck mb r ≠ none) ∧
    (MbReady s mb 0x39 r → s.sec.active = 0 → ∃ u : State, exec (.gclr mb) s = .next u.settleControls ∧ u.sec.locked = false ∧ (u.inst mb).mb.rspStatus = 0) ∧
    (MbReady s mb 0x39 r → s.sec.active ≠ 0 → exec (.gclr mb) s = .next ((s.respond mb 0x000C []).settleControls))

/-- A source that is watched sets SEEN and ACTIVE and writes the tamper log: a new entry with its source, level, time and
boot count, or one more detection in the source's entry of the last second; with level 1 or 2 the data-key root and
every instance record are gone and LOCKED is set, with level 2 the licences and the attestation key too. A source that
ends clears its ACTIVE bit and leaves SEEN. Running firmware whose digest differs from measurement M1 is source 6; one
that matches changes nothing. It says where these complete: GALE_DETECTION, FIRMWARE_INTEGRITY_CHECK,
GALE_SOURCE_CLEARED. (R456, R457, R458, R459, R461) -/
def Obligations.GaleSources : Prop :=
  ∀ (s : State) (source : Nat), source < 7 →
    (∀ un, s.board.rails = true → un = false → ∃ t, exec (.galeDetection source un) s = .next t ∧ t.sec.seen.getLsbD source = true ∧
      t.sec.active.getLsbD source = true ∧
      (s.sec.tlogAt.find? (fun e => e.1 = source && s.clock.now < e.2.2 + 10 ^ 9) = none →
        (NMap.at t.sec.tlog s.sec.tlognext.toNat 0).toNat = source + s.galeLevel source * 2 ^ 8 + s.sec.seconds.toNat * 2 ^ 32
          + s.pers.bootcnt.toNat * 2 ^ 64 ∧ t.sec.tlognext = s.sec.tlognext + 1) ∧
      (∀ e, s.sec.tlogAt.find? (fun e => e.1 = source && s.clock.now < e.2.2 + 10 ^ 9) = some e →
        t.sec.tlognext = s.sec.tlognext ∧ NMap.at t.sec.tlog e.2.1 0 = BitVec.ofNat 128 (setFld (NMap.at s.sec.tlog e.2.1 0).toNat 16 8
          (min 255 (fld (NMap.at s.sec.tlog e.2.1 0).toNat 16 8 + 1)))) ∧
      (s.galeLevel source ≠ 0 → t.sec.locked = true ∧ t.sec.dataRoot = 0 ∧ t.sec.epochs = []) ∧
      (s.galeLevel source = 2 → t.sec.licences = [] ∧ t.sec.enrolled = false ∧ t.sec.skSeed = 0) ∧
      (s.galeLevel source = 0 → t.sec.locked = s.sec.locked ∧ t.sec.dataRoot = s.sec.dataRoot ∧ t.mem = s.mem)) ∧
    (∃ t, exec (.galeSourceCleared source) s = .next t ∧ t.sec.active.getLsbD source = false ∧ t.sec.seen = s.sec.seen ∧
      t.sec.locked = s.sec.locked ∧ (∀ k, k ≠ source → t.sec.active.getLsbD k = s.sec.active.getLsbD k) ∧ t.mem = s.mem) ∧
    (∀ running, s.board.rails = true → 3 ≤ s.host.step.toNat →
      (Config.shake256 running ≠ NMap.at s.sec.meas 1 0 → exec (.firmwareIntegrityCheck running) s = .next (s.detect 6 false)) ∧
      (Config.shake256 running = NMap.at s.sec.meas 1 0 → exec (.firmwareIntegrityCheck running) s = .next s))

/-- With source 1 and no delay an edge counts a beat unless it comes within half a period of the last one, when only the
glitch counter moves, and the greatest beat number stays; with a delay it is kept for that long; with another source
it is ignored; with source 2 a symbol with a later count on the receiving link sets the counter and the hops, a count
that is not later is ignored; with source 3 SWBEAT sets a later count; with no source a preset that does not go back
is taken. A counted beat sets the counter, phase 0 and not lost. A read returns the counter and latches the phase;
CFG, CLR and a loss change what their rules name. When the glitch test is made, that the greatest beat number stays
(log entry 114) and that a change of source keeps the last beat's time (log entry 69) are the model's readings. It
says where these complete: CAD_IN_EDGE, CADENCE_SYMBOL, SWBEAT, CAD_BEAT_PRESET, CAD_BEAT_READ, CAD_SOURCE_CHANGE,
CAD_CLR, CADENCE_LOST. (R302, R303, R304, R305, R311, R314) -/
def Obligations.CadenceUnit : Prop :=
  ∀ (s : State),
    (∀ b t, t = s.countBeat b → t.cad.beat = b ∧ t.cad.phase = 0 ∧ t.cad.lost = false ∧ t.cad.beatAt = some s.clock.now ∧
      t.cad.src = s.cad.src) ∧
    (s.cad.src ≠ 1 ∨ s.cad.delay = 0 ∧ s.board.rails = false → exec .cadInEdge s = .next s) ∧
    (s.cad.delay = 0 → s.cad.src = 1 → s.board.rails = true →
      ((∀ a, s.cad.beatAt = some a → s.cad.period.toNat ≤ 2 * (s.clock.now - a)) →
        (s.cad.beat.toNat ≠ 2 ^ 64 - 1 → exec .cadInEdge s = .next (s.countBeat (s.cad.beat + 1))) ∧
        (s.cad.beat.toNat = 2 ^ 64 - 1 → exec .cadInEdge s = .next s)) ∧
      ((∃ a, s.cad.beatAt = some a ∧ 2 * (s.clock.now - a) < s.cad.period.toNat) →
        exec .cadInEdge s = .next { s with cad := { s.cad with glitch := sat16 s.cad.glitch 1 } })) ∧
    (s.cad.src = 1 → s.cad.delay ≠ 0 → exec .cadInEdge s =
      .next { s with cad := { s.cad with edges := s.cad.edges ++ [s.clock.now + s.cad.delay.toNat] } }) ∧
    (∀ link hops leader (beat : BitVec 64), link < 24 → s.cad.src = 2 → s.cad.rxlink.toNat = link → s.linkUp link = true →
      s.cad.beat.toNat < beat.toNat → ∃ t, exec (.cadenceSymbol link hops leader beat) s = .next t ∧ t.cad.beat = beat ∧
        t.cad.hops = BitVec.ofNat 4 hops ∧ t.cad.phase = 0) ∧
    (∀ link hops leader (beat : BitVec 64), link < 24 → beat.toNat ≤ s.cad.beat.toNat →
      exec (.cadenceSymbol link hops leader beat) s = .next s) ∧
    (∀ v : BitVec 64, s.regOpen 0 = true →
      (s.cad.src = 3 → s.cad.beat.toNat < v.toNat → exec (.swbeat 0 v) s = .next (s.countBeat v)) ∧
      (s.cad.src = 3 → v.toNat ≤ s.cad.beat.toNat → exec (.swbeat 0 v) s = .next s) ∧
      (s.cad.src = 0 → s.cad.beat.toNat ≤ v.toNat →
        exec (.cadBeatPreset 0 v) s = .next { s with cad := { s.cad with beat := v } }) ∧
      (exec (.cadBeatRead 0) s = .next (({ s with cad := { s.cad with phaseLatch := s.cad.phase } }).send
        (.readCompletion (leBytes 8 s.cad.beat.toNat) false)))) ∧
    (∀ v : BitVec 32, s.regOpen 0 = true → fld v.toNat 4 5 < 24 → ∃ t, exec (.cadSourceChange 0 v) s = .next t ∧
      t.cad.src = BitVec.ofNat 2 v.toNat ∧ t.cad.rxlink = BitVec.ofNat 5 (fld v.toNat 4 5) ∧ t.cad.beat = s.cad.beat ∧
      (t.cad.src ≠ s.cad.src → t.cad.beatAt = s.cad.beatAt ∧ t.cad.selectAt = s.clock.now) ∧ t.mem = s.mem) ∧
    (∀ v : BitVec 32, s.regOpen 0 = true → v.getLsbD 0 = true →
      exec (.cadClr 0 v) s = .next { s with cad := { s.cad with snapskip := 0, glitch := 0, late := {} } }) ∧
    (s.cad.src ≠ 0 → s.cad.lost = false → s.cad.since + 2 * s.cad.period.toNat ≤ s.clock.now →
      ∃ t, exec .cadenceLost s = .next t ∧ t.cad = { s.cad with lost := true })

/-- An enabled link that is down and not reported begins to train; a trained link is up on the widest width of its sound
lanes with fresh sequence numbers and the credits granted; a width request for a width of sound lanes is answered and
taken, the answer to this end's own request is taken; a failed lane in use makes this end ask for the widest width of
the rest, or takes the link down with none; a retrained lane makes it ask for the wider width, and in a self-test the
next lane goes; a lane that fails a third retraining is fenced; going down, by loss or by the neighbour's message,
empties the buffers and takes the link out of service; a link down for 1 s is reported once. The widths asked for and
those taken where requests cross are log entry 106. It says where these complete: WIDTH_REQUEST, GOING_DOWN,
LANE_FAILURE, LANE_RETRAINED, LINK_TRAINING_RETRY, LINK_TRAINED, AELDON_LINK_DOWN, LINK_REPORTED_DOWN. (R369, R372,
R375, R377, R378, R389, R439) -/
def Obligations.LinkStates : Prop :=
  ∀ (s : State) (l : Nat) (k : Link), l < 24 → k = s.link l →
    (s.ael.en.getLsbD l = true → k.state ≠ 2 → k.reported = false → s.board.rails = true → k.trainAt = 0 →
      exec (.linkTrainingRetry l) s = .next (s.setLink l { k with state := 1, trainAt := s.clock.now })) ∧
    (∀ (lanes : BitVec 4) peer cr m, s.ael.en.getLsbD l = true → k.state ≠ 2 → k.reported = false → s.board.rails = true →
      m = widest (lanes.toNat &&& (15 - k.fenced.toNat)) → m ≠ 0 → ∃ t, exec (.linkTrained l lanes peer cr) s = .next t ∧
        (t.link l).state = 2 ∧ (t.link l).good.toNat = m ∧ (t.link l).width = BitVec.ofNat 2 (widthCode m) ∧
        (t.link l).peer = peer ∧ (t.link l).txNext = 0 ∧ (t.link l).rxExpected = 0 ∧ (t.link l).txBuf = [] ∧
        (∀ v, v < 5 → NMap.at (t.link l).credits v 0 = cr) ∧ (∀ j, j ≠ l → t.link j = s.link j)) ∧
    (∀ mask : BitVec 4, k.state = 2 → widest mask.toNat = mask.toNat → mask ≠ 0 → mask &&& k.fenced = 0 →
      (k.asked = none → exec (.widthRequest l mask) s = .next ((s.sendControl l false [widthMessage mask.toNat]).setWidth l mask.toNat)) ∧
      (∀ a m, k.asked = some a → m = widest (a.toNat &&& mask.toNat) → m ≠ 0 →
        exec (.widthRequest l mask) s = .next (s.setWidth l m))) ∧
    (∀ m t, t = s.setWidth l m → (t.link l).good = BitVec.ofNat 4 m ∧ (t.link l).width = BitVec.ofNat 2 (widthCode m) ∧
      (t.link l).state = k.state ∧ (t.link l).asked = none ∧ ∀ j, j ≠ l → t.link j = s.link j) ∧
    (∀ lane m k', lane < 4 → k.state = 2 → k.fenced.getLsbD lane = false → k.good.getLsbD lane = true →
      k' = { k with laneFails := NMap.ins k.laneFails lane (NMap.at k.laneFails lane 0) } → m = widest (k.good.toNat &&& k'.sound) →
      (m ≠ 0 → exec (.laneFailure l lane) s = .next (((s.setLink l k').unitRecord 7 (linkUnit l) []).askWidth l m)) ∧
      (m = 0 → ∃ t, exec (.laneFailure l lane) s = .next t ∧ (t.link l).state ≠ 2)) ∧
    (∀ m t, k.state = 2 → k.good.toNat ≠ m → t = s.askWidth l m → (t.link l).asked = some (BitVec.ofNat 4 m) ∧
      (t.link l).good = k.good ∧ (t.link l).state = 2 ∧ ∃ f c, t.out = s.out ++ .flit l f :: c ∧ c.length ≤ 1) ∧
    (∀ lane n k', lane < 4 → k.state = 2 → NMap.find k.laneFails lane = some n → k' = { k with laneFails := NMap.del k.laneFails lane } →
      (s.testsLane l lane = false → exec (.laneRetrained l lane true) s =
        .next (((s.setLink l k').askWidth l (widest k'.sound)).unitRecord 8 (linkUnit l) [])) ∧
      (∀ u : State, s.testsLane l lane = true → u = (s.setLink l k').nextLane l s.bist.left.tail →
        exec (.laneRetrained l lane true) s = .next (if u.bist.left = [] then u.askWidth l (widest (u.link l).sound) else u)) ∧
      (2 ≤ n → ∃ t, exec (.laneRetrained l lane false) s = .next t ∧ (t.link l).fenced.getLsbD lane = true) ∧
      (n < 2 → ∃ t, exec (.laneRetrained l lane false) s = .next t ∧ NMap.find (t.link l).laneFails lane = some (n + 1))) ∧
    (k.state = 2 → ∀ c : Instr, (c = .aeldonLinkDown l ∨ ∃ reason, c = .goingDown l reason) → ∃ t, exec c s = .next t ∧
      (t.link l).state = (if s.ael.en.getLsbD l then 0 else 3) ∧ (t.link l).txBuf = [] ∧ (t.link l).waiting = [] ∧
      (t.link l).width = 0 ∧ (t.link l).downAt = some s.clock.now) ∧
    (∀ a, k.downAt = some a → k.state ≠ 2 → k.reported = false → a + 10 ^ 9 ≤ s.clock.now → ∃ t,
      exec (.linkReportedDown l) s = .next t ∧ (t.link l).reported = true ∧ (t.link l).state = k.state)

/-- A flit whose CRC fails is counted and asks for one replay, and no sequence number moves; a clean data flit with the
expected number is accepted. A codeword with more than 15 symbol errors is counted, and a flit with bits in it is
lost; the receiver keeps its place in the 5,140-bit message. That the symbol errors of the codeword come with the flit
that begins in it, and the layout of flits and credits, are log entries 108 and 106. A replay timer resends from the
oldest flit, an ACK timer reports the last number, a flit that has waited 10 ms for a credit is reported. A packet for
this module is delivered with its life counted down, one for another goes to a port of its route, and one whose life
is over is answered if it is a request. It says where these complete: FLIT_RECEIVED, REPLAY_TIMEOUT, CREDIT_STALL,
PACKET_ROUTE, ACK_REPORT_TIMER. (R370, R371, R373, R374, R375, R379, R381, R383) -/
def Obligations.FlitsAndRoutes : Prop :=
  ∀ (s : State) (l : Nat) (k : Link), l < 24 → k = s.link l →
    (∀ (f : List Byte) (errors : List Nat) (begins bad lost : Bool), k.state = 2 → begins = decide (k.rxFill = 0 ∨ 5140 < k.rxFill + 2048) →
      bad = (begins && decide (15 < (errors.filter (fun j => j < 544)).eraseDups.length)) →
      lost = (bad || decide (k.rxFill ≠ 0) && k.rxBad) →
      (lost = false → leAt f 252 4 ≠ crc32 (f.take 252) → ∃ t, exec (.flitReceived l ⟨f, errors⟩) s = .next t ∧
      (t.link l).rxFill = (k.rxFill + 2048) % 5140 ∧ (t.link l).rxBad = (if begins then bad else k.rxBad) ∧
      (t.link l).crc = sat16 k.crc 1 ∧ (t.link l).rxExpected = k.rxExpected ∧ (t.link l).nakSent = true ∧
      t.out = s.out ++ (if k.nakSent then [] else (({ s with out := [] } : State).sendControl l true []).out)) ∧
      (lost = false → f.length = 256 → leAt f 252 4 = crc32 (f.take 252) →
      bit (leAt f 0 2) 15 = false → fld (leAt f 0 2) 12 3 ≤ 4 → fld (leAt f 2 2) 13 3 = 0 → bit (leAt f 4 2) 3 = false →
      fld (leAt f 6 1) 4 4 = 0 → leAt f 7 5 = 0 → BitVec.ofNat 12 (leAt f 0 2) = k.rxExpected →
      ∃ t, exec (.flitReceived l ⟨f, errors⟩) s = .next t ∧
        (t.link l).rxExpected = k.rxExpected + 1 ∧ (t.link l).nakSent = false ∧ (t.link l).crc = k.crc) ∧
      (lost = true → k.uncTimes = [] → ∃ t, exec (.flitReceived l ⟨f, errors⟩) s = .next t ∧
        (t.link l).uncorr = (if bad then sat16 k.uncorr 1 else k.uncorr) ∧ (t.link l).crc = sat16 k.crc 1 ∧
        (t.link l).rxExpected = k.rxExpected ∧ (t.link l).nakSent = true)) ∧
    (∀ f fs, k.txBuf = f :: fs → k.state = 2 → k.progressAt + 2000 ≤ s.clock.now → exec (.replayTimeout l) s =
      .next ((s.setLink l { k with replay := sat16 k.replay 1, progressAt := s.clock.now }).resendFlits l f.seq)) ∧
    (k.state = 2 → exec (.ackReportTimer l) s = .next (s.sendControl l false [])) ∧
    (∀ vc w, k.waiting.find? (fun w => w.vc = vc && !w.told && w.since + 10000000 ≤ s.clock.now) = some w → ∃ t,
      exec (.creditStall l vc) s = .next t ∧ (t.link l).waiting =
        k.waiting.map (fun v => if v = w then { w with told := true } else v)) ∧
    (∀ (p : Packet) res, s.board.rails = true → p.mc = false → res ≤ 4000 →
      (1 ≤ p.life → p.dst = s.ael.id → exec (.packetRoute none res p) s = .next (s.deliver { p with life := p.life - 1 })) ∧
      (1 ≤ p.life → p.dst ≠ s.ael.id → ∀ q, s.port { p with life := p.life - 1 } = some q →
        exec (.packetRoute none res p) s = .next (s.sendOn q res { p with life := p.life - 1 })) ∧
      (p.life = 0 → isRequest p.opc.toNat = false → exec (.packetRoute none res p) s = .next s) ∧
      (p.life = 0 → isRequest p.opc.toNat = true → exec (.packetRoute none res p) s =
        .next (s.routeN 1 none 0 (s.rejectOf p 0x0303)).2))

/-- A request that the bindings do not allow is taken and rejected with its status; an allowed WRITE that is its batch's
only one is performed and acknowledged, another one enters its batch; a READ is answered with the bytes, status 0x0307
where a sector of them is poisoned; an ATOMIC already in the deduplication list gets the kept answer, another one is
performed and kept; a CLOSE meets its batch. A batch without a write for 10 ms and an answer older than 10 ms leave
their lists. What becomes of a CLOSE or an ATOMIC that fails its checks is log entry 79. It says where these complete:
WRITE, READ, ATOMIC, CLOSE, BATCH_ENTRY_TIMEOUT, DEDUP_ENTRY_EXPIRY. (R362, R364, R384, R385, R386, R387, R388, R429) -/
def Obligations.RemoteTarget : Prop :=
  ∀ (s : State) (p : Packet), s.board.rails = true → s.therm.tripped = false →
    (∀ st (c : Instr), s.refusal p = some st → (p.opc = 1 ∧ c = .write p) ∨ (p.opc = 2 ∧ c = .read p) ∨
      (p.opc = 3 ∧ c = .atomic p ∧ atomOk p.aop.toNat p.atype.toNat = true) → exec c s = .next ((s.take p).answer p 0x84 st [])) ∧
    (s.refusal p = none → s.heldRun p.addr.toNat (max 1 p.len) = false →
      (p.opc = 1 → p.fin = true → p.count = 1 → exec (.write p) s = .next ((s.take p).landWrite p)) ∧
      (p.opc = 1 → p.fin = false → s.ael.tracker = [] → ∃ t b, exec (.write p) s = .next t ∧ t.ael.tracker = [b] ∧
        b.isOf p = true ∧ b.landed = 1 ∧ b.fin = none ∧ b.last = s.clock.now ∧ t.mem = ((s.take p).landWrite p).mem) ∧
      (p.opc = 2 → ∀ bs t lo, lo = p.addr.toNat / 32 * 32 →
        (s.take p).hbmRead (s.inboundAcc p) lo ((p.addr.toNat + p.len + 31) / 32 * 32 - lo) = (bs, t) →
        exec (.read p) s = .next (t.answer p 0x82 (if anyPoison bs then 0x0307 else 0)
          (plain ((bs.drop (p.addr.toNat - lo)).take p.len)))) ∧
      (p.opc = 3 → atomOk p.aop.toNat p.atype.toNat = true → ∀ d, s.ael.dedup.find? (fun d => d.src = p.src && d.txid = p.txid) = some d →
        exec (.atomic p) s = .next ((s.take p).answer p 0x83 d.status.toNat d.data)) ∧
      (p.opc = 3 → atomOk p.aop.toNat p.atype.toNat = true → s.ael.dedup = [] → ∃ t d, exec (.atomic p) s = .next t ∧
        t.ael.dedup = [d] ∧ d.src = p.src ∧ d.txid = p.txid ∧ d.since = s.clock.now) ∧
      (p.opc = 4 → ∀ b, s.ael.tracker.find? (fun b => b.isOf p) = some b →
        exec (.close p) s = .next ((s.take p).settleBatch { b with close := some p.count }))) ∧
    (∀ key b, s.ael.tracker[key]? = some b → b.last + 10000000 ≤ s.clock.now →
      (b.fin = none → exec (.batchEntryTimeout key) s = .next (s.setTracker (s.ael.tracker.erase b))) ∧
      (∀ f, b.fin = some f → exec (.batchEntryTimeout key) s = .next ((s.setTracker (s.ael.tracker.erase b)).answer f 0x84 0x0304 []))) ∧
    (∀ src txid, ∃ t, exec (.dedupEntryExpiry src txid) s = .next t ∧ t.mem = s.mem ∧
      ∀ d, d ∈ t.ael.dedup ↔ d ∈ s.ael.dedup ∧ ¬(d.src.toNat = src ∧ d.txid.toNat = txid ∧ d.since + 10000000 ≤ s.clock.now))

/-- WACK, RDATA and ARES that match an outstanding request of the instance's generation end it and land its bytes; a
REJECT with busy starts the 2 us wait, one of a WRITE or with a status that ends it at once ends it as failed, another
one of a READ sends it again; a request without a response for 2 ms is ended as failed where it is a WRITE and sent
again under a new transaction ID where it is a READ; an ATOMIC without an answer 10 ms after its first send ends with
status 0x0305; a busy request is sent again after 2 us. The status of a timed-out WRITE is a free value (log entry
80). It says where these complete: WACK, RDATA, ARES, REJECT, REQUEST_TIMEOUT, ATOMIC_OUTCOME_UNKNOWN, BUSY_RESEND.
(R164, R362, R384, R385, R387, R388, R389) -/
def Obligations.RemoteSource : Prop :=
  ∀ (s : State) (o : Outstanding), s.board.rails = true → s.therm.tripped = false → s.outstOf o.txid.toNat = some o →
    (∀ (p : Packet), p.txid = o.txid → p.dinst = o.p.sinst → p.dgen = (s.inst o.inst).gen →
      (p.opc = 0x81 → o.p.opc = 1 → exec (.wack p) s = .next (((s.take p).settle o).land o 0 [])) ∧
      (p.opc = 0x82 → o.p.opc = 2 → exec (.rdata p) s =
        .next (((s.take p).settle o).land o p.status.toNat (p.data.map (fun b => (b, p.status = 0x0307))))) ∧
      (p.opc = 0x83 → o.p.opc = 3 → exec (.ares p) s = .next (((s.take p).settle o).land o p.status.toNat (clean p.data))) ∧
      (p.opc = 0x84 → (∀ c, c < 64 → p.txid ∉ (s.coll c).txids) → p.status = 0x0005 →
        exec (.reject p) s = .next ((s.take p).setOutst o { o with busyAt := some s.clock.now })) ∧
      (p.opc = 0x84 → (∀ c, c < 64 → p.txid ∉ (s.coll c).txids) → p.status ≠ 0x0005 →
        (o.p.opc = 1 ∨ p.status = 0x0301 ∨ p.status = 0x0306 ∨ p.status = 0x0009) →
        exec (.reject p) s = .next ((s.take p).endFailed o p.status.toNat)) ∧
      (p.opc = 0x84 → (∀ c, c < 64 → p.txid ∉ (s.coll c).txids) → o.p.opc = 2 →
        (p.status = 0x0302 ∨ p.status = 0x0303 ∨ p.status = 0x0304) →
        exec (.reject p) s = .next ((s.take p).resendRead o))) ∧
    (o.busyAt = none → o.sent + 2000000 ≤ s.clock.now →
      (o.p.opc = 1 → exec (.requestTimeout o.txid.toNat) s = .next (s.draw.2.endFailed o (s.draw.1.toNat % 2 ^ 16))) ∧
      (o.p.opc = 2 → exec (.requestTimeout o.txid.toNat) s = .next (s.resendRead o)) ∧
      (o.p.opc = 3 → s.clock.now < o.first + 9000000 →
        exec (.requestTimeout o.txid.toNat) s = .next (s.resend o o.txid true))) ∧
    (o.p.opc = 3 → o.first + 10000000 ≤ s.clock.now →
      exec (.atomicOutcomeUnknown o.txid.toNat) s = .next (s.endFailed o 0x0305)) ∧
    (∀ a, o.busyAt = some a → a + 2000 ≤ s.clock.now → o.p.opc = 1 →
      exec (.busyResend o.txid.toNat) s = .next (s.resend o o.txid false))

/-- CTRL enables a context for an instance with a link weight, with RUNS at 0, and disables it; a run whose trigger is met
begins, with its token sent; a token of a context that is not enabled and a chunk of one without a run only leave the
delivered packets, and a token that comes before its run is kept; a chunk of a copy phase is written at the address of
its number and the count goes up; a step that has waited 10 ms fails the run: EN clears and no run is left. In lock
the packets are rejected (R458). How a packet names its context and its step is log entry 82. It says where these
complete: COLL_ENABLE, COLL_RUN_START, READY_TOKEN, COLL_CHUNK, COLL_STEP_TIMEOUT. (R390, R391, R392, R393) -/
def Obligations.Collectives : Prop :=
  ∀ (s : State) (c : Nat) (x : Coll), c < 64 → x = s.coll c →
    (∀ v : BitVec 32, s.regOpen 0 = true → x.en = false → v.getLsbD 8 = true → (s.inst (fld v.toNat 0 6)).linkw ≠ 0 →
      exec (.collEnable 0 c v) s = .next (s.setColl c { x with inst := BitVec.ofNat 6 (fld v.toNat 0 6), en := true, runs := 0 })) ∧
    (∀ v : BitVec 32, s.regOpen 0 = true → x.en = true → v.getLsbD 8 = false → ∃ t, exec (.collEnable 0 c v) s = .next t ∧
      (t.coll c).en = false ∧ (t.coll c).run = none ∧ (t.coll c).runs = x.runs) ∧
    (s.sec.lockInForce = true → exec (.readyToken c) s = .next (s.rejectColl c true) ∧
      ∀ data, exec (.collChunk c data) s = .next (s.rejectColl c false)) ∧
    (x.en = true → x.run = none → s.working = true → s.ael.reduceUp ≠ 0 → ∀ db t d tb u, s.collRead c x.desc.toNat 64 = (some db, t) →
      anyPoison db = false → collDesc (plain db) = some d → t.collRead c d.trig.toNat 4 = (some tb, u) → anyPoison tb = false →
      0 ≤ diff32 (BitVec.ofNat 32 (ofLe (plain tb))) (BitVec.ofNat 32 (x.runs + 1)) → d.beat0 = 0 →
      ∀ w, w = (u.setColl c { u.coll c with buf := [], run := some d, sent := 0, recvd := 0, since := u.clock.now, txids := [] }).sendToken c d →
        exec (.collRunStart c) s = .next (w.trySend c)) ∧
    (s.sec.lockInForce = false →
    (x.en = false → exec (.readyToken c) s = .next (s.dropColl c true)) ∧
    (x.en = true → x.run = none → exec (.readyToken c) s = .next ((s.dropColl c true).setColl c { x with tokens := x.tokens + 1 })) ∧
    (x.run = none → ∀ data, exec (.collChunk c data) s = .next (s.dropColl c false)) ∧
    (∀ d, x.run = some d → x.en = true → exec (.readyToken c) s = .next (State.tryEnd (State.trySend ((s.dropColl c true).setColl c
      { x with tokens := x.tokens + 1, since := s.clock.now }) c) c)) ∧
    (∀ d data t, x.run = some d → x.en = true → x.recvd < d.steps → data.length = d.chunk → d.reduces x.recvd = false →
      s.bufWaits (d.chunk / 65536 + 2) x.inst.toNat (d.chunkVa (d.recvs x.recvd)) d.chunk = false →
      (s.dropColl c false).bufWrite (d.chunk / 65536 + 2) x.inst.toNat (d.chunkVa (d.recvs x.recvd)) data = (true, t) →
      ∃ u : State, exec (.collChunk c data) s = .next (State.tryEnd (State.trySend u c) c) ∧ (u.coll c).recvd = x.recvd + 1 ∧ u.mem = t.mem)) ∧
    (x.run.isSome = true → x.since + 10000000 ≤ s.clock.now → ∃ t, exec (.collStepTimeout c) s = .next t ∧ (t.coll c).en = false ∧
      (t.coll c).run = none ∧ (t.coll c).runs = x.runs)

/-- A flit of 16 clean granules with the expected number is delivered with its channel and its message start and moves the
number, and a control flit's message is delivered; one that does not decode is counted, asks for one replay, and is
not delivered; a fenced bundle leaves service, its flits going on over the others, with the last number received told
on the way back, and with none of them sends nothing else on another bundle; D2D.FENCE refuses the last bundle of an
I/O die; a bridge with fewer than eight segments left is fenced; the two timers of a bundle send what their rules say.
What a bundle sends, its credits and the way of a handover are log entries 83 and 125. It says where these complete:
REPLAY_TIMEOUT, EDDY_FLIT, BUNDLE_FENCE, D2D_FENCE, BRIDGE_SEGMENT_FENCE, ACK_REPORT_TIMER. (R394, R395, R396, R398,
R402, R403, R408, R437, R440, R441) -/
def Obligations.DieToDie : Prop :=
  ∀ (s : State) (n d : Nat) (b : Bundle), n < 160 → d < 2 → b = s.bundle n →
    (∀ gs fl h tl, b.state = 0 → s.board.rails = true → decodeFlit gs = (some fl, []) → gs.length = 16 → fl = (h, false) :: tl →
      bit h.toNat 15 = false → bit h.toNat 26 = false → BitVec.ofNat 10 h.toNat = (b.dir d).rxExpected →
      ∃ t, exec (.eddyFlit n d gs) s = .next t ∧ ((t.bundle n).dir d).rxExpected = (b.dir d).rxExpected + 1 ∧
        .eddyDeliver n d (fld h.toNat 10 2) (fld h.toNat 48 4) tl ∈ t.out ∧ t.mem = s.mem) ∧
    (∀ gs fl h m tl, b.state = 0 → s.board.rails = true → decodeFlit gs = (some fl, []) → gs.length = 16 → fl = (h, false) :: m :: tl →
      bit h.toNat 15 = true → bit h.toNat 26 = false → m ≠ (0, false) → ∃ t, exec (.eddyFlit n d gs) s = .next t ∧
        ((t.bundle n).dir d).rxExpected = (b.dir d).rxExpected ∧ .eddyControl n d m ∈ t.out ∧ t.mem = s.mem) ∧
    (∀ gs, b.state = 0 → s.board.rails = true → decodeFlit gs = (none, []) → exec (.eddyFlit n d gs) s =
      .next ((s.updBundle n (fun b => { b with corr := sat16 b.corr 0 })).discardEddy n d true)) ∧
    (b.state = 0 → s.cutsDie n = false → b.dir0.unacked ++ b.dir0.waiting = [] → b.dir1.unacked ++ b.dir1.waiting = [] → ∀ (c : Instr),
      (c = .bundleFence n ∨ (s.regOpen 0 = true ∧ s.drains = [] ∧ c = .d2dFence 0 (BitVec.ofNat 32 (2 ^ 31 + n)))) →
      ∃ t, exec c s = .next t ∧ (t.bundle n).state = 2 ∧ (t.bundle n).dir0.unacked = [] ∧ (t.bundle n).dir1.unacked = [] ∧
        (∀ m, m ≠ n → (t.bundle m).state = (s.bundle m).state ∧ (t.bundle m).dir0.unacked = (s.bundle m).dir0.unacked ∧
          (t.bundle m).dir1.unacked = (s.bundle m).dir1.unacked)) ∧
    (∀ c : Instr, (c = .bundleFence n ∨ (s.regOpen 0 = true ∧ s.drains = [] ∧ s.cutsDie n = false ∧
      c = .d2dFence 0 (BitVec.ofNat 32 (2 ^ 31 + n)))) → exec c s = .next (s.fenceBundle n)) ∧
    (b.state = 0 → s.cutsDie n = true → s.regOpen 0 = true →
      exec (.d2dFence 0 (BitVec.ofNat 32 (2 ^ 31 + n))) s = .next (s.fenceRefused (bundleUnit n))) ∧
    (∀ die seg left, die < 4 → seg < 16 → (s.bundle (160 + 16 * die + seg)).state = 0 → left = s.segs die &&& ~~~(BitVec.ofNat 16 (1 <<< seg)) →
      ∃ t, exec (.bridgeSegmentFence die seg) s = .next t ∧ t.segs die = left ∧
        (popc 16 left.toNat < 8 → t.d2d.bridgeFenced.getLsbD die = true) ∧
        (8 ≤ popc 16 left.toNat → t.d2d.bridgeFenced = s.d2d.bridgeFenced)) ∧
    (∀ q qs, (b.dir d).unacked = q :: qs → b.state = 0 → (b.dir d).progressAt + 2000 ≤ s.clock.now →
      exec (.replayTimeout (24 + 2 * n + d)) s =
        .next ((s.setBundle n (b.setDir d { b.dir d with progressAt := s.clock.now })).resendEddy n d q.seq)) ∧
    (b.state = 0 → exec (.ackReportTimer (24 + 2 * n + d)) s = .next (s.reportEddy n d false))

/-- An update applies the calibration block's gains and offset; one whose floor power stays below both limits lowers the
choices while a limit is broken (the limiter is that limit: sustained, peak or current) or raises them one at a time
until the next would break one (the limiter is that one, 0 with none left to raise), and no choice goes above 20; one
whose floor power reaches one sets every choice to the floor and UNATTAINABLE; the correction factor is the ratio in
1/256 of the averages of the figures since the last one; ten disagreeing windows set DIVERGED and the floor hold, a
hundred agreeing ones end both; UNATTAINABLE clears after 100 ms; an exceeded peak lowers a choice; an ordered clock
takes effect; a cap or gate is taken from its register, CLR clears the counters, and a droop above the calibrated
threshold is counted and stretches a clock above the floor. How power and current follow from the clocks is opaque and
log entry 49. It says where these complete: FOEHN_UPDATE, CORRECTION_FACTOR, DIVERGED, FLOOR_HOLD_RELEASE,
UNATTAINABLE_CLEAR, PEAK_EXCEEDED, CLOCK_CHANGE, SECTOR_GATE, SECTOR_UNGATE, FOEHN_CLR, DROOP, DROOP_STRETCH_END.
(R410, R411, R412, R413, R415, R416, R417, R421, R424, R437) -/
def Obligations.FoehnCommands : Prop :=
  ∀ (s : State), s.powered = true →
    (∀ (m : Sense) e a (f : Figures) (u w : State), f = { meas := s.metered m, est := e, amps := a } →
      u = { s with foehn := (s.foehn.addEnergy f.meas).note f } → w = { u with foehn := { u.foehn with
        attainSince := if s.foehn.unattainable then some (s.foehn.attainSince.getD s.clock.now) else none } } →
      (s.foehn.sust.toNat * 1000 ≤ u.floorPower f → ∃ t, exec (.foehnUpdate m e a) s = .next t ∧ t.foehn.unattainable = true ∧
        t.foehn.limiter = 1 ∧ (∀ n, n < 64 → (t.sectorClk n).choice = 0)) ∧
      (u.floorPower f < s.foehn.sust.toNat * 1000 → s.foehn.peak.toNat * 1000 ≤ u.floorPower f → ∃ t,
        exec (.foehnUpdate m e a) s = .next t ∧ t.foehn.unattainable = true ∧ t.foehn.limiter = 2 ∧
        (∀ n, n < 64 → (t.sectorClk n).choice = 0)) ∧
      (u.floorPower f < s.foehn.sust.toNat * 1000 → u.floorPower f < s.foehn.peak.toNat * 1000 → ∃ t,
        exec (.foehnUpdate m e a) s = .next t ∧ t.foehn.unattainable = s.foehn.unattainable ∧
        t.foehn.energy = (s.foehn.addEnergy f.meas).energy ∧ t.foehn.last = f ∧ t.mem = s.mem ∧
        t.foehn.limiter = BitVec.ofNat 2 (if w.broken f = 0 then (w.raiseAll 1280 f).2 else w.broken f) ∧
        (∀ n, n < 64 → (t.sectorClk n).choice =
          ((if w.broken f = 0 then (w.raiseAll 1280 f).1 else w.lowerAll 1280 f).sectorClk n).choice) ∧
        (∀ n, n < 64 → (s.sectorClk n).choice ≤ 20 → (t.sectorClk n).choice ≤ 20)) ∧
      (w.broken f = 0 → (w.raiseAll 1280 f).1.broken f = 0 ∧
        ∀ n, n < 64 → (w.sectorClk n).choice ≤ ((w.raiseAll 1280 f).1.sectorClk n).choice)) ∧
    (∀ (w : State) (f : Figures) (p : Nat), p = w.predict f w.clocks → (w.broken f = 1 ↔ w.sustOk p = false) ∧
      (w.broken f = 2 ↔ w.sustOk p = true ∧ w.peakOk p = false) ∧
      (w.broken f = 3 ↔ w.sustOk p = true ∧ w.peakOk p = true ∧ ∃ n, n < 64 ∧ w.unheld n = true ∧ w.currentOk f n = false)) ∧
    (∀ a b m e, m = averageOr s.foehn.recentM a → e = averageOr s.foehn.recentE b → 0 < e → ∃ t,
      exec (.correctionFactor a b) s = .next t ∧ t.foehn.recentM = [] ∧ t.foehn.recentE = [] ∧ t.foehn.kfact = BitVec.ofNat 16 (min 0xFFFF (m * 256 / e)) ∧
      t.foehn.meas = BitVec.ofNat 16 (m / 1000) ∧ t.foehn.est = BitVec.ofNat 16 (e / 1000) ∧
      (t.foehn.disagree, t.foehn.agree) = if 5 * min m e < 4 * max m e then (s.foehn.disagree + 1, 0) else (0, s.foehn.agree + 1)) ∧
    (10 ≤ s.foehn.disagree → s.foehn.diverged = false → ∃ t, exec .diverged s = .next t ∧ t.foehn.diverged = true ∧
      t.foehn.floorhold = true) ∧
    (100 ≤ s.foehn.agree → s.foehn.diverged = true → ∃ t, exec .floorHoldRelease s = .next t ∧ t.foehn.diverged = false ∧
      t.foehn.floorhold = false) ∧
    (∀ a, s.foehn.attainSince = some a → s.foehn.unattainable = true → a + 10 ^ 8 ≤ s.clock.now → exec .unattainableClear s =
      .next { s with foehn := { s.foehn with unattainable := false, attainSince := none } }) ∧
    (∀ m n, s.peakOk m = false → n < 64 → s.unheld n = true → s.stepOf n ≠ 0 → ∃ t, exec (.peakExceeded m) s = .next t ∧
      t.foehn.limiter = 2 ∧ ∃ k, k < 64 ∧ (t.sectorClk k).choice < s.stepOf k) ∧
    (∀ n, n < 64 → (s.sectorClk n).ordered.isSome = true → ∃ t, exec (.clockChange n) s = .next t ∧
      (t.sectorClk n).ordered = none ∧ (t.sectorClk n).mhz = (s.sectorTarget n).2.2 ∧
      (∀ m, m ≠ n → t.sectorClk m = s.sectorClk m) ∧ t.mem = s.mem) ∧
    (∀ n (v : BitVec 32), n < 64 → s.regOpen 0 = true → fld v.toNat 0 5 ≤ 20 → s.err.secfenced.getLsbD n = false → s.drains = [] →
      (v.getLsbD 19 = true → (s.sectorClk n).gate = false → exec (.sectorGate 0 n v) s =
        .next (((s.updSectorClk n (fun k => { k with cap := BitVec.ofNat 5 v.toNat })).control (sectorUnit n) .gate).settleControls.orderClocks)) ∧
      (v.getLsbD 19 = false → (s.sectorClk n).gate = true → exec (.sectorUngate 0 n v) s =
        .next (((s.updSectorClk n (fun k => { k with cap := BitVec.ofNat 5 v.toNat })).control (sectorUnit n) .ungate).settleControls.orderClocks))) ∧
    (∀ v : BitVec 32, s.regOpen 0 = true → v.getLsbD 0 = true → ∃ t, exec (.foehnClr 0 v) s = .next t ∧ t.foehn.energy = {} ∧
      t.foehn.satev = v.getLsbD 1 ∧ (∀ n, n < 64 → (t.sectorClk n).droops = {} ∧ (t.sectorClk n).mhz = (s.sectorClk n).mhz) ∧ t.mem = s.mem) ∧
    (∀ n below, n < 64 → (s.sectorClk n).mhz ≠ 0 → below ≤ NMap.at s.board.applied.droop n 50 → exec (.droop ⟨n, below⟩) s = .next s) ∧
    (∀ n below, n < 64 → (s.sectorClk n).mhz ≠ 0 → NMap.at s.board.applied.droop n 50 < below → ∃ t, exec (.droop ⟨n, below⟩) s = .next t ∧
      (t.sectorClk n).stretched = decide (1000 < (s.sectorClk n).mhz) ∧
      (t.sectorClk n).droops = (s.sectorClk n).droops.add 1 ∧ (∀ m, m ≠ n → t.sectorClk m = s.sectorClk m)) ∧
    (∀ n, n < 64 → exec (.droopStretchEnd n) s = .next (s.updSectorClk n (fun k => { k with stretched := false })))

/-- A sample of a working sensor below the trip threshold keeps the temperature, with its thermal trim added, and raises
the peak to it where it is higher; one above 110 degrees puts its sectors in pre-trip throttle, which ends after 1 ms
at 108 degrees or less; a failed sensor is marked once and told to instance 0; a reading at the threshold trips: the
trip record is written and counted, THERMTRIP_N is asserted and the rails go down; CLR sets every peak to the current
temperature. What a loss of power keeps is log entry 61. It says where these complete: THERMAL_SAMPLE, PRE_TRIP_EXIT,
SENSOR_FAILED, SQUALL, THERM_CLR. (R411, R418, R419, R420, R422, R423, R425) -/
def Obligations.ThermalCommands : Prop :=
  ∀ (s : State) (i : Nat), i < 280 → s.powered = true →
    (∀ raw temp : BitVec 16, temp = s.trimmed i raw → (s.sensor i).fail = false → trips temp = false → ∃ t,
      exec (.thermalSample i raw) s = .next t ∧ (t.sensor i).temp = temp ∧ (∀ high : BitVec 15, high = BitVec.ofNat 15 (temp.toNat / 2) →
        (t.sensor i).peak = if (s.sensor i).peak.toInt < high.toInt then high else (s.sensor i).peak) ∧
      (temp.toInt > degC 110 → ∀ n ∈ sensorSectors i, (t.sectorClk n).pretrip = true) ∧
      (temp.toInt ≤ degC 110 → ∀ n, (t.sectorClk n).pretrip = (s.sectorClk n).pretrip)) ∧
    (∀ n a, n < 64 → (s.sectorClk n).coolSince = some a → (s.sectorClk n).pretrip = true → a + 10 ^ 6 ≤ s.clock.now →
      ∃ t, exec (.preTripExit n) s = .next t ∧ (t.sectorClk n).pretrip = false ∧ (t.sectorClk n).coolSince = none) ∧
    ((s.sensor i).fail = false → ∃ t, exec (.sensorFailed i) s = .next t ∧ (t.sensor i).fail = true ∧
      (∀ j, j ≠ i → t.sensor j = s.sensor j)) ∧
    ((s.sensor i).fail = false → ∀ u : State, u = s.setSensor i { s.sensor i with fail := true } → exec (.sensorFailed i) s =
      .next ((sensorSectors i).foldl (fun (t : State) n => s.settleClock t n) (u.event 0 (u.record 0xA 4 0 (sensorUnit i) i)))) ∧
    (∀ raw temp : BitVec 16, temp = s.trimmed i raw → (s.sensor i).fail = false → trips temp = true → ∃ t,
      exec (.squall i raw) s = .next t ∧
      t.board.rails = false ∧ t.board.thermtrip = true ∧ t.therm.tripped = true ∧ t.therm.newest = s.therm.newest + 1 ∧
      t.therm.tripcnt = sat16 s.therm.tripcnt 1 ∧
      NMap.at t.therm.trips (s.therm.newest + 1).toNat 0 = s.tripRecord i temp ∧ t.pers = (s.startLost).pers) ∧
    (∀ v : BitVec 32, s.regOpen 0 = true → v.getLsbD 0 = true → ∃ t, exec (.thermClr 0 v) s = .next t ∧
      ∀ j, j < 280 → t.sensor j = { s.sensor j with peak := BitVec.ofNat 15 ((s.sensor j).temp.toNat / 2) })

/-- A fence command on no unit that can be fenced gets RESULT 3, on one out of service RESULT 1, on one whose fence would
be fatal RESULT 2 with one record, on another fabric unit with no command waiting RESULT 0 with the unit fenced, and
otherwise an order; a unit that failed is fenced, after the lines whose tags do not decode are lost, and an upset of
its Reel queue is noted and fails it where it does not decode; a package-fatal error sets FATAL once; the first
saturation of a counter is told once; a 4-byte read of a register returns its word, one of a low half latches the high
half and the next one of that high half returns it; a read of another size or alignment returns zero. The results of a
command on a unit the package lacks, what UNIT_FENCED and PACKAGE_FATAL stand for, the numbering of BAR4 and the life
of a latch are log entries 46, 47, 48, 42 and 90. It says where these complete: ERR_FENCE, UNIT_FENCED, PACKAGE_FATAL,
COUNTER_SATURATED, COUNTER_LOW_READ. (R35, R437, R438, R439, R440, R441, R442, R444, R505) -/
def Obligations.ErrorsAndFences : Prop :=
  ∀ (s : State) (v : BitVec 32), s.regOpen 0 = true → s.board.rails = true →
    (v.getLsbD 31 = true → s.err.fence = none → ∀ r : State, r = { s with err := { s.err with fdrain := v.getLsbD 0 } } →
      (fenceable s.err.funit = false → exec (.errFence 0 v) s = .next (r.fenceResult 3)) ∧
      (fenceable s.err.funit = true → ∀ u n, s.logicalUnit s.err.funit = some u → unitNumber u = some n →
        (s.outOfService u n = true → exec (.errFence 0 v) s = .next (r.fenceResult 1)) ∧
        (s.outOfService u n = false → s.wouldBeFatal u n = true →
          exec (.errFence 0 v) s = .next ((r.fenceRefused u).fenceResult 2)) ∧
        (s.outOfService u n = false → s.wouldBeFatal u n = false → ∀ q w : State,
          q = { r with err := { r.err with fence := some { unit := u, drain := v.getLsbD 0 } } } →
          exec (.errFence 0 v) s = .next ((q.control u .fence).settleAll) ∧
          (unitCores u = [] → s.drains = [] → w = (q.fenceFabric u n).fenceResult 0 →
            exec (.errFence 0 v) s = .next (State.settleControls { w with err := { w.err with fence := none } }))))) ∧
    (v.getLsbD 31 = false → exec (.errFence 0 v) s = .next { s with err := { s.err with fdrain := v.getLsbD 0 } }) ∧
    (∀ w u n q, fenceable w = true → s.logicalUnit w = some u → unitNumber u = some n → s.outOfService u n = false →
      (∀ e v, q.upset = some e → e.place = .reelQueue → unitKind u = 2 → v = decodeGranule 0 false e.flip.toNat →
        exec (.unitFenced w q) s = .next (if v.1 = .uncorrectable then
          (s.noteError u n 0 none v).unitFails u n { queue := true, lostTags := [] } else s.noteError u n 0 none v)) ∧
      (q.upset = none → unitCores u = [] → exec (.unitFenced w q) s = .next (s.fenceFabric u n)) ∧
      (q.upset = none → unitCores u ≠ [] → exec (.unitFenced w q) s =
        .next (((s.loseTags u q.lostTags).fenceUnit u q.queue q.queue).settleControls))) ∧
    (∀ u, s.err.fatal = false → ∃ t, exec (.packageFatal u) s = .next t ∧ t.err.fatal = true) ∧
    (∀ u, s.err.fatal = true → exec (.packageFatal u) s = .next s) ∧
    (s.foehn.energy.ovf = true → s.foehn.energy.told = false → ∃ t, exec (.counterSaturated 0x40018) s = .next t ∧
      t.foehn.energy.told = true ∧ t.foehn.energy.reg = s.foehn.energy.reg ∧ (s.foehn.satev = false → t.mem = s.mem ∧ t.insts = s.insts)) ∧
    (∀ off v t, off % 4 = 0 → off < 2 ^ 26 → s.blockOpen 0 (off / 2 ^ 16) = true → off ≠ 0x030018 → s.readWord off = (v, t) →
      exec (.counterLowRead 0 ⟨off, 4⟩) s = .next (t.send (.readCompletion (leBytes 4 v) false)) ∧
      (∀ r, s.wide off = some r → cstatAt off = none → v = r % 2 ^ 32 ∧ NMap.find t.latch.high off = some (BitVec.ofNat 32 (r / 2 ^ 32))) ∧
      (∀ r h, s.wide off = none → off % 8 = 4 → s.wide (off - 4) = some r → NMap.find s.latch.high (off - 4) = some h →
        v = h.toNat ∧ NMap.find t.latch.high (off - 4) = none)) ∧
    (∀ off n, (n ≠ 4 ∧ n ≠ 8) ∨ off % n ≠ 0 → exec (.counterLowRead 0 ⟨off, n⟩) s = .next (s.send (.readCompletion (leBytes n 0) false)))

/-- A cold start begins at t0 with a fresh data-key root once the rails are up and nothing has begun, and with the key
store erased, the persistent settings at their defaults and the module locked where its header does not check; a warm
reset loses HBM, the cores and the host state, keeps host memory and fuses, and begins a start at once or when the pin
is released; a step that overruns or meets a PRM error fails the start with its cause and counts it; steps 1, 2 and 7
count the boot, begin an installation and set READY; a die or a firmware section that fails stops steps 3 and 5; a
version due is fused; BOOT.CTRL keeps its bits. What FAILCNT counts and that the level of RECOVERY_N at a warm reset
by register is a free value are log entry 61. It says where these complete: COLD_START, WARM_RESET, START_STEP_DONE,
FUSE_SVN, BOOT_RECOVER, RESET_PIN_RELEASE. (R16, R448, R464, R465, R469, R472, R474, R475, R476, R483) -/
def Obligations.StartsAndResets : Prop :=
  ∀ (s : State),
    (∀ i : StartInputs, s.board.rails = true → s.board.pwrGood = true → s.therm.tripped = false → s.boot.starting = none →
      s.boot.held = false → s.host.step = 0 → s.host.failed = false → s.host.recovery = false →
      ∃ t, exec (.coldStart i) s = .next t ∧ t.boot.starting = some true ∧ t.boot.t0 = s.clock.now ∧ t.boot.recoveryPin = i.recoveryLow ∧
        t.board.locate = false ∧ t.sec.dataRoot = s.draw256.1 ∧ (i.cell = .kept → t.boot.bringupAtT0 = s.pers.bringup) ∧
        (i.cell = .lost → t.sec.locked = true ∧ t.sec.licences = [] ∧ t.sec.enrolled = false ∧ t.pers = ({} : Pers))) ∧
    (∀ fs, (headerGood (flipBytes s.sec.keyStore fs) = false → s.checkStore (.flipped fs) = s.batteryLost) ∧
      (headerGood (flipBytes s.sec.keyStore fs) = true → s.checkStore (.flipped fs) =
        { s with sec := s.sec.loadStore (flipBytes s.sec.keyStore fs) })) ∧
    (∀ i : StartInputs, s.board.rails = true → ∃ t, exec (.warmReset true i) s = .next t ∧ t.boot.held = true ∧ t.boot.starting = none ∧
      t.boot.recover = s.boot.recover ∧ t.cores = [] ∧ t.host = State.reset.host ∧ t.mem = { host := s.mem.host } ∧
      t.pers = s.startLost.pers ∧ t.fuses = s.fuses) ∧
    (∀ i : StartInputs, s.board.rails = true → ∃ t, exec (.warmReset false i) s = .next t ∧ t.boot.held = false ∧ t.boot.starting = some false ∧
      t.boot.t0 = s.clock.now ∧ t.boot.recoveryPin = i.recoveryLow ∧ t.boot.recoverAtT0 = s.boot.recover ∧ t.boot.recover = false ∧ t.cores = [] ∧
      t.mem = { host := s.mem.host } ∧ t.fuses = s.fuses) ∧
    (∀ i : StartInputs, s.board.rails = true → s.boot.held = true → ∃ t, exec (.resetPinRelease i) s = .next t ∧ t.boot.held = false ∧
      t.boot.starting = some false ∧ t.boot.t0 = s.clock.now ∧ t.boot.recoverAtT0 = s.boot.recover ∧ t.boot.recover = false) ∧
    (s.boot.starting = none → ∀ r, exec (.startStepDone r) s = .next s) ∧
    (∀ cold r, s.boot.starting = some cold →
      (∀ c : Nat, (r.overrun = true ∧ c = 7) ∨ (r.overrun = false ∧ r.prmError = true ∧ c = 6) → ∃ t, exec (.startStepDone r) s = .next t ∧
        t.host.failed = true ∧ t.boot.starting = none ∧ t.boot.cause = BitVec.ofNat 8 c ∧
        t.boot.failstep = BitVec.ofNat 3 (s.host.step.toNat + 1) ∧
        t.pers.failcnt.toNat = min 15 (s.pers.failcnt.toNat + 1)) ∧
      (r.overrun = false → r.prmError = false → s.host.failed = false →
        (s.host.step = 0 → ∃ t, exec (.startStepDone r) s = .next t ∧ t.host.step = 1 ∧
          t.pers.bootcnt = if s.pers.bootcnt = 0xFFFFFFFF then s.pers.bootcnt else s.pers.bootcnt + 1) ∧
        (s.host.step = 1 → s.boot.stage = 2 → ∃ t, exec (.startStepDone r) s = .next t ∧ t.host.step = 2 ∧ t.boot.stage = 3 ∧
          t.boot.starting = some cold) ∧
        (s.host.step = 1 → s.boot.stage ≠ 2 → s.host.recovery = true → ∃ t, exec (.startStepDone r) s = .next t ∧ t.host.step = 2 ∧
          t.boot.starting = none ∧ t.host.ready = s.host.ready) ∧
        (s.host.step = 2 → s.boot.stage ≠ 3 → s.dieCause r ≠ 0 → ∃ t, exec (.startStepDone r) s = .next t ∧ t.host.failed = true ∧
          t.boot.cause = BitVec.ofNat 8 (s.dieCause r) ∧ t.boot.failstep = 3) ∧
        (s.host.step = 4 → imageDigests s.boot.active (fun k => k = 2) = false → ∃ t, exec (.startStepDone r) s = .next t ∧
          t.host.failed = true ∧ t.boot.cause = 5 ∧ t.boot.failstep = 5) ∧
        (s.host.step = 6 → ∃ t, exec (.startStepDone r) s = .next t ∧ t.host.ready = true ∧ t.host.step = 7 ∧ t.boot.starting = none ∧
          t.pers.failcnt = 0 ∧ t.boot.svnDue = decide (s.boot.fusesvn < s.boot.svn)))) ∧
    (s.boot.svnDue = true → s.host.ready = true →
      exec .fuseSvn s = .next { s with boot := { s.boot with fusesvn := s.boot.svn, svnDue := false } }) ∧
    (∀ v : BitVec 32, s.bootOpen 0 = true → ∀ u : State,
      u = { s with pers := { s.pers with bringup := v.getLsbD 0 }, boot := { s.boot with recover := v.getLsbD 1 } } →
      exec (.bootRecover 0 v) s = .next (if v.getLsbD 31 then
        u.draw.2.warmReset false { recoveryLow := u.draw.1.getLsbD 0 } else u))

/-- ARM moves an empty or written staging area to verification, ERASE starts an erase unless an installation runs, its end
empties the area and performs the waiting write; verification ends ARMED with the image's version or REJECTED with the
first reason, which is 1 or 6 where a byte of the image has been written twice. A self-test request is kept, refused
with its result, or accepted; a scan clears the cores of the unit and fences the failing core, or marks the failing
spare, which a later test is refused; the end of a test sets the result and clears BUSY; an analog link test takes its
lanes out one at a time while the others carry traffic, and ends only after the last. A BIST_DONE before the scan's
end and a refused drain are log entry 64. It says where these complete: ARM, VERIFY_DONE, STAGE_ERASE,
STAGE_ERASE_DONE, BIST_GO, SCAN_DONE, BIST_DONE. (R470, R471, R473, R474, R477, R478, R479, R480, R481, R482, R483,
R484) -/
def Obligations.StagingAndSelfTest : Prop :=
  ∀ (s : State),
    (∀ v : BitVec 32, s.bootOpen 0 = true → v.getLsbD 0 = true → v.getLsbD 1 = false →
      exec (.arm 0 v) s = .next (if s.boot.stage = 0 then { s with boot := { s.boot with stage := 1 } } else s)) ∧
    (∀ v : BitVec 32, s.bootOpen 0 = true → v.getLsbD 0 = false → v.getLsbD 1 = true →
      exec (.stageErase 0 v) s = .next (if s.boot.stage = 3 then s else { s with boot := { s.boot with erasing := true, stage := 0 } })) ∧
    (s.boot.erasing = true → s.dport.waiting = [] →
      exec .stageEraseDone s = .next { s with boot := { s.boot with erasing := false, staging := [], rewritten := [] } }) ∧
    (∀ off bs, s.boot.erasing = true → s.boot.stage ≠ 3 → s.dport.waiting = [.write 1 off bs] → off + bs.length ≤ 2 ^ 26 →
      ∃ t, exec .stageEraseDone s = .next t ∧ t.boot.erasing = false ∧ t.boot.stage = s.boot.stage ∧ t.dport.waiting = [] ∧
        ∀ a, NMap.find t.boot.staging a = if off ≤ a ∧ a < off + bs.length then some (bs.getD (a - off) 0) else none) ∧
    (s.boot.stage = 1 → s.boot.erasing = false → (∀ e ∈ s.dport.waiting, e.stages = false) →
      ((∃ a ∈ s.boot.rewritten, a < max 4096 (flashNat s.boot.staging 24 4)) → ∃ r t, (r = 1 ∨ r = 6) ∧ exec .verifyDone s = .next t ∧
        t.boot = { s.boot with stage := 5, reason := r }) ∧
      (∀ a ∈ s.boot.rewritten, max 4096 (flashNat s.boot.staging 24 4) ≤ a) →
      (s.imageReason s.boot.staging = 0 → exec .verifyDone s = .next { s with boot := { s.boot with
        stage := 2, reason := 0, sversion := imageVersion s.boot.staging, ssvn := BitVec.ofNat 8 (imageSvn s.boot.staging) } }) ∧
      (s.imageReason s.boot.staging ≠ 0 → exec .verifyDone s = .next { s with boot := { s.boot with
        stage := 5, reason := BitVec.ofNat 8 (s.imageReason s.boot.staging) } })) ∧
    (∀ v : BitVec 32, s.regOpen 0 = true → s.bist.busy = false →
      (v.getLsbD 31 = false → exec (.bistGo 0 v) s = .next { s with bist := { s.bist with target := BitVec.ofNat 2 (v.toNat % 4), legacy := v.getLsbD 2 } }) ∧
      (v.getLsbD 31 = true → ∀ r, s.testRefusal (v.toNat % 4) (v.getLsbD 2) s.bist.unit = some r → ∃ t, exec (.bistGo 0 v) s = .next t ∧
        t.bist.result = BitVec.ofNat 3 r ∧ t.bist.busy = false ∧ t.cores = s.cores ∧ t.drains = s.drains) ∧
      (v.getLsbD 31 = true → s.testRefusal (v.toNat % 4) (v.getLsbD 2) s.bist.unit = none → ∃ t, exec (.bistGo 0 v) s = .next t ∧
        t.bist.busy = true ∧ t.bist.fails = 0 ∧ t.bist.scanned = false ∧ t.bist.since = s.clock.now)) ∧
    (∀ l, s.bist.busy = true → s.bist.target = 0 → s.bist.scanned = false → s.testActed = true →
      (l = [] → ∃ t, exec (.scanDone l) s = .next t ∧ t.bist.scanned = true ∧ t.bist.fails = 0 ∧ t.err = s.err ∧ t.mem = s.mem ∧
        ∀ g ∈ unitCores ((s.logicalUnit s.bist.unit).getD s.bist.unit), (t.core g).slots = [] ∧ (t.core g).ls = []) ∧
      (∀ g, g < 8192 → s.bist.unit = coreUnit g → s.fencedCore g = false → l = [(clusterOf g, s.physicalOf (clusterOf g) (g % 64))] →
        ∃ t, exec (.scanDone l) s = .next t ∧ t.bist.scanned = true ∧ t.bist.fails = 1 ∧ t.fencedCore g = true) ∧
      (∀ f : Nat × Nat, f.1 < 128 → f.2 < 72 → s.bist.unit = positionUnit f → inTest s.bist.unit f.1 f.2 = true → s.logicalOf f.1 f.2 = none →
        f ∉ s.bist.spares → l = [f] → ∃ t, exec (.scanDone l) s = .next t ∧ t.bist.fails = 1 ∧ t.bist.spares = f :: s.bist.spares ∧
          t.testRefusal 0 false s.bist.unit = some 4)) ∧
    (∀ f us, s.bist.busy = false → exec (.bistDone f us) s = .next s) ∧
    (∀ f us, s.bist.busy = true → s.bist.target = 0 → s.testActed = true → ∃ t, exec (.bistDone f us) s = .next t ∧ t.bist.busy = false ∧
      t.bist.result = (if s.bist.scanned then 0 else 3) ∧ t.bist.dur = BitVec.ofNat 32 (min 0xFFFFFFFF us)) ∧
    (∀ n f us, n < 24 → s.bist.busy = true → s.bist.target = 2 → s.bist.unit = linkUnit n → s.testActed = true →
      (s.testGoesOn = true → exec (.bistDone f us) s = .next s) ∧
      (s.testGoesOn = false → ∃ t, exec (.bistDone f us) s = .next t ∧ t.bist.busy = false ∧ t.bist.result = 0 ∧
        t.bist.fails = s.bist.fails ∧ (t.link n).fenced = (s.link n).fenced)) ∧
    (∀ n lane rest (k out : Link), k = s.link n → out = { k with laneFails := NMap.ins k.laneFails lane 0 } →
      NMap.find k.laneFails lane = none → k.fenced.getLsbD lane = false → widest out.sound ≠ 0 →
      s.nextLane n (lane :: rest) = ({ s with bist := { s.bist with left := lane :: rest } }.setLink n out).askWidth n (widest out.sound))

/-- A write that is not 4 or 8 bytes, is not aligned or finds its block closed changes nothing, nor does one to the read-
only ID block; a route entry, a quota, the loss policy as a whole or by halves, a ring base of a disabled ring, a
mailbox word and a persistent power limit take the value written; PERS.CTRL sets the defaults but for the boot and
failure counts; a configuration read returns the class code and the AtomicOp bit among values the manual does not
give; the sideband's STATUS returns four registers. Accesses by halves, the numbering of BAR4 and the offsets and free
bits of configuration space are log entries 41, 42, 43 and 105. It says where these complete: PERS_DEFAULTS,
REGISTER_WRITE, VDM_STATUS, CONFIGURATION_REQUEST. (R8, R256, R319, R321, R323, R345, R354, R383, R500, R505, R508) -/
def Obligations.RegisterWrites : Prop :=
  ∀ (s : State) (v : BitVec 64),
    (∀ off size, (size ≠ 4 ∧ size ≠ 8) ∨ off % size ≠ 0 → exec (.registerWrite 0 off size v) s = .next s) ∧
    (∀ off size, off < 2 ^ 26 → s.blockOpen 0 (off / 2 ^ 16) = false → exec (.registerWrite 0 off size v) s = .next s) ∧
    (∀ off size, off < 2 ^ 16 → exec (.registerWrite 0 off size v) s = .next s) ∧
    (∀ m, m < 4096 → s.regOpen 0 = true → exec (.registerWrite 0 (0xD4000 + 4 * m) 4 v) s =
      .next { s with ael := { s.ael with route := NMap.put 0 s.ael.route m (v.truncate 24) } }) ∧
    (∀ n, n < 256 → s.regOpen 0 = true → exec (.registerWrite 0 (0xB0400 + 4 * n) 4 v) s =
      .next { s with llc := { s.llc with quota := NMap.put 8 s.llc.quota n (BitVec.ofNat 4 (min 12 (v.toNat % 16))) } }) ∧
    (s.regOpen 0 = true →
      (exec (.registerWrite 0 0x30010 8 v) s = .next { s with cad := { s.cad with losspol := v } }) ∧
      (exec (.registerWrite 0 0x30010 4 v) s =
        .next { s with cad := { s.cad with losspol := BitVec.ofNat 64 (s.cad.losspol.toNat / 2 ^ 32 * 2 ^ 32 + v.toNat % 2 ^ 32) } }) ∧
      (exec (.registerWrite 0 0x30014 4 v) s =
        .next { s with cad := { s.cad with losspol := BitVec.ofNat 64 (s.cad.losspol.toNat % 2 ^ 32 + v.toNat % 2 ^ 32 * 2 ^ 32) } }) ∧
      (sustIn (v.toNat % 2 ^ 12) s.pers.peak.toNat = true → ∃ t, exec (.registerWrite 0 0xA0000 4 v) s = .next t ∧
        t.pers = { s.pers with sust := BitVec.ofNat 12 v.toNat } ∧ t.foehn = s.foehn) ∧
      (sustIn (v.toNat % 2 ^ 12) s.pers.peak.toNat = false → exec (.registerWrite 0 0xA0000 4 v) s = .next s)) ∧
    (∀ i, i < 64 → s.earlyOpen 0 = true →
      ((s.inst i).ring.en = false → (s.inst i).entries = [] → exec (.registerWrite 0 (0x11000 + 0x40 * i) 8 v) s =
        .next (s.updInst i (fun x => { x with ring := { x.ring with sqbase := BitVec.ofNat 64 (v.toNat / 4096 * 4096) } }))) ∧
      ((s.inst i).ring.en = true → exec (.registerWrite 0 (0x11000 + 0x40 * i) 8 v) s = .next s)) ∧
    (∀ i o, i < 64 → o < 0xFFC → o % 4 = 0 → s.mbAnswers i = true → exec (.registerWrite 0 (2 ^ 26 + 2 ^ 16 * i + o) 4 v) s =
      .next (s.updInst i (fun x => { x with mb := { x.mb with cmd := NMap.putBytes 0 x.mb.cmd o (leBytes 4 (v.toNat % 2 ^ 32)) } }))) ∧
    (∀ w : BitVec 32, s.regOpen 0 = true → w.getLsbD 0 = true → ∃ t, exec (.persDefaults 0 w) s = .next t ∧
      t.pers = (let d : Pers := {}
        { d with
          galepol := if s.sec.lcs = 2 || s.sec.lcs = 4 then s.pers.galepol else d.galepol
          failcnt := s.pers.failcnt, bootcnt := s.pers.bootcnt })) ∧
    (∀ (w : BitVec 32) off, s.earlyOpen 0 = true → off % 4 = 0 → off < 4096 →
      (exec (.configurationRequest off true w) s = .next (s.writeConfig off w.toNat)) ∧
      (off = 0x68 → s.writeConfig off w.toNat = { s with host := { s.host with atomicOps := w.getLsbD 6 } }) ∧
      (∃ r : Nat, exec (.configurationRequest off false w) s = .next (s.draw.2.send (.readCompletion (leBytes 4 r) false)) ∧
        (off = 0x08 → r / 2 ^ 8 = 0x120000) ∧ (off = 0x68 → r.testBit 6 = s.host.atomicOps) ∧
        (off = 0x10 → (NMap.at s.host.bars 0 0).toNat % 2 ^ 26 = 0 → r = (NMap.at s.host.bars 0 0).toNat % 2 ^ 32 + 4))) ∧
    (s.bootOpen 0 = true → exec .vdmStatus s = .next (s.sendSideband 0x7F 1
      (leBytes 4 s.hostStat ++ leBytes 4 s.bootStat ++ leBytes 4 s.stageReg ++ leBytes 4 s.errStat)))

/-- The rails come up where PWR_EN and VIN allow it and no trip is unexpired; a deassertion, lockout, overvoltage or hot-
swap trip takes them down and with them everything volatile; the host link's loss stops host writes; presence breaking
tells every up link first. MODQ returns the measured values with the lights, CALX half of the calibration block, CALW
fills the buffer, CALCOMMIT makes a good buffer a valid block, unless power is lost before the command ends, and turns
a bad one away, LOCATE sets the light. Trips and supply limits are log entries 84 and 126, the lights and the results
of calibration commands 86, what a failed start counts 61. It says where these complete: LINK_DOWN, MODQ, CALX, CALW,
CALCOMMIT, LOCATE, PWR_EN_ASSERT, PWR_EN_DEASSERT, VIN_UP, PRSNT_N_BREAK, DATA_LINK_LAYER_UP, HOT_SWAP_TRIP. (R343,
R344, R486, R488, R489, R490, R494, R495, R496, R497, R501) -/
def Obligations.BoardAndModuleCommands : Prop :=
  ∀ (s : State),
    (s.board.pwrEn = false → s.board.rails = false → s.board.standby = true → s.board.overvolt = false → s.board.hotTrip = false →
      ((s.therm.tripped = false ∨ s.board.pwrOffAt + 10 ^ 7 ≤ s.clock.now) → ∃ t, exec .pwrEnAssert s = .next t ∧ t.board.rails = true ∧
        t.board.pwrGood = true ∧ t.board.pwrEn = true ∧ t.therm.tripped = false) ∧
      (s.therm.tripped = true → s.clock.now < s.board.pwrOffAt + 10 ^ 7 → ∃ t, exec .pwrEnAssert s = .next t ∧ t.board.rails = false ∧
        t.board.pwrEn = true ∧ t.therm.tripped = true)) ∧
    (s.board.rails = true → s.board.calProgramming = true → s.losePower.calValid = false) ∧
    (s.board.pwrEn = true → ∃ t, exec (.pwrEnDeassert none) s = .next t ∧ t.board.rails = false ∧ t.board.pwrEn = false ∧
      t.board.pwrOffAt = s.clock.now ∧ t.board.thermtrip = false ∧ (s.board.rails = true → t.cores = [] ∧ t.host = State.reset.host)) ∧
    (∀ v, (v < 41000 → ∃ t, exec (.pwrEnDeassert (some v)) s = .next t ∧ t.board.rails = false ∧ t.board.standby = false ∧
        t.board.i3cAddr = none ∧ t.board.eid = 0 ∧ t.board.overvolt = false ∧ t.board.pldm = []) ∧
      (66000 < v → ∃ t, exec (.pwrEnDeassert (some v)) s = .next t ∧ t.board.rails = false ∧ t.board.overvolt = true ∧
        t.board.standby = s.board.standby) ∧
      (41000 ≤ v → v < 65000 → s.board.overvolt = true →
        exec (.pwrEnDeassert (some v)) s = .next (State.railsUp { s with board := { s.board with overvolt := false } })) ∧
      (41000 ≤ v → v ≤ 66000 → s.board.overvolt = false ∨ 65000 ≤ v → exec (.pwrEnDeassert (some v)) s = .next s)) ∧
    (∀ v, 43000 ≤ v → v < 65000 → s.board.rails = false → s.board.pwrEn = true → s.therm.tripped = false → s.board.hotTrip = false →
      ∃ t, exec (.vinUp v) s = .next t ∧ t.board.rails = true ∧ t.board.standby = true ∧ t.board.overvolt = false) ∧
    (∀ v, 66000 < v → ∃ t, exec (.vinUp v) s = .next t ∧ t.board.rails = false ∧ t.board.overvolt = true) ∧
    (s.board.rails = true → ∃ t, exec .hotSwapTrip s = .next t ∧ t.board.rails = false ∧ t.board.pwrGood = false ∧
      t.board.hotTrip = true ∧ t.cores = [] ∧ t.mem = { host := s.mem.host } ∧ t.pers = s.startLost.pers) ∧
    (s.board.rails = true → s.host.dll = true → ∃ t, exec .linkDown s = .next t ∧
      t.host = { s.host with dll := false, stopped := true } ∧ t.mem = s.mem) ∧
    (∀ w r f, s.board.rails = true → w ≠ 3 → r ≠ 3 → ∃ t, exec (.dataLinkLayerUp w r f) s = .next t ∧
      t.host = { s.host with dll := true, width := w, rate := r, flit := f } ∧ t.mem = s.mem) ∧
    (s.board.rails = true → ∃ t, exec .prsntNBreak s = .next t ∧ t.host = { s.host with dll := false, stopped := true } ∧
      (∀ l, l < 24 → (s.link l).state = 2 → ∀ m ∈ (({ s with out := [] } : State).sendControl l false [goingDownMessage 1]).out, m ∈ t.out)) ∧
    (∀ mb r, (MbReady s mb 0x40 r → ∃ t : State, exec (.modq mb) s = .next t.settleControls ∧ (t.inst mb).mb.rspStatus = 0 ∧
        (t.inst mb).mb.rspLen = 15 ∧ (t.inst mb).mb.rspPayload.getD 14 0 = BitVec.ofNat 8 s.lights ∧ (t.inst mb).mb.done = r.token) ∧
      (MbReady s mb 0x41 r → exec (.calx mb) s = .next ((s.respond mb 0 ((s.calBlock.drop (leAt r.payload 4 4)).take 2048)).settleControls)) ∧
      (MbReady s mb 0x42 r → ∃ t : State, exec (.calw mb) s = .next t.settleControls ∧ t.board.cal = s.board.cal ∧
        (t.inst mb).mb.rspStatus = 0 ∧
        t.board.calBuf = some (NMap.putBytes 0 (s.board.calBuf.getD s.board.cal) (leAt r.payload 4 4) (r.payload.drop 8))) ∧
      (MbReady s mb 0x43 r → s.board.calBuf = none → exec (.calcommit mb) s = .next ((s.respond mb 1 []).settleControls)) ∧
      (MbReady s mb 0x43 r → ∀ b, s.board.calBuf = some b →
        (calForm (NMap.bytes 0 b 0 4096) s.sec.serial = false → exec (.calcommit mb) s = .next ((s.respond mb 1 []).settleControls)) ∧
        (calForm (NMap.bytes 0 b 0 4096) s.sec.serial = true → ∃ t : State, exec (.calcommit mb) s = .next t.settleControls ∧
          t.board.calBuf = none ∧ t.calValid = true ∧ t.board.calProgramming = true ∧ NMap.bytes 0 t.board.cal 12 4 = leBytes 4 (leAt s.calBlock 12 4 + 1) ∧
          (t.inst mb).mb.running = some { r with result := some (0, leBytes 4 (leAt s.calBlock 12 4 + 1)) })) ∧
      (MbReady s mb 0x44 r → ∃ t : State, exec (.locate mb) s = .next t.settleControls ∧
        t.board.locate = decide (leAt r.payload 1 1 = 1) ∧ (t.inst mb).mb.rspStatus = 0))

/-- ENTDAA answers with the provisional ID and takes the address; Set Endpoint ID takes a legal one; SetTID and GetTID,
the event poll and the state sensors answer as stated; a changed state sensor is reported once, with the state it then
had; a vendor-defined message is answered from step 2 of a start on: evidence, an erase, a staging write, ARM, a warm
reset, the recovery request, eight records of the error log, and the locate light. Every answer carries the address it
goes to and the transmission unit in force. The layouts of MCTP and PLDM messages are log entry 85, the LED and
staging results 86. It says where these complete: MCTP_CONTROL, PLDM_COMMAND, PLATFORM_EVENT_MESSAGE, VDM_EVIDENCE,
VDM_ERASE, VDM_WRITE, VDM_ARM, VDM_WARM, VDM_RECOVER, LOGREAD, VDM_LOCATE, ENTDAA. (R473, R474, R475, R498, R499,
R500) -/
def Obligations.SidebandCommands : Prop :=
  ∀ (s : State), s.board.standby = true →
    (∀ a, s.board.i3cAddr = none → exec (.entdaa a) s = .next (({ s with board := { s.board with i3cAddr := some a } } : State).send
      (.sideband a s.board.unit 0x10 0 (leBytes 6 (Config.provisionalId s.sec.serial).toNat)))) ∧
    (∀ op eid : Byte, op.toNat < 2 → eid ≠ 0 → eid ≠ 0xFF → exec (.mctpControl 1 [op, eid]) s =
      .next (({ s with board := { s.board with eid := eid } } : State).sendSideband 0 1 [0, 0, eid, 0])) ∧
    (∀ d, exec (.mctpControl 2 d) s = .next (s.sendSideband 0 2 [0, s.board.eid, 0, 0])) ∧
    (∀ c d, ∃ t r, exec (.mctpControl c d) s = .next t ∧ t.out = s.out ++ [.sideband s.sidebandAddr s.board.unit 0 c r] ∧ t.mem = s.mem) ∧
    (∀ tid : Byte, tid ≠ 0 → tid ≠ 0xFF → exec (.pldmCommand 0 1 [tid]) s =
      .next (({ s with board := { s.board with tid := tid } } : State).sendSideband 1 1 [0])) ∧
    (∀ d, exec (.pldmCommand 0 2 d) s = .next (s.sendSideband 1 2 [0, s.board.tid])) ∧
    (∀ d k b rest, s.board.pldm = (k, b) :: rest → ∃ t r, exec (.pldmCommand 2 0x0B d) s = .next t ∧ t.board.pldm = rest ∧
      OutMsg.sideband s.sidebandAddr s.board.unit 3 0x0B ([0, s.board.tid, 1, 0] ++ r) ∈ t.out) ∧
    (∀ k : Byte, k.toNat < 6 → exec (.pldmCommand 2 0x21 [k, 0]) s = .next (s.sendSideband 3 0x21
      [0, 1, 0, BitVec.ofNat 8 (b2n (s.stateSensor k.toNat)), BitVec.ofNat 8 (b2n (NMap.at s.board.sensorState k.toNat false)), 0])) ∧
    (∀ ty c d, ∃ t r, exec (.pldmCommand ty c d) s = .next t ∧ OutMsg.sideband s.sidebandAddr s.board.unit (ty + 1) c r ∈ t.out ∧ t.mem = s.mem) ∧
    (∀ k, k < 6 → s.stateSensor k ≠ NMap.at s.board.sensorState k false → ∃ t, exec (.platformEventMessage k) s = .next t ∧
      t.board.pldm = s.board.pldm ++ [(BitVec.ofNat 8 k, s.stateSensor k)] ∧ NMap.at t.board.sensorState k false = s.stateSensor k) ∧
    (∀ k, k < 6 → s.stateSensor k = NMap.at s.board.sensorState k false → exec (.platformEventMessage k) s = .next s) ∧
    (s.bootOpen 0 = true →
      (∀ nonce, exec (.vdmEvidence nonce) s = .next ((s.evidence 0 nonce).2.2.sendSideband
        0x7F 2 (leBytes 2 (s.evidence 0 nonce).1 ++ (s.evidence 0 nonce).2.1))) ∧
      (s.boot.stage ≠ 3 → exec .vdmErase s =
        .next (({ s with boot := { s.boot with erasing := true, stage := 0 } } : State).sendSideband 0x7F 3 [])) ∧
      (∀ off (d : List (BitVec 8)), 0 < d.length → d.length ≤ 1024 →
        (off + d.length ≤ 2 ^ 26 → s.boot.erasing = false → s.boot.stage ≠ 3 → s.dport.waiting = [] →
          (∀ a, off ≤ a → a < off + d.length → NMap.find s.boot.staging a = none) → ∃ t, exec (.vdmWrite off d) s = .next t ∧
          t.boot.stage = 0 ∧ ∀ a, NMap.find t.boot.staging a =
            if off ≤ a ∧ a < off + d.length then some (d.getD (a - off) 0) else NMap.find s.boot.staging a) ∧
        (2 ^ 26 < off + d.length → ∃ t, exec (.vdmWrite off d) s = .next t ∧ t.dport.range = true ∧ t.boot = s.boot)) ∧
      (s.boot.stage = 0 → exec .vdmArm s =
        .next (({ s with boot := { s.boot with stage := 1 } } : State).sendSideband 0x7F 5 [])) ∧
      (s.board.rails = true → ∃ t, exec .vdmWarm s = .next t ∧ t.boot.starting = some false ∧ t.boot.t0 = s.clock.now ∧ t.cores = []) ∧
      (exec .vdmRecover s = .next (({ s with boot := { s.boot with recover := true } } : State).sendSideband 0x7F 7 [])) ∧
      (∀ n : BitVec 32, exec (.logread n) s = .next (s.sendSideband 0x7F 8
        ((List.range 8).flatMap (fun k => leBytes 32 (NMap.at s.err.log ((n.toNat + k) % 1024) 0).toNat)))) ∧
      (∀ on, exec (.vdmLocate on) s = .next (({ s with board := { s.board with locate := on } } : State).sendSideband 0x7F 9 [])))

/-- For every hemi, cluster of it and logical core: the core's sector is 2(k >> 2) + (c >> 5) of its hemi; for every
physical position, named as a unit, it is 2(k >> 2) + 1 from position 36 on and 2(k >> 2) below. (R22) -/
def Obligations.SectorOfCoreAndPosition : Prop :=
  ∀ (h k : Nat), h < 8 → k < 16 →
    (∀ c, c < 64 → sectorOf (1024 * h + 64 * k + c) = 8 * h + (2 * (k >>> 2) + (c >>> 5))) ∧
    (∀ p, p < 72 → physicalPlace (unitId 1 (h / 2) (h % 2) k (128 + p)) =
      some (16 * h + k, 8 * h + (2 * (k >>> 2) + if 36 ≤ p then 1 else 0)))

/-- With a command at the front, step is exec of it on the state with the rest of the queue; with none, the model's choice
(log entry 2) is that one nanosecond passes. Where the rails are down or nothing waits to go on by itself, the time
goes up by one, the queue stays empty, memory and cores stay as they are, and the phase moves only with the rails up.
(R29, R303) -/
def Obligations.StepRunsFrontCommand : Prop :=
  (∀ (c : Instr) (rest : List Instr) (s : State), step { s with pending := c :: rest } = exec c { s with pending := rest }) ∧
    (∀ (s : State), s.pending = [] → s.board.rails = false ∨ (s.drains = [] ∧ s.dport.waiting = [] ∧
        (∀ e ∈ s.cad.edges, s.clock.now + 1 < e) ∧ (∀ e ∈ s.clusters, e.2.commitBuf = []) ∧ (∀ e ∈ s.cores, e.2.slots = []) ∧
        (∀ e ∈ s.ael.coll, e.2.run.isSome = false) ∧ (∀ e ∈ s.insts, e.2.preempting = false) ∧
        (∀ l ∈ s.launches, l.saved = false)) → ∃ t, step s = .next t ∧ t.clock.now = s.clock.now + 1 ∧ t.clock.free = s.clock.free ∧
      t.pending = [] ∧ t.mem = s.mem ∧ t.cores = s.cores ∧ t.out = s.out ∧
      t.cad.phase = if s.board.rails && s.cad.phase ≠ 0xFFFFFFFF then s.cad.phase + 1 else s.cad.phase)

/-- Reset leaves the queue, memory, cores, launches and output empty, no step of a start completed and READY, FAILED and
RECOVERY clear, beat 0 and period 1,000,000 ns, and the persistent power limits 2,800 W and 3,600 W; HBM and host
memory list their bytes by rising address and list no byte that reads as an unlisted one does; the fields the manual
gives no value are the model's (log entries 5 to 8). (R314, R345, R346, R424, R445, R483, R508) -/
def Obligations.ResetValues : Prop :=
  Mem.wf State.reset.mem ∧ State.reset.pending = [] ∧ State.reset.mem = {} ∧ State.reset.cores = [] ∧ State.reset.launches = [] ∧ State.reset.out = [] ∧
    State.reset.host.step = 0 ∧ State.reset.host.ready = false ∧ State.reset.host.failed = false ∧ State.reset.host.recovery = false ∧
    State.reset.cad.beat = 0 ∧ State.reset.cad.period = 1000000 ∧ State.reset.pers.sust = 2800 ∧ State.reset.pers.peak = 3600

/-- Over all commands and states: a command whose operands are in range completes, one whose operands are not stops with
the fault that names it (the stop is the choice of log entry 3 of the model), and no command is refused. (R12, R31,
R348) -/
def Obligations.FaultsExactlyWhenIllFormed : Prop :=
  ∀ (c : Instr) (s : State), (c.wf = true → ∃ t, exec c s = .next t) ∧ (c.wf = false → exec c s = .fault .noSuchUnit)

/-- For every state and every operand: a write to a register of BAR0 by a source other than instance 0 changes nothing,
and a read by one answers zeros and changes nothing (that a command names its source is the model's form, log entry
40); a doorbell, a write to CQDB, EQDB or INTCTL, a fetch, and the start or end of a ring entry that moves no data, of
one instance, leave every other instance as it was, its rings, records and page ranges among the rest, and with them
HBM, the cores and the clusters. (R314, R318, R324, R393, R425, R445, R463, R484, R505) -/
def Obligations.InstancesAndRegistersStayApart : Prop :=
  (∀ (s : State) (src n off size : Nat) (v : BitVec 32) (w : BitVec 64) (data : List Byte) (en : Bool), src ≠ 0 → n < 64 →
      (∀ c ∈ [Instr.reelClr src v, .hbmFence src v, .hbmRetire src v, .hbmRetireUndoPage src v, .hbmRetireUndoChannel src v, .hbmMargin src v,
          .llcClr src v, .llcSel src v, .nearHomeEnable src n v, .ringEnable src n v, .ringDisable src n v, .quiesce src v, .swbeat src w,
          .cadBeatPreset src w, .cadSourceChange src v, .cadClr src v, .collEnable src n v, .d2dFence src v, .sectorGate src n v,
          .sectorUngate src n v, .foehnClr src v, .thermClr src v, .errFence src v, .arm src v, .stageErase src v, .bootRecover src v,
          .bistGo src v, .persDefaults src v, .dataWindowWrite src off data en], exec c s = .next s) ∧
      (off < 2 ^ 26 → exec (.registerWrite src off size w) s = .next s ∧
        exec (.counterLowRead src ⟨off, size⟩) s = .next (s.send (.readCompletion (leBytes size 0) false))) ∧
      exec (.cadBeatRead src) s = .next (s.send (.readCompletion (leBytes 8 0) false)) ∧
      exec (.dataWindowRead src off size en) s = .next (s.send (.readCompletion (leBytes size 0) false))) ∧
    (∀ (s : State) (i idx size : Nat) (v : BitVec 32), i < 64 →
      ∀ c ∈ [Instr.doorbell i size v, .cqdb i v, .eqdb i v, .intctl i v, .entryFetch i, .launch i idx, .fenceEntry i idx, .event i idx,
          .taggedRelease i idx, .cqCoalesceTimeout i], ∃ t, exec c s = .next t ∧ (∀ j, j ≠ i → t.inst j = s.inst j) ∧
        t.mem.hbm = s.mem.hbm ∧ t.cores = s.cores ∧ t.clusters = s.clusters)

/-- From every state whose HBM and host memory are in canonical form, a step that answers a next state leaves both in
canonical form, whatever the command at the front of the queue and whatever the rest of the state. (R243, R268, R344,
R464) -/
def Obligations.StepKeepsMemoryForm : Prop :=
  ∀ (s t : State), Mem.wf s.mem → step s = .next t → Mem.wf t.mem
end

