-- ==== Sys2Proof/Laws/Maps.lean ====
section
/-! SUPPORT. What the sparse map does: reads after writes, and its canonical form. -/

namespace Sys2Proof.Machine
open Sys2Proof

theorem NMap_find_ins {α : Type} (m : NMap α) (k j : Nat) (x : α) :
    NMap.find (NMap.ins m k x) j = if j = k then some x else NMap.find m j := by
  induction m with
  | nil =>
    by_cases h : j = k
    · simp [NMap.ins, NMap.find, h]
    · simp [NMap.ins, NMap.find, h, Ne.symm h]
  | cons e m ih =>
    obtain ⟨i, y⟩ := e
    simp only [NMap.ins]
    split
    · by_cases h : j = k
      · simp [NMap.find, h]
      · simp [NMap.find, h, Ne.symm h]
    · split
      · subst k; by_cases h : j = i <;> simp [NMap.find, h, eq_comm]
      · simp only [NMap.find, ih]
        by_cases h : i = j
        · have : j ≠ k := by omega
          simp [h, this]
        · simp [h]

theorem NMap_find_del {α : Type} (m : NMap α) (k j : Nat) :
    NMap.find (NMap.del m k) j = if j = k then none else NMap.find m j := by
  induction m with
  | nil => simp [NMap.del, NMap.find]
  | cons e m ih =>
    obtain ⟨i, y⟩ := e
    simp only [NMap.del]
    split
    · subst k
      by_cases h : j = i
      · rw [ih, if_pos h, if_pos h]
      · rw [ih, if_neg h, if_neg h, NMap.find, if_neg (Ne.symm h)]
    · simp only [NMap.find, ih]
      by_cases h : i = j
      · have : j ≠ k := by omega
        simp [h, this]
      · simp [h]

/-- A read after a write: the written key gives the value written, every other key what it gave before. -/
theorem NMap_at_put {α : Type} [DecidableEq α] (d : α) (m : NMap α) (k j : Nat) (x : α) :
    NMap.at (NMap.put d m k x) j d = if j = k then x else NMap.at m j d := by
  simp only [NMap.at, NMap.put]
  split
  · rename_i h; rw [NMap_find_del]; split <;> simp [h]
  · rw [NMap_find_ins]; split <;> simp

theorem NMap_at_put_same {α : Type} [DecidableEq α] (d : α) (m : NMap α) (k : Nat) (x : α) :
    NMap.at (NMap.put d m k x) k d = x := by rw [NMap_at_put, if_pos rfl]

theorem NMap_at_put_ne {α : Type} [DecidableEq α] (d : α) (m : NMap α) {k j : Nat} (x : α) (h : j ≠ k) :
    NMap.at (NMap.put d m k x) j d = NMap.at m j d := by rw [NMap_at_put, if_neg h]

/-- Reading any byte after a run of bytes has been written. -/
theorem NMap_at_putBytes (d : Byte) (bs : List Byte) : ∀ (m : NMap Byte) (off j : Nat),
    NMap.at (NMap.putBytes d m off bs) j d
      = if off ≤ j ∧ j < off + bs.length then bs.getD (j - off) d else NMap.at m j d := by
  induction bs with
  | nil => intro m off j; simp [NMap.putBytes]
  | cons b bs ih =>
    intro m off j
    simp only [NMap.putBytes, ih, NMap_at_put, List.length_cons]
    by_cases h : j = off
    · subst h; simp
    · by_cases h2 : off + 1 ≤ j ∧ j < off + 1 + bs.length
      · have : off ≤ j ∧ j < off + (bs.length + 1) := by omega
        have h3 : j - off = (j - (off + 1)) + 1 := by omega
        simp [h2, this, h3]
      · have : ¬ (off ≤ j ∧ j < off + (bs.length + 1)) := by omega
        rw [if_neg h2, if_neg this, if_neg h]

/-! ## The canonical form -/

theorem NMap_mem_ins {α : Type} {m : NMap α} {k : Nat} {x : α} {e : Nat × α} (h : e ∈ NMap.ins m k x) :
    e = (k, x) ∨ e ∈ m := by
  induction m with
  | nil => simpa [NMap.ins] using h
  | cons a m ih =>
    obtain ⟨j, y⟩ := a
    simp only [NMap.ins] at h
    split at h
    · simpa using h
    · split at h
      · rcases List.mem_cons.1 h with h | h
        · exact .inl h
        · exact .inr (List.mem_cons_of_mem _ h)
      · rcases List.mem_cons.1 h with h | h
        · exact .inr (by simp [h])
        · rcases ih h with h | h
          · exact .inl h
          · exact .inr (List.mem_cons_of_mem _ h)

theorem NMap_mem_del {α : Type} {m : NMap α} {k : Nat} {e : Nat × α} (h : e ∈ NMap.del m k) : e ∈ m := by
  induction m with
  | nil => simp [NMap.del] at h
  | cons a m ih =>
    obtain ⟨j, y⟩ := a
    simp only [NMap.del] at h
    split at h
    · exact List.mem_cons_of_mem _ (ih h)
    · rcases List.mem_cons.1 h with h | h
      · simp [h]
      · exact List.mem_cons_of_mem _ (ih h)

theorem NMap_rising_ins {α : Type} {m : NMap α} (k : Nat) (x : α) (h : m.Pairwise (fun a b => a.1 < b.1)) :
    (NMap.ins m k x).Pairwise (fun a b => a.1 < b.1) := by
  induction m with
  | nil => simp [NMap.ins]
  | cons a m ih =>
    obtain ⟨j, y⟩ := a
    simp only [List.pairwise_cons] at h
    simp only [NMap.ins]
    split
    · rename_i hk
      refine List.pairwise_cons.2 ⟨?_, List.pairwise_cons.2 ⟨h.1, h.2⟩⟩
      intro b hb
      rcases List.mem_cons.1 hb with hb | hb
      · subst hb; exact hk
      · exact lt_trans hk (h.1 b hb)
    · split
      · rename_i hk; subst hk; exact List.pairwise_cons.2 ⟨h.1, h.2⟩
      · rename_i h1 h2
        refine List.pairwise_cons.2 ⟨?_, ih h.2⟩
        intro b hb
        rcases NMap_mem_ins hb with hb | hb
        · subst hb; show j < k; omega
        · exact h.1 b hb

theorem NMap_rising_del {α : Type} {m : NMap α} (k : Nat) (h : m.Pairwise (fun a b => a.1 < b.1)) :
    (NMap.del m k).Pairwise (fun a b => a.1 < b.1) := by
  induction m with
  | nil => simp [NMap.del]
  | cons a m ih =>
    obtain ⟨j, y⟩ := a
    simp only [List.pairwise_cons] at h
    simp only [NMap.del]
    split
    · exact ih h.2
    · exact List.pairwise_cons.2 ⟨fun b hb => h.1 b (NMap_mem_del hb), ih h.2⟩

/-- Setting an entry keeps the canonical form. -/
theorem NMap_canon_put {α : Type} [DecidableEq α] {d : α} {m : NMap α} (k : Nat) (x : α) (h : NMap.canon d m) :
    NMap.canon d (NMap.put d m k x) := by
  unfold NMap.put
  split
  · exact ⟨NMap_rising_del k h.1, fun e he => h.2 e (NMap_mem_del he)⟩
  · rename_i hx
    refine ⟨NMap_rising_ins k x h.1, fun e he => ?_⟩
    rcases NMap_mem_ins he with he | he
    · subst he; exact hx
    · exact h.2 e he

/-- Writing a run of bytes keeps the canonical form. -/
theorem NMap_canon_putBytes {d : Byte} (bs : List Byte) : ∀ {m : NMap Byte} (off : Nat), NMap.canon d m →
    NMap.canon d (NMap.putBytes d m off bs) := by
  induction bs with
  | nil => intro m off h; exact h
  | cons b bs ih => intro m off h; exact ih (off + 1) (NMap_canon_put off b h)

/-- Dropping entries keeps the canonical form. -/
theorem NMap_canon_filter {α : Type} [DecidableEq α] {d : α} {m : NMap α} (p : Nat × α → Bool) (h : NMap.canon d m) :
    NMap.canon d (m.filter p) :=
  ⟨h.1.filter p, fun e he => h.2 e (List.mem_filter.1 he).1⟩

end Sys2Proof.Machine
end

