-- ==== Sys2Proof/Laws/State.lean ====
section
/-! SUPPORT. What each update of the state leaves: one lemma per field per update, and the reads of the numbered units. -/

namespace Sys2Proof.Machine
open Sys2Proof

variable (s : State)


/-! ## setInst -/

@[simp] theorem setInst_pending (i : Nat) (x : Inst) : (s.setInst i x).pending = s.pending := rfl
@[simp] theorem setInst_clock (i : Nat) (x : Inst) : (s.setInst i x).clock = s.clock := rfl
@[simp] theorem setInst_out (i : Nat) (x : Inst) : (s.setInst i x).out = s.out := rfl
@[simp] theorem setInst_cad (i : Nat) (x : Inst) : (s.setInst i x).cad = s.cad := rfl
@[simp] theorem setInst_host (i : Nat) (x : Inst) : (s.setInst i x).host = s.host := rfl
@[simp] theorem setInst_dport (i : Nat) (x : Inst) : (s.setInst i x).dport = s.dport := rfl
@[simp] theorem setInst_cores (i : Nat) (x : Inst) : (s.setInst i x).cores = s.cores := rfl
@[simp] theorem setInst_clusters (i : Nat) (x : Inst) : (s.setInst i x).clusters = s.clusters := rfl
@[simp] theorem setInst_launches (i : Nat) (x : Inst) : (s.setInst i x).launches = s.launches := rfl
@[simp] theorem setInst_mem (i : Nat) (x : Inst) : (s.setInst i x).mem = s.mem := rfl
@[simp] theorem setInst_tlb (i : Nat) (x : Inst) : (s.setInst i x).tlb = s.tlb := rfl
@[simp] theorem setInst_slices (i : Nat) (x : Inst) : (s.setInst i x).slices = s.slices := rfl
@[simp] theorem setInst_llc (i : Nat) (x : Inst) : (s.setInst i x).llc = s.llc := rfl
@[simp] theorem setInst_hbm (i : Nat) (x : Inst) : (s.setInst i x).hbm = s.hbm := rfl
@[simp] theorem setInst_seq (i : Nat) (x : Inst) : (s.setInst i x).seq = s.seq := rfl
@[simp] theorem setInst_ael (i : Nat) (x : Inst) : (s.setInst i x).ael = s.ael := rfl
@[simp] theorem setInst_d2d (i : Nat) (x : Inst) : (s.setInst i x).d2d = s.d2d := rfl
@[simp] theorem setInst_foehn (i : Nat) (x : Inst) : (s.setInst i x).foehn = s.foehn := rfl
@[simp] theorem setInst_therm (i : Nat) (x : Inst) : (s.setInst i x).therm = s.therm := rfl
@[simp] theorem setInst_err (i : Nat) (x : Inst) : (s.setInst i x).err = s.err := rfl
@[simp] theorem setInst_sec (i : Nat) (x : Inst) : (s.setInst i x).sec = s.sec := rfl
@[simp] theorem setInst_boot (i : Nat) (x : Inst) : (s.setInst i x).boot = s.boot := rfl
@[simp] theorem setInst_bist (i : Nat) (x : Inst) : (s.setInst i x).bist = s.bist := rfl
@[simp] theorem setInst_pers (i : Nat) (x : Inst) : (s.setInst i x).pers = s.pers := rfl
@[simp] theorem setInst_fuses (i : Nat) (x : Inst) : (s.setInst i x).fuses = s.fuses := rfl
@[simp] theorem setInst_board (i : Nat) (x : Inst) : (s.setInst i x).board = s.board := rfl
@[simp] theorem setInst_drains (i : Nat) (x : Inst) : (s.setInst i x).drains = s.drains := rfl
@[simp] theorem setInst_latch (i : Nat) (x : Inst) : (s.setInst i x).latch = s.latch := rfl
@[simp] theorem setInst_inst (i : Nat) (x : Inst) (j : Nat) : (s.setInst i x).inst j = if j = i then x else s.inst j := NMap_at_put _ _ _ _ _
@[simp] theorem setInst_core (i : Nat) (x : Inst) (j : Nat) : (s.setInst i x).core j = s.core j := rfl
@[simp] theorem setInst_cluster (i : Nat) (x : Inst) (j : Nat) : (s.setInst i x).cluster j = s.cluster j := rfl
@[simp] theorem setInst_slice (i : Nat) (x : Inst) (j : Nat) : (s.setInst i x).slice j = s.slice j := rfl
@[simp] theorem setInst_pch (i : Nat) (x : Inst) (j : Nat) : (s.setInst i x).pch j = s.pch j := rfl
@[simp] theorem setInst_link (i : Nat) (x : Inst) (j : Nat) : (s.setInst i x).link j = s.link j := rfl
@[simp] theorem setInst_bundle (i : Nat) (x : Inst) (j : Nat) : (s.setInst i x).bundle j = s.bundle j := rfl
@[simp] theorem setInst_sectorClk (i : Nat) (x : Inst) (j : Nat) : (s.setInst i x).sectorClk j = s.sectorClk j := rfl
@[simp] theorem setInst_sensor (i : Nat) (x : Inst) (j : Nat) : (s.setInst i x).sensor j = s.sensor j := rfl
@[simp] theorem setInst_coll (i : Nat) (x : Inst) (j : Nat) : (s.setInst i x).coll j = s.coll j := rfl
@[simp] theorem setInst_wset (i : Nat) (x : Inst) (j : Nat) : (s.setInst i x).wset j = s.wset j := rfl
@[simp] theorem setInst_launch (i : Nat) (x : Inst) (a idx : Nat) : (s.setInst i x).launch a idx = s.launch a idx := rfl
@[simp] theorem setInst_group (i : Nat) (x : Inst) (h slot : Nat) : (s.setInst i x).group h slot = s.group h slot := rfl
@[simp] theorem setInst_fencedCore (i : Nat) (x : Inst) (h : Nat) : (s.setInst i x).fencedCore h = s.fencedCore h := rfl

/-! ## setCore -/

@[simp] theorem setCore_pending (g : Nat) (x : Core) : (s.setCore g x).pending = s.pending := rfl
@[simp] theorem setCore_clock (g : Nat) (x : Core) : (s.setCore g x).clock = s.clock := rfl
@[simp] theorem setCore_out (g : Nat) (x : Core) : (s.setCore g x).out = s.out := rfl
@[simp] theorem setCore_cad (g : Nat) (x : Core) : (s.setCore g x).cad = s.cad := rfl
@[simp] theorem setCore_host (g : Nat) (x : Core) : (s.setCore g x).host = s.host := rfl
@[simp] theorem setCore_dport (g : Nat) (x : Core) : (s.setCore g x).dport = s.dport := rfl
@[simp] theorem setCore_insts (g : Nat) (x : Core) : (s.setCore g x).insts = s.insts := rfl
@[simp] theorem setCore_clusters (g : Nat) (x : Core) : (s.setCore g x).clusters = s.clusters := rfl
@[simp] theorem setCore_launches (g : Nat) (x : Core) : (s.setCore g x).launches = s.launches := rfl
@[simp] theorem setCore_mem (g : Nat) (x : Core) : (s.setCore g x).mem = s.mem := rfl
@[simp] theorem setCore_tlb (g : Nat) (x : Core) : (s.setCore g x).tlb = s.tlb := rfl
@[simp] theorem setCore_slices (g : Nat) (x : Core) : (s.setCore g x).slices = s.slices := rfl
@[simp] theorem setCore_llc (g : Nat) (x : Core) : (s.setCore g x).llc = s.llc := rfl
@[simp] theorem setCore_hbm (g : Nat) (x : Core) : (s.setCore g x).hbm = s.hbm := rfl
@[simp] theorem setCore_seq (g : Nat) (x : Core) : (s.setCore g x).seq = s.seq := rfl
@[simp] theorem setCore_ael (g : Nat) (x : Core) : (s.setCore g x).ael = s.ael := rfl
@[simp] theorem setCore_d2d (g : Nat) (x : Core) : (s.setCore g x).d2d = s.d2d := rfl
@[simp] theorem setCore_foehn (g : Nat) (x : Core) : (s.setCore g x).foehn = s.foehn := rfl
@[simp] theorem setCore_therm (g : Nat) (x : Core) : (s.setCore g x).therm = s.therm := rfl
@[simp] theorem setCore_err (g : Nat) (x : Core) : (s.setCore g x).err = s.err := rfl
@[simp] theorem setCore_sec (g : Nat) (x : Core) : (s.setCore g x).sec = s.sec := rfl
@[simp] theorem setCore_boot (g : Nat) (x : Core) : (s.setCore g x).boot = s.boot := rfl
@[simp] theorem setCore_bist (g : Nat) (x : Core) : (s.setCore g x).bist = s.bist := rfl
@[simp] theorem setCore_pers (g : Nat) (x : Core) : (s.setCore g x).pers = s.pers := rfl
@[simp] theorem setCore_fuses (g : Nat) (x : Core) : (s.setCore g x).fuses = s.fuses := rfl
@[simp] theorem setCore_board (g : Nat) (x : Core) : (s.setCore g x).board = s.board := rfl
@[simp] theorem setCore_drains (g : Nat) (x : Core) : (s.setCore g x).drains = s.drains := rfl
@[simp] theorem setCore_latch (g : Nat) (x : Core) : (s.setCore g x).latch = s.latch := rfl
@[simp] theorem setCore_inst (g : Nat) (x : Core) (j : Nat) : (s.setCore g x).inst j = s.inst j := rfl
@[simp] theorem setCore_core (g : Nat) (x : Core) (j : Nat) : (s.setCore g x).core j = if j = g then x else s.core j := NMap_at_put _ _ _ _ _
@[simp] theorem setCore_cluster (g : Nat) (x : Core) (j : Nat) : (s.setCore g x).cluster j = s.cluster j := rfl
@[simp] theorem setCore_slice (g : Nat) (x : Core) (j : Nat) : (s.setCore g x).slice j = s.slice j := rfl
@[simp] theorem setCore_pch (g : Nat) (x : Core) (j : Nat) : (s.setCore g x).pch j = s.pch j := rfl
@[simp] theorem setCore_link (g : Nat) (x : Core) (j : Nat) : (s.setCore g x).link j = s.link j := rfl
@[simp] theorem setCore_bundle (g : Nat) (x : Core) (j : Nat) : (s.setCore g x).bundle j = s.bundle j := rfl
@[simp] theorem setCore_sectorClk (g : Nat) (x : Core) (j : Nat) : (s.setCore g x).sectorClk j = s.sectorClk j := rfl
@[simp] theorem setCore_sensor (g : Nat) (x : Core) (j : Nat) : (s.setCore g x).sensor j = s.sensor j := rfl
@[simp] theorem setCore_coll (g : Nat) (x : Core) (j : Nat) : (s.setCore g x).coll j = s.coll j := rfl
@[simp] theorem setCore_wset (g : Nat) (x : Core) (j : Nat) : (s.setCore g x).wset j = s.wset j := rfl
@[simp] theorem setCore_launch (g : Nat) (x : Core) (a idx : Nat) : (s.setCore g x).launch a idx = s.launch a idx := rfl
@[simp] theorem setCore_fencedCore (g : Nat) (x : Core) (h : Nat) : (s.setCore g x).fencedCore h = s.fencedCore h := rfl

/-! ## setCluster -/

@[simp] theorem setCluster_pending (n : Nat) (x : Cluster) : (s.setCluster n x).pending = s.pending := rfl
@[simp] theorem setCluster_clock (n : Nat) (x : Cluster) : (s.setCluster n x).clock = s.clock := rfl
@[simp] theorem setCluster_out (n : Nat) (x : Cluster) : (s.setCluster n x).out = s.out := rfl
@[simp] theorem setCluster_cad (n : Nat) (x : Cluster) : (s.setCluster n x).cad = s.cad := rfl
@[simp] theorem setCluster_host (n : Nat) (x : Cluster) : (s.setCluster n x).host = s.host := rfl
@[simp] theorem setCluster_dport (n : Nat) (x : Cluster) : (s.setCluster n x).dport = s.dport := rfl
@[simp] theorem setCluster_insts (n : Nat) (x : Cluster) : (s.setCluster n x).insts = s.insts := rfl
@[simp] theorem setCluster_cores (n : Nat) (x : Cluster) : (s.setCluster n x).cores = s.cores := rfl
@[simp] theorem setCluster_launches (n : Nat) (x : Cluster) : (s.setCluster n x).launches = s.launches := rfl
@[simp] theorem setCluster_mem (n : Nat) (x : Cluster) : (s.setCluster n x).mem = s.mem := rfl
@[simp] theorem setCluster_tlb (n : Nat) (x : Cluster) : (s.setCluster n x).tlb = s.tlb := rfl
@[simp] theorem setCluster_slices (n : Nat) (x : Cluster) : (s.setCluster n x).slices = s.slices := rfl
@[simp] theorem setCluster_llc (n : Nat) (x : Cluster) : (s.setCluster n x).llc = s.llc := rfl
@[simp] theorem setCluster_hbm (n : Nat) (x : Cluster) : (s.setCluster n x).hbm = s.hbm := rfl
@[simp] theorem setCluster_seq (n : Nat) (x : Cluster) : (s.setCluster n x).seq = s.seq := rfl
@[simp] theorem setCluster_ael (n : Nat) (x : Cluster) : (s.setCluster n x).ael = s.ael := rfl
@[simp] theorem setCluster_d2d (n : Nat) (x : Cluster) : (s.setCluster n x).d2d = s.d2d := rfl
@[simp] theorem setCluster_foehn (n : Nat) (x : Cluster) : (s.setCluster n x).foehn = s.foehn := rfl
@[simp] theorem setCluster_therm (n : Nat) (x : Cluster) : (s.setCluster n x).therm = s.therm := rfl
@[simp] theorem setCluster_err (n : Nat) (x : Cluster) : (s.setCluster n x).err = s.err := rfl
@[simp] theorem setCluster_sec (n : Nat) (x : Cluster) : (s.setCluster n x).sec = s.sec := rfl
@[simp] theorem setCluster_boot (n : Nat) (x : Cluster) : (s.setCluster n x).boot = s.boot := rfl
@[simp] theorem setCluster_bist (n : Nat) (x : Cluster) : (s.setCluster n x).bist = s.bist := rfl
@[simp] theorem setCluster_pers (n : Nat) (x : Cluster) : (s.setCluster n x).pers = s.pers := rfl
@[simp] theorem setCluster_fuses (n : Nat) (x : Cluster) : (s.setCluster n x).fuses = s.fuses := rfl
@[simp] theorem setCluster_board (n : Nat) (x : Cluster) : (s.setCluster n x).board = s.board := rfl
@[simp] theorem setCluster_drains (n : Nat) (x : Cluster) : (s.setCluster n x).drains = s.drains := rfl
@[simp] theorem setCluster_latch (n : Nat) (x : Cluster) : (s.setCluster n x).latch = s.latch := rfl
@[simp] theorem setCluster_inst (n : Nat) (x : Cluster) (j : Nat) : (s.setCluster n x).inst j = s.inst j := rfl
@[simp] theorem setCluster_core (n : Nat) (x : Cluster) (j : Nat) : (s.setCluster n x).core j = s.core j := rfl
@[simp] theorem setCluster_cluster (n : Nat) (x : Cluster) (j : Nat) : (s.setCluster n x).cluster j = if j = n then x else s.cluster j := NMap_at_put _ _ _ _ _
@[simp] theorem setCluster_slice (n : Nat) (x : Cluster) (j : Nat) : (s.setCluster n x).slice j = s.slice j := rfl
@[simp] theorem setCluster_pch (n : Nat) (x : Cluster) (j : Nat) : (s.setCluster n x).pch j = s.pch j := rfl
@[simp] theorem setCluster_link (n : Nat) (x : Cluster) (j : Nat) : (s.setCluster n x).link j = s.link j := rfl
@[simp] theorem setCluster_bundle (n : Nat) (x : Cluster) (j : Nat) : (s.setCluster n x).bundle j = s.bundle j := rfl
@[simp] theorem setCluster_sectorClk (n : Nat) (x : Cluster) (j : Nat) : (s.setCluster n x).sectorClk j = s.sectorClk j := rfl
@[simp] theorem setCluster_sensor (n : Nat) (x : Cluster) (j : Nat) : (s.setCluster n x).sensor j = s.sensor j := rfl
@[simp] theorem setCluster_coll (n : Nat) (x : Cluster) (j : Nat) : (s.setCluster n x).coll j = s.coll j := rfl
@[simp] theorem setCluster_wset (n : Nat) (x : Cluster) (j : Nat) : (s.setCluster n x).wset j = s.wset j := rfl
@[simp] theorem setCluster_launch (n : Nat) (x : Cluster) (a idx : Nat) : (s.setCluster n x).launch a idx = s.launch a idx := rfl
@[simp] theorem setCluster_group (n : Nat) (x : Cluster) (h slot : Nat) : (s.setCluster n x).group h slot = s.group h slot := rfl
@[simp] theorem setCluster_fencedCore (n : Nat) (x : Cluster) (h : Nat) : (s.setCluster n x).fencedCore h = s.fencedCore h := rfl

/-! ## setSlice -/

@[simp] theorem setSlice_pending (n : Nat) (x : Slice) : (s.setSlice n x).pending = s.pending := rfl
@[simp] theorem setSlice_clock (n : Nat) (x : Slice) : (s.setSlice n x).clock = s.clock := rfl
@[simp] theorem setSlice_out (n : Nat) (x : Slice) : (s.setSlice n x).out = s.out := rfl
@[simp] theorem setSlice_cad (n : Nat) (x : Slice) : (s.setSlice n x).cad = s.cad := rfl
@[simp] theorem setSlice_host (n : Nat) (x : Slice) : (s.setSlice n x).host = s.host := rfl
@[simp] theorem setSlice_dport (n : Nat) (x : Slice) : (s.setSlice n x).dport = s.dport := rfl
@[simp] theorem setSlice_insts (n : Nat) (x : Slice) : (s.setSlice n x).insts = s.insts := rfl
@[simp] theorem setSlice_cores (n : Nat) (x : Slice) : (s.setSlice n x).cores = s.cores := rfl
@[simp] theorem setSlice_clusters (n : Nat) (x : Slice) : (s.setSlice n x).clusters = s.clusters := rfl
@[simp] theorem setSlice_launches (n : Nat) (x : Slice) : (s.setSlice n x).launches = s.launches := rfl
@[simp] theorem setSlice_mem (n : Nat) (x : Slice) : (s.setSlice n x).mem = s.mem := rfl
@[simp] theorem setSlice_tlb (n : Nat) (x : Slice) : (s.setSlice n x).tlb = s.tlb := rfl
@[simp] theorem setSlice_llc (n : Nat) (x : Slice) : (s.setSlice n x).llc = s.llc := rfl
@[simp] theorem setSlice_hbm (n : Nat) (x : Slice) : (s.setSlice n x).hbm = s.hbm := rfl
@[simp] theorem setSlice_seq (n : Nat) (x : Slice) : (s.setSlice n x).seq = s.seq := rfl
@[simp] theorem setSlice_ael (n : Nat) (x : Slice) : (s.setSlice n x).ael = s.ael := rfl
@[simp] theorem setSlice_d2d (n : Nat) (x : Slice) : (s.setSlice n x).d2d = s.d2d := rfl
@[simp] theorem setSlice_foehn (n : Nat) (x : Slice) : (s.setSlice n x).foehn = s.foehn := rfl
@[simp] theorem setSlice_therm (n : Nat) (x : Slice) : (s.setSlice n x).therm = s.therm := rfl
@[simp] theorem setSlice_err (n : Nat) (x : Slice) : (s.setSlice n x).err = s.err := rfl
@[simp] theorem setSlice_sec (n : Nat) (x : Slice) : (s.setSlice n x).sec = s.sec := rfl
@[simp] theorem setSlice_boot (n : Nat) (x : Slice) : (s.setSlice n x).boot = s.boot := rfl
@[simp] theorem setSlice_bist (n : Nat) (x : Slice) : (s.setSlice n x).bist = s.bist := rfl
@[simp] theorem setSlice_pers (n : Nat) (x : Slice) : (s.setSlice n x).pers = s.pers := rfl
@[simp] theorem setSlice_fuses (n : Nat) (x : Slice) : (s.setSlice n x).fuses = s.fuses := rfl
@[simp] theorem setSlice_board (n : Nat) (x : Slice) : (s.setSlice n x).board = s.board := rfl
@[simp] theorem setSlice_drains (n : Nat) (x : Slice) : (s.setSlice n x).drains = s.drains := rfl
@[simp] theorem setSlice_latch (n : Nat) (x : Slice) : (s.setSlice n x).latch = s.latch := rfl
@[simp] theorem setSlice_inst (n : Nat) (x : Slice) (j : Nat) : (s.setSlice n x).inst j = s.inst j := rfl
@[simp] theorem setSlice_core (n : Nat) (x : Slice) (j : Nat) : (s.setSlice n x).core j = s.core j := rfl
@[simp] theorem setSlice_cluster (n : Nat) (x : Slice) (j : Nat) : (s.setSlice n x).cluster j = s.cluster j := rfl
@[simp] theorem setSlice_slice (n : Nat) (x : Slice) (j : Nat) : (s.setSlice n x).slice j = if j = n then x else s.slice j := NMap_at_put _ _ _ _ _
@[simp] theorem setSlice_pch (n : Nat) (x : Slice) (j : Nat) : (s.setSlice n x).pch j = s.pch j := rfl
@[simp] theorem setSlice_link (n : Nat) (x : Slice) (j : Nat) : (s.setSlice n x).link j = s.link j := rfl
@[simp] theorem setSlice_bundle (n : Nat) (x : Slice) (j : Nat) : (s.setSlice n x).bundle j = s.bundle j := rfl
@[simp] theorem setSlice_sectorClk (n : Nat) (x : Slice) (j : Nat) : (s.setSlice n x).sectorClk j = s.sectorClk j := rfl
@[simp] theorem setSlice_sensor (n : Nat) (x : Slice) (j : Nat) : (s.setSlice n x).sensor j = s.sensor j := rfl
@[simp] theorem setSlice_coll (n : Nat) (x : Slice) (j : Nat) : (s.setSlice n x).coll j = s.coll j := rfl
@[simp] theorem setSlice_wset (n : Nat) (x : Slice) (j : Nat) : (s.setSlice n x).wset j = s.wset j := rfl
@[simp] theorem setSlice_launch (n : Nat) (x : Slice) (a idx : Nat) : (s.setSlice n x).launch a idx = s.launch a idx := rfl
@[simp] theorem setSlice_group (n : Nat) (x : Slice) (h slot : Nat) : (s.setSlice n x).group h slot = s.group h slot := rfl
@[simp] theorem setSlice_fencedCore (n : Nat) (x : Slice) (h : Nat) : (s.setSlice n x).fencedCore h = s.fencedCore h := rfl

/-! ## setPch -/

@[simp] theorem setPch_pending (n : Nat) (x : Pch) : (s.setPch n x).pending = s.pending := rfl
@[simp] theorem setPch_clock (n : Nat) (x : Pch) : (s.setPch n x).clock = s.clock := rfl
@[simp] theorem setPch_out (n : Nat) (x : Pch) : (s.setPch n x).out = s.out := rfl
@[simp] theorem setPch_cad (n : Nat) (x : Pch) : (s.setPch n x).cad = s.cad := rfl
@[simp] theorem setPch_host (n : Nat) (x : Pch) : (s.setPch n x).host = s.host := rfl
@[simp] theorem setPch_dport (n : Nat) (x : Pch) : (s.setPch n x).dport = s.dport := rfl
@[simp] theorem setPch_insts (n : Nat) (x : Pch) : (s.setPch n x).insts = s.insts := rfl
@[simp] theorem setPch_cores (n : Nat) (x : Pch) : (s.setPch n x).cores = s.cores := rfl
@[simp] theorem setPch_clusters (n : Nat) (x : Pch) : (s.setPch n x).clusters = s.clusters := rfl
@[simp] theorem setPch_launches (n : Nat) (x : Pch) : (s.setPch n x).launches = s.launches := rfl
@[simp] theorem setPch_mem (n : Nat) (x : Pch) : (s.setPch n x).mem = s.mem := rfl
@[simp] theorem setPch_tlb (n : Nat) (x : Pch) : (s.setPch n x).tlb = s.tlb := rfl
@[simp] theorem setPch_slices (n : Nat) (x : Pch) : (s.setPch n x).slices = s.slices := rfl
@[simp] theorem setPch_llc (n : Nat) (x : Pch) : (s.setPch n x).llc = s.llc := rfl
@[simp] theorem setPch_seq (n : Nat) (x : Pch) : (s.setPch n x).seq = s.seq := rfl
@[simp] theorem setPch_ael (n : Nat) (x : Pch) : (s.setPch n x).ael = s.ael := rfl
@[simp] theorem setPch_d2d (n : Nat) (x : Pch) : (s.setPch n x).d2d = s.d2d := rfl
@[simp] theorem setPch_foehn (n : Nat) (x : Pch) : (s.setPch n x).foehn = s.foehn := rfl
@[simp] theorem setPch_therm (n : Nat) (x : Pch) : (s.setPch n x).therm = s.therm := rfl
@[simp] theorem setPch_err (n : Nat) (x : Pch) : (s.setPch n x).err = s.err := rfl
@[simp] theorem setPch_sec (n : Nat) (x : Pch) : (s.setPch n x).sec = s.sec := rfl
@[simp] theorem setPch_boot (n : Nat) (x : Pch) : (s.setPch n x).boot = s.boot := rfl
@[simp] theorem setPch_bist (n : Nat) (x : Pch) : (s.setPch n x).bist = s.bist := rfl
@[simp] theorem setPch_pers (n : Nat) (x : Pch) : (s.setPch n x).pers = s.pers := rfl
@[simp] theorem setPch_fuses (n : Nat) (x : Pch) : (s.setPch n x).fuses = s.fuses := rfl
@[simp] theorem setPch_board (n : Nat) (x : Pch) : (s.setPch n x).board = s.board := rfl
@[simp] theorem setPch_drains (n : Nat) (x : Pch) : (s.setPch n x).drains = s.drains := rfl
@[simp] theorem setPch_latch (n : Nat) (x : Pch) : (s.setPch n x).latch = s.latch := rfl
@[simp] theorem setPch_inst (n : Nat) (x : Pch) (j : Nat) : (s.setPch n x).inst j = s.inst j := rfl
@[simp] theorem setPch_core (n : Nat) (x : Pch) (j : Nat) : (s.setPch n x).core j = s.core j := rfl
@[simp] theorem setPch_cluster (n : Nat) (x : Pch) (j : Nat) : (s.setPch n x).cluster j = s.cluster j := rfl
@[simp] theorem setPch_slice (n : Nat) (x : Pch) (j : Nat) : (s.setPch n x).slice j = s.slice j := rfl
@[simp] theorem setPch_pch (n : Nat) (x : Pch) (j : Nat) : (s.setPch n x).pch j = if j = n then x else s.pch j := NMap_at_put _ _ _ _ _
@[simp] theorem setPch_link (n : Nat) (x : Pch) (j : Nat) : (s.setPch n x).link j = s.link j := rfl
@[simp] theorem setPch_bundle (n : Nat) (x : Pch) (j : Nat) : (s.setPch n x).bundle j = s.bundle j := rfl
@[simp] theorem setPch_sectorClk (n : Nat) (x : Pch) (j : Nat) : (s.setPch n x).sectorClk j = s.sectorClk j := rfl
@[simp] theorem setPch_sensor (n : Nat) (x : Pch) (j : Nat) : (s.setPch n x).sensor j = s.sensor j := rfl
@[simp] theorem setPch_coll (n : Nat) (x : Pch) (j : Nat) : (s.setPch n x).coll j = s.coll j := rfl
@[simp] theorem setPch_wset (n : Nat) (x : Pch) (j : Nat) : (s.setPch n x).wset j = s.wset j := rfl
@[simp] theorem setPch_launch (n : Nat) (x : Pch) (a idx : Nat) : (s.setPch n x).launch a idx = s.launch a idx := rfl
@[simp] theorem setPch_group (n : Nat) (x : Pch) (h slot : Nat) : (s.setPch n x).group h slot = s.group h slot := rfl
@[simp] theorem setPch_fencedCore (n : Nat) (x : Pch) (h : Nat) : (s.setPch n x).fencedCore h = s.fencedCore h := rfl

/-! ## setLink -/

@[simp] theorem setLink_pending (n : Nat) (x : Link) : (s.setLink n x).pending = s.pending := rfl
@[simp] theorem setLink_clock (n : Nat) (x : Link) : (s.setLink n x).clock = s.clock := rfl
@[simp] theorem setLink_out (n : Nat) (x : Link) : (s.setLink n x).out = s.out := rfl
@[simp] theorem setLink_cad (n : Nat) (x : Link) : (s.setLink n x).cad = s.cad := rfl
@[simp] theorem setLink_host (n : Nat) (x : Link) : (s.setLink n x).host = s.host := rfl
@[simp] theorem setLink_dport (n : Nat) (x : Link) : (s.setLink n x).dport = s.dport := rfl
@[simp] theorem setLink_insts (n : Nat) (x : Link) : (s.setLink n x).insts = s.insts := rfl
@[simp] theorem setLink_cores (n : Nat) (x : Link) : (s.setLink n x).cores = s.cores := rfl
@[simp] theorem setLink_clusters (n : Nat) (x : Link) : (s.setLink n x).clusters = s.clusters := rfl
@[simp] theorem setLink_launches (n : Nat) (x : Link) : (s.setLink n x).launches = s.launches := rfl
@[simp] theorem setLink_mem (n : Nat) (x : Link) : (s.setLink n x).mem = s.mem := rfl
@[simp] theorem setLink_tlb (n : Nat) (x : Link) : (s.setLink n x).tlb = s.tlb := rfl
@[simp] theorem setLink_slices (n : Nat) (x : Link) : (s.setLink n x).slices = s.slices := rfl
@[simp] theorem setLink_llc (n : Nat) (x : Link) : (s.setLink n x).llc = s.llc := rfl
@[simp] theorem setLink_hbm (n : Nat) (x : Link) : (s.setLink n x).hbm = s.hbm := rfl
@[simp] theorem setLink_seq (n : Nat) (x : Link) : (s.setLink n x).seq = s.seq := rfl
@[simp] theorem setLink_d2d (n : Nat) (x : Link) : (s.setLink n x).d2d = s.d2d := rfl
@[simp] theorem setLink_foehn (n : Nat) (x : Link) : (s.setLink n x).foehn = s.foehn := rfl
@[simp] theorem setLink_therm (n : Nat) (x : Link) : (s.setLink n x).therm = s.therm := rfl
@[simp] theorem setLink_err (n : Nat) (x : Link) : (s.setLink n x).err = s.err := rfl
@[simp] theorem setLink_sec (n : Nat) (x : Link) : (s.setLink n x).sec = s.sec := rfl
@[simp] theorem setLink_boot (n : Nat) (x : Link) : (s.setLink n x).boot = s.boot := rfl
@[simp] theorem setLink_bist (n : Nat) (x : Link) : (s.setLink n x).bist = s.bist := rfl
@[simp] theorem setLink_pers (n : Nat) (x : Link) : (s.setLink n x).pers = s.pers := rfl
@[simp] theorem setLink_fuses (n : Nat) (x : Link) : (s.setLink n x).fuses = s.fuses := rfl
@[simp] theorem setLink_board (n : Nat) (x : Link) : (s.setLink n x).board = s.board := rfl
@[simp] theorem setLink_drains (n : Nat) (x : Link) : (s.setLink n x).drains = s.drains := rfl
@[simp] theorem setLink_latch (n : Nat) (x : Link) : (s.setLink n x).latch = s.latch := rfl
@[simp] theorem setLink_inst (n : Nat) (x : Link) (j : Nat) : (s.setLink n x).inst j = s.inst j := rfl
@[simp] theorem setLink_core (n : Nat) (x : Link) (j : Nat) : (s.setLink n x).core j = s.core j := rfl
@[simp] theorem setLink_cluster (n : Nat) (x : Link) (j : Nat) : (s.setLink n x).cluster j = s.cluster j := rfl
@[simp] theorem setLink_slice (n : Nat) (x : Link) (j : Nat) : (s.setLink n x).slice j = s.slice j := rfl
@[simp] theorem setLink_pch (n : Nat) (x : Link) (j : Nat) : (s.setLink n x).pch j = s.pch j := rfl
@[simp] theorem setLink_link (n : Nat) (x : Link) (j : Nat) : (s.setLink n x).link j = if j = n then x else s.link j := NMap_at_put _ _ _ _ _
@[simp] theorem setLink_bundle (n : Nat) (x : Link) (j : Nat) : (s.setLink n x).bundle j = s.bundle j := rfl
@[simp] theorem setLink_sectorClk (n : Nat) (x : Link) (j : Nat) : (s.setLink n x).sectorClk j = s.sectorClk j := rfl
@[simp] theorem setLink_sensor (n : Nat) (x : Link) (j : Nat) : (s.setLink n x).sensor j = s.sensor j := rfl
@[simp] theorem setLink_coll (n : Nat) (x : Link) (j : Nat) : (s.setLink n x).coll j = s.coll j := rfl
@[simp] theorem setLink_wset (n : Nat) (x : Link) (j : Nat) : (s.setLink n x).wset j = s.wset j := rfl
@[simp] theorem setLink_launch (n : Nat) (x : Link) (a idx : Nat) : (s.setLink n x).launch a idx = s.launch a idx := rfl
@[simp] theorem setLink_group (n : Nat) (x : Link) (h slot : Nat) : (s.setLink n x).group h slot = s.group h slot := rfl
@[simp] theorem setLink_fencedCore (n : Nat) (x : Link) (h : Nat) : (s.setLink n x).fencedCore h = s.fencedCore h := rfl

/-! ## setBundle -/

@[simp] theorem setBundle_pending (n : Nat) (x : Bundle) : (s.setBundle n x).pending = s.pending := rfl
@[simp] theorem setBundle_clock (n : Nat) (x : Bundle) : (s.setBundle n x).clock = s.clock := rfl
@[simp] theorem setBundle_out (n : Nat) (x : Bundle) : (s.setBundle n x).out = s.out := rfl
@[simp] theorem setBundle_cad (n : Nat) (x : Bundle) : (s.setBundle n x).cad = s.cad := rfl
@[simp] theorem setBundle_host (n : Nat) (x : Bundle) : (s.setBundle n x).host = s.host := rfl
@[simp] theorem setBundle_dport (n : Nat) (x : Bundle) : (s.setBundle n x).dport = s.dport := rfl
@[simp] theorem setBundle_insts (n : Nat) (x : Bundle) : (s.setBundle n x).insts = s.insts := rfl
@[simp] theorem setBundle_cores (n : Nat) (x : Bundle) : (s.setBundle n x).cores = s.cores := rfl
@[simp] theorem setBundle_clusters (n : Nat) (x : Bundle) : (s.setBundle n x).clusters = s.clusters := rfl
@[simp] theorem setBundle_launches (n : Nat) (x : Bundle) : (s.setBundle n x).launches = s.launches := rfl
@[simp] theorem setBundle_mem (n : Nat) (x : Bundle) : (s.setBundle n x).mem = s.mem := rfl
@[simp] theorem setBundle_tlb (n : Nat) (x : Bundle) : (s.setBundle n x).tlb = s.tlb := rfl
@[simp] theorem setBundle_slices (n : Nat) (x : Bundle) : (s.setBundle n x).slices = s.slices := rfl
@[simp] theorem setBundle_llc (n : Nat) (x : Bundle) : (s.setBundle n x).llc = s.llc := rfl
@[simp] theorem setBundle_hbm (n : Nat) (x : Bundle) : (s.setBundle n x).hbm = s.hbm := rfl
@[simp] theorem setBundle_seq (n : Nat) (x : Bundle) : (s.setBundle n x).seq = s.seq := rfl
@[simp] theorem setBundle_ael (n : Nat) (x : Bundle) : (s.setBundle n x).ael = s.ael := rfl
@[simp] theorem setBundle_foehn (n : Nat) (x : Bundle) : (s.setBundle n x).foehn = s.foehn := rfl
@[simp] theorem setBundle_therm (n : Nat) (x : Bundle) : (s.setBundle n x).therm = s.therm := rfl
@[simp] theorem setBundle_err (n : Nat) (x : Bundle) : (s.setBundle n x).err = s.err := rfl
@[simp] theorem setBundle_sec (n : Nat) (x : Bundle) : (s.setBundle n x).sec = s.sec := rfl
@[simp] theorem setBundle_boot (n : Nat) (x : Bundle) : (s.setBundle n x).boot = s.boot := rfl
@[simp] theorem setBundle_bist (n : Nat) (x : Bundle) : (s.setBundle n x).bist = s.bist := rfl
@[simp] theorem setBundle_pers (n : Nat) (x : Bundle) : (s.setBundle n x).pers = s.pers := rfl
@[simp] theorem setBundle_fuses (n : Nat) (x : Bundle) : (s.setBundle n x).fuses = s.fuses := rfl
@[simp] theorem setBundle_board (n : Nat) (x : Bundle) : (s.setBundle n x).board = s.board := rfl
@[simp] theorem setBundle_drains (n : Nat) (x : Bundle) : (s.setBundle n x).drains = s.drains := rfl
@[simp] theorem setBundle_latch (n : Nat) (x : Bundle) : (s.setBundle n x).latch = s.latch := rfl
@[simp] theorem setBundle_inst (n : Nat) (x : Bundle) (j : Nat) : (s.setBundle n x).inst j = s.inst j := rfl
@[simp] theorem setBundle_core (n : Nat) (x : Bundle) (j : Nat) : (s.setBundle n x).core j = s.core j := rfl
@[simp] theorem setBundle_cluster (n : Nat) (x : Bundle) (j : Nat) : (s.setBundle n x).cluster j = s.cluster j := rfl
@[simp] theorem setBundle_slice (n : Nat) (x : Bundle) (j : Nat) : (s.setBundle n x).slice j = s.slice j := rfl
@[simp] theorem setBundle_pch (n : Nat) (x : Bundle) (j : Nat) : (s.setBundle n x).pch j = s.pch j := rfl
@[simp] theorem setBundle_link (n : Nat) (x : Bundle) (j : Nat) : (s.setBundle n x).link j = s.link j := rfl
@[simp] theorem setBundle_bundle (n : Nat) (x : Bundle) (j : Nat) : (s.setBundle n x).bundle j = if j = n then x else s.bundle j := NMap_at_put _ _ _ _ _
@[simp] theorem setBundle_sectorClk (n : Nat) (x : Bundle) (j : Nat) : (s.setBundle n x).sectorClk j = s.sectorClk j := rfl
@[simp] theorem setBundle_sensor (n : Nat) (x : Bundle) (j : Nat) : (s.setBundle n x).sensor j = s.sensor j := rfl
@[simp] theorem setBundle_coll (n : Nat) (x : Bundle) (j : Nat) : (s.setBundle n x).coll j = s.coll j := rfl
@[simp] theorem setBundle_wset (n : Nat) (x : Bundle) (j : Nat) : (s.setBundle n x).wset j = s.wset j := rfl
@[simp] theorem setBundle_launch (n : Nat) (x : Bundle) (a idx : Nat) : (s.setBundle n x).launch a idx = s.launch a idx := rfl
@[simp] theorem setBundle_group (n : Nat) (x : Bundle) (h slot : Nat) : (s.setBundle n x).group h slot = s.group h slot := rfl
@[simp] theorem setBundle_fencedCore (n : Nat) (x : Bundle) (h : Nat) : (s.setBundle n x).fencedCore h = s.fencedCore h := rfl

/-! ## setSectorClk -/

@[simp] theorem setSectorClk_pending (n : Nat) (x : SectorClk) : (s.setSectorClk n x).pending = s.pending := rfl
@[simp] theorem setSectorClk_clock (n : Nat) (x : SectorClk) : (s.setSectorClk n x).clock = s.clock := rfl
@[simp] theorem setSectorClk_out (n : Nat) (x : SectorClk) : (s.setSectorClk n x).out = s.out := rfl
@[simp] theorem setSectorClk_cad (n : Nat) (x : SectorClk) : (s.setSectorClk n x).cad = s.cad := rfl
@[simp] theorem setSectorClk_host (n : Nat) (x : SectorClk) : (s.setSectorClk n x).host = s.host := rfl
@[simp] theorem setSectorClk_dport (n : Nat) (x : SectorClk) : (s.setSectorClk n x).dport = s.dport := rfl
@[simp] theorem setSectorClk_insts (n : Nat) (x : SectorClk) : (s.setSectorClk n x).insts = s.insts := rfl
@[simp] theorem setSectorClk_cores (n : Nat) (x : SectorClk) : (s.setSectorClk n x).cores = s.cores := rfl
@[simp] theorem setSectorClk_clusters (n : Nat) (x : SectorClk) : (s.setSectorClk n x).clusters = s.clusters := rfl
@[simp] theorem setSectorClk_launches (n : Nat) (x : SectorClk) : (s.setSectorClk n x).launches = s.launches := rfl
@[simp] theorem setSectorClk_mem (n : Nat) (x : SectorClk) : (s.setSectorClk n x).mem = s.mem := rfl
@[simp] theorem setSectorClk_tlb (n : Nat) (x : SectorClk) : (s.setSectorClk n x).tlb = s.tlb := rfl
@[simp] theorem setSectorClk_slices (n : Nat) (x : SectorClk) : (s.setSectorClk n x).slices = s.slices := rfl
@[simp] theorem setSectorClk_llc (n : Nat) (x : SectorClk) : (s.setSectorClk n x).llc = s.llc := rfl
@[simp] theorem setSectorClk_hbm (n : Nat) (x : SectorClk) : (s.setSectorClk n x).hbm = s.hbm := rfl
@[simp] theorem setSectorClk_seq (n : Nat) (x : SectorClk) : (s.setSectorClk n x).seq = s.seq := rfl
@[simp] theorem setSectorClk_ael (n : Nat) (x : SectorClk) : (s.setSectorClk n x).ael = s.ael := rfl
@[simp] theorem setSectorClk_d2d (n : Nat) (x : SectorClk) : (s.setSectorClk n x).d2d = s.d2d := rfl
@[simp] theorem setSectorClk_therm (n : Nat) (x : SectorClk) : (s.setSectorClk n x).therm = s.therm := rfl
@[simp] theorem setSectorClk_err (n : Nat) (x : SectorClk) : (s.setSectorClk n x).err = s.err := rfl
@[simp] theorem setSectorClk_sec (n : Nat) (x : SectorClk) : (s.setSectorClk n x).sec = s.sec := rfl
@[simp] theorem setSectorClk_boot (n : Nat) (x : SectorClk) : (s.setSectorClk n x).boot = s.boot := rfl
@[simp] theorem setSectorClk_bist (n : Nat) (x : SectorClk) : (s.setSectorClk n x).bist = s.bist := rfl
@[simp] theorem setSectorClk_pers (n : Nat) (x : SectorClk) : (s.setSectorClk n x).pers = s.pers := rfl
@[simp] theorem setSectorClk_fuses (n : Nat) (x : SectorClk) : (s.setSectorClk n x).fuses = s.fuses := rfl
@[simp] theorem setSectorClk_board (n : Nat) (x : SectorClk) : (s.setSectorClk n x).board = s.board := rfl
@[simp] theorem setSectorClk_drains (n : Nat) (x : SectorClk) : (s.setSectorClk n x).drains = s.drains := rfl
@[simp] theorem setSectorClk_latch (n : Nat) (x : SectorClk) : (s.setSectorClk n x).latch = s.latch := rfl
@[simp] theorem setSectorClk_inst (n : Nat) (x : SectorClk) (j : Nat) : (s.setSectorClk n x).inst j = s.inst j := rfl
@[simp] theorem setSectorClk_core (n : Nat) (x : SectorClk) (j : Nat) : (s.setSectorClk n x).core j = s.core j := rfl
@[simp] theorem setSectorClk_cluster (n : Nat) (x : SectorClk) (j : Nat) : (s.setSectorClk n x).cluster j = s.cluster j := rfl
@[simp] theorem setSectorClk_slice (n : Nat) (x : SectorClk) (j : Nat) : (s.setSectorClk n x).slice j = s.slice j := rfl
@[simp] theorem setSectorClk_pch (n : Nat) (x : SectorClk) (j : Nat) : (s.setSectorClk n x).pch j = s.pch j := rfl
@[simp] theorem setSectorClk_link (n : Nat) (x : SectorClk) (j : Nat) : (s.setSectorClk n x).link j = s.link j := rfl
@[simp] theorem setSectorClk_bundle (n : Nat) (x : SectorClk) (j : Nat) : (s.setSectorClk n x).bundle j = s.bundle j := rfl
@[simp] theorem setSectorClk_sectorClk (n : Nat) (x : SectorClk) (j : Nat) : (s.setSectorClk n x).sectorClk j = if j = n then x else s.sectorClk j := NMap_at_put _ _ _ _ _
@[simp] theorem setSectorClk_sensor (n : Nat) (x : SectorClk) (j : Nat) : (s.setSectorClk n x).sensor j = s.sensor j := rfl
@[simp] theorem setSectorClk_coll (n : Nat) (x : SectorClk) (j : Nat) : (s.setSectorClk n x).coll j = s.coll j := rfl
@[simp] theorem setSectorClk_wset (n : Nat) (x : SectorClk) (j : Nat) : (s.setSectorClk n x).wset j = s.wset j := rfl
@[simp] theorem setSectorClk_launch (n : Nat) (x : SectorClk) (a idx : Nat) : (s.setSectorClk n x).launch a idx = s.launch a idx := rfl
@[simp] theorem setSectorClk_group (n : Nat) (x : SectorClk) (h slot : Nat) : (s.setSectorClk n x).group h slot = s.group h slot := rfl
@[simp] theorem setSectorClk_fencedCore (n : Nat) (x : SectorClk) (h : Nat) : (s.setSectorClk n x).fencedCore h = s.fencedCore h := rfl

/-! ## setSensor -/

@[simp] theorem setSensor_pending (n : Nat) (x : Sens) : (s.setSensor n x).pending = s.pending := rfl
@[simp] theorem setSensor_clock (n : Nat) (x : Sens) : (s.setSensor n x).clock = s.clock := rfl
@[simp] theorem setSensor_out (n : Nat) (x : Sens) : (s.setSensor n x).out = s.out := rfl
@[simp] theorem setSensor_cad (n : Nat) (x : Sens) : (s.setSensor n x).cad = s.cad := rfl
@[simp] theorem setSensor_host (n : Nat) (x : Sens) : (s.setSensor n x).host = s.host := rfl
@[simp] theorem setSensor_dport (n : Nat) (x : Sens) : (s.setSensor n x).dport = s.dport := rfl
@[simp] theorem setSensor_insts (n : Nat) (x : Sens) : (s.setSensor n x).insts = s.insts := rfl
@[simp] theorem setSensor_cores (n : Nat) (x : Sens) : (s.setSensor n x).cores = s.cores := rfl
@[simp] theorem setSensor_clusters (n : Nat) (x : Sens) : (s.setSensor n x).clusters = s.clusters := rfl
@[simp] theorem setSensor_launches (n : Nat) (x : Sens) : (s.setSensor n x).launches = s.launches := rfl
@[simp] theorem setSensor_mem (n : Nat) (x : Sens) : (s.setSensor n x).mem = s.mem := rfl
@[simp] theorem setSensor_tlb (n : Nat) (x : Sens) : (s.setSensor n x).tlb = s.tlb := rfl
@[simp] theorem setSensor_slices (n : Nat) (x : Sens) : (s.setSensor n x).slices = s.slices := rfl
@[simp] theorem setSensor_llc (n : Nat) (x : Sens) : (s.setSensor n x).llc = s.llc := rfl
@[simp] theorem setSensor_hbm (n : Nat) (x : Sens) : (s.setSensor n x).hbm = s.hbm := rfl
@[simp] theorem setSensor_seq (n : Nat) (x : Sens) : (s.setSensor n x).seq = s.seq := rfl
@[simp] theorem setSensor_ael (n : Nat) (x : Sens) : (s.setSensor n x).ael = s.ael := rfl
@[simp] theorem setSensor_d2d (n : Nat) (x : Sens) : (s.setSensor n x).d2d = s.d2d := rfl
@[simp] theorem setSensor_foehn (n : Nat) (x : Sens) : (s.setSensor n x).foehn = s.foehn := rfl
@[simp] theorem setSensor_err (n : Nat) (x : Sens) : (s.setSensor n x).err = s.err := rfl
@[simp] theorem setSensor_sec (n : Nat) (x : Sens) : (s.setSensor n x).sec = s.sec := rfl
@[simp] theorem setSensor_boot (n : Nat) (x : Sens) : (s.setSensor n x).boot = s.boot := rfl
@[simp] theorem setSensor_bist (n : Nat) (x : Sens) : (s.setSensor n x).bist = s.bist := rfl
@[simp] theorem setSensor_pers (n : Nat) (x : Sens) : (s.setSensor n x).pers = s.pers := rfl
@[simp] theorem setSensor_fuses (n : Nat) (x : Sens) : (s.setSensor n x).fuses = s.fuses := rfl
@[simp] theorem setSensor_board (n : Nat) (x : Sens) : (s.setSensor n x).board = s.board := rfl
@[simp] theorem setSensor_drains (n : Nat) (x : Sens) : (s.setSensor n x).drains = s.drains := rfl
@[simp] theorem setSensor_latch (n : Nat) (x : Sens) : (s.setSensor n x).latch = s.latch := rfl
@[simp] theorem setSensor_inst (n : Nat) (x : Sens) (j : Nat) : (s.setSensor n x).inst j = s.inst j := rfl
@[simp] theorem setSensor_core (n : Nat) (x : Sens) (j : Nat) : (s.setSensor n x).core j = s.core j := rfl
@[simp] theorem setSensor_cluster (n : Nat) (x : Sens) (j : Nat) : (s.setSensor n x).cluster j = s.cluster j := rfl
@[simp] theorem setSensor_slice (n : Nat) (x : Sens) (j : Nat) : (s.setSensor n x).slice j = s.slice j := rfl
@[simp] theorem setSensor_pch (n : Nat) (x : Sens) (j : Nat) : (s.setSensor n x).pch j = s.pch j := rfl
@[simp] theorem setSensor_link (n : Nat) (x : Sens) (j : Nat) : (s.setSensor n x).link j = s.link j := rfl
@[simp] theorem setSensor_bundle (n : Nat) (x : Sens) (j : Nat) : (s.setSensor n x).bundle j = s.bundle j := rfl
@[simp] theorem setSensor_sectorClk (n : Nat) (x : Sens) (j : Nat) : (s.setSensor n x).sectorClk j = s.sectorClk j := rfl
@[simp] theorem setSensor_sensor (n : Nat) (x : Sens) (j : Nat) : (s.setSensor n x).sensor j = if j = n then x else s.sensor j := NMap_at_put _ _ _ _ _
@[simp] theorem setSensor_coll (n : Nat) (x : Sens) (j : Nat) : (s.setSensor n x).coll j = s.coll j := rfl
@[simp] theorem setSensor_wset (n : Nat) (x : Sens) (j : Nat) : (s.setSensor n x).wset j = s.wset j := rfl
@[simp] theorem setSensor_launch (n : Nat) (x : Sens) (a idx : Nat) : (s.setSensor n x).launch a idx = s.launch a idx := rfl
@[simp] theorem setSensor_group (n : Nat) (x : Sens) (h slot : Nat) : (s.setSensor n x).group h slot = s.group h slot := rfl
@[simp] theorem setSensor_fencedCore (n : Nat) (x : Sens) (h : Nat) : (s.setSensor n x).fencedCore h = s.fencedCore h := rfl

/-! ## setColl -/

@[simp] theorem setColl_pending (n : Nat) (x : Coll) : (s.setColl n x).pending = s.pending := rfl
@[simp] theorem setColl_clock (n : Nat) (x : Coll) : (s.setColl n x).clock = s.clock := rfl
@[simp] theorem setColl_out (n : Nat) (x : Coll) : (s.setColl n x).out = s.out := rfl
@[simp] theorem setColl_cad (n : Nat) (x : Coll) : (s.setColl n x).cad = s.cad := rfl
@[simp] theorem setColl_host (n : Nat) (x : Coll) : (s.setColl n x).host = s.host := rfl
@[simp] theorem setColl_dport (n : Nat) (x : Coll) : (s.setColl n x).dport = s.dport := rfl
@[simp] theorem setColl_insts (n : Nat) (x : Coll) : (s.setColl n x).insts = s.insts := rfl
@[simp] theorem setColl_cores (n : Nat) (x : Coll) : (s.setColl n x).cores = s.cores := rfl
@[simp] theorem setColl_clusters (n : Nat) (x : Coll) : (s.setColl n x).clusters = s.clusters := rfl
@[simp] theorem setColl_launches (n : Nat) (x : Coll) : (s.setColl n x).launches = s.launches := rfl
@[simp] theorem setColl_mem (n : Nat) (x : Coll) : (s.setColl n x).mem = s.mem := rfl
@[simp] theorem setColl_tlb (n : Nat) (x : Coll) : (s.setColl n x).tlb = s.tlb := rfl
@[simp] theorem setColl_slices (n : Nat) (x : Coll) : (s.setColl n x).slices = s.slices := rfl
@[simp] theorem setColl_llc (n : Nat) (x : Coll) : (s.setColl n x).llc = s.llc := rfl
@[simp] theorem setColl_hbm (n : Nat) (x : Coll) : (s.setColl n x).hbm = s.hbm := rfl
@[simp] theorem setColl_seq (n : Nat) (x : Coll) : (s.setColl n x).seq = s.seq := rfl
@[simp] theorem setColl_d2d (n : Nat) (x : Coll) : (s.setColl n x).d2d = s.d2d := rfl
@[simp] theorem setColl_foehn (n : Nat) (x : Coll) : (s.setColl n x).foehn = s.foehn := rfl
@[simp] theorem setColl_therm (n : Nat) (x : Coll) : (s.setColl n x).therm = s.therm := rfl
@[simp] theorem setColl_err (n : Nat) (x : Coll) : (s.setColl n x).err = s.err := rfl
@[simp] theorem setColl_sec (n : Nat) (x : Coll) : (s.setColl n x).sec = s.sec := rfl
@[simp] theorem setColl_boot (n : Nat) (x : Coll) : (s.setColl n x).boot = s.boot := rfl
@[simp] theorem setColl_bist (n : Nat) (x : Coll) : (s.setColl n x).bist = s.bist := rfl
@[simp] theorem setColl_pers (n : Nat) (x : Coll) : (s.setColl n x).pers = s.pers := rfl
@[simp] theorem setColl_fuses (n : Nat) (x : Coll) : (s.setColl n x).fuses = s.fuses := rfl
@[simp] theorem setColl_board (n : Nat) (x : Coll) : (s.setColl n x).board = s.board := rfl
@[simp] theorem setColl_drains (n : Nat) (x : Coll) : (s.setColl n x).drains = s.drains := rfl
@[simp] theorem setColl_latch (n : Nat) (x : Coll) : (s.setColl n x).latch = s.latch := rfl
@[simp] theorem setColl_inst (n : Nat) (x : Coll) (j : Nat) : (s.setColl n x).inst j = s.inst j := rfl
@[simp] theorem setColl_core (n : Nat) (x : Coll) (j : Nat) : (s.setColl n x).core j = s.core j := rfl
@[simp] theorem setColl_cluster (n : Nat) (x : Coll) (j : Nat) : (s.setColl n x).cluster j = s.cluster j := rfl
@[simp] theorem setColl_slice (n : Nat) (x : Coll) (j : Nat) : (s.setColl n x).slice j = s.slice j := rfl
@[simp] theorem setColl_pch (n : Nat) (x : Coll) (j : Nat) : (s.setColl n x).pch j = s.pch j := rfl
@[simp] theorem setColl_link (n : Nat) (x : Coll) (j : Nat) : (s.setColl n x).link j = s.link j := rfl
@[simp] theorem setColl_bundle (n : Nat) (x : Coll) (j : Nat) : (s.setColl n x).bundle j = s.bundle j := rfl
@[simp] theorem setColl_sectorClk (n : Nat) (x : Coll) (j : Nat) : (s.setColl n x).sectorClk j = s.sectorClk j := rfl
@[simp] theorem setColl_sensor (n : Nat) (x : Coll) (j : Nat) : (s.setColl n x).sensor j = s.sensor j := rfl
@[simp] theorem setColl_coll (n : Nat) (x : Coll) (j : Nat) : (s.setColl n x).coll j = if j = n then x else s.coll j := NMap_at_put _ _ _ _ _
@[simp] theorem setColl_wset (n : Nat) (x : Coll) (j : Nat) : (s.setColl n x).wset j = s.wset j := rfl
@[simp] theorem setColl_launch (n : Nat) (x : Coll) (a idx : Nat) : (s.setColl n x).launch a idx = s.launch a idx := rfl
@[simp] theorem setColl_group (n : Nat) (x : Coll) (h slot : Nat) : (s.setColl n x).group h slot = s.group h slot := rfl
@[simp] theorem setColl_fencedCore (n : Nat) (x : Coll) (h : Nat) : (s.setColl n x).fencedCore h = s.fencedCore h := rfl

/-! ## setWset -/

@[simp] theorem setWset_pending (n : Nat) (x : WSet) : (s.setWset n x).pending = s.pending := rfl
@[simp] theorem setWset_clock (n : Nat) (x : WSet) : (s.setWset n x).clock = s.clock := rfl
@[simp] theorem setWset_out (n : Nat) (x : WSet) : (s.setWset n x).out = s.out := rfl
@[simp] theorem setWset_cad (n : Nat) (x : WSet) : (s.setWset n x).cad = s.cad := rfl
@[simp] theorem setWset_host (n : Nat) (x : WSet) : (s.setWset n x).host = s.host := rfl
@[simp] theorem setWset_dport (n : Nat) (x : WSet) : (s.setWset n x).dport = s.dport := rfl
@[simp] theorem setWset_insts (n : Nat) (x : WSet) : (s.setWset n x).insts = s.insts := rfl
@[simp] theorem setWset_cores (n : Nat) (x : WSet) : (s.setWset n x).cores = s.cores := rfl
@[simp] theorem setWset_clusters (n : Nat) (x : WSet) : (s.setWset n x).clusters = s.clusters := rfl
@[simp] theorem setWset_launches (n : Nat) (x : WSet) : (s.setWset n x).launches = s.launches := rfl
@[simp] theorem setWset_mem (n : Nat) (x : WSet) : (s.setWset n x).mem = s.mem := rfl
@[simp] theorem setWset_tlb (n : Nat) (x : WSet) : (s.setWset n x).tlb = s.tlb := rfl
@[simp] theorem setWset_slices (n : Nat) (x : WSet) : (s.setWset n x).slices = s.slices := rfl
@[simp] theorem setWset_llc (n : Nat) (x : WSet) : (s.setWset n x).llc = s.llc := rfl
@[simp] theorem setWset_hbm (n : Nat) (x : WSet) : (s.setWset n x).hbm = s.hbm := rfl
@[simp] theorem setWset_ael (n : Nat) (x : WSet) : (s.setWset n x).ael = s.ael := rfl
@[simp] theorem setWset_d2d (n : Nat) (x : WSet) : (s.setWset n x).d2d = s.d2d := rfl
@[simp] theorem setWset_foehn (n : Nat) (x : WSet) : (s.setWset n x).foehn = s.foehn := rfl
@[simp] theorem setWset_therm (n : Nat) (x : WSet) : (s.setWset n x).therm = s.therm := rfl
@[simp] theorem setWset_err (n : Nat) (x : WSet) : (s.setWset n x).err = s.err := rfl
@[simp] theorem setWset_sec (n : Nat) (x : WSet) : (s.setWset n x).sec = s.sec := rfl
@[simp] theorem setWset_boot (n : Nat) (x : WSet) : (s.setWset n x).boot = s.boot := rfl
@[simp] theorem setWset_bist (n : Nat) (x : WSet) : (s.setWset n x).bist = s.bist := rfl
@[simp] theorem setWset_pers (n : Nat) (x : WSet) : (s.setWset n x).pers = s.pers := rfl
@[simp] theorem setWset_fuses (n : Nat) (x : WSet) : (s.setWset n x).fuses = s.fuses := rfl
@[simp] theorem setWset_board (n : Nat) (x : WSet) : (s.setWset n x).board = s.board := rfl
@[simp] theorem setWset_drains (n : Nat) (x : WSet) : (s.setWset n x).drains = s.drains := rfl
@[simp] theorem setWset_latch (n : Nat) (x : WSet) : (s.setWset n x).latch = s.latch := rfl
@[simp] theorem setWset_inst (n : Nat) (x : WSet) (j : Nat) : (s.setWset n x).inst j = s.inst j := rfl
@[simp] theorem setWset_core (n : Nat) (x : WSet) (j : Nat) : (s.setWset n x).core j = s.core j := rfl
@[simp] theorem setWset_cluster (n : Nat) (x : WSet) (j : Nat) : (s.setWset n x).cluster j = s.cluster j := rfl
@[simp] theorem setWset_slice (n : Nat) (x : WSet) (j : Nat) : (s.setWset n x).slice j = s.slice j := rfl
@[simp] theorem setWset_pch (n : Nat) (x : WSet) (j : Nat) : (s.setWset n x).pch j = s.pch j := rfl
@[simp] theorem setWset_link (n : Nat) (x : WSet) (j : Nat) : (s.setWset n x).link j = s.link j := rfl
@[simp] theorem setWset_bundle (n : Nat) (x : WSet) (j : Nat) : (s.setWset n x).bundle j = s.bundle j := rfl
@[simp] theorem setWset_sectorClk (n : Nat) (x : WSet) (j : Nat) : (s.setWset n x).sectorClk j = s.sectorClk j := rfl
@[simp] theorem setWset_sensor (n : Nat) (x : WSet) (j : Nat) : (s.setWset n x).sensor j = s.sensor j := rfl
@[simp] theorem setWset_coll (n : Nat) (x : WSet) (j : Nat) : (s.setWset n x).coll j = s.coll j := rfl
@[simp] theorem setWset_wset (n : Nat) (x : WSet) (j : Nat) : (s.setWset n x).wset j = if j = n then x else s.wset j := NMap_at_put _ _ _ _ _
@[simp] theorem setWset_launch (n : Nat) (x : WSet) (a idx : Nat) : (s.setWset n x).launch a idx = s.launch a idx := rfl
@[simp] theorem setWset_group (n : Nat) (x : WSet) (h slot : Nat) : (s.setWset n x).group h slot = s.group h slot := rfl
@[simp] theorem setWset_fencedCore (n : Nat) (x : WSet) (h : Nat) : (s.setWset n x).fencedCore h = s.fencedCore h := rfl

/-! ## setLaunch -/

@[simp] theorem setLaunch_pending (l : Launch) : (s.setLaunch l).pending = s.pending := rfl
@[simp] theorem setLaunch_clock (l : Launch) : (s.setLaunch l).clock = s.clock := rfl
@[simp] theorem setLaunch_out (l : Launch) : (s.setLaunch l).out = s.out := rfl
@[simp] theorem setLaunch_cad (l : Launch) : (s.setLaunch l).cad = s.cad := rfl
@[simp] theorem setLaunch_host (l : Launch) : (s.setLaunch l).host = s.host := rfl
@[simp] theorem setLaunch_dport (l : Launch) : (s.setLaunch l).dport = s.dport := rfl
@[simp] theorem setLaunch_insts (l : Launch) : (s.setLaunch l).insts = s.insts := rfl
@[simp] theorem setLaunch_cores (l : Launch) : (s.setLaunch l).cores = s.cores := rfl
@[simp] theorem setLaunch_clusters (l : Launch) : (s.setLaunch l).clusters = s.clusters := rfl
@[simp] theorem setLaunch_mem (l : Launch) : (s.setLaunch l).mem = s.mem := rfl
@[simp] theorem setLaunch_tlb (l : Launch) : (s.setLaunch l).tlb = s.tlb := rfl
@[simp] theorem setLaunch_slices (l : Launch) : (s.setLaunch l).slices = s.slices := rfl
@[simp] theorem setLaunch_llc (l : Launch) : (s.setLaunch l).llc = s.llc := rfl
@[simp] theorem setLaunch_hbm (l : Launch) : (s.setLaunch l).hbm = s.hbm := rfl
@[simp] theorem setLaunch_seq (l : Launch) : (s.setLaunch l).seq = s.seq := rfl
@[simp] theorem setLaunch_ael (l : Launch) : (s.setLaunch l).ael = s.ael := rfl
@[simp] theorem setLaunch_d2d (l : Launch) : (s.setLaunch l).d2d = s.d2d := rfl
@[simp] theorem setLaunch_foehn (l : Launch) : (s.setLaunch l).foehn = s.foehn := rfl
@[simp] theorem setLaunch_therm (l : Launch) : (s.setLaunch l).therm = s.therm := rfl
@[simp] theorem setLaunch_err (l : Launch) : (s.setLaunch l).err = s.err := rfl
@[simp] theorem setLaunch_sec (l : Launch) : (s.setLaunch l).sec = s.sec := rfl
@[simp] theorem setLaunch_boot (l : Launch) : (s.setLaunch l).boot = s.boot := rfl
@[simp] theorem setLaunch_bist (l : Launch) : (s.setLaunch l).bist = s.bist := rfl
@[simp] theorem setLaunch_pers (l : Launch) : (s.setLaunch l).pers = s.pers := rfl
@[simp] theorem setLaunch_fuses (l : Launch) : (s.setLaunch l).fuses = s.fuses := rfl
@[simp] theorem setLaunch_board (l : Launch) : (s.setLaunch l).board = s.board := rfl
@[simp] theorem setLaunch_drains (l : Launch) : (s.setLaunch l).drains = s.drains := rfl
@[simp] theorem setLaunch_latch (l : Launch) : (s.setLaunch l).latch = s.latch := rfl
@[simp] theorem setLaunch_inst (l : Launch) (j : Nat) : (s.setLaunch l).inst j = s.inst j := rfl
@[simp] theorem setLaunch_core (l : Launch) (j : Nat) : (s.setLaunch l).core j = s.core j := rfl
@[simp] theorem setLaunch_cluster (l : Launch) (j : Nat) : (s.setLaunch l).cluster j = s.cluster j := rfl
@[simp] theorem setLaunch_slice (l : Launch) (j : Nat) : (s.setLaunch l).slice j = s.slice j := rfl
@[simp] theorem setLaunch_pch (l : Launch) (j : Nat) : (s.setLaunch l).pch j = s.pch j := rfl
@[simp] theorem setLaunch_link (l : Launch) (j : Nat) : (s.setLaunch l).link j = s.link j := rfl
@[simp] theorem setLaunch_bundle (l : Launch) (j : Nat) : (s.setLaunch l).bundle j = s.bundle j := rfl
@[simp] theorem setLaunch_sectorClk (l : Launch) (j : Nat) : (s.setLaunch l).sectorClk j = s.sectorClk j := rfl
@[simp] theorem setLaunch_sensor (l : Launch) (j : Nat) : (s.setLaunch l).sensor j = s.sensor j := rfl
@[simp] theorem setLaunch_coll (l : Launch) (j : Nat) : (s.setLaunch l).coll j = s.coll j := rfl
@[simp] theorem setLaunch_wset (l : Launch) (j : Nat) : (s.setLaunch l).wset j = s.wset j := rfl
@[simp] theorem setLaunch_group (l : Launch) (h slot : Nat) : (s.setLaunch l).group h slot = s.group h slot := rfl
@[simp] theorem setLaunch_fencedCore (l : Launch) (h : Nat) : (s.setLaunch l).fencedCore h = s.fencedCore h := rfl

/-! ## send -/

@[simp] theorem send_pending (m : OutMsg) : (s.send m).pending = s.pending := rfl
@[simp] theorem send_clock (m : OutMsg) : (s.send m).clock = s.clock := rfl
@[simp] theorem send_cad (m : OutMsg) : (s.send m).cad = s.cad := rfl
@[simp] theorem send_host (m : OutMsg) : (s.send m).host = s.host := rfl
@[simp] theorem send_dport (m : OutMsg) : (s.send m).dport = s.dport := rfl
@[simp] theorem send_insts (m : OutMsg) : (s.send m).insts = s.insts := rfl
@[simp] theorem send_cores (m : OutMsg) : (s.send m).cores = s.cores := rfl
@[simp] theorem send_clusters (m : OutMsg) : (s.send m).clusters = s.clusters := rfl
@[simp] theorem send_launches (m : OutMsg) : (s.send m).launches = s.launches := rfl
@[simp] theorem send_mem (m : OutMsg) : (s.send m).mem = s.mem := rfl
@[simp] theorem send_tlb (m : OutMsg) : (s.send m).tlb = s.tlb := rfl
@[simp] theorem send_slices (m : OutMsg) : (s.send m).slices = s.slices := rfl
@[simp] theorem send_llc (m : OutMsg) : (s.send m).llc = s.llc := rfl
@[simp] theorem send_hbm (m : OutMsg) : (s.send m).hbm = s.hbm := rfl
@[simp] theorem send_seq (m : OutMsg) : (s.send m).seq = s.seq := rfl
@[simp] theorem send_ael (m : OutMsg) : (s.send m).ael = s.ael := rfl
@[simp] theorem send_d2d (m : OutMsg) : (s.send m).d2d = s.d2d := rfl
@[simp] theorem send_foehn (m : OutMsg) : (s.send m).foehn = s.foehn := rfl
@[simp] theorem send_therm (m : OutMsg) : (s.send m).therm = s.therm := rfl
@[simp] theorem send_err (m : OutMsg) : (s.send m).err = s.err := rfl
@[simp] theorem send_sec (m : OutMsg) : (s.send m).sec = s.sec := rfl
@[simp] theorem send_boot (m : OutMsg) : (s.send m).boot = s.boot := rfl
@[simp] theorem send_bist (m : OutMsg) : (s.send m).bist = s.bist := rfl
@[simp] theorem send_pers (m : OutMsg) : (s.send m).pers = s.pers := rfl
@[simp] theorem send_fuses (m : OutMsg) : (s.send m).fuses = s.fuses := rfl
@[simp] theorem send_board (m : OutMsg) : (s.send m).board = s.board := rfl
@[simp] theorem send_drains (m : OutMsg) : (s.send m).drains = s.drains := rfl
@[simp] theorem send_latch (m : OutMsg) : (s.send m).latch = s.latch := rfl
@[simp] theorem send_inst (m : OutMsg) (j : Nat) : (s.send m).inst j = s.inst j := rfl
@[simp] theorem send_core (m : OutMsg) (j : Nat) : (s.send m).core j = s.core j := rfl
@[simp] theorem send_cluster (m : OutMsg) (j : Nat) : (s.send m).cluster j = s.cluster j := rfl
@[simp] theorem send_slice (m : OutMsg) (j : Nat) : (s.send m).slice j = s.slice j := rfl
@[simp] theorem send_pch (m : OutMsg) (j : Nat) : (s.send m).pch j = s.pch j := rfl
@[simp] theorem send_link (m : OutMsg) (j : Nat) : (s.send m).link j = s.link j := rfl
@[simp] theorem send_bundle (m : OutMsg) (j : Nat) : (s.send m).bundle j = s.bundle j := rfl
@[simp] theorem send_sectorClk (m : OutMsg) (j : Nat) : (s.send m).sectorClk j = s.sectorClk j := rfl
@[simp] theorem send_sensor (m : OutMsg) (j : Nat) : (s.send m).sensor j = s.sensor j := rfl
@[simp] theorem send_coll (m : OutMsg) (j : Nat) : (s.send m).coll j = s.coll j := rfl
@[simp] theorem send_wset (m : OutMsg) (j : Nat) : (s.send m).wset j = s.wset j := rfl
@[simp] theorem send_launch (m : OutMsg) (a idx : Nat) : (s.send m).launch a idx = s.launch a idx := rfl
@[simp] theorem send_group (m : OutMsg) (h slot : Nat) : (s.send m).group h slot = s.group h slot := rfl
@[simp] theorem send_fencedCore (m : OutMsg) (h : Nat) : (s.send m).fencedCore h = s.fencedCore h := rfl

/-! ## upd: a set of a function of what was read -/

@[simp] theorem updInst_eq (n : Nat) (f : Inst → Inst) : s.updInst n f = s.setInst n (f (s.inst n)) := rfl
@[simp] theorem updCore_eq (n : Nat) (f : Core → Core) : s.updCore n f = s.setCore n (f (s.core n)) := rfl
@[simp] theorem updCluster_eq (n : Nat) (f : Cluster → Cluster) : s.updCluster n f = s.setCluster n (f (s.cluster n)) := rfl
@[simp] theorem updSlice_eq (n : Nat) (f : Slice → Slice) : s.updSlice n f = s.setSlice n (f (s.slice n)) := rfl
@[simp] theorem updPch_eq (n : Nat) (f : Pch → Pch) : s.updPch n f = s.setPch n (f (s.pch n)) := rfl
@[simp] theorem updLink_eq (n : Nat) (f : Link → Link) : s.updLink n f = s.setLink n (f (s.link n)) := rfl
@[simp] theorem updBundle_eq (n : Nat) (f : Bundle → Bundle) : s.updBundle n f = s.setBundle n (f (s.bundle n)) := rfl
@[simp] theorem updSectorClk_eq (n : Nat) (f : SectorClk → SectorClk) : s.updSectorClk n f = s.setSectorClk n (f (s.sectorClk n)) := rfl

/-! ## Host memory, free values -/

@[simp] theorem hostWrite_pending (i bus : Nat) (bs : List Byte) : (s.hostWrite i bus bs).pending = s.pending := by unfold State.hostWrite; split <;> rfl
@[simp] theorem hostWrite_clock (i bus : Nat) (bs : List Byte) : (s.hostWrite i bus bs).clock = s.clock := by unfold State.hostWrite; split <;> rfl
@[simp] theorem hostWrite_out (i bus : Nat) (bs : List Byte) : (s.hostWrite i bus bs).out = s.out := by unfold State.hostWrite; split <;> rfl
@[simp] theorem hostWrite_cad (i bus : Nat) (bs : List Byte) : (s.hostWrite i bus bs).cad = s.cad := by unfold State.hostWrite; split <;> rfl
@[simp] theorem hostWrite_host (i bus : Nat) (bs : List Byte) : (s.hostWrite i bus bs).host = s.host := by unfold State.hostWrite; split <;> rfl
@[simp] theorem hostWrite_dport (i bus : Nat) (bs : List Byte) : (s.hostWrite i bus bs).dport = s.dport := by unfold State.hostWrite; split <;> rfl
@[simp] theorem hostWrite_insts (i bus : Nat) (bs : List Byte) : (s.hostWrite i bus bs).insts = s.insts := by unfold State.hostWrite; split <;> rfl
@[simp] theorem hostWrite_cores (i bus : Nat) (bs : List Byte) : (s.hostWrite i bus bs).cores = s.cores := by unfold State.hostWrite; split <;> rfl
@[simp] theorem hostWrite_clusters (i bus : Nat) (bs : List Byte) : (s.hostWrite i bus bs).clusters = s.clusters := by unfold State.hostWrite; split <;> rfl
@[simp] theorem hostWrite_launches (i bus : Nat) (bs : List Byte) : (s.hostWrite i bus bs).launches = s.launches := by unfold State.hostWrite; split <;> rfl
@[simp] theorem hostWrite_tlb (i bus : Nat) (bs : List Byte) : (s.hostWrite i bus bs).tlb = s.tlb := by unfold State.hostWrite; split <;> rfl
@[simp] theorem hostWrite_slices (i bus : Nat) (bs : List Byte) : (s.hostWrite i bus bs).slices = s.slices := by unfold State.hostWrite; split <;> rfl
@[simp] theorem hostWrite_llc (i bus : Nat) (bs : List Byte) : (s.hostWrite i bus bs).llc = s.llc := by unfold State.hostWrite; split <;> rfl
@[simp] theorem hostWrite_hbm (i bus : Nat) (bs : List Byte) : (s.hostWrite i bus bs).hbm = s.hbm := by unfold State.hostWrite; split <;> rfl
@[simp] theorem hostWrite_seq (i bus : Nat) (bs : List Byte) : (s.hostWrite i bus bs).seq = s.seq := by unfold State.hostWrite; split <;> rfl
@[simp] theorem hostWrite_ael (i bus : Nat) (bs : List Byte) : (s.hostWrite i bus bs).ael = s.ael := by unfold State.hostWrite; split <;> rfl
@[simp] theorem hostWrite_d2d (i bus : Nat) (bs : List Byte) : (s.hostWrite i bus bs).d2d = s.d2d := by unfold State.hostWrite; split <;> rfl
@[simp] theorem hostWrite_foehn (i bus : Nat) (bs : List Byte) : (s.hostWrite i bus bs).foehn = s.foehn := by unfold State.hostWrite; split <;> rfl
@[simp] theorem hostWrite_therm (i bus : Nat) (bs : List Byte) : (s.hostWrite i bus bs).therm = s.therm := by unfold State.hostWrite; split <;> rfl
@[simp] theorem hostWrite_err (i bus : Nat) (bs : List Byte) : (s.hostWrite i bus bs).err = s.err := by unfold State.hostWrite; split <;> rfl
@[simp] theorem hostWrite_sec (i bus : Nat) (bs : List Byte) : (s.hostWrite i bus bs).sec = s.sec := by unfold State.hostWrite; split <;> rfl
@[simp] theorem hostWrite_boot (i bus : Nat) (bs : List Byte) : (s.hostWrite i bus bs).boot = s.boot := by unfold State.hostWrite; split <;> rfl
@[simp] theorem hostWrite_bist (i bus : Nat) (bs : List Byte) : (s.hostWrite i bus bs).bist = s.bist := by unfold State.hostWrite; split <;> rfl
@[simp] theorem hostWrite_pers (i bus : Nat) (bs : List Byte) : (s.hostWrite i bus bs).pers = s.pers := by unfold State.hostWrite; split <;> rfl
@[simp] theorem hostWrite_fuses (i bus : Nat) (bs : List Byte) : (s.hostWrite i bus bs).fuses = s.fuses := by unfold State.hostWrite; split <;> rfl
@[simp] theorem hostWrite_board (i bus : Nat) (bs : List Byte) : (s.hostWrite i bus bs).board = s.board := by unfold State.hostWrite; split <;> rfl
@[simp] theorem hostWrite_drains (i bus : Nat) (bs : List Byte) : (s.hostWrite i bus bs).drains = s.drains := by unfold State.hostWrite; split <;> rfl
@[simp] theorem hostWrite_latch (i bus : Nat) (bs : List Byte) : (s.hostWrite i bus bs).latch = s.latch := by unfold State.hostWrite; split <;> rfl
@[simp] theorem draw_pending : s.draw.2.pending = s.pending := rfl
@[simp] theorem draw_out : s.draw.2.out = s.out := rfl
@[simp] theorem draw_cad : s.draw.2.cad = s.cad := rfl
@[simp] theorem draw_host : s.draw.2.host = s.host := rfl
@[simp] theorem draw_dport : s.draw.2.dport = s.dport := rfl
@[simp] theorem draw_insts : s.draw.2.insts = s.insts := rfl
@[simp] theorem draw_cores : s.draw.2.cores = s.cores := rfl
@[simp] theorem draw_clusters : s.draw.2.clusters = s.clusters := rfl
@[simp] theorem draw_launches : s.draw.2.launches = s.launches := rfl
@[simp] theorem draw_mem : s.draw.2.mem = s.mem := rfl
@[simp] theorem draw_tlb : s.draw.2.tlb = s.tlb := rfl
@[simp] theorem draw_slices : s.draw.2.slices = s.slices := rfl
@[simp] theorem draw_llc : s.draw.2.llc = s.llc := rfl
@[simp] theorem draw_hbm : s.draw.2.hbm = s.hbm := rfl
@[simp] theorem draw_seq : s.draw.2.seq = s.seq := rfl
@[simp] theorem draw_ael : s.draw.2.ael = s.ael := rfl
@[simp] theorem draw_d2d : s.draw.2.d2d = s.d2d := rfl
@[simp] theorem draw_foehn : s.draw.2.foehn = s.foehn := rfl
@[simp] theorem draw_therm : s.draw.2.therm = s.therm := rfl
@[simp] theorem draw_err : s.draw.2.err = s.err := rfl
@[simp] theorem draw_sec : s.draw.2.sec = s.sec := rfl
@[simp] theorem draw_boot : s.draw.2.boot = s.boot := rfl
@[simp] theorem draw_bist : s.draw.2.bist = s.bist := rfl
@[simp] theorem draw_pers : s.draw.2.pers = s.pers := rfl
@[simp] theorem draw_fuses : s.draw.2.fuses = s.fuses := rfl
@[simp] theorem draw_board : s.draw.2.board = s.board := rfl
@[simp] theorem draw_drains : s.draw.2.drains = s.drains := rfl
@[simp] theorem draw_latch : s.draw.2.latch = s.latch := rfl

/-! ## Groups -/

/-- Reading a group after one has been written. -/
@[simp] theorem setGroup_group (g slot : Nat) (x : Group) (h k : Nat) :
    (s.setGroup g slot x).group h k = if h = g ∧ k = slot then some x else s.group h k := by
  unfold State.group State.setGroup
  rw [updCore_eq, setCore_core]
  by_cases hg : h = g
  · subst hg
    rw [if_pos rfl, NMap_find_ins]
    by_cases hk : k = slot <;> simp [hk]
  · simp [hg]

@[simp] theorem setGroup_pending (g slot : Nat) (x : Group) : (s.setGroup g slot x).pending = s.pending := rfl
@[simp] theorem setGroup_clock (g slot : Nat) (x : Group) : (s.setGroup g slot x).clock = s.clock := rfl
@[simp] theorem setGroup_out (g slot : Nat) (x : Group) : (s.setGroup g slot x).out = s.out := rfl
@[simp] theorem setGroup_cad (g slot : Nat) (x : Group) : (s.setGroup g slot x).cad = s.cad := rfl
@[simp] theorem setGroup_host (g slot : Nat) (x : Group) : (s.setGroup g slot x).host = s.host := rfl
@[simp] theorem setGroup_dport (g slot : Nat) (x : Group) : (s.setGroup g slot x).dport = s.dport := rfl
@[simp] theorem setGroup_insts (g slot : Nat) (x : Group) : (s.setGroup g slot x).insts = s.insts := rfl
@[simp] theorem setGroup_clusters (g slot : Nat) (x : Group) : (s.setGroup g slot x).clusters = s.clusters := rfl
@[simp] theorem setGroup_launches (g slot : Nat) (x : Group) : (s.setGroup g slot x).launches = s.launches := rfl
@[simp] theorem setGroup_mem (g slot : Nat) (x : Group) : (s.setGroup g slot x).mem = s.mem := rfl
@[simp] theorem setGroup_tlb (g slot : Nat) (x : Group) : (s.setGroup g slot x).tlb = s.tlb := rfl
@[simp] theorem setGroup_slices (g slot : Nat) (x : Group) : (s.setGroup g slot x).slices = s.slices := rfl
@[simp] theorem setGroup_llc (g slot : Nat) (x : Group) : (s.setGroup g slot x).llc = s.llc := rfl
@[simp] theorem setGroup_hbm (g slot : Nat) (x : Group) : (s.setGroup g slot x).hbm = s.hbm := rfl
@[simp] theorem setGroup_seq (g slot : Nat) (x : Group) : (s.setGroup g slot x).seq = s.seq := rfl
@[simp] theorem setGroup_ael (g slot : Nat) (x : Group) : (s.setGroup g slot x).ael = s.ael := rfl
@[simp] theorem setGroup_d2d (g slot : Nat) (x : Group) : (s.setGroup g slot x).d2d = s.d2d := rfl
@[simp] theorem setGroup_foehn (g slot : Nat) (x : Group) : (s.setGroup g slot x).foehn = s.foehn := rfl
@[simp] theorem setGroup_therm (g slot : Nat) (x : Group) : (s.setGroup g slot x).therm = s.therm := rfl
@[simp] theorem setGroup_err (g slot : Nat) (x : Group) : (s.setGroup g slot x).err = s.err := rfl
@[simp] theorem setGroup_sec (g slot : Nat) (x : Group) : (s.setGroup g slot x).sec = s.sec := rfl
@[simp] theorem setGroup_boot (g slot : Nat) (x : Group) : (s.setGroup g slot x).boot = s.boot := rfl
@[simp] theorem setGroup_bist (g slot : Nat) (x : Group) : (s.setGroup g slot x).bist = s.bist := rfl
@[simp] theorem setGroup_pers (g slot : Nat) (x : Group) : (s.setGroup g slot x).pers = s.pers := rfl
@[simp] theorem setGroup_fuses (g slot : Nat) (x : Group) : (s.setGroup g slot x).fuses = s.fuses := rfl
@[simp] theorem setGroup_board (g slot : Nat) (x : Group) : (s.setGroup g slot x).board = s.board := rfl
@[simp] theorem setGroup_drains (g slot : Nat) (x : Group) : (s.setGroup g slot x).drains = s.drains := rfl
@[simp] theorem setGroup_latch (g slot : Nat) (x : Group) : (s.setGroup g slot x).latch = s.latch := rfl
@[simp] theorem setGroup_inst (g slot : Nat) (x : Group) (j : Nat) : (s.setGroup g slot x).inst j = s.inst j := rfl
@[simp] theorem setGroup_cluster (g slot : Nat) (x : Group) (j : Nat) : (s.setGroup g slot x).cluster j = s.cluster j := rfl
@[simp] theorem setGroup_slice (g slot : Nat) (x : Group) (j : Nat) : (s.setGroup g slot x).slice j = s.slice j := rfl
@[simp] theorem setGroup_pch (g slot : Nat) (x : Group) (j : Nat) : (s.setGroup g slot x).pch j = s.pch j := rfl
@[simp] theorem setGroup_link (g slot : Nat) (x : Group) (j : Nat) : (s.setGroup g slot x).link j = s.link j := rfl
@[simp] theorem setGroup_bundle (g slot : Nat) (x : Group) (j : Nat) : (s.setGroup g slot x).bundle j = s.bundle j := rfl
@[simp] theorem setGroup_sectorClk (g slot : Nat) (x : Group) (j : Nat) : (s.setGroup g slot x).sectorClk j = s.sectorClk j := rfl
@[simp] theorem setGroup_sensor (g slot : Nat) (x : Group) (j : Nat) : (s.setGroup g slot x).sensor j = s.sensor j := rfl
@[simp] theorem setGroup_coll (g slot : Nat) (x : Group) (j : Nat) : (s.setGroup g slot x).coll j = s.coll j := rfl
@[simp] theorem setGroup_wset (g slot : Nat) (x : Group) (j : Nat) : (s.setGroup g slot x).wset j = s.wset j := rfl
@[simp] theorem setGroup_launch (g slot : Nat) (x : Group) (i idx : Nat) : (s.setGroup g slot x).launch i idx = s.launch i idx := rfl

end Sys2Proof.Machine
end

