-- ==== Sys2Proof/Laws/Groups.lean ====
section
/-! SUPPORT. What the issue of one instruction does to a group, said once for every instruction. -/

namespace Sys2Proof.Machine
open Sys2Proof

theorem setGroup_setGroup_core (s : State) (g slot : Nat) (x y : Group) (h : Nat) :
    ((s.setGroup g slot x).setGroup g slot y).core h =
      if h = g then { s.core g with slots := NMap.ins (NMap.ins (s.core g).slots slot x) slot y } else s.core h := by
  unfold State.setGroup; simp only [updCore_eq, setCore_core]; split <;> simp

/-- A legal word that its group issues has the effect of its row on the settled group. -/
theorem issue_eq {s : State} {core slot : Nat} {r : Row} {w w1 : Word} {x : Group} (h : Issues s core slot r w w1 x)
    (eff : State → Group → State) : s.issue core slot r w w1 eff = eff (s.atIssue core slot r w x) x := by
  obtain ⟨⟨⟨⟨_, _, ⟨x0, hg, hm, hs⟩, hp, ha, hf⟩, hr, hk⟩, hl⟩, hw⟩ := h
  have e1 : (s.setGroup core slot x).launchOf x = s.launchOf x := rfl
  have e2 : ((s.setGroup core slot x).core core).fetched x w w1 = (s.core core).fetched x w w1 := by
    simp [Core.fetched, Core.wordAt, State.setGroup]
  simp only [State.atWord] at hw
  simp only [State.issue, hg, hm, hs, hp, ha, hr, e1, e2, hf, hk, hl, State.atIssue, State.atWord]
  simp [hw]

/-- A word that its group has reached stays where it is while the instruction waits. -/
theorem wait_eq {s : State} {core slot : Nat} {r : Row} {w w1 : Word} {x : Group} (h : Reaches s core slot r w w1 x)
    (hw : (s.atWord core slot r w x).waits core slot x r w.toNat = true)
    (eff : State → Group → State) : s.issue core slot r w w1 eff = s.atWord core slot r w x := by
  obtain ⟨⟨⟨_, _, ⟨x0, hg, hm, hs⟩, hp, ha, hf⟩, hr, hk⟩, hl⟩ := h
  have e1 : (s.setGroup core slot x).launchOf x = s.launchOf x := rfl
  have e2 : ((s.setGroup core slot x).core core).fetched x w w1 = (s.core core).fetched x w w1 := by
    simp [Core.fetched, Core.wordAt, State.setGroup]
  simp only [State.atWord] at hw
  simp only [State.issue, hg, hm, hs, hp, ha, hr, e1, e2, hf, hk, hl, State.atWord]
  simp [hw]

theorem onGroup_eq {s : State} {core slot : Nat} {r : Row} {w w1 : Word} {x : Group} (h : Reaches s core slot r w w1 x)
    (t : State) : onGroup core slot t = .next t := by
  simp [onGroup, onUnit, h.1.1.1, h.1.1.2.1]

theorem sameBut_refl (s : State) (core slot : Nat) : SameBut s s core slot := ⟨rfl, fun _ _ => rfl, fun _ _ => rfl, rfl⟩

theorem sameBut_trans {s t u : State} {core slot : Nat} (h : SameBut s t core slot) (k : SameBut t u core slot) :
    SameBut s u core slot := by
  obtain ⟨h1, h2, h3, h4⟩ := h
  obtain ⟨k1, k2, k3, k4⟩ := k
  refine ⟨?_, fun g hg => (k2 g hg).trans (h2 g hg), fun j hj => (k3 j hj).trans (h3 j hj), ?_⟩
  · rw [k1, h1]
  · rw [k4, h4]

theorem sameBut_setGroup (s : State) (core slot : Nat) (x : Group) : SameBut s (s.setGroup core slot x) core slot := by
  refine ⟨rfl, fun g hg => ?_, fun k hk => by simp [hk], ?_⟩
  · simp [State.setGroup, hg]
  · simp [State.setGroup]

theorem sameBut_dropStaged (s : State) (core slot : Nat) : SameBut s (s.dropStaged core slot) core slot := by
  refine ⟨rfl, fun g hg => ?_, fun k _ => ?_, ?_⟩
  · simp [State.dropStaged, hg]
  · simp [State.dropStaged, State.group]
  · simp [State.dropStaged]

theorem sameBut_pick (s : State) (core slot k : Nat) (v : Bool) : SameBut s (s.pick core k v) core slot := by
  refine ⟨rfl, fun g hg => ?_, fun j _ => ?_, ?_⟩
  · simp [State.pick, hg]
  · simp [State.pick, State.group]
  · simp [State.pick]

theorem sameBut_atWord (s : State) (core slot : Nat) (r : Row) (w : Word) (x : Group) :
    SameBut s (s.atWord core slot r w x) core slot := by
  unfold State.atWord; split
  · exact sameBut_trans (sameBut_setGroup _ _ _ _) (sameBut_dropStaged _ _ _)
  · exact sameBut_setGroup _ _ _ _

/-- Up to an instruction's effect nothing changes but the group, the copies staged for it and the picks. -/
theorem sameBut_atIssue (s : State) (core slot : Nat) (r : Row) (w : Word) (x : Group) :
    SameBut s (s.atIssue core slot r w x) core slot := sameBut_trans (sameBut_atWord _ _ _ _ _ _) (sameBut_pick _ _ _ _ _)

theorem dropStaged_group (s : State) (core slot k : Nat) : (s.dropStaged core slot).group core k = s.group core k := by
  simp [State.dropStaged, State.group]

/-- The window of a group that issues gets shorter, and nothing else of the group changes (R63). -/
theorem tickWindow_spec {s : State} {core slot : Nat} {x : Group} (h : s.group core slot = some x) :
    (s.tickWindow core slot).group core slot = some { x with window := x.window - 1 } ∧
      SameBut s (s.tickWindow core slot) core slot := by
  simp only [State.tickWindow, h]
  split
  · rename_i hw; refine ⟨?_, sameBut_refl _ _ _⟩; rw [h, hw]; cases x; simp_all
  · split
    · exact ⟨by simp [dropStaged_group], sameBut_trans (sameBut_setGroup _ _ _ _) (sameBut_dropStaged _ _ _)⟩
    · exact ⟨by simp, sameBut_setGroup _ _ _ _⟩

/-- A group moved past n bytes. -/
theorem advance_spec {s : State} {core slot : Nat} {x : Group} (n : Nat) (h : s.group core slot = some x) :
    (s.advance core slot n).group core slot = some { x with pc := x.pc + BitVec.ofNat 64 n, window := x.window - 1 } ∧
      SameBut s (s.advance core slot n) core slot := by
  have e : s.advance core slot n = (s.setGroup core slot { x with pc := x.pc + BitVec.ofNat 64 n }).tickWindow core slot := by
    simp only [State.advance, State.updGroup, h]
  rw [e]
  have t := tickWindow_spec (s := s.setGroup core slot { x with pc := x.pc + BitVec.ofNat 64 n }) (core := core) (slot := slot)
    (x := { x with pc := x.pc + BitVec.ofNat 64 n }) (by simp)
  exact ⟨t.1, sameBut_trans (sameBut_setGroup _ _ _ _) t.2⟩

/-- A group replaced and moved past n bytes. -/
theorem stepGroup_spec (s : State) (core slot n : Nat) (x : Group) :
    (s.stepGroup core slot n x).group core slot = some { x with pc := x.pc + BitVec.ofNat 64 n, window := x.window - 1 } ∧
      SameBut s (s.stepGroup core slot n x) core slot := by
  have t := advance_spec (s := s.setGroup core slot x) (core := core) (slot := slot) (x := x) n (by simp)
  exact ⟨t.1, sameBut_trans (sameBut_setGroup _ _ _ _) t.2⟩

/-! ## Registers -/

@[simp] theorem setS_s (x : Group) (d r : Nat) (v : Word) : (x.setS d v).s r = if r = d then v else x.s r :=
  NMap_at_put _ _ _ _ _

theorem setS_eta (x : Group) (d : Nat) (v : Word) : x.setS d v = { x with sregs := (x.setS d v).sregs } := rfl

@[simp] theorem setK_k (x : Group) (d r : Nat) (v : BitVec 32) :
    (x.setK d v).k r = if r = d ∧ d ≠ 0 then v else x.k r := by
  unfold Group.setK Group.k
  by_cases hd : d = 0
  · simp [hd]
  · by_cases hr : r = 0
    · have : ¬ (0 = d) := fun h => hd h.symm
      simp [hr, hd, this]
    · simp only [hd, if_false, hr, NMap_at_put, ne_eq, not_false_eq_true, and_true]

theorem setK_eta (x : Group) (d : Nat) (v : BitVec 32) : x.setK d v = { x with kregs := (x.setK d v).kregs } := by
  unfold Group.setK; split <;> rfl

@[simp] theorem setV_v (x : Group) (d l r i : Nat) (v : Elem) (hl : l < 32) (hi : i < 32) :
    (x.setV d l v).v r i = if r = d ∧ i = l then v else x.v r i := by
  unfold Group.setV Group.v
  simp only [NMap_at_put]
  have : (32 * r + i = 32 * d + l) ↔ (r = d ∧ i = l) := by omega
  simp only [this]

theorem setVN_eta (n : Nat) : ∀ (x : Group) (d l v : Nat), x.setVN d l n v = { x with vregs := (x.setVN d l n v).vregs } := by
  induction n with
  | zero => intro x d l v; rfl
  | succ n ih => intro x d l v; simp only [Group.setVN]; rw [ih]; rfl

/-- A value written to n registers of a lane: register d + k holds its k-th 32 bits. -/
theorem setVN_v (n : Nat) : ∀ (x : Group) (d l v r i : Nat), l < 32 → i < 32 →
    (x.setVN d l n v).v r i =
      if i = l ∧ d ≤ r ∧ r < d + n then BitVec.ofNat 32 (v / 2 ^ (32 * (r - d))) else x.v r i := by
  induction n with
  | zero => intro x d l v r i _ _; simp only [Group.setVN]; rw [if_neg (by omega)]
  | succ n ih =>
    intro x d l v r i hl hi
    simp only [Group.setVN]
    rw [ih _ _ _ _ _ _ hl hi, setV_v _ _ _ _ _ _ hl hi]
    by_cases hil : i = l
    · subst hil
      by_cases hr : r = d
      · subst hr; simp
      · by_cases h2 : d + 1 ≤ r ∧ r < d + 1 + n
        · have h3 : d ≤ r ∧ r < d + (n + 1) := by omega
          have h4 : r - d = (r - (d + 1)) + 1 := by omega
          simp only [h2, h3, and_self, if_true]
          rw [h4, Nat.mul_add, Nat.pow_add, Nat.mul_one, Nat.mul_comm (2 ^ _), ← Nat.div_div_eq_div_mul]
        · have h3 : ¬ (d ≤ r ∧ r < d + (n + 1)) := by omega
          rw [if_neg (fun h => h2 h.2), if_neg (fun h => hr h.1), if_neg (fun h => h3 h.2)]
    · simp [hil]

theorem foldLanes_eta (g : Group → Nat → Group) (hg : ∀ y i, g y i = { y with vregs := (g y i).vregs }) (l : List Nat) :
    ∀ x : Group, l.foldl g x = { x with vregs := (l.foldl g x).vregs } := by
  induction l with
  | nil => intro x; rfl
  | cons i l ih => intro x; simp only [List.foldl_cons]; rw [ih, hg]

/-- A function of each lane of a list written to n registers: the lanes of the list hold it, the others what they held. -/
theorem foldLanes_v (d n : Nat) (f : Nat → Nat) (l : List Nat) (hl : ∀ i ∈ l, i < 32) :
    ∀ (x : Group) (r i : Nat), i < 32 → (l.foldl (fun y i => y.setVN d i n (f i)) x).v r i =
      if i ∈ l ∧ d ≤ r ∧ r < d + n then BitVec.ofNat 32 (f i / 2 ^ (32 * (r - d))) else x.v r i := by
  induction l with
  | nil => intro x r i _; simp
  | cons j l ih =>
    intro x r i hi
    simp only [List.foldl_cons]
    rw [ih (fun i h => hl i (List.mem_cons_of_mem _ h)) _ _ _ hi, setVN_v _ _ _ _ _ _ _ (hl j (by simp)) hi]
    by_cases hj : i = j
    · subst hj
      by_cases hr : d ≤ r ∧ r < d + n <;> simp [hr]
    · simp [hj]

theorem lanes_lt (x : Group) (km : Nat) : ∀ i ∈ x.lanes km, i < 32 := by
  intro i h; simp only [Group.lanes, bitsOf, List.mem_filter, List.mem_range] at h; exact h.1

/-! ## The three shapes of a result -/

theorem writesScalar_of {i : Instr} {s u : State} {core slot : Nat} {x : Group} {d : Nat} {v : Word} (hu : SameBut s u core slot)
    (h : exec i s = .next (u.stepGroup core slot 8 (x.setS d v))) :
    WritesScalar i s core slot x d v := by
  have t := stepGroup_spec u core slot 8 (x.setS d v)
  exact ⟨_, _, h, t.1, rfl, fun r => setS_s x d r v, rfl, sameBut_trans hu t.2⟩

theorem writesMask_of {i : Instr} {s u : State} {core slot : Nat} {x : Group} {d : Nat} {v : BitVec 32} (hu : SameBut s u core slot)
    (h : exec i s = .next (u.stepGroup core slot 8 (x.setK d v))) :
    WritesMask i s core slot x d v := by
  have t := stepGroup_spec u core slot 8 (x.setK d v)
  have hk := fun r => setK_k x d r v
  revert h t hk
  generalize hz : x.setK d v = z
  obtain ⟨kr, rfl⟩ : ∃ kr, z = { x with kregs := kr } := ⟨_, by rw [← hz]; exact setK_eta x d v⟩
  intro h t hk
  exact ⟨_, _, h, t.1, rfl, fun r => hk r, rfl, sameBut_trans hu t.2⟩

theorem writesLanes_of {i : Instr} {s u : State} {core slot : Nat} {x y : Group} {lanes : List Nat} {d n : Nat} {f : Nat → Nat}
    (hu : SameBut s u core slot) (hl : ∀ i ∈ lanes, i < 32) (hy : y = (lanes.foldl (fun y i => y.setVN d i n (f i)) x).wrote lanes d n)
    (h : exec i s = .next (u.stepGroup core slot 8 y)) :
    WritesLanes i s core slot x lanes d n f := by
  have hv := foldLanes_v d n f lanes hl x
  have e := foldLanes_eta (fun y i => y.setVN d i n (f i)) (fun y i => setVN_eta n y d i (f i)) lanes x
  obtain ⟨vr, hvr⟩ : ∃ vr, lanes.foldl (fun y i => y.setVN d i n (f i)) x = { x with vregs := vr } := ⟨_, e⟩
  rw [hvr] at hy hv
  subst hy
  have t := stepGroup_spec u core slot 8 (({ x with vregs := vr } : Group).wrote lanes d n)
  exact ⟨_, _, h, t.1, rfl, fun r l hlt => hv r l hlt, rfl, sameBut_trans hu t.2⟩

/-- A write of one lane replaces no granule whole. -/
theorem wrote_one (x : Group) (l d : Nat) : x.wrote [l] d 1 = x := by
  have h : ∀ k, ((List.range 4).all fun i => [l].contains (4 * (k % 8) + i)) = false := by
    intro k
    simp only [List.all_eq_false, List.mem_range]
    by_cases h0 : 4 * (k % 8) = l
    · exact ⟨1, by omega, by simp; omega⟩
    · exact ⟨0, by omega, by simp; omega⟩
  simp only [Group.wrote, h, Bool.and_false, Bool.not_false, List.filter_true]

end Sys2Proof.Machine
end

