-- ==== Sys2Proof/Laws/Memory.lean ====
section
/-! SUPPORT. Memory stays in its canonical form: what it takes for one state, one outcome. -/

namespace Sys2Proof.Machine
open Sys2Proof

/-- The memory of a state is in its canonical form. -/
def MemOk (s : State) : Prop := Mem.wf s.mem
/-- Where a command completes, memory is in its canonical form. -/
def OutOk (o : Out) : Prop := ∀ t, o = .next t → MemOk t
def OptOk (o : Option State) : Prop := ∀ t, o = some t → MemOk t

theorem memOk_mem (s : State) (h : MemOk s) : Mem.wf s.mem := h
theorem memOk_mk (pending_ : List Instr) (clock_ : Clock) (out_ : List OutMsg) (cad_ : Cad) (host_ : HostPort) (dport_ : DPort) (insts_ : NMap Inst) (cores_ : NMap Core) (clusters_ : NMap Cluster) (launches_ : List Launch) (mem_ : Mem) (tlb_ : List TlbEntry) (slices_ : NMap Slice) (llc_ : Llc) (hbm_ : Hbm) (seq_ : Seq) (ael_ : Ael) (d2d_ : D2d) (foehn_ : Foehn) (therm_ : Therm) (err_ : Err) (sec_ : Sec) (boot_ : Boot) (bist_ : Bist) (pers_ : Pers) (fuses_ : Fuses) (board_ : Board) (drains_ : List Drain) (latch_ : Latch) :
    MemOk (State.mk pending_ clock_ out_ cad_ host_ dport_ insts_ cores_ clusters_ launches_ mem_ tlb_ slices_ llc_ hbm_ seq_ ael_ d2d_ foehn_ therm_ err_ sec_ boot_ bist_ pers_ fuses_ board_ drains_ latch_) = Mem.wf mem_ := rfl
theorem memOk_ite (c : Prop) [Decidable c] (a b : State) (ha : MemOk a) (hb : MemOk b) : MemOk (if c then a else b) := by
  split <;> assumption
theorem memOk_ite2 {α : Type} (c : Prop) [Decidable c] (a b : α × State) (ha : MemOk a.2) (hb : MemOk b.2) :
    MemOk (if c then a else b).2 := by split <;> assumption
theorem memOk_eqP {α : Type} {p : α × Progress} {a : α} {q : Progress} (e : p = (a, q)) (h : MemOk p.2.s) : MemOk q.s := by rw [e] at h; exact h
theorem memOk_eqQ {α : Type} {p : Progress × α} {a : α} {q : Progress} (e : p = (q, a)) (h : MemOk p.1.s) : MemOk q.s := by rw [e] at h; exact h
theorem memOk_ofOut (t : State) (h : OutOk (.next t)) : MemOk t := h t rfl
theorem memOk_ite1 {α : Type} (c : Prop) [Decidable c] (a b : State × α) (ha : MemOk a.1) (hb : MemOk b.1) :
    MemOk (if c then a else b).1 := by split <;> assumption
theorem memOk_ite3 {α β : Type} (c : Prop) [Decidable c] (a b : α × β × State) (ha : MemOk a.2.2) (hb : MemOk b.2.2) :
    MemOk (if c then a else b).2.2 := by split <;> assumption
theorem memOk_iteS (c : Prop) [Decidable c] (a b : Progress) (ha : MemOk a.s) (hb : MemOk b.s) :
    MemOk (if c then a else b).s := by split <;> assumption
theorem memOk_ite2S {α : Type} (c : Prop) [Decidable c] (a b : α × Progress) (ha : MemOk a.2.s) (hb : MemOk b.2.s) :
    MemOk (if c then a else b).2.s := by split <;> assumption
theorem memOk_foldl3 {α β γ : Type} (f : β × γ × State → α → β × γ × State) (l : List α) (s : β × γ × State)
    (hf : ∀ s a, MemOk s.2.2 → MemOk (f s a).2.2) (h : MemOk s.2.2) : MemOk (l.foldl f s).2.2 := by
  induction l generalizing s with
  | nil => exact h
  | cons a l ih => exact ih _ (hf s a h)
theorem memOk_foldlS {α : Type} (f : Progress → α → Progress) (l : List α) (s : Progress)
    (hf : ∀ s a, MemOk s.s → MemOk (f s a).s) (h : MemOk s.s) : MemOk (l.foldl f s).s := by
  induction l generalizing s with
  | nil => exact h
  | cons a l ih => exact ih _ (hf s a h)
theorem memOk_foldlP {α β : Type} (f : Progress × β → α → Progress × β) (l : List α) (s : Progress × β)
    (hf : ∀ s a, MemOk s.1.s → MemOk (f s a).1.s) (h : MemOk s.1.s) : MemOk (l.foldl f s).1.s := by
  induction l generalizing s with
  | nil => exact h
  | cons a l ih => exact ih _ (hf s a h)
theorem memOk_foldr {α : Type} (f : α → State → State) (l : List α) (s : State) (hf : ∀ a s, MemOk s → MemOk (f a s)) (h : MemOk s) :
    MemOk (l.foldr f s) := by
  induction l with
  | nil => exact h
  | cons a l ih => exact hf a _ ih
theorem optOk_map {α : Type} (f : α → State) (o : Option α) (h : ∀ a, MemOk (f a)) : OptOk (o.map f) := by
  intro t e
  cases o with
  | none => cases e
  | some a => cases e; exact h a
theorem optOk_findSome {α : Type} (f : α → Option State) (l : List α) (h : ∀ a, OptOk (f a)) : OptOk (l.findSome? f) := by
  intro t e
  obtain ⟨a, _, ha⟩ := List.exists_of_findSome?_eq_some e
  exact h a t ha
theorem memOk_eq2 {α : Type} {p : α × State} {a : α} {t : State} (e : p = (a, t)) (h : MemOk p.2) : MemOk t := by rw [e] at h; exact h
theorem memOk_eq3 {α β : Type} {p : α × β × State} {a : α} {b : β} {t : State} (e : p = (a, b, t)) (h : MemOk p.2.2) : MemOk t := by
  rw [e] at h; exact h
theorem memOk_eq1 {α : Type} {p : State × α} {a : α} {t : State} (e : p = (t, a)) (h : MemOk p.1) : MemOk t := by rw [e] at h; exact h
theorem memOk_eqO {o : Option State} {t : State} (e : o = some t) (h : OptOk o) : MemOk t := h t e
theorem memOk_default : MemOk default := ⟨⟨List.Pairwise.nil, fun _ h => nomatch h⟩, ⟨List.Pairwise.nil, fun _ h => nomatch h⟩⟩
theorem memOk_foldl {α : Type} (f : State → α → State) (l : List α) (s : State) (hf : ∀ s a, MemOk s → MemOk (f s a)) (h : MemOk s) :
    MemOk (l.foldl f s) := by
  induction l generalizing s with
  | nil => exact h
  | cons a l ih => exact ih _ (hf s a h)
theorem memOk_foldl2 {α β : Type} (f : β × State → α → β × State) (l : List α) (s : β × State) (hf : ∀ s a, MemOk s.2 → MemOk (f s a).2)
    (h : MemOk s.2) : MemOk (l.foldl f s).2 := by
  induction l generalizing s with
  | nil => exact h
  | cons a l ih => exact ih _ (hf s a h)
theorem outOk_next (s : State) (h : MemOk s) : OutOk (.next s) := by intro t e; cases e; exact h
theorem outOk_ite (c : Prop) [Decidable c] (a b : Out) (ha : OutOk a) (hb : OutOk b) : OutOk (if c then a else b) := by split <;> assumption
theorem outOk_onUnit (b : Bool) (s : State) (h : MemOk s) : OutOk (onUnit b s) := by
  unfold onUnit; split
  · exact outOk_next s h
  · intro t e; cases e
theorem outOk_fault (f : Fault) : OutOk (.fault f) := by intro t e; cases e
theorem optOk_some (s : State) (h : MemOk s) : OptOk (some s) := by intro t e; cases e; exact h
theorem optOk_none : OptOk none := by intro t e; cases e
theorem optOk_ite (c : Prop) [Decidable c] (a b : Option State) (ha : OptOk a) (hb : OptOk b) : OptOk (if c then a else b) := by split <;> assumption
/-- What an answer with a state leaves, where there is one. -/
def OptOk2 {α : Type} (o : Option (α × State)) : Prop := ∀ p, o = some p → MemOk p.2
theorem optOk2_some {α : Type} (p : α × State) (h : MemOk p.2) : OptOk2 (some p) := by intro q e; cases e; exact h
theorem optOk2_none {α : Type} : OptOk2 (none : Option (α × State)) := by intro q e; cases e
theorem memOk_eqO2 {α : Type} {o : Option (α × State)} {a : α} {t : State} (e : o = some (a, t)) (h : OptOk2 o) : MemOk t := h _ e
/-- The same of an answer with two results beside the state. -/
def OptOk3 {α β : Type} (o : Option (α × β × State)) : Prop := ∀ p, o = some p → MemOk p.2.2
theorem optOk3_some {α β : Type} (p : α × β × State) (h : MemOk p.2.2) : OptOk3 (some p) := by intro q e; cases e; exact h
theorem optOk3_none {α β : Type} : OptOk3 (none : Option (α × β × State)) := by intro q e; cases e
theorem memOk_eqO3 {α β : Type} {o : Option (α × β × State)} {a : α} {b : β} {t : State} (e : o = some (a, b, t)) (h : OptOk3 o) : MemOk t := h _ e
theorem optOk_map2 {α : Type} (f : α × State → State) (o : Option (α × State)) (h : OptOk2 o)
    (hf : ∀ p : α × State, MemOk p.2 → MemOk (f p)) : OptOk (o.map f) := by
  intro t e
  cases o with
  | none => cases e
  | some p => cases e; exact hf p (h p rfl)
theorem memOk_getD (o : Option State) (s : State) (h : OptOk o) (hs : MemOk s) : MemOk (o.getD s) := by
  cases o with
  | none => exact hs
  | some t => exact h t rfl
theorem optOk2_map {α β : Type} (f : β × State → α × State) (o : Option (β × State)) (h : OptOk2 o)
    (hf : ∀ p : β × State, MemOk p.2 → MemOk (f p).2) : OptOk2 (o.map f) := by
  intro p e
  cases o with
  | none => cases e
  | some q => cases e; exact hf q (h q rfl)
theorem optOk2_foldBind {α β : Type} (f : β × State → α → Option (β × State)) (l : List α) (o : Option (β × State)) (h : OptOk2 o)
    (hf : ∀ (p : β × State) a, MemOk p.2 → OptOk2 (f p a)) : OptOk2 (l.foldl (fun acc k => acc.bind (fun x => f x k)) o) := by
  induction l generalizing o with
  | nil => exact h
  | cons a l ih =>
    apply ih
    cases o with
    | none => exact optOk2_none
    | some q => exact hf q a (h q rfl)

theorem keep_State_reset : MemOk (State.reset) := by
  exact ⟨⟨List.Pairwise.nil, fun _ h => nomatch h⟩, ⟨List.Pairwise.nil, fun _ h => nomatch h⟩⟩

theorem keep_onUnit (x0 : Bool) (x1 : State) (h1 : MemOk x1) :
    OutOk (onUnit x0 x1) := by
  unfold onUnit
  with_reducible repeat' first
    | assumption | apply outOk_next | apply outOk_ite | apply outOk_fault

theorem keep_State_setInst (x0 : State) (x1 : ℕ) (x2 : Inst) (h0 : MemOk x0) :
    MemOk (State.setInst x0 x1 x2) := by
  unfold State.setInst
  with_reducible repeat' first
    | assumption | apply memOk_mem | ((conv => arg 1; arg 25); rw [memOk_mk])

theorem keep_State_updInst (x0 : State) (x1 : ℕ) (x2 : Inst → Inst) (h0 : MemOk x0) :
    MemOk (State.updInst x0 x1 x2) := by
  unfold State.updInst
  with_reducible repeat' first
    | assumption | apply keep_State_setInst

theorem keep_State_setCore (x0 : State) (x1 : ℕ) (x2 : Core) (h0 : MemOk x0) :
    MemOk (State.setCore x0 x1 x2) := by
  unfold State.setCore
  with_reducible repeat' first
    | assumption | apply memOk_mem | ((conv => arg 1; arg 25); rw [memOk_mk])

theorem keep_State_updCore (x0 : State) (x1 : ℕ) (x2 : Core → Core) (h0 : MemOk x0) :
    MemOk (State.updCore x0 x1 x2) := by
  unfold State.updCore
  with_reducible repeat' first
    | assumption | apply keep_State_setCore

theorem keep_State_setCluster (x0 : State) (x1 : ℕ) (x2 : Cluster) (h0 : MemOk x0) :
    MemOk (State.setCluster x0 x1 x2) := by
  unfold State.setCluster
  with_reducible repeat' first
    | assumption | apply memOk_mem | ((conv => arg 1; arg 25); rw [memOk_mk])

theorem keep_State_updCluster (x0 : State) (x1 : ℕ) (x2 : Cluster → Cluster) (h0 : MemOk x0) :
    MemOk (State.updCluster x0 x1 x2) := by
  unfold State.updCluster
  with_reducible repeat' first
    | assumption | apply keep_State_setCluster

theorem keep_State_setSlice (x0 : State) (x1 : ℕ) (x2 : Slice) (h0 : MemOk x0) :
    MemOk (State.setSlice x0 x1 x2) := by
  unfold State.setSlice
  with_reducible repeat' first
    | assumption | apply memOk_mem | ((conv => arg 1; arg 25); rw [memOk_mk])

theorem keep_State_updSlice (x0 : State) (x1 : ℕ) (x2 : Slice → Slice) (h0 : MemOk x0) :
    MemOk (State.updSlice x0 x1 x2) := by
  unfold State.updSlice
  with_reducible repeat' first
    | assumption | apply keep_State_setSlice

theorem keep_State_setPch (x0 : State) (x1 : ℕ) (x2 : Pch) (h0 : MemOk x0) :
    MemOk (State.setPch x0 x1 x2) := by
  unfold State.setPch
  with_reducible repeat' first
    | assumption | apply memOk_mem | ((conv => arg 1; arg 25); rw [memOk_mk])

theorem keep_State_updPch (x0 : State) (x1 : ℕ) (x2 : Pch → Pch) (h0 : MemOk x0) :
    MemOk (State.updPch x0 x1 x2) := by
  unfold State.updPch
  with_reducible repeat' first
    | assumption | apply keep_State_setPch

theorem keep_State_setLink (x0 : State) (x1 : ℕ) (x2 : Link) (h0 : MemOk x0) :
    MemOk (State.setLink x0 x1 x2) := by
  unfold State.setLink
  with_reducible repeat' first
    | assumption | apply memOk_mem | ((conv => arg 1; arg 25); rw [memOk_mk])

theorem keep_State_updLink (x0 : State) (x1 : ℕ) (x2 : Link → Link) (h0 : MemOk x0) :
    MemOk (State.updLink x0 x1 x2) := by
  unfold State.updLink
  with_reducible repeat' first
    | assumption | apply keep_State_setLink

theorem keep_State_setBundle (x0 : State) (x1 : ℕ) (x2 : Bundle) (h0 : MemOk x0) :
    MemOk (State.setBundle x0 x1 x2) := by
  unfold State.setBundle
  with_reducible repeat' first
    | assumption | apply memOk_mem | ((conv => arg 1; arg 25); rw [memOk_mk])

theorem keep_State_updBundle (x0 : State) (x1 : ℕ) (x2 : Bundle → Bundle) (h0 : MemOk x0) :
    MemOk (State.updBundle x0 x1 x2) := by
  unfold State.updBundle
  with_reducible repeat' first
    | assumption | apply keep_State_setBundle

theorem keep_State_setSectorClk (x0 : State) (x1 : ℕ) (x2 : SectorClk) (h0 : MemOk x0) :
    MemOk (State.setSectorClk x0 x1 x2) := by
  unfold State.setSectorClk
  with_reducible repeat' first
    | assumption | apply memOk_mem | ((conv => arg 1; arg 25); rw [memOk_mk])

theorem keep_State_updSectorClk (x0 : State) (x1 : ℕ) (x2 : SectorClk → SectorClk) (h0 : MemOk x0) :
    MemOk (State.updSectorClk x0 x1 x2) := by
  unfold State.updSectorClk
  with_reducible repeat' first
    | assumption | apply keep_State_setSectorClk

theorem keep_State_setSensor (x0 : State) (x1 : ℕ) (x2 : Sens) (h0 : MemOk x0) :
    MemOk (State.setSensor x0 x1 x2) := by
  unfold State.setSensor
  with_reducible repeat' first
    | assumption | apply memOk_mem | ((conv => arg 1; arg 25); rw [memOk_mk])

theorem keep_State_setColl (x0 : State) (x1 : ℕ) (x2 : Coll) (h0 : MemOk x0) :
    MemOk (State.setColl x0 x1 x2) := by
  unfold State.setColl
  with_reducible repeat' first
    | assumption | apply memOk_mem | ((conv => arg 1; arg 25); rw [memOk_mk])

theorem keep_State_setWset (x0 : State) (x1 : ℕ) (x2 : WSet) (h0 : MemOk x0) :
    MemOk (State.setWset x0 x1 x2) := by
  unfold State.setWset
  with_reducible repeat' first
    | assumption | apply memOk_mem | ((conv => arg 1; arg 25); rw [memOk_mk])

theorem keep_State_setLaunch (x0 : State) (x1 : Launch) (h0 : MemOk x0) :
    MemOk (State.setLaunch x0 x1) := by
  unfold State.setLaunch
  with_reducible repeat' first
    | assumption | apply memOk_mem | ((conv => arg 1; arg 25); rw [memOk_mk])

theorem keep_State_updLaunch (x0 : State) (x1 x2 : ℕ) (x3 : Launch → Launch) (h0 : MemOk x0) :
    MemOk (State.updLaunch x0 x1 x2 x3) := by
  unfold State.updLaunch
  repeat' first
    | with_reducible first
        | assumption | apply keep_State_setLaunch
    | split

theorem keep_State_setGroup (x0 : State) (x1 x2 : ℕ) (x3 : Group) (h0 : MemOk x0) :
    MemOk (State.setGroup x0 x1 x2 x3) := by
  unfold State.setGroup
  with_reducible repeat' first
    | assumption | apply keep_State_updCore

theorem keep_State_updGroup (x0 : State) (x1 x2 : ℕ) (x3 : Group → Group) (h0 : MemOk x0) :
    MemOk (State.updGroup x0 x1 x2 x3) := by
  unfold State.updGroup
  repeat' first
    | with_reducible first
        | assumption | apply keep_State_setGroup
    | split

theorem keep_State_send (x0 : State) (x1 : OutMsg) (h0 : MemOk x0) :
    MemOk (State.send x0 x1) := by
  unfold State.send
  with_reducible repeat' first
    | assumption | apply memOk_mem | ((conv => arg 1; arg 25); rw [memOk_mk])

theorem keep_State_draw (x0 : State) (h0 : MemOk x0) :
    MemOk (State.draw x0).2 := by
  unfold State.draw
  repeat' first
    | with_reducible first
        | assumption | apply memOk_mem | ((conv => arg 1; arg 25); rw [memOk_mk])
    | dsimp only

theorem keep_State_drawBytes (x0 : State) (x1 : ℕ) (h0 : MemOk x0) :
    MemOk (State.drawBytes x0 x1).2 := by
  unfold State.drawBytes
  repeat' first
    | with_reducible first
        | assumption | apply memOk_mem | ((conv => arg 1; arg 25); rw [memOk_mk])
    | dsimp only

theorem keep_State_draw256 (x0 : State) (h0 : MemOk x0) :
    MemOk (State.draw256 x0).2 := by
  unfold State.draw256
  repeat' first
    | with_reducible first
        | assumption | apply memOk_mem | ((conv => arg 1; arg 25); rw [memOk_mk])
    | dsimp only

theorem keep_State_hostWrite : ∀ (x0 : State) (x1 : ℕ) (x2 : ℕ) (x3 : List Byte), (MemOk (x0)) → MemOk (State.hostWrite x0 x1 x2 x3) := by
  intro x0 x1 x2 x3 h0
  unfold State.hostWrite
  apply memOk_ite
  · exact h0
  · exact ⟨h0.1, NMap_canon_putBytes x3 _ h0.2⟩

theorem keep_State_interrupt (x0 : State) (x1 : ℕ) (h0 : MemOk x0) :
    MemOk (State.interrupt x0 x1) := by
  unfold State.interrupt
  with_reducible repeat' first
    | assumption | apply keep_State_send | apply memOk_ite | apply memOk_mem | ((conv => arg 1; arg 25); rw [memOk_mk])

theorem keep_State_putRecord (x0 : State) (x1 : ℕ) (x2 : Record) (h0 : MemOk x0) :
    MemOk (State.putRecord x0 x1 x2) := by
  unfold State.putRecord
  with_reducible repeat' first
    | assumption | apply keep_State_hostWrite | apply keep_State_updInst | apply keep_State_interrupt | apply memOk_ite

theorem keep_State_event (x0 : State) (x1 : ℕ) (x2 : Record) (h0 : MemOk x0) :
    MemOk (State.event x0 x1 x2) := by
  unfold State.event
  with_reducible repeat' first
    | assumption | apply keep_State_updInst | apply keep_State_putRecord | apply memOk_ite

theorem keep_State_flushHeld : ∀ (x0 : ℕ) (x1 : State) (x2 : ℕ), (MemOk (x1)) → MemOk (State.flushHeld x0 x1 x2) := by
  intro x0
  induction x0 with
  | zero  =>
    intro x1 x2 h1
    unfold State.flushHeld
    repeat' first
      | with_reducible first
          | assumption | apply keep_State_putRecord | apply keep_State_updInst | apply memOk_ite | apply memOk_ite2
      | split
  | succ n ih =>
    intro x1 x2 h1
    unfold State.flushHeld
    repeat' first
      | with_reducible first
          | assumption | apply ih | apply keep_State_putRecord | apply keep_State_updInst | apply memOk_ite
      | dsimp only | split


theorem keep_State_eventLater (x0 : State) (x1 : ℕ) (x2 : Record) (h0 : MemOk x0) :
    MemOk (State.eventLater x0 x1 x2) := by
  unfold State.eventLater
  with_reducible repeat' first
    | assumption | apply keep_State_event | apply keep_State_updInst | apply memOk_ite

theorem keep_State_eventTo (x0 : State) (x1 : List ℕ) (x2 : Record) (h0 : MemOk x0) :
    MemOk (State.eventTo x0 x1 x2) := by
  unfold State.eventTo
  with_reducible repeat' first
    | assumption | intro _ | apply keep_State_event | apply memOk_foldl

theorem keep_State_log (x0 : State) (x1 : Record) (h0 : MemOk x0) :
    MemOk (State.log x0 x1) := by
  unfold State.log
  repeat' first
    | with_reducible first
        | assumption | apply memOk_mem | ((conv => arg 1; arg 25); rw [memOk_mk])
    | dsimp only

theorem keep_State_logCorrected (x0 : State) (x1 : BitVec 32) (x2 x3 : ℕ) (x4 x5 : ℕ) (h0 : MemOk x0) :
    MemOk (State.logCorrected x0 x1 x2 x3 x4 x5) := by
  unfold State.logCorrected
  repeat' first
    | with_reducible first
        | assumption | apply keep_State_log | apply memOk_mem | ((conv => arg 1; arg 25); rw [memOk_mk])
    | dsimp only | split

theorem keep_State_errRecord (x0 : State) (x1 x2 : ℕ) (x3 : BitVec 32) (x4 : ℕ) (x5 : List ℕ) (h0 : MemOk x0) :
    MemOk (State.errRecord x0 x1 x2 x3 x4 x5) := by
  unfold State.errRecord
  with_reducible repeat' first
    | assumption | intro _ | apply keep_State_eventTo | apply keep_State_log | apply keep_State_eventLater | apply memOk_ite | apply memOk_foldl

theorem keep_State_cqInterrupt (x0 : State) (x1 : ℕ) (h0 : MemOk x0) :
    MemOk (State.cqInterrupt x0 x1) := by
  unfold State.cqInterrupt
  with_reducible repeat' first
    | assumption | apply keep_State_interrupt | apply keep_State_updInst | apply memOk_ite

theorem keep_State_putCompletion (x0 : State) (x1 x2 : ℕ) (x3 x4 : ℕ) (x5 : Bool) (x6 : ℕ) (h0 : MemOk x0) :
    MemOk (State.putCompletion x0 x1 x2 x3 x4 x5 x6) := by
  unfold State.putCompletion
  with_reducible repeat' first
    | assumption | apply keep_State_hostWrite | apply keep_State_updInst | apply keep_State_cqInterrupt | apply memOk_ite

theorem keep_State_updEntry (x0 : State) (x1 x2 : ℕ) (x3 : Entry → Entry) (h0 : MemOk x0) :
    MemOk (State.updEntry x0 x1 x2 x3) := by
  unfold State.updEntry
  with_reducible repeat' first
    | assumption | apply keep_State_updInst

theorem keep_State_complete (x0 : State) (x1 x2 : ℕ) (x3 x4 : ℕ) (h0 : MemOk x0) :
    MemOk (State.complete x0 x1 x2 x3 x4) := by
  unfold State.complete
  repeat' first
    | with_reducible first
        | assumption | apply keep_State_updInst | apply keep_State_putCompletion | apply memOk_ite
    | dsimp only | split

theorem keep_State_hbmPut : ∀ (x0 : State) (x1 : ℕ) (x2 : Sector), (MemOk (x0)) → MemOk (State.hbmPut x0 x1 x2) := by
  intro x0 x1 x2 h0
  unfold State.hbmPut
  apply memOk_ite
  · exact h0
  · exact ⟨NMap_canon_putBytes _ _ h0.1, h0.2⟩

theorem keep_State_count (x0 : State) (x1 x2 : ℕ) (x3 x4 : ℕ) (h0 : MemOk x0) :
    MemOk (State.count x0 x1 x2 x3 x4) := by
  unfold State.count
  with_reducible repeat' first
    | assumption | apply keep_State_updSlice

theorem keep_State_hbmStore (x0 : State) (x1 x2 : ℕ) (x3 : Sector) (x4 : Bool) (h0 : MemOk x0) :
    MemOk (State.hbmStore x0 x1 x2 x3 x4) := by
  unfold State.hbmStore
  with_reducible repeat' first
    | assumption | apply keep_State_hbmPut | apply keep_State_updPch | apply memOk_ite | apply memOk_mem | ((conv => arg 1; arg 25); rw [memOk_mk])

theorem keep_State_startRestore (x0 : State) (x1 : Nat) (x2 : Bool) (h0 : MemOk x0) :
    MemOk (State.startRestore x0 x1 x2) := by
  unfold State.startRestore
  repeat' first
    | with_reducible first
        | assumption | intro _
        | apply memOk_ite | apply memOk_foldl | apply memOk_mem | ((conv => arg 1; arg 25); rw [memOk_mk])
        | refine memOk_eq2 (by assumption) ?_ | refine memOk_eq1 (by assumption) ?_ | refine memOk_eq3 (by assumption) ?_
        | refine memOk_eqO (by assumption) ?_ | refine memOk_eqO2 (by assumption) ?_
    | dsimp only | split

theorem keep_State_mendSector (x0 : State) (x1 : Nat) (x2 : Sector) (h0 : MemOk x0) :
    MemOk (State.mendSector x0 x1 x2) := by
  unfold State.mendSector
  repeat' first
    | with_reducible first
        | assumption | intro _ | apply keep_State_startRestore
        | apply memOk_ite | apply memOk_foldl | apply memOk_mem | ((conv => arg 1; arg 25); rw [memOk_mk])
    | dsimp only | split

theorem keep_State_askSector (x0 : State) (x1 : Nat) (x2 : Nat) (x3 : Nat) (x4 : Prio) (h0 : MemOk x0) :
    MemOk (State.askSector x0 x1 x2 x3 x4) := by
  unfold State.askSector
  repeat' first
    | with_reducible first
        | assumption | intro _ | apply keep_State_updPch
        | apply memOk_ite | apply memOk_foldl | apply memOk_mem | ((conv => arg 1; arg 25); rw [memOk_mk])
        | refine memOk_eq2 (by assumption) ?_ | refine memOk_eq1 (by assumption) ?_ | refine memOk_eq3 (by assumption) ?_
        | refine memOk_eqO (by assumption) ?_ | refine memOk_eqO2 (by assumption) ?_
    | dsimp only | split

theorem keep_State_askMiss (x0 : State) (x1 : Acc) (x2 : Nat) (x3 : Nat) (x4 : Nat) (h0 : MemOk x0) :
    MemOk (State.askMiss x0 x1 x2 x3 x4) := by
  unfold State.askMiss
  repeat' first
    | with_reducible first
        | assumption | intro _ | apply keep_State_askSector
        | apply memOk_ite | apply memOk_foldl | apply memOk_mem | ((conv => arg 1; arg 25); rw [memOk_mk])
        | refine memOk_eq2 (by assumption) ?_ | refine memOk_eq1 (by assumption) ?_ | refine memOk_eq3 (by assumption) ?_
        | refine memOk_eqO (by assumption) ?_ | refine memOk_eqO2 (by assumption) ?_
    | dsimp only | split

theorem keep_State_llcEvict (x0 : State) (x1 : Nat) (x2 : LlcLine) (h0 : MemOk x0) :
    MemOk (State.llcEvict x0 x1 x2) := by
  unfold State.llcEvict
  repeat' first
    | with_reducible first
        | assumption | intro _ | apply keep_State_hbmStore | apply keep_State_mendSector | apply keep_State_updSlice
        | apply memOk_ite | apply memOk_foldl | apply memOk_mem | ((conv => arg 1; arg 25); rw [memOk_mk])
    | dsimp only | split

theorem keep_State_llcAlloc (x0 : State) (x1 : Acc) (x2 x3 : ℕ) (h0 : MemOk x0) :
    MemOk (State.llcAlloc x0 x1 x2 x3).2 := by
  unfold State.llcAlloc
  repeat' first
    | with_reducible first
        | assumption | apply keep_State_llcEvict | apply keep_State_count | apply keep_State_updSlice | apply memOk_ite
    | dsimp only | split

theorem keep_State_pinFill (x0 : State) (x1 : Acc) (x2 : ℕ) (x3 : LlcLine) (h0 : MemOk x0) :
    MemOk (State.pinFill x0 x1 x2 x3).2 := by
  unfold State.pinFill
  with_reducible repeat' first
    | assumption | apply keep_State_count | apply memOk_ite2

theorem keep_State_countBytes32 (x0 : State) (x1 : Acc) (x2 : ℕ) (h0 : MemOk x0) :
    MemOk (State.countBytes32 x0 x1 x2) := by
  unfold State.countBytes32
  with_reducible repeat' first
    | assumption | apply keep_State_count | apply memOk_ite

theorem keep_State_countHit (x0 : State) (x1 : Acc) (x2 : ℕ) (x3 : Bool) (h0 : MemOk x0) :
    MemOk (State.countHit x0 x1 x2 x3) := by
  unfold State.countHit
  with_reducible repeat' first
    | assumption | apply keep_State_countBytes32 | apply keep_State_count

theorem keep_State_llcRead (x0 : State) (x1 : Acc) (x2 : Nat) (x3 : Nat) (x4 : Nat) (h0 : MemOk x0) :
    MemOk (State.llcRead x0 x1 x2 x3 x4).2 := by
  unfold State.llcRead
  repeat' first
    | with_reducible first
        | assumption | intro _ | apply keep_State_updSlice | apply keep_State_countHit | apply keep_State_askMiss | apply keep_State_pinFill
        | apply keep_State_count | apply keep_State_countBytes32 | apply keep_State_llcAlloc
        | apply memOk_ite | apply memOk_foldl | apply memOk_mem | ((conv => arg 1; arg 25); rw [memOk_mk])
        | apply memOk_ite2 | apply memOk_ite1 | apply memOk_ite3 | apply memOk_foldl2
        | refine memOk_eq2 (by assumption) ?_ | refine memOk_eq1 (by assumption) ?_ | refine memOk_eq3 (by assumption) ?_
        | refine memOk_eqO (by assumption) ?_ | refine memOk_eqO2 (by assumption) ?_
    | dsimp only | split

theorem keep_State_llcPut (x0 : State) (x1 : Acc) (x2 x3 x4 : ℕ) (x5 : Sector) (h0 : MemOk x0) :
    MemOk (State.llcPut x0 x1 x2 x3 x4 x5) := by
  unfold State.llcPut
  repeat' first
    | with_reducible first
        | assumption | apply keep_State_updSlice | apply keep_State_hbmStore | apply keep_State_llcAlloc | apply memOk_ite
        | refine memOk_eq2 (by assumption) ?_
    | dsimp only | split

theorem keep_State_l2Drop (x0 : State) (x1 x2 : ℕ) (h0 : MemOk x0) :
    MemOk (State.l2Drop x0 x1 x2) := by
  unfold State.l2Drop
  with_reducible repeat' first
    | assumption | apply keep_State_updCluster

theorem keep_State_l2Put (x0 : State) (x1 : ℕ) (x2 : L2Line) (h0 : MemOk x0) :
    MemOk (State.l2Put x0 x1 x2) := by
  unfold State.l2Put
  repeat' first
    | with_reducible first
        | assumption | apply keep_State_updCluster | apply memOk_ite
    | dsimp only | split

theorem keep_State_writeBack (x0 : State) (x1 : Nat) (x2 : Nat) (x3 : L2Line) (h0 : MemOk x0) :
    MemOk (State.writeBack x0 x1 x2 x3) := by
  unfold State.writeBack
  repeat' first
    | with_reducible first
        | assumption | intro _ | apply keep_State_llcPut | apply keep_State_mendSector
        | apply memOk_ite | apply memOk_foldl | apply memOk_mem | ((conv => arg 1; arg 25); rw [memOk_mk])
    | dsimp only | split

theorem keep_State_dirDel (x0 : State) (x1 x2 : ℕ) (h0 : MemOk x0) :
    MemOk (State.dirDel x0 x1 x2) := by
  unfold State.dirDel
  with_reducible repeat' first
    | assumption | apply keep_State_updSlice

theorem keep_State_invalidate (x0 : State) (x1 : ℕ) (x2 : BitVec 32) (x3 : Option ℕ) (h0 : MemOk x0) :
    MemOk (State.invalidate x0 x1 x2 x3) := by
  unfold State.invalidate
  with_reducible repeat' first
    | assumption | intro _ | apply keep_State_l2Drop | apply memOk_ite | apply memOk_foldl

theorem keep_State_recall (x0 : State) (x1 x2 x3 : ℕ) (h0 : MemOk x0) :
    MemOk (State.recall x0 x1 x2 x3) := by
  unfold State.recall
  repeat' first
    | with_reducible first
        | assumption | apply keep_State_l2Drop | apply keep_State_writeBack
    | split

theorem keep_State_recallEntry (x0 : State) (x1 : ℕ) (x2 : DirEntry) (h0 : MemOk x0) :
    MemOk (State.recallEntry x0 x1 x2) := by
  unfold State.recallEntry
  with_reducible repeat' first
    | assumption | apply keep_State_recall | apply keep_State_invalidate | apply keep_State_dirDel | apply memOk_ite

theorem keep_State_dirPut (x0 : State) (x1 : ℕ) (x2 : DirEntry) (h0 : MemOk x0) :
    MemOk (State.dirPut x0 x1 x2) := by
  unfold State.dirPut
  repeat' first
    | with_reducible first
        | assumption | apply keep_State_recallEntry | apply keep_State_updSlice | apply memOk_ite
    | split

theorem keep_State_takePut (x0 : State) (x1 x2 : ℕ) (h0 : MemOk x0) :
    MemOk (State.takePut x0 x1 x2) := by
  unfold State.takePut
  repeat' first
    | with_reducible first
        | assumption | apply keep_State_writeBack | apply keep_State_dirPut | apply keep_State_dirDel | apply keep_State_updCluster | apply memOk_ite
    | dsimp only | split

theorem keep_State_dirTouch (x0 : State) (x1 x2 : ℕ) (h0 : MemOk x0) :
    MemOk (State.dirTouch x0 x1 x2) := by
  unfold State.dirTouch
  repeat' first
    | with_reducible first
        | assumption | apply keep_State_updSlice
    | split

theorem keep_State_homeSector (x0 : State) (x1 : Acc) (x2 x3 x4 : ℕ) (x5 : Option ℕ) (h0 : MemOk x0) :
    MemOk (State.homeSector x0 x1 x2 x3 x4 x5).2 := by
  unfold State.homeSector
  repeat' first
    | with_reducible first
        | assumption | apply keep_State_dirTouch | apply keep_State_countHit | apply keep_State_llcRead | apply memOk_ite2
    | dsimp only | split

theorem keep_State_setOwnerState (x0 : State) (x1 x2 : ℕ) (x3 : L2State) (h0 : MemOk x0) :
    MemOk (State.setOwnerState x0 x1 x2 x3) := by
  unfold State.setOwnerState
  with_reducible repeat' first
    | assumption | apply keep_State_updCluster

theorem keep_State_homeGetS (x0 : State) (x1 x2 : ℕ) (h0 : MemOk x0) :
    MemOk (State.homeGetS x0 x1 x2).2 := by
  unfold State.homeGetS
  repeat' first
    | with_reducible first
        | assumption | apply keep_State_dirPut | apply keep_State_setOwnerState | apply memOk_ite2
    | dsimp only | split

theorem keep_State_homeGetM (x0 : State) (x1 : Acc) (x2 x3 : ℕ) (h0 : MemOk x0) :
    MemOk (State.homeGetM x0 x1 x2 x3).2.2.2 := by
  unfold State.homeGetM
  repeat' first
    | with_reducible first
        | assumption | intro _ | apply keep_State_dirPut | apply keep_State_invalidate | apply keep_State_countHit | apply keep_State_l2Drop
        | apply memOk_ite | apply memOk_foldl
    | dsimp only | split

theorem keep_State_homeClean (x0 : State) (x1 : ℕ) (h0 : MemOk x0) :
    MemOk (State.homeClean x0 x1).2 := by
  unfold State.homeClean
  repeat' first
    | with_reducible first
        | assumption | apply keep_State_recallEntry
    | dsimp only | split

theorem keep_State_rdNA (x0 : State) (x1 : Acc) (x2 : ℕ) (h0 : MemOk x0) :
    MemOk (State.rdNA x0 x1 x2).2 := by
  unfold State.rdNA
  with_reducible repeat' first
    | assumption | apply keep_State_homeSector

theorem keep_State_wrNA (x0 : State) (x1 : Acc) (x2 : ℕ) (x3 : List PByte) (h0 : MemOk x0) :
    MemOk (State.wrNA x0 x1 x2 x3) := by
  unfold State.wrNA
  with_reducible repeat' first
    | assumption | apply keep_State_homeClean | apply keep_State_llcPut | apply keep_State_count | apply keep_State_llcRead | apply memOk_ite

theorem keep_State_readNA : ∀ (x0 : ℕ) (x1 : State) (x2 : Acc) (x3 : ℕ) (x4 : ℕ), (MemOk (x1)) → MemOk (State.readNA x0 x1 x2 x3 x4).2 := by
  intro x0
  induction x0 with
  | zero  =>
    intro x1 x2 x3 x4 h1
    unfold State.readNA
    with_reducible repeat' first
      | assumption | apply keep_State_rdNA | apply memOk_ite | apply memOk_mem
  | succ n ih =>
    intro x1 x2 x3 x4 h1
    unfold State.readNA
    with_reducible repeat' first
      | assumption | apply ih | apply keep_State_rdNA | apply memOk_ite2


theorem keep_State_hbmRead (x0 : State) (x1 : Acc) (x2 x3 : ℕ) (h0 : MemOk x0) :
    MemOk (State.hbmRead x0 x1 x2 x3).2 := by
  unfold State.hbmRead
  with_reducible repeat' first
    | assumption | apply keep_State_readNA

theorem keep_State_writeNA : ∀ (x0 : ℕ) (x1 : State) (x2 : Acc) (x3 : ℕ) (x4 : List PByte), (MemOk (x1)) → MemOk (State.writeNA x0 x1 x2 x3 x4) := by
  intro x0
  induction x0 with
  | zero  =>
    intro x1 x2 x3 x4 h1
    unfold State.writeNA
    repeat' first
      | with_reducible first
          | assumption | apply keep_State_wrNA | apply memOk_ite
      | split
  | succ n ih =>
    intro x1 x2 x3 x4 h1
    unfold State.writeNA
    repeat' first
      | with_reducible first
          | assumption | apply ih | apply keep_State_wrNA
      | dsimp only | split


theorem keep_State_hbmWrite (x0 : State) (x1 : Acc) (x2 : ℕ) (x3 : List PByte) (h0 : MemOk x0) :
    MemOk (State.hbmWrite x0 x1 x2 x3) := by
  unfold State.hbmWrite
  with_reducible repeat' first
    | assumption | apply keep_State_writeNA

theorem keep_State_l2Read (x0 : State) (x1 : Acc) (x2 x3 x4 : ℕ) (h0 : MemOk x0) :
    MemOk (State.l2Read x0 x1 x2 x3 x4).2 := by
  unfold State.l2Read
  repeat' first
    | with_reducible first
        | assumption | apply keep_State_takePut | apply keep_State_l2Put | apply keep_State_homeSector | apply keep_State_homeGetS | apply memOk_ite2
    | dsimp only | split

theorem keep_State_l2Own (x0 : State) (x1 : Acc) (x2 x3 : ℕ) (h0 : MemOk x0) :
    MemOk (State.l2Own x0 x1 x2 x3).2.2 := by
  unfold State.l2Own
  repeat' first
    | with_reducible first
        | assumption | apply keep_State_takePut | apply keep_State_homeGetM | apply keep_State_l2Put | apply memOk_ite3
    | dsimp only | split

theorem keep_State_l2Fill (x0 : State) (x1 : Acc) (x2 x3 x4 : ℕ) (x5 : L2Line) (h0 : MemOk x0) :
    MemOk (State.l2Fill x0 x1 x2 x3 x4 x5).2 := by
  unfold State.l2Fill
  with_reducible repeat' first
    | assumption | apply keep_State_homeSector | apply memOk_ite2

theorem keep_State_l2Write (x0 : State) (x1 : Acc) (x2 x3 : ℕ) (x4 : List PByte) (h0 : MemOk x0) :
    MemOk (State.l2Write x0 x1 x2 x3 x4) := by
  unfold State.l2Write
  with_reducible repeat' first
    | assumption | apply keep_State_l2Own | apply keep_State_l2Fill | apply keep_State_l2Put | apply memOk_ite2

theorem keep_State_flushL2 (x0 : State) (x1 : ℕ) (h0 : MemOk x0) :
    MemOk (State.flushL2 x0 x1) := by
  unfold State.flushL2
  repeat' first
    | with_reducible first
        | assumption | intro _ | apply keep_State_takePut | apply keep_State_recall | apply keep_State_dirPut | apply keep_State_dirDel
        | apply keep_State_l2Drop | apply keep_State_updCluster | apply memOk_ite | apply memOk_foldl
    | dsimp only | split

theorem keep_State_flushLine (x0 : State) (x1 : ℕ) (h0 : MemOk x0) :
    MemOk (State.flushLine x0 x1) := by
  unfold State.flushLine
  repeat' first
    | with_reducible first
        | assumption | intro _ | apply keep_State_takePut | apply keep_State_homeClean | apply keep_State_llcEvict | apply memOk_foldl
    | dsimp only | split

theorem keep_State_flushRange (x0 : State) (x1 x2 : ℕ) (h0 : MemOk x0) :
    MemOk (State.flushRange x0 x1 x2) := by
  unfold State.flushRange
  with_reducible repeat' first
    | assumption | intro _ | apply keep_State_flushLine | apply memOk_foldl

theorem keep_State_scrub : ∀ (x0 : State) (x1 : ℕ) (x2 : ℕ), (MemOk (x0)) → MemOk (State.scrub x0 x1 x2) := by
  intro x0 x1 x2 h0
  exact ⟨NMap_canon_filter _ h0.1, h0.2⟩

theorem keep_State_predUpdate (x0 : State) (x1 x2 : ℕ) (x3 : Bool) (h0 : MemOk x0) :
    MemOk (State.predUpdate x0 x1 x2 x3) := by
  unfold State.predUpdate
  with_reducible repeat' first
    | assumption | apply keep_State_updCluster

theorem keep_State_farHistory (x0 : State) (x1 x2 x3 : ℕ) (h0 : MemOk x0) :
    MemOk (State.farHistory x0 x1 x2 x3).2 := by
  unfold State.farHistory
  with_reducible repeat' first
    | assumption | apply keep_State_updSlice

theorem keep_State_pinLine (x0 : State) (x1 : Acc) (x2 : ℕ) (h0 : MemOk x0) :
    MemOk (State.pinLine x0 x1 x2).2 := by
  unfold State.pinLine
  repeat' first
    | with_reducible first
        | assumption | apply keep_State_updSlice | apply keep_State_count | apply keep_State_llcAlloc | apply memOk_ite2
        | refine memOk_eq2 (by assumption) ?_
    | dsimp only | split

theorem keep_State_unpinLine (x0 : State) (x1 : ℕ) (h0 : MemOk x0) :
    MemOk (State.unpinLine x0 x1).2 := by
  unfold State.unpinLine
  repeat' first
    | with_reducible first
        | assumption | apply keep_State_updSlice | apply memOk_ite2
    | dsimp only | split

theorem keep_State_dropCopies (x0 : State) (x1 x2 : ℕ) (h0 : MemOk x0) :
    MemOk (State.dropCopies x0 x1 x2) := by
  unfold State.dropCopies
  repeat' first
    | with_reducible first
        | assumption | apply keep_State_invalidate | apply keep_State_updCluster | apply keep_State_dirDel
    | dsimp only | split

theorem keep_State_keepPoisoned (x0 : State) (x1 : Acc) (x2 x3 : ℕ) (x4 : Option L2Line) (x5 : BitVec 4) (h0 : MemOk x0) :
    MemOk (State.keepPoisoned x0 x1 x2 x3 x4 x5) := by
  unfold State.keepPoisoned
  with_reducible repeat' first
    | assumption | intro _ | apply keep_State_llcPut | apply memOk_ite | apply memOk_foldl

theorem keep_State_markDead (x0 : State) (x1 : Acc) (x2 x3 : ℕ) (x4 x5 : BitVec 4) (h0 : MemOk x0) :
    MemOk (State.markDead x0 x1 x2 x3 x4 x5) := by
  unfold State.markDead
  repeat' first
    | with_reducible first
        | assumption | intro _ | apply keep_State_updSlice | apply keep_State_llcAlloc | apply keep_State_hbmStore | apply memOk_ite | apply memOk_foldl
        | refine memOk_eq2 (by assumption) ?_
    | split

theorem keep_State_deadLine (x0 : State) (x1 : Acc) (x2 : ℕ) (h0 : MemOk x0) :
    MemOk (State.deadLine x0 x1 x2) := by
  unfold State.deadLine
  with_reducible repeat' first
    | assumption | apply keep_State_dropCopies | apply keep_State_keepPoisoned | apply keep_State_markDead | apply memOk_ite

end Sys2Proof.Machine
end

