-- ==== Sys2Proof/Laws/KeepCores.lean ====
section
/-! SUPPORT. Memory keeps its canonical form through the operations and commands of address translation, cores, remote accesses, arithmetic, program control, copies, fencing and rings. -/

namespace Sys2Proof.Machine
open Sys2Proof

theorem keep_State_walk : ∀ (x0 : ℕ) (x1 : State) (x2 x3 x4 x5 : ℕ), MemOk x1 → MemOk (State.walk x0 x1 x2 x3 x4 x5).2 := by
  intro x0
  induction x0 with
  | zero =>
    intro x1 x2 x3 x4 x5 h1
    unfold State.walk
    assumption
  | succ n ih =>
    intro x1 x2 x3 x4 x5 h1
    unfold State.walk
    repeat' first
      | with_reducible first
          | assumption | apply ih | apply keep_State_hbmRead | apply memOk_ite2 | apply memOk_mem | ((conv => arg 1; arg 25); rw [memOk_mk])
      | dsimp only | split

theorem keep_State_translate (x0 : State) (x1 x2 : ℕ) (x3 : XKind) (x4 : ℕ) (h0 : MemOk x0) :
    MemOk (State.translate x0 x1 x2 x3 x4).2 := by
  unfold State.translate
  repeat' first
    | with_reducible first
        | assumption | apply keep_State_walk | apply memOk_ite2 | apply memOk_mem | refine memOk_eq2 (by assumption) ?_
        | ((conv => arg 1; arg 25); rw [memOk_mk])
    | dsimp only | split

theorem keep_State_tlbInv (x0 : State) (x1 : ℕ) (h0 : MemOk x0) :
    MemOk (State.tlbInv x0 x1) := by
  unfold State.tlbInv
  with_reducible repeat' first
    | assumption | apply memOk_mem | ((conv => arg 1; arg 25); rw [memOk_mk])

theorem keep_State_devRead (x0 : State) (x1 : Acc) (x2 x3 : ℕ) (h0 : MemOk x0) :
    MemOk (State.devRead x0 x1 x2 x3).2 := by
  unfold State.devRead
  with_reducible repeat' first
    | assumption | apply keep_State_hbmRead | apply memOk_ite2

theorem keep_State_devWrite (x0 : State) (x1 : Acc) (x2 : ℕ) (x3 : List PByte) (h0 : MemOk x0) :
    MemOk (State.devWrite x0 x1 x2 x3) := by
  unfold State.devWrite
  with_reducible repeat' first
    | assumption | apply keep_State_hbmWrite | apply keep_State_hostWrite | apply keep_State_send | apply memOk_ite

theorem keep_State_mend (x0 : State) (x1 : ℕ) (x2 : List PByte) (h0 : MemOk x0) :
    OptOk (State.mend x0 x1 x2) := by
  unfold State.mend
  repeat' first
    | with_reducible first
        | assumption | apply keep_State_startRestore | apply optOk_some | apply optOk_none | apply optOk_ite
    | split

theorem keep_State_regionFailed (x0 : State) (x1 x2 : ℕ) (h0 : MemOk x0) :
    MemOk (State.regionFailed x0 x1 x2) := by
  unfold State.regionFailed
  with_reducible repeat' first
    | assumption | apply keep_State_errRecord | apply memOk_ite | apply memOk_mem | ((conv => arg 1; arg 25); rw [memOk_mk])

theorem keep_State_setPoisoned (x0 : State) (x1 : ℕ) (h0 : MemOk x0) :
    MemOk (State.setPoisoned x0 x1) := by
  unfold State.setPoisoned
  repeat' first
    | with_reducible first
        | assumption | apply keep_State_regionFailed | apply memOk_ite
    | split

theorem keep_State_hostFailed (x0 : State) (x1 x2 : ℕ) (h0 : MemOk x0) :
    MemOk (State.hostFailed x0 x1 x2) := by
  unfold State.hostFailed
  with_reducible repeat' first
    | assumption | apply keep_State_event | apply memOk_ite

theorem keep_State_setCtr (x0 : State) (x1 x2 x3 : ℕ) (x4 : BitVec 32) (h0 : MemOk x0) :
    MemOk (State.setCtr x0 x1 x2 x3 x4) := by
  unfold State.setCtr
  with_reducible repeat' first
    | assumption | apply keep_State_updCore

theorem keep_State_kill (x0 : State) (x1 x2 : ℕ) (x3 : FaultInfo) (h0 : MemOk x0) :
    MemOk (State.kill x0 x1 x2 x3) := by
  unfold State.kill
  with_reducible repeat' first
    | assumption | apply keep_State_updLaunch

theorem keep_State_raise (x0 : State) (x1 x2 : ℕ) (x3 x4 : ℕ) (h0 : MemOk x0) :
    MemOk (State.raise x0 x1 x2 x3 x4) := by
  unfold State.raise
  repeat' first
    | with_reducible first
        | assumption | apply keep_State_setGroup | apply keep_State_kill
    | dsimp only | split

theorem keep_State_raisePoison (x0 : State) (x1 x2 : ℕ) (x3 x4 : ℕ) (x5 x6 : ℕ) (h0 : MemOk x0) :
    MemOk (State.raisePoison x0 x1 x2 x3 x4 x5 x6) := by
  unfold State.raisePoison
  with_reducible repeat' first
    | assumption | apply keep_State_raise | apply keep_State_errRecord

theorem keep_State_dropStaged (x0 : State) (x1 x2 : ℕ) (h0 : MemOk x0) :
    MemOk (State.dropStaged x0 x1 x2) := by
  unfold State.dropStaged
  with_reducible repeat' first
    | assumption | apply keep_State_updCore

theorem keep_State_tickWindow (x0 : State) (x1 x2 : ℕ) (h0 : MemOk x0) :
    MemOk (State.tickWindow x0 x1 x2) := by
  unfold State.tickWindow
  repeat' first
    | with_reducible first
        | assumption | apply keep_State_setGroup | apply keep_State_dropStaged | apply memOk_ite
    | dsimp only | split

theorem keep_State_advance (x0 : State) (x1 x2 x3 : ℕ) (h0 : MemOk x0) :
    MemOk (State.advance x0 x1 x2 x3) := by
  unfold State.advance
  with_reducible repeat' first
    | assumption | apply keep_State_tickWindow | apply keep_State_updGroup

theorem keep_State_putBits (x0 : State) (x1 : Nat) (x2 : List Byte) (h0 : MemOk x0) :
    MemOk (State.putBits x0 x1 x2) := by
  unfold State.putBits
  repeat' first
    | with_reducible first
        | assumption | intro _ | apply keep_State_setLink | apply keep_State_send
        | apply memOk_ite | apply memOk_foldl | apply memOk_mem | ((conv => arg 1; arg 25); rw [memOk_mk])
    | dsimp only | split

theorem keep_State_emit (x0 : State) (x1 : Nat) (x2 : Nat) (x3 : Bool) (x4 : Nat) (x5 : List Byte) (h0 : MemOk x0) :
    MemOk (State.emit x0 x1 x2 x3 x4 x5) := by
  unfold State.emit
  repeat' first
    | with_reducible first
        | assumption | intro _ | apply keep_State_setLink | apply keep_State_send | apply keep_State_putBits
        | apply memOk_ite | apply memOk_foldl | apply memOk_mem | ((conv => arg 1; arg 25); rw [memOk_mk])
        | refine memOk_eq2 (by assumption) ?_ | refine memOk_eq1 (by assumption) ?_ | refine memOk_eq3 (by assumption) ?_
        | refine memOk_eqO (by assumption) ?_ | refine memOk_eqO2 (by assumption) ?_
    | dsimp only | split

theorem keep_State_sendControl (x0 : State) (x1 : ℕ) (x2 : Bool) (x3 : List (List Byte)) (h0 : MemOk x0) :
    MemOk (State.sendControl x0 x1 x2 x3) := by
  unfold State.sendControl
  with_reducible repeat' first
    | assumption | apply keep_State_emit

theorem keep_State_setWidth (x0 : State) (x1 x2 : ℕ) (h0 : MemOk x0) :
    MemOk (State.setWidth x0 x1 x2) := by
  unfold State.setWidth
  with_reducible repeat' first
    | assumption | apply keep_State_updLink

theorem keep_State_askWidth (x0 : State) (x1 x2 : ℕ) (h0 : MemOk x0) :
    MemOk (State.askWidth x0 x1 x2) := by
  unfold State.askWidth
  with_reducible repeat' first
    | assumption | apply keep_State_sendControl | apply keep_State_updLink | apply memOk_ite

theorem keep_State_nextLane (l : Nat) (lanes : List Nat) : ∀ s, MemOk s → MemOk (s.nextLane l lanes) := by
  induction lanes with
  | nil =>
    intro s h
    exact h
  | cons lane rest ih =>
    intro s h
    unfold State.nextLane
    dsimp only
    split
    · exact ih s h
    · exact keep_State_askWidth _ _ _ (keep_State_setLink _ _ _ h)

theorem keep_State_narrowLink (x0 : State) (x1 : Nat) (h0 : MemOk x0) :
    MemOk (State.narrowLink x0 x1) := by
  unfold State.narrowLink
  repeat' first
    | with_reducible first
        | assumption | intro _ | apply keep_State_nextLane
        | apply memOk_ite | apply memOk_foldl | apply memOk_mem | ((conv => arg 1; arg 25); rw [memOk_mk])
    | dsimp only | split

theorem keep_State_sendData (x0 : State) (x1 : ℕ) (x2 : SentFlit) (h0 : MemOk x0) :
    MemOk (State.sendData x0 x1 x2) := by
  unfold State.sendData
  with_reducible repeat' first
    | assumption | apply keep_State_emit

theorem keep_State_resendFlits (x0 : State) (x1 : ℕ) (x2 : BitVec 12) (h0 : MemOk x0) :
    MemOk (State.resendFlits x0 x1 x2) := by
  unfold State.resendFlits
  with_reducible repeat' first
    | assumption | intro _ | apply keep_State_sendData | apply memOk_foldl

theorem keep_State_transmit (x0 : State) (x1 : ℕ) (x2 : Packet) (h0 : MemOk x0) :
    MemOk (State.transmit x0 x1 x2) := by
  unfold State.transmit
  with_reducible repeat' first
    | assumption | intro _ | apply keep_State_setLink | apply keep_State_sendData | apply memOk_foldl

theorem keep_State_sendOn (x0 : State) (x1 x2 : ℕ) (x3 : Packet) (h0 : MemOk x0) :
    MemOk (State.sendOn x0 x1 x2 x3) := by
  unfold State.sendOn
  with_reducible repeat' first
    | assumption | apply keep_State_transmit | apply keep_State_updLink | apply memOk_ite

theorem keep_State_deliver (x0 : State) (x1 : Packet) (h0 : MemOk x0) :
    MemOk (State.deliver x0 x1) := by
  unfold State.deliver
  with_reducible repeat' first
    | assumption | apply memOk_mem | ((conv => arg 1; arg 25); rw [memOk_mk])

theorem keep_State_routeN : ∀ (x0 : ℕ) (x1 : State) (x2 : Option ℕ) (x3 : ℕ) (x4 : Packet), (MemOk (x1)) → MemOk (State.routeN x0 x1 x2 x3 x4).2 := by
  intro x0
  induction x0 with
  | zero  =>
    intro x1 x2 x3 x4 h1
    unfold State.routeN
    repeat' first
      | with_reducible first
          | assumption | intro _ | apply keep_State_updLink | apply keep_State_sendOn | apply keep_State_deliver | apply memOk_ite | apply memOk_ite2
          | apply memOk_mem | apply memOk_foldl2
      | split
  | succ n ih =>
    intro x1 x2 x3 x4 h1
    unfold State.routeN
    repeat' first
      | with_reducible first
          | assumption | intro _ | apply ih | apply keep_State_updLink | apply keep_State_sendOn | apply keep_State_deliver | apply memOk_ite
          | apply memOk_ite2 | apply memOk_foldl
      | dsimp only | split


theorem keep_State_route (x0 : State) (x1 : Option ℕ) (x2 : ℕ) (x3 : Packet) (h0 : MemOk x0) :
    MemOk (State.route x0 x1 x2 x3).2 := by
  unfold State.route
  with_reducible repeat' first
    | assumption | apply keep_State_routeN

theorem keep_State_sendQueued (x0 : State) (x1 : ℕ) (x2 : Queued) (h0 : MemOk x0) :
    MemOk (State.sendQueued x0 x1 x2) := by
  unfold State.sendQueued
  with_reducible repeat' first
    | assumption | apply keep_State_route | apply keep_State_transmit | apply memOk_ite

theorem keep_State_drainLink : ∀ (x0 : ℕ) (x1 : State) (x2 : ℕ), (MemOk (x1)) → MemOk (State.drainLink x0 x1 x2) := by
  intro x0
  induction x0 with
  | zero  =>
    intro x1 x2 h1
    unfold State.drainLink
    with_reducible repeat' first
      | assumption | apply keep_State_sendQueued | apply keep_State_setLink | apply memOk_ite
  | succ n ih =>
    intro x1 x2 h1
    unfold State.drainLink
    repeat' first
      | with_reducible first
          | assumption | apply ih | apply keep_State_sendQueued | apply keep_State_setLink
      | split


theorem keep_State_sendRequest (x0 : State) (x1 : Packet) (x2 : ℕ) (x3 : RemoteFor) (x4 : BitVec 16) (h0 : MemOk x0) :
    MemOk (State.sendRequest x0 x1 x2 x3 x4).2 := by
  unfold State.sendRequest
  repeat' first
    | with_reducible first
        | assumption | apply keep_State_route | apply memOk_mem | ((conv => arg 1; arg 25); rw [memOk_mk])
    | dsimp only

theorem keep_State_takeBatch (x0 : State) (x1 : ℕ) (x2 : BitVec 12) (h0 : MemOk x0) :
    MemOk (State.takeBatch x0 x1 x2).2 := by
  unfold State.takeBatch
  repeat' first
    | with_reducible first
        | assumption | apply memOk_mem | ((conv => arg 1; arg 25); rw [memOk_mk])
    | dsimp only

theorem keep_State_batchWrite (x0 : State) (x1 : Packet) (x2 x3 : ℕ) (x4 : Bool) (h0 : MemOk x0) :
    MemOk (State.batchWrite x0 x1 x2 x3 x4).2 := by
  unfold State.batchWrite
  repeat' first
    | with_reducible first
        | assumption | apply keep_State_takeBatch | apply memOk_mem | ((conv => arg 1; arg 25); rw [memOk_mk])
    | dsimp only | split

theorem keep_State_sendWrite (x0 : State) (x1 : Packet) (x2 x3 : ℕ) (x4 : List Byte) (x5 : Bool) (x6 : RemoteFor) (x7 : BitVec 16) (h0 : MemOk x0) :
    MemOk (State.sendWrite x0 x1 x2 x3 x4 x5 x6 x7).2 := by
  unfold State.sendWrite
  with_reducible repeat' first
    | assumption | apply keep_State_batchWrite | apply keep_State_sendRequest

theorem keep_State_writePeer (x0 : State) (x1 x2 : ℕ) (x3 x4 : ℕ) (x5 : List Byte) (x6 : Bool) (x7 : ℕ → ℕ → RemoteFor) (x8 : BitVec 16) (h0 : MemOk x0) :
    MemOk (State.writePeer x0 x1 x2 x3 x4 x5 x6 x7 x8).2 := by
  unfold State.writePeer
  repeat' first
    | with_reducible first
        | assumption | intro _ | apply keep_State_sendWrite | apply memOk_foldl2
    | dsimp only | split

theorem keep_State_readPeer (x0 : State) (x1 x2 : ℕ) (x3 x4 x5 : ℕ) (x6 : ℕ → ℕ → RemoteFor) (x7 : BitVec 16) (h0 : MemOk x0) :
    MemOk (State.readPeer x0 x1 x2 x3 x4 x5 x6 x7).2 := by
  unfold State.readPeer
  repeat' first
    | with_reducible first
        | assumption | intro _ | apply keep_State_sendRequest | apply memOk_foldl2
    | dsimp only | split

theorem keep_State_closeBatches (x0 : State) (x1 : ℕ) (h0 : MemOk x0) :
    MemOk (State.closeBatches x0 x1) := by
  unfold State.closeBatches
  with_reducible repeat' first
    | assumption | intro _ | apply keep_State_route | apply memOk_ite | apply memOk_mem | apply memOk_foldl | ((conv => arg 1; arg 25); rw [memOk_mk])

theorem keep_State_remoteFailed (x0 : State) (x1 : ℕ) (x2 : Outstanding) (x3 : ℕ) (h0 : MemOk x0) :
    MemOk (State.remoteFailed x0 x1 x2 x3) := by
  unfold State.remoteFailed
  with_reducible repeat' first
    | assumption | apply keep_State_event

theorem keep_State_askCommit (x0 : State) (x1 x2 : ℕ) (h0 : MemOk x0) :
    MemOk (State.askCommit x0 x1 x2) := by
  unfold State.askCommit
  with_reducible repeat' first
    | assumption | apply keep_State_updCluster

theorem keep_State_closeEnded (x0 : State) (x1 : Nat) (x2 : Nat) (x3 : Nat) (x4 : Nat) (x5 : Nat) (h0 : MemOk x0) :
    MemOk (State.closeEnded x0 x1 x2 x3 x4 x5) := by
  unfold State.closeEnded
  repeat' first
    | with_reducible first
        | assumption | intro _ | apply keep_State_closeBatches
        | apply memOk_ite | apply memOk_foldl | apply memOk_mem | ((conv => arg 1; arg 25); rw [memOk_mk])
    | dsimp only | split

theorem keep_State_groupEnded (x0 : State) (x1 : Nat) (x2 : Nat) (h0 : MemOk x0) :
    MemOk (State.groupEnded x0 x1 x2) := by
  unfold State.groupEnded
  repeat' first
    | with_reducible first
        | assumption | intro _ | apply keep_State_dropStaged | apply keep_State_closeEnded | apply keep_State_askCommit
        | apply memOk_ite | apply memOk_foldl | apply memOk_mem | ((conv => arg 1; arg 25); rw [memOk_mk])
        | refine memOk_eq2 (by assumption) ?_ | refine memOk_eq1 (by assumption) ?_ | refine memOk_eq3 (by assumption) ?_
        | refine memOk_eqO (by assumption) ?_ | refine memOk_eqO2 (by assumption) ?_
    | dsimp only | split

theorem keep_State_checkOne (x0 : State) (x1 x2 : ℕ) (x3 : XKind) (x4 x5 x6 : ℕ) (h0 : MemOk x0) :
    MemOk (State.checkOne x0 x1 x2 x3 x4 x5 x6).2 := by
  unfold State.checkOne
  repeat' first
    | with_reducible first
        | assumption | apply keep_State_translate | apply memOk_ite2 | refine memOk_eq2 (by assumption) ?_
    | split

theorem keep_State_checkHere (x0 : State) (x1 x2 : ℕ) (x3 : XKind) (x4 x5 : ℕ) (h0 : MemOk x0) :
    MemOk (State.checkHere x0 x1 x2 x3 x4 x5).2 := by
  unfold State.checkHere
  repeat' first
    | with_reducible first
        | assumption | apply keep_State_translate | refine memOk_eq2 (by assumption) ?_
    | split

theorem keep_State_checkEach : ∀ (x4 : List (ℕ × ℕ)) (x0 : State) (x1 : ℕ) (x2 : ℕ) (x3 : XKind), (MemOk (x0)) → MemOk (State.checkEach x0 x1 x2 x3 x4).2 := by
  intro x4
  induction x4 with
  | nil  =>
    intro x0 x1 x2 x3 h0
    unfold State.checkEach
    with_reducible repeat' first
      | assumption | apply keep_State_checkHere | apply memOk_ite | refine memOk_eq3 (by assumption) ?_
  | cons a l ih =>
    intro x0 x1 x2 x3 h0
    unfold State.checkEach
    repeat' first
      | with_reducible first
          | assumption | apply ih | apply keep_State_checkHere | refine memOk_eq2 (by assumption) ?_
      | split


theorem keep_State_checkAll : ∀ (x5 : List (ℕ × ℕ)) (x0 : State) (x1 : ℕ) (x2 : ℕ) (x3 : XKind) (x4 : ℕ), (MemOk (x0)) → MemOk (State.checkAll x0 x1 x2 x3 x4 x5).2 := by
  intro x5
  induction x5 with
  | nil  =>
    intro x0 x1 x2 x3 x4 h0
    unfold State.checkAll
    with_reducible repeat' first
      | assumption | apply keep_State_checkOne | apply memOk_ite | refine memOk_eq3 (by assumption) ?_
  | cons a l ih =>
    intro x0 x1 x2 x3 x4 h0
    unfold State.checkAll
    repeat' first
      | with_reducible first
          | assumption | apply ih | apply keep_State_checkOne | refine memOk_eq2 (by assumption) ?_
      | split


theorem keep_State_noteReady (x0 : State) (x1 : ℕ) (h0 : MemOk x0) :
    MemOk (State.noteReady x0 x1) := by
  unfold State.noteReady
  with_reducible repeat' first
    | assumption | apply keep_State_setCore

theorem keep_State_pick (x0 : State) (x1 x2 : ℕ) (x3 : Bool) (h0 : MemOk x0) :
    MemOk (State.pick x0 x1 x2 x3) := by
  unfold State.pick
  with_reducible repeat' first
    | assumption | apply keep_State_updCore

theorem keep_State_issue (x0 : State) (x1 x2 : ℕ) (x3 : Row) (x4 : Word) (x5 : Word) (x6 : State → Group → State) (h0 : MemOk x0) (h6 : ∀ (y0 : State) (y1 : Group), MemOk y0 → MemOk (x6 y0 y1)) :
    MemOk (State.issue x0 x1 x2 x3 x4 x5 x6) := by
  unfold State.issue
  repeat' first
    | with_reducible first
        | assumption | apply keep_State_setGroup | apply keep_State_raise | apply keep_State_dropStaged | apply keep_State_pick | apply h6
        | apply memOk_ite
    | dsimp only | split

theorem keep_State_stepGroup (x0 : State) (x1 x2 x3 : ℕ) (x4 : Group) (h0 : MemOk x0) :
    MemOk (State.stepGroup x0 x1 x2 x3 x4) := by
  unfold State.stepGroup
  with_reducible repeat' first
    | assumption | apply keep_State_advance | apply keep_State_setGroup

theorem keep_onGroup (x0 x1 : ℕ) (x2 : State) (h2 : MemOk x2) :
    OutOk (onGroup x0 x1 x2) := by
  unfold onGroup
  with_reducible repeat' first
    | assumption | apply keep_onUnit

theorem keep_execScalarInteger (x0 x1 : ℕ) (x2 : BitVec 64) (x3 : State) (h3 : MemOk x3) :
    OutOk (execScalarInteger x0 x1 x2 x3) := by
  unfold execScalarInteger
  with_reducible repeat' first
    | assumption | intro _ | apply keep_onGroup | apply keep_State_issue | apply keep_State_stepGroup

theorem keep_execScalarF32 (x0 x1 : ℕ) (x2 : BitVec 64) (x3 : State) (h3 : MemOk x3) :
    OutOk (execScalarF32 x0 x1 x2 x3) := by
  unfold execScalarF32
  with_reducible repeat' first
    | assumption | intro _ | apply keep_onGroup | apply keep_State_issue | apply keep_State_stepGroup

theorem keep_execScalarIntegerImmediate (x0 x1 : ℕ) (x2 : BitVec 64) (x3 : State) (h3 : MemOk x3) :
    OutOk (execScalarIntegerImmediate x0 x1 x2 x3) := by
  unfold execScalarIntegerImmediate
  with_reducible repeat' first
    | assumption | intro _ | apply keep_onGroup | apply keep_State_issue | apply keep_State_stepGroup

theorem keep_execMovHi (x0 x1 : ℕ) (x2 : BitVec 64) (x3 : State) (h3 : MemOk x3) :
    OutOk (execMovHi x0 x1 x2 x3) := by
  unfold execMovHi
  with_reducible repeat' first
    | assumption | intro _ | apply keep_onGroup | apply keep_State_issue | apply keep_State_stepGroup

theorem keep_execVectorInteger (x0 x1 : ℕ) (x2 : BitVec 64) (x3 : State) (h3 : MemOk x3) :
    OutOk (execVectorInteger x0 x1 x2 x3) := by
  unfold execVectorInteger
  with_reducible repeat' first
    | assumption | intro _ | apply keep_onGroup | apply keep_State_issue | apply keep_State_stepGroup

theorem keep_execVectorF32 (x0 x1 : ℕ) (x2 : BitVec 64) (x3 : State) (h3 : MemOk x3) :
    OutOk (execVectorF32 x0 x1 x2 x3) := by
  unfold execVectorF32
  with_reducible repeat' first
    | assumption | intro _ | apply keep_onGroup | apply keep_State_issue | apply keep_State_stepGroup

theorem keep_execVectorIntegerImmediate (x0 x1 : ℕ) (x2 : BitVec 64) (x3 : State) (h3 : MemOk x3) :
    OutOk (execVectorIntegerImmediate x0 x1 x2 x3) := by
  unfold execVectorIntegerImmediate
  with_reducible repeat' first
    | assumption | intro _ | apply keep_onGroup | apply keep_State_issue | apply keep_State_stepGroup

theorem keep_execVectorF32Immediate (x0 x1 : ℕ) (x2 : BitVec 64) (x3 : State) (h3 : MemOk x3) :
    OutOk (execVectorF32Immediate x0 x1 x2 x3) := by
  unfold execVectorF32Immediate
  with_reducible repeat' first
    | assumption | intro _ | apply keep_onGroup | apply keep_State_issue | apply keep_State_stepGroup

theorem keep_execCvt (x0 x1 : ℕ) (x2 : BitVec 64) (x3 : State) (h3 : MemOk x3) :
    OutOk (execCvt x0 x1 x2 x3) := by
  unfold execCvt
  with_reducible repeat' first
    | assumption | intro _ | apply keep_onGroup | apply keep_State_issue | apply keep_State_stepGroup

theorem keep_execCmp (x0 x1 : ℕ) (x2 : BitVec 64) (x3 : State) (h3 : MemOk x3) :
    OutOk (execCmp x0 x1 x2 x3) := by
  unfold execCmp
  with_reducible repeat' first
    | assumption | intro _ | apply keep_onGroup | apply keep_State_issue | apply keep_State_stepGroup

theorem keep_execMaskLogic (x0 x1 : ℕ) (x2 : BitVec 64) (x3 : State) (h3 : MemOk x3) :
    OutOk (execMaskLogic x0 x1 x2 x3) := by
  unfold execMaskLogic
  with_reducible repeat' first
    | assumption | intro _ | apply keep_onGroup | apply keep_State_issue | apply keep_State_stepGroup

theorem keep_execTally (x0 x1 : ℕ) (x2 : BitVec 64) (x3 : State) (h3 : MemOk x3) :
    OutOk (execTally x0 x1 x2 x3) := by
  unfold execTally
  with_reducible repeat' first
    | assumption | intro _ | apply keep_onGroup | apply keep_State_issue | apply keep_State_stepGroup

theorem keep_execXlane (x0 x1 : ℕ) (x2 : BitVec 64) (x3 : State) (h3 : MemOk x3) :
    OutOk (execXlane x0 x1 x2 x3) := by
  unfold execXlane
  with_reducible repeat' first
    | assumption | intro _ | apply keep_onGroup | apply keep_State_issue | apply keep_State_stepGroup

theorem keep_execLaneFill (x0 x1 : ℕ) (x2 : BitVec 64) (x3 : State) (h3 : MemOk x3) :
    OutOk (execLaneFill x0 x1 x2 x3) := by
  unfold execLaneFill
  with_reducible repeat' first
    | assumption | intro _ | apply keep_onGroup | apply keep_State_issue | apply keep_State_stepGroup

theorem keep_execLaneGet (x0 x1 : ℕ) (x2 : BitVec 64) (x3 : State) (h3 : MemOk x3) :
    OutOk (execLaneGet x0 x1 x2 x3) := by
  unfold execLaneGet
  with_reducible repeat' first
    | assumption | intro _ | apply keep_onGroup | apply keep_State_issue | apply keep_State_stepGroup

theorem keep_execLanePut (x0 x1 : ℕ) (x2 : BitVec 64) (x3 : State) (h3 : MemOk x3) :
    OutOk (execLanePut x0 x1 x2 x3) := by
  unfold execLanePut
  with_reducible repeat' first
    | assumption | intro _ | apply keep_onGroup | apply keep_State_issue | apply keep_State_stepGroup

theorem keep_execFold (x0 x1 : ℕ) (x2 : BitVec 64) (x3 : State) (h3 : MemOk x3) :
    OutOk (execFold x0 x1 x2 x3) := by
  unfold execFold
  with_reducible repeat' first
    | assumption | intro _ | apply keep_onGroup | apply keep_State_issue | apply keep_State_stepGroup

theorem keep_State_wsumIssue (s : State) (core slot : Nat) (r : Row) (w : BitVec 64) (eff : State → Group → State) (h : MemOk s)
    (heff : ∀ s x, MemOk s → MemOk (eff s x)) : MemOk (s.wsumIssue core slot r w eff) := by
  unfold State.wsumIssue
  apply keep_State_issue (h0 := h)
  intro s x hs
  split
  · exact keep_State_raisePoison _ _ _ _ _ _ _ hs
  · exact heff s x hs

theorem keep_execWsumInit (x0 : Nat) (x1 : Nat) (x2 : BitVec 64) (x3 : State) (h3 : MemOk x3) :
    OutOk (execWsumInit x0 x1 x2 x3) := by
  unfold execWsumInit
  repeat' first
    | with_reducible first
        | assumption | intro _ | apply keep_onGroup | apply keep_State_wsumIssue | apply keep_State_raise | apply keep_State_stepGroup
        | apply memOk_ite | apply memOk_foldl | apply memOk_mem | ((conv => arg 1; arg 25); rw [memOk_mk])
        | apply outOk_next | apply outOk_onUnit | apply outOk_ite | apply outOk_fault
    | dsimp only | split

theorem keep_execWsumAcc (x0 : Nat) (x1 : Nat) (x2 : BitVec 64) (x3 : State) (h3 : MemOk x3) :
    OutOk (execWsumAcc x0 x1 x2 x3) := by
  unfold execWsumAcc
  repeat' first
    | with_reducible first
        | assumption | intro _ | apply keep_onGroup | apply keep_State_wsumIssue | apply keep_State_stepGroup
        | apply memOk_ite | apply memOk_foldl | apply memOk_mem | ((conv => arg 1; arg 25); rw [memOk_mk])
        | apply outOk_next | apply outOk_onUnit | apply outOk_ite | apply outOk_fault
    | dsimp only | split

theorem keep_execWsumMac (x0 : Nat) (x1 : Nat) (x2 : BitVec 64) (x3 : State) (h3 : MemOk x3) :
    OutOk (execWsumMac x0 x1 x2 x3) := by
  unfold execWsumMac
  repeat' first
    | with_reducible first
        | assumption | intro _ | apply keep_onGroup | apply keep_State_wsumIssue | apply keep_State_stepGroup
        | apply memOk_ite | apply memOk_foldl | apply memOk_mem | ((conv => arg 1; arg 25); rw [memOk_mk])
        | apply outOk_next | apply outOk_onUnit | apply outOk_ite | apply outOk_fault
    | dsimp only | split

theorem keep_execWsumAdd (x0 : Nat) (x1 : Nat) (x2 : BitVec 64) (x3 : State) (h3 : MemOk x3) :
    OutOk (execWsumAdd x0 x1 x2 x3) := by
  unfold execWsumAdd
  repeat' first
    | with_reducible first
        | assumption | intro _ | apply keep_onGroup | apply keep_State_wsumIssue | apply keep_State_stepGroup
        | apply memOk_ite | apply memOk_foldl | apply memOk_mem | ((conv => arg 1; arg 25); rw [memOk_mk])
        | apply outOk_next | apply outOk_onUnit | apply outOk_ite | apply outOk_fault
    | dsimp only | split

theorem keep_execWsumRed (x0 : Nat) (x1 : Nat) (x2 : BitVec 64) (x3 : State) (h3 : MemOk x3) :
    OutOk (execWsumRed x0 x1 x2 x3) := by
  unfold execWsumRed
  repeat' first
    | with_reducible first
        | assumption | intro _ | apply keep_onGroup | apply keep_State_wsumIssue | apply keep_State_stepGroup
        | apply memOk_ite | apply memOk_foldl | apply memOk_mem | ((conv => arg 1; arg 25); rw [memOk_mk])
        | apply outOk_next | apply outOk_onUnit | apply outOk_ite | apply outOk_fault
        | apply memOk_foldl2 | apply memOk_foldl3
    | dsimp only | split

theorem keep_execWsumCvt (x0 : Nat) (x1 : Nat) (x2 : BitVec 64) (x3 : State) (h3 : MemOk x3) :
    OutOk (execWsumCvt x0 x1 x2 x3) := by
  unfold execWsumCvt
  repeat' first
    | with_reducible first
        | assumption | intro _ | apply keep_onGroup | apply keep_State_wsumIssue | apply keep_State_stepGroup
        | apply memOk_ite | apply memOk_foldl | apply memOk_mem | ((conv => arg 1; arg 25); rw [memOk_mk])
        | apply outOk_next | apply outOk_onUnit | apply outOk_ite | apply outOk_fault
    | dsimp only | split

theorem keep_State_raiseMiss (x0 : State) (x1 x2 x3 : ℕ) (x4 : Cause) (h0 : MemOk x0) :
    MemOk (State.raiseMiss x0 x1 x2 x3 x4) := by
  unfold State.raiseMiss
  with_reducible repeat' first
    | assumption | apply keep_State_raisePoison | apply keep_State_raise | apply memOk_ite

theorem keep_State_l1Fill (x0 : State) (x1 x2 x3 : ℕ) (x4 : Sector) (h0 : MemOk x0) :
    MemOk (State.l1Fill x0 x1 x2 x3 x4) := by
  unfold State.l1Fill
  with_reducible repeat' first
    | assumption | apply keep_State_updCore

theorem keep_State_l1Clear (x0 : State) (x1 : ℕ) (h0 : MemOk x0) :
    MemOk (State.l1Clear x0 x1) := by
  unfold State.l1Clear
  with_reducible repeat' first
    | assumption | apply keep_State_updCore

theorem keep_State_l1Drop (x0 : State) (x1 x2 : ℕ) (h0 : MemOk x0) :
    MemOk (State.l1Drop x0 x1 x2) := by
  unfold State.l1Drop
  with_reducible repeat' first
    | assumption | apply keep_State_updCore

theorem keep_State_l1Store (x0 : State) (x1 x2 : ℕ) (x3 : List PByte) (h0 : MemOk x0) :
    MemOk (State.l1Store x0 x1 x2 x3) := by
  unfold State.l1Store
  with_reducible repeat' first
    | assumption | apply keep_State_updCore

theorem keep_State_ncRead (x0 : State) (x1 x2 x3 : ℕ) (h0 : MemOk x0) :
    MemOk (State.ncRead x0 x1 x2 x3).2 := by
  unfold State.ncRead
  repeat' first
    | with_reducible first
        | assumption | apply keep_State_l2Put | apply memOk_ite | apply memOk_ite2
    | dsimp only | split

theorem keep_State_loadBytes (x0 : State) (x1 x2 : ℕ) (x3 : Hit) (x4 : ℕ) (h0 : MemOk x0) :
    MemOk (State.loadBytes x0 x1 x2 x3 x4).2 := by
  unfold State.loadBytes
  repeat' first
    | with_reducible first
        | assumption | apply keep_State_l2Read | apply keep_State_ncRead | apply keep_State_l1Fill | apply keep_State_devRead | apply memOk_ite
        | apply memOk_ite2
    | dsimp only | split

theorem keep_State_storeBytes (x0 : State) (x1 x2 x3 : ℕ) (x4 : Hit) (x5 : List PByte) (h0 : MemOk x0) :
    MemOk (State.storeBytes x0 x1 x2 x3 x4 x5) := by
  unfold State.storeBytes
  with_reducible repeat' first
    | assumption | apply keep_State_l1Store | apply keep_State_l2Write | apply keep_State_updCluster | apply keep_State_hostFailed
    | apply keep_State_devWrite | apply memOk_ite

theorem keep_State_acquire (x0 : State) (x1 x2 : ℕ) (h0 : MemOk x0) :
    MemOk (State.acquire x0 x1 x2) := by
  unfold State.acquire
  with_reducible repeat' first
    | assumption | apply keep_State_l1Clear | apply keep_State_updCluster | apply memOk_ite

theorem keep_State_loadAll : ∀ (x4 : List Hit) (x0 : State) (x1 : ℕ) (x2 : ℕ) (x3 : ℕ), (MemOk (x0)) → MemOk (State.loadAll x0 x1 x2 x3 x4).2 := by
  intro x4
  induction x4 with
  | nil  =>
    intro x0 x1 x2 x3 h0
    unfold State.loadAll
    with_reducible repeat' first
      | assumption | apply keep_State_loadBytes | apply memOk_ite
  | cons a l ih =>
    intro x0 x1 x2 x3 h0
    unfold State.loadAll
    with_reducible repeat' first
      | assumption | apply ih | apply keep_State_loadBytes


theorem keep_State_loadPeer (x0 : State) (x1 x2 x3 : ℕ) (x4 : Bool) (x5 x6 : ℕ) (x7 : Hit) (h0 : MemOk x0) :
    MemOk (State.loadPeer x0 x1 x2 x3 x4 x5 x6 x7).2 := by
  unfold State.loadPeer
  with_reducible repeat' first
    | assumption | apply keep_State_readPeer

theorem keep_execLd (x0 x1 : ℕ) (x2 : BitVec 64) (x3 : State) (h3 : MemOk x3) :
    OutOk (execLd x0 x1 x2 x3) := by
  unfold execLd
  repeat' first
    | with_reducible first
        | assumption | intro _ | apply keep_onGroup | apply keep_State_issue | apply keep_State_checkAll | apply keep_State_raiseMiss
        | apply keep_State_loadAll | apply keep_State_startRestore | apply keep_State_raisePoison | apply keep_State_setPoisoned
        | apply keep_State_loadPeer | apply keep_State_acquire | apply keep_State_stepGroup | apply memOk_ite | apply memOk_foldl2
        | refine memOk_eq2 (by assumption) ?_
    | dsimp only | split

theorem keep_State_storePeer (x0 : State) (x1 : Nat) (x2 : Nat) (x3 : Group) (x4 : Hit) (x5 : List Byte) (h0 : MemOk x0) :
    MemOk (State.storePeer x0 x1 x2 x3 x4 x5).2 := by
  unfold State.storePeer
  repeat' first
    | with_reducible first
        | assumption | intro _ | apply keep_State_writePeer | apply keep_State_sendRequest
        | apply memOk_ite | apply memOk_foldl | apply memOk_mem | ((conv => arg 1; arg 25); rw [memOk_mk])
        | apply memOk_ite2 | apply memOk_ite1 | apply memOk_ite3 | apply memOk_foldl2
        | refine memOk_eq2 (by assumption) ?_ | refine memOk_eq1 (by assumption) ?_ | refine memOk_eq3 (by assumption) ?_
        | refine memOk_eqO (by assumption) ?_ | refine memOk_eqO2 (by assumption) ?_
    | dsimp only | split

theorem keep_execSt (x0 : Nat) (x1 : Nat) (x2 : BitVec 64) (x3 : State) (h3 : MemOk x3) :
    OutOk (execSt x0 x1 x2 x3) := by
  unfold execSt
  repeat' first
    | with_reducible first
        | assumption | intro _ | apply keep_onGroup | apply keep_State_issue | apply keep_State_checkAll | apply keep_State_raiseMiss
        | apply keep_State_storePeer | apply keep_State_storeBytes | apply keep_State_stepGroup
        | apply memOk_ite | apply memOk_foldl | apply memOk_mem | ((conv => arg 1; arg 25); rw [memOk_mk])
        | apply outOk_next | apply outOk_onUnit | apply outOk_ite | apply outOk_fault
        | refine memOk_eq2 (by assumption) ?_ | refine memOk_eq1 (by assumption) ?_ | refine memOk_eq3 (by assumption) ?_
        | refine memOk_eqO (by assumption) ?_ | refine memOk_eqO2 (by assumption) ?_
        | apply memOk_ite2 | apply memOk_ite1 | apply memOk_ite3
        | apply memOk_foldl2 | apply memOk_foldl3
    | dsimp only | split

theorem keep_State_atomFar (x0 : State) (x1 : Acc) (x2 x3 x4 : ℕ) (x5 : ℕ → ℕ) (h0 : MemOk x0) :
    MemOk (State.atomFar x0 x1 x2 x3 x4 x5).2.2 := by
  unfold State.atomFar
  with_reducible repeat' first
    | assumption | apply keep_State_homeClean | apply keep_State_takePut | apply keep_State_farHistory | apply keep_State_llcRead
    | apply keep_State_llcPut | apply memOk_ite3

theorem keep_State_atomNear (x0 : State) (x1 : Acc) (x2 x3 x4 : ℕ) (x5 : ℕ → ℕ) (h0 : MemOk x0) :
    MemOk (State.atomNear x0 x1 x2 x3 x4 x5).2.2 := by
  unfold State.atomNear
  with_reducible repeat' first
    | assumption | apply keep_State_l2Own | apply keep_State_l2Fill | apply keep_State_l2Put | apply memOk_ite3

theorem keep_State_atomHbm (x0 : State) (x1 : Acc) (x2 x3 : ℕ) (x4 x5 : ℕ) (x6 : ℕ → ℕ) (h0 : MemOk x0) :
    MemOk (State.atomHbm x0 x1 x2 x3 x4 x5 x6).2 := by
  unfold State.atomHbm
  repeat' first
    | with_reducible first
        | assumption | apply keep_State_atomFar | apply keep_State_predUpdate | apply keep_State_atomNear | apply memOk_ite | apply memOk_ite2
    | dsimp only | split

theorem keep_State_ncDrop (x0 : State) (x1 x2 x3 : ℕ) (h0 : MemOk x0) :
    MemOk (State.ncDrop x0 x1 x2 x3) := by
  unfold State.ncDrop
  with_reducible repeat' first
    | assumption | apply keep_State_updCluster | apply memOk_ite

theorem keep_State_atomHost (x0 : State) (x1 : ℕ) (x2 : Option ℕ) (x3 x4 x5 : ℕ) (x6 : ℕ → ℕ) (h0 : MemOk x0) :
    MemOk (State.atomHost x0 x1 x2 x3 x4 x5 x6).2 := by
  unfold State.atomHost
  repeat' first
    | with_reducible first
        | assumption | apply keep_State_ncDrop | apply keep_State_send | apply keep_State_hostWrite | apply memOk_ite2
    | split

theorem keep_State_atomPeer (x0 : State) (x1 x2 : ℕ) (x3 x4 x5 : ℕ) (x6 : Hit) (x7 : List (ℕ × ℕ × ℕ)) (h0 : MemOk x0) :
    MemOk (State.atomPeer x0 x1 x2 x3 x4 x5 x6 x7).2 := by
  unfold State.atomPeer
  repeat' first
    | with_reducible first
        | assumption | apply keep_State_sendRequest
    | dsimp only | split

theorem keep_State_atomAll : ∀ (x5 : List (Hit × List (ℕ × ℕ × ℕ))) (x0 : State) (x1 : ℕ) (x2 : ℕ) (x3 : ℕ) (x4 : Group), (MemOk (x0)) → MemOk (State.atomAll x0 x1 x2 x3 x4 x5).2.2 := by
  intro x5
  induction x5 with
  | nil  =>
    intro x0 x1 x2 x3 x4 h0
    unfold State.atomAll
    with_reducible repeat' first
      | assumption | apply keep_State_atomPeer | apply keep_State_atomHost | apply keep_State_hostFailed | apply keep_State_atomHbm | apply memOk_ite
      | apply memOk_ite1
  | cons a l ih =>
    intro x0 x1 x2 x3 x4 h0
    unfold State.atomAll
    with_reducible repeat' first
      | assumption | apply ih | apply keep_State_atomPeer | apply keep_State_atomHost | apply keep_State_hostFailed | apply keep_State_atomHbm
      | apply memOk_ite3


theorem keep_execAtom (x0 x1 : ℕ) (x2 : BitVec 64) (x3 : State) (h3 : MemOk x3) :
    OutOk (execAtom x0 x1 x2 x3) := by
  unfold execAtom
  repeat' first
    | with_reducible first
        | assumption | intro _ | apply keep_onGroup | apply keep_State_issue | apply keep_State_checkAll | apply keep_State_raiseMiss
        | apply keep_State_raise | apply keep_State_l1Drop | apply keep_State_startRestore | apply keep_State_raisePoison | apply keep_State_setPoisoned
        | apply keep_State_atomAll | apply keep_State_acquire | apply keep_State_stepGroup | apply memOk_ite | apply memOk_foldl
        | refine memOk_eq2 (by assumption) ?_
    | dsimp only | split

theorem keep_execFence (x0 x1 : ℕ) (x2 : BitVec 64) (x3 : State) (h3 : MemOk x3) :
    OutOk (execFence x0 x1 x2 x3) := by
  unfold execFence
  with_reducible repeat' first
    | assumption | intro _ | apply keep_onGroup | apply keep_State_issue | apply keep_State_advance | apply keep_State_acquire

theorem keep_execInvL1 (x0 x1 : ℕ) (x2 : BitVec 64) (x3 : State) (h3 : MemOk x3) :
    OutOk (execInvL1 x0 x1 x2 x3) := by
  unfold execInvL1
  with_reducible repeat' first
    | assumption | intro _ | apply keep_onGroup | apply keep_State_issue | apply keep_State_advance | apply keep_State_l1Clear

theorem keep_pinOp (x0 x1 x2 : ℕ) (x3 : State) (x4 : Group) (x5 : Acc → ℕ → State → ℕ × State) (h3 : MemOk x3) (h5 : ∀ (y0 : Acc) (y1 : ℕ) (y2 : State), MemOk y2 → MemOk (x5 y0 y1 y2).2) :
    MemOk (pinOp x0 x1 x2 x3 x4 x5) := by
  unfold pinOp
  repeat' first
    | with_reducible first
        | assumption | apply keep_State_checkHere | apply keep_State_raiseMiss | apply keep_State_stepGroup | apply h5
        | refine memOk_eq2 (by assumption) ?_
    | dsimp only | split

theorem keep_execPin (x0 x1 : ℕ) (x2 : BitVec 64) (x3 : State) (h3 : MemOk x3) :
    OutOk (execPin x0 x1 x2 x3) := by
  unfold execPin
  with_reducible repeat' first
    | assumption | intro _ | apply keep_onGroup | apply keep_State_issue | apply keep_pinOp | apply keep_State_pinLine

theorem keep_execUnpin (x0 x1 : ℕ) (x2 : BitVec 64) (x3 : State) (h3 : MemOk x3) :
    OutOk (execUnpin x0 x1 x2 x3) := by
  unfold execUnpin
  with_reducible repeat' first
    | assumption | intro _ | apply keep_onGroup | apply keep_State_issue | apply keep_pinOp | apply keep_State_unpinLine

theorem keep_execHintDead (x0 x1 : ℕ) (x2 : BitVec 64) (x3 : State) (h3 : MemOk x3) :
    OutOk (execHintDead x0 x1 x2 x3) := by
  unfold execHintDead
  repeat' first
    | with_reducible first
        | assumption | intro _ | apply keep_onGroup | apply keep_State_issue | apply keep_State_checkEach | apply keep_State_raiseMiss
        | apply keep_State_advance | apply keep_State_deadLine | apply memOk_foldl | refine memOk_eq2 (by assumption) ?_
    | dsimp only | split

theorem keep_State_lsWrite (x0 : State) (x1 x2 : ℕ) (x3 : List PByte) (h0 : MemOk x0) :
    MemOk (State.lsWrite x0 x1 x2 x3) := by
  unfold State.lsWrite
  with_reducible repeat' first
    | assumption | apply keep_State_updCore

theorem keep_execLds (x0 x1 : ℕ) (x2 : BitVec 64) (x3 : State) (h3 : MemOk x3) :
    OutOk (execLds x0 x1 x2 x3) := by
  unfold execLds
  repeat' first
    | with_reducible first
        | assumption | intro _ | apply keep_onGroup | apply keep_State_issue | apply keep_State_raise | apply keep_State_raisePoison
        | apply keep_State_stepGroup
    | dsimp only | split

theorem keep_execSts (x0 x1 : ℕ) (x2 : BitVec 64) (x3 : State) (h3 : MemOk x3) :
    OutOk (execSts x0 x1 x2 x3) := by
  unfold execSts
  repeat' first
    | with_reducible first
        | assumption | intro _ | apply keep_onGroup | apply keep_State_issue | apply keep_State_raise | apply keep_State_lsWrite
        | apply keep_State_advance | apply memOk_foldl
    | dsimp only | split

theorem keep_execFetchCode (x0 x1 : ℕ) (x2 : BitVec 64) (x3 : State) (h3 : MemOk x3) :
    OutOk (execFetchCode x0 x1 x2 x3) := by
  unfold execFetchCode
  repeat' first
    | with_reducible first
        | assumption | apply keep_onGroup | apply keep_State_checkOne | apply keep_State_raiseMiss | apply keep_State_hbmRead
        | apply keep_State_startRestore | apply keep_State_raisePoison | apply keep_State_setPoisoned | apply keep_State_updCore | apply memOk_ite
        | refine memOk_eq2 (by assumption) ?_
    | dsimp only | split

theorem keep_execNop (x0 x1 : ℕ) (x2 : BitVec 64) (x3 : State) (h3 : MemOk x3) :
    OutOk (execNop x0 x1 x2 x3) := by
  unfold execNop
  with_reducible repeat' first
    | assumption | intro _ | apply keep_onGroup | apply keep_State_issue | apply keep_State_advance

theorem keep_execBr (x0 x1 : ℕ) (x2 : BitVec 64) (x3 : State) (h3 : MemOk x3) :
    OutOk (execBr x0 x1 x2 x3) := by
  unfold execBr
  repeat' first
    | with_reducible first
        | assumption | intro _ | apply keep_onGroup | apply keep_State_issue | apply keep_State_tickWindow | apply keep_State_setGroup
        | apply keep_State_raise
    | dsimp only | split

theorem keep_jumpTo (x0 x1 : ℕ) (x2 : State) (x3 : Group) (x4 : Word) (h2 : MemOk x2) :
    MemOk (jumpTo x0 x1 x2 x3 x4) := by
  unfold jumpTo
  with_reducible repeat' first
    | assumption | apply keep_State_raise | apply keep_State_tickWindow | apply keep_State_setGroup | apply memOk_ite

theorem keep_execJmp (x0 x1 : ℕ) (x2 : BitVec 64) (x3 : State) (h3 : MemOk x3) :
    OutOk (execJmp x0 x1 x2 x3) := by
  unfold execJmp
  with_reducible repeat' first
    | assumption | intro _ | apply keep_onGroup | apply keep_State_issue | apply keep_jumpTo

theorem keep_execCall (x0 x1 : ℕ) (x2 : BitVec 64) (x3 : State) (h3 : MemOk x3) :
    OutOk (execCall x0 x1 x2 x3) := by
  unfold execCall
  with_reducible repeat' first
    | assumption | intro _ | apply keep_onGroup | apply keep_State_issue | apply keep_jumpTo

theorem keep_execExit (x0 x1 : ℕ) (x2 : BitVec 64) (x3 : State) (h3 : MemOk x3) :
    OutOk (execExit x0 x1 x2 x3) := by
  unfold execExit
  with_reducible repeat' first
    | assumption | intro _ | apply keep_onGroup | apply keep_State_issue | apply keep_State_tickWindow | apply keep_State_groupEnded
    | apply keep_State_setGroup

theorem keep_execBarGroup (x0 x1 : ℕ) (x2 : BitVec 64) (x3 : State) (h3 : MemOk x3) :
    OutOk (execBarGroup x0 x1 x2 x3) := by
  unfold execBarGroup
  with_reducible repeat' first
    | assumption | intro _ | apply keep_onGroup | apply keep_State_issue | apply keep_State_raise | apply keep_State_setGroup | apply memOk_ite

theorem keep_execBarrierStall (x0 x1 : ℕ) (x2 : State) (h2 : MemOk x2) :
    OutOk (execBarrierStall x0 x1 x2) := by
  unfold execBarrierStall
  repeat' first
    | with_reducible first
        | assumption | apply keep_onGroup | apply keep_State_raise | apply memOk_ite
    | split

theorem keep_execWaitGe (x0 x1 : ℕ) (x2 : BitVec 64) (x3 : State) (h3 : MemOk x3) :
    OutOk (execWaitGe x0 x1 x2 x3) := by
  unfold execWaitGe
  with_reducible repeat' first
    | assumption | intro _ | apply keep_onGroup | apply keep_State_issue | apply keep_State_advance

theorem keep_execCtrRd (x0 x1 : ℕ) (x2 : BitVec 64) (x3 : State) (h3 : MemOk x3) :
    OutOk (execCtrRd x0 x1 x2 x3) := by
  unfold execCtrRd
  with_reducible repeat' first
    | assumption | intro _ | apply keep_onGroup | apply keep_State_issue | apply keep_State_stepGroup

theorem keep_execCtrSet (x0 x1 : ℕ) (x2 : BitVec 64) (x3 : State) (h3 : MemOk x3) :
    OutOk (execCtrSet x0 x1 x2 x3) := by
  unfold execCtrSet
  with_reducible repeat' first
    | assumption | intro _ | apply keep_onGroup | apply keep_State_issue | apply keep_State_advance | apply keep_State_setCtr

theorem keep_execCtrAdd (x0 x1 : ℕ) (x2 : BitVec 64) (x3 : State) (h3 : MemOk x3) :
    OutOk (execCtrAdd x0 x1 x2 x3) := by
  unfold execCtrAdd
  with_reducible repeat' first
    | assumption | intro _ | apply keep_onGroup | apply keep_State_issue | apply keep_State_advance | apply keep_State_setCtr

theorem keep_execMmaWait (x0 x1 : ℕ) (x2 : BitVec 64) (x3 : State) (h3 : MemOk x3) :
    OutOk (execMmaWait x0 x1 x2 x3) := by
  unfold execMmaWait
  with_reducible repeat' first
    | assumption | intro _ | apply keep_onGroup | apply keep_State_issue | apply keep_State_advance

theorem keep_execRdsr (x0 x1 : ℕ) (x2 : BitVec 64) (x3 : State) (h3 : MemOk x3) :
    OutOk (execRdsr x0 x1 x2 x3) := by
  unfold execRdsr
  with_reducible repeat' first
    | assumption | intro _ | apply keep_onGroup | apply keep_State_issue | apply keep_State_stepGroup

theorem keep_State_raiseJobOf (x0 : State) (x1 : ℕ) (x2 : CopyJob) (x3 x4 x5 : ℕ) (h0 : MemOk x0) :
    MemOk (State.raiseJobOf x0 x1 x2 x3 x4 x5) := by
  unfold State.raiseJobOf
  with_reducible repeat' first
    | assumption | apply keep_State_errRecord | apply keep_State_updGroup | apply keep_State_kill | apply memOk_ite

theorem keep_State_raiseJob (x0 : State) (x1 : ℕ) (x2 : CopyJob) (x3 x4 : ℕ) (h0 : MemOk x0) :
    MemOk (State.raiseJob x0 x1 x2 x3 x4) := by
  unfold State.raiseJob
  with_reducible repeat' first
    | assumption | apply keep_State_raiseJobOf

theorem keep_State_putJob (x0 : State) (x1 : ℕ) (x2 : CopyJob) (h0 : MemOk x0) :
    MemOk (State.putJob x0 x1 x2) := by
  unfold State.putJob
  with_reducible repeat' first
    | assumption | apply keep_State_updCore

theorem keep_State_countBytes (x0 : State) (x1 x2 : ℕ) (x3 x4 : ℕ) (h0 : MemOk x0) :
    MemOk (State.countBytes x0 x1 x2 x3 x4) := by
  unfold State.countBytes
  with_reducible repeat' first
    | assumption | apply keep_State_setCtr

theorem keep_State_countOwn (x0 : State) (x1 x2 : ℕ) (x3 x4 : ℕ) (x5 x6 x7 : ℕ) (h0 : MemOk x0) :
    MemOk (State.countOwn x0 x1 x2 x3 x4 x5 x6 x7) := by
  unfold State.countOwn
  repeat' first
    | with_reducible first
        | assumption | apply keep_State_countBytes | apply memOk_ite
    | split

theorem keep_State_countFor (x0 : State) (x1 : ℕ) (x2 : CopyJob) (x3 : ℕ) (h0 : MemOk x0) :
    MemOk (State.countFor x0 x1 x2 x3) := by
  unfold State.countFor
  with_reducible repeat' first
    | assumption | apply keep_State_countOwn

theorem keep_State_landBytes (x0 : State) (x1 : ℕ) (x2 : CopyJob) (x3 : ℕ) (x4 : List PByte) (h0 : MemOk x0) :
    MemOk (State.landBytes x0 x1 x2 x3 x4) := by
  unfold State.landBytes
  with_reducible repeat' first
    | assumption | intro _ | apply keep_State_lsWrite | apply keep_State_countBytes | apply keep_State_countFor | apply memOk_ite | apply memOk_foldl

theorem keep_State_copyTranslate (x0 : State) (x1 : ℕ) (x2 : CopyJob) (x3 : XKind) (x4 : ℕ) (h0 : MemOk x0) :
    MemOk (State.copyTranslate x0 x1 x2 x3 x4).2 := by
  unfold State.copyTranslate
  with_reducible repeat' first
    | assumption | apply keep_State_checkOne

theorem keep_State_copyHits : ∀ (x4 : List (ℕ × ℕ)) (x0 : State) (x1 : ℕ) (x2 : CopyJob) (x3 : XKind), (MemOk (x0)) → MemOk (State.copyHits x0 x1 x2 x3 x4).2 := by
  intro x4
  induction x4 with
  | nil  =>
    intro x0 x1 x2 x3 h0
    unfold State.copyHits
    with_reducible repeat' first
      | assumption | apply keep_State_copyTranslate | apply memOk_ite | refine memOk_eq3 (by assumption) ?_
  | cons a l ih =>
    intro x0 x1 x2 x3 h0
    unfold State.copyHits
    repeat' first
      | with_reducible first
          | assumption | apply ih | apply keep_State_copyTranslate | refine memOk_eq2 (by assumption) ?_
      | split


theorem keep_State_landStep (x0 : State) (x1 : ℕ) (x2 : CopyJob) (h0 : MemOk x0) :
    MemOk (State.landStep x0 x1 x2) := by
  unfold State.landStep
  with_reducible repeat' first
    | assumption | intro _ | apply keep_State_putJob | apply keep_State_landBytes | apply memOk_ite | apply memOk_foldl

theorem keep_State_notePoison (x0 : State) (x1 : Nat) (x2 : List PByte) (h0 : MemOk x0) :
    MemOk (State.notePoison x0 x1 x2) := by
  unfold State.notePoison
  repeat' first
    | with_reducible first
        | assumption | intro _ | apply keep_State_setPoisoned
        | apply memOk_ite | apply memOk_foldl | apply memOk_mem | ((conv => arg 1; arg 25); rw [memOk_mk])
    | dsimp only | split

theorem keep_State_loadStep (x0 : State) (x1 : Nat) (x2 : CopyJob) (x3 : Nat) (h0 : MemOk x0) :
    MemOk (State.loadStep x0 x1 x2 x3) := by
  unfold State.loadStep
  repeat' first
    | with_reducible first
        | assumption | intro _ | apply keep_State_copyHits | apply keep_State_raiseJob | apply keep_State_devRead | apply keep_State_mend
        | apply keep_State_notePoison | apply keep_State_readPeer | apply keep_State_landStep
        | apply memOk_ite | apply memOk_foldl | apply memOk_mem | ((conv => arg 1; arg 25); rw [memOk_mk])
        | refine memOk_eq2 (by assumption) ?_ | refine memOk_eq1 (by assumption) ?_ | refine memOk_eq3 (by assumption) ?_
        | refine memOk_eqO (by assumption) ?_ | refine memOk_eqO2 (by assumption) ?_
        | apply memOk_ite2 | apply memOk_ite1 | apply memOk_ite3
        | apply memOk_foldl2 | apply memOk_foldl3
        | apply optOk_findSome
    | dsimp only | split

theorem keep_State_copyWrite (x0 : State) (x1 : ℕ) (x2 : CopyJob) (x3 : Hit) (x4 : List PByte) (h0 : MemOk x0) :
    MemOk (State.copyWrite x0 x1 x2 x3 x4) := by
  unfold State.copyWrite
  with_reducible repeat' first
    | assumption | intro _ | apply keep_State_l1Drop | apply keep_State_devWrite | apply keep_State_ncDrop | apply keep_State_hostFailed
    | apply memOk_ite | apply memOk_foldl

theorem keep_State_copySend (x0 : State) (x1 : ℕ) (x2 : CopyJob) (x3 : ℕ × ℕ × Hit) (x4 : List Byte) (x5 : Bool) (h0 : MemOk x0) :
    MemOk (State.copySend x0 x1 x2 x3 x4 x5).2 := by
  unfold State.copySend
  with_reducible repeat' first
    | assumption | apply keep_State_writePeer

theorem keep_State_sentTo (x0 : State) (x1 : Nat) (x2 : CopyJob) (h0 : MemOk x0) :
    MemOk (State.sentTo x0 x1 x2) := by
  unfold State.sentTo
  repeat' first
    | with_reducible first
        | assumption | intro _ | apply keep_State_putJob | apply keep_State_closeEnded
        | apply memOk_ite | apply memOk_foldl | apply memOk_mem | ((conv => arg 1; arg 25); rw [memOk_mk])
    | dsimp only | split

theorem keep_State_storeStep (x0 : State) (x1 : Nat) (x2 : CopyJob) (x3 : Nat) (h0 : MemOk x0) :
    MemOk (State.storeStep x0 x1 x2 x3) := by
  unfold State.storeStep
  repeat' first
    | with_reducible first
        | assumption | intro _ | apply keep_State_copyHits | apply keep_State_raiseJob | apply keep_State_raiseJobOf | apply keep_State_copySend
        | apply keep_State_copyWrite | apply keep_State_countFor | apply keep_State_sentTo
        | apply memOk_ite | apply memOk_foldl | apply memOk_mem | ((conv => arg 1; arg 25); rw [memOk_mk])
        | refine memOk_eq2 (by assumption) ?_ | refine memOk_eq1 (by assumption) ?_ | refine memOk_eq3 (by assumption) ?_
        | refine memOk_eqO (by assumption) ?_ | refine memOk_eqO2 (by assumption) ?_
        | apply memOk_ite2 | apply memOk_ite1 | apply memOk_ite3
        | apply memOk_foldl2 | apply memOk_foldl3
    | dsimp only | split

theorem keep_State_pushStep (x0 : State) (x1 : ℕ) (x2 : CopyJob) (x3 : ℕ) (h0 : MemOk x0) :
    MemOk (State.pushStep x0 x1 x2 x3) := by
  unfold State.pushStep
  with_reducible repeat' first
    | assumption | intro _ | apply keep_State_landBytes | apply keep_State_putJob | apply memOk_foldl

theorem keep_State_fetchVirt (n : Nat) : ∀ s core j va m, MemOk s → MemOk (State.fetchVirt n s core j va m).2.2 := by
  induction n with
  | zero =>
    intro s core j va m h
    exact h
  | succ n ih =>
    intro s core j va m h
    unfold State.fetchVirt
    repeat' first
      | with_reducible first
        | assumption | intro _ | apply ih | apply keep_State_copyTranslate | apply keep_State_readPeer | apply keep_State_devRead | apply keep_State_mend | apply keep_State_notePoison
        | apply memOk_ite | apply memOk_foldl | apply memOk_foldl2 | apply memOk_foldl3 | apply memOk_mem | apply memOk_ite2 | apply memOk_ite1 | apply memOk_ite3 | apply outOk_next | apply outOk_onUnit | apply outOk_ite | apply outOk_fault | apply optOk_some | apply optOk_none | apply optOk_ite | apply optOk2_some | apply optOk2_none | ((conv => arg 1; arg 25); rw [memOk_mk])
        | refine memOk_eq3 (by assumption) ?_ | refine memOk_eq2 (by assumption) ?_ | refine memOk_eqO (by assumption) ?_ | refine memOk_eqO2 (by assumption) ?_
      | dsimp only | split

theorem keep_State_fetch (x0 : State) (x1 : ℕ) (x2 : CopyJob) (x3 x4 : ℕ) (h0 : MemOk x0) :
    MemOk (State.fetch x0 x1 x2 x3 x4).2.2 := by
  unfold State.fetch
  with_reducible repeat' first
    | assumption | apply keep_State_fetchVirt | apply memOk_ite3

theorem keep_onBytes (x0 : ℕ) (x1 : Progress) (x2 : Fetched × CopyJob × State) (x3 : List PByte →   Progress → Option (List PByte) × Progress) (h1 : MemOk x1.s) (h2 : MemOk x2.2.2) (h3 : ∀ (y0 : List PByte) (y1 : Progress), MemOk y1.s → MemOk (x3 y0 y1).2.s) :
    MemOk (onBytes x0 x1 x2 x3).2.s := by
  unfold onBytes
  repeat' first
    | with_reducible first
        | assumption | apply keep_State_raiseJob | apply h3
    | split

theorem keep_readTable (x0 : ℕ) (x1 : Progress) (h1 : MemOk x1.s) :
    MemOk (readTable x0 x1).2.s := by
  unfold readTable
  repeat' first
    | with_reducible first
        | assumption | intro _ | apply keep_onBytes | apply keep_State_fetch | apply keep_State_raiseJob | apply memOk_ite2S
        | refine memOk_eqP (by assumption) ?_
    | dsimp only | split

theorem keep_packedAt (x0 : ℕ) (x1 : Progress) (x2 : ℕ) (h1 : MemOk x1.s) :
    MemOk (packedAt x0 x1 x2).2.s := by
  unfold packedAt
  repeat' first
    | with_reducible first
        | assumption | intro _ | apply keep_State_raiseJob | apply keep_onBytes | apply keep_State_fetch | apply memOk_ite2S
        | refine memOk_eqP (by assumption) ?_
    | dsimp only | split

theorem keep_blockBytes (x0 : ℕ) (x1 : Progress) (x2 : ℕ) (h1 : MemOk x1.s) :
    MemOk (blockBytes x0 x1 x2).2.s := by
  unfold blockBytes
  repeat' first
    | with_reducible first
        | assumption | intro _ | apply keep_onBytes | apply keep_State_fetch | apply keep_packedAt | apply keep_State_raiseJob | apply memOk_ite2S
        | refine memOk_eqP (by assumption) ?_
    | split

theorem keep_blockFails (x0 : ℕ) (x1 : Progress) (x2 : ℕ) (h1 : MemOk x1.s) :
    MemOk (blockFails x0 x1 x2).s := by
  unfold blockFails
  with_reducible repeat' first
    | assumption | intro _ | apply keep_State_startRestore | apply keep_State_raiseJob | apply keep_State_setPoisoned | apply memOk_foldl
    | apply memOk_iteS

theorem keep_loadBlock (x0 : ℕ) (x1 : Progress) (x2 : ℕ) (h1 : MemOk x1.s) :
    MemOk (loadBlock x0 x1 x2).s := by
  unfold loadBlock
  repeat' first
    | with_reducible first
        | assumption | intro _ | apply keep_blockBytes | apply keep_readTable | apply keep_State_raiseJob | apply keep_onBytes | apply keep_State_fetch
        | apply keep_blockFails | apply memOk_iteS | refine memOk_eqP (by assumption) ?_
    | dsimp only | split

theorem keep_State_blockLoad (x0 : State) (x1 : ℕ) (x2 : CopyJob) (x3 : ℕ) (h0 : MemOk x0) :
    MemOk (State.blockLoad x0 x1 x2 x3) := by
  unfold State.blockLoad
  with_reducible repeat' first
    | assumption | intro _ | apply keep_loadBlock | apply keep_State_putJob | apply keep_State_landBytes | apply memOk_ite | apply memOk_foldl
    | apply memOk_foldlS

theorem keep_State_putCrc (x0 : State) (x1 : ℕ) (x2 : CopyJob) (x3 : Hit) (x4 : List Byte) (h0 : MemOk x0) :
    MemOk (State.putCrc x0 x1 x2 x3 x4) := by
  unfold State.putCrc
  with_reducible repeat' first
    | assumption | apply keep_State_copyWrite | apply memOk_ite

theorem keep_State_storeHits : ∀ (x4 : List ℕ) (x0 : State) (x1 : ℕ) (x2 : CopyJob) (x3 : ℕ × ℕ), (MemOk (x0)) → MemOk (State.storeHits x0 x1 x2 x3 x4).2 := by
  intro x4
  induction x4 with
  | nil  =>
    intro x0 x1 x2 x3 h0
    unfold State.storeHits
    with_reducible repeat' first
      | assumption | apply keep_State_copyTranslate | apply memOk_ite | refine memOk_eq3 (by assumption) ?_
  | cons a l ih =>
    intro x0 x1 x2 x3 h0
    unfold State.storeHits
    repeat' first
      | with_reducible first
          | assumption | apply ih | apply keep_State_copyTranslate | refine memOk_eq2 (by assumption) ?_
      | split


theorem keep_State_blockStore (x0 : State) (x1 : Nat) (x2 : CopyJob) (x3 : Nat) (h0 : MemOk x0) :
    MemOk (State.blockStore x0 x1 x2 x3) := by
  unfold State.blockStore
  repeat' first
    | with_reducible first
        | assumption | intro _ | apply keep_readTable | apply keep_State_putJob | apply keep_State_storeHits | apply keep_State_raiseJob
        | apply keep_State_raiseJobOf | apply keep_State_writePeer | apply keep_State_putCrc | apply keep_State_copySend | apply keep_State_copyWrite
        | apply keep_State_countFor | apply keep_State_sentTo
        | apply memOk_ite | apply memOk_foldl | apply memOk_mem | ((conv => arg 1; arg 25); rw [memOk_mk])
        | refine memOk_eq2 (by assumption) ?_ | refine memOk_eq1 (by assumption) ?_ | refine memOk_eq3 (by assumption) ?_
        | refine memOk_eqO (by assumption) ?_ | refine memOk_eqO2 (by assumption) ?_
        | apply memOk_ite2 | apply memOk_ite1 | apply memOk_ite3
        | apply memOk_foldl2 | apply memOk_foldl3
        | refine memOk_eqP (by assumption) ?_ | refine memOk_eqQ (by assumption) ?_
    | dsimp only | split

theorem keep_State_finFault (x0 : State) (x1 : ℕ) (x2 : CopyJob) (h0 : MemOk x0) :
    MemOk (State.finFault x0 x1 x2).2 := by
  unfold State.finFault
  repeat' first
    | with_reducible first
        | assumption | apply keep_State_copyTranslate | apply memOk_ite2 | refine memOk_eq2 (by assumption) ?_
    | split

theorem keep_State_moveCopy (x0 : State) (x1 : ℕ) (x2 : CopyJob) (x3 : ℕ) (h0 : MemOk x0) :
    MemOk (State.moveCopy x0 x1 x2 x3) := by
  unfold State.moveCopy
  repeat' first
    | with_reducible first
        | assumption | apply keep_State_finFault | apply keep_State_raiseJob | apply keep_State_pushStep | apply keep_State_blockLoad
        | apply keep_State_blockStore | apply keep_State_loadStep | apply keep_State_storeStep | apply memOk_ite | refine memOk_eq2 (by assumption) ?_
    | dsimp only | split

theorem keep_execCopyDataLanded (x0 x1 x2 : ℕ) (x3 : State) (h3 : MemOk x3) :
    OutOk (execCopyDataLanded x0 x1 x2 x3) := by
  unfold execCopyDataLanded
  repeat' first
    | with_reducible first
        | assumption | apply keep_onUnit | apply keep_State_moveCopy | apply memOk_ite
    | split

theorem keep_State_stagedBytes (x0 : State) (x1 : Nat) (x2 : CopyJob) (h0 : MemOk x0) :
    MemOk (State.stagedBytes x0 x1 x2).2 := by
  unfold State.stagedBytes
  repeat' first
    | with_reducible first
        | assumption | intro _ | apply keep_State_copyHits | apply keep_State_hbmRead | apply keep_State_mend | apply keep_State_take
        | apply keep_State_notePoison
        | apply memOk_ite | apply memOk_foldl | apply memOk_mem | ((conv => arg 1; arg 25); rw [memOk_mk])
        | apply optOk_some | apply optOk_none | apply optOk_ite | apply optOk2_some | apply optOk2_none
        | apply memOk_ite2 | apply memOk_ite1 | apply memOk_ite3 | apply memOk_foldl2
        | refine memOk_eq2 (by assumption) ?_ | refine memOk_eq1 (by assumption) ?_ | refine memOk_eq3 (by assumption) ?_
        | refine memOk_eqO (by assumption) ?_ | refine memOk_eqO2 (by assumption) ?_
        | apply memOk_foldl3
        | apply optOk_findSome
    | dsimp only | split

theorem keep_State_claim (x0 : State) (x1 : ℕ) (x2 : Staged) (x3 : CopyJob) (x4 : State → State) (h0 : MemOk x0) (h4 : ∀ (y0 : State), MemOk y0 → MemOk (x4 y0)) :
    MemOk (State.claim x0 x1 x2 x3 x4) := by
  unfold State.claim
  repeat' first
    | with_reducible first
        | assumption | intro _ | apply keep_State_updCore | apply keep_State_stagedBytes | apply keep_State_landBytes | apply h4 | apply memOk_ite2
        | apply memOk_foldl | refine memOk_eq2 (by assumption) ?_
    | dsimp only | split

theorem keep_State_startCopy (x0 : State) (x1 : ℕ) (x2 : CopyJob) (h0 : MemOk x0) :
    MemOk (State.startCopy x0 x1 x2) := by
  unfold State.startCopy
  with_reducible repeat' first
    | assumption | apply keep_State_updCore

theorem keep_execCpAsync (x0 x1 : ℕ) (x2 x3 : BitVec 64) (x4 : State) (h4 : MemOk x4) :
    OutOk (execCpAsync x0 x1 x2 x3 x4) := by
  unfold execCpAsync
  repeat' first
    | with_reducible first
        | assumption | intro _ | apply keep_onGroup | apply keep_State_issue | apply keep_State_raise | apply keep_State_dropStaged
        | apply keep_State_stepGroup | apply keep_State_updCore | apply keep_State_advance | apply keep_State_claim | apply keep_State_startCopy
        | apply memOk_ite
    | split

theorem keep_State_scan : ∀ (x0 : ℕ) (x1 : State) (x2 : ℕ) (x3 : ℕ) (x4 : Group) (x5 : List ℕ) (x6 : Bool) (x8 : List Word) (x7 : Word), (MemOk (x1)) → MemOk (State.scan x0 x1 x2 x3 x4 x5 x6 x8 x7) := by
  intro x0
  induction x0 with
  | zero  =>
    intro x1 x2 x3 x4 x5 x6 x8 x7 h1
    unfold State.scan
    repeat' first
      | with_reducible first
          | assumption | apply keep_State_updCore | apply memOk_ite | apply memOk_ite2
      | split
  | succ n ih =>
    intro x1 x2 x3 x4 x5 x6 x8 x7 h1
    unfold State.scan
    repeat' first
      | with_reducible first
          | assumption | apply ih | apply keep_State_updCore | apply memOk_ite
      | dsimp only | split


theorem keep_execRunAhead (x0 x1 : ℕ) (x3 : Word) (x4 : List Word) (x2 : State) (h2 : MemOk x2) :
    OutOk (execRunAhead x0 x1 x3 x4 x2) := by
  unfold execRunAhead
  repeat' first
    | with_reducible first
        | assumption | apply keep_onGroup | apply keep_State_scan | apply keep_State_setGroup | apply keep_State_dropStaged | apply memOk_ite
    | dsimp only | split

theorem keep_execRunAheadStaged (x0 x1 : ℕ) (x2 : State) (h2 : MemOk x2) :
    OutOk (execRunAheadStaged x0 x1 x2) := by
  unfold execRunAheadStaged
  repeat' first
    | with_reducible first
        | assumption | apply keep_onUnit | apply keep_State_updCore | apply keep_State_stagedBytes | apply memOk_ite
        | refine memOk_eq2 (by assumption) ?_
    | split

theorem keep_State_respond (x0 : State) (x1 x2 : ℕ) (x3 : List Byte) (h0 : MemOk x0) :
    MemOk (State.respond x0 x1 x2 x3) := by
  unfold State.respond
  repeat' first
    | with_reducible first
        | assumption | apply keep_State_updInst | apply keep_State_event | apply memOk_ite | apply memOk_mem | ((conv => arg 1; arg 25); rw [memOk_mk])
    | dsimp only | split

theorem keep_State_controlEvent (x0 : State) (x1 : BitVec 32) (x2 : Bool) (x3 : ℕ) (h0 : MemOk x0) :
    MemOk (State.controlEvent x0 x1 x2 x3) := by
  unfold State.controlEvent
  with_reducible repeat' first
    | assumption | apply keep_State_eventTo

theorem keep_State_applyClock (x0 : State) (x1 : ℕ) (h0 : MemOk x0) :
    MemOk (State.applyClock x0 x1) := by
  unfold State.applyClock
  with_reducible repeat' first
    | assumption | apply keep_State_updSectorClk

theorem keep_State_reclock (x0 : State) (x1 : ℕ) (h0 : MemOk x0) :
    MemOk (State.reclock x0 x1) := by
  unfold State.reclock
  with_reducible repeat' first
    | assumption | apply keep_State_updSectorClk

theorem keep_State_floorEvent (x0 : State) (x1 : ℕ) (x2 : Bool) (x3 : ℕ) (h0 : MemOk x0) :
    MemOk (State.floorEvent x0 x1 x2 x3) := by
  unfold State.floorEvent
  with_reducible repeat' first
    | assumption | apply keep_State_eventTo

theorem keep_State_freeSlot (x0 : State) (x1 : Nat) (x2 : Nat) (h0 : MemOk x0) :
    MemOk (State.freeSlot x0 x1 x2) := by
  unfold State.freeSlot
  repeat' first
    | with_reducible first
        | assumption | intro _ | apply keep_State_updCore | apply keep_State_closeEnded
        | apply memOk_ite | apply memOk_foldl | apply memOk_mem | ((conv => arg 1; arg 25); rw [memOk_mk])
        | refine memOk_eq2 (by assumption) ?_ | refine memOk_eq1 (by assumption) ?_ | refine memOk_eq3 (by assumption) ?_
        | refine memOk_eqO (by assumption) ?_ | refine memOk_eqO2 (by assumption) ?_
    | dsimp only | split

theorem keep_State_endCopies (x0 : State) (x1 : Nat) (x2 : CopyJob → Bool) (x3 : MatOp → Bool) (h0 : MemOk x0) :
    MemOk (State.endCopies x0 x1 x2 x3) := by
  unfold State.endCopies
  repeat' first
    | with_reducible first
        | assumption | intro _ | apply keep_State_updCore | apply keep_State_closeEnded
        | apply memOk_ite | apply memOk_foldl | apply memOk_mem | ((conv => arg 1; arg 25); rw [memOk_mk])
    | dsimp only | split

theorem keep_State_clearSlot (x0 : State) (x1 : Nat) (x2 : Nat) (h0 : MemOk x0) :
    MemOk (State.clearSlot x0 x1 x2) := by
  unfold State.clearSlot
  repeat' first
    | with_reducible first
        | assumption | intro _ | apply keep_State_freeSlot | apply keep_State_endCopies | apply keep_State_updCluster
        | apply memOk_ite | apply memOk_foldl | apply memOk_mem | ((conv => arg 1; arg 25); rw [memOk_mk])
        | refine memOk_eq2 (by assumption) ?_ | refine memOk_eq1 (by assumption) ?_ | refine memOk_eq3 (by assumption) ?_
        | refine memOk_eqO (by assumption) ?_ | refine memOk_eqO2 (by assumption) ?_
    | dsimp only | split

theorem keep_State_requeue (x0 : State) (x1 : ℕ) (x2 : Group) (h0 : MemOk x0) :
    MemOk (State.requeue x0 x1 x2) := by
  unfold State.requeue
  with_reducible repeat' first
    | assumption | apply keep_State_updLaunch | apply keep_State_updCluster

theorem keep_State_killAt (x0 : State) (x1 x2 x3 : ℕ) (x4 : BitVec 32) (x5 : Word) (x6 : ℕ) (h0 : MemOk x0) :
    MemOk (State.killAt x0 x1 x2 x3 x4 x5 x6) := by
  unfold State.killAt
  with_reducible repeat' first
    | assumption | apply keep_State_kill

theorem keep_State_loseTask (x0 : State) (x1 x2 : ℕ) (x3 : Bool) (h0 : MemOk x0) :
    MemOk (State.loseTask x0 x1 x2 x3) := by
  unfold State.loseTask
  repeat' first
    | with_reducible first
        | assumption | apply keep_State_clearSlot | apply keep_State_killAt | apply keep_State_updLaunch | apply keep_State_requeue | apply memOk_ite
    | dsimp only | split

theorem keep_State_wipeCore (x0 : State) (x1 : Nat) (h0 : MemOk x0) :
    MemOk (State.wipeCore x0 x1) := by
  unfold State.wipeCore
  repeat' first
    | with_reducible first
        | assumption | intro _ | apply keep_State_endCopies | apply keep_State_updCore
        | apply memOk_ite | apply memOk_foldl | apply memOk_mem | ((conv => arg 1; arg 25); rw [memOk_mk])
    | dsimp only | split

theorem keep_State_coreLost (x0 : State) (x1 : ℕ) (x2 : Bool) (h0 : MemOk x0) :
    MemOk (State.coreLost x0 x1 x2) := by
  unfold State.coreLost
  with_reducible repeat' first
    | assumption | intro _ | apply keep_State_wipeCore | apply keep_State_loseTask | apply memOk_foldr

theorem keep_State_stopTask (x0 : State) (x1 x2 : ℕ) (h0 : MemOk x0) :
    MemOk (State.stopTask x0 x1 x2) := by
  unfold State.stopTask
  repeat' first
    | with_reducible first
        | assumption | apply keep_State_clearSlot | apply keep_State_requeue | apply memOk_ite
    | dsimp only | split

theorem keep_State_overwrite (s : State) (lo hi : Nat) (h : MemOk s) : MemOk (s.overwrite lo hi) :=
  ⟨NMap_canon_filter _ h.1, h.2⟩

theorem keep_State_markSaved (x0 : State) (x1 : Nat) (h0 : MemOk x0) :
    MemOk (State.markSaved x0 x1) := by
  unfold State.markSaved
  repeat' first
    | with_reducible first
        | assumption | intro _ | apply keep_State_overwrite
        | apply memOk_ite | apply memOk_foldl | apply memOk_mem | ((conv => arg 1; arg 25); rw [memOk_mk])
    | dsimp only | split

theorem keep_State_saveLaunch (x0 : State) (x1 : Launch) (h0 : MemOk x0) :
    MemOk (State.saveLaunch x0 x1) := by
  unfold State.saveLaunch
  with_reducible repeat' first
    | assumption | intro _ | apply keep_State_updCore | apply keep_State_updCluster | apply keep_State_setLaunch | apply keep_State_markSaved
    | apply memOk_foldl

theorem keep_State_restoreImage (x0 : State) (x1 : Launch) (x2 : CoreImage) (h0 : MemOk x0) :
    MemOk (State.restoreImage x0 x1 x2) := by
  unfold State.restoreImage
  with_reducible repeat' first
    | assumption | intro _ | apply keep_State_updCore | apply keep_State_askCommit | apply memOk_foldl

theorem keep_State_restoreLaunch (x0 : State) (x1 : Launch) (h0 : MemOk x0) :
    MemOk (State.restoreLaunch x0 x1) := by
  unfold State.restoreLaunch
  repeat' first
    | with_reducible first
        | assumption | intro _ | apply keep_State_setLaunch | apply keep_State_killAt | apply keep_State_requeue | apply keep_State_restoreImage
        | apply memOk_ite | apply memOk_foldl
    | dsimp only | split

theorem keep_State_unitRecord (x0 : State) (x1 : ℕ) (x2 : BitVec 32) (x3 : List ℕ) (h0 : MemOk x0) :
    MemOk (State.unitRecord x0 x1 x2 x3) := by
  unfold State.unitRecord
  with_reducible repeat' first
    | assumption | apply keep_State_errRecord

theorem keep_State_markFenced (x0 : State) (x1 : ℕ) (h0 : MemOk x0) :
    MemOk (State.markFenced x0 x1) := by
  unfold State.markFenced
  with_reducible repeat' first
    | assumption | apply memOk_mem | ((conv => arg 1; arg 25); rw [memOk_mk])

theorem keep_State_killAll (x0 : State) (x1 : BitVec 32) (x2 : List Launch) (h0 : MemOk x0) :
    MemOk (State.killAll x0 x1 x2) := by
  unfold State.killAll
  with_reducible repeat' first
    | assumption | intro _ | apply keep_State_killAt | apply memOk_ite | apply memOk_foldl

theorem keep_State_fenceCluster (x0 : State) (x1 : ℕ) (x2 : Bool) (h0 : MemOk x0) :
    MemOk (State.fenceCluster x0 x1 x2) := by
  unfold State.fenceCluster
  with_reducible repeat' first
    | assumption | intro _ | apply keep_State_markFenced | apply keep_State_coreLost | apply keep_State_flushL2 | apply keep_State_updCluster
    | apply keep_State_killAll | apply keep_State_unitRecord | apply memOk_ite | apply memOk_foldl

theorem keep_State_fenceCore (x0 : State) (x1 : ℕ) (x2 : Bool) (h0 : MemOk x0) :
    MemOk (State.fenceCore x0 x1 x2) := by
  unfold State.fenceCore
  with_reducible repeat' first
    | assumption | apply keep_State_markFenced | apply keep_State_coreLost | apply keep_State_updCluster | apply keep_State_unitRecord
    | apply keep_State_fenceCluster | apply memOk_ite

theorem keep_State_fenceSector (x0 : State) (x1 : ℕ) (h0 : MemOk x0) :
    MemOk (State.fenceSector x0 x1) := by
  unfold State.fenceSector
  with_reducible repeat' first
    | assumption | intro _ | apply keep_State_coreLost | apply keep_State_applyClock | apply keep_State_updSectorClk | apply keep_State_unitRecord
    | apply memOk_mem | apply memOk_foldl | ((conv => arg 1; arg 25); rw [memOk_mk])

theorem keep_State_fenceUnit (x0 : State) (x1 : BitVec 32) (x2 x3 : Bool) (h0 : MemOk x0) :
    MemOk (State.fenceUnit x0 x1 x2 x3) := by
  unfold State.fenceUnit
  repeat' first
    | with_reducible first
        | assumption | apply keep_State_fenceCore | apply keep_State_fenceCluster | apply keep_State_fenceSector | apply memOk_ite
    | split

theorem keep_State_emitEddy (x0 : State) (x1 x2 x3 : ℕ) (x4 : Bool) (x5 : ℕ) (x6 : List Byte) (h0 : MemOk x0) :
    MemOk (State.emitEddy x0 x1 x2 x3 x4 x5 x6) := by
  unfold State.emitEddy
  with_reducible repeat' first
    | assumption | apply keep_State_send | apply keep_State_setBundle

theorem keep_State_sendEddyData (x0 : State) (x1 x2 : ℕ) (x3 : SentEddy) (h0 : MemOk x0) :
    MemOk (State.sendEddyData x0 x1 x2 x3) := by
  unfold State.sendEddyData
  with_reducible repeat' first
    | assumption | apply keep_State_emitEddy

theorem keep_State_transmitEddy (x0 : State) (x1 x2 : ℕ) (x3 : SentEddy) (h0 : MemOk x0) :
    MemOk (State.transmitEddy x0 x1 x2 x3) := by
  unfold State.transmitEddy
  with_reducible repeat' first
    | assumption | apply keep_State_sendEddyData | apply keep_State_setBundle

theorem keep_State_sendEddy (x0 : State) (x1 x2 : ℕ) (x3 : SentEddy) (h0 : MemOk x0) :
    MemOk (State.sendEddy x0 x1 x2 x3) := by
  unfold State.sendEddy
  with_reducible repeat' first
    | assumption | apply keep_State_transmitEddy | apply keep_State_setBundle | apply memOk_ite

theorem keep_State_sendAlong (x0 : State) (x1 : List Hop) (x2 : SentEddy) (h0 : MemOk x0) :
    MemOk (State.sendAlong x0 x1 x2) := by
  unfold State.sendAlong
  repeat' first
    | with_reducible first
        | assumption | intro _ | apply keep_State_sendEddy
        | apply memOk_ite | apply memOk_foldl | apply memOk_mem | ((conv => arg 1; arg 25); rw [memOk_mk])
    | dsimp only | split

theorem keep_State_dieMessage (x0 : State) (x1 : Nat) (x2 : Nat) (x3 : Nat) (x4 : Nat) (x5 : Nat) (x6 : Nat) (h0 : MemOk x0) :
    MemOk (State.dieMessage x0 x1 x2 x3 x4 x5 x6) := by
  unfold State.dieMessage
  repeat' first
    | with_reducible first
        | assumption | intro _ | apply keep_State_sendAlong
        | apply memOk_ite | apply memOk_foldl | apply memOk_mem | ((conv => arg 1; arg 25); rw [memOk_mk])
    | dsimp only | split

theorem keep_State_toSteward (x0 : State) (x1 : BitVec 32) (h0 : MemOk x0) :
    MemOk (State.toSteward x0 x1) := by
  unfold State.toSteward
  repeat' first
    | with_reducible first
        | assumption | intro _ | apply keep_State_dieMessage
        | apply memOk_ite | apply memOk_foldl | apply memOk_mem | ((conv => arg 1; arg 25); rw [memOk_mk])
    | dsimp only | split

theorem keep_State_control (x0 : State) (x1 : BitVec 32) (x2 : DrainWhy) (h0 : MemOk x0) :
    MemOk (State.control x0 x1 x2) := by
  unfold State.control
  repeat' first
    | with_reducible first
        | assumption | intro _ | apply keep_State_toSteward
        | apply memOk_ite | apply memOk_foldl | apply memOk_mem | ((conv => arg 1; arg 25); rw [memOk_mk])
    | dsimp only | split

theorem keep_State_endControl (x0 : State) (x1 : Drain) (h0 : MemOk x0) :
    MemOk (State.endControl x0 x1) := by
  unfold State.endControl
  with_reducible repeat' first
    | assumption | apply memOk_mem | ((conv => arg 1; arg 25); rw [memOk_mk])

theorem keep_State_fenceInTurn (x0 : State) (x1 : BitVec 32) (x2 : State → State) (h0 : MemOk x0) (h2 : ∀ (y0 : State), MemOk y0 → MemOk (x2 y0)) :
    MemOk (State.fenceInTurn x0 x1 x2) := by
  unfold State.fenceInTurn
  with_reducible repeat' first
    | assumption | apply keep_State_control | apply h2 | apply memOk_ite

theorem keep_State_beginControl (x0 : State) (x1 : Drain) (h0 : MemOk x0) :
    MemOk (State.beginControl x0 x1) := by
  unfold State.beginControl
  repeat' first
    | with_reducible first
        | assumption | intro _ | apply keep_State_updCore | apply keep_State_controlEvent | apply memOk_ite | apply memOk_mem | apply memOk_foldl
        | ((conv => arg 1; arg 25); rw [memOk_mk])
    | dsimp only | split

theorem keep_State_actControl (x0 : State) (x1 : Drain) (h0 : MemOk x0) :
    MemOk (State.actControl x0 x1) := by
  unfold State.actControl
  repeat' first
    | with_reducible first
        | assumption | intro _ | apply keep_State_endControl | apply keep_State_controlEvent | apply keep_State_wipeCore | apply keep_State_fenceUnit
        | apply keep_State_applyClock | apply keep_State_updSectorClk | apply keep_State_narrowLink | apply keep_State_flushL2 | apply memOk_ite | apply memOk_mem
        | apply memOk_foldl | ((conv => arg 1; arg 25); rw [memOk_mk])
    | dsimp only | split

theorem keep_State_runControls : ∀ (x0 : ℕ) (x1 : State), (MemOk (x1)) → MemOk (State.runControls x0 x1) := by
  intro x0
  induction x0 with
  | zero  =>
    intro x1 h1
    unfold State.runControls
    with_reducible repeat' first
      | assumption | apply keep_State_actControl | apply keep_State_beginControl | apply memOk_ite | apply memOk_ite2
  | succ n ih =>
    intro x1 h1
    unfold State.runControls
    repeat' first
      | with_reducible first
          | assumption | apply ih | apply keep_State_actControl | apply keep_State_beginControl | apply memOk_ite
      | split


theorem keep_State_restoreDrained (x0 : State) (h0 : MemOk x0) :
    MemOk (State.restoreDrained x0) := by
  unfold State.restoreDrained
  with_reducible repeat' first
    | assumption | intro _ | apply keep_State_restoreLaunch | apply memOk_ite | apply memOk_foldl

theorem keep_State_endPreempts (x0 : State) (h0 : MemOk x0) :
    MemOk (State.endPreempts x0) := by
  unfold State.endPreempts
  with_reducible repeat' first
    | assumption | intro _ | apply keep_State_updInst | apply keep_State_respond | apply memOk_ite | apply memOk_mem | apply memOk_foldl
    | ((conv => arg 1; arg 25); rw [memOk_mk])

theorem keep_State_settleControls (x0 : State) (h0 : MemOk x0) :
    MemOk (State.settleControls x0) := by
  unfold State.settleControls
  with_reducible repeat' first
    | assumption | apply keep_State_endPreempts | apply keep_State_runControls | apply keep_State_restoreDrained

theorem keep_State_entryPage (x0 : State) (x1 x2 : ℕ) (x3 : XKind) (x4 : ℕ) (h0 : MemOk x0) :
    MemOk (State.entryPage x0 x1 x2 x3 x4).2 := by
  unfold State.entryPage
  repeat' first
    | with_reducible first
        | assumption | apply keep_State_translate | apply memOk_ite2 | refine memOk_eq2 (by assumption) ?_
    | split

theorem keep_State_entryReadN (n : Nat) : ∀ s agent own i idx k va m bulk, MemOk s → MemOk (State.entryReadN n s agent own i idx k va m bulk).2 := by
  induction n with
  | zero =>
    intro s agent own i idx k va m bulk h
    exact h
  | succ n ih =>
    intro s agent own i idx k va m bulk h
    unfold State.entryReadN
    repeat' first
      | with_reducible first
        | assumption | intro _ | apply ih | apply keep_State_entryPage | apply keep_State_readPeer | apply keep_State_devRead | apply keep_State_mend | apply keep_State_notePoison | apply keep_State_updEntry
        | apply memOk_ite | apply memOk_foldl | apply memOk_foldl2 | apply memOk_foldl3 | apply memOk_mem | apply memOk_ite2 | apply memOk_ite1 | apply memOk_ite3 | apply outOk_next | apply outOk_onUnit | apply outOk_ite | apply outOk_fault | apply optOk_some | apply optOk_none | apply optOk_ite | apply optOk2_some | apply optOk2_none | ((conv => arg 1; arg 25); rw [memOk_mk])
        | refine memOk_eq2 (by assumption) ?_ | refine memOk_eq3 (by assumption) ?_ | refine memOk_eqO (by assumption) ?_ | refine memOk_eqO2 (by assumption) ?_
      | dsimp only | split

theorem keep_State_entryReadFor (x0 : State) (x1 x2 : ℕ) (x3 x4 : ℕ) (x5 : XKind) (x6 x7 : ℕ) (x8 : Bool) (h0 : MemOk x0) :
    MemOk (State.entryReadFor x0 x1 x2 x3 x4 x5 x6 x7 x8).2 := by
  unfold State.entryReadFor
  with_reducible repeat' first
    | assumption | apply keep_State_entryReadN

theorem keep_State_entryRead (x0 : State) (x1 x2 x3 : ℕ) (x4 : XKind) (x5 x6 : ℕ) (x7 : Bool) (h0 : MemOk x0) :
    MemOk (State.entryRead x0 x1 x2 x3 x4 x5 x6 x7).2 := by
  unfold State.entryRead
  with_reducible repeat' first
    | assumption | apply keep_State_entryReadFor

theorem keep_State_entryWriteN : ∀ (x0 : ℕ) (x1 : State) (x2 : ℕ) (x3 : ℕ) (x4 : ℕ) (x5 : XKind) (x6 : ℕ) (x7 : List PByte) (x8 : Bool), (MemOk (x1)) → MemOk (State.entryWriteN x0 x1 x2 x3 x4 x5 x6 x7 x8).2.2 := by
  intro x0
  induction x0 with
  | zero  =>
    intro x1 x2 x3 x4 x5 x6 x7 x8 h1
    unfold State.entryWriteN
    repeat' first
      | with_reducible first
          | assumption | intro _ | apply keep_State_entryPage | apply keep_State_hostFailed | apply keep_State_updEntry | apply keep_State_writePeer
          | apply keep_State_devWrite | apply memOk_ite | apply memOk_mem | apply memOk_foldl3 | apply memOk_ite1 | refine memOk_eq3 (by assumption) ?_
      | split
  | succ n ih =>
    intro x1 x2 x3 x4 x5 x6 x7 x8 h1
    unfold State.entryWriteN
    repeat' first
      | with_reducible first
          | assumption | intro _ | apply ih | apply keep_State_entryPage | apply keep_State_hostFailed | apply keep_State_updEntry
          | apply keep_State_writePeer | apply keep_State_devWrite | apply memOk_ite2 | apply memOk_foldl2 | apply memOk_ite3
          | refine memOk_eq2 (by assumption) ?_
      | dsimp only | split


theorem keep_State_entryWrite (x0 : State) (x1 x2 x3 : ℕ) (x4 : XKind) (x5 : ℕ) (x6 : List PByte) (x7 : Bool) (h0 : MemOk x0) :
    MemOk (State.entryWrite x0 x1 x2 x3 x4 x5 x6 x7).2.2 := by
  unfold State.entryWrite
  with_reducible repeat' first
    | assumption | apply keep_State_entryWriteN

theorem keep_State_addWord (x0 : State) (x1 x2 x3 : ℕ) (x4 : BitVec 32) (h0 : MemOk x0) :
    MemOk (State.addWord x0 x1 x2 x3 x4).2 := by
  unfold State.addWord
  repeat' first
    | with_reducible first
        | assumption | apply keep_State_entryPage | apply keep_State_atomFar | apply keep_State_hostFailed | apply keep_State_atomHost
        | apply keep_State_sendRequest | apply memOk_ite2 | refine memOk_eq2 (by assumption) ?_ | refine memOk_eq3 (by assumption) ?_
    | split

theorem keep_State_pollWord (x0 : State) (x1 x2 x3 : ℕ) (x4 : BitVec 32) (h0 : MemOk x0) :
    MemOk (State.pollWord x0 x1 x2 x3 x4).2 := by
  unfold State.pollWord
  repeat' first
    | with_reducible first
        | assumption | apply keep_State_entryRead | apply keep_State_updEntry | apply memOk_ite2 | refine memOk_eq2 (by assumption) ?_
    | dsimp only | split

theorem keep_State_freeCommits (x0 : State) (x1 : ℕ) (h0 : MemOk x0) :
    MemOk (State.freeCommits x0 x1) := by
  unfold State.freeCommits
  with_reducible repeat' first
    | assumption | apply keep_State_updCluster

theorem keep_State_commitWrite (x0 : State) (x1 : CommitRes) (x2 : HeldWrite) (h0 : MemOk x0) :
    MemOk (State.commitWrite x0 x1 x2).2 := by
  unfold State.commitWrite
  with_reducible repeat' first
    | assumption | intro _ | apply keep_State_event | apply keep_State_writePeer | apply keep_State_l1Drop | apply keep_State_devWrite
    | apply keep_State_ncDrop | apply keep_State_hostFailed | apply memOk_ite | apply memOk_ite2 | apply memOk_foldl

theorem keep_State_commitWrites : ∀ (x2 : List HeldWrite) (x0 : CommitRes) (x1 : State), (MemOk (x1)) → MemOk (State.commitWrites x0 x1 x2).2.2 := by
  intro x2
  induction x2 with
  | nil  =>
    intro x0 x1 h1
    unfold State.commitWrites
    with_reducible repeat' first
      | assumption | apply keep_State_commitWrite | apply memOk_ite | apply memOk_ite1
  | cons a l ih =>
    intro x0 x1 h1
    unfold State.commitWrites
    with_reducible repeat' first
      | assumption | apply ih | apply keep_State_commitWrite | apply memOk_ite3


theorem keep_State_drainCommit (x0 : ℕ) (x1 : State) (x2 : CommitRes) (h1 : MemOk x1) :
    MemOk (State.drainCommit x0 x1 x2) := by
  unfold State.drainCommit
  with_reducible repeat' first
    | assumption | apply keep_State_commitWrites | apply keep_State_updCluster | apply keep_State_closeBatches | apply memOk_ite

theorem keep_State_drainCommits (x0 : State) (x1 : ℕ) (h0 : MemOk x0) :
    MemOk (State.drainCommits x0 x1) := by
  unfold State.drainCommits
  with_reducible repeat' first
    | assumption | intro _ | apply keep_State_freeCommits | apply keep_State_drainCommit | apply memOk_ite | apply memOk_foldl

theorem keep_State_dropWork (x0 : State) (x1 : Nat) (x2 : Nat) (h0 : MemOk x0) :
    MemOk (State.dropWork x0 x1 x2) := by
  unfold State.dropWork
  repeat' first
    | with_reducible first
        | assumption | intro _ | apply keep_State_clearSlot | apply keep_State_endCopies
        | apply memOk_ite | apply memOk_foldl | apply memOk_mem | ((conv => arg 1; arg 25); rw [memOk_mk])
    | dsimp only | split

theorem keep_State_removeLaunch (x0 : State) (x1 x2 : ℕ) (h0 : MemOk x0) :
    MemOk (State.removeLaunch x0 x1 x2) := by
  unfold State.removeLaunch
  with_reducible repeat' first
    | assumption | apply memOk_mem | ((conv => arg 1; arg 25); rw [memOk_mk])

theorem keep_State_finishLaunch (x0 : State) (x1 : Launch) (x2 : ℕ) (h0 : MemOk x0) :
    MemOk (State.finishLaunch x0 x1 x2) := by
  unfold State.finishLaunch
  with_reducible repeat' first
    | assumption | apply keep_State_complete | apply keep_State_removeLaunch

end Sys2Proof.Machine
end

