-- ==== Sys2Proof/Laws/KeepFabric.lean ====
section
/-! SUPPORT. Memory keeps its canonical form through the operations and commands of fatal errors, homes, the memory devices, the cadence, flits, dies, errors, self tests, resets, images, the data port, the mailbox and security. -/

namespace Sys2Proof.Machine
open Sys2Proof

theorem keep_State_withAlert (x0 x1 : State) (h0 : MemOk x0) (h1 : MemOk x1) :
    MemOk (State.withAlert x0 x1) := by
  unfold State.withAlert
  with_reducible repeat' first
    | assumption | apply keep_State_send | apply memOk_ite

theorem keep_State_abandonAll (x0 : State) (x1 : ℕ) (h0 : MemOk x0) :
    MemOk (State.abandonAll x0 x1) := by
  unfold State.abandonAll
  repeat' first
    | with_reducible first
        | assumption | intro _ | apply keep_State_removeLaunch | apply keep_State_dropWork | apply keep_State_complete | apply memOk_mem
        | apply memOk_foldl | ((conv => arg 1; arg 25); rw [memOk_mk])
    | dsimp only

theorem keep_State_packageFatal (x0 : State) (x1 : BitVec 32) (h0 : MemOk x0) :
    MemOk (State.packageFatal x0 x1) := by
  unfold State.packageFatal
  with_reducible repeat' first
    | assumption | apply keep_State_abandonAll | apply keep_State_withAlert | apply keep_State_errRecord | apply memOk_ite | apply memOk_mem
    | ((conv => arg 1; arg 25); rw [memOk_mk])

theorem keep_State_l2Sectors (x0 : State) (x1 : Acc) (x2 x3 : ℕ) (x4 : L2Line) (x5 : BitVec 4) (h0 : MemOk x0) :
    MemOk (State.l2Sectors x0 x1 x2 x3 x4 x5).2 := by
  unfold State.l2Sectors
  with_reducible repeat' first
    | assumption | intro _ | apply keep_State_l2Fill | apply memOk_foldl2

theorem keep_State_serveM (x0 : State) (x1 : Acc) (x2 x3 : ℕ) (x4 : BitVec 4) (h0 : MemOk x0) :
    MemOk (State.serveM x0 x1 x2 x3 x4) := by
  unfold State.serveM
  with_reducible repeat' first
    | assumption | apply keep_State_l2Own | apply keep_State_l2Sectors | apply keep_State_l2Put | apply memOk_ite

theorem keep_State_homeAct (x0 : State) (x1 : BitVec 4) (x2 : Instr) (h0 : MemOk x0) :
    MemOk (State.homeAct x0 x1 x2) := by
  unfold State.homeAct
  repeat' first
    | with_reducible first
        | assumption | intro _ | apply keep_State_takePut | apply keep_State_homeGetS | apply keep_State_l2Sectors | apply keep_State_l2Put
        | apply keep_State_serveM | apply keep_State_deadLine | apply keep_State_rdNA | apply keep_State_send | apply keep_State_hbmWrite
        | apply keep_State_atomFar | apply memOk_ite | apply memOk_foldl2
    | dsimp only | split

theorem keep_State_fromHome (x0 : State) (x1 : Nat) (x2 : Nat) (x3 : Nat) (h0 : MemOk x0) :
    MemOk (State.fromHome x0 x1 x2 x3) := by
  unfold State.fromHome
  repeat' first
    | with_reducible first
        | assumption | intro _ | apply keep_State_dieMessage
        | apply memOk_ite | apply memOk_foldl | apply memOk_mem | ((conv => arg 1; arg 25); rw [memOk_mk])
    | dsimp only | split

theorem keep_State_homeServe (x0 : State) (x1 : BitVec 4) (x2 : Instr) (h0 : MemOk x0) :
    MemOk (State.homeServe x0 x1 x2) := by
  unfold State.homeServe
  repeat' first
    | with_reducible first
        | assumption | intro _ | apply keep_State_homeAct | apply keep_State_updCluster | apply keep_State_fromHome
        | apply memOk_ite | apply memOk_foldl | apply memOk_mem | ((conv => arg 1; arg 25); rw [memOk_mk])
        | refine memOk_eq2 (by assumption) ?_ | refine memOk_eq1 (by assumption) ?_ | refine memOk_eq3 (by assumption) ?_
        | refine memOk_eqO (by assumption) ?_ | refine memOk_eqO2 (by assumption) ?_
        | apply memOk_ite2 | apply memOk_ite1 | apply memOk_ite3
    | dsimp only | split

theorem keep_State_refuse (x0 : State) (x1 : ℕ) (x2 : Instr) (x3 : ℕ) (h0 : MemOk x0) :
    MemOk (State.refuse x0 x1 x2 x3) := by
  unfold State.refuse
  with_reducible repeat' first
    | assumption | apply keep_State_updSlice

theorem keep_State_askHbm (x0 : State) (x1 : Nat) (x2 : HomeReq) (x3 : BitVec 4) (h0 : MemOk x0) :
    MemOk (State.askHbm x0 x1 x2 x3) := by
  unfold State.askHbm
  repeat' first
    | with_reducible first
        | assumption | intro _ | apply keep_State_askSector
        | apply memOk_ite | apply memOk_foldl | apply memOk_mem | ((conv => arg 1; arg 25); rw [memOk_mk])
        | apply memOk_foldl2 | apply memOk_foldl3
    | dsimp only | split

theorem keep_State_metPoisonAt (x0 : State) (x1 : Nat) (h0 : MemOk x0) :
    MemOk (State.metPoisonAt x0 x1) := by
  unfold State.metPoisonAt
  repeat' first
    | with_reducible first
        | assumption | intro _ | apply keep_State_startRestore | apply keep_State_setPoisoned
        | apply memOk_ite | apply memOk_foldl | apply memOk_mem | ((conv => arg 1; arg 25); rw [memOk_mk])
    | dsimp only | split

theorem keep_State_homeEnter (x0 : State) (x1 : Instr) (x2 : Nat) (h0 : MemOk x0) :
    MemOk (State.homeEnter x0 x1 x2) := by
  unfold State.homeEnter
  repeat' first
    | with_reducible first
        | assumption | intro _ | apply keep_State_refuse | apply keep_State_updSlice | apply keep_State_askHbm | apply keep_State_homeSector
        | apply keep_State_metPoisonAt | apply keep_State_homeServe
        | apply memOk_ite | apply memOk_foldl | apply memOk_mem | ((conv => arg 1; arg 25); rw [memOk_mk])
        | refine memOk_eq2 (by assumption) ?_ | refine memOk_eq1 (by assumption) ?_ | refine memOk_eq3 (by assumption) ?_
        | refine memOk_eqO (by assumption) ?_ | refine memOk_eqO2 (by assumption) ?_
        | apply memOk_ite2 | apply memOk_ite1 | apply memOk_ite3
    | dsimp only | split

theorem keep_State_serveWaiters : ∀ (x2 : List Instr) (x0 : State) (x1 : BitVec 4), (MemOk (x0)) → MemOk (State.serveWaiters x0 x1 x2) := by
  intro x2
  induction x2 with
  | nil  =>
    intro x0 x1 h0
    unfold State.serveWaiters
    with_reducible repeat' first
      | assumption | apply keep_State_homeServe | apply memOk_ite
  | cons a l ih =>
    intro x0 x1 h0
    unfold State.serveWaiters
    with_reducible repeat' first
      | assumption | apply ih | apply keep_State_homeServe


theorem keep_State_admitRefused (x0 : State) (x1 : ℕ) (h0 : MemOk x0) :
    MemOk (State.admitRefused x0 x1) := by
  unfold State.admitRefused
  with_reducible repeat' first
    | assumption | intro _ | apply keep_State_homeEnter | apply keep_State_updSlice | apply memOk_ite | apply memOk_foldl

theorem keep_State_settleSlice (x0 : State) (x1 : ℕ) (h0 : MemOk x0) :
    MemOk (State.settleSlice x0 x1) := by
  unfold State.settleSlice
  with_reducible repeat' first
    | assumption | intro _ | apply keep_State_admitRefused | apply keep_State_serveWaiters | apply keep_State_updSlice | apply memOk_ite
    | apply memOk_foldl

theorem keep_State_toHome (x0 : State) (x1 : Nat) (x2 : Nat) (x3 : Nat) (h0 : MemOk x0) :
    MemOk (State.toHome x0 x1 x2 x3) := by
  unfold State.toHome
  repeat' first
    | with_reducible first
        | assumption | intro _ | apply keep_State_dieMessage
        | apply memOk_ite | apply memOk_foldl | apply memOk_mem | ((conv => arg 1; arg 25); rw [memOk_mk])
    | dsimp only | split

theorem keep_State_toItsHome (x0 : State) (x1 : Instr) (h0 : MemOk x0) :
    MemOk (State.toItsHome x0 x1) := by
  unfold State.toItsHome
  repeat' first
    | with_reducible first
        | assumption | intro _ | apply keep_State_toHome
        | apply memOk_ite | apply memOk_foldl | apply memOk_mem | ((conv => arg 1; arg 25); rw [memOk_mk])
        | refine memOk_eq2 (by assumption) ?_ | refine memOk_eq1 (by assumption) ?_ | refine memOk_eq3 (by assumption) ?_
        | refine memOk_eqO (by assumption) ?_ | refine memOk_eqO2 (by assumption) ?_
        | apply memOk_ite2 | apply memOk_ite1 | apply memOk_ite3
    | dsimp only | split

theorem keep_State_l2Enter (x0 : State) (x1 : Instr) (h0 : MemOk x0) :
    MemOk (State.l2Enter x0 x1) := by
  unfold State.l2Enter
  repeat' first
    | with_reducible first
        | assumption | intro _ | apply keep_State_toItsHome | apply keep_State_homeEnter | apply keep_State_updCluster
        | apply memOk_ite | apply memOk_foldl | apply memOk_mem | ((conv => arg 1; arg 25); rw [memOk_mk])
        | refine memOk_eq2 (by assumption) ?_ | refine memOk_eq1 (by assumption) ?_ | refine memOk_eq3 (by assumption) ?_
        | refine memOk_eqO (by assumption) ?_ | refine memOk_eqO2 (by assumption) ?_
        | apply memOk_ite2 | apply memOk_ite1 | apply memOk_ite3
    | dsimp only | split

theorem keep_State_admitL2 (x0 : State) (x1 : ℕ) (h0 : MemOk x0) :
    MemOk (State.admitL2 x0 x1) := by
  unfold State.admitL2
  with_reducible repeat' first
    | assumption | intro _ | apply keep_State_l2Enter | apply keep_State_updCluster | apply memOk_ite | apply memOk_foldl

theorem keep_State_settleMisses (x0 : State) (h0 : MemOk x0) :
    MemOk (State.settleMisses x0) := by
  unfold State.settleMisses
  with_reducible repeat' first
    | assumption | intro _ | apply keep_State_settleSlice | apply keep_State_admitL2 | apply memOk_foldl

theorem keep_homeCommand (x0 : Bool) (x1 : Instr) (x2 : State) (h2 : MemOk x2) :
    OutOk (homeCommand x0 x1 x2) := by
  unfold homeCommand
  repeat' first
    | with_reducible first
        | assumption | intro _ | apply keep_onUnit | apply keep_State_l2Enter
        | apply memOk_ite | apply memOk_foldl | apply memOk_mem | ((conv => arg 1; arg 25); rw [memOk_mk])
        | apply outOk_next | apply outOk_onUnit | apply outOk_ite | apply outOk_fault
        | refine memOk_eq2 (by assumption) ?_ | refine memOk_eq1 (by assumption) ?_ | refine memOk_eq3 (by assumption) ?_
        | refine memOk_eqO (by assumption) ?_ | refine memOk_eqO2 (by assumption) ?_
        | apply memOk_ite2 | apply memOk_ite1 | apply memOk_ite3
    | dsimp only | split

theorem keep_execGets (x0 : ℕ) (x1 : BitVec 56) (x2 : ℕ) (x3 : BitVec 4) (x4 : State) (h4 : MemOk x4) :
    OutOk (execGets x0 x1 x2 x3 x4) := by
  unfold execGets
  with_reducible repeat' first
    | assumption | apply keep_homeCommand

theorem keep_execGetm (x0 : ℕ) (x1 : BitVec 56) (x2 : ℕ) (x3 : BitVec 4) (x4 : State) (h4 : MemOk x4) :
    OutOk (execGetm x0 x1 x2 x3 x4) := by
  unfold execGetm
  with_reducible repeat' first
    | assumption | apply keep_homeCommand

theorem keep_execUpg (x0 : ℕ) (x1 : BitVec 56) (x2 : ℕ) (x3 : State) (h3 : MemOk x3) :
    OutOk (execUpg x0 x1 x2 x3) := by
  unfold execUpg
  with_reducible repeat' first
    | assumption | apply keep_homeCommand

theorem keep_execGetsec (x0 : ℕ) (x1 : BitVec 56) (x2 : ℕ) (x3 : BitVec 4) (x4 : State) (h4 : MemOk x4) :
    OutOk (execGetsec x0 x1 x2 x3 x4) := by
  unfold execGetsec
  with_reducible repeat' first
    | assumption | apply keep_homeCommand

theorem keep_execPut (x0 : ℕ) (x1 : BitVec 56) (x2 : State) (h2 : MemOk x2) :
    OutOk (execPut x0 x1 x2) := by
  unfold execPut
  with_reducible repeat' first
    | assumption | apply keep_homeCommand

theorem keep_execRdna (x0 : Nat) (x1 : BitVec 56) (x2 : Nat) (x3 : BitVec 4) (x4 : Prio) (x5 : State) (h5 : MemOk x5) :
    OutOk (execRdna x0 x1 x2 x3 x4 x5) := by
  unfold execRdna
  repeat' first
    | with_reducible first
        | assumption | intro _ | apply keep_homeCommand
        | apply memOk_ite | apply memOk_foldl | apply memOk_mem | ((conv => arg 1; arg 25); rw [memOk_mk])
        | apply outOk_next | apply outOk_onUnit | apply outOk_ite | apply outOk_fault
    | dsimp only | split

theorem keep_execWrna (x0 : ℕ) (x1 : BitVec 56) (x2 : ℕ) (x3 : List (BitVec 8)) (x4 : Bool) (x5 : State) (h5 : MemOk x5) :
    OutOk (execWrna x0 x1 x2 x3 x4 x5) := by
  unfold execWrna
  with_reducible repeat' first
    | assumption | apply keep_homeCommand

theorem keep_execDead (x0 : ℕ) (x1 : BitVec 56) (x2 : State) (h2 : MemOk x2) :
    OutOk (execDead x0 x1 x2) := by
  unfold execDead
  with_reducible repeat' first
    | assumption | apply keep_homeCommand

theorem keep_execAtomf (x0 : ℕ) (x1 : BitVec 56) (x2 : ℕ) (x3 x4 : BitVec 4) (x5 x6 : BitVec 256) (x7 : State) (h7 : MemOk x7) :
    OutOk (execAtomf x0 x1 x2 x3 x4 x5 x6 x7) := by
  unfold execAtomf
  with_reducible repeat' first
    | assumption | apply keep_homeCommand | apply keep_onUnit | apply outOk_ite

theorem keep_execNearAtomic (x0 : ℕ) (x1 : BitVec 56) (x2 : ℕ) (x3 x4 : BitVec 4) (x5 x6 : BitVec 256) (x7 : State) (h7 : MemOk x7) :
    OutOk (execNearAtomic x0 x1 x2 x3 x4 x5 x6 x7) := by
  unfold execNearAtomic
  with_reducible repeat' first
    | assumption | apply keep_onUnit | apply keep_State_atomNear | apply keep_State_send | apply memOk_ite

theorem keep_execForward (x0 : Nat) (x1 : BitVec 56) (x2 : State) (h2 : MemOk x2) :
    OutOk (execForward x0 x1 x2) := by
  unfold execForward
  repeat' first
    | with_reducible first
        | assumption | intro _ | apply keep_onUnit | apply keep_State_fromHome | apply keep_State_toHome | apply keep_State_send
        | apply memOk_ite | apply memOk_foldl | apply memOk_mem | ((conv => arg 1; arg 25); rw [memOk_mk])
        | apply outOk_next | apply outOk_onUnit | apply outOk_ite | apply outOk_fault
        | refine memOk_eq2 (by assumption) ?_ | refine memOk_eq1 (by assumption) ?_ | refine memOk_eq3 (by assumption) ?_
        | refine memOk_eqO (by assumption) ?_ | refine memOk_eqO2 (by assumption) ?_
        | apply memOk_ite2 | apply memOk_ite1 | apply memOk_ite3
    | dsimp only | split

theorem keep_execInvalidation (x0 : Nat) (x1 : BitVec 56) (x2 : State) (h2 : MemOk x2) :
    OutOk (execInvalidation x0 x1 x2) := by
  unfold execInvalidation
  repeat' first
    | with_reducible first
        | assumption | intro _ | apply keep_onUnit | apply keep_State_l2Drop | apply keep_State_fromHome | apply keep_State_toHome
        | apply keep_State_send
        | apply memOk_ite | apply memOk_foldl | apply memOk_mem | ((conv => arg 1; arg 25); rw [memOk_mk])
        | apply outOk_next | apply outOk_onUnit | apply outOk_ite | apply outOk_fault
        | refine memOk_eq2 (by assumption) ?_ | refine memOk_eq1 (by assumption) ?_ | refine memOk_eq3 (by assumption) ?_
        | refine memOk_eqO (by assumption) ?_ | refine memOk_eqO2 (by assumption) ?_
        | apply memOk_ite2 | apply memOk_ite1 | apply memOk_ite3
    | dsimp only | split

theorem keep_execRetryResponse (x0 : Nat) (x1 : Nat) (x2 : State) (h2 : MemOk x2) :
    OutOk (execRetryResponse x0 x1 x2) := by
  unfold execRetryResponse
  repeat' first
    | with_reducible first
        | assumption | intro _ | apply keep_onUnit | apply keep_State_toItsHome | apply keep_State_updSlice | apply keep_State_homeEnter
        | apply memOk_ite | apply memOk_foldl | apply memOk_mem | ((conv => arg 1; arg 25); rw [memOk_mk])
        | apply outOk_next | apply outOk_onUnit | apply outOk_ite | apply outOk_fault
        | refine memOk_eq2 (by assumption) ?_ | refine memOk_eq1 (by assumption) ?_ | refine memOk_eq3 (by assumption) ?_
        | refine memOk_eqO (by assumption) ?_ | refine memOk_eqO2 (by assumption) ?_
        | apply memOk_ite2 | apply memOk_ite1 | apply memOk_ite3
    | dsimp only | split

theorem keep_execLlcClr (x0 : ℕ) (x1 : BitVec 32) (x2 : State) (h2 : MemOk x2) :
    OutOk (execLlcClr x0 x1 x2) := by
  unfold execLlcClr
  with_reducible repeat' first
    | assumption | apply memOk_ite | apply memOk_mem | apply outOk_next | ((conv => arg 1; arg 25); rw [memOk_mk])

theorem keep_execLlcSel (x0 : ℕ) (x1 : BitVec 32) (x2 : State) (h2 : MemOk x2) :
    OutOk (execLlcSel x0 x1 x2) := by
  unfold execLlcSel
  repeat' first
    | with_reducible first
        | assumption | apply memOk_ite | apply memOk_mem | apply outOk_next | ((conv => arg 1; arg 25); rw [memOk_mk])
    | dsimp only

theorem keep_State_repin (x0 : State) (x1 : LlcLine) (h0 : MemOk x0) :
    MemOk (State.repin x0 x1) := by
  unfold State.repin
  repeat' first
    | with_reducible first
        | assumption | apply keep_State_llcAlloc | apply keep_State_updSlice | apply keep_State_count | refine memOk_eq2 (by assumption) ?_
    | dsimp only | split

theorem keep_execNearHomeEnable (x0 x1 : ℕ) (x2 : BitVec 32) (x3 : State) (h3 : MemOk x3) :
    OutOk (execNearHomeEnable x0 x1 x2 x3) := by
  unfold execNearHomeEnable
  repeat' first
    | with_reducible first
        | assumption | intro _ | apply keep_onUnit | apply keep_State_flushRange | apply keep_State_repin | apply memOk_ite | apply memOk_mem
        | apply memOk_foldl | ((conv => arg 1; arg 25); rw [memOk_mk])
    | dsimp only

theorem keep_execNearHomeFlushDone (x0 : ℕ) (x1 : State) (h1 : MemOk x1) :
    OutOk (execNearHomeFlushDone x0 x1) := by
  unfold execNearHomeFlushDone
  with_reducible repeat' first
    | assumption | apply keep_onUnit | apply keep_State_settleMisses | apply memOk_ite | apply memOk_mem | ((conv => arg 1; arg 25); rw [memOk_mk])

theorem keep_State_thrashClass (x0 : State) (x1 : ℕ) (h0 : MemOk x0) :
    MemOk (State.thrashClass x0 x1) := by
  unfold State.thrashClass
  with_reducible repeat' first
    | assumption | apply keep_State_event | apply memOk_ite | apply memOk_mem | ((conv => arg 1; arg 25); rw [memOk_mk])

theorem keep_execThrashWindow (x0 : State) (h0 : MemOk x0) :
    OutOk (execThrashWindow x0) := by
  unfold execThrashWindow
  with_reducible repeat' first
    | assumption | intro _ | apply keep_State_thrashClass | apply memOk_foldl | apply outOk_next

theorem keep_State_fenceSlice (x0 : State) (x1 : ℕ) (h0 : MemOk x0) :
    MemOk (State.fenceSlice x0 x1) := by
  unfold State.fenceSlice
  with_reducible repeat' first
    | assumption | intro _ | apply keep_State_takePut | apply keep_State_recallEntry | apply keep_State_llcEvict | apply keep_State_updSlice
    | apply keep_State_homeEnter | apply keep_State_eventTo | apply keep_State_errRecord | apply memOk_ite | apply memOk_foldl

theorem keep_State_loseSlice (x0 : State) (x1 : ℕ) (h0 : MemOk x0) :
    MemOk (State.loseSlice x0 x1) := by
  unfold State.loseSlice
  with_reducible repeat' first
    | assumption | apply keep_State_packageFatal | apply keep_State_fenceSlice | apply memOk_ite

theorem keep_execLlcSliceFence (x0 : ℕ) (x1 : State) (h1 : MemOk x1) :
    OutOk (execLlcSliceFence x0 x1) := by
  unfold execLlcSliceFence
  with_reducible repeat' first
    | assumption | apply keep_onUnit | apply keep_State_loseSlice

theorem keep_execHbmBurstSlot (x0 : ℕ) (x1 : State) (h1 : MemOk x1) :
    OutOk (execHbmBurstSlot x0 x1) := by
  unfold execHbmBurstSlot
  repeat' first
    | with_reducible first
        | assumption | apply keep_onUnit | apply keep_State_updPch | apply memOk_ite
    | split

theorem keep_State_failReads (x0 : State) (x1 : ℕ) (h0 : MemOk x0) :
    MemOk (State.failReads x0 x1) := by
  unfold State.failReads
  with_reducible repeat' first
    | assumption | intro _ | apply keep_State_setPch | apply keep_State_settleMisses | apply keep_State_updSlice | apply memOk_foldl

theorem keep_State_fencePch (x0 : State) (x1 : ℕ) (h0 : MemOk x0) :
    MemOk (State.fencePch x0 x1) := by
  unfold State.fencePch
  with_reducible repeat' first
    | assumption | intro _ | apply keep_State_failReads | apply keep_State_updPch | apply keep_State_event | apply keep_State_errRecord
    | apply memOk_ite | apply memOk_mem | apply memOk_foldl | ((conv => arg 1; arg 25); rw [memOk_mk])

theorem keep_State_fenceStack (x0 : State) (x1 : ℕ) (h0 : MemOk x0) :
    MemOk (State.fenceStack x0 x1) := by
  unfold State.fenceStack
  with_reducible repeat' first
    | assumption | intro _ | apply keep_State_fencePch | apply keep_State_errRecord | apply memOk_mem | apply memOk_foldl
    | ((conv => arg 1; arg 25); rw [memOk_mk])

theorem keep_execPseudoChannelFence (x0 : ℕ) (x1 : State) (h1 : MemOk x1) :
    OutOk (execPseudoChannelFence x0 x1) := by
  unfold execPseudoChannelFence
  with_reducible repeat' first
    | assumption | apply keep_onUnit | apply keep_State_fencePch

theorem keep_execHbmFence (x0 : ℕ) (x1 : BitVec 32) (x2 : State) (h2 : MemOk x2) :
    OutOk (execHbmFence x0 x1 x2) := by
  unfold execHbmFence
  with_reducible repeat' first
    | assumption | intro _ | apply keep_State_fenceInTurn | apply keep_State_fencePch | apply memOk_ite | apply outOk_next

theorem keep_State_notedCorrected (x0 : State) (x1 : ℕ) (h0 : MemOk x0) :
    MemOk (State.notedCorrected x0 x1) := by
  unfold State.notedCorrected
  with_reducible repeat' first
    | assumption | apply keep_State_updPch | apply keep_State_event | apply memOk_ite | apply memOk_mem | ((conv => arg 1; arg 25); rw [memOk_mk])

theorem keep_State_notedUncorrectable (x0 : State) (x1 : ℕ) (h0 : MemOk x0) :
    MemOk (State.notedUncorrectable x0 x1) := by
  unfold State.notedUncorrectable
  with_reducible repeat' first
    | assumption | apply keep_State_updPch | apply keep_State_event | apply keep_State_fencePch | apply memOk_ite | apply memOk_mem
    | ((conv => arg 1; arg 25); rw [memOk_mk])

theorem keep_State_decodedSector (x0 : State) (x1 : ℕ) (x2 : Verdict × ℕ × ℕ) (x3 : Verdict × ℕ × ℕ) (h0 : MemOk x0) :
    MemOk (State.decodedSector x0 x1 x2 x3) := by
  unfold State.decodedSector
  repeat' first
    | with_reducible first
        | assumption | apply keep_State_hbmPut | apply keep_State_logCorrected | apply keep_State_errRecord | apply keep_State_notedCorrected
        | apply keep_State_notedUncorrectable | apply memOk_ite
    | dsimp only | split

theorem keep_State_readSector (x0 : State) (x1 : ℕ) (x2 x3 : BitVec 144) (h0 : MemOk x0) :
    MemOk (State.readSector x0 x1 x2 x3) := by
  unfold State.readSector
  with_reducible repeat' first
    | assumption | apply keep_State_decodedSector | apply memOk_ite

theorem keep_State_restoreIfBad (x0 : State) (x1 : Nat) (h0 : MemOk x0) :
    MemOk (State.restoreIfBad x0 x1) := by
  unfold State.restoreIfBad
  repeat' first
    | with_reducible first
        | assumption | intro _ | apply keep_State_metPoisonAt
        | apply memOk_ite | apply memOk_foldl | apply memOk_mem | ((conv => arg 1; arg 25); rw [memOk_mk])
    | dsimp only | split

theorem keep_execHbmReadData (x0 x1 : ℕ) (x2 x3 : BitVec 144) (x4 : State) (h4 : MemOk x4) :
    OutOk (execHbmReadData x0 x1 x2 x3 x4) := by
  unfold execHbmReadData
  repeat' first
    | with_reducible first
        | assumption | apply keep_onUnit | apply keep_State_updPch | apply keep_State_restoreIfBad | apply keep_State_readSector
        | apply keep_State_updSlice | apply keep_State_settleMisses | apply memOk_ite
    | dsimp only | split

theorem keep_execPatrol (x0 : BitVec 56) (x1 x2 : BitVec 144) (x3 : State) (h3 : MemOk x3) :
    OutOk (execPatrol x0 x1 x2 x3) := by
  unfold execPatrol
  with_reducible repeat' first
    | assumption | apply keep_State_updPch | apply memOk_ite | apply memOk_mem | apply outOk_next | ((conv => arg 1; arg 25); rw [memOk_mk])

theorem keep_execRecalibrationWindow (x0 : Nat) (x1 : Nat) (x2 : State) (h2 : MemOk x2) :
    OutOk (execRecalibrationWindow x0 x1 x2) := by
  unfold execRecalibrationWindow
  repeat' first
    | with_reducible first
        | assumption | intro _ | apply keep_onUnit
        | apply memOk_ite | apply memOk_foldl | apply memOk_mem | ((conv => arg 1; arg 25); rw [memOk_mk])
        | apply outOk_next | apply outOk_onUnit | apply outOk_ite | apply outOk_fault
        | refine memOk_eq2 (by assumption) ?_ | refine memOk_eq1 (by assumption) ?_ | refine memOk_eq3 (by assumption) ?_
        | refine memOk_eqO (by assumption) ?_ | refine memOk_eqO2 (by assumption) ?_
        | apply memOk_ite2 | apply memOk_ite1 | apply memOk_ite3
    | dsimp only | split

theorem keep_execRecalibrationWindowEnd (x0 x1 : ℕ) (x2 : State) (h2 : MemOk x2) :
    OutOk (execRecalibrationWindowEnd x0 x1 x2) := by
  unfold execRecalibrationWindowEnd
  with_reducible repeat' first
    | assumption | apply keep_onUnit | apply memOk_mem | ((conv => arg 1; arg 25); rw [memOk_mk])

theorem keep_execHbmTemperatureRead (x0 : ℕ) (x1 : BitVec 16) (x2 : State) (h2 : MemOk x2) :
    OutOk (execHbmTemperatureRead x0 x1 x2) := by
  unfold execHbmTemperatureRead
  with_reducible repeat' first
    | assumption | apply keep_onUnit | apply keep_State_event | apply memOk_ite | apply memOk_mem | ((conv => arg 1; arg 25); rw [memOk_mk])

theorem keep_execHbmRetire (x0 : ℕ) (x1 : BitVec 32) (x2 : State) (h2 : MemOk x2) :
    OutOk (execHbmRetire x0 x1 x2) := by
  unfold execHbmRetire
  with_reducible repeat' first
    | assumption | apply memOk_ite | apply memOk_mem | apply outOk_next | ((conv => arg 1; arg 25); rw [memOk_mk])

theorem keep_execHbmRetireUndoPage (x0 : ℕ) (x1 : BitVec 32) (x2 : State) (h2 : MemOk x2) :
    OutOk (execHbmRetireUndoPage x0 x1 x2) := by
  unfold execHbmRetireUndoPage
  with_reducible repeat' first
    | assumption | apply memOk_ite | apply memOk_mem | apply outOk_next | ((conv => arg 1; arg 25); rw [memOk_mk])

theorem keep_execHbmRetireUndoChannel (x0 : ℕ) (x1 : BitVec 32) (x2 : State) (h2 : MemOk x2) :
    OutOk (execHbmRetireUndoChannel x0 x1 x2) := by
  unfold execHbmRetireUndoChannel
  with_reducible repeat' first
    | assumption | apply memOk_ite | apply memOk_mem | apply outOk_next | ((conv => arg 1; arg 25); rw [memOk_mk])

theorem keep_execHbmMargin (x0 : ℕ) (x1 : BitVec 32) (x2 : State) (h2 : MemOk x2) :
    OutOk (execHbmMargin x0 x1 x2) := by
  unfold execHbmMargin
  with_reducible repeat' first
    | assumption | apply keep_State_updPch | apply memOk_ite | apply memOk_mem | apply outOk_next | ((conv => arg 1; arg 25); rw [memOk_mk])

theorem keep_execHbmMarginDone : ∀ (x0 : ℕ) (x1 : State), (MemOk (x1)) → OutOk (execHbmMarginDone x0 x1) := by
  intro x0 x1 h1
  unfold execHbmMarginDone
  apply outOk_next
  split
  · exact ⟨NMap_canon_filter _ (keep_State_updPch x1 _ _ h1).1, (keep_State_updPch x1 _ _ h1).2⟩
  · exact h1

theorem keep_State_putSnap (x0 : State) (x1 : Nat) (x2 : List Byte) (h0 : MemOk x0) :
    MemOk (State.putSnap x0 x1 x2) := by
  unfold State.putSnap
  repeat' first
    | with_reducible first
        | assumption | intro _ | apply keep_State_entryWrite | apply keep_State_closeBatches
        | apply memOk_ite | apply memOk_foldl | apply memOk_mem | ((conv => arg 1; arg 25); rw [memOk_mk])
    | dsimp only | split

theorem keep_State_driveSnap (x0 : State) (h0 : MemOk x0) :
    MemOk (State.driveSnap x0) := by
  unfold State.driveSnap
  repeat' first
    | with_reducible first
        | assumption | intro _ | apply keep_State_putSnap
        | apply memOk_ite | apply memOk_foldl | apply memOk_mem | ((conv => arg 1; arg 25); rw [memOk_mk])
        | refine memOk_eq2 (by assumption) ?_ | refine memOk_eq1 (by assumption) ?_ | refine memOk_eq3 (by assumption) ?_
        | refine memOk_eqO (by assumption) ?_ | refine memOk_eqO2 (by assumption) ?_
        | apply memOk_ite2 | apply memOk_ite1 | apply memOk_ite3
    | dsimp only | split

theorem keep_State_snapshot (x0 : State) (h0 : MemOk x0) :
    MemOk (State.snapshot x0) := by
  unfold State.snapshot
  repeat' first
    | with_reducible first
        | assumption | intro _ | apply keep_State_driveSnap
        | apply memOk_ite | apply memOk_foldl | apply memOk_mem | ((conv => arg 1; arg 25); rw [memOk_mk])
    | dsimp only | split

theorem keep_State_eventAll (x0 : State) (x1 : Record) (h0 : MemOk x0) :
    MemOk (State.eventAll x0 x1) := by
  unfold State.eventAll
  with_reducible repeat' first
    | assumption | apply keep_State_eventTo

theorem keep_State_sendSymbol (x0 : State) (x1 : BitVec 24) (x2 : ℕ) (x3 : BitVec 12) (h0 : MemOk x0) :
    MemOk (State.sendSymbol x0 x1 x2 x3) := by
  unfold State.sendSymbol
  with_reducible repeat' first
    | assumption | intro _ | apply keep_State_sendControl | apply memOk_ite | apply memOk_foldl

theorem keep_State_countBeat (x0 : State) (x1 : BitVec 64) (h0 : MemOk x0) :
    MemOk (State.countBeat x0 x1) := by
  unfold State.countBeat
  with_reducible repeat' first
    | assumption | apply keep_State_eventAll | apply keep_State_send | apply keep_State_sendSymbol | apply keep_State_snapshot | apply memOk_ite
    | apply memOk_mem | ((conv => arg 1; arg 25); rw [memOk_mk])

theorem keep_State_takeEdge (x0 : State) (h0 : MemOk x0) :
    MemOk (State.takeEdge x0) := by
  unfold State.takeEdge
  with_reducible repeat' first
    | assumption | apply keep_State_countBeat | apply memOk_ite | apply memOk_mem | ((conv => arg 1; arg 25); rw [memOk_mk])

theorem keep_State_takeEdges (x0 : State) (h0 : MemOk x0) :
    MemOk (State.takeEdges x0) := by
  unfold State.takeEdges
  with_reducible repeat' first
    | assumption | intro _ | apply keep_State_takeEdge | apply memOk_mem | apply memOk_foldl | ((conv => arg 1; arg 25); rw [memOk_mk])

theorem keep_execCadInEdge (x0 : State) (h0 : MemOk x0) :
    OutOk (execCadInEdge x0) := by
  unfold execCadInEdge
  with_reducible repeat' first
    | assumption | apply keep_State_takeEdge | apply memOk_ite | apply memOk_mem | apply outOk_next | ((conv => arg 1; arg 25); rw [memOk_mk])

theorem keep_State_symbolIn (x0 : State) (x1 x2 x3 : ℕ) (x4 : BitVec 64) (h0 : MemOk x0) :
    MemOk (State.symbolIn x0 x1 x2 x3 x4) := by
  unfold State.symbolIn
  with_reducible repeat' first
    | assumption | apply keep_State_countBeat | apply keep_State_sendSymbol | apply memOk_ite | apply memOk_mem
    | ((conv => arg 1; arg 25); rw [memOk_mk])

theorem keep_execCadenceSymbol (x0 x1 x2 : ℕ) (x3 : BitVec 64) (x4 : State) (h4 : MemOk x4) :
    OutOk (execCadenceSymbol x0 x1 x2 x3 x4) := by
  unfold execCadenceSymbol
  with_reducible repeat' first
    | assumption | apply keep_onUnit | apply keep_State_symbolIn

theorem keep_execSwbeat (x0 : ℕ) (x1 : BitVec 64) (x2 : State) (h2 : MemOk x2) :
    OutOk (execSwbeat x0 x1 x2) := by
  unfold execSwbeat
  with_reducible repeat' first
    | assumption | apply keep_State_countBeat | apply memOk_ite | apply outOk_next

theorem keep_execCadBeatPreset (x0 : ℕ) (x1 : BitVec 64) (x2 : State) (h2 : MemOk x2) :
    OutOk (execCadBeatPreset x0 x1 x2) := by
  unfold execCadBeatPreset
  with_reducible repeat' first
    | assumption | apply memOk_ite | apply memOk_mem | apply outOk_next | ((conv => arg 1; arg 25); rw [memOk_mk])

theorem keep_execCadBeatRead (x0 : ℕ) (x1 : State) (h1 : MemOk x1) :
    OutOk (execCadBeatRead x0 x1) := by
  unfold execCadBeatRead
  with_reducible repeat' first
    | assumption | apply keep_State_send | apply memOk_ite | apply memOk_mem | apply outOk_next | ((conv => arg 1; arg 25); rw [memOk_mk])

theorem keep_execCadSourceChange (x0 : ℕ) (x1 : BitVec 32) (x2 : State) (h2 : MemOk x2) :
    OutOk (execCadSourceChange x0 x1 x2) := by
  unfold execCadSourceChange
  with_reducible repeat' first
    | assumption | apply memOk_ite | apply memOk_mem | apply outOk_next | ((conv => arg 1; arg 25); rw [memOk_mk])

theorem keep_execCadClr (x0 : ℕ) (x1 : BitVec 32) (x2 : State) (h2 : MemOk x2) :
    OutOk (execCadClr x0 x1 x2) := by
  unfold execCadClr
  with_reducible repeat' first
    | assumption | apply memOk_ite | apply memOk_mem | apply outOk_next | ((conv => arg 1; arg 25); rw [memOk_mk])

theorem keep_State_runUntagged (x0 : State) (h0 : MemOk x0) :
    MemOk (State.runUntagged x0) := by
  unfold State.runUntagged
  with_reducible repeat' first
    | assumption | apply memOk_mem | ((conv => arg 1; arg 25); rw [memOk_mk])

theorem keep_State_loseCadence (x0 : State) (x1 : Bool) (h0 : MemOk x0) :
    MemOk (State.loseCadence x0 x1) := by
  unfold State.loseCadence
  repeat' first
    | with_reducible first
        | assumption | intro _ | apply keep_State_runUntagged | apply keep_State_eventAll
        | apply memOk_ite | apply memOk_foldl | apply memOk_mem | ((conv => arg 1; arg 25); rw [memOk_mk])
    | dsimp only | split

theorem keep_execCadenceLost (x0 : State) (h0 : MemOk x0) :
    OutOk (execCadenceLost x0) := by
  unfold execCadenceLost
  repeat' first
    | with_reducible first
        | assumption | intro _ | apply keep_State_loseCadence
        | apply memOk_ite | apply memOk_foldl | apply memOk_mem | ((conv => arg 1; arg 25); rw [memOk_mk])
        | apply outOk_next | apply outOk_onUnit | apply outOk_ite | apply outOk_fault
    | dsimp only | split

theorem keep_State_failColl (x0 : State) (x1 : ℕ) (h0 : MemOk x0) :
    MemOk (State.failColl x0 x1) := by
  unfold State.failColl
  repeat' first
    | with_reducible first
        | assumption | apply keep_State_setColl | apply keep_State_eventTo
    | dsimp only | split

theorem keep_State_failCut (x0 : State) (h0 : MemOk x0) :
    MemOk (State.failCut x0) := by
  unfold State.failCut
  repeat' first
    | with_reducible first
        | assumption | intro _ | apply keep_State_failColl | apply memOk_ite | apply memOk_foldl
    | split

theorem keep_State_crossPackage (x0 : State) (x1 : Bool) (x2 : Packet) (h0 : MemOk x0) :
    MemOk (State.crossPackage x0 x1 x2) := by
  unfold State.crossPackage
  with_reducible repeat' first
    | assumption | intro _ | apply keep_State_sendAlong | apply memOk_foldl

theorem keep_State_reroute (x0 : State) (x1 : Nat) (x2 : Queued) (h0 : MemOk x0) :
    MemOk (State.reroute x0 x1 x2) := by
  unfold State.reroute
  repeat' first
    | with_reducible first
        | assumption | intro _ | apply keep_State_crossPackage | apply keep_State_updLink | apply keep_State_route
        | apply memOk_ite | apply memOk_foldl | apply memOk_mem | ((conv => arg 1; arg 25); rw [memOk_mk])
        | refine memOk_eq2 (by assumption) ?_ | refine memOk_eq1 (by assumption) ?_ | refine memOk_eq3 (by assumption) ?_
        | refine memOk_eqO (by assumption) ?_ | refine memOk_eqO2 (by assumption) ?_
        | apply memOk_ite2 | apply memOk_ite1 | apply memOk_ite3
    | dsimp only | split

theorem keep_State_rerouteAll (x0 : State) (x1 : Nat) (x2 : List Queued) (h0 : MemOk x0) :
    MemOk (State.rerouteAll x0 x1 x2) := by
  unfold State.rerouteAll
  repeat' first
    | with_reducible first
        | assumption | intro _ | apply keep_State_reroute | apply keep_State_drainLink
        | apply memOk_ite | apply memOk_foldl | apply memOk_mem | ((conv => arg 1; arg 25); rw [memOk_mk])
        | apply memOk_foldl2 | apply memOk_foldl3
    | dsimp only | split

theorem keep_State_linkDown (x0 : State) (x1 : Nat) (h0 : MemOk x0) :
    MemOk (State.linkDown x0 x1) := by
  unfold State.linkDown
  repeat' first
    | with_reducible first
        | assumption | intro _ | apply keep_State_setLink | apply keep_State_unitRecord | apply keep_State_route | apply keep_State_rerouteAll
        | apply keep_State_loseCadence | apply keep_State_failCut
        | apply memOk_ite | apply memOk_foldl | apply memOk_mem | ((conv => arg 1; arg 25); rw [memOk_mk])
        | apply memOk_foldl2 | apply memOk_foldl3
    | dsimp only | split

theorem keep_execAeldonLinkDown (x0 : ℕ) (x1 : State) (h1 : MemOk x1) :
    OutOk (execAeldonLinkDown x0 x1) := by
  unfold execAeldonLinkDown
  with_reducible repeat' first
    | assumption | apply keep_onUnit | apply keep_State_linkDown

theorem keep_execGoingDown (x0 : ℕ) (x1 : BitVec 8) (x2 : State) (h2 : MemOk x2) :
    OutOk (execGoingDown x0 x1 x2) := by
  unfold execGoingDown
  with_reducible repeat' first
    | assumption | apply keep_onUnit | apply keep_State_linkDown

theorem keep_execLinkReportedDown (x0 : ℕ) (x1 : State) (h1 : MemOk x1) :
    OutOk (execLinkReportedDown x0 x1) := by
  unfold execLinkReportedDown
  repeat' first
    | with_reducible first
        | assumption | apply keep_onUnit | apply keep_State_setLink | apply keep_State_unitRecord | apply keep_State_event | apply memOk_ite
    | dsimp only | split

theorem keep_execLinkTrainingRetry (x0 : ℕ) (x1 : State) (h1 : MemOk x1) :
    OutOk (execLinkTrainingRetry x0 x1) := by
  unfold execLinkTrainingRetry
  with_reducible repeat' first
    | assumption | apply keep_onUnit | apply keep_State_setLink | apply memOk_ite

theorem keep_State_train (x0 : State) (x1 x2 : ℕ) (x3 : BitVec 12) (x4 : ℕ) (h0 : MemOk x0) :
    MemOk (State.train x0 x1 x2 x3 x4) := by
  unfold State.train
  with_reducible repeat' first
    | assumption | apply keep_State_setLink | apply keep_State_sendControl | apply keep_State_unitRecord | apply memOk_ite

theorem keep_execLinkTrained (x0 : ℕ) (x1 : BitVec 4) (x2 : BitVec 12) (x3 : ℕ) (x4 : State) (h4 : MemOk x4) :
    OutOk (execLinkTrained x0 x1 x2 x3 x4) := by
  unfold execLinkTrained
  with_reducible repeat' first
    | assumption | apply keep_onUnit | apply keep_State_train | apply memOk_ite

theorem keep_State_widthAsked (x0 : State) (x1 x2 : ℕ) (h0 : MemOk x0) :
    MemOk (State.widthAsked x0 x1 x2) := by
  unfold State.widthAsked
  repeat' first
    | with_reducible first
        | assumption | apply keep_State_setWidth | apply keep_State_sendControl | apply memOk_ite
    | split

theorem keep_execWidthRequest (x0 : ℕ) (x1 : BitVec 4) (x2 : State) (h2 : MemOk x2) :
    OutOk (execWidthRequest x0 x1 x2) := by
  unfold execWidthRequest
  with_reducible repeat' first
    | assumption | apply keep_onUnit | apply keep_State_widthAsked

theorem keep_State_failLane (x0 : State) (x1 : Nat) (x2 : Nat) (h0 : MemOk x0) :
    MemOk (State.failLane x0 x1 x2) := by
  unfold State.failLane
  repeat' first
    | with_reducible first
        | assumption | intro _ | apply keep_State_setLink | apply keep_State_unitRecord | apply keep_State_linkDown | apply keep_State_askWidth
        | apply memOk_ite | apply memOk_foldl | apply memOk_mem | ((conv => arg 1; arg 25); rw [memOk_mk])
    | dsimp only | split

theorem keep_execLaneFailure (x0 x1 : ℕ) (x2 : State) (h2 : MemOk x2) :
    OutOk (execLaneFailure x0 x1 x2) := by
  unfold execLaneFailure
  with_reducible repeat' first
    | assumption | apply keep_onUnit | apply keep_State_failLane

theorem keep_State_laneDone (x0 : State) (x1 : Nat) (x2 : Nat) (x3 : Bool) (h0 : MemOk x0) :
    MemOk (State.laneDone x0 x1 x2 x3) := by
  unfold State.laneDone
  repeat' first
    | with_reducible first
        | assumption | intro _ | apply keep_State_nextLane | apply keep_State_askWidth | apply keep_State_unitRecord
        | apply memOk_ite | apply memOk_foldl | apply memOk_mem | ((conv => arg 1; arg 25); rw [memOk_mk])
    | dsimp only | split

theorem keep_execLaneRetrained (x0 : Nat) (x1 : Nat) (x2 : Bool) (x3 : State) (h3 : MemOk x3) :
    OutOk (execLaneRetrained x0 x1 x2 x3) := by
  unfold execLaneRetrained
  repeat' first
    | with_reducible first
        | assumption | intro _ | apply keep_onUnit | apply keep_State_setLink | apply keep_State_laneDone
        | apply memOk_ite | apply memOk_foldl | apply memOk_mem | ((conv => arg 1; arg 25); rw [memOk_mk])
        | apply outOk_next | apply outOk_onUnit | apply outOk_ite | apply outOk_fault
        | refine memOk_eq2 (by assumption) ?_ | refine memOk_eq1 (by assumption) ?_ | refine memOk_eq3 (by assumption) ?_
        | refine memOk_eqO (by assumption) ?_ | refine memOk_eqO2 (by assumption) ?_
        | apply memOk_ite2 | apply memOk_ite1 | apply memOk_ite3
    | dsimp only | split

theorem keep_State_takeBody (x0 : State) (x1 x2 x3 : ℕ) (x4 : List Byte) (h0 : MemOk x0) :
    MemOk (State.takeBody x0 x1 x2 x3 x4) := by
  unfold State.takeBody
  with_reducible repeat' first
    | assumption | apply keep_State_updLink

theorem keep_State_message (x0 : State) (x1 : ℕ) (x2 : List Byte) (h0 : MemOk x0) :
    MemOk (State.message x0 x1 x2) := by
  unfold State.message
  repeat' first
    | with_reducible first
        | assumption | apply keep_State_symbolIn | apply keep_State_updLink | apply keep_State_widthAsked | apply keep_State_linkDown | apply memOk_ite
    | split

theorem keep_State_applyAck (x0 : State) (x1 : ℕ) (x2 : BitVec 12) (x3 : Bool) (x4 x5 : ℕ) (h0 : MemOk x0) :
    MemOk (State.applyAck x0 x1 x2 x3 x4 x5) := by
  unfold State.applyAck
  with_reducible repeat' first
    | assumption | apply keep_State_setLink | apply keep_State_resendFlits | apply keep_State_updLink | apply keep_State_drainLink | apply memOk_ite

theorem keep_State_discardFlit (x0 : State) (x1 : ℕ) (h0 : MemOk x0) :
    MemOk (State.discardFlit x0 x1) := by
  unfold State.discardFlit
  with_reducible repeat' first
    | assumption | apply keep_State_setLink | apply keep_State_sendControl | apply memOk_ite

theorem keep_State_flitIn (x0 : State) (x1 : ℕ) (x2 : List Byte) (h0 : MemOk x0) :
    MemOk (State.flitIn x0 x1 x2) := by
  unfold State.flitIn
  with_reducible repeat' first
    | assumption | intro _ | apply keep_State_discardFlit | apply keep_State_applyAck | apply keep_State_message | apply keep_State_drainLink
    | apply keep_State_setLink | apply keep_State_takeBody | apply keep_State_sendControl | apply memOk_ite | apply memOk_foldl

theorem keep_State_uncorrectable (x0 : State) (x1 : ℕ) (x2 : List ℕ) (h0 : MemOk x0) :
    MemOk (State.uncorrectable x0 x1 x2) := by
  unfold State.uncorrectable
  with_reducible repeat' first
    | assumption | apply keep_State_updLink | apply keep_State_discardFlit | apply keep_State_failLane | apply memOk_ite

theorem keep_execFlitReceived (x0 : Nat) (x1 : RxFlit) (x2 : State) (h2 : MemOk x2) :
    OutOk (execFlitReceived x0 x1 x2) := by
  unfold execFlitReceived
  repeat' first
    | with_reducible first
        | assumption | intro _ | apply keep_onUnit | apply keep_State_setLink | apply keep_State_flitIn | apply keep_State_discardFlit
        | apply keep_State_uncorrectable
        | apply memOk_ite | apply memOk_foldl | apply memOk_mem | ((conv => arg 1; arg 25); rw [memOk_mk])
        | apply outOk_next | apply outOk_onUnit | apply outOk_ite | apply outOk_fault
    | dsimp only | split

theorem keep_execCreditStall (x0 x1 : ℕ) (x2 : State) (h2 : MemOk x2) :
    OutOk (execCreditStall x0 x1 x2) := by
  unfold execCreditStall
  repeat' first
    | with_reducible first
        | assumption | apply keep_onUnit | apply keep_State_updLink | apply keep_State_event
    | dsimp only | split

theorem keep_State_controlEddy (x0 : State) (x1 : Nat) (x2 : Nat) (x3 : Bool) (x4 : List Byte) (h0 : MemOk x0) :
    MemOk (State.controlEddy x0 x1 x2 x3 x4) := by
  unfold State.controlEddy
  repeat' first
    | with_reducible first
        | assumption | intro _ | apply keep_State_emitEddy | apply keep_State_message
        | apply memOk_ite | apply memOk_foldl | apply memOk_mem | ((conv => arg 1; arg 25); rw [memOk_mk])
    | dsimp only | split

theorem keep_State_reportEddy (x0 : State) (x1 : Nat) (x2 : Nat) (x3 : Bool) (h0 : MemOk x0) :
    MemOk (State.reportEddy x0 x1 x2 x3) := by
  unfold State.reportEddy
  repeat' first
    | with_reducible first
        | assumption | intro _ | apply keep_State_controlEddy
        | apply memOk_ite | apply memOk_foldl | apply memOk_mem | ((conv => arg 1; arg 25); rw [memOk_mk])
    | dsimp only | split

theorem keep_State_resendEddy (x0 : State) (x1 x2 : ℕ) (x3 : BitVec 10) (h0 : MemOk x0) :
    MemOk (State.resendEddy x0 x1 x2 x3) := by
  unfold State.resendEddy
  with_reducible repeat' first
    | assumption | intro _ | apply keep_State_sendEddyData | apply memOk_foldl

theorem keep_State_drainEddy : ∀ (x0 : ℕ) (x1 : State) (x2 : ℕ) (x3 : ℕ), (MemOk (x1)) → MemOk (State.drainEddy x0 x1 x2 x3) := by
  intro x0
  induction x0 with
  | zero  =>
    intro x1 x2 x3 h1
    unfold State.drainEddy
    repeat' first
      | with_reducible first
          | assumption | apply keep_State_transmitEddy | apply keep_State_setBundle | apply memOk_ite
      | split
  | succ n ih =>
    intro x1 x2 x3 h1
    unfold State.drainEddy
    repeat' first
      | with_reducible first
          | assumption | apply ih | apply keep_State_transmitEddy | apply keep_State_setBundle
      | dsimp only | split


theorem keep_State_handover (x0 : State) (x1 : Nat) (x2 : Nat) (x3 : EddyDir) (h0 : MemOk x0) :
    MemOk (State.handover x0 x1 x2 x3) := by
  unfold State.handover
  repeat' first
    | with_reducible first
        | assumption | intro _ | apply keep_State_message | apply keep_State_controlEddy | apply keep_State_sendAlong
        | apply memOk_ite | apply memOk_foldl | apply memOk_mem | ((conv => arg 1; arg 25); rw [memOk_mk])
        | refine memOk_eq2 (by assumption) ?_ | refine memOk_eq1 (by assumption) ?_ | refine memOk_eq3 (by assumption) ?_
        | refine memOk_eqO (by assumption) ?_ | refine memOk_eqO2 (by assumption) ?_
        | apply memOk_ite2 | apply memOk_ite1 | apply memOk_ite3
        | apply memOk_foldl2 | apply memOk_foldl3
    | dsimp only | split

theorem keep_State_fenceBundle (x0 : State) (x1 : ℕ) (h0 : MemOk x0) :
    MemOk (State.fenceBundle x0 x1) := by
  unfold State.fenceBundle
  with_reducible repeat' first
    | assumption | apply keep_State_setBundle | apply keep_State_handover | apply keep_State_unitRecord | apply keep_State_packageFatal
    | apply memOk_ite

theorem keep_execBundleFence (x0 : ℕ) (x1 : State) (h1 : MemOk x1) :
    OutOk (execBundleFence x0 x1) := by
  unfold execBundleFence
  with_reducible repeat' first
    | assumption | apply keep_onUnit | apply keep_State_fenceBundle

theorem keep_State_fenceRefused (x0 : State) (x1 : BitVec 32) (h0 : MemOk x0) :
    MemOk (State.fenceRefused x0 x1) := by
  unfold State.fenceRefused
  with_reducible repeat' first
    | assumption | apply keep_State_errRecord

theorem keep_execD2dFence (x0 : ℕ) (x1 : BitVec 32) (x2 : State) (h2 : MemOk x2) :
    OutOk (execD2dFence x0 x1 x2) := by
  unfold execD2dFence
  with_reducible repeat' first
    | assumption | intro _ | apply keep_State_fenceRefused | apply keep_State_fenceInTurn | apply keep_State_fenceBundle | apply memOk_ite
    | apply outOk_next

theorem keep_State_fenceBridge (x0 : State) (x1 : Nat) (h0 : MemOk x0) :
    MemOk (State.fenceBridge x0 x1) := by
  unfold State.fenceBridge
  repeat' first
    | with_reducible first
        | assumption | intro _ | apply keep_State_updBundle | apply keep_State_handover | apply keep_State_unitRecord | apply keep_State_packageFatal
        | apply memOk_ite | apply memOk_foldl | apply memOk_mem | ((conv => arg 1; arg 25); rw [memOk_mk])
        | apply memOk_foldl2 | apply memOk_foldl3
    | dsimp only | split

theorem keep_State_fenceSegment (x0 : State) (x1 : Nat) (x2 : Nat) (h0 : MemOk x0) :
    MemOk (State.fenceSegment x0 x1 x2) := by
  unfold State.fenceSegment
  repeat' first
    | with_reducible first
        | assumption | intro _ | apply keep_State_setBundle | apply keep_State_handover | apply keep_State_fenceBridge
        | apply memOk_ite | apply memOk_foldl | apply memOk_mem | ((conv => arg 1; arg 25); rw [memOk_mk])
    | dsimp only | split

theorem keep_execBridgeSegmentFence (x0 : Nat) (x1 : Nat) (x2 : State) (h2 : MemOk x2) :
    OutOk (execBridgeSegmentFence x0 x1 x2) := by
  unfold execBridgeSegmentFence
  repeat' first
    | with_reducible first
        | assumption | intro _ | apply keep_onUnit | apply keep_State_fenceSegment
        | apply memOk_ite | apply memOk_foldl | apply memOk_mem | ((conv => arg 1; arg 25); rw [memOk_mk])
        | apply outOk_next | apply outOk_onUnit | apply outOk_ite | apply outOk_fault
    | dsimp only | split

theorem keep_State_fenceEddy (x0 : State) (x1 : Nat) (h0 : MemOk x0) :
    MemOk (State.fenceEddy x0 x1) := by
  unfold State.fenceEddy
  repeat' first
    | with_reducible first
        | assumption | intro _ | apply keep_State_fenceBundle | apply keep_State_fenceSegment
        | apply memOk_ite | apply memOk_foldl | apply memOk_mem | ((conv => arg 1; arg 25); rw [memOk_mk])
    | dsimp only | split

theorem keep_State_discardEddy (x0 : State) (x1 : Nat) (x2 : Nat) (x3 : Bool) (h0 : MemOk x0) :
    MemOk (State.discardEddy x0 x1 x2 x3) := by
  unfold State.discardEddy
  repeat' first
    | with_reducible first
        | assumption | intro _ | apply keep_State_setBundle | apply keep_State_reportEddy | apply keep_State_fenceEddy
        | apply memOk_ite | apply memOk_foldl | apply memOk_mem | ((conv => arg 1; arg 25); rw [memOk_mk])
    | dsimp only | split

theorem keep_State_applyEddyAck (x0 : State) (x1 x2 : ℕ) (x3 : BitVec 10) (x4 : Bool) (x5 x6 : ℕ) (h0 : MemOk x0) :
    MemOk (State.applyEddyAck x0 x1 x2 x3 x4 x5 x6) := by
  unfold State.applyEddyAck
  with_reducible repeat' first
    | assumption | apply keep_State_setBundle | apply keep_State_resendEddy | apply keep_State_drainEddy | apply memOk_ite

theorem keep_execEddyFlit (x0 x1 : ℕ) (x2 : List (BitVec 144)) (x3 : State) (h3 : MemOk x3) :
    OutOk (execEddyFlit x0 x1 x2 x3) := by
  unfold execEddyFlit
  repeat' first
    | with_reducible first
        | assumption | intro _ | apply keep_onUnit | apply keep_State_updBundle | apply keep_State_logCorrected | apply keep_State_discardEddy
        | apply keep_State_applyEddyAck | apply keep_State_setBundle | apply keep_State_reportEddy | apply keep_State_send | apply memOk_ite
        | apply memOk_foldl
    | dsimp only | split

theorem keep_execPacketRoute (x0 : Option ℕ) (x1 : ℕ) (x2 : Packet) (x3 : State) (h3 : MemOk x3) :
    OutOk (execPacketRoute x0 x1 x2 x3) := by
  unfold execPacketRoute
  repeat' first
    | with_reducible first
        | assumption | apply keep_onUnit | apply keep_State_updLink | apply keep_State_route | apply keep_State_crossPackage | apply memOk_ite
    | dsimp only | split

theorem keep_execReplayTimeout (x0 : ℕ) (x1 : State) (h1 : MemOk x1) :
    OutOk (execReplayTimeout x0 x1) := by
  unfold execReplayTimeout
  repeat' first
    | with_reducible first
        | assumption | apply keep_onUnit | apply keep_State_resendFlits | apply keep_State_setLink | apply keep_State_resendEddy
        | apply keep_State_setBundle | apply memOk_ite
    | dsimp only | split

theorem keep_execAckReportTimer (x0 : ℕ) (x1 : State) (h1 : MemOk x1) :
    OutOk (execAckReportTimer x0 x1) := by
  unfold execAckReportTimer
  with_reducible repeat' first
    | assumption | apply keep_onUnit | apply keep_State_sendControl | apply keep_State_reportEddy | apply memOk_ite

theorem keep_State_fenceLink (x0 : State) (x1 : Nat) (h0 : MemOk x0) :
    MemOk (State.fenceLink x0 x1) := by
  unfold State.fenceLink
  repeat' first
    | with_reducible first
        | assumption | intro _ | apply keep_State_linkDown | apply keep_State_updLink | apply keep_State_unitRecord
        | apply memOk_ite | apply memOk_foldl | apply memOk_mem | ((conv => arg 1; arg 25); rw [memOk_mk])
    | dsimp only | split

theorem keep_State_fenceFabric (x0 : State) (x1 : BitVec 32) (x2 : Nat) (h0 : MemOk x0) :
    MemOk (State.fenceFabric x0 x1 x2) := by
  unfold State.fenceFabric
  repeat' first
    | with_reducible first
        | assumption | intro _ | apply keep_State_loseSlice | apply keep_State_fencePch | apply keep_State_fenceLink | apply keep_State_fenceBundle
        | apply keep_State_fenceStack | apply keep_State_fenceBridge
        | apply memOk_ite | apply memOk_foldl | apply memOk_mem | ((conv => arg 1; arg 25); rw [memOk_mk])
        | refine memOk_eq2 (by assumption) ?_ | refine memOk_eq1 (by assumption) ?_ | refine memOk_eq3 (by assumption) ?_
        | refine memOk_eqO (by assumption) ?_ | refine memOk_eqO2 (by assumption) ?_
        | apply memOk_ite2 | apply memOk_ite1 | apply memOk_ite3
    | dsimp only | split

theorem keep_State_fenceResult (x0 : State) (x1 : ℕ) (h0 : MemOk x0) :
    MemOk (State.fenceResult x0 x1) := by
  unfold State.fenceResult
  with_reducible repeat' first
    | assumption | apply memOk_mem | ((conv => arg 1; arg 25); rw [memOk_mk])

theorem keep_State_fenceFabricUnit (x0 : State) (x1 : BitVec 32) (x2 : ℕ) (h0 : MemOk x0) :
    MemOk (State.fenceFabricUnit x0 x1 x2) := by
  unfold State.fenceFabricUnit
  repeat' first
    | with_reducible first
        | assumption | apply keep_State_fenceResult | apply keep_State_fenceRefused | apply keep_State_fenceFabric | apply memOk_ite | apply memOk_mem
        | ((conv => arg 1; arg 25); rw [memOk_mk])
    | dsimp only

theorem keep_State_settleFabric : ∀ (x0 : ℕ) (x1 : State), (MemOk (x1)) → MemOk (State.settleFabric x0 x1) := by
  intro x0
  induction x0 with
  | zero  =>
    intro x1 h1
    unfold State.settleFabric
    with_reducible repeat' first
      | assumption | apply keep_State_fenceFabricUnit | apply keep_State_endControl | apply memOk_ite
  | succ n ih =>
    intro x1 h1
    unfold State.settleFabric
    repeat' first
      | with_reducible first
          | assumption | apply ih | apply keep_State_fenceFabricUnit | apply keep_State_endControl
      | split


theorem keep_State_settleAll (x0 : State) (h0 : MemOk x0) :
    MemOk (State.settleAll x0) := by
  unfold State.settleAll
  with_reducible repeat' first
    | assumption | apply keep_State_settleControls | apply keep_State_settleFabric

theorem keep_State_fenceCommand (x0 : State) (x1 : Bool) (h0 : MemOk x0) :
    MemOk (State.fenceCommand x0 x1) := by
  unfold State.fenceCommand
  repeat' first
    | with_reducible first
        | assumption | apply keep_State_fenceResult | apply keep_State_fenceRefused | apply keep_State_settleAll | apply keep_State_control
        | apply memOk_ite | apply memOk_mem | ((conv => arg 1; arg 25); rw [memOk_mk])
    | dsimp only | split

theorem keep_State_writeFctrl (x0 : State) (x1 : BitVec 32) (h0 : MemOk x0) :
    MemOk (State.writeFctrl x0 x1) := by
  unfold State.writeFctrl
  with_reducible repeat' first
    | assumption | apply keep_State_fenceCommand | apply memOk_ite | apply memOk_mem | ((conv => arg 1; arg 25); rw [memOk_mk])

theorem keep_execErrFence (x0 : ℕ) (x1 : BitVec 32) (x2 : State) (h2 : MemOk x2) :
    OutOk (execErrFence x0 x1 x2) := by
  unfold execErrFence
  with_reducible repeat' first
    | assumption | apply keep_State_writeFctrl | apply memOk_ite | apply outOk_next

theorem keep_State_loseTag (x0 : State) (x1 x2 : ℕ) (h0 : MemOk x0) :
    MemOk (State.loseTag x0 x1 x2) := by
  unfold State.loseTag
  repeat' first
    | with_reducible first
        | assumption | intro _ | apply keep_State_l2Drop | apply keep_State_llcPut | apply keep_State_dirPut | apply keep_State_dirDel
        | apply memOk_ite | apply memOk_foldl
    | dsimp only | split

theorem keep_State_loseTags (x0 : State) (x1 : BitVec 32) (x2 : List ℕ) (h0 : MemOk x0) :
    MemOk (State.loseTags x0 x1 x2) := by
  unfold State.loseTags
  with_reducible repeat' first
    | assumption | intro _ | apply keep_State_loseTag | apply memOk_ite | apply memOk_foldl

theorem keep_State_upsetCore (s : State) (g : Nat) (e : Upset) (h : MemOk s) : OptOk3 (s.upsetCore g e) := by
  unfold State.upsetCore
  repeat' first
    | with_reducible first
        | assumption | apply optOk3_some | apply optOk3_none
        | apply keep_State_lsWrite | apply keep_State_setCore | apply keep_State_setGroup
    | dsimp only | split

theorem keep_State_countErrors (x0 : State) (x1 : BitVec 32) (x2 : Nat) (x3 : Nat) (x4 : Nat) (h0 : MemOk x0) :
    MemOk (State.countErrors x0 x1 x2 x3 x4) := by
  unfold State.countErrors
  repeat' first
    | with_reducible first
        | assumption | intro _ | apply keep_State_updSlice | apply keep_State_updCluster
        | apply memOk_ite | apply memOk_foldl | apply memOk_mem | ((conv => arg 1; arg 25); rw [memOk_mk])
    | dsimp only | split

theorem keep_State_noteError (x0 : State) (x1 : BitVec 32) (x2 : Nat) (x3 : Nat) (x4 : Option Nat) (x5 : Verdict × Nat × Nat) (h0 : MemOk x0) :
    MemOk (State.noteError x0 x1 x2 x3 x4 x5) := by
  unfold State.noteError
  repeat' first
    | with_reducible first
        | assumption | intro _ | apply keep_State_countErrors | apply keep_State_logCorrected | apply keep_State_uncorrectable
        | apply keep_State_errRecord
        | apply memOk_ite | apply memOk_foldl | apply memOk_mem | ((conv => arg 1; arg 25); rw [memOk_mk])
        | refine memOk_eq2 (by assumption) ?_ | refine memOk_eq1 (by assumption) ?_ | refine memOk_eq3 (by assumption) ?_
        | refine memOk_eqO (by assumption) ?_ | refine memOk_eqO2 (by assumption) ?_
        | apply memOk_ite2 | apply memOk_ite1 | apply memOk_ite3
    | dsimp only | split

theorem keep_State_unitFails (x0 : State) (x1 : BitVec 32) (x2 : Nat) (x3 : UnitFailure) (h0 : MemOk x0) :
    MemOk (State.unitFails x0 x1 x2 x3) := by
  unfold State.unitFails
  repeat' first
    | with_reducible first
        | assumption | intro _ | apply keep_State_fenceFabric | apply keep_State_loseTags | apply keep_State_fenceUnit | apply keep_State_settleControls
        | apply memOk_ite | apply memOk_foldl | apply memOk_mem | ((conv => arg 1; arg 25); rw [memOk_mk])
    | dsimp only | split

theorem keep_State_coreError (x0 : State) (x1 : BitVec 32) (x2 : Nat) (h0 : MemOk x0) :
    MemOk (State.coreError x0 x1 x2) := by
  unfold State.coreError
  repeat' first
    | with_reducible first
        | assumption | intro _ | apply keep_State_updCluster | apply keep_State_unitFails
        | apply memOk_ite | apply memOk_foldl | apply memOk_mem | ((conv => arg 1; arg 25); rw [memOk_mk])
    | dsimp only | split

theorem keep_State_sliceError (x0 : State) (x1 : Nat) (h0 : MemOk x0) :
    MemOk (State.sliceError x0 x1) := by
  unfold State.sliceError
  repeat' first
    | with_reducible first
        | assumption | intro _ | apply keep_State_updSlice | apply keep_State_loseSlice
        | apply memOk_ite | apply memOk_foldl | apply memOk_mem | ((conv => arg 1; arg 25); rw [memOk_mk])
    | dsimp only | split

theorem keep_State_loseLlcLine (x0 : State) (x1 : Nat) (x2 : Nat) (h0 : MemOk x0) :
    MemOk (State.loseLlcLine x0 x1 x2) := by
  unfold State.loseLlcLine
  repeat' first
    | with_reducible first
        | assumption | intro _ | apply keep_State_hbmPut | apply keep_State_updSlice
        | apply memOk_ite | apply memOk_foldl | apply memOk_mem | ((conv => arg 1; arg 25); rw [memOk_mk])
        | refine memOk_eq2 (by assumption) ?_ | refine memOk_eq1 (by assumption) ?_ | refine memOk_eq3 (by assumption) ?_
        | refine memOk_eqO (by assumption) ?_ | refine memOk_eqO2 (by assumption) ?_
        | apply memOk_ite2 | apply memOk_ite1 | apply memOk_ite3
        | apply memOk_foldl2 | apply memOk_foldl3
    | dsimp only | split

theorem keep_State_searchL2s (x0 : State) (x1 : Nat) (h0 : MemOk x0) :
    MemOk (State.searchL2s x0 x1) := by
  unfold State.searchL2s
  repeat' first
    | with_reducible first
        | assumption | intro _ | apply keep_State_updSlice
        | apply memOk_ite | apply memOk_foldl | apply memOk_mem | ((conv => arg 1; arg 25); rw [memOk_mk])
        | refine memOk_eq2 (by assumption) ?_ | refine memOk_eq1 (by assumption) ?_ | refine memOk_eq3 (by assumption) ?_
        | refine memOk_eqO (by assumption) ?_ | refine memOk_eqO2 (by assumption) ?_
        | apply memOk_ite2 | apply memOk_ite1 | apply memOk_ite3
    | dsimp only | split

theorem keep_State_upset (x0 : State) (x1 : BitVec 32) (x2 : Nat) (x3 : Upset) (h0 : MemOk x0) :
    MemOk (State.upset x0 x1 x2 x3) := by
  unfold State.upset
  repeat' first
    | with_reducible first
        | assumption | intro _ | apply keep_State_uncorrectable | apply keep_State_upsetCore | apply keep_State_noteError
        | apply keep_State_coreError | apply keep_State_updCluster | apply keep_State_unitFails | apply keep_State_updSlice
        | apply keep_State_sliceError | apply keep_State_loseLlcLine | apply keep_State_loseSlice | apply keep_State_searchL2s
        | apply memOk_ite | apply memOk_foldl | apply memOk_mem | ((conv => arg 1; arg 25); rw [memOk_mk])
        | refine memOk_eq2 (by assumption) ?_ | refine memOk_eq1 (by assumption) ?_ | refine memOk_eq3 (by assumption) ?_
        | refine memOk_eqO (by assumption) ?_ | refine memOk_eqO3 (by assumption) ?_ | refine memOk_eqO2 (by assumption) ?_
        | apply memOk_ite2 | apply memOk_ite1 | apply memOk_ite3
    | dsimp only | split

theorem keep_execUnitFenced (x0 : BitVec 32) (x1 : UnitFailure) (x2 : State) (h2 : MemOk x2) :
    OutOk (execUnitFenced x0 x1 x2) := by
  unfold execUnitFenced
  repeat' first
    | with_reducible first
        | assumption | intro _ | apply keep_onUnit | apply keep_State_upset | apply keep_State_unitFails
        | apply memOk_ite | apply memOk_foldl | apply memOk_mem | ((conv => arg 1; arg 25); rw [memOk_mk])
        | apply outOk_next | apply outOk_onUnit | apply outOk_ite | apply outOk_fault
        | refine memOk_eq2 (by assumption) ?_ | refine memOk_eq1 (by assumption) ?_ | refine memOk_eq3 (by assumption) ?_
        | refine memOk_eqO (by assumption) ?_ | refine memOk_eqO2 (by assumption) ?_
        | apply memOk_ite2 | apply memOk_ite1 | apply memOk_ite3
    | dsimp only | split

theorem keep_execPackageFatal (x0 : BitVec 32) (x1 : State) (h1 : MemOk x1) :
    OutOk (execPackageFatal x0 x1) := by
  unfold execPackageFatal
  with_reducible repeat' first
    | assumption | apply keep_State_packageFatal | apply memOk_ite | apply outOk_next

theorem keep_State_saturated (x0 : State) (x1 : ℕ) (x2 : Bool) (h0 : MemOk x0) :
    MemOk (State.saturated x0 x1 x2) := by
  unfold State.saturated
  with_reducible repeat' first
    | assumption | apply keep_State_event | apply memOk_ite

theorem keep_execCounterSaturated (x0 : ℕ) (x1 : State) (h1 : MemOk x1) :
    OutOk (execCounterSaturated x0 x1) := by
  unfold execCounterSaturated
  repeat' first
    | with_reducible first
        | assumption | apply keep_State_saturated | apply keep_State_updSectorClk | apply keep_State_updSlice | apply memOk_ite | apply memOk_mem
        | apply outOk_next | ((conv => arg 1; arg 25); rw [memOk_mk])
    | split

theorem keep_State_testEvent (x0 : State) (x1 : ℕ) (h0 : MemOk x0) :
    MemOk (State.testEvent x0 x1) := by
  unfold State.testEvent
  with_reducible repeat' first
    | assumption | apply keep_State_eventTo

theorem keep_State_endTest (x0 : State) (x1 x2 : ℕ) (h0 : MemOk x0) :
    MemOk (State.endTest x0 x1 x2) := by
  unfold State.endTest
  repeat' first
    | with_reducible first
        | assumption | apply keep_State_testEvent | apply keep_State_endControl | apply keep_State_reclock | apply keep_State_updSectorClk
        | apply keep_State_controlEvent | apply keep_State_settleAll | apply memOk_ite | apply memOk_mem | ((conv => arg 1; arg 25); rw [memOk_mk])
    | dsimp only | split

theorem keep_State_writeBistCtrl (x0 : State) (x1 : BitVec 32) (h0 : MemOk x0) :
    MemOk (State.writeBistCtrl x0 x1) := by
  unfold State.writeBistCtrl
  repeat' first
    | with_reducible first
        | assumption | apply keep_State_testEvent | apply keep_State_settleControls | apply keep_State_control | apply memOk_ite | apply memOk_mem
        | ((conv => arg 1; arg 25); rw [memOk_mk])
    | dsimp only | split

theorem keep_execBistGo (x0 : ℕ) (x1 : BitVec 32) (x2 : State) (h2 : MemOk x2) :
    OutOk (execBistGo x0 x1 x2) := by
  unfold execBistGo
  with_reducible repeat' first
    | assumption | apply keep_State_writeBistCtrl | apply memOk_ite | apply outOk_next

theorem keep_execScanDone (x0 : List (Nat × Nat)) (x1 : State) (h1 : MemOk x1) :
    OutOk (execScanDone x0 x1) := by
  unfold execScanDone
  repeat' first
    | with_reducible first
        | assumption | intro _ | apply keep_State_wipeCore | apply keep_State_fenceCore | apply keep_State_unitRecord
        | apply memOk_ite | apply memOk_foldl | apply memOk_mem | ((conv => arg 1; arg 25); rw [memOk_mk])
        | apply outOk_next | apply outOk_onUnit | apply outOk_ite | apply outOk_fault
        | refine memOk_eq2 (by assumption) ?_ | refine memOk_eq1 (by assumption) ?_ | refine memOk_eq3 (by assumption) ?_
        | refine memOk_eqO (by assumption) ?_ | refine memOk_eqO2 (by assumption) ?_
        | apply memOk_ite2 | apply memOk_ite1 | apply memOk_ite3
        | apply memOk_foldl2 | apply memOk_foldl3
    | dsimp only | split

theorem keep_pickFree : ∀ (x0 : ℕ) (x1 : List ℕ) (x2 : State), (MemOk (x2)) → MemOk (pickFree x0 x1 x2).2 := by
  intro x0
  induction x0 with
  | zero  =>
    intro x1 x2 h2
    unfold pickFree
    with_reducible repeat' first
      | assumption | apply keep_State_draw | apply memOk_ite | apply memOk_mem
  | succ n ih =>
    intro x1 x2 h2
    unfold pickFree
    with_reducible repeat' first
      | assumption | apply ih | apply keep_State_draw | apply memOk_ite2


theorem keep_State_endFabricTest (x0 : State) (x1 x2 : ℕ) (h0 : MemOk x0) :
    MemOk (State.endFabricTest x0 x1 x2) := by
  unfold State.endFabricTest
  with_reducible repeat' first
    | assumption | apply keep_State_updCluster | apply keep_State_flushL2 | apply keep_State_endTest | apply keep_State_settleControls
    | apply keep_State_fenceUnit | apply memOk_ite | apply memOk_mem | ((conv => arg 1; arg 25); rw [memOk_mk])

theorem keep_State_endAnalogTest (x0 : State) (x1 x2 : ℕ) (h0 : MemOk x0) :
    MemOk (State.endAnalogTest x0 x1 x2) := by
  unfold State.endAnalogTest
  with_reducible repeat' first
    | assumption | intro _ | apply keep_pickFree | apply keep_State_updLink | apply keep_State_linkDown | apply keep_State_askWidth
    | apply keep_State_fencePch | apply keep_State_endTest | apply memOk_ite | apply memOk_mem | apply memOk_foldl
    | ((conv => arg 1; arg 25); rw [memOk_mk])

theorem keep_execBistDone (x0 x1 : ℕ) (x2 : State) (h2 : MemOk x2) :
    OutOk (execBistDone x0 x1 x2) := by
  unfold execBistDone
  with_reducible repeat' first
    | assumption | apply keep_State_endAnalogTest | apply keep_State_endFabricTest | apply keep_State_endTest | apply memOk_ite | apply outOk_next

theorem keep_State_abortTest (x0 : State) (x1 : ℕ) (h0 : MemOk x0) :
    MemOk (State.abortTest x0 x1) := by
  unfold State.abortTest
  with_reducible repeat' first
    | assumption | intro _ | apply keep_State_wipeCore | apply keep_State_endTest | apply memOk_ite | apply memOk_foldl

theorem keep_State_settleClock (x0 x1 : State) (x2 : ℕ) (h0 : MemOk x0) (h1 : MemOk x1) :
    MemOk (State.settleClock x0 x1 x2) := by
  unfold State.settleClock
  with_reducible repeat' first
    | assumption | apply keep_State_floorEvent | apply keep_State_applyClock | apply keep_State_reclock | apply memOk_ite

theorem keep_State_settleClocks (x0 x1 : State) (h0 : MemOk x0) (h1 : MemOk x1) :
    MemOk (State.settleClocks x0 x1) := by
  unfold State.settleClocks
  with_reducible repeat' first
    | assumption | intro _ | apply keep_State_settleClock | apply memOk_foldl

theorem keep_State_startLost (x0 : State) (h0 : MemOk x0) :
    MemOk (State.startLost x0) := by
  unfold State.startLost
  with_reducible repeat' first
    | assumption | apply memOk_ite | apply memOk_mem | ((conv => arg 1; arg 25); rw [memOk_mk])

theorem keep_State_cutErase (x0 : State) (h0 : MemOk x0) :
    MemOk (State.cutErase x0) := by
  unfold State.cutErase
  repeat' first
    | with_reducible first
        | assumption | apply keep_State_drawBytes | apply memOk_ite | apply memOk_mem | ((conv => arg 1; arg 25); rw [memOk_mk])
    | dsimp only

theorem keep_State_wipe : ∀ (x0 : State), (MemOk (x0)) → MemOk (State.wipe x0) := by
  intro x0 h0
  exact ⟨⟨List.Pairwise.nil, fun _ h => nomatch h⟩, (keep_State_cutErase x0 h0).2⟩

theorem keep_State_cutCal (x0 : State) (h0 : MemOk x0) :
    MemOk (State.cutCal x0) := by
  unfold State.cutCal
  repeat' first
    | with_reducible first
        | assumption | intro _ | apply keep_State_drawBytes
        | apply memOk_ite | apply memOk_foldl | apply memOk_mem | ((conv => arg 1; arg 25); rw [memOk_mk])
        | refine memOk_eq2 (by assumption) ?_ | refine memOk_eq1 (by assumption) ?_ | refine memOk_eq3 (by assumption) ?_
        | refine memOk_eqO (by assumption) ?_ | refine memOk_eqO2 (by assumption) ?_
        | apply memOk_ite2 | apply memOk_ite1 | apply memOk_ite3
    | dsimp only | split

theorem keep_State_losePower (x0 : State) (h0 : MemOk x0) :
    MemOk (State.losePower x0) := by
  unfold State.losePower
  repeat' first
    | with_reducible first
        | assumption | intro _ | apply keep_State_startLost | apply keep_State_cutCal | apply keep_State_wipe | apply keep_State_withAlert
        | apply keep_State_send
        | apply memOk_ite | apply memOk_foldl | apply memOk_mem | ((conv => arg 1; arg 25); rw [memOk_mk])
    | dsimp only | split

theorem keep_State_tamper (x0 : State) (x1 x2 : ℕ) (x3 : Bool) (h0 : MemOk x0) :
    MemOk (State.tamper x0 x1 x2 x3) := by
  unfold State.tamper
  repeat' first
    | with_reducible first
        | assumption | apply memOk_mem | ((conv => arg 1; arg 25); rw [memOk_mk])
    | dsimp only | split

theorem keep_State_lockKeys (x0 : State) (h0 : MemOk x0) :
    MemOk (State.lockKeys x0) := by
  unfold State.lockKeys
  with_reducible repeat' first
    | assumption | apply memOk_mem | ((conv => arg 1; arg 25); rw [memOk_mk])

theorem keep_State_dropKey (x0 : State) (h0 : MemOk x0) :
    MemOk (State.dropKey x0) := by
  unfold State.dropKey
  with_reducible repeat' first
    | assumption | apply memOk_mem | ((conv => arg 1; arg 25); rw [memOk_mk])

theorem keep_State_eraseStore (x0 : State) (h0 : MemOk x0) :
    MemOk (State.eraseStore x0) := by
  unfold State.eraseStore
  repeat' first
    | with_reducible first
        | assumption | apply keep_State_dropKey | apply keep_State_respond | apply memOk_ite | apply memOk_mem
        | ((conv => arg 1; arg 25); rw [memOk_mk])
    | dsimp only | split

theorem keep_State_silence (x0 : State) (h0 : MemOk x0) :
    MemOk (State.silence x0) := by
  unfold State.silence
  repeat' first
    | with_reducible first
        | assumption | intro _
        | apply memOk_ite | apply memOk_foldl | apply memOk_mem | ((conv => arg 1; arg 25); rw [memOk_mk])
    | dsimp only | split

theorem keep_State_enterLock (x0 : State) (x1 : Nat) (h0 : MemOk x0) :
    MemOk (State.enterLock x0 x1) := by
  unfold State.enterLock
  repeat' first
    | with_reducible first
        | assumption | intro _ | apply keep_State_settleClocks | apply keep_State_silence | apply keep_State_eventLater | apply keep_State_abandonAll
        | apply memOk_ite | apply memOk_foldl | apply memOk_mem | ((conv => arg 1; arg 25); rw [memOk_mk])
    | dsimp only | split

theorem keep_State_applyLevel (x0 : State) (x1 x2 : ℕ) (x3 : Bool) (h0 : MemOk x0) :
    MemOk (State.applyLevel x0 x1 x2 x3) := by
  unfold State.applyLevel
  with_reducible repeat' first
    | assumption | apply keep_State_eraseStore | apply keep_State_lockKeys | apply keep_State_enterLock | apply keep_State_withAlert | apply memOk_ite

theorem keep_State_sign (x0 : State) (x1 : ℕ → List Byte) (h0 : MemOk x0) :
    MemOk (State.sign x0 x1).2 := by
  unfold State.sign
  repeat' first
    | with_reducible first
        | assumption | apply keep_State_event | apply memOk_ite | apply memOk_ite2 | apply memOk_mem | ((conv => arg 1; arg 25); rw [memOk_mk])
    | dsimp only | split

theorem keep_State_measure (x0 : State) (x1 : ℕ) (x2 : List Byte) (h0 : MemOk x0) :
    MemOk (State.measure x0 x1 x2) := by
  unfold State.measure
  with_reducible repeat' first
    | assumption | apply memOk_mem | ((conv => arg 1; arg 25); rw [memOk_mk])

theorem keep_State_measureCal (x0 : State) (h0 : MemOk x0) :
    MemOk (State.measureCal x0) := by
  unfold State.measureCal
  with_reducible repeat' first
    | assumption | apply keep_State_measure

theorem keep_State_measurePers (x0 : State) (h0 : MemOk x0) :
    MemOk (State.measurePers x0) := by
  unfold State.measurePers
  with_reducible repeat' first
    | assumption | apply keep_State_measure

theorem keep_State_measureLicences (x0 : State) (h0 : MemOk x0) :
    MemOk (State.measureLicences x0) := by
  unfold State.measureLicences
  with_reducible repeat' first
    | assumption | apply keep_State_measure

theorem keep_State_batteryLost (x0 : State) (h0 : MemOk x0) :
    MemOk (State.batteryLost x0) := by
  unfold State.batteryLost
  with_reducible repeat' first
    | assumption | apply keep_State_eraseStore | apply keep_State_tamper | apply memOk_mem | ((conv => arg 1; arg 25); rw [memOk_mk])

theorem keep_State_newKey (x0 : State) (x1 : ℕ) (h0 : MemOk x0) :
    MemOk (State.newKey x0 x1) := by
  unfold State.newKey
  repeat' first
    | with_reducible first
        | assumption | apply memOk_mem | ((conv => arg 1; arg 25); rw [memOk_mk])
    | dsimp only

theorem keep_State_advanceEpoch (x0 : State) (x1 : ℕ) (x2 : Bool) (h0 : MemOk x0) :
    MemOk (State.advanceEpoch x0 x1 x2) := by
  unfold State.advanceEpoch
  with_reducible repeat' first
    | assumption | apply keep_State_newKey | apply memOk_mem | ((conv => arg 1; arg 25); rw [memOk_mk])

theorem keep_State_checkStore (x0 : State) (x1 : CellReport) (h0 : MemOk x0) :
    MemOk (State.checkStore x0 x1) := by
  unfold State.checkStore
  repeat' first
    | with_reducible first
        | assumption | intro _ | apply keep_State_batteryLost
        | apply memOk_ite | apply memOk_foldl | apply memOk_mem | ((conv => arg 1; arg 25); rw [memOk_mk])
        | refine memOk_eq2 (by assumption) ?_ | refine memOk_eq1 (by assumption) ?_ | refine memOk_eq3 (by assumption) ?_
        | refine memOk_eqO (by assumption) ?_ | refine memOk_eqO2 (by assumption) ?_
        | apply memOk_ite2 | apply memOk_ite1 | apply memOk_ite3
    | dsimp only | split

theorem keep_State_beginStart (x0 : State) (x1 : Bool) (x2 : StartInputs) (x3 : Bool) (h0 : MemOk x0) :
    MemOk (State.beginStart x0 x1 x2 x3) := by
  unfold State.beginStart
  repeat' first
    | with_reducible first
        | assumption | intro _ | apply keep_State_checkStore | apply keep_State_dropKey | apply keep_State_draw256 | apply keep_State_newKey
        | apply keep_State_eventLater | apply keep_State_enterLock
        | apply memOk_ite | apply memOk_foldl | apply memOk_mem | ((conv => arg 1; arg 25); rw [memOk_mk])
        | refine memOk_eq2 (by assumption) ?_ | refine memOk_eq1 (by assumption) ?_ | refine memOk_eq3 (by assumption) ?_
        | refine memOk_eqO (by assumption) ?_ | refine memOk_eqO2 (by assumption) ?_
        | apply memOk_ite2 | apply memOk_ite1 | apply memOk_ite3
        | apply memOk_foldl2 | apply memOk_foldl3
    | dsimp only | split

theorem keep_State_stagingWrite (x0 : State) (x1 : ℕ) (x2 : List Byte) (h0 : MemOk x0) :
    MemOk (State.stagingWrite x0 x1 x2) := by
  unfold State.stagingWrite
  repeat' first
    | with_reducible first
        | assumption | intro _ | apply keep_State_draw | apply memOk_ite | apply memOk_mem | apply memOk_foldl
        | ((conv => arg 1; arg 25); rw [memOk_mk])
    | dsimp only | split

theorem keep_State_writeStage (x0 : State) (x1 x2 : Bool) (h0 : MemOk x0) :
    MemOk (State.writeStage x0 x1 x2) := by
  unfold State.writeStage
  with_reducible repeat' first
    | assumption | apply memOk_ite | apply memOk_mem | ((conv => arg 1; arg 25); rw [memOk_mk])

theorem keep_State_stageRegister (x0 : State) (x1 : ℕ) (x2 : BitVec 32) (h0 : MemOk x0) :
    MemOk (State.stageRegister x0 x1 x2) := by
  unfold State.stageRegister
  with_reducible repeat' first
    | assumption | apply keep_State_writeStage | apply memOk_ite

theorem keep_execArm (x0 : ℕ) (x1 : BitVec 32) (x2 : State) (h2 : MemOk x2) :
    OutOk (execArm x0 x1 x2) := by
  unfold execArm
  with_reducible repeat' first
    | assumption | apply keep_State_stageRegister | apply outOk_next

theorem keep_execStageErase (x0 : ℕ) (x1 : BitVec 32) (x2 : State) (h2 : MemOk x2) :
    OutOk (execStageErase x0 x1 x2) := by
  unfold execStageErase
  with_reducible repeat' first
    | assumption | apply keep_State_stageRegister | apply outOk_next

theorem keep_State_portGet (x0 : State) (x1 : Nat) (x2 : Option (BitVec 2 × Nat)) (h0 : MemOk x0) :
    MemOk (State.portGet x0 x1 x2).2 := by
  unfold State.portGet
  repeat' first
    | with_reducible first
        | assumption | intro _ | apply keep_State_drawBytes | apply keep_State_devRead | apply keep_State_notePoison
        | apply memOk_ite | apply memOk_foldl | apply memOk_mem | ((conv => arg 1; arg 25); rw [memOk_mk])
        | apply memOk_ite2 | apply memOk_ite1 | apply memOk_ite3 | apply memOk_foldl2
        | refine memOk_eq2 (by assumption) ?_ | refine memOk_eq1 (by assumption) ?_ | refine memOk_eq3 (by assumption) ?_
        | refine memOk_eqO (by assumption) ?_ | refine memOk_eqO2 (by assumption) ?_
    | dsimp only | split

theorem keep_State_portRead (x0 : State) (x1 : List (Option (BitVec 2 × Nat))) (x2 : Nat) (h0 : MemOk x0) :
    MemOk (State.portRead x0 x1 x2).2 := by
  unfold State.portRead
  repeat' first
    | with_reducible first
        | assumption | intro _ | apply keep_State_mend | apply keep_State_devRead | apply keep_State_portGet
        | apply memOk_ite | apply memOk_foldl | apply memOk_mem | ((conv => arg 1; arg 25); rw [memOk_mk])
        | apply optOk_some | apply optOk_none | apply optOk_ite | apply optOk2_some | apply optOk2_none
        | apply memOk_ite2 | apply memOk_ite1 | apply memOk_ite3 | apply memOk_foldl2
        | refine memOk_eq2 (by assumption) ?_ | refine memOk_eq1 (by assumption) ?_ | refine memOk_eq3 (by assumption) ?_
        | refine memOk_eqO (by assumption) ?_ | refine memOk_eqO2 (by assumption) ?_
        | apply memOk_foldl3
        | apply optOk_findSome
    | dsimp only | split

theorem keep_State_portAnswer (x0 : State) (x1 : List PByte) (h0 : MemOk x0) :
    MemOk (State.portAnswer x0 x1) := by
  unfold State.portAnswer
  repeat' first
    | with_reducible first
        | assumption | intro _ | apply keep_State_send
        | apply memOk_ite | apply memOk_foldl | apply memOk_mem | ((conv => arg 1; arg 25); rw [memOk_mk])
    | dsimp only | split

theorem keep_State_drainPortN (n : Nat) : ∀ s, MemOk s → MemOk (State.drainPortN n s) := by
  induction n with
  | zero =>
    intro s h
    exact h
  | succ n ih =>
    intro s h
    unfold State.drainPortN
    repeat' first
      | with_reducible first
        | assumption | intro _ | apply ih | apply keep_State_stagingWrite | apply keep_State_devWrite | apply keep_State_portRead | apply keep_State_portAnswer
        | apply memOk_ite | apply memOk_foldl | apply memOk_foldl2 | apply memOk_foldl3 | apply memOk_mem | apply memOk_ite2 | apply memOk_ite1 | apply memOk_ite3 | apply outOk_next | apply outOk_onUnit | apply outOk_ite | apply outOk_fault | apply optOk_some | apply optOk_none | apply optOk_ite | apply optOk2_some | apply optOk2_none | ((conv => arg 1; arg 25); rw [memOk_mk])
        | refine memOk_eq2 (by assumption) ?_
      | dsimp only | split

theorem keep_State_drainPort (x0 : State) (h0 : MemOk x0) :
    MemOk (State.drainPort x0) := by
  unfold State.drainPort
  with_reducible repeat' first
    | assumption | apply keep_State_drainPortN

theorem keep_execStageEraseDone (x0 : State) (h0 : MemOk x0) :
    OutOk (execStageEraseDone x0) := by
  unfold execStageEraseDone
  with_reducible repeat' first
    | assumption | apply keep_State_drainPort | apply memOk_ite | apply memOk_mem | apply outOk_next | ((conv => arg 1; arg 25); rw [memOk_mk])

theorem keep_State_stagedReason (x0 : State) (h0 : MemOk x0) :
    MemOk (State.stagedReason x0).2 := by
  unfold State.stagedReason
  repeat' first
    | with_reducible first
        | assumption | intro _ | apply keep_State_draw
        | apply memOk_ite | apply memOk_foldl | apply memOk_mem | ((conv => arg 1; arg 25); rw [memOk_mk])
        | apply memOk_ite2 | apply memOk_ite1 | apply memOk_ite3 | apply memOk_foldl2
        | refine memOk_eq2 (by assumption) ?_ | refine memOk_eq1 (by assumption) ?_ | refine memOk_eq3 (by assumption) ?_
        | refine memOk_eqO (by assumption) ?_ | refine memOk_eqO2 (by assumption) ?_
    | dsimp only | split

theorem keep_execVerifyDone (x0 : State) (h0 : MemOk x0) :
    OutOk (execVerifyDone x0) := by
  unfold execVerifyDone
  repeat' first
    | with_reducible first
        | assumption | intro _ | apply keep_State_stagedReason
        | apply memOk_ite | apply memOk_foldl | apply memOk_mem | ((conv => arg 1; arg 25); rw [memOk_mk])
        | apply outOk_next | apply outOk_onUnit | apply outOk_ite | apply outOk_fault
        | refine memOk_eq2 (by assumption) ?_ | refine memOk_eq1 (by assumption) ?_ | refine memOk_eq3 (by assumption) ?_
        | refine memOk_eqO (by assumption) ?_ | refine memOk_eqO2 (by assumption) ?_
        | apply memOk_ite2 | apply memOk_ite1 | apply memOk_ite3
    | dsimp only | split

theorem keep_State_stagingTouched (x0 : State) (h0 : MemOk x0) :
    MemOk (State.stagingTouched x0) := by
  unfold State.stagingTouched
  repeat' first
    | with_reducible first
        | assumption | intro _
        | apply memOk_ite | apply memOk_foldl | apply memOk_mem | ((conv => arg 1; arg 25); rw [memOk_mk])
    | dsimp only | split

theorem keep_State_portAccess (x0 : State) (x1 : PortAccess) (h0 : MemOk x0) :
    MemOk (State.portAccess x0 x1) := by
  unfold State.portAccess
  repeat' first
    | with_reducible first
        | assumption | intro _ | apply keep_State_drainPort
        | apply memOk_ite | apply memOk_foldl | apply memOk_mem | ((conv => arg 1; arg 25); rw [memOk_mk])
    | dsimp only | split

theorem keep_State_stagingAccess (x0 : State) (x1 : Nat) (x2 : List Byte) (h0 : MemOk x0) :
    MemOk (State.stagingAccess x0 x1 x2) := by
  unfold State.stagingAccess
  repeat' first
    | with_reducible first
        | assumption | intro _ | apply keep_State_stagingTouched | apply keep_State_portAccess
        | apply memOk_ite | apply memOk_foldl | apply memOk_mem | ((conv => arg 1; arg 25); rw [memOk_mk])
    | dsimp only | split

theorem keep_State_windowPut (x0 : State) (x1 : List Byte) (h0 : MemOk x0) :
    MemOk (State.windowPut x0 x1) := by
  unfold State.windowPut
  repeat' first
    | with_reducible first
        | assumption | intro _ | apply keep_State_stagingAccess | apply keep_State_portAccess | apply keep_State_advance
        | apply memOk_ite | apply memOk_foldl | apply memOk_mem | ((conv => arg 1; arg 25); rw [memOk_mk])
    | dsimp only | split

theorem keep_State_windowWrite : ∀ (x1 : ℕ) (x0 : ℕ) (x2 : State) (x3 : List Byte), (MemOk (x2)) → MemOk (State.windowWrite x0 x1 x2 x3) := by
  intro x1
  induction x1 with
  | zero  =>
    intro x0 x2 x3 h2
    unfold State.windowWrite
    with_reducible repeat' first
      | assumption | apply keep_State_windowPut | apply memOk_ite | apply memOk_ite2
  | succ n ih =>
    intro x0 x2 x3 h2
    unfold State.windowWrite
    with_reducible repeat' first
      | assumption | apply ih | apply keep_State_windowPut | apply memOk_ite


theorem keep_execDataWindowWrite (x0 x1 : ℕ) (x2 : List (BitVec 8)) (x3 : Bool) (x4 : State) (h4 : MemOk x4) :
    OutOk (execDataWindowWrite x0 x1 x2 x3 x4) := by
  unfold execDataWindowWrite
  with_reducible repeat' first
    | assumption | apply keep_State_windowWrite | apply memOk_ite | apply memOk_mem | apply outOk_next | ((conv => arg 1; arg 25); rw [memOk_mk])

theorem keep_State_windowParts (w : Nat) (k : Nat) : ∀ s, MemOk s → MemOk (State.windowParts w k s).2 := by
  induction k with
  | zero =>
    intro s h
    exact h
  | succ k ih =>
    intro s h
    exact ih _ h

theorem keep_execDataWindowRead (x0 : Nat) (x1 : Nat) (x2 : Nat) (x3 : Bool) (x4 : State) (h4 : MemOk x4) :
    OutOk (execDataWindowRead x0 x1 x2 x3 x4) := by
  unfold execDataWindowRead
  repeat' first
    | with_reducible first
        | assumption | intro _ | apply keep_State_send | apply keep_State_windowParts | apply keep_State_portAccess
        | apply memOk_ite | apply memOk_foldl | apply memOk_mem | ((conv => arg 1; arg 25); rw [memOk_mk])
        | apply outOk_next | apply outOk_onUnit | apply outOk_ite | apply outOk_fault
        | refine memOk_eq2 (by assumption) ?_ | refine memOk_eq1 (by assumption) ?_ | refine memOk_eq3 (by assumption) ?_
        | refine memOk_eqO (by assumption) ?_ | refine memOk_eqO2 (by assumption) ?_
        | apply memOk_ite2 | apply memOk_ite1 | apply memOk_ite3
    | dsimp only | split

theorem keep_State_answerRowless (x0 : State) (x1 : ℕ) (h0 : MemOk x0) :
    MemOk (State.answerRowless x0 x1) := by
  unfold State.answerRowless
  repeat' first
    | with_reducible first
        | assumption | apply keep_State_respond | apply memOk_ite
    | split

theorem keep_State_go (x0 : State) (x1 : ℕ) (x2 : BitVec 32) (h0 : MemOk x0) :
    MemOk (State.go x0 x1 x2) := by
  unfold State.go
  repeat' first
    | with_reducible first
        | assumption | apply keep_State_updInst | apply keep_State_control | apply keep_State_answerRowless | apply memOk_ite
    | dsimp only | split

theorem keep_execMbGo (x0 : ℕ) (x1 : BitVec 32) (x2 : State) (h2 : MemOk x2) :
    OutOk (execMbGo x0 x1 x2) := by
  unfold execMbGo
  with_reducible repeat' first
    | assumption | apply keep_onUnit | apply keep_State_go | apply memOk_ite

theorem keep_State_mbRun (x0 : State) (x1 x2 : ℕ) (x3 : List Byte → State → State) (h0 : MemOk x0) (h3 : ∀ (y0 : List Byte) (y1 : State), MemOk y1 → MemOk (x3 y0 y1)) :
    MemOk (State.mbRun x0 x1 x2 x3) := by
  unfold State.mbRun
  repeat' first
    | with_reducible first
        | assumption | apply keep_State_settleControls | apply keep_State_respond | apply h3 | apply memOk_ite
    | split

theorem keep_State_mbResult (x0 : State) (x1 x2 : ℕ) (x3 : List Byte) (h0 : MemOk x0) :
    MemOk (State.mbResult x0 x1 x2 x3) := by
  unfold State.mbResult
  with_reducible repeat' first
    | assumption | apply keep_State_updInst

theorem keep_State_endCommand (x0 : State) (x1 : Nat) (h0 : MemOk x0) :
    MemOk (State.endCommand x0 x1) := by
  unfold State.endCommand
  repeat' first
    | with_reducible first
        | assumption | intro _ | apply keep_State_updInst | apply keep_State_respond | apply keep_State_answerRowless | apply keep_State_settleControls
        | apply memOk_ite | apply memOk_foldl | apply memOk_mem | ((conv => arg 1; arg 25); rw [memOk_mk])
        | refine memOk_eq2 (by assumption) ?_ | refine memOk_eq1 (by assumption) ?_ | refine memOk_eq3 (by assumption) ?_
        | refine memOk_eqO (by assumption) ?_ | refine memOk_eqO2 (by assumption) ?_
        | apply memOk_ite2 | apply memOk_ite1 | apply memOk_ite3
    | dsimp only | split

theorem keep_execMailboxCommandEnd (x0 : ℕ) (x1 : State) (h1 : MemOk x1) :
    OutOk (execMailboxCommandEnd x0 x1) := by
  unfold execMailboxCommandEnd
  with_reducible repeat' first
    | assumption | apply keep_onUnit | apply keep_State_endCommand

theorem keep_State_releasePages (x0 : State) (x1 x2 x3 : ℕ) (h0 : MemOk x0) :
    MemOk (State.releasePages x0 x1 x2 x3) := by
  unfold State.releasePages
  with_reducible repeat' first
    | assumption | apply keep_State_scrub | apply keep_State_tlbInv | apply keep_State_updInst

theorem keep_execQuery (x0 : ℕ) (x1 : State) (h1 : MemOk x1) :
    OutOk (execQuery x0 x1) := by
  unfold execQuery
  with_reducible repeat' first
    | assumption | intro _ | apply keep_onUnit | apply keep_State_mbRun | apply keep_State_respond

theorem keep_execCreate (x0 : ℕ) (x1 : State) (h1 : MemOk x1) :
    OutOk (execCreate x0 x1) := by
  unfold execCreate
  repeat' first
    | with_reducible first
        | assumption | intro _ | apply keep_onUnit | apply keep_State_mbRun | apply keep_State_respond | apply keep_State_updInst
        | apply keep_State_tlbInv | apply keep_State_advanceEpoch | apply memOk_ite
    | dsimp only | split

theorem keep_execConfig (x0 : ℕ) (x1 : State) (h1 : MemOk x1) :
    OutOk (execConfig x0 x1) := by
  unfold execConfig
  repeat' first
    | with_reducible first
        | assumption | intro _ | apply keep_onUnit | apply keep_State_mbRun | apply keep_State_respond | apply keep_State_setInst
        | apply keep_State_tlbInv | apply memOk_ite
    | dsimp only | split

theorem keep_execGrant (x0 : ℕ) (x1 : State) (h1 : MemOk x1) :
    OutOk (execGrant x0 x1) := by
  unfold execGrant
  with_reducible repeat' first
    | assumption | intro _ | apply keep_onUnit | apply keep_State_mbRun | apply keep_State_respond | apply keep_State_updCore
    | apply keep_State_updCluster | apply keep_State_mbResult | apply memOk_ite | apply memOk_foldl

theorem keep_State_revokeClusters (x0 : State) (x1 : List ℕ) (h0 : MemOk x0) :
    MemOk (State.revokeClusters x0 x1) := by
  unfold State.revokeClusters
  with_reducible repeat' first
    | assumption | intro _ | apply keep_State_updCluster | apply keep_State_flushL2 | apply memOk_foldl

theorem keep_execRevoke (x0 : ℕ) (x1 : State) (h1 : MemOk x1) :
    OutOk (execRevoke x0 x1) := by
  unfold execRevoke
  with_reducible repeat' first
    | assumption | intro _ | apply keep_onUnit | apply keep_State_mbRun | apply keep_State_mbResult | apply keep_State_revokeClusters
    | apply keep_State_respond | apply memOk_ite

theorem keep_execPagesAssign (x0 : ℕ) (x1 : State) (h1 : MemOk x1) :
    OutOk (execPagesAssign x0 x1) := by
  unfold execPagesAssign
  with_reducible repeat' first
    | assumption | intro _ | apply keep_onUnit | apply keep_State_mbRun | apply keep_State_respond | apply keep_State_updInst | apply memOk_ite

theorem keep_execPagesRelease (x0 : ℕ) (x1 : State) (h1 : MemOk x1) :
    OutOk (execPagesRelease x0 x1) := by
  unfold execPagesRelease
  with_reducible repeat' first
    | assumption | intro _ | apply keep_onUnit | apply keep_State_mbRun | apply keep_State_respond | apply keep_State_mbResult
    | apply keep_State_releasePages | apply memOk_ite

theorem keep_execBind (x0 : ℕ) (x1 : State) (h1 : MemOk x1) :
    OutOk (execBind x0 x1) := by
  unfold execBind
  with_reducible repeat' first
    | assumption | intro _ | apply keep_onUnit | apply keep_State_mbRun | apply keep_State_respond | apply keep_State_updInst

theorem keep_execTlbinv (x0 : ℕ) (x1 : State) (h1 : MemOk x1) :
    OutOk (execTlbinv x0 x1) := by
  unfold execTlbinv
  with_reducible repeat' first
    | assumption | intro _ | apply keep_onUnit | apply keep_State_mbRun | apply keep_State_respond | apply keep_State_tlbInv

theorem keep_State_writeSet (x0 : State) (x1 : Nat) (h0 : MemOk x0) :
    MemOk (State.writeSet x0 x1) := by
  unfold State.writeSet
  repeat' first
    | with_reducible first
        | assumption | intro _ | apply keep_State_hbmWrite
        | apply memOk_ite | apply memOk_foldl | apply memOk_mem | ((conv => arg 1; arg 25); rw [memOk_mk])
    | dsimp only | split

theorem keep_State_writeSets (x0 : State) (h0 : MemOk x0) :
    MemOk (State.writeSets x0) := by
  unfold State.writeSets
  repeat' first
    | with_reducible first
        | assumption | intro _ | apply keep_State_writeSet
        | apply memOk_ite | apply memOk_foldl | apply memOk_mem | ((conv => arg 1; arg 25); rw [memOk_mk])
        | apply memOk_foldl2 | apply memOk_foldl3
    | dsimp only | split

theorem keep_execPrivateRange (x0 : Nat) (x1 : State) (h1 : MemOk x1) :
    OutOk (execPrivateRange x0 x1) := by
  unfold execPrivateRange
  repeat' first
    | with_reducible first
        | assumption | intro _ | apply keep_onUnit | apply keep_State_mbRun | apply keep_State_respond | apply keep_State_writeSets
        | apply memOk_ite | apply memOk_foldl | apply memOk_mem | ((conv => arg 1; arg 25); rw [memOk_mk])
        | apply outOk_next | apply outOk_onUnit | apply outOk_ite | apply outOk_fault
    | dsimp only | split

theorem keep_State_stopInstance (x0 : State) (x1 : Nat) (h0 : MemOk x0) :
    MemOk (State.stopInstance x0 x1) := by
  unfold State.stopInstance
  repeat' first
    | with_reducible first
        | assumption | intro _ | apply keep_State_dropWork | apply keep_State_removeLaunch | apply keep_State_updInst | apply keep_State_writeSets
        | apply memOk_ite | apply memOk_foldl | apply memOk_mem | ((conv => arg 1; arg 25); rw [memOk_mk])
        | apply memOk_foldl2 | apply memOk_foldl3
    | dsimp only | split

theorem keep_State_clearStore (x0 : State) (x1 : Nat) (x2 : Bool) (h0 : MemOk x0) :
    MemOk (State.clearStore x0 x1 x2) := by
  unfold State.clearStore
  repeat' first
    | with_reducible first
        | assumption | intro _ | apply keep_State_giveNode | apply keep_State_updInst | apply keep_State_writeSets | apply keep_State_advanceEpoch
        | apply memOk_ite | apply memOk_foldl | apply memOk_mem | ((conv => arg 1; arg 25); rw [memOk_mk])
        | apply memOk_foldl2 | apply memOk_foldl3
    | dsimp only | split

theorem keep_State_finishReset (x0 : State) (x1 : ℕ) (h0 : MemOk x0) :
    MemOk (State.finishReset x0 x1) := by
  unfold State.finishReset
  repeat' first
    | with_reducible first
        | assumption | intro _ | apply keep_State_updInst | apply keep_State_clearStore | apply keep_State_releasePages
        | apply keep_State_revokeClusters | apply keep_State_tlbInv | apply keep_State_mbResult | apply keep_State_event
        | apply keep_State_answerRowless | apply keep_State_respond | apply keep_State_eventTo | apply memOk_ite | apply memOk_foldl
    | dsimp only | split

theorem keep_State_beginReset (x0 : State) (x1 x2 : ℕ) (x3 : Bool) (h0 : MemOk x0) :
    MemOk (State.beginReset x0 x1 x2 x3) := by
  unfold State.beginReset
  with_reducible repeat' first
    | assumption | apply keep_State_updInst | apply keep_State_settleControls | apply keep_State_stopInstance | apply keep_State_finishReset
    | apply memOk_ite

theorem keep_execReset (x0 : ℕ) (x1 : State) (h1 : MemOk x1) :
    OutOk (execReset x0 x1) := by
  unfold execReset
  with_reducible repeat' first
    | assumption | intro _ | apply keep_onUnit | apply keep_State_mbRun | apply keep_State_beginReset

theorem keep_execRemove (x0 : ℕ) (x1 : State) (h1 : MemOk x1) :
    OutOk (execRemove x0 x1) := by
  unfold execRemove
  with_reducible repeat' first
    | assumption | intro _ | apply keep_onUnit | apply keep_State_mbRun | apply keep_State_beginReset

theorem keep_execGenerationHoldExpiry (x0 : ℕ) (x1 : State) (h1 : MemOk x1) :
    OutOk (execGenerationHoldExpiry x0 x1) := by
  unfold execGenerationHoldExpiry
  with_reducible repeat' first
    | assumption | apply keep_onUnit | apply keep_State_settleControls | apply keep_State_finishReset | apply memOk_ite

theorem keep_State_requeueLaunch (x0 : State) (x1 : Launch) (h0 : MemOk x0) :
    MemOk (State.requeueLaunch x0 x1) := by
  unfold State.requeueLaunch
  with_reducible repeat' first
    | assumption | intro _ | apply keep_State_stopTask | apply memOk_foldl

theorem keep_execPreempt (x0 : ℕ) (x1 : State) (h1 : MemOk x1) :
    OutOk (execPreempt x0 x1) := by
  unfold execPreempt
  with_reducible repeat' first
    | assumption | intro _ | apply keep_onUnit | apply keep_State_mbRun | apply keep_State_respond | apply keep_State_updInst
    | apply keep_State_requeueLaunch | apply keep_State_updLaunch | apply keep_State_control | apply keep_State_settleControls | apply memOk_ite
    | apply memOk_foldl

theorem keep_execResume (x0 : ℕ) (x1 : State) (h1 : MemOk x1) :
    OutOk (execResume x0 x1) := by
  unfold execResume
  with_reducible repeat' first
    | assumption | intro _ | apply keep_onUnit | apply keep_State_mbRun | apply keep_State_respond | apply keep_State_updInst
    | apply keep_State_restoreLaunch | apply memOk_ite | apply memOk_foldl

theorem keep_execSecq (x0 : ℕ) (x1 : State) (h1 : MemOk x1) :
    OutOk (execSecq x0 x1) := by
  unfold execSecq
  with_reducible repeat' first
    | assumption | intro _ | apply keep_onUnit | apply keep_State_mbRun | apply keep_State_respond

theorem keep_State_evidence (x0 : State) (x1 : ℕ) (x2 : List Byte) (h0 : MemOk x0) :
    MemOk (State.evidence x0 x1 x2).2.2 := by
  unfold State.evidence
  repeat' first
    | with_reducible first
        | assumption | apply keep_State_sign | apply memOk_ite3 | refine memOk_eq2 (by assumption) ?_
    | split

theorem keep_execEvidence (x0 : ℕ) (x1 : State) (h1 : MemOk x1) :
    OutOk (execEvidence x0 x1) := by
  unfold execEvidence
  with_reducible repeat' first
    | assumption | intro _ | apply keep_onUnit | apply keep_State_mbRun | apply keep_State_evidence | apply keep_State_respond

theorem keep_execEnroll (x0 : ℕ) (x1 : State) (h1 : MemOk x1) :
    OutOk (execEnroll x0 x1) := by
  unfold execEnroll
  repeat' first
    | with_reducible first
        | assumption | intro _ | apply keep_onUnit | apply keep_State_mbRun | apply keep_State_respond | apply keep_State_draw256 | apply memOk_ite
        | apply memOk_mem | ((conv => arg 1; arg 25); rw [memOk_mk])
    | dsimp only

theorem keep_execKeygenDone (x0 : ℕ) (x1 : State) (h1 : MemOk x1) :
    OutOk (execKeygenDone x0 x1) := by
  unfold execKeygenDone
  repeat' first
    | with_reducible first
        | assumption | apply keep_onUnit | apply keep_State_respond | apply memOk_ite | apply memOk_mem | ((conv => arg 1; arg 25); rw [memOk_mk])
    | dsimp only | split

theorem keep_execCertw (x0 : ℕ) (x1 : State) (h1 : MemOk x1) :
    OutOk (execCertw x0 x1) := by
  unfold execCertw
  with_reducible repeat' first
    | assumption | intro _ | apply keep_onUnit | apply keep_State_mbRun | apply keep_State_mbResult | apply memOk_mem
    | ((conv => arg 1; arg 25); rw [memOk_mk])

theorem keep_execCertr (x0 : ℕ) (x1 : State) (h1 : MemOk x1) :
    OutOk (execCertr x0 x1) := by
  unfold execCertr
  with_reducible repeat' first
    | assumption | intro _ | apply keep_onUnit | apply keep_State_mbRun | apply keep_State_respond

theorem keep_execLicadd (x0 : ℕ) (x1 : State) (h1 : MemOk x1) :
    OutOk (execLicadd x0 x1) := by
  unfold execLicadd
  repeat' first
    | with_reducible first
        | assumption | intro _ | apply keep_onUnit | apply keep_State_mbRun | apply keep_State_respond | apply keep_State_measureLicences
        | apply memOk_ite | apply memOk_mem | ((conv => arg 1; arg 25); rw [memOk_mk])
    | dsimp only | split

theorem keep_execLicdel (x0 : ℕ) (x1 : State) (h1 : MemOk x1) :
    OutOk (execLicdel x0 x1) := by
  unfold execLicdel
  with_reducible repeat' first
    | assumption | intro _ | apply keep_onUnit | apply keep_State_mbRun | apply keep_State_respond | apply keep_State_measureLicences | apply memOk_mem
    | ((conv => arg 1; arg 25); rw [memOk_mk])

theorem keep_execNonce (x0 : ℕ) (x1 : State) (h1 : MemOk x1) :
    OutOk (execNonce x0 x1) := by
  unfold execNonce
  with_reducible repeat' first
    | assumption | intro _ | apply keep_onUnit | apply keep_State_mbRun | apply keep_State_drawBytes | apply keep_State_respond | apply memOk_mem
    | ((conv => arg 1; arg 25); rw [memOk_mk])

theorem keep_State_lcs (x0 : State) (x1 : Nat) (x2 : Nat) (x3 : Nat) (x4 : State → State) (h0 : MemOk x0) (h4 : ∀ s, MemOk s → MemOk (x4 s)) :
    MemOk (State.lcs x0 x1 x2 x3 x4) := by
  unfold State.lcs
  repeat' first
    | with_reducible first
        | assumption | intro _ | apply h4 | apply keep_State_mbRun | apply keep_State_take | apply keep_State_respond
        | apply memOk_ite | apply memOk_foldl | apply memOk_mem | ((conv => arg 1; arg 25); rw [memOk_mk])
    | dsimp only | split

theorem keep_execLcsDeployed (x0 : Nat) (x1 : State) (h1 : MemOk x1) :
    OutOk (execLcsDeployed x0 x1) := by
  unfold execLcsDeployed
  repeat' first
    | with_reducible first
        | assumption | intro _ | apply keep_onUnit | apply keep_State_lcs
        | apply memOk_ite | apply memOk_foldl | apply memOk_mem | ((conv => arg 1; arg 25); rw [memOk_mk])
        | apply outOk_next | apply outOk_onUnit | apply outOk_ite | apply outOk_fault
    | dsimp only | split

theorem keep_execLcsDebug (x0 : Nat) (x1 : State) (h1 : MemOk x1) :
    OutOk (execLcsDebug x0 x1) := by
  unfold execLcsDebug
  repeat' first
    | with_reducible first
        | assumption | intro _ | apply keep_onUnit | apply keep_State_lcs | apply keep_State_eraseStore
        | apply memOk_ite | apply memOk_foldl | apply memOk_mem | ((conv => arg 1; arg 25); rw [memOk_mk])
        | apply outOk_next | apply outOk_onUnit | apply outOk_ite | apply outOk_fault
    | dsimp only | split

theorem keep_execLcsReturn (x0 : Nat) (x1 : State) (h1 : MemOk x1) :
    OutOk (execLcsReturn x0 x1) := by
  unfold execLcsReturn
  repeat' first
    | with_reducible first
        | assumption | intro _ | apply keep_onUnit | apply keep_State_lcs | apply keep_State_eraseStore
        | apply memOk_ite | apply memOk_foldl | apply memOk_mem | ((conv => arg 1; arg 25); rw [memOk_mk])
        | apply outOk_next | apply outOk_onUnit | apply outOk_ite | apply outOk_fault
    | dsimp only | split

theorem keep_execLcsRetired (x0 : Nat) (x1 : State) (h1 : MemOk x1) :
    OutOk (execLcsRetired x0 x1) := by
  unfold execLcsRetired
  repeat' first
    | with_reducible first
        | assumption | intro _ | apply keep_onUnit | apply keep_State_lcs | apply keep_State_eraseStore
        | apply memOk_ite | apply memOk_foldl | apply memOk_mem | ((conv => arg 1; arg 25); rw [memOk_mk])
        | apply outOk_next | apply outOk_onUnit | apply outOk_ite | apply outOk_fault
    | dsimp only | split

theorem keep_State_detect (x0 : State) (x1 : ℕ) (x2 : Bool) (h0 : MemOk x0) :
    MemOk (State.detect x0 x1 x2) := by
  unfold State.detect
  with_reducible repeat' first
    | assumption | apply keep_State_applyLevel | apply keep_State_tamper | apply memOk_mem | ((conv => arg 1; arg 25); rw [memOk_mk])

theorem keep_execGaleDetection (x0 : ℕ) (x1 : Bool) (x2 : State) (h2 : MemOk x2) :
    OutOk (execGaleDetection x0 x1 x2) := by
  unfold execGaleDetection
  with_reducible repeat' first
    | assumption | apply keep_State_detect | apply memOk_ite | apply outOk_next

theorem keep_execGaleSourceCleared (x0 : ℕ) (x1 : State) (h1 : MemOk x1) :
    OutOk (execGaleSourceCleared x0 x1) := by
  unfold execGaleSourceCleared
  with_reducible repeat' first
    | assumption | apply memOk_ite | apply memOk_mem | apply outOk_next | ((conv => arg 1; arg 25); rw [memOk_mk])

theorem keep_execFirmwareIntegrityCheck (x0 : List (BitVec 8)) (x1 : State) (h1 : MemOk x1) :
    OutOk (execFirmwareIntegrityCheck x0 x1) := by
  unfold execFirmwareIntegrityCheck
  with_reducible repeat' first
    | assumption | apply keep_State_detect | apply memOk_ite | apply outOk_next

theorem keep_execGclr (x0 : ℕ) (x1 : State) (h1 : MemOk x1) :
    OutOk (execGclr x0 x1) := by
  unfold execGclr
  with_reducible repeat' first
    | assumption | intro _ | apply keep_onUnit | apply keep_State_mbRun | apply keep_State_respond | apply keep_State_withAlert | apply memOk_ite
    | apply memOk_mem | ((conv => arg 1; arg 25); rw [memOk_mk])

end Sys2Proof.Machine
end

