-- ==== Sys2Proof/Laws/KeepPower.lean ====
section
/-! SUPPORT. Memory keeps its canonical form through the operations and commands of power, temperature, the start sequence and the board. -/

namespace Sys2Proof.Machine
open Sys2Proof

theorem keep_State_setChoice (x0 : State) (x1 x2 : ℕ) (h0 : MemOk x0) :
    MemOk (State.setChoice x0 x1 x2) := by
  unfold State.setChoice
  with_reducible repeat' first
    | assumption | apply keep_State_updSectorClk

theorem keep_State_lowerOne (x0 : State) (x1 : Figures) (x2 : ℕ) (h0 : MemOk x0) :
    OptOk (State.lowerOne x0 x1 x2) := by
  unfold State.lowerOne
  with_reducible repeat' first
    | assumption | intro _ | apply keep_State_setChoice | apply optOk_map

theorem keep_State_lowerAll : ∀ (x0 : ℕ) (x1 : State) (x2 : Figures), (MemOk (x1)) → MemOk (State.lowerAll x0 x1 x2) := by
  intro x0
  induction x0 with
  | zero  =>
    intro x1 x2 h1
    unfold State.lowerAll
    with_reducible repeat' first
      | assumption | apply keep_State_lowerOne | apply memOk_ite | apply memOk_ite2 | refine memOk_eqO2 (by assumption) ?_
  | succ n ih =>
    intro x1 x2 h1
    unfold State.lowerAll
    repeat' first
      | with_reducible first
          | assumption | apply ih | apply keep_State_lowerOne | apply memOk_ite | refine memOk_eqO (by assumption) ?_
      | split


theorem keep_State_raiseOne (x0 : State) (h0 : MemOk x0) :
    OptOk (State.raiseOne x0) := by
  unfold State.raiseOne
  with_reducible repeat' first
    | assumption | intro _ | apply keep_State_setChoice | apply optOk_map

theorem keep_State_raiseAll : ∀ (x0 : ℕ) (x1 : State) (x2 : Figures), (MemOk (x1)) → MemOk (State.raiseAll x0 x1 x2).1 := by
  intro x0
  induction x0 with
  | zero  =>
    intro x1 x2 h1
    unfold State.raiseAll
    with_reducible repeat' first
      | assumption | apply keep_State_raiseOne | apply memOk_ite | apply memOk_ite2S | refine memOk_eqO2 (by assumption) ?_
  | succ n ih =>
    intro x1 x2 h1
    unfold State.raiseAll
    repeat' first
      | with_reducible first
          | assumption | apply ih | apply keep_State_raiseOne | apply memOk_ite1 | refine memOk_eqO (by assumption) ?_
      | split


theorem keep_State_orderClocks (x0 : State) (h0 : MemOk x0) :
    MemOk (State.orderClocks x0) := by
  unfold State.orderClocks
  with_reducible repeat' first
    | assumption | intro _ | apply keep_State_reclock | apply memOk_ite | apply memOk_foldl

theorem keep_execFoehnUpdate (x0 : Sense) (x1 : Nat) (x2 : List Nat) (x3 : State) (h3 : MemOk x3) :
    OutOk (execFoehnUpdate x0 x1 x2 x3) := by
  unfold execFoehnUpdate
  repeat' first
    | with_reducible first
        | assumption | intro _ | apply keep_State_setChoice | apply keep_State_event | apply keep_State_orderClocks | apply keep_State_lowerAll
        | apply keep_State_raiseAll
        | apply memOk_ite | apply memOk_foldl | apply memOk_mem | ((conv => arg 1; arg 25); rw [memOk_mk])
        | apply outOk_next | apply outOk_onUnit | apply outOk_ite | apply outOk_fault
        | refine memOk_eq2 (by assumption) ?_ | refine memOk_eq1 (by assumption) ?_ | refine memOk_eq3 (by assumption) ?_
        | refine memOk_eqO (by assumption) ?_ | refine memOk_eqO2 (by assumption) ?_
        | apply memOk_ite2 | apply memOk_ite1 | apply memOk_ite3
        | apply memOk_foldl2 | apply memOk_foldl3
    | dsimp only | split

theorem keep_execCorrectionFactor (x0 x1 : ℕ) (x2 : State) (h2 : MemOk x2) :
    OutOk (execCorrectionFactor x0 x1 x2) := by
  unfold execCorrectionFactor
  repeat' first
    | with_reducible first
        | assumption | apply keep_State_draw | apply memOk_ite | apply memOk_ite2 | apply memOk_mem | apply outOk_next
        | ((conv => arg 1; arg 25); rw [memOk_mk])
    | dsimp only

theorem keep_execDiverged (x0 : State) (h0 : MemOk x0) :
    OutOk (execDiverged x0) := by
  unfold execDiverged
  with_reducible repeat' first
    | assumption | apply keep_State_orderClocks | apply keep_State_event | apply memOk_ite | apply memOk_mem | apply outOk_next
    | ((conv => arg 1; arg 25); rw [memOk_mk])

theorem keep_execFloorHoldRelease (x0 : State) (h0 : MemOk x0) :
    OutOk (execFloorHoldRelease x0) := by
  unfold execFloorHoldRelease
  with_reducible repeat' first
    | assumption | apply keep_State_orderClocks | apply keep_State_event | apply memOk_ite | apply memOk_mem | apply outOk_next
    | ((conv => arg 1; arg 25); rw [memOk_mk])

theorem keep_execUnattainableClear (x0 : State) (h0 : MemOk x0) :
    OutOk (execUnattainableClear x0) := by
  unfold execUnattainableClear
  repeat' first
    | with_reducible first
        | assumption | apply memOk_ite | apply memOk_mem | apply outOk_next | ((conv => arg 1; arg 25); rw [memOk_mk])
    | dsimp only | split

theorem keep_execPeakExceeded (x0 : ℕ) (x1 : State) (h1 : MemOk x1) :
    OutOk (execPeakExceeded x0 x1) := by
  unfold execPeakExceeded
  repeat' first
    | with_reducible first
        | assumption | apply keep_State_lowerOne | apply keep_State_orderClocks | apply keep_State_lowerAll | apply memOk_ite | apply memOk_mem
        | apply outOk_next | refine memOk_eqO (by assumption) ?_ | ((conv => arg 1; arg 25); rw [memOk_mk])
    | dsimp only | split

theorem keep_execClockChange (x0 : ℕ) (x1 : State) (h1 : MemOk x1) :
    OutOk (execClockChange x0 x1) := by
  unfold execClockChange
  with_reducible repeat' first
    | assumption | apply keep_onUnit | apply keep_State_applyClock | apply memOk_ite

theorem keep_State_writeGate (x0 : State) (x1 : ℕ) (x2 : Bool) (h0 : MemOk x0) :
    MemOk (State.writeGate x0 x1 x2) := by
  unfold State.writeGate
  with_reducible repeat' first
    | assumption | apply keep_State_settleControls | apply keep_State_control | apply memOk_ite

theorem keep_State_writeSector (x0 : State) (x1 x2 : ℕ) (h0 : MemOk x0) :
    MemOk (State.writeSector x0 x1 x2) := by
  unfold State.writeSector
  with_reducible repeat' first
    | assumption | apply keep_State_orderClocks | apply keep_State_writeGate | apply keep_State_updSectorClk | apply memOk_ite

theorem keep_execSectorGate (x0 x1 : ℕ) (x2 : BitVec 32) (x3 : State) (h3 : MemOk x3) :
    OutOk (execSectorGate x0 x1 x2 x3) := by
  unfold execSectorGate
  with_reducible repeat' first
    | assumption | apply keep_onUnit | apply keep_State_writeSector | apply memOk_ite

theorem keep_execSectorUngate (x0 x1 : ℕ) (x2 : BitVec 32) (x3 : State) (h3 : MemOk x3) :
    OutOk (execSectorUngate x0 x1 x2 x3) := by
  unfold execSectorUngate
  with_reducible repeat' first
    | assumption | apply keep_onUnit | apply keep_State_writeSector | apply memOk_ite

theorem keep_execFoehnClr (x0 : ℕ) (x1 : BitVec 32) (x2 : State) (h2 : MemOk x2) :
    OutOk (execFoehnClr x0 x1 x2) := by
  unfold execFoehnClr
  repeat' first
    | with_reducible first
        | assumption | intro _ | apply keep_State_updSectorClk | apply memOk_ite | apply memOk_mem | apply memOk_foldl | apply outOk_next
        | ((conv => arg 1; arg 25); rw [memOk_mk])
    | dsimp only

theorem keep_execDroop (x0 : Rail) (x1 : State) (h1 : MemOk x1) :
    OutOk (execDroop x0 x1) := by
  unfold execDroop
  repeat' first
    | with_reducible first
        | assumption | intro _ | apply keep_onUnit | apply keep_State_setSectorClk | apply keep_State_updSectorClk | apply keep_State_event
        | apply memOk_ite | apply memOk_foldl | apply memOk_mem | ((conv => arg 1; arg 25); rw [memOk_mk])
        | apply outOk_next | apply outOk_onUnit | apply outOk_ite | apply outOk_fault
        | refine memOk_eq2 (by assumption) ?_ | refine memOk_eq1 (by assumption) ?_ | refine memOk_eq3 (by assumption) ?_
        | refine memOk_eqO (by assumption) ?_ | refine memOk_eqO2 (by assumption) ?_
        | apply memOk_ite2 | apply memOk_ite1 | apply memOk_ite3
    | dsimp only | split

theorem keep_execDroopStretchEnd (x0 : ℕ) (x1 : State) (h1 : MemOk x1) :
    OutOk (execDroopStretchEnd x0 x1) := by
  unfold execDroopStretchEnd
  with_reducible repeat' first
    | assumption | apply keep_onUnit | apply keep_State_updSectorClk

theorem keep_State_sampleSector (x0 : State) (x1 : ℕ) (x2 : ℤ) (h0 : MemOk x0) :
    MemOk (State.sampleSector x0 x1 x2) := by
  unfold State.sampleSector
  with_reducible repeat' first
    | assumption | apply keep_State_setSectorClk | apply keep_State_abortTest | apply keep_State_settleClock | apply memOk_ite

theorem keep_State_trip (x0 : State) (x1 : ℕ) (x2 : BitVec 16) (h0 : MemOk x0) :
    MemOk (State.trip x0 x1 x2) := by
  unfold State.trip
  with_reducible repeat' first
    | assumption | apply keep_State_losePower | apply keep_State_send | apply memOk_ite | apply memOk_mem | ((conv => arg 1; arg 25); rw [memOk_mk])

theorem keep_execThermalSample (x0 : ℕ) (x1 : BitVec 16) (x2 : State) (h2 : MemOk x2) :
    OutOk (execThermalSample x0 x1 x2) := by
  unfold execThermalSample
  with_reducible repeat' first
    | assumption | intro _ | apply keep_onUnit | apply keep_State_setSensor | apply keep_State_trip | apply keep_State_sampleSector
    | apply keep_State_event | apply memOk_ite | apply memOk_foldl

theorem keep_execSquall (x0 : ℕ) (x1 : BitVec 16) (x2 : State) (h2 : MemOk x2) :
    OutOk (execSquall x0 x1 x2) := by
  unfold execSquall
  with_reducible repeat' first
    | assumption | apply keep_onUnit | apply keep_State_trip | apply memOk_ite

theorem keep_execPreTripExit (x0 : ℕ) (x1 : State) (h1 : MemOk x1) :
    OutOk (execPreTripExit x0 x1) := by
  unfold execPreTripExit
  repeat' first
    | with_reducible first
        | assumption | apply keep_onUnit | apply keep_State_settleClock | apply keep_State_setSectorClk | apply memOk_ite
    | dsimp only | split

theorem keep_execSensorFailed (x0 : ℕ) (x1 : State) (h1 : MemOk x1) :
    OutOk (execSensorFailed x0 x1) := by
  unfold execSensorFailed
  with_reducible repeat' first
    | assumption | intro _ | apply keep_onUnit | apply keep_State_setSensor | apply keep_State_event | apply keep_State_settleClock | apply memOk_ite
    | apply memOk_foldl

theorem keep_execThermClr (x0 : ℕ) (x1 : BitVec 32) (x2 : State) (h2 : MemOk x2) :
    OutOk (execThermClr x0 x1 x2) := by
  unfold execThermClr
  with_reducible repeat' first
    | assumption | intro _ | apply keep_State_setSensor | apply memOk_ite | apply memOk_foldl | apply outOk_next

theorem keep_State_failStart (x0 : State) (x1 x2 : ℕ) (h0 : MemOk x0) :
    MemOk (State.failStart x0 x1 x2) := by
  unfold State.failStart
  repeat' first
    | with_reducible first
        | assumption | apply keep_State_startLost | apply memOk_mem | ((conv => arg 1; arg 25); rw [memOk_mk])
    | dsimp only

theorem keep_State_warmReset (x0 : State) (x1 : Bool) (x2 : StartInputs) (h0 : MemOk x0) :
    MemOk (State.warmReset x0 x1 x2) := by
  unfold State.warmReset
  repeat' first
    | with_reducible first
        | assumption | intro _ | apply keep_State_startLost | apply keep_State_wipe | apply keep_State_withAlert | apply keep_State_beginStart
        | apply memOk_ite | apply memOk_foldl | apply memOk_mem | ((conv => arg 1; arg 25); rw [memOk_mk])
    | dsimp only | split

theorem keep_execColdStart (x0 : StartInputs) (x1 : State) (h1 : MemOk x1) :
    OutOk (execColdStart x0 x1) := by
  unfold execColdStart
  repeat' first
    | with_reducible first
        | assumption | intro _ | apply keep_State_withAlert | apply keep_State_beginStart
        | apply memOk_ite | apply memOk_foldl | apply memOk_mem | ((conv => arg 1; arg 25); rw [memOk_mk])
        | apply outOk_next | apply outOk_onUnit | apply outOk_ite | apply outOk_fault
    | dsimp only | split

theorem keep_execWarmReset (x0 : Bool) (x1 : StartInputs) (x2 : State) (h2 : MemOk x2) :
    OutOk (execWarmReset x0 x1 x2) := by
  unfold execWarmReset
  repeat' first
    | with_reducible first
        | assumption | intro _ | apply keep_State_warmReset
        | apply memOk_ite | apply memOk_foldl | apply memOk_mem | ((conv => arg 1; arg 25); rw [memOk_mk])
        | apply outOk_next | apply outOk_onUnit | apply outOk_ite | apply outOk_fault
    | dsimp only | split

theorem keep_execResetPinRelease (x0 : StartInputs) (x1 : State) (h1 : MemOk x1) :
    OutOk (execResetPinRelease x0 x1) := by
  unfold execResetPinRelease
  repeat' first
    | with_reducible first
        | assumption | intro _ | apply keep_State_withAlert | apply keep_State_beginStart
        | apply memOk_ite | apply memOk_foldl | apply memOk_mem | ((conv => arg 1; arg 25); rw [memOk_mk])
        | apply outOk_next | apply outOk_onUnit | apply outOk_ite | apply outOk_fault
    | dsimp only | split

theorem keep_State_enterRecovery (x0 : State) (x1 : ℕ) (h0 : MemOk x0) :
    MemOk (State.enterRecovery x0 x1) := by
  unfold State.enterRecovery
  with_reducible repeat' first
    | assumption | apply memOk_mem | ((conv => arg 1; arg 25); rw [memOk_mk])

theorem keep_State_loadActive (x0 : State) (h0 : MemOk x0) :
    MemOk (State.loadActive x0) := by
  unfold State.loadActive
  with_reducible repeat' first
    | assumption | apply keep_State_measure | apply memOk_mem | ((conv => arg 1; arg 25); rw [memOk_mk])

theorem keep_State_step1 (x0 : State) (h0 : MemOk x0) :
    MemOk (State.step1 x0) := by
  unfold State.step1
  with_reducible repeat' first
    | assumption | apply keep_State_measurePers | apply keep_State_measureLicences | apply keep_State_measureCal | apply keep_State_measure
    | apply keep_State_loadActive | apply keep_State_enterRecovery | apply memOk_ite | apply memOk_mem | ((conv => arg 1; arg 25); rw [memOk_mk])

theorem keep_State_step2 (x0 : State) (h0 : MemOk x0) :
    MemOk (State.step2 x0) := by
  unfold State.step2
  with_reducible repeat' first
    | assumption | apply keep_State_startLost | apply memOk_ite | apply memOk_mem | ((conv => arg 1; arg 25); rw [memOk_mk])

theorem keep_State_install (x0 : State) (x1 : Bool) (h0 : MemOk x0) :
    MemOk (State.install x0 x1) := by
  unfold State.install
  repeat' first
    | with_reducible first
        | assumption | intro _ | apply keep_State_stagedReason | apply keep_State_draw | apply keep_State_drawBytes | apply keep_State_loadActive
        | apply keep_State_enterRecovery | apply keep_State_startLost
        | apply memOk_ite | apply memOk_foldl | apply memOk_mem | ((conv => arg 1; arg 25); rw [memOk_mk])
        | refine memOk_eq2 (by assumption) ?_ | refine memOk_eq1 (by assumption) ?_ | refine memOk_eq3 (by assumption) ?_
        | refine memOk_eqO (by assumption) ?_ | refine memOk_eqO2 (by assumption) ?_
        | apply memOk_ite2 | apply memOk_ite1 | apply memOk_ite3
    | dsimp only | split

theorem keep_State_loadPers (x0 : State) (h0 : MemOk x0) :
    MemOk (State.loadPers x0) := by
  unfold State.loadPers
  repeat' first
    | with_reducible first
        | assumption | apply memOk_mem | ((conv => arg 1; arg 25); rw [memOk_mk])
    | dsimp only

theorem keep_State_applyCal (x0 : State) (h0 : MemOk x0) :
    MemOk (State.applyCal x0) := by
  unfold State.applyCal
  with_reducible repeat' first
    | assumption | apply keep_State_eventLater | apply keep_State_settleClocks | apply memOk_ite | apply memOk_mem
    | ((conv => arg 1; arg 25); rw [memOk_mk])

theorem keep_State_step3 (x0 : State) (x1 : StepReport) (h0 : MemOk x0) :
    MemOk (State.step3 x0 x1) := by
  unfold State.step3
  with_reducible repeat' first
    | assumption | apply keep_State_failStart | apply keep_State_applyCal | apply keep_State_loadPers | apply memOk_ite | apply memOk_mem
    | ((conv => arg 1; arg 25); rw [memOk_mk])

theorem keep_State_bundleFails (x0 : State) (x1 : ℕ) (x2 : BitVec 32) (h0 : MemOk x0) :
    MemOk (State.bundleFails x0 x1 x2) := by
  unfold State.bundleFails
  with_reducible repeat' first
    | assumption | apply keep_State_unitRecord | apply keep_State_updBundle

theorem keep_State_trainBundle (x0 : State) (x1 : StepReport) (x2 : ℕ) (h0 : MemOk x0) :
    MemOk (State.trainBundle x0 x1 x2) := by
  unfold State.trainBundle
  repeat' first
    | with_reducible first
        | assumption | apply keep_State_updBundle | apply keep_State_bundleFails
    | split

theorem keep_State_edgeRate (x0 : State) (x1 : ℕ) (h0 : MemOk x0) :
    MemOk (State.edgeRate x0 x1) := by
  unfold State.edgeRate
  repeat' first
    | with_reducible first
        | assumption | intro _ | apply keep_State_updBundle | apply memOk_foldl
    | split

theorem keep_State_trainAfresh (x0 : State) (h0 : MemOk x0) :
    MemOk (State.trainAfresh x0) := by
  unfold State.trainAfresh
  repeat' first
    | with_reducible first
        | assumption | intro _
        | apply memOk_ite | apply memOk_foldl | apply memOk_mem | ((conv => arg 1; arg 25); rw [memOk_mk])
        | apply memOk_foldl2 | apply memOk_foldl3
    | dsimp only | split

theorem keep_State_setHbm (x0 : State) (x1 : StepReport) (x2 : Bool) (h0 : MemOk x0) :
    MemOk (State.setHbm x0 x1 x2) := by
  unfold State.setHbm
  repeat' first
    | with_reducible first
        | assumption | intro _ | apply keep_State_trainAfresh
        | apply memOk_ite | apply memOk_foldl | apply memOk_mem | ((conv => arg 1; arg 25); rw [memOk_mk])
    | dsimp only | split

theorem keep_State_trainHbm (x0 : State) (x1 : StepReport) (x2 : Bool) (h0 : MemOk x0) :
    MemOk (State.trainHbm x0 x1 x2) := by
  unfold State.trainHbm
  repeat' first
    | with_reducible first
        | assumption | intro _ | apply keep_State_setHbm | apply keep_State_updPch | apply keep_State_fencePch | apply keep_State_fenceStack
        | apply memOk_ite | apply memOk_foldl | apply memOk_mem | ((conv => arg 1; arg 25); rw [memOk_mk])
        | refine memOk_eq2 (by assumption) ?_ | refine memOk_eq1 (by assumption) ?_ | refine memOk_eq3 (by assumption) ?_
        | refine memOk_eqO (by assumption) ?_ | refine memOk_eqO2 (by assumption) ?_
        | apply memOk_ite2 | apply memOk_ite1 | apply memOk_ite3
        | apply memOk_foldl2 | apply memOk_foldl3
    | dsimp only | split

theorem keep_State_startLinks (x0 : State) (h0 : MemOk x0) :
    MemOk (State.startLinks x0) := by
  unfold State.startLinks
  with_reducible repeat' first
    | assumption | intro _ | apply keep_State_updLink | apply memOk_foldl

theorem keep_State_trainBridge (x0 : State) (x1 : StepReport) (x2 : Nat) (h0 : MemOk x0) :
    MemOk (State.trainBridge x0 x1 x2) := by
  unfold State.trainBridge
  repeat' first
    | with_reducible first
        | assumption | intro _ | apply keep_State_updBundle | apply keep_State_fenceBridge
        | apply memOk_ite | apply memOk_foldl | apply memOk_mem | ((conv => arg 1; arg 25); rw [memOk_mk])
        | apply memOk_foldl2 | apply memOk_foldl3
    | dsimp only | split

theorem keep_State_step4 (x0 : State) (x1 : StepReport) (x2 : Bool) (h0 : MemOk x0) :
    MemOk (State.step4 x0 x1 x2) := by
  unfold State.step4
  repeat' first
    | with_reducible first
        | assumption | intro _ | apply keep_State_trainBundle | apply keep_State_edgeRate | apply keep_State_trainBridge | apply keep_State_failStart
        | apply keep_State_trainHbm | apply keep_State_startLinks
        | apply memOk_ite | apply memOk_foldl | apply memOk_mem | ((conv => arg 1; arg 25); rw [memOk_mk])
        | apply memOk_foldl2 | apply memOk_foldl3
    | dsimp only | split

theorem keep_State_step5 (x0 : State) (x1 : StepReport) (h0 : MemOk x0) :
    MemOk (State.step5 x0 x1) := by
  unfold State.step5
  repeat' first
    | with_reducible first
        | assumption | apply keep_State_failStart | apply keep_State_measure | apply memOk_ite | apply memOk_mem
        | ((conv => arg 1; arg 25); rw [memOk_mk])
    | dsimp only

theorem keep_State_setClusterMap (x0 : State) (x1 x2 : ℕ) (x3 : ℕ × List ℕ) (h0 : MemOk x0) :
    MemOk (State.setClusterMap x0 x1 x2 x3) := by
  unfold State.setClusterMap
  with_reducible repeat' first
    | assumption | intro _ | apply keep_State_markFenced | apply memOk_ite | apply memOk_mem | apply memOk_foldl
    | ((conv => arg 1; arg 25); rw [memOk_mk])

theorem keep_State_runCluster (x0 : State) (x1 : List (BitVec 32)) (x2 : ℕ) (h0 : MemOk x0) :
    MemOk (State.runCluster x0 x1 x2) := by
  unfold State.runCluster
  repeat' first
    | with_reducible first
        | assumption | apply keep_State_setClusterMap
    | dsimp only | split

theorem keep_State_failFabric (x0 : State) (x1 : BitVec 32) (h0 : MemOk x0) :
    MemOk (State.failFabric x0 x1) := by
  unfold State.failFabric
  repeat' first
    | with_reducible first
        | assumption | apply keep_State_fenceCluster | apply keep_State_fenceSlice | apply keep_State_fencePch | apply memOk_ite | apply memOk_mem
        | ((conv => arg 1; arg 25); rw [memOk_mk])
    | dsimp only | split

theorem keep_State_step6 (x0 : State) (x1 : StepReport) (h0 : MemOk x0) :
    MemOk (State.step6 x0 x1) := by
  unfold State.step6
  with_reducible repeat' first
    | assumption | intro _ | apply keep_State_runCluster | apply keep_State_failFabric | apply keep_State_failStart | apply memOk_ite | apply memOk_mem
    | apply memOk_foldl | ((conv => arg 1; arg 25); rw [memOk_mk])

theorem keep_State_step7 (x0 : State) (h0 : MemOk x0) :
    MemOk (State.step7 x0) := by
  unfold State.step7
  with_reducible repeat' first
    | assumption | apply keep_State_event | apply memOk_ite | apply memOk_mem | ((conv => arg 1; arg 25); rw [memOk_mk])

theorem keep_State_runStep (x0 : State) (x1 : ℕ) (x2 : StepReport) (x3 : Bool) (h0 : MemOk x0) :
    MemOk (State.runStep x0 x1 x2 x3) := by
  unfold State.runStep
  repeat' first
    | with_reducible first
        | assumption | apply keep_State_step1 | apply keep_State_step2 | apply keep_State_step3 | apply keep_State_step4 | apply keep_State_step5
        | apply keep_State_step6 | apply keep_State_step7 | apply memOk_ite | apply memOk_mem | ((conv => arg 1; arg 25); rw [memOk_mk])
    | split

theorem keep_execStartStepDone (x0 : StepReport) (x1 : State) (h1 : MemOk x1) :
    OutOk (execStartStepDone x0 x1) := by
  unfold execStartStepDone
  repeat' first
    | with_reducible first
        | assumption | intro _ | apply keep_State_withAlert | apply keep_State_failStart | apply keep_State_install | apply keep_State_runStep
        | apply memOk_ite | apply memOk_foldl | apply memOk_mem | ((conv => arg 1; arg 25); rw [memOk_mk])
        | apply outOk_next | apply outOk_onUnit | apply outOk_ite | apply outOk_fault
        | refine memOk_eq2 (by assumption) ?_ | refine memOk_eq1 (by assumption) ?_ | refine memOk_eq3 (by assumption) ?_
        | refine memOk_eqO (by assumption) ?_ | refine memOk_eqO2 (by assumption) ?_
        | apply memOk_ite2 | apply memOk_ite1 | apply memOk_ite3
    | dsimp only | split

theorem keep_execFuseSvn (x0 : State) (h0 : MemOk x0) :
    OutOk (execFuseSvn x0) := by
  unfold execFuseSvn
  with_reducible repeat' first
    | assumption | apply memOk_ite | apply memOk_mem | apply outOk_next | ((conv => arg 1; arg 25); rw [memOk_mk])

theorem keep_State_warmByRegister (x0 : State) (h0 : MemOk x0) :
    MemOk (State.warmByRegister x0) := by
  unfold State.warmByRegister
  repeat' first
    | with_reducible first
        | assumption | intro _ | apply keep_State_draw | apply keep_State_warmReset
        | apply memOk_ite | apply memOk_foldl | apply memOk_mem | ((conv => arg 1; arg 25); rw [memOk_mk])
        | refine memOk_eq2 (by assumption) ?_ | refine memOk_eq1 (by assumption) ?_ | refine memOk_eq3 (by assumption) ?_
        | refine memOk_eqO (by assumption) ?_ | refine memOk_eqO2 (by assumption) ?_
        | apply memOk_ite2 | apply memOk_ite1 | apply memOk_ite3
    | dsimp only | split

theorem keep_State_writeBootCtrl (x0 : State) (x1 : BitVec 32) (h0 : MemOk x0) :
    MemOk (State.writeBootCtrl x0 x1) := by
  unfold State.writeBootCtrl
  repeat' first
    | with_reducible first
        | assumption | intro _ | apply keep_State_warmByRegister
        | apply memOk_ite | apply memOk_foldl | apply memOk_mem | ((conv => arg 1; arg 25); rw [memOk_mk])
    | dsimp only | split

theorem keep_execBootRecover (x0 : ℕ) (x1 : BitVec 32) (x2 : State) (h2 : MemOk x2) :
    OutOk (execBootRecover x0 x1 x2) := by
  unfold execBootRecover
  with_reducible repeat' first
    | assumption | apply keep_State_writeBootCtrl | apply memOk_ite | apply outOk_next

theorem keep_State_railsUp (x0 : State) (h0 : MemOk x0) :
    MemOk (State.railsUp x0) := by
  unfold State.railsUp
  with_reducible repeat' first
    | assumption | apply keep_State_withAlert | apply keep_State_send | apply memOk_ite | apply memOk_mem | ((conv => arg 1; arg 25); rw [memOk_mk])

theorem keep_execPwrEnAssert (x0 : State) (h0 : MemOk x0) :
    OutOk (execPwrEnAssert x0) := by
  unfold execPwrEnAssert
  with_reducible repeat' first
    | assumption | apply keep_State_railsUp | apply memOk_ite | apply memOk_mem | apply outOk_next | ((conv => arg 1; arg 25); rw [memOk_mk])

theorem keep_State_releaseTrip (x0 : State) (h0 : MemOk x0) :
    MemOk (State.releaseTrip x0) := by
  unfold State.releaseTrip
  with_reducible repeat' first
    | assumption | apply keep_State_send | apply memOk_ite | apply memOk_mem | ((conv => arg 1; arg 25); rw [memOk_mk])

theorem keep_execPwrEnDeassert (x0 : Option Nat) (x1 : State) (h1 : MemOk x1) :
    OutOk (execPwrEnDeassert x0 x1) := by
  unfold execPwrEnDeassert
  repeat' first
    | with_reducible first
        | assumption | intro _ | apply keep_State_losePower | apply keep_State_releaseTrip | apply keep_State_withAlert | apply keep_State_pldm
        | apply keep_State_railsUp
        | apply memOk_ite | apply memOk_foldl | apply memOk_mem | ((conv => arg 1; arg 25); rw [memOk_mk])
        | apply outOk_next | apply outOk_onUnit | apply outOk_ite | apply outOk_fault
        | refine memOk_eq2 (by assumption) ?_ | refine memOk_eq1 (by assumption) ?_ | refine memOk_eq3 (by assumption) ?_
        | refine memOk_eqO (by assumption) ?_ | refine memOk_eqO2 (by assumption) ?_
        | apply memOk_ite2 | apply memOk_ite1 | apply memOk_ite3
    | dsimp only | split

theorem keep_execVinUp (x0 : ℕ) (x1 : State) (h1 : MemOk x1) :
    OutOk (execVinUp x0 x1) := by
  unfold execVinUp
  repeat' first
    | with_reducible first
        | assumption | apply keep_State_railsUp | apply keep_State_losePower | apply memOk_ite | apply memOk_mem | apply outOk_next
        | ((conv => arg 1; arg 25); rw [memOk_mk])
    | dsimp only

theorem keep_execHotSwapTrip (x0 : State) (h0 : MemOk x0) :
    OutOk (execHotSwapTrip x0) := by
  unfold execHotSwapTrip
  repeat' first
    | with_reducible first
        | assumption | apply keep_State_losePower | apply memOk_ite | apply memOk_mem | apply outOk_next | ((conv => arg 1; arg 25); rw [memOk_mk])
    | dsimp only

theorem keep_State_loseHost (x0 : State) (h0 : MemOk x0) :
    MemOk (State.loseHost x0) := by
  unfold State.loseHost
  with_reducible repeat' first
    | assumption | apply keep_State_withAlert | apply memOk_mem | ((conv => arg 1; arg 25); rw [memOk_mk])

theorem keep_execLinkDown (x0 : State) (h0 : MemOk x0) :
    OutOk (execLinkDown x0) := by
  unfold execLinkDown
  with_reducible repeat' first
    | assumption | apply keep_State_loseHost | apply memOk_ite | apply outOk_next

theorem keep_execDataLinkLayerUp (x0 x1 : BitVec 2) (x2 : Bool) (x3 : State) (h3 : MemOk x3) :
    OutOk (execDataLinkLayerUp x0 x1 x2 x3) := by
  unfold execDataLinkLayerUp
  with_reducible repeat' first
    | assumption | apply keep_State_withAlert | apply memOk_ite | apply memOk_mem | apply outOk_next | ((conv => arg 1; arg 25); rw [memOk_mk])

theorem keep_execPrsntNBreak (x0 : State) (h0 : MemOk x0) :
    OutOk (execPrsntNBreak x0) := by
  unfold execPrsntNBreak
  with_reducible repeat' first
    | assumption | intro _ | apply keep_State_loseHost | apply keep_State_sendControl | apply memOk_ite | apply memOk_foldl | apply outOk_next

theorem keep_execModq (x0 : ℕ) (x1 : State) (h1 : MemOk x1) :
    OutOk (execModq x0 x1) := by
  unfold execModq
  with_reducible repeat' first
    | assumption | intro _ | apply keep_onUnit | apply keep_State_mbRun | apply keep_State_drawBytes | apply keep_State_respond

theorem keep_execCalx (x0 : ℕ) (x1 : State) (h1 : MemOk x1) :
    OutOk (execCalx x0 x1) := by
  unfold execCalx
  with_reducible repeat' first
    | assumption | intro _ | apply keep_onUnit | apply keep_State_mbRun | apply keep_State_respond

theorem keep_execCalw (x0 : ℕ) (x1 : State) (h1 : MemOk x1) :
    OutOk (execCalw x0 x1) := by
  unfold execCalw
  with_reducible repeat' first
    | assumption | intro _ | apply keep_onUnit | apply keep_State_mbRun | apply keep_State_respond | apply memOk_mem
    | ((conv => arg 1; arg 25); rw [memOk_mk])

theorem keep_execCalcommit (x0 : ℕ) (x1 : State) (h1 : MemOk x1) :
    OutOk (execCalcommit x0 x1) := by
  unfold execCalcommit
  repeat' first
    | with_reducible first
        | assumption | intro _ | apply keep_onUnit | apply keep_State_mbRun | apply keep_State_respond | apply keep_State_mbResult
        | apply keep_State_measureCal | apply memOk_ite | apply memOk_mem | ((conv => arg 1; arg 25); rw [memOk_mk])
    | dsimp only | split

theorem keep_execLocate (x0 : ℕ) (x1 : State) (h1 : MemOk x1) :
    OutOk (execLocate x0 x1) := by
  unfold execLocate
  with_reducible repeat' first
    | assumption | intro _ | apply keep_onUnit | apply keep_State_mbRun | apply keep_State_respond | apply memOk_mem
    | ((conv => arg 1; arg 25); rw [memOk_mk])

theorem keep_execEntdaa (x0 : BitVec 7) (x1 : State) (h1 : MemOk x1) :
    OutOk (execEntdaa x0 x1) := by
  unfold execEntdaa
  with_reducible repeat' first
    | assumption | apply keep_State_send | apply memOk_ite | apply memOk_mem | apply outOk_next | ((conv => arg 1; arg 25); rw [memOk_mk])

theorem keep_State_mctp (x0 : State) (x1 : ℕ) (x2 : List Byte) (h0 : MemOk x0) :
    MemOk (State.mctp x0 x1 x2).2 := by
  unfold State.mctp
  repeat' first
    | with_reducible first
        | assumption | apply keep_State_drawBytes | apply memOk_ite2 | apply memOk_mem | ((conv => arg 1; arg 25); rw [memOk_mk])
    | dsimp only | split

theorem keep_State_sendSideband (x0 : State) (x1 : BitVec 8) (x2 : BitVec 8) (x3 : List Byte) (h0 : MemOk x0) :
    MemOk (State.sendSideband x0 x1 x2 x3) := by
  unfold State.sendSideband
  repeat' first
    | with_reducible first
        | assumption | intro _ | apply keep_State_send
        | apply memOk_ite | apply memOk_foldl | apply memOk_mem | ((conv => arg 1; arg 25); rw [memOk_mk])
    | dsimp only | split

theorem keep_execMctpControl (x0 : BitVec 8) (x1 : List (BitVec 8)) (x2 : State) (h2 : MemOk x2) :
    OutOk (execMctpControl x0 x1 x2) := by
  unfold execMctpControl
  repeat' first
    | with_reducible first
        | assumption | intro _ | apply keep_State_mctp | apply keep_State_sendSideband
        | apply memOk_ite | apply memOk_foldl | apply memOk_mem | ((conv => arg 1; arg 25); rw [memOk_mk])
        | apply outOk_next | apply outOk_onUnit | apply outOk_ite | apply outOk_fault
        | refine memOk_eq2 (by assumption) ?_ | refine memOk_eq1 (by assumption) ?_ | refine memOk_eq3 (by assumption) ?_
        | refine memOk_eqO (by assumption) ?_ | refine memOk_eqO2 (by assumption) ?_
        | apply memOk_ite2 | apply memOk_ite1 | apply memOk_ite3
    | dsimp only | split

theorem keep_State_numericSensor (x0 : State) (x1 : ℕ) (h0 : MemOk x0) :
    MemOk (State.numericSensor x0 x1).2 := by
  unfold State.numericSensor
  repeat' first
    | with_reducible first
        | assumption | apply keep_State_draw
    | dsimp only | split

theorem keep_execPlatformEventMessage (x0 : ℕ) (x1 : State) (h1 : MemOk x1) :
    OutOk (execPlatformEventMessage x0 x1) := by
  unfold execPlatformEventMessage
  with_reducible repeat' first
    | assumption | apply keep_State_withAlert | apply memOk_ite | apply memOk_mem | apply outOk_next | ((conv => arg 1; arg 25); rw [memOk_mk])

theorem keep_State_pldm (x0 : State) (x1 x2 : ℕ) (x3 : List Byte) (h0 : MemOk x0) :
    MemOk (State.pldm x0 x1 x2 x3).2 := by
  unfold State.pldm
  repeat' first
    | with_reducible first
        | assumption | apply keep_State_drawBytes | apply keep_State_withAlert | apply keep_State_numericSensor | apply memOk_ite2 | apply memOk_mem
        | refine memOk_eq2 (by assumption) ?_ | ((conv => arg 1; arg 25); rw [memOk_mk])
    | dsimp only | split

theorem keep_execPldmCommand (x0 : BitVec 8) (x1 : BitVec 8) (x2 : List (BitVec 8)) (x3 : State) (h3 : MemOk x3) :
    OutOk (execPldmCommand x0 x1 x2 x3) := by
  unfold execPldmCommand
  repeat' first
    | with_reducible first
        | assumption | intro _ | apply keep_State_pldm | apply keep_State_sendSideband
        | apply memOk_ite | apply memOk_foldl | apply memOk_mem | ((conv => arg 1; arg 25); rw [memOk_mk])
        | apply outOk_next | apply outOk_onUnit | apply outOk_ite | apply outOk_fault
        | refine memOk_eq2 (by assumption) ?_ | refine memOk_eq1 (by assumption) ?_ | refine memOk_eq3 (by assumption) ?_
        | refine memOk_eqO (by assumption) ?_ | refine memOk_eqO2 (by assumption) ?_
        | apply memOk_ite2 | apply memOk_ite1 | apply memOk_ite3
    | dsimp only | split

theorem keep_State_vdm (x0 : State) (x1 : Nat) (x2 : State → List Byte × State) (h0 : MemOk x0) (h2 : ∀ y0, MemOk y0 → MemOk (x2 y0).2) :
    MemOk (State.vdm x0 x1 x2) := by
  unfold State.vdm
  repeat' first
    | with_reducible first
        | assumption | intro _ | apply h2 | apply keep_State_sendSideband
        | apply memOk_ite | apply memOk_foldl | apply memOk_mem | ((conv => arg 1; arg 25); rw [memOk_mk])
        | refine memOk_eq2 (by assumption) ?_ | refine memOk_eq1 (by assumption) ?_ | refine memOk_eq3 (by assumption) ?_
        | refine memOk_eqO (by assumption) ?_ | refine memOk_eqO2 (by assumption) ?_
        | apply memOk_ite2 | apply memOk_ite1 | apply memOk_ite3
    | dsimp only | split

theorem keep_execVdmEvidence (x0 : List (BitVec 8)) (x1 : State) (h1 : MemOk x1) :
    OutOk (execVdmEvidence x0 x1) := by
  unfold execVdmEvidence
  repeat' first
    | with_reducible first
        | assumption | intro _ | apply keep_State_vdm | apply keep_State_evidence
        | apply memOk_ite | apply memOk_foldl | apply memOk_mem | ((conv => arg 1; arg 25); rw [memOk_mk])
        | apply outOk_next | apply outOk_onUnit | apply outOk_ite | apply outOk_fault
        | refine memOk_eq2 (by assumption) ?_ | refine memOk_eq1 (by assumption) ?_ | refine memOk_eq3 (by assumption) ?_
        | refine memOk_eqO (by assumption) ?_ | refine memOk_eqO2 (by assumption) ?_
        | apply memOk_ite2 | apply memOk_ite1 | apply memOk_ite3
    | dsimp only | split

theorem keep_execVdmErase (x0 : State) (h0 : MemOk x0) :
    OutOk (execVdmErase x0) := by
  unfold execVdmErase
  repeat' first
    | with_reducible first
        | assumption | intro _ | apply keep_State_vdm | apply keep_State_writeStage
        | apply memOk_ite | apply memOk_foldl | apply memOk_mem | ((conv => arg 1; arg 25); rw [memOk_mk])
        | apply outOk_next | apply outOk_onUnit | apply outOk_ite | apply outOk_fault
    | dsimp only | split

theorem keep_execVdmWrite (x0 : Nat) (x1 : List (BitVec 8)) (x2 : State) (h2 : MemOk x2) :
    OutOk (execVdmWrite x0 x1 x2) := by
  unfold execVdmWrite
  repeat' first
    | with_reducible first
        | assumption | intro _ | apply keep_State_vdm | apply keep_State_stagingAccess
        | apply memOk_ite | apply memOk_foldl | apply memOk_mem | ((conv => arg 1; arg 25); rw [memOk_mk])
        | apply outOk_next | apply outOk_onUnit | apply outOk_ite | apply outOk_fault
    | dsimp only | split

theorem keep_execVdmArm (x0 : State) (h0 : MemOk x0) :
    OutOk (execVdmArm x0) := by
  unfold execVdmArm
  repeat' first
    | with_reducible first
        | assumption | intro _ | apply keep_State_vdm | apply keep_State_writeStage
        | apply memOk_ite | apply memOk_foldl | apply memOk_mem | ((conv => arg 1; arg 25); rw [memOk_mk])
        | apply outOk_next | apply outOk_onUnit | apply outOk_ite | apply outOk_fault
    | dsimp only | split

theorem keep_execVdmWarm (x0 : State) (h0 : MemOk x0) :
    OutOk (execVdmWarm x0) := by
  unfold execVdmWarm
  repeat' first
    | with_reducible first
        | assumption | intro _ | apply keep_State_sendSideband | apply keep_State_warmByRegister
        | apply memOk_ite | apply memOk_foldl | apply memOk_mem | ((conv => arg 1; arg 25); rw [memOk_mk])
        | apply outOk_next | apply outOk_onUnit | apply outOk_ite | apply outOk_fault
    | dsimp only | split

theorem keep_execVdmRecover (x0 : State) (h0 : MemOk x0) :
    OutOk (execVdmRecover x0) := by
  unfold execVdmRecover
  repeat' first
    | with_reducible first
        | assumption | intro _ | apply keep_State_vdm
        | apply memOk_ite | apply memOk_foldl | apply memOk_mem | ((conv => arg 1; arg 25); rw [memOk_mk])
        | apply outOk_next | apply outOk_onUnit | apply outOk_ite | apply outOk_fault
    | dsimp only | split

theorem keep_execLogread (x0 : BitVec 32) (x1 : State) (h1 : MemOk x1) :
    OutOk (execLogread x0 x1) := by
  unfold execLogread
  repeat' first
    | with_reducible first
        | assumption | intro _ | apply keep_State_vdm | apply keep_State_log
        | apply memOk_ite | apply memOk_foldl | apply memOk_mem | ((conv => arg 1; arg 25); rw [memOk_mk])
        | apply outOk_next | apply outOk_onUnit | apply outOk_ite | apply outOk_fault
    | dsimp only | split

theorem keep_execVdmLocate (x0 : Bool) (x1 : State) (h1 : MemOk x1) :
    OutOk (execVdmLocate x0 x1) := by
  unfold execVdmLocate
  repeat' first
    | with_reducible first
        | assumption | intro _ | apply keep_State_vdm
        | apply memOk_ite | apply memOk_foldl | apply memOk_mem | ((conv => arg 1; arg 25); rw [memOk_mk])
        | apply outOk_next | apply outOk_onUnit | apply outOk_ite | apply outOk_fault
    | dsimp only | split

end Sys2Proof.Machine
end

