-- ==== Sys2Proof/Laws/KeepReel.lean ====
section
/-! SUPPORT. Memory keeps its canonical form through the operations and commands of the launch engine, the host rings and the sequence store. -/

namespace Sys2Proof.Machine
open Sys2Proof

theorem keep_execContextKill (x0 x1 : ℕ) (x2 : State) (h2 : MemOk x2) :
    OutOk (execContextKill x0 x1 x2) := by
  unfold execContextKill
  repeat' first
    | with_reducible first
        | assumption | apply keep_onUnit | apply keep_State_dropWork | apply keep_State_settleControls | apply keep_State_finishLaunch
        | apply keep_State_event
    | dsimp only | split

theorem keep_State_placeRanges (x0 : State) (x1 : Launch) (x2 : List ℕ) (h0 : MemOk x0) :
    MemOk (State.placeRanges x0 x1 x2) := by
  unfold State.placeRanges
  with_reducible repeat' first
    | assumption | intro _ | apply keep_State_updCluster | apply keep_State_setLaunch | apply memOk_ite | apply memOk_foldl

theorem keep_execLaunchReady (x0 x1 : ℕ) (x2 : State) (h2 : MemOk x2) :
    OutOk (execLaunchReady x0 x1 x2) := by
  unfold execLaunchReady
  repeat' first
    | with_reducible first
        | assumption | apply keep_onUnit | apply keep_State_finishLaunch | apply keep_State_placeRanges | apply memOk_ite
    | dsimp only | split

theorem keep_execDependencyPoll (x0 x1 : ℕ) (x2 : State) (h2 : MemOk x2) :
    OutOk (execDependencyPoll x0 x1 x2) := by
  unfold execDependencyPoll
  repeat' first
    | with_reducible first
        | assumption | apply keep_onUnit | apply keep_State_pollWord | apply keep_State_finishLaunch | apply keep_State_setLaunch | apply memOk_ite
        | refine memOk_eq2 (by assumption) ?_
    | split

theorem keep_execTaskTake (x0 : ℕ) (x1 : State) (h1 : MemOk x1) :
    OutOk (execTaskTake x0 x1) := by
  unfold execTaskTake
  repeat' first
    | with_reducible first
        | assumption | apply keep_onUnit | apply keep_State_updCluster | apply keep_State_updCore | apply keep_State_acquire | apply keep_State_setGroup
        | apply memOk_ite | apply memOk_mem | ((conv => arg 1; arg 25); rw [memOk_mk])
    | dsimp only | split

theorem keep_execStealChoose (x0 x1 x2 : ℕ) (x3 : State) (h3 : MemOk x3) :
    OutOk (execStealChoose x0 x1 x2 x3) := by
  unfold execStealChoose
  repeat' first
    | with_reducible first
        | assumption | apply keep_onUnit | apply keep_State_updCluster
    | dsimp only | split

theorem keep_State_toCluster (x0 : State) (x1 : Nat) (x2 : Nat) (x3 : Nat) (x4 : Nat) (h0 : MemOk x0) :
    MemOk (State.toCluster x0 x1 x2 x3 x4) := by
  unfold State.toCluster
  repeat' first
    | with_reducible first
        | assumption | intro _ | apply keep_State_dieMessage
        | apply memOk_ite | apply memOk_foldl | apply memOk_mem | ((conv => arg 1; arg 25); rw [memOk_mk])
    | dsimp only | split

theorem keep_execStealRequest (x0 : Nat) (x1 : Nat) (x2 : Nat) (x3 : Nat) (x4 : State) (h4 : MemOk x4) :
    OutOk (execStealRequest x0 x1 x2 x3 x4) := by
  unfold execStealRequest
  repeat' first
    | with_reducible first
        | assumption | intro _ | apply keep_onUnit | apply keep_State_toCluster | apply keep_State_updCluster | apply keep_State_updLaunch
        | apply memOk_ite | apply memOk_foldl | apply memOk_mem | ((conv => arg 1; arg 25); rw [memOk_mk])
        | apply outOk_next | apply outOk_onUnit | apply outOk_ite | apply outOk_fault
        | refine memOk_eq2 (by assumption) ?_ | refine memOk_eq1 (by assumption) ?_ | refine memOk_eq3 (by assumption) ?_
        | refine memOk_eqO (by assumption) ?_ | refine memOk_eqO2 (by assumption) ?_
        | apply memOk_ite2 | apply memOk_ite1 | apply memOk_ite3
    | dsimp only | split

theorem keep_commitPiece (x0 : ℕ) (x1 : Progress × List HeldWrite) (x2 x3 : ℕ) (h1 : MemOk x1.1.s) :
    MemOk (commitPiece x0 x1 x2 x3).1.s := by
  unfold commitPiece
  repeat' first
    | with_reducible first
        | assumption | apply keep_State_copyTranslate | apply keep_State_raiseJob | apply keep_State_raiseJobOf | refine memOk_eq2 (by assumption) ?_
    | dsimp only | split

theorem keep_commitCrc (x0 : ℕ) (x1 : ℕ × ℕ) (x2 : Progress × List HeldWrite) (x3 : ℕ) (h2 : MemOk x2.1.s) :
    MemOk (commitCrc x0 x1 x2 x3).1.s := by
  unfold commitCrc
  repeat' first
    | with_reducible first
        | assumption | apply keep_State_raiseJob | apply keep_State_copyTranslate | refine memOk_eq2 (by assumption) ?_
    | dsimp only | split

theorem keep_commitJob (x0 : ℕ) (x1 : State) (x2 : CopyJob) (h1 : MemOk x1) :
    MemOk (commitJob x0 x1 x2).1.s := by
  unfold commitJob
  repeat' first
    | with_reducible first
        | assumption | intro _ | apply keep_State_finFault | apply keep_State_raiseJob | apply keep_readTable | apply keep_commitPiece
        | apply keep_commitCrc | apply memOk_foldlP | refine memOk_eq2 (by assumption) ?_ | refine memOk_eqP (by assumption) ?_
    | dsimp only | split

theorem keep_commitJobs : ∀ (x2 : List CopyJob) (x0 : ℕ) (x1 : State), (MemOk (x1)) → MemOk (commitJobs x0 x1 x2).1 := by
  intro x2
  induction x2 with
  | nil  =>
    intro x0 x1 h1
    unfold commitJobs
    with_reducible repeat' first
      | assumption | apply keep_commitJob | apply memOk_ite | apply memOk_ite2S
  | cons a l ih =>
    intro x0 x1 h1
    unfold commitJobs
    with_reducible repeat' first
      | assumption | apply ih | apply keep_commitJob | apply memOk_ite1


theorem keep_execCommitReservation (x0 : ℕ) (x1 : State) (h1 : MemOk x1) :
    OutOk (execCommitReservation x0 x1) := by
  unfold execCommitReservation
  repeat' first
    | with_reducible first
        | assumption | apply keep_onUnit | apply keep_State_updCluster | apply keep_commitJobs | apply keep_State_updGroup | apply memOk_ite
    | dsimp only | split

theorem keep_execCommitPoint (x0 x1 : ℕ) (x2 : State) (h2 : MemOk x2) :
    OutOk (execCommitPoint x0 x1 x2) := by
  unfold execCommitPoint
  repeat' first
    | with_reducible first
        | assumption | apply keep_onUnit | apply keep_State_updCluster | apply keep_State_drainCommits | apply keep_State_freeSlot
        | apply keep_State_settleControls | apply keep_State_updLaunch | apply memOk_ite
    | dsimp only | split

theorem keep_execLaunchComplete (x0 x1 : ℕ) (x2 : State) (h2 : MemOk x2) :
    OutOk (execLaunchComplete x0 x1 x2) := by
  unfold execLaunchComplete
  repeat' first
    | with_reducible first
        | assumption | apply keep_onUnit | apply keep_State_finishLaunch | apply keep_State_addWord | apply keep_State_setLaunch | apply memOk_ite
        | refine memOk_eq2 (by assumption) ?_
    | split

theorem keep_execCoreLost (x0 : ℕ) (x1 : Bool) (x2 : State) (h2 : MemOk x2) :
    OutOk (execCoreLost x0 x1 x2) := by
  unfold execCoreLost
  with_reducible repeat' first
    | assumption | apply keep_onUnit | apply keep_State_settleControls | apply keep_State_coreLost

theorem keep_execDrain (x0 : BitVec 32) (x1 : State) (h1 : MemOk x1) :
    OutOk (execDrain x0 x1) := by
  unfold execDrain
  with_reducible repeat' first
    | assumption | apply keep_onUnit | apply keep_State_settleControls | apply keep_State_control

theorem keep_State_expireGroup (x0 : State) (x1 x2 x3 : ℕ) (h0 : MemOk x0) :
    MemOk (State.expireGroup x0 x1 x2 x3) := by
  unfold State.expireGroup
  repeat' first
    | with_reducible first
        | assumption | apply keep_State_stopTask | apply keep_State_updLaunch | apply memOk_ite
    | dsimp only | split

theorem keep_State_refuseDrain (x0 : State) (x1 : Drain) (h0 : MemOk x0) :
    MemOk (State.refuseDrain x0 x1) := by
  unfold State.refuseDrain
  repeat' first
    | with_reducible first
        | assumption | apply keep_State_actControl | apply keep_State_endTest | apply keep_State_controlEvent | apply keep_State_updSectorClk
        | apply keep_State_endControl | apply memOk_ite
    | dsimp only | split

theorem keep_execDrainTmaxExpiry (x0 : BitVec 32) (x1 : State) (h1 : MemOk x1) :
    OutOk (execDrainTmaxExpiry x0 x1) := by
  unfold execDrainTmaxExpiry
  repeat' first
    | with_reducible first
        | assumption | intro _ | apply keep_onUnit | apply keep_State_settleControls | apply keep_State_refuseDrain | apply keep_State_expireGroup
        | apply memOk_ite | apply memOk_foldr
    | dsimp only | split

theorem keep_execReelClr (x0 : ℕ) (x1 : BitVec 32) (x2 : State) (h2 : MemOk x2) :
    OutOk (execReelClr x0 x1 x2) := by
  unfold execReelClr
  with_reducible repeat' first
    | assumption | apply memOk_ite | apply memOk_mem | apply outOk_next | ((conv => arg 1; arg 25); rw [memOk_mk])

theorem keep_execEntryFetch (x0 : ℕ) (x1 : State) (h1 : MemOk x1) :
    OutOk (execEntryFetch x0 x1) := by
  unfold execEntryFetch
  repeat' first
    | with_reducible first
        | assumption | apply keep_onUnit | apply keep_State_updInst | apply keep_State_complete | apply keep_State_updEntry | apply memOk_ite
        | apply memOk_mem | ((conv => arg 1; arg 25); rw [memOk_mk])
    | dsimp only

theorem keep_execTaggedRelease (x0 x1 : ℕ) (x2 : State) (h2 : MemOk x2) :
    OutOk (execTaggedRelease x0 x1 x2) := by
  unfold execTaggedRelease
  repeat' first
    | with_reducible first
        | assumption | apply keep_onUnit | apply keep_State_updEntry | apply memOk_ite
    | split

theorem keep_execLaunch (x0 x1 : ℕ) (x2 : State) (h2 : MemOk x2) :
    OutOk (execLaunch x0 x1 x2) := by
  unfold execLaunch
  repeat' first
    | with_reducible first
        | assumption | apply keep_onUnit | apply keep_State_updEntry | apply memOk_ite | apply memOk_mem | ((conv => arg 1; arg 25); rw [memOk_mk])
    | dsimp only | split

theorem keep_State_endCopy (x0 : State) (x1 x2 : ℕ) (h0 : MemOk x0) :
    MemOk (State.endCopy x0 x1 x2) := by
  unfold State.endCopy
  repeat' first
    | with_reducible first
        | assumption | apply keep_State_complete
    | split

theorem keep_execCopy (x0 x1 : ℕ) (x2 : State) (h2 : MemOk x2) :
    OutOk (execCopy x0 x1 x2) := by
  unfold execCopy
  repeat' first
    | with_reducible first
        | assumption | apply keep_onUnit | apply keep_State_endCopy | apply keep_State_updEntry | apply keep_State_entryRead | apply keep_State_complete
        | apply keep_State_entryWrite | apply keep_State_closeBatches | apply memOk_ite | refine memOk_eq2 (by assumption) ?_
    | dsimp only | split

theorem keep_execWait (x0 x1 : ℕ) (x2 : State) (h2 : MemOk x2) :
    OutOk (execWait x0 x1 x2) := by
  unfold execWait
  repeat' first
    | with_reducible first
        | assumption | apply keep_onUnit | apply keep_State_complete | apply keep_State_pollWord | apply memOk_ite | refine memOk_eq2 (by assumption) ?_
    | split

theorem keep_execFenceEntry (x0 x1 : ℕ) (x2 : State) (h2 : MemOk x2) :
    OutOk (execFenceEntry x0 x1 x2) := by
  unfold execFenceEntry
  repeat' first
    | with_reducible first
        | assumption | apply keep_onUnit | apply keep_State_complete | apply memOk_ite
    | split

theorem keep_execEvent (x0 x1 : ℕ) (x2 : State) (h2 : MemOk x2) :
    OutOk (execEvent x0 x1 x2) := by
  unfold execEvent
  repeat' first
    | with_reducible first
        | assumption | apply keep_onUnit | apply keep_State_complete | apply keep_State_event | apply memOk_ite
    | split

theorem keep_execDoorbell (x0 x1 : ℕ) (x2 : BitVec 32) (x3 : State) (h3 : MemOk x3) :
    OutOk (execDoorbell x0 x1 x2 x3) := by
  unfold execDoorbell
  with_reducible repeat' first
    | assumption | apply keep_onUnit | apply keep_State_updInst | apply keep_State_event | apply memOk_ite

theorem keep_execCqdb (x0 : ℕ) (x1 : BitVec 32) (x2 : State) (h2 : MemOk x2) :
    OutOk (execCqdb x0 x1 x2) := by
  unfold execCqdb
  with_reducible repeat' first
    | assumption | apply keep_onUnit | apply keep_State_updInst | apply memOk_ite

theorem keep_execEqdb (x0 : ℕ) (x1 : BitVec 32) (x2 : State) (h2 : MemOk x2) :
    OutOk (execEqdb x0 x1 x2) := by
  unfold execEqdb
  with_reducible repeat' first
    | assumption | apply keep_onUnit | apply keep_State_flushHeld | apply keep_State_updInst | apply memOk_ite

theorem keep_execCqCoalesceTimeout (x0 : ℕ) (x1 : State) (h1 : MemOk x1) :
    OutOk (execCqCoalesceTimeout x0 x1) := by
  unfold execCqCoalesceTimeout
  repeat' first
    | with_reducible first
        | assumption | apply keep_onUnit | apply keep_State_interrupt | apply keep_State_updInst | apply memOk_ite
    | dsimp only | split

theorem keep_execIntctl (x0 : ℕ) (x1 : BitVec 32) (x2 : State) (h2 : MemOk x2) :
    OutOk (execIntctl x0 x1 x2) := by
  unfold execIntctl
  with_reducible repeat' first
    | assumption | apply keep_onUnit | apply keep_State_updInst | apply keep_State_interrupt | apply memOk_ite

theorem keep_State_writeRingCfg (x0 : State) (x1 : ℕ) (x2 : BitVec 32) (h0 : MemOk x0) :
    MemOk (State.writeRingCfg x0 x1 x2) := by
  unfold State.writeRingCfg
  with_reducible repeat' first
    | assumption | apply keep_State_updInst | apply keep_State_flushHeld | apply memOk_ite

theorem keep_execRingEnable (x0 x1 : ℕ) (x2 : BitVec 32) (x3 : State) (h3 : MemOk x3) :
    OutOk (execRingEnable x0 x1 x2 x3) := by
  unfold execRingEnable
  with_reducible repeat' first
    | assumption | apply keep_onUnit | apply keep_State_writeRingCfg | apply memOk_ite

theorem keep_execRingDisable (x0 x1 : ℕ) (x2 : BitVec 32) (x3 : State) (h3 : MemOk x3) :
    OutOk (execRingDisable x0 x1 x2 x3) := by
  unfold execRingDisable
  with_reducible repeat' first
    | assumption | apply keep_onUnit | apply keep_State_writeRingCfg | apply memOk_ite

theorem keep_execQuiesce (x0 : ℕ) (x1 : BitVec 32) (x2 : State) (h2 : MemOk x2) :
    OutOk (execQuiesce x0 x1 x2) := by
  unfold execQuiesce
  with_reducible repeat' first
    | assumption | apply memOk_ite | apply memOk_mem | apply outOk_next | ((conv => arg 1; arg 25); rw [memOk_mk])

theorem keep_State_slotInHbm : ∀ (x0 : ℕ) (x1 : State) (x2 : ℕ) (x3 : ℕ) (x4 : ℕ), (MemOk (x1)) → MemOk (State.slotInHbm x0 x1 x2 x3 x4).2 := by
  intro x0
  induction x0 with
  | zero  =>
    intro x1 x2 x3 x4 h1
    unfold State.slotInHbm
    repeat' first
      | with_reducible first
          | assumption | apply keep_State_entryPage | apply memOk_ite | apply memOk_mem | refine memOk_eq3 (by assumption) ?_
      | split
  | succ n ih =>
    intro x1 x2 x3 x4 h1
    unfold State.slotInHbm
    repeat' first
      | with_reducible first
          | assumption | apply ih | apply keep_State_entryPage | apply memOk_ite2 | refine memOk_eq2 (by assumption) ?_
      | dsimp only | split


theorem keep_State_storeRead (x0 : State) (x1 x2 : ℕ) (x3 x4 : ℕ) (h0 : MemOk x0) :
    MemOk (State.storeRead x0 x1 x2 x3 x4).2 := by
  unfold State.storeRead
  repeat' first
    | with_reducible first
        | assumption | apply keep_State_slotInHbm | apply keep_State_entryRead | refine memOk_eq2 (by assumption) ?_
    | split

theorem keep_State_storeWrite (x0 : State) (x1 : Nat) (x2 : Nat) (x3 : Nat) (x4 : List PByte) (h0 : MemOk x0) :
    MemOk (State.storeWrite x0 x1 x2 x3 x4).2 := by
  unfold State.storeWrite
  repeat' first
    | with_reducible first
        | assumption | intro _ | apply keep_State_slotInHbm | apply keep_State_entryWrite
        | apply memOk_ite | apply memOk_foldl | apply memOk_mem | ((conv => arg 1; arg 25); rw [memOk_mk])
        | apply memOk_ite2 | apply memOk_ite1 | apply memOk_ite3 | apply memOk_foldl2
        | refine memOk_eq2 (by assumption) ?_ | refine memOk_eq1 (by assumption) ?_ | refine memOk_eq3 (by assumption) ?_
        | refine memOk_eqO (by assumption) ?_ | refine memOk_eqO2 (by assumption) ?_
    | dsimp only | split

theorem keep_State_setLayout (x0 : State) (x1 x2 : ℕ) (x3 : Layout) (h0 : MemOk x0) :
    MemOk (State.setLayout x0 x1 x2 x3) := by
  unfold State.setLayout
  with_reducible repeat' first
    | assumption | apply keep_State_updInst

theorem keep_State_updLayout (x0 : State) (x1 x2 : ℕ) (x3 : Layout → Layout) (h0 : MemOk x0) :
    MemOk (State.updLayout x0 x1 x2 x3) := by
  unfold State.updLayout
  repeat' first
    | with_reducible first
        | assumption | apply keep_State_setLayout
    | split

theorem keep_State_pickFree (x0 : State) (x1 : ℕ) (x2 : ℕ → Bool) (h0 : MemOk x0) :
    MemOk (State.pickFree x0 x1 x2).2 := by
  unfold State.pickFree
  with_reducible repeat' first
    | assumption | apply keep_State_draw

theorem keep_State_takeSlot (x0 : State) (x1 x2 : ℕ) (h0 : MemOk x0) :
    MemOk (State.takeSlot x0 x1 x2).2 := by
  unfold State.takeSlot
  repeat' first
    | with_reducible first
        | assumption | apply keep_State_pickFree | apply keep_State_setLayout | refine memOk_eq2 (by assumption) ?_
    | split

theorem keep_State_dropLeaves (x0 : State) (x1 x2 : ℕ) (x3 : List KvLeaf) (h0 : MemOk x0) :
    MemOk (State.dropLeaves x0 x1 x2 x3) := by
  unfold State.dropLeaves
  with_reducible repeat' first
    | assumption | apply keep_State_updLayout

theorem keep_Layout_eachGroup (L : Layout) (f : Nat → State → Got × State) (s : State) (hf : ∀ g s, MemOk s → MemOk (f g s).2)
    (h : MemOk s) : MemOk (L.eachGroup f s).2 := by
  unfold Layout.eachGroup
  apply memOk_foldl2 _ _ _ _ h
  intro acc g ha
  split
  · exact hf g _ ha
  · exact ha

theorem keep_State_zeroRows (x0 : State) (x1 : Nat) (x2 : Nat) (x3 : Layout) (x4 : Nat) (x5 : Nat) (x6 : Nat) (h0 : MemOk x0) :
    MemOk (State.zeroRows x0 x1 x2 x3 x4 x5 x6).2 := by
  unfold State.zeroRows
  repeat' first
    | with_reducible first
        | assumption | intro _ | apply keep_Layout_eachGroup | apply keep_State_storeWrite
        | apply memOk_ite | apply memOk_foldl | apply memOk_mem | ((conv => arg 1; arg 25); rw [memOk_mk])
        | apply memOk_ite2 | apply memOk_ite1 | apply memOk_ite3 | apply memOk_foldl2
    | dsimp only | split

theorem keep_State_copyRows (x0 : State) (x1 : Nat) (x2 : Nat) (x3 : Layout) (x4 : Nat) (x5 : Nat) (x6 : Nat) (h0 : MemOk x0) :
    MemOk (State.copyRows x0 x1 x2 x3 x4 x5 x6).2 := by
  unfold State.copyRows
  repeat' first
    | with_reducible first
        | assumption | intro _ | apply keep_Layout_eachGroup | apply keep_State_storeRead | apply keep_State_storeWrite
        | apply memOk_ite | apply memOk_foldl | apply memOk_mem | ((conv => arg 1; arg 25); rw [memOk_mk])
        | apply memOk_ite2 | apply memOk_ite1 | apply memOk_ite3 | apply memOk_foldl2
        | refine memOk_eq2 (by assumption) ?_ | refine memOk_eq1 (by assumption) ?_ | refine memOk_eq3 (by assumption) ?_
        | refine memOk_eqO (by assumption) ?_ | refine memOk_eqO2 (by assumption) ?_
    | dsimp only | split

theorem keep_execSlotZeroed (x0 x1 x2 : ℕ) (x3 : State) (h3 : MemOk x3) :
    OutOk (execSlotZeroed x0 x1 x2 x3) := by
  unfold execSlotZeroed
  repeat' first
    | with_reducible first
        | assumption | apply keep_onUnit | apply keep_State_storeWrite | apply keep_State_updLayout | apply memOk_ite
        | refine memOk_eq2 (by assumption) ?_
    | split

theorem keep_State_takeNode (x0 : State) (x1 : ℕ) (h0 : MemOk x0) :
    OptOk2 (State.takeNode x0 x1) := by
  unfold State.takeNode
  repeat' first
    | with_reducible first
        | assumption | apply memOk_mem | apply optOk2_some | apply optOk2_none | ((conv => arg 1; arg 25); rw [memOk_mk])
    | dsimp only | split

theorem keep_State_giveNode (x0 : State) (x1 x2 : ℕ) (h0 : MemOk x0) :
    MemOk (State.giveNode x0 x1 x2) := by
  unfold State.giveNode
  with_reducible repeat' first
    | assumption | apply memOk_mem | ((conv => arg 1; arg 25); rw [memOk_mk])

theorem keep_State_syncNodes : ∀ (x0 : State) (x1 : SeqRec) (x2 : SeqRec), (MemOk (x0)) → OptOk2 (State.syncNodes x0 x1 x2) := by
  intro x0 x1 x2 h0
  unfold State.syncNodes
  apply optOk2_map
  · refine optOk2_foldBind (fun (x : NMap Nat × State) k => (x.2.takeNode k).map (fun t => (NMap.ins x.1 k t.1, t.2))) _ _ ?_ ?_
    · exact optOk2_some _ (memOk_foldl _ _ _ (fun s e h => keep_State_giveNode s e.1 e.2 h) h0)
    · exact fun p k h => optOk2_map _ _ (keep_State_takeNode p.2 k h) (fun _ h => h)
  · exact fun p h => memOk_foldl _ _ _ (fun s e h => memOk_ite _ _ _ h (keep_State_hbmWrite s _ _ _ h)) h

theorem keep_State_readKeys (x0 : State) (x1 : NMap Nat) (h0 : MemOk x0) :
    MemOk (State.readKeys x0 x1).2 := by
  unfold State.readKeys
  repeat' first
    | with_reducible first
        | assumption | intro _ | apply keep_State_hbmRead
        | apply memOk_ite | apply memOk_foldl | apply memOk_mem | ((conv => arg 1; arg 25); rw [memOk_mk])
        | apply memOk_ite2 | apply memOk_ite1 | apply memOk_ite3 | apply memOk_foldl2
        | refine memOk_eq2 (by assumption) ?_ | refine memOk_eq1 (by assumption) ?_ | refine memOk_eq3 (by assumption) ?_
        | refine memOk_eqO (by assumption) ?_ | refine memOk_eqO2 (by assumption) ?_
        | apply memOk_foldl3
    | dsimp only | split

theorem keep_State_readNodes (x0 : State) (x1 : SeqRec) (h0 : MemOk x0) :
    MemOk (State.readNodes x0 x1).2 := by
  unfold State.readNodes
  repeat' first
    | with_reducible first
        | assumption | intro _ | apply keep_State_readKeys
        | apply memOk_ite | apply memOk_foldl | apply memOk_mem | ((conv => arg 1; arg 25); rw [memOk_mk])
        | apply memOk_ite2 | apply memOk_ite1 | apply memOk_ite3 | apply memOk_foldl2
    | dsimp only | split

theorem keep_State_putSeq (x0 : State) (x1 x2 : ℕ) (x3 : SeqRec) (h0 : MemOk x0) :
    OptOk (State.putSeq x0 x1 x2 x3) := by
  unfold State.putSeq
  with_reducible repeat' first
    | assumption | intro _ | apply keep_State_updInst | apply keep_State_syncNodes | apply optOk_map2

theorem keep_State_setSeq (x0 : State) (x1 x2 : ℕ) (x3 : SeqRec) (h0 : MemOk x0) :
    MemOk (State.setSeq x0 x1 x2 x3) := by
  unfold State.setSeq
  with_reducible repeat' first
    | assumption | apply keep_State_putSeq | apply memOk_getD

theorem keep_State_takeRecord (x0 : State) (x1 : ℕ) (x2 : SeqRec) (h0 : MemOk x0) :
    MemOk (State.takeRecord x0 x1 x2).2 := by
  unfold State.takeRecord
  repeat' first
    | with_reducible first
        | assumption | apply keep_State_pickFree | apply keep_State_putSeq | apply memOk_ite2 | refine memOk_eq2 (by assumption) ?_
        | refine memOk_eqO (by assumption) ?_
    | split

theorem keep_State_freeRecord (x0 : State) (x1 x2 : ℕ) (x3 : SeqRec) (h0 : MemOk x0) :
    MemOk (State.freeRecord x0 x1 x2 x3) := by
  unfold State.freeRecord
  with_reducible repeat' first
    | assumption | intro _ | apply keep_State_dropLeaves | apply keep_State_giveNode | apply keep_State_updInst | apply memOk_foldl

theorem keep_State_rollback (x0 : State) (x1 x2 : ℕ) (x3 : SeqRec) (h0 : MemOk x0) :
    MemOk (State.rollback x0 x1 x2 x3).2.2 := by
  unfold State.rollback
  repeat' first
    | with_reducible first
        | assumption | apply keep_State_zeroRows | apply keep_State_dropLeaves | apply memOk_ite2
    | dsimp only | split

theorem keep_State_storedPages : ∀ (x0 : ℕ) (x1 : State) (x2 : ℕ) (x3 : ℕ) (x4 : ℕ) (x5 : ℕ) (x6 : Bool), (MemOk (x1)) → MemOk (State.storedPages x0 x1 x2 x3 x4 x5 x6).2 := by
  intro x0
  induction x0 with
  | zero  =>
    intro x1 x2 x3 x4 x5 x6 h1
    unfold State.storedPages
    repeat' first
      | with_reducible first
          | assumption | apply keep_State_entryPage | apply memOk_ite | apply memOk_mem | refine memOk_eq3 (by assumption) ?_
      | split
  | succ n ih =>
    intro x1 x2 x3 x4 x5 x6 h1
    unfold State.storedPages
    repeat' first
      | with_reducible first
          | assumption | apply ih | apply keep_State_entryPage | apply memOk_ite2 | refine memOk_eq2 (by assumption) ?_
      | dsimp only | split


theorem keep_State_readStored (x0 : State) (x1 x2 x3 : ℕ) (x4 : KvLeaf) (h0 : MemOk x0) :
    MemOk (State.readStored x0 x1 x2 x3 x4).2 := by
  unfold State.readStored
  repeat' first
    | with_reducible first
        | assumption | apply keep_State_storedPages | apply keep_State_entryRead | apply memOk_ite2 | refine memOk_eq2 (by assumption) ?_
    | split

theorem keep_State_promote (x0 : State) (x1 x2 : ℕ) (x3 x4 x5 : ℕ) (x6 : Layout) (x7 : KvLeaf) (x8 : Got) (h0 : MemOk x0) :
    MemOk (State.promote x0 x1 x2 x3 x4 x5 x6 x7 x8).2 := by
  unfold State.promote
  repeat' first
    | with_reducible first
        | assumption | apply keep_State_takeSlot | apply keep_State_updLayout | apply keep_State_storeWrite | refine memOk_eq2 (by assumption) ?_
    | dsimp only | split

theorem keep_State_onSeq (x0 : State) (x1 x2 x3 : ℕ) (x4 : Entry → ℕ → SeqRec → State → State) (h0 : MemOk x0) (h4 : ∀ (y0 : Entry) (y1 : ℕ) (y2 : SeqRec) (y3 : State), MemOk y3 → MemOk (x4 y0 y1 y2 y3)) :
    MemOk (State.onSeq x0 x1 x2 x3 x4) := by
  unfold State.onSeq
  repeat' first
    | with_reducible first
        | assumption | apply keep_State_complete | apply keep_State_readNodes | apply h4 | refine memOk_eq2 (by assumption) ?_
    | split

theorem keep_execSeqLayout (x0 x1 : ℕ) (x2 : State) (h2 : MemOk x2) :
    OutOk (execSeqLayout x0 x1 x2) := by
  unfold execSeqLayout
  repeat' first
    | with_reducible first
        | assumption | apply keep_onUnit | apply keep_State_complete | apply keep_State_slotInHbm | apply keep_State_setLayout | apply memOk_ite
        | refine memOk_eq2 (by assumption) ?_
    | dsimp only | split

theorem keep_execSeqCreate (x0 x1 : ℕ) (x2 : State) (h2 : MemOk x2) :
    OutOk (execSeqCreate x0 x1 x2) := by
  unfold execSeqCreate
  repeat' first
    | with_reducible first
        | assumption | apply keep_onUnit | apply keep_State_complete | apply keep_State_takeRecord | apply memOk_ite
        | refine memOk_eq2 (by assumption) ?_
    | dsimp only | split

theorem keep_execSeqFree (x0 x1 : ℕ) (x2 : State) (h2 : MemOk x2) :
    OutOk (execSeqFree x0 x1 x2) := by
  unfold execSeqFree
  with_reducible repeat' first
    | assumption | intro _ | apply keep_onUnit | apply keep_State_onSeq | apply keep_State_complete | apply keep_State_freeRecord | apply memOk_ite

theorem keep_execSeqFork (x0 x1 : ℕ) (x2 : State) (h2 : MemOk x2) :
    OutOk (execSeqFork x0 x1 x2) := by
  unfold execSeqFork
  repeat' first
    | with_reducible first
        | assumption | intro _ | apply keep_onUnit | apply keep_State_onSeq | apply keep_State_complete | apply keep_State_takeRecord
        | apply keep_State_updLayout | apply memOk_ite | refine memOk_eq2 (by assumption) ?_
    | dsimp only | split

theorem keep_execSeqCommit (x0 x1 : ℕ) (x2 : State) (h2 : MemOk x2) :
    OutOk (execSeqCommit x0 x1 x2) := by
  unfold execSeqCommit
  with_reducible repeat' first
    | assumption | intro _ | apply keep_onUnit | apply keep_State_onSeq | apply keep_State_complete | apply keep_State_setSeq | apply memOk_ite

theorem keep_execSeqRollback (x0 x1 : ℕ) (x2 : State) (h2 : MemOk x2) :
    OutOk (execSeqRollback x0 x1 x2) := by
  unfold execSeqRollback
  repeat' first
    | with_reducible first
        | assumption | intro _ | apply keep_onUnit | apply keep_State_onSeq | apply keep_State_rollback | apply keep_State_complete
        | apply keep_State_setSeq | refine memOk_eq3 (by assumption) ?_
    | split

theorem keep_execSeqQuery (x0 x1 : ℕ) (x2 : State) (h2 : MemOk x2) :
    OutOk (execSeqQuery x0 x1 x2) := by
  unfold execSeqQuery
  with_reducible repeat' first
    | assumption | intro _ | apply keep_onUnit | apply keep_State_onSeq | apply keep_State_complete

theorem keep_State_evictN : ∀ (x0 : ℕ) (x1 : State) (x2 : ℕ) (x3 : ℕ), (MemOk (x1)) → MemOk (State.evictN x0 x1 x2 x3) := by
  intro x0
  induction x0 with
  | zero  =>
    intro x1 x2 x3 h1
    unfold State.evictN
    repeat' first
      | with_reducible first
          | assumption | apply keep_State_updEntry | apply keep_State_complete | apply keep_State_setSeq | apply keep_State_updLayout
          | apply keep_State_storedPages | apply keep_State_storeRead | apply keep_State_entryWrite | apply keep_State_closeBatches
          | apply keep_State_updInst | apply memOk_ite | apply memOk_ite2 | refine memOk_eq3 (by assumption) ?_
      | split
  | succ n ih =>
    intro x1 x2 x3 h1
    unfold State.evictN
    repeat' first
      | with_reducible first
          | assumption | apply ih | apply keep_State_updEntry | apply keep_State_complete | apply keep_State_setSeq | apply keep_State_updLayout
          | apply keep_State_storedPages | apply keep_State_storeRead | apply keep_State_entryWrite | apply keep_State_closeBatches
          | apply keep_State_updInst | apply memOk_ite | refine memOk_eq2 (by assumption) ?_
      | dsimp only | split


theorem keep_execSeqEvict (x0 x1 : ℕ) (x2 : State) (h2 : MemOk x2) :
    OutOk (execSeqEvict x0 x1 x2) := by
  unfold execSeqEvict
  with_reducible repeat' first
    | assumption | intro _ | apply keep_onUnit | apply keep_State_onSeq | apply keep_State_complete | apply keep_State_evictN | apply memOk_ite

theorem keep_State_fetchN : ∀ (x0 : ℕ) (x1 : State) (x2 : ℕ) (x3 : ℕ), (MemOk (x1)) → MemOk (State.fetchN x0 x1 x2 x3) := by
  intro x0
  induction x0 with
  | zero  =>
    intro x1 x2 x3 h1
    unfold State.fetchN
    repeat' first
      | with_reducible first
          | assumption | apply keep_State_complete | apply keep_State_updEntry | apply keep_State_readStored | apply keep_State_promote
          | apply keep_State_setSeq | apply memOk_ite | apply memOk_ite2 | refine memOk_eq3 (by assumption) ?_
      | split
  | succ n ih =>
    intro x1 x2 x3 h1
    unfold State.fetchN
    repeat' first
      | with_reducible first
          | assumption | apply ih | apply keep_State_complete | apply keep_State_updEntry | apply keep_State_readStored | apply keep_State_promote
          | apply keep_State_setSeq | apply memOk_ite | refine memOk_eq2 (by assumption) ?_
      | dsimp only | split


theorem keep_execSeqFetch (x0 x1 : ℕ) (x2 : State) (h2 : MemOk x2) :
    OutOk (execSeqFetch x0 x1 x2) := by
  unfold execSeqFetch
  with_reducible repeat' first
    | assumption | intro _ | apply keep_onUnit | apply keep_State_onSeq | apply keep_State_fetchN

theorem keep_State_promoteRun : ∀ (x4 : List (ℕ × KvLeaf)) (x0 : State) (x1 : ℕ) (x2 : ℕ) (x3 : ℕ), (MemOk (x0)) → MemOk (State.promoteRun x0 x1 x2 x3 x4).2 := by
  intro x4
  induction x4 with
  | nil  =>
    intro x0 x1 x2 x3 h0
    unfold State.promoteRun
    repeat' first
      | with_reducible first
          | assumption | apply keep_State_readStored | apply keep_State_promote | apply keep_State_setSeq | apply memOk_ite
          | refine memOk_eq3 (by assumption) ?_
      | split
  | cons a l ih =>
    intro x0 x1 x2 x3 h0
    unfold State.promoteRun
    repeat' first
      | with_reducible first
          | assumption | apply ih | apply keep_State_readStored | apply keep_State_promote | apply keep_State_setSeq
          | refine memOk_eq2 (by assumption) ?_
      | dsimp only | split


theorem keep_State_growRun : ∀ (x3 : List ℕ) (x0 : State) (x1 : ℕ) (x2 : ℕ), (MemOk (x0)) → MemOk (State.growRun x0 x1 x2 x3).2 := by
  intro x3
  induction x3 with
  | nil  =>
    intro x0 x1 x2 h0
    unfold State.growRun
    with_reducible repeat' first
      | assumption | apply keep_State_takeSlot | apply keep_State_putSeq | apply memOk_ite | refine memOk_eq3 (by assumption) ?_
      | refine memOk_eqO2 (by assumption) ?_
  | cons a l ih =>
    intro x0 x1 x2 h0
    unfold State.growRun
    repeat' first
      | with_reducible first
          | assumption | apply ih | apply keep_State_takeSlot | apply keep_State_putSeq | refine memOk_eq2 (by assumption) ?_
          | refine memOk_eqO (by assumption) ?_
      | split


theorem keep_State_ownPage (x0 : State) (x1 x2 x3 : ℕ) (h0 : MemOk x0) :
    MemOk (State.ownPage x0 x1 x2 x3).2 := by
  unfold State.ownPage
  repeat' first
    | with_reducible first
        | assumption | apply keep_State_takeSlot | apply keep_State_copyRows | apply keep_State_zeroRows | apply keep_State_updLayout
        | apply keep_State_setSeq | apply memOk_ite2 | refine memOk_eq2 (by assumption) ?_
    | dsimp only | split

theorem keep_State_resolveRun (x0 : State) (x1 x2 : ℕ) (x3 : StepRec) (x4 : ℕ) (x5 : SeqRec) (h0 : MemOk x0) :
    MemOk (State.resolveRun x0 x1 x2 x3 x4 x5).2 := by
  unfold State.resolveRun
  repeat' first
    | with_reducible first
        | assumption | apply keep_State_rollback | apply keep_State_setSeq | apply memOk_ite2 | refine memOk_eq3 (by assumption) ?_
    | split

theorem keep_State_appendRun (x0 : State) (x1 x2 : ℕ) (x3 : StepRec) (x4 x5 : ℕ) (h0 : MemOk x0) :
    MemOk (State.appendRun x0 x1 x2 x3 x4 x5).2 := by
  unfold State.appendRun
  repeat' first
    | with_reducible first
        | assumption | apply keep_State_ownPage | apply keep_State_growRun | apply keep_State_setSeq | apply memOk_ite2
        | refine memOk_eq2 (by assumption) ?_
    | dsimp only | split

theorem keep_State_applyRun (x0 : State) (x1 x2 : ℕ) (x3 : StepRec) (h0 : MemOk x0) :
    MemOk (State.applyRun x0 x1 x2 x3).2 := by
  unfold State.applyRun
  repeat' first
    | with_reducible first
        | assumption | apply keep_State_readNodes | apply keep_State_resolveRun | apply keep_State_appendRun | apply keep_State_promoteRun
        | apply memOk_ite2 | refine memOk_eq2 (by assumption) ?_
    | split

theorem keep_State_undoRun (x0 x1 : State) (x2 : ℕ) (x3 : StepRec) (h0 : MemOk x0) (h1 : MemOk x1) :
    MemOk (State.undoRun x0 x1 x2 x3) := by
  unfold State.undoRun
  repeat' first
    | with_reducible first
        | assumption | apply keep_State_setLayout | apply memOk_mem | ((conv => arg 1; arg 25); rw [memOk_mk])
    | dsimp only | split

theorem keep_State_holdRun (x0 x1 : State) (x2 x3 : ℕ) (h0 : MemOk x0) (h1 : MemOk x1) :
    MemOk (State.holdRun x0 x1 x2 x3) := by
  unfold State.holdRun
  repeat' first
    | with_reducible first
        | assumption | apply keep_State_updEntry | apply memOk_mem | ((conv => arg 1; arg 25); rw [memOk_mk])
    | dsimp only | split

theorem keep_State_endRun (x0 : State) (x1 x2 x3 : ℕ) (x4 : StepRec) (x5 x6 : ℕ) (h0 : MemOk x0) :
    MemOk (State.endRun x0 x1 x2 x3 x4 x5 x6) := by
  unfold State.endRun
  with_reducible repeat' first
    | assumption | apply keep_State_updEntry | apply keep_State_entryWrite

theorem keep_State_runAll (rs : List (Nat × StepRec)) : ∀ s i idx, MemOk s → MemOk (State.runAll s i idx rs).2 := by
  induction rs with
  | nil =>
    intro s i idx h
    exact h
  | cons a l ih =>
    intro s i idx h
    unfold State.runAll
    have ended : ∀ t u status proms, MemOk t → MemOk u →
        MemOk (if u.recordWaits i a.2 status then (false, s.holdRun t i idx) else (u.endRun i idx a.1 a.2 status proms).runAll i idx l).2 := by
      intro t u status proms ht hu
      split
      · exact keep_State_holdRun _ _ _ _ h ht
      · exact ih _ _ _ (keep_State_endRun _ _ _ _ _ _ _ hu)
    split
    · exact keep_State_holdRun _ _ _ _ h (memOk_eq2 ‹_› (keep_State_applyRun _ _ _ _ h))
    · have ht := memOk_eq2 ‹_› (keep_State_applyRun s i idx a.2 h)
      exact ended _ _ _ _ ht (keep_State_undoRun _ _ _ _ h ht)
    · have ht := memOk_eq2 ‹_› (keep_State_applyRun s i idx a.2 h)
      exact ended _ _ _ _ ht ht

theorem keep_State_leave (x0 : State) (x1 : ℕ) (x2 : StepRec) (h0 : MemOk x0) :
    MemOk (State.leave x0 x1 x2) := by
  unfold State.leave
  repeat' first
    | with_reducible first
        | assumption | apply keep_State_freeRecord | apply keep_State_setSeq | apply memOk_ite
    | dsimp only | split

theorem keep_State_join (x0 : State) (x1 : ℕ) (x2 : StepRec) (h0 : MemOk x0) :
    MemOk (State.join x0 x1 x2) := by
  unfold State.join
  repeat' first
    | with_reducible first
        | assumption | apply keep_State_pickFree | apply keep_State_setSeq
    | dsimp only | split

theorem keep_State_readList (x0 : State) (x1 x2 : ℕ) (x3 : Entry) (h0 : MemOk x0) :
    MemOk (State.readList x0 x1 x2 x3).2 := by
  unfold State.readList
  repeat' first
    | with_reducible first
        | assumption | apply keep_State_entryRead | apply keep_State_updEntry | apply memOk_ite2 | refine memOk_eq2 (by assumption) ?_
    | split

theorem keep_State_endStep (x0 : State) (x1 x2 : ℕ) (x3 : Entry) (h0 : MemOk x0) :
    MemOk (State.endStep x0 x1 x2 x3) := by
  unfold State.endStep
  repeat' first
    | with_reducible first
        | assumption | apply keep_State_complete | apply keep_State_addWord | apply keep_State_updEntry | apply memOk_ite
        | refine memOk_eq2 (by assumption) ?_
    | split

theorem keep_State_stepOn (x0 : State) (x1 x2 x3 : ℕ) (x4 : StepList) (h0 : MemOk x0) :
    MemOk (State.stepOn x0 x1 x2 x3 x4) := by
  unfold State.stepOn
  repeat' first
    | with_reducible first
        | assumption | apply keep_State_runAll | apply keep_State_updEntry | apply keep_State_closeBatches | apply keep_State_endStep | apply memOk_ite
        | refine memOk_eq2 (by assumption) ?_
    | dsimp only | split

theorem keep_State_readRecords (x0 : State) (x1 : Nat) (x2 : List StepRec) (h0 : MemOk x0) :
    MemOk (State.readRecords x0 x1 x2).2 := by
  unfold State.readRecords
  repeat' first
    | with_reducible first
        | assumption | intro _ | apply keep_State_readKeys
        | apply memOk_ite | apply memOk_foldl | apply memOk_mem | ((conv => arg 1; arg 25); rw [memOk_mk])
        | apply memOk_ite2 | apply memOk_ite1 | apply memOk_ite3 | apply memOk_foldl2
        | refine memOk_eq2 (by assumption) ?_ | refine memOk_eq1 (by assumption) ?_ | refine memOk_eq3 (by assumption) ?_
        | refine memOk_eqO (by assumption) ?_ | refine memOk_eqO2 (by assumption) ?_
        | apply memOk_foldl3
    | dsimp only | split

theorem keep_State_boundary (x0 : State) (x1 : Nat) (x2 : Nat) (x3 : Entry) (x4 : List Byte) (h0 : MemOk x0) :
    MemOk (State.boundary x0 x1 x2 x3 x4) := by
  unfold State.boundary
  repeat' first
    | with_reducible first
        | assumption | intro _ | apply keep_State_stepOn | apply keep_State_complete | apply keep_State_readRecords | apply keep_State_leave
        | apply keep_State_join | apply keep_State_updEntry
        | apply memOk_ite | apply memOk_foldl | apply memOk_mem | ((conv => arg 1; arg 25); rw [memOk_mk])
        | refine memOk_eq2 (by assumption) ?_ | refine memOk_eq1 (by assumption) ?_ | refine memOk_eq3 (by assumption) ?_
        | refine memOk_eqO (by assumption) ?_ | refine memOk_eqO2 (by assumption) ?_
        | apply memOk_ite2 | apply memOk_ite1 | apply memOk_ite3
        | apply memOk_foldl2 | apply memOk_foldl3
    | dsimp only | split

theorem keep_execStepBoundary (x0 x1 : ℕ) (x2 : State) (h2 : MemOk x2) :
    OutOk (execStepBoundary x0 x1 x2) := by
  unfold execStepBoundary
  repeat' first
    | with_reducible first
        | assumption | apply keep_onUnit | apply keep_State_updEntry | apply keep_State_endStep | apply keep_State_readList | apply keep_State_complete
        | apply keep_State_boundary | apply memOk_ite | refine memOk_eq2 (by assumption) ?_
    | dsimp only | split

end Sys2Proof.Machine
end

