-- ==== Sys2Proof/Laws/KeepLinks.lean ====
section
/-! SUPPORT. Memory keeps its canonical form through the operations and commands of the transport, the collectives and the model store. -/

namespace Sys2Proof.Machine
open Sys2Proof

theorem keep_State_take (x0 : State) (x1 : Packet) (h0 : MemOk x0) :
    MemOk (State.take x0 x1) := by
  unfold State.take
  with_reducible repeat' first
    | assumption | apply memOk_mem | ((conv => arg 1; arg 25); rw [memOk_mk])

theorem keep_State_answer (x0 : State) (x1 : Packet) (x2 x3 : ℕ) (x4 : List Byte) (h0 : MemOk x0) :
    MemOk (State.answer x0 x1 x2 x3 x4) := by
  unfold State.answer
  with_reducible repeat' first
    | assumption | apply keep_State_route

theorem keep_State_inbound (x0 : State) (x1 : ℕ) (x2 : Packet) (x3 : State → State) (h0 : MemOk x0) (h3 : ∀ (y0 : State), MemOk y0 → MemOk (x3 y0)) :
    MemOk (State.inbound x0 x1 x2 x3) := by
  unfold State.inbound
  repeat' first
    | with_reducible first
        | assumption | apply keep_State_take | apply keep_State_answer | apply h3 | apply memOk_ite
    | split

theorem keep_State_landWrite (x0 : State) (x1 : Packet) (h0 : MemOk x0) :
    MemOk (State.landWrite x0 x1) := by
  unfold State.landWrite
  with_reducible repeat' first
    | assumption | apply keep_State_answer | apply keep_State_hbmWrite

theorem keep_State_setTracker (x0 : State) (x1 : List Batch) (h0 : MemOk x0) :
    MemOk (State.setTracker x0 x1) := by
  unfold State.setTracker
  with_reducible repeat' first
    | assumption | apply memOk_mem | ((conv => arg 1; arg 25); rw [memOk_mk])

theorem keep_State_settleBatch (x0 : State) (x1 : Batch) (h0 : MemOk x0) :
    MemOk (State.settleBatch x0 x1) := by
  unfold State.settleBatch
  repeat' first
    | with_reducible first
        | assumption | apply keep_State_landWrite | apply keep_State_setTracker | apply memOk_ite
    | dsimp only | split

theorem keep_execWrite (x0 : Packet) (x1 : State) (h1 : MemOk x1) :
    OutOk (execWrite x0 x1) := by
  unfold execWrite
  with_reducible repeat' first
    | assumption | intro _ | apply keep_State_inbound | apply keep_State_landWrite | apply keep_State_answer | apply keep_State_settleBatch
    | apply memOk_ite | apply outOk_next

theorem keep_execClose (x0 : Packet) (x1 : State) (h1 : MemOk x1) :
    OutOk (execClose x0 x1) := by
  unfold execClose
  repeat' first
    | with_reducible first
        | assumption | intro _ | apply keep_State_inbound | apply keep_State_settleBatch | apply outOk_next
    | split

theorem keep_execRead (x0 : Packet) (x1 : State) (h1 : MemOk x1) :
    OutOk (execRead x0 x1) := by
  unfold execRead
  with_reducible repeat' first
    | assumption | intro _ | apply keep_State_inbound | apply keep_State_hbmRead | apply keep_State_answer | apply outOk_next

theorem keep_execAtomic (x0 : Packet) (x1 : State) (h1 : MemOk x1) :
    OutOk (execAtomic x0 x1) := by
  unfold execAtomic
  repeat' first
    | with_reducible first
        | assumption | intro _ | apply keep_State_take | apply keep_State_inbound | apply keep_State_answer | apply keep_State_atomFar | apply memOk_ite
        | apply memOk_mem | apply outOk_next | ((conv => arg 1; arg 25); rw [memOk_mk])
    | dsimp only | split

theorem keep_execBatchEntryTimeout (x0 : ℕ) (x1 : State) (h1 : MemOk x1) :
    OutOk (execBatchEntryTimeout x0 x1) := by
  unfold execBatchEntryTimeout
  repeat' first
    | with_reducible first
        | assumption | apply keep_State_setTracker | apply keep_State_answer | apply memOk_ite | apply outOk_next
    | dsimp only | split

theorem keep_execDedupEntryExpiry (x0 x1 : ℕ) (x2 : State) (h2 : MemOk x2) :
    OutOk (execDedupEntryExpiry x0 x1 x2) := by
  unfold execDedupEntryExpiry
  with_reducible repeat' first
    | assumption | apply memOk_mem | apply outOk_next | ((conv => arg 1; arg 25); rw [memOk_mk])

theorem keep_State_endColl (x0 : State) (x1 : ℕ) (h0 : MemOk x0) :
    MemOk (State.endColl x0 x1) := by
  unfold State.endColl
  with_reducible repeat' first
    | assumption | apply keep_State_setColl | apply memOk_ite

theorem keep_State_updWaiting (x0 : State) (x1 : Outstanding) (x2 : List ℕ → List ℕ) (h0 : MemOk x0) :
    MemOk (State.updWaiting x0 x1 x2) := by
  unfold State.updWaiting
  repeat' first
    | with_reducible first
        | assumption | apply keep_State_updGroup | apply keep_State_updCore | apply keep_State_setColl | apply keep_State_updEntry | apply memOk_ite
        | apply memOk_mem | ((conv => arg 1; arg 25); rw [memOk_mk])
    | dsimp only | split

theorem keep_State_remotePoison (x0 : State) (x1 x2 x3 : ℕ) (x4 : Outstanding) (h0 : MemOk x0) :
    MemOk (State.remotePoison x0 x1 x2 x3 x4) := by
  unfold State.remotePoison
  repeat' first
    | with_reducible first
        | assumption | apply keep_State_raisePoison | apply keep_State_setGroup
    | split

theorem keep_State_acquireLate (x0 : State) (x1 x2 x3 : ℕ) (h0 : MemOk x0) :
    MemOk (State.acquireLate x0 x1 x2 x3) := by
  unfold State.acquireLate
  with_reducible repeat' first
    | assumption | apply keep_State_acquire | apply keep_State_dropStaged | apply memOk_ite

theorem keep_State_land (x0 : State) (x1 : Outstanding) (x2 : ℕ) (x3 : List PByte) (h0 : MemOk x0) :
    MemOk (State.land x0 x1 x2 x3) := by
  unfold State.land
  repeat' first
    | with_reducible first
        | assumption | apply keep_State_updWaiting | apply keep_State_remotePoison | apply keep_State_updGroup | apply keep_State_acquireLate
        | apply keep_State_remoteFailed | apply keep_State_sendRequest | apply keep_State_landStep | apply keep_State_countFor | apply keep_State_putJob
        | apply keep_State_updCore | apply keep_State_setColl | apply keep_State_updEntry | apply keep_State_drainCommits | apply keep_State_updCluster
        | apply keep_State_endColl | apply keep_State_failColl | apply keep_State_finishLaunch | apply keep_State_complete | apply memOk_ite
        | apply memOk_mem | ((conv => arg 1; arg 25); rw [memOk_mk])
    | dsimp only | split

theorem keep_State_settle (x0 : State) (x1 : Outstanding) (h0 : MemOk x0) :
    MemOk (State.settle x0 x1) := by
  unfold State.settle
  with_reducible repeat' first
    | assumption | apply memOk_mem | ((conv => arg 1; arg 25); rw [memOk_mk])

theorem keep_State_setOutst (x0 : State) (x1 : Outstanding) (x2 : Outstanding) (h0 : MemOk x0) :
    MemOk (State.setOutst x0 x1 x2) := by
  unfold State.setOutst
  with_reducible repeat' first
    | assumption | apply memOk_mem | ((conv => arg 1; arg 25); rw [memOk_mk])

theorem keep_State_endFailed (x0 : State) (x1 : Outstanding) (x2 : ℕ) (h0 : MemOk x0) :
    MemOk (State.endFailed x0 x1 x2) := by
  unfold State.endFailed
  repeat' first
    | with_reducible first
        | assumption | apply keep_State_settle | apply keep_State_land | apply keep_State_remoteFailed
    | dsimp only | split

theorem keep_State_unbound (x0 : State) (x1 : Outstanding) (h0 : MemOk x0) :
    MemOk (State.unbound x0 x1) := by
  unfold State.unbound
  repeat' first
    | with_reducible first
        | assumption | apply keep_State_settle | apply keep_State_raiseJob | apply keep_State_endFailed | apply keep_State_raise
        | apply keep_State_updGroup
    | dsimp only | split

theorem keep_State_resend (x0 : State) (x1 : Outstanding) (x2 : BitVec 32) (x3 : Bool) (h0 : MemOk x0) :
    MemOk (State.resend x0 x1 x2 x3) := by
  unfold State.resend
  repeat' first
    | with_reducible first
        | assumption | apply keep_State_unbound | apply keep_State_setOutst | apply keep_State_route
    | dsimp only | split

theorem keep_State_resendRead (x0 : State) (x1 : Outstanding) (h0 : MemOk x0) :
    MemOk (State.resendRead x0 x1) := by
  unfold State.resendRead
  with_reducible repeat' first
    | assumption | apply keep_State_updWaiting | apply keep_State_resend | apply keep_State_endFailed | apply memOk_ite | apply memOk_mem
    | ((conv => arg 1; arg 25); rw [memOk_mk])

theorem keep_State_answered (x0 : State) (x1 x2 : ℕ) (x3 : Packet) (x4 : State → Outstanding → State) (h0 : MemOk x0) (h4 : ∀ (y0 : State) (y1 : Outstanding), MemOk y0 → MemOk (x4 y0 y1)) :
    MemOk (State.answered x0 x1 x2 x3 x4) := by
  unfold State.answered
  repeat' first
    | with_reducible first
        | assumption | apply keep_State_take | apply h4 | apply memOk_ite
    | dsimp only | split

theorem keep_execWack (x0 : Packet) (x1 : State) (h1 : MemOk x1) :
    OutOk (execWack x0 x1) := by
  unfold execWack
  with_reducible repeat' first
    | assumption | intro _ | apply keep_State_answered | apply keep_State_land | apply keep_State_settle | apply outOk_next

theorem keep_execRdata (x0 : Packet) (x1 : State) (h1 : MemOk x1) :
    OutOk (execRdata x0 x1) := by
  unfold execRdata
  with_reducible repeat' first
    | assumption | intro _ | apply keep_State_answered | apply keep_State_land | apply keep_State_settle | apply outOk_next

theorem keep_execAres (x0 : Packet) (x1 : State) (h1 : MemOk x1) :
    OutOk (execAres x0 x1) := by
  unfold execAres
  with_reducible repeat' first
    | assumption | intro _ | apply keep_State_answered | apply keep_State_land | apply keep_State_settle | apply outOk_next

theorem keep_State_rejected (x0 : State) (x1 : Outstanding) (x2 : ℕ) (h0 : MemOk x0) :
    MemOk (State.rejected x0 x1 x2) := by
  unfold State.rejected
  with_reducible repeat' first
    | assumption | apply keep_State_setOutst | apply keep_State_endFailed | apply keep_State_resendRead | apply keep_State_resend | apply memOk_ite

theorem keep_execReject (x0 : Packet) (x1 : State) (h1 : MemOk x1) :
    OutOk (execReject x0 x1) := by
  unfold execReject
  repeat' first
    | with_reducible first
        | assumption | intro _ | apply keep_State_failColl | apply keep_State_take | apply keep_State_answered | apply keep_State_rejected
        | apply memOk_ite | apply outOk_next
    | dsimp only | split

theorem keep_execRequestTimeout (x0 : ℕ) (x1 : State) (h1 : MemOk x1) :
    OutOk (execRequestTimeout x0 x1) := by
  unfold execRequestTimeout
  repeat' first
    | with_reducible first
        | assumption | apply keep_State_draw | apply keep_State_endFailed | apply keep_State_resendRead | apply keep_State_resend | apply memOk_ite
        | apply outOk_next
    | dsimp only | split

theorem keep_execAtomicOutcomeUnknown (x0 : ℕ) (x1 : State) (h1 : MemOk x1) :
    OutOk (execAtomicOutcomeUnknown x0 x1) := by
  unfold execAtomicOutcomeUnknown
  repeat' first
    | with_reducible first
        | assumption | apply keep_State_endFailed | apply memOk_ite | apply outOk_next
    | split

theorem keep_execBusyResend (x0 : ℕ) (x1 : State) (h1 : MemOk x1) :
    OutOk (execBusyResend x0 x1) := by
  unfold execBusyResend
  repeat' first
    | with_reducible first
        | assumption | apply keep_State_resend | apply memOk_ite | apply outOk_next
    | split

theorem keep_State_collRead (x0 : State) (x1 x2 x3 : ℕ) (h0 : MemOk x0) :
    MemOk (State.collRead x0 x1 x2 x3).2 := by
  unfold State.collRead
  repeat' first
    | with_reducible first
        | assumption | apply keep_State_entryPage | apply keep_State_readPeer | apply keep_State_setColl | apply keep_State_devRead
        | apply keep_State_mend | apply memOk_ite2 | refine memOk_eq2 (by assumption) ?_ | refine memOk_eqO (by assumption) ?_
    | dsimp only | split

theorem keep_State_bufRead : ∀ (x0 : ℕ) (x1 : State) (x2 : ℕ) (x3 : ℕ) (x4 : ℕ), (MemOk (x1)) → MemOk (State.bufRead x0 x1 x2 x3 x4).2 := by
  intro x0
  induction x0 with
  | zero  =>
    intro x1 x2 x3 x4 h1
    unfold State.bufRead
    repeat' first
      | with_reducible first
          | assumption | apply keep_State_entryPage | apply keep_State_hbmRead | apply memOk_ite | apply memOk_mem | refine memOk_eq3 (by assumption) ?_
      | split
  | succ n ih =>
    intro x1 x2 x3 x4 h1
    unfold State.bufRead
    repeat' first
      | with_reducible first
          | assumption | apply ih | apply keep_State_entryPage | apply keep_State_hbmRead | apply memOk_ite2 | refine memOk_eq2 (by assumption) ?_
      | dsimp only | split


theorem keep_State_bufWrite : ∀ (x0 : ℕ) (x1 : State) (x2 : ℕ) (x3 : ℕ) (x4 : List Byte), (MemOk (x1)) → MemOk (State.bufWrite x0 x1 x2 x3 x4).2 := by
  intro x0
  induction x0 with
  | zero  =>
    intro x1 x2 x3 x4 h1
    unfold State.bufWrite
    repeat' first
      | with_reducible first
          | assumption | apply keep_State_entryPage | apply keep_State_hbmWrite | apply memOk_ite | apply memOk_mem
          | refine memOk_eq3 (by assumption) ?_
      | split
  | succ n ih =>
    intro x1 x2 x3 x4 h1
    unfold State.bufWrite
    repeat' first
      | with_reducible first
          | assumption | apply ih | apply keep_State_entryPage | apply keep_State_hbmWrite | apply memOk_ite2 | refine memOk_eq2 (by assumption) ?_
      | dsimp only | split


theorem keep_State_sendChunk (x0 : State) (x1 : ℕ) (x2 : CollDesc) (x3 : List Byte) (h0 : MemOk x0) :
    MemOk (State.sendChunk x0 x1 x2 x3) := by
  unfold State.sendChunk
  with_reducible repeat' first
    | assumption | intro _ | apply keep_State_route | apply keep_State_setColl | apply memOk_mem | apply memOk_foldl
    | ((conv => arg 1; arg 25); rw [memOk_mk])

theorem keep_State_trySend (x0 : State) (x1 : ℕ) (h0 : MemOk x0) :
    MemOk (State.trySend x0 x1) := by
  unfold State.trySend
  repeat' first
    | with_reducible first
        | assumption | apply keep_State_bufRead | apply keep_State_failColl | apply keep_State_setColl | apply keep_State_sendChunk | apply memOk_ite
        | refine memOk_eq2 (by assumption) ?_
    | dsimp only | split

theorem keep_State_tryEnd (x0 : State) (x1 : ℕ) (h0 : MemOk x0) :
    MemOk (State.tryEnd x0 x1) := by
  unfold State.tryEnd
  repeat' first
    | with_reducible first
        | assumption | apply keep_State_endColl | apply keep_State_addWord | apply keep_State_failColl | apply keep_State_setColl | apply memOk_ite
        | refine memOk_eq2 (by assumption) ?_
    | dsimp only | split

theorem keep_State_sendToken (x0 : State) (x1 : Nat) (x2 : CollDesc) (h0 : MemOk x0) :
    MemOk (State.sendToken x0 x1 x2) := by
  unfold State.sendToken
  repeat' first
    | with_reducible first
        | assumption | intro _ | apply keep_State_setColl | apply keep_State_route
        | apply memOk_ite | apply memOk_foldl | apply memOk_mem | ((conv => arg 1; arg 25); rw [memOk_mk])
    | dsimp only | split

theorem keep_execCollRunStart (x0 : Nat) (x1 : State) (h1 : MemOk x1) :
    OutOk (execCollRunStart x0 x1) := by
  unfold execCollRunStart
  repeat' first
    | with_reducible first
        | assumption | intro _ | apply keep_onUnit | apply keep_State_collRead | apply keep_State_setColl | apply keep_State_sendToken
        | apply keep_State_trySend
        | apply memOk_ite | apply memOk_foldl | apply memOk_mem | ((conv => arg 1; arg 25); rw [memOk_mk])
        | apply outOk_next | apply outOk_onUnit | apply outOk_ite | apply outOk_fault
        | refine memOk_eq2 (by assumption) ?_ | refine memOk_eq1 (by assumption) ?_ | refine memOk_eq3 (by assumption) ?_
        | refine memOk_eqO (by assumption) ?_ | refine memOk_eqO2 (by assumption) ?_
        | apply memOk_ite2 | apply memOk_ite1 | apply memOk_ite3
    | dsimp only | split

theorem keep_State_dropColl (x0 : State) (x1 : ℕ) (x2 : Bool) (h0 : MemOk x0) :
    MemOk (State.dropColl x0 x1 x2) := by
  unfold State.dropColl
  with_reducible repeat' first
    | assumption | apply memOk_mem | ((conv => arg 1; arg 25); rw [memOk_mk])

theorem keep_State_rejectColl (x0 : State) (x1 : Nat) (x2 : Bool) (h0 : MemOk x0) :
    MemOk (State.rejectColl x0 x1 x2) := by
  unfold State.rejectColl
  repeat' first
    | with_reducible first
        | assumption | intro _ | apply keep_State_take | apply keep_State_answer
        | apply memOk_ite | apply memOk_foldl | apply memOk_mem | ((conv => arg 1; arg 25); rw [memOk_mk])
        | apply memOk_foldl2 | apply memOk_foldl3
    | dsimp only | split

theorem keep_execReadyToken (x0 : Nat) (x1 : State) (h1 : MemOk x1) :
    OutOk (execReadyToken x0 x1) := by
  unfold execReadyToken
  repeat' first
    | with_reducible first
        | assumption | intro _ | apply keep_onUnit | apply keep_State_rejectColl | apply keep_State_dropColl | apply keep_State_setColl
        | apply keep_State_trySend | apply keep_State_tryEnd
        | apply memOk_ite | apply memOk_foldl | apply memOk_mem | ((conv => arg 1; arg 25); rw [memOk_mk])
        | apply outOk_next | apply outOk_onUnit | apply outOk_ite | apply outOk_fault
    | dsimp only | split

theorem keep_execCollChunk (x0 : Nat) (x1 : List (BitVec 8)) (x2 : State) (h2 : MemOk x2) :
    OutOk (execCollChunk x0 x1 x2) := by
  unfold execCollChunk
  repeat' first
    | with_reducible first
        | assumption | intro _ | apply keep_onUnit | apply keep_State_rejectColl | apply keep_State_dropColl | apply keep_State_bufRead
        | apply keep_State_failColl | apply keep_State_bufWrite | apply keep_State_setColl | apply keep_State_sendToken | apply keep_State_trySend
        | apply keep_State_tryEnd
        | apply memOk_ite | apply memOk_foldl | apply memOk_mem | ((conv => arg 1; arg 25); rw [memOk_mk])
        | apply outOk_next | apply outOk_onUnit | apply outOk_ite | apply outOk_fault
        | refine memOk_eq2 (by assumption) ?_ | refine memOk_eq1 (by assumption) ?_ | refine memOk_eq3 (by assumption) ?_
        | refine memOk_eqO (by assumption) ?_ | refine memOk_eqO2 (by assumption) ?_
        | apply memOk_ite2 | apply memOk_ite1 | apply memOk_ite3
    | dsimp only | split

theorem keep_execCollStepTimeout (x0 : ℕ) (x1 : State) (h1 : MemOk x1) :
    OutOk (execCollStepTimeout x0 x1) := by
  unfold execCollStepTimeout
  with_reducible repeat' first
    | assumption | apply keep_onUnit | apply keep_State_failColl | apply memOk_ite

theorem keep_State_writeCollCtrl (x0 : State) (x1 : ℕ) (x2 : BitVec 32) (h0 : MemOk x0) :
    MemOk (State.writeCollCtrl x0 x1 x2) := by
  unfold State.writeCollCtrl
  with_reducible repeat' first
    | assumption | apply keep_State_setColl | apply memOk_ite

theorem keep_execCollEnable (x0 x1 : ℕ) (x2 : BitVec 32) (x3 : State) (h3 : MemOk x3) :
    OutOk (execCollEnable x0 x1 x2 x3) := by
  unfold execCollEnable
  with_reducible repeat' first
    | assumption | apply keep_onUnit | apply keep_State_writeCollCtrl | apply memOk_ite

theorem keep_State_putWset (x0 : State) (x1 : Nat) (x2 : WSet) (h0 : MemOk x0) :
    MemOk (State.putWset x0 x1 x2) := by
  unfold State.putWset
  repeat' first
    | with_reducible first
        | assumption | intro _ | apply keep_State_setWset | apply keep_State_writeSet
        | apply memOk_ite | apply memOk_foldl | apply memOk_mem | ((conv => arg 1; arg 25); rw [memOk_mk])
    | dsimp only | split

theorem keep_State_evictSet (x0 : State) (x1 : Nat) (h0 : MemOk x0) :
    MemOk (State.evictSet x0 x1) := by
  unfold State.evictSet
  repeat' first
    | with_reducible first
        | assumption | intro _ | apply keep_State_putWset | apply keep_State_event
        | apply memOk_ite | apply memOk_foldl | apply memOk_mem | ((conv => arg 1; arg 25); rw [memOk_mk])
    | dsimp only | split

theorem keep_State_useSet (x0 : State) (x1 : Nat) (h0 : MemOk x0) :
    MemOk (State.useSet x0 x1) := by
  unfold State.useSet
  repeat' first
    | with_reducible first
        | assumption | intro _ | apply keep_State_putWset
        | apply memOk_ite | apply memOk_foldl | apply memOk_mem | ((conv => arg 1; arg 25); rw [memOk_mk])
    | dsimp only | split

theorem keep_State_onSet (x0 : State) (x1 x2 x3 : ℕ) (x4 : Entry → ℕ → WSet → State → State) (h0 : MemOk x0) (h4 : ∀ (y0 : Entry) (y1 : ℕ) (y2 : WSet) (y3 : State), MemOk y3 → MemOk (x4 y0 y1 y2 y3)) :
    MemOk (State.onSet x0 x1 x2 x3 x4) := by
  unfold State.onSet
  repeat' first
    | with_reducible first
        | assumption | apply keep_State_complete | apply keep_State_updEntry | apply h4 | apply memOk_ite
    | split

theorem keep_State_onGrant (x0 : State) (x1 x2 x3 : ℕ) (x4 : ℕ → WSet → State → State) (h0 : MemOk x0) (h4 : ∀ (y0 : ℕ) (y1 : WSet) (y2 : State), MemOk y2 → MemOk (x4 y0 y1 y2)) :
    MemOk (State.onGrant x0 x1 x2 x3 x4) := by
  unfold State.onGrant
  repeat' first
    | with_reducible first
        | assumption | apply keep_State_complete | apply keep_State_updEntry | apply h4 | apply memOk_ite
    | dsimp only | split

theorem keep_State_sourceOutside : ∀ (x0 : ℕ) (x1 : State) (x2 : ℕ) (x3 : ℕ), (MemOk (x1)) → MemOk (State.sourceOutside x0 x1 x2 x3).2 := by
  intro x0
  induction x0 with
  | zero  =>
    intro x1 x2 x3 h1
    unfold State.sourceOutside
    with_reducible repeat' first
      | assumption | apply keep_State_entryPage | apply memOk_ite | apply memOk_mem | refine memOk_eq3 (by assumption) ?_
  | succ n ih =>
    intro x1 x2 x3 h1
    unfold State.sourceOutside
    repeat' first
      | with_reducible first
          | assumption | apply ih | apply keep_State_entryPage | apply memOk_ite2 | refine memOk_eq2 (by assumption) ?_
      | split


theorem keep_execModelRegister (x0 : Nat) (x1 : Nat) (x2 : State) (h2 : MemOk x2) :
    OutOk (execModelRegister x0 x1 x2) := by
  unfold execModelRegister
  repeat' first
    | with_reducible first
        | assumption | intro _ | apply keep_onUnit | apply keep_State_onSet | apply keep_State_complete | apply keep_State_sourceOutside
        | apply keep_State_putWset
        | apply memOk_ite | apply memOk_foldl | apply memOk_mem | ((conv => arg 1; arg 25); rw [memOk_mk])
        | apply outOk_next | apply outOk_onUnit | apply outOk_ite | apply outOk_fault
        | refine memOk_eq2 (by assumption) ?_ | refine memOk_eq1 (by assumption) ?_ | refine memOk_eq3 (by assumption) ?_
        | refine memOk_eqO (by assumption) ?_ | refine memOk_eqO2 (by assumption) ?_
        | apply memOk_ite2 | apply memOk_ite1 | apply memOk_ite3
    | dsimp only | split

theorem keep_State_checkSet (x0 : State) (x1 x2 : ℕ) (x3 : WSet) (x4 : List Byte) (h0 : MemOk x0) :
    MemOk (State.checkSet x0 x1 x2 x3 x4).2 := by
  unfold State.checkSet
  repeat' first
    | with_reducible first
        | assumption | apply keep_State_entryReadFor | apply memOk_ite2 | refine memOk_eq2 (by assumption) ?_
    | dsimp only | split

theorem keep_State_failLoad (x0 : State) (x1 : Nat) (x2 : Nat) (x3 : Nat) (x4 : Nat) (h0 : MemOk x0) :
    MemOk (State.failLoad x0 x1 x2 x3 x4) := by
  unfold State.failLoad
  repeat' first
    | with_reducible first
        | assumption | intro _ | apply keep_State_putWset | apply keep_State_complete
        | apply memOk_ite | apply memOk_foldl | apply memOk_mem | ((conv => arg 1; arg 25); rw [memOk_mk])
        | apply memOk_foldl2 | apply memOk_foldl3
    | dsimp only | split

theorem keep_storeLoad (x0 : Nat) (x1 : Nat) (x2 : Nat) (x3 : WSet) (x4 : State → State) (x5 : List PByte) (x6 : Got × State) (h4 : ∀ y0, MemOk y0 → MemOk (x4 y0)) (h6 : MemOk x6.2) :
    MemOk (storeLoad x0 x1 x2 x3 x4 x5 x6) := by
  unfold storeLoad
  repeat' first
    | with_reducible first
        | assumption | intro _ | apply h4 | apply keep_State_failLoad | apply keep_State_devWrite | apply keep_State_updEntry
        | apply keep_State_putWset
        | apply memOk_ite | apply memOk_foldl | apply memOk_mem | ((conv => arg 1; arg 25); rw [memOk_mk])
        | refine memOk_eq2 (by assumption) ?_ | refine memOk_eq1 (by assumption) ?_ | refine memOk_eq3 (by assumption) ?_
        | refine memOk_eqO (by assumption) ?_ | refine memOk_eqO2 (by assumption) ?_
        | apply memOk_ite2 | apply memOk_ite1 | apply memOk_ite3
    | dsimp only | split

theorem keep_checkLoad (x0 x1 x2 : ℕ) (x3 : WSet) (x4 : State → State) (x5 : Got × State) (h4 : ∀ (y0 : State), MemOk y0 → MemOk (x4 y0)) (h5 : MemOk x5.2) :
    MemOk (checkLoad x0 x1 x2 x3 x4 x5) := by
  unfold checkLoad
  repeat' first
    | with_reducible first
        | assumption | apply keep_State_failLoad | apply keep_storeLoad | apply keep_State_checkSet | apply memOk_ite2
    | split

theorem keep_readLoad (x0 : Nat) (x1 : Nat) (x2 : Nat) (x3 : WSet) (x4 : State → State) (x5 : Got × State) (h4 : ∀ y0, MemOk y0 → MemOk (x4 y0)) (h5 : MemOk x5.2) :
    MemOk (readLoad x0 x1 x2 x3 x4 x5) := by
  unfold readLoad
  repeat' first
    | with_reducible first
        | assumption | intro _ | apply h4 | apply keep_State_failLoad | apply keep_checkLoad | apply keep_State_entryReadFor
        | apply memOk_ite | apply memOk_foldl | apply memOk_mem | ((conv => arg 1; arg 25); rw [memOk_mk])
        | refine memOk_eq2 (by assumption) ?_ | refine memOk_eq1 (by assumption) ?_ | refine memOk_eq3 (by assumption) ?_
        | refine memOk_eqO (by assumption) ?_ | refine memOk_eqO2 (by assumption) ?_
        | apply memOk_ite2 | apply memOk_ite1 | apply memOk_ite3
    | dsimp only | split

theorem keep_State_runLoad (x0 : State) (x1 : Nat) (x2 : Nat) (x3 : Nat) (x4 : State → State) (h0 : MemOk x0) (h4 : ∀ y0, MemOk y0 → MemOk (x4 y0)) :
    MemOk (State.runLoad x0 x1 x2 x3 x4) := by
  unfold State.runLoad
  repeat' first
    | with_reducible first
        | assumption | intro _ | apply h4 | apply keep_readLoad | apply keep_State_sourceOutside
        | apply memOk_ite | apply memOk_foldl | apply memOk_mem | ((conv => arg 1; arg 25); rw [memOk_mk])
    | dsimp only | split

theorem keep_State_loadSet (x0 : State) (x1 : Nat) (x2 : Nat) (x3 : Nat) (x4 : State → State) (h0 : MemOk x0) (h4 : ∀ y0, MemOk y0 → MemOk (x4 y0)) :
    MemOk (State.loadSet x0 x1 x2 x3 x4) := by
  unfold State.loadSet
  repeat' first
    | with_reducible first
        | assumption | intro _ | apply h4 | apply keep_State_runLoad | apply keep_State_complete | apply keep_State_evictSet
        | apply keep_State_draw | apply keep_State_putWset | apply keep_State_updEntry
        | apply memOk_ite | apply memOk_foldl | apply memOk_mem | ((conv => arg 1; arg 25); rw [memOk_mk])
        | refine memOk_eq2 (by assumption) ?_ | refine memOk_eq1 (by assumption) ?_ | refine memOk_eq3 (by assumption) ?_
        | refine memOk_eqO (by assumption) ?_ | refine memOk_eqO2 (by assumption) ?_
        | apply memOk_ite2 | apply memOk_ite1 | apply memOk_ite3
        | apply memOk_foldl2 | apply memOk_foldl3
    | dsimp only | split

theorem keep_execModelLoad (x0 x1 : ℕ) (x2 : State) (h2 : MemOk x2) :
    OutOk (execModelLoad x0 x1 x2) := by
  unfold execModelLoad
  with_reducible repeat' first
    | assumption | intro _ | apply keep_onUnit | apply keep_State_onSet | apply keep_State_complete | apply keep_State_loadSet | apply keep_State_useSet
    | apply memOk_ite

theorem keep_execModelEvict (x0 x1 : ℕ) (x2 : State) (h2 : MemOk x2) :
    OutOk (execModelEvict x0 x1 x2) := by
  unfold execModelEvict
  with_reducible repeat' first
    | assumption | intro _ | apply keep_onUnit | apply keep_State_onSet | apply keep_State_complete | apply keep_State_evictSet | apply memOk_ite

theorem keep_execModelPin (x0 : Nat) (x1 : Nat) (x2 : State) (h2 : MemOk x2) :
    OutOk (execModelPin x0 x1 x2) := by
  unfold execModelPin
  repeat' first
    | with_reducible first
        | assumption | intro _ | apply keep_onUnit | apply keep_State_onSet | apply keep_State_complete | apply keep_State_putWset
        | apply memOk_ite | apply memOk_foldl | apply memOk_mem | ((conv => arg 1; arg 25); rw [memOk_mk])
        | apply outOk_next | apply outOk_onUnit | apply outOk_ite | apply outOk_fault
    | dsimp only | split

theorem keep_execModelUnpin (x0 : Nat) (x1 : Nat) (x2 : State) (h2 : MemOk x2) :
    OutOk (execModelUnpin x0 x1 x2) := by
  unfold execModelUnpin
  repeat' first
    | with_reducible first
        | assumption | intro _ | apply keep_onUnit | apply keep_State_onSet | apply keep_State_complete | apply keep_State_putWset
        | apply memOk_ite | apply memOk_foldl | apply memOk_mem | ((conv => arg 1; arg 25); rw [memOk_mk])
        | apply outOk_next | apply outOk_onUnit | apply outOk_ite | apply outOk_fault
    | dsimp only | split

theorem keep_execModelAcquire (x0 : Nat) (x1 : Nat) (x2 : State) (h2 : MemOk x2) :
    OutOk (execModelAcquire x0 x1 x2) := by
  unfold execModelAcquire
  repeat' first
    | with_reducible first
        | assumption | intro _ | apply keep_onUnit | apply keep_State_onGrant | apply keep_State_complete | apply keep_State_loadSet
        | apply keep_State_putWset | apply keep_State_useSet
        | apply memOk_ite | apply memOk_foldl | apply memOk_mem | ((conv => arg 1; arg 25); rw [memOk_mk])
        | apply outOk_next | apply outOk_onUnit | apply outOk_ite | apply outOk_fault
    | dsimp only | split

theorem keep_execModelRelease (x0 : Nat) (x1 : Nat) (x2 : State) (h2 : MemOk x2) :
    OutOk (execModelRelease x0 x1 x2) := by
  unfold execModelRelease
  repeat' first
    | with_reducible first
        | assumption | intro _ | apply keep_onUnit | apply keep_State_onGrant | apply keep_State_complete | apply keep_State_putWset
        | apply memOk_ite | apply memOk_foldl | apply memOk_mem | ((conv => arg 1; arg 25); rw [memOk_mk])
        | apply outOk_next | apply outOk_onUnit | apply outOk_ite | apply outOk_fault
    | dsimp only | split

theorem keep_execModelUnregister (x0 : Nat) (x1 : Nat) (x2 : State) (h2 : MemOk x2) :
    OutOk (execModelUnregister x0 x1 x2) := by
  unfold execModelUnregister
  repeat' first
    | with_reducible first
        | assumption | intro _ | apply keep_onUnit | apply keep_State_onSet | apply keep_State_complete | apply keep_State_putWset
        | apply memOk_ite | apply memOk_foldl | apply memOk_mem | ((conv => arg 1; arg 25); rw [memOk_mk])
        | apply outOk_next | apply outOk_onUnit | apply outOk_ite | apply outOk_fault
    | dsimp only | split

theorem keep_State_updRestore (x0 : State) (x1 : ℕ) (x2 : Bool) (x3 : Restore → Restore) (h0 : MemOk x0) :
    MemOk (State.updRestore x0 x1 x2 x3) := by
  unfold State.updRestore
  with_reducible repeat' first
    | assumption | apply memOk_mem | ((conv => arg 1; arg 25); rw [memOk_mk])

theorem keep_State_endRestore (x0 : State) (x1 : ℕ) (x2 : Bool) (h0 : MemOk x0) :
    MemOk (State.endRestore x0 x1 x2) := by
  unfold State.endRestore
  with_reducible repeat' first
    | assumption | apply keep_State_settleMisses | apply memOk_mem | ((conv => arg 1; arg 25); rw [memOk_mk])

theorem keep_askBacking (x0 : ℕ) (x1 : Bool) (x2 : Restore) (x3 : Except ℕ (ℕ × ℕ) × State) (h3 : MemOk x3.2) :
    MemOk (askBacking x0 x1 x2 x3) := by
  unfold askBacking
  repeat' first
    | with_reducible first
        | assumption | apply keep_State_updRestore | apply keep_State_readPeer | apply memOk_ite
    | dsimp only | split

theorem keep_State_widenRestore (x0 : State) (x1 : Nat) (h0 : MemOk x0) :
    MemOk (State.widenRestore x0 x1) := by
  unfold State.widenRestore
  repeat' first
    | with_reducible first
        | assumption | intro _
        | apply memOk_ite | apply memOk_foldl | apply memOk_mem | ((conv => arg 1; arg 25); rw [memOk_mk])
        | refine memOk_eq2 (by assumption) ?_ | refine memOk_eq1 (by assumption) ?_ | refine memOk_eq3 (by assumption) ?_
        | refine memOk_eqO (by assumption) ?_ | refine memOk_eqO2 (by assumption) ?_
        | apply memOk_ite2 | apply memOk_ite1 | apply memOk_ite3
    | dsimp only | split

theorem keep_execRestore (x0 : BitVec 56) (x1 : Bool) (x2 : State) (h2 : MemOk x2) :
    OutOk (execRestore x0 x1 x2) := by
  unfold execRestore
  repeat' first
    | with_reducible first
        | assumption | intro _ | apply keep_State_metPoisonAt | apply keep_State_widenRestore | apply keep_askBacking | apply keep_State_entryPage
        | apply memOk_ite | apply memOk_foldl | apply memOk_mem | ((conv => arg 1; arg 25); rw [memOk_mk])
        | apply outOk_next | apply outOk_onUnit | apply outOk_ite | apply outOk_fault
        | refine memOk_eq2 (by assumption) ?_ | refine memOk_eq1 (by assumption) ?_ | refine memOk_eq3 (by assumption) ?_
        | refine memOk_eqO (by assumption) ?_ | refine memOk_eqO2 (by assumption) ?_
        | apply memOk_ite2 | apply memOk_ite1 | apply memOk_ite3
    | dsimp only | split

theorem keep_backingFrom (x0 : Restore) (x1 : Except ℕ (ℕ × ℕ) × State) (h1 : MemOk x1.2) :
    MemOk (backingFrom x0 x1).2 := by
  unfold backingFrom
  repeat' first
    | with_reducible first
        | assumption | apply keep_State_devRead | apply memOk_ite2
    | dsimp only | split

theorem keep_State_backingBytes (x0 : State) (x1 : Restore) (h0 : MemOk x0) :
    MemOk (State.backingBytes x0 x1).2 := by
  unfold State.backingBytes
  with_reducible repeat' first
    | assumption | apply keep_backingFrom | apply keep_State_entryPage | apply memOk_ite2

theorem keep_tableEntryOk (x0 : List PByte) (x1 : List Byte) (x2 : Got × State) (h2 : MemOk x2.2) :
    MemOk (tableEntryOk x0 x1 x2).2 := by
  unfold tableEntryOk
  repeat' first
    | with_reducible first
        | assumption
    | split

theorem keep_tableAt (x0 : WSet) (x1 : List PByte) (x2 : List Byte) (x3 : State) (x4 : Option ℕ) (h3 : MemOk x3) :
    MemOk (tableAt x0 x1 x2 x3 x4).2 := by
  unfold tableAt
  repeat' first
    | with_reducible first
        | assumption | apply keep_tableEntryOk | apply keep_State_entryRead
    | split

theorem keep_tableAgrees (x0 : WSet) (x1 : ℕ) (x2 : List Byte) (x3 : Got × State) (h3 : MemOk x3.2) :
    MemOk (tableAgrees x0 x1 x2 x3).2 := by
  unfold tableAgrees
  repeat' first
    | with_reducible first
        | assumption | apply keep_tableAt
    | split

theorem keep_State_restoredOk (x0 : State) (x1 : Restore) (x2 : List Byte) (h0 : MemOk x0) :
    MemOk (State.restoredOk x0 x1 x2).2 := by
  unfold State.restoredOk
  with_reducible repeat' first
    | assumption | apply keep_tableAgrees | apply keep_State_entryRead | apply memOk_ite2

theorem keep_State_retryRestore (x0 : State) (x1 : Restore) (h0 : MemOk x0) :
    MemOk (State.retryRestore x0 x1) := by
  unfold State.retryRestore
  with_reducible repeat' first
    | assumption | apply keep_State_endRestore | apply keep_State_regionFailed | apply keep_State_updRestore | apply memOk_ite

theorem keep_execRestoreDone (x0 : BitVec 56) (x1 : Bool) (x2 : State) (h2 : MemOk x2) :
    OutOk (execRestoreDone x0 x1 x2) := by
  unfold execRestoreDone
  repeat' first
    | with_reducible first
        | assumption | apply keep_State_retryRestore | apply keep_State_backingBytes | apply keep_State_restoredOk | apply keep_State_devWrite
        | apply keep_State_endRestore | apply keep_State_errRecord | apply memOk_ite | apply outOk_next | refine memOk_eq2 (by assumption) ?_
    | dsimp only | split

theorem keep_execSave (x0 x1 : ℕ) (x2 : State) (h2 : MemOk x2) :
    OutOk (execSave x0 x1 x2) := by
  unfold execSave
  repeat' first
    | with_reducible first
        | assumption | apply keep_onUnit | apply keep_State_settleControls | apply keep_State_saveLaunch | apply memOk_ite
    | dsimp only | split

end Sys2Proof.Machine
end

