-- ==== Sys2Proof/Laws/KeepRegisters.lean ====
section
/-! SUPPORT. Memory keeps its canonical form through the matrix unit, the register commands and the tick. -/

namespace Sys2Proof.Machine
open Sys2Proof

theorem keep_State_withDescs (x0 : State) (x1 x2 x3 : ℕ) (x4 : List (ℕ × ℕ)) (x5 : State) (h0 : MemOk x0) (h5 : MemOk x5) :
    MemOk (State.withDescs x0 x1 x2 x3 x4 x5) := by
  unfold State.withDescs
  repeat' first
    | with_reducible first
        | assumption | apply keep_State_raisePoison
    | split

theorem keep_State_enqueue (x0 : State) (x1 x2 : ℕ) (x3 : Group) (x4 : ℕ) (x5 : Option ℕ) (x6 : MatWork) (h0 : MemOk x0) :
    MemOk (State.enqueue x0 x1 x2 x3 x4 x5 x6) := by
  unfold State.enqueue
  with_reducible repeat' first
    | assumption | apply keep_State_advance | apply keep_State_updCore

theorem keep_execMmaAsync (x0 x1 : ℕ) (x2 x3 : BitVec 64) (x4 : State) (h4 : MemOk x4) :
    OutOk (execMmaAsync x0 x1 x2 x3 x4) := by
  unfold execMmaAsync
  repeat' first
    | with_reducible first
        | assumption | intro _ | apply keep_onGroup | apply keep_State_issue | apply keep_State_raise | apply keep_State_withDescs
        | apply keep_State_enqueue | apply memOk_ite
    | dsimp only | split

theorem keep_execMmaDrain (x0 x1 : ℕ) (x2 x3 : BitVec 64) (x4 : State) (h4 : MemOk x4) :
    OutOk (execMmaDrain x0 x1 x2 x3 x4) := by
  unfold execMmaDrain
  with_reducible repeat' first
    | assumption | intro _ | apply keep_onGroup | apply keep_State_issue | apply keep_State_raise | apply keep_State_withDescs
    | apply keep_State_enqueue | apply memOk_ite

theorem keep_execMmaStart (x0 : ℕ) (x1 : State) (h1 : MemOk x1) :
    OutOk (execMmaStart x0 x1) := by
  unfold execMmaStart
  with_reducible repeat' first
    | assumption | apply keep_onUnit | apply keep_State_updCore

theorem keep_execDrainStart (x0 : ℕ) (x1 : State) (h1 : MemOk x1) :
    OutOk (execDrainStart x0 x1) := by
  unfold execDrainStart
  with_reducible repeat' first
    | assumption | apply keep_onUnit | apply keep_State_updCore

theorem keep_State_raiseMat (x0 : State) (x1 : ℕ) (x2 : MatOp) (x3 x4 : ℕ) (h0 : MemOk x0) :
    MemOk (State.raiseMat x0 x1 x2 x3 x4) := by
  unfold State.raiseMat
  with_reducible repeat' first
    | assumption | apply keep_State_raiseJobOf

theorem keep_State_dropMat (x0 : State) (x1 : ℕ) (x2 : MatOp) (h0 : MemOk x0) :
    MemOk (State.dropMat x0 x1 x2) := by
  unfold State.dropMat
  with_reducible repeat' first
    | assumption | apply keep_State_updCore

theorem keep_execMmaComplete (x0 : ℕ) (x1 : State) (h1 : MemOk x1) :
    OutOk (execMmaComplete x0 x1) := by
  unfold execMmaComplete
  repeat' first
    | with_reducible first
        | assumption | apply keep_onUnit | apply keep_State_dropMat | apply keep_State_raiseMat | apply keep_State_updCore | apply keep_State_countOwn
        | apply memOk_ite
    | dsimp only | split

theorem keep_execDrainComplete (x0 : ℕ) (x1 : State) (h1 : MemOk x1) :
    OutOk (execDrainComplete x0 x1) := by
  unfold execDrainComplete
  repeat' first
    | with_reducible first
        | assumption | intro _ | apply keep_onUnit | apply keep_State_dropMat | apply keep_State_raiseMat | apply keep_State_lsWrite
        | apply keep_State_countOwn | apply memOk_ite | apply memOk_foldl
    | dsimp only | split

theorem keep_State_takeWide (x0 : State) (x1 : Nat) (x2 : Nat) (h0 : MemOk x0) :
    MemOk (State.takeWide x0 x1 x2).2 := by
  unfold State.takeWide
  repeat' first
    | with_reducible first
        | assumption | intro _
        | apply memOk_ite | apply memOk_foldl | apply memOk_mem | ((conv => arg 1; arg 25); rw [memOk_mk])
        | apply memOk_ite2 | apply memOk_ite1 | apply memOk_ite3 | apply memOk_foldl2
        | refine memOk_eq2 (by assumption) ?_ | refine memOk_eq1 (by assumption) ?_ | refine memOk_eq3 (by assumption) ?_
        | refine memOk_eqO (by assumption) ?_ | refine memOk_eqO2 (by assumption) ?_
    | dsimp only | split

theorem keep_State_readWord (x0 : State) (x1 : Nat) (h0 : MemOk x0) :
    MemOk (State.readWord x0 x1).2 := by
  unfold State.readWord
  repeat' first
    | with_reducible first
        | assumption | intro _ | apply keep_State_takeWide
        | apply memOk_ite | apply memOk_foldl | apply memOk_mem | ((conv => arg 1; arg 25); rw [memOk_mk])
        | apply memOk_ite2 | apply memOk_ite1 | apply memOk_ite3 | apply memOk_foldl2
        | refine memOk_eq2 (by assumption) ?_ | refine memOk_eq1 (by assumption) ?_ | refine memOk_eq3 (by assumption) ?_
        | refine memOk_eqO (by assumption) ?_ | refine memOk_eqO2 (by assumption) ?_
    | dsimp only | split

theorem keep_State_readPair (x0 : State) (x1 : Nat) (h0 : MemOk x0) :
    MemOk (State.readPair x0 x1).2 := by
  unfold State.readPair
  repeat' first
    | with_reducible first
        | assumption | intro _ | apply keep_State_takeWide
        | apply memOk_ite | apply memOk_foldl | apply memOk_mem | ((conv => arg 1; arg 25); rw [memOk_mk])
        | apply memOk_ite2 | apply memOk_ite1 | apply memOk_ite3 | apply memOk_foldl2
        | refine memOk_eq2 (by assumption) ?_ | refine memOk_eq1 (by assumption) ?_ | refine memOk_eq3 (by assumption) ?_
        | refine memOk_eqO (by assumption) ?_ | refine memOk_eqO2 (by assumption) ?_
    | dsimp only | split

theorem keep_State_readBar0 (x0 : State) (x1 : BarRead) (h0 : MemOk x0) :
    MemOk (State.readBar0 x0 x1).2 := by
  unfold State.readBar0
  repeat' first
    | with_reducible first
        | assumption | intro _ | apply keep_State_readWord | apply keep_State_readPair
        | apply memOk_ite | apply memOk_foldl | apply memOk_mem | ((conv => arg 1; arg 25); rw [memOk_mk])
        | apply memOk_ite2 | apply memOk_ite1 | apply memOk_ite3 | apply memOk_foldl2
        | refine memOk_eq2 (by assumption) ?_ | refine memOk_eq1 (by assumption) ?_ | refine memOk_eq3 (by assumption) ?_
        | refine memOk_eqO (by assumption) ?_ | refine memOk_eqO2 (by assumption) ?_
    | dsimp only | split

theorem keep_execCounterLowRead (x0 : Nat) (x1 : BarRead) (x2 : State) (h2 : MemOk x2) :
    OutOk (execCounterLowRead x0 x1 x2) := by
  unfold execCounterLowRead
  repeat' first
    | with_reducible first
        | assumption | intro _ | apply keep_State_answer | apply keep_State_send | apply keep_State_readBar0
        | apply memOk_ite | apply memOk_foldl | apply memOk_mem | ((conv => arg 1; arg 25); rw [memOk_mk])
        | apply outOk_next | apply outOk_onUnit | apply outOk_ite | apply outOk_fault
    | dsimp only | split

theorem keep_after (x0 : Out) (x1 : State) (h0 : OutOk x0) (h1 : MemOk x1) :
    MemOk (after x0 x1) := by
  unfold after
  repeat' first
    | with_reducible first
        | assumption | exact memOk_ofOut _ (by assumption)
    | split

theorem keep_State_writeRing (x0 : State) (x1 x2 x3 : ℕ) (h0 : MemOk x0) :
    MemOk (State.writeRing x0 x1 x2 x3) := by
  unfold State.writeRing
  repeat' first
    | with_reducible first
        | assumption | apply keep_State_writeRingCfg | apply keep_State_updInst | apply memOk_ite
    | dsimp only | split

theorem keep_State_writeMsix (x0 : State) (x1 x2 x3 : ℕ) (h0 : MemOk x0) :
    MemOk (State.writeMsix x0 x1 x2 x3) := by
  unfold State.writeMsix
  with_reducible repeat' first
    | assumption | apply keep_State_interrupt | apply memOk_ite | apply memOk_mem | ((conv => arg 1; arg 25); rw [memOk_mk])

theorem keep_State_writeHost (x0 : State) (x1 x2 : ℕ) (h0 : MemOk x0) :
    MemOk (State.writeHost x0 x1 x2) := by
  unfold State.writeHost
  repeat' first
    | with_reducible first
        | assumption | apply keep_State_writeRing | apply keep_State_writeMsix | apply memOk_ite | apply memOk_mem
        | ((conv => arg 1; arg 25); rw [memOk_mk])
    | split

theorem keep_State_writeDport (x0 : State) (x1 x2 : ℕ) (h0 : MemOk x0) :
    MemOk (State.writeDport x0 x1 x2) := by
  unfold State.writeDport
  repeat' first
    | with_reducible first
        | assumption | apply memOk_ite | apply memOk_mem | ((conv => arg 1; arg 25); rw [memOk_mk])
    | dsimp only | split

theorem keep_State_writeCad (x0 : State) (x1 x2 : ℕ) (h0 : MemOk x0) :
    MemOk (State.writeCad x0 x1 x2) := by
  unfold State.writeCad
  repeat' first
    | with_reducible first
        | assumption | apply keep_after | apply keep_execCadSourceChange | apply keep_execCadClr | apply memOk_ite | apply memOk_mem
        | ((conv => arg 1; arg 25); rw [memOk_mk])
    | dsimp only | split

theorem keep_State_writeFoehn (x0 : State) (x1 x2 : ℕ) (h0 : MemOk x0) :
    MemOk (State.writeFoehn x0 x1 x2) := by
  unfold State.writeFoehn
  repeat' first
    | with_reducible first
        | assumption | apply keep_after | apply keep_execFoehnClr | apply keep_State_writeSector | apply memOk_ite | apply memOk_mem
        | ((conv => arg 1; arg 25); rw [memOk_mk])
    | dsimp only | split

theorem keep_State_writeErr (x0 : State) (x1 x2 : ℕ) (h0 : MemOk x0) :
    MemOk (State.writeErr x0 x1 x2) := by
  unfold State.writeErr
  repeat' first
    | with_reducible first
        | assumption | apply keep_State_writeFctrl | apply keep_State_updCluster | apply keep_State_updSlice | apply memOk_mem
        | ((conv => arg 1; arg 25); rw [memOk_mk])
    | dsimp only | split

theorem keep_State_writeGalepol (x0 : State) (x1 : ℕ) (h0 : MemOk x0) :
    MemOk (State.writeGalepol x0 x1) := by
  unfold State.writeGalepol
  with_reducible repeat' first
    | assumption | apply keep_State_measurePers | apply memOk_ite | apply memOk_mem | ((conv => arg 1; arg 25); rw [memOk_mk])

theorem keep_State_writeSec (x0 : State) (x1 x2 : ℕ) (h0 : MemOk x0) :
    MemOk (State.writeSec x0 x1 x2) := by
  unfold State.writeSec
  repeat' first
    | with_reducible first
        | assumption | apply keep_State_writeGalepol | apply memOk_mem | ((conv => arg 1; arg 25); rw [memOk_mk])
    | dsimp only | split

theorem keep_State_writeBoot (x0 : State) (x1 x2 : ℕ) (h0 : MemOk x0) :
    MemOk (State.writeBoot x0 x1 x2) := by
  unfold State.writeBoot
  repeat' first
    | with_reducible first
        | assumption | apply keep_State_writeBootCtrl | apply keep_State_writeStage
    | split

theorem keep_State_writeBist (x0 : State) (x1 x2 : ℕ) (h0 : MemOk x0) :
    MemOk (State.writeBist x0 x1 x2) := by
  unfold State.writeBist
  repeat' first
    | with_reducible first
        | assumption | apply keep_State_writeBistCtrl | apply memOk_ite | apply memOk_mem | ((conv => arg 1; arg 25); rw [memOk_mk])
    | dsimp only | split

theorem keep_State_persDefaults (x0 : State) (h0 : MemOk x0) :
    MemOk (State.persDefaults x0) := by
  unfold State.persDefaults
  with_reducible repeat' first
    | assumption | apply keep_State_measurePers | apply memOk_mem | ((conv => arg 1; arg 25); rw [memOk_mk])

theorem keep_execPersDefaults (x0 : ℕ) (x1 : BitVec 32) (x2 : State) (h2 : MemOk x2) :
    OutOk (execPersDefaults x0 x1 x2) := by
  unfold execPersDefaults
  with_reducible repeat' first
    | assumption | apply keep_State_persDefaults | apply memOk_ite | apply outOk_next

theorem keep_State_writePers (x0 : State) (x1 x2 : ℕ) (h0 : MemOk x0) :
    MemOk (State.writePers x0 x1 x2) := by
  unfold State.writePers
  repeat' first
    | with_reducible first
        | assumption | apply keep_State_measurePers | apply keep_State_writeGalepol | apply keep_State_persDefaults | apply memOk_ite | apply memOk_mem
        | ((conv => arg 1; arg 25); rw [memOk_mk])
    | dsimp only | split

theorem keep_State_writeLlc (x0 : State) (x1 x2 : ℕ) (h0 : MemOk x0) :
    MemOk (State.writeLlc x0 x1 x2) := by
  unfold State.writeLlc
  repeat' first
    | with_reducible first
        | assumption | apply keep_after | apply keep_execLlcClr | apply keep_execLlcSel | apply keep_execNearHomeEnable | apply memOk_mem
        | ((conv => arg 1; arg 25); rw [memOk_mk])
    | dsimp only | split

theorem keep_State_writeHbm (x0 : State) (x1 x2 : ℕ) (h0 : MemOk x0) :
    MemOk (State.writeHbm x0 x1 x2) := by
  unfold State.writeHbm
  repeat' first
    | with_reducible first
        | assumption | apply keep_after | apply keep_execHbmFence | apply keep_execHbmRetire | apply keep_execHbmRetireUndoChannel
        | apply keep_execHbmRetireUndoPage | apply keep_execHbmMargin | apply keep_State_updPch | apply memOk_ite | apply memOk_mem
        | ((conv => arg 1; arg 25); rw [memOk_mk])
    | dsimp only | split

theorem keep_State_enableLink (x0 : State) (x1 : ℕ) (h0 : MemOk x0) :
    MemOk (State.enableLink x0 x1) := by
  unfold State.enableLink
  with_reducible repeat' first
    | assumption | apply keep_State_setLink | apply keep_State_linkDown | apply keep_State_sendControl | apply memOk_ite

theorem keep_State_writeAel (x0 : State) (x1 x2 : ℕ) (h0 : MemOk x0) :
    MemOk (State.writeAel x0 x1 x2) := by
  unfold State.writeAel
  repeat' first
    | with_reducible first
        | assumption | intro _ | apply keep_State_enableLink | apply keep_State_updLink | apply keep_State_writeCollCtrl | apply memOk_ite
        | apply memOk_mem | apply memOk_foldl | ((conv => arg 1; arg 25); rw [memOk_mk])
    | dsimp only | split

theorem keep_State_writeD2d (x0 : State) (x1 x2 : ℕ) (h0 : MemOk x0) :
    MemOk (State.writeD2d x0 x1 x2) := by
  unfold State.writeD2d
  repeat' first
    | with_reducible first
        | assumption | apply keep_after | apply keep_execD2dFence | apply keep_State_updBundle | apply memOk_ite
    | split

theorem keep_State_writeSeq (x0 : State) (x1 x2 : ℕ) (h0 : MemOk x0) :
    MemOk (State.writeSeq x0 x1 x2) := by
  unfold State.writeSeq
  repeat' first
    | with_reducible first
        | assumption | apply memOk_ite | apply memOk_mem | ((conv => arg 1; arg 25); rw [memOk_mk])
    | dsimp only | split

theorem keep_State_writeWord (x0 : State) (x1 x2 : ℕ) (h0 : MemOk x0) :
    MemOk (State.writeWord x0 x1 x2) := by
  unfold State.writeWord
  repeat' first
    | with_reducible first
        | assumption | apply keep_State_writeHost | apply keep_State_writeDport | apply keep_State_writeCad | apply keep_State_writeFoehn
        | apply keep_after | apply keep_execThermClr | apply keep_State_writeErr | apply keep_State_writeSec | apply keep_State_writeBoot
        | apply keep_State_writeBist | apply keep_State_writePers | apply keep_State_writeLlc | apply keep_State_writeHbm | apply keep_State_writeAel
        | apply keep_State_writeD2d | apply keep_execReelClr | apply keep_State_writeSeq | apply memOk_ite
    | dsimp only | split

theorem keep_State_writeWide (x0 : State) (x1 x2 : ℕ) (h0 : MemOk x0) :
    MemOk (State.writeWide x0 x1 x2) := by
  unfold State.writeWide
  repeat' first
    | with_reducible first
        | assumption | apply keep_State_updInst | apply keep_after | apply keep_execCadBeatPreset | apply keep_State_writeSector
        | apply keep_State_measurePers | apply keep_State_setColl | apply memOk_ite | apply memOk_mem | ((conv => arg 1; arg 25); rw [memOk_mk])
    | dsimp only | split

theorem keep_State_writeHalf (x0 : State) (x1 x2 : ℕ) (h0 : MemOk x0) :
    MemOk (State.writeHalf x0 x1 x2) := by
  unfold State.writeHalf
  repeat' first
    | with_reducible first
        | assumption | apply keep_State_writeWide | apply keep_State_writeWord
    | split

theorem keep_State_writeBar0 (x0 : State) (x1 x2 x3 : ℕ) (h0 : MemOk x0) :
    MemOk (State.writeBar0 x0 x1 x2 x3) := by
  unfold State.writeBar0
  with_reducible repeat' first
    | assumption | apply keep_State_writeHalf | apply keep_after | apply keep_execSwbeat | apply keep_State_writeWide | apply keep_State_writeWord
    | apply memOk_ite

theorem keep_State_writePage (x0 : State) (x1 x2 x3 : ℕ) (h0 : MemOk x0) :
    MemOk (State.writePage x0 x1 x2 x3) := by
  unfold State.writePage
  with_reducible repeat' first
    | assumption | apply keep_State_updInst | apply keep_State_go | apply keep_after | apply keep_execDoorbell | apply keep_execCqdb
    | apply keep_execEqdb | apply keep_execIntctl | apply memOk_ite

theorem keep_execRegisterWrite (x0 x1 x2 : ℕ) (x3 : BitVec 64) (x4 : State) (h4 : MemOk x4) :
    OutOk (execRegisterWrite x0 x1 x2 x3 x4) := by
  unfold execRegisterWrite
  with_reducible repeat' first
    | assumption | apply keep_State_writeBar0 | apply keep_State_writePage | apply memOk_ite | apply outOk_next

theorem keep_State_writeConfig (x0 : State) (x1 x2 : ℕ) (h0 : MemOk x0) :
    MemOk (State.writeConfig x0 x1 x2) := by
  unfold State.writeConfig
  repeat' first
    | with_reducible first
        | assumption | apply memOk_ite | apply memOk_mem | ((conv => arg 1; arg 25); rw [memOk_mk])
    | dsimp only | split

theorem keep_execConfigurationRequest (x0 : ℕ) (x1 : Bool) (x2 : BitVec 32) (x3 : State) (h3 : MemOk x3) :
    OutOk (execConfigurationRequest x0 x1 x2 x3) := by
  unfold execConfigurationRequest
  with_reducible repeat' first
    | assumption | apply keep_State_writeConfig | apply keep_State_draw | apply keep_State_send | apply memOk_ite | apply outOk_next

theorem keep_execVdmStatus (x0 : State) (h0 : MemOk x0) :
    OutOk (execVdmStatus x0) := by
  unfold execVdmStatus
  with_reducible repeat' first
    | assumption | intro _ | apply keep_State_vdm | apply outOk_next

theorem keep_State_pass (x0 : State) (h0 : MemOk x0) :
    MemOk (State.pass x0) := by
  unfold State.pass
  with_reducible repeat' first
    | assumption | intro _ | apply keep_State_setSectorClk | apply memOk_ite | apply memOk_mem | apply memOk_foldl
    | ((conv => arg 1; arg 25); rw [memOk_mk])

theorem keep_State_goOn (x0 : State) (h0 : MemOk x0) :
    MemOk (State.goOn x0) := by
  unfold State.goOn
  repeat' first
    | with_reducible first
        | assumption | intro _ | apply keep_State_settleControls | apply keep_State_drainPort | apply keep_State_driveSnap
        | apply keep_State_drainCommits | apply keep_State_trySend | apply keep_State_tryEnd | apply keep_State_noteReady
        | apply memOk_ite | apply memOk_foldl | apply memOk_mem | ((conv => arg 1; arg 25); rw [memOk_mk])
        | apply memOk_foldl2 | apply memOk_foldl3
    | dsimp only | split

theorem keep_State_holdWatchdogs (x0 : State) (x1 : State) (h0 : MemOk x0) (h1 : MemOk x1) :
    MemOk (State.holdWatchdogs x0 x1) := by
  unfold State.holdWatchdogs
  repeat' first
    | with_reducible first
        | assumption | intro _ | apply keep_State_updGroup
        | apply memOk_ite | apply memOk_foldl | apply memOk_mem | ((conv => arg 1; arg 25); rw [memOk_mk])
        | apply memOk_foldl2 | apply memOk_foldl3
    | dsimp only | split

theorem keep_State_tick (x0 : State) (h0 : MemOk x0) :
    MemOk (State.tick x0) := by
  unfold State.tick
  repeat' first
    | with_reducible first
        | assumption | intro _ | apply keep_State_holdWatchdogs | apply keep_State_pass | apply keep_State_takeEdges | apply keep_State_goOn
        | apply memOk_ite | apply memOk_foldl | apply memOk_mem | ((conv => arg 1; arg 25); rw [memOk_mk])
    | dsimp only | split

end Sys2Proof.Machine
end

