-- ==== Sys2Proof/Tests/Slice0.lean ====
section
/-! SUPPORT. Tests: each is one step on a small state, with the expected result worked out from the manual; and for every
statement with hypotheses a state and operands that meet them. -/

namespace Sys2Proof.Tests
open Sys2Proof Sys2Proof.Machine

/-! ## Instructions of a core -/

/-- A group of 32 threads at an address, as R42 starts it, with some registers set. -/
def grp : Group :=
  { inst := 0, idx := 1, pc := 0x1000, sregs := [(6, 40), (7, 0x200000), (8, 2), (10, 0x40)],
    vregs := (List.range 32).map (fun i => (i, BitVec.ofNat 32 i)), kregs := [(1, 0xFF)] }

/-- A state with that group in slot 0 of core 0, its launch holding 64 vector registers and a shared region of 4 KiB. -/
def st0 : State :=
  { State.reset with
    cores := [(0, { launch := some (0, 1), slots := [(0, grp)] })]
    launches := [{ inst := 0, idx := 1, v := 64, s := 4096 }] }

/-- Core 0 has fetched the line at 0x1000, which begins with some words. -/
def hold (ws : List Word) (s : State) : State :=
  s.updCore 0 (fun c => { c with code := [(0x20, ws.flatMap (fun w => leBytes 8 w.toNat) ++ leBytes (128 - 8 * ws.length) 0)] })

/-- Whether a group stands at a word that its core has fetched, as a Bool. -/
def findsB (s : State) (core slot : Nat) (w w1 : Word) (x : Group) : Bool :=
  core < 8192 && slot < 16 &&
    (match s.group core slot with
      | some x0 => s.mayIssue core x0 && x0.settle == x
      | none => false) &&
    x.phase == .running && x.active != 0 && (s.core core).fetched x w w1

theorem finds_of {s : State} {core slot : Nat} {w w1 : Word} {x : Group} (h : findsB s core slot w w1 x = true) :
    Finds s core slot w w1 x := by
  simp only [findsB, Bool.and_eq_true, decide_eq_true_eq, beq_iff_eq, bne_iff_ne] at h
  obtain ⟨⟨⟨⟨⟨h1, h2⟩, h4⟩, h5⟩, h6⟩, h8⟩ := h
  refine ⟨h1, h2, ?_, h5, h6, h8⟩
  split at h4
  · rename_i x0 hg; exact ⟨x0, hg, by simpa using h4⟩
  · simp at h4

/-- Whether it stands at a word of a row and is picked, as a Bool. -/
def meetsB (s : State) (core slot : Nat) (r : Row) (w w1 : Word) (x : Group) : Bool :=
  findsB s core slot w w1 x && rowOf w.toNat == some r && (s.setGroup core slot x).picked core slot (vectorClass r w.toNat)

theorem meets_of {s : State} {core slot : Nat} {r : Row} {w w1 : Word} {x : Group}
    (h : meetsB s core slot r w w1 x = true) : Meets s core slot r w w1 x := by
  simp only [meetsB, Bool.and_eq_true, beq_iff_eq] at h
  exact ⟨finds_of h.1.1, h.1.2, h.2⟩

/-- Whether the word is a legal one of the row, as a Bool. -/
def reachesB (s : State) (core slot : Nat) (r : Row) (w w1 : Word) (x : Group) : Bool :=
  meetsB s core slot r w w1 x && legal r (s.launchOf x).v w.toNat w1.toNat == 0

theorem reaches_of {s : State} {core slot : Nat} {r : Row} {w w1 : Word} {x : Group}
    (h : reachesB s core slot r w w1 x = true) : Reaches s core slot r w w1 x := by
  simp only [reachesB, Bool.and_eq_true, beq_iff_eq] at h
  exact ⟨meets_of h.1, h.2⟩

/-- Whether a group issues a word, as a Bool. -/
def issuesB (s : State) (core slot : Nat) (r : Row) (w w1 : Word) (x : Group) : Bool :=
  reachesB s core slot r w w1 x && !(s.atWord core slot r w x).waits core slot x r w.toNat

theorem issues_of {s : State} {core slot : Nat} {r : Row} {w w1 : Word} {x : Group}
    (h : issuesB s core slot r w w1 x = true) : Issues s core slot r w w1 x := by
  simp only [issuesB, Bool.and_eq_true, Bool.not_eq_true'] at h
  exact ⟨reaches_of h.1, h.2⟩

/-- A state one cycle of the sector clock of core 0 later. -/
def nextCycle (s : State) : State := s.updSectorClk 0 (fun k => { k with cycles := k.cycles + 1 })

/-- The next states of some commands in turn, a cycle apart. -/
def afterAll (l : List Instr) (s : State) : Option State :=
  l.foldl (fun (o : Option State) c => o.bind (fun s => match exec c s with
    | .next t => some (nextCycle t)
    | _ => none)) (some s)

theorem test_issues_nop : Issues (hold [0x0] st0) 0 0 .nop 0x0 0 grp := issues_of (by decide)
theorem test_issues_br : Issues (hold [0x10000004101] st0) 0 0 .br 0x10000004101 0 grp := issues_of (by decide)
theorem test_issues_jmp : Issues (hold [0x800002] st0) 0 0 .jmp 0x800002 0 grp := issues_of (by decide)
theorem test_issues_call : Issues (hold [0x10000000809002] st0) 0 0 .call 0x10000000809002 0 grp := issues_of (by decide)
theorem test_issues_exit : Issues (hold [0x4] st0) 0 0 .exit 0x4 0 grp := issues_of (by decide)
theorem test_issues_barGroup : Issues (hold [0x5] st0) 0 0 .barGroup 0x5 0 grp := issues_of (by decide)
theorem test_issues_waitGe : Issues (hold [0x100006] st0) 0 0 .waitGe 0x100006 0 grp := issues_of (by decide)
theorem test_issues_ctrRd : Issues (hold [0x20106006] st0) 0 0 .ctrRd 0x20106006 0 grp := issues_of (by decide)
theorem test_issues_ctrSet : Issues (hold [0x530106006] st0) 0 0 .ctrSet 0x530106006 0 grp := issues_of (by decide)
theorem test_issues_ctrAdd : Issues (hold [0x540106006] st0) 0 0 .ctrAdd 0x540106006 0 grp := issues_of (by decide)
theorem test_issues_mmaWait : Issues (hold [0x7] st0) 0 0 .mmaWait 0x7 0 grp := issues_of (by decide)
theorem test_issues_rdsr : Issues (hold [0x100006008] st0) 0 0 .rdsr 0x100006008 0 grp := issues_of (by decide)
theorem test_issues_scalarInteger : Issues (hold [0x2000080706010] st0) 0 0 .scalarInteger 0x2000080706010 0 grp := issues_of (by decide)
theorem test_issues_scalarF32 : Issues (hold [0x4000080706011] st0) 0 0 .scalarF32 0x4000080706011 0 grp := issues_of (by decide)
theorem test_issues_scalarIntegerImmediate : Issues (hold [0xffffffff00706018] st0) 0 0 .scalarIntegerImmediate 0xffffffff00706018 0 grp := issues_of (by decide)
theorem test_issues_movHi : Issues (hold [0x100006019] st0) 0 0 .movHi 0x100006019 0 grp := issues_of (by decide)
theorem test_issues_vectorInteger : Issues (hold [0x10004020] st0) 0 0 .vectorInteger 0x10004020 0 grp := issues_of (by decide)
theorem test_issues_vectorF32 : Issues (hold [0x4000010004021] st0) 0 0 .vectorF32 0x4000010004021 0 grp := issues_of (by decide)
theorem test_issues_vectorIntegerImmediate : Issues (hold [0x300004028] st0) 0 0 .vectorIntegerImmediate 0x300004028 0 grp := issues_of (by decide)
theorem test_issues_vectorF32Immediate : Issues (hold [0x3f80000000004029] st0) 0 0 .vectorF32Immediate 0x3f80000000004029 0 grp := issues_of (by decide)
theorem test_issues_cvt : Issues (hold [0x4200000004023] st0) 0 0 .cvt 0x4200000004023 0 grp := issues_of (by decide)
theorem test_issues_cmp : Issues (hold [0x20200030001030] st0) 0 0 .cmp 0x20200030001030 0 grp := issues_of (by decide)
theorem test_issues_maskLogic : Issues (hold [0x40000000102031] st0) 0 0 .maskLogic 0x40000000102031 0 grp := issues_of (by decide)
theorem test_issues_tally : Issues (hold [0x20000000006032] st0) 0 0 .tally 0x20000000006032 0 grp := issues_of (by decide)
theorem test_issues_xlane : Issues (hold [0x10a20010004033] st0) 0 0 .xlane 0x10a20010004033 0 grp := issues_of (by decide)
theorem test_issues_laneFill : Issues (hold [0x704034] st0) 0 0 .laneFill 0x704034 0 grp := issues_of (by decide)
theorem test_issues_laneGet : Issues (hold [0x10200050006034] st0) 0 0 .laneGet 0x10200050006034 0 grp := issues_of (by decide)
theorem test_issues_lanePut : Issues (hold [0x20200050704034] st0) 0 0 .lanePut 0x20200050704034 0 grp := issues_of (by decide)
theorem test_issues_fold : Issues (hold [0x30000000006034] st0) 0 0 .fold 0x30000000006034 0 grp := issues_of (by decide)
theorem test_issues_ld : Issues (hold [0x8000008000706040] st0) 0 0 .ld 0x8000008000706040 0 grp := issues_of (by decide)
theorem test_issues_st : Issues (hold [0x8000008000706041] st0) 0 0 .st 0x8000008000706041 0 grp := issues_of (by decide)
theorem test_issues_atom : Issues (hold [0x8000008080706058] st0) 0 0 .atom 0x8000008080706058 0 grp := issues_of (by decide)
theorem test_issues_fence : Issues (hold [0x400000000043] st0) 0 0 .fence 0x400000000043 0 grp := issues_of (by decide)
theorem test_issues_invL1 : Issues (hold [0x44] st0) 0 0 .invL1 0x44 0 grp := issues_of (by decide)
theorem test_issues_pin : Issues (hold [0x8000000000706045] st0) 0 0 .pin 0x8000000000706045 0 grp := issues_of (by decide)
theorem test_issues_unpin : Issues (hold [0x8000004000706045] st0) 0 0 .unpin 0x8000004000706045 0 grp := issues_of (by decide)
theorem test_issues_hintDead : Issues (hold [0x8000000000700046] st0) 0 0 .hintDead 0x8000000000700046 0 grp := issues_of (by decide)
theorem test_issues_lds : Issues (hold [0x8000008000a06047] st0) 0 0 .lds 0x8000008000a06047 0 grp := issues_of (by decide)
theorem test_issues_sts : Issues (hold [0x8000008000a06048] st0) 0 0 .sts 0x8000008000a06048 0 grp := issues_of (by decide)
theorem test_issues_wsumInit : Issues (hold [0xe000000a08050] st0) 0 0 .wsumInit 0xe000000a08050 0 grp := issues_of (by decide)
theorem test_issues_wsumAcc : Issues (hold [0x14000000008050] st0) 0 0 .wsumAcc 0x14000000008050 0 grp := issues_of (by decide)
theorem test_issues_wsumMac : Issues (hold [0x24001000008050] st0) 0 0 .wsumMac 0x24001000008050 0 grp := issues_of (by decide)
theorem test_issues_wsumAdd : Issues (hold [0x3e000001008050] st0) 0 0 .wsumAdd 0x3e000001008050 0 grp := issues_of (by decide)
theorem test_issues_wsumRed : Issues (hold [0x4e000001008050] st0) 0 0 .wsumRed 0x4e000001008050 0 grp := issues_of (by decide)
theorem test_issues_wsumCvt : Issues (hold [0x54000001004050] st0) 0 0 .wsumCvt 0x54000001004050 0 grp := issues_of (by decide)
theorem test_issues_kpop : Issues (hold [0x60000000106031] st0) 0 0 .maskLogic 0x60000000106031 0 grp := issues_of (by decide)
theorem test_issues_tally_none : Issues (hold [0x2032] st0) 0 0 .tally 0x2032 0 grp := issues_of (by decide)
theorem test_issues_tally_mask : Issues (hold [0x30000000006032] st0) 0 0 .tally 0x30000000006032 0 grp := issues_of (by decide)
theorem test_issues_tally_first : Issues (hold [0x40000000006032] st0) 0 0 .tally 0x40000000006032 0 grp := issues_of (by decide)
theorem test_issues_tally_same : Issues (hold [0x50000000002032] st0) 0 0 .tally 0x50000000002032 0 grp := issues_of (by decide)

/-- The worked example of the chapter "Instruction set": the word of ld.acq.system.u32 s7, [s3 + 64]. -/
theorem test_word_worked_example : (rowOf 0x8100440000307040, wD 0x8100440000307040, wA 0x8100440000307040,
    mORD 0x8100440000307040, mSC 0x8100440000307040, mIMM 0x8100440000307040, mS 0x8100440000307040) =
    (some Row.ld, 7, 3, 1, 2, 64, true) := by decide

/-- The value of a field of a group after one command. -/
def after {α : Type} (o : Host.Outcome State Fault Refusal) (f : Group → α) : Option α :=
  match o with
  | .next t => (t.group 0 0).map f
  | _ => none

theorem test_scalarInteger : after (exec (.scalarInteger 0 0 0x2000080706010) (hold [0x2000080706010] st0)) (fun y => (y.s 6, y.pc)) = some (0x200002, 0x1008) := by decide
theorem test_scalarIntegerImmediate : after (exec (.scalarIntegerImmediate 0 0 0xffffffff00706018) (hold [0xffffffff00706018] st0)) (fun y => y.s 6) = some 0x1FFFFF := by decide
theorem test_movHi : after (exec (.movHi 0 0 0x100006019) (hold [0x100006019] st0)) (fun y => y.s 6) = some 0x100000028 := by decide
theorem test_vectorInteger : after (exec (.vectorInteger 0 0 0x10004020) (hold [0x10004020] st0)) (fun y => (y.v 4 0, y.v 4 31)) = some (0, 31) := by decide
theorem test_vectorIntegerImmediate : after (exec (.vectorIntegerImmediate 0 0 0x300004028) (hold [0x300004028] st0)) (fun y => (y.v 4 0, y.v 4 31)) = some (3, 34) := by decide
theorem test_cvt : after (exec (.cvt 0 0 0x4200000004023) (hold [0x4200000004023] st0)) (fun y => y.v 4 3) = some 0x40400000 := by decide
theorem test_cmp : after (exec (.cmp 0 0 0x20200030001030) (hold [0x20200030001030] st0)) (fun y => y.k 1) = some 7 := by decide
theorem test_maskLogic : after (exec (.maskLogic 0 0 0x40000000102031) (hold [0x40000000102031] st0)) (fun y => y.k 2) = some 0xFFFFFF00 := by decide
theorem test_tally : after (exec (.tally 0 0 0x20000000006032) (hold [0x20000000006032] st0)) (fun y => y.s 6) = some 32 := by decide
theorem test_xlane : after (exec (.xlane 0 0 0x10a20010004033) (hold [0x10a20010004033] st0)) (fun y => (y.v 4 0, y.v 4 31)) = some (1, 0) := by decide
theorem test_laneFill : after (exec (.laneFill 0 0 0x704034) (hold [0x704034] st0)) (fun y => y.v 4 9) = some 0x200000 := by decide
theorem test_laneGet : after (exec (.laneGet 0 0 0x10200050006034) (hold [0x10200050006034] st0)) (fun y => y.s 6) = some 5 := by decide
theorem test_fold : after (exec (.fold 0 0 0x30000000006034) (hold [0x30000000006034] st0)) (fun y => y.s 6) = some 496 := by decide
theorem test_br : after (exec (.br 0 0 0x10000004101) (hold [0x10000004101] st0)) (fun y => (y.active, y.pc, y.stack.length)) = some (0xFF, 0x1020, 1) := by decide
theorem test_call : after (exec (.call 0 0 0x10000000a09002) (hold [0x10000000a09002] st0)) (fun y => (y.pc, y.s 9)) = some (0x40, 0x1008) := by decide
theorem test_jmp : after (exec (.jmp 0 0 0x800002) (hold [0x800002] st0)) (fun y => y.stopped) = some true := by decide
theorem test_waitGe : after (exec (.waitGe 0 0 0x100006) (hold [0x100006] st0)) (fun y => y.pc) = some 0x1008 := by decide

/-- An undefined opcode is an illegal instruction: the launch keeps the fault (R54, R71). -/
theorem test_illegal : (match exec (.nop 0 0 0x03) (hold [0x03] st0) with
    | .next t => (t.launch 0 1).bind (fun l => l.fault.map (fun f => f.code))
    | _ => none) = some 1 := by decide

theorem test_sts_lds : (match exec (.sts 0 0 0x8000008000a06048) (hold [0x8000008000a06048] st0) with
    | .next t => (t.lsRead 0 0x40 8).map (fun b => b.1)
    | _ => []) = [40, 0, 0, 0, 0, 0, 0, 0] := by decide

theorem test_lsCheck : st0.lsCheck 0 grp 0x8000008000a06047 = none := by decide

theorem test_faulted_watchdog : (({} : Launch).faulted { code := 4, unit := 0, beat := 0, phase := 0, pc := 0, slot := 0, lane := 0xFF }).fault.isSome = true := by
  decide


/-! ## Witnesses of the clauses about control flow and counters -/

theorem test_br_all : bN 0x4001 = false ∧ grp.k 0 &&& grp.active = grp.active ∧ Issues (hold [0x4001] st0) 0 0 .br 0x4001 0 grp :=
  ⟨by decide, by decide, issues_of (by decide)⟩

theorem test_br_none : grp.active &&& grp.k 2 = 0 ∧ Issues (hold [0x10000004201] st0) 0 0 .br 0x10000004201 0 grp := ⟨by decide, issues_of (by decide)⟩

theorem test_br_some : grp.active &&& grp.k 1 ≠ grp.active ∧ grp.active &&& grp.k 1 ≠ 0 ∧ grp.stack.length < 32 := by decide

theorem test_jmp_aligned : (grp.s 10).toNat % 8 = 0 ∧ Issues (hold [0xa00002] st0) 0 0 .jmp 0xa00002 0 grp ∧
    Issues (hold [0x10000000a09002] st0) 0 0 .call 0x10000000a09002 0 grp := ⟨by decide, issues_of (by decide), issues_of (by decide)⟩

/-- A group that has diverged: the threads of the upper lanes wait at 0x1008. -/
def grpDiv : Group :=
  { grp with active := 0xFF, stack := [{ rpc := 0x1020, saved := 0xFFFFFFFF, pendPc := 0x1008, pend := 0xFFFFFF00 }] }

/-- A state with that group. -/
def stDiv : State := { st0 with cores := [(0, { launch := some (0, 1), slots := [(0, grpDiv)] })] }

theorem test_exit_goes_on : grpDiv.exit.settle.phase = .running ∧ grpDiv.exit.settle.pc = 0x1008 ∧
    grpDiv.exit.settle.active = 0xFFFFFF00 ∧ Issues (hold [0x4] stDiv) 0 0 .exit 0x4 0 grpDiv :=
  ⟨by decide, by decide, by decide, issues_of (by decide)⟩

theorem test_bar_parked : grp.parked = 0 ∧ (grpDiv.park 5).parked = 0xFF := by decide

theorem test_wait_clauses : 0 ≤ (st0.ctr 0 0 1 - (0 + BitVec.ofNat 32 0)).toInt ∧
    (st0.ctr 0 0 1 - (0 + BitVec.ofNat 32 1)).toInt < 0 ∧ Reaches (hold [0x100100006] st0) 0 0 .waitGe 0x100100006 0 grp :=
  ⟨by decide, by decide, reaches_of (by decide)⟩

/-- A parked group whose watchdog has counted 2^24 cycles. -/
def grpPark : Group := { grp with barSince := some 0, barSaved := 16777216 }

/-- A state with that group. -/
def stPark : State := { st0 with cores := [(0, { launch := some (0, 1), slots := [(0, grpPark)] })] }

theorem test_watchdog_clause : stPark.group 0 0 = some grpPark ∧ grpPark.barSince = some 0 ∧ grpPark.stopped = false ∧
    grpPark.phase = .running ∧ (stPark.launch 0 1).map (fun l => l.wdog) = some 24 ∧
    2 ^ 24 ≤ stPark.cycles 0 - 0 + grpPark.barSaved :=
  ⟨by decide, rfl, rfl, rfl, by decide, by norm_num [grpPark]⟩

theorem test_wsumInit_window : (grp.s 10).toNat < 2 ^ 16 ∧ lowOk (sext 16 (grp.s 10).toNat) = true := by decide

theorem test_xlane_clause : (31 : Nat) < 32 ∧ (32 : Nat) ∈ [2, 4, 8, 16, 32] ∧ (3 : Nat) ≤ 3 := by decide

/-! ## Memory -/

/-- The state with a 2 MiB page of HBM at 0x200000 in the core's translation cache, readable, writable and executable. -/
def st1 : State := { st0 with tlb := [{ agent := 0, inst := 0, va := 1, log2 := 21, leaf := 0x20000F }] }

/-- Page tables of four levels that map the page at 0x200000 to HBM: node bytes at 0x1000, 0x2000, 0x3000 and 0x4000. -/
def stWalk : State :=
  { st0 with
    insts := [(0, { state := .active, ranges := [(0, 63)], root := 0x1000 })]
    mem := { hbm := [(0x1000, 1), (0x1001, 0x20), (0x2000, 1), (0x2001, 0x30), (0x3000, 1), (0x3001, 0x40), (0x4008, 0xF), (0x400A, 0x20)] } }

/-- A walk finds the leaf and leaves it and the three node entries cached (R350, R353). -/
theorem test_walk : (match (stWalk.translate 0 0 .read 0x200010).1 with
    | .ok pa leaf => pa == 0x200010 && leaf == 0x20000F
    | _ => false) = true ∧
    (stWalk.translate 0 0 .read 0x200010).2.tlb.map (fun t => (t.node, t.log2)) = [(false, 21), (true, 30), (true, 39), (true, 48)] := by decide

/-- Whether a word that is reached issues, its accesses checked without a fault and free of poison. -/
def cleanHits (s : State) (r : Row) (k : XKind) (size : Nat) (w : Word) : Bool :=
  issuesB (hold [w] s) 0 0 r w 0 grp && match ((hold [w] s).atIssue 0 0 r w grp).checkAll 0 0 k size ((memLanes grp w.toNat).map (fun l => (l, memAddr grp w.toNat l))) with
    | (.ok hits, s2) => hits.all (fun h => inHbm h.pa) && (s2.loadAll 0 0 size hits).1.all (fun v => !anyPoison v.2)
    | _ => false

theorem test_ld_clause : cleanHits st1 .ld .read 8 0x8000008000706040 && cleanHits st1 .st .write 8 0x8000008000706041 &&
    cleanHits st1 .atom .write 8 0x8000008080706058 = true := by decide

theorem test_atom_no_poison : ((hold [0x8000008080706058] st1).atIssue 0 0 .atom 0x8000008080706058 grp).metPoison 0x8000008080706058
    { lane := 0xFF, pa := 0x200000, leaf := 0x20000F } = false := by decide

theorem test_dead_clause : issuesB (hold [0x8000000000700046] st1) 0 0 .hintDead 0x8000000000700046 0 grp &&
    (match (((hold [0x8000000000700046] st1).atIssue 0 0 .hintDead 0x8000000000700046 grp).checkEach 0 0 .write
      ((memLanes grp 0x8000000000700046).map (fun l => (l, memAddr grp 0x8000000000700046 l)))).1 with
    | .ok hits => hits.length == 1
    | _ => false) = true := by decide

theorem test_pin_clause : issuesB (hold [0x8000000000706045] st1) 0 0 .pin 0x8000000000706045 0 grp && issuesB (hold [0x8000004000706045] st1) 0 0 .unpin 0x8000004000706045 0 grp &&
    (match (((hold [0x8000000000706045] st1).atIssue 0 0 .pin 0x8000000000706045 grp).checkHere 0 0 .read 0xFF (memAddr grp 0x8000000000706045 0)).1 with
    | .ok h => inHbm h.pa
    | _ => false) = true := by decide

theorem test_fetch_clause : st1.mayIssue 0 grp && (match st1.checkOne 0 0 .exec 1 0xFF (alignDown 0x200000 128) with
    | (.ok h, s2) => !s2.heldAt 0 h.pa false && !anyPoison (s2.hbmRead (s2.accOf 0 h.leaf false) h.pa 128).1
    | _ => false) = true := by decide

theorem test_lds_clause : (∀ l ∈ memLanes grp 0x8000008000a06047, anyPoison (st0.lsRead 0 (lsOffset grp 0x8000008000a06047 l) 8) = false) ∧
    st0.lsCheck 0 grp 0x8000008000a06048 = none := by decide

/-- A store and a load of the same HBM location: the load returns the stored value. -/
theorem test_st_ld : ((afterAll [.st 0 0 0x8000008000706041, .ld 0 0 0x800000800070c040] (hold [0x8000008000706041, 0x800000800070c040] st1)).bind
    (fun t => (t.group 0 0).map (fun y => (y.s 12, y.pc)))) = some (40, 0x1010) := by decide

/-- An add of 2 to the stored 40 returns 40 and leaves 42 (R87). -/
theorem test_atom_add : ((afterAll [.st 0 0 0x8000008000706041, .atom 0 0 0x800000808070c058,
    .ld 0 0 0x800000800070d040] (hold [0x8000008000706041, 0x800000808070c058, 0x800000800070d040] st1)).bind (fun t => (t.group 0 0).map (fun y => (y.s 12, y.s 13)))) =
    some (40, 42) := by decide

theorem test_pin_unpin : ((afterAll [.pin 0 0 0x8000000000706045, .unpin 0 0 0x800000400070c045] (hold [0x8000000000706045, 0x800000400070c045] st1)).bind
    (fun t => (t.group 0 0).map (fun y => (y.s 6, y.s 12)))) = some (0, 0) := by decide

theorem test_fence_waits : (st1.unacked 0 (some 0)) = 0 := by decide


/-! ## Where an instruction traps -/

theorem test_no_row : Finds (hold [0x03] st0) 0 0 0x03 0 grp ∧ rowOf (0x03 : Word).toNat = none := ⟨finds_of (by decide), by decide⟩

theorem test_refused_word : Meets (hold [0x4000080706010] st0) 0 0 .scalarInteger 0x4000080706010 0 grp ∧
    legal .scalarInteger 64 (0x4000080706010 : Word).toNat 0 ≠ 0 := ⟨meets_of (by decide), by decide⟩

/-- A group whose divergence stack is full. -/
def grpFull : Group := { grp with stack := List.replicate 32 { rpc := 0x4000, saved := 0xFFFFFFFF, pendPc := 0x2000, pend := 0 } }

theorem test_stack_full : Issues (hold [0x10000004101] { st0 with cores := [(0, { launch := some (0, 1), slots := [(0, grpFull)] })] }) 0 0 .br 0x10000004101 0 grpFull ∧
    grpFull.active &&& grpFull.k 1 ≠ grpFull.active ∧ grpFull.active &&& grpFull.k 1 ≠ 0 ∧ 32 ≤ grpFull.stack.length :=
  ⟨issues_of (by decide), by decide, by decide, by decide⟩

/-- A group some of whose threads wait at a barrier elsewhere. -/
def grpBar : Group := { grp with parked := 0xFF, barAddr := 0x2000 }

theorem test_second_barrier : Issues (hold [0x5] { st0 with cores := [(0, { launch := some (0, 1), slots := [(0, grpBar)] })] }) 0 0 .barGroup 0x5 0 grpBar ∧
    grpBar.parked ≠ 0 ∧ grpBar.barAddr ≠ grpBar.pc := ⟨issues_of (by decide), by decide, by decide⟩

theorem test_jump_misaligned : Issues (hold [0x800002] st0) 0 0 .jmp 0x800002 0 grp ∧ Issues (hold [0x10000000809002] st0) 0 0 .call 0x10000000809002 0 grp ∧
    (grp.s 8).toNat % 8 ≠ 0 := ⟨issues_of (by decide), issues_of (by decide), by decide⟩

theorem test_local_misaligned : Issues (hold [0x8010008000a06047] st0) 0 0 .lds 0x8010008000a06047 0 grp ∧ Issues (hold [0x8010008000a06048] st0) 0 0 .sts 0x8010008000a06048 0 grp ∧
    st0.lsCheck 0 grp 0x8010008000a06047 = some (8, 0xFF) ∧ lsOffset grp 0x8010008000a06047 0xFF % 8 ≠ 0 := ⟨issues_of (by decide), issues_of (by decide), by decide, by decide⟩

theorem test_local_outside : Issues (hold [0x8000008000706047] st0) 0 0 .lds 0x8000008000706047 0 grp ∧ Issues (hold [0x8000008000706048] st0) 0 0 .sts 0x8000008000706048 0 grp ∧
    st0.lsCheck 0 grp 0x8000008000706047 = some (6, 0xFF) ∧ lsOffset grp 0x8000008000706047 0xFF % 8 = 0 ∧
    lsOk { inst := 0, idx := 1, v := 64, s := 4096 } 0 (lsOffset grp 0x8000008000706047 0xFF) 8 = false :=
  ⟨issues_of (by decide), issues_of (by decide), by decide, by decide, by decide⟩

theorem test_memory_misaligned : Issues (hold [0x8010008000706040] st1) 0 0 .ld 0x8010008000706040 0 grp ∧ Issues (hold [0x8010008000706041] st1) 0 0 .st 0x8010008000706041 0 grp ∧
    Issues (hold [0x8010008080706058] st1) 0 0 .atom 0x8010008080706058 0 grp ∧ memAddr grp 0x8010008000706040 0xFF % 8 ≠ 0 :=
  ⟨issues_of (by decide), issues_of (by decide), issues_of (by decide), by decide⟩

/-- The code and lane of the fault that the check of an access finds. -/
def findsFault (s : State) (k : XKind) (w : Word) : Option (Nat × Nat) :=
  match (s.checkAll 0 0 k 8 ((memLanes grp w.toNat).map (fun l => (l, memAddr grp w.toNat l)))).1 with
  | .error e => some (e.code, e.lane)
  | .ok _ => none

theorem test_check_misaligned : findsFault ((hold [0x8010008000706040] st1).atIssue 0 0 .ld 0x8010008000706040 grp) .read 0x8010008000706040 = some (8, 0xFF) := by decide

/-- Page tables whose root entry is not valid: the walk ends in a translation fault. -/
def stNoPage : State := { st0 with insts := [(0, { state := .active, ranges := [(0, 63)], root := 0x1000 })] }

theorem test_check_no_page : Issues (hold [0x8000008000706040] stNoPage) 0 0 .ld 0x8000008000706040 0 grp ∧
    findsFault ((hold [0x8000008000706040] stNoPage).atIssue 0 0 .ld 0x8000008000706040 grp) .read 0x8000008000706040 = some (9, 0xFF) ∧
    (match (((hold [0x8000008000706040] stNoPage).atIssue 0 0 .ld 0x8000008000706040 grp).translate 0 0 .read (memAddr grp 0x8000008000706040 0xFF)).1 with
      | .bad e _ => e
      | _ => 0) = 9 := ⟨issues_of (by decide), by decide, by decide⟩

/-- The same page tables with poison in the root node. -/
def stPoisonedNode : State := { stWalk with mem := { stWalk.mem with hbmPoison := [0x100] } }

theorem test_check_poisoned_node : Issues (hold [0x8000008000706040] stPoisonedNode) 0 0 .ld 0x8000008000706040 0 grp ∧
    findsFault ((hold [0x8000008000706040] stPoisonedNode).atIssue 0 0 .ld 0x8000008000706040 grp) .read 0x8000008000706040 = some (0xC, 0xFF) :=
  ⟨issues_of (by decide), by decide⟩

/-- A load that is misaligned ends the group and leaves the launch with code 8 at lane 0xFF (R55). -/
theorem test_ld_misaligned : (match exec (.ld 0 0 0x8010008000706040) (hold [0x8010008000706040] st1) with
    | .next t => (t.launch 0 1).bind (fun l => l.fault.map (fun f => (f.code, f.lane)))
    | _ => none) = some (8, 0xFF) := by decide


/-! ## Asynchronous work -/

/-- A local store with a copy descriptor at 0x200 (4 bytes from 0x200000 to offset 0x40), a tile descriptor at 0x300 (32
rows of 32 bytes at 0x400) and an epilogue descriptor at 0x320 (32 rows of 128 bytes at 0x800). -/
def lsA : NMap Byte :=
  [(0x202, 0x20), (0x208, 0x40), (0x20C, 3), (0x301, 4), (0x304, 32), (0x308, 32), (0x30A, 32), (0x321, 8), (0x322, 0x40)]

/-- A state whose group may issue copies and matrix operations. -/
def stA : State :=
  { st1 with
    cores := [(0, { launch := some (0, 1), slots := [(0, grp)], ls := lsA })]
    launches := [{ inst := 0, idx := 1, v := 64, s := 16384 }] }

theorem test_issues_cpAsync_desc : Issues (hold [0x80, 0x100000200] stA) 0 0 .cpAsync 0x80 0x100000200 grp := issues_of (by decide)
theorem test_issues_mmaAsync_desc : Issues (hold [0x90, 0x800000c000300] stA) 0 0 .mmaAsync 0x90 0x800000c000300 grp := issues_of (by decide)
theorem test_issues_mmaDrain_desc : Issues (hold [0x91, 0x300000320] stA) 0 0 .mmaDrain 0x91 0x300000320 grp := issues_of (by decide)

theorem test_cp_clause : (let u := stA.atIssue 0 0 .cpAsync 0x80 grp; let b := u.buildJob 0 0 grp 0x80 0x100000200 grp.pc;
    lsOk (stA.launchOf grp) 0 0x200 64 && u.checkJob grp b.1 b.2 == 0 && b.1.dir != 1 && !b.1.tc && (u.core 0).staged == []) = true := by
  decide

theorem test_mma_clause : (let t := stA.tile 0 0x300; let l := stA.launchOf grp;
    matShape 0 == some (32, 32, 32) && lsOk l 0 0x300 32 && !(t.1.malformed t.2 32 32) && t.1.format == 0 && !t.1.sparse &&
      (t.1.runs 32 32).all (fun e => lsOk l 0 e.1 e.2) && accUnits false 32 32 ≤ 16384 &&
      stA.poisonIn 0 [(0x300, 32), (0x300, 32)] == none) = true := by decide

theorem test_drain_clause : (let e := stA.epi 0 0x320; let l := stA.launchOf grp;
    lsOk l 0 0x320 32 && !(e.1.malformed e.2) && e.1.runs.all (fun r => lsOk l 0 r.1 r.2) &&
      accUnits e.1.ext e.1.m e.1.n ≤ 16384 && stA.poisonIn 0 [(0x320, 32)] == none) = true := by decide

theorem test_async_issue : ((afterAll [.cpAsync 0 0 0x80 0x100000200, .mmaAsync 0 0 0x90 0x800000c000300, .mmaStart 0,
    .mmaDrain 0 0 0x91 0x300000320, .drainStart 0] (hold [0x80, 0x100000200, 0x90, 0x800000c000300, 0x91, 0x300000320] stA)).map (fun t =>
      ((t.core 0).copies.length, (t.core 0).mats.map (fun o => (o.isDrain, o.started)), (t.group 0 0).map (fun y => y.pc)))) =
    some (1, [(false, true), (true, false)], some 0x1030) := by decide

theorem test_copy_lands : ((afterAll [.cpAsync 0 0 0x80 0x100000200, .copyDataLanded 0 0 4] (hold [0x80, 0x100000200] stA)).map (fun t =>
    (t.ctr 0 0 1, (t.core 0).copies.length))) = some (4, 0) := by decide

/-- The same descriptor as a store and task-commit copy. -/
def stTc : State := { stA with cores := [(0, { launch := some (0, 1), slots := [(0, grp)], ls := NMap.ins lsA 0x212 1 })] }

theorem test_tc_clause : (let u := stTc.atIssue 0 0 .cpAsync 0x8080 grp; let b := u.buildJob 0 0 grp 0x8080 0x100000200 grp.pc;
    issuesB (hold [0x8080, 0x100000200] stTc) 0 0 .cpAsync 0x8080 0x100000200 grp && lsOk (stTc.launchOf grp) 0 0x200 64 && u.checkJob grp b.1 b.2 == 0 && b.1.tc &&
      commitBytes (grp.commits ++ [b.1]) ≤ 524288) = true := by decide

/-- A copy staged by run-ahead, whose bytes have arrived. -/
def stagedA : Staged :=
  let b := stA.buildJob 0 0 grp 0x80 0x100000200 grp.pc
  { slot := 0, key := copyKey grp b.2 0x80 0x100000200, job := b.1, landed := true, data := clean [1, 2, 3, 4] }

/-- It is claimed. -/
theorem test_claim : ((afterAll [.cpAsync 0 0 0x80 0x100000200] (hold [0x80, 0x100000200] (stA.updCore 0 (fun c => { c with staged := [stagedA] })))).map (fun t =>
    (t.ctr 0 0 1, (t.lsRead 0 0x40 4).map (fun b => b.1), (t.core 0).staged.length))) = some (4, [1, 2, 3, 4], 0) := by decide

/-- The group stands at a branch on k1 with the copy behind it, and its core has fetched both. -/
def stRa : State :=
  stA.updCore 0 (fun c => { c with code := [(0x20, leBytes 8 0x10000004101 ++ leBytes 8 0x80 ++ leBytes 8 0x100000200 ++ leBytes 104 0)] })

/-- Run-ahead past the forward branch stages the copy, and its bytes arrive (R59, R62). -/
theorem test_run_ahead : ((afterAll [.runAhead 0 0 0x10000004101 [], .runAheadStaged 0 0] stRa).map (fun t =>
    (t.core 0).staged.map (fun g => (g.landed, g.data.length)))) = some [(true, 4)] := by decide

theorem test_run_ahead_clause : (stRa.core 0).wordAt grp.pc = some 0x10000004101 ∧ stRa.coreUp 0 = true ∧
    stRa.acquiring 0 0 = false ∧ grp.settle = grp ∧ (stRa.launchOf grp).rad = false := by decide

/-! ## The Reel -/

/-- A state with a placed launch of four tasks in the queue of cluster 0, and core 0 free. -/
def stR : State :=
  { State.reset with
    clusters := [(0, { owner := some 0, queue := [{ inst := 0, idx := 1, lo := 0, hi := 4, requeued := false }] }),
      (1, { owner := some 0, chosen := [(0, 1, 0)] })]
    launches := [{ inst := 0, idx := 1, entry := 0x1000, args := 0x2000, gx := 2, gy := 2, gz := 1, v := 64, clusters := [0, 1], placed := true }] }

theorem test_taskTake_clause : stR.coreUp 0 = true ∧ stR.draining 0 = false ∧ stR.launchFor 0 = some (0, 1) ∧
    (stR.launch 0 1).map (fun l => (l.fault.isNone, l.saved, l.saveBy.isNone, groupsPerCore l)) = some (true, false, true, 16) ∧
    (takeFrom (stR.cluster 0).queue 0 1).map (fun e => (e.lo, e.hi)) = some (0, 4) := by decide

theorem test_taskTake : ((afterAll [.taskTake 0, .taskTake 0] stR).map (fun t =>
    ((t.group 0 1).map (fun y => (y.s 0, y.s 1, y.s 4, y.v 0 31)), (t.cluster 0).queue.map (fun e => (e.lo, e.hi))))) =
    some (some (1, 0, 0x10000, 31), [(2, 4)]) := by decide

theorem test_steal_clause : (0, 1, 0) ∈ (stR.cluster 1).chosen ∧
    (stR.cluster 0).queue.find? (fun q => q.inst = 0 && q.idx = 1 && q.requeued) = none ∧
    ((stR.cluster 0).queue.find? (fun q => q.inst = 0 && q.idx = 1 && q.hi - q.lo ≥ 2)).map (fun e => e.hi) = some 4 := by decide

theorem test_steal : ((afterAll [.stealRequest 1 0 0 1] stR).map (fun t =>
    ((t.cluster 0).queue.map (fun e => (e.lo, e.hi)), (t.cluster 1).queue.map (fun e => (e.lo, e.hi))))) =
    some ([(0, 2)], [(2, 4)]) := by decide

theorem test_stealChoose_clause : ((stR.launch 0 1).map (fun l => (stR.idleFor 1 l, stR.chooseVictim l 1))) = some (true, some 0) := by
  decide

/-- A state with a fetched LAUNCH entry that has registered. -/
def stL : State :=
  { State.reset with
    insts := [(0, { state := .active, ways := 0xFFFF, entries := [{ index := 1, bytes := [], held := false, free := true, started := true }] })]
    clusters := [(0, { owner := some 0 })]
    launches := [{ inst := 0, idx := 1, gx := 2, gy := 2, gz := 1, v := 64, clusters := [0] }] }

theorem test_launchReady_clause : (match stL.launch 0 1, stL.entry 0 1 with
    | some l, some e => !e.held && !l.placed && l.fault.isNone && stL.depsMet 0 1 l.deps l.dfail == some true && !l.dctr &&
        stL.placeable l && groupsPerCore l != 0 && l.clusters.filter (fun n => (coresOf n).any stL.coreUp) != []
    | _, _ => false) = true := by decide

theorem test_launchReady : ((afterAll [.launchReady 0 1] stL).map (fun t => (t.cluster 0).queue.map (fun e => (e.lo, e.hi)))) =
    some [(0, 4)] := by decide

theorem test_notFit_clause : groupsPerCore { v := 64, s := 1048576 } = 0 := by decide

theorem test_complete_clause : (let l : Launch := { inst := 0, idx := 1, gx := 1, gy := 1, gz := 1, placed := true, committed := 1 };
    decide (l.placed = true ∧ l.fault = none ∧ l.added = false ∧ l.tasks ≤ l.committed ∧ l.caddr = 0)) = true := by decide

/-- A killed launch. -/
def stK : State :=
  { stL with launches := [{ inst := 0, idx := 1, fault := some { code := 1, unit := 0x10000000, beat := 0, phase := 0, pc := 0, slot := 0, lane := 0xFF } }] }

theorem test_kill : ((afterAll [.contextKill 0 1] stK).map (fun t => (t.launches.length, (t.inst 0).entries.length,
    (t.inst 0).launchLog.length))) = some (0, 0, 0) := by decide

/-- A group that has ended with nothing to commit. -/
def stE : State :=
  { stR with
    cores := [(0, { launch := some (0, 1), slots := [(0, { inst := 0, idx := 1, exited := 0xFFFFFFFF, active := 0, phase := .ended })] })]
    clusters := [(0, { owner := some 0, commitWait := [(0, 0, 0)] })] }

theorem test_commitPoint_clause : (stE.group 0 0).map (fun x => (x.phase == .ended, x.commits.length, x.stopped, (stE.launchOf x).fault.isNone)) =
    some (true, 0, false, true) := by decide

theorem test_commitPoint : ((afterAll [.commitPoint 0 0] stE).map (fun t =>
    ((t.group 0 0).isSome, (t.launch 0 1).map (fun l => l.committed)))) = some (false, some 1) := by decide

theorem test_reservation_clause : (stE.cluster 0).commitWait = (0, 0, 0) :: [] ∧
    ((stE.cluster 0).commitBuf.map (fun r => r.bytes)).sum + commitBytes [] ≤ 524288 ∧
    (commitJobs 0 stE []).2.2.2 = true := by decide

theorem test_drain_unit : coreUnitOk (coreUnit 0) = true ∧ coreUnitOk (clusterUnit 127) = true ∧ coreUnitOk (sectorUnit 63) = true ∧
    coreUnitOk 0x90000000 = false := by decide

theorem test_tmax_clause : ((afterAll [.drain (coreUnit 0)] stE).map (fun t =>
    (t.drains.find? (fun d => d.unit = coreUnit 0 && d.begun && !d.acted)).isSome)) = some true ∧
    (stE.launches.all (fun l => !l.pinned)) = true := by decide

/-- The module running: BAR0 answers. -/
def stOpen : State := { State.reset with host := { ready := true, step := 7 } }

theorem test_reelClr_clause : stOpen.regOpen 0 = true := by decide


/-! ## Homes, the LLC and HBM -/

/-- Whether a command answers a next state with a property. -/
def runs (o : Host.Outcome State Fault Refusal) (p : State → Bool) : Bool :=
  match o with
  | .next t => p t
  | _ => false

/-- The home slice of line 0. -/
def hs0 : Nat := State.reset.homeSlice 0

/-- A running module whose LLC holds line 0 whole. -/
def stH : State :=
  { stOpen with slices := [(hs0, { lines := [{ a := 0, valid := 15, dirty := 0, dead := 0, pinned := false, d := {}, way := 0 }] })] }

theorem test_home_no_hbm (b : Option Nat) (j : Nat) (g : Bool) (h : j < 4) :
    stH.needsHbm (stH.homeSlice (128 * lineOf 0)) (lineOf 0) j b g = false := by
  have h4 : j = 0 ∨ j = 1 ∨ j = 2 ∨ j = 3 := by omega
  rcases h4 with h | h | h | h <;> subst h <;> cases b <;> cases g <;> rfl

theorem test_home_no_poison (b : Option Nat) (j : Nat) (g : Bool) (h : j < 4) :
    (stH.homeSector { getsec := g } (stH.homeSlice (128 * lineOf 0)) (lineOf 0) j b).1.poison = 0 := by
  have h4 : j = 0 ∨ j = 1 ∨ j = 2 ∨ j = 3 := by omega
  rcases h4 with h | h | h | h <;> subst h <;> cases b <;> cases g <;> rfl

theorem test_home_clause : inHbm (128 * lineOf 0) = true ∧ (stH.slice (stH.homeSlice (128 * lineOf 0))).miss = [] ∧ (stH.cluster 3).misses = [] ∧
    stH.lineBlocked (lineOf 0) = false ∧ stH.l2line 3 (lineOf 0) = none ∧ stH.wbline 3 (lineOf 0) = none ∧
    stH.dirEntry (stH.homeSlice (128 * lineOf 0)) (lineOf 0) = none ∧ stH.holdsME 3 (lineOf 0) = false ∧ atomWell 0 0 3 = true := by decide

theorem test_gets : runs (exec (.gets 3 0 0 5) stH) (fun t => (t.l2line 3 0).map (fun l => (l.st, l.valid)) == some (.E, 5) &&
    runs (exec (.getsec 3 0 0 2) t) (fun u => (u.l2line 3 0).map (fun l => (l.st, l.valid)) == some (.E, 7)) &&
    runs (exec (.gets 4 0 0 1) t) (fun u => (u.l2line 3 0).map (fun l => l.st) == some .S && (u.l2line 4 0).map (fun l => l.st) == some .S)) = true := by
  decide

theorem test_getm : runs (exec (.getm 3 0 0 1) stH) (fun t => (t.l2line 3 0).map (fun l => l.st) == some .M && t.holdsME 3 0) = true := by decide

/-- A line with a miss register whose list is full, and a request that has been refused. -/
def stM : State :=
  { stOpen with slices := [(hs0, {
      miss := [{ a := 0, asked := 15, need := 15, waiters := List.replicate 64 (.upg 1 0 0) }, { a := 1, asked := 1, need := 1, waiters := [] }]
      refused := [{ id := 7, request := .upg 2 0 0, tries := 1, since := 0 }] })] }

theorem test_miss_clause : (homeReq (.gets 3 0 0 1)).map (fun r => (r.a, stM.homeSlice (128 * r.a) == hs0)) = some (0, true) ∧
    ((stM.slice hs0).miss.find? (fun m => m.a = 0)).map (fun m => m.waiters.length) = some 64 ∧
    ((stM.slice (stM.homeSlice 128)).miss.find? (fun m => m.a = 2)).isNone = true ∧
    ((stM.slice hs0).refused.find? (fun q => q.id = 7)).map (fun q => q.since) = some 0 ∧
    stM.clock.now < 43 ∧ ({ stM with clock := { now := 43 } } : State).clock.now = 43 := by decide

/-- A line of a near-home range that is being flushed waits; with 124 registers taken a new request is refused. -/
def stB (n : Nat) : State :=
  { stOpen with
    llc := { nh := [(0, { base := 0, limit := 1, busy := true, flushing := [(0, 1)] })] }
    slices := [(hs0, { miss := List.replicate n { a := 5, asked := 0, need := 1, waiters := [] } })] }

/-- A cluster whose miss registers are all taken. -/
def stFull : State := { stOpen with clusters := [(3, { misses := List.replicate 256 (.upg 3 128 0) })] }

set_option maxRecDepth 4000 in
theorem test_full_clause : (stFull.cluster 3).misses.length = 256 ∧ inHbm (128 * lineOf 0) = true := by decide

set_option maxRecDepth 4000 in
theorem test_blocked_clause : (stB 123).lineBlocked 0 = true ∧ ((stB 123).slice ((stB 123).homeSlice 0)).miss.length = 123 ∧
    ((stB 124).slice ((stB 124).homeSlice 0)).miss.length = 124 := by decide

/-- A line of HBM that its home does not hold has to be read. -/
theorem test_needs_clause : stOpen.needsHbm (stOpen.homeSlice 0) 0 1 none false = true ∧ stOpen.lineBlocked 0 = false := by decide

theorem test_l2_clause : (match exec (.getm 3 0 0 1) stH with
    | .next t => (t.ownerLine 3 0).isSome && runs (exec (.invalidation 3 0) t) (fun u => u.out == [.invAck 3 0] && u.holdsME 3 0)
    | _ => false) = true := by decide

/-- Near-home ranges: one enabled, one that overlaps it, one being flushed, and one beside them. -/
def stNh : State :=
  { stOpen with llc := { nh := [(0, { base := 0, limit := 9, en := true, live := some (0, 9, 0) }), (1, { base := 9, limit := 12 }),
      (2, { busy := true, flushing := [(20, 21)] }), (3, { base := 10, limit := 12 })] } }

theorem test_near_clause : (NMap.at stNh.llc.nh 1 {}).live = none ∧ (∃ e ∈ stNh.llc.nh, e.1 ≠ 1 ∧ e.2.live = some (0, 9, 0)) ∧
    (∀ e ∈ stNh.llc.nh, e.1 ≠ 3 → e.2.live = none ∨ e.2.live = some (0, 9, 0)) ∧
    (NMap.at stNh.llc.nh 2 {}).busy = true ∧ (0x100 : BitVec 32).getLsbD 8 = true ∧ stNh.regOpen 0 = true := by decide

theorem test_near_runs : runs (exec (.nearHomeEnable 0 1 0x102) stNh) (fun t => (NMap.at t.llc.nh 1 {}).refused && !(NMap.at t.llc.nh 1 {}).en) = true ∧
    runs (exec (.nearHomeEnable 0 3 0x102) stNh) (fun t => (NMap.at t.llc.nh 3 {}).live == some (10, 12, 2)) = true ∧
    runs (exec (.nearHomeEnable 0 0 0) stNh) (fun t => (NMap.at t.llc.nh 0 {}).flushing == [(0, 9)]) = true ∧
    runs (exec (.nearHomeEnable 0 0 0x101) stNh) (fun t => (NMap.at t.llc.nh 0 {}).flushing == [(0, 9), (0, 9)]) = true ∧
    runs (exec (.nearHomeEnable 0 0 0x100) stNh) (fun t => !(NMap.at t.llc.nh 0 {}).busy) = true := by decide

theorem test_llc_runs : runs (exec (.nearHomeFlushDone 2) stNh) (fun t => !(NMap.at t.llc.nh 2 {}).busy) = true ∧
    runs (exec (.llcSel 0 264) stNh) (fun t => t.llc.view == 264) = true ∧ runs (exec (.llcSel 0 265) stNh) (fun t => t == stNh) = true := by decide

theorem test_slice_clause : (stOpen.slice 5).fenced = false ∧ stOpen.lastSlice 5 = false ∧
    ({ stOpen with slices := (List.range 63).map (fun n => (n, { fenced := true })) } : State).lastSlice 63 = true := by decide

/-- A pseudo-channel in service with a critical request, one read in flight. -/
def stP : State :=
  { stOpen with hbm := {
      pch := [(0, { state := 0, crit := [{ id := 4, slice := hs0, a := 0, sec := 1, bypassed := 0, since := 0 }], flight := [{ id := 3, slice := hs0, a := 0, sec := 0, bypassed := 0, since := 0 }] }),
              (1, { state := 0 }), (2, { state := 0 })]
      recal := [(3, 3)]
      pages := [7]
      chans := [9] } }

theorem test_burst_clause : (stP.pch 0).state = 0 ∧ (0, 0) ∉ stP.hbm.recal ∧ ((stP.pch 0).nextCrit).map (fun q => q.id) = some 4 ∧
    (64 * 3 + 6) / 64 = 3 ∧ ((64 * 3 + 6) % 64 / 2) = 3 ∧ ((stP.pch 0).flight.find? (fun q => q.id = 3)).isSome = true ∧
    (stP.pch (pchOf 0)).state = 0 := by decide

set_option maxRecDepth 20000 in
theorem test_burst : runs (exec (.hbmBurstSlot 0) stP) (fun t => (t.pch 0).flight.map (fun q => q.id) == [3, 4] && (t.pch 0).crit == []) = true ∧
    runs (exec (.hbmReadData 0 3 0 0) stP) (fun t => (t.pch 0).flight == []) = true := by decide

/-- A module with a cadence source at the edge of beat 20. -/
def stRc : State := { stP with cad := { src := 1, beat := 20 }, hbm := { stP.hbm with recalBeat := [(0, 12)] } }

theorem test_recal_clause : (∀ w ∈ stRc.hbm.recal, w.1 ≠ 0) ∧ stRc.cad.src ≠ 0 ∧ stRc.cad.lost = false ∧ stRc.cad.phase = 0 ∧
    NMap.find stRc.hbm.recalBeat 0 = some 12 ∧ (∀ j, j < 2 → ∀ q ∈ (stRc.pch (64 * 0 + 2 * 0 + j)).crit, stRc.clock.now ≤ q.since + 400) := by
  decide

theorem test_recal : runs (exec (.recalibrationWindow 0 0) stRc) (fun t => t.hbm.recal == [(0, 0), (3, 3)] &&
    runs (exec (.recalibrationWindowEnd 0 0) t) (fun u => u.hbm.recal == [(3, 3)])) = true := by decide

/-- The same module in bring-up mode. -/
def stBu : State := { stP with boot := { mode := 2 } }

set_option maxRecDepth 20000 in
theorem test_retire_clause : (stP.pch 2).state ≠ 1 ∧ stP.bringup = false ∧ stBu.bringup = true ∧ stP.holder 7 = none ∧ 7 ∈ stBu.hbm.pages ∧
    9 ∈ stBu.hbm.chans ∧ ({ stP with insts := [(0, { state := .active, ranges := [(0, 3)] })] } : State).holder 2 ≠ none ∧
    ({ stP with hbm := { pages := List.replicate 4096 0 } } : State).hbm.pages.length = 4096 ∧
    (∀ e ∈ stBu.insts, e.2.pagesInSet 0 = 0) ∧ stBu.hbm.mgo = false ∧ stBu.regOpen 0 = true ∧
    ({ stBu with hbm := { mgo := true } } : State).hbm.mgo = true := by decide

theorem test_retire : runs (exec (.hbmRetire 0 0x80000008) stP) (fun t => t.hbm.pages.contains 8 && t.hbm.result == 0) = true ∧
    runs (exec (.hbmRetireUndoPage 0 0xC0000007) stBu) (fun t => t.hbm.pages == []) = true ∧
    runs (exec (.hbmRetireUndoChannel 0 0xE0000009) stBu) (fun t => t.hbm.chans == []) = true ∧
    runs (exec (.hbmRetireUndoChannel 0 0xE0000009) stP) (fun t => t.hbm.result == 3) = true := by decide

theorem test_pch_fence : runs (exec (.pseudoChannelFence 2) stP) (fun t => (t.pch 2).state == 1 && t.hbm.chans.contains 2) = true ∧
    runs (exec (.hbmFence 0 0x80000002) stP) (fun t => (t.pch 2).state == 1) = true := by decide

theorem test_margin : runs (exec (.hbmMargin 0 0x80000001) stBu) (fun t => t.hbm.mgo && (t.pch 1).state != 0) = true ∧
    runs (exec (.hbmMargin 0 0x80000001) stP) (fun t => t.hbm.mrefused && !t.hbm.mgo) = true := by decide

theorem test_temperature_clause : stP.hotStack 15 = false ∧ 95 * 256 < (0x5F01 : BitVec 16).toInt ∧
    ({ stP with hbm := { temp := [(15, 0x6000)] } } : State).hotStack 15 = true := by decide

theorem test_temperature : runs (exec (.hbmTemperatureRead 15 0x5F00) stP) (fun t => NMap.at t.hbm.temp 15 0 == 0x5F00) = true ∧
    (0x5F00 : BitVec 16).toInt = 95 * 256 := by decide


/-! ## Ring entries, the sequence store and the hot set -/

/-- The 128 bytes of an entry from the bytes that are not 0. -/
def eb (m : List (Nat × Byte)) : List Byte := NMap.bytes 0 m 0 128

/-- A layout of eight slots with slot 3 held and slot 2 waiting to be zeroed (its page sets are empty), and a sequence of it. -/
def lay : Layout := { lg := 0, tb := 128, pool := 0x100000, nslot := 8, refs := [(3, 1)], zeroing := [2] }
/-- A sequence without pages. -/
def sq6 : SeqRec := { layout := 1, cl := 10, tc := 2, pages := [], slot := none }

/-- A sequence of one page. -/
def sq5 : SeqRec := { layout := 1, cl := 10, tc := 2, pages := [(0, { tier := 1, addr := 3, evn := 0 })], slot := none }

/-- A running module whose instance 0 has one entry, that layout and that sequence; set 2 is resident, 3 registered, 4 resident
without references. -/
def stQ (m : List (Nat × Byte)) (applied : Bool := false) : State :=
  { stOpen with
    insts := [(0, { state := .active, ways := 0xFFFF, recq := 8, batchq := 4, layouts := [(1, lay)], records := [(5, sq5), (6, sq6)], entries := [{ index := 0, bytes := eb m, held := false, free := true, started := false, applied := applied }] }), (1, { state := .active, entries := [{ index := 0, bytes := eb m, held := false, free := true, started := false }] })]
    seq := { privCount := 1, sets := [(2, { state := 3, pages := 1, first := 4, grant := 3, refs := [(0, 1), (1, 1)] }), (3, { state := 1, grant := 1 }), (4, { state := 3, pages := 1, first := 5 })] }
    sec := { licences := [(0, { id := 0, grant := 8, digest := 0 })] } }

theorem test_seq_clauses : ((stQ [(0, 3), (16, 1), (17, 2)]).seqEntry 0 0 1).isSome = true ∧ (∀ r ∈ ((stQ [(0, 3), (16, 1), (17, 2)]).inst 0).records, r.2.layout ≠ 2) ∧
    ((stQ [(0, 3), (16, 2), (17, 1)]).seqEntry 0 0 2).isSome = true ∧ ((stQ []).layout 0 1).isSome = true ∧
    (((stQ [(0, 3), (16, 3), (20, 9)]).seqEntry 0 0 3).map (fun e => e.f 20 4)) = some 9 ∧ (stQ []).seqOf 0 9 = none ∧ ((stQ []).seqOf 0 5).map Prod.fst = some 5 ∧
    ((stQ [(0, 3), (16, 3), (20, 5)]).seqEntry 0 0 3).isSome = true ∧ sq5.slot = none ∧
    (((stQ [(0, 3), (16, 4), (20, 5), (24, 8)]).seqEntry 0 0 4).map (fun e => e.f 24 4)) = some 8 ∧
    (((stQ [(0, 3), (16, 5), (20, 5), (24, 2)]).seqEntry 0 0 5).map (fun e => e.f 24 4)) = some 2 ∧
    ((stQ [(0, 3), (16, 9), (20, 5)]).seqEntry 0 0 9).isSome = true ∧ (stQ []).inst 1 = { (stQ []).inst 1 with recq := 0 } := by decide

/-- A new record without pages needs only a place of its own. -/
theorem putSeq_record {s : State} {i n : Nat} {r : SeqRec} (hn : NMap.find (s.inst i).records n = none) (h : r.pages = [])
    (hs : (s.takeNode recKey).isSome = true) : (s.putSeq i n r).isSome = true := by
  obtain ⟨x, hx⟩ := Option.isSome_iff_exists.1 hs
  simp [State.putSeq, State.syncNodes, nodeKeys, hn, h, hx, NMap.find]

theorem test_take_record : ∃ h t, (stQ []).takeRecord 0 { layout := 1, cl := 0, tc := 0, pages := [], slot := none } = (.ok h, t) := by
  have h : ((stQ []).pickFree 65536 (fun n => (NMap.find ((stQ []).inst 0).records n).isNone)).1.isSome = true := by
    unfold State.pickFree
    rw [List.find?_isSome]
    refine ⟨7, List.mem_map.2 ⟨(65536 + 7 - (stQ []).draw.1.toNat % 65536) % 65536, List.mem_range.2 (by omega), by omega⟩, by decide⟩
  unfold State.takeRecord
  rw [if_neg (by decide)]
  split
  · rename_i n t heq
    obtain ⟨h1, h2⟩ := Prod.mk.inj heq
    have hn : NMap.find ((stQ []).inst 0).records n = none := by simpa using List.find?_some h1
    split
    · exact ⟨_, _, rfl⟩
    · rename_i h3
      rw [← h2] at h3
      exact absurd (h3 ▸ putSeq_record (s := (stQ []).draw.2) hn rfl (by rfl)) (by simp)
  · rename_i heq; rw [heq] at h; simp at h

set_option maxRecDepth 100000 in
theorem test_seq_runs : runs (exec (.seqLayout 0 0) (stQ [(0, 3), (16, 1), (17, 2), (32, 4)])) (fun t => (t.layout 0 2).map (fun L => L.zeroing.length) == some 4 && (t.entry 0 0).isNone) = true ∧
    runs (exec (.seqCommit 0 0) (stQ [(0, 3), (16, 5), (20, 6), (24, 2)])) (fun t => (t.seqOf 0 6).map (fun r => (r.2.cl, r.2.tc)) == some (12, 0)) = true ∧
    runs (exec (.seqRollback 0 0) (stQ [(0, 3), (16, 6), (20, 6)])) (fun t => (t.seqOf 0 6).map (fun r => (r.2.cl, r.2.tc)) == some (10, 0)) = true ∧
    runs (exec (.seqFree 0 0) (stQ [(0, 3), (16, 3), (20, 5)])) (fun t => (t.seqOf 0 5).isNone && (t.layout 0 1).map (fun L => L.zeroing) == some [2, 3]) = true := by
  decide

theorem test_page_clauses : 2 ∈ lay.zeroing ∧ (stQ []).working = true ∧ ((stQ []).storeWrite 0 (2 ^ 32) (lay.slotAddr 2) (zeros lay.psb)).1 = .bytes [] ∧
    ((stQ [(0, 3), (16, 6), (20, 5)]).rollback 0 0 sq5).1 = .bytes [] ∧ (stQ []).stepUnderWay 0 = false ∧ (stQ []).nodesHeld sq5 = false ∧
    ((stQ []).readNodes sq5).1 = false ∧ (stQ []).variant.getLsbD 3 = true ∧ stOpen.variant.getLsbD 3 = false ∧
    (((stQ [(0, 3), (16, 7), (20, 5), (32, 1)] true).seqEntry 0 0 7).map (fun e => ((pagesIn e sq5 (fun t => t = 1)).length, e.applied, e.remote.length, e.bad.isNone))) = some (1, true, 0, true) ∧
    (((stQ [(0, 3), (16, 7), (20, 5)]).seqEntry 0 0 7).map (fun e => (pagesIn e sq5 (fun t => t = 1)).length)) = some 0 ∧
    (((stQ [(0, 3), (16, 8), (20, 5), (32, 1)]).seqEntry 0 0 8).map (fun e => (pagesIn e sq5 (fun t => t ≠ 1)).length)) = some 0 := by decide

set_option maxRecDepth 20000 in
theorem test_evict : runs (exec (.seqEvict 0 0) (stQ [(0, 3), (16, 7), (17, 0x20), (20, 5), (32, 1), (44, 1)] true)) (fun t =>
    (t.seqOf 0 5).map (fun r => (NMap.find r.2.pages 0).map (fun l => (l.tier, l.addr))) == some (some (2, 0x100000000))) = true ∧
    runs (exec (.slotZeroed 0 1 2) (stQ [])) (fun t => (t.layout 0 1).map (fun L => L.zeroing) == some []) = true := by decide

/-- A STEP entry whose list of one leaving sequence has been read and is malformed. -/
def stStep : State :=
  { stOpen with insts := [(0, { state := .active, ways := 0xFFFF, entries := [{ index := 0, bytes := eb [(0, 4), (24, 1)], held := false, free := true, started := false, buf := [(listKey, (0, false))] }] })] }

theorem test_step_clauses : (match stStep.begins 0 0 4 with
      | some e => (match stStep.readList 0 0 e with
        | (.bytes bs, t) => (t.checkList 0 (stepList e (plain bs))).isSome && !e.started && !e.applied && (stStep.depsMet 0 0 (e.tags 44 (fld (e.f 30 1) 0 3)) true).isSome
        | _ => false)
      | none => false) = true ∧
    ((stQ [(0, 4)]).begins 0 0 4).map (fun e => (e.f 24 2 + e.f 26 2 + e.f 28 2, e.f 32 8, e.bad.isNone, e.remote.length)) = some (0, 0, true, 0) ∧
    (stQ []).ael.batches = [] ∧ ((stQ []).inst 0).activeSeqs ≤ ((stQ []).inst 0).batchq := by decide

theorem test_step : runs (exec (.stepBoundary 0 0) (stQ [(0, 4)])) (fun t => (t.entry 0 0).isNone) = true ∧
    runs (exec (.stepBoundary 0 0) stStep) (fun t => (t.entry 0 0).isNone) = true := by decide

theorem test_model_clauses : ((stQ [(0, 7), (16, 1), (18, 9), (20, 1)]).modelEntry 0 0 1).isSome = true ∧ ((stQ []).wset 9).state = 0 ∧
    ((stQ [(0, 7), (16, 1)]).modelEntry 1 0 1).isSome = true ∧ ((stQ [(0, 7), (16, 6), (18, 4)]).modelEntry 1 0 6).isSome = true ∧
    ((stQ []).wset 4).grant.getLsbD 1 = false ∧ ((stQ [(0, 7), (16, 4), (18, 3)]).modelEntry 0 0 4).isSome = true ∧
    ((stQ [(0, 7), (16, 2), (18, 2)]).modelEntry 0 0 2).isSome = true ∧ ((stQ []).wset 2).state = 3 ∧
    ((stQ [(0, 7), (16, 3), (18, 4)]).modelEntry 0 0 3).isSome = true ∧ ((stQ []).wset 4).refCount = 0 ∧ (stQ []).seq.restores = [] ∧
    ((stQ [(0, 7), (16, 8), (18, 3)]).modelEntry 0 0 8).isSome = true ∧ ((stQ []).wset 3).state = 1 ∧
    ((stQ [(0, 7), (16, 6), (18, 2)]).modelEntry 1 0 6).isSome = true ∧ ((stQ []).wset 2).grant.getLsbD 1 = true ∧ ((stQ []).wset 2).refCount < 65535 ∧
    (stQ []).err.failset.toNat.testBit 2 = false ∧ NMap.at ((stQ []).wset 2).refs 1 0 ≠ 0 := by decide

theorem test_model_runs : runs (exec (.modelAcquire 1 0) (stQ [(0, 7), (16, 6), (18, 2)])) (fun t => NMap.at (t.wset 2).refs 1 0 == 2) = true ∧
    runs (exec (.modelRelease 1 0) (stQ [(0, 7), (16, 7), (18, 2)])) (fun t => NMap.at (t.wset 2).refs 1 0 == 0) = true ∧
    runs (exec (.modelEvict 0 0) (stQ [(0, 7), (16, 3), (18, 4)])) (fun t => (t.wset 4).state == 1) = true ∧
    runs (exec (.modelRegister 0 0) (stQ [(0, 7), (16, 1), (18, 9), (20, 3)])) (fun t => (t.wset 9).pages == 3) = true := by decide

/-- A restore of line 0 of set 2, its backing page readable by the part, and a restore whose page is not mapped. -/
def stV : State :=
  { stQ [] with
    tlb := [{ agent := 8193, inst := 0, va := 1, log2 := 21, leaf := 0x40000F }]
    seq := { sets := [(2, { state := 3, pages := 1, first := 0, backing := 0x200000 })], restores := [{ pa := 0, block := false, set := 2, since := 0 }, { pa := 0x200000, block := true, set := 2, since := 0 }, { pa := 128, block := false, set := 2, since := 0, asked := true }] }
    slices := [(hs0, { lines := [{ a := 0, valid := 15, dirty := 0, dead := 0, pinned := false, d := {}, way := 0 }] })] }

theorem test_restore_clauses : (stV.restoreAt 0 false).map (fun r => (r.asked, stV.backingVa r)) = some (false, 0x200000) ∧ stV.linePoisoned 0 = false ∧
    (match stV.entryPage agentPart 0 .read 0x200000 with
      | (.ok (ba, _), _) => !inPeer ba
      | _ => false) = true ∧
    (match stV.entryPage agentPart 0 .read 0x400000 with
      | (.error _, _) => true
      | _ => false) = true ∧ (stV.restoreAt 0x200000 true).map (fun r => (r.asked, stV.backingVa r)) = some (false, 0x400000) ∧
    (match stV.seq.restores.find? (fun r => r.asked && r.remote = [] && (r.pa = 128)) with
      | some r => (match stV.backingBytes r with
        | (some bs, t) => (t.restoredOk r bs).1
        | _ => false)
      | none => false) = true := by decide

/-- The launch of `stE` ordered to save by a pre-emption. -/
def stSave : State := { stE with insts := [(0, { state := .active, ways := 0xFFFF, preempting := true })], launches := stE.launches.map (fun l => { l with saveBy := some true }) }

theorem test_save_clause : (stSave.launch 0 1).map (fun l => (l.saveBy.isSome, l.fault.isNone)) = some (true, true) ∧
    (∀ g ∈ stSave.coresWith 0 1, (stSave.core g).mats = [] ∧ (stSave.core g).copies = []) := by decide

theorem test_save : runs (exec (.save 0 1) stSave) (fun t => (t.group 0 0).isNone && (t.launch 0 1).any (fun l => l.saved)) = true := by decide

/-! ## The rings -/

/-- A running module with a ring of 64 entries at 0x1000 whose first entry, of some bytes, has not been fetched. -/
def stRg (m : List (Nat × Byte)) (g : Ring := { en := true, sqbase := 0x1000, cqbase := 0x4000, sqtail := 1, cqtail := 3, eqtail := 3 }) : State :=
  { stOpen with
    mem := { host := m.map (fun e => (0x1000 + e.1, e.2)) }
    insts := [(0, { state := .active, ways := 0xFFFF, ring := g })] }

theorem test_ring_clauses : (stRg []).ringsOpen = true ∧ ((stRg []).inst 0).ring.en = true ∧ 0 < diff32 5 ((stRg []).inst 0).ring.sqtail ∧
    (5 - ((stRg []).inst 0).ring.sqhead).toNat ≤ 2 ^ ((stRg []).inst 0).ring.sqlog ∧ diff32 1 ((stRg []).inst 0).ring.sqtail ≤ 0 ∧
    2 ^ ((stRg []).inst 0).ring.sqlog < (65 - ((stRg []).inst 0).ring.sqhead).toNat ∧ 0 < diff32 65 ((stRg []).inst 0).ring.sqtail ∧
    0 < diff32 3 ((stRg []).inst 0).ring.cqhead ∧ 0 ≤ diff32 ((stRg []).inst 0).ring.cqtail 3 ∧ diff32 ((stRg []).inst 0).ring.cqtail 4 < 0 ∧
    0 < diff32 3 ((stRg []).inst 0).ring.eqhead ∧ 0 ≤ diff32 ((stRg []).inst 0).ring.eqtail 3 ∧ (stRg []).earlyOpen 0 = true ∧
    (stOpen.inst 0).ring.en = false ∧ (stOpen.inst 0).entries = [] ∧ (∀ lo ∈ [0, 8, 16], 6 ≤ fld 0x80100C06 lo 5 ∧ fld 0x80100C06 lo 5 ≤ 16) ∧
    (stOpen.inst 0).ring.eqHeld = [] ∧ (stOpen.inst 0).ring.lost = 0 ∧
    (let g := ((stRg [] { cqFirst := some 0, cqtime := 1, cqmask := false }).inst 0).ring
     g.cqFirst = some 0 ∧ g.cqtime ≠ 0 ∧ 0 + 1000 * g.cqtime.toNat ≤ 1000 ∧ g.cqmask = false) := by decide

theorem test_rings : runs (exec (.doorbell 0 4 65) (stRg [])) (fun t => (t.inst 0).ring.overrun && (t.inst 0).ring.sqtail == 1) = true ∧
    runs (exec (.eqdb 0 3) (stRg [])) (fun t => (t.inst 0).ring.eqhead == 3) = true ∧
    runs (exec (.ringEnable 0 0 0x80100C06) stOpen) (fun t => (t.inst 0).ring.en && ((t.inst 0).ring.sqlog, (t.inst 0).ring.cqlog, (t.inst 0).ring.eqlog) == (6, 12, 16)) = true := by decide

set_option maxRecDepth 20000 in
theorem test_fetch_clauses : (∀ m ∈ [[], [(2, 1)], [(4, 1)], [(0, 8)], [(0, 8), (8, 5)]], (stRg m).mayFetch 0 = true) ∧
    (stRg [(0, 8)]).runsUntagged 0 = false ∧ (stRg [(0, 8)]).cad.beat.toNat < 5 ∧
    (let e := fun (m : List (Nat × Byte)) => ({ index := 0, bytes := (stRg m).hostRead 0 0x1000 128, held := false, free := false, started := false } : Entry)
     (e [(2, 1)]).f 2 2 ≠ 0 ∧ (e [(4, 1)]).f 4 2 ≠ 0 ∧ (e []).wellFormed 0 = false ∧ (e [(0, 8)]).wellFormed 0 = true ∧ (e [(0, 8)]).beatTag = 0 ∧
       (e [(0, 8), (8, 5)]).wellFormed 0 = true ∧ (e [(0, 8), (8, 5)]).beatTag = 5) := by decide

set_option maxRecDepth 20000 in
theorem test_fetch : runs (exec (.entryFetch 0) (stRg [(0, 8), (8, 5)])) (fun t => (t.entry 0 0).map (fun e => e.held) == some true &&
    (t.inst 0).ring.sqhead == 1) = true ∧
    runs (exec (.entryFetch 0) (stRg [(2, 1)])) (fun t => (t.entry 0 0).isNone && t.hostRead 0 0x4062 2 == [2, 0]) = true := by decide

/-- An entry held by its tag of beat 5, which the beat has reached. -/
def stHeld : State :=
  { stOpen with cad := { beat := 5 }, insts := [(0, { state := .active, ways := 0xFFFF, entries := [{ index := 0, bytes := eb [(0, 8), (8, 5)], held := true, free := false, started := false }] })] }

theorem test_held_clause : (stHeld.entry 0 0).map (fun o => (o.held, decide (o.beatTag ≤ stHeld.cad.beat.toNat))) = some (true, true) := by decide

/-- Entries to run: src 0x200000 and dst 0x200040 of four bytes for a COPY. -/
def stCp : State :=
  { stQ [(0, 2), (18, 0x20), (24, 0x40), (26, 0x20), (32, 4)] with
    tlb := [{ agent := 8192, inst := 0, va := 1, log2 := 21, leaf := 0x20000F }]
    slices := [((State.reset.homeSlice 0x200000), { lines := [{ a := 0x4000, valid := 15, dirty := 0, dead := 0, pinned := false, d := {}, way := 0 }] })] }

theorem test_run_clauses : ((stQ [(0, 1)]).begins 0 0 1).map (fun e => e.started) = some false ∧
    ((stQ [(0, 2)] true).begins 0 0 2).map (fun e => (e.applied, e.remote.length)) = some (true, 0) ∧
    ((stQ [(0, 5), (16, 1)]).begins 0 0 5).map (fun e => e.f 16 1) = some 1 ∧ (stQ []).depsMet 0 0 [] false = some true ∧
    ((stQ [(0, 5), (16, 3)]).begins 0 0 5).map (fun e => decide (e.f 40 8 ≤ (stQ []).cad.beat.toNat)) = some true ∧
    ((stQ [(0, 8)]).begins 0 0 8).isSome = true ∧ (stQ [(0, 8)]).isFirst 0 0 = true ∧ ((stQ [(0, 6)]).begins 0 0 6).isSome = true ∧
    (stQ []).host.stopped = false ∧ ((stQ []).entry 0 0).isSome = true := by decide

theorem test_copy_clause : (match stCp.begins 0 0 2 with
    | some e =>
      (match (stCp.updEntry 0 0 (fun x => { x with started := true })).entryRead agentPort 0 0 .read (e.f 16 8) (e.f 32 4) (e.f 36 1 = 1) with
      | (.bytes bs, t) =>
        let v := (t.entryWrite agentPort 0 0 .write (e.f 24 8) bs (e.f 36 1 = 1)).2.2
        !e.applied && ((v.closeBatches partTag).entry 0 0).all (fun x => x.remote == [])
      | _ => false)
    | none => false) = true := by decide

theorem test_data_port_clauses : stOpen.windowOpen 0 0 = true ∧ stOpen.windowSize 3 true = true ∧ stOpen.windowOpen 1 0 = false ∧
    (let s : State := { stOpen with dport := { space := 1, addr := 0x3FFFFFE } }
     s.windowOpen 0 4 = true ∧ s.dport.space = 1 ∧ s.dport.width = 0 ∧ 2 ^ 26 < s.dport.addr.toNat + 4 ∧ s.boot.erasing = false) ∧
    (let s : State := { stOpen with dport := { space := 1, addr := 0x3FFFFFC } }
     s.dport.addr.toNat + 4 ≤ 2 ^ 26) := by decide

/-- A running module whose data port reads HBM at 0x1000, of which page 0 is being flushed. -/
def stDp : State :=
  { stOpen with
    dport := { addr := 0x1000, waiting := [] }
    llc := { nh := [(0, { base := 0, limit := 1, busy := true, flushing := [(0, 1)] })] } }

/-- A read behind a line that is being flushed waits; one behind a write that waits takes its place (R342). -/
theorem test_data_port_waits : stDp.inSpace 4 = true ∧ stDp.heldRun stDp.dport.addr.toNat 4 = true ∧ stDp.portStalls 0 0x1000 1 = true ∧
    runs (exec (.dataWindowRead 0 0 4 true) stDp) (fun t => t.out == [] && t.dport.waiting == [.read [some (0, 0x1000)] 4]) = true := by decide

theorem test_data_port : runs (exec (.dataWindowWrite 0 0 [1, 2, 3, 4] true) { stOpen with dport := { space := 1, addr := 8 } }) (fun t =>
    flashBytes t.boot.staging 8 4 == [1, 2, 3, 4] && t.dport.addr == 12) = true := by decide


/-! ## Mailboxes and security -/

/-- A running command of a payload of n bytes, and a module in whose mailbox 0 it runs: instance 1 is active with clusters 0
and pages 8 to 15, instance 2 is free, instance 3 pre-empted; clusters 1 to 127 belong to none. -/
def mbR (op : BitVec 16) (p : List (Nat × Byte)) (n : Nat) : MbRunning :=
  { token := 7, opcode := op, payload := NMap.bytes 0 p 0 n, badHeader := false, result := none }

def stMb (op : BitVec 16) (p : List (Nat × Byte)) (n : Nat) : State :=
  { stOpen with
    insts := [(0, { state := .active, ways := 0xFFFF, ranges := [(0, 3)], mb := { running := some (mbR op p n) } }), (1, { state := .active, ways := 0xF, pasid := 5, ranges := [(8, 15)] }), (3, { state := .preempted, pasid := 9 })]
    clusters := [(0, { owner := some 1 })] }

def readyB (op : BitVec 16) (p : List (Nat × Byte)) (n : Nat) : Bool :=
  !(stMb op p n).mbWaits 0 (mbR op p n) && (stMb op p n).mbCheck 0 (mbR op p n) == none

theorem ready_of {op : BitVec 16} {p : List (Nat × Byte)} {n : Nat} (h : readyB op p n = true) :
    MbReady (stMb op p n) 0 op.toNat (mbR op p n) := by
  simp only [readyB, Bool.and_eq_true, Bool.not_eq_true', beq_iff_eq] at h
  exact ⟨by decide, rfl, rfl, rfl, h.1, h.2⟩

/-- CREATE of instance 2: PASID 6, root at page 2, four ways. -/
def pCreate : List (Nat × Byte) := [(0, 2), (4, 6), (10, 0x40), (16, 0xF)]
/-- CONFIG of instance 1. -/
def pConfig : List (Nat × Byte) := [(0, 1), (4, 6), (10, 0x40), (16, 0xF)]

theorem test_mb_ready : [((0x01 : BitVec 16), ([(0, 1)] : List (Nat × Byte)), 4), (0x10, pCreate, 28), (0x11, pConfig, 28), (0x12, [(0, 1), (16, 2)], 32),
    (0x13, [(0, 1), (16, 1)], 32), (0x14, [(0, 1), (4, 16), (8, 4)], 12), (0x14, [(0, 1), (1, 1), (4, 8), (8, 2)], 12),
    (0x15, [(0, 1), (1, 2), (2, 1), (4, 9)], 12), (0x16, [(0, 1)], 4), (0x17, [(4, 32), (8, 2)], 12), (0x20, [(0, 1)], 4), (0x21, [(0, 1)], 4),
    (0x22, [(0, 1)], 8), (0x22, [(0, 3)], 8), (0x23, [(0, 3)], 4), (0x30, [], 4), (0x31, [(0, 1)], 36), (0x32, [], 4), (0x34, [(8, 8)], 12),
    (0x33, [(8, 9)], 12), (0x36, [], 8), (0x37, [], 4), (0x38, [(1, 2)], 4), (0x39, [], 4), (0x40, [], 4), (0x41, [], 8), (0x43, [], 4),
    (0x44, [(1, 1)], 4)].all (fun c => readyB c.1 c.2.1 c.2.2) = true := by decide

set_option maxRecDepth 40000 in
theorem test_mb_ready_long : readyB 0x35 [] 2888 = true ∧ readyB 0x38 [(1, 3)] 2888 = true ∧ readyB 0x42 [] 2056 = true := by decide

theorem test_config_clauses : (stMb 0x10 pCreate 28).configRefusal 2 (mbR 0x10 pCreate 28).payload = none ∧ ((stMb 0x10 pCreate 28).inst 2).state = .free ∧
    (stMb 0x10 pCreate 28).genFree 2 = true ∧ (stMb 0x11 pConfig 28).configRefusal 1 (mbR 0x11 pConfig 28).payload = none ∧
    ((stMb 0x11 pConfig 28).inst 1).ring.en = false ∧ ((stMb 0x11 pConfig 28).inst 1).entries = [] ∧ ((stMb 0x11 pConfig 28).inst 1).records = [] ∧
    maskClusters (mbR 0x12 [(0, 1), (16, 2)] 32).payload = [1] ∧ ((stMb 0x12 [] 32).cluster 1).owner = none ∧
    maskClusters (mbR 0x13 [(0, 1), (16, 1)] 32).payload = [0] ∧ ((stMb 0x13 [] 32).cluster 0).owner = some 1 ∧ ((stMb 0x13 [] 32).cluster 0).queue = [] ∧
    (stMb 0x14 [] 12).cores = [] ∧ (stMb 0x14 [] 12).freeRun 16 19 = true ∧ meets 16 19 0 0 = false ∧ (addRange [(8, 15)] 16 19).length ≤ 64 ∧
    holdsRun [(8, 15)] 8 9 = true ∧ (cutRange [(8, 15)] 8 9).length ≤ 64 ∧ (∀ e ∈ (stMb 0x17 [] 12).insts, e.2.records = []) ∧
    (stMb 0x17 [] 12).freeRun 32 33 = true := by decide

theorem test_config_runs : runs (exec (.create 0) (stMb 0x10 pCreate 28)) (fun t => (t.inst 2).state == .active && (t.inst 2).pasid == 6) = true ∧
    runs (exec (.config 0) (stMb 0x11 pConfig 28)) (fun t => (t.inst 1).pasid == 6 && (t.inst 0).mb.rspStatus == 0) = true ∧
    runs (exec (.pagesAssign 0) (stMb 0x14 [(0, 1), (4, 16), (8, 4)] 12)) (fun t => (t.inst 1).ranges == [(8, 19)]) = true ∧
    runs (exec (.bind 0) (stMb 0x15 [(0, 1), (1, 2), (2, 1), (4, 9)] 12)) (fun t => (NMap.find (t.inst 1).binds 2).map (fun b => b.module) == some 9) = true := by
  decide

/-- A mailbox whose buffer holds a QUERY of token 7, one with a kept response of token 7, and one that runs a long command which is done. -/
def stGo : State :=
  { stOpen with insts := [(0, { state := .active, ways := 0xFFFF, mb := { cmd := [(0, 7), (4, 1), (6, 4)], cache := [{ token := 9, status := 4, payload := [1, 2, 3, 4] }] } }), (1, { state := .active, mb := { running := some { mbR 0x12 [] 32 with result := some (0, []) } } })] }

theorem test_go_clauses : stGo.mbAnswers 0 = true ∧ (stGo.inst 0).mb.running = none ∧ (7 : BitVec 32).toNat = ofLe (NMap.bytes 0 (stGo.inst 0).mb.cmd 0 4) ∧
    opcodes.contains (ofLe (NMap.bytes 0 (stGo.inst 0).mb.cmd 4 2)) = true ∧ (∀ a ∈ (stGo.inst 0).mb.cache, a.token ≠ 7) ∧
    (({ stGo with insts := [(0, { state := .active, ways := 0xFFFF, mb := { cmd := [(0, 9)], cache := (stGo.inst 0).mb.cache } })] } : State).inst 0).mb.cache.find? (fun a => a.token = 9) =
      some { token := 9, status := 4, payload := [1, 2, 3, 4] } ∧
    (8 : BitVec 32).toNat ≠ ofLe (NMap.bytes 0 (stGo.inst 0).mb.cmd 0 4) ∧ ((stGo.inst 1).mb.running).map (fun r => r.result.isSome) = some true ∧
    (stMb 0x44 [(1, 2)] 4).mbCheck 0 (mbR 0x44 [(1, 2)] 4) = some 1 ∧ (stMb 0x44 [(1, 2)] 4).mbWaits 0 (mbR 0x44 [(1, 2)] 4) = false := by decide

theorem test_go : runs (exec (.mbGo 0 7) stGo) (fun t => (t.inst 0).mb.running.map (fun r => (r.token, r.opcode, r.payload.length)) == some (7, 1, 4)) = true ∧
    runs (exec (.mbGo 0 8) stGo) (fun t => (t.inst 0).mb.dropped) = true ∧
    runs (exec (.mailboxCommandEnd 1) stGo) (fun t => (t.inst 1).mb.done == 7 && (t.inst 1).mb.running == none) = true := by decide

/-- An instance that is being reset and whose generation may advance. -/
def stRs : State :=
  { stOpen with insts := [(0, { state := .active, ways := 0xFFFF }), (1, { state := .resetting, gen := 4, resetJob := some { remove := false, mb := 0, sqhead := 0 } })] }

theorem test_lifecycle_clauses : stRs.genFree 1 = true ∧ (stRs.inst 1).resetJob.isSome = true ∧ ((stMb 0x22 [(0, 3)] 8).inst 3).state = .preempted ∧
    ((stMb 0x22 [(0, 1)] 8).inst 1).state ≠ .preempted ∧ (stMb 0x22 [(0, 1)] 8).launches = [] ∧ (stMb 0x22 [(0, 1)] 8).saveFits 1 [] = true ∧
    ({ stRs with insts := [(1, { genAt := some 0 })] } : State).genFree 1 = false := by decide

theorem test_lifecycle : runs (exec (.generationHoldExpiry 1) stRs) (fun t => (t.inst 1).gen == 5 && (t.inst 1).state == .active) = true ∧
    runs (exec (.reset 0) (stMb 0x20 [(0, 1)] 4)) (fun t => (t.inst 1).gen == 1 && (t.inst 1).state == .active) = true ∧
    runs (exec (.remove 0) (stMb 0x21 [(0, 1)] 4)) (fun t => (t.inst 1).state == .removing && (t.inst 1).gen == 1) = true ∧
    runs (exec (.resume 0) (stMb 0x23 [(0, 3)] 4)) (fun t => (t.inst 3).state == .active) = true := by decide

theorem test_security_clauses : (stMb 0x32 [] 4).sec.enrolled = false ∧ (stMb 0x32 [] 4).sec.lcs ≠ 0 ∧ (stMb 0x32 [] 4).sec.lcs ≠ 4 ∧
    (stMb 0x35 [] 2888).sec.licences = [] ∧ (stMb 0x38 [(1, 2)] 4).sec.lcs = 1 ∧ (stMb 0x38 [(1, 2)] 4).sec.keygen = false ∧
    (stMb 0x38 [(1, 3)] 2888).sec.debugcnt.toNat < 8 ∧ (stMb 0x38 [(1, 4)] 2888).sec.lcs ≠ 4 ∧ (stMb 0x39 [] 4).sec.active = 0 ∧
    ({ stMb 0x38 [(1, 1)] 2888 with sec := { lcs := 3 } } : State).sec.lcs = 3 ∧
    ({ stMb 0x32 [] 4 with sec := { keygen := true } } : State).sec.keygen = true ∧ ({ stMb 0x39 [] 4 with sec := { active := 1 } } : State).sec.active ≠ 0 := by
  decide

/-- A licence of form: what remains open is the authority's signature, an opaque function. -/
def lic (kind : Byte) : List Byte := NMap.bytes 0 [(0, 1), (2, kind), (4, 1), (20, 0x80), (21, 0x12)] 0 2884

set_option maxRecDepth 40000 in
theorem test_licence (b : Bool) (h : Config.licenceVerify ((lic 0).take 64) (((lic 0).drop 64).take 2820) = b) : stOpen.licenceOk 0 (lic 0) = b := by
  subst h; rfl

set_option maxRecDepth 40000 in
theorem test_licence_debug (b : Bool) (h : Config.licenceVerify ((lic 1).take 64) (((lic 1).drop 64).take 2820) = b) :
    ({ stOpen with sec := { nonce := some (List.replicate 32 0) } } : State).licenceOk 1 (lic 1) = b := by
  subst h; rfl

theorem test_lcs : runs (exec (.lcsDeployed 0) (stMb 0x38 [(1, 2)] 4)) (fun t => t.sec.lcs == 2 && (t.inst 0).mb.rspStatus == 0) = true := by decide
theorem test_certw : runs (exec (.certw 0) (stMb 0x33 [(8, 9)] 12)) (fun t => NMap.at t.sec.certs 0 0xFF == 9) = true := by decide
theorem test_gclr : runs (exec (.gclr 0) (stMb 0x39 [] 4)) (fun t => !t.sec.locked) = true := by decide

set_option maxRecDepth 100000 in
theorem test_gale : stOpen.galeLevel 0 = 1 ∧ stOpen.galeLevel 1 = 2 ∧ ({ stOpen with pers := { galepol := 0 } } : State).galeLevel 6 = 0 ∧ stOpen.board.rails = true ∧
    3 ≤ stOpen.host.step.toNat ∧ runs (exec (.galeDetection 1 false) stOpen) (fun t => t.sec.locked && t.sec.seen == 2 && t.sec.dataRoot == 0) = true ∧
    runs (exec (.galeSourceCleared 1) { stOpen with sec := { active := 3, seen := 3 } }) (fun t => t.sec.active == 1 && t.sec.seen == 3) = true := by decide

theorem test_firmware_clauses (bs : List Byte) : Config.shake256 bs = NMap.at ([(1, Config.shake256 bs)] : NMap (BitVec 256)) 1 0 ∧
    Config.shake256 bs ≠ NMap.at ([(1, Config.shake256 bs + 1)] : NMap (BitVec 256)) 1 0 := by
  refine ⟨rfl, fun h => ?_⟩
  have h : Config.shake256 bs = Config.shake256 bs + 1 := h
  exact absurd h (by bv_omega)


/-! ## Cadence, links, remote requests, collectives, dies -/

/-- A running module at 2 s whose source is n, whose links 3 and 4 are up, and which routes module 5 to link 3. -/
def stLk (src : BitVec 2) (x : Link := {}) (y : Ael := {}) : State :=
  { stOpen with clock := { now := 2000000000 }, cad := { src := src, rxlink := 3, beat := 7 }, ael := { y with links := [(3, { x with state := 2, width := 2, good := 15 }), (4, { state := 2, good := 1 })], route := [(5, 8)] } }

theorem test_cad_clauses : (stLk 1).cad.src = 1 ∧ (stLk 1).cad.delay = 0 ∧ (stLk 1).board.rails = true ∧ (stLk 1).cad.beatAt = none ∧
    (stLk 1).cad.beat.toNat ≠ 2 ^ 64 - 1 ∧ (stLk 0).cad.src ≠ 1 ∧ 2 * ((stLk 1).clock.now - 1999999999) < (stLk 1).cad.period.toNat ∧
    (stLk 2).cad.rxlink.toNat = 3 ∧ (stLk 2).linkUp 3 = true ∧ (stLk 2).cad.beat.toNat < (8 : BitVec 64).toNat ∧ (stLk 2).regOpen 0 = true ∧ (stLk 3).cad.src = 3 ∧
    (stLk 0).cad.beat.toNat ≤ (7 : BitVec 64).toNat ∧ fld (0x31 : BitVec 32).toNat 4 5 < 24 ∧ (stLk 1).cad.lost = false ∧
    (stLk 1).cad.since + 2 * (stLk 1).cad.period.toNat ≤ (stLk 1).clock.now := by decide

/-- An edge at the last beat number, one that is early, and one that is delayed (R302, R304). -/
theorem test_edges : runs (exec .cadInEdge { stLk 1 with cad := { src := 1, beat := 0xFFFFFFFFFFFFFFFF } }) (fun t => t.cad.beat == 0xFFFFFFFFFFFFFFFF) = true ∧
    runs (exec .cadInEdge { stLk 1 with cad := { src := 1, beatAt := some 1999999999 } }) (fun t => t.cad.glitch == 1 && t.cad.beat == 0) = true ∧
    runs (exec .cadInEdge { stLk 1 with cad := { src := 1, delay := 9 } }) (fun t => t.cad.edges == [2000000009] && t.cad.beat == 0) = true := by decide

theorem test_cad : runs (exec .cadInEdge (stLk 1)) (fun t => t.cad.beat == 8) = true ∧
    runs (exec (.cadenceSymbol 3 2 9 20) (stLk 2)) (fun t => t.cad.beat == 20 && t.cad.hops == 2) = true ∧
    runs (exec (.swbeat 0 9) (stLk 3)) (fun t => t.cad.beat == 9) = true ∧ runs (exec (.cadBeatPreset 0 9) (stLk 0)) (fun t => t.cad.beat == 9) = true ∧
    runs (exec (.cadSourceChange 0 0x31) (stLk 2)) (fun t => t.cad.src == 1 && t.cad.beat == 7) = true ∧
    runs (exec .cadenceLost (stLk 1)) (fun t => t.cad.lost) = true := by decide

/-- An edge at the pins while another source is selected is ignored, its delay or not (R304). -/
theorem test_edge_ignored : runs (exec .cadInEdge { stLk 2 with cad := { src := 2, delay := 9 } }) (fun t => t.cad.edges == []) = true := by decide

theorem test_link_clauses : (stLk 0).ael.en.getLsbD 9 = true ∧ ((stLk 0).link 9).state ≠ 2 ∧ ((stLk 0).link 9).reported = false ∧ ((stLk 0).link 9).trainAt = 0 ∧
    widest ((0xB : BitVec 4).toNat &&& (15 - ((stLk 0).link 9).fenced.toNat)) = 3 ∧ widest (3 : BitVec 4).toNat = (3 : BitVec 4).toNat ∧ (3 : BitVec 4) &&& ((stLk 0).link 3).fenced = 0 ∧
    ((stLk 0).link 3).asked = none ∧ widest ((0xC : BitVec 4).toNat &&& (0xC : BitVec 4).toNat) = 12 ∧
    NMap.find ((stLk 0 { laneFails := [(1, 2)] }).link 3).laneFails 1 = some 2 ∧ NMap.find ((stLk 0 { laneFails := [(1, 0)] }).link 3).laneFails 1 = some 0 ∧
    (({ stLk 0 with ael := { links := [(3, { downAt := some 0 })] } } : State).link 3).downAt = some 0 ∧ 0 + 10 ^ 9 ≤ (stLk 0).clock.now := by decide

/-- Lane 0 fails on a link of four lanes, and on one that runs on that lane alone (R377). -/
theorem test_lane_clauses : widest (((stLk 0).link 3).good.toNat &&& ({ (stLk 0).link 3 with laneFails := NMap.ins [] 0 0 } : Link).sound) = 12 ∧
    widest (((stLk 0).link 4).good.toNat &&& ({ (stLk 0).link 4 with laneFails := NMap.ins [] 0 0 } : Link).sound) = 0 := by decide

set_option maxRecDepth 100000 in
theorem test_link : runs (exec (.linkTrained 9 0xB 6 40) (stLk 0)) (fun t => (t.link 9).good == 3 && (t.link 9).width == 1 && (t.link 9).peer == 6) = true ∧
    runs (exec (.widthRequest 3 3) (stLk 0)) (fun t => (t.link 3).good == 3) = true ∧
    runs (exec (.laneFailure 3 0) (stLk 0)) (fun t => (t.link 3).good == 15 && (t.link 3).asked == some 12) = true := by decide

set_option maxRecDepth 100000 in
theorem test_link_down : runs (exec (.laneFailure 4 0) (stLk 0)) (fun t => (t.link 4).state == 0) = true ∧
    runs (exec (.laneRetrained 3 1 false) (stLk 0 { laneFails := [(1, 2)] })) (fun t => (t.link 3).fenced == 2) = true ∧
    runs (exec (.aeldonLinkDown 3) (stLk 0)) (fun t => (t.link 3).state == 0 && (t.link 3).downAt == some 2000000000) = true := by decide

/-- A flit of zeros with its CRC. -/
def flit0 : List Byte := let z := List.replicate 252 (0 : Byte); z ++ leBytes 4 (crc32 z)

set_option maxRecDepth 100000 in
theorem test_flit_clauses : leAt flit0 252 4 = crc32 (flit0.take 252) ∧ flit0.length = 256 ∧ bit (leAt flit0 0 2) 15 = false ∧ fld (leAt flit0 0 2) 12 3 ≤ 4 ∧
    fld (leAt flit0 2 2) 13 3 = 0 ∧ bit (leAt flit0 4 2) 3 = false ∧ fld (leAt flit0 6 1) 4 4 = 0 ∧ leAt flit0 7 5 = 0 ∧
    BitVec.ofNat 12 (leAt flit0 0 2) = ((stLk 0).link 3).rxExpected ∧ leAt (List.replicate 256 (0 : Byte)) 252 4 ≠ crc32 ((List.replicate 256 (0 : Byte)).take 252) := by decide

def sf : SentFlit := { seq := 4, vc := 1, first := 0, body := [], packet := Packet.zero }
def wq : Queued := { vc := 1, since := 5, spent := 0, packet := Packet.zero }
theorem test_port_clauses : ((stLk 0 { txBuf := [sf] }).link 3).txBuf = [sf] ∧ ((stLk 0 { txBuf := [sf] }).link 3).progressAt + 2000 ≤ (stLk 0).clock.now ∧
    ((stLk 0 { waiting := [wq] }).link 3).waiting.find? (fun w => w.vc = 1 && !w.told && w.since + 10000000 ≤ (stLk 0).clock.now) = some wq ∧
    ((List.range 16).filter (fun j => j < 544)).eraseDups.length = 16 ∧ ((stLk 0).link 3).rxFill = 0 ∧ ((stLk 0).link 3).uncTimes = [] ∧
    Packet.zero.dst = (stLk 0).ael.id ∧ (stLk 0).port { Packet.zero with dst := 5, life := 2 } = some 3 ∧ isRequest (1 : BitVec 8).toNat = true ∧ isRequest (0x81 : BitVec 8).toNat = false := by decide

/-- A codeword with 16 symbol errors is not corrected: its flit is lost (R368). -/
theorem test_fec : runs (exec (.flitReceived 3 ⟨flit0, List.range 16⟩) (stLk 0 { nakSent := true })) (fun t =>
    (t.link 3).uncorr == 1 && (t.link 3).rxExpected == 0 && (t.link 3).rxFill == 2048 && (t.link 3).rxBad) = true := by decide

theorem test_route : runs (exec (.packetRoute none 0 { Packet.zero with life := 3 }) (stLk 0)) (fun t => t.ael.delivered == [{ Packet.zero with life := 2 }]) = true ∧
    runs (exec (.packetRoute none 0 { Packet.zero with opc := 1, dst := 9, src := 0 }) (stLk 0)) (fun t => t.ael.delivered.map (fun p => (p.opc, p.status)) == [(0x84, 0x303)]) = true := by decide

/-- A request of module 5 instance 2 to page 8 of instance 1, which bound it. -/
def rq (opc : BitVec 8) : Packet := { Packet.zero with opc := opc, src := 5, sinst := 2, dinst := 1, sgen := 4, addr := 0x1000000, len := 64, life := 9, txid := 7, atype := 2, count := 1 }
def bt (fin : Option Packet) : Batch := { src := 5, sinst := 2, srctag := 0, batch := 0, landed := 0, fin := fin, close := none, last := 0 }
def stTg (y : Ael := {}) : State :=
  { stLk 0 {} y with insts := [(0, { state := .active, ways := 0xFFFF, ranges := [(0, 3)] }), (1, { state := .active, ways := 0xF, ranges := [(8, 15)], binds := [(0, { module := 5, rinst := 2, rgen := 4 })] })] }

theorem test_target_clauses : (stTg).therm.tripped = false ∧ (stTg).refusal (rq 1) = none ∧ (stTg).refusal { rq 1 with src := 6 } = some 9 ∧ (stTg).refusal { rq 1 with dgen := 3 } = some 0x306 ∧
    (stTg).heldRun (rq 1).addr.toNat (max 1 (rq 1).len) = false ∧ ({ rq 1 with fin := true } : Packet).count = 1 ∧ (rq 1).fin = false ∧ (stTg).ael.tracker = [] ∧ atomOk (rq 3).aop.toNat (rq 3).atype.toNat = true ∧
    (stTg { dedup := [{ src := 5, txid := 7, status := 0, data := [1], since := 0 }] }).ael.dedup.find? (fun d => d.src = (rq 3).src && d.txid = (rq 3).txid) =
      some { src := 5, txid := 7, status := 0, data := [1], since := 0 } ∧
    (stTg).ael.dedup = [] ∧ (stTg { tracker := [bt none] }).ael.tracker.find? (fun b => b.isOf (rq 4)) = some (bt none) ∧
    (stTg { tracker := [bt none] }).ael.tracker[0]? = some (bt none) ∧ (bt none).last + 10000000 ≤ (stTg).clock.now ∧ (bt (some (rq 1))).fin = some (rq 1) := by decide

set_option maxRecDepth 100000 in
theorem test_target : runs (exec (.write (rq 1)) (stTg)) (fun t => t.ael.tracker.map (fun b => b.landed) == [1]) = true ∧
    runs (exec (.close (rq 4)) (stTg { tracker := [{ bt none with landed := 1 }] })) (fun t => t.ael.tracker == []) = true ∧
    runs (exec (.batchEntryTimeout 0) (stTg { tracker := [bt none] })) (fun t => t.ael.tracker == []) = true := by decide

/-- A request of instance 1 that awaits its answer. -/
def og (opc : BitVec 8) (owner : RemoteFor := .store 0 0) : Outstanding :=
  { txid := 7, bind := 0, p := { Packet.zero with opc := opc, sinst := 1, dst := 5, dinst := 2 }, first := 1995000000, sent := 1995000000, owner := owner, inst := 1, tag := 0, router := 0, busyAt := none }
def rs (opc : BitVec 8) (st : BitVec 16) : Packet := { Packet.zero with opc := opc, dinst := 1, txid := 7, status := st }

set_option maxRecDepth 20000 in
theorem test_source_clauses : (∀ opc ∈ [1, 2, 3], (stTg { outst := [og opc] }).outstOf (og opc).txid.toNat = some (og opc)) ∧ (rs 0x81 0).txid = (og 1).txid ∧ (rs 0x81 0).dinst = (og 1).p.sinst ∧
    (rs 0x81 0).dgen = ((stTg).inst (og 1).inst).gen ∧ (∀ c, c < 64 → (rs 0x84 5).txid ∉ ((stTg).coll c).txids) ∧ (rs 0x84 9).status ≠ 0x0005 ∧
    (og 1).sent + 2000000 ≤ (stTg).clock.now ∧ (stTg).clock.now < (og 3).first + 9000000 ∧ ({ og 3 with first := 0 } : Outstanding).first + 10000000 ≤ (stTg).clock.now ∧
    ({ og 1 with busyAt := some 1 } : Outstanding).busyAt = some 1 ∧ 1 + 2000 ≤ (stTg).clock.now := by decide

set_option maxRecDepth 20000 in
theorem test_source : runs (exec (.wack (rs 0x81 0)) (stTg { outst := [og 1] })) (fun t => t.ael.outst == []) = true ∧
    runs (exec (.reject (rs 0x84 5)) (stTg { outst := [og 1] })) (fun t => t.ael.outst.map (fun o => o.busyAt) == [some 2000000000]) = true ∧
    runs (exec (.requestTimeout 7) (stTg { outst := [og 2 (.commit 0 0 0)] })) (fun t => t.ael.txid == 1 && t.ael.outst.map (fun o => o.txid) == [0]) = true := by decide

/-- A collective context with its descriptor and trigger in host memory, and a run of a broadcast of 64 elements. -/
def cd : CollDesc := { op := 3, etype := 0, p := 2, rank := 0, next := 5, ninst := 0, buf := 0x10000, elems := 64, trig := 0x2000, done := 0, dval := 0, bstep := 0, beat0 := 0 }
def stCo (x : Coll) : State :=
  { stTg { coll := [(0, x)] } with insts := [(0, { state := .active, ways := 0xFFFF, ranges := [(0, 63)], linkw := 1 })], tlb := [{ agent := 8193, inst := 0, va := 0, log2 := 16, leaf := 0x10000000000007 }, { agent := 8193, inst := 0, va := 1, log2 := 16, leaf := 0x4000007 }], mem := { host := [(0x1000, 3), (0x1002, 2), (0x1004, 5), (0x100A, 1), (0x1010, 64), (0x1019, 0x20), (0x2000, 1)] } }

set_option maxRecDepth 100000 in
theorem test_coll_clauses : (stCo { inst := 0 }).regOpen 0 = true ∧ ((stCo {}).inst 0).linkw ≠ 0 ∧ (stCo { en := true }).working = true ∧ (stCo {}).ael.reduceUp ≠ 0 ∧
    (match (stCo { en := true, desc := 0x1000 }).collRead 0 0x1000 64 with
      | (some db, t) => !anyPoison db && collDesc (plain db) == some cd && (match t.collRead 0 cd.trig.toNat 4 with
          | (some tb, _) => !anyPoison tb && decide (0 ≤ diff32 (BitVec.ofNat 32 (ofLe (plain tb))) (BitVec.ofNat 32 (0 + 1)))
          | _ => false)
      | _ => false) = true ∧ cd.beat0 = 0 ∧ cd.steps = 1 ∧ (List.replicate 256 (1 : Byte)).length = cd.chunk ∧ cd.reduces 0 = false ∧ (stCo { run := some cd }).coll 0 = { run := some cd } ∧
    ((stCo { run := some cd }).coll 0).since + 10000000 ≤ (stCo {}).clock.now := by decide

set_option maxRecDepth 100000 in
theorem test_coll_chunk : ((((stCo { run := some cd, en := true }).dropColl 0 false).bufWrite (cd.chunk / 65536 + 2) 0 (cd.chunkVa (cd.recvs 0)) (List.replicate 256 (1 : Byte))).1 = true) := by decide

set_option maxRecDepth 100000 in
theorem test_coll : runs (exec (.collRunStart 0) { stCo { en := true, desc := 0x1000 } with mem := { host := (stCo {}).mem.host.dropLast } }) (fun t => (t.coll 0).run == none) = true ∧
    runs (exec (.collEnable 0 0 0x100) (stCo {})) (fun t => (t.coll 0).en) = true ∧
    runs (exec (.collStepTimeout 0) (stCo { en := true, run := some cd })) (fun t => !(t.coll 0).en && (t.coll 0).run == none) = true := by decide

/-- A flit on a bundle. -/
def se : SentEddy := { seq := 3, vc := 1, first := 0, line := 0, body := [] }

/-- Bundle 0 is up with a flit unacknowledged; bundle 128 is the last of its I/O die; eight segments of the bridge of die 0 are in
service, and all of die 1. -/
def stDd : State := { stLk 0 with d2d := { bundles := [(0, { state := 0, dir0 := { unacked := [se] } }), (128, { state := 0 })] ++ ((List.range 8).map (fun i => 160 + i) ++ (List.range 16).map (fun i => 176 + i)).map (fun n => (n, { state := 0 })) } }

/-- A control flit whose first granule of messages is not 0: CTL is bit 15 of the header (R395). -/
def ctl : List (BitVec 144) := eddyGranules (2 ^ 15) 0 0 0 0 [9]

set_option maxRecDepth 100000 in
theorem test_eddy_control : ((decodeFlit ctl).1.map (fun l => l.take 2)) = some [(BitVec.ofNat 128 (2 ^ 15), false), (9, false)] ∧
    runs (exec (.eddyFlit 0 0 ctl) stDd) (fun t => t.out == [.eddyControl 0 0 (9, false)]) = true := by decide

theorem test_eddy_clauses : decodeFlit (List.replicate 16 0) = (some (List.replicate 16 (0, false)), []) ∧ decodeFlit [] = (none, []) ∧ (stDd.bundle 0).state = 0 ∧
    bit (0 : BitVec 128).toNat 15 = false ∧ bit (0 : BitVec 128).toNat 26 = false ∧ BitVec.ofNat 10 (0 : BitVec 128).toNat = ((stDd.bundle 0).dir 0).rxExpected ∧
    stDd.drains = [] ∧ (stDd.bundle 128).dir0.unacked ++ (stDd.bundle 128).dir0.waiting = [] ∧ stDd.cutsDie 0 = false ∧ stDd.cutsDie 128 = true ∧ (stDd.bundle 128).state = 0 ∧ popc 16 (stDd.segs 0 &&& ~~~(BitVec.ofNat 16 (1 <<< 3))).toNat < 8 ∧
    (stDd.bundle (160 + 16 * 0 + 3)).state = 0 ∧ (stDd.bundle (160 + 16 * 1 + 3)).state = 0 ∧ 8 ≤ popc 16 (stDd.segs 1 &&& ~~~(BitVec.ofNat 16 (1 <<< 3))).toNat ∧ ((stDd.bundle 0).dir 0).unacked = [se] ∧ ((stDd.bundle 0).dir 0).progressAt + 2000 ≤ stDd.clock.now := by decide

set_option maxRecDepth 100000 in
theorem test_eddy : runs (exec (.eddyFlit 0 0 (List.replicate 16 0)) stDd) (fun t => ((t.bundle 0).dir 0).rxExpected == 1 &&
      t.out == [.eddyDeliver 0 0 0 0 (List.replicate 15 (0, false))]) = true ∧
    runs (exec (.bundleFence 0) stDd) (fun t => (t.bundle 0).state == 2 && (t.bundle 0).dir0.unacked == []) = true ∧
    runs (exec (.bridgeSegmentFence 0 3) stDd) (fun t => t.segs 0 == 0xF7 && t.d2d.bridgeFenced == 1) = true := by decide

/-- A launch whose dependency counter, in host memory, has reached its value. -/
def stPoll : State :=
  { stTg with tlb := [{ agent := 8193, inst := 0, va := 0, log2 := 16, leaf := 0x10000000000007 }], mem := { host := [(0x2000, 5)] }, launches := [{ inst := 0, idx := 0, dctr := true, daddr := 0x2000, dval := 5 }] }
theorem test_poll_clause : (match stPoll.pollWord 0 0 0x2000 5 with
      | (.ok b, _) => b
      | _ => false) = true ∧ runs (exec (.dependencyPoll 0 0) stPoll) (fun t => (t.launch 0 0).map (fun l => l.ctrMet) == some true) = true := by decide


/-! ## Power, temperature, errors -/

/-- A running module: sector 0 has choice 5 and its full cap and ceiling and a change ordered, sector 1 is gated, sector 2 in pre-trip. -/
def stPow (f : Foehn := {}) : State :=
  { stOpen with clock := { now := 2000000000 }, foehn := { f with sectors := [(0, { choice := 5, ceil := 20, ordered := some 0 }), (1, { gate := true }), (2, { pretrip := true, coolSince := some 5 })] }, therm := { sens := [(7, { temp := 5 })] } }

theorem test_foehn_clauses : (stPow).powered = true ∧ (stPow { disagree := 10 }).foehn.diverged = false ∧ (stPow { agree := 100, diverged := true }).foehn.diverged = true ∧
    (stPow { attainSince := some 3, unattainable := true }).foehn.attainSince = some 3 ∧ 3 + 10 ^ 8 ≤ (stPow).clock.now ∧ (stPow).peakOk 4000000 = false ∧
    (stPow).unheld 0 = true ∧ (stPow).stepOf 0 = 5 ∧ ((stPow).sectorClk 0).ordered.isSome = true ∧ fld (0x80014 : BitVec 32).toNat 0 5 ≤ 20 ∧
    (stPow).err.secfenced.getLsbD 0 = false ∧ (stPow).drains = [] ∧ (0x80014 : BitVec 32).getLsbD 19 = true ∧ ((stPow).sectorClk 0).gate = false ∧
    (0x14 : BitVec 32).getLsbD 19 = false ∧ ((stPow).sectorClk 1).gate = true ∧ ((stPow).sectorClk 0).mhz ≠ 0 := by decide

/-- With a correction factor of 0 every predicted power is 0: it reaches a limit of 0 and stays below any other. -/
theorem test_predict_zero (k : Foehn) (f : Figures) (c : List Nat) (h : k.diverged = false) (z : k.kfact = 0) : (stPow k).predict f c = 0 := by
  simp [State.predict, stPow, h, z]

theorem test_floor_power (k : Foehn) (f : Figures) (h : k.diverged = false) (z : k.kfact = 0) : (stPow k).floorPower f = 0 :=
  test_predict_zero k f _ h z

/-- The last averages alone break a sustained limit of 1 W; with none, and currents predicted as 0, no limit is broken. -/
theorem test_broken (f : Figures) : (stPow { kfact := 0, sust := 1, window := [5000000] }).broken f = 1 ∧ (stPow { kfact := 0 }).broken f = 0 := by
  constructor
  · simp only [State.broken, test_predict_zero { kfact := 0, sust := 1, window := [5000000] } f _ rfl rfl]; rfl
  · have h : ∀ n, (stPow { kfact := 0 }).currentOk f n = true := by intro n; simp [State.currentOk, stPow]
    simp only [State.broken, test_predict_zero { kfact := 0 } f _ rfl rfl, h]; decide

theorem test_foehn_floor (f : Figures) :
    (stPow { kfact := 0, sust := 0 }).foehn.sust.toNat * 1000 ≤ (stPow { kfact := 0, sust := 0 }).floorPower f ∧
    (stPow { kfact := 0, peak := 0 }).floorPower f < (stPow { kfact := 0, peak := 0 }).foehn.sust.toNat * 1000 ∧
    (stPow { kfact := 0, peak := 0 }).foehn.peak.toNat * 1000 ≤ (stPow { kfact := 0, peak := 0 }).floorPower f ∧
    (stPow { kfact := 0 }).floorPower f < (stPow { kfact := 0 }).foehn.peak.toNat * 1000 := by
  rw [test_floor_power _ f rfl rfl, test_floor_power _ f rfl rfl, test_floor_power _ f rfl rfl]
  decide

set_option maxRecDepth 100000 in
theorem test_foehn : runs (exec (.correctionFactor 3000 2000) (stPow)) (fun t => t.foehn.kfact == 0x180 && t.foehn.meas == 3 && t.foehn.disagree == 1) = true ∧
    runs (exec (.clockChange 0) (stPow)) (fun t => (t.sectorClk 0).mhz == 1125 && (t.sectorClk 0).step == 5) = true ∧
    runs (exec (.droop ⟨0, 51⟩) (stPow)) (fun t => (t.sectorClk 0).droops.reg == 1 && !(t.sectorClk 0).stretched) = true ∧
    runs (exec (.droop ⟨0, 51⟩) ((stPow).updSectorClk 0 (fun k => { k with mhz := 1125 }))) (fun t => (t.sectorClk 0).stretched) = true ∧
    runs (exec (.droop ⟨0, 50⟩) (stPow)) (fun t => (t.sectorClk 0).droops.reg == 0) = true := by decide

theorem test_trimmed (raw : BitVec 16) : (stPow).trimmed 9 raw = raw := by
  have h1 := raw.toInt_lt
  have h2 := raw.le_toInt
  simp only [State.trimmed]
  rw [show NMap.at (stPow).board.applied.ttrim 9 0 = 0 from rfl, Int.add_zero, Int.min_eq_right (by omega), Int.max_eq_right (by omega),
    BitVec.ofInt_toInt]

theorem test_therm_clauses : ((stPow).sensor 9).fail = false ∧ trips (BitVec.ofInt 16 (degC 112)) = false ∧ (BitVec.ofInt 16 (degC 112)).toInt > degC 110 ∧
    (BitVec.ofInt 16 (degC (-5))).toInt ≤ degC 110 ∧ trips (BitVec.ofInt 16 (degC (-5))) = false ∧ trips (BitVec.ofInt 16 (degC 115)) = true ∧
    ((stPow).sectorClk 2).coolSince = some 5 ∧ ((stPow).sectorClk 2).pretrip = true ∧ 5 + 10 ^ 6 ≤ (stPow).clock.now := by decide

set_option maxRecDepth 100000 in
theorem test_therm : runs (exec (.thermalSample 9 (BitVec.ofInt 16 (degC 112))) (stPow)) (fun t => (t.sectorClk 2).pretrip && (t.sensor 9).temp == 0x7000) = true ∧
    runs (exec (.preTripExit 2) (stPow)) (fun t => !(t.sectorClk 2).pretrip) = true ∧ runs (exec (.sensorFailed 9) (stPow)) (fun t => (t.sensor 9).fail) = true := by decide

/-- The error block with FUNIT a unit; the bridge of die 1 is fenced. -/
def stErr (u : BitVec 32) : State := { stOpen with err := { funit := u }, d2d := { bridgeFenced := 2 }, foehn := { energy := { ovf := true } } }

theorem test_fence_clauses : (0x80000001 : BitVec 32).getLsbD 31 = true ∧
    (stErr 0).err.fence = none ∧
    fenceable 0 = false ∧
    (stErr 0).drains = [] ∧
    (stErr (bridgeUnit 0)).logicalUnit (bridgeUnit 0) = some (bridgeUnit 0) ∧
    fenceable (bridgeUnit 0) = true ∧
    (stErr (bridgeUnit 1)).logicalUnit (bridgeUnit 1) = some (bridgeUnit 1) ∧
    fenceable (bridgeUnit 1) = true ∧
    (stErr (sliceUnit 3)).logicalUnit (sliceUnit 3) = some (sliceUnit 3) ∧
    fenceable (sliceUnit 3) = true ∧
    (stErr (coreUnit 5)).logicalUnit (coreUnit 5) = some (coreUnit 5) ∧
    fenceable (coreUnit 5) = true ∧
    unitNumber (bridgeUnit 1) = some 1 ∧
    (stErr 0).outOfService (bridgeUnit 1) 1 = true ∧
    unitNumber (bridgeUnit 0) = some 0 ∧
    (stErr 0).outOfService (bridgeUnit 0) 0 = false ∧
    (stErr 0).wouldBeFatal (bridgeUnit 0) 0 = true ∧
    unitNumber (sliceUnit 3) = some 3 ∧
    (stErr 0).outOfService (sliceUnit 3) 3 = false ∧
    (stErr 0).wouldBeFatal (sliceUnit 3) 3 = false ∧
    unitCores (sliceUnit 3) = [] ∧
    unitNumber (coreUnit 5) = some 5 ∧
    (stErr 0).outOfService (coreUnit 5) 5 = false ∧
    (stErr 0).wouldBeFatal (coreUnit 5) 5 = false ∧
    unitCores (coreUnit 5) = [5] ∧
    (1 : BitVec 32).getLsbD 31 = false ∧
    (stErr 0).err.fatal = false ∧
    ({ stErr 0 with err := { fatal := true } } : State).err.fatal = true ∧
    (stErr 0).foehn.energy.ovf = true ∧
    (stErr 0).foehn.energy.told = false ∧
    (stErr 0).foehn.satev = false ∧
    (stErr 0).blockOpen 0 (0x40018 / 2 ^ 16) = true ∧
    ((stErr 0).wide 0x40018).isSome = true ∧
    cstatAt 0x40018 = none ∧
    (stErr 0).wide 0x4001C = none ∧
    (NMap.find ((stErr 0).readWord 0x40018).2.latch.high 0x40018).isSome = true := by
  and_intros <;> decide

set_option maxRecDepth 100000 in
theorem test_fence : runs (exec (.errFence 0 0x80000000) (stErr 0)) (fun t => t.err.result == 3) = true ∧
    runs (exec (.errFence 0 0x80000000) (stErr (bridgeUnit 1))) (fun t => t.err.result == 1) = true ∧
    runs (exec (.errFence 0 0x80000000) (stErr (bridgeUnit 0))) (fun t => t.err.result == 2 && t.err.logtail == 1) = true ∧
    runs (exec (.counterLowRead 0 ⟨0x40018, 4⟩) (stErr 0)) (fun t => t.out.length == 1) = true := by decide


/-! ## Starts, staging, self-test, registers, board, sideband -/

/-- A start whose last completed step is n, and a report without findings. -/
def stStart (n : BitVec 3) (st : BitVec 3 := 0) (b : Boot := {}) : State :=
  { State.reset with host := { step := n }, boot := { b with starting := some true, stage := st } }
def rep : StepReport := { overrun := false, prmError := false, failed := [], bundles := [], hbmTrimOk := true, us := 10 }

/-- An image of one section of kind 2 without bytes, whose digest's low byte is d. -/
def img (d : Byte) : NMap Byte :=
  [(28, 1), (64, 2), (68, 0), (69, 0), (70, 0), (71, 0), (72, 0), (73, 0), (74, 0), (75, 0), (80, d)]

/-- Of two images with different digests over the same bytes, one does not match. -/
theorem test_image_digest : imageDigests (img 0) (fun k => k = 2) = false ∨ imageDigests (img 1) (fun k => k = 2) = false := by
  have h0 : imageDigests (img 0) (fun k => k = 2) = ((decide ((Config.shake256 []).toNat = 2 ^ 256 - 256)) && true) := rfl
  have h1 : imageDigests (img 1) (fun k => k = 2) = ((decide ((Config.shake256 []).toNat = 2 ^ 256 - 255)) && true) := rfl
  rw [h0, h1]
  by_cases h : (Config.shake256 []).toNat = 2 ^ 256 - 256
  · right; rw [h]; decide
  · left; rw [decide_eq_false h]; rfl

theorem test_start_clauses : State.reset.board.rails = true ∧
    State.reset.board.pwrGood = true ∧
    State.reset.therm.tripped = false ∧
    State.reset.boot.starting = none ∧
    State.reset.boot.held = false ∧
    State.reset.host.step = 0 ∧
    ({ State.reset with boot := { held := true } } : State).boot.held = true ∧
    (stStart 1 2).boot.starting = some true ∧
    (stStart 1 2).host.failed = false ∧
    (stStart 1 2).boot.stage = 2 ∧
    ({ stStart 1 with host := { step := 1, recovery := true } } : State).host.recovery = true ∧
    (stStart 2).dieCause { rep with failed := [stewardUnit 0] } ≠ 0 ∧
    (stStart 2).boot.stage ≠ 3 ∧
    ({ stOpen with boot := { svnDue := true } } : State).boot.svnDue = true ∧
    stOpen.host.ready = true ∧
    stOpen.bootOpen 0 = true := by
  and_intros <;> decide

theorem test_start : runs (exec (.coldStart {}) State.reset) (fun t => t.boot.starting == some true) = true ∧
    runs (exec (.startStepDone rep) (stStart 0)) (fun t => t.host.step == 1 && t.pers.bootcnt == 1) = true ∧
    runs (exec (.startStepDone { rep with prmError := true }) (stStart 2)) (fun t => t.host.failed && t.boot.cause == 6 && t.boot.failstep == 3 && t.pers.failcnt == 1) = true ∧
    runs (exec (.startStepDone { rep with failed := [stewardUnit 0] }) (stStart 2)) (fun t => t.host.failed && t.boot.cause == 1) = true ∧
    runs (exec .fuseSvn { stOpen with boot := { svnDue := true, svn := 3 } }) (fun t => t.boot.fusesvn == 3) = true := by decide

theorem test_staging_clauses : stOpen.bootOpen 0 = true ∧
    (1 : BitVec 32).getLsbD 0 = true ∧
    (1 : BitVec 32).getLsbD 1 = false ∧
    (2 : BitVec 32).getLsbD 1 = true ∧
    (2 : BitVec 32).getLsbD 0 = false ∧
    (stStart 0).dport.waiting = [] ∧
    ({ stOpen with dport := { waiting := [.write 1 4 [7]] } } : State).dport.waiting = [.write 1 4 [7]] ∧
    (PortAccess.read [] 4).stages = false ∧
    4 + ([7] : List Byte).length ≤ 2 ^ 26 ∧
    stOpen.imageReason [] ≠ 0 ∧
    stOpen.bist.busy = false ∧
    stOpen.testRefusal 0 false (linkUnit 0) = some 6 ∧
    stOpen.testRefusal 2 false (linkUnit 0) = none ∧
    (0x80000000 : BitVec 32).getLsbD 31 = true := by
  and_intros <;> decide


/-- A self-test of core 5 that has drained, and one of link 3. -/
def stBist (u : BitVec 32) (target : BitVec 2) : State :=
  { stOpen with bist := { unit := u, target := target, busy := true }, drains := [{ unit := u, why := .test, since := 0, begun := true, acted := true }] }

theorem test_bist_clauses : (stBist (coreUnit 5) 0).testActed = true ∧
    (stBist (coreUnit 5) 0).bist.busy = true ∧
    (stBist (coreUnit 5) 0).bist.scanned = false ∧
    (stBist (coreUnit 5) 0).fencedCore 5 = false ∧
    (stBist (linkUnit 3) 2).bist.unit = linkUnit 3 ∧
    (stBist (linkUnit 3) 2).testGoesOn = false ∧
    ({ stBist (linkUnit 3) 2 with bist := { unit := linkUnit 3, left := [1] }, ael := { links := [(3, { state := 2 })] } } : State).testGoesOn = true ∧
    (stBist (linkUnit 3) 2).testActed = true ∧
    NMap.find ((stLk 0).link 3).laneFails 1 = none ∧
    widest ({ (stLk 0).link 3 with laneFails := NMap.ins [] 1 0 } : Link).sound ≠ 0 := by
  and_intros <;> decide

theorem test_bist_refused : runs (exec (.bistGo 0 0x80000000) stOpen) (fun t => t.bist.result == 6) = true := by decide
theorem test_scan : runs (exec (.scanDone []) (stBist (coreUnit 5) 0)) (fun t => t.bist.scanned && t.bist.fails == 0) = true := by decide
theorem test_staging : runs (exec .stageEraseDone { stOpen with boot := { erasing := true, staging := [(9, 1)] }, dport := { waiting := [.write 1 4 [7]] } }) (fun t => t.boot.staging == [(4, 7)]) = true ∧
    runs (exec .verifyDone { stOpen with boot := { stage := 1 } }) (fun t => t.boot.stage == 5 && t.boot.reason == 1) = true := by decide

/-- A staging area that is verified and whose byte 70 has been written twice. -/
def stRw : State := { stOpen with boot := { stage := 1, rewritten := [70] } }

/-- The image is rejected, whatever it says (R473). -/
theorem test_rewritten : (∃ a ∈ stRw.boot.rewritten, a < max 4096 (flashNat stRw.boot.staging 24 4)) ∧
    runs (exec .verifyDone stRw) (fun t => t.boot.stage == 5) = true := by
  refine ⟨⟨70, by decide, by decide⟩, ?_⟩
  have h : stRw.stagedReason = (if stRw.draw.1.getLsbD 0 then 1 else 6, stRw.draw.2) := rfl
  simp only [exec, execVerifyDone, h]
  generalize stRw.draw.1.getLsbD 0 = b
  cases b <;> rfl

/-- A failing spare that serves nothing is marked, and a later test of it is refused (R479). -/
theorem test_spare : inTest (positionUnit (0, 17)) 0 17 = true ∧ stOpen.logicalOf 0 17 = none ∧
    runs (exec (.scanDone [(0, 17)]) (stBist (positionUnit (0, 17)) 0)) (fun t =>
      t.bist.spares == [(0, 17)] && t.testRefusal 0 false (positionUnit (0, 17)) == some 4) = true := by decide

/-- An image is valid once the header passes, which needs the signature's opaque answer, and the digests and correction sets do. -/
theorem test_image_valid (s : State) (m : NMap Byte) (h : s.headerReason m = 0) (d : imageDigests m (fun _ => true) = true) (c : s.corrected m = true) :
    s.imageReason m = 0 := by simp [State.imageReason, h, d, c]

theorem test_register_clauses : stOpen.regOpen 0 = true ∧
    State.reset.blockOpen 0 (0xD4000 / 2 ^ 16) = false ∧
    sustIn ((2500 : BitVec 64).toNat % 2 ^ 12) stOpen.pers.peak.toNat = true ∧
    sustIn ((4000 : BitVec 64).toNat % 2 ^ 12) stOpen.pers.peak.toNat = false ∧
    stOpen.earlyOpen 0 = true ∧
    (stOpen.inst 0).ring.en = false ∧
    (stOpen.inst 0).entries = [] ∧
    stOpen.mbAnswers 0 = true ∧
    (1 : BitVec 32).getLsbD 0 = true ∧
    (({ stOpen with insts := [(0, { ring := { en := true } })] } : State).inst 0).ring.en = true := by
  and_intros <;> decide

theorem test_register : runs (exec (.registerWrite 0 0xD4014 4 0x8) stOpen) (fun t => NMap.at t.ael.route 5 0 == 8) = true ∧
    runs (exec (.registerWrite 0 0x30014 4 0x5) stOpen) (fun t => t.cad.losspol == 0x500000000) = true ∧
    runs (exec (.registerWrite 0 0x11000 8 0x12345) stOpen) (fun t => (t.inst 0).ring.sqbase == 0x12000) = true ∧
    runs (exec (.persDefaults 0 1) { stOpen with pers := { sust := 9, failcnt := 3 } }) (fun t => t.pers.sust == 2800 && t.pers.failcnt == 3) = true ∧
    runs (exec (.configurationRequest 0x68 true 0x40) stOpen) (fun t => t.host.atomicOps) = true := by decide

/-- The module in standby with the rails down, tripped or not. -/
def stOff (tr : Bool) (b : Board := {}) : State :=
  { State.reset with clock := { now := 20000000 }, board := { b with rails := false, pwrGood := false }, therm := { tripped := tr } }

theorem test_board_clauses : (stOff false { pwrEn := false }).board.pwrEn = false ∧
    (stOff false { pwrEn := false }).board.rails = false ∧
    (stOff false { pwrEn := false }).board.standby = true ∧
    (stOff false { pwrEn := false }).board.overvolt = false ∧
    (stOff true { pwrEn := false }).board.pwrOffAt + 10 ^ 7 ≤ (stOff true { pwrEn := false }).clock.now ∧
    (stOff true { pwrOffAt := 15000000 }).clock.now < (stOff true { pwrOffAt := 15000000 }).board.pwrOffAt + 10 ^ 7 ∧
    (stOff false).board.pwrEn = true ∧
    (stOff false).board.hotTrip = false ∧
    stOpen.board.rails = true ∧
    ({ stOpen with host := { dll := true } } : State).host.dll = true ∧
    (({ stOpen with ael := { links := [(3, { state := 2 })] } } : State).link 3).state = 2 ∧
    (stMb 0x43 [] 4).board.calBuf = none := by
  and_intros <;> decide

/-- The bytes of a calibration block of form that are not 0. -/
def calOk : NMap Byte := [(0, 1), (0x42, 1), (0x46, 1)] ++ (List.range 64).map (fun n => (0x80 + 2 * n, 60))
theorem le_at_bytes (b : NMap Byte) (off n : Nat) : leAt (NMap.bytes 0 b 0 4096) off n = ofLe (NMap.bytes 0 b off (min n (4096 - off))) := by
  unfold leAt NMap.bytes
  congr 1
  apply List.ext_getElem
  · simp
  · intro i h1 h2
    simp
theorem le_at_past (off n : Nat) (h : 256 ≤ off) : leAt (NMap.bytes 0 calOk 0 4096) off n = 0 := by
  rw [le_at_bytes]
  have hk : ∀ k, 256 ≤ k → NMap.at calOk k 0 = 0 := by
    intro k hk
    have hl : ∀ e ∈ calOk, e.1 ≠ k := by
      have : ∀ e ∈ calOk, e.1 < 256 := by decide
      intro e he
      have := this e he
      omega
    have hf : ∀ m : NMap Byte, (∀ e ∈ m, e.1 ≠ k) → NMap.find m k = none := by
      intro m
      induction m with
      | nil => intro _; rfl
      | cons e m ih =>
        intro h
        have h1 := h e (by simp)
        simp [NMap.find, h1, ih (fun x hx => h x (by simp [hx]))]
    simp [NMap.at, hf calOk hl]
  have : ∀ l : List Nat, ofLe (l.map (fun i => NMap.at calOk (off + i) 0)) = 0 := by
    intro l
    induction l with
    | nil => rfl
    | cons x l ih =>
      show (NMap.at calOk (off + x) 0).toNat + 256 * _ = 0
      rw [hk (off + x) (by omega), ih]
      rfl
  exact this _
theorem test_cal_bad : calForm (NMap.bytes 0 [] 0 4096) 0 = false := by
  unfold calForm
  simp only [le_at_bytes]
  decide
theorem test_cal_form : calForm (NMap.bytes 0 calOk 0 4096) 0 = true := by
  unfold calForm
  simp (disch := omega) only [le_at_past]
  simp only [le_at_bytes]
  decide +kernel

theorem test_board : runs (exec .pwrEnAssert (stOff false { pwrEn := false })) (fun t => t.board.rails && t.board.pwrGood) = true ∧
    runs (exec .pwrEnAssert (stOff true { pwrEn := false, pwrOffAt := 15000000 })) (fun t => !t.board.rails && t.therm.tripped) = true ∧
    runs (exec (.pwrEnDeassert (some 40999)) stOpen) (fun t => !t.board.rails && !t.board.standby) = true ∧
    runs (exec (.pwrEnDeassert (some 66001)) stOpen) (fun t => !t.board.rails && t.board.overvolt && t.board.standby) = true ∧
    runs (exec (.vinUp 43000) (stOff false { standby := false })) (fun t => t.board.rails && t.board.standby) = true ∧
    runs (exec (.pwrEnDeassert (some 64999)) (stOff false { overvolt := true })) (fun t => t.board.rails && !t.board.overvolt) = true ∧
    runs (exec (.vinUp 66001) stOpen) (fun t => !t.board.rails && t.board.overvolt) = true := by decide
set_option maxRecDepth 100000 in
theorem test_pins : runs (exec .hotSwapTrip stOpen) (fun t => !t.board.rails && t.board.hotTrip) = true ∧
    runs (exec .linkDown { stOpen with host := { dll := true } }) (fun t => t.host.stopped && !t.host.dll) = true ∧
    runs (exec .prsntNBreak { stOpen with ael := { links := [(3, { state := 2 })] } }) (fun t => t.out.length == 1 && t.host.stopped) = true ∧
    runs (exec (.locate 0) (stMb 0x44 [(1, 1)] 4)) (fun t => t.board.locate) = true := by decide

theorem test_sideband_clauses : State.reset.board.standby = true ∧
    State.reset.board.i3cAddr = none ∧
    (1 : Byte).toNat < 2 ∧
    (8 : Byte) ≠ 0 ∧
    (8 : Byte) ≠ 0xFF ∧
    ({ stOpen with board := { pldm := [(3, true)] } } : State).board.pldm = [(3, true)] ∧
    stOpen.stateSensor 5 = NMap.at stOpen.board.sensorState 5 false ∧
    stOpen.stateSensor 0 ≠ NMap.at stOpen.board.sensorState 0 false ∧
    stOpen.bootOpen 0 = true ∧
    stOpen.boot.stage ≠ 3 ∧
    stOpen.boot.erasing = false ∧
    4 + ([7] : List Byte).length ≤ 2 ^ 26 ∧
    2 ^ 26 < 2 ^ 26 + ([7] : List Byte).length := by
  and_intros <;> decide

theorem test_sideband : runs (exec (.mctpControl 1 [0, 9]) State.reset) (fun t => t.board.eid == 9 && t.out == [.sideband 0x5A State.reset.board.unit 0 1 [0, 0, 9, 0]]) = true ∧
    runs (exec (.pldmCommand 0 1 [5]) State.reset) (fun t => t.board.tid == 5) = true ∧
    runs (exec (.vdmWrite 4 [7]) stOpen) (fun t => t.boot.staging == [(4, 7)]) = true ∧
    runs (exec .vdmArm stOpen) (fun t => t.boot.stage == 1) = true ∧ runs (exec (.vdmLocate true) stOpen) (fun t => t.board.locate) = true := by decide

/-! ## The machine -/

theorem test_queue : State.reset.pending = [] ∧ (Instr.cadInEdge).wf = true ∧ (Instr.nop 8192 0 0).wf = false ∧ sectorOf (1024 * 7 + 64 * 15 + 63) = 63 := by decide

/-- Each kind of unit, one past the last: the command is ill-formed; and the last one, which is not. -/
theorem test_ill_formed : [Instr.nop 8192 0 0, .nop 0 16 0, .taskTake 8192, .contextKill 64 0, .stealChoose 128 0 0, .stealChoose 0 64 0, .stealRequest 0 128 0 0, .commitReservation 128,
    .drain (blockUnit 4 0), .retryResponse 256 0, .hbmBurstSlot 1024, .recalibrationWindow 16 0, .recalibrationWindow 0 32, .hbmTemperatureRead 16 0, .nearHomeFlushDone 64, .doorbell 64 0 0, .query 64,
    .linkTrainingRetry 24, .laneFailure 0 4, .replayTimeout 472, .packetRoute (some 24) 0 Packet.zero, .collRunStart 64, .bundleFence 160, .eddyFlit 224 0 [], .eddyFlit 0 2 [], .bridgeSegmentFence 4 0, .bridgeSegmentFence 0 16,
    .clockChange 64, .sensorFailed 280, .unitFenced 0 ⟨true, [], none⟩].all (fun c => !c.wf) = true := by decide
theorem test_well_formed : [Instr.nop 8191 15 0, .taskTake 8191, .contextKill 63 0, .stealRequest 127 127 63 0, .drain (coreUnit 8191), .drain (sectorUnit 63), .retryResponse 255 0, .hbmBurstSlot 1023, .recalibrationWindow 15 31,
    .laneFailure 23 3, .replayTimeout 471, .packetRoute none 0 Packet.zero, .collRunStart 63, .eddyFlit 223 1 [], .bridgeSegmentFence 3 15, .clockChange 63, .sensorFailed 279].all (fun c => c.wf) = true := by decide


/-! ## Further witnesses -/

theorem test_wsum_poison : wsumPoison grp .wsumInit 3940649684467792 = none ∧
    wsumPoison grp .wsumAdd 17451448572870736 = none ∧
    wsumPoison { grp with poisoned := [8 * 16] } .wsumAdd 17451448572870736 = some 0 ∧
    stPark.waitsRestore 0 0 = false ∧
    st1.walkWaits 0 0 0x200000 = false := by
  and_intros <;> decide

set_option maxRecDepth 20000 in
theorem test_ring_more : diff32 0 ((stRg []).inst 0).ring.cqhead ≤ 0 ∧
    diff32 0 ((stRg []).inst 0).ring.eqhead ≤ 0 ∧
    stCp.writeWaits agentPort 0 .write 0x200040 4 = false ∧
    stV.walkWaits agentPart 0 0x200000 = false ∧
    stV.wholeBlock 0 = false := by
  and_intros <;> decide

theorem test_mailbox_more : (mbR 0x43 [] 4).opcode = 0x43 ∧
    (mbR 0x38 [(1, 1)] 4).opcode = 0x38 ∧
    (stMb 0x38 [(1, 1)] 4).lcsAllowed 1 = false ∧
    (let s : State := { stOpen with clock := { now := 5 }, sec := { tlogAt := [(0, 3, 4)] } }; s.sec.tlogAt.find? (fun e => e.1 = 0 && s.clock.now < e.2.2 + 10 ^ 9)) = some (0, 3, 4) ∧
    ({ stOpen with sec := { lockInForce := true } } : State).sec.lockInForce = true ∧
    ({ stOpen with bist := { unit := linkUnit 3, target := 2, busy := true, left := [1] } } : State).testsLane 3 1 = true ∧
    stOpen.board.rails = true ∧
    ({ stOpen with board := { calProgramming := true } } : State).board.calProgramming = true ∧
    unitKind (clusterUnit 4) = 2 ∧
    fenceable (clusterUnit 4) = true ∧
    stOpen.logicalUnit (clusterUnit 4) = some (clusterUnit 4) ∧
    unitNumber (clusterUnit 4) = some 4 ∧
    stOpen.outOfService (clusterUnit 4) 4 = false := by
  and_intros <;> decide

theorem test_start_store : headerGood (flipBytes [0, 0] []) = false ∧ ({ cell := .lost } : StartInputs).cell = .lost := by
  constructor
  · simp [flipBytes, headerGood, leAt, ofLe]
  · rfl

/-- A flipped bit of the header's format field: 1 becomes 2, which no store has (R447). -/
theorem test_store_format : leAt (flipBytes (leBytes 2 1) [(0, 3)]) 0 2 = 2 := by decide

/-- A command of instance 0's ring leaves an instance beside it; a write that is not of instance 0 changes nothing (R314). -/
theorem test_apart : runs (exec (.eqdb 0 3) (stRg [])) (fun t => t.inst 5 == (stRg []).inst 5) = true ∧
    runs (exec (.reelClr 1 1) stOpen) (fun t => t == stOpen) = true ∧ (1 : Nat) ≠ 0 := by decide

/-- The end of CALCOMMIT, after which a loss of power does
no harm (R497). -/
theorem test_cal_end : runs (exec (.mailboxCommandEnd 0) { stOpen with board := { calProgramming := true }, insts := [(0, { state := .active, mb := { running := some { mbR 0x43 [] 4 with result := some (0, []) } } })] })
    (fun t => !t.board.calProgramming && (t.inst 0).mb.running == none) = true := by decide

set_option maxRecDepth 20000 in
/-- Upset bits in a Reel queue: one is corrected, and the cluster stays (R439). -/
theorem test_queue_upset : (decodeGranule 0 false (1 : BitVec 144).toNat).1 ≠ .uncorrectable ∧
    runs (exec (.unitFenced (clusterUnit 4) ⟨true, [], some ⟨.reelQueue, 1⟩⟩) stOpen) (fun t => (t.cluster 4).ce == 1) = true := by decide


end Sys2Proof.Tests
end

section
/-! SUPPORT. Entries of the submission ring: what ENTRY_FETCH and TAGGED_RELEASE do (R182, R307, R312, R325 to R327). -/

namespace Sys2Proof.Machine
open Sys2Proof

/-! ## ENTRY_FETCH and TAGGED_RELEASE -/

/-- The entry that stands at SQHEAD, as host memory holds it (R326). -/
def State.headEntry (s : State) (i : Nat) : Entry :=
  { index := (s.inst i).ring.sqhead,
    bytes := s.hostRead i ((s.inst i).ring.sqbase.toNat + 128 * ((s.inst i).ring.sqhead.toNat % 2 ^ (s.inst i).ring.sqlog)) 128,
    held := false, free := false, started := false }

/-- SQHEAD moved past an entry, the entry listed, and a LAUNCH noted (R182, R326). -/
def State.listEntry (s : State) (i : Nat) (e : Entry) : State :=
  let v := s.updInst i (fun x => { x with ring := { x.ring with sqhead := e.index + 1 }, entries := x.entries ++ [e] })
  if e.ty = 1 then v.updInst i (fun x => { x with launchLog := ((e.index, none) :: x.launchLog).take 4096 }) else v

theorem listEntry_clustersOf (s : State) (i j : Nat) (e : Entry) : (s.listEntry i e).clustersOf j = s.clustersOf j := by
  unfold State.listEntry; split <;> rfl

theorem listEntry_runsUntagged (s : State) (i j : Nat) (e : Entry) : (s.listEntry i e).runsUntagged j = s.runsUntagged j := by
  unfold State.listEntry; split <;> rfl

theorem listEntry_cad (s : State) (i : Nat) (e : Entry) : (s.listEntry i e).cad = s.cad := by
  unfold State.listEntry; split <;> rfl

/-- What ENTRY_FETCH does where the part may fetch, u being the state that lists the entry: the checks in the order of R325, then
the beat tag (R307, R312). -/
theorem exec_entryFetch {s : State} {i : Nat} (hi : i < 64) (hm : s.mayFetch i = true) {e : Entry} (he : e = s.headEntry i)
    {u : State} (hu : u = s.listEntry i e) :
    exec (.entryFetch i) s = .next (
      if e.f 2 2 ≠ e.index.toNat % 2 ^ 16 then u.complete i e.index.toNat 2
        (if e.wellFormed (s.clustersOf i).length then e.resultSoFar (s.clustersOf i).length else 0)
      else if e.f 4 2 ≠ (s.inst i).gen.toNat then u.complete i e.index.toNat 3
        (if e.wellFormed (s.clustersOf i).length then e.resultSoFar (s.clustersOf i).length else 0)
      else if !e.wellFormed (s.clustersOf i).length then u.complete i e.index.toNat 1 0
      else if e.beatTag = 0 then u
      else if s.runsUntagged i then u.updEntry i e.index.toNat (fun x => { x with free := true })
      else if e.beatTag ≤ s.cad.beat.toNat then
        { u.updEntry i e.index.toNat (fun x => { x with free := true }) with cad := { s.cad with late := s.cad.late.add 1 } }
      else u.updEntry i e.index.toNat (fun x => { x with held := true })) := by
  rw [← listEntry_clustersOf s i i e, ← listEntry_runsUntagged s i i e, ← listEntry_cad s i e, ← hu]
  show execEntryFetch i s = _
  unfold execEntryFetch onUnit
  rw [decide_eq_true hi, hm]
  subst hu he
  rfl

/-- An entry changed under its index, read back. -/
theorem updEntry_entry {s : State} {i idx : Nat} {f : Entry → Entry} (hf : ∀ e, (f e).index = e.index) :
    (s.updEntry i idx f).entry i idx = (s.entry i idx).map f := by
  have hp : (fun e : Entry => decide (e.index.toNat = idx)) ∘ (fun e => if e.index.toNat = idx then f e else e)
      = fun e => decide (e.index.toNat = idx) := by
    funext e; simp only [Function.comp]; split <;> simp [*]
  simp only [State.updEntry, State.entry, updInst_eq, setInst_inst, if_true, List.find?_map, hp]
  cases h : (s.inst i).entries.find? (fun e => decide (e.index.toNat = idx)) with
  | none => rfl
  | some o =>
    have ho : o.index.toNat = idx := by simpa using List.find?_some h
    simp [ho]

theorem updEntry_mem (s : State) (i idx : Nat) (f : Entry → Entry) : (s.updEntry i idx f).mem = s.mem := rfl

/-- TAGGED_RELEASE of a held entry whose tag is reached, or that runs untagged, frees it (R307, R312). -/
theorem exec_taggedRelease {s : State} {i idx : Nat} {o : Entry} (hi : i < 64) (ho : s.entry i idx = some o) (hh : o.held = true)
    (ht : o.beatTag ≤ s.cad.beat.toNat ∨ s.runsUntagged i = true) :
    exec (.taggedRelease i idx) s = .next (s.updEntry i idx (fun e => { e with held := false, free := true })) := by
  show execTaggedRelease i idx s = _
  simp [execTaggedRelease, onUnit, hi, ho, hh, ht]

/-- Settles O32: each check of R325 and each outcome of the beat tag is one branch of `exec_entryFetch`; the release is
`exec_taggedRelease`, read back through `updEntry_entry`. -/
theorem entriesFetched : Obligations.EntriesFetched := by
  unfold Obligations.EntriesFetched
  intro s i e hi hm he
  refine ⟨fun v u hv hu => ?_, fun idx o ho hh ht => ?_⟩
  · have hfetch := exec_entryFetch hi hm he (hu.trans (by rw [hv]; rfl))
    refine ⟨fun h2 => ?_, fun h2 h4 => ?_, fun h2 h4 hw => ?_, fun h2 h4 hw => ⟨fun hb => ?_, fun hb hr => ?_, fun hb hr hl => ?_,
      fun hb hr hl => ?_⟩⟩
    · rw [hfetch, if_pos h2]
    · rw [hfetch, if_neg (not_not.2 h2), if_pos h4]
    · rw [hfetch, if_neg (not_not.2 h2), if_neg (not_not.2 h4), hw]; rfl
    all_goals rw [hfetch, if_neg (not_not.2 h2), if_neg (not_not.2 h4), hw]
    · simp [hb]
    · simp [hb, hr]
    · simp [hb, hr, hl]
    · simp [hb, hr, Nat.not_le.2 hl]
  · exact ⟨_, exec_taggedRelease hi ho hh ht, by rw [updEntry_entry (by simp), ho]; rfl, updEntry_mem _ _ _ _⟩

end Sys2Proof.Machine
end

section
/-! SUPPORT. Register writes, configuration space and the sideband's STATUS (R8, R256, R321, R323, R354, R383, R500, R505, R508). -/

namespace Sys2Proof.Machine
open Sys2Proof

/-! ## Arrays of registers -/

theorem arrayAt_below {off base : Nat} (stride n : Nat) (h : off < base) : arrayAt off base stride n = none := by
  simp [arrayAt, Nat.not_le.2 h]

theorem arrayAt_above {off base stride n : Nat} (h : base + stride * n ≤ off) : arrayAt off base stride n = none := by
  simp [arrayAt, Nat.not_lt.2 h]

/-- The first register of a member of an array. -/
theorem arrayAt_member {base stride n i : Nat} (hi : i < n) (hs : 0 < stride) :
    arrayAt (base + stride * i) base stride n = some (i, 0) := by
  have hlt : stride * i < stride * n := Nat.mul_lt_mul_of_pos_left hi hs
  rw [arrayAt, Nat.add_sub_cancel_left, Nat.mul_div_cancel_left _ hs, Nat.mul_mod_right]
  simp [hlt]

/-! ## Halves of a register -/

/-- A low half written keeps the high one (R505). -/
theorem setFld_low (w v : Nat) : setFld w 0 32 v = w / 2 ^ 32 * 2 ^ 32 + v % 2 ^ 32 := by
  simp only [setFld, fld, Nat.shiftRight_zero]; omega

/-- The high half of a 64-bit register written keeps the low one (R505). -/
theorem setFld_high {w : Nat} (hw : w < 2 ^ 64) (v : Nat) : setFld w 32 32 v = w % 2 ^ 32 + v % 2 ^ 32 * 2 ^ 32 := by
  simp only [setFld, fld, Nat.shiftRight_eq_div_pow]; omega

/-! ## REGISTER_WRITE -/

variable {s : State}

/-- A write of a wrong size or alignment is discarded (R8). -/
theorem exec_registerWrite_malformed {off size : Nat} (v : BitVec 64) (h : (size ≠ 4 ∧ size ≠ 8) ∨ off % size ≠ 0) :
    exec (.registerWrite 0 off size v) s = .next s := by
  show execRegisterWrite 0 off size v s = _
  have hbad : (!(decide (size = 4) || decide (size = 8)) || decide (off % size ≠ 0)) = true := by
    rcases h with ⟨h4, h8⟩ | h <;> simp [*]
  unfold execRegisterWrite
  rw [if_pos hbad]

/-- A write of 4 or 8 aligned bytes below 2^26 is one to BAR0, which its block answers or not (R319, R505). -/
theorem exec_registerWrite_bar0 {off size : Nat} (v : BitVec 64) (hs : size = 4 ∨ size = 8) (ha : off % size = 0)
    (ho : off < 2 ^ 26) : exec (.registerWrite 0 off size v) s =
      .next (if s.blockOpen 0 (off / 2 ^ 16) then s.writeBar0 off size v.toNat else s) := by
  show execRegisterWrite 0 off size v s = _
  have hgood : ¬ (!(decide (size = 4) || decide (size = 8)) || decide (off % size ≠ 0)) = true := by
    rcases hs with h | h <;> simp [h] <;> simpa [h] using ha
  unfold execRegisterWrite
  rw [if_neg hgood, if_pos ho]

/-- A write to a word of a page of BAR4, which stands at 2^26 + 2^16 i (R354, R506). -/
theorem exec_registerWrite_page {i o : Nat} (v : BitVec 64) (hi : o < 2 ^ 16) (ha : o % 4 = 0) (hp : s.pageOpen i o = true) :
    exec (.registerWrite 0 (2 ^ 26 + 2 ^ 16 * i + o) 4 v) s = .next (s.writePage i o (v.toNat % 2 ^ 32)) := by
  show execRegisterWrite 0 (2 ^ 26 + 2 ^ 16 * i + o) 4 v s = _
  have hal : (2 ^ 26 + 2 ^ 16 * i + o) % 4 = 0 := by omega
  have hbar : ¬ 2 ^ 26 + 2 ^ 16 * i + o < 2 ^ 26 := by omega
  have hpage : (2 ^ 26 + 2 ^ 16 * i + o - 2 ^ 26) / 2 ^ 16 = i := by omega
  have hword : (2 ^ 26 + 2 ^ 16 * i + o) % 2 ^ 16 = o := by omega
  unfold execRegisterWrite
  rw [if_neg (by rw [hal]; decide), if_neg hbar]
  simp only [hpage, hword, hp, Bool.not_true, Bool.false_eq_true, if_false, if_true]

/-! ## Words of BAR0 -/

/-- A word that is no half of a 64-bit register is written alone (R505). -/
theorem writeBar0_word {off : Nat} (v : Nat) (hw : s.wide off = none) (hh : off % 8 = 4 → s.wide (off - 4) = none) :
    s.writeBar0 off 4 v = s.writeWord off (v % 2 ^ 32) := by
  have hhigh : (if off % 8 = 4 then s.wide (off - 4) else none) = none := by
    split
    · exact hh ‹_›
    · rfl
  simp only [State.writeBar0, if_true, State.writeHalf, hw, hhigh]

/-- A 64-bit register written whole, CAD.SWBEAT excepted (R505). -/
theorem writeBar0_wide {off r : Nat} (v : Nat) (hw : s.wide off = some r) (hb : off ≠ 0x030028) :
    s.writeBar0 off 8 v = s.writeWide off v := by
  simp [State.writeBar0, hw, hb]

/-- The low half of a 64-bit register written. -/
theorem writeBar0_low {off r : Nat} (v : Nat) (hw : s.wide off = some r) :
    s.writeBar0 off 4 v = s.writeWide off (setFld r 0 32 (v % 2 ^ 32)) := by
  simp only [State.writeBar0, if_true, State.writeHalf, hw]

/-- The high half of a 64-bit register outside FOEHN written. -/
theorem writeBar0_high {off r : Nat} (v : Nat) (hw : s.wide (off + 4) = none) (hl : s.wide off = some r) (ha : (off + 4) % 8 = 4)
    (hb : (off + 4) / 2 ^ 16 ≠ 0x04) : s.writeBar0 (off + 4) 4 v = s.writeWide off (setFld r 32 32 (v % 2 ^ 32)) := by
  simp only [State.writeBar0, if_true, State.writeHalf, hw, ha, hb, if_false, Nat.add_sub_cancel, hl]

theorem writeWord_id {off : Nat} (v : Nat) (ho : off < 2 ^ 16) : s.writeWord off v = s := by
  have hblk : off / 2 ^ 16 = 0 := Nat.div_eq_of_lt ho
  unfold State.writeWord; rw [hblk]; rfl

theorem writeWide_id {off : Nat} (v : Nat) (ho : off < 2 ^ 16) : s.writeWide off v = s := by
  have hblk : off / 2 ^ 16 = 0 := Nat.div_eq_of_lt ho
  unfold State.writeWide; rw [hblk]; rfl

/-- The ID block takes no write (R407). -/
theorem writeBar0_id {off size : Nat} (v : Nat) (ha : off % size = 0) (hs : size = 4 ∨ size = 8) (ho : off < 2 ^ 16) :
    s.writeBar0 off size v = s := by
  have hblk : off / 2 ^ 16 ≠ 0x04 := by omega
  rcases hs with rfl | rfl
  · simp only [State.writeBar0, if_true, State.writeHalf]
    split
    · exact writeWide_id _ ho
    · rw [if_neg hblk]; exact writeWide_id _ (by omega)
    · exact writeWord_id _ ho
  · have hbeat : off ≠ 0x030028 := by omega
    simp only [State.writeBar0, hbeat, if_false]
    split
    · exact absurd ‹_› (by omega)
    · split
      · exact writeWide_id _ ho
      · rw [writeWord_id _ ho, writeWord_id _ (by omega)]

/-- AEL.ROUTE[m] (R383). -/
theorem writeBar0_route {m : Nat} (v : Nat) (hm : m < 4096) : s.writeBar0 (0xD4000 + 4 * m) 4 v =
    { s with ael := { s.ael with route := NMap.put 0 s.ael.route m (BitVec.ofNat 24 (v % 2 ^ 32)) } } := by
  have hblk : (0xD4000 + 4 * m) / 2 ^ 16 = 0x0D := by omega
  have hoff : (0xD4000 + 4 * m) % 2 ^ 16 = 0x4000 + 4 * m := by omega
  have hnot : ∀ o, 0xD3000 ≤ o → o < 0xD8000 → s.wide o = none := fun o h1 h2 => by
    have hb : o / 2 ^ 16 = 0x0D := by omega
    have ho : o % 2 ^ 16 < 0x9000 := by omega
    simp only [State.wide, hb, State.reg64, arrayAt_below _ _ ho]
  have hroute : arrayAt (0x4000 + 4 * m) 0x4000 4 4096 = some (m, 0) := arrayAt_member hm (by omega)
  have hlink : arrayAt (0x4000 + 4 * m) 0x100 0x10 24 = none := arrayAt_above (by omega)
  rw [writeBar0_word v (hnot _ (by omega) (by omega)) (fun _ => hnot _ (by omega) (by omega))]
  simp only [State.writeWord, hblk, hoff]
  unfold State.writeAel
  split
  · omega
  · omega
  · rw [hlink, hroute]

/-- LLC.QUOTA[n] (R256). -/
theorem writeBar0_quota {n : Nat} (v : Nat) (hn : n < 256) : s.writeBar0 (0xB0400 + 4 * n) 4 v =
    { s with llc := { s.llc with quota := NMap.put 8 s.llc.quota n (quotaOf (v % 2 ^ 32)) } } := by
  have hblk : (0xB0400 + 4 * n) / 2 ^ 16 = 0x0B := by omega
  have hoff : (0xB0400 + 4 * n) % 2 ^ 16 = 0x400 + 4 * n := by omega
  have hnot : ∀ o, 0xB0000 ≤ o → o < 0xB1000 → s.wide o = none := fun o h1 h2 => by
    have hb : o / 2 ^ 16 = 0x0B := by omega
    have ho : o % 2 ^ 16 < 0x1000 := by omega
    simp only [State.wide, hb, State.reg64, arrayAt_below _ _ ho]
  have hquota : arrayAt (0x400 + 4 * n) 0x400 4 256 = some (n, 0) := arrayAt_member hn (by omega)
  have hthrash : arrayAt (0x400 + 4 * n) 0x40 4 7 = none := arrayAt_above (by omega)
  rw [writeBar0_word v (hnot _ (by omega) (by omega)) (fun _ => hnot _ (by omega) (by omega))]
  simp only [State.writeWord, hblk, hoff]
  unfold State.writeLlc
  split
  · omega
  · omega
  · rw [hthrash, hquota]

/-- PERS.SUST: in range it is taken, and the measurement of the persistent settings with it (R508, R509). -/
theorem writeBar0_sust (v : Nat) : s.writeBar0 0xA0000 4 v =
    if sustIn (v % 2 ^ 12) s.pers.peak.toNat then { s with pers := { s.pers with sust := BitVec.ofNat 12 v } }.measurePers else s := by
  have hv : v % 2 ^ 32 % 2 ^ 12 = v % 2 ^ 12 := by omega
  have hbv : BitVec.ofNat 12 (v % 2 ^ 32) = BitVec.ofNat 12 v := by apply BitVec.eq_of_toNat_eq; simp
  rw [writeBar0_word v rfl (fun h => absurd h (by decide))]
  show (if sustIn (v % 2 ^ 32 % 2 ^ 12) s.pers.peak.toNat then _ else s) = _
  rw [hv, hbv]

theorem measurePers_pers (s : State) : s.measurePers.pers = s.pers := rfl
theorem measurePers_foehn (s : State) : s.measurePers.foehn = s.foehn := rfl

theorem wide_losspol : s.wide 0x30010 = some s.cad.losspol.toNat := rfl

theorem writeWide_losspol (v : Nat) : s.writeWide 0x30010 v = { s with cad := { s.cad with losspol := BitVec.ofNat 64 v } } := rfl

/-- HOST.RING SQBASE (R323): taken while the ring is disabled and empty. -/
theorem writeBar0_sqbase {i : Nat} (v : Nat) (hi : i < 64) : s.writeBar0 (0x11000 + 0x40 * i) 8 v =
    if (s.inst i).ring.en || (s.inst i).entries ≠ [] then s
    else s.updInst i (fun x => { x with ring := { x.ring with sqbase := BitVec.ofNat 64 (v / 4096 * 4096) } }) := by
  have hblk : (0x11000 + 0x40 * i) / 2 ^ 16 = 0x01 := by omega
  have hoff : (0x11000 + 0x40 * i) % 2 ^ 16 = 0x1000 + 0x40 * i := by omega
  have hring : arrayAt (0x1000 + 0x40 * i) 0x1000 0x40 64 = some (i, 0) := arrayAt_member hi (by omega)
  have hwide : s.wide (0x11000 + 0x40 * i) = some (s.inst i).ring.sqbase.toNat := by
    simp only [State.wide, State.reg64, hblk, hoff, hring]
  rw [writeBar0_wide v hwide (by omega)]
  simp only [State.writeWide, hblk, hoff, hring]

/-- A word of a mailbox's command area (R354; DESIGN CHOICE, log 110). -/
theorem writePage_command {i o : Nat} (v : Nat) (ho : o < 0xFFC) : s.writePage i o v =
    s.updInst i (fun x => { x with mb := { x.mb with cmd := NMap.putBytes 0 x.mb.cmd o (leBytes 4 v) } }) := by
  simp only [State.writePage, ho, if_true]

/-- PERS.CTRL sets the defaults, but for GALEPOL where it is read-only and for the two counts (R508). -/
theorem exec_persDefaults {w : BitVec 32} (hr : s.regOpen 0 = true) (hw : w.getLsbD 0 = true) :
    exec (.persDefaults 0 w) s = .next s.persDefaults := by
  show execPersDefaults 0 w s = _
  simp only [execPersDefaults, hr, hw, Bool.and_self, if_true]

/-! ## Configuration space and the sideband -/

/-- A bit that has been set to a value has it. -/
theorem setFld_bit (w i : Nat) (b : Bool) : (setFld w i 1 (b2n b)).testBit i = b := by
  have hb : b2n b % 2 ^ 1 = b2n b := by cases b <;> rfl
  have hw : 2 ^ i * (w / 2 ^ i) + w % 2 ^ i = w := Nat.div_add_mod w (2 ^ i)
  have hle : w / 2 ^ i % 2 ≤ w / 2 ^ i := Nat.mod_le _ _
  have hset : setFld w i 1 (b2n b) = 2 ^ i * (w / 2 ^ i - w / 2 ^ i % 2 + b2n b) + w % 2 ^ i := by
    rw [setFld, fld, Nat.shiftRight_eq_div_pow, hb, pow_one, Nat.mul_add, Nat.mul_sub, Nat.mul_comm _ (2 ^ i), Nat.mul_comm _ (2 ^ i)]
    have := Nat.mul_le_mul_left (2 ^ i) hle
    omega
  rw [hset, Nat.testBit_eq_decide_div_mod_eq, Nat.mul_add_div (Nat.two_pow_pos i), Nat.div_eq_of_lt (Nat.mod_lt _ (Nat.two_pow_pos i))]
  cases b <;> simp [b2n] <;> omega

theorem exec_configurationRequest_write {w : BitVec 32} {off : Nat} (ho : s.earlyOpen 0 = true) (ha : off % 4 = 0)
    (hl : off < 4096) : exec (.configurationRequest off true w) s = .next (s.writeConfig off w.toNat) := by
  show execConfigurationRequest off true w s = _
  simp [execConfigurationRequest, ho, ha, Nat.not_le.2 hl]

/-- A configuration read answers a free value in which the fields that the manual fixes are set (R321). -/
theorem exec_configurationRequest_read {w : BitVec 32} {off : Nat} (ho : s.earlyOpen 0 = true) (ha : off % 4 = 0)
    (hl : off < 4096) : exec (.configurationRequest off false w) s = .next (s.draw.2.send (.readCompletion (leBytes 4
      ((s.configFields off).foldl (fun r e => setFld r e.1 e.2.1 e.2.2) (s.draw.1.toNat % 2 ^ 32))) false)) := by
  show execConfigurationRequest off false w s = _
  simp [execConfigurationRequest, ho, ha, Nat.not_le.2 hl]
  rfl

/-- STATUS of the sideband (R500). -/
theorem exec_vdmStatus (hb : s.bootOpen 0 = true) : exec .vdmStatus s = .next (s.sendSideband 0x7F 1
    (leBytes 4 s.hostStat ++ leBytes 4 s.bootStat ++ leBytes 4 s.stageReg ++ leBytes 4 s.errStat)) := by
  show execVdmStatus s = _
  simp [execVdmStatus, State.vdm, hb]

/-- The blocks that answer from READY alone (R319). -/
theorem blockOpen_regOpen {src blk : Nat} (h2 : 2 < blk) (h7 : blk ≠ 7) (h8 : blk ≠ 8) : s.blockOpen src blk = s.regOpen src := by
  have h1 : ¬ blk ≤ 1 := by omega
  have hn : ¬ blk = 2 := by omega
  simp [State.blockOpen, h1, hn, h7, h8]

/-- An aligned write of BAR0 to a block that answers from READY alone. -/
theorem exec_registerWrite_ready {off size : Nat} (v : BitVec 64) (hr : s.regOpen 0 = true) (hs : size = 4 ∨ size = 8)
    (ha : off % size = 0) (hlo : 0x30000 ≤ off) (hhi : off < 2 ^ 26) (h7 : off / 2 ^ 16 ≠ 7) (h8 : off / 2 ^ 16 ≠ 8) :
    exec (.registerWrite 0 off size v) s = .next (s.writeBar0 off size v.toNat) := by
  rw [exec_registerWrite_bar0 v hs ha hhi, blockOpen_regOpen (by omega) h7 h8, hr, if_pos rfl]

/-- Writes of CAD.LOSSPOL, whole or by halves, and of PERS.SUST. -/
theorem exec_registerWrite_settings (v : BitVec 64) (hr : s.regOpen 0 = true) :
      (exec (.registerWrite 0 0x30010 8 v) s = .next { s with cad := { s.cad with losspol := v } }) ∧
      (exec (.registerWrite 0 0x30010 4 v) s =
        .next { s with cad := { s.cad with losspol := BitVec.ofNat 64 (s.cad.losspol.toNat / 2 ^ 32 * 2 ^ 32 + v.toNat % 2 ^ 32) } }) ∧
      (exec (.registerWrite 0 0x30014 4 v) s =
        .next { s with cad := { s.cad with losspol := BitVec.ofNat 64 (s.cad.losspol.toNat % 2 ^ 32 + v.toNat % 2 ^ 32 * 2 ^ 32) } }) ∧
      (sustIn (v.toNat % 2 ^ 12) s.pers.peak.toNat = true → ∃ t, exec (.registerWrite 0 0xA0000 4 v) s = .next t ∧
        t.pers = { s.pers with sust := BitVec.ofNat 12 v.toNat } ∧ t.foehn = s.foehn) ∧
      (sustIn (v.toNat % 2 ^ 12) s.pers.peak.toNat = false → exec (.registerWrite 0 0xA0000 4 v) s = .next s) := by
  have hsust := exec_registerWrite_ready v hr (.inl rfl) (by decide : 0xA0000 % 4 = 0) (by omega) (by omega) (by omega) (by omega)
  rw [writeBar0_sust] at hsust
  refine ⟨?_, ?_, ?_, fun hs => ?_, fun hs => ?_⟩
  · rw [exec_registerWrite_ready v hr (.inr rfl) (by decide) (by omega) (by omega) (by omega) (by omega),
      writeBar0_wide _ wide_losspol (by decide), writeWide_losspol, BitVec.ofNat_toNat, BitVec.setWidth_eq]
  · rw [exec_registerWrite_ready v hr (.inl rfl) (by decide) (by omega) (by omega) (by omega) (by omega),
      writeBar0_low _ wide_losspol, writeWide_losspol, setFld_low, Nat.mod_mod]
  · rw [exec_registerWrite_ready v hr (.inl rfl) (by decide) (by omega) (by omega) (by omega) (by omega),
      writeBar0_high _ rfl wide_losspol (by decide) (by decide), writeWide_losspol,
      setFld_high s.cad.losspol.isLt, Nat.mod_mod]
  · rw [hs, if_pos rfl] at hsust
    exact ⟨_, hsust, measurePers_pers _, measurePers_foehn _⟩
  · rw [hs, if_neg Bool.false_ne_true] at hsust
    exact hsust

theorem configFields_class : s.configFields 0x08 = [(8, 24, 0x120000)] := rfl

theorem configFields_atomicOps : s.configFields 0x68 = [(6, 1, b2n s.host.atomicOps)] := rfl

theorem configFields_bar0 : s.configFields 0x10 = [(0, 32, (NMap.at s.host.bars 0 0).toNat % 2 ^ 32 + 4)] := rfl

/-- One field set. -/
theorem foldl_setFld (f lo n v : Nat) :
    [(lo, n, v)].foldl (fun r (e : Nat × Nat × Nat) => setFld r e.1 e.2.1 e.2.2) f = setFld f lo n v := rfl

/-- The upper 24 bits of a word of 32 bits, read after they have been set. -/
theorem setFld_upper {f v : Nat} (hf : f < 2 ^ 32) (hv : v < 2 ^ 24) : setFld f 8 24 v / 2 ^ 8 = v := by
  rw [setFld, fld, Nat.shiftRight_eq_div_pow]
  omega

/-- What the manual fixes of three words of configuration space: the class code, the AtomicOp bit and the low half of BAR 0 (R317,
R319, R321). -/
theorem configFields_read (f off : Nat) (hf : f < 2 ^ 32) (r : Nat)
    (hr : r = (s.configFields off).foldl (fun r e => setFld r e.1 e.2.1 e.2.2) f) :
    (off = 0x08 → r / 2 ^ 8 = 0x120000) ∧ (off = 0x68 → r.testBit 6 = s.host.atomicOps) ∧
    (off = 0x10 → (NMap.at s.host.bars 0 0).toNat % 2 ^ 26 = 0 → r = (NMap.at s.host.bars 0 0).toNat % 2 ^ 32 + 4) := by
  refine ⟨fun h => ?_, fun h => ?_, fun h hb => ?_⟩
  · rw [hr, h, configFields_class, foldl_setFld, setFld_upper hf (by decide)]
  · rw [hr, h, configFields_atomicOps, foldl_setFld, setFld_bit]
  · rw [hr, h, configFields_bar0, foldl_setFld, setFld_low]
    omega

/-- Settles O52: each clause is one access, answered by the lemma of its register. -/
theorem registerWrites : Obligations.RegisterWrites := by
  unfold Obligations.RegisterWrites
  intro s v
  refine ⟨fun off size h => exec_registerWrite_malformed v h, fun off size ho hc => ?_, fun off size ho => ?_, fun m hm hr => ?_,
    fun n hn hr => ?_, exec_registerWrite_settings v, fun i hi he => ?_, fun i o hi ho ha hm => ?_, fun w hr hw => ?_,
    fun w off he ha hl => ⟨exec_configurationRequest_write he ha hl, fun h => ?_, ?_⟩, exec_vdmStatus⟩
  · by_cases h : (size ≠ 4 ∧ size ≠ 8) ∨ off % size ≠ 0
    · exact exec_registerWrite_malformed v h
    · rw [exec_registerWrite_bar0 v (by omega) (by omega) ho, hc]; rfl
  · by_cases h : (size ≠ 4 ∧ size ≠ 8) ∨ off % size ≠ 0
    · exact exec_registerWrite_malformed v h
    · rw [exec_registerWrite_bar0 v (by omega) (by omega) (by omega), writeBar0_id _ (by omega) (by omega) ho, ite_self]
  · have hv : BitVec.ofNat 24 (v.toNat % 2 ^ 32) = v.truncate 24 := by apply BitVec.eq_of_toNat_eq; simp
    rw [exec_registerWrite_ready v hr (.inl rfl) (by omega) (by omega) (by omega) (by omega) (by omega), writeBar0_route _ hm, hv]
  · have hv : quotaOf (v.toNat % 2 ^ 32) = BitVec.ofNat 4 (min 12 (v.toNat % 16)) := by
      rw [quotaOf, Nat.mod_mod_of_dvd _ (by decide)]
    rw [exec_registerWrite_ready v hr (.inl rfl) (by omega) (by omega) (by omega) (by omega) (by omega), writeBar0_quota _ hn, hv]
  · have hblk : (0x11000 + 0x40 * i) / 2 ^ 16 ≤ 1 := by omega
    have hopen : s.blockOpen 0 ((0x11000 + 0x40 * i) / 2 ^ 16) = true := by rw [State.blockOpen, if_pos hblk, he]
    have hring : exec (.registerWrite 0 (0x11000 + 0x40 * i) 8 v) s = _ :=
      exec_registerWrite_bar0 v (.inr rfl) (by omega) (by omega)
    rw [hopen, if_pos rfl, writeBar0_sqbase _ hi] at hring
    exact ⟨fun hen hent => by rw [hring, hen, hent]; rfl, fun hen => by rw [hring, hen]; rfl⟩
  · have hopen : s.pageOpen i o = true := by
      have hlow : o < 0x2000 := by omega
      simp [State.pageOpen, hi, hlow, hm]
    rw [exec_registerWrite_page v (by omega) ha hopen, writePage_command _ ho]
  · exact ⟨_, exec_persDefaults hr hw, rfl⟩
  · subst h; rfl
  · exact ⟨_, exec_configurationRequest_read he ha hl, configFields_read _ _ (Nat.mod_lt _ (by decide)) _ rfl⟩

end Sys2Proof.Machine
end

section
/-! SUPPORT. What the operations of the homes leave alone: the LLC's registers, whether a slice is fenced, and with these where every
line has its home; and every slice that is no line's home (R236 to R239). -/

namespace Sys2Proof.Machine
open Sys2Proof

/-! ## Operations that touch no slice -/

/-- The LLC's registers and every slice are as they were. -/
structure SameHomes (b t : State) : Prop where
  llc : t.llc = b.llc
  slices : t.slices = b.slices

variable {b s t : State}

theorem SameHomes.refl (s : State) : SameHomes s s := ⟨rfl, rfl⟩

theorem SameHomes.ite {u : State} (c : Prop) [Decidable c] (ht : SameHomes b t) (hu : SameHomes b u) :
    SameHomes b (if c then t else u) := by
  split
  · exact ht
  · exact hu

theorem SameHomes.hbmPut (h : SameHomes b s) (pa : Nat) (x : Sector) : SameHomes b (s.hbmPut pa x) := by
  unfold State.hbmPut
  dsimp only
  split <;> exact ⟨h.llc, h.slices⟩

theorem SameHomes.hbmStore (h : SameHomes b s) (n pa : Nat) (x : Sector) (bulk : Bool) : SameHomes b (s.hbmStore n pa x bulk) := by
  unfold State.hbmStore
  split
  · exact h
  · exact ⟨(h.hbmPut pa x).llc, (h.hbmPut pa x).slices⟩

theorem SameHomes.startRestore (h : SameHomes b s) (pa : Nat) (block : Bool) : SameHomes b (s.startRestore pa block) := by
  unfold State.startRestore
  dsimp only
  generalize alignDown pa (if block = true then 4096 else 128) = p
  split
  · exact h
  · exact .ite _ h ⟨h.llc, h.slices⟩

theorem SameHomes.mendSector (h : SameHomes b s) (pa : Nat) (x : Sector) : SameHomes b (s.mendSector pa x) := by
  unfold State.mendSector
  split
  · exact h.startRestore pa false
  · exact h

theorem SameHomes.askSector (h : SameHomes b s) (n a j : Nat) (p : Prio) : SameHomes b (s.askSector n a j p) := by
  unfold State.askSector
  dsimp only
  split
  · exact h
  · exact ⟨h.llc, h.slices⟩

theorem SameHomes.askMiss (h : SameHomes b s) (c : Acc) (n a j : Nat) : SameHomes b (s.askMiss c n a j) := by
  unfold State.askMiss
  split
  · exact h.askSector n a j _
  · exact h

theorem SameHomes.askHbm (h : SameHomes b s) (n : Nat) (r : HomeReq) (secs : BitVec 4) : SameHomes b (s.askHbm n r secs) :=
  List.foldlRecOn _ _ h (fun _ hs j _ => hs.askSector n r.a j r.prio)

/-! ## Caches of clusters -/

theorem SameHomes.updCluster (h : SameHomes b s) (q : Nat) (f : Cluster → Cluster) : SameHomes b (s.updCluster q f) :=
  ⟨h.llc, h.slices⟩

theorem SameHomes.l2Put (h : SameHomes b s) (q : Nat) (l : L2Line) : SameHomes b (s.l2Put q l) := by
  unfold State.l2Put
  dsimp only
  split
  · exact h.updCluster _ _
  · split <;> exact h.updCluster _ _

theorem SameHomes.invalidate (h : SameHomes b s) (a : Nat) (sharers : BitVec 32) (except : Option Nat) :
    SameHomes b (s.invalidate a sharers except) :=
  List.foldlRecOn _ _ h (fun _ hs _ _ => .ite _ (hs.updCluster _ _) hs)

/-! ## Messages between dies -/

theorem SameHomes.setBundle (h : SameHomes b s) (n : Nat) (x : Bundle) : SameHomes b (s.setBundle n x) := ⟨h.llc, h.slices⟩

theorem SameHomes.send (h : SameHomes b s) (m : OutMsg) : SameHomes b (s.send m) := ⟨h.llc, h.slices⟩

theorem SameHomes.transmitEddy (h : SameHomes b s) (n d : Nat) (f : SentEddy) : SameHomes b (s.transmitEddy n d f) :=
  ((h.setBundle _ _).setBundle _ _).send _

theorem SameHomes.sendEddy (h : SameHomes b s) (n d : Nat) (f : SentEddy) : SameHomes b (s.sendEddy n d f) := by
  unfold State.sendEddy
  dsimp only
  split
  · exact h.transmitEddy n d f
  · exact h.setBundle _ _

theorem SameHomes.dieMessage (h : SameHomes b s) (a hemiA d hemiD vc line : Nat) :
    SameHomes b (s.dieMessage a hemiA d hemiD vc line) := by
  unfold State.dieMessage
  split
  · exact h
  · refine List.foldlRecOn _ _ h (fun s hs hop _ => ?_)
    dsimp only
    split
    · exact hs
    · exact hs.sendEddy _ _ _

theorem SameHomes.toHome (h : SameHomes b s) (q a vc : Nat) : SameHomes b (s.toHome q a vc) := h.dieMessage _ _ _ _ _ _

theorem SameHomes.fromHome (h : SameHomes b s) (q a vc : Nat) : SameHomes b (s.fromHome q a vc) := h.dieMessage _ _ _ _ _ _

theorem SameHomes.toItsHome (h : SameHomes b s) (c : Instr) : SameHomes b (s.toItsHome c) := by
  unfold State.toItsHome
  split
  · exact h.toHome _ _ _
  · exact h

/-! ## Records -/

theorem SameHomes.interrupt (h : SameHomes b s) (v : Nat) : SameHomes b (s.interrupt v) := by
  unfold State.interrupt
  dsimp only
  split
  · exact h
  · split
    · exact ⟨h.llc, h.slices⟩
    · exact h.send _

theorem SameHomes.updInst (h : SameHomes b s) (i : Nat) (f : Inst → Inst) : SameHomes b (s.updInst i f) := ⟨h.llc, h.slices⟩

theorem SameHomes.hostWrite (h : SameHomes b s) (i bus : Nat) (bs : List Byte) : SameHomes b (s.hostWrite i bus bs) :=
  ⟨(hostWrite_llc s i bus bs).trans h.llc, (hostWrite_slices s i bus bs).trans h.slices⟩

theorem SameHomes.putRecord (h : SameHomes b s) (i : Nat) (r : Record) : SameHomes b (s.putRecord i r) := by
  unfold State.putRecord
  dsimp only
  split
  · exact (h.hostWrite _ _ _).updInst _ _
  · exact ((h.hostWrite _ _ _).updInst _ _).interrupt _

theorem SameHomes.event (h : SameHomes b s) (i : Nat) (r : Record) : SameHomes b (s.event i r) := by
  unfold State.event
  dsimp only
  split
  · exact h.updInst _ _
  · split
    · exact h.putRecord i r
    · split <;> exact h.updInst _ _

theorem SameHomes.eventTo (h : SameHomes b s) (l : List Nat) (r : Record) : SameHomes b (s.eventTo l r) :=
  List.foldlRecOn _ _ h (fun _ hs i _ => hs.event i r)

theorem SameHomes.eventLater (h : SameHomes b s) (i : Nat) (r : Record) : SameHomes b (s.eventLater i r) := by
  unfold State.eventLater
  split
  · exact h.event i r
  · exact h.updInst _ _

theorem SameHomes.log (h : SameHomes b s) (r : Record) : SameHomes b (s.log r) := ⟨h.llc, h.slices⟩

theorem SameHomes.errRecord (h : SameHomes b s) (code flags : Nat) (u : BitVec 32) (detail : Nat) (dests : List Nat) :
    SameHomes b (s.errRecord code flags u detail dests) := by
  unfold State.errRecord
  dsimp only
  split
  · exact (h.log _).eventTo _ _
  · exact List.foldlRecOn _ _ (h.log _) (fun _ hs i _ => hs.eventLater i _)

theorem SameHomes.regionFailed (h : SameHomes b s) (n pa : Nat) : SameHomes b (s.regionFailed n pa) := by
  unfold State.regionFailed
  split
  · exact h
  · refine SameHomes.errRecord ?_ _ _ _ _ _
    exact ⟨h.llc, h.slices⟩

theorem SameHomes.setPoisoned (h : SameHomes b s) (pa : Nat) : SameHomes b (s.setPoisoned pa) := by
  unfold State.setPoisoned
  split
  · exact h
  · split
    · split
      · exact h.regionFailed _ _
      · exact h
    · exact h

theorem SameHomes.metPoisonAt (h : SameHomes b s) (pa : Nat) : SameHomes b (s.metPoisonAt pa) := by
  unfold State.metPoisonAt
  split
  · exact h.startRestore pa false
  · exact h.setPoisoned pa

end Sys2Proof.Machine
end

section
/-! SUPPORT. The frame of the homes' transactions (R234 to R248). -/

namespace Sys2Proof.Machine
open Sys2Proof

/-! ## Where a line has its home -/

/-- Between two states with the same LLC registers and the same fenced slices no home moves, and no slice of a set has changed,
which holds no line's home. -/
structure HomesKept (away : Nat → Prop) (b t : State) : Prop where
  llc : t.llc = b.llc
  fenced : ∀ n, (t.slice n).fenced = (b.slice n).fenced
  slice : ∀ n, away n → t.slice n = b.slice n
  home : ∀ pa, ¬ away (t.homeSlice pa)

variable {away : Nat → Prop} {b s t : State} {n : Nat}

theorem nextSlice_congr (h : ∀ k, (t.slice k).fenced = (s.slice k).fenced) (f k : Nat) : t.nextSlice f k = s.nextSlice f k := by
  induction f generalizing k with
  | zero => rfl
  | succ f ih => simp only [State.nextSlice, h, ih]

theorem homeSlice_congr (hl : t.llc = s.llc) (h : ∀ k, (t.slice k).fenced = (s.slice k).fenced) (pa : Nat) :
    t.homeSlice pa = s.homeSlice pa := by
  simp only [State.homeSlice, State.nearRange, hl, nextSlice_congr h]

theorem HomesKept.refl (h : ∀ pa, ¬ away (s.homeSlice pa)) : HomesKept away s s := ⟨rfl, fun _ => rfl, fun _ _ => rfl, h⟩

/-- With no slice set apart, every state keeps its homes. -/
theorem HomesKept.refl_none (s : State) : HomesKept (fun _ => False) s s := .refl (fun _ => id)

theorem HomesKept.same (h : HomesKept away b s) (hs : SameHomes s t) : HomesKept away b t := by
  have hsl : ∀ k, t.slice k = s.slice k := fun k => by rw [State.slice, hs.slices, State.slice]
  refine ⟨hs.llc.trans h.llc, fun k => ?_, fun k hk => ?_, fun pa => ?_⟩
  · rw [hsl, h.fenced]
  · rw [hsl, h.slice k hk]
  · rw [homeSlice_congr hs.llc (fun k => by rw [hsl])]; exact h.home pa

/-- A slice that may change, changed but for its fence. -/
theorem HomesKept.updSlice (h : HomesKept away b s) (hn : ¬ away n) {f : Slice → Slice}
    (hf : ∀ x, (f x).fenced = x.fenced := by intro _; rfl) : HomesKept away b (s.updSlice n f) := by
  have hfen : ∀ k, ((s.updSlice n f).slice k).fenced = (s.slice k).fenced := fun k => by
    rw [updSlice_eq, setSlice_slice]
    split
    · rename_i hk; rw [hf, hk]
    · rfl
  refine ⟨h.llc, fun k => (hfen k).trans (h.fenced k), fun k hk => ?_, fun pa => ?_⟩
  · have hkn : k ≠ n := fun e => hn (e ▸ hk)
    rw [updSlice_eq, setSlice_slice, if_neg hkn, h.slice k hk]
  · have hhome : (s.updSlice n f).homeSlice pa = s.homeSlice pa :=
      homeSlice_congr (show (s.updSlice n f).llc = s.llc from rfl) hfen pa
    rw [hhome]; exact h.home pa

theorem HomesKept.ite {u : State} (c : Prop) [Decidable c] (ht : HomesKept away b t) (hu : HomesKept away b u) :
    HomesKept away b (if c then t else u) := by
  split
  · exact ht
  · exact hu

theorem HomesKept.of_snd {α : Type} {p : α × State} {a : α} (h : HomesKept away b p.2) (e : p = (a, t)) : HomesKept away b t := by
  rw [e] at h; exact h

theorem HomesKept.updCluster (h : HomesKept away b s) (q : Nat) (f : Cluster → Cluster) : HomesKept away b (s.updCluster q f) :=
  h.same ((SameHomes.refl s).updCluster q f)

theorem HomesKept.l2Put (h : HomesKept away b s) (q : Nat) (l : L2Line) : HomesKept away b (s.l2Put q l) :=
  h.same ((SameHomes.refl s).l2Put q l)

theorem HomesKept.send (h : HomesKept away b s) (m : OutMsg) : HomesKept away b (s.send m) := h.same ((SameHomes.refl s).send m)

/-! ## Lines and counters of a slice -/

theorem HomesKept.count (h : HomesKept away b s) (hn : ¬ away n) (cls kind k : Nat) : HomesKept away b (s.count n cls kind k) :=
  h.updSlice hn

theorem HomesKept.countBytes32 (h : HomesKept away b s) (hn : ¬ away n) (c : Acc) : HomesKept away b (s.countBytes32 c n) :=
  .ite _ (h.count hn _ _ _) h

theorem HomesKept.countHit (h : HomesKept away b s) (hn : ¬ away n) (c : Acc) (pinned : Bool) :
    HomesKept away b (s.countHit c n pinned) := (h.count hn _ _ _).countBytes32 hn c

theorem HomesKept.setLine (h : HomesKept away b s) (hn : ¬ away n) (l : LlcLine) :
    HomesKept away b (s.updSlice n (fun x => x.setLine l)) := h.updSlice hn

theorem HomesKept.llcEvict (h : HomesKept away b s) (hn : ¬ away n) (l : LlcLine) : HomesKept away b (s.llcEvict n l) := by
  unfold State.llcEvict
  dsimp only
  refine HomesKept.updSlice (List.foldlRecOn _ _ h (fun s hs j _ => ?_)) hn
  have hsame := SameHomes.refl s
  exact .ite _ (hs.same (hsame.hbmStore _ _ _ _)) (.ite _ (hs.same ((hsame.hbmStore _ _ _ _).mendSector _ _)) hs)

theorem HomesKept.llcAlloc (h : HomesKept away b s) (hn : ¬ away n) (c : Acc) (a : Nat) :
    HomesKept away b (s.llcAlloc c n a).2 := by
  unfold State.llcAlloc
  split
  · exact h
  · rename_i w victim _
    refine HomesKept.setLine ?_ hn _
    cases victim with
    | none => exact .ite _ (h.count hn _ _ _) h
    | some v => exact .ite _ ((h.llcEvict hn v).count hn _ _ _) (h.llcEvict hn v)

theorem HomesKept.pinFill (h : HomesKept away b s) (hn : ¬ away n) (c : Acc) (l : LlcLine) :
    HomesKept away b (s.pinFill c n l).2 := by
  unfold State.pinFill
  split
  · exact h
  · split
    · exact h
    · exact h.count hn _ _ _

theorem HomesKept.askMiss (h : HomesKept away b s) (c : Acc) (n a j : Nat) : HomesKept away b (s.askMiss c n a j) :=
  h.same ((SameHomes.refl s).askMiss c n a j)

theorem HomesKept.llcRead (h : HomesKept away b s) (hn : ¬ away n) (c : Acc) (a j : Nat) :
    HomesKept away b (s.llcRead c n a j).2 := by
  have hask := h.askMiss c n a j
  unfold State.llcRead
  split
  · split
    · exact (h.setLine hn _).countHit hn c _
    · split
      · exact (h.setLine hn _).countHit hn c _
      · exact (((hask.pinFill hn c _).setLine hn _).count hn _ _ _).countBytes32 hn c
  · have hcnt : HomesKept away b (((s.askMiss c n a j).count n c.cls (if c.fetched.getLsbD j then 0 else 2) 1).countBytes32 c n) :=
      (hask.count hn _ _ _).countBytes32 hn c
    dsimp only
    split
    · exact hcnt
    · split
      · exact ((hcnt.llcAlloc hn c a).of_snd ‹_›).setLine hn _
      · exact (hcnt.llcAlloc hn c a).of_snd ‹_›

theorem HomesKept.hbmStore (h : HomesKept away b s) (n pa : Nat) (x : Sector) (bulk : Bool) :
    HomesKept away b (s.hbmStore n pa x bulk) := h.same ((SameHomes.refl s).hbmStore n pa x bulk)

theorem HomesKept.llcPut (h : HomesKept away b s) (hn : ¬ away n) (c : Acc) (a j : Nat) (x : Sector) :
    HomesKept away b (s.llcPut c n a j x) := by
  unfold State.llcPut
  dsimp only
  split
  · exact h.setLine hn _
  · split
    · exact h.hbmStore _ _ _ _
    · split
      · exact ((h.llcAlloc hn c a).of_snd ‹_›).setLine hn _
      · exact ((h.llcAlloc hn c a).of_snd ‹_›).hbmStore _ _ _ _

theorem HomesKept.writeBack (h : HomesKept away b s) (hn : ¬ away n) (q : Nat) (l : L2Line) :
    HomesKept away b (s.writeBack q n l) :=
  List.foldlRecOn _ _ h (fun _ hs _ _ =>
    .ite _ ((hs.llcPut hn _ _ _ _).same ((SameHomes.refl _).mendSector _ _)) hs)

/-! ## The directory -/

theorem HomesKept.dirDel (h : HomesKept away b s) (hn : ¬ away n) (a : Nat) : HomesKept away b (s.dirDel n a) :=
  h.updSlice hn

theorem HomesKept.invalidate (h : HomesKept away b s) (a : Nat) (sharers : BitVec 32) (except : Option Nat) :
    HomesKept away b (s.invalidate a sharers except) := h.same ((SameHomes.refl s).invalidate a sharers except)

theorem HomesKept.recall (h : HomesKept away b s) (hn : ¬ away n) (a x : Nat) : HomesKept away b (s.recall n a x) := by
  unfold State.recall
  split
  · exact h
  · exact (h.writeBack hn x _).updCluster _ _

theorem HomesKept.recallEntry (h : HomesKept away b s) (hn : ¬ away n) (e : DirEntry) : HomesKept away b (s.recallEntry n e) := by
  have hr : HomesKept away b (if e.st = DirState.S then s else s.recall n e.a e.owner) := .ite _ h (h.recall hn _ _)
  exact (HomesKept.ite _ hr (hr.invalidate _ _ _)).dirDel hn _

theorem HomesKept.dirPut (h : HomesKept away b s) (hn : ¬ away n) (e : DirEntry) : HomesKept away b (s.dirPut n e) := by
  unfold State.dirPut
  dsimp only
  refine HomesKept.updSlice (.ite _ h ?_) hn
  split
  · exact h.recallEntry hn _
  · exact h

theorem HomesKept.dirTouch (h : HomesKept away b s) (hn : ¬ away n) (a : Nat) : HomesKept away b (s.dirTouch n a) := by
  unfold State.dirTouch
  split
  · exact h.updSlice hn
  · exact h

/-! ## The home's actions -/

theorem HomesKept.takePut (h : HomesKept away b s) (q a : Nat) : HomesKept away b (s.takePut q a) := by
  have hn := h.home (128 * a)
  unfold State.takePut
  split
  · exact h
  · refine HomesKept.updCluster ?_ _ _
    split
    · exact .ite _ (.ite _ ((h.writeBack hn q _).dirPut hn _) ((h.writeBack hn q _).dirDel hn a)) h
    · exact h

theorem HomesKept.homeSector (h : HomesKept away b s) (hn : ¬ away n) (c : Acc) (a j : Nat) (except : Option Nat) :
    HomesKept away b (s.homeSector c n a j except).2 := by
  have ht := h.dirTouch hn a
  unfold State.homeSector
  dsimp only
  split
  · exact ht.countHit hn c _
  · exact ht.llcRead hn c a j

theorem HomesKept.setOwnerState (h : HomesKept away b s) (x a : Nat) (st : L2State) : HomesKept away b (s.setOwnerState x a st) :=
  h.updCluster _ _

theorem HomesKept.homeGetS (h : HomesKept away b s) (q a : Nat) : HomesKept away b (s.homeGetS q a).2 := by
  have hn := h.home (128 * a)
  unfold State.homeGetS
  dsimp only
  split
  · exact h.dirPut hn _
  · split
    · exact h.dirPut hn _
    · exact h.dirPut hn _
    · split <;> split <;> exact (h.setOwnerState _ _ _).dirPut hn _

theorem HomesKept.homeGetM (h : HomesKept away b s) (c : Acc) (q a : Nat) : HomesKept away b (s.homeGetM c q a).2.2.2 := by
  have hn := h.home (128 * a)
  unfold State.homeGetM
  dsimp only
  split
  · exact h.dirPut hn _
  · rename_i e _
    have hi : HomesKept away b (if e.st = DirState.EM then s else s.invalidate a e.sharers (some q)) := .ite _ h (h.invalidate _ _ _)
    split
    · exact hi.dirPut hn _
    · split
      · exact List.foldlRecOn _ _ ((hi.updCluster _ _).dirPut hn _) (fun _ hs _ _ => hs.countHit hn c _)
      · exact hi.dirPut hn _

theorem HomesKept.homeClean (h : HomesKept away b s) (a : Nat) : HomesKept away b (s.homeClean a).2 := by
  unfold State.homeClean
  dsimp only
  split
  · exact h
  · exact h.recallEntry (h.home _) _

theorem HomesKept.rdNA (h : HomesKept away b s) (c : Acc) (pa : Nat) : HomesKept away b (s.rdNA c pa).2 :=
  h.homeSector (h.home _) c _ _ _

/-- The sectors of a RdNA, one after the other. -/
theorem HomesKept.rdNASectors (h : HomesKept away b s) (c : Acc) (a : Nat) (l : List Nat) :
    HomesKept away b (l.foldl (fun (r : LineData × State) j =>
      (r.1.set j (r.2.rdNA c (128 * a + 32 * j)).1, (r.2.rdNA c (128 * a + 32 * j)).2)) ({}, s)).2 :=
  List.foldlRecOn (motive := fun (r : LineData × State) => HomesKept away b r.2) _ _ h (fun _ hr _ _ => hr.rdNA _ _)

theorem HomesKept.wrNA (h : HomesKept away b s) (c : Acc) (pa : Nat) (bs : List PByte) : HomesKept away b (s.wrNA c pa bs) := by
  have hn := h.home pa
  have hc := h.homeClean (lineOf pa)
  unfold State.wrNA
  dsimp only
  split
  · exact (hc.count hn _ _ _).llcPut hn _ _ _ _
  · exact (hc.llcRead hn _ _ _).llcPut hn _ _ _ _

theorem HomesKept.hbmWrite (h : HomesKept away b s) (c : Acc) (pa : Nat) (bs : List PByte) : HomesKept away b (s.hbmWrite c pa bs) := by
  suffices hk : ∀ k s pa bs, HomesKept away b s → HomesKept away b (State.writeNA k s c pa bs) from hk _ _ _ _ h
  intro k
  induction k with
  | zero => exact fun _ _ _ h => h
  | succ k ih =>
    intro s pa bs h
    unfold State.writeNA
    split
    · exact h
    · exact ih _ _ _ (h.wrNA c pa _)

/-! ## Requests of a cluster -/

theorem HomesKept.l2Own (h : HomesKept away b s) (c : Acc) (q a : Nat) : HomesKept away b (s.l2Own c q a).2.2 := by
  have ht := h.takePut q a
  have hown := ht.homeGetM c q a
  unfold State.l2Own
  dsimp only
  split
  · split
    · exact ht.l2Put _ _
    · dsimp only
      exact hown.l2Put _ _
  · dsimp only
    exact hown.l2Put _ _

theorem HomesKept.l2Fill (h : HomesKept away b s) (c : Acc) (q a j : Nat) (l : L2Line) : HomesKept away b (s.l2Fill c q a j l).2 := by
  unfold State.l2Fill
  split
  · exact h
  · exact h.homeSector (h.home _) c a j _

theorem HomesKept.l2Sectors (h : HomesKept away b s) (c : Acc) (q a : Nat) (l : L2Line) (secs : BitVec 4) :
    HomesKept away b (s.l2Sectors c q a l secs).2 :=
  List.foldlRecOn (motive := fun (r : L2Line × State) => HomesKept away b r.2) _ _ h (fun _ hr j _ => hr.l2Fill c q a j _)

theorem HomesKept.serveM (h : HomesKept away b s) (c : Acc) (q a : Nat) (secs : BitVec 4) : HomesKept away b (s.serveM c q a secs) := by
  unfold State.serveM
  dsimp only
  split
  · exact h
  · exact ((h.l2Own c q a).l2Sectors c q a _ secs).l2Put _ _

theorem HomesKept.farHistory (h : HomesKept away b s) (hn : ¬ away n) (a q : Nat) : HomesKept away b (s.farHistory n a q).2 := by
  unfold State.farHistory
  dsimp only
  exact h.updSlice hn

theorem HomesKept.atomFar (h : HomesKept away b s) (c : Acc) (q pa k : Nat) (f : Nat → Nat) :
    HomesKept away b (s.atomFar c q pa k f).2.2 := by
  have hn := h.home pa
  have hread := ((((h.takePut q (lineOf pa)).homeClean (lineOf pa)).farHistory hn (lineOf pa) q).llcRead hn { c with deliver := false }
    (lineOf pa) (pa % 128 / 32))
  unfold State.atomFar
  dsimp only
  split
  · exact hread
  · dsimp only
    exact hread.llcPut hn c _ _ _

theorem HomesKept.dropCopies (h : HomesKept away b s) (hn : ¬ away n) (a : Nat) : HomesKept away b (s.dropCopies n a) := by
  unfold State.dropCopies
  split
  · exact ((h.invalidate _ _ _).updCluster _ _).dirDel hn _
  · exact h

theorem HomesKept.keepPoisoned (h : HomesKept away b s) (hn : ¬ away n) (c : Acc) (a : Nat) (owner : Option L2Line)
    (odirty : BitVec 4) : HomesKept away b (s.keepPoisoned c n a owner odirty) :=
  List.foldlRecOn _ _ h (fun _ hs _ _ => .ite _ (hs.llcPut hn _ _ _ _) hs)

theorem HomesKept.markDead (h : HomesKept away b s) (hn : ¬ away n) (c : Acc) (a : Nat) (dead kept : BitVec 4) :
    HomesKept away b (s.markDead c n a dead kept) := by
  unfold State.markDead
  split
  · split
    · exact h.updSlice hn
    · exact h.setLine hn _
  · refine .ite _ h ?_
    split
    · exact ((h.llcAlloc hn _ a).of_snd ‹_›).setLine hn _
    · exact List.foldlRecOn _ _ ((h.llcAlloc hn _ a).of_snd ‹_›) (fun _ hs _ _ => .ite _ (hs.hbmStore _ _ _ _) hs)

theorem HomesKept.deadLine (h : HomesKept away b s) (c : Acc) (pa : Nat) : HomesKept away b (s.deadLine c pa) := by
  have hn := h.home pa
  unfold State.deadLine
  exact .ite _ h (((h.dropCopies hn _).keepPoisoned hn c _ _ _).markDead hn c _ _ _)

/-- A request served at its home. -/
theorem HomesKept.homeAct (h : HomesKept away b s) (f : BitVec 4) (c : Instr) : HomesKept away b (s.homeAct f c) := by
  unfold State.homeAct
  split
  · rename_i q pa cls secs
    have ht := h.takePut q (lineOf pa.toNat)
    dsimp only
    split
    · exact ht
    · exact ((ht.homeGetS q _).l2Sectors _ q _ _ secs).l2Put _ _
  · exact h.serveM _ _ _ _
  · exact h.serveM _ _ _ _
  · split
    · exact h
    · exact (h.l2Sectors _ _ _ _ _).l2Put _ _
  · exact h.takePut _ _
  · exact h.deadLine _ _
  · dsimp only
    exact HomesKept.send (h.rdNASectors _ _ _) _
  · exact h.hbmWrite _ _ _
  · dsimp only
    exact HomesKept.send (h.atomFar _ _ _ _ _) _
  · exact h

theorem HomesKept.fromHome (h : HomesKept away b s) (q a vc : Nat) : HomesKept away b (s.fromHome q a vc) :=
  h.same ((SameHomes.refl s).fromHome q a vc)

theorem HomesKept.homeServe (h : HomesKept away b s) (f : BitVec 4) (c : Instr) : HomesKept away b (s.homeServe f c) := by
  have hs : HomesKept away b (match l2Request c with
      | some q => (s.homeAct f c).updCluster q (fun x => { x with misses := x.misses.erase c })
      | none => s.homeAct f c) := by
    split
    · exact (h.homeAct f c).updCluster _ _
    · exact h.homeAct f c
  unfold State.homeServe
  dsimp only
  split
  · exact hs.fromHome _ _ _
  · exact hs

theorem HomesKept.refuse (h : HomesKept away b s) (hn : ¬ away n) (c : Instr) (tries : Nat) : HomesKept away b (s.refuse n c tries) :=
  h.updSlice hn

theorem HomesKept.askHbm (h : HomesKept away b s) (n : Nat) (r : HomeReq) (secs : BitVec 4) : HomesKept away b (s.askHbm n r secs) :=
  h.same ((SameHomes.refl s).askHbm n r secs)

/-- A request that arrives at its home. -/
theorem HomesKept.homeEnter (h : HomesKept away b s) (c : Instr) (tries : Nat) : HomesKept away b (s.homeEnter c tries) := by
  unfold State.homeEnter
  split
  · exact h
  · rename_i r _
    have hn := h.home (128 * r.a)
    dsimp only
    split
    · exact .ite _ (h.refuse hn c tries) ((h.updSlice hn).askHbm _ _ _)
    · have hm : ∀ bad : Bool, HomesKept away b (if bad then s.metPoisonAt (128 * r.a) else s) := fun _ =>
        .ite _ (h.same ((SameHomes.refl s).metPoisonAt (128 * r.a))) h
      exact .ite _ ((hm _).refuse hn c tries) (.ite _ ((hm _).homeServe 0 c) (((hm _).updSlice hn).askHbm _ _ _))

/-! ## Waiters -/

theorem HomesKept.serveWaiters (h : HomesKept away b s) (f : BitVec 4) (l : List Instr) : HomesKept away b (s.serveWaiters f l) := by
  induction l generalizing s f with
  | nil => exact h
  | cons c l ih =>
    unfold State.serveWaiters
    exact ih (h.homeServe f c) _

theorem HomesKept.admitRefused (h : HomesKept away b s) (hn : ¬ away n) : HomesKept away b (s.admitRefused n) :=
  List.foldlRecOn _ _ h (fun _ hs r _ => .ite _ hs ((hs.updSlice hn).homeEnter r.request r.tries))

theorem HomesKept.settleSlice (h : HomesKept away b s) (hn : ¬ away n) : HomesKept away b (s.settleSlice n) :=
  (List.foldlRecOn (motive := HomesKept away b) _ _ h (fun _ hs m _ =>
    .ite _ hs ((hs.updSlice hn).serveWaiters 0 m.waiters))).admitRefused hn

theorem HomesKept.l2Enter (h : HomesKept away b s) (c : Instr) : HomesKept away b (s.l2Enter c) := by
  have ht := h.same ((SameHomes.refl s).toItsHome c)
  unfold State.l2Enter
  split
  · exact ht.homeEnter c 0
  · exact .ite _ (h.updCluster _ _) ((ht.updCluster _ _).homeEnter c 0)

theorem HomesKept.admitL2 (h : HomesKept away b s) (q : Nat) : HomesKept away b (s.admitL2 q) :=
  List.foldlRecOn _ _ h (fun _ hs c _ => .ite _ hs ((hs.updCluster _ _).l2Enter c))

/-- With no slice set apart, the misses of every slice settle. -/
theorem HomesKept.settleMisses (h : HomesKept (fun _ => False) b s) : HomesKept (fun _ => False) b s.settleMisses :=
  List.foldlRecOn _ _ (List.foldlRecOn _ _ h (fun _ hs _ _ => hs.settleSlice id)) (fun _ hs q _ => hs.admitL2 q)

/-! ## Pins -/

theorem HomesKept.repin (h : HomesKept away b s) (l : LlcLine) : HomesKept away b (s.repin l) := by
  have hn := h.home (128 * l.a)
  have ha := h.llcAlloc hn {} l.a
  unfold State.repin
  dsimp only
  split
  · exact (ha.of_snd ‹_›).setLine hn _
  · exact (ha.of_snd ‹_›).count hn _ _ _

end Sys2Proof.Machine
end

section
/-! SUPPORT. The commands of the LLC block: its counters, near-home ranges, thrash windows and slice fences (R237 to R239, R250, R254
to R256, R439, R441). -/

namespace Sys2Proof.Machine
open Sys2Proof

variable {s : State}

/-! ## Counters -/

theorem NMap_find_map {α β : Type} (f : α → β) (m : NMap α) (k : Nat) :
    NMap.find (m.map (fun e => (e.1, f e.2))) k = (NMap.find m k).map f := by
  induction m with
  | nil => rfl
  | cons e m ih =>
    simp only [List.map_cons, NMap.find, ih]
    split <;> rfl

/-- A map of every value read at a key, where it leaves the default alone. -/
theorem NMap_at_map {α : Type} (f : α → α) {d : α} (hd : f d = d) (m : NMap α) (k : Nat) :
    NMap.at (m.map (fun e => (e.1, f e.2))) k d = f (NMap.at m k d) := by
  rw [NMap.at, NMap_find_map, NMap.at]
  cases NMap.find m k with
  | none => exact hd.symm
  | some x => rfl

/-- The entries of a map written for the first numbers in turn, read back. -/
theorem NMap_at_foldl_put {α : Type} [DecidableEq α] (d : α) (f : Nat → α) (n : Nat) (m : NMap α) (k : Nat) :
    NMap.at ((List.range n).foldl (fun m j => NMap.put d m j (f j)) m) k d = if k < n then f k else NMap.at m k d := by
  induction n with
  | zero => rfl
  | succ n ih =>
    rw [List.range_succ, List.foldl_append, List.foldl_cons, List.foldl_nil, NMap_at_put, ih]
    by_cases hk : k = n
    · simp [hk]
    · have hlt : k < n + 1 ↔ k < n := by omega
      simp only [hk, hlt, if_false]

theorem sumCtr_congr {t : State} (h : t.slices = s.slices) (l : List Nat) (k : Nat) : t.sumCtr l k = s.sumCtr l k := by
  simp only [State.sumCtr, State.slice, h]

/-- LLC.CTRL: CLR clears every counter and no line or directory entry, SATEV is kept (R256). -/
theorem llcClr_clears (v : BitVec 32) (hr : s.regOpen 0 = true) :
    ∃ t, exec (.llcClr 0 v) s = .next t ∧ t.llc.satev = v.getLsbD 1 ∧ t.mem = s.mem ∧
      (v.getLsbD 0 = true → ∀ n, (t.slice n).cnt = [] ∧ (t.slice n).lines = (s.slice n).lines ∧ (t.slice n).dir = (s.slice n).dir) ∧
      (v.getLsbD 0 = false → t.slices = s.slices) := by
  have hx : exec (.llcClr 0 v) s = .next (if v.getLsbD 0 then
      { s with slices := s.slices.map (fun e => (e.1, { e.2 with cnt := [] })),
               llc := { s.llc with satev := v.getLsbD 1, thrashBase := [] } }
      else { s with llc := { s.llc with satev := v.getLsbD 1 } }) := by
    show execLlcClr 0 v s = _
    simp only [execLlcClr, hr, if_true]
  cases hb : v.getLsbD 0 with
  | false =>
    rw [hb, if_neg Bool.false_ne_true] at hx
    exact ⟨_, hx, rfl, rfl, fun h => absurd h Bool.false_ne_true, fun _ => rfl⟩
  | true =>
    rw [hb, if_pos rfl] at hx
    refine ⟨_, hx, rfl, rfl, fun _ n => ?_, fun h => absurd h.symm Bool.false_ne_true⟩
    have hn : NMap.at (s.slices.map (fun e => (e.1, { e.2 with cnt := [] }))) n {} = { s.slice n with cnt := [] } :=
      NMap_at_map (fun x : Slice => { x with cnt := [] }) rfl s.slices n
    exact ⟨(congrArg Slice.cnt hn :), (congrArg Slice.lines hn :), (congrArg Slice.dir hn :)⟩

/-- LLC.SEL: a view that exists is selected and its counters snapshotted (R256). -/
theorem llcSel_snapshots (v : BitVec 32) (hr : s.regOpen 0 = true) (hv : v.toNat % 512 < 265) :
    ∃ t, exec (.llcSel 0 v) s = .next t ∧ t.llc.view = BitVec.ofNat 9 v.toNat ∧ t.slices = s.slices ∧
      ∀ k, k < 35 → NMap.at t.llc.snap k {} = s.sumCtr (viewSlices (v.toNat % 512)) k := by
  have hx : exec (.llcSel 0 v) s = .next { s with llc := { s.llc with
      view := BitVec.ofNat 9 v.toNat
      snap := (List.range 35).foldl (fun (m : NMap Ctr) k => NMap.put {} m k (s.sumCtr (viewSlices (v.toNat % 512)) k)) [] } } := by
    show execLlcSel 0 v s = _
    simp only [execLlcSel, hr, hv, decide_true, Bool.and_self, if_true]
  refine ⟨_, hx, rfl, rfl, fun k hk => ?_⟩
  exact (NMap_at_foldl_put ({} : Ctr) _ 35 [] k).trans (if_pos hk)

/-- A reserved view is not taken (R8). -/
theorem llcSel_reserved (v : BitVec 32) (hv : 265 ≤ v.toNat % 512) : exec (.llcSel 0 v) s = .next s := by
  show execLlcSel 0 v s = _
  simp [execLlcSel, Nat.not_lt.2 hv]

/-! ## Near-home ranges -/

/-- A range of pages overlaps the extent in effect of another near-home range. -/
def State.nearClash (s : State) (i lo hi : Nat) : Bool :=
  s.llc.nh.any (fun e => e.1 ≠ i && (match e.2.live with
    | some (a, b, _) => a ≤ hi && lo ≤ b
    | none => false))

theorem nearClash_iff {i lo hi : Nat} : s.nearClash i lo hi = true ↔
    ∃ e ∈ s.llc.nh, e.1 ≠ i ∧ ∃ a b d, e.2.live = some (a, b, d) ∧ a ≤ hi ∧ lo ≤ b := by
  have hone : ∀ e : Nat × NearHome, (match e.2.live with
      | some (a, b, _) => decide (a ≤ hi) && decide (lo ≤ b)
      | none => false) = true ↔ ∃ a b d, e.2.live = some (a, b, d) ∧ a ≤ hi ∧ lo ≤ b := fun e => by
    cases e.2.live with
    | none => simp
    | some x => obtain ⟨a, b, d⟩ := x; simp
  simp only [State.nearClash, List.any_eq_true, Bool.and_eq_true, hone, decide_eq_true_eq]

theorem nearClash_false {i lo hi : Nat} (h : ∀ e ∈ s.llc.nh, e.1 ≠ i → ∀ a b d, e.2.live = some (a, b, d) → hi < a ∨ b < lo) :
    s.nearClash i lo hi = false := by
  rw [Bool.eq_false_iff, Ne, nearClash_iff]
  rintro ⟨e, he, hi, a, b, d, hl, ha, hb⟩
  rcases h e he hi a b d hl with h | h <;> omega

/-- The registers of a near-home range set. -/
def State.putNear (s : State) (i : Nat) (r : NearHome) : State := { s with llc := { s.llc with nh := NMap.put {} s.llc.nh i r } }

/-- A near-home range as a write of its CTRL leaves it but for a flush, with the extent that is in effect then (R237, R238). -/
def NearHome.written (r : NearHome) (v : BitVec 32) (clash : Bool) : NearHome :=
  let live := if v.getLsbD 8 && !clash then some (r.base.toNat, r.limit.toNat, v.toNat % 4) else none
  { r with die := BitVec.ofNat 2 v.toNat, en := live.isSome, refused := clash, live := live }

/-- The pages of an extent in effect. -/
def NearHome.extent (r : NearHome) : List (Nat × Nat) :=
  match r.live with
  | some (a, b, _) => [(a, b)]
  | none => []

/-- A write of LLC.NH[i].CTRL: without a change in effect the register alone is written; with one every copy of a line of the old
and of the new extent is flushed, and the lines that were pinned are pinned again (R238, R252). -/
theorem exec_nearHomeEnable {i : Nat} (v : BitVec 32) (hr : s.regOpen 0 = true) (hi : i < 64) {r w : NearHome}
    (he : r = NMap.at s.llc.nh i {}) (hw : w = r.written v (v.getLsbD 8 && s.nearClash i r.base.toNat r.limit.toNat))
    {ext : List (Nat × Nat)} (hx : ext = r.extent ++ if w.live.isSome then [(r.base.toNat, r.limit.toNat)] else []) :
    exec (.nearHomeEnable 0 i v) s = .next (
      if w.live = r.live then s.putNear i w
      else ((ext.flatMap (fun e => s.pinnedLines e.1 e.2)).eraseDups).foldl (fun (t : State) l => t.repin l)
        ((ext.foldl (fun (t : State) e => t.flushRange (e.1 * 2 ^ 21) ((e.2 + 1) * 2 ^ 21)) s).putNear i
          { w with busy := true, flushing := (if r.busy then r.flushing else []) ++ r.extent ++
                    if w.live.isSome then [(r.base.toNat, r.limit.toNat)] else [] })) := by
  show execNearHomeEnable 0 i v s = _
  unfold execNearHomeEnable onUnit
  rw [decide_eq_true hi, hr]
  subst hx hw he
  rfl

theorem putNear_at (s : State) (i : Nat) (r : NearHome) : NMap.at (s.putNear i r).llc.nh i {} = r := NMap_at_put_same _ _ _ _

section
variable {i : Nat} {v : BitVec 32} {r w : NearHome} {clash : Bool}

/-- A write that changes nothing in effect flushes nothing. -/
theorem nearHomeEnable_same (hr : s.regOpen 0 = true) (hi : i < 64) (he : r = NMap.at s.llc.nh i {})
    (hc : (v.getLsbD 8 && s.nearClash i r.base.toNat r.limit.toNat) = clash) (hw : w = r.written v clash) (hl : w.live = r.live) :
    exec (.nearHomeEnable 0 i v) s = .next (s.putNear i w) := by
  rw [exec_nearHomeEnable v hr hi he (hc ▸ hw) rfl, if_pos hl]

/-- A write that changes the extent in effect holds BUSY and adds the old and the new extent to those being flushed: no line that is
pinned again touches the register (R238; the model's choice, log 44). -/
theorem nearHomeEnable_change (hr : s.regOpen 0 = true) (hi : i < 64) (he : r = NMap.at s.llc.nh i {})
    (hc : (v.getLsbD 8 && s.nearClash i r.base.toNat r.limit.toNat) = clash) (hw : w = r.written v clash) (hl : w.live ≠ r.live) :
    ∃ t, exec (.nearHomeEnable 0 i v) s = .next t ∧ NMap.at t.llc.nh i {} =
      { w with busy := true, flushing := (if r.busy then r.flushing else []) ++ r.extent ++
                if w.live.isSome then [(r.base.toNat, r.limit.toNat)] else [] } := by
  refine ⟨_, by rw [exec_nearHomeEnable v hr hi he (hc ▸ hw) rfl, if_neg hl], ?_⟩
  have hpins : ∀ (l : List LlcLine) (u : State), (l.foldl (fun (t : State) x => t.repin x) u).llc = u.llc := fun l u =>
    (List.foldlRecOn (motive := HomesKept (fun _ => False) u) l _ (.refl_none u) (fun _ hs x _ => hs.repin x)).llc
  rw [hpins, putNear_at]

theorem written_refused (r : NearHome) (v : BitVec 32) :
    r.written v true = { r with die := BitVec.ofNat 2 v.toNat, en := false, refused := true, live := none } := by
  simp [NearHome.written]

theorem written_enabled (r : NearHome) (hv : v.getLsbD 8 = true) : r.written v false =
    { r with die := BitVec.ofNat 2 v.toNat, en := true, refused := false, live := some (r.base.toNat, r.limit.toNat, v.toNat % 4) } := by
  simp [NearHome.written, hv]

theorem written_disabled (r : NearHome) (hv : v.getLsbD 8 = false) :
    r.written v false = { r with die := BitVec.ofNat 2 v.toNat, en := false, refused := false, live := none } := by
  unfold NearHome.written; rw [hv]; rfl

end

/-- The end of a flush: BUSY clears, and no access that goes on sets it (R238). -/
theorem nearHomeFlushDone_clears {i : Nat} (hi : i < 64) (hb : (NMap.at s.llc.nh i {}).busy = true) :
    ∃ t, exec (.nearHomeFlushDone i) s = .next t ∧ (NMap.at t.llc.nh i {}).busy = false := by
  have hx : exec (.nearHomeFlushDone i) s =
      .next (s.putNear i { NMap.at s.llc.nh i {} with busy := false, flushing := [] }).settleMisses := by
    show execNearHomeFlushDone i s = _
    simp only [execNearHomeFlushDone, onUnit, decide_eq_true hi, hb, if_true]
    rfl
  refine ⟨_, hx, ?_⟩
  rw [(HomesKept.refl_none (s.putNear i _)).settleMisses.llc, putNear_at]

/-! ## Thrash windows -/

theorem thrashClass_slices (s : State) (c : Nat) : (s.thrashClass c).slices = s.slices := by
  unfold State.thrashClass
  exact (SameHomes.ite _ ((SameHomes.refl _).event _ _) (SameHomes.refl _)).slices.trans rfl

/-- The counts of a class at a window's end are its base for the next one (R255). -/
theorem thrashClass_base (s : State) (c : Nat) : (s.thrashClass c).llc.thrashBase =
    NMap.put 0 (NMap.put 0 s.llc.thrashBase (2 * c) (s.sumCtr (List.range 256) (5 * c)).count) (2 * c + 1)
      (s.sumCtr (List.range 256) (5 * c + 2)).count := by
  unfold State.thrashClass
  exact (congrArg Llc.thrashBase (SameHomes.ite _ ((SameHomes.refl _).event _ _) (SameHomes.refl _)).llc).trans rfl

/-- The first classes judged in turn. -/
theorem thrashClasses (s : State) (n : Nat) (t : State) (ht : t = (List.range n).foldl (fun (s : State) c => s.thrashClass c) s) :
    t.slices = s.slices ∧ ∀ c, c < n → NMap.at t.llc.thrashBase (2 * c) 0 = (s.sumCtr (List.range 256) (5 * c)).count ∧
      NMap.at t.llc.thrashBase (2 * c + 1) 0 = (s.sumCtr (List.range 256) (5 * c + 2)).count := by
  induction n generalizing t with
  | zero => exact ⟨by rw [ht]; rfl, fun c hc => absurd hc (Nat.not_lt_zero c)⟩
  | succ n ih =>
    obtain ⟨hs, hbase⟩ := ih _ rfl
    rw [List.range_succ, List.foldl_append, List.foldl_cons, List.foldl_nil] at ht
    generalize (List.range n).foldl (fun (s : State) c => s.thrashClass c) s = u at *
    subst ht
    refine ⟨(thrashClass_slices u n).trans hs, fun c hc => ?_⟩
    rw [thrashClass_base, sumCtr_congr hs, sumCtr_congr hs]
    by_cases hcn : c = n
    · subst hcn
      rw [NMap_at_put_ne _ _ _ (by omega), NMap_at_put_same, NMap_at_put_same]
      exact ⟨rfl, rfl⟩
    · rw [NMap_at_put_ne _ _ _ (by omega), NMap_at_put_ne _ _ _ (by omega), NMap_at_put_ne _ _ _ (by omega),
        NMap_at_put_ne _ _ _ (by omega)]
      exact hbase c (by omega)

/-! ## The fence of a slice -/

/-- The search for the next slice in service stays in its die. -/
theorem nextSlice_die (s : State) (f h : Nat) : s.nextSlice f h / 64 = h / 64 := by
  induction f generalizing h with
  | zero => rfl
  | succ f ih =>
    unfold State.nextSlice
    split
    · rw [ih]; omega
    · rfl

/-- A die with a slice in service within reach of the search gives one (R239). -/
theorem nextSlice_in_service {f h m : Nat} (hd : m / 64 = h / 64) (hm : (s.slice m).fenced = false)
    (hf : (m + 64 - h % 64) % 64 < f) : (s.slice (s.nextSlice f h)).fenced = false := by
  induction f generalizing h with
  | zero => omega
  | succ f ih =>
    unfold State.nextSlice
    split
    · rename_i hfen
      have hne : m ≠ h := fun e => by rw [e, hfen] at hm; exact Bool.noConfusion hm
      exact ih (by omega) (by omega)
    · rename_i hfen
      exact Bool.eq_false_iff.2 hfen

theorem homeSlice_eq_nextSlice (s : State) (pa : Nat) : ∃ h, s.homeSlice pa = s.nextSlice 64 h := ⟨_, rfl⟩

/-- A fenced slice whose die has another in service is no line's home (R239). -/
theorem homeSlice_ne_fenced {n m : Nat} (hd : m / 64 = n / 64) (hm : (s.slice m).fenced = false) (hn : (s.slice n).fenced = true)
    (pa : Nat) : s.homeSlice pa ≠ n := by
  intro he
  obtain ⟨h, hh⟩ := homeSlice_eq_nextSlice s pa
  rw [he] at hh
  have hdie : n / 64 = h / 64 := by rw [hh, nextSlice_die]
  have hs : (s.slice (s.nextSlice 64 h)).fenced = false := nextSlice_in_service (hd.trans hdie) hm (Nat.mod_lt _ (by decide))
  rw [← hh, hn] at hs
  exact Bool.noConfusion hs

/-- Where a slice is in service and not the last of its die, another one of the die is. -/
theorem exists_other_of_not_last {n : Nat} (hf : (s.slice n).fenced = false) (hl : s.lastSlice n = false) :
    ∃ m, m / 64 = n / 64 ∧ m ≠ n ∧ (s.slice m).fenced = false := by
  by_contra hno
  have honly : ∀ k ∈ (List.range 64).filter (fun k => !(s.slice (n / 64 * 64 + k)).fenced), k = n % 64 := fun k hk => by
    obtain ⟨hr, hp⟩ := List.mem_filter.1 hk
    rw [List.mem_range] at hr
    by_contra hne
    exact hno ⟨n / 64 * 64 + k, by omega, by omega, by simpa using hp⟩
  have hself : n % 64 ∈ (List.range 64).filter (fun k => !(s.slice (n / 64 * 64 + k)).fenced) := by
    rw [List.mem_filter, List.mem_range, Nat.div_add_mod', hf]
    exact ⟨Nat.mod_lt _ (by decide), rfl⟩
  have hnodup := (List.nodup_range : (List.range 64).Nodup).filter (fun k => !(s.slice (n / 64 * 64 + k)).fenced)
  have hrep := List.eq_replicate_of_mem honly
  have hle : ((List.range 64).filter (fun k => !(s.slice (n / 64 * 64 + k)).fenced)).length ≤ 1 := by
    rw [hrep, List.nodup_replicate] at hnodup; exact hnodup
  have hpos := List.length_pos_of_mem hself
  have hlen : ((List.range 64).filter (fun k => !(s.slice (n / 64 * 64 + k)).fenced)).length = 1 := by omega
  unfold State.lastSlice at hl
  rw [hlen, hf] at hl
  exact Bool.noConfusion hl

/-- A slice as its fence leaves it: no line, entry, miss register or refused request. -/
def Slice.emptied (x : Slice) : Slice := { x with fenced := true, lines := [], dir := [], miss := [], refused := [], hist := [] }

/-- The parts of a slice's fence: what the caches held of it is written back, which moves no home; the slice is emptied; its requests
go to their new homes; and records are written (R239, R439). -/
theorem fenceSlice_parts (s : State) (n : Nat) : ∃ (e : State) (held : List Instr), HomesKept (fun _ => False) s e ∧
    SameHomes (held.foldl (fun (t : State) c => t.homeEnter c 0) (e.updSlice n Slice.emptied)) (s.fenceSlice n) := by
  refine ⟨_, _, ?_, (((SameHomes.refl _).eventTo _ _).errRecord _ _ _ _ _).errRecord _ _ _ _ _⟩
  refine List.foldlRecOn _ _ (List.foldlRecOn _ _ (List.foldlRecOn _ _ (.refl_none s) ?_) ?_) ?_
  · exact fun _ hs q _ => List.foldlRecOn _ _ hs (fun _ ht a _ => .ite _ (ht.takePut q a) ht)
  · exact fun _ hs e _ => hs.recallEntry id e
  · exact fun _ hs l _ => hs.llcEvict id l

/-- The fence of a slice that is not the last of its die empties it, and no request that is sent on comes back to it (R239). -/
theorem fenceSlice_emptied {n : Nat} (hf : (s.slice n).fenced = false) (hl : s.lastSlice n = false) :
    ∃ x, (s.fenceSlice n).slice n = Slice.emptied x := by
  obtain ⟨m, hd, hne, hm⟩ := exists_other_of_not_last hf hl
  obtain ⟨e, held, he, hsame⟩ := fenceSlice_parts s n
  generalize hu : e.updSlice n Slice.emptied = u at hsame
  have hun : u.slice n = Slice.emptied (e.slice n) := by rw [← hu, updSlice_eq, setSlice_slice, if_pos rfl]
  have hum : (u.slice m).fenced = false := by rw [← hu, updSlice_eq, setSlice_slice, if_neg hne, he.fenced, hm]
  have hhome : ∀ pa, ¬ (fun k => k = n) (u.homeSlice pa) := homeSlice_ne_fenced hd hum (by rw [hun]; rfl)
  have hkept : HomesKept (fun k => k = n) u (held.foldl (fun (t : State) c => t.homeEnter c 0) u) :=
    List.foldlRecOn _ _ (.refl hhome) (fun _ ht c _ => ht.homeEnter c 0)
  exact ⟨e.slice n, ((hkept.same hsame).slice n rfl).trans hun⟩

/-- LLC_SLICE_FENCE of a slice in service that is not the last of its die (R239). -/
theorem exec_llcSliceFence {n : Nat} (hn : n < 256) (hf : (s.slice n).fenced = false) (hl : s.lastSlice n = false) :
    exec (.llcSliceFence n) s = .next (s.fenceSlice n) := by
  show execLlcSliceFence n s = _
  simp [execLlcSliceFence, onUnit, hn, State.loseSlice, hf, hl]

/-- The last slice of a die in service fails: a package-fatal error (R441). -/
theorem exec_llcSliceFence_last {n : Nat} (hn : n < 256) (hl : s.lastSlice n = true) :
    exec (.llcSliceFence n) s = .next (s.packageFatal (sliceUnit n)) := by
  have hf : (s.slice n).fenced = false := by
    unfold State.lastSlice at hl
    simpa using (Bool.and_eq_true_iff.1 hl).2
  show execLlcSliceFence n s = _
  simp [execLlcSliceFence, onUnit, hn, State.loseSlice, hf, hl]

/-- Settles O22: each clause is the lemma of its command; a write of a range is `nearHomeEnable_same` or `nearHomeEnable_change`, by
whether the extent in effect changes. -/
theorem llcCommands : Obligations.LlcCommands := by
  unfold Obligations.LlcCommands
  intro s v hr
  refine ⟨llcClr_clears v hr, llcSel_snapshots v hr, llcSel_reserved v, fun i r hi he => ⟨fun hv hlive hx => ?_,
    fun hv hlive hx => ?_, fun a b d hv hlive => ?_⟩, fun i r a b d hi he hv hlive hx => ?_, fun i => nearHomeFlushDone_clears, ?_,
    fun n hn hf hl => ⟨exec_llcSliceFence hn hf hl, ?_⟩, fun n => exec_llcSliceFence_last⟩
  · have hclash : (v.getLsbD 8 && s.nearClash i r.base.toNat r.limit.toNat) = true := by rw [hv, nearClash_iff.2 hx]; rfl
    refine ⟨_, nearHomeEnable_same hr hi he hclash (written_refused r v).symm hlive.symm, ?_, rfl, rfl⟩
    rw [putNear_at, ← hlive]
  · have hclash : (v.getLsbD 8 && s.nearClash i r.base.toNat r.limit.toNat) = false := by rw [hv, nearClash_false hx]; rfl
    obtain ⟨t, ht, hnh⟩ := nearHomeEnable_change hr hi he hclash (written_enabled r hv).symm (by simp [hlive])
    exact ⟨t, ht, by simpa [NearHome.extent, hlive] using hnh⟩
  · have hclash : (v.getLsbD 8 && s.nearClash i r.base.toNat r.limit.toNat) = false := by rw [hv]; rfl
    obtain ⟨t, ht, hnh⟩ := nearHomeEnable_change hr hi he hclash (written_disabled r hv).symm (by simp [hlive])
    exact ⟨t, ht, by simpa [NearHome.extent, hlive] using hnh⟩
  · have hclash : (v.getLsbD 8 && s.nearClash i r.base.toNat r.limit.toNat) = false := by rw [hv, nearClash_false hx]; rfl
    by_cases hext : (a, b, d) = (r.base.toNat, r.limit.toNat, v.toNat % 4)
    · refine ⟨_, nearHomeEnable_same hr hi he hclash (written_enabled r hv).symm (by rw [hlive, hext]), ?_⟩
      rw [putNear_at, if_pos hext, hext]
    · obtain ⟨t, ht, hnh⟩ := nearHomeEnable_change hr hi he hclash (written_enabled r hv).symm
        (by rw [hlive]; simpa using Ne.symm hext)
      exact ⟨t, ht, by rw [if_neg hext]; simpa [NearHome.extent, hlive] using hnh⟩
  · obtain ⟨hslices, hbase⟩ := thrashClasses s 7 _ rfl
    exact ⟨_, rfl, hslices, hbase⟩
  · obtain ⟨x, hx⟩ := fenceSlice_emptied hf hl
    rw [hx]
    exact ⟨_, rfl, rfl, rfl, rfl, rfl⟩

end Sys2Proof.Machine
end

section
/-! SUPPORT. Every command is one on the units that it names (R12, R31, R348), and which sector a core or a position belongs to (R22). -/

namespace Sys2Proof.Machine
open Sys2Proof

/-! ## Dispatch -/

/-- Every command is one on the units that it names: the state of its meaning where they exist, the fault where they do not. -/
theorem exec_onUnit_wf (c : Instr) (s : State) : ∃ t, exec c s = onUnit c.wf t := by
  cases c
  case atomf cl pa cls op ty x y =>
    show ∃ t, execAtomf cl pa cls op ty x y s = onUnit (cl < 128) t
    unfold execAtomf
    split
    · exact ⟨_, rfl⟩
    · exact ⟨_, rfl⟩
  all_goals exact ⟨_, rfl⟩

/-- Settles O58: of a command on the units that it names, `onUnit` says both what completes and what stops. -/
theorem faultsExactlyWhenIllFormed : Obligations.FaultsExactlyWhenIllFormed := by
  unfold Obligations.FaultsExactlyWhenIllFormed
  intro c s
  obtain ⟨t, ht⟩ := exec_onUnit_wf c s
  exact ⟨fun hwf => ⟨t, by rw [ht, onUnit, if_pos hwf]⟩, fun hwf => by rw [ht, onUnit, if_neg (by simp [hwf])]⟩

/-! ## Sectors -/

/-- The fields of a unit ID of a core in physical form (R32). -/
theorem physicalPlace_core {d h k p : Nat} (hd : d < 4) (hh : h < 2) (hk : k < 16) (hp : p < 72) :
    physicalPlace (unitId 1 d h k (128 + p)) =
      some (32 * d + 16 * h + k, (32 * d + 16 * h + k) / 16 * 8 + 2 * ((32 * d + 16 * h + k) % 16 / 4) + p / 36) := by
  have hw : (unitId 1 d h k (128 + p)).toNat = 2 ^ 28 + d * 2 ^ 25 + h * 2 ^ 24 + k * 2 ^ 20 + (128 + p) * 2 ^ 12 := by
    simp only [unitId, BitVec.toNat_ofNat]; omega
  have hkind : fld (unitId 1 d h k (128 + p)).toNat 28 4 = 1 := by rw [hw, fld, Nat.shiftRight_eq_div_pow]; omega
  have hdie : fld (unitId 1 d h k (128 + p)).toNat 25 3 = d := by rw [hw, fld, Nat.shiftRight_eq_div_pow]; omega
  have hhemi : fld (unitId 1 d h k (128 + p)).toNat 24 1 = h := by rw [hw, fld, Nat.shiftRight_eq_div_pow]; omega
  have hsub : fld (unitId 1 d h k (128 + p)).toNat 20 4 = k := by rw [hw, fld, Nat.shiftRight_eq_div_pow]; omega
  have hpos : fld (unitId 1 d h k (128 + p)).toNat 12 7 = p := by rw [hw, fld, Nat.shiftRight_eq_div_pow]; omega
  have hform : bit (unitId 1 d h k (128 + p)).toNat 19 = true := by
    rw [hw, bit, Nat.testBit_eq_decide_div_mod_eq, decide_eq_true_eq]; omega
  simp only [physicalPlace, hkind, hdie, hhemi, hsub, hpos, hform, Bool.and_true, decide_true, if_true, Nat.mul_comm]

/-- Settles O55: by the fields of the numbers of cores and of the unit IDs of positions. -/
theorem sectorOfCoreAndPosition : Obligations.SectorOfCoreAndPosition := by
  unfold Obligations.SectorOfCoreAndPosition
  intro h k hh hk
  refine ⟨fun c hc => ?_, fun p hp => ?_⟩
  · simp only [sectorOf, Nat.shiftRight_eq_div_pow]; omega
  · rw [physicalPlace_core (by omega) (by omega) hk hp, Option.some.injEq, Prod.mk.injEq, Nat.shiftRight_eq_div_pow]
    refine ⟨by omega, ?_⟩
    split <;> omega

end Sys2Proof.Machine
end

section
/-! SUPPORT. What messages between dies and on links leave alone (R371 to R398). -/

namespace Sys2Proof.Machine
open Sys2Proof

/-! ## Messages: what they leave alone -/

/-- Nothing differs but the links, the bundles between dies, and what has been sent. -/
def MessagesOnly (b s : State) : Prop := ∃ a d o, s = { b with ael := a, d2d := d, out := o }

variable {b s : State}

theorem MessagesOnly.refl (b : State) : MessagesOnly b b := ⟨_, _, _, rfl⟩

theorem MessagesOnly.trans {t : State} (h : MessagesOnly b s) (k : MessagesOnly s t) : MessagesOnly b t := by
  obtain ⟨_, _, _, rfl⟩ := h
  obtain ⟨a, d, o, rfl⟩ := k
  exact ⟨a, d, o, rfl⟩

theorem MessagesOnly.send (h : MessagesOnly b s) (m : OutMsg) : MessagesOnly b (s.send m) := h.trans ⟨_, _, _, rfl⟩

theorem MessagesOnly.setBundle (h : MessagesOnly b s) (n : Nat) (x : Bundle) : MessagesOnly b (s.setBundle n x) :=
  h.trans ⟨_, _, _, rfl⟩

theorem MessagesOnly.setLink (h : MessagesOnly b s) (l : Nat) (x : Link) : MessagesOnly b (s.setLink l x) := h.trans ⟨_, _, _, rfl⟩

theorem MessagesOnly.withAel (h : MessagesOnly b s) (a : Ael) : MessagesOnly b { s with ael := a } := h.trans ⟨_, _, _, rfl⟩

/-! ### Between dies -/

theorem MessagesOnly.sendEddy (h : MessagesOnly b s) (n d : Nat) (f : SentEddy) : MessagesOnly b (s.sendEddy n d f) := by
  unfold State.sendEddy
  dsimp only
  split
  · exact ((h.setBundle _ _).setBundle _ _).send _
  · exact h.setBundle _ _

theorem MessagesOnly.dieMessage (h : MessagesOnly b s) (a hemiA d hemiD vc line : Nat) :
    MessagesOnly b (s.dieMessage a hemiA d hemiD vc line) := by
  unfold State.dieMessage
  split
  · exact h
  · refine List.foldlRecOn _ _ h (fun t ht hop _ => ?_)
    dsimp only
    split
    · exact ht
    · exact ht.sendEddy _ _ _

theorem MessagesOnly.toCluster (h : MessagesOnly b s) (q r vc line : Nat) : MessagesOnly b (s.toCluster q r vc line) :=
  h.dieMessage _ _ _ _ _ _

/-! ### On links -/

theorem MessagesOnly.emit (h : MessagesOnly b s) (l head : Nat) (nak : Bool) (first : Nat) (body : List Byte) :
    MessagesOnly b (s.emit l head nak first body) := by
  unfold State.emit State.putBits
  dsimp only
  split
  · exact ((h.setLink _ _).send _).setLink _ _
  · exact (((h.setLink _ _).send _).setLink _ _).send _

theorem MessagesOnly.transmit (h : MessagesOnly b s) (l : Nat) (p : Packet) : MessagesOnly b (s.transmit l p) :=
  List.foldlRecOn _ _ (h.setLink _ _) (fun _ ht _ _ => ht.emit _ _ _ _ _)

theorem MessagesOnly.sendOn (h : MessagesOnly b s) (l spent : Nat) (p : Packet) : MessagesOnly b (s.sendOn l spent p) := by
  unfold State.sendOn
  dsimp only
  split
  · exact h.transmit l p
  · exact h.setLink _ _

theorem MessagesOnly.deliver (h : MessagesOnly b s) (p : Packet) : MessagesOnly b (s.deliver p) := h.withAel _

/-- A packet at a router goes out on links, is delivered, or is answered by a packet of the same kind (R379). -/
theorem MessagesOnly.routeN (n : Nat) : ∀ {s : State}, MessagesOnly b s → ∀ (arrival : Option Nat) (res : Nat) (p : Packet),
    MessagesOnly b (s.routeN n arrival res p).2 := by
  induction n with
  | zero => exact fun h _ _ _ => h
  | succ n ih =>
    intro s h arrival res p
    have hanswer : ∀ status, MessagesOnly b
        (if isRequest p.opc.toNat then (s.routeN n none 0 (s.rejectOf p status)).2 else s) := fun status => by
      split
      · exact ih h _ _ _
      · exact h
    unfold State.routeN
    dsimp only
    split
    · exact hanswer _
    · split
      · split
        · split
          · exact h.setLink _ _
          · exact h
        · have hports := List.foldlRecOn (motive := MessagesOnly b) (s.mcastPorts arrival { p with life := p.life - lifeCost res })
            (fun s l => s.sendOn l res { p with life := p.life - lifeCost res }) h (fun _ ht l _ => ht.sendOn l _ _)
          dsimp only
          split
          · exact hports.deliver _
          · exact hports
      · split
        · exact h.deliver _
        · split
          · exact h.sendOn _ _ _
          · exact hanswer _

theorem MessagesOnly.route (h : MessagesOnly b s) (arrival : Option Nat) (res : Nat) (p : Packet) :
    MessagesOnly b (s.route arrival res p).2 := routeN 2 h arrival res p

theorem MessagesOnly.closeBatches (h : MessagesOnly b s) (stag : Nat) : MessagesOnly b (s.closeBatches stag) := by
  unfold State.closeBatches
  refine List.foldlRecOn _ _ h (fun t ht e _ => ?_)
  dsimp only
  split
  · exact ht.withAel _
  · exact (ht.withAel _).route _ _ _

theorem MessagesOnly.closeEnded (h : MessagesOnly b s) (g slot inst idx task : Nat) :
    MessagesOnly b (s.closeEnded g slot inst idx task) := by
  unfold State.closeEnded
  dsimp only
  split
  · exact h
  · exact h.closeBatches _

end Sys2Proof.Machine
end

section
/-! SUPPORT. Steals: what the victim gives, what the thief receives (R26, R189, R190, R199). -/

namespace Sys2Proof.Machine
open Sys2Proof

/-! ## Lists of queue entries -/

/-- An entry exchanged for another: a sum over the queue loses the one and gains the other. -/
theorem sum_swapFirst (f : QEntry → Nat) {q : List QEntry} {e : QEntry} (e' : QEntry) (h : e ∈ q) :
    f e + ((swapFirst q e e').map f).sum = f e' + (q.map f).sum := by
  induction q with
  | nil => simp at h
  | cons x q ih =>
    rw [swapFirst]
    split
    · subst x; simp only [List.map_cons, List.sum_cons]; omega
    · have := ih ((List.mem_cons.1 h).resolve_left (Ne.symm ‹_›))
      simp only [List.map_cons, List.sum_cons]; omega

/-- A range cut in two: the upper half and what the queue keeps hold as many tasks as the queue held (R190). -/
theorem sum_cut {q : List QEntry} {e : QEntry} {cut : Nat} (hcut : cut = e.hi - (e.hi - e.lo) / 2) (h : e ∈ q) :
    (e.hi - cut) + ((swapFirst q e { e with hi := cut }).map (fun q => q.hi - q.lo)).sum = (q.map (fun q => q.hi - q.lo)).sum := by
  have hsum := sum_swapFirst (fun q : QEntry => q.hi - q.lo) { e with hi := cut } h
  dsimp only at hsum
  omega

/-! ## Launches -/

/-- A registered launch replaced by one of its name. -/
theorem setLaunch_launch_same {s : State} {l m : Launch} (h : s.launch m.inst m.idx = some l) :
    (s.setLaunch m).launch m.inst m.idx = some m := by
  have hname : (fun k : Launch => decide (k.inst = m.inst) && decide (k.idx = m.idx)) ∘ (fun k => if k.inst = m.inst && k.idx = m.idx then m else k)
      = fun k => decide (k.inst = m.inst) && decide (k.idx = m.idx) := by
    funext k
    simp only [Function.comp]
    split <;> simp_all
  have hl := List.find?_some h
  unfold State.launch at h ⊢
  rw [State.setLaunch, List.find?_map, hname, h, Option.map_some, if_pos hl]

/-- A launch changed by a function that keeps its name. -/
theorem updLaunch_launch {s : State} {i idx : Nat} {l : Launch} (f : Launch → Launch) (h : s.launch i idx = some l)
    (hi : (f l).inst = l.inst) (hx : (f l).idx = l.idx) : (s.updLaunch i idx f).launch i idx = some (f l) := by
  have hname := List.find?_some h
  simp only [Bool.and_eq_true, decide_eq_true_eq] at hname
  obtain ⟨rfl, rfl⟩ := hname
  rw [State.updLaunch, h, ← hi, ← hx]
  rw [← hi, ← hx] at h
  exact setLaunch_launch_same h

theorem updLaunch_cores (s : State) (i idx : Nat) (f : Launch → Launch) : (s.updLaunch i idx f).cores = s.cores := by
  unfold State.updLaunch; split <;> rfl

theorem updLaunch_mem (s : State) (i idx : Nat) (f : Launch → Launch) : (s.updLaunch i idx f).mem = s.mem := by
  unfold State.updLaunch; split <;> rfl

theorem updLaunch_cluster (s : State) (i idx : Nat) (f : Launch → Launch) (n : Nat) : (s.updLaunch i idx f).cluster n = s.cluster n := by
  unfold State.updLaunch; split <;> rfl

/-! ## STEAL_REQUEST -/

/-- The state in which the victim's hub decides a steal: request and answer are on their way, and the thief's choice is used up. -/
def State.stealAsked (s : State) (thief victim inst idx : Nat) : State :=
  ((s.toCluster thief victim 0 idx).toCluster victim thief 2 idx).updCluster thief
    (fun c => { c with chosen := c.chosen.erase (inst, idx, victim) })

/-- A steal that gives the thief an entry and leaves the victim a queue. -/
def State.stolen (s : State) (thief victim inst idx : Nat) (give : QEntry) (left : List QEntry) : State :=
  ((s.updCluster victim (fun c => { c with queue := left, victim := c.victim.add 1 })).updCluster thief
    (fun c => { c with queue := c.queue ++ [give], steals := c.steals.add 1 })).updLaunch inst idx (fun l => { l with steals := l.steals + 1 })

section
variable {s : State} {thief victim inst idx : Nat}

theorem stealAsked_cluster (n : Nat) : (s.stealAsked thief victim inst idx).cluster n =
    if n = thief then { s.cluster thief with chosen := (s.cluster thief).chosen.erase (inst, idx, victim) } else s.cluster n := by
  obtain ⟨a, d, o, ht⟩ := ((MessagesOnly.refl s).toCluster thief victim 0 idx).toCluster victim thief 2 idx
  rw [State.stealAsked, ht, updCluster_eq, setCluster_cluster]; rfl

/-- Request and answer touch no launch, core or memory. -/
theorem stealAsked_frame : (s.stealAsked thief victim inst idx).launches = s.launches ∧
    (s.stealAsked thief victim inst idx).cores = s.cores ∧ (s.stealAsked thief victim inst idx).mem = s.mem := by
  obtain ⟨a, d, o, ht⟩ := ((MessagesOnly.refl s).toCluster thief victim 0 idx).toCluster victim thief 2 idx
  rw [State.stealAsked, ht]; exact ⟨rfl, rfl, rfl⟩

theorem stealAsked_queue (n : Nat) : ((s.stealAsked thief victim inst idx).cluster n).queue = (s.cluster n).queue := by
  rw [stealAsked_cluster]; split
  · subst n; rfl
  · rfl

theorem stolen_cluster (give : QEntry) (left : List QEntry) (hne : thief ≠ victim) (n : Nat) :
    (s.stolen thief victim inst idx give left).cluster n =
      if n = thief then { s.cluster thief with queue := (s.cluster thief).queue ++ [give], steals := (s.cluster thief).steals.add 1 }
      else if n = victim then { s.cluster victim with queue := left, victim := (s.cluster victim).victim.add 1 } else s.cluster n := by
  simp only [State.stolen, updLaunch_cluster, updCluster_eq, setCluster_cluster, if_neg hne]

/-- A thief all of whose cores are down gets nothing (R26). -/
theorem exec_stealRequest_down (ht : thief < 128) (hv : victim < 128) (hi : inst < 64) (hc : (inst, idx, victim) ∈ (s.cluster thief).chosen)
    (hdown : (coresOf thief).any s.coreUp = false) :
    exec (.stealRequest thief victim inst idx) s = .next (s.stealAsked thief victim inst idx) := by
  show execStealRequest thief victim inst idx s = _
  simp only [execStealRequest, onUnit, ht, hv, hi, List.contains_iff_mem.2 hc, hdown]
  rfl

/-- What the victim's hub gives a thief with a core up: a re-queued task whole, or the upper half of a range (R190). -/
theorem exec_stealRequest_up (ht : thief < 128) (hv : victim < 128) (hi : inst < 64) (hc : (inst, idx, victim) ∈ (s.cluster thief).chosen)
    (hup : (coresOf thief).any s.coreUp = true) : exec (.stealRequest thief victim inst idx) s = .next
      (match (s.cluster victim).queue.find? (fun q => q.inst = inst && q.idx = idx && q.requeued) with
      | some e => (s.stealAsked thief victim inst idx).stolen thief victim inst idx e ((s.cluster victim).queue.erase e)
      | none => match (s.cluster victim).queue.find? (fun q => q.inst = inst && q.idx = idx && q.hi - q.lo ≥ 2) with
        | none => s.stealAsked thief victim inst idx
        | some e => (s.stealAsked thief victim inst idx).stolen thief victim inst idx { e with lo := e.hi - (e.hi - e.lo) / 2 }
            (swapFirst (s.cluster victim).queue e { e with hi := e.hi - (e.hi - e.lo) / 2 })) := by
  show execStealRequest thief victim inst idx s = _
  rw [← stealAsked_queue (thief := thief) (victim := victim) (inst := inst) (idx := idx) victim]
  simp only [execStealRequest, onUnit, ht, hv, hi, List.contains_iff_mem.2 hc, hup] <;> rfl

/-- A steal moves what it gives from the victim's queue to the end of the thief's, and counts itself in both clusters and in the
launch (R190, R199). -/
theorem stolen_moves {l : Launch} {give : QEntry} {left : List QEntry} {t : State} (hne : thief ≠ victim) (hl : s.launch inst idx = some l)
    (hsum : (give.hi - give.lo) + (left.map (fun q => q.hi - q.lo)).sum = ((s.cluster victim).queue.map (fun q => q.hi - q.lo)).sum)
    (ht : t = (s.stealAsked thief victim inst idx).stolen thief victim inst idx give left) :
    (t.cluster thief).queue = (s.cluster thief).queue ++ [give] ∧
      (give.hi - give.lo) + ((t.cluster victim).queue.map (fun q => q.hi - q.lo)).sum =
        ((s.cluster victim).queue.map (fun q => q.hi - q.lo)).sum ∧
      (t.cluster victim).victim = (s.cluster victim).victim.add 1 ∧ (t.cluster thief).steals = (s.cluster thief).steals.add 1 ∧
      (∃ m, t.launch inst idx = some m ∧ m.steals = l.steals + 1) ∧
      (∀ n, n ≠ thief → n ≠ victim → t.cluster n = s.cluster n) ∧ t.cores = s.cores ∧ t.mem = s.mem := by
  obtain ⟨hlaunches, hcores, hmem⟩ := stealAsked_frame (s := s) (thief := thief) (victim := victim) (inst := inst) (idx := idx)
  have hasked : (s.stealAsked thief victim inst idx).launch inst idx = some l := by rw [State.launch, hlaunches]; exact hl
  have hthief := stolen_cluster (s := s.stealAsked thief victim inst idx) (inst := inst) (idx := idx) give left hne thief
  have hvictim := stolen_cluster (s := s.stealAsked thief victim inst idx) (inst := inst) (idx := idx) give left hne victim
  rw [if_pos rfl, stealAsked_cluster, if_pos rfl] at hthief
  rw [if_neg hne.symm, if_pos rfl, stealAsked_cluster, if_neg hne.symm] at hvictim
  subst ht
  refine ⟨by rw [hthief], by rw [hvictim]; exact hsum, by rw [hvictim], by rw [hthief], ⟨_, updLaunch_launch _ hasked rfl rfl, rfl⟩,
    fun n h1 h2 => ?_, ?_, ?_⟩
  · rw [stolen_cluster _ _ hne, if_neg h1, if_neg h2, stealAsked_cluster, if_neg h1]
  · rw [State.stolen, updLaunch_cores]; exact hcores
  · rw [State.stolen, updLaunch_mem]; exact hmem

end

/-- Settles O17: both steals are `stolen_moves`, of a task taken out of the queue or of a range cut in two. -/
theorem stealsMoveHalf : Obligations.StealsMoveHalf := by
  unfold Obligations.StealsMoveHalf
  refine ⟨fun s thief victim inst idx l e ht hv hi hne hc hl hup hfind => ?_, fun s thief victim inst idx ht hv hi hc hdown => ?_⟩
  · have hexec := exec_stealRequest_up ht hv hi hc hup
    rcases hfind with hwhole | ⟨hnone, hrange⟩
    · have hsum := List.sum_map_erase (fun q : QEntry => q.hi - q.lo) (List.mem_of_find?_eq_some hwhole)
      have hre : e.requeued = true := by
        have hpred := List.find?_some hwhole
        exact (Bool.and_eq_true_iff.1 hpred).2
      rw [hwhole] at hexec
      obtain ⟨hqueue, hmoves⟩ := stolen_moves hne hl hsum rfl
      exact ⟨_, e, hexec, hqueue, fun _ => rfl, fun h => absurd (hre.symm.trans h) (by decide), hmoves⟩
    · have hmem := List.mem_of_find?_eq_some hrange
      have hmine : (e.inst = inst ∧ e.idx = idx) ∧ e.hi - e.lo ≥ 2 := by simpa using List.find?_some hrange
      have hre : e.requeued = false := by simpa [hmine.1] using List.find?_eq_none.1 hnone e hmem
      rw [hnone, hrange] at hexec
      obtain ⟨hqueue, hmoves⟩ := stolen_moves (give := { e with lo := e.hi - (e.hi - e.lo) / 2 }) hne hl (sum_cut (e := e) rfl hmem) rfl
      exact ⟨_, _, hexec, hqueue, fun h => absurd (hre.symm.trans h) (by decide), fun _ => rfl, hmoves⟩
  · obtain ⟨hlaunches, hcores, hmem⟩ := stealAsked_frame (s := s) (thief := thief) (victim := victim) (inst := inst) (idx := idx)
    exact ⟨_, exec_stealRequest_down ht hv hi hc hdown, stealAsked_queue, hlaunches, hcores, hmem⟩

end Sys2Proof.Machine
end

section
/-! SUPPORT. What events, records, the end of fetched work and lock leave alone (R336, R337, R355, R411, R441, R458). -/

namespace Sys2Proof.Machine
open Sys2Proof

/-- What neither records nor the end of work touch: the clock, the host port, the boot and security blocks, the board, the persistent
settings and the fuses. -/
def State.standing (s : State) : Clock × HostPort × Boot × Sec × Board × Pers × Fuses :=
  (s.clock, s.host, s.boot, s.sec, s.board, s.pers, s.fuses)

/-- The standing is that of an earlier state, but for interrupts that have become pending, lock put in force, and an end of lock
reported. -/
structure Stands (b s : State) : Prop where
  clock : s.clock = b.clock
  host : s.host = { b.host with pba := s.host.pba }
  boot : s.boot = { b.boot with lockLeft := s.boot.lockLeft }
  sec : s.sec = { b.sec with lockInForce := s.sec.lockInForce }
  board : s.board = b.board
  pers : s.pers = b.pers
  fuses : s.fuses = b.fuses

variable {b s : State}

theorem Stands.refl (b : State) : Stands b b := ⟨rfl, rfl, rfl, rfl, rfl, rfl, rfl⟩

/-- A change outside the standing. -/
theorem Stands.same {t : State} (h : Stands b s) (e : t.standing = s.standing) : Stands b t := by
  simp only [State.standing, Prod.mk.injEq] at e
  obtain ⟨hclock, hhost, hboot, hsec, hboard, hpers, hfuses⟩ := e
  exact ⟨hclock.trans h.clock, hhost ▸ h.host, hboot ▸ h.boot, hsec ▸ h.sec, hboard.trans h.board, hpers.trans h.pers,
    hfuses.trans h.fuses⟩

theorem Stands.messages {t : State} (h : Stands b s) (k : MessagesOnly s t) : Stands b t := by
  obtain ⟨a, d, o, rfl⟩ := k
  exact h.same rfl

theorem Stands.updInst (h : Stands b s) (i : Nat) (f : Inst → Inst) : Stands b (s.updInst i f) := h.same rfl

theorem Stands.withAlert (h : Stands b s) (before : State) : Stands b (before.withAlert s) := by
  unfold State.withAlert
  split
  · exact h
  · exact h.same rfl

/-! ## Records -/

theorem Stands.interrupt (h : Stands b s) (v : Nat) : Stands b (s.interrupt v) := by
  unfold State.interrupt
  dsimp only
  split
  · exact h
  · split
    · exact ⟨h.clock, by rw [h.host], h.boot, h.sec, h.board, h.pers, h.fuses⟩
    · exact h.same rfl

theorem Stands.hostWrite (h : Stands b s) (i bus : Nat) (bs : List Byte) : Stands b (s.hostWrite i bus bs) := by
  unfold State.hostWrite
  split
  · exact h
  · exact h.same rfl

theorem Stands.putRecord (h : Stands b s) (i : Nat) (r : Record) : Stands b (s.putRecord i r) := by
  unfold State.putRecord
  dsimp only
  split
  · exact (h.hostWrite _ _ _).updInst _ _
  · exact ((h.hostWrite _ _ _).updInst _ _).interrupt _

theorem Stands.event (h : Stands b s) (i : Nat) (r : Record) : Stands b (s.event i r) := by
  unfold State.event
  dsimp only
  split
  · exact h.updInst _ _
  · split
    · exact h.putRecord i r
    · split
      · exact h.updInst _ _
      · exact h.updInst _ _

theorem Stands.eventTo (h : Stands b s) (l : List Nat) (r : Record) : Stands b (s.eventTo l r) :=
  List.foldlRecOn _ _ h (fun _ ht i _ => ht.event i r)

theorem Stands.eventLater (h : Stands b s) (i : Nat) (r : Record) : Stands b (s.eventLater i r) := by
  unfold State.eventLater
  split
  · exact h.event i r
  · exact h.updInst _ _

theorem Stands.respond (h : Stands b s) (m status : Nat) (payload : List Byte) : Stands b (s.respond m status payload) := by
  unfold State.respond
  split
  · exact h
  · have hdone := fun (f : Inst → Inst) (ds : List Drain) =>
      (h.updInst m f).same (t := { s.updInst m f with drains := ds }) rfl
    dsimp only
    split
    · exact (hdone _ _).event _ _
    · exact hdone _ _

/-! ## Work that ends -/

theorem Stands.updCore (h : Stands b s) (g : Nat) (f : Core → Core) : Stands b (s.updCore g f) := h.same rfl

theorem Stands.closeEnded (h : Stands b s) (g slot inst idx task : Nat) : Stands b (s.closeEnded g slot inst idx task) :=
  h.messages ((MessagesOnly.refl s).closeEnded g slot inst idx task)

theorem Stands.endCopies (h : Stands b s) (g : Nat) (copy : CopyJob → Bool) (mat : MatOp → Bool) : Stands b (s.endCopies g copy mat) :=
  List.foldlRecOn _ _ (h.updCore _ _) (fun _ ht _ _ => ht.closeEnded _ _ _ _ _)

theorem Stands.freeSlot (h : Stands b s) (g slot : Nat) : Stands b (s.freeSlot g slot) := by
  unfold State.freeSlot
  dsimp only
  split
  · exact (h.updCore _ _).closeEnded _ _ _ _ _
  · exact h.updCore _ _

theorem Stands.clearSlot (h : Stands b s) (g slot : Nat) : Stands b (s.clearSlot g slot) := by
  unfold State.clearSlot
  split
  · exact h
  · exact ((h.freeSlot g slot).endCopies g _ _).same rfl

theorem Stands.dropWork (h : Stands b s) (i idx : Nat) : Stands b (s.dropWork i idx) := by
  unfold State.dropWork
  refine Stands.same (s := List.foldl _ _ _) ?_ rfl
  refine List.foldlRecOn _ _ ?_ (fun _ ht g _ => ht.endCopies g _ _)
  exact List.foldlRecOn _ _ h (fun _ ht g _ => List.foldlRecOn _ _ ht (fun _ hu e _ => hu.clearSlot g e.1))

theorem Stands.removeLaunch (h : Stands b s) (i idx : Nat) : Stands b (s.removeLaunch i idx) := h.same rfl

theorem Stands.cqInterrupt (h : Stands b s) (i : Nat) : Stands b (s.cqInterrupt i) := by
  unfold State.cqInterrupt
  dsimp only
  split
  · exact h
  · split
    · exact h.interrupt _
    · split
      · exact (h.updInst _ _).interrupt _
      · exact h.updInst _ _

theorem Stands.complete (h : Stands b s) (i idx status result : Nat) : Stands b (s.complete i idx status result) := by
  unfold State.complete State.putCompletion
  split
  · exact h
  · dsimp only
    split
    · exact h.updInst _ _
    · have hput := fun (f g : Inst → Inst) (bus : Nat) (bs : List Byte) => (((h.updInst i f).hostWrite i bus bs).updInst i g)
      split
      · exact hput _ _ _ _
      · exact (hput _ _ _ _).cqInterrupt i

/-- The end of all fetched work, as at a package-fatal error or at lock (R441, R459). -/
theorem Stands.abandonAll (h : Stands b s) (status : Nat) : Stands b (s.abandonAll status) := by
  unfold State.abandonAll
  refine Stands.same (s := List.foldl _ _ _) ?_ rfl
  refine List.foldlRecOn _ _ ?_ (fun _ ht e _ => List.foldlRecOn _ _ ht (fun _ hu x _ => hu.complete _ _ _ _))
  exact List.foldlRecOn _ _ h (fun _ ht l _ => (ht.dropWork _ _).removeLaunch _ _)

/-! ## Lock -/

theorem Stands.settleClock (h : Stands b s) (before : State) (n : Nat) : Stands b (before.settleClock s n) := by
  have hleft : ∀ (c : Bool) (why : Nat) {u : State}, Stands b u → ∀ left, Stands b (if c then u.floorEvent n left why else u) :=
    fun c why u hu left => by
      cases c
      · exact hu
      · exact hu.eventTo _ _
  unfold State.settleClock
  dsimp only
  split
  · exact (hleft _ _ (hleft _ _ h _) _).same rfl
  · exact (hleft _ _ (hleft _ _ h _) _).same rfl

theorem Stands.settleClocks (h : Stands b s) (before : State) : Stands b (before.settleClocks s) :=
  List.foldlRecOn _ _ h (fun _ ht n _ => ht.settleClock before n)

theorem Stands.silence (h : Stands b s) : Stands b s.silence := h.same rfl

theorem Stands.enterLock (h : Stands b s) (source : Nat) : Stands b (s.enterLock source) := by
  unfold State.enterLock
  split
  · exact h
  · have hlock : Stands b { s with sec := { s.sec with lockInForce := true } } :=
      ⟨h.clock, h.host, h.boot, by rw [h.sec], h.board, h.pers, h.fuses⟩
    exact ((hlock.settleClocks s).silence.eventLater 0 _).abandonAll _

end Sys2Proof.Machine
end

section
/-! SUPPORT. A part without work: what lock and events leave of its memory and cores (R337, R458, R464). -/

namespace Sys2Proof.Machine
open Sys2Proof

/-- No launch is left, no ring is enabled and no entry has been fetched; memory and cores are those of an earlier state. -/
structure Idle (b s : State) : Prop where
  mem : s.mem = b.mem
  cores : s.cores = b.cores
  launches : s.launches = []
  rings : ∀ e ∈ s.insts, e.2.ring.en = false ∧ e.2.entries = []

variable {b s : State}

/-- A change of what is none of memory, cores, launches and instances. -/
theorem Idle.same {t : State} (h : Idle b s) (e : (t.mem, t.cores, t.launches, t.insts) = (s.mem, s.cores, s.launches, s.insts)) :
    Idle b t := by
  simp only [Prod.mk.injEq] at e
  obtain ⟨hmem, hcores, hlaunches, hinsts⟩ := e
  exact ⟨hmem.trans h.mem, hcores.trans h.cores, hlaunches.trans h.launches, hinsts ▸ h.rings⟩

theorem NMap_mem_of_find {α : Type} {m : NMap α} {k : Nat} {x : α} (h : NMap.find m k = some x) : (k, x) ∈ m := by
  induction m with
  | nil => cases h
  | cons e m ih =>
    obtain ⟨j, y⟩ := e
    rw [NMap.find] at h
    split at h
    · cases h; subst j; exact List.mem_cons_self
    · exact List.mem_cons_of_mem _ (ih h)

/-- A number under which nothing is listed has no enabled ring and no entry either. -/
theorem Idle.inst (h : Idle b s) (i : Nat) : (s.inst i).ring.en = false ∧ (s.inst i).entries = [] := by
  unfold State.inst NMap.at
  cases hfind : NMap.find s.insts i with
  | none => exact ⟨rfl, rfl⟩
  | some x => exact h.rings _ (NMap_mem_of_find hfind)

theorem Idle.updInst (h : Idle b s) (i : Nat) {f : Inst → Inst} (hring : (f (s.inst i)).ring.en = (s.inst i).ring.en)
    (hentries : (f (s.inst i)).entries = (s.inst i).entries) : Idle b (s.updInst i f) := by
  refine ⟨h.mem, h.cores, h.launches, fun e he => ?_⟩
  have he : e ∈ NMap.put {} s.insts i (f (s.inst i)) := he
  unfold NMap.put at he
  split at he
  · exact h.rings e (NMap_mem_del he)
  · rcases NMap_mem_ins he with rfl | he
    · exact ⟨hring.trans (h.inst i).1, hentries.trans (h.inst i).2⟩
    · exact h.rings e he

theorem Idle.withAlert (h : Idle b s) (before : State) : Idle b (before.withAlert s) := by
  unfold State.withAlert
  split
  · exact h
  · exact h.same rfl

/-! ## Records: nothing reaches a ring that is not enabled (R337) -/

theorem Idle.event (h : Idle b s) (i : Nat) (r : Record) : Idle b (s.event i r) := by
  unfold State.event
  dsimp only
  rw [if_pos (by rw [(h.inst i).1]; rfl)]
  exact h.updInst i rfl rfl

theorem Idle.eventTo (h : Idle b s) (l : List Nat) (r : Record) : Idle b (s.eventTo l r) :=
  List.foldlRecOn _ _ h (fun _ ht i _ => ht.event i r)

theorem Idle.eventLater (h : Idle b s) (i : Nat) (r : Record) : Idle b (s.eventLater i r) := by
  unfold State.eventLater
  rw [if_neg (by rw [(h.inst i).1]; decide)]
  exact h.updInst i rfl rfl

theorem Idle.respond (h : Idle b s) (m status : Nat) (payload : List Byte) : Idle b (s.respond m status payload) := by
  unfold State.respond
  split
  · exact h
  · have hdone := fun (f : Inst → Inst) (ds : List Drain) (hr : (f (s.inst m)).ring.en = (s.inst m).ring.en)
      (he : (f (s.inst m)).entries = (s.inst m).entries) => (h.updInst m hr he).same (t := { s.updInst m f with drains := ds }) rfl
    dsimp only
    split
    · exact (hdone _ _ rfl rfl).event _ _
    · exact hdone _ _ rfl rfl

/-! ## Lock -/

theorem Idle.settleClock (h : Idle b s) (before : State) (n : Nat) : Idle b (before.settleClock s n) := by
  have hleft : ∀ (c : Bool) (why : Nat) {u : State}, Idle b u → ∀ left, Idle b (if c then u.floorEvent n left why else u) :=
    fun c why u hu left => by
      cases c
      · exact hu
      · exact hu.eventTo _ _
  unfold State.settleClock
  dsimp only
  split
  · exact (hleft _ _ (hleft _ _ h _) _).same rfl
  · exact (hleft _ _ (hleft _ _ h _) _).same rfl

theorem Idle.settleClocks (h : Idle b s) (before : State) : Idle b (before.settleClocks s) :=
  List.foldlRecOn _ _ h (fun _ ht n _ => ht.settleClock before n)

theorem Idle.silence (h : Idle b s) : Idle b s.silence := by
  refine ⟨h.mem, h.cores, h.launches, fun e he => ?_⟩
  obtain ⟨x, hx, rfl⟩ := List.mem_map.1 he
  dsimp only
  split
  · exact h.rings x hx
  · exact h.rings x hx

/-- Where there is no launch and no entry nothing ends. -/
theorem Idle.abandonAll (h : Idle b s) (status : Nat) : Idle b (s.abandonAll status) := by
  unfold State.abandonAll
  refine Idle.same (s := List.foldl _ _ _) ?_ rfl
  rw [h.launches]
  exact List.foldlRecOn _ _ h (fun t ht e he => by rw [(h.rings e he).2]; exact ht)

theorem Idle.enterLock (h : Idle b s) (source : Nat) : Idle b (s.enterLock source) := by
  unfold State.enterLock
  split
  · exact h
  · have hlock : Idle b { s with sec := { s.sec with lockInForce := true } } := h.same rfl
    exact ((hlock.settleClocks s).silence.eventLater 0 _).abandonAll _

end Sys2Proof.Machine
end

section
/-! SUPPORT. Starts and resets (R16, R448, R464, R465, R469, R472, R474 to R476, R483). -/

namespace Sys2Proof.Machine
open Sys2Proof

variable {b s : State}

/-- The pin ALERT_N may have been told a change; nothing else (R495). -/
theorem withAlert_out (s t : State) : ∃ o, s.withAlert t = { t with out := o } := by
  unfold State.withAlert
  split
  · exact ⟨_, rfl⟩
  · exact ⟨_, rfl⟩

/-! ## The key store as a start finds it (R447, R460) -/

/-- The store zeroised, before an ENROLL that runs is answered. -/
def State.zeroised (s : State) : State :=
  { s.dropKey with sec := { s.dropKey.sec with dataRoot := 0, epochs := [], epochActive := 0, licences := [] } }

theorem eraseStore_stands (s : State) : Stands s.zeroised s.eraseStore := by
  unfold State.eraseStore
  dsimp only
  split
  · split
    · exact (Stands.refl s.zeroised).respond _ _ _
    · exact Stands.refl s.zeroised
  · exact Stands.refl s.zeroised

/-- A detection changes the tamper log alone (R461). -/
theorem tamper_log (s : State) (source level : Nat) (unpowered : Bool) : ∃ log at' next count, s.tamper source level unpowered =
    { s with sec := { s.sec with tlog := log, tlogAt := at', tlognext := next, tlogcnt := count } } := by
  unfold State.tamper
  dsimp only
  split
  · exact ⟨_, _, _, _, rfl⟩
  · exact ⟨_, _, _, _, rfl⟩

/-- What a lost cell leaves: the time, the choice of recovery, the board and the fuses as they were, the persistent settings at their
defaults, and a locked module without licences or key (R460). -/
theorem batteryLost_leaves (s : State) : s.batteryLost.clock = s.clock ∧ s.batteryLost.boot.recover = s.boot.recover ∧
    s.batteryLost.board = s.board ∧ s.batteryLost.fuses = s.fuses ∧ s.batteryLost.pers = {} ∧ s.batteryLost.sec.locked = true ∧
    s.batteryLost.sec.licences = [] ∧ s.batteryLost.sec.enrolled = false := by
  have h := eraseStore_stands s
  unfold State.batteryLost
  obtain ⟨log, at', next, count, ht⟩ := tamper_log _ 0xFF 2 false
  rw [ht]
  refine ⟨h.clock, ?_, h.board, h.fuses, rfl, rfl, ?_, ?_⟩
  · exact (congrArg Boot.recover h.boot).trans rfl
  · exact (congrArg Sec.licences h.sec).trans rfl
  · exact (congrArg Sec.enrolled h.sec).trans rfl

theorem checkStore_leaves (s : State) (cell : CellReport) : (s.checkStore cell).clock = s.clock ∧
    (s.checkStore cell).boot.recover = s.boot.recover ∧ (s.checkStore cell).board = s.board ∧ (s.checkStore cell).fuses = s.fuses := by
  obtain ⟨hclock, hrecover, hboard, hfuses, -⟩ := batteryLost_leaves s
  cases cell with
  | kept => exact ⟨rfl, rfl, rfl, rfl⟩
  | lost => exact ⟨hclock, hrecover, hboard, hfuses⟩
  | flipped fs =>
    unfold State.checkStore
    dsimp only
    split
    · exact ⟨rfl, rfl, rfl, rfl⟩
    · exact ⟨hclock, hrecover, hboard, hfuses⟩

/-! ## The beginning of a start (R464) -/

/-- A key left half made dropped, and the key exhausted where its index is not valid (R447, R451). -/
def State.keySettled (s : State) : State :=
  let s := if s.sec.keygenOpen then s.dropKey else s
  if s.sec.sigIndex.isNone then { s with sec := { s.sec with exhausted := true } } else s

/-- Of the security block that leaves the lock and the licences. -/
theorem keySettled_sec (s : State) : ∃ c : Sec, s.keySettled = { s with sec := c } ∧ c.locked = s.sec.locked ∧
    c.licences = s.sec.licences ∧ (s.sec.enrolled = false → c.enrolled = false) := by
  have hdrop : ∃ c : Sec, (if s.sec.keygenOpen then s.dropKey else s) = { s with sec := c } ∧ c.locked = s.sec.locked ∧
      c.licences = s.sec.licences ∧ (s.sec.enrolled = false → c.enrolled = false) := by
    split
    · exact ⟨_, rfl, rfl, rfl, fun _ => rfl⟩
    · exact ⟨_, rfl, rfl, rfl, id⟩
  obtain ⟨c, hc, hlocked, hlicences, henrolled⟩ := hdrop
  unfold State.keySettled
  rw [hc]
  dsimp only
  split
  · exact ⟨_, rfl, hlocked, hlicences, henrolled⟩
  · exact ⟨_, rfl, hlocked, hlicences, henrolled⟩

/-- A start that begins, with the key store checked, the data-key root drawn and the first data key taken (R448). -/
def State.startKeyed (s : State) (cold : Bool) (inputs : StartInputs) (recover : Bool) : State :=
  let s := (s.checkStore inputs.cell).keySettled
  let (root, s) := s.draw256
  let s := { s with
    sec := { s.sec with dataRoot := root }
    boot := { s.boot with
      starting := some cold
      t0 := s.clock.now
      held := false
      bringupAtT0 := s.pers.bringup
      recoveryPin := inputs.recoveryLow
      recoverAtT0 := recover }
    board := { s.board with locate := s.board.locate && !cold } }
  s.newKey 0

/-- A thermal trip since the last start reported. -/
def State.reportTrip (s : State) : State :=
  if s.therm.tripNew then { (s.eventLater 0 (s.record 0xA 7 0 0 s.therm.newest.toNat)) with therm := { s.therm with tripNew := false } } else s

/-- The end of lock reported in each sector (R411). -/
def State.reportUnlock (s : State) : State :=
  if s.boot.lockLeft then
    (List.range 64).foldl (fun (s : State) n => s.eventLater 0 (s.record 5 5 0 (sectorUnit n) 2)) { s with boot := { s.boot with lockLeft := false } }
  else s

/-- Lock put in force again where LOCKED is set (R458). -/
def State.relock (s : State) : State := if s.sec.locked then s.enterLock s.lockSource else s

/-- A start begins by the keys, and then reports what came before it. -/
theorem beginStart_eq (cold : Bool) (inputs : StartInputs) (recover : Bool) :
    s.beginStart cold inputs recover = (s.startKeyed cold inputs recover).reportTrip.reportUnlock.relock := rfl

theorem Stands.reportTrip (h : Stands b s) : Stands b s.reportTrip := by
  unfold State.reportTrip
  split
  · exact (h.eventLater 0 _).same rfl
  · exact h

theorem Stands.reportUnlock (h : Stands b s) : Stands b s.reportUnlock := by
  unfold State.reportUnlock
  split
  · exact List.foldlRecOn _ _ ⟨h.clock, h.host, by rw [h.boot], h.sec, h.board, h.pers, h.fuses⟩ (fun _ ht n _ => ht.eventLater 0 _)
  · exact h

theorem Stands.relock (h : Stands b s) : Stands b s.relock := by
  unfold State.relock
  split
  · exact h.enterLock _
  · exact h

theorem Idle.reportTrip (h : Idle b s) : Idle b s.reportTrip := by
  unfold State.reportTrip
  split
  · exact (h.eventLater 0 _).same rfl
  · exact h

theorem Idle.reportUnlock (h : Idle b s) : Idle b s.reportUnlock := by
  unfold State.reportUnlock
  split
  · exact List.foldlRecOn _ _ (h.same rfl) (fun _ ht n _ => ht.eventLater 0 _)
  · exact h

theorem Idle.relock (h : Idle b s) : Idle b s.relock := by
  unfold State.relock
  split
  · exact h.enterLock _
  · exact h

theorem Idle.batteryLost (h : Idle b s) : Idle b s.batteryLost := by
  have herased : Idle b s.eraseStore := by
    have hz : Idle b s.zeroised := h.same rfl
    unfold State.eraseStore
    dsimp only
    split
    · split
      · exact hz.respond _ _ _
      · exact hz
    · exact hz
  unfold State.batteryLost
  obtain ⟨log, at', next, count, ht⟩ := tamper_log _ 0xFF 2 false
  rw [ht]
  exact herased.same rfl

theorem Idle.checkStore (h : Idle b s) (cell : CellReport) : Idle b (s.checkStore cell) := by
  unfold State.checkStore
  split
  · exact h
  · exact h.batteryLost
  · dsimp only
    split
    · exact h.same rfl
    · exact h.batteryLost

/-- A start of a part without work changes neither its memory nor its cores. -/
theorem Idle.beginStart (h : Idle b s) (cold : Bool) (inputs : StartInputs) (recover : Bool) :
    Idle b (s.beginStart cold inputs recover) := by
  have hkeyed : Idle b (s.startKeyed cold inputs recover) := by
    refine (h.checkStore inputs.cell).same ?_
    obtain ⟨c, hc, -⟩ := keySettled_sec (s.checkStore inputs.cell)
    unfold State.startKeyed
    rw [hc]
    rfl
  exact hkeyed.reportTrip.reportUnlock.relock

/-- What a start settles at t0 (R447, R448, R464, R475, R476). -/
structure Begun (s t : State) (cold : Bool) (inputs : StartInputs) (recover : Bool) : Prop where
  starting : t.boot.starting = some cold
  t0 : t.boot.t0 = s.clock.now
  held : t.boot.held = false
  bringup : t.boot.bringupAtT0 = (s.checkStore inputs.cell).pers.bringup
  pin : t.boot.recoveryPin = inputs.recoveryLow
  recoverAtT0 : t.boot.recoverAtT0 = recover
  recover : t.boot.recover = s.boot.recover
  locate : t.board.locate = (s.board.locate && !cold)
  root : t.sec.dataRoot = s.draw256.1
  locked : t.sec.locked = (s.checkStore inputs.cell).sec.locked
  licences : t.sec.licences = (s.checkStore inputs.cell).sec.licences
  enrolled : (s.checkStore inputs.cell).sec.enrolled = false → t.sec.enrolled = false
  pers : t.pers = (s.checkStore inputs.cell).pers
  fuses : t.fuses = s.fuses

theorem startKeyed_begun (s : State) (cold : Bool) (inputs : StartInputs) (recover : Bool) :
    Begun s (s.startKeyed cold inputs recover) cold inputs recover := by
  obtain ⟨hclock, hrecover, hboard, hfuses⟩ := checkStore_leaves s inputs.cell
  unfold State.startKeyed
  obtain ⟨c, hc, hlocked, hlicences, henrolled⟩ := keySettled_sec (s.checkStore inputs.cell)
  rw [hc]
  exact {
    starting := rfl
    t0 := congrArg Clock.now hclock
    held := rfl
    bringup := rfl
    pin := rfl
    recoverAtT0 := rfl
    recover := hrecover
    locate := congrArg (fun x : Board => x.locate && !cold) hboard
    root := congrArg (fun x : Clock => (State.draw256 { s with clock := x }).1) hclock
    locked := hlocked
    licences := hlicences
    enrolled := henrolled
    pers := rfl
    fuses := hfuses }

theorem Begun.stands {t u : State} {cold : Bool} {inputs : StartInputs} {recover : Bool} (h : Begun s t cold inputs recover)
    (k : Stands t u) : Begun s u cold inputs recover := by
  obtain ⟨hclock, hhost, hboot, hsec, hboard, hpers, hfuses⟩ := k
  exact ⟨hboot ▸ h.starting, hboot ▸ h.t0, hboot ▸ h.held, hboot ▸ h.bringup, hboot ▸ h.pin, hboot ▸ h.recoverAtT0, hboot ▸ h.recover,
    hboard ▸ h.locate, hsec ▸ h.root, hsec ▸ h.locked, hsec ▸ h.licences, fun hc => hsec ▸ h.enrolled hc, hpers ▸ h.pers, hfuses ▸ h.fuses⟩

theorem beginStart_begun (s : State) (cold : Bool) (inputs : StartInputs) (recover : Bool) :
    Begun s (s.beginStart cold inputs recover) cold inputs recover :=
  (startKeyed_begun s cold inputs recover).stands (Stands.refl _).reportTrip.reportUnlock.relock

/-! ## COLD_START, WARM_RESET and RESET_PIN_RELEASE (R464) -/

/-- What a cold start settles, for each report of the battery's cell. -/
theorem exec_coldStart (inputs : StartInputs) (hrails : s.board.rails = true) (hgood : s.board.pwrGood = true)
    (htrip : s.therm.tripped = false) (hstart : s.boot.starting = none) (hheld : s.boot.held = false) (hstep : s.host.step = 0)
    (hfailed : s.host.failed = false) (hrec : s.host.recovery = false) :
    ∃ t, exec (.coldStart inputs) s = .next t ∧ Begun s t true inputs false := by
  refine ⟨_, ?_, (beginStart_begun s true inputs false).stands ((Stands.refl _).withAlert s)⟩
  show execColdStart inputs s = _
  simp [execColdStart, hrails, hgood, htrip, hstart, hheld, hstep, hfailed, hrec]

theorem exec_resetPinRelease (inputs : StartInputs) (hrails : s.board.rails = true) (hheld : s.boot.held = true) :
    ∃ t, exec (.resetPinRelease inputs) s = .next t ∧
      Begun { s with boot := { s.boot with recover := false } } t false inputs s.boot.recover := by
  refine ⟨_, ?_, (beginStart_begun _ false inputs s.boot.recover).stands ((Stands.refl _).withAlert s)⟩
  show execResetPinRelease inputs s = _
  simp [execResetPinRelease, hrails, hheld]

/-- A warm reset keeps host memory, fuses, the persistent settings but for the count of lost starts, and the time. -/
theorem wiped_leaves (s : State) : s.startLost.wipe.cores = [] ∧ s.startLost.wipe.host = State.reset.host ∧
    s.startLost.wipe.mem = { host := s.mem.host } ∧ s.startLost.wipe.pers = s.startLost.pers ∧ s.startLost.wipe.fuses = s.fuses ∧
    s.startLost.wipe.boot.starting = none ∧ s.startLost.wipe.boot.recover = false ∧ s.startLost.wipe.clock.now = s.clock.now := by
  have hlost : s.startLost.mem = s.mem ∧ s.startLost.fuses = s.fuses ∧ s.startLost.clock = s.clock := by
    unfold State.startLost
    split
    · exact ⟨rfl, rfl, rfl⟩
    · exact ⟨rfl, rfl, rfl⟩
  obtain ⟨hmem, hfuses, hclock⟩ := hlost
  rw [← hmem, ← hfuses, ← hclock]
  unfold State.wipe State.cutErase
  split
  · exact ⟨rfl, rfl, rfl, rfl, rfl, rfl, rfl, rfl⟩
  · exact ⟨rfl, rfl, rfl, rfl, rfl, rfl, rfl, rfl⟩

theorem wipe_idle (s : State) : Idle s.wipe s.wipe := by
  refine ⟨rfl, rfl, rfl, fun e he => ?_⟩
  have he : e ∈ State.reset.insts := he
  rw [List.mem_singleton.1 he]
  exact ⟨rfl, rfl⟩

theorem exec_warmReset_held (inputs : StartInputs) (hrails : s.board.rails = true) : ∃ o, exec (.warmReset true inputs) s =
    .next { s.startLost.wipe with boot := { s.startLost.wipe.boot with held := true, recover := s.boot.recover }, out := o } := by
  obtain ⟨o, ho⟩ := withAlert_out s
    { s.startLost.wipe with boot := { s.startLost.wipe.boot with held := true, recover := s.boot.recover } }
  refine ⟨o, ?_⟩
  show execWarmReset true inputs s = _
  simp only [execWarmReset, State.warmReset, hrails, Bool.not_true, Bool.false_eq_true, if_false, if_true, ho]

theorem exec_warmReset_now (inputs : StartInputs) (hrails : s.board.rails = true) : ∃ t, exec (.warmReset false inputs) s = .next t ∧
    Begun s.startLost.wipe t false inputs s.boot.recover ∧ Idle s.startLost.wipe t := by
  refine ⟨_, ?_, (beginStart_begun s.startLost.wipe false inputs s.boot.recover).stands ((Stands.refl _).withAlert s),
    ((wipe_idle s.startLost).beginStart false inputs s.boot.recover).withAlert s⟩
  show execWarmReset false inputs s = _
  simp only [execWarmReset, State.warmReset, hrails, Bool.not_true, Bool.false_eq_true, if_false]

/-! ## START_STEP_DONE (R465, R469) -/

/-- The four bits of FAILCNT stop at 15. -/
theorem failcnt_saturates (c : BitVec 4) : (if c = 15 then 15 else c + 1).toNat = min 15 (c.toNat + 1) := by
  revert c; decide

/-- A start that fails is over and counted, with its step and cause (R469). -/
theorem failStart_leaves {cold : Bool} (hstart : s.boot.starting = some cold) (step cause : Nat) : s.failStart step cause =
    { s with
      pers := { s.pers with failcnt := if s.pers.failcnt = 15 then 15 else s.pers.failcnt + 1 }
      host := { s.host with failed := true }
      boot := { s.boot with starting := none, cause := BitVec.ofNat 8 cause, failstep := BitVec.ofNat 3 step } } := by
  have hsome : s.boot.starting.isSome = true := by rw [hstart]; rfl
  simp only [State.failStart, State.startLost, hsome, if_true]

variable {cold : Bool} {r : StepReport}

theorem exec_startStepDone_none (hstart : s.boot.starting = none) : exec (.startStepDone r) s = .next s := by
  show execStartStepDone r s = _
  simp only [execStartStepDone, hstart]

/-- A step that overruns its time or meets an error of the root manager fails the start (R469). -/
theorem exec_startStepDone_fails (hstart : s.boot.starting = some cold) {c : Nat}
    (hc : (r.overrun = true ∧ c = 7) ∨ (r.overrun = false ∧ r.prmError = true ∧ c = 6)) :
    ∃ o, exec (.startStepDone r) s = .next { s.failStart (s.host.step.toNat + 1) c with out := o } := by
  obtain ⟨o, ho⟩ := withAlert_out s (s.failStart (s.host.step.toNat + 1) c)
  refine ⟨o, ?_⟩
  show execStartStepDone r s = _
  rcases hc with ⟨hover, rfl⟩ | ⟨hover, hprm, rfl⟩
  · simp only [execStartStepDone, hstart, hover, if_true, ho]
  · simp only [execStartStepDone, hstart, hover, hprm, Bool.false_eq_true, if_false, if_true, ho]

/-- The work of a step of a start (R465). -/
def State.stepWork (s : State) (k : Nat) (r : StepReport) (cold : Bool) : State :=
  match k with
  | 1 => s.step1
  | 2 => s.step2
  | 3 => s.step3 r
  | 4 => s.step4 r cold
  | 5 => s.step5 r
  | 6 => s.step6 r
  | _ => s.step7

/-- A step counted as completed, with its time. -/
def State.stepDone (s : State) (k : Nat) (r : StepReport) : State :=
  { s with
    host := { s.host with step := BitVec.ofNat 3 k }
    boot := { s.boot with steptime := NMap.put 0 s.boot.steptime k (BitVec.ofNat 32 (min 0xFFFFFFFF r.us)) } }

theorem runStep_eq (s : State) (k : Nat) (r : StepReport) (cold : Bool) : s.runStep k r cold =
    if (s.stepWork k r cold).host.failed then s.stepWork k r cold else (s.stepWork k r cold).stepDone k r := rfl

/-- A step in its time runs its work; an installation comes only before step 3 (R474). -/
theorem exec_startStepDone_runs {k : Nat} (hstart : s.boot.starting = some cold) (hover : r.overrun = false) (hprm : r.prmError = false)
    (hk : s.host.step.toNat + 1 = k) (hinst : k ≠ 3 ∨ s.boot.stage ≠ 3) :
    exec (.startStepDone r) s = .next (s.withAlert (s.runStep k r cold)) := by
  have hno : (decide (k = 3) && decide (s.boot.stage = 3)) = false := by
    simp only [Bool.and_eq_false_iff, decide_eq_false_iff_not]
    exact hinst
  show execStartStepDone r s = _
  simp only [execStartStepDone, hstart, hover, hprm, hk, hno, Option.isNone_some, Bool.false_eq_true, if_false]

section
variable {k : Nat} {t : State} (hstart : s.boot.starting = some cold) (hover : r.overrun = false) (hprm : r.prmError = false)
  (hk : s.host.step.toNat + 1 = k) (hinst : k ≠ 3 ∨ s.boot.stage ≠ 3) (hwork : s.stepWork k r cold = t)
include hstart hover hprm hk hinst hwork

/-- A step whose work fails nothing is completed. -/
theorem exec_startStepDone_completes (hgood : t.host.failed = false) :
    ∃ o, exec (.startStepDone r) s = .next { t.stepDone k r with out := o } := by
  obtain ⟨o, ho⟩ := withAlert_out s (t.stepDone k r)
  rw [exec_startStepDone_runs hstart hover hprm hk hinst, runStep_eq, hwork, hgood, if_neg Bool.false_ne_true, ho]
  exact ⟨o, rfl⟩

/-- A step in whose work the start fails is not completed. -/
theorem exec_startStepDone_stops (hbad : t.host.failed = true) : ∃ o, exec (.startStepDone r) s = .next { t with out := o } := by
  obtain ⟨o, ho⟩ := withAlert_out s t
  rw [exec_startStepDone_runs hstart hover hprm hk hinst, runStep_eq, hwork, hbad, if_pos rfl, ho]
  exact ⟨o, rfl⟩

end

/-- The first step counts the boot and fails nothing (R465). -/
theorem step1_leaves (s : State) : s.step1.host.failed = s.host.failed ∧
    s.step1.pers = { s.pers with bootcnt := if s.pers.bootcnt = 0xFFFFFFFF then s.pers.bootcnt else s.pers.bootcnt + 1 } := by
  have hload : ∀ u : State, (if u.activeOk then u.loadActive else u).host.failed = u.host.failed ∧
      (if u.activeOk then u.loadActive else u).pers = u.pers := fun u => by
    split
    · exact ⟨rfl, rfl⟩
    · exact ⟨rfl, rfl⟩
  have hrecover : ∀ (u : State) (stay : Bool) (src : Nat), (if stay then u else u.enterRecovery src).host.failed = u.host.failed ∧
      (if stay then u else u.enterRecovery src).pers = u.pers := fun u stay src => by
    split
    · exact ⟨rfl, rfl⟩
    · exact ⟨rfl, rfl⟩
  exact ⟨(hrecover _ _ _).1.trans (hload _).1, (hrecover _ _ _).2.trans (hload _).2⟩

theorem step2_installs (h : s.boot.stage = 2) : s.step2 = { s with boot := { s.boot with stage := 3 } } := by
  rw [State.step2, if_pos h]

/-- In recovery mode a start with nothing to install ends at step 2 (R475). -/
theorem step2_recovers (hstart : s.boot.starting = some cold) (hstage : s.boot.stage ≠ 2) (hrec : s.host.recovery = true) :
    s.step2.boot.starting = none ∧ s.step2.host.failed = s.host.failed ∧ s.step2.host.ready = s.host.ready := by
  have hsome : s.boot.starting.isSome = true := by rw [hstart]; rfl
  rw [State.step2, if_neg hstage, if_pos hrec, State.startLost, if_pos hsome]
  exact ⟨rfl, rfl, rfl⟩

theorem step3_fails (h : s.dieCause r ≠ 0) : s.step3 r = s.failStart 3 (s.dieCause r) := by
  simp only [State.step3]
  rw [if_pos h]

theorem step5_fails (h : imageDigests s.boot.active (fun k => k = 2) = false) : s.step5 r = s.failStart 5 5 := by
  rw [State.step5, if_pos (by rw [h]; rfl)]

/-- What the last step settles before its event (R469, R472). -/
def State.readied (s : State) : State :=
  { s with
    host := { s.host with ready := true }
    pers := { s.pers with failcnt := 0 }
    boot := { s.boot with starting := none, svnDue := s.boot.fusesvn < s.boot.svn } }

theorem step7_stands (s : State) : Stands s.readied s.step7 := by
  unfold State.step7
  dsimp only
  split
  · exact (Stands.refl s.readied).event 0 _
  · exact Stands.refl s.readied

/-- The outcome of each step of a start that neither overruns nor meets an error of the root manager (R465, R475). -/
theorem startStepDone_steps (hstart : s.boot.starting = some cold) (hover : r.overrun = false) (hprm : r.prmError = false)
    (hgood : s.host.failed = false) :
    (s.host.step = 0 → ∃ t, exec (.startStepDone r) s = .next t ∧ t.host.step = 1 ∧
      t.pers.bootcnt = if s.pers.bootcnt = 0xFFFFFFFF then s.pers.bootcnt else s.pers.bootcnt + 1) ∧
    (s.host.step = 1 → s.boot.stage = 2 → ∃ t, exec (.startStepDone r) s = .next t ∧ t.host.step = 2 ∧ t.boot.stage = 3 ∧
      t.boot.starting = some cold) ∧
    (s.host.step = 1 → s.boot.stage ≠ 2 → s.host.recovery = true → ∃ t, exec (.startStepDone r) s = .next t ∧ t.host.step = 2 ∧
      t.boot.starting = none ∧ t.host.ready = s.host.ready) ∧
    (s.host.step = 2 → s.boot.stage ≠ 3 → s.dieCause r ≠ 0 → ∃ t, exec (.startStepDone r) s = .next t ∧ t.host.failed = true ∧
      t.boot.cause = BitVec.ofNat 8 (s.dieCause r) ∧ t.boot.failstep = 3) ∧
    (s.host.step = 4 → imageDigests s.boot.active (fun k => k = 2) = false → ∃ t, exec (.startStepDone r) s = .next t ∧
      t.host.failed = true ∧ t.boot.cause = 5 ∧ t.boot.failstep = 5) ∧
    (s.host.step = 6 → ∃ t, exec (.startStepDone r) s = .next t ∧ t.host.ready = true ∧ t.host.step = 7 ∧ t.boot.starting = none ∧
      t.pers.failcnt = 0 ∧ t.boot.svnDue = decide (s.boot.fusesvn < s.boot.svn)) := by
  refine ⟨fun h => ?_, fun h hstage => ?_, fun h hstage hrec => ?_, fun h hstage hdie => ?_, fun h hfw => ?_, fun h => ?_⟩
  · obtain ⟨hf, hp⟩ := step1_leaves s
    obtain ⟨o, ho⟩ := exec_startStepDone_completes (k := 1) hstart hover hprm (by rw [h]; rfl) (.inl (by decide)) rfl (hf.trans hgood)
    exact ⟨_, ho, rfl, congrArg Pers.bootcnt hp⟩
  · obtain ⟨o, ho⟩ := exec_startStepDone_completes (k := 2) hstart hover hprm (by rw [h]; rfl) (.inl (by decide)) (step2_installs hstage) hgood
    exact ⟨_, ho, rfl, rfl, hstart⟩
  · obtain ⟨hnone, hfailed, hready⟩ := step2_recovers hstart hstage hrec
    obtain ⟨o, ho⟩ := exec_startStepDone_completes (k := 2) hstart hover hprm (by rw [h]; rfl) (.inl (by decide)) rfl
      (hfailed.trans hgood)
    exact ⟨_, ho, rfl, hnone, hready⟩
  · obtain ⟨o, ho⟩ := exec_startStepDone_stops (k := 3) hstart hover hprm (by rw [h]; rfl) (.inr hstage)
      ((step3_fails hdie).trans (failStart_leaves hstart 3 _)) rfl
    exact ⟨_, ho, rfl, rfl, rfl⟩
  · obtain ⟨o, ho⟩ := exec_startStepDone_stops (k := 5) hstart hover hprm (by rw [h]; rfl) (.inl (by decide))
      ((step5_fails hfw).trans (failStart_leaves hstart 5 5)) rfl
    exact ⟨_, ho, rfl, rfl, rfl⟩
  · have hready := step7_stands s
    obtain ⟨o, ho⟩ := exec_startStepDone_completes (k := 7) hstart hover hprm (by rw [h]; rfl) (.inl (by decide)) rfl
      ((congrArg HostPort.failed hready.host).trans hgood)
    exact ⟨_, ho, congrArg HostPort.ready hready.host, rfl, congrArg Boot.starting hready.boot, congrArg Pers.failcnt hready.pers,
      congrArg Boot.svnDue hready.boot⟩

/-! ## FUSE_SVN and BOOT_RECOVER (R472, R476) -/

theorem exec_fuseSvn (hdue : s.boot.svnDue = true) (hready : s.host.ready = true) :
    exec .fuseSvn s = .next { s with boot := { s.boot with fusesvn := s.boot.svn, svnDue := false } } := by
  show execFuseSvn s = _
  simp only [execFuseSvn, hdue, hready, Bool.and_self, if_true]

/-- A write of BOOT.CTRL keeps its two bits, and with its highest bit asks for a warm reset (R464, R476). -/
theorem exec_bootRecover {v : BitVec 32} (hopen : s.bootOpen 0 = true) {u : State}
    (hu : u = { s with pers := { s.pers with bringup := v.getLsbD 0 }, boot := { s.boot with recover := v.getLsbD 1 } }) :
    exec (.bootRecover 0 v) s =
      .next (if v.getLsbD 31 then u.draw.2.warmReset false { recoveryLow := u.draw.1.getLsbD 0 } else u) := by
  subst hu
  show execBootRecover 0 v s = _
  simp only [execBootRecover, hopen, if_true]
  rfl

/-- Settles O50: what begins a start is read off `Begun`, and what it leaves alone off `wiped_leaves` and `Idle`; a start that fails is
`failStart_leaves`, and its steps are `startStepDone_steps`. -/
theorem startsAndResets : Obligations.StartsAndResets := by
  unfold Obligations.StartsAndResets
  intro s
  obtain ⟨hcores, hhost, hmem, hpers, hfuses, hnone, hrecover, hnow⟩ := wiped_leaves s
  refine ⟨fun i hrails hgood htrip hstart hheld hstep hfailed hrec => ?_, fun fs => ⟨fun h => ?_, fun h => ?_⟩, fun i hrails => ?_,
    fun i hrails => ?_, fun i hrails hheld => ?_, fun h r => exec_startStepDone_none h, fun cold r hstart => ⟨fun c hc => ?_,
    fun hover hprm hgood => startStepDone_steps hstart hover hprm hgood⟩, exec_fuseSvn, fun v hopen u hu => exec_bootRecover hopen hu⟩
  · obtain ⟨t, ht, hb⟩ := exec_coldStart i hrails hgood htrip hstart hheld hstep hfailed hrec
    obtain ⟨-, -, -, -, hdefaults, hlocked, hlicences, henrolled⟩ := batteryLost_leaves s
    refine ⟨t, ht, hb.starting, hb.t0, hb.pin, by rw [hb.locate]; exact Bool.and_false _, hb.root, fun hcell => ?_, fun hcell => ?_⟩
    · rw [hb.bringup, hcell]; rfl
    · have hcheck : s.checkStore i.cell = s.batteryLost := by rw [hcell]; rfl
      exact ⟨by rw [hb.locked, hcheck, hlocked], by rw [hb.licences, hcheck, hlicences],
        hb.enrolled (by rw [hcheck, henrolled]), by rw [hb.pers, hcheck, hdefaults]⟩
  · simp only [State.checkStore, h, Bool.false_eq_true, if_false]
  · simp only [State.checkStore, h, if_true]
  · obtain ⟨o, ho⟩ := exec_warmReset_held i hrails
    exact ⟨_, ho, rfl, hnone, rfl, hcores, hhost, hmem, hpers, hfuses⟩
  · obtain ⟨t, ht, hb, hidle⟩ := exec_warmReset_now i hrails
    exact ⟨t, ht, hb.held, hb.starting, hb.t0.trans hnow, hb.pin, hb.recoverAtT0, hb.recover.trans hrecover, hidle.cores.trans hcores,
      hidle.mem.trans hmem, hb.fuses.trans hfuses⟩
  · obtain ⟨t, ht, hb⟩ := exec_resetPinRelease i hrails hheld
    exact ⟨t, ht, hb.held, hb.starting, hb.t0, hb.recoverAtT0, hb.recover⟩
  · obtain ⟨o, ho⟩ := exec_startStepDone_fails hstart hc
    rw [failStart_leaves hstart] at ho
    exact ⟨_, ho, rfl, rfl, rfl, rfl, failcnt_saturates _⟩

end Sys2Proof.Machine
end

section
/-! SUPPORT. Two statements that fail: the fence of a unit without cores (R20, R437) and what goes on by itself in a nanosecond (R313). -/

namespace Sys2Proof.Machine
open Sys2Proof

/-! ## The fence of a unit without cores -/

/-- A ready package with one bundle between die 0 and the north I/O die in service, and a fence of pseudo-channel 0 asked for. -/
def fenceAsked : State := { State.reset with
  host := { State.reset.host with ready := true }
  d2d := { State.reset.d2d with bundles := [(128, { state := 0 })] }
  err := { State.reset.err with funit := pchUnit 0 } }

/-- The same with the order of the fence received. -/
def fenceOrdered : State := { fenceAsked with err := { fenceAsked.err with fence := some { unit := pchUnit 0, drain := false } } }

/-- The pseudo-channel fenced with RESULT 0. -/
def fenceCarriedOut : State := (fenceOrdered.fenceFabric (pchUnit 0) 0).fenceResult 0

/-- The same with no order left, and what follows settled. -/
def fenceSettled : State := State.settleControls { fenceCarriedOut with err := { fenceCarriedOut.err with fence := none } }

/-- The flits that wait for a credit on the bundle toward die 0. -/
def flitsTowardDie0 (s : State) : Nat := (s.bundle 128).dir1.waiting.length

/-- The order goes to the steward of die 0 as a message over the bundle (R20, R398). -/
theorem flitsTowardDie0_fenceOrdered : flitsTowardDie0 (fenceOrdered.control (pchUnit 0) .fence).settleAll = 1 := by decide +kernel

theorem flitsTowardDie0_fenceSettled : flitsTowardDie0 fenceSettled = 0 := by decide +kernel

/-- Refutes O49, by the fence of pseudo-channel 0 with no command waiting. For it the statement claims two states: the order received and
settled, and the unit fenced with RESULT 0. In the first the order has also gone to the steward of the die as a message (R20), which is
on the bundle toward it. -/
theorem not_errorsAndFences : ¬ Obligations.ErrorsAndFences := by
  unfold Obligations.ErrorsAndFences
  intro h
  obtain ⟨hcommand, -⟩ := h fenceAsked 0x80000000 rfl rfl
  obtain ⟨-, hunit⟩ := hcommand rfl rfl _ rfl
  obtain ⟨-, -, hserves⟩ := hunit (by decide +kernel) (pchUnit 0) 0 (by decide +kernel) (by decide +kernel)
  obtain ⟨hordered, hdone⟩ := hserves (by decide +kernel) (by decide +kernel) fenceOrdered fenceCarriedOut rfl
  have hsame := hordered.symm.trans (hdone (by decide +kernel) rfl rfl)
  have hflits := congrArg flitsTowardDie0 (Host.Outcome.next.inj hsame)
  rw [flitsTowardDie0_fenceOrdered] at hflits
  exact absurd (hflits.trans flitsTowardDie0_fenceSettled) (by decide)

/-! ## A nanosecond -/

/-- A module in which nothing waits but the body of a snapshot record, of one byte, at a page that leads to host memory. -/
def snapshotUnderWay : State := { State.reset with
  cad := { State.reset.cad with snapJob := some { at_ := 0, head := [], body := [1], sent := false } }
  tlb := [{ agent := agentPart, inst := 0, va := 0, log2 := 16, leaf := BitVec.ofNat 64 (2 ^ 52 + 7) }] }

/-- The body of the record starts at its offset 64 (R313). -/
theorem tick_snapshotUnderWay : NMap.find snapshotUnderWay.tick.mem.host 64 = some 1 := by decide +kernel

/-- With no command waiting a nanosecond passes. -/
theorem step_of_pending_nil {s : State} (h : s.pending = []) : step s = .next s.tick := by simp only [step, h]

/-- Refutes O56: a snapshot record under way goes on by itself in a nanosecond (R313), and the statement does not list it among what
must not wait; its body is written to host memory. -/
theorem not_stepRunsFrontCommand : ¬ Obligations.StepRunsFrontCommand := by
  unfold Obligations.StepRunsFrontCommand
  intro h
  obtain ⟨-, hpasses⟩ := h
  obtain ⟨t, ht, -, -, -, hmem, -⟩ := hpasses snapshotUnderWay rfl (.inr ⟨rfl, rfl, List.forall_mem_nil _, List.forall_mem_nil _,
    List.forall_mem_nil _, List.forall_mem_nil _, List.forall_mem_singleton.2 rfl, List.forall_mem_nil _⟩)
  rw [step_of_pending_nil rfl] at ht
  have hwritten := tick_snapshotUnderWay
  rw [Host.Outcome.next.inj ht, hmem] at hwritten
  cases hwritten

end Sys2Proof.Machine
end

section
/-! SUPPORT. What an issued instruction finds, and the instructions that write one scalar register, one mask or the performing lanes
(R39, R41, R70, R71, R73, R76 to R78, R95, R103 to R108, R430, R514, R515). -/

namespace Sys2Proof.Machine
open Sys2Proof

/-! ## An issued instruction -/

/-- The command of an instruction that its group issues completes with the effect of its row. -/
theorem onGroup_issue {s : State} {core slot : Nat} {r : Row} {w w1 : Word} {x : Group} (h : Issues s core slot r w w1 x)
    (eff : State → Group → State) : onGroup core slot (s.issue core slot r w w1 eff) = .next (eff (s.atIssue core slot r w x) x) := by
  rw [issue_eq h, onGroup_eq h.1]

/-- The group in its slot when an instruction acts is the settled one. -/
theorem atIssue_group (s : State) (core slot : Nat) (r : Row) (w : Word) (x : Group) :
    (s.atIssue core slot r w x).group core slot = some x := by
  have hpick : ∀ t : State, (t.pick core slot (vectorClass r w.toNat)).group core slot = t.group core slot := by
    intro t; simp [State.pick, State.group]
  rw [State.atIssue, hpick, State.atWord]
  split <;> simp [dropStaged_group]

/-! ## What a change of one group leaves -/

section
variable {s t : State} {core slot : Nat}

theorem SameBut.launches (h : SameBut s t core slot) : t.launches = s.launches := by rw [h.1]
theorem SameBut.cad (h : SameBut s t core slot) : t.cad = s.cad := by rw [h.1]
theorem SameBut.mem (h : SameBut s t core slot) : t.mem = s.mem := by rw [h.1]
theorem SameBut.sectorClk (h : SameBut s t core slot) (n : Nat) : t.sectorClk n = s.sectorClk n := by rw [h.1]; rfl
theorem SameBut.inst (h : SameBut s t core slot) (i : Nat) : t.inst i = s.inst i := by rw [h.1]; rfl
theorem SameBut.launch (h : SameBut s t core slot) (i idx : Nat) : t.launch i idx = s.launch i idx := by rw [h.1]; rfl
theorem SameBut.launchOf (h : SameBut s t core slot) (x : Group) : t.launchOf x = s.launchOf x := by rw [h.1]; rfl
theorem SameBut.ctrs (h : SameBut s t core slot) : (t.core core).ctrs = (s.core core).ctrs := by rw [h.2.2.2]
theorem SameBut.ctr (h : SameBut s t core slot) (k n : Nat) : t.ctr core k n = s.ctr core k n := by rw [State.ctr, h.ctrs]; rfl
theorem SameBut.mats (h : SameBut s t core slot) : (t.core core).mats = (s.core core).mats := by rw [h.2.2.2]
theorem SameBut.lsPoison (h : SameBut s t core slot) : (t.core core).lsPoison = (s.core core).lsPoison := by rw [h.2.2.2]

theorem SameBut.cycles (h : SameBut s t core slot) : t.cycles core = s.cycles core := by
  rw [State.cycles, h.2.2.2, h.sectorClk]; rfl

theorem SameBut.rnd (h : SameBut s t core slot) (x : Group) (w lane : Nat) : t.rnd x w lane = s.rnd x w lane := by
  simp only [State.rnd, h.launchOf]

theorem SameBut.special (h : SameBut s t core slot) (x : Group) (n : Nat) : special t core x n = special s core x n := by
  simp only [Machine.special, h.cycles, h.cad, h.inst]

theorem SameBut.readSpecial (h : SameBut s t core slot) (x : Group) (n : Nat) : readSpecial t core x n = readSpecial s core x n := by
  simp only [Machine.readSpecial, h.special]

end

/-! ## One scalar register -/

/-- A read of a special register takes at most the other half of the instant (R303). -/
theorem readSpecial_group (s : State) (g : Nat) (x : Group) (n : Nat) :
    (readSpecial s g x n).2 = { x with instant := (readSpecial s g x n).2.instant } := by
  unfold readSpecial
  split
  · rfl
  · rfl
  · split
    · split <;> rfl
    · rfl

/-- The beat counter or the phase that the last read of the other one has taken (R303). -/
theorem readSpecial_second {s : State} {g n : Nat} {x : Group} {v : Word} (hn : n = 1 ∨ n = 2) (hv : x.instant = some (n, v)) :
    readSpecial s g x n = (v, { x with instant := none }) := by
  rcases hn with rfl | rfl <;> simp [readSpecial, hv]

/-- The beat counter or the phase read first of the two: the other is taken at the same instant (R303). -/
theorem readSpecial_first {s : State} {g n : Nat} {x : Group} (hn : n = 1 ∨ n = 2) (hv : ∀ v, x.instant ≠ some (n, v)) :
    readSpecial s g x n = (special s g x n, { x with instant := some (3 - n, special s g x (3 - n)) }) := by
  have hmiss : ∀ m v, x.instant = some (m, v) → m ≠ n := fun m v hm hmn => hv v (hmn ▸ hm)
  rcases hn with rfl | rfl
  all_goals
    simp only [readSpecial]
    split
    · rw [if_neg (hmiss _ _ ‹_›)]
    · rfl

/-- rdsr completes with the group after the read, the register written and the pc moved. -/
theorem exec_rdsr {s : State} {core slot : Nat} {w : Word} {x : Group} (h : Issues s core slot .rdsr w 0 x) :
    exec (.rdsr core slot w) s = .next ((s.atIssue core slot .rdsr w x).stepGroup core slot 8
      ((readSpecial s core x (iIMM w.toNat)).2.setS (wD w.toNat) (readSpecial s core x (iIMM w.toNat)).1)) := by
  rw [← (sameBut_atIssue s core slot .rdsr w x).readSpecial]
  exact onGroup_issue h _

/-- The group that mask logic leaves, but for its pc (R71, R514). -/
def maskLogicGroup (x : Group) (n : Nat) : Group :=
  match wFN n with
  | 0 => x.setK (wD n) (x.k (wA n) &&& x.k (wB n))
  | 1 => x.setK (wD n) (x.k (wA n) ||| x.k (wB n))
  | 2 => x.setK (wD n) (x.k (wA n) ^^^ x.k (wB n))
  | 3 => x.setK (wD n) (x.k (wA n) &&& ~~~x.k (wB n))
  | 4 => x.setK (wD n) (~~~x.k (wA n))
  | 5 => x.setK (wD n) ((x.s (wA n)).truncate 32)
  | _ => x.setS (wD n) (BitVec.ofNat 64 (popc 32 (x.k (wA n)).toNat))

theorem exec_maskLogic {s : State} {core slot : Nat} {w : Word} {x : Group} (h : Issues s core slot .maskLogic w 0 x) :
    exec (.maskLogic core slot w) s =
      .next ((s.atIssue core slot .maskLogic w x).stepGroup core slot 8 (maskLogicGroup x w.toNat)) := onGroup_issue h _

/-- A mask of all lanes or of none. -/
def allLanes (c : Bool) : BitVec 32 := if c then 0xFFFFFFFF else 0

/-- The group that the lane census leaves, but for its pc (R76). -/
def tallyGroup (x : Group) (n : Nat) : Group :=
  let a := x.k (wA n) &&& x.active
  match wFN n with
  | 0 => x.setK (wD n) (allLanes (a = 0))
  | 1 => x.setK (wD n) (allLanes (a = x.active))
  | 2 => x.setS (wD n) (BitVec.ofNat 64 (popc 32 a.toNat))
  | 3 => x.setS (wD n) (a.setWidth 64)
  | 4 => x.setS (wD n) (BitVec.ofNat 64 (firstBit 32 a.toNat))
  | 5 => x.setK (wD n) (allLanes (((bitsOf 32 x.active.toNat).map (fun i => x.v (wA n) i)).all
      (fun v => some v = ((bitsOf 32 x.active.toNat).map (fun i => x.v (wA n) i)).head?)))
  | _ => x.setK (wD n) (allLanes (a ≠ 0 && a ≠ x.active))

theorem exec_tally {s : State} {core slot : Nat} {w : Word} {x : Group} (h : Issues s core slot .tally w 0 x) :
    exec (.tally core slot w) s =
      .next ((s.atIssue core slot .tally w x).stepGroup core slot 8 (tallyGroup x w.toNat)) := onGroup_issue h _

/-- Settles O1: every form is the effect of its row on the settled group, in the shape `writesScalar_of` asks for; rdsr is read through
`readSpecial_first` and `readSpecial_second`. -/
theorem scalarResults : Obligations.ScalarResults := by
  unfold Obligations.ScalarResults
  intro s core slot w x
  have hsame := fun r => sameBut_atIssue s core slot r w x
  refine ⟨fun h => writesScalar_of (hsame _) (onGroup_issue h _), fun h => writesScalar_of (hsame _) (onGroup_issue h _),
    fun h => writesScalar_of (hsame _) (onGroup_issue h _), fun h => writesScalar_of (hsame _) (onGroup_issue h _), fun h => ?_, fun h => ?_,
    fun h => writesScalar_of (hsame _) (onGroup_issue h _), fun h => writesScalar_of (hsame _) (onGroup_issue h _), fun h hfn => ?_,
    fun h hfn => ?_, fun h hfn => ?_, fun h hfn => ?_⟩
  case refine_1 =>
    obtain ⟨hgroup, hrest⟩ := stepGroup_spec (s.atIssue core slot .rdsr w x) core slot 8
      ((readSpecial s core x (iIMM w.toNat)).2.setS (wD w.toNat) (readSpecial s core x (iIMM w.toNat)).1)
    refine ⟨_, _, exec_rdsr h, hgroup, ?_, ?_, sameBut_trans (hsame _) hrest, fun r hr => ?_, fun hn => ?_, fun hn => ?_, fun v hn hv => ?_,
      fun hn hv => ?_, fun hn hv => ?_⟩
    · rw [readSpecial_group]; rfl
    · rw [readSpecial_group]; rfl
    · rw [readSpecial_group]; exact (setS_s _ _ _ _).trans (if_neg hr)
    · rw [hn]; exact ⟨(setS_s _ _ _ _).trans (if_pos rfl), rfl⟩
    · rw [hn]; exact ⟨(setS_s _ _ _ _).trans (if_pos rfl), rfl⟩
    · rw [readSpecial_second hn hv]; exact ⟨(setS_s _ _ _ _).trans (if_pos rfl), rfl⟩
    · rw [hn, readSpecial_first (.inl rfl) hv]; exact ⟨(setS_s _ _ _ _).trans (if_pos rfl), rfl⟩
    · rw [hn, readSpecial_first (.inr rfl) hv]; exact ⟨(setS_s _ _ _ _).trans (if_pos rfl), rfl⟩
  case refine_2 =>
    rw [← (hsame .ctrRd).ctr]
    exact writesScalar_of (hsame _) (onGroup_issue h _)
  case refine_3 =>
    have hexec := exec_maskLogic h
    rw [maskLogicGroup, hfn] at hexec
    exact writesScalar_of (hsame _) hexec
  all_goals
    have hexec := exec_tally h
    rw [tallyGroup, hfn] at hexec
    exact writesScalar_of (hsame _) hexec

/-! ## One mask -/

/-- All active lanes hold one value where each holds the value of the first (R76). -/
theorem all_eq_head_iff (x : Group) (r : Nat) :
    ((bitsOf 32 x.active.toNat).map (fun i => x.v r i)).all (fun v => some v = ((bitsOf 32 x.active.toNat).map (fun i => x.v r i)).head?) =
      (List.range 32).all (fun i => (List.range 32).all (fun j => !x.active.getLsbD i || !x.active.getLsbD j || x.v r i == x.v r j)) := by
  have hmem : ∀ i, i ∈ bitsOf 32 x.active.toNat ↔ i < 32 ∧ x.active.getLsbD i = true := by
    intro i; simp [bitsOf, BitVec.getLsbD]
  have hright : (List.range 32).all (fun i => (List.range 32).all (fun j => !x.active.getLsbD i || !x.active.getLsbD j || x.v r i == x.v r j)) = true ↔
      ∀ i ∈ bitsOf 32 x.active.toNat, ∀ j ∈ bitsOf 32 x.active.toNat, x.v r i = x.v r j := by
    simp only [List.all_eq_true, List.mem_range, hmem, Bool.or_eq_true, Bool.not_eq_true', beq_iff_eq]
    refine ⟨fun hpair i ⟨hi, hai⟩ j ⟨hj, haj⟩ => ?_, fun hpair i hi j hj => ?_⟩
    · simpa [hai, haj] using hpair i hi j hj
    · cases hai : x.active.getLsbD i with
      | false => exact .inl (.inl rfl)
      | true =>
        cases haj : x.active.getLsbD j with
        | false => exact .inl (.inr rfl)
        | true => exact .inr (hpair i ⟨hi, hai⟩ j ⟨hj, haj⟩)
  rw [Bool.eq_iff_iff, hright]
  cases bitsOf 32 x.active.toNat with
  | nil => simp
  | cons a l =>
    simp only [List.map_cons, List.head?_cons, List.all_eq_true, decide_eq_true_eq, Option.some.injEq]
    rw [← List.map_cons, List.forall_mem_map]
    exact ⟨fun hfirst i hi j hj => (hfirst i hi).trans (hfirst j hj).symm, fun hpair i hi => hpair i hi a List.mem_cons_self⟩

/-- Settles O2: cmp is the effect of its row; mask logic and the census are read off function by function. -/
theorem maskResults : Obligations.MaskResults := by
  unfold Obligations.MaskResults
  intro s core slot w x
  have hsame := fun r => sameBut_atIssue s core slot r w x
  refine ⟨fun h => writesMask_of (hsame _) (onGroup_issue h _), fun h hfn => ?_, fun h hfn => ?_⟩
  · have hexec := exec_maskLogic h
    rw [maskLogicGroup] at hexec
    have hcases : wFN w.toNat = 0 ∨ wFN w.toNat = 1 ∨ wFN w.toNat = 2 ∨ wFN w.toNat = 3 ∨ wFN w.toNat = 4 ∨ wFN w.toNat = 5 := by omega
    rcases hcases with hf | hf | hf | hf | hf | hf <;> rw [hf] at hexec ⊢ <;> exact writesMask_of (hsame _) hexec
  · have hexec := exec_tally h
    rw [tallyGroup] at hexec
    simp only [List.mem_cons, List.not_mem_nil, or_false] at hfn
    rcases hfn with hf | hf | hf | hf
    · rw [hf] at hexec ⊢; exact writesMask_of (hsame _) hexec
    · rw [hf] at hexec ⊢; exact writesMask_of (hsame _) hexec
    · rw [hf] at hexec ⊢
      rw [← all_eq_head_iff]
      exact writesMask_of (hsame _) hexec
    · rw [hf] at hexec ⊢
      simp only [← Bool.decide_and] at hexec
      exact writesMask_of (hsame _) hexec

/-! ## Performing lanes -/

/-- lane.put as a write of one lane to one register. -/
theorem setV_eq_lanes (x : Group) (d l : Nat) (v : Word) :
    x.setV d l (v.truncate 32) = (([l].foldl (fun y i => y.setVN d i 1 (v.toNat % 2 ^ 32)) x).wrote [l] d 1) := by
  have hv : v.truncate 32 = BitVec.ofNat 32 (v.toNat % 2 ^ 32) := by
    apply BitVec.eq_of_toNat_eq; simp
  rw [wrote_one, hv]; rfl

/-- A wide-sum instruction without poison in its operands completes with the effect of its function. -/
theorem onGroup_wsumIssue {s : State} {core slot : Nat} {r : Row} {w : Word} {x : Group} (h : Issues s core slot r w 0 x)
    (hp : wsumPoison x r w.toNat = none) (eff : State → Group → State) :
    onGroup core slot (s.wsumIssue core slot r w eff) = .next (eff (s.atIssue core slot r w x) x) := by
  rw [State.wsumIssue, onGroup_issue h, hp]

/-- One with poison in an operand faults at the lowest performing lane that meets it (R430). -/
theorem onGroup_wsumIssue_poison {s : State} {core slot lane : Nat} {r : Row} {w : Word} {x : Group} (h : Issues s core slot r w 0 x)
    (hp : wsumPoison x r w.toNat = some lane) (eff : State → Group → State) :
    onGroup core slot (s.wsumIssue core slot r w eff) =
      .next ((s.atIssue core slot r w x).raisePoison core slot 0xC 0 lane x.inst) := by
  rw [State.wsumIssue, onGroup_issue h, hp]

/-! ## Traps -/

/-- A state that differs from an earlier one in records and in what they send: instances, host memory, the host port, the log and
messages. -/
def RecordsOnly (b s : State) : Prop := ∃ i m h o e, s = { b with insts := i, mem := m, host := h, out := o, err := e }

section
variable {b s : State}

theorem RecordsOnly.refl (b : State) : RecordsOnly b b := ⟨_, _, _, _, _, rfl⟩

theorem RecordsOnly.updInst (k : RecordsOnly b s) (i : Nat) (f : Inst → Inst) : RecordsOnly b (s.updInst i f) := by
  obtain ⟨_, _, _, _, _, rfl⟩ := k; exact ⟨_, _, _, _, _, rfl⟩

theorem RecordsOnly.hostWrite (k : RecordsOnly b s) (i bus : Nat) (bs : List Byte) : RecordsOnly b (s.hostWrite i bus bs) := by
  obtain ⟨_, _, _, _, _, rfl⟩ := k; unfold State.hostWrite; split <;> exact ⟨_, _, _, _, _, rfl⟩

theorem RecordsOnly.interrupt (k : RecordsOnly b s) (v : Nat) : RecordsOnly b (s.interrupt v) := by
  obtain ⟨_, _, _, _, _, rfl⟩ := k
  unfold State.interrupt
  split
  · exact ⟨_, _, _, _, _, rfl⟩
  · dsimp only; split <;> exact ⟨_, _, _, _, _, rfl⟩

theorem RecordsOnly.log (k : RecordsOnly b s) (r : Record) : RecordsOnly b (s.log r) := by
  obtain ⟨_, _, _, _, _, rfl⟩ := k; exact ⟨_, _, _, _, _, rfl⟩

theorem RecordsOnly.putRecord (k : RecordsOnly b s) (i : Nat) (r : Record) : RecordsOnly b (s.putRecord i r) := by
  unfold State.putRecord
  dsimp only
  split
  · exact (k.hostWrite _ _ _).updInst _ _
  · exact ((k.hostWrite _ _ _).updInst _ _).interrupt _

theorem RecordsOnly.event (k : RecordsOnly b s) (i : Nat) (r : Record) : RecordsOnly b (s.event i r) := by
  unfold State.event
  dsimp only
  split
  · exact k.updInst _ _
  · split
    · exact k.putRecord i r
    · split <;> exact k.updInst _ _

theorem RecordsOnly.eventLater (k : RecordsOnly b s) (i : Nat) (r : Record) : RecordsOnly b (s.eventLater i r) := by
  unfold State.eventLater
  split
  · exact k.event i r
  · exact k.updInst _ _

theorem RecordsOnly.errRecord (k : RecordsOnly b s) (code flags : Nat) (u : BitVec 32) (detail : Nat) (dests : List Nat) :
    RecordsOnly b (s.errRecord code flags u detail dests) := by
  unfold State.errRecord
  dsimp only
  split
  · exact List.foldlRecOn _ _ (k.log _) (fun _ ht i _ => ht.event i _)
  · exact List.foldlRecOn _ _ (k.log _) (fun _ ht i _ => ht.eventLater i _)

end

/-- A group that faults at its instruction: its launch takes the fault and the group stops, nothing else changes (R55, R57, R58). -/
theorem raise_traps {i : Instr} {s base : State} {core slot code lane : Nat} {x : Group} (hexec : exec i s = .next (base.raise core slot code lane))
    (hx : base.group core slot = some x) (hcad : base.cad = s.cad) : Traps i s base core slot x code lane := by
  intro l hl
  have hcores : ∀ f, (base.kill x.inst x.idx f).cores = base.cores := fun f => updLaunch_cores _ _ _ _
  refine ⟨_, hexec, ?_, ?_, fun g hg => ?_, ?_⟩
  · simp only [State.raise, hx, State.kill, State.updLaunch, hl]; rfl
  · simp only [State.raise, hx, setGroup_group, and_self, if_true]
  · simp only [State.raise, hx]
    rw [(sameBut_setGroup _ core slot _).2.1 g hg, State.core, hcores]; rfl
  · simp only [State.raise, hx, setGroup_launch, State.kill, hcad]
    exact updLaunch_launch _ hl (by split <;> rfl) (by split <;> rfl)

/-- Poison consumed: the record goes out before the fault (R430, R435). -/
theorem raisePoison_traps {i : Instr} {s u : State} {core slot addr lane owner : Nat} {x : Group}
    (hexec : exec i s = .next (u.raisePoison core slot 0xC addr lane owner)) (hx : u.group core slot = some x) (hcad : u.cad = s.cad) :
    Traps i s (u.errRecord 3 0 (coreUnit core) (errDetail (addr / 16 * 16) 0xFF 0 owner 0) [0, owner]) core slot x 0xC lane := by
  obtain ⟨_, _, _, _, _, hrec⟩ := (RecordsOnly.refl u).errRecord 3 0 (coreUnit core) (errDetail (addr / 16 * 16) 0xFF 0 owner 0) [0, owner]
  refine raise_traps hexec ?_ ?_
  · rw [hrec]; exact hx
  · rw [hrec]; exact hcad

/-- Settles O3: the vector forms write the value of each performing lane (`writesLanes_of`), and a poisoned wide sum traps
(`raisePoison_traps`). -/
theorem vectorResults : Obligations.VectorResults := by
  unfold Obligations.VectorResults
  intro s core slot w x
  have hsame := fun r => sameBut_atIssue s core slot r w x
  have hlanes := lanes_lt x (wKM w.toNat)
  refine ⟨fun h => writesLanes_of (hsame _) hlanes rfl (onGroup_issue h _), fun h => writesLanes_of (hsame _) hlanes rfl (onGroup_issue h _),
    fun h => writesLanes_of (hsame _) hlanes rfl (onGroup_issue h _), fun h => writesLanes_of (hsame _) hlanes rfl (onGroup_issue h _),
    fun h => ?_, fun h => writesLanes_of (hsame _) hlanes rfl (onGroup_issue h _),
    fun h => writesLanes_of (hsame _) hlanes rfl (onGroup_issue h _), fun h => ?_, fun h hp hwide hlow => ?_,
    fun h hp => writesLanes_of (hsame _) hlanes rfl (onGroup_wsumIssue h hp _), fun h hp => writesLanes_of (hsame _) hlanes rfl (onGroup_wsumIssue h hp _),
    fun h hp => writesLanes_of (hsame _) hlanes rfl (onGroup_wsumIssue h hp _), fun h hp => writesLanes_of (hsame _) hlanes rfl (onGroup_wsumIssue h hp _),
    fun h hp => ?_, fun c r hrow h lane hp => ?_⟩
  case refine_1 =>
    simp only [← (hsame .cvt).rnd]
    exact writesLanes_of (hsame _) hlanes rfl (onGroup_issue h _)
  case refine_2 =>
    have hlane : laneNumber x w.toNat < 32 := Nat.mod_lt _ (by decide)
    exact writesLanes_of (hsame _) (List.forall_mem_singleton.2 hlane) (setV_eq_lanes x _ _ _) (onGroup_issue h _)
  case refine_3 =>
    have hexec : exec (.wsumInit core slot w) s = .next _ := onGroup_wsumIssue h hp _
    have hgood : (decide ((x.s (wA w.toNat)).toNat ≥ 2 ^ 16) || !lowOk (sext 16 (x.s (wA w.toNat)).toNat)) = false := by
      simp [hlow]; omega
    simp only [hgood] at hexec
    exact writesLanes_of (hsame _) hlanes rfl hexec
  case refine_4 =>
    simp only [← (hsame .wsumCvt).rnd]
    exact writesLanes_of (hsame _) hlanes rfl (onGroup_wsumIssue h hp _)
  case refine_5 =>
    have htraps := fun hexec => raisePoison_traps (i := c) (addr := 0) (lane := lane) (owner := x.inst) hexec (atIssue_group s core slot r w x) (hsame r).cad
    simp only [List.mem_cons, Prod.mk.injEq, List.not_mem_nil, or_false] at hrow
    rcases hrow with ⟨rfl, rfl⟩ | ⟨rfl, rfl⟩ | ⟨rfl, rfl⟩ | ⟨rfl, rfl⟩ | ⟨rfl, rfl⟩ | ⟨rfl, rfl⟩ <;>
      exact htraps (onGroup_wsumIssue_poison h hp _)

end Sys2Proof.Machine
end

section
/-! SUPPORT. Control transfers, arrival counters, waits and mask register k0 (R41, R48 to R52, R74, R75, R95 to R97, R101). -/

namespace Sys2Proof.Machine
open Sys2Proof

/-! ## Control transfers -/

/-- A command whose effect reaches a state that differs in one group makes the group what it is there. -/
theorem becomesGroup_of {i : Instr} {s u t : State} {core slot : Nat} {y : Group} (hu : SameBut s u core slot) (hexec : exec i s = .next t)
    (ht : t.group core slot = some y ∧ SameBut u t core slot) : BecomesGroup i s core slot y :=
  ⟨t, hexec, ht.1, sameBut_trans hu ht.2⟩

/-- A group replaced, one instruction of its window past. -/
theorem setGroup_tickWindow_spec (s : State) (core slot : Nat) (y : Group) :
    ((s.setGroup core slot y).tickWindow core slot).group core slot = some { y with window := y.window - 1 } ∧
      SameBut s ((s.setGroup core slot y).tickWindow core slot) core slot := by
  obtain ⟨hgroup, hsame⟩ := tickWindow_spec (s := s.setGroup core slot y) (core := core) (slot := slot) (x := y) (by simp)
  exact ⟨hgroup, sameBut_trans (sameBut_setGroup _ _ _ _) hsame⟩

/-- A branch that some threads take and others do not has a place on a stack below 32 entries (R48). -/
theorem branch_diverges {x : Group} {target rpc : Word} {taken : BitVec 32} (hall : taken ≠ x.active) (hnone : taken ≠ 0)
    (hroom : x.stack.length ≠ 32) : x.branch target rpc taken = some { x with
      stack := { rpc := rpc, saved := x.active, pendPc := x.pc + 8, pend := x.active &&& ~~~taken } :: x.stack
      active := taken, pc := target } := by
  rw [Group.branch, if_neg hall, if_neg hnone, if_neg hroom]

/-- A branch completes with the group that on_branch leaves (R48). -/
theorem exec_br {s : State} {core slot : Nat} {w : Word} {x y : Group} (h : Issues s core slot .br w 0 x)
    (hy : x.branch (relAddr x.pc (bTGT w.toNat)) (relAddr x.pc (bRPC w.toNat))
      (x.active &&& (if bN w.toNat then ~~~(x.k (wKM w.toNat)) else x.k (wKM w.toNat))) = some y) :
    exec (.br core slot w) s = .next (((s.atIssue core slot .br w x).setGroup core slot y).tickWindow core slot) := by
  have hexec : exec (.br core slot w) s = .next _ := onGroup_issue h _
  dsimp only at hexec
  rw [hy] at hexec
  exact hexec

/-- The low three bits of a jump's target are those of its register. -/
theorem addr56_mod_eight (v : Word) : (addr56 v).toNat % 8 = v.toNat % 8 := by
  have hmask : (0x00FFFFFFFFFFFFFF : Word).toNat = 2 ^ 56 - 1 := by decide
  rw [addr56, BitVec.toNat_and, hmask, Nat.and_two_pow_sub_one_eq_mod]
  omega

/-- A jump to an aligned address. -/
theorem jumpTo_aligned {core slot : Nat} {s : State} {x : Group} {target : Word} (h : target.toNat % 8 = 0) :
    jumpTo core slot s x target = (s.setGroup core slot { x with pc := target }).tickWindow core slot := by
  simp [jumpTo, h]

/-- A group that goes on has not ended. -/
theorem groupEnded_running {s : State} {core slot : Nat} {x : Group} (h : s.group core slot = some x) (hp : x.phase = .running) :
    s.groupEnded core slot = s := by
  simp [State.groupEnded, h, hp]

/-- Settles O5: each transfer replaces the group (`setGroup_tickWindow_spec`), a branch by one of the three cases of on_branch. -/
theorem controlFlow : Obligations.ControlFlow := by
  unfold Obligations.ControlFlow
  intro s core slot w x
  have hsame := fun r => sameBut_atIssue s core slot r w x
  refine ⟨fun h => ?_, fun h taken htaken => ?_, fun h halign => ?_, fun h halign => ?_, fun h hphase => ?_, fun h hbar => ?_⟩
  · exact becomesGroup_of (hsame _) (onGroup_issue h _) (advance_spec 8 (atIssue_group s core slot _ w x))
  · obtain ⟨⟨⟨⟨-, -, -, -, hactive, -⟩, -⟩, -⟩, -⟩ := id h
    have hbr := fun y hy => becomesGroup_of (hsame _) (exec_br (y := y) h (htaken ▸ hy)) (setGroup_tickWindow_spec _ _ _ y)
    refine ⟨fun hall => hbr { x with pc := x.pc + BitVec.ofInt 64 (8 * bTGT w.toNat) } ?_, fun hnone => hbr { x with pc := x.pc + 8 } ?_,
      fun hsome hnone hroom => hbr { x with
        stack := { rpc := x.pc + BitVec.ofInt 64 (8 * bRPC w.toNat), saved := x.active, pendPc := x.pc + 8, pend := x.active &&& ~~~taken } :: x.stack
        active := taken, pc := x.pc + BitVec.ofInt 64 (8 * bTGT w.toNat) } ?_⟩
    · rw [Group.branch, if_pos hall]; rfl
    · rw [Group.branch, if_neg (hnone ▸ hactive.symm), if_pos hnone]
    · exact branch_diverges hsome hnone (Nat.ne_of_lt hroom)
  · have hexec : exec (.jmp core slot w) s = .next _ := onGroup_issue h _
    rw [jumpTo_aligned ((addr56_mod_eight _).trans halign)] at hexec
    exact becomesGroup_of (hsame _) hexec (setGroup_tickWindow_spec _ _ _ _)
  · have hexec : exec (.call core slot w) s = .next _ := onGroup_issue h _
    rw [if_pos ((addr56_mod_eight _).trans halign), jumpTo_aligned ((addr56_mod_eight _).trans halign)] at hexec
    exact becomesGroup_of (hsame _) hexec (setGroup_tickWindow_spec _ _ _ _)
  · have hexec : exec (.exit core slot w) s = .next _ := onGroup_issue h _
    rw [groupEnded_running (x := x.exit.settle) (by simp) hphase] at hexec
    exact becomesGroup_of (hsame _) hexec (setGroup_tickWindow_spec _ _ _ _)
  · have hexec : exec (.barGroup core slot w) s = .next _ := onGroup_issue h _
    have hmeet : (decide (x.parked ≠ 0) && decide (x.barAddr ≠ x.pc)) = false := by
      rcases hbar with hbar | hbar <;> simp [hbar]
    rw [hmeet, if_neg Bool.false_ne_true, (hsame .barGroup).cycles] at hexec
    exact becomesGroup_of (hsame _) hexec ⟨by simp, sameBut_setGroup _ _ _ _⟩

/-! ## Arrival counters and waits -/

theorem atWord_group (s : State) (core slot : Nat) (r : Row) (w : Word) (x : Group) :
    (s.atWord core slot r w x).group core slot = some x := by
  rw [State.atWord]; split <;> simp [dropStaged_group]

/-- wait.ge waits while the signed difference of the counter and the awaited value is negative (R95). -/
theorem waits_waitGe (s : State) (g slot : Nat) (x : Group) (n : Nat) :
    s.waits g slot x .waitGe n = decide (diff32 (s.ctr g slot (wA n)) (ctrOperand x n) < 0) := by
  simp [State.waits]

/-- mma.wait waits while more matrix operations of the group are incomplete than it allows (R101). -/
theorem waits_mmaWait (s : State) (g slot : Nat) (x : Group) (n : Nat) :
    s.waits g slot x .mmaWait n = decide (iIMM n < s.matsOf g slot) := by
  simp [State.waits]

theorem matsOf_eq {s : State} {g slot : Nat} {x : Group} (h : s.group g slot = some x) : s.matsOf g slot =
    ((s.core g).mats.filter (fun m => m.slot = slot && m.inst = x.inst && m.idx = x.idx && m.task = x.task)).length := by
  rw [State.matsOf, h]

/-- A write of one counter. -/
theorem setCtr_ctr (s : State) (g slot n : Nat) (v : BitVec 32) (k j : Nat) :
    (s.setCtr g slot n v).ctr g k j = if ctrKey k j = ctrKey slot n then v else s.ctr g k j := by
  rw [State.ctr, State.setCtr, updCore_eq, setCore_core, if_pos rfl]
  exact NMap_at_put _ _ _ _ _

theorem setCtr_group (s : State) (g slot n : Nat) (v : BitVec 32) (k : Nat) : (s.setCtr g slot n v).group g k = s.group g k := by
  simp [State.setCtr, State.group]

theorem ctrKey_eq_iff {k slot j n : Nat} (hj : j < 32) (hn : n < 32) : ctrKey k j = ctrKey slot n ↔ k = slot ∧ j = n := by
  unfold ctrKey; omega

/-- A legal word has no field that its checks refuse. -/
theorem of_worst_eq_zero {l : List Nat} {c : Bool} (h : worst l = 0) (hc : ck c ∈ l) : c = true := by
  cases c with
  | true => rfl
  | false =>
    have hone : l.contains 1 = true := List.contains_iff_mem.2 hc
    rw [worst, hone] at h
    exact absurd h Nat.one_ne_zero

/-- The counter that a legal counter operation names is one of 32 (R95). -/
theorem ctr_number_lt {w : Nat} (h : legalCtr w = 0) : wA w < 32 := by
  have hle := of_worst_eq_zero h (c := decide (wA w ≤ 31)) (by simp)
  exact Nat.lt_succ_of_le (of_decide_eq_true hle)

/-- A counter operation with FN 0 is a wait (R95). -/
theorem rowOf_fn_zero {w : Nat} (h : iFN w = 0) : rowOf w ≠ some .ctrSet ∧ rowOf w ≠ some .ctrAdd := by
  simp only [rowOf, h]
  constructor <;> (repeat' split) <;> simp only [ne_eq, reduceCtorEq, not_false_eq_true, Option.some.injEq]

/-- The operand of a counter operation that is no wait for an immediate (R95). -/
theorem ctrOperand_register {x : Group} {w : Nat} (h : iFN w ≠ 0) :
    ctrOperand x w = (x.s (wD w)).truncate 32 + BitVec.ofNat 32 (iIMM w) := by
  rw [ctrOperand, if_neg h]

/-- A counter written by its group, which moves past the word: no other counter of the core changes (R95, R97). -/
theorem setCtr_advance_spec {s u : State} {core slot n : Nat} {x : Group} (v : BitVec 32) (hu : SameBut s u core slot)
    (hx : u.group core slot = some x) (hn : n < 32) :
    ((u.setCtr core slot n v).advance core slot 8).group core slot = some { x with pc := x.pc + 8, window := x.window - 1 } ∧
      ((u.setCtr core slot n v).advance core slot 8).mem = s.mem ∧
      ∀ k j, j < 32 → ((u.setCtr core slot n v).advance core slot 8).ctr core k j = if k = slot ∧ j = n then v else s.ctr core k j := by
  obtain ⟨hgroup, hsame⟩ := advance_spec 8 ((setCtr_group u core slot n v slot).trans hx)
  refine ⟨hgroup, hsame.mem.trans hu.mem, fun k j hj => ?_⟩
  rw [hsame.ctr, setCtr_ctr, hu.ctr]
  exact if_congr (ctrKey_eq_iff hj hn) rfl rfl

/-- A watchdog that has counted out raises a barrier stall, unless the group waits for a restore (R52, R432). -/
theorem exec_barrierStall {s : State} {core slot c : Nat} {x : Group} {l : Launch} (hcore : core < 8192) (hslot : slot < 16)
    (hx : s.group core slot = some x) (hc : x.barSince = some c) (hstop : x.stopped = false) (hphase : x.phase = .running)
    (hl : s.launch x.inst x.idx = some l) (hdue : 2 ^ l.wdog ≤ s.cycles core - c + x.barSaved) (hrestore : s.waitsRestore core slot = false) :
    exec (.barrierStall core slot) s = .next (s.raise core slot 4 0xFF) := by
  show execBarrierStall core slot s = _
  have hlaunch : s.launchOf x = l := by rw [State.launchOf, hl]; rfl
  simp [execBarrierStall, onGroup, onUnit, hcore, hslot, hx, hc, hstop, hphase, hlaunch, hdue, hrestore]

/-- Settles O6: the two waits by what they wait for, the two writes by `setCtr_advance_spec`, the watchdog as a trap of its group. -/
theorem countersAndWaits : Obligations.CountersAndWaits := by
  unfold Obligations.CountersAndWaits
  intro s core slot w x
  have hsame := fun r => sameBut_atIssue s core slot r w x
  have hword := fun r => sameBut_atWord s core slot r w x
  refine ⟨fun h hge => ?_, fun h hlt => ?_, fun h => ?_, fun h => ?_, fun h hle => ?_, fun hcore hslot c l hx hc hstop hphase hl hdue hrestore => ?_⟩
  · have hissues : Issues s core slot .waitGe w 0 x := by
      refine ⟨h, ?_⟩
      rw [waits_waitGe, (hword _).ctr]
      exact decide_eq_false (not_lt.2 hge)
    exact becomesGroup_of (hsame _) (onGroup_issue hissues _) (advance_spec 8 (atIssue_group s core slot _ w x))
  · have hwaits : (s.atWord core slot .waitGe w x).waits core slot x .waitGe w.toNat = true := by
      rw [waits_waitGe, (hword _).ctr]
      exact decide_eq_true hlt
    have hexec : exec (.waitGe core slot w) s = .next _ := (onGroup_eq h _).trans (congrArg _ (wait_eq h hwaits _))
    exact ⟨_, hexec, atWord_group s core slot _ w x, hword _⟩
  · obtain ⟨⟨⟨-, hrow, -⟩, hlegal⟩, -⟩ := id h
    have hoperand := ctrOperand_register (x := x) fun h0 => (rowOf_fn_zero h0).1 hrow
    obtain ⟨hgroup, hmem, hctr⟩ := setCtr_advance_spec (ctrOperand x w.toNat) (hsame .ctrSet) (atIssue_group s core slot _ w x) (ctr_number_lt hlegal)
    exact ⟨_, onGroup_issue h _, hgroup, hmem, fun k j _ hj => hoperand ▸ hctr k j hj⟩
  · obtain ⟨⟨⟨-, hrow, -⟩, hlegal⟩, -⟩ := id h
    have hoperand := ctrOperand_register (x := x) fun h0 => (rowOf_fn_zero h0).2 hrow
    obtain ⟨hgroup, hmem, hctr⟩ := setCtr_advance_spec (s.ctr core slot (wA w.toNat) + ctrOperand x w.toNat) (hsame .ctrAdd)
      (atIssue_group s core slot _ w x) (ctr_number_lt hlegal)
    have hexec : exec (.ctrAdd core slot w) s = .next _ := onGroup_issue h _
    rw [(hsame .ctrAdd).ctr] at hexec
    refine ⟨_, hexec, hgroup, hmem, fun k j _ hj => (hctr k j hj).trans ?_⟩
    split
    · rename_i hkj; rw [hkj.2, hoperand]
    · rfl
  · have hissues : Issues s core slot .mmaWait w 0 x := by
      refine ⟨h, ?_⟩
      rw [waits_mmaWait, matsOf_eq (atWord_group s core slot _ w x), (hword _).mats]
      exact decide_eq_false (not_lt.2 hle)
    exact becomesGroup_of (hsame _) (onGroup_issue hissues _) (advance_spec 8 (atIssue_group s core slot _ w x))
  · obtain ⟨t, ht, -, hgroup, -, hlaunch⟩ :=
      raise_traps (exec_barrierStall hcore hslot hx hc hstop hphase hl hdue hrestore) hx rfl l hl
    exact ⟨t, ht, hgroup, hlaunch⟩

/-! ## Mask register k0 -/

/-- The lanes that perform under k0 are the active ones (R41). -/
theorem mem_lanes_zero (x : Group) (i : Nat) : i ∈ x.lanes 0 ↔ i < 32 ∧ x.active.getLsbD i = true := by
  have hones : x.active &&& x.k 0 = x.active := by
    have hk : x.k 0 = BitVec.allOnes 32 := rfl
    rw [hk, BitVec.and_allOnes]
  simp [Group.lanes, hones, bitsOf, BitVec.getLsbD]

/-- Settles O7: k0 reads as a constant and a write to it is the first branch of `Group.setK`; the lanes are `mem_lanes_zero`. -/
theorem maskZeroIsOnes : Obligations.MaskZeroIsOnes := by
  unfold Obligations.MaskZeroIsOnes
  exact fun x v => ⟨rfl, rfl, mem_lanes_zero x⟩

end Sys2Proof.Machine
end

section
/-! SUPPORT. The local store: what a load of it writes, and which lane's bytes a store leaves (R47, R70, R79, R80, R203). -/

namespace Sys2Proof.Machine
open Sys2Proof

/-! ## Bytes -/

theorem leBytes_length (n : Nat) : ∀ v, (leBytes n v).length = n := by
  induction n with
  | zero => intro v; rfl
  | succ n ih => intro v; rw [leBytes, List.length_cons, ih]

theorem plain_clean (bs : List Byte) : plain (clean bs) = bs := by
  rw [plain, clean, List.map_map]; exact List.map_id _

theorem storeData_length (x : Group) (w lane : Nat) : (storeData x w lane).length = tySize (mTY w) := leBytes_length _ _

/-- A run of entries set one after another: an entry of the run is what was set, any other what it was. -/
theorem NMap_find_insRange {α : Type} (b : Nat → α) (off j n : Nat) (m : NMap α) :
    NMap.find ((List.range n).foldl (fun m i => NMap.ins m (off + i) (b i)) m) j =
      if off ≤ j ∧ j < off + n then some (b (j - off)) else NMap.find m j := by
  induction n with
  | zero => rw [if_neg (by omega)]; rfl
  | succ n ih =>
    rw [List.range_succ, List.foldl_append, List.foldl_cons, List.foldl_nil, NMap_find_ins, ih]
    by_cases hj : j = off + n
    · have hsub : j - off = n := by omega
      rw [if_pos hj, if_pos (by omega), hsub]
    · have hiff : (off ≤ j ∧ j < off + (n + 1)) ↔ (off ≤ j ∧ j < off + n) := by omega
      rw [if_neg hj]; exact (if_congr hiff rfl rfl).symm

/-! ## The local store of a core -/

theorem SameBut.lsByte {s t : State} {core slot : Nat} (h : SameBut s t core slot) (off : Nat) : t.lsByte core off = s.lsByte core off := by
  unfold State.lsByte
  rw [h.2.2.2]
  simp only [h.launch]

theorem SameBut.lsRead {s t : State} {core slot : Nat} (h : SameBut s t core slot) (off n : Nat) : t.lsRead core off n = s.lsRead core off n := by
  simp only [State.lsRead, h.lsByte]

theorem SameBut.lsCheck {s t : State} {core slot : Nat} (h : SameBut s t core slot) (k : Nat) (x : Group) (w : Nat) :
    t.lsCheck k x w = s.lsCheck k x w := by
  simp only [State.lsCheck, h.launchOf]

/-- Nothing but the bytes of one core's local store and their poison differs. -/
structure LocalOnly (s t : State) (core : Nat) : Prop where
  state : t = { s with cores := t.cores }
  others : ∀ g, g ≠ core → t.core g = s.core g
  own : t.core core = { s.core core with ls := (t.core core).ls, lsPoison := (t.core core).lsPoison }

section
variable {s t u : State} {core : Nat}

theorem LocalOnly.refl (s : State) (core : Nat) : LocalOnly s s core := ⟨rfl, fun _ _ => rfl, rfl⟩

theorem LocalOnly.trans (h : LocalOnly s t core) (k : LocalOnly t u core) : LocalOnly s u core :=
  ⟨by rw [k.state, h.state], fun g hg => (k.others g hg).trans (h.others g hg), by rw [k.own, h.own]⟩

theorem LocalOnly.lsWrite (s : State) (core off : Nat) (bs : List PByte) : LocalOnly s (s.lsWrite core off bs) core := by
  refine ⟨rfl, fun g hg => ?_, ?_⟩
  · rw [State.lsWrite, updCore_eq, setCore_core, if_neg hg]
  · rw [State.lsWrite, updCore_eq, setCore_core, if_pos rfl]

theorem LocalOnly.group (h : LocalOnly s t core) (g k : Nat) : t.group g k = s.group g k := by
  unfold State.group
  by_cases hg : g = core
  · rw [hg, h.own]
  · rw [h.others g hg]

/-- A byte that stands written reads as it is. -/
theorem lsByte_of_find {off : Nat} {b : Byte} (h : NMap.find (s.core core).ls off = some b) : (s.lsByte core off).1 = b := by
  simp only [State.lsByte, h]

/-- Where the entry of a byte has not changed, neither has what it reads as. -/
theorem LocalOnly.lsByte_congr (h : LocalOnly s t core) {off : Nat}
    (hfind : NMap.find (t.core core).ls off = NMap.find (s.core core).ls off) : (t.lsByte core off).1 = (s.lsByte core off).1 := by
  have hlaunch : ∀ i idx, t.launch i idx = s.launch i idx := by intro i idx; rw [h.state]; rfl
  simp only [State.lsByte, hfind, hlaunch]
  rw [h.own]

end

/-- The entries after a write of clean bytes to a local store. -/
theorem lsWrite_find (s : State) (core off j : Nat) (bs : List Byte) :
    NMap.find ((s.lsWrite core off (clean bs)).core core).ls j =
      if off ≤ j ∧ j < off + bs.length then some (bs.getD (j - off) 0) else NMap.find (s.core core).ls j := by
  have hlength : (clean bs).length = bs.length := List.length_map _
  rw [State.lsWrite, updCore_eq, setCore_core, if_pos rfl, hlength]
  dsimp only
  rw [NMap_find_insRange, plain_clean, List.getElem!_eq_getElem?_getD, List.getD_eq_getElem?_getD]
  rfl

/-! ## The lanes of a store -/

/-- The bytes of each lane of a store written in turn (R80). -/
def State.storeLanes (s : State) (core : Nat) (x : Group) (w : Nat) (lanes : List Nat) : State :=
  lanes.foldl (fun (s : State) lane => s.lsWrite core (lsOffset x w lane) (clean (storeData x w lane))) s

section
variable (core : Nat) (x : Group) (w : Nat)

theorem storeLanes_localOnly (lanes : List Nat) (s : State) : LocalOnly s (s.storeLanes core x w lanes) core :=
  List.foldlRecOn lanes _ (motive := fun t => LocalOnly s t core) (LocalOnly.refl s core) (fun _ ht _ _ => ht.trans (LocalOnly.lsWrite _ _ _ _))

/-- A byte that no lane writes keeps its entry. -/
theorem storeLanes_find_outside {off : Nat} (lanes : List Nat)
    (hout : ∀ l ∈ lanes, off < lsOffset x w l ∨ lsOffset x w l + tySize (mTY w) ≤ off) : ∀ s : State,
    NMap.find ((s.storeLanes core x w lanes).core core).ls off = NMap.find (s.core core).ls off := by
  induction lanes with
  | nil => intro s; rfl
  | cons a lanes ih =>
    intro s
    have ha := hout a List.mem_cons_self
    refine (ih (fun l hl => hout l (List.mem_cons_of_mem _ hl)) _).trans ?_
    rw [lsWrite_find, storeData_length, if_neg (by omega)]

/-- A byte that a lane writes and no higher one does has the lane's value (R80). -/
theorem storeLanes_find_highest {l i : Nat} (hi : i < tySize (mTY w)) (lanes : List Nat) (hrise : lanes.Pairwise (· < ·)) (hl : l ∈ lanes)
    (hout : ∀ m ∈ lanes, l < m → lsOffset x w l + i < lsOffset x w m ∨ lsOffset x w m + tySize (mTY w) ≤ lsOffset x w l + i) : ∀ s : State,
    NMap.find ((s.storeLanes core x w lanes).core core).ls (lsOffset x w l + i) = some ((storeData x w l).getD i 0) := by
  induction lanes with
  | nil => cases hl
  | cons a lanes ih =>
    intro s
    obtain ⟨hhead, htail⟩ := List.pairwise_cons.1 hrise
    rcases List.mem_cons.1 hl with rfl | hmem
    · have hhigher := fun m (hm : m ∈ lanes) => hout m (List.mem_cons_of_mem _ hm) (hhead m hm)
      refine (storeLanes_find_outside core x w lanes hhigher _).trans ?_
      rw [lsWrite_find, storeData_length, if_pos (by omega), Nat.add_sub_cancel_left]
    · exact ih htail hmem (fun m hm => hout m (List.mem_cons_of_mem _ hm)) _

end

/-- The accesses of an instruction stand in ascending order of their lanes (R80). -/
theorem memLanes_rising (x : Group) (w : Nat) : (memLanes x w).Pairwise (· < ·) := by
  unfold memLanes
  split
  · exact List.pairwise_singleton _ _
  · exact List.pairwise_lt_range.filter _

/-- sts completes with the bytes of its lanes written and its group past the word. -/
theorem exec_sts {s : State} {core slot : Nat} {w : Word} {x : Group} (h : Issues s core slot .sts w 0 x) (hcheck : s.lsCheck slot x w.toNat = none) :
    exec (.sts core slot w) s =
      .next (((s.atIssue core slot .sts w x).storeLanes core x w.toNat (memLanes x w.toNat)).advance core slot 8) := by
  have hexec : exec (.sts core slot w) s = .next _ := onGroup_issue h _
  dsimp only at hexec
  rw [(sameBut_atIssue s core slot .sts w x).lsCheck, hcheck] at hexec
  exact hexec

/-! ## What a load writes -/

/-- The value of a lane that a load of a vector register group holds: a narrow signed integer extended to the register (R70, R79). -/
def loadValue (ty v : Nat) : Nat :=
  if tySigned ty && tySize ty < 4 then wrap 32 (sext (8 * tySize ty) v) else v % 2 ^ (8 * tySize ty)

theorem ofNat_wrap (n : Nat) (i : Int) : BitVec.ofNat n (wrap n i) = BitVec.ofInt n i := by
  apply BitVec.eq_of_toNat_eq
  have hpos : (0 : Int) < (2 ^ n : Nat) := Int.natCast_pos.2 (Nat.two_pow_pos n)
  have hlt := Int.emod_lt_of_pos i hpos
  rw [BitVec.toNat_ofNat, BitVec.toNat_ofInt, wrap, Nat.mod_eq_of_lt (by omega)]

/-- A narrow signed type takes one register. -/
theorem tyRegs_of_narrow {ty : Nat} (h : (tySigned ty && decide (tySize ty < 4)) = true) : tyRegs ty = 1 := by
  obtain ⟨hsigned, hsize⟩ := Bool.and_eq_true_iff.1 h
  have hty : ty = 1 ∨ ty = 3 ∨ ty = 0xA ∨ ty = 0xC := by
    simpa [tySigned, or_assoc] using hsigned
  rcases hty with rfl | rfl | rfl | rfl
  · exact absurd hsize (by decide)
  · exact absurd hsize (by decide)
  · rfl
  · rfl

theorem setData_vector (x : Group) (ty r lane v : Nat) : x.setData false ty r lane v = x.setVN r lane (tyRegs ty) (loadValue ty v) := by
  unfold Group.setData loadValue
  by_cases hnarrow : (tySigned ty && decide (tySize ty < 4)) = true
  · rw [if_neg Bool.false_ne_true, if_pos hnarrow, if_pos hnarrow, tyRegs_of_narrow hnarrow, ← ofNat_wrap]; rfl
  · rw [if_neg Bool.false_ne_true, if_neg hnarrow, if_neg hnarrow]; rfl

/-- The registers of a vector load as a write of each lane. -/
theorem setAll_vector (x : Group) (ty r : Nat) (lanes : List Nat) (v : Nat → Nat) :
    x.setAll false ty r (lanes.map (fun l => (l, v l))) =
      (lanes.foldl (fun y i => y.setVN r i (tyRegs ty) (loadValue ty (v i))) x).wrote lanes r (tyRegs ty) := by
  have hfst : (lanes.map (fun l => (l, v l))).map Prod.fst = lanes := by
    rw [List.map_map]; exact List.map_id _
  simp only [Group.setAll, List.foldl_map, setData_vector, hfst, Bool.false_eq_true, if_false]

/-- lds without a fault or poison completes with its registers written. -/
theorem exec_lds {s : State} {core slot : Nat} {w : Word} {x : Group} (h : Issues s core slot .lds w 0 x) (hcheck : s.lsCheck slot x w.toNat = none)
    (hclean : ∀ l ∈ memLanes x w.toNat, anyPoison (s.lsRead core (lsOffset x w.toNat l) (tySize (mTY w.toNat))) = false) :
    exec (.lds core slot w) s = .next ((s.atIssue core slot .lds w x).stepGroup core slot 8 (x.setAll (mS w.toNat) (mTY w.toNat) (wD w.toNat)
      ((memLanes x w.toNat).map (fun l => (l, ofLe (plain (s.lsRead core (lsOffset x w.toNat l) (tySize (mTY w.toNat))))))))) := by
  have hsame := sameBut_atIssue s core slot .lds w x
  have hexec : exec (.lds core slot w) s = .next _ := onGroup_issue h _
  have hnone : (memLanes x w.toNat).find? (fun l => anyPoison (s.lsRead core (lsOffset x w.toNat l) (tySize (mTY w.toNat)))) = none :=
    List.find?_eq_none.2 (fun l hl => by rw [hclean l hl]; exact Bool.false_ne_true)
  simp only [hsame.lsCheck, hcheck, hsame.lsRead, hnone] at hexec
  exact hexec

/-- Settles O9: a load is `exec_lds` in its scalar and its vector shape; a store is `exec_sts`, its bytes read back by
`storeLanes_find_outside` and `storeLanes_find_highest`. -/
theorem localStoreAccesses : Obligations.LocalStoreAccesses := by
  unfold Obligations.LocalStoreAccesses
  intro s core slot w x
  refine ⟨fun h hcheck hclean => ⟨fun hscalar => ?_, fun hvector => ?_⟩, fun h hcheck => ?_⟩
  · have hexec := exec_lds h hcheck hclean
    rw [memLanes, hscalar] at hexec
    exact writesScalar_of (sameBut_atIssue s core slot .lds w x) hexec
  · have hexec := exec_lds h hcheck hclean
    rw [memLanes, hvector, if_neg Bool.false_ne_true, setAll_vector] at hexec
    exact writesLanes_of (sameBut_atIssue s core slot .lds w x) (lanes_lt x _) rfl hexec
  · have hissue := sameBut_atIssue s core slot .sts w x
    have hstore := storeLanes_localOnly core x w.toNat (memLanes x w.toNat) (s.atIssue core slot .sts w x)
    obtain ⟨hgroup, hadvance⟩ := advance_spec 8 ((hstore.group core slot).trans (atIssue_group s core slot .sts w x))
    refine ⟨_, exec_sts h hcheck, ?_, fun g hg => ?_, hgroup, fun k hk => ?_, fun off hout => ?_, fun l hl i hi hout => ?_⟩
    · rw [hadvance.1, hstore.state, hissue.1]
    · rw [hadvance.2.1 g hg, hstore.others g hg, hissue.2.1 g hg]
    · rw [hadvance.2.2.1 k hk, hstore.group, hissue.2.2.1 k hk]
    · rw [hadvance.lsByte, hstore.lsByte_congr (storeLanes_find_outside core x w.toNat _ hout _), hissue.lsByte]
    · rw [hadvance.lsByte]
      exact lsByte_of_find (storeLanes_find_highest core x w.toNat hi _ (memLanes_rising x w.toNat) hl hout _)

end Sys2Proof.Machine
end

section
/-! SUPPORT. Tasks and launches: the groups a core holds, the state a task starts in, and the commands of the Reel (R42, R45, R46, R55, R57,
R141, R182 to R199, R219). -/

namespace Sys2Proof.Machine
open Sys2Proof

/-! ## Groups of a core -/

/-- The shared region of a launch fits beside the cache portion and the counters (R45, R46). -/
theorem groupsPerCore_fits {l : Launch} (h : l.s ≤ 256 * 1024 - l.c - 2048) :
    groupsPerCore l = min 16 (min (1024 / l.v) (if l.g = 0 then 16 else (256 * 1024 - l.c - 2048 - l.s) / l.g)) :=
  if_neg (not_lt.2 h)

/-- Settles O15: the least of three as the manual's two comparisons. -/
theorem groupsPerCoreFormula : Obligations.GroupsPerCoreFormula := by
  unfold Obligations.GroupsPerCoreFormula
  rintro l v g sh c rfl rfl rfl rfl - hfit
  rw [groupsPerCore_fits (by omega)]
  dsimp only
  generalize 1024 / l.v = byRegs
  generalize (if l.g = 0 then 16 else (256 * 1024 - l.c - 2048 - l.s) / l.g) = byLs
  split <;> split <;> omega

/-! ## The start of a task -/

/-- A map without the entries that a test picks has none of them. -/
theorem NMap_find_filter_none {α : Type} {p : Nat × α → Bool} {k : Nat} (hp : ∀ x, p (k, x) = false) (m : NMap α) :
    NMap.find (m.filter p) k = none := by
  induction m with
  | nil => rfl
  | cons e m ih =>
    obtain ⟨j, y⟩ := e
    by_cases hkeep : p (j, y) = true
    · have hne : j ≠ k := by rintro rfl; rw [hp y] at hkeep; cases hkeep
      rw [List.filter_cons_of_pos hkeep, NMap.find, if_neg hne, ih]
    · rw [List.filter_cons_of_neg hkeep, ih]

/-- The group of a task with its scalar registers set and its vector registers not yet (R42). -/
def startScalars (l : Launch) (task g slot : Nat) : Group :=
  ((((((({ inst := l.inst, idx := l.idx, task := task, pc := l.entry.setWidth 64 } : Group).setS 0 (BitVec.ofNat 64 (task % l.gx))).setS 1
    (BitVec.ofNat 64 (task / l.gx % l.gy))).setS 2 (BitVec.ofNat 64 (task / l.gx / l.gy))).setS 3 (l.args.setWidth 64)).setS 4
    (BitVec.ofNat 64 (g + slot * 2 ^ 16))).setS 5 (BitVec.ofNat 64 (l.idx % 2 ^ 16)))

theorem startGroup_eq (l : Launch) (task g slot : Nat) :
    startGroup l task g slot = (List.range 32).foldl (fun y i => y.setVN 0 i 1 i) (startScalars l task g slot) := rfl

/-- But for its vector registers a group starts as its scalar registers say. -/
theorem startGroup_eta (l : Launch) (task g slot : Nat) :
    startGroup l task g slot = { startScalars l task g slot with vregs := (startGroup l task g slot).vregs } := by
  rw [startGroup_eq]
  exact foldLanes_eta (fun y i => y.setVN 0 i 1 i) (fun y i => setVN_eta 1 y 0 i i) _ _

/-- v0 starts as the lane number, every other vector register as zero (R42). -/
theorem startGroup_v (l : Launch) (task g slot r lane : Nat) (hlane : lane < 32) :
    (startGroup l task g slot).v r lane = if r = 0 then BitVec.ofNat 32 lane else 0 := by
  rw [startGroup_eq, foldLanes_v 0 1 (fun i => i) _ (fun i hi => List.mem_range.1 hi) _ _ _ hlane]
  by_cases hr : r = 0
  · subst hr; simp [hlane]
  · rw [if_neg (by omega), if_neg hr]; rfl

theorem withVregs_s (x : Group) (vr : NMap Elem) (r : Nat) : ({ x with vregs := vr } : Group).s r = x.s r := rfl

/-- The scalar registers that the table of initial state names, and zero for the others (R42). -/
theorem startGroup_s (l : Launch) (task g slot r : Nat) : (startGroup l task g slot).s r =
    if r = 5 then BitVec.ofNat 64 (l.idx % 2 ^ 16) else if r = 4 then BitVec.ofNat 64 (g + slot * 2 ^ 16)
    else if r = 3 then l.args.setWidth 64 else if r = 2 then BitVec.ofNat 64 (task / l.gx / l.gy)
    else if r = 1 then BitVec.ofNat 64 (task / l.gx % l.gy) else if r = 0 then BitVec.ofNat 64 (task % l.gx) else 0 := by
  rw [startGroup_eta, withVregs_s]
  simp only [startScalars, setS_s]
  rfl

/-- A slot made ready for a task taken out of the queue of its cluster (R42, R45, R187). -/
def State.slotReady (s : State) (core i idx slot : Nat) (l : Launch) (e : QEntry) : State :=
  State.updCore { s.updCluster (clusterOf core) (fun c => { c with queue := dropFirst c.queue e }) with
      clock := { s.clock with free := s.clock.free + 2 } } core
    (fun c => (if c.launch ≠ some (i, idx) then c.begin l s.clock.free else if c.slots = [] then c.freshShared l s.clock.free else c).freshSlot l slot
      (s.clock.free + 1))

/-- TASK_TAKE where the core may take work and has a slot for it. -/
theorem exec_taskTake {s : State} {core i idx slot : Nat} {l : Launch} {e : QEntry} (hcore : core < 8192) (hup : s.coreUp core = true)
    (hdrain : s.draining core = false) (himage : s.awaitsImage core = false) (hfor : s.launchFor core = some (i, idx))
    (hl : s.launch i idx = some l) (he : takeFrom (s.cluster (core / 64)).queue i idx = some e) (hfault : l.fault = none)
    (hsaved : l.saved = false) (hsave : l.saveBy = none) (hactive : (s.inst i).state = .active) (hpreempt : (s.inst i).preempting = false)
    (hslot : (List.range (groupsPerCore l)).find? (fun t => (s.group core t).isNone) = some slot) :
    exec (.taskTake core) s = .next (((s.slotReady core i idx slot l e).setGroup core slot (startGroup l e.lo core slot)).acquire core 2) := by
  show execTaskTake core s = _
  have he' : takeFrom (s.cluster (clusterOf core)).queue i idx = some e := he
  simp only [execTaskTake, onUnit, hcore, hup, hdrain, himage, hfor, hl, he', hfault, hsaved, hsave, hactive, hpreempt, hslot]
  rfl

/-- The counters of a slot made ready are zero (R42). -/
theorem slotReady_ctr (s : State) (core i idx slot : Nat) (l : Launch) (e : QEntry) {n : Nat} (hn : n < 32) :
    (s.slotReady core i idx slot l e).ctr core slot n = 0 := by
  have hkey : ctrKey slot n / 32 = slot := by unfold ctrKey; omega
  rw [State.ctr, State.slotReady, updCore_eq, setCore_core, if_pos rfl, Core.freshSlot, NMap.at,
    NMap_find_filter_none (fun x => by simp [hkey])]
  rfl

/-- An acquire of system scope empties the cache portion of its core and changes no other part of it, and no memory (R219, R221). -/
theorem acquire_system (s : State) (core : Nat) :
    (s.acquire core 2).core core = { s.core core with l1 := [] } ∧ (s.acquire core 2).mem = s.mem := by
  refine ⟨?_, rfl⟩
  show ((s.l1Clear core).setCluster _ _).core core = _
  rw [setCluster_core, State.l1Clear, updCore_eq, setCore_core, if_pos rfl]

/-- Settles O16: `exec_taskTake`, the group read through `startGroup_v` and `startGroup_s`, the counters through `slotReady_ctr`. -/
theorem taskStartState : Obligations.TaskStartState := by
  unfold Obligations.TaskStartState
  intro s core i idx slot l e hcore hup hdrain himage hfor hl he hfault hsaved hsave hactive hpreempt hslot
  obtain ⟨hown, hmem⟩ := acquire_system ((s.slotReady core i idx slot l e).setGroup core slot (startGroup l e.lo core slot)) core
  have hset := startGroup_s l e.lo core slot
  refine ⟨_, startGroup l e.lo core slot, exec_taskTake hcore hup hdrain himage hfor hl he hfault hsaved hsave hactive hpreempt hslot,
    ?_, hmem, ?_, ?_, ?_, ?_, ?_, hset 0, hset 1, hset 2, hset 3, hset 4, hset 5, fun r hr => ?_, fun lane hlane => ?_,
    fun r lane hr hlane => ?_, fun r hr => ?_, fun n hn => ?_, ?_⟩
  · rw [State.group, hown]
    exact (setGroup_group _ _ _ _ _ _).trans (if_pos ⟨rfl, rfl⟩)
  · rw [startGroup_eta]; rfl
  · rw [startGroup_eta]; rfl
  · rw [startGroup_eta]; rfl
  · rw [startGroup_eta]; rfl
  · rw [startGroup_eta]; rfl
  · rw [hset]
    have hne : r ≠ 0 ∧ r ≠ 1 ∧ r ≠ 2 ∧ r ≠ 3 ∧ r ≠ 4 ∧ r ≠ 5 := by omega
    simp only [hne, if_false]
  · rw [startGroup_v _ _ _ _ _ _ hlane, if_pos rfl]
  · rw [startGroup_v _ _ _ _ _ _ hlane, if_neg (Nat.ne_of_gt hr)]
  · rw [startGroup_eta, Group.k, if_neg (Nat.ne_of_gt hr)]; rfl
  · rw [State.ctr, hown]
    exact ((sameBut_setGroup _ _ _ _).ctr slot n).trans (slotReady_ctr s core i idx slot l e hn)
  · rw [hown]

/-! ## The commands of the Reel -/

section
variable {s : State} {inst idx : Nat} {l : Launch}

/-- LAUNCH_READY once dependencies and counter are met: the launch completes as one that does not fit, or its ranges are placed (R46, R182,
R183, R185). -/
theorem exec_launchReady {e : Entry} (hi : inst < 64) (hl : s.launch inst idx = some l) (he : s.entry inst idx = some e) (hheld : e.held = false)
    (hplaced : l.placed = false) (hfault : l.fault = none) (hactive : (s.inst inst).state = .active)
    (hdeps : s.depsMet inst idx l.deps l.dfail = some true) (hctr : l.dctr = false ∨ l.ctrMet = true) :
    exec (.launchReady inst idx) s = .next (
      if groupsPerCore l = 0 then s.finishLaunch l 0x0101
      else if !s.placeable l then s
      else if l.clusters.filter (fun n => (coresOf n).any s.coreUp) = [] then s.finishLaunch l 0x0101
      else s.placeRanges l (l.clusters.filter (fun n => (coresOf n).any s.coreUp))) := by
  show execLaunchReady inst idx s = _
  have hwait : (l.dctr && !l.ctrMet) = false := by rcases hctr with h | h <;> simp [h]
  simp only [execLaunchReady, onUnit, decide_eq_true hi, hl, he, hheld, hplaced, hfault, hactive, hdeps, hwait]
  rfl

/-- DEPENDENCY_POLL keeps what the awaited word has answered (R182, R518). -/
theorem exec_dependencyPoll {b : Bool} {t : State} (hi : inst < 64) (hl : s.launch inst idx = some l) (hdctr : l.dctr = true)
    (hplaced : l.placed = false) (hfault : l.fault = none) (hpoll : s.pollWord inst idx l.daddr.toNat l.dval = (.ok b, t)) :
    exec (.dependencyPoll inst idx) s = .next (t.setLaunch { l with ctrMet := b }) := by
  show execDependencyPoll inst idx s = _
  simp [execDependencyPoll, onUnit, hi, hl, hdctr, hplaced, hfault, hpoll]

/-- STEAL_CHOOSE of an idle cluster adds its victim to its choices (R188, R189). -/
theorem exec_stealChoose {cl v : Nat} (hcl : cl < 128) (hi : inst < 64) (hl : s.launch inst idx = some l) (hidle : s.idleFor cl l = true)
    (hv : s.chooseVictim l cl = some v) : exec (.stealChoose cl inst idx) s = .next (s.updCluster cl (fun c => { c with
      chosen := (s.cluster cl).chosen.filter (fun c => !(c.1 = inst && c.2.1 = idx)) ++ [(inst, idx, v)] })) := by
  show execStealChoose cl inst idx s = _
  simp [execStealChoose, onUnit, hcl, hi, hl, hidle, hv]

/-- LAUNCH_COMPLETE of a launch without an add at the end (R193). -/
theorem exec_launchComplete (hi : inst < 64) (hl : s.launch inst idx = some l) (hplaced : l.placed = true) (hfault : l.fault = none)
    (hadded : l.added = false) (htasks : l.tasks ≤ l.committed) (hperformed : s.launchPerformed inst idx = true) (hcaddr : l.caddr = 0) :
    exec (.launchComplete inst idx) s = .next (s.finishLaunch l 0) := by
  show execLaunchComplete inst idx s = _
  simp [execLaunchComplete, onUnit, hi, hl, hplaced, hfault, hadded, not_lt.2 htasks, hperformed, hcaddr]

/-- CONTEXT_KILL: the work dropped, the fault's event, the completion (R55 to R58). -/
theorem exec_contextKill {f : FaultInfo} (hi : inst < 64) (hl : s.launch inst idx = some l) (hfault : l.fault = some f) (hstatus : l.killStatus = none) :
    exec (.contextKill inst idx) s = .next (((s.dropWork inst idx).event inst
      { cls := 1, code := f.code, flags := BitVec.ofNat 8 (b2n l.more), unit := f.unit, beat := f.beat, phase := f.phase,
        detail := BitVec.ofNat 96 (f.pc.toNat % 2 ^ 56 + f.slot * 2 ^ 64 + f.lane.toNat * 2 ^ 72 + idx % 2 ^ 16 * 2 ^ 80) }
      |>.finishLaunch l 0x0102).settleControls) := by
  show execContextKill inst idx s = _
  simp only [execContextKill, onUnit, decide_eq_true hi, hl, hfault, hstatus]
  rfl

end

section
variable {s : State}

/-- COMMIT_RESERVATION of the first waiting task of a cluster, whose sources read well (R191, R520). -/
theorem exec_commitReservation {cl w g slot : Nat} {rest : List (Nat × Nat × Nat)} {x : Group} {s1 : State} {js : List CopyJob}
    {ws : List HeldWrite} (hcl : cl < 128) (hwait : (s.cluster cl).commitWait = (w, g, slot) :: rest) (hx : s.group g slot = some x)
    (hstop : x.stopped = false) (hfault : (s.launchOf x).fault = none)
    (hroom : ((s.cluster cl).commitBuf.map (fun r => r.bytes)).sum + commitBytes x.commits ≤ 524288)
    (hjobs : commitJobs g s x.commits = (s1, js, ws, true)) : exec (.commitReservation cl) s = .next
      (((s1.updGroup g slot (fun y => { y with commits := js })).updGroup g slot (fun y => { y with phase := .reserved })).updCluster cl
        (fun c => { c with commitWait := rest, commitBuf := c.commitBuf ++
          [{ core := g, slot := slot, inst := x.inst, idx := x.idx, task := x.task, bytes := commitBytes x.commits, writes := ws }] })) := by
  show execCommitReservation cl s = _
  simp [execCommitReservation, onUnit, hcl, hwait, hx, hstop, hfault, not_lt.2 hroom, hjobs]

/-- COMMIT_POINT of a task whose commit bytes are all in the buffer (R192, R202). -/
theorem exec_commitPoint {core slot : Nat} {x : Group} (hcore : core < 8192) (hslot : slot < 16) (hx : s.group core slot = some x)
    (hready : (x.phase = .ended ∧ x.commits = []) ∨ (x.phase = .reserved ∧
      ∃ r ∈ (s.cluster (clusterOf core)).commitBuf, r.core = core ∧ r.slot = slot ∧ r.committed = false))
    (hstop : x.stopped = false) (hfault : (s.launchOf x).fault = none) : exec (.commitPoint core slot) s = .next
      (((((s.updCluster (clusterOf core) (fun c => { c with commitBuf := c.commitBuf.map (fun r =>
          if r.core = core && r.slot = slot && !r.committed then { r with committed := true, behind :=
            (s.ael.outst.filter (fun o => o.p.opc = 1 && o.owner = .store core slot)).map (fun o => o.txid.toNat) } else r) })
        ).freeSlot core slot).drainCommits (clusterOf core)).updLaunch x.inst x.idx
          (fun l => { l with committed := l.committed + 1 })).settleControls) := by
  show execCommitPoint core slot s = _
  have hgo : (decide (x.phase = .ended) && decide (x.commits = []) || decide (x.phase = .reserved) &&
      (s.cluster (clusterOf core)).commitBuf.any (fun r => r.core = core && r.slot = slot && !r.committed)) = true := by
    rcases hready with ⟨hphase, hcommits⟩ | ⟨hphase, r, hr, hg, hk, hc⟩
    · simp [hphase, hcommits]
    · rw [List.any_eq_true.2 ⟨r, hr, by simp [hg, hk, hc]⟩]; simp [hphase]
  simp only [execCommitPoint, onUnit, decide_eq_true hcore, decide_eq_true hslot, hx, hgo, hstop, hfault]
  rfl

/-- DRAIN_TMAX_EXPIRY where no launch is pinned: each task of the unit whose TMAX has passed is stopped (R197). -/
theorem exec_drainTmaxExpiry {u : BitVec 32} {d : Drain} (hunit : coreUnitOk u = true)
    (hd : s.drains.find? (fun d => d.unit = u && d.begun && !d.acted) = some d) (hpinned : ∀ m ∈ s.launches, m.pinned = false) :
    exec (.drainTmaxExpiry u) s = .next ((((unitCores u).flatMap (fun g => ((s.core g).slots.map Prod.fst).map (fun t => (g, t)))).foldr
      (fun (c : Nat × Nat) (s : State) => s.expireGroup d.since c.1 c.2) s).settleControls) := by
  show execDrainTmaxExpiry u s = _
  have hdue : s.launches.filter (fun l => l.pinned && l.saveBy.isNone && decide (s.clock.now ≥ d.since + l.tmax * 1000)
      && (unitCores u).any (fun g => (s.core g).slots.any (fun e => e.2.inst = l.inst && e.2.idx = l.idx))) = [] :=
    List.filter_eq_nil_iff.2 (fun m hm => by simp [hpinned m hm])
  simp only [execDrainTmaxExpiry, onUnit, hunit, hd, hdue]
  rfl

end

/-- A cluster whose counters CLR has cleared (R199). -/
def Cluster.cleared (c : Cluster) : Cluster := { c with steals := {}, victim := {}, requeue := {} }

/-- CLR clears the counters of every cluster (R199). -/
theorem exec_reelClr {s : State} {v : BitVec 32} (hopen : s.regOpen 0 = true) (hclr : v.getLsbD 0 = true) :
    exec (.reelClr 0 v) s = .next { s with clusters := s.clusters.map (fun e => (e.1, e.2.cleared)) } := by
  show execReelClr 0 v s = _
  rw [execReelClr, hopen, hclr]; rfl

/-- Settles O18: one lemma for each command; a lost core and a drain are their operations as they stand. -/
theorem launchProgress : Obligations.LaunchProgress := by
  unfold Obligations.LaunchProgress
  intro s inst idx l hi hl
  refine ⟨fun e cs he hheld hplaced hfault hactive hdeps hctr hplace hfit hcs hup => ?_,
    fun e he hheld hplaced hfault hactive hdeps hctr hfit => ?_,
    fun b t hdctr hplaced hfault hpoll => exec_dependencyPoll hi hl hdctr hplaced hfault hpoll, fun cl v hcl hidle hv => ?_,
    fun hplaced hfault hadded htasks hperformed hcaddr => exec_launchComplete hi hl hplaced hfault hadded htasks hperformed hcaddr,
    fun f hfault hstatus => exec_contextKill hi hl hfault hstatus,
    fun cl w g slot rest x s1 js ws hcl hwait hx hstop hfault hroom hjobs => ?_,
    fun core slot x hcore hslot hx hready hstop hfault => exec_commitPoint hcore hslot hx hready hstop hfault,
    fun core logic hcore => if_pos (decide_eq_true hcore), fun u hunit => if_pos hunit,
    fun u d hunit hd hpinned => exec_drainTmaxExpiry hunit hd hpinned, fun v hopen hclr => ?_⟩
  · rw [exec_launchReady hi hl he hheld hplaced hfault hactive hdeps hctr, if_neg hfit, hplace, ← hcs, if_neg hup]; rfl
  · rw [exec_launchReady hi hl he hheld hplaced hfault hactive hdeps hctr, if_pos hfit]
  · refine ⟨_, exec_stealChoose hcl hi hl hidle hv, ?_, fun n hn => ?_⟩
    · rw [updCluster_eq, setCluster_cluster, if_pos rfl]; exact List.mem_append_right _ (List.mem_singleton.2 rfl)
    · rw [updCluster_eq, setCluster_cluster, if_neg hn]
  · refine ⟨_, exec_commitReservation hcl hwait hx hstop hfault hroom hjobs, ?_, ?_⟩ <;> rw [updCluster_eq, setCluster_cluster, if_pos rfl]
  · refine ⟨_, exec_reelClr hopen hclr, fun n => ?_, rfl⟩
    have hcluster : NMap.at (s.clusters.map (fun e => (e.1, e.2.cleared))) n {} = (s.cluster n).cleared := NMap_at_map Cluster.cleared rfl _ _
    simp only [State.cluster, hcluster]
    exact ⟨rfl, rfl, rfl, rfl⟩

end Sys2Proof.Machine
end

section
/-! SUPPORT. The issue of copies and matrix operations (R63, R91, R93, R99, R100, R102, R139, R162, R191). -/

namespace Sys2Proof.Machine
open Sys2Proof

/-! ## cp.async -/

/-- cp.async once its descriptor has passed the checks of issue: s0 is the state without the staged copies that a store ends (R61, R63, R93,
R162, R191). -/
theorem exec_cpAsync {s u s0 : State} {core slot : Nat} {w w1 : Word} {x : Group} {j : CopyJob} {d : List Byte}
    (h : Issues s core slot .cpAsync w w1 x) (hdesc : lsOk (s.launchOf x) slot (fld w1.toNat 0 18) 64 = true)
    (hu : u = s.atIssue core slot .cpAsync w x) (hj : u.buildJob core slot x w.toNat w1.toNat x.pc = (j, d)) (hcheck : u.checkJob x j d = 0)
    (hs0 : s0 = if j.dir = 1 then u.dropStaged core slot else u) : exec (.cpAsync core slot w w1) s = .next (
      if j.tc && (x.commits.length = 8 || decide (commitBytes (x.commits ++ [j]) > 524288)) then u.raise core slot 0xB 0xFF
      else if j.tc then (s0.updCore core (fun c => { c with nextCopy := c.nextCopy + 1 })).stepGroup core slot 16
        { x with commits := x.commits ++ [{ j with id := (s0.core core).nextCopy }] }
      else match (s0.core core).staged.find? (fun t => t.slot = slot && t.key = copyKey x d w.toNat w1.toNat) with
        | some t => (s0.claim core t j (fun s => s.startCopy core j)).advance core slot 16
        | none => (s0.startCopy core j).advance core slot 16) := by
  subst hu hs0
  have hexec : exec (.cpAsync core slot w w1) s = .next _ := onGroup_issue h _
  dsimp only at hexec
  rw [(sameBut_atIssue s core slot .cpAsync w x).launchOf, hdesc, hj] at hexec
  dsimp only at hexec
  rw [hcheck] at hexec
  exact hexec

/-- A staged copy whose bytes have arrived lands when it is claimed (R63). -/
theorem claim_landed {s : State} {core : Nat} {t : Staged} (ht : t.landed = true) (j : CopyJob) (fresh : State → State) :
    s.claim core t j fresh = (j.run 0 j.total).foldl (fun (s : State) e => s.landBytes core j e.1 ((t.data.drop e.1).take e.2))
      (s.updCore core (fun c => { c with staged := c.staged.erase t })) := by
  rw [State.claim, ht]; rfl

/-! ## mma.async and mma.drain -/

section
variable {s t : State} {core slot : Nat}

theorem SameBut.poisonIn (h : SameBut s t core slot) (runs : List (Nat × Nat)) : t.poisonIn core runs = s.poisonIn core runs := by
  rw [State.poisonIn, State.poisonIn, h.lsPoison]

theorem SameBut.tile (h : SameBut s t core slot) (off : Nat) : t.tile core off = s.tile core off := by
  rw [State.tile, State.tile, h.lsRead]

theorem SameBut.epi (h : SameBut s t core slot) (off : Nat) : t.epi core off = s.epi core off := by
  rw [State.epi, State.epi, h.lsRead]

end

/-- Descriptors free of poison let the issue go on (R139, R430). -/
theorem withDescs_clean {s : State} {core slot inst : Nat} {runs : List (Nat × Nat)} (h : s.poisonIn core runs = none) (eff : State) :
    s.withDescs core slot inst runs eff = eff := by
  rw [State.withDescs, h]

/-- The entry that a group at its pc puts into the matrix engine, not yet started (R99). -/
def queuedOp (slot : Nat) (x : Group) (acci : Nat) (ctr : Option Nat) (work : MatWork) : MatOp :=
  { slot := slot, inst := x.inst, idx := x.idx, task := x.task, pc := x.pc, acci := acci, counter := ctr, started := false, work := work }

theorem enqueue_eq (s : State) (core slot : Nat) (x : Group) (acci : Nat) (ctr : Option Nat) (work : MatWork) :
    s.enqueue core slot x acci ctr work =
      (s.updCore core (fun c => { c with mats := c.mats ++ [queuedOp slot x acci ctr work] })).advance core slot 16 := rfl

/-- An operation put into the engine: the last of its core, not started, and the group past two words (R99, R150). -/
theorem enqueue_spec {s u : State} {core slot : Nat} {x : Group} (acci : Nat) (ctr : Option Nat) (work : MatWork) (hu : SameBut s u core slot)
    (hx : u.group core slot = some x) :
    (u.enqueue core slot x acci ctr work).group core slot = some { x with pc := x.pc + 16, window := x.window - 1 } ∧
      (u.enqueue core slot x acci ctr work).mem = s.mem ∧
      ((u.enqueue core slot x acci ctr work).core core).mats = (s.core core).mats ++ [queuedOp slot x acci ctr work] := by
  obtain ⟨hgroup, hsame⟩ := advance_spec (s := u.updCore core (fun c => { c with mats := c.mats ++ [queuedOp slot x acci ctr work] }))
    (core := core) (slot := slot) (x := x) 16 (by simpa [State.group] using hx)
  rw [enqueue_eq]
  refine ⟨hgroup, hsame.mem.trans hu.mem, hsame.mats.trans ?_⟩
  rw [updCore_eq, setCore_core, if_pos rfl, hu.mats]

/-- Whether the tiles and the word of an mma.async break a rule of R128 to R130, R134 or R139. -/
def mmaRefused (l : Launch) (v acci m n k : Nat) (a b : TileDesc) (da db : List Byte) : Bool :=
  fld v 12 4 > 0xB || a.malformed da m k || b.malformed db n k || a.format ≠ fld v 12 4 || matGroup b.format ≠ matGroup (fld v 12 4)
    || (bit v 21 && !(matGroup (fld v 12 4) ≤ 3 || matGroup (fld v 12 4) = 6)) || a.sparse ≠ bit v 21 || b.sparse
    || (bit v 20 && (!([0, 1, 2, 4].contains (fld v 16 4)) || !l.exactRad)) || acci % 8 ≠ 0

/-- mma.async once its descriptors are read. -/
theorem exec_mmaAsync {s : State} {core slot m n k : Nat} {w w1 : Word} {x : Group} {a b : TileDesc} {da db : List Byte}
    (h : Issues s core slot .mmaAsync w w1 x) (hshape : matShape (fld w.toNat 16 4) = some (m, n, k))
    (hdescA : lsOk (s.launchOf x) slot (fld w1.toNat 0 18) 32 = true) (hdescB : lsOk (s.launchOf x) slot (fld w1.toNat 18 18) 32 = true)
    (hclean : s.poisonIn core [(fld w1.toNat 0 18, 32), (fld w1.toNat 18 18, 32)] = none)
    (ha : s.tile core (fld w1.toNat 0 18) = (a, da)) (hb : s.tile core (fld w1.toNat 18 18) = (b, db)) :
    exec (.mmaAsync core slot w w1) s = .next (
      if mmaRefused (s.launchOf x) w.toNat (fld w1.toNat 36 14) m n k a b da db then (s.atIssue core slot .mmaAsync w x).raise core slot 0xB 0xFF
      else if !(a.runs m k ++ b.runs n k).all (fun e => lsOk (s.launchOf x) slot e.1 e.2) then
        (s.atIssue core slot .mmaAsync w x).raise core slot 6 0xFF
      else if fld w1.toNat 36 14 + accUnits (bit w.toNat 20) m n > 16384 then (s.atIssue core slot .mmaAsync w x).raise core slot 7 0xFF
      else (s.atIssue core slot .mmaAsync w x).enqueue core slot x (fld w1.toNat 36 14) (if bit w.toNat 23 then none else some (fld w1.toNat 50 5))
        (.mma (fld w.toNat 12 4) m n k (bit w.toNat 20) (bit w.toNat 21) (bit w.toNat 22) a b)) := by
  have hsame := sameBut_atIssue s core slot .mmaAsync w x
  have hexec : exec (.mmaAsync core slot w w1) s = .next _ := onGroup_issue h _
  dsimp only at hexec
  rw [hshape] at hexec
  dsimp only at hexec
  rw [hsame.launchOf, hdescA, hdescB, withDescs_clean (hsame.poisonIn _ ▸ hclean), hsame.tile, hsame.tile, ha, hb] at hexec
  exact hexec

/-- mma.drain once its descriptor is read. -/
theorem exec_mmaDrain {s : State} {core slot : Nat} {w w1 : Word} {x : Group} {e : EpiDesc} {d : List Byte}
    (h : Issues s core slot .mmaDrain w w1 x) (hdesc : lsOk (s.launchOf x) slot (fld w1.toNat 0 18) 32 = true)
    (hclean : s.poisonIn core [(fld w1.toNat 0 18, 32)] = none) (he : s.epi core (fld w1.toNat 0 18) = (e, d)) :
    exec (.mmaDrain core slot w w1) s = .next (
      if e.malformed d || decide (fld w1.toNat 18 14 % 8 ≠ 0) then (s.atIssue core slot .mmaDrain w x).raise core slot 0xB 0xFF
      else if !e.runs.all (fun r => lsOk (s.launchOf x) slot r.1 r.2) then (s.atIssue core slot .mmaDrain w x).raise core slot 6 0xFF
      else if fld w1.toNat 18 14 + accUnits e.ext e.m e.n > 16384 then (s.atIssue core slot .mmaDrain w x).raise core slot 7 0xFF
      else (s.atIssue core slot .mmaDrain w x).enqueue core slot x (fld w1.toNat 18 14) (if bit w.toNat 12 then none else some (fld w1.toNat 32 5))
        (.drain e)) := by
  have hsame := sameBut_atIssue s core slot .mmaDrain w x
  have hexec : exec (.mmaDrain core slot w w1) s = .next _ := onGroup_issue h _
  dsimp only at hexec
  rw [hsame.launchOf, hdesc, withDescs_clean (hsame.poisonIn _ ▸ hclean), hsame.epi, he] at hexec
  exact hexec

/-- Settles O13: each form is the branch of its issue that faults nowhere; what is put into the engine is `enqueue_spec`. -/
theorem asyncIssueCompletes : Obligations.AsyncIssueCompletes := by
  unfold Obligations.AsyncIssueCompletes
  intro s core slot w w1 x
  refine ⟨fun h hdesc u hu j d hj hcheck s0 hs0 => ?_, fun h m n k hshape hdescA hdescB hclean a da b db ha hb hfmt hma hmb hfa hfb hpair hsa hsb
    hexact halign hruns hroom => ?_, fun h hdesc hclean e d he hmal halign hruns hroom => ?_⟩
  · have hexec := exec_cpAsync h hdesc hu hj hcheck hs0
    have hsame : SameBut s s0 core slot := by
      have hissue : SameBut s u core slot := hu ▸ sameBut_atIssue s core slot .cpAsync w x
      rw [hs0]
      split
      · exact sameBut_trans hissue (sameBut_dropStaged u core slot)
      · exact hissue
    have hnext : (s0.core core).nextCopy = (s.core core).nextCopy := by rw [hsame.2.2.2]
    refine ⟨fun htc hfew hbytes => ?_, fun htc hnone => ?_, fun t htc hsome hlanded => ?_⟩
    · have hroom : (j.tc && (decide (x.commits.length = 8) || decide (commitBytes (x.commits ++ [j]) > 524288))) = false := by
        simp [Nat.ne_of_lt hfew, hbytes]
      rw [hroom, if_neg Bool.false_ne_true, if_pos htc, hnext] at hexec
      exact hexec
    · rw [htc, hnone] at hexec
      exact hexec
    · rw [htc, hsome] at hexec
      dsimp only at hexec
      rw [claim_landed hlanded] at hexec
      exact hexec
  · have hgood : mmaRefused (s.launchOf x) w.toNat (fld w1.toNat 36 14) m n k a b da db = false := by
      have hpairs : (bit w.toNat 21 && !(decide (matGroup (fld w.toNat 12 4) ≤ 3) || decide (matGroup (fld w.toNat 12 4) = 6))) = false := by
        cases hbit : bit w.toNat 21 with
        | false => rfl
        | true => rcases hpair hbit with hp | hp <;> simp [hp]
      have hexacts : (bit w.toNat 20 && (!([0, 1, 2, 4].contains (fld w.toNat 16 4)) || !(s.launchOf x).exactRad)) = false := by
        cases hbit : bit w.toNat 20 with
        | false => rfl
        | true =>
          obtain ⟨hmem, hrad⟩ := hexact hbit
          rw [List.contains_iff_mem.2 hmem, hrad]; rfl
      rw [mmaRefused, hpairs, hexacts]
      simp [hfmt, hma, hmb, hfa, hfb, hsa, hsb, halign]
    have hexec := exec_mmaAsync h hshape hdescA hdescB hclean ha hb
    rw [hgood, if_neg Bool.false_ne_true, List.all_eq_true.2 hruns, if_neg (by decide), if_neg (not_lt.2 hroom)] at hexec
    exact ⟨_, hexec, enqueue_spec _ _ _ (sameBut_atIssue s core slot .mmaAsync w x) (atIssue_group s core slot .mmaAsync w x)⟩
  · have hgood : (e.malformed d || decide (fld w1.toNat 18 14 % 8 ≠ 0)) = false := by simp [hmal, halign]
    have hexec := exec_mmaDrain h hdesc hclean he
    rw [hgood, if_neg Bool.false_ne_true, List.all_eq_true.2 hruns, if_neg (by decide), if_neg (not_lt.2 hroom)] at hexec
    exact ⟨_, hexec, enqueue_spec _ _ _ (sameBut_atIssue s core slot .mmaDrain w x) (atIssue_group s core slot .mmaDrain w x)⟩

end Sys2Proof.Machine
end

section
/-! SUPPORT. Two states that refute clauses of the family: a stack beyond its 32 entries (R48) and a branch whose line has not been fetched
(R59). -/

namespace Sys2Proof.Machine
open Sys2Proof

/-- A group of the launch (0, 1) whose mask k1 holds the low eight of its 32 active threads. -/
def groupAtBranch : Group := { inst := 0, idx := 1, pc := 0x1000, kregs := [(1, 0xFF)] }

/-- A group of that launch stands in slot 0 of core 0, which has fetched some lines of code. -/
def stateWithGroup (x : Group) (code : NMap (List Byte)) : State :=
  { State.reset with
    cores := [(0, { launch := some (0, 1), slots := [(0, x)], code := code })]
    launches := [{ inst := 0, idx := 1, v := 64, s := 4096 }] }

/-! ## A stack of 33 entries -/

/-- The group with 33 entries on its stack, one more than R48 allows. -/
def groupOverfull : Group :=
  { groupAtBranch with stack := List.replicate 33 { rpc := 0x4000, saved := 0xFFFFFFFF, pendPc := 0x2000, pend := 0 } }

/-- It stands at a branch on k1, which some of its threads take and others do not. -/
def stateOverfull : State := stateWithGroup groupOverfull [(0x20, leBytes 8 0x10000004101 ++ leBytes 120 0)]

theorem issues_stateOverfull : Issues stateOverfull 0 0 .br 0x10000004101 0 groupOverfull := by
  have hfinds : Finds stateOverfull 0 0 0x10000004101 0 groupOverfull :=
    ⟨by decide, by decide, ⟨groupOverfull, by decide, by decide, by decide⟩, by decide, by decide, by decide⟩
  exact ⟨⟨⟨hfinds, by decide, by decide⟩, by decide⟩, by decide⟩

/-- The branch pushes a 34th entry: on_branch finds a stack full at exactly 32. -/
theorem exec_stateOverfull : ∃ t y, exec (.br 0 0 0x10000004101) stateOverfull = .next t ∧ t.group 0 0 = some y ∧ y.stopped = false :=
  ⟨_, _, exec_br issues_stateOverfull (branch_diverges (by decide) (by decide) (by decide)), (setGroup_tickWindow_spec _ _ _ _).1, rfl⟩

/-- Refutes O8: its clause of br takes a stack of 32 entries or more as full, and the model a stack of exactly 32, so at 33 entries the branch
pushes again and its group does not stop. -/
theorem not_instructionTraps : ¬ Obligations.InstructionTraps := by
  unfold Obligations.InstructionTraps
  intro h
  obtain ⟨-, -, -, hbr, -⟩ := h stateOverfull 0 0 0x10000004101 0 groupOverfull
  have hlaunch : (stateOverfull.atIssue 0 0 .br 0x10000004101 groupOverfull).launch groupOverfull.inst groupOverfull.idx =
      some { inst := 0, idx := 1, v := 64, s := 4096 } := by decide
  obtain ⟨t, hexec, -, hgroup, -⟩ := hbr issues_stateOverfull _ rfl (by decide) (by decide) (by decide) _ hlaunch
  obtain ⟨u, y, hexec', hgroup', hrunning⟩ := exec_stateOverfull
  obtain rfl : t = u := Host.Outcome.next.inj (hexec.symm.trans hexec')
  obtain rfl : { groupOverfull with stopped := true } = y := Option.some.inj (hgroup.symm.trans hgroup')
  exact Bool.noConfusion hrunning

/-! ## Run-ahead at a branch that has not been fetched -/

/-- Run-ahead does not begin where the group stands at no conditional branch that its core has fetched (R59). -/
theorem exec_runAhead_notAhead {s : State} {core slot : Nat} {w : Word} {x0 : Group} (path : List Word) (hcore : core < 8192) (hslot : slot < 16)
    (hgroup : s.group core slot = some x0) (hahead : s.aheadAt core x0.settle w = false) : exec (.runAhead core slot w path) s = .next s := by
  have hunit : (decide (core < 8192) && decide (slot < 16)) = true := by simp [hcore, hslot]
  have hexec : exec (.runAhead core slot w path) s = onGroup core slot _ := rfl
  rw [hexec, hgroup, onGroup, hunit]
  dsimp only
  rw [hahead]
  rfl

/-- At a core that holds no line of its group's code the command does nothing. -/
theorem exec_runAhead_unfetched : exec (.runAhead 0 0 0x10000004101 []) (stateWithGroup groupAtBranch []) = .next (stateWithGroup groupAtBranch []) :=
  exec_runAhead_notAhead (x0 := groupAtBranch) [] (by decide) (by decide) (by decide) (by decide)

/-- Refutes O14: its clause of run-ahead also covers a core that has not fetched the word at its group's pc, and there the command leaves the
state as it is instead of opening the window. -/
theorem not_asyncWorkCompletes : ¬ Obligations.AsyncWorkCompletes := by
  unfold Obligations.AsyncWorkCompletes
  intro h
  obtain ⟨-, hahead, -⟩ := h (stateWithGroup groupAtBranch []) 0 (by decide)
  have hopened := hahead 0 0x10000004101 [] groupAtBranch groupAtBranch (by decide) (by decide) (by decide) (.inr (by decide)) (by decide)
    (by decide) (by decide) (by decide) (by decide) (by decide) (by decide) (by decide) (by decide) (by decide)
  have hsame := Host.Outcome.next.inj (exec_runAhead_unfetched.symm.trans hopened)
  have hwindow := congrArg (fun t : State => (t.group 0 0).map Group.window) hsame
  exact absurd hwindow (by decide)

end Sys2Proof.Machine
end

section
/-! SUPPORT. The integer functions on 64-bit operands and the lanes of an exchange (R71, R77, R118). -/

namespace Sys2Proof.Machine
open Sys2Proof

/-! ## The values of 64-bit operands -/

/-- The low bits of an integer are the bits of the vector that it stands for. -/
theorem wrap_eq_ofInt (n : Nat) (i : Int) : wrap n i = (BitVec.ofInt n i).toNat := by
  rw [wrap, BitVec.toNat_ofInt]

theorem sext_toNat (a : BitVec 64) : sext 64 a.toNat = a.toInt := by
  have hlt := a.isLt
  rw [sext, BitVec.toInt_eq_toNat_cond, Nat.mod_eq_of_lt hlt, if_neg (by decide)]
  by_cases hsmall : 2 * a.toNat < 2 ^ 64
  · rw [if_pos hsmall, if_pos (by omega)]
  · rw [if_neg hsmall, if_neg (by omega)]

theorem tyVal_u64 (a : BitVec 64) : tyVal 2 a.toNat = a.toNat := by
  rw [tyVal, if_neg (by decide), show 8 * tySize 2 = 64 from rfl, Nat.mod_eq_of_lt a.isLt]

theorem tyVal_s64 (a : BitVec 64) : tyVal 3 a.toNat = a.toInt := by
  rw [tyVal, if_pos (by decide), show 8 * tySize 3 = 64 from rfl, sext_toNat]

/-- By either type of 64 bits an operand stands for its own bits. -/
theorem ofInt_tyVal {ty : Nat} (hty : ty = 2 ∨ ty = 3) (a : BitVec 64) : BitVec.ofInt 64 (tyVal ty a.toNat) = a := by
  rcases hty with rfl | rfl
  · rw [tyVal_u64, BitVec.ofInt_natCast, BitVec.ofNat_toNat, BitVec.setWidth_eq]
  · rw [tyVal_s64, BitVec.ofInt_toInt]

theorem bits_of_64 {ty : Nat} (hty : ty = 2 ∨ ty = 3) : 8 * tySize ty = 64 := by
  rcases hty with rfl | rfl <;> rfl

/-! ## Bits counted -/

/-- The number of set bits among the low n is that of the places where one stands. -/
theorem popc_eq_length (n : Nat) : ∀ v, popc n v = ((List.range n).filter (fun k => v.testBit k)).length := by
  induction n with
  | zero => intro v; rfl
  | succ n ih =>
    intro v
    have hrest : ((List.range n).map Nat.succ).filter (fun k => v.testBit k) =
        ((List.range n).filter (fun k => (v / 2).testBit k)).map Nat.succ := by
      rw [List.filter_map]
      exact congrArg _ (List.filter_congr fun k _ => Nat.testBit_succ v k)
    rw [popc, ih, List.range_succ_eq_map, List.filter_cons, hrest, Nat.testBit_zero]
    rcases Nat.mod_two_eq_zero_or_one v with h | h <;> simp [h, Nat.add_comm]

/-- The leading zeros of a 64-bit operand. -/
theorem clz_eq (a : BitVec 64) : 64 - bitLen a.toNat = if a = 0 then 64 else 63 - a.toNat.log2 := by
  by_cases ha : a = 0
  · rw [ha]; rfl
  · have hnat : a.toNat ≠ 0 := fun h => ha (BitVec.eq_of_toNat_eq h)
    rw [bitLen, if_neg hnat, if_neg ha]; omega

/-! ## The functions -/

section
variable {ty : Nat} (hty : ty = 2 ∨ ty = 3) (a b : BitVec 64)
include hty

/-- add, sub and mul.lo are those of the operands' bits, whichever of the types they have (R118). -/
theorem intFn_arith : intFn 0 ty a.toNat b.toNat false = (a + b).toNat ∧ intFn 1 ty a.toNat b.toNat false = (a - b).toNat ∧
    intFn 2 ty a.toNat b.toNat false = (a * b).toNat := by
  simp only [intFn, bits_of_64 hty, Bool.false_eq_true, if_false, wrap_eq_ofInt, Int.sub_eq_add_neg, BitVec.ofInt_add, BitVec.ofInt_neg,
    BitVec.ofInt_mul, ofInt_tyVal hty, BitVec.sub_eq_add_neg, and_self]

theorem intFn_logic : intFn 4 ty a.toNat b.toNat false = (a &&& b).toNat ∧ intFn 5 ty a.toNat b.toNat false = (a ||| b).toNat ∧
    intFn 6 ty a.toNat b.toNat false = (a ^^^ b).toNat ∧ intFn 12 ty a.toNat b.toNat false = a.toNat := by
  simp only [intFn, bits_of_64 hty, Nat.mod_eq_of_lt a.isLt, Nat.mod_eq_of_lt b.isLt, BitVec.toNat_and, BitVec.toNat_or, BitVec.toNat_xor,
    and_self]

/-- The shifts go by the operand modulo 64 (R71). -/
theorem intFn_shift : intFn 7 ty a.toNat b.toNat false = (a <<< (b.toNat % 64)).toNat ∧
    intFn 8 ty a.toNat b.toNat false = (a >>> (b.toNat % 64)).toNat ∧
    intFn 9 ty a.toNat b.toNat false = (a.sshiftRight (b.toNat % 64)).toNat := by
  simp only [intFn, bits_of_64 hty, Nat.mod_eq_of_lt a.isLt, Nat.mod_eq_of_lt b.isLt, sext_toNat, wrap_eq_ofInt, BitVec.toNat_shiftLeft,
    BitVec.toNat_ushiftRight, Nat.shiftLeft_eq, Nat.shiftRight_eq_div_pow, BitVec.sshiftRight, Int.shiftRight_eq_div_pow, and_self]

theorem intFn_count : intFn 13 ty a.toNat b.toNat false = ((List.range 64).filter (fun k => a.getLsbD k)).length ∧
    intFn 14 ty a.toNat b.toNat false = (if a = 0 then 64 else 63 - a.toNat.log2) := by
  simp only [intFn, bits_of_64 hty, Nat.mod_eq_of_lt a.isLt, popc_eq_length, clz_eq, BitVec.getLsbD, and_self]

end

/-- mul.hi of each type: the high half of the product of the values (R71). -/
theorem intFn_mulHi (a b : BitVec 64) : intFn 3 2 a.toNat b.toNat false = (a.toNat * b.toNat) / 2 ^ 64 ∧
    intFn 3 3 a.toNat b.toNat false = (BitVec.ofInt 64 (a.toInt * b.toInt / 2 ^ 64)).toNat := by
  have hfits : a.toNat * b.toNat / 2 ^ 64 < 2 ^ 64 := Nat.div_lt_of_lt_mul (Nat.mul_lt_mul'' a.isLt b.isLt)
  refine ⟨?_, ?_⟩
  · simp only [intFn, tyVal_u64, wrap_eq_ofInt, bits_of_64 (.inl rfl), ← Nat.cast_mul, ← Int.natCast_div, BitVec.ofInt_natCast,
      BitVec.toNat_ofNat]
    exact Nat.mod_eq_of_lt hfits
  · simp only [intFn, tyVal_s64, wrap_eq_ofInt, bits_of_64 (.inr rfl)]
    rfl

/-- The minimum and the maximum of each type compare the operands' values (R71). -/
theorem intFn_minMax (a b : BitVec 64) : intFn 10 2 a.toNat b.toNat false = min a.toNat b.toNat ∧
    intFn 10 3 a.toNat b.toNat false = (if a.toInt ≤ b.toInt then a else b).toNat ∧
    intFn 11 2 a.toNat b.toNat false = max a.toNat b.toNat ∧
    intFn 11 3 a.toNat b.toNat false = (if b.toInt ≤ a.toInt then a else b).toNat := by
  simp only [intFn, tyVal_u64, tyVal_s64, bits_of_64 (.inl rfl), bits_of_64 (.inr rfl), Nat.mod_eq_of_lt a.isLt, Nat.mod_eq_of_lt b.isLt,
    Int.ofNat_le, ge_iff_le, apply_ite BitVec.toNat, Nat.min_def, true_and, and_true]
  rw [Nat.max_comm, Nat.max_def]

/-! ## Lane exchange -/

/-- Every source lane lies in the segment of its lane (R77). -/
theorem exchangeLane_in_segment (fn i b : Nat) {width : Nat} (hw : 0 < width) :
    ∃ r, r < width ∧ exchangeLane fn i b width = i / width * width + r := by
  unfold exchangeLane
  dsimp only
  split
  · exact ⟨_, Nat.mod_lt _ hw, rfl⟩
  · exact ⟨_, Nat.mod_lt _ hw, rfl⟩
  · exact ⟨_, by omega, rfl⟩
  · exact ⟨_, Nat.mod_lt _ hw, rfl⟩

/-- With segments that divide the 32 lanes a source lane is one of them. -/
theorem exchangeLane_segment {i width : Nat} (fn b : Nat) (hi : i < 32) (hw : width ∣ 32) :
    exchangeLane fn i b width / width = i / width ∧ exchangeLane fn i b width < 32 := by
  have hpos : 0 < width := Nat.pos_of_dvd_of_pos hw (by decide)
  obtain ⟨r, hr, hlane⟩ := exchangeLane_in_segment fn i b hpos
  have hseg : (i / width + 1) * width ≤ 32 := by
    rw [← Nat.div_mul_cancel hw]
    exact Nat.mul_le_mul_right _ (Nat.div_lt_div_of_lt_of_dvd hw hi)
  rw [Nat.add_mul, Nat.one_mul] at hseg
  refine ⟨?_, by omega⟩
  rw [hlane, Nat.mul_comm, Nat.mul_add_div hpos, Nat.div_eq_of_lt hr, Nat.add_zero]

section
variable {width q r : Nat} (hr : r < width) (b : Nat)
include hr

theorem segment_of_place : (q * width + r) / width = q ∧ q * width + r - q * width = r :=
  ⟨by rw [Nat.mul_comm, Nat.mul_add_div (Nat.zero_lt_of_lt hr), Nat.div_eq_of_lt hr, Nat.add_zero], Nat.add_sub_cancel_left ..⟩

/-- mirror takes place r of a segment from its place width - 1 - r (R77). -/
theorem exchangeLane_mirror : exchangeLane 2 (q * width + r) b width = q * width + (width - 1 - r) := by
  simp only [exchangeLane, segment_of_place hr]

/-- cross takes place r of a segment of 2^n lanes from its place r XOR the offset (R77). -/
theorem exchangeLane_cross {n : Nat} (hw : width = 2 ^ n) :
    exchangeLane 3 (q * width + r) b width = q * width + (r ^^^ b % width) ∧ r ^^^ b % width < width := by
  have hlt : r ^^^ b % width < width := by
    subst hw; exact Nat.xor_lt_two_pow hr (Nat.mod_lt _ (Nat.zero_lt_of_lt hr))
  simp only [exchangeLane, segment_of_place hr, Nat.mod_eq_of_lt hlt]
  exact ⟨trivial, hlt⟩

theorem exchangeLane_mirror_mirror : exchangeLane 2 (exchangeLane 2 (q * width + r) b width) b width = q * width + r := by
  rw [exchangeLane_mirror hr, exchangeLane_mirror (by omega)]; omega

theorem exchangeLane_cross_cross {n : Nat} (hw : width = 2 ^ n) :
    exchangeLane 3 (exchangeLane 3 (q * width + r) b width) b width = q * width + r := by
  obtain ⟨hcross, hlt⟩ := exchangeLane_cross (q := q) hr b hw
  rw [hcross, (exchangeLane_cross hlt b hw).1, Nat.xor_assoc, Nat.xor_self, Nat.xor_zero]

end

/-- Settles O4: each group of functions by its lemma on the operands' bits; of an exchange, a lane is a place in its segment. -/
theorem integerFunctions : Obligations.IntegerFunctions := by
  unfold Obligations.IntegerFunctions
  refine ⟨fun a b ty hty => ?_, fun fn i b width hi hwidth => ?_⟩
  · obtain ⟨hadd, hsub, hmul⟩ := intFn_arith hty a b
    obtain ⟨hand, hor, hxor, hmov⟩ := intFn_logic hty a b
    obtain ⟨hshl, hshr, hsar⟩ := intFn_shift hty a b
    obtain ⟨hminU, hminS, hmaxU, hmaxS⟩ := intFn_minMax a b
    obtain ⟨hmulU, hmulS⟩ := intFn_mulHi a b
    obtain ⟨hpopc, hclz⟩ := intFn_count hty a b
    exact ⟨hadd, hsub, hmul, hmulU, hmulS, hand, hor, hxor, hshl, hshr, hsar, hminU, hminS, hmaxU, hmaxS, hmov, hpopc, hclz⟩
  · obtain ⟨n, hpow, hdvd⟩ : ∃ n, width = 2 ^ n ∧ width ∣ 32 := by
      simp only [List.mem_cons, List.not_mem_nil, or_false] at hwidth
      rcases hwidth with rfl | rfl | rfl | rfl | rfl
      exacts [⟨1, by decide⟩, ⟨2, by decide⟩, ⟨3, by decide⟩, ⟨4, by decide⟩, ⟨5, by decide⟩]
    have hr : i % width < width := Nat.mod_lt _ (Nat.pos_of_dvd_of_pos hdvd (by decide))
    have hbase : i - i % width = i / width * width := by
      have := Nat.div_add_mod' i width; omega
    have hplace : i / width * width + i % width = i := Nat.div_add_mod' i width
    have hrest : i - i / width * width = i % width := by omega
    rw [hbase]
    refine ⟨fun _ => exchangeLane_segment fn b hi hdvd, rfl, ?_, ?_, ?_, ?_, ?_⟩
    · simp only [exchangeLane, hrest, Nat.add_mod_mod]
    · have h := exchangeLane_mirror (q := i / width) hr b
      rwa [hplace] at h
    · have h := (exchangeLane_cross (q := i / width) hr b hpow).1
      rwa [hplace] at h
    · have h := exchangeLane_mirror_mirror (q := i / width) hr b
      rwa [hplace] at h
    · have h := exchangeLane_cross_cross (q := i / width) hr b hpow
      rwa [hplace] at h

end Sys2Proof.Machine
end

section
/-! SUPPORT. What pin and unpin answer at the home (R89, R250 to R252). -/

namespace Sys2Proof.Machine
open Sys2Proof

variable {s : State} {pa : Nat} {l : LlcLine}

/-- An address outside HBM has no line to pin (R89). -/
theorem pinLine_outside (h : inHbm pa = false) (c : Acc) : s.pinLine c pa = (2, s) := by
  rw [State.pinLine, h]; rfl

/-- A pin within HBM is granted or refused (R250). -/
theorem pinLine_status (h : inHbm pa = true) (c : Acc) : (s.pinLine c pa).1 ≤ 1 := by
  have hgranted : (0 : Nat) ≤ 1 := by decide
  unfold State.pinLine
  rw [if_neg (by simp [h])]
  dsimp only
  split
  · split
    · exact hgranted
    · split
      · exact hgranted
      · exact le_refl 1
  · split
    · exact le_refl 1
    · split
      · split
        · exact hgranted
        · exact le_refl 1
      · exact le_refl 1

/-- A pinned line stays as it is but for the note of who pinned it (R251). -/
theorem pinLine_pinned (h : inHbm pa = true) (hl : (s.slice (s.homeSlice pa)).line (lineOf pa) = some l) (hp : l.pinned = true) (c : Acc) :
    s.pinLine c pa = (0, s.updSlice (s.homeSlice pa) (fun x =>
      x.setLine { l with pinBy := l.pinBy ++ c.inst.toList.filter (fun i => !l.pinBy.contains i) })) := by
  simp only [State.pinLine, h, hl, hp, Bool.not_true, Bool.false_eq_true, if_false, if_true]

theorem unpinLine_pinned (h : inHbm pa = true) (hl : (s.slice (s.homeSlice pa)).line (lineOf pa) = some l) (hp : l.pinned = true) :
    s.unpinLine pa = (0, s.updSlice (s.homeSlice pa) (fun x => x.setLine { l with pinned := false, pinBy := [] })) := by
  simp only [State.unpinLine, h, hl, hp, Bool.not_true, Bool.false_eq_true, if_false, if_true]

/-- Where no pinned line stands at the address unpin changes nothing (R252). -/
theorem unpinLine_unpinned (h : ¬ (inHbm pa = true ∧ ∃ l, (s.slice (s.homeSlice pa)).line (lineOf pa) = some l ∧ l.pinned = true)) :
    s.unpinLine pa = (3, s) := by
  unfold State.unpinLine
  split
  · rfl
  · rename_i hin
    have hin : inHbm pa = true := by simpa using hin
    dsimp only
    split
    · rename_i l hl
      exact if_neg fun hp => h ⟨hin, l, hl, hp⟩
    · rfl

/-- Settles O12: the cases of pin by whether HBM holds the line and whether it is pinned, those of unpin by the latter. -/
theorem pinStatuses : Obligations.PinStatuses := by
  unfold Obligations.PinStatuses
  intro s c pa
  have hpin : (s.pinLine c pa).1 ≤ 2 ∧ ((s.pinLine c pa).1 = 2 ↔ inHbm pa = false) := by
    cases hin : inHbm pa with
    | false => rw [pinLine_outside hin]; exact ⟨le_refl 2, fun _ => rfl, fun _ => rfl⟩
    | true => 
      have hle := pinLine_status (s := s) hin c
      exact ⟨by omega, fun htwo => by omega, fun hfalse => absurd hfalse (by decide)⟩
  refine ⟨hpin.1, hpin.2, fun hin => by rw [pinLine_outside hin], fun l hin hl hp => ⟨_, pinLine_pinned hin hl hp c⟩, ?_⟩
  by_cases hpinned : inHbm pa = true ∧ ∃ l, (s.slice (s.homeSlice pa)).line (lineOf pa) = some l ∧ l.pinned = true
  · have hstatus : (s.unpinLine pa).1 = 0 := by
      obtain ⟨hin, l, hl, hp⟩ := hpinned
      rw [unpinLine_pinned hin hl hp]
    rw [hstatus]
    exact ⟨by decide, fun hne => absurd rfl hne, fun _ => hpinned, fun _ => rfl⟩
  · rw [unpinLine_unpinned hpinned]
    exact ⟨List.mem_cons_of_mem _ List.mem_cons_self, fun _ => rfl, fun h => absurd h (Nat.succ_ne_zero 2), fun h => absurd h hpinned⟩

end Sys2Proof.Machine
end

section
/-! SUPPORT. What fence and inv.l1 leave (R82, R88, R211, R219, R221). -/

namespace Sys2Proof.Machine
open Sys2Proof

/-! ## What they wait for -/

/-- A fence waits while a remote write of the group lacks its acknowledgement (R211, R225). -/
theorem waits_fence (s : State) (g slot : Nat) (x : Group) (n : Nat) : s.waits g slot x .fence n = decide (s.unacked g (some slot) ≠ 0) := by
  simp [State.waits, State.released]

theorem waits_invL1 (s : State) (g slot : Nat) (x : Group) (n : Nat) : s.waits g slot x .invL1 n = false := by
  simp [State.waits]

section
variable {s t : State} {core slot : Nat}

theorem SameBut.unacked (h : SameBut s t core slot) (g : Nat) (k : Option Nat) : t.unacked g k = s.unacked g k := by
  rw [h.1]; rfl

theorem SameBut.l1 (h : SameBut s t core slot) : (t.core core).l1 = (s.core core).l1 := by rw [h.2.2.2]

theorem SameBut.clusters (h : SameBut s t core slot) : t.clusters = s.clusters := by rw [h.1]

theorem SameBut.cluster (h : SameBut s t core slot) (n : Nat) : t.cluster n = s.cluster n := by rw [h.1]; rfl

end

/-! ## What an acquire invalidates -/

section
variable (s : State) (g scope : Nat)

/-- An acquire changes caches alone: of the cores that of its own, of the clusters the one in which it lies (R219, R221). -/
theorem acquire_frame : s.acquire g scope = { s with cores := (s.acquire g scope).cores, clusters := (s.acquire g scope).clusters } ∧
    (∀ k, k ≠ g → (s.acquire g scope).core k = s.core k) ∧ ∀ n, n ≠ clusterOf g → (s.acquire g scope).cluster n = s.cluster n := by
  unfold State.acquire State.l1Clear
  dsimp only
  split
  · exact ⟨rfl, fun _ _ => rfl, fun _ _ => rfl⟩
  · split
    · exact ⟨rfl, fun k hk => by simp [hk], fun n hn => by simp [hn]⟩
    · exact ⟨rfl, fun k hk => by simp [hk], fun n _ => by simp⟩

@[simp] theorem acquire_group (k slot : Nat) : (s.acquire g scope).group k slot = s.group k slot := by
  unfold State.acquire State.l1Clear
  dsimp only
  split
  · rfl
  · have hclear : (s.updCore g (fun c => { c with l1 := [] })).group k slot = s.group k slot := by
      simp only [State.group, updCore_eq, setCore_core]; split <;> simp_all
    split <;> exact hclear

/-- At group scope an acquire invalidates nothing (R219). -/
theorem acquire_group_scope : s.acquire g 0 = s := rfl

variable {scope}

theorem acquire_clusters (h : scope ≠ 2) : (s.acquire g scope).clusters = s.clusters := by
  unfold State.acquire
  dsimp only
  rw [if_neg h]
  split <;> rfl

theorem acquire_l1 (h : scope ≠ 0) : ((s.acquire g scope).core g).l1 = [] := by
  unfold State.acquire State.l1Clear
  rw [if_neg h]
  dsimp only
  split <;> simp

theorem acquire_l2 : ((s.acquire g 2).cluster (clusterOf g)).l2 = (s.cluster (clusterOf g)).l2.filter (fun l => l.st ≠ .NC) := by
  simp [State.acquire, State.l1Clear]

end

/-! ## The commands -/

variable {s : State} {core slot : Nat} {w : Word} {x : Group}

/-- A fence that waits for nothing is an acquire of its scope (R82, R219). -/
theorem exec_fence (h : Reaches s core slot .fence w 0 x) (hacked : s.unacked core (some slot) = 0) :
    exec (.fence core slot w) s = .next (((s.atIssue core slot .fence w x).acquire core (mSC w.toNat)).advance core slot 8) := by
  have hissues : Issues s core slot .fence w 0 x :=
    ⟨h, by rw [waits_fence, (sameBut_atWord s core slot .fence w x).unacked, hacked]; rfl⟩
  exact onGroup_issue hissues _

/-- A fence that waits leaves its group where it is (R211). -/
theorem exec_fence_waits (h : Reaches s core slot .fence w 0 x) (hwait : s.unacked core (some slot) ≠ 0) :
    exec (.fence core slot w) s = .next (s.atWord core slot .fence w x) := by
  have hwaits : (s.atWord core slot .fence w x).waits core slot x .fence w.toNat = true := by
    rw [waits_fence, (sameBut_atWord s core slot .fence w x).unacked]; exact decide_eq_true hwait
  have hexec : exec (.fence core slot w) s = onGroup core slot _ := rfl
  rw [hexec, wait_eq h hwaits, onGroup_eq h]

/-- inv.l1 invalidates what an acquire of chip scope does (R88, R219). -/
theorem exec_invL1 (h : Reaches s core slot .invL1 w 0 x) :
    exec (.invL1 core slot w) s = .next (((s.atIssue core slot .invL1 w x).acquire core 1).advance core slot 8) :=
  onGroup_issue (⟨h, waits_invL1 _ _ _ _ _⟩ : Issues s core slot .invL1 w 0 x) _

/-- An acquire and the move past a word, from a state in which one group has changed. -/
theorem acquire_advance_spec {u : State} (hu : SameBut s u core slot) (hx : u.group core slot = some x) (scope : Nat) :
    ((u.acquire core scope).advance core slot 8).group core slot = some { x with pc := x.pc + 8, window := x.window - 1 } ∧
      ((u.acquire core scope).advance core slot 8) = { s with
        cores := ((u.acquire core scope).advance core slot 8).cores, clusters := ((u.acquire core scope).advance core slot 8).clusters } ∧
      (∀ g, g ≠ core → ((u.acquire core scope).advance core slot 8).core g = s.core g) ∧
      (∀ n, n ≠ clusterOf core → ((u.acquire core scope).advance core slot 8).cluster n = s.cluster n) ∧
      SameBut (u.acquire core scope) ((u.acquire core scope).advance core slot 8) core slot := by
  obtain ⟨hstate, hcores, hclusters⟩ := acquire_frame u core scope
  obtain ⟨hgroup, hsame⟩ := advance_spec (s := u.acquire core scope) (core := core) (slot := slot) (x := x) 8 (by rw [acquire_group, hx])
  refine ⟨hgroup, ?_, fun g hg => ?_, fun n hn => ?_, hsame⟩
  · rw [hsame.1, hstate, hu.1]
  · rw [hsame.2.1 g hg, hcores g hg, hu.2.1 g hg]
  · rw [hsame.cluster, hclusters n hn, hu.cluster]

/-- Settles O11: fence and inv.l1 are an acquire of some scope between changes of their group; what an acquire invalidates
say `acquire_l1` and `acquire_l2`. -/
theorem fencesInvalidate : Obligations.FencesInvalidate := by
  unfold Obligations.FencesInvalidate
  intro s core slot w x
  refine ⟨fun h hacked => ?_, fun h hwait => ?_, fun h => ?_⟩
  · have hissue := sameBut_atIssue s core slot .fence w x
    obtain ⟨hgroup, hstate, hcores, hclusters, hsame⟩ :=
      acquire_advance_spec hissue (atIssue_group s core slot .fence w x) (mSC w.toNat)
    refine ⟨_, exec_fence h hacked, hgroup, hstate, hcores, hclusters, fun hsc => ?_, fun hsc => ?_, fun hsc => ?_⟩
    · rw [hsame.l1, hsame.cluster, hsc, acquire_group_scope]
      exact ⟨hissue.l1, hissue.cluster _⟩
    · rw [hsame.l1, acquire_l1 _ _ hsc]
    · rw [hsame.cluster, hsc]
      exact (acquire_l2 _ core).trans (by rw [hissue.cluster]; rfl)
  · exact ⟨_, exec_fence_waits h hwait, atWord_group s core slot .fence w x, sameBut_atWord s core slot .fence w x⟩
  · have hissue := sameBut_atIssue s core slot .invL1 w x
    obtain ⟨hgroup, hstate, hcores, -, hsame⟩ :=
      acquire_advance_spec hissue (atIssue_group s core slot .invL1 w x) 1
    refine ⟨_, exec_invL1 h, hgroup, ?_, hcores, hsame.l1.trans (acquire_l1 _ core Nat.one_ne_zero)⟩
    exact hstate.trans (by rw [hsame.clusters, acquire_clusters _ _ (by decide), hissue.clusters])

end Sys2Proof.Machine
end

section
/-! SUPPORT. Accesses of memory that complete: ld, st, atom, hint.dead, pin, unpin and the fetch of a code line (R66, R79 to R90). -/

namespace Sys2Proof.Machine
open Sys2Proof

/-! ## The parts of an access -/

/-- The lanes of a format-M word with their addresses (R79). -/
def accesses (x : Group) (n : Nat) : List (Nat × Nat) := (memLanes x n).map (fun l => (l, memAddr x n l))

/-- The requests of a load's peer accesses, sent one after another: those that the group awaits. -/
def State.loadPeers (s : State) (core slot : Nat) (x : Group) (n : Nat) (hits : List Hit) : List Nat × State :=
  hits.foldl (fun (acc : List Nat × State) h =>
    (acc.1 ++ (acc.2.loadPeer core slot x.inst (mS n) n x.idx h).1, (acc.2.loadPeer core slot x.inst (mS n) n x.idx h).2)) ([], s)

/-- The group that a load leaves, but for its pc: its registers written, or what it has kept until the peers answer (R80). -/
def loadedGroup (x : Group) (n : Nat) (vals : List (Hit × List PByte)) (txs : List Nat) : Group :=
  if txs = [] then x.setAll (mS n) (mTY n) (wD n) (vals.map (fun v => (v.1.lane, ofLe (plain v.2))))
  else { x with await := txs, got := vals.map (fun v => (v.1.lane, ofLe (plain v.2))) }

/-- The accesses of a store performed one after another: the narrow ones of a peer are awaited (log 79). -/
def State.storeAll (s : State) (core slot : Nat) (x : Group) (n : Nat) (hits : List Hit) : List Nat × State :=
  hits.foldl (fun (acc : List Nat × State) h =>
    if inPeer h.pa then
      (acc.1 ++ (acc.2.storePeer core slot x h (storeData x n h.lane)).1, (acc.2.storePeer core slot x h (storeData x n h.lane)).2)
    else (acc.1, acc.2.storeBytes core x.inst x.idx h (clean (storeData x n h.lane)))) ([], s)

/-! ## The commands -/

variable {s s2 s3 s4 : State} {core slot : Nat} {w : Word} {x : Group} {hits : List Hit} {txs : List Nat}

/-- ld with its checks passed and no poison read (R79 to R82). -/
theorem exec_ld {vals : List (Hit × List PByte)} (h : Issues s core slot .ld w 0 x)
    (hcheck : (s.atIssue core slot .ld w x).checkAll core x.inst .read (tySize (mTY w.toNat)) (accesses x w.toNat) = (.ok hits, s2))
    (hload : s2.loadAll core x.inst (tySize (mTY w.toNat)) (hits.filter (fun h => !inPeer h.pa)) = (vals, s3))
    (hclean : ∀ v ∈ vals, anyPoison v.2 = false)
    (hpeers : s3.loadPeers core slot x w.toNat (hits.filter (fun h => inPeer h.pa)) = (txs, s4)) :
    exec (.ld core slot w) s = .next ((if mORD w.toNat = 0 then s4 else s4.acquire core (mSC w.toNat)).stepGroup core slot 8
      (loadedGroup x w.toNat vals txs)) := by
  have hnone : vals.find? (fun v => anyPoison v.2) = none := List.find?_eq_none.2 fun v hv => Bool.eq_false_iff.1 (hclean v hv)
  have hexec : exec (.ld core slot w) s = .next _ := onGroup_issue h _
  unfold accesses at hcheck
  unfold State.loadPeers at hpeers
  dsimp only at hexec
  rw [hcheck] at hexec
  dsimp only at hexec
  rw [hload] at hexec
  dsimp only at hexec
  rw [hnone] at hexec
  dsimp only at hexec
  rw [hpeers] at hexec
  exact hexec

/-- st with its checks passed (R79 to R82). -/
theorem exec_st (h : Issues s core slot .st w 0 x)
    (hcheck : (s.atIssue core slot .st w x).checkAll core x.inst .write (tySize (mTY w.toNat)) (accesses x w.toNat) = (.ok hits, s2))
    (hstore : s2.storeAll core slot x w.toNat (lastWriters hits) = (txs, s3)) :
    exec (.st core slot w) s = .next (s3.stepGroup core slot 8 { x with await := txs }) := by
  have hexec : exec (.st core slot w) s = .next _ := onGroup_issue h _
  unfold accesses at hcheck
  unfold State.storeAll at hstore
  dsimp only at hexec
  rw [hcheck] at hexec
  dsimp only at hexec
  rw [hstore] at hexec
  exact hexec

/-- atom with its checks passed, no poison met, and an operation that the host takes where it lies there (R82 to R87, R321). -/
theorem exec_atom {y : Group} (h : Issues s core slot .atom w 0 x)
    (hcheck : (s.atIssue core slot .atom w x).checkAll core x.inst .write (tySize (mTY w.toNat)) (accesses x w.toNat) = (.ok hits, s2))
    (hhost : ∀ h ∈ hits, inHost h.pa = true → (hostAtomic (wOp w.toNat - 0x58) (mTY w.toNat)).isSome = true ∧ s2.host.atomicOps = true)
    (hdrop : s3 = hits.foldl (fun (s : State) h => s.l1Drop core (lineOf h.pa)) s2)
    (hclean : ∀ e ∈ gather x w.toNat hits, s3.metPoison w.toNat e.1 = false)
    (hall : s3.atomAll core slot w.toNat x (gather x w.toNat hits) = (txs, y, s4)) :
    exec (.atom core slot w) s = .next
      ((if mORD w.toNat = 1 || mORD w.toNat = 3 then s4.acquire core (mSC w.toNat) else s4).stepGroup core slot 8
        { y with await := txs }) := by
  have htaken : hits.find? (fun h => inHost h.pa && !((hostAtomic (wOp w.toNat - 0x58) (mTY w.toNat)).isSome && s2.host.atomicOps)) = none := by
    refine List.find?_eq_none.2 fun h hh => ?_
    cases hin : inHost h.pa with
    | false => exact Bool.false_ne_true
    | true =>
      obtain ⟨hop, hport⟩ := hhost h hh hin
      rw [hop, hport]; exact Bool.false_ne_true
  have hnone : (gather x w.toNat hits).find? (fun e => s3.metPoison w.toNat e.1) = none :=
    List.find?_eq_none.2 fun e he => Bool.eq_false_iff.1 (hclean e he)
  have hexec : exec (.atom core slot w) s = .next _ := onGroup_issue h _
  unfold accesses at hcheck
  dsimp only at hexec
  rw [hcheck] at hexec
  dsimp only at hexec
  rw [htaken] at hexec
  dsimp only at hexec
  rw [← hdrop, hnone] at hexec
  dsimp only at hexec
  rw [hall] at hexec
  exact hexec

/-- hint.dead with its checks passed (R90, R226, R227). -/
theorem exec_hintDead (h : Issues s core slot .hintDead w 0 x)
    (hcheck : (s.atIssue core slot .hintDead w x).checkEach core x.inst .write (accesses x w.toNat) = (.ok hits, s2)) :
    exec (.hintDead core slot w) s = .next
      ((hits.foldl (fun (s : State) h => s.deadLine (s.accOf x.inst h.leaf false) h.pa) s2).advance core slot 8) := by
  have hexec : exec (.hintDead core slot w) s = .next _ := onGroup_issue h _
  unfold accesses at hcheck
  dsimp only at hexec
  rw [hcheck] at hexec
  exact hexec

/-- pin and unpin once their address is checked: the state after the home's answer, and the answer in the register (R89). -/
theorem pinOp_ok {n : Nat} {hit : Hit} (hcheck : s.checkHere core x.inst .read 0xFF (memAddr x n 0) = (.ok hit, s2))
    (op : Acc → Nat → State → Nat × State) :
    pinOp core slot n s x op = (op (s2.accOf x.inst hit.leaf false) hit.pa s2).2.stepGroup core slot 8
      (x.setS (wD n) (BitVec.ofNat 64 (op (s2.accOf x.inst hit.leaf false) hit.pa s2).1)) := by
  rw [pinOp, hcheck]

/-- The line of an address fetched for a group that may issue (R65, R66). -/
theorem exec_fetchCode {hit : Hit} {bs : List PByte} (hcore : core < 8192) (hslot : slot < 16) (hx : s.group core slot = some x)
    (hissue : s.mayIssue core x = true) (hwalk : s.walkWaits core x.inst w.toNat = false)
    (hcheck : s.checkOne core x.inst .exec 1 0xFF (alignDown w.toNat 128) = (.ok hit, s2)) (hheld : s2.heldAt core hit.pa false = false)
    (hread : s2.hbmRead { s2.accOf x.inst hit.leaf false with ask := some .critical } hit.pa 128 = (bs, s3))
    (hclean : anyPoison bs = false) :
    exec (.fetchCode core slot w) s = .next (s3.updCore core (fun c => { c with code := NMap.ins c.code (w.toNat / 128) (plain bs) })) := by
  have hexec : exec (.fetchCode core slot w) s = execFetchCode core slot w s := rfl
  rw [hexec]
  simp [execFetchCode, onGroup, onUnit, hcore, hslot, hx, hissue, hwalk, hcheck, hheld, hread, hclean]

/-- Settles O10: each access is the branch of its instruction on which its checks succeed. -/
theorem memoryAccessesComplete : Obligations.MemoryAccessesComplete := by
  unfold Obligations.MemoryAccessesComplete
  intro s core slot w x hits s2
  refine ⟨fun h hcheck vals s3 hload hclean txs s4 hpeers => exec_ld h hcheck hload hclean hpeers,
    fun h hcheck txs s3 hstore => exec_st h hcheck hstore,
    fun h hcheck hhost s3 hdrop hclean txs y s4 hall => exec_atom h hcheck hhost hdrop hclean hall, fun h hcheck => exec_hintDead h hcheck,
    fun h hit hcheck => ?_, fun h hit hcheck => ?_, fun hcore hslot hx hissue hwalk hit hcheck hheld hclean =>
      exec_fetchCode hcore hslot hx hissue hwalk hcheck hheld rfl hclean⟩
  · have hexec : exec (.pin core slot w) s = .next _ := onGroup_issue h _
    exact hexec.trans (congrArg _ (pinOp_ok hcheck _))
  · have hexec : exec (.unpin core slot w) s = .next _ := onGroup_issue h _
    exact hexec.trans (congrArg _ (pinOp_ok hcheck _))

end Sys2Proof.Machine
end

section
/-! SUPPORT. What the homes' transactions and the L2s change: caches, directories and memory alone (R231 to R248). -/

namespace Sys2Proof.Machine
open Sys2Proof

/-! ## What they change -/

/-- Nothing differs but the clusters' caches, the slices, HBM with its queues, and the restores of the serving part. -/
def CachesOnly (b s : State) : Prop := ∃ c l h m q, s = { b with clusters := c, slices := l, hbm := h, mem := m, seq := q }

variable {b s t : State}

theorem CachesOnly.refl (b : State) : CachesOnly b b := ⟨_, _, _, _, _, rfl⟩

theorem CachesOnly.trans (h : CachesOnly b s) (k : CachesOnly s t) : CachesOnly b t := by
  obtain ⟨_, _, _, _, _, rfl⟩ := h
  obtain ⟨c, l, p, m, q, rfl⟩ := k
  exact ⟨c, l, p, m, q, rfl⟩

theorem CachesOnly.out (h : CachesOnly b s) : s.out = b.out := by
  obtain ⟨_, _, _, _, _, rfl⟩ := h; rfl

theorem CachesOnly.ite (c : Prop) [Decidable c] (hs : CachesOnly b s) (ht : CachesOnly b t) : CachesOnly b (if c then s else t) := by
  split
  · exact hs
  · exact ht

theorem CachesOnly.of_snd {α : Type} {p : α × State} {a : α} (h : CachesOnly b p.2) (e : p = (a, t)) : CachesOnly b t := by
  rw [e] at h; exact h

theorem CachesOnly.updCluster (h : CachesOnly b s) (q : Nat) (f : Cluster → Cluster) : CachesOnly b (s.updCluster q f) :=
  h.trans ⟨_, _, _, _, _, rfl⟩

theorem CachesOnly.updSlice (h : CachesOnly b s) (n : Nat) (f : Slice → Slice) : CachesOnly b (s.updSlice n f) :=
  h.trans ⟨_, _, _, _, _, rfl⟩

/-! ## HBM -/

theorem CachesOnly.hbmPut (h : CachesOnly b s) (pa : Nat) (x : Sector) : CachesOnly b (s.hbmPut pa x) :=
  .ite _ h (h.trans ⟨_, _, _, _, _, rfl⟩)

theorem CachesOnly.hbmStore (h : CachesOnly b s) (n pa : Nat) (x : Sector) (bulk : Bool) : CachesOnly b (s.hbmStore n pa x bulk) :=
  .ite _ h ((h.hbmPut pa x).trans ⟨_, _, _, _, _, rfl⟩)

theorem CachesOnly.mendSector (h : CachesOnly b s) (pa : Nat) (x : Sector) : CachesOnly b (s.mendSector pa x) := by
  refine .ite _ ?_ h
  unfold State.startRestore
  dsimp only
  split
  · exact h
  · exact .ite _ h (h.trans ⟨_, _, _, _, _, rfl⟩)

theorem CachesOnly.askMiss (h : CachesOnly b s) (c : Acc) (n a j : Nat) : CachesOnly b (s.askMiss c n a j) := by
  unfold State.askMiss State.askSector
  dsimp only
  split
  · exact .ite _ h (h.trans ⟨_, _, _, _, _, rfl⟩)
  · exact h

/-! ## Lines and counters of a slice -/

theorem CachesOnly.count (h : CachesOnly b s) (n cls kind k : Nat) : CachesOnly b (s.count n cls kind k) := h.updSlice _ _

theorem CachesOnly.countBytes32 (h : CachesOnly b s) (c : Acc) (n : Nat) : CachesOnly b (s.countBytes32 c n) := .ite _ (h.count _ _ _ _) h

theorem CachesOnly.countHit (h : CachesOnly b s) (c : Acc) (n : Nat) (pinned : Bool) : CachesOnly b (s.countHit c n pinned) :=
  (h.count _ _ _ _).countBytes32 c n

theorem CachesOnly.llcEvict (h : CachesOnly b s) (n : Nat) (l : LlcLine) : CachesOnly b (s.llcEvict n l) := by
  unfold State.llcEvict
  exact (List.foldlRecOn (motive := CachesOnly b) _ _ h fun _ hs _ _ =>
    .ite _ (hs.hbmStore _ _ _ _) (.ite _ ((hs.hbmStore _ _ _ _).mendSector _ _) hs)).updSlice _ _

theorem CachesOnly.llcAlloc (h : CachesOnly b s) (c : Acc) (n a : Nat) : CachesOnly b (s.llcAlloc c n a).2 := by
  unfold State.llcAlloc
  split
  · exact h
  · rename_i victim _
    dsimp only
    refine CachesOnly.updSlice ?_ _ _
    cases victim with
    | none => exact .ite _ (h.count _ _ _ _) h
    | some v => exact .ite _ ((h.llcEvict n v).count _ _ _ _) (h.llcEvict n v)

theorem CachesOnly.pinFill (h : CachesOnly b s) (c : Acc) (n : Nat) (l : LlcLine) : CachesOnly b (s.pinFill c n l).2 := by
  unfold State.pinFill
  split
  · exact h
  · split
    · exact h
    · exact h.count _ _ _ _

theorem CachesOnly.llcRead (h : CachesOnly b s) (c : Acc) (n a j : Nat) : CachesOnly b (s.llcRead c n a j).2 := by
  have hask := h.askMiss c n a j
  unfold State.llcRead
  split
  · split
    · exact (h.updSlice _ _).countHit c n _
    · split
      · exact (h.updSlice _ _).countHit c n _
      · exact (((hask.pinFill c n _).updSlice _ _).count _ _ _ _).countBytes32 c n
  · have hcount := (hask.count n c.cls (if c.fetched.getLsbD j then 0 else 2) 1).countBytes32 c n
    dsimp only
    split
    · exact hcount
    · split <;> dsimp only
      · exact ((hcount.llcAlloc c n a).of_snd ‹_›).updSlice _ _
      · exact (hcount.llcAlloc c n a).of_snd ‹_›

theorem CachesOnly.llcPut (h : CachesOnly b s) (c : Acc) (n a j : Nat) (x : Sector) : CachesOnly b (s.llcPut c n a j x) := by
  unfold State.llcPut
  dsimp only
  split
  · exact h.updSlice _ _
  · split
    · exact h.hbmStore _ _ _ _
    · split
      · exact ((h.llcAlloc c n a).of_snd ‹_›).updSlice _ _
      · exact ((h.llcAlloc c n a).of_snd ‹_›).hbmStore _ _ _ _

theorem CachesOnly.writeBack (h : CachesOnly b s) (q n : Nat) (l : L2Line) : CachesOnly b (s.writeBack q n l) :=
  List.foldlRecOn (motive := CachesOnly b) _ _ h fun _ hs _ _ => .ite _ ((hs.llcPut _ _ _ _ _).mendSector _ _) hs

/-! ## The directory -/

theorem CachesOnly.invalidate (h : CachesOnly b s) (a : Nat) (sharers : BitVec 32) (except : Option Nat) :
    CachesOnly b (s.invalidate a sharers except) :=
  List.foldlRecOn (motive := CachesOnly b) _ _ h fun _ hs _ _ => .ite _ (hs.updCluster _ _) hs

theorem CachesOnly.recall (h : CachesOnly b s) (n a x : Nat) : CachesOnly b (s.recall n a x) := by
  unfold State.recall
  split
  · exact h
  · exact (h.writeBack x n _).updCluster _ _

theorem CachesOnly.recallEntry (h : CachesOnly b s) (n : Nat) (e : DirEntry) : CachesOnly b (s.recallEntry n e) := by
  have hrecall : CachesOnly b (if e.st = DirState.S then s else s.recall n e.a e.owner) := .ite _ h (h.recall _ _ _)
  unfold State.recallEntry State.dirDel
  exact (CachesOnly.ite _ hrecall (hrecall.invalidate _ _ _)).updSlice _ _

theorem CachesOnly.dirPut (h : CachesOnly b s) (n : Nat) (e : DirEntry) : CachesOnly b (s.dirPut n e) := by
  unfold State.dirPut
  dsimp only
  refine CachesOnly.updSlice (.ite _ h ?_) _ _
  split
  · exact h.recallEntry n _
  · exact h

theorem CachesOnly.dirTouch (h : CachesOnly b s) (n a : Nat) : CachesOnly b (s.dirTouch n a) := by
  unfold State.dirTouch
  split
  · exact h.updSlice _ _
  · exact h

/-! ## The home's actions -/

theorem CachesOnly.takePut (h : CachesOnly b s) (q a : Nat) : CachesOnly b (s.takePut q a) := by
  unfold State.takePut
  split
  · exact h
  · refine CachesOnly.updCluster ?_ _ _
    split
    · exact .ite _ (.ite _ ((h.writeBack q _ _).dirPut _ _) ((h.writeBack q _ _).updSlice _ _)) h
    · exact h

theorem CachesOnly.homeSector (h : CachesOnly b s) (c : Acc) (n a j : Nat) (except : Option Nat) :
    CachesOnly b (s.homeSector c n a j except).2 := by
  have htouch := h.dirTouch n a
  unfold State.homeSector
  dsimp only
  split
  · exact htouch.countHit c n _
  · exact htouch.llcRead c n a j

theorem CachesOnly.homeGetM (h : CachesOnly b s) (c : Acc) (q a : Nat) : CachesOnly b (s.homeGetM c q a).2.2.2 := by
  unfold State.homeGetM
  dsimp only
  split
  · exact h.dirPut _ _
  · rename_i e _
    have hrest : CachesOnly b (if e.st = DirState.EM then s else s.invalidate a e.sharers (some q)) := .ite _ h (h.invalidate _ _ _)
    split
    · exact hrest.dirPut _ _
    · split
      · exact List.foldlRecOn (motive := CachesOnly b) _ _ ((hrest.updCluster _ _).dirPut _ _) fun _ hs _ _ => hs.countHit c _ _
      · exact hrest.dirPut _ _

/-! ## Accesses of a cluster's L2 -/

theorem CachesOnly.l2Put (h : CachesOnly b s) (q : Nat) (l : L2Line) : CachesOnly b (s.l2Put q l) := by
  unfold State.l2Put
  dsimp only
  split
  · exact h.updCluster _ _
  · split <;> exact h.updCluster _ _

theorem CachesOnly.l2Own (h : CachesOnly b s) (c : Acc) (q a : Nat) : CachesOnly b (s.l2Own c q a).2.2 := by
  have htake := h.takePut q a
  unfold State.l2Own
  dsimp only
  split
  · split
    · exact htake.l2Put _ _
    · dsimp only
      exact (htake.homeGetM c q a).l2Put _ _
  · dsimp only
    exact (htake.homeGetM c q a).l2Put _ _

theorem CachesOnly.l2Fill (h : CachesOnly b s) (c : Acc) (q a j : Nat) (l : L2Line) : CachesOnly b (s.l2Fill c q a j l).2 := by
  unfold State.l2Fill
  split
  · exact h
  · exact h.homeSector c _ a j _

theorem CachesOnly.atomNear (h : CachesOnly b s) (c : Acc) (q pa n : Nat) (f : Nat → Nat) : CachesOnly b (s.atomNear c q pa n f).2.2 := by
  have hfill := (h.l2Own c q (lineOf pa)).l2Fill c q (lineOf pa) (pa % 128 / 32) (s.l2Own c q (lineOf pa)).2.1
  unfold State.atomNear
  dsimp only
  split <;> exact hfill.l2Put _ _

end Sys2Proof.Machine
end

section
/-! SUPPORT. What an L2 answers to a forward, to an invalidation and to a near atomic of its cores (R84, R242, R245, R248). -/

namespace Sys2Proof.Machine
open Sys2Proof

variable {s : State}

/-! ## Messages to and from a home -/

theorem sendEddy_out (s : State) (n d : Nat) (f : SentEddy) : s.out <+: (s.sendEddy n d f).out := by
  unfold State.sendEddy
  dsimp only
  split
  · exact List.prefix_append _ _
  · exact List.prefix_refl _

/-- A message between dies adds flits to what has been sent, or nothing (R395, R398). -/
theorem dieMessage_out (s : State) (a hemiA d hemiD vc line : Nat) : s.out <+: (s.dieMessage a hemiA d hemiD vc line).out := by
  unfold State.dieMessage
  split
  · exact List.prefix_refl _
  · refine List.foldlRecOn (motive := fun (t : State) => s.out <+: t.out) _ _ (List.prefix_refl _) fun t ht hop _ => ?_
    dsimp only
    split
    · exact ht
    · exact ht.trans (sendEddy_out _ _ _ _)

/-- A message from a home to a cluster and its answer. -/
def State.exchange (s : State) (q a : Nat) : State := (s.fromHome q a 1).toHome q a 2

theorem exchange_messagesOnly (s : State) (q a : Nat) : MessagesOnly s (s.exchange q a) :=
  ((MessagesOnly.refl s).dieMessage _ _ _ _ _ _).dieMessage _ _ _ _ _ _

theorem exchange_out (s : State) (q a : Nat) : s.out <+: (s.exchange q a).out :=
  (dieMessage_out s _ _ _ _ _ _).trans (dieMessage_out _ _ _ _ _ _ _)

theorem MessagesOnly.mem {b : State} (h : MessagesOnly b s) : s.mem = b.mem := by obtain ⟨_, _, _, rfl⟩ := h; rfl
theorem MessagesOnly.slices {b : State} (h : MessagesOnly b s) : s.slices = b.slices := by obtain ⟨_, _, _, rfl⟩ := h; rfl
theorem MessagesOnly.cluster {b : State} (h : MessagesOnly b s) (n : Nat) : s.cluster n = b.cluster n := by obtain ⟨_, _, _, rfl⟩ := h; rfl
theorem MessagesOnly.l2line {b : State} (h : MessagesOnly b s) (q a : Nat) : s.l2line q a = b.l2line q a := by
  rw [State.l2line, h.cluster]; rfl

/-! ## Forwards -/

/-- The owner answers a forward with its dirty sectors (R245). -/
theorem exec_forwardReq {cl : Nat} {pa : BitVec 56} {l : L2Line} (hcl : cl < 128) (hl : s.ownerLine cl (lineOf pa.toNat) = some l) :
    exec (.forwardReq cl pa) s = .next ((s.exchange cl l.a).send (.forwarded cl l.a l.dirty l.d)) := by
  have hexec : exec (.forwardReq cl pa) s = execForward cl pa s := rfl
  rw [hexec, execForward, hl, onUnit, decide_eq_true hcl]
  rfl

/-! ## Invalidations -/

theorem l2Drop_l2line (s : State) (q a b : Nat) : (s.l2Drop q a).l2line q b = if b = a then none else s.l2line q b := by
  have hcluster : ((s.l2Drop q a).cluster q).l2 = (s.cluster q).l2.filter (fun l => l.a ≠ a) := by simp [State.l2Drop]
  rw [State.l2line, hcluster, State.l2line, List.find?_filter]
  split
  · rename_i h
    exact List.find?_eq_none.2 fun l _ => by simp [h]
  · rename_i h
    congr 1; funext l
    by_cases hl : l.a = b <;> simp [hl, h]

theorem l2Drop_cluster (s : State) {q k : Nat} (a : Nat) (h : k ≠ q) : (s.l2Drop q a).cluster k = s.cluster k := by
  simp [State.l2Drop, h]

/-- An S copy of a line dropped from an L2, any other kept (R242, R245). -/
def State.dropShared (s : State) (q a : Nat) : State :=
  match s.l2line q a with
  | some l => if l.st = L2State.S then s.l2Drop q a else s
  | none => s

/-- Either an S copy has been dropped, or there was none. -/
theorem dropShared_cases (s : State) (q a : Nat) :
    s.dropShared q a = s.l2Drop q a ∨ (s.dropShared q a = s ∧ ∀ l, s.l2line q a = some l → l.st ≠ .S) := by
  unfold State.dropShared
  split
  · rename_i l hl
    split
    · exact .inl rfl
    · rename_i hst
      exact .inr ⟨rfl, fun m hm => by rw [hl] at hm; exact Option.some.inj hm ▸ hst⟩
  · rename_i hnone
    exact .inr ⟨rfl, fun m hm => by rw [hnone] at hm; exact absurd hm (by simp)⟩

theorem dropShared_frame (s : State) (q a : Nat) : (s.dropShared q a).out = s.out ∧ (s.dropShared q a).mem = s.mem ∧
    (s.dropShared q a).slices = s.slices ∧ (∀ b, b ≠ a → (s.dropShared q a).l2line q b = s.l2line q b) ∧
    ∀ k, k ≠ q → (s.dropShared q a).cluster k = s.cluster k := by
  rcases dropShared_cases s q a with h | ⟨h, -⟩ <;> rw [h]
  · exact ⟨rfl, rfl, rfl, fun b hb => by rw [l2Drop_l2line, if_neg hb], fun k hk => l2Drop_cluster s a hk⟩
  · exact ⟨rfl, rfl, rfl, fun _ _ => rfl, fun _ _ => rfl⟩

/-- A copy that is left is no S copy, and stands as it did. -/
theorem dropShared_l2line {q a : Nat} {l : L2Line} (h : (s.dropShared q a).l2line q a = some l) : l.st ≠ .S ∧ s.l2line q a = some l := by
  rcases dropShared_cases s q a with hdrop | ⟨hkeep, hst⟩
  · rw [hdrop, l2Drop_l2line, if_pos rfl] at h; exact absurd h (by simp)
  · rw [hkeep] at h; exact ⟨hst l h, h⟩

/-- An invalidation completes at a holder and at any other cluster (R242, R245). -/
theorem exec_invalidation {cl : Nat} (pa : BitVec 56) (hcl : cl < 128) : exec (.invalidation cl pa) s =
    .next (((s.dropShared cl (lineOf pa.toNat)).exchange cl (lineOf pa.toNat)).send (.invAck cl (lineOf pa.toNat))) := by
  have hexec : exec (.invalidation cl pa) s = onUnit (cl < 128)
      (((s.dropShared cl (lineOf pa.toNat)).exchange cl (lineOf pa.toNat)).send (.invAck cl (lineOf pa.toNat))) := rfl
  rw [hexec, onUnit, decide_eq_true hcl]
  rfl

/-! ## Near atomics -/

theorem l2Put_l2line (s : State) (q : Nat) (l : L2Line) : (s.l2Put q l).l2line q l.a = some l := by
  unfold State.l2Put
  dsimp only
  split
  · simp [State.l2line]
  · split <;> simp [State.l2line]

/-- The line that a cluster obtains to write is the one asked for, in M (R244). -/
theorem l2Own_line (s : State) (c : Acc) (q a : Nat) : (s.l2Own c q a).2.1.a = a ∧ (s.l2Own c q a).2.1.st = .M := by
  unfold State.l2Own
  dsimp only
  split
  · rename_i l hl
    have ha : l.a = a := by simpa using List.find?_some hl
    split <;> exact ⟨ha, rfl⟩
  · exact ⟨rfl, rfl⟩

theorem l2Fill_line (s : State) (c : Acc) (q a j : Nat) (l : L2Line) : (s.l2Fill c q a j l).1.a = l.a ∧ (s.l2Fill c q a j l).1.st = l.st := by
  unfold State.l2Fill
  split <;> exact ⟨rfl, rfl⟩

/-- A near atomic leaves its cluster with the line in M (R84, R248). -/
theorem atomNear_l2line (s : State) (c : Acc) (q pa n : Nat) (f : Nat → Nat) :
    ((s.atomNear c q pa n f).2.2.l2line q (lineOf pa)).map (fun l => l.st) = some .M := by
  obtain ⟨hownA, hownSt⟩ := l2Own_line s c q (lineOf pa)
  obtain ⟨hfillA, hfillSt⟩ := l2Fill_line (s.l2Own c q (lineOf pa)).2.2 c q (lineOf pa) (pa % 128 / 32) (s.l2Own c q (lineOf pa)).2.1
  have hput : ∀ (t : State) (l : L2Line), l.a = lineOf pa → l.st = .M → ((t.l2Put q l).l2line q (lineOf pa)).map (fun l => l.st) = some .M :=
    fun t l ha hst => by rw [← ha, l2Put_l2line, Option.map_some, hst]
  unfold State.atomNear
  dsimp only
  split <;> exact hput _ _ (hfillA.trans hownA) (hfillSt.trans hownSt)

/-- A near atomic for which nothing waits completes with its result sent (R84, R245). -/
theorem exec_nearAtomic {cl cls : Nat} {pa : BitVec 56} {op ty : BitVec 4} (x y : BitVec 256) (hcl : cl < 128)
    (hwell : atomWell pa.toNat op.toNat ty.toNat = true) (hcls : cls < 7) (hheld : s.heldAt (64 * cl) pa.toNat true = false) :
    ∃ old t, t = (s.atomNear (s.clusterAcc cl cls pa.toNat) cl pa.toNat (tySize ty.toNat) (fun v => atomFn op.toNat ty.toNat v x.toNat y.toNat)).2.2 ∧
      exec (.nearAtomic cl pa cls op ty x y) s = .next (t.send (.atomResult cl pa.toNat old)) := by
  have hexec : exec (.nearAtomic cl pa cls op ty x y) s = execNearAtomic cl pa cls op ty x y s := rfl
  rw [hexec, execNearAtomic, hwell, decide_eq_true hcls, hheld, onUnit, decide_eq_true hcl]
  exact ⟨_, _, rfl, rfl⟩

/-- Settles O21: a forward is one exchange of messages, an invalidation `dropShared` and one exchange; a near atomic changes caches alone, so what
it sends is its result, and `atomNear_l2line` has the line in M. -/
theorem l2Answers : Obligations.L2Answers := by
  unfold Obligations.L2Answers
  intro s cl pa hcl
  refine ⟨fun l hl => exec_forwardReq hcl hl, ?_, fun cls op ty x y hwell hcls hheld => ?_⟩
  · obtain ⟨hout, hmem, hslices, hlines, hclusters⟩ := dropShared_frame s cl (lineOf pa.toNat)
    have hmsgs := (exchange_messagesOnly (s.dropShared cl (lineOf pa.toNat)) cl (lineOf pa.toNat)).send (.invAck cl (lineOf pa.toNat))
    obtain ⟨flits, hflits⟩ := exchange_out (s.dropShared cl (lineOf pa.toNat)) cl (lineOf pa.toNat)
    refine ⟨_, exec_invalidation pa hcl, ⟨flits, ?_⟩, hmsgs.mem.trans hmem, hmsgs.slices.trans hslices, fun l hl => ?_, fun a ha => ?_, fun q hq => ?_⟩
    · rw [State.send, ← hflits, hout]
    · rw [hmsgs.l2line] at hl; exact dropShared_l2line hl
    · rw [hmsgs.l2line, hlines a ha]
    · rw [hmsgs.cluster, hclusters q hq]
  · obtain ⟨old, t, ht, hexec⟩ := exec_nearAtomic x y hcl hwell hcls hheld
    refine ⟨_, old, hexec, ?_, ?_⟩
    · rw [State.send, ht, ((CachesOnly.refl s).atomNear _ cl pa.toNat _ _).out]
    · rw [((MessagesOnly.refl t).send _).l2line, ht]
      exact atomNear_l2line s _ cl pa.toNat _ _

end Sys2Proof.Machine
end

section
/-! SUPPORT. The source of a remote request: the responses that end it and the timers that send it again or end it (R164, R362, R384 to R389). -/

namespace Sys2Proof.Machine
open Sys2Proof

variable {s : State} {o : Outstanding} {p : Packet}

/-! ## Responses that match their request (R388) -/

/-- `p` reaches the source `s` and answers the outstanding request `o` in the generation that its sender now has (R364, R388). -/
structure State.Matched (s : State) (o : Outstanding) (p : Packet) : Prop where
  rails : s.board.rails = true
  untripped : s.therm.tripped = false
  found : s.outstOf p.txid.toNat = some o
  dinst : p.dinst = o.p.sinst
  dgen : p.dgen = (s.inst o.inst).gen

@[simp] theorem take_outstOf (s : State) (p : Packet) (txid : Nat) : (s.take p).outstOf txid = s.outstOf txid := rfl

@[simp] theorem take_inst (s : State) (p : Packet) (i : Nat) : (s.take p).inst i = s.inst i := rfl

/-- A matched response of the kind `opc` to a request of the kind `req` (0: of any kind) is taken and does what its command says. -/
theorem answered_matched (h : s.Matched o p) {opc req : Nat} (hopc : p.opc.toNat = opc) (hreq : req = 0 ∨ o.p.opc.toNat = req)
    (f : State → Outstanding → State) : s.answered opc req p f = f (s.take p) o := by
  obtain ⟨hrails, htrip, hfound, hdinst, hdgen⟩ := h
  rcases hreq with rfl | rfl <;> simp [State.answered, hopc, hrails, htrip, hfound, hdinst, hdgen]

/-! ## WACK, RDATA and ARES (R384, R387, R429) -/

theorem exec_wack (h : s.Matched o p) (hopc : p.opc = 0x81) (hreq : o.p.opc = 1) :
    exec (.wack p) s = .next (((s.take p).settle o).land o 0 []) :=
  congrArg Host.Outcome.next (answered_matched h (congrArg BitVec.toNat hopc) (.inr (congrArg BitVec.toNat hreq)) _)

theorem exec_rdata (h : s.Matched o p) (hopc : p.opc = 0x82) (hreq : o.p.opc = 2) :
    exec (.rdata p) s =
      .next (((s.take p).settle o).land o p.status.toNat (p.data.map (fun b => (b, p.status = 0x0307)))) :=
  congrArg Host.Outcome.next (answered_matched h (congrArg BitVec.toNat hopc) (.inr (congrArg BitVec.toNat hreq)) _)

theorem exec_ares (h : s.Matched o p) (hopc : p.opc = 0x83) (hreq : o.p.opc = 3) :
    exec (.ares p) s = .next (((s.take p).settle o).land o p.status.toNat (clean p.data)) :=
  congrArg Host.Outcome.next (answered_matched h (congrArg BitVec.toNat hopc) (.inr (congrArg BitVec.toNat hreq)) _)

/-! ## REJECT (R389) -/

/-- A matched REJECT of a packet that belongs to no collective does to the request what its status says. -/
theorem exec_reject (h : s.Matched o p) (hopc : p.opc = 0x84) (hcoll : ∀ c, c < 64 → p.txid ∉ (s.coll c).txids) :
    exec (.reject p) s = .next ((s.take p).rejected o p.status.toNat) := by
  have hnone : (List.range 64).find? (fun c => (s.coll c).txids.contains p.txid) = none := by
    simpa [List.find?_eq_none] using hcoll
  have hexec : exec (.reject p) s = execReject p s := rfl
  rw [hexec, execReject, hnone]
  exact congrArg Host.Outcome.next (answered_matched h (congrArg BitVec.toNat hopc) (.inl rfl) _)

theorem rejected_busy (s : State) (o : Outstanding) : s.rejected o 0x0005 = s.setOutst o { o with busyAt := some s.clock.now } := rfl

/-- A REJECT of a WRITE, or one whose status ends a request at once, ends it as failed. -/
theorem rejected_ended {st : Nat} (hnotBusy : st ≠ 0x0005) (hends : o.p.opc = 1 ∨ endsAtOnce st = true) :
    s.rejected o st = s.endFailed o st := by
  have hcond : (o.p.opc.toNat = 1 || endsAtOnce st) = true := by
    rcases hends with hwrite | hstatus
    · simp [hwrite]
    · simp [hstatus]
  rw [State.rejected, if_neg hnotBusy, if_pos hcond]

theorem rejected_read {st : Nat} (hnotBusy : st ≠ 0x0005) (hlasts : endsAtOnce st = false) (hread : o.p.opc = 2) :
    s.rejected o st = s.resendRead o := by
  simp [State.rejected, hnotBusy, hlasts, hread]

/-! ## Timers (R385, R388, R389) -/

/-- What REQUEST_TIMEOUT does to a request that has waited 2 ms for its response. -/
def State.unanswered (s : State) (o : Outstanding) : State :=
  match o.p.opc.toNat with
  | 1 => s.draw.2.endFailed o (s.draw.1.toNat % 2 ^ 16)
  | 2 => s.resendRead o
  | _ => if s.clock.now < o.first + 9000000 then s.resend o o.txid true else s

theorem unanswered_write (hwrite : o.p.opc = 1) : s.unanswered o = s.draw.2.endFailed o (s.draw.1.toNat % 2 ^ 16) := by
  simp [State.unanswered, hwrite]

theorem unanswered_read (hread : o.p.opc = 2) : s.unanswered o = s.resendRead o := by
  simp [State.unanswered, hread]

theorem unanswered_atomic (hatomic : o.p.opc = 3) (hearly : s.clock.now < o.first + 9000000) :
    s.unanswered o = s.resend o o.txid true := by
  simp [State.unanswered, hatomic, hearly]

section
variable (hrails : s.board.rails = true) (htrip : s.therm.tripped = false) (hfound : s.outstOf o.txid.toNat = some o)
include hrails hfound

theorem exec_atomicOutcomeUnknown (hatomic : o.p.opc = 3) (hdue : o.first + 10000000 ≤ s.clock.now) :
    exec (.atomicOutcomeUnknown o.txid.toNat) s = .next (s.endFailed o 0x0305) := by
  have hexec : exec (.atomicOutcomeUnknown o.txid.toNat) s = execAtomicOutcomeUnknown o.txid.toNat s := rfl
  simp [hexec, execAtomicOutcomeUnknown, hfound, hatomic, hdue, hrails]

include htrip

theorem exec_requestTimeout (hidle : o.busyAt = none) (hdue : o.sent + 2000000 ≤ s.clock.now) :
    exec (.requestTimeout o.txid.toNat) s = .next (s.unanswered o) := by
  have hexec : exec (.requestTimeout o.txid.toNat) s = execRequestTimeout o.txid.toNat s := rfl
  have hacts : ¬(o.busyAt.isSome || s.clock.now < o.sent + 2000000 || !s.board.rails || s.therm.tripped) = true := by
    simp [hidle, hdue.not_gt, hrails, htrip]
  rw [hexec, execRequestTimeout, hfound]
  exact congrArg _ (if_neg hacts)

theorem exec_busyResend_write {a : Nat} (hbusy : o.busyAt = some a) (hdue : a + 2000 ≤ s.clock.now) (hwrite : o.p.opc = 1) :
    exec (.busyResend o.txid.toNat) s = .next (s.resend o o.txid false) := by
  have hexec : exec (.busyResend o.txid.toNat) s = execBusyResend o.txid.toNat s := rfl
  simp [hexec, execBusyResend, hfound, hbusy, hdue.not_gt, hrails, htrip, hwrite]

end

/-- Settles O44: a matched response does what `answered_matched` says, a REJECT by its status and a timeout by the kind of the request. -/
theorem remoteSource : Obligations.RemoteSource := by
  unfold Obligations.RemoteSource
  intro s o hrails htrip hfound
  refine ⟨fun p htxid hdinst hdgen => ?_, fun hidle hdue => ?_, exec_atomicOutcomeUnknown hrails hfound,
    fun a hbusy hdue hwrite => exec_busyResend_write hrails htrip hfound hbusy hdue hwrite⟩
  · have hmatch : s.Matched o p := ⟨hrails, htrip, htxid ▸ hfound, hdinst, hdgen⟩
    refine ⟨exec_wack hmatch, exec_rdata hmatch, exec_ares hmatch, fun hopc hcoll hst => ?busy, fun hopc hcoll hst hends => ?ended,
      fun hopc hcoll hread hst => ?read⟩
    all_goals rw [exec_reject hmatch hopc hcoll]
    case busy => rw [hst]; exact congrArg _ (rejected_busy (s.take p) o)
    case ended =>
      refine congrArg _ (rejected_ended (fun h => hst (BitVec.eq_of_toNat_eq h)) (hends.imp_right ?_))
      rintro (h | h | h) <;> rw [h] <;> rfl
    case read =>
      have hlasts : p.status.toNat ≠ 0x0005 ∧ endsAtOnce p.status.toNat = false := by
        rcases hst with h | h | h <;> rw [h] <;> decide
      exact congrArg _ (rejected_read hlasts.1 hlasts.2 hread)
  · rw [exec_requestTimeout hrails htrip hfound hidle hdue]
    exact ⟨fun hwrite => congrArg _ (unanswered_write hwrite), fun hread => congrArg _ (unanswered_read hread),
      fun hatomic hearly => congrArg _ (unanswered_atomic hatomic hearly)⟩

end Sys2Proof.Machine
end

section
/-! SUPPORT. Entries of the submission ring that begin: what LAUNCH, COPY, WAIT, FENCE_ENTRY and EVENT then do (R181, R329 to R332). -/

namespace Sys2Proof.Machine
open Sys2Proof

variable {s : State} {i idx : Nat} {e : Entry}

/-! ## Entries that begin (R328) -/

/-- An entry that begins is the one listed under its index. -/
theorem entry_of_begins {ty : Nat} (h : s.begins i idx ty = some e) : s.entry i idx = some e := by
  unfold State.begins at h
  cases hentry : s.entry i idx with
  | none => simp [hentry] at h
  | some o =>
    rw [hentry] at h
    obtain ⟨-, hsame⟩ := Option.ite_none_right_eq_some.1 h
    exact hsame

/-! ## The end of a copy (R329) -/

/-- A copy ends with the status of its reads, else that of its writes, else 0x0307 where poison kept a line back. -/
theorem endCopy_eq (hentry : s.entry i idx = some e) : s.endCopy i idx = s.complete i idx (match e.bad.or e.wbad with
    | some st => st.toNat
    | none => if e.moved = 0 then 0 else 0x0307) 0 := by
  simp only [State.endCopy, hentry]
  cases e.bad.or e.wbad <;> rfl

/-- What a copy notes once its bytes are written: the status `st` of the writes, and whether a poisoned line was skipped. -/
def Entry.copied (e : Entry) (st : Option Nat) (skipped : Bool) : Entry :=
  { e with applied := true, wbad := e.wbad.or (st.map (BitVec.ofNat 16)), moved := b2n skipped, buf := [] }

section
variable (hi : i < 64)
include hi

/-! ## LAUNCH (R181) -/

theorem exec_launch (hbegins : s.begins i idx 1 = some e) (hstarted : e.started = false) :
    exec (.launch i idx) s = .next { s.updEntry i idx (fun x => { x with started := true }) with
      launches := s.launches ++ [e.launch i (s.clustersOf i)] } := by
  have hexec : exec (.launch i idx) s = execLaunch i idx s := rfl
  simp only [hexec, execLaunch, onUnit, hi, hbegins, hstarted]
  rfl

/-! ## COPY (R329) -/

theorem exec_copy_applied (hbegins : s.begins i idx 2 = some e) (happlied : e.applied = true) (hremote : e.remote = []) :
    exec (.copy i idx) s = .next (s.endCopy i idx) := by
  have hexec : exec (.copy i idx) s = execCopy i idx s := rfl
  simp [hexec, execCopy, onUnit, hi, hbegins, happlied, hremote]

/-- A copy whose destination does not wait and whose source bytes are at hand writes them, closes its batches and notes the outcome; it
ends at once where no write awaits its acknowledgement. -/
theorem exec_copy_moves (hbegins : s.begins i idx 2 = some e) (happlied : e.applied = false) {u t v : State}
    (hu : u = s.updEntry i idx (fun x => { x with started := true }))
    (hready : u.writeWaits agentPort i .write (e.f 24 8) (e.f 32 4) = false) {bs : List PByte}
    (hread : u.entryRead agentPort i idx .read (e.f 16 8) (e.f 32 4) (e.f 36 1 = 1) = (.bytes bs, t)) {st : Option Nat} {skipped : Bool}
    (hwrite : t.entryWrite agentPort i idx .write (e.f 24 8) bs (e.f 36 1 = 1) = (st, skipped, v)) {w : State}
    (hw : w = (v.closeBatches partTag).updEntry i idx (fun x => x.copied st skipped))
    (hremote : ∀ x, w.entry i idx = some x → x.remote = []) :
    exec (.copy i idx) s = .next (w.endCopy i idx) := by
  have hends : ((w.entry i idx).map (fun x => x.remote)).getD [] = [] := by
    cases hentry : w.entry i idx with
    | none => rfl
    | some x => exact hremote x hentry
  have hexec : exec (.copy i idx) s = execCopy i idx s := rfl
  subst hu hw
  simp only [hexec, execCopy, onUnit, hi, hbegins, happlied, hready, hread, hwrite]
  exact congrArg _ (if_pos hends)

/-! ## WAIT (R330) -/

theorem exec_wait_launches (hbegins : s.begins i idx 5 = some e) (hkind : e.f 16 1 = 1) {ok : Bool}
    (hmet : s.depsMet i idx (e.tags 18 (fld (e.f 17 1) 0 3)) (bit (e.f 17 1) 3) = some ok) :
    exec (.wait i idx) s = .next (s.complete i idx (if ok then 0 else 0x0104) 0) := by
  have hexec : exec (.wait i idx) s = execWait i idx s := rfl
  simp [hexec, execWait, onUnit, hi, hbegins, hkind, hmet]

theorem exec_wait_word (hbegins : s.begins i idx 5 = some e) (hkind : e.f 16 1 = 2) {u : State}
    (hmet : s.pollWord i idx (e.f 32 8) (BitVec.ofNat 32 (e.f 28 4)) = (.ok true, u)) :
    exec (.wait i idx) s = .next (u.complete i idx 0 0) := by
  have hexec : exec (.wait i idx) s = execWait i idx s := rfl
  simp [hexec, execWait, onUnit, hi, hbegins, hkind, hmet]

theorem exec_wait_beat (hbegins : s.begins i idx 5 = some e) (hkind : e.f 16 1 = 3)
    (hmet : e.f 40 8 ≤ s.cad.beat.toNat ∨ s.runsUntagged i = true) :
    exec (.wait i idx) s = .next (s.complete i idx 0 0) := by
  have hexec : exec (.wait i idx) s = execWait i idx s := rfl
  simp [hexec, execWait, onUnit, hi, hbegins, hkind, hmet]

/-! ## FENCE and EVENT (R331, R332) -/

theorem exec_fenceEntry (hbegins : s.begins i idx 8 = some e) (hfirst : s.isFirst i idx = true) :
    exec (.fenceEntry i idx) s = .next (s.complete i idx 0 0) := by
  have hexec : exec (.fenceEntry i idx) s = execFenceEntry i idx s := rfl
  simp [hexec, execFenceEntry, onUnit, hi, hbegins, hfirst]

theorem exec_event (hbegins : s.begins i idx 6 = some e) (hfirst : s.isFirst i idx = true) :
    exec (.event i idx) s = .next ((s.event i (s.record 4 (e.f 16 2) 0 0 (e.f 20 12))).complete i idx 0 0) := by
  have hexec : exec (.event i idx) s = execEvent i idx s := rfl
  simp [hexec, execEvent, onUnit, hi, hbegins, hfirst]

end

/-- Settles O33: each clause is the lemma of its entry; that a launch has started is read back through `updEntry_entry`, and so is
that a copy awaits no acknowledgement, which noting its outcome leaves as it was. -/
theorem entriesRun : Obligations.EntriesRun := by
  unfold Obligations.EntriesRun
  intro s i idx e hi
  refine ⟨fun hbegins hstarted => ?launch, fun hbegins happlied hremote => ?applied,
    fun hbegins happlied u t v st skipped bs hu hready hread hwrite hremote => ?moves,
    fun hbegins hkind ok hmet => exec_wait_launches hi hbegins hkind hmet, fun hbegins hkind u hmet => exec_wait_word hi hbegins hkind hmet,
    exec_wait_beat hi, exec_fenceEntry hi, exec_event hi⟩
  case launch =>
    have hentry : (s.updEntry i idx (fun x => { x with started := true })).entry i idx = some { e with started := true } := by
      rw [updEntry_entry (by simp), entry_of_begins hbegins]; rfl
    exact ⟨_, exec_launch hi hbegins hstarted, rfl, congrArg (Option.map Entry.started) hentry, rfl, rfl⟩
  case applied =>
    exact (exec_copy_applied hi hbegins happlied hremote).trans (congrArg _ (endCopy_eq (entry_of_begins hbegins)))
  case moves =>
    refine ⟨_, exec_copy_moves hi hbegins happlied hu hready hread hwrite rfl fun x hx => ?_, updEntry_mem _ _ _ _⟩
    rw [updEntry_entry (f := fun x => x.copied st skipped) (fun _ => rfl)] at hx
    obtain ⟨y, hy, rfl⟩ := Option.map_eq_some_iff.1 hx
    exact hremote y hy

end Sys2Proof.Machine
end

section
/-! SUPPORT. Memory stays in its canonical form: every command, and one step (R243, R268, R344, R464). -/

namespace Sys2Proof.Machine
open Sys2Proof

/-- Every command that completes leaves HBM and host memory in canonical form: the lemma of its meaning, arm by arm as in the dispatch. -/
theorem keep_exec (c : Instr) (s : State) (h : MemOk s) : OutOk (exec c s) := by
  cases c with
  | nop core slot w => exact keep_execNop core slot w s h
  | br core slot w => exact keep_execBr core slot w s h
  | jmp core slot w => exact keep_execJmp core slot w s h
  | call core slot w => exact keep_execCall core slot w s h
  | exit core slot w => exact keep_execExit core slot w s h
  | barGroup core slot w => exact keep_execBarGroup core slot w s h
  | barrierStall core slot => exact keep_execBarrierStall core slot s h
  | waitGe core slot w => exact keep_execWaitGe core slot w s h
  | ctrRd core slot w => exact keep_execCtrRd core slot w s h
  | ctrSet core slot w => exact keep_execCtrSet core slot w s h
  | ctrAdd core slot w => exact keep_execCtrAdd core slot w s h
  | mmaWait core slot w => exact keep_execMmaWait core slot w s h
  | rdsr core slot w => exact keep_execRdsr core slot w s h
  | scalarInteger core slot w => exact keep_execScalarInteger core slot w s h
  | scalarF32 core slot w => exact keep_execScalarF32 core slot w s h
  | scalarIntegerImmediate core slot w => exact keep_execScalarIntegerImmediate core slot w s h
  | movHi core slot w => exact keep_execMovHi core slot w s h
  | vectorInteger core slot w => exact keep_execVectorInteger core slot w s h
  | vectorF32 core slot w => exact keep_execVectorF32 core slot w s h
  | vectorIntegerImmediate core slot w => exact keep_execVectorIntegerImmediate core slot w s h
  | vectorF32Immediate core slot w => exact keep_execVectorF32Immediate core slot w s h
  | cvt core slot w => exact keep_execCvt core slot w s h
  | cmp core slot w => exact keep_execCmp core slot w s h
  | maskLogic core slot w => exact keep_execMaskLogic core slot w s h
  | tally core slot w => exact keep_execTally core slot w s h
  | xlane core slot w => exact keep_execXlane core slot w s h
  | laneFill core slot w => exact keep_execLaneFill core slot w s h
  | laneGet core slot w => exact keep_execLaneGet core slot w s h
  | lanePut core slot w => exact keep_execLanePut core slot w s h
  | fold core slot w => exact keep_execFold core slot w s h
  | ld core slot w => exact keep_execLd core slot w s h
  | st core slot w => exact keep_execSt core slot w s h
  | atom core slot w => exact keep_execAtom core slot w s h
  | fence core slot w => exact keep_execFence core slot w s h
  | invL1 core slot w => exact keep_execInvL1 core slot w s h
  | pin core slot w => exact keep_execPin core slot w s h
  | unpin core slot w => exact keep_execUnpin core slot w s h
  | hintDead core slot w => exact keep_execHintDead core slot w s h
  | lds core slot w => exact keep_execLds core slot w s h
  | sts core slot w => exact keep_execSts core slot w s h
  | wsumInit core slot w => exact keep_execWsumInit core slot w s h
  | wsumAcc core slot w => exact keep_execWsumAcc core slot w s h
  | wsumMac core slot w => exact keep_execWsumMac core slot w s h
  | wsumAdd core slot w => exact keep_execWsumAdd core slot w s h
  | wsumRed core slot w => exact keep_execWsumRed core slot w s h
  | wsumCvt core slot w => exact keep_execWsumCvt core slot w s h
  | cpAsync core slot w w1 => exact keep_execCpAsync core slot w w1 s h
  | mmaAsync core slot w w1 => exact keep_execMmaAsync core slot w w1 s h
  | mmaDrain core slot w w1 => exact keep_execMmaDrain core slot w w1 s h
  | fetchCode core slot va => exact keep_execFetchCode core slot va s h
  | runAhead core slot w path => exact keep_execRunAhead core slot w path s h
  | runAheadStaged core idx => exact keep_execRunAheadStaged core idx s h
  | copyDataLanded core id len => exact keep_execCopyDataLanded core id len s h
  | mmaStart core => exact keep_execMmaStart core s h
  | mmaComplete core => exact keep_execMmaComplete core s h
  | drainStart core => exact keep_execDrainStart core s h
  | drainComplete core => exact keep_execDrainComplete core s h
  | contextKill inst idx => exact keep_execContextKill inst idx s h
  | launchReady inst idx => exact keep_execLaunchReady inst idx s h
  | dependencyPoll inst idx => exact keep_execDependencyPoll inst idx s h
  | taskTake core => exact keep_execTaskTake core s h
  | stealChoose cl inst idx => exact keep_execStealChoose cl inst idx s h
  | stealRequest thief victim inst idx => exact keep_execStealRequest thief victim inst idx s h
  | commitReservation cl => exact keep_execCommitReservation cl s h
  | commitPoint core slot => exact keep_execCommitPoint core slot s h
  | launchComplete inst idx => exact keep_execLaunchComplete inst idx s h
  | coreLost core logicError => exact keep_execCoreLost core logicError s h
  | drain unit => exact keep_execDrain unit s h
  | drainTmaxExpiry unit => exact keep_execDrainTmaxExpiry unit s h
  | reelClr src v => exact keep_execReelClr src v s h
  | gets cl pa cls secs => exact keep_execGets cl pa cls secs s h
  | getm cl pa cls secs => exact keep_execGetm cl pa cls secs s h
  | upg cl pa cls => exact keep_execUpg cl pa cls s h
  | getsec cl pa cls secs => exact keep_execGetsec cl pa cls secs s h
  | putLine cl pa => exact keep_execPut cl pa s h
  | rdna inst pa cls secs prio => exact keep_execRdna inst pa cls secs prio s h
  | wrna inst pa cls data bulk => exact keep_execWrna inst pa cls data bulk s h
  | atomf cl pa cls op ty x y => exact keep_execAtomf cl pa cls op ty x y s h
  | dead cl pa => exact keep_execDead cl pa s h
  | forwardReq cl pa => exact keep_execForward cl pa s h
  | invalidation cl pa => exact keep_execInvalidation cl pa s h
  | nearAtomic cl pa cls op ty x y => exact keep_execNearAtomic cl pa cls op ty x y s h
  | retryResponse slice id => exact keep_execRetryResponse slice id s h
  | hbmReadData pch id flip0 flip1 => exact keep_execHbmReadData pch id flip0 flip1 s h
  | hbmBurstSlot pch => exact keep_execHbmBurstSlot pch s h
  | patrol pa flip0 flip1 => exact keep_execPatrol pa flip0 flip1 s h
  | recalibrationWindow stack chan => exact keep_execRecalibrationWindow stack chan s h
  | hbmTemperatureRead stack temp => exact keep_execHbmTemperatureRead stack temp s h
  | pseudoChannelFence pch => exact keep_execPseudoChannelFence pch s h
  | hbmFence src v => exact keep_execHbmFence src v s h
  | hbmRetire src v => exact keep_execHbmRetire src v s h
  | hbmRetireUndoPage src v => exact keep_execHbmRetireUndoPage src v s h
  | hbmRetireUndoChannel src v => exact keep_execHbmRetireUndoChannel src v s h
  | hbmMargin src v => exact keep_execHbmMargin src v s h
  | hbmMarginDone errs => exact keep_execHbmMarginDone errs s h
  | llcClr src v => exact keep_execLlcClr src v s h
  | llcSel src v => exact keep_execLlcSel src v s h
  | nearHomeEnable src k v => exact keep_execNearHomeEnable src k v s h
  | nearHomeFlushDone k => exact keep_execNearHomeFlushDone k s h
  | thrashWindow => exact keep_execThrashWindow s h
  | llcSliceFence slice => exact keep_execLlcSliceFence slice s h
  | seqLayout inst idx => exact keep_execSeqLayout inst idx s h
  | seqCreate inst idx => exact keep_execSeqCreate inst idx s h
  | seqFree inst idx => exact keep_execSeqFree inst idx s h
  | seqFork inst idx => exact keep_execSeqFork inst idx s h
  | seqCommit inst idx => exact keep_execSeqCommit inst idx s h
  | seqRollback inst idx => exact keep_execSeqRollback inst idx s h
  | seqEvict inst idx => exact keep_execSeqEvict inst idx s h
  | seqFetch inst idx => exact keep_execSeqFetch inst idx s h
  | seqQuery inst idx => exact keep_execSeqQuery inst idx s h
  | stepBoundary inst idx => exact keep_execStepBoundary inst idx s h
  | slotZeroed inst layout slotNo => exact keep_execSlotZeroed inst layout slotNo s h
  | modelRegister inst idx => exact keep_execModelRegister inst idx s h
  | modelLoad inst idx => exact keep_execModelLoad inst idx s h
  | modelEvict inst idx => exact keep_execModelEvict inst idx s h
  | modelPin inst idx => exact keep_execModelPin inst idx s h
  | modelUnpin inst idx => exact keep_execModelUnpin inst idx s h
  | modelAcquire inst idx => exact keep_execModelAcquire inst idx s h
  | modelRelease inst idx => exact keep_execModelRelease inst idx s h
  | modelUnregister inst idx => exact keep_execModelUnregister inst idx s h
  | restore pa block => exact keep_execRestore pa block s h
  | restoreDone pa ok => exact keep_execRestoreDone pa ok s h
  | save inst idx => exact keep_execSave inst idx s h
  | doorbell inst size v => exact keep_execDoorbell inst size v s h
  | cqdb inst v => exact keep_execCqdb inst v s h
  | eqdb inst v => exact keep_execEqdb inst v s h
  | entryFetch inst => exact keep_execEntryFetch inst s h
  | launch inst idx => exact keep_execLaunch inst idx s h
  | copy inst idx => exact keep_execCopy inst idx s h
  | wait inst idx => exact keep_execWait inst idx s h
  | fenceEntry inst idx => exact keep_execFenceEntry inst idx s h
  | event inst idx => exact keep_execEvent inst idx s h
  | taggedRelease inst idx => exact keep_execTaggedRelease inst idx s h
  | cqCoalesceTimeout inst => exact keep_execCqCoalesceTimeout inst s h
  | intctl inst v => exact keep_execIntctl inst v s h
  | ringEnable src k v => exact keep_execRingEnable src k v s h
  | ringDisable src k v => exact keep_execRingDisable src k v s h
  | quiesce src v => exact keep_execQuiesce src v s h
  | linkDown => exact keep_execLinkDown s h
  | dataWindowWrite src off data allEnabled => exact keep_execDataWindowWrite src off data allEnabled s h
  | dataWindowRead src off len allEnabled => exact keep_execDataWindowRead src off len allEnabled s h
  | mbGo inst v => exact keep_execMbGo inst v s h
  | query mb => exact keep_execQuery mb s h
  | create mb => exact keep_execCreate mb s h
  | config mb => exact keep_execConfig mb s h
  | grant mb => exact keep_execGrant mb s h
  | revoke mb => exact keep_execRevoke mb s h
  | pagesAssign mb => exact keep_execPagesAssign mb s h
  | pagesRelease mb => exact keep_execPagesRelease mb s h
  | bind mb => exact keep_execBind mb s h
  | tlbinv mb => exact keep_execTlbinv mb s h
  | privateRange mb => exact keep_execPrivateRange mb s h
  | reset mb => exact keep_execReset mb s h
  | remove mb => exact keep_execRemove mb s h
  | preempt mb => exact keep_execPreempt mb s h
  | resume mb => exact keep_execResume mb s h
  | secq mb => exact keep_execSecq mb s h
  | evidence mb => exact keep_execEvidence mb s h
  | enroll mb => exact keep_execEnroll mb s h
  | keygenDone mb => exact keep_execKeygenDone mb s h
  | certw mb => exact keep_execCertw mb s h
  | certr mb => exact keep_execCertr mb s h
  | licadd mb => exact keep_execLicadd mb s h
  | licdel mb => exact keep_execLicdel mb s h
  | nonce mb => exact keep_execNonce mb s h
  | lcsDeployed mb => exact keep_execLcsDeployed mb s h
  | lcsDebug mb => exact keep_execLcsDebug mb s h
  | lcsReturn mb => exact keep_execLcsReturn mb s h
  | lcsRetired mb => exact keep_execLcsRetired mb s h
  | gclr mb => exact keep_execGclr mb s h
  | modq mb => exact keep_execModq mb s h
  | calx mb => exact keep_execCalx mb s h
  | calw mb => exact keep_execCalw mb s h
  | calcommit mb => exact keep_execCalcommit mb s h
  | locate mb => exact keep_execLocate mb s h
  | generationHoldExpiry inst => exact keep_execGenerationHoldExpiry inst s h
  | cadInEdge => exact keep_execCadInEdge s h
  | cadenceSymbol link hops leader beat => exact keep_execCadenceSymbol link hops leader beat s h
  | swbeat src v => exact keep_execSwbeat src v s h
  | cadBeatPreset src v => exact keep_execCadBeatPreset src v s h
  | cadBeatRead src => exact keep_execCadBeatRead src s h
  | cadSourceChange src v => exact keep_execCadSourceChange src v s h
  | cadClr src v => exact keep_execCadClr src v s h
  | cadenceLost => exact keep_execCadenceLost s h
  | flitReceived link flit => exact keep_execFlitReceived link flit s h
  | replayTimeout port => exact keep_execReplayTimeout port s h
  | creditStall link vc => exact keep_execCreditStall link vc s h
  | widthRequest link mask => exact keep_execWidthRequest link mask s h
  | goingDown link reason => exact keep_execGoingDown link reason s h
  | laneFailure link lane => exact keep_execLaneFailure link lane s h
  | laneRetrained link lane good => exact keep_execLaneRetrained link lane good s h
  | linkTrainingRetry link => exact keep_execLinkTrainingRetry link s h
  | linkTrained link lanes peer credits => exact keep_execLinkTrained link lanes peer credits s h
  | aeldonLinkDown link => exact keep_execAeldonLinkDown link s h
  | linkReportedDown link => exact keep_execLinkReportedDown link s h
  | packetRoute arrival residence p => exact keep_execPacketRoute arrival residence p s h
  | write p => exact keep_execWrite p s h
  | read p => exact keep_execRead p s h
  | atomic p => exact keep_execAtomic p s h
  | close p => exact keep_execClose p s h
  | wack p => exact keep_execWack p s h
  | rdata p => exact keep_execRdata p s h
  | ares p => exact keep_execAres p s h
  | reject p => exact keep_execReject p s h
  | requestTimeout txid => exact keep_execRequestTimeout txid s h
  | atomicOutcomeUnknown txid => exact keep_execAtomicOutcomeUnknown txid s h
  | busyResend txid => exact keep_execBusyResend txid s h
  | batchEntryTimeout key => exact keep_execBatchEntryTimeout key s h
  | dedupEntryExpiry src txid => exact keep_execDedupEntryExpiry src txid s h
  | collEnable src c v => exact keep_execCollEnable src c v s h
  | collRunStart c => exact keep_execCollRunStart c s h
  | readyToken c => exact keep_execReadyToken c s h
  | collChunk c data => exact keep_execCollChunk c data s h
  | collStepTimeout c => exact keep_execCollStepTimeout c s h
  | eddyFlit bundle dir granules => exact keep_execEddyFlit bundle dir granules s h
  | bundleFence bundle => exact keep_execBundleFence bundle s h
  | d2dFence src v => exact keep_execD2dFence src v s h
  | bridgeSegmentFence die seg => exact keep_execBridgeSegmentFence die seg s h
  | foehnUpdate sense estMw ampsMa => exact keep_execFoehnUpdate sense estMw ampsMa s h
  | correctionFactor measMw estMw => exact keep_execCorrectionFactor measMw estMw s h
  | diverged => exact keep_execDiverged s h
  | floorHoldRelease => exact keep_execFloorHoldRelease s h
  | unattainableClear => exact keep_execUnattainableClear s h
  | peakExceeded measMw => exact keep_execPeakExceeded measMw s h
  | clockChange sector => exact keep_execClockChange sector s h
  | sectorGate src n v => exact keep_execSectorGate src n v s h
  | sectorUngate src n v => exact keep_execSectorUngate src n v s h
  | foehnClr src v => exact keep_execFoehnClr src v s h
  | thermalSample sensor temp => exact keep_execThermalSample sensor temp s h
  | preTripExit sector => exact keep_execPreTripExit sector s h
  | sensorFailed sensor => exact keep_execSensorFailed sensor s h
  | squall sensor temp => exact keep_execSquall sensor temp s h
  | thermClr src v => exact keep_execThermClr src v s h
  | droop rail => exact keep_execDroop rail s h
  | errFence src v => exact keep_execErrFence src v s h
  | unitFenced unit failure => exact keep_execUnitFenced unit failure s h
  | packageFatal unit => exact keep_execPackageFatal unit s h
  | counterSaturated off => exact keep_execCounterSaturated off s h
  | counterLowRead src read => exact keep_execCounterLowRead src read s h
  | galeDetection source unpowered => exact keep_execGaleDetection source unpowered s h
  | firmwareIntegrityCheck running => exact keep_execFirmwareIntegrityCheck running s h
  | coldStart inputs => exact keep_execColdStart inputs s h
  | warmReset pinHeld inputs => exact keep_execWarmReset pinHeld inputs s h
  | startStepDone r => exact keep_execStartStepDone r s h
  | fuseSvn => exact keep_execFuseSvn s h
  | arm src v => exact keep_execArm src v s h
  | verifyDone => exact keep_execVerifyDone s h
  | stageErase src v => exact keep_execStageErase src v s h
  | stageEraseDone => exact keep_execStageEraseDone s h
  | bootRecover src v => exact keep_execBootRecover src v s h
  | bistGo src v => exact keep_execBistGo src v s h
  | scanDone failed => exact keep_execScanDone failed s h
  | bistDone fails us => exact keep_execBistDone fails us s h
  | persDefaults src v => exact keep_execPersDefaults src v s h
  | registerWrite src off size v => exact keep_execRegisterWrite src off size v s h
  | pwrEnAssert => exact keep_execPwrEnAssert s h
  | pwrEnDeassert vinMv => exact keep_execPwrEnDeassert vinMv s h
  | vinUp vinMv => exact keep_execVinUp vinMv s h
  | prsntNBreak => exact keep_execPrsntNBreak s h
  | mctpControl cmd data => exact keep_execMctpControl cmd data s h
  | pldmCommand ty cmd data => exact keep_execPldmCommand ty cmd data s h
  | platformEventMessage sensor => exact keep_execPlatformEventMessage sensor s h
  | vdmStatus => exact keep_execVdmStatus s h
  | vdmEvidence nonce => exact keep_execVdmEvidence nonce s h
  | vdmErase => exact keep_execVdmErase s h
  | vdmWrite off data => exact keep_execVdmWrite off data s h
  | vdmArm => exact keep_execVdmArm s h
  | vdmWarm => exact keep_execVdmWarm s h
  | vdmRecover => exact keep_execVdmRecover s h
  | logread index => exact keep_execLogread index s h
  | vdmLocate on => exact keep_execVdmLocate on s h
  | droopStretchEnd sector => exact keep_execDroopStretchEnd sector s h
  | galeSourceCleared source => exact keep_execGaleSourceCleared source s h
  | dataLinkLayerUp width rate flit => exact keep_execDataLinkLayerUp width rate flit s h
  | hotSwapTrip => exact keep_execHotSwapTrip s h
  | configurationRequest off write v => exact keep_execConfigurationRequest off write v s h
  | entdaa addr => exact keep_execEntdaa addr s h
  | ackReportTimer port => exact keep_execAckReportTimer port s h
  | mailboxCommandEnd mb => exact keep_execMailboxCommandEnd mb s h
  | recalibrationWindowEnd stack chan => exact keep_execRecalibrationWindowEnd stack chan s h
  | resetPinRelease inputs => exact keep_execResetPinRelease inputs s h

theorem keep_step (s : State) (h : MemOk s) : OutOk (step s) := by
  unfold step
  split
  · exact outOk_next _ (keep_State_tick s h)
  · exact keep_exec _ _ h

/-- Settles O60: a step is a command, which `keep_exec` covers with the rest of the queue left, or a nanosecond, which `keep_State_tick` does. -/
theorem stepKeepsMemoryForm : Obligations.StepKeepsMemoryForm := by
  unfold Obligations.StepKeepsMemoryForm
  intro s t hmem hstep
  exact keep_step s hmem t hstep

end Sys2Proof.Machine
end

section
/-! SUPPORT. The scheduling of a pseudo-channel: burst slots, read data, patrol reads and recalibration windows (R235, R259 to R265, R428). -/

namespace Sys2Proof.Machine
open Sys2Proof

variable {s : State} {pch : Nat}

/-! ## Burst slots (R261, R262, R264) -/

/-- A pseudo-channel whose burst slot has served a request: the request is in no queue, a read is in flight, and its row is open. -/
def Pch.serving (p : Pch) (q : HbmReq) (bulk : Bool) : Pch :=
  { p with
    crit := p.crit.filter (fun r => r.id ≠ q.id)
    norm := (p.norm.map (fun r => if p.norm.any (fun m => m.id = q.id) && r.id < q.id then { r with bypassed := r.bypassed + 1 } else r)).filter
      (fun r => r.id ≠ q.id)
    bulk := p.bulk.filter (fun r => r.id ≠ q.id)
    flight := if q.write then p.flight else p.flight ++ [q]
    slots := bulk :: p.slots.take 9
    openRows := NMap.ins p.openRows q.bank q.row }

/-- A critical request goes before every other (R261). -/
theorem pick_critical {p : Pch} {q : HbmReq} (h : p.nextCrit = some q) (hot : Bool) : p.pick hot = some (q, false) := by
  simp [Pch.pick, h]

theorem exec_hbmBurstSlot_serves {q : HbmReq} {bulk : Bool} (hpch : pch < 1024) (hstate : (s.pch pch).state = 0)
    (hopen : (pch / 64, pch % 64 / 2) ∉ s.hbm.recal) (hpick : (s.pch pch).pick (s.hotStack (pch / 64)) = some (q, bulk)) :
    exec (.hbmBurstSlot pch) s = .next (s.updPch pch (fun p => p.serving q bulk)) := by
  have hexec : exec (.hbmBurstSlot pch) s = execHbmBurstSlot pch s := rfl
  simp only [hexec, execHbmBurstSlot, onUnit, hpch, decide_true, if_true, hstate, hpick]
  simp [hopen, Pch.serving]

theorem exec_hbmBurstSlot_unused (hpch : pch < 1024) (hstate : (s.pch pch).state = 0)
    (hopen : (pch / 64, pch % 64 / 2) ∉ s.hbm.recal) (hpick : (s.pch pch).pick (s.hotStack (pch / 64)) = none) :
    exec (.hbmBurstSlot pch) s = .next (s.updPch pch (fun p => { p with slots := false :: p.slots.take 9 })) := by
  have hexec : exec (.hbmBurstSlot pch) s = execHbmBurstSlot pch s := rfl
  simp only [hexec, execHbmBurstSlot, onUnit, hpch, decide_true, if_true, hstate, hpick]
  simp [hopen]

/-- In a recalibration window of its channel a pseudo-channel serves nothing (R264). -/
theorem exec_hbmBurstSlot_recalibrating (hpch : pch < 1024) (hwindow : (pch / 64, pch % 64 / 2) ∈ s.hbm.recal) :
    exec (.hbmBurstSlot pch) s = .next s := by
  have hexec : exec (.hbmBurstSlot pch) s = execHbmBurstSlot pch s := rfl
  simp [hexec, execHbmBurstSlot, onUnit, hpch, hwindow]

/-! ## Read data (R235, R263) -/

/-- The state that the data of a request in flight leaves, before it reaches its slice: the sector read with the bits flipped that the data
and the sector itself bring, its request out of the flight. -/
def State.readArrives (s : State) (pch id : Nat) (q : HbmReq) (f0 f1 : BitVec 144) : State :=
  ((s.updPch pch (fun p => { p with flight := p.flight.filter (fun r => r.id ≠ id) })).readSector (128 * q.a + 32 * q.sec) f0 f1).restoreIfBad
    (128 * q.a + 32 * q.sec)

section
variable {id : Nat} {q : HbmReq} (f0 f1 : BitVec 144)

theorem exec_hbmReadData (hpch : pch < 1024) (hq : (s.pch pch).flight.find? (fun q => q.id = id) = some q) (hpatrol : q.patrol = none) :
    exec (.hbmReadData pch id f0 f1) s = .next ((s.readArrives pch id q f0 f1).updSlice q.slice (fun x => { x with miss := x.miss.map (fun m =>
      if m.a = q.a then { m with need := m.need &&& ~~~(secBit q.sec) } else m) })).settleMisses := by
  have hexec : exec (.hbmReadData pch id f0 f1) s = execHbmReadData pch id f0 f1 s := rfl
  simp only [hexec, execHbmReadData, onUnit, hpch, decide_true, if_true, hq, hpatrol, Option.getD_none, Option.isSome_none,
    Bool.false_eq_true, if_false, State.readArrives]
  simp

theorem exec_hbmReadData_patrol {e0 e1 : BitVec 144} (hpch : pch < 1024) (hq : (s.pch pch).flight.find? (fun q => q.id = id) = some q)
    (hpatrol : q.patrol = some (e0, e1)) :
    exec (.hbmReadData pch id f0 f1) s = .next (s.readArrives pch id q (f0 ^^^ e0) (f1 ^^^ e1)).settleMisses := by
  have hexec : exec (.hbmReadData pch id f0 f1) s = execHbmReadData pch id f0 f1 s := rfl
  simp only [hexec, execHbmReadData, onUnit, hpch, decide_true, if_true, hq, hpatrol, Option.getD_some, Option.isSome_some, State.readArrives]

end

/-! ## Patrol reads (R259, R261) -/

/-- The request of a patrol read. -/
def State.patrolReq (s : State) (pa : Nat) (f0 f1 : BitVec 144) : HbmReq :=
  { id := s.hbm.nextReq, slice := 0, a := lineOf pa, sec := pa % 128 / 32, bypassed := 0, since := s.clock.now, patrol := some (f0, f1) }

theorem exec_patrol {pa : BitVec 56} (f0 f1 : BitVec 144) (hbm : inHbm pa.toNat = true) (hstate : (s.pch (pchOf pa.toNat)).state = 0) :
    exec (.patrol pa f0 f1) s = .next (({ s with hbm := { s.hbm with nextReq := s.hbm.nextReq + 1 } }).updPch (pchOf pa.toNat)
      (fun p => { p with bulk := p.bulk ++ [s.patrolReq pa.toNat f0 f1] })) := by
  have hexec : exec (.patrol pa f0 f1) s = execPatrol pa f0 f1 s := rfl
  simp [hexec, execPatrol, hbm, hstate, State.patrolReq]

/-! ## Recalibration windows (R264) -/

/-- A channel under self-test that is tested in its window (R477). -/
def State.testChannel (s : State) (stack chan : Nat) : State :=
  if s.bist.busy && s.bist.target = 2 && !(List.range 24).any (fun l => linkUnit l = s.bist.unit) then
    { s with bist := { s.bist with left := s.bist.left.erase (32 * stack + chan) } }
  else s

/-- The window of a channel open, with its beat and time noted. -/
def State.withWindow (s : State) (stack chan : Nat) : State :=
  { s with hbm := { s.hbm with
    recal := (stack, chan) :: s.hbm.recal
    recalBeat := NMap.ins s.hbm.recalBeat stack s.cad.beat.toNat
    recalAt := NMap.ins s.hbm.recalAt stack s.clock.now
    recalChan := NMap.ins s.hbm.recalChan (32 * stack + chan) s.cad.beat.toNat } }

/-- A self-test that goes on changes nothing but the self-test. -/
theorem testChannel_bist (s : State) (stack chan : Nat) : ∃ b, s.testChannel stack chan = { s with bist := b } := by
  unfold State.testChannel
  split
  · exact ⟨_, rfl⟩
  · exact ⟨s.bist, rfl⟩

section
variable {stack chan : Nat} (hstack : stack < 16) (hchan : chan < 32)
include hstack hchan

/-- A window opens where no critical request has waited too long and no other window of the stack is open, 8 beats after the stack's last
and 1,000 after the channel's (R264). -/
theorem exec_recalibrationWindow
    (hcrit : ∀ j, j < 2 → ∀ q ∈ (s.pch (64 * stack + 2 * chan + j)).crit, s.clock.now ≤ q.since + 400)
    (hnone : ∀ w ∈ s.hbm.recal, w.1 ≠ stack) (hsrc : s.cad.src ≠ 0) (hlost : s.cad.lost = false) (hphase : s.cad.phase = 0)
    (hstackBeat : ∀ b, NMap.find s.hbm.recalBeat stack = some b → b + 8 ≤ s.cad.beat.toNat)
    (hchanBeat : ∀ b, NMap.find s.hbm.recalChan (32 * stack + chan) = some b → b + 1000 ≤ s.cad.beat.toNat) :
    exec (.recalibrationWindow stack chan) s = .next ((s.testChannel stack chan).withWindow stack chan) := by
  have hwaits : (List.range 2).any (fun j => (s.pch (64 * stack + 2 * chan + j)).crit.any (fun q => q.since + 400 < s.clock.now)) = false := by
    simp only [List.any_eq_false, List.mem_range, List.any_eq_true, decide_eq_true_eq, not_exists, not_and, not_lt]
    exact fun j hj q hq => hcrit j hj q hq
  have hother : s.hbm.recal.any (fun w => w.1 = stack) = false := by
    simpa only [List.any_eq_false, decide_eq_true_eq] using hnone
  have hok : (decide (stack < 16) && decide (chan < 32)) = true := by simp [hstack, hchan]
  have hexec : exec (.recalibrationWindow stack chan) s = execRecalibrationWindow stack chan s := rfl
  rw [hexec, execRecalibrationWindow, hok]
  refine congrArg Host.Outcome.next (if_neg ?_)
  rw [hwaits, hother, hlost, hphase, decide_eq_true hsrc]
  cases hb : NMap.find s.hbm.recalBeat stack with
  | none =>
    cases hc : NMap.find s.hbm.recalChan (32 * stack + chan) with
    | none => simp
    | some c => simpa using hchanBeat c hc
  | some b =>
    cases hc : NMap.find s.hbm.recalChan (32 * stack + chan) with
    | none => simpa using hstackBeat b hb
    | some c => simpa using ⟨hstackBeat b hb, hchanBeat c hc⟩

theorem exec_recalibrationWindowEnd : exec (.recalibrationWindowEnd stack chan) s =
    .next { s with hbm := { s.hbm with recal := s.hbm.recal.filter (fun w => w ≠ (stack, chan)) } } := by
  have hexec : exec (.recalibrationWindowEnd stack chan) s = execRecalibrationWindowEnd stack chan s := rfl
  simp [hexec, execRecalibrationWindowEnd, onUnit, hstack, hchan]

end

/-- Settles O23: each clause is the lemma of its command; what a burst slot leaves of other pseudo-channels is read back through `setPch_pch`.
That a write's slot leaves memory as it was rests on log 23 (DESIGN CHOICE: its data is in HBM at once) and log 120 (DEDUCED). -/
theorem hbmScheduling : Obligations.HbmScheduling := by
  unfold Obligations.HbmScheduling
  intro s pch hpch
  refine ⟨fun hstate hopen q hcrit => ?slot, exec_hbmBurstSlot_recalibrating hpch, exec_hbmBurstSlot_unused hpch,
    fun id q f0 f1 hq hpatrol => exec_hbmReadData f0 f1 hpch hq hpatrol,
    fun id q f0 f1 e0 e1 hq hpatrol => exec_hbmReadData_patrol f0 f1 hpch hq hpatrol, fun pa f0 f1 hbm hstate => ?patrol,
    fun stack chan hstack hchan hcrit hnone hsrc hlost hphase hstackBeat hchanBeat => ?window, fun stack chan hstack hchan => ?windowEnd⟩
  case slot =>
    refine ⟨_, exec_hbmBurstSlot_serves hpch hstate hopen (pick_critical hcrit _), ?_, ?_, ?_, fun n hn => ?_, rfl, rfl⟩
    · rw [updPch_eq, setPch_pch, if_pos rfl]; rfl
    · rw [updPch_eq, setPch_pch, if_pos rfl]; rfl
    · rw [updPch_eq, setPch_pch, if_pos rfl]
      exact (NMap_find_ins _ _ _ _).trans (if_pos rfl)
    · rw [updPch_eq, setPch_pch, if_neg hn]
  case patrol =>
    refine ⟨_, s.patrolReq pa.toNat f0 f1, exec_patrol f0 f1 hbm hstate, ?_, rfl, rfl, rfl, rfl, fun n hn => ?_, rfl⟩
    · rw [updPch_eq, setPch_pch, if_pos rfl]; rfl
    · rw [updPch_eq, setPch_pch, if_neg hn]; rfl
  case window =>
    obtain ⟨_, htest⟩ := testChannel_bist s stack chan
    have hexec := exec_recalibrationWindow hstack hchan hcrit hnone hsrc hlost hphase hstackBeat hchanBeat
    rw [htest] at hexec
    exact ⟨_, hexec, rfl, (NMap_find_ins _ _ _ _).trans (if_pos rfl), rfl, rfl⟩
  case windowEnd =>
    refine ⟨_, exec_recalibrationWindowEnd hstack hchan, fun w => ?_, rfl, rfl⟩
    simp [List.mem_filter]

end Sys2Proof.Machine
end

section
/-! SUPPORT. A request that arrives at its home: the sectors that HBM has to give, and the four ways it can go on (R233, R235, R245). -/

namespace Sys2Proof.Machine
open Sys2Proof

/-! ## Masks of sectors -/

theorem mem_bitsOf {n v j : Nat} : j ∈ bitsOf n v ↔ j < n ∧ v.testBit j = true := by
  rw [bitsOf, List.mem_filter, List.mem_range]

theorem maskOf_testBit (l : List Nat) (j : Nat) : (maskOf l).testBit j = decide (j ∈ l) := by
  have hfold : ∀ m, (l.foldl (fun m i => m ||| 1 <<< i) m).testBit j = (m.testBit j || decide (j ∈ l)) := by
    induction l with
    | nil => simp
    | cons i l ih =>
      intro m
      have hbit : (1 <<< i).testBit j = decide (j = i) := by
        rw [Nat.one_shiftLeft, Nat.testBit_two_pow]; exact decide_eq_decide.2 eq_comm
      rw [List.foldl_cons, ih, Nat.testBit_or, hbit, Bool.or_assoc, ← Bool.decide_or]
      simp only [List.mem_cons]
  rw [maskOf, hfold, Nat.zero_testBit, Bool.false_or]

/-! ## The sectors that HBM has to give -/

/-- The sectors of a request that have to be read from HBM. -/
def State.missing (s : State) (n : Nat) (r : HomeReq) : BitVec 4 :=
  BitVec.ofNat 4 (maskOf ((bitsOf 4 r.secs.toNat).filter (fun j => s.needsHbm n r.a j r.by_ r.getsec)))

theorem missing_getLsbD (s : State) (n : Nat) (r : HomeReq) {j : Nat} (hj : j < 4) :
    (s.missing n r).getLsbD j = (r.secs.getLsbD j && s.needsHbm n r.a j r.by_ r.getsec) := by
  rw [State.missing, BitVec.getLsbD_ofNat, maskOf_testBit, decide_eq_true hj, Bool.true_and, Bool.eq_iff_iff]
  simp only [decide_eq_true_eq, List.mem_filter, mem_bitsOf, hj, true_and, Bool.and_eq_true, BitVec.getLsbD]

/-- Nothing is missing exactly where HBM has to give none of the request's sectors. -/
theorem missing_eq_zero_iff (s : State) (n : Nat) (r : HomeReq) :
    s.missing n r = 0 ↔ ∀ j, j < 4 → (r.secs.getLsbD j && s.needsHbm n r.a j r.by_ r.getsec) = false := by
  refine ⟨fun h j hj => ?_, fun h => BitVec.eq_of_getLsbD_eq fun j hj => ?_⟩
  · rw [← missing_getLsbD s n r hj, h]; exact BitVec.getLsbD_zero
  · rw [missing_getLsbD s n r hj, h j hj]; exact BitVec.getLsbD_zero.symm

/-! ## The ways of a request -/

/-- Poison that a request without a miss register meets noted before the request goes on (R431, R433). -/
def State.noteArrival (s : State) (n : Nat) (r : HomeReq) : State :=
  if (bitsOf 4 r.secs.toNat).any (fun j =>
    !(s.missing n r).getLsbD j && (s.homeSector { getsec := r.getsec } n r.a j r.by_).1.poison ≠ 0) then s.metPoisonAt (128 * r.a) else s

/-- How many miss registers of its home a request may find taken: the last four are for requests refused eight times (R233). -/
def missLimit (tries : Nat) : Nat := if tries ≥ 8 then 128 else 124

/-- A request in the waiter list of its line, with the sectors that it adds (R235). -/
def State.joinMiss (s : State) (n : Nat) (r : HomeReq) (c : Instr) (more : BitVec 4) : State :=
  (s.updSlice n (fun x => { x with miss := x.miss.map (fun k => if k.a = r.a then
    { k with asked := k.asked ||| more, need := k.need ||| more, waiters := k.waiters ++ [c] } else k) })).askHbm n r more

/-- A request in a miss register of its own, with the sectors that it waits for (R235). -/
def State.takeMiss (s : State) (n : Nat) (r : HomeReq) (c : Instr) (need : BitVec 4) : State :=
  (s.updSlice n (fun x => { x with miss := x.miss ++ [{ a := r.a, asked := need, need := need, waiters := [c] }] })).askHbm n r need

section
variable {s : State} {c : Instr} {r : HomeReq} {tries n : Nat} (hc : homeReq c = some r) (hn : n = s.homeSlice (128 * r.a))
include hc hn

theorem homeEnter_joins {m : Miss} (hm : (s.slice n).miss.find? (fun m => m.a = r.a) = some m) (hw : m.waiters.length < 64) :
    s.homeEnter c tries = s.joinMiss n r c (s.missing n r &&& ~~~m.asked) := by
  subst hn
  simp only [State.homeEnter, hc, hm, if_neg (Nat.not_le.2 hw)]
  rfl

theorem homeEnter_waitersFull {m : Miss} (hm : (s.slice n).miss.find? (fun m => m.a = r.a) = some m) (hw : 64 ≤ m.waiters.length) :
    s.homeEnter c tries = s.refuse n c tries := by
  subst hn
  simp only [State.homeEnter, hc, hm, if_pos hw]

/-- A request whose line has no miss register is refused, served or put in one, after poison that it meets has been noted. -/
theorem homeEnter_unlisted (hm : (s.slice n).miss.find? (fun m => m.a = r.a) = none) :
    s.homeEnter c tries =
      if missLimit tries ≤ ((s.noteArrival n r).slice n).miss.length then (s.noteArrival n r).refuse n c tries
      else if s.missing n r = 0 && !(s.noteArrival n r).lineBlocked r.a then (s.noteArrival n r).homeServe 0 c
      else (s.noteArrival n r).takeMiss n r c (s.missing n r) := by
  subst hn
  simp only [State.homeEnter, hc, hm]
  rfl

end

/-! ## What noting poison leaves -/

variable {s t : State}

theorem interrupt_seq (s : State) (v : Nat) : (s.interrupt v).seq = s.seq := by
  unfold State.interrupt
  dsimp only
  split
  · rfl
  · split <;> rfl

theorem putRecord_seq (s : State) (i : Nat) (r : Record) : (s.putRecord i r).seq = s.seq := by
  unfold State.putRecord
  dsimp only
  split
  · exact hostWrite_seq _ _ _ _
  · exact (interrupt_seq _ _).trans (hostWrite_seq _ _ _ _)

theorem event_seq (s : State) (i : Nat) (r : Record) : (s.event i r).seq = s.seq := by
  unfold State.event
  dsimp only
  split
  · rfl
  · split
    · exact putRecord_seq s i r
    · split <;> rfl

theorem eventLater_seq (s : State) (i : Nat) (r : Record) : (s.eventLater i r).seq = s.seq := by
  unfold State.eventLater
  split
  · exact event_seq s i r
  · rfl

theorem errRecord_seq (s : State) (code flags : Nat) (u : BitVec 32) (detail : Nat) (dests : List Nat) :
    (s.errRecord code flags u detail dests).seq = s.seq := by
  unfold State.errRecord
  dsimp only
  split
  · exact List.foldlRecOn (motive := fun (t : State) => t.seq = s.seq) _ _ rfl fun t ht i _ => (event_seq t i _).trans ht
  · exact List.foldlRecOn (motive := fun (t : State) => t.seq = s.seq) _ _ rfl fun t ht i _ => (eventLater_seq t i _).trans ht

theorem setPoisoned_seq (s : State) (pa : Nat) : (s.setPoisoned pa).seq = s.seq := by
  have hfailed : ∀ n, (s.regionFailed n pa).seq = s.seq := fun n => by
    unfold State.regionFailed
    split
    · rfl
    · exact errRecord_seq _ _ _ _ _ _
  unfold State.setPoisoned
  split
  · rfl
  · split
    · split
      · exact hfailed _
      · rfl
    · rfl

theorem startRestore_restores (s : State) (pa : Nat) (block : Bool) : s.seq.restores <+: (s.startRestore pa block).seq.restores := by
  unfold State.startRestore
  dsimp only
  generalize alignDown pa (if block = true then 4096 else 128) = p
  split
  · exact List.prefix_refl _
  · split
    · exact List.prefix_refl _
    · exact List.prefix_append _ _

/-- No restore ends when poison is noted. -/
theorem noteArrival_restores (s : State) (n : Nat) (r : HomeReq) : s.seq.restores <+: (s.noteArrival n r).seq.restores := by
  unfold State.noteArrival
  split
  · unfold State.metPoisonAt
    split
    · exact startRestore_restores s _ _
    · rw [setPoisoned_seq]
  · exact List.prefix_refl _

theorem noteArrival_sameHomes (s : State) (n : Nat) (r : HomeReq) : SameHomes s (s.noteArrival n r) :=
  .ite _ ((SameHomes.refl s).metPoisonAt _) (.refl s)

theorem SameHomes.slice (h : SameHomes s t) (k : Nat) : t.slice k = s.slice k := by rw [State.slice, h.slices, State.slice]

theorem SameHomes.homeSlice (h : SameHomes s t) (pa : Nat) : t.homeSlice pa = s.homeSlice pa :=
  homeSlice_congr h.llc (fun k => by rw [h.slice]) pa

/-- A line that waits still waits where the homes are as they were and no restore has ended. -/
theorem SameHomes.lineBlocked (h : SameHomes s t) (hr : s.seq.restores <+: t.seq.restores) {a : Nat} (hb : s.lineBlocked a = true) :
    t.lineBlocked a = true := by
  have hnear : t.nearBusy (128 * a) = s.nearBusy (128 * a) := by rw [State.nearBusy, h.llc, State.nearBusy]
  have hrestoring : s.restoring (128 * a) 128 = true → t.restoring (128 * a) 128 = true := fun hs => by
    obtain ⟨x, hx, hin⟩ := List.any_eq_true.1 hs
    exact List.any_eq_true.2 ⟨x, hr.subset hx, hin⟩
  simp only [State.lineBlocked, Bool.or_eq_true, hnear, h.homeSlice, h.slice] at hb ⊢
  exact hb.imp_left (Or.imp_right hrestoring)

/-! ## What the ways leave of the home -/

theorem joinMiss_slice (s : State) (n : Nat) (r : HomeReq) (c : Instr) (more : BitVec 4) :
    (s.joinMiss n r c more).slice n = { s.slice n with miss := (s.slice n).miss.map (fun k => if k.a = r.a then
      { k with asked := k.asked ||| more, need := k.need ||| more, waiters := k.waiters ++ [c] } else k) } := by
  rw [State.joinMiss, ((SameHomes.refl _).askHbm n r more).slice, updSlice_eq, setSlice_slice, if_pos rfl]

theorem takeMiss_miss (s : State) (n : Nat) (r : HomeReq) (c : Instr) (need : BitVec 4) :
    ((s.takeMiss n r c need).slice n).miss = (s.slice n).miss ++ [{ a := r.a, asked := need, need := need, waiters := [c] }] := by
  rw [State.takeMiss, ((SameHomes.refl _).askHbm n r need).slice, updSlice_eq, setSlice_slice, if_pos rfl]

theorem refuse_slice (s : State) (n : Nat) (c : Instr) (tries : Nat) : (s.refuse n c tries).slice n = { s.slice n with
    refused := (s.slice n).refused ++ [{ id := (s.slice n).nextRefused, request := c, tries := tries + 1, since := s.clock.now }]
    nextRefused := (s.slice n).nextRefused + 1 } := by
  rw [State.refuse, updSlice_eq, setSlice_slice, if_pos rfl]

/-- A request that has to wait is not served at once: a sector is missing, or its line is blocked. -/
theorem noteArrival_waits {n : Nat} {r : HomeReq} (h : s.lineBlocked r.a = true ∨
    ∃ j, j < 4 ∧ r.secs.getLsbD j = true ∧ s.needsHbm n r.a j r.by_ r.getsec = true) :
    (decide (s.missing n r = 0) && !(s.noteArrival n r).lineBlocked r.a) = false := by
  rcases h with hb | ⟨j, hj, hsec, hneed⟩
  · rw [(noteArrival_sameHomes s n r).lineBlocked (noteArrival_restores s n r) hb, Bool.not_true, Bool.and_false]
  · have hmissing : s.missing n r ≠ 0 := fun h0 => by
      have := (missing_eq_zero_iff s n r).1 h0 j hj
      rw [hsec, hneed] at this; cases this
    rw [decide_eq_false hmissing, Bool.false_and]

section
variable {c : Instr} {r : HomeReq} {tries n : Nat} (hc : homeReq c = some r) (hn : n = s.homeSlice (128 * r.a))
  (hm : (s.slice n).miss.find? (fun m => m.a = r.a) = none)
include hc hn hm

/-- A request that has to wait takes a miss register where one is free for it (R233, R235). -/
theorem homeEnter_waits (hwait : s.lineBlocked r.a = true ∨ ∃ j, j < 4 ∧ r.secs.getLsbD j = true ∧ s.needsHbm n r.a j r.by_ r.getsec = true)
    (hroom : (s.slice n).miss.length < missLimit tries) :
    s.homeEnter c tries = (s.noteArrival n r).takeMiss n r c (s.missing n r) := by
  rw [homeEnter_unlisted hc hn hm, (noteArrival_sameHomes s n r).slice, if_neg (Nat.not_le.2 hroom), noteArrival_waits hwait]
  rfl

/-- Where none is free it is refused (R233). -/
theorem homeEnter_noRoom (hfull : missLimit tries ≤ (s.slice n).miss.length) : s.homeEnter c tries = (s.noteArrival n r).refuse n c tries := by
  rw [homeEnter_unlisted hc hn hm, (noteArrival_sameHomes s n r).slice, if_pos hfull]

end

/-! ## Requests of an L2, and refused requests -/

/-- A request command on a line of HBM, of a class of R253, enters. -/
theorem homeCommand_enters {ok : Bool} {c : Instr} {r : HomeReq} (hok : ok = true) (hc : homeReq c = some r)
    (hbm : inHbm (128 * r.a) = true) (hcls : r.cls < 7) : homeCommand ok c s = .next (s.l2Enter c) := by
  simp [homeCommand, onUnit, hok, hc, hbm, hcls]

/-- A request of an L2 whose miss registers are all taken waits there (R230). -/
theorem l2Enter_full {c : Instr} {q : Nat} (hq : l2Request c = some q) (hfull : 256 ≤ (s.cluster q).misses.length) :
    s.l2Enter c = s.updCluster q (fun x => { x with missWait := x.missWait ++ [c] }) := by
  simp only [State.l2Enter, hq]
  exact if_pos hfull

section
variable {slice id : Nat} {q : Refused} (hslice : slice < 256) (hq : (s.slice slice).refused.find? (fun q => q.id = id) = some q)
include hslice hq

theorem exec_retryResponse (hdue : q.since + 43 ≤ s.clock.now) : exec (.retryResponse slice id) s =
    .next (((s.toItsHome q.request).updSlice slice (fun x =>
      { x with refused := x.refused.filter (fun p => p.id ≠ id) })).homeEnter q.request q.tries) := by
  have hexec : exec (.retryResponse slice id) s = execRetryResponse slice id s := rfl
  simp only [hexec, execRetryResponse, onUnit, hslice, decide_true, if_true, hq, if_neg (Nat.not_lt.2 hdue)]

theorem exec_retryResponse_early (hearly : s.clock.now < q.since + 43) : exec (.retryResponse slice id) s = .next s := by
  have hexec : exec (.retryResponse slice id) s = execRetryResponse slice id s := rfl
  simp only [hexec, execRetryResponse, onUnit, hslice, decide_true, if_true, hq, if_pos hearly]

end

/-- Settles O20: which way a request goes say the lemmas on `homeEnter`, and what the way leaves of the home `joinMiss_slice`,
`takeMiss_miss` and `refuse_slice`; poison noted on arrival changes no slice. -/
theorem homeMissRegisters : Obligations.HomeMissRegisters := by
  unfold Obligations.HomeMissRegisters
  intro s c r tries n hc hn
  refine ⟨fun m hm hw => ⟨s.missing n r &&& ~~~m.asked, ?joins, ?fresh⟩, fun m hm hw => homeEnter_waitersFull hc hn hm hw,
    fun hm hwait => ⟨fun hroom => ⟨s.missing n r, fun j hj => missing_getLsbD s n r hj, ?takes⟩, fun hfull => ?refused⟩,
    fun cl pa cls secs hcl hcls hbm hfull => ?l2, fun slice id q hslice hq =>
      ⟨exec_retryResponse hslice hq, exec_retryResponse_early hslice hq⟩⟩
  case joins => rw [homeEnter_joins hc hn hm hw]; exact joinMiss_slice s n r c _
  case fresh => rw [BitVec.and_assoc, BitVec.not_and_self]; exact BitVec.and_zero
  case takes => rw [homeEnter_waits hc hn hm hwait hroom, takeMiss_miss, (noteArrival_sameHomes s n r).slice]
  case refused =>
    rw [homeEnter_noRoom hc hn hm hfull, refuse_slice, (noteArrival_sameHomes s n r).slice]
    exact ⟨rfl, _, rfl, rfl, rfl⟩
  case l2 => exact (homeCommand_enters (decide_eq_true hcl) rfl hbm hcls).trans (congrArg _ (l2Enter_full (c := .gets cl pa cls secs) rfl hfull))

end Sys2Proof.Machine
end

section
/-! SUPPORT. What the homes' transactions leave of the directory and of the L2s' lines (R231 to R248). -/

namespace Sys2Proof.Machine
open Sys2Proof

variable {b s t : State}

/-! ## Operations of the LLC -/

/-- The clusters and every directory are as they were. -/
structure LlcOnly (b t : State) : Prop where
  clusters : t.clusters = b.clusters
  dir : ∀ n, (t.slice n).dir = (b.slice n).dir

theorem LlcOnly.refl (s : State) : LlcOnly s s := ⟨rfl, fun _ => rfl⟩

theorem LlcOnly.ite {u : State} (c : Prop) [Decidable c] (ht : LlcOnly b t) (hu : LlcOnly b u) : LlcOnly b (if c then t else u) := by
  split
  · exact ht
  · exact hu

theorem LlcOnly.of_snd {α : Type} {p : α × State} {a : α} (h : LlcOnly b p.2) (e : p = (a, t)) : LlcOnly b t := by
  rw [e] at h; exact h

/-- A slice changed but for its directory. -/
theorem LlcOnly.updSlice (h : LlcOnly b s) (n : Nat) {f : Slice → Slice} (hf : ∀ x, (f x).dir = x.dir := by intro _; rfl) :
    LlcOnly b (s.updSlice n f) := by
  refine ⟨h.clusters, fun k => ?_⟩
  rw [updSlice_eq, setSlice_slice]
  split
  · rename_i hk; rw [hf, ← hk, h.dir]
  · exact h.dir k

theorem LlcOnly.hbmStore (h : LlcOnly b s) (n pa : Nat) (x : Sector) (bulk : Bool) : LlcOnly b (s.hbmStore n pa x bulk) := by
  have hput : LlcOnly b (s.hbmPut pa x) := .ite _ h ⟨h.clusters, h.dir⟩
  exact .ite _ h ⟨hput.clusters, hput.dir⟩

theorem LlcOnly.mendSector (h : LlcOnly b s) (pa : Nat) (x : Sector) : LlcOnly b (s.mendSector pa x) := by
  refine .ite _ ?_ h
  unfold State.startRestore
  dsimp only
  split
  · exact h
  · exact .ite _ h ⟨h.clusters, h.dir⟩

theorem LlcOnly.askMiss (h : LlcOnly b s) (c : Acc) (n a j : Nat) : LlcOnly b (s.askMiss c n a j) := by
  unfold State.askMiss
  split
  · exact .ite _ h ⟨h.clusters, h.dir⟩
  · exact h

theorem LlcOnly.count (h : LlcOnly b s) (n cls kind k : Nat) : LlcOnly b (s.count n cls kind k) := h.updSlice n

theorem LlcOnly.countBytes32 (h : LlcOnly b s) (c : Acc) (n : Nat) : LlcOnly b (s.countBytes32 c n) := .ite _ (h.count n _ _ _) h

theorem LlcOnly.countHit (h : LlcOnly b s) (c : Acc) (n : Nat) (pinned : Bool) : LlcOnly b (s.countHit c n pinned) :=
  (h.count n _ _ _).countBytes32 c n

theorem LlcOnly.setLine (h : LlcOnly b s) (n : Nat) (l : LlcLine) : LlcOnly b (s.updSlice n (fun x => x.setLine l)) := h.updSlice n

theorem LlcOnly.llcEvict (h : LlcOnly b s) (n : Nat) (l : LlcLine) : LlcOnly b (s.llcEvict n l) := by
  unfold State.llcEvict
  exact (List.foldlRecOn (motive := LlcOnly b) _ _ h fun _ hs _ _ =>
    .ite _ (hs.hbmStore _ _ _ _) (.ite _ ((hs.hbmStore _ _ _ _).mendSector _ _) hs)).updSlice n

theorem LlcOnly.llcAlloc (h : LlcOnly b s) (c : Acc) (n a : Nat) : LlcOnly b (s.llcAlloc c n a).2 := by
  unfold State.llcAlloc
  split
  · exact h
  · rename_i victim _
    dsimp only
    refine LlcOnly.setLine ?_ n _
    cases victim with
    | none => exact .ite _ (h.count n _ _ _) h
    | some v => exact .ite _ ((h.llcEvict n v).count n _ _ _) (h.llcEvict n v)

theorem LlcOnly.pinFill (h : LlcOnly b s) (c : Acc) (n : Nat) (l : LlcLine) : LlcOnly b (s.pinFill c n l).2 := by
  unfold State.pinFill
  split
  · exact h
  · split
    · exact h
    · exact h.count n _ _ _

theorem LlcOnly.llcRead (h : LlcOnly b s) (c : Acc) (n a j : Nat) : LlcOnly b (s.llcRead c n a j).2 := by
  have hask := h.askMiss c n a j
  unfold State.llcRead
  split
  · split
    · exact (h.setLine n _).countHit c n _
    · split
      · exact (h.setLine n _).countHit c n _
      · exact (((hask.pinFill c n _).setLine n _).count n _ _ _).countBytes32 c n
  · have hcount := (hask.count n c.cls (if c.fetched.getLsbD j then 0 else 2) 1).countBytes32 c n
    dsimp only
    split
    · exact hcount
    · split
      · exact ((hcount.llcAlloc c n a).of_snd ‹_›).setLine n _
      · exact (hcount.llcAlloc c n a).of_snd ‹_›

theorem LlcOnly.llcPut (h : LlcOnly b s) (c : Acc) (n a j : Nat) (x : Sector) : LlcOnly b (s.llcPut c n a j x) := by
  unfold State.llcPut
  dsimp only
  split
  · exact h.setLine n _
  · split
    · exact h.hbmStore _ _ _ _
    · split
      · exact ((h.llcAlloc c n a).of_snd ‹_›).setLine n _
      · exact ((h.llcAlloc c n a).of_snd ‹_›).hbmStore _ _ _ _

theorem LlcOnly.writeBack (h : LlcOnly b s) (q n : Nat) (l : L2Line) : LlcOnly b (s.writeBack q n l) :=
  List.foldlRecOn (motive := LlcOnly b) _ _ h fun _ hs _ _ => .ite _ ((hs.llcPut _ _ _ _ _).mendSector _ _) hs

/-! ## Directory entries -/

/-- Every directory entry is as it was. -/
def EntriesKept (b t : State) : Prop := ∀ n a, t.dirEntry n a = b.dirEntry n a

theorem EntriesKept.refl (s : State) : EntriesKept s s := fun _ _ => rfl

theorem EntriesKept.trans (h : EntriesKept b s) (k : EntriesKept s t) : EntriesKept b t := fun n a => (k n a).trans (h n a)

theorem LlcOnly.entriesKept (h : LlcOnly s t) : EntriesKept s t := fun n a => by rw [State.dirEntry, h.dir, State.dirEntry]

theorem SameHomes.entriesKept (h : SameHomes s t) : EntriesKept s t := fun n a => by rw [State.dirEntry, h.slice, State.dirEntry]

theorem dirEntry_a {n a : Nat} {e : DirEntry} (h : s.dirEntry n a = some e) : e.a = a := by simpa using List.find?_some h

/-- A line's entry in front of a directory is the one found for it; the entries of other lines are found as before. -/
theorem find?_entryFront (l : List DirEntry) (e : DirEntry) (a : Nat) :
    (e :: l.filter (fun m => m.a ≠ e.a)).find? (fun m => m.a = a) = if e.a = a then some e else l.find? (fun m => m.a = a) := by
  by_cases h : e.a = a
  · rw [if_pos h, List.find?_cons_of_pos (by simpa using h)]
  · rw [if_neg h, List.find?_cons_of_neg (by simpa using h), List.find?_filter]
    congr 1; funext m
    by_cases hm : m.a = a
    · simp [hm, Ne.symm h]
    · simp [hm]

theorem dirTouch_entriesKept (s : State) (n a : Nat) : EntriesKept s (s.dirTouch n a) := by
  intro k x
  unfold State.dirTouch
  split
  · rename_i e he
    have ha : e.a = a := dirEntry_a he
    rw [State.dirEntry, updSlice_eq, setSlice_slice]
    split
    · rename_i hk
      subst hk ha
      refine (find?_entryFront _ e x).trans ?_
      split
      · rename_i hx; subst hx; exact he.symm
      · rfl
    · rfl
  · rfl

/-- A new entry is the one found for its line (R242). -/
theorem dirPut_dirEntry (s : State) (n : Nat) (e : DirEntry) : (s.dirPut n e).dirEntry n e.a = some e := by
  unfold State.dirPut
  rw [State.dirEntry, updSlice_eq, setSlice_slice, if_pos rfl]
  exact (find?_entryFront _ e e.a).trans (if_pos rfl)

theorem homeSector_entriesKept (s : State) (c : Acc) (n a j : Nat) (except : Option Nat) :
    EntriesKept s (s.homeSector c n a j except).2 := by
  refine (dirTouch_entriesKept s n a).trans ?_
  unfold State.homeSector
  dsimp only
  split
  · exact ((LlcOnly.refl _).countHit c n _).entriesKept
  · exact ((LlcOnly.refl _).llcRead c n a j).entriesKept

theorem l2Fill_entriesKept (s : State) (c : Acc) (q a j : Nat) (l : L2Line) : EntriesKept s (s.l2Fill c q a j l).2 := by
  unfold State.l2Fill
  split
  · exact .refl s
  · exact homeSector_entriesKept s c _ a j _

theorem l2Sectors_entriesKept (s : State) (c : Acc) (q a : Nat) (l : L2Line) (secs : BitVec 4) :
    EntriesKept s (s.l2Sectors c q a l secs).2 :=
  List.foldlRecOn (motive := fun (r : L2Line × State) => EntriesKept s r.2) _ _ (.refl s) fun _ hr j _ => hr.trans (l2Fill_entriesKept _ c q a j _)

/-! ## The copies of one line -/

/-- Every L2's copy of a line is as it was. -/
def CopiesKept (a : Nat) (b t : State) : Prop := ∀ q, t.l2line q a = b.l2line q a

variable {a : Nat}

theorem CopiesKept.refl (a : Nat) (s : State) : CopiesKept a s s := fun _ => rfl

theorem CopiesKept.trans (h : CopiesKept a b s) (k : CopiesKept a s t) : CopiesKept a b t := fun q => (k q).trans (h q)

theorem CopiesKept.ite {u : State} (c : Prop) [Decidable c] (ht : CopiesKept a b t) (hu : CopiesKept a b u) :
    CopiesKept a b (if c then t else u) := by
  split
  · exact ht
  · exact hu

theorem LlcOnly.copiesKept (h : LlcOnly s t) (a : Nat) : CopiesKept a s t := fun q => by
  rw [State.l2line, State.cluster, h.clusters]; rfl

/-- Another line dropped from an L2. -/
theorem l2Drop_copiesKept (s : State) (q : Nat) {x : Nat} (h : a ≠ x) : CopiesKept a s (s.l2Drop q x) := by
  intro k
  by_cases hk : k = q
  · rw [hk, l2Drop_l2line, if_neg h]
  · rw [State.l2line, l2Drop_cluster s x hk]; rfl

theorem invalidate_copiesKept (s : State) {x : Nat} (sharers : BitVec 32) (except : Option Nat) (h : a ≠ x) :
    CopiesKept a s (s.invalidate x sharers except) :=
  List.foldlRecOn (motive := CopiesKept a s) _ _ (.refl a s) fun t ht q _ => .ite _ (ht.trans (l2Drop_copiesKept t q h)) ht

theorem recallEntry_copiesKept (s : State) (n : Nat) {e : DirEntry} (h : a ≠ e.a) : CopiesKept a s (s.recallEntry n e) := by
  have hrecall : CopiesKept a s (s.recall n e.a e.owner) := by
    unfold State.recall
    split
    · exact .refl a s
    · exact (((LlcOnly.refl s).writeBack e.owner n _).copiesKept a).trans (l2Drop_copiesKept _ _ h)
  have hcopies : CopiesKept a s (if e.st = DirState.S then s else s.recall n e.a e.owner) := .ite _ (.refl a s) hrecall
  unfold State.recallEntry State.dirDel
  exact CopiesKept.trans (.ite _ hcopies (hcopies.trans (invalidate_copiesKept _ _ _ h))) fun _ => rfl

/-- A new entry may cost another line its copies, its own line none (R242). -/
theorem dirPut_copiesKept (s : State) (n : Nat) {e : DirEntry} (ha : e.a = a) : CopiesKept a s (s.dirPut n e) := by
  subst ha
  have hevict : ∀ v, ((s.slice n).dirFree e.a).getLast? = some v → e.a ≠ v.a := fun v hv => by
    have hfree := (List.mem_filter.1 (List.mem_of_getLast? hv)).2
    simp only [Bool.and_eq_true, decide_eq_true_eq] at hfree
    exact fun h => hfree.1.1 h.symm
  unfold State.dirPut
  dsimp only
  refine CopiesKept.trans (.ite _ (.refl _ s) ?_) fun _ => rfl
  split
  · rename_i v hv
    exact recallEntry_copiesKept s n (hevict v hv)
  · exact .refl _ s

/-- A Put takes its line from the write-back buffer and leaves the L2s' copies of it (R244). -/
theorem takePut_copiesKept (s : State) (q a : Nat) : CopiesKept a s (s.takePut q a) := by
  unfold State.takePut
  split
  · exact .refl a s
  · rename_i l _
    have hbuffer : ∀ t : State, CopiesKept a t (t.updCluster q (fun x => { x with wb := x.wb.filter (fun m => m.a ≠ a) })) := fun t k => by
      rw [State.l2line, updCluster_eq, setCluster_cluster]
      split
      · rename_i hk; rw [hk]; rfl
      · rfl
    refine CopiesKept.trans ?_ (hbuffer _)
    split
    · rename_i e he
      have hwrite := ((LlcOnly.refl s).writeBack q (s.homeSlice (128 * a)) l).copiesKept a
      have hput := dirPut_copiesKept (s.writeBack q (s.homeSlice (128 * a)) l) (s.homeSlice (128 * a))
        (e := { e with st := .S, owner := 0 }) (show e.a = a from dirEntry_a he)
      exact .ite _ (.ite _ (hwrite.trans hput) (hwrite.trans fun _ => rfl)) (.refl a s)
    · exact .refl a s

theorem takePut_wbline (s : State) (q a : Nat) : (s.takePut q a).wbline q a = none := by
  unfold State.takePut
  split
  · assumption
  · rw [State.wbline, updCluster_eq, setCluster_cluster, if_pos rfl]
    exact List.find?_eq_none.2 fun l hl => by simpa using (List.mem_filter.1 hl).2

end Sys2Proof.Machine
end

section
/-! SUPPORT. Requests served at once: what a home looks at, and what the request commands of clusters and instances then leave (R230 to R248). -/

namespace Sys2Proof.Machine
open Sys2Proof

variable {s t : State}

/-! ## What a home looks at -/

/-- The homes, HBM, the serving part and the lines of every cluster are as they were. -/
structure SameView (s t : State) : Prop extends SameHomes s t where
  seq : t.seq = s.seq
  mem : t.mem = s.mem
  hbm : t.hbm = s.hbm
  l2line : ∀ q a, t.l2line q a = s.l2line q a
  wbline : ∀ q a, t.wbline q a = s.wbline q a

theorem SameView.trans {u : State} (h : SameView s t) (k : SameView t u) : SameView s u :=
  ⟨⟨k.llc.trans h.llc, k.slices.trans h.slices⟩, k.seq.trans h.seq, k.mem.trans h.mem, k.hbm.trans h.hbm,
    fun q a => (k.l2line q a).trans (h.l2line q a), fun q a => (k.wbline q a).trans (h.wbline q a)⟩

theorem MessagesOnly.sameView (h : MessagesOnly s t) : SameView s t := by
  obtain ⟨_, _, _, rfl⟩ := h
  exact ⟨⟨rfl, rfl⟩, rfl, rfl, rfl, fun _ _ => rfl, fun _ _ => rfl⟩

/-- The miss registers of a cluster changed. -/
theorem misses_sameView (s : State) (q : Nat) (f : List Instr → List Instr) :
    SameView s (s.updCluster q (fun x => { x with misses := f x.misses })) := by
  have hcluster : ∀ k, ((s.updCluster q (fun x => { x with misses := f x.misses })).cluster k).l2 = (s.cluster k).l2 ∧
      ((s.updCluster q (fun x => { x with misses := f x.misses })).cluster k).wb = (s.cluster k).wb := fun k => by
    rw [updCluster_eq, setCluster_cluster]
    split
    · rename_i hk; rw [hk]; exact ⟨rfl, rfl⟩
    · exact ⟨rfl, rfl⟩
  exact ⟨⟨rfl, rfl⟩, rfl, rfl, rfl, fun k a => by rw [State.l2line, (hcluster k).1]; rfl,
    fun k a => by rw [State.wbline, (hcluster k).2]; rfl⟩

/-- The sector that the LLC or HBM gives. -/
def State.llcSector (s : State) (n a j : Nat) : Sector :=
  match (s.slice n).line a with
  | some l => if l.dead.getLsbD j then {} else if l.valid.getLsbD j then l.d.get j else s.hbmSector (128 * a + 32 * j)
  | none => s.hbmSector (128 * a + 32 * j)

theorem llcRead_fst (s : State) (c : Acc) (n a j : Nat) : (s.llcRead c n a j).1 = s.llcSector n a j := by
  unfold State.llcRead State.llcSector
  cases (s.slice n).line a with
  | some l =>
    dsimp only
    by_cases hdead : l.dead.getLsbD j = true
    · rw [if_pos hdead, if_pos hdead]
    · rw [if_neg hdead, if_neg hdead]
      by_cases hvalid : l.valid.getLsbD j = true
      · rw [if_pos hvalid, if_pos hvalid]
      · rw [if_neg hvalid, if_neg hvalid]
  | none =>
    dsimp only
    split
    · rfl
    · split <;> rfl

theorem dirTouch_llcSector (s : State) (n a k x j : Nat) : (s.dirTouch n a).llcSector k x j = s.llcSector k x j := by
  unfold State.dirTouch
  split
  · rename_i e _
    have hline : ((s.updSlice n (fun y => { y with dir := e :: y.dir.filter (fun m => m.a ≠ a) })).slice k).line x = (s.slice k).line x := by
      rw [updSlice_eq, setSlice_slice]
      split
      · rename_i hk; rw [hk]; rfl
      · rfl
    unfold State.llcSector
    rw [hline]
    rfl
  · rfl

/-- The home delivers the sector that the owner sends, else what the LLC or HBM gives (R244). -/
theorem homeSector_fst (s : State) (c : Acc) (n a j : Nat) (except : Option Nat) :
    (s.homeSector c n a j except).1 = (s.fromOwner n a j except c.getsec).getD (s.llcSector n a j) := by
  unfold State.homeSector
  dsimp only
  split
  · rename_i h; rw [h]; rfl
  · rename_i h; rw [h, llcRead_fst, dirTouch_llcSector]; rfl

theorem SameView.fromOwner (h : SameView s t) (n a j : Nat) (except : Option Nat) (g : Bool) :
    t.fromOwner n a j except g = s.fromOwner n a j except g := by
  simp only [State.fromOwner, State.ownerLine, h.entriesKept n a, h.l2line, h.wbline]

theorem SameView.pch (h : SameView s t) (k : Nat) : t.pch k = s.pch k := by rw [State.pch, h.hbm, State.pch]

theorem SameView.hbmSector (h : SameView s t) (pa : Nat) : t.hbmSector pa = s.hbmSector pa := by
  unfold State.hbmSector State.lostMask
  dsimp only
  rw [h.pch, h.mem]

theorem SameView.llcSector (h : SameView s t) (n a j : Nat) : t.llcSector n a j = s.llcSector n a j := by
  unfold State.llcSector
  rw [h.slice, h.hbmSector]

theorem SameView.needsHbm (h : SameView s t) (n a j : Nat) (b : Option Nat) (g : Bool) : t.needsHbm n a j b g = s.needsHbm n a j b g := by
  have hown : (fun q => t.l2line q a) = fun q => s.l2line q a := funext fun q => h.l2line q a
  unfold State.needsHbm
  rw [h.fromOwner, h.slice, h.pch, hown]

theorem SameView.lineBlocked (h : SameView s t) (a : Nat) : t.lineBlocked a = s.lineBlocked a := by
  simp only [State.lineBlocked, State.nearBusy, State.restoring, h.llc, h.seq, h.slice, h.homeSlice]

/-! ## A home that serves a line at once -/

/-- A line that no miss register names, which waits for nothing, whose home has a miss register free, and whose sectors the home has, without
poison and without a read of HBM. -/
structure Serves (s : State) (a : Nat) : Prop where
  unlisted : ∀ m ∈ (s.slice (s.homeSlice (128 * a))).miss, m.a ≠ a
  unblocked : s.lineBlocked a = false
  room : (s.slice (s.homeSlice (128 * a))).miss.length < 124
  held : ∀ (b : Option Nat) j g, j < 4 → s.needsHbm (s.homeSlice (128 * a)) a j b g = false
  sound : ∀ (b : Option Nat) j g, j < 4 → (s.homeSector { getsec := g } (s.homeSlice (128 * a)) a j b).1.poison = 0

theorem Serves.same {a : Nat} (h : Serves s a) (hv : SameView s t) : Serves t a := by
  have hhome := hv.homeSlice (128 * a)
  refine ⟨?_, (hv.lineBlocked a).trans h.unblocked, ?_, fun b j g hj => ?_, fun b j g hj => ?_⟩
  · rw [hhome, hv.slice]; exact h.unlisted
  · rw [hhome, hv.slice]; exact h.room
  · rw [hhome, hv.needsHbm]; exact h.held b j g hj
  · rw [hhome, homeSector_fst, hv.fromOwner, hv.llcSector, ← homeSector_fst]; exact h.sound b j g hj

/-- A request for such a line is served as it arrives (R233). -/
theorem homeEnter_serves {c : Instr} {r : HomeReq} (hc : homeReq c = some r) (h : Serves s r.a) : s.homeEnter c 0 = s.homeServe 0 c := by
  have hmissing : s.missing (s.homeSlice (128 * r.a)) r = 0 := (missing_eq_zero_iff _ _ _).2 fun j hj => by
    rw [h.held _ j _ hj, Bool.and_false]
  have hnote : s.noteArrival (s.homeSlice (128 * r.a)) r = s := if_neg <| by
    simp only [List.any_eq_true, mem_bitsOf, not_exists, not_and]
    intro j hj
    rw [h.sound r.by_ j r.getsec hj.1]
    simp
  have hfind : (s.slice (s.homeSlice (128 * r.a))).miss.find? (fun m => m.a = r.a) = none :=
    List.find?_eq_none.2 fun m hm => by simpa using h.unlisted m hm
  rw [homeEnter_unlisted hc rfl hfind, hnote, hmissing, h.unblocked, if_neg (Nat.not_le.2 (show _ < missLimit 0 from h.room))]
  rfl

/-! ## Requests on their way, and served -/

/-- A request that has reached its home: that of an L2 holds one of its miss registers (R230). -/
def State.arriving (s : State) (c : Instr) : State :=
  match l2Request c with
  | none => s.toItsHome c
  | some q => (s.toItsHome c).updCluster q (fun x => { x with misses := x.misses ++ [c] })

theorem toItsHome_messagesOnly (s : State) (c : Instr) : MessagesOnly s (s.toItsHome c) := by
  unfold State.toItsHome
  split
  · exact (MessagesOnly.refl s).dieMessage _ _ _ _ _ _
  · exact .refl s

theorem arriving_sameView (s : State) (c : Instr) : SameView s (s.arriving c) := by
  have hmsgs := (toItsHome_messagesOnly s c).sameView
  unfold State.arriving
  split
  · exact hmsgs
  · exact hmsgs.trans (misses_sameView _ _ (· ++ [c]))

theorem fromHome_sameView (s : State) (q a vc : Nat) : SameView s (s.fromHome q a vc) :=
  ((MessagesOnly.refl s).dieMessage _ _ _ _ _ _).sameView

/-- The end of a request changes nothing that a home looks at: a miss register of its L2 is free again, and the answer is on its way (R230, R244). -/
theorem homeServe_sameView (s : State) (f : BitVec 4) (c : Instr) : SameView (s.homeAct f c) (s.homeServe f c) := by
  have hrefl := (MessagesOnly.refl (s.homeAct f c)).sameView
  have hfree : SameView (s.homeAct f c) (match l2Request c with
      | some q => (s.homeAct f c).updCluster q (fun x => { x with misses := x.misses.erase c })
      | none => s.homeAct f c) := by
    split
    · exact misses_sameView _ _ (·.erase c)
    · exact hrefl
  unfold State.homeServe
  dsimp only
  split
  · exact hfree.trans (fromHome_sameView _ _ _ _)
  · exact hfree

/-- A request command for a line that its home serves at once. -/
theorem exec_serves {ok : Bool} {c : Instr} {r : HomeReq} (hexec : exec c s = homeCommand ok c s) (hok : ok = true) (hc : homeReq c = some r)
    (hbm : inHbm (128 * r.a) = true) (hcls : r.cls < 7) (h : Serves s r.a)
    (hfree : ∀ q, l2Request c = some q → (s.cluster q).misses.length < 256) :
    exec c s = .next ((s.arriving c).homeServe 0 c) := by
  rw [hexec, homeCommand_enters hok hc hbm hcls, ← homeEnter_serves hc (h.same (arriving_sameView s c))]
  unfold State.l2Enter State.arriving
  cases hq : l2Request c with
  | none => rfl
  | some q => exact congrArg _ (if_neg (Nat.not_le.2 (hfree q hq)))

/-! ## Lines filled -/

theorem secBit_getLsbD {i : Nat} (hi : i < 4) (j : Nat) : (secBit j).getLsbD i = decide (i = j) := by
  rw [secBit, BitVec.getLsbD_ofNat, decide_eq_true hi, Bool.true_and, Nat.one_shiftLeft, Nat.testBit_two_pow]
  exact decide_eq_decide.2 eq_comm

/-- A sector made valid is valid after, and no other bit of the line's state has changed. -/
theorem l2Fill_keeps (s : State) (c : Acc) (q a j : Nat) (l : L2Line) :
    (s.l2Fill c q a j l).1.dirty = l.dirty ∧ (s.l2Fill c q a j l).1.valid = l.valid ||| secBit j := by
  unfold State.l2Fill
  split
  · rename_i hvalid
    refine ⟨rfl, BitVec.eq_of_getLsbD_eq fun i hi => ?_⟩
    rw [BitVec.getLsbD_or, secBit_getLsbD hi j]
    by_cases hij : i = j
    · rw [hij, hvalid]; rfl
    · rw [decide_eq_false hij, Bool.or_false]
  · exact ⟨rfl, rfl⟩

/-- The sectors of a mask made valid: the line is the same line in the same state with the same dirty sectors. -/
theorem l2Sectors_line (s : State) (c : Acc) (q a : Nat) (l : L2Line) (secs : BitVec 4) :
    (s.l2Sectors c q a l secs).1.a = l.a ∧ (s.l2Sectors c q a l secs).1.st = l.st ∧ (s.l2Sectors c q a l secs).1.dirty = l.dirty ∧
      (s.l2Sectors c q a l secs).1.valid = l.valid ||| secs := by
  have hfold : ∀ (js : List Nat) (r : L2Line × State),
      let m := (js.foldl (fun (r : L2Line × State) j => r.2.l2Fill c q a j r.1) r).1
      m.a = r.1.a ∧ m.st = r.1.st ∧ m.dirty = r.1.dirty ∧ ∀ i, i < 4 → m.valid.getLsbD i = (r.1.valid.getLsbD i || decide (i ∈ js)) := by
    intro js
    induction js with
    | nil => exact fun r => ⟨rfl, rfl, rfl, fun i _ => by simp⟩
    | cons j js ih =>
      intro r
      obtain ⟨ha, hst⟩ := l2Fill_line r.2 c q a j r.1
      obtain ⟨hdirty, hvalid⟩ := l2Fill_keeps r.2 c q a j r.1
      obtain ⟨ha', hst', hdirty', hvalid'⟩ := ih (r.2.l2Fill c q a j r.1)
      refine ⟨ha'.trans ha, hst'.trans hst, hdirty'.trans hdirty, fun i hi => ?_⟩
      rw [List.foldl_cons, hvalid' i hi, hvalid, BitVec.getLsbD_or, secBit_getLsbD hi j, Bool.or_assoc, ← Bool.decide_or]
      simp only [List.mem_cons]
  obtain ⟨ha, hst, hdirty, hvalid⟩ := hfold (bitsOf 4 secs.toNat) (l, s)
  refine ⟨ha, hst, hdirty, BitVec.eq_of_getLsbD_eq fun i hi => (hvalid i hi).trans ?_⟩
  rw [BitVec.getLsbD_or]
  congr 1
  rw [Bool.eq_iff_iff, decide_eq_true_eq, mem_bitsOf, BitVec.getLsbD]
  exact ⟨And.right, fun h => ⟨hi, h⟩⟩

/-- A line with the sectors of a mask made valid, put in its L2. -/
def State.fillLine (s : State) (c : Acc) (q a : Nat) (l : L2Line) (secs : BitVec 4) : State :=
  (s.l2Sectors c q a l secs).2.l2Put q (s.l2Sectors c q a l secs).1

theorem fillLine_l2line (s : State) (c : Acc) (q : Nat) {a : Nat} {l : L2Line} (secs : BitVec 4) (hl : l.a = a) :
    ∃ m, (s.fillLine c q a l secs).l2line q a = some m ∧ m.st = l.st ∧ m.dirty = l.dirty ∧ m.valid = l.valid ||| secs := by
  obtain ⟨ha, hst, hdirty, hvalid⟩ := l2Sectors_line s c q a l secs
  refine ⟨(s.l2Sectors c q a l secs).1, ?_, hst, hdirty, hvalid⟩
  have hput := l2Put_l2line (s.l2Sectors c q a l secs).2 q (s.l2Sectors c q a l secs).1
  rwa [ha, hl] at hput

theorem fillLine_entriesKept (s : State) (c : Acc) (q a : Nat) (l : L2Line) (secs : BitVec 4) : EntriesKept s (s.fillLine c q a l secs) :=
  (l2Sectors_entriesKept s c q a l secs).trans ((SameHomes.refl _).l2Put q _).entriesKept

/-! ## The requests of a cluster, served -/

/-- The directory entry of a line with one owner and no other copy (R242). -/
def soleEntry (q a : Nat) : DirEntry := { a := a, st := .EM, owner := q, sharers := 0 }

section
variable {q a : Nat}

theorem takePut_none (h : s.wbline q a = none) : s.takePut q a = s := by simp only [State.takePut, h]

theorem homeGetS_none (h : s.dirEntry (s.homeSlice (128 * a)) a = none) :
    s.homeGetS q a = (.E, s.dirPut (s.homeSlice (128 * a)) (soleEntry q a)) := by
  simp only [State.homeGetS, h, soleEntry]

/-- GetM and Upg leave their cluster the sole owner in the directory (R244). -/
theorem homeGetM_dirEntry (s : State) (c : Acc) (q a : Nat) :
    (s.homeGetM c q a).2.2.2.dirEntry (s.homeSlice (128 * a)) a = some (soleEntry q a) := by
  have hgrant : ∀ t : State, (t.dirPut (s.homeSlice (128 * a)) (soleEntry q a)).dirEntry (s.homeSlice (128 * a)) a = some (soleEntry q a) :=
    fun t => dirPut_dirEntry t _ (soleEntry q a)
  unfold State.homeGetM
  dsimp only
  split
  · exact hgrant _
  · split
    · exact hgrant _
    · split
      · have hcounts := fun (t : State) (l : List Nat) (p : Bool) => List.foldlRecOn (motive := LlcOnly t) l
          (fun (t : State) _ => t.countHit c (s.homeSlice (128 * a)) p) (.refl t) fun _ ht _ _ => ht.countHit c _ p
        exact ((hcounts _ _ _).entriesKept _ _).trans (hgrant _)
      · exact hgrant _

theorem takePut_holdsME (s : State) (q a : Nat) : (s.takePut q a).holdsME q a = s.holdsME q a := by
  simp only [State.holdsME, takePut_copiesKept s q a q]

theorem l2Own_dirEntry (c : Acc) (h : s.holdsME q a = false) :
    (s.l2Own c q a).2.2.dirEntry (s.homeSlice (128 * a)) a = some (soleEntry q a) := by
  have hkept := (HomesKept.refl_none s).takePut q a
  have hgrant := homeGetM_dirEntry (s.takePut q a) c q a
  rw [homeSlice_congr hkept.llc hkept.fenced] at hgrant
  have hput : ∀ l, ((((s.takePut q a).homeGetM c q a).2.2.2).l2Put q l).dirEntry (s.homeSlice (128 * a)) a = some (soleEntry q a) :=
    fun l => (((SameHomes.refl _).l2Put q l).entriesKept _ _).trans hgrant
  have hholds := (takePut_holdsME s q a).trans h
  unfold State.l2Own
  dsimp only
  split
  · rename_i l hl
    rw [State.holdsME, hl] at hholds
    rw [if_neg (by simpa using hholds)]
    dsimp only
    exact hput _
  · dsimp only
    exact hput _

/-- A request for ownership leaves the line in M with its cluster the sole owner (R244). -/
theorem serveM_owns (c : Acc) (secs : BitVec 4) (h : s.holdsME q a = false) :
    ((s.serveM c q a secs).l2line q a).map (fun l => l.st) = some .M ∧
      (s.serveM c q a secs).dirEntry (s.homeSlice (128 * a)) a = some (soleEntry q a) := by
  have hserve : s.serveM c q a secs = (s.l2Own c q a).2.2.fillLine c q a (s.l2Own c q a).2.1 secs := by
    simp only [State.serveM, h, Bool.false_eq_true, if_false]
    rfl
  obtain ⟨hline, hM⟩ := l2Own_line s c q a
  obtain ⟨m, hm, hst, -, -⟩ := fillLine_l2line (s.l2Own c q a).2.2 c q secs hline
  rw [hserve]
  refine ⟨?_, (fillLine_entriesKept _ _ _ _ _ _ _ _).trans (l2Own_dirEntry c h)⟩
  rw [hm, Option.map_some, hst, hM]

end

/-- A request for ownership of a line that its home serves at once completes, its cluster the sole owner (R244, R245). -/
theorem exec_owns {c : Instr} {q a cls : Nat} {secs : BitVec 4} (hexec : exec c s = homeCommand (q < 128) c s) (hqc : q < 128)
    (hc : homeReq c = some { a := a, by_ := some q, cls := cls, secs := secs }) (hcls : cls < 7) (hbm : inHbm (128 * a) = true)
    (hrequest : l2Request c = some q) (hact : ∀ t : State, ∃ acc, t.homeAct 0 c = t.serveM acc q a secs) (h : Serves s a)
    (hfree : (s.cluster q).misses.length < 256) (hholds : s.holdsME q a = false) :
    ∃ t, exec c s = .next t ∧ (t.l2line q a).map (fun l => l.st) = some .M ∧
      t.dirEntry (s.homeSlice (128 * a)) a = some (soleEntry q a) := by
  have hview := arriving_sameView s c
  have hafter := homeServe_sameView (s.arriving c) 0 c
  have hholds' : (s.arriving c).holdsME q a = false := by rw [State.holdsME, hview.l2line]; exact hholds
  obtain ⟨acc, hserve⟩ := hact (s.arriving c)
  obtain ⟨hM, hentry⟩ := serveM_owns acc secs hholds'
  rw [← hserve] at hM hentry
  rw [hview.homeSlice] at hentry
  refine ⟨_, exec_serves hexec (decide_eq_true hqc) hc hbm hcls h fun p hp => ?_, ?_, ?_⟩
  · rw [hrequest] at hp; exact Option.some.inj hp ▸ hfree
  · rw [hafter.l2line, hM]
  · rw [hafter.entriesKept, hentry]

section
variable {q cls : Nat} {pa : BitVec 56} {secs : BitVec 4} (f : BitVec 4)

/-- GetS of a line that no L2 holds grants E and notes the owner (R244). -/
theorem homeAct_gets (hl2 : s.l2line q (lineOf pa.toNat) = none) (hwb : s.wbline q (lineOf pa.toNat) = none)
    (hdir : s.dirEntry (s.homeSlice (128 * lineOf pa.toNat)) (lineOf pa.toNat) = none) :
    ((s.homeAct f (.gets q pa cls secs)).l2line q (lineOf pa.toNat)).map (fun l => l.st) = some .E ∧
      (s.homeAct f (.gets q pa cls secs)).dirEntry (s.homeSlice (128 * lineOf pa.toNat)) (lineOf pa.toNat) =
        some (soleEntry q (lineOf pa.toNat)) := by
  have hact : ∃ c, s.homeAct f (.gets q pa cls secs) =
      (s.dirPut (s.homeSlice (128 * lineOf pa.toNat)) (soleEntry q (lineOf pa.toNat))).fillLine c q (lineOf pa.toNat)
        { a := lineOf pa.toNat, st := .E, valid := 0, dirty := 0, d := {} } secs := by
    simp only [State.homeAct, takePut_none hwb, hl2, Option.isSome_none, Bool.false_eq_true, if_false, homeGetS_none hdir]
    exact ⟨_, rfl⟩
  obtain ⟨c, hact⟩ := hact
  obtain ⟨m, hm, hst, -, -⟩ := fillLine_l2line (s.dirPut (s.homeSlice (128 * lineOf pa.toNat)) (soleEntry q (lineOf pa.toNat))) c q
    (l := { a := lineOf pa.toNat, st := .E, valid := 0, dirty := 0, d := {} }) secs rfl
  rw [hact]
  refine ⟨?_, (fillLine_entriesKept _ _ _ _ _ _ _ _).trans (dirPut_dirEntry s _ (soleEntry q (lineOf pa.toNat)))⟩
  rw [hm, Option.map_some, hst]

/-- GetSec adds its sectors to the valid ones of the line (R243, R244). -/
theorem homeAct_getsec {l : L2Line} (hl : s.l2line q (lineOf pa.toNat) = some l) :
    ∃ m, (s.homeAct f (.getsec q pa cls secs)).l2line q (lineOf pa.toNat) = some m ∧ m.st = l.st ∧ m.dirty = l.dirty ∧
      m.valid = l.valid ||| secs := by
  have ha : l.a = lineOf pa.toNat := by simpa using List.find?_some hl
  simp only [State.homeAct, hl]
  exact fillLine_l2line s _ q secs ha

end

/-! ## The requests of agents without a cache, served -/

/-- The sectors of a RdNA, one after the other. -/
def State.readSectors (s : State) (c : Acc) (a : Nat) (l : List Nat) : LineData × State :=
  l.foldl (fun (r : LineData × State) j => (r.1.set j (r.2.rdNA c (128 * a + 32 * j)).1, (r.2.rdNA c (128 * a + 32 * j)).2)) ({}, s)

section
variable {b : State}

/-- The sectors of a RdNA change caches alone. -/
theorem CachesOnly.readSectors (h : CachesOnly b s) (c : Acc) (a : Nat) (l : List Nat) : CachesOnly b (s.readSectors c a l).2 :=
  List.foldlRecOn (motive := fun (r : LineData × State) => CachesOnly b r.2) _ _ h fun _ hr _ _ => hr.homeSector _ _ _ _ _

theorem CachesOnly.atomFar (h : CachesOnly b s) (c : Acc) (q pa n : Nat) (f : Nat → Nat) : CachesOnly b (s.atomFar c q pa n f).2.2 := by
  have hclean : CachesOnly b ((s.takePut q (lineOf pa)).homeClean (lineOf pa)).2 := by
    unfold State.homeClean
    dsimp only
    split
    · exact h.takePut _ _
    · exact (h.takePut _ _).recallEntry _ _
  have hread := (hclean.updSlice (s.homeSlice pa) (fun x =>
    { x with hist := ((lineOf pa, q) :: x.hist.filter (fun e => e.1 ≠ lineOf pa)).take 64 })).llcRead { c with deliver := false }
      (s.homeSlice pa) (lineOf pa) (pa % 128 / 32)
  unfold State.atomFar
  dsimp only
  split
  · exact hread
  · dsimp only
    exact hread.llcPut _ _ _ _ _

end

/-- A RdNA that is served sends its answer, and nothing else (R244). -/
theorem serve_rdna_out (s : State) (inst : Nat) (pa : BitVec 56) (cls : Nat) (secs : BitVec 4) (prio : Prio) :
    ∃ d, ((s.arriving (.rdna inst pa cls secs prio)).homeServe 0 (.rdna inst pa cls secs prio)).out =
      s.out ++ [.homeData (lineOf pa.toNat) secs d] := by
  have hserve : ∃ c d, (s.arriving (.rdna inst pa cls secs prio)).homeServe 0 (.rdna inst pa cls secs prio) =
      (s.readSectors c (lineOf pa.toNat) (bitsOf 4 secs.toNat)).2.send (.homeData (lineOf pa.toNat) secs d) := ⟨_, _, rfl⟩
  obtain ⟨c, d, hserve⟩ := hserve
  exact ⟨d, by rw [hserve, State.send, ((CachesOnly.refl s).readSectors c _ _).out]⟩

theorem homeAct_atomf_out (s : State) (f : BitVec 4) (q : Nat) (pa : BitVec 56) (cls : Nat) (op ty : BitVec 4) (x y : BitVec 256) :
    ∃ old, (s.homeAct f (.atomf q pa cls op ty x y)).out = s.out ++ [.atomResult q pa.toNat old] := by
  unfold State.homeAct State.send
  dsimp only
  rw [((CachesOnly.refl s).atomFar _ q pa.toNat _ _).out]
  exact ⟨_, rfl⟩

/-- A far atomic that is served sends its result, and nothing else (R248). -/
theorem serve_atomf_out (s : State) (q : Nat) (pa : BitVec 56) (cls : Nat) (op ty : BitVec 4) (x y : BitVec 256) :
    ∃ old, ((s.arriving (.atomf q pa cls op ty x y)).homeServe 0 (.atomf q pa cls op ty x y)).out =
      s.out ++ [.atomResult q pa.toNat old] := by
  have harrive : s.arriving (.atomf q pa cls op ty x y) =
      s.updCluster q (fun z => { z with misses := z.misses ++ [.atomf q pa cls op ty x y] }) := rfl
  have hserve : ∀ t : State, t.homeServe 0 (.atomf q pa cls op ty x y) =
      (t.homeAct 0 (.atomf q pa cls op ty x y)).updCluster q (fun z => { z with misses := z.misses.erase (.atomf q pa cls op ty x y) }) :=
    fun _ => rfl
  obtain ⟨old, hold⟩ := homeAct_atomf_out (s.arriving (.atomf q pa cls op ty x y)) 0 q pa cls op ty x y
  refine ⟨old, ?_⟩
  rw [hserve, updCluster_eq, setCluster_out, hold, harrive, updCluster_eq, setCluster_out]

/-- A WrNA is one write of HBM (R246). -/
theorem serve_wrna (s : State) (inst : Nat) (pa : BitVec 56) (cls : Nat) (data : List (BitVec 8)) (bulk : Bool) :
    (s.arriving (.wrna inst pa cls data bulk)).homeServe 0 (.wrna inst pa cls data bulk) =
      s.hbmWrite (s.instAcc inst cls pa.toNat bulk) pa.toNat (clean (data.take (128 - pa.toNat % 128))) := by
  have harrive : s.arriving (.wrna inst pa cls data bulk) = s := rfl
  rw [harrive]
  rfl

theorem MessagesOnly.clusterAcc (h : MessagesOnly s t) (q cls pa : Nat) : t.clusterAcc q cls pa = s.clusterAcc q cls pa := by
  obtain ⟨_, _, _, rfl⟩ := h; rfl

/-- Settles O19: every command is `homeAct` on the state in which its request arrives, up to what no home looks at (`exec_serves`,
`homeServe_sameView`); what `homeAct` leaves says the lemma of each request. That a cluster and a home of another die exchange messages is log
125's (the model's own). -/
theorem homeRequestsServed : Obligations.HomeRequestsServed := by
  unfold Obligations.HomeRequestsServed
  intro s cl pa cls secs hcl hcls hbm hunlisted hblocked hfree hroom hheld hsound
  have hok : decide (cl < 128) = true := decide_eq_true hcl
  have hserves : Serves s (lineOf pa.toNat) := ⟨hunlisted, hblocked, hroom, hheld, hsound⟩
  have hregister : ∀ q, some cl = some q → (s.cluster q).misses.length < 256 := fun q hq => Option.some.inj hq ▸ hfree
  have hview := arriving_sameView s
  have hafter := fun c => homeServe_sameView (s.arriving c) 0 c
  refine ⟨fun hl2 hwb hdir => ?gets, fun hholds c hc => ?owns, fun l hl => ?getsec, ?put, ?dead, fun inst prio hinst => ?rdna,
    fun inst data bulk hinst => ?wrna, fun op ty x y hwell => ?atomf⟩
  case gets =>
    have hsame := hview (.gets cl pa cls secs)
    obtain ⟨hE, hentry⟩ := homeAct_gets (cls := cls) (secs := secs) 0
      ((hsame.l2line _ _).trans hl2) ((hsame.wbline _ _).trans hwb) (by rw [hsame.homeSlice, hsame.entriesKept, hdir])
    rw [hsame.homeSlice] at hentry
    refine ⟨_, exec_serves rfl hok rfl hbm hcls hserves hregister, ?_, ?_⟩
    · rw [(hafter (.gets cl pa cls secs)).l2line, hE]
    · rw [(hafter (.gets cl pa cls secs)).entriesKept, hentry]; rfl
  case owns =>
    rw [List.mem_cons, List.mem_singleton] at hc
    rcases hc with rfl | rfl
    · exact exec_owns rfl hcl rfl hcls hbm rfl (fun _ => ⟨_, rfl⟩) hserves hfree hholds
    · exact exec_owns rfl hcl rfl hcls hbm rfl (fun _ => ⟨_, rfl⟩) hserves hfree hholds
  case getsec =>
    obtain ⟨m, hm, hrest⟩ := homeAct_getsec (cls := cls) (secs := secs) 0 (((hview (.getsec cl pa cls secs)).l2line _ _).trans hl)
    refine ⟨_, m, exec_serves rfl hok rfl hbm hcls hserves hregister, ?_, hrest⟩
    rw [(hafter (.getsec cl pa cls secs)).l2line, hm]
  case put =>
    refine ⟨_, exec_serves rfl hok rfl hbm (Nat.lt_succ_self 6) hserves (fun _ h => nomatch h), ?_⟩
    rw [(hafter (.putLine cl pa)).wbline]
    exact takePut_wbline _ _ _
  case dead =>
    have hmsgs := toItsHome_messagesOnly s (.dead cl pa)
    rw [← hmsgs.clusterAcc]
    exact exec_serves rfl hok rfl hbm (Nat.lt_succ_self 6) hserves (fun _ h => nomatch h)
  case rdna =>
    obtain ⟨d, hd⟩ := serve_rdna_out s inst pa cls secs prio
    exact ⟨_, d, exec_serves rfl (decide_eq_true hinst) rfl hbm hcls hserves (fun _ h => nomatch h), hd⟩
  case wrna =>
    rw [← serve_wrna]
    exact exec_serves rfl (decide_eq_true hinst) rfl hbm hcls hserves (fun _ h => nomatch h)
  case atomf =>
    obtain ⟨old, hold⟩ := serve_atomf_out s cl pa cls op ty x y
    refine ⟨_, old, exec_serves (if_pos hwell) hok rfl hbm hcls hserves hregister, [], [], ?_⟩
    rw [List.append_nil, List.append_nil, hold]

end Sys2Proof.Machine
end

section
/-! SUPPORT. A property that every elementary step of the homes keeps is kept by every request served and every miss settled (R230 to R248). -/

namespace Sys2Proof.Machine
open Sys2Proof

/-! ## Records -/

variable {b s t : State}

theorem RecordsOnly.hbm (h : RecordsOnly b s) : s.hbm = b.hbm := by
  obtain ⟨_, _, _, _, _, rfl⟩ := h; rfl

/-- A weight set without a backing copy that becomes failed writes its bit and its records (R433). -/
theorem RecordsOnly.setPoisoned (h : RecordsOnly b s) (pa : Nat) : RecordsOnly b (s.setPoisoned pa) := by
  have hfailed : ∀ n, RecordsOnly b (s.regionFailed n pa) := fun n => by
    unfold State.regionFailed
    split
    · exact h
    · obtain ⟨_, _, _, _, _, rfl⟩ := h
      exact RecordsOnly.errRecord ⟨_, _, _, _, _, rfl⟩ _ _ _ _ _
  unfold State.setPoisoned
  split
  · exact h
  · split
    · split
      · exact hfailed _
      · exact h
    · exact h

/-! ## Properties that the homes keep: one walk through their operations for every such property -/

/-- A property that the elementary steps of the homes keep: changes of clusters and slices, sectors written to HBM and asked of it, restores,
records, and messages. -/
structure KeptByHomes (P : State → Prop) : Prop where
  updCluster : ∀ {s}, P s → ∀ q f, P (s.updCluster q f)
  updSlice : ∀ {s}, P s → ∀ n f, P (s.updSlice n f)
  hbmStore : ∀ {s}, P s → ∀ n pa x bulk, P (s.hbmStore n pa x bulk)
  askSector : ∀ {s}, P s → ∀ n a j c, P (s.askSector n a j c)
  restores : ∀ {s : State}, P s → ∀ q, P { s with seq := q }
  records : ∀ {s t}, P s → RecordsOnly s t → P t
  messages : ∀ {s t}, P s → MessagesOnly s t → P t

namespace KeptByHomes

variable {P : State → Prop} (hP : KeptByHomes P)

theorem of_snd {α : Type} {p : α × State} {a : α} (h : P p.2) (e : p = (a, t)) : P t := by
  rw [e] at h; exact h

include hP

theorem startRestore (h : P s) (pa : Nat) (block : Bool) : P (s.startRestore pa block) := by
  unfold State.startRestore
  dsimp only
  split
  · exact h
  · exact iteInduction (fun _ => h) fun _ => hP.restores h _

theorem mendSector (h : P s) (pa : Nat) (x : Sector) : P (s.mendSector pa x) :=
  iteInduction (fun _ => hP.startRestore h pa false) fun _ => h

theorem metPoisonAt (h : P s) (pa : Nat) : P (s.metPoisonAt pa) :=
  iteInduction (fun _ => hP.startRestore h pa false) fun _ => hP.records h ((RecordsOnly.refl s).setPoisoned pa)

theorem askMiss (h : P s) (c : Acc) (n a j : Nat) : P (s.askMiss c n a j) := by
  unfold State.askMiss
  split
  · exact hP.askSector h n a j _
  · exact h

theorem askHbm (h : P s) (n : Nat) (r : HomeReq) (secs : BitVec 4) : P (s.askHbm n r secs) :=
  List.foldlRecOn (motive := P) _ _ h fun _ hs j _ => hP.askSector hs n r.a j r.prio

/-! ### Lines and counters of a slice -/

theorem count (h : P s) (n cls kind k : Nat) : P (s.count n cls kind k) := hP.updSlice h n _

theorem countBytes32 (h : P s) (c : Acc) (n : Nat) : P (s.countBytes32 c n) := iteInduction (fun _ => hP.count h n _ _ _) fun _ => h

theorem countHit (h : P s) (c : Acc) (n : Nat) (pinned : Bool) : P (s.countHit c n pinned) := hP.countBytes32 (hP.count h n _ _ _) c n

theorem llcEvict (h : P s) (n : Nat) (l : LlcLine) : P (s.llcEvict n l) := by
  unfold State.llcEvict
  refine hP.updSlice (List.foldlRecOn (motive := P) _ _ h fun t ht j _ => ?_) n _
  have hstore := hP.hbmStore ht n (128 * l.a + 32 * j)
  exact iteInduction (fun _ => hstore _ _) fun _ => iteInduction (fun _ => hP.mendSector (hstore _ _) _ _) fun _ => ht

theorem llcAlloc (h : P s) (c : Acc) (n a : Nat) : P (s.llcAlloc c n a).2 := by
  unfold State.llcAlloc
  split
  · exact h
  · rename_i victim _
    dsimp only
    refine hP.updSlice ?_ n _
    cases victim with
    | none => exact iteInduction (fun _ => hP.count h n _ _ _) fun _ => h
    | some v => exact iteInduction (fun _ => hP.count (hP.llcEvict h n v) n _ _ _) fun _ => hP.llcEvict h n v

theorem pinFill (h : P s) (c : Acc) (n : Nat) (l : LlcLine) : P (s.pinFill c n l).2 := by
  unfold State.pinFill
  split
  · exact h
  · split
    · exact h
    · exact hP.count h n _ _ _

theorem llcRead (h : P s) (c : Acc) (n a j : Nat) : P (s.llcRead c n a j).2 := by
  have hask := hP.askMiss h c n a j
  unfold State.llcRead
  split
  · split
    · exact hP.countHit (hP.updSlice h n _) c n _
    · split
      · exact hP.countHit (hP.updSlice h n _) c n _
      · exact hP.countBytes32 (hP.count (hP.updSlice (hP.pinFill hask c n _) n _) n _ _ _) c n
  · have hcount := hP.countBytes32 (hP.count hask n c.cls (if c.fetched.getLsbD j then 0 else 2) 1) c n
    have halloc := hP.llcAlloc hcount c n a
    dsimp only
    split
    · exact hcount
    · split <;> dsimp only
      · exact hP.updSlice (of_snd halloc ‹_›) n _
      · exact of_snd halloc ‹_›

theorem llcPut (h : P s) (c : Acc) (n a j : Nat) (x : Sector) : P (s.llcPut c n a j x) := by
  have halloc := hP.llcAlloc h c n a
  unfold State.llcPut
  dsimp only
  split
  · exact hP.updSlice h n _
  · split
    · exact hP.hbmStore h n _ _ _
    · split
      · exact hP.updSlice (of_snd halloc ‹_›) n _
      · exact hP.hbmStore (of_snd halloc ‹_›) n _ _ _

theorem writeBack (h : P s) (q n : Nat) (l : L2Line) : P (s.writeBack q n l) :=
  List.foldlRecOn (motive := P) _ _ h fun _ hs _ _ => iteInduction (fun _ => hP.mendSector (hP.llcPut hs _ n _ _ _) _ _) fun _ => hs

/-! ### L2s and the directory -/

theorem l2Put (h : P s) (q : Nat) (l : L2Line) : P (s.l2Put q l) := by
  unfold State.l2Put
  dsimp only
  split
  · exact hP.updCluster h q _
  · split <;> exact hP.updCluster h q _

theorem invalidate (h : P s) (a : Nat) (sharers : BitVec 32) (except : Option Nat) : P (s.invalidate a sharers except) :=
  List.foldlRecOn (motive := P) _ _ h fun _ hs q _ => iteInduction (fun _ => hP.updCluster hs q _) fun _ => hs

theorem recallEntry (h : P s) (n : Nat) (e : DirEntry) : P (s.recallEntry n e) := by
  have hrecall : P (s.recall n e.a e.owner) := by
    unfold State.recall
    split
    · exact h
    · exact hP.updCluster (hP.writeBack h _ n _) _ _
  have howner : P (if e.st = DirState.S then s else s.recall n e.a e.owner) := iteInduction (fun _ => h) fun _ => hrecall
  unfold State.recallEntry State.dirDel
  exact hP.updSlice (iteInduction (fun _ => howner) fun _ => hP.invalidate howner _ _ _) n _

theorem dirPut (h : P s) (n : Nat) (e : DirEntry) : P (s.dirPut n e) := by
  unfold State.dirPut
  dsimp only
  refine hP.updSlice (iteInduction (fun _ => h) fun _ => ?_) n _
  split
  · exact hP.recallEntry h n _
  · exact h

theorem dirTouch (h : P s) (n a : Nat) : P (s.dirTouch n a) := by
  unfold State.dirTouch
  split
  · exact hP.updSlice h n _
  · exact h

/-! ### Actions of a home -/

theorem takePut (h : P s) (q a : Nat) : P (s.takePut q a) := by
  have hwrite := hP.writeBack h q (s.homeSlice (128 * a))
  unfold State.takePut
  split
  · exact h
  · refine hP.updCluster ?_ q _
    split
    · exact iteInduction (fun _ => iteInduction (fun _ => hP.dirPut (hwrite _) _ _) fun _ => hP.updSlice (hwrite _) _ _) fun _ => h
    · exact h

theorem homeSector (h : P s) (c : Acc) (n a j : Nat) (except : Option Nat) : P (s.homeSector c n a j except).2 := by
  have htouch := hP.dirTouch h n a
  unfold State.homeSector
  dsimp only
  split
  · exact hP.countHit htouch c n _
  · exact hP.llcRead htouch c n a j

theorem homeGetS (h : P s) (q a : Nat) : P (s.homeGetS q a).2 := by
  unfold State.homeGetS
  dsimp only
  split
  · exact hP.dirPut h _ _
  · split
    · exact hP.dirPut h _ _
    · exact hP.dirPut h _ _
    · split <;> split <;> exact hP.dirPut (hP.updCluster h _ _) _ _

theorem homeGetM (h : P s) (c : Acc) (q a : Nat) : P (s.homeGetM c q a).2.2.2 := by
  unfold State.homeGetM
  dsimp only
  split
  · exact hP.dirPut h _ _
  · rename_i e _
    have hothers : P (if e.st = DirState.EM then s else s.invalidate a e.sharers (some q)) :=
      iteInduction (fun _ => h) fun _ => hP.invalidate h _ _ _
    split
    · exact hP.dirPut hothers _ _
    · split
      · exact List.foldlRecOn (motive := P) _ _ (hP.dirPut (hP.updCluster hothers _ _) _ _) fun _ hs _ _ => hP.countHit hs c _ _
      · exact hP.dirPut hothers _ _

theorem homeClean (h : P s) (a : Nat) : P (s.homeClean a).2 := by
  unfold State.homeClean
  dsimp only
  split
  · exact h
  · exact hP.recallEntry h _ _

theorem rdNASectors (h : P s) (c : Acc) (a : Nat) (l : List Nat) : P (l.foldl (fun (r : LineData × State) j =>
      (r.1.set j (r.2.rdNA c (128 * a + 32 * j)).1, (r.2.rdNA c (128 * a + 32 * j)).2)) ({}, s)).2 :=
  List.foldlRecOn (motive := fun (r : LineData × State) => P r.2) _ _ h fun _ hr _ _ => hP.homeSector hr c _ _ _ _

theorem wrNA (h : P s) (c : Acc) (pa : Nat) (bs : List PByte) : P (s.wrNA c pa bs) := by
  have hclean := hP.homeClean h (lineOf pa)
  unfold State.wrNA
  dsimp only
  split
  · exact hP.llcPut (hP.count hclean _ _ _ _) _ _ _ _ _
  · exact hP.llcPut (hP.llcRead hclean _ _ _ _) _ _ _ _ _

theorem writeNA (k : Nat) (h : P s) (c : Acc) (pa : Nat) (bs : List PByte) : P (s.writeNA k c pa bs) := by
  induction k generalizing s pa bs with
  | zero => exact h
  | succ k ih =>
    unfold State.writeNA
    split
    · exact h
    · exact ih (hP.wrNA h c pa _) _ _

theorem atomFar (h : P s) (c : Acc) (q pa k : Nat) (f : Nat → Nat) : P (s.atomFar c q pa k f).2.2 := by
  have hclean := hP.homeClean (hP.takePut h q (lineOf pa)) (lineOf pa)
  have hhistory : P (((s.takePut q (lineOf pa)).homeClean (lineOf pa)).2.farHistory (s.homeSlice pa) (lineOf pa) q).2 := by
    unfold State.farHistory
    dsimp only
    exact hP.updSlice hclean _ _
  have hread := hP.llcRead hhistory { c with deliver := false } (s.homeSlice pa) (lineOf pa) (pa % 128 / 32)
  unfold State.atomFar
  dsimp only
  split
  · exact hread
  · exact hP.llcPut hread c _ _ _ _

theorem deadLine (h : P s) (c : Acc) (pa : Nat) : P (s.deadLine c pa) := by
  have hdrop : ∀ n a, P (s.dropCopies n a) := fun n a => by
    unfold State.dropCopies
    split
    · exact hP.updSlice (hP.updCluster (hP.invalidate h _ _ _) _ _) n _
    · exact h
  have hmark : ∀ {t}, P t → ∀ n a dead kept, P (t.markDead c n a dead kept) := fun {t} ht n a dead kept => by
    have halloc := hP.llcAlloc ht { c with pinPage := false } n a
    unfold State.markDead
    split
    · split <;> exact hP.updSlice ht n _
    · refine iteInduction (fun _ => ht) fun _ => ?_
      split
      · exact hP.updSlice (of_snd halloc ‹_›) n _
      · exact List.foldlRecOn (motive := P) _ _ (of_snd halloc ‹_›) fun _ hs _ _ =>
          iteInduction (fun _ => hP.hbmStore hs n _ _ _) fun _ => hs
  unfold State.deadLine
  refine iteInduction (fun _ => h) fun _ => hmark (List.foldlRecOn (motive := P) _ _ (hdrop _ _) fun _ hs _ _ => ?_) _ _ _ _
  exact iteInduction (fun _ => hP.llcPut hs c _ _ _ _) fun _ => hs

/-! ### Requests of a cluster -/

theorem l2Own (h : P s) (c : Acc) (q a : Nat) : P (s.l2Own c q a).2.2 := by
  have htake := hP.takePut h q a
  have hgrant := hP.homeGetM htake c q a
  unfold State.l2Own
  dsimp only
  split
  · split
    · exact hP.l2Put htake q _
    · exact hP.l2Put hgrant q _
  · exact hP.l2Put hgrant q _

theorem l2Sectors (h : P s) (c : Acc) (q a : Nat) (l : L2Line) (secs : BitVec 4) : P (s.l2Sectors c q a l secs).2 := by
  refine List.foldlRecOn (motive := fun (r : L2Line × State) => P r.2) _ _ h fun r hr j _ => ?_
  unfold State.l2Fill
  split
  · exact hr
  · exact hP.homeSector hr c _ a j _

theorem serveM (h : P s) (c : Acc) (q a : Nat) (secs : BitVec 4) : P (s.serveM c q a secs) :=
  iteInduction (fun _ => h) fun _ => hP.l2Put (hP.l2Sectors (hP.l2Own h c q a) c q a _ secs) q _

theorem send (h : P s) (m : OutMsg) : P (s.send m) := hP.messages h ((MessagesOnly.refl s).send m)

theorem homeAct (h : P s) (f : BitVec 4) (c : Instr) : P (s.homeAct f c) := by
  unfold State.homeAct
  split
  · rename_i q pa cls secs
    have htake := hP.takePut h q (lineOf pa.toNat)
    dsimp only
    split
    · exact htake
    · exact hP.l2Put (hP.l2Sectors (hP.homeGetS htake q _) _ q _ _ secs) q _
  · exact hP.serveM h _ _ _ _
  · exact hP.serveM h _ _ _ _
  · split
    · exact h
    · exact hP.l2Put (hP.l2Sectors h _ _ _ _ _) _ _
  · exact hP.takePut h _ _
  · exact hP.deadLine h _ _
  · dsimp only
    exact hP.send (hP.rdNASectors h _ _ _) _
  · exact hP.writeNA _ h _ _ _
  · dsimp only
    exact hP.send (hP.atomFar h _ _ _ _ _) _
  · exact h

/-! ### Requests at a home, and their waiters -/

theorem homeServe (h : P s) (f : BitVec 4) (c : Instr) : P (s.homeServe f c) := by
  have hact := hP.homeAct h f c
  have hserved : P (match l2Request c with
      | some q => (s.homeAct f c).updCluster q (fun x => { x with misses := x.misses.erase c })
      | none => s.homeAct f c) := by
    split
    · exact hP.updCluster hact _ _
    · exact hact
  unfold State.homeServe
  dsimp only
  split
  · exact hP.messages hserved ((MessagesOnly.refl _).dieMessage _ _ _ _ _ _)
  · exact hserved

theorem homeEnter (h : P s) (c : Instr) (tries : Nat) : P (s.homeEnter c tries) := by
  unfold State.homeEnter
  split
  · exact h
  · rename_i r _
    dsimp only
    split
    · exact iteInduction (fun _ => hP.updSlice h _ _) fun _ => hP.askHbm (hP.updSlice h _ _) _ _ _
    · have hnoted : ∀ bad : Bool, P (if bad then s.metPoisonAt (128 * r.a) else s) := fun _ =>
        iteInduction (fun _ => hP.metPoisonAt h _) fun _ => h
      exact iteInduction (fun _ => hP.updSlice (hnoted _) _ _) fun _ =>
        iteInduction (fun _ => hP.homeServe (hnoted _) 0 c) fun _ => hP.askHbm (hP.updSlice (hnoted _) _ _) _ _ _

theorem serveWaiters (h : P s) (f : BitVec 4) (l : List Instr) : P (s.serveWaiters f l) := by
  induction l generalizing s f with
  | nil => exact h
  | cons c l ih =>
    unfold State.serveWaiters
    exact ih (hP.homeServe h f c) _

theorem settleSlice (h : P s) (n : Nat) : P (s.settleSlice n) := by
  have hserved := List.foldlRecOn (motive := P) ((s.slice n).miss.filter (fun m => m.need = 0)) (fun (s : State) m =>
    if s.lineBlocked m.a then s
    else (s.updSlice n (fun x => { x with miss := x.miss.filter (fun k => k.a ≠ m.a) })).serveWaiters 0 m.waiters) h
    fun _ hs m _ => iteInduction (fun _ => hs) fun _ => hP.serveWaiters (hP.updSlice hs n _) 0 m.waiters
  exact List.foldlRecOn (motive := P) _ _ hserved fun _ hs r _ =>
    iteInduction (fun _ => hs) fun _ => hP.homeEnter (hP.updSlice hs n _) r.request r.tries

theorem l2Enter (h : P s) (c : Instr) : P (s.l2Enter c) := by
  have hsent : P (s.toItsHome c) := by
    unfold State.toItsHome
    split
    · exact hP.messages h ((MessagesOnly.refl s).dieMessage _ _ _ _ _ _)
    · exact h
  unfold State.l2Enter
  split
  · exact hP.homeEnter hsent c 0
  · exact iteInduction (fun _ => hP.updCluster h _ _) fun _ => hP.homeEnter (hP.updCluster hsent _ _) c 0

theorem admitL2 (h : P s) (q : Nat) : P (s.admitL2 q) :=
  List.foldlRecOn (motive := P) _ _ h fun _ hs c _ => iteInduction (fun _ => hs) fun _ => hP.l2Enter (hP.updCluster hs q _) c

theorem settleMisses (h : P s) : P s.settleMisses :=
  List.foldlRecOn (motive := P) _ _ (List.foldlRecOn (motive := P) _ _ h fun _ hs n _ => hP.settleSlice hs n) fun _ hs q _ => hP.admitL2 hs q

end KeptByHomes

end Sys2Proof.Machine
end

section
/-! SUPPORT. Fences of pseudo-channels, the retired list and the temperatures of the stacks (R258, R265 to R267, R269, R420). -/

namespace Sys2Proof.Machine
open Sys2Proof

variable {s : State}

/-! ## A pseudo-channel's state -/

/-- Requests that come and go leave every pseudo-channel in the state it was in (R269). -/
theorem updPch_state (s : State) (n : Nat) {f : Pch → Pch} (hf : ∀ p, (f p).state = p.state) (j : Nat) :
    ((s.updPch n f).pch j).state = (s.pch j).state := by
  rw [updPch_eq, setPch_pch]
  split
  · rename_i hj; rw [hf, hj]
  · rfl

theorem hbmStore_state (s : State) (n pa : Nat) (x : Sector) (bulk : Bool) (j : Nat) :
    ((s.hbmStore n pa x bulk).pch j).state = (s.pch j).state := by
  have hput : (s.hbmPut pa x).hbm = s.hbm := by unfold State.hbmPut; dsimp only; split <;> rfl
  unfold State.hbmStore
  dsimp only
  split
  · rfl
  · rw [updPch_state _ _ fun p => by split <;> rfl, hput]
    rfl

theorem askSector_state (s : State) (n a k : Nat) (c : Prio) (j : Nat) : ((s.askSector n a k c).pch j).state = (s.pch j).state := by
  unfold State.askSector
  dsimp only
  split
  · rfl
  · exact updPch_state _ _ (fun p => by cases c <;> rfl) j

/-- No transaction of the homes changes the state of a pseudo-channel. -/
theorem keptByHomes_state (n : Nat) (x : BitVec 2) : KeptByHomes (fun s => (s.pch n).state = x) where
  updCluster h _ _ := h
  updSlice h _ _ := h
  hbmStore h _ _ _ _ := (hbmStore_state _ _ _ _ _ _).trans h
  askSector h _ _ _ _ := (askSector_state _ _ _ _ _ _).trans h
  restores h _ := h
  records h k := by obtain ⟨_, _, _, _, _, rfl⟩ := k; exact h
  messages h k := by obtain ⟨_, _, _, rfl⟩ := k; exact h

/-! ## Fences of pseudo-channels (R265, R267) -/

/-- Reads that are answered with poison leave their pseudo-channel in its state. -/
theorem failReads_state (s : State) (n : Nat) : ((s.failReads n).pch n).state = (s.pch n).state := by
  have hkept := keptByHomes_state n (s.pch n).state
  refine hkept.settleMisses (List.foldlRecOn (motive := fun t : State => (t.pch n).state = _) _ _ ?_ fun t ht q _ => hkept.updSlice ht _ _)
  rw [setPch_pch, if_pos rfl]

/-- The channel entry of a pseudo-channel in the retired list (R266, R267). -/
def State.withChan (s : State) (n : Nat) : State := { s with hbm := { s.hbm with chans := insNat s.hbm.chans n } }

theorem withChan_pch (s : State) (n j : Nat) : (s.withChan n).pch j = s.pch j := rfl

/-- A pseudo-channel out of service, its reads answered and its channel entry written; the records of the fence come after. -/
def State.shutPch (s : State) (n : Nat) : State := ((s.updPch n (fun p => { p with state := 1 })).failReads n).withChan n

theorem mem_insNat {l : List Nat} {k x : Nat} : x ∈ insNat l k ↔ x = k ∨ x ∈ l := by
  induction l with
  | nil => simp [insNat]
  | cons j l ih =>
    rw [insNat]
    split
    · exact List.mem_cons
    · split
      · rename_i hk; simp [hk]
      · simp only [List.mem_cons, ih, or_left_comm]

theorem shutPch_state (s : State) (n : Nat) : ((s.shutPch n).pch n).state = 1 := by
  rw [State.shutPch, withChan_pch, failReads_state, updPch_eq, setPch_pch, if_pos rfl]

theorem shutPch_chans (s : State) (n : Nat) : n ∈ (s.shutPch n).hbm.chans := mem_insNat.2 (.inl rfl)

/-- After a pseudo-channel is out of service its fence only writes records. -/
theorem fencePch_records {n : Nat} (h : (s.pch n).state ≠ 1) : RecordsOnly (s.shutPch n) (s.fencePch n) := by
  unfold State.fencePch
  rw [if_neg h]
  refine RecordsOnly.errRecord (RecordsOnly.errRecord ?_ _ _ _ _ _) _ _ _ _ _
  exact List.foldlRecOn (motive := RecordsOnly (s.shutPch n)) _ _ (.refl _) fun _ ht e _ => ht.event e.1 _

/-- A fenced pseudo-channel returns poison (R267). -/
theorem hbmSector_poison_of_fenced {pa : Nat} (h : (s.pch (pchOf (alignDown pa 32))).state = 1) : (s.hbmSector pa).poison = 3 := if_pos h

theorem exec_pseudoChannelFence {n : Nat} (hn : n < 1024) : exec (.pseudoChannelFence n) s = .next (s.fencePch n) := by
  have hexec : exec (.pseudoChannelFence n) s = execPseudoChannelFence n s := rfl
  simp [hexec, execPseudoChannelFence, onUnit, hn]

/-- HBM.FENCE acts at once where no control command is in progress (R29, R267). -/
theorem exec_hbmFence {n : Nat} (hopen : s.regOpen 0 = true) (hn : n < 1024) (hdrains : s.drains = []) :
    exec (.hbmFence 0 (BitVec.ofNat 32 (2 ^ 31 + n))) s = .next (s.fencePch n) := by
  have hexec : exec (.hbmFence 0 (BitVec.ofNat 32 (2 ^ 31 + n))) s = execHbmFence 0 (BitVec.ofNat 32 (2 ^ 31 + n)) s := rfl
  have hv : (BitVec.ofNat 32 (2 ^ 31 + n)).toNat = 2 ^ 31 + n := by rw [BitVec.toNat_ofNat]; omega
  have hgo : (BitVec.ofNat 32 (2 ^ 31 + n)).getLsbD 31 = true := by
    rw [← BitVec.testBit_toNat, hv, Nat.testBit_two_pow_add_eq]
    simp [Nat.testBit_lt_two_pow (show n < 2 ^ 31 by omega)]
  have hpch : (2 ^ 31 + n) % 1024 = n := by omega
  simp only [hexec, execHbmFence, hopen, hgo, Bool.and_self, if_true, hv, hpch, State.fenceInTurn, hdrains, List.any_nil, Bool.false_eq_true,
    if_false]

/-! ## The retired list (R266, R269) -/

section
variable (hopen : s.regOpen 0 = true) {v : BitVec 32} (hgo : v.getLsbD 31 = true)
include hopen hgo

/-- HBM.RETIRE with UNDO = 0 and CH = 0. -/
theorem exec_hbmRetire (hundo : v.getLsbD 30 = false) (hch : v.getLsbD 29 = false) : exec (.hbmRetire 0 v) s = .next (
    if (s.holder (v.toNat % 2 ^ 19)).isSome then { s with hbm := { s.hbm with result := 1 } }
    else if 4096 ≤ s.hbm.pages.length then { s with hbm := { s.hbm with result := 2 } }
    else { s with hbm := { s.hbm with pages := insNat s.hbm.pages (v.toNat % 2 ^ 19), result := 0 } }) := by
  have hexec : exec (.hbmRetire 0 v) s = execHbmRetire 0 v s := rfl
  rw [hexec, execHbmRetire, hopen, hgo, hundo, hch]; rfl

/-- HBM.RETIRE with UNDO = 1 and CH = 0. -/
theorem exec_hbmRetireUndoPage (hundo : v.getLsbD 30 = true) (hch : v.getLsbD 29 = false) : exec (.hbmRetireUndoPage 0 v) s = .next (
    if s.bringup && s.hbm.pages.contains (v.toNat % 2 ^ 19) then
      { s with hbm := { s.hbm with pages := s.hbm.pages.filter (fun p => p ≠ v.toNat % 2 ^ 19), result := 0 } }
    else { s with hbm := { s.hbm with result := 3 } }) := by
  have hexec : exec (.hbmRetireUndoPage 0 v) s = execHbmRetireUndoPage 0 v s := rfl
  rw [hexec, execHbmRetireUndoPage, hopen, hgo, hundo, hch]; rfl

/-- HBM.RETIRE with UNDO = 1 and CH = 1. -/
theorem exec_hbmRetireUndoChannel (hundo : v.getLsbD 30 = true) (hch : v.getLsbD 29 = true) : exec (.hbmRetireUndoChannel 0 v) s = .next (
    if s.bringup && s.hbm.chans.contains (v.toNat % 1024) then
      { s with hbm := { s.hbm with chans := s.hbm.chans.filter (fun p => p ≠ v.toNat % 1024), result := 0 } }
    else { s with hbm := { s.hbm with result := 3 } }) := by
  have hexec : exec (.hbmRetireUndoChannel 0 v) s = execHbmRetireUndoChannel 0 v s := rfl
  rw [hexec, execHbmRetireUndoChannel, hopen, hgo, hundo, hch]; rfl

end

/-! ## Temperatures (R258, R420) -/

/-- A stack's temperature kept, with the refresh that it asks for. -/
def State.withTemp (s : State) (stack : Nat) (temp : BitVec 16) : State :=
  { s with hbm := { s.hbm with
    temp := NMap.put 0 s.hbm.temp stack temp
    refresh2 := if temp.toInt ≤ 85 * 256 then s.hbm.refresh2 &&& ~~~(BitVec.ofNat 16 (2 ^ stack))
      else s.hbm.refresh2 ||| BitVec.ofNat 16 (2 ^ stack) } }

theorem withTemp_temp (s : State) (stack : Nat) (temp : BitVec 16) : NMap.at (s.withTemp stack temp).hbm.temp stack 0 = temp :=
  NMap_at_put_same _ _ _ _

theorem exec_hbmTemperatureRead {stack : Nat} (hstack : stack < 16) (temp : BitVec 16) : exec (.hbmTemperatureRead stack temp) s = .next (
    if 95 * 256 < temp.toInt ∧ s.hotStack stack = false then
      (s.withTemp stack temp).event 0 (s.record 6 5 0 (stackUnit stack) temp.toNat)
    else s.withTemp stack temp) := by
  have hexec : exec (.hbmTemperatureRead stack temp) s = execHbmTemperatureRead stack temp s := rfl
  have hhot : (s.withTemp stack temp).hotStack stack = decide (95 * 256 < temp.toInt) := by rw [State.hotStack, withTemp_temp]
  rw [hexec, execHbmTemperatureRead, decide_eq_true hstack]
  refine congrArg Host.Outcome.next (if_congr ?_ rfl rfl)
  change ((s.withTemp stack temp).hotStack stack && !s.hotStack stack) = true ↔ _
  simp [hhot]

/-- Settles O24: a fence is `shutPch` and then records; the retired list follows the equations of its commands, the temperatures that of
HBM_TEMPERATURE_READ. That only a crossing of 95 °C writes the event rests on log 50 (the model's reading). -/
theorem hbmFencesAndRetirement : Obligations.HbmFencesAndRetirement := by
  unfold Obligations.HbmFencesAndRetirement
  intro s hopen
  refine ⟨fun pch v hpch hstate hv => ?fence, fun v hgo hundo hch => ?retire, fun v hgo hundo hch => ?undoPage,
    fun v hgo hundo hch => ?undoChannel, fun stack temp hstack => ?temperature⟩
  case fence =>
    have hrecords := fencePch_records hstate
    have hfenced : ((s.fencePch pch).pch pch).state = 1 := by rw [State.pch, hrecords.hbm]; exact shutPch_state s pch
    refine ⟨_, exec_pseudoChannelFence hpch, fun hdrains => hv ▸ exec_hbmFence hopen hpch hdrains, hfenced, ?_, fun pa hpa => ?_⟩
    · rw [hrecords.hbm]; exact shutPch_chans s pch
    · exact hbmSector_poison_of_fenced (hpa ▸ hfenced)
  case retire =>
    rw [exec_hbmRetire hopen hgo hundo hch]
    refine ⟨fun hheld => by rw [if_pos hheld], fun hfree hfull => by rw [hfree]; simp [hfull], fun hfree hroom => ?_⟩
    rw [hfree, if_neg (by simp), if_neg (Nat.not_le.2 hroom)]
    exact ⟨_, rfl, rfl, mem_insNat.2 (.inl rfl), fun p hp => mem_insNat.2 (.inr hp), rfl⟩
  case undoPage =>
    rw [exec_hbmRetireUndoPage hopen hgo hundo hch]
    refine ⟨fun hmode hlisted => ?_, fun hmode => by rw [hmode]; rfl⟩
    rw [hmode, List.contains_iff_mem.2 hlisted]
    exact ⟨_, rfl, rfl, fun p => by simp [List.mem_filter], rfl, rfl⟩
  case undoChannel =>
    rw [exec_hbmRetireUndoChannel hopen hgo hundo hch]
    refine ⟨fun hmode hlisted => ?_, fun hmode => by rw [hmode]; rfl⟩
    rw [hmode, List.contains_iff_mem.2 hlisted]
    exact ⟨_, rfl, rfl, fun p => by simp [List.mem_filter], rfl, rfl⟩
  case temperature =>
    rw [exec_hbmTemperatureRead hstack]
    by_cases hcross : 95 * 256 < temp.toInt ∧ s.hotStack stack = false
    · rw [if_pos hcross]
      refine ⟨_, rfl, ?_, fun hno => ?_, fun _ _ => ⟨_, rfl, withTemp_temp s stack temp, rfl⟩⟩
      · rw [((RecordsOnly.refl _).event 0 _).hbm]; exact withTemp_temp s stack temp
      · rcases hno with hcool | hhot
        · exact absurd hcross.1 (not_lt.2 hcool)
        · rw [hhot] at hcross; cases hcross.2
    · rw [if_neg hcross]
      exact ⟨_, rfl, withTemp_temp s stack temp, fun _ => ⟨rfl, rfl⟩, fun hhigh hwas => absurd ⟨hhigh, hwas⟩ hcross⟩

end Sys2Proof.Machine
end

section
/-! SUPPORT. Margining: where a run starts, and what its end leaves of HBM (R260, R268, R269). -/

namespace Sys2Proof.Machine
open Sys2Proof

variable {s : State}

/-! ## A run starts or is refused (R268, R269) -/

/-- Whether HBM.MCTRL may start a run: in bring-up mode, with no page of the set held, and the fields in range (R268, R269). -/
def State.marginOk (s : State) (v : BitVec 32) : Bool :=
  s.bringup && s.insts.all (fun e => e.2.pagesInSet (v.toNat % 1024 % 128) = 0) && fld v.toNat 10 6 < 36 && -12 ≤ sext 5 (fld v.toNat 22 5)
    && sext 5 (fld v.toNat 22 5) ≤ 12

/-- The fields of HBM.MCTRL kept, with GO or the refusal. -/
def State.withMctrl (s : State) (v : BitVec 32) : State :=
  { s with hbm := { s.hbm with
    mpch := BitVec.ofNat 10 (v.toNat % 1024), mbit := BitVec.ofNat 6 (fld v.toNat 10 6), mdeskew := BitVec.ofNat 6 (fld v.toNat 16 6)
    mvddq := BitVec.ofNat 5 (fld v.toNat 22 5), mgo := s.marginOk v, mrefused := !s.marginOk v } }

/-- A pseudo-channel in service that begins to margin. -/
def Pch.margin (p : Pch) : Pch := if p.state = 0 then { p with state := 2 } else p

/-- A pseudo-channel that margined, back in service. -/
def Pch.endMargin (p : Pch) : Pch := if p.state = 2 then { p with state := 0 } else p

theorem Pch.margin_state (p : Pch) : p.margin.state ≠ 0 := by
  unfold Pch.margin
  split
  · exact (by decide : (2 : BitVec 2) ≠ 0)
  · assumption

section
variable {v : BitVec 32} (hopen : s.regOpen 0 = true) (hgo : v.getLsbD 31 = true)
include hopen hgo

/-- A request during a run is refused (log 72). -/
theorem exec_hbmMargin_running (hrun : s.hbm.mgo = true) :
    exec (.hbmMargin 0 v) s = .next { s with hbm := { s.hbm with mrefused := true } } := by
  have hexec : exec (.hbmMargin 0 v) s = execHbmMargin 0 v s := rfl
  rw [hexec, execHbmMargin, hopen, hgo, hrun]; rfl

theorem exec_hbmMargin_idle (hidle : s.hbm.mgo = false) : exec (.hbmMargin 0 v) s = .next (
    if s.marginOk v then (s.withMctrl v).updPch (v.toNat % 1024) Pch.margin else s.withMctrl v) := by
  have hexec : exec (.hbmMargin 0 v) s = execHbmMargin 0 v s := rfl
  rw [hexec, execHbmMargin, hopen, hgo, hidle]; rfl

end

/-! ## Where HBM holds an address (R260) -/

theorem pchOf_mod (a : Nat) : pchOf a % 128 = a / 2 ^ 21 % 128 := by unfold pchOf; dsimp only; omega

/-- The hemi beside which HBM holds an address is that of its pseudo-channel. -/
theorem hemiOf_eq (a : Nat) : hemiOf a = 2 * (pchOf a / 256) + pchOf a / 128 % 2 := by unfold pchOf; dsimp only; omega

/-- The bytes of a line lie in one pseudo-channel. -/
theorem pchOf_congr {a b : Nat} (h : a / 128 = b / 128) : pchOf a = pchOf b := by
  have hpage : a / 2 ^ 21 = b / 2 ^ 21 := by omega
  rw [pchOf, pchOf, hemiOf, hemiOf, h, hpage]

/-! ## The end of a run (R268) -/

theorem NMap_find_filter {α : Type} (p : Nat → Bool) (m : NMap α) (k : Nat) :
    NMap.find (m.filter (fun e => p e.1)) k = if p k then NMap.find m k else none := by
  induction m with
  | nil => simp [NMap.find]
  | cons e m ih =>
    obtain ⟨j, x⟩ := e
    rw [List.filter_cons, NMap.find, apply_ite (NMap.find · k), NMap.find, ih]
    by_cases hk : j = k
    · subst hk
      by_cases hj : p j = true <;> simp [hj]
    · simp [hk]

/-- One value set at several keys. -/
theorem NMap_find_foldl_ins {α β : Type} (f : β → Nat) (x : α) (l : List β) (m : NMap α) (k : Nat) (h : ∃ b ∈ l, f b = k) :
    NMap.find (l.foldl (fun m b => NMap.ins m (f b) x) m) k = some x := by
  induction l using List.reverseRecOn with
  | nil => simp at h
  | append_singleton l b ih =>
    rw [List.foldl_append, List.foldl_cons, List.foldl_nil, NMap_find_ins]
    split
    · rfl
    · rename_i hb
      obtain ⟨c, hc, rfl⟩ := h
      rcases List.mem_append.1 hc with hc | hc
      · exact ih ⟨c, hc, rfl⟩
      · exact absurd (congrArg f (List.mem_singleton.1 hc)) hb

/-- The key under which the seed of a pseudo-channel's k-th page stands (R260). -/
def seedKey (n k : Nat) : Nat := 8 * (128 * k + n % 128) + (2 * (n / 256) + n / 128 % 2)

theorem seedKey_pchOf (a : Nat) : seedKey (pchOf a) (a / 2 ^ 28) = 8 * (a / 2 ^ 21) + hemiOf a := by
  rw [seedKey, pchOf_mod, hemiOf_eq]; omega

/-- The seeds after a run: a new one for every page of the pseudo-channel that margined. -/
def State.lostAfter (s : State) : NMap Nat :=
  (List.range 4096).foldl (fun m k => NMap.ins m (seedKey s.hbm.mpch.toNat k) s.clock.free) s.mem.lost

/-- Memory after a run: of the pseudo-channel that margined neither bytes nor poison are left. -/
def State.memAfterMargin (s : State) : Mem :=
  { s.mem with
    hbm := s.mem.hbm.filter (fun c => !decide (pchOf c.1 = s.hbm.mpch.toNat))
    hbmPoison := s.mem.hbmPoison.filter (fun g => !decide (pchOf (16 * g) = s.hbm.mpch.toNat))
    lost := s.lostAfter }

/-- The state after a run. -/
def State.endMargin (s : State) (errs : Nat) : State :=
  let t := s.updPch s.hbm.mpch.toNat Pch.endMargin
  { t with
    clock := { s.clock with free := s.clock.free + 1 }
    hbm := { t.hbm with mgo := false, merrs := BitVec.ofNat 16 (min 0xFFFF errs) }
    mem := s.memAfterMargin }

theorem exec_hbmMarginDone (errs : Nat) (hrun : s.hbm.mgo = true) : exec (.hbmMarginDone errs) s = .next (s.endMargin errs) := by
  have hexec : exec (.hbmMarginDone errs) s = execHbmMarginDone errs s := rfl
  rw [hexec, execHbmMarginDone, if_pos hrun]; rfl

theorem endMargin_mem (errs : Nat) : (s.endMargin errs).mem = s.memAfterMargin := rfl

theorem endMargin_pch (errs j : Nat) : (s.endMargin errs).pch j = (s.updPch s.hbm.mpch.toNat Pch.endMargin).pch j := rfl

/-- A byte of HBM as listed after a run: none of the pseudo-channel that margined, the others as they were. -/
theorem memAfterMargin_byte (a : Nat) :
    NMap.at s.memAfterMargin.hbm a 0 = if pchOf a = s.hbm.mpch.toNat then 0 else NMap.at s.mem.hbm a 0 := by
  have hfind := NMap_find_filter (fun k => !decide (pchOf k = s.hbm.mpch.toNat)) s.mem.hbm a
  by_cases ha : pchOf a = s.hbm.mpch.toNat
  · simp only [ha, decide_true, Bool.not_true, Bool.false_eq_true, if_false] at hfind
    rw [if_pos ha]; exact congrArg (·.getD 0) hfind
  · simp only [ha, decide_false, Bool.not_false, if_true] at hfind
    rw [if_neg ha]; exact congrArg (·.getD 0) hfind

section
variable {a : Nat} (ha : pchOf a = s.hbm.mpch.toNat)
include ha

theorem memAfterMargin_poison : a / 16 ∉ s.memAfterMargin.hbmPoison := fun hmem => by
  have hgranule : pchOf (16 * (a / 16)) = pchOf a := pchOf_congr (by omega)
  have hkept := (List.mem_filter.1 hmem).2
  rw [hgranule, ha] at hkept
  simp at hkept

/-- Every address of the pseudo-channel that margined has the new seed. -/
theorem memAfterMargin_lost (hbm : inHbm a = true) :
    NMap.find s.memAfterMargin.lost (8 * (a / 2 ^ 21) + hemiOf a) = some s.clock.free := by
  have hlt : a < 2 ^ 40 := by simpa [inHbm] using hbm
  have hpage : a / 2 ^ 28 ∈ List.range 4096 := by rw [List.mem_range]; omega
  have hlost : s.memAfterMargin.lost = s.lostAfter := by rw [State.memAfterMargin]
  rw [hlost, State.lostAfter, NMap_find_foldl_ins]
  exact ⟨_, hpage, ha ▸ seedKey_pchOf a⟩

end

theorem ofLe_replicate_zero (n : Nat) : ofLe (List.replicate n 0) = 0 := by
  induction n with
  | zero => rfl
  | succ n ih => rw [List.replicate_succ, ofLe, ih]; rfl

/-- A sector of the pseudo-channel that margined reads as free bytes. -/
theorem endMargin_sector {a : Nat} (errs : Nat) (ha : pchOf a = s.hbm.mpch.toNat) (hbm : inHbm a = true) (halign : a % 32 = 0) :
    ((s.endMargin errs).hbmSector a).data = BitVec.ofNat 256 (ofLe ((List.range 32).map (fun i => Config.freeByte s.clock.free (a + i)))) := by
  have hself : alignDown a 32 = a := by unfold alignDown; omega
  have hbytes : NMap.bytes 0 s.memAfterMargin.hbm a 32 = List.replicate 32 0 := by
    refine List.eq_replicate_iff.2 ⟨by simp [NMap.bytes], fun b hb => ?_⟩
    obtain ⟨i, hi, rfl⟩ := List.mem_map.1 hb
    have hline : pchOf (a + i) = pchOf a := pchOf_congr (by have := List.mem_range.1 hi; omega)
    rw [memAfterMargin_byte, if_pos (hline.trans ha)]
  have hmask : (s.endMargin errs).lostMask a = ofLe ((List.range 32).map (fun i => Config.freeByte s.clock.free (a + i))) := by
    rw [State.lostMask, endMargin_mem, memAfterMargin_lost ha hbm]
  rw [State.hbmSector, hself, hmask, endMargin_mem, hbytes, ofLe_replicate_zero, Nat.zero_xor]

/-- Settles O25: a request follows `exec_hbmMargin_running` or `exec_hbmMargin_idle`, and the run ends in `endMargin`. That a second GO is
refused while a run is active rests on log 72 (the model's reading). -/
theorem hbmMarginRun : Obligations.HbmMarginRun := by
  unfold Obligations.HbmMarginRun
  intro s v hopen hgo
  refine ⟨exec_hbmMargin_running hopen hgo, fun hidle hmode => ?refused, fun hidle hmode hfree hline hlow hhigh => ?accepted,
    fun errs hrun => ?ended⟩
  case refused =>
    have hno : s.marginOk v = false := by simp [State.marginOk, hmode]
    rw [exec_hbmMargin_idle hopen hgo hidle, hno]
    exact ⟨_, rfl, congrArg not hno, hno, rfl, rfl⟩
  case accepted =>
    have hok : s.marginOk v = true := by simpa [State.marginOk, hmode, hline, hlow, hhigh] using hfree
    rw [exec_hbmMargin_idle hopen hgo hidle, if_pos hok]
    refine ⟨_, rfl, congrArg not hok, hok, ?_, ?_, rfl⟩
    · exact Nat.mod_eq_of_lt (Nat.mod_lt _ (by decide))
    · rw [updPch_eq, setPch_pch, if_pos rfl]; exact Pch.margin_state _
  case ended =>
    rw [exec_hbmMarginDone errs hrun]
    refine ⟨_, rfl, rfl, fun hmargining => ?_, rfl, fun a ha => ?_, fun a hbm ha => ⟨?_, endMargin_sector errs ha hbm⟩, fun a ha => ?_⟩
    · rw [endMargin_pch, updPch_eq, setPch_pch, if_pos rfl, Pch.endMargin, if_pos hmargining]
    · rw [endMargin_mem, memAfterMargin_byte, if_pos ha]
      exact ⟨rfl, memAfterMargin_poison ha⟩
    · rw [endMargin_mem, memAfterMargin_lost ha hbm]
    · rw [endMargin_mem, memAfterMargin_byte, if_neg ha]

end Sys2Proof.Machine
end

section
/-! SUPPORT. What reads and writes of local memory change: caches, directories, HBM and the restores under way, and nothing else of the
serving part (R231 to R247, R431). -/

namespace Sys2Proof.Machine
open Sys2Proof

/-! ## What they change -/

/-- Nothing differs but the clusters' caches, the slices, HBM with its queues, and the restores under way. Where `CachesOnly` lets the whole
serving part differ, this keeps its weight sets and its records' memory. -/
def AccessOnly (b s : State) : Prop :=
  ∃ c l h m rs, s = { b with clusters := c, slices := l, hbm := h, mem := m, seq := { b.seq with restores := rs } }

variable {b s t : State}

theorem AccessOnly.refl (b : State) : AccessOnly b b := ⟨_, _, _, _, _, rfl⟩

theorem AccessOnly.trans (h : AccessOnly b s) (k : AccessOnly s t) : AccessOnly b t := by
  obtain ⟨_, _, _, _, _, rfl⟩ := h
  obtain ⟨c, l, p, m, rs, rfl⟩ := k
  exact ⟨c, l, p, m, rs, rfl⟩

theorem AccessOnly.ite (c : Prop) [Decidable c] (hs : AccessOnly b s) (ht : AccessOnly b t) : AccessOnly b (if c then s else t) :=
  iteInduction (fun _ => hs) fun _ => ht

theorem AccessOnly.of_snd {α : Type} {p : α × State} {a : α} (h : AccessOnly b p.2) (e : p = (a, t)) : AccessOnly b t := by
  rw [e] at h; exact h

theorem AccessOnly.insts (h : AccessOnly b s) : s.insts = b.insts := by obtain ⟨_, _, _, _, _, rfl⟩ := h; rfl

theorem AccessOnly.inst (h : AccessOnly b s) (i : Nat) : s.inst i = b.inst i := by obtain ⟨_, _, _, _, _, rfl⟩ := h; rfl

theorem AccessOnly.begins (h : AccessOnly b s) (i idx ty : Nat) : s.begins i idx ty = b.begins i idx ty := by
  obtain ⟨_, _, _, _, _, rfl⟩ := h; rfl

theorem AccessOnly.wset (h : AccessOnly b s) (n : Nat) : s.wset n = b.wset n := by obtain ⟨_, _, _, _, _, rfl⟩ := h; rfl

theorem AccessOnly.updCluster (h : AccessOnly b s) (q : Nat) (f : Cluster → Cluster) : AccessOnly b (s.updCluster q f) :=
  h.trans ⟨_, _, _, _, _, rfl⟩

theorem AccessOnly.updSlice (h : AccessOnly b s) (n : Nat) (f : Slice → Slice) : AccessOnly b (s.updSlice n f) :=
  h.trans ⟨_, _, _, _, _, rfl⟩

/-! ## HBM and restores -/

theorem AccessOnly.hbmStore (h : AccessOnly b s) (n pa : Nat) (x : Sector) (bulk : Bool) : AccessOnly b (s.hbmStore n pa x bulk) := by
  have hput : AccessOnly b (s.hbmPut pa x) := .ite _ h (h.trans ⟨_, _, _, _, _, rfl⟩)
  exact .ite _ h (hput.trans ⟨_, _, _, _, _, rfl⟩)

theorem AccessOnly.mendSector (h : AccessOnly b s) (pa : Nat) (x : Sector) : AccessOnly b (s.mendSector pa x) := by
  refine .ite _ ?_ h
  unfold State.startRestore
  dsimp only
  split
  · exact h
  · exact .ite _ h (h.trans ⟨_, _, _, _, _, rfl⟩)

theorem AccessOnly.askMiss (h : AccessOnly b s) (c : Acc) (n a j : Nat) : AccessOnly b (s.askMiss c n a j) := by
  unfold State.askMiss State.askSector
  dsimp only
  split
  · exact .ite _ h (h.trans ⟨_, _, _, _, _, rfl⟩)
  · exact h

/-! ## Lines and counters of a slice -/

theorem AccessOnly.count (h : AccessOnly b s) (n cls kind k : Nat) : AccessOnly b (s.count n cls kind k) := h.updSlice _ _

theorem AccessOnly.countBytes32 (h : AccessOnly b s) (c : Acc) (n : Nat) : AccessOnly b (s.countBytes32 c n) := .ite _ (h.count _ _ _ _) h

theorem AccessOnly.countHit (h : AccessOnly b s) (c : Acc) (n : Nat) (pinned : Bool) : AccessOnly b (s.countHit c n pinned) :=
  (h.count _ _ _ _).countBytes32 c n

theorem AccessOnly.llcEvict (h : AccessOnly b s) (n : Nat) (l : LlcLine) : AccessOnly b (s.llcEvict n l) := by
  unfold State.llcEvict
  exact (List.foldlRecOn (motive := AccessOnly b) _ _ h fun _ hs _ _ =>
    .ite _ (hs.hbmStore _ _ _ _) (.ite _ ((hs.hbmStore _ _ _ _).mendSector _ _) hs)).updSlice _ _

theorem AccessOnly.llcAlloc (h : AccessOnly b s) (c : Acc) (n a : Nat) : AccessOnly b (s.llcAlloc c n a).2 := by
  unfold State.llcAlloc
  split
  · exact h
  · rename_i victim _
    have hpinned : ∀ {t}, AccessOnly b t → ∀ (ok : Prop) [Decidable ok], AccessOnly b (if ok then t.count n c.cls 3 1 else t) :=
      fun ht ok _ => .ite ok (ht.count _ _ _ _) ht
    dsimp only
    refine AccessOnly.updSlice ?_ _ _
    cases victim
    · exact hpinned h _
    · exact hpinned (h.llcEvict n _) _

theorem AccessOnly.pinFill (h : AccessOnly b s) (c : Acc) (n : Nat) (l : LlcLine) : AccessOnly b (s.pinFill c n l).2 := by
  unfold State.pinFill
  split
  · exact h
  · split
    · exact h
    · exact h.count _ _ _ _

theorem AccessOnly.llcRead (h : AccessOnly b s) (c : Acc) (n a j : Nat) : AccessOnly b (s.llcRead c n a j).2 := by
  have hask := h.askMiss c n a j
  have hmiss := (hask.count n c.cls (if c.fetched.getLsbD j then 0 else 2) 1).countBytes32 c n
  unfold State.llcRead
  split
  · split
    · exact (h.updSlice _ _).countHit c n _
    · split
      · exact (h.updSlice _ _).countHit c n _
      · exact (((hask.pinFill c n _).updSlice _ _).count _ _ _ _).countBytes32 c n
  · dsimp only
    split
    · exact hmiss
    · split <;> dsimp only
      · exact ((hmiss.llcAlloc c n a).of_snd ‹_›).updSlice _ _
      · exact (hmiss.llcAlloc c n a).of_snd ‹_›

theorem AccessOnly.llcPut (h : AccessOnly b s) (c : Acc) (n a j : Nat) (x : Sector) : AccessOnly b (s.llcPut c n a j x) := by
  unfold State.llcPut
  dsimp only
  split
  · exact h.updSlice _ _
  · split
    · exact h.hbmStore _ _ _ _
    · split
      · exact ((h.llcAlloc c n a).of_snd ‹_›).updSlice _ _
      · exact ((h.llcAlloc c n a).of_snd ‹_›).hbmStore _ _ _ _

/-! ## L2s and the directory -/

theorem AccessOnly.recall (h : AccessOnly b s) (n a x : Nat) : AccessOnly b (s.recall n a x) := by
  unfold State.recall State.writeBack
  split
  · exact h
  · exact (List.foldlRecOn (motive := AccessOnly b) _ _ h fun _ hs _ _ => .ite _ ((hs.llcPut _ _ _ _ _).mendSector _ _) hs).updCluster _ _

theorem AccessOnly.recallEntry (h : AccessOnly b s) (n : Nat) (e : DirEntry) : AccessOnly b (s.recallEntry n e) := by
  have hrecall : AccessOnly b (if e.st = DirState.S then s else s.recall n e.a e.owner) := .ite _ h (h.recall _ _ _)
  unfold State.recallEntry State.dirDel State.invalidate
  exact (AccessOnly.ite _ hrecall (List.foldlRecOn (motive := AccessOnly b) _ _ hrecall fun _ hs _ _ =>
    .ite _ (hs.updCluster _ _) hs)).updSlice _ _

theorem AccessOnly.homeClean (h : AccessOnly b s) (a : Nat) : AccessOnly b (s.homeClean a).2 := by
  unfold State.homeClean
  dsimp only
  split
  · exact h
  · exact h.recallEntry _ _

theorem AccessOnly.rdNA (h : AccessOnly b s) (c : Acc) (pa : Nat) : AccessOnly b (s.rdNA c pa).2 := by
  have htouch : ∀ n a, AccessOnly b (s.dirTouch n a) := fun n a => by
    unfold State.dirTouch
    split
    · exact h.updSlice _ _
    · exact h
  unfold State.rdNA State.homeSector
  dsimp only
  split
  · exact (htouch _ _).countHit _ _ _
  · exact (htouch _ _).llcRead _ _ _ _

theorem AccessOnly.wrNA (h : AccessOnly b s) (c : Acc) (pa : Nat) (bs : List PByte) : AccessOnly b (s.wrNA c pa bs) := by
  have hclean := h.homeClean (lineOf pa)
  exact .ite _ ((hclean.count _ _ _ _).llcPut _ _ _ _ _) ((hclean.llcRead _ _ _ _).llcPut _ _ _ _ _)

/-! ## Runs of bytes -/

theorem AccessOnly.readNA (k : Nat) (h : AccessOnly b s) (c : Acc) (pa n : Nat) : AccessOnly b (s.readNA k c pa n).2 := by
  induction k generalizing s pa n with
  | zero => exact h
  | succ k ih =>
    unfold State.readNA
    split
    · exact h
    · exact ih (h.rdNA c pa) _ _

theorem AccessOnly.hbmRead (h : AccessOnly b s) (c : Acc) (pa n : Nat) : AccessOnly b (s.hbmRead c pa n).2 := h.readNA _ c pa n

theorem AccessOnly.writeNA (k : Nat) (h : AccessOnly b s) (c : Acc) (pa : Nat) (bs : List PByte) : AccessOnly b (s.writeNA k c pa bs) := by
  induction k generalizing s pa bs with
  | zero => exact h
  | succ k ih =>
    unfold State.writeNA
    split
    · exact h
    · exact ih (h.wrNA c pa _) _ _

theorem AccessOnly.hbmWrite (h : AccessOnly b s) (c : Acc) (pa : Nat) (bs : List PByte) : AccessOnly b (s.hbmWrite c pa bs) :=
  h.writeNA _ c pa bs

/-- The entries of the hot-set tables are written to local memory alone (log 100). -/
theorem AccessOnly.writeSet (h : AccessOnly b s) (n : Nat) : AccessOnly b (s.writeSet n) := .ite _ h (h.hbmWrite _ _ _)

theorem AccessOnly.writeSets (h : AccessOnly b s) : AccessOnly b s.writeSets :=
  List.foldlRecOn (motive := AccessOnly b) _ _ h fun _ hs n _ => hs.writeSet n

end Sys2Proof.Machine
end

section
/-! SUPPORT. The sequence store's records: where their pages are read, records taken and written, and the SEQ entries on them (R270 to R273, R280
to R285, R523). -/

namespace Sys2Proof.Machine
open Sys2Proof

variable {s t u : State} {i idx : Nat} {e : Entry} {n : Nat} {r : SeqRec}

/-- A command on one of the 64 instances of the package goes on (R348). -/
theorem onUnit_lt (hi : i < 64) (t : State) : onUnit (i < 64) t = .next t := if_pos (decide_eq_true hi)

/-! ## Page tables read and written (R272, R275) -/

theorem readKeys_accessOnly (s : State) (nodes : NMap Nat) : AccessOnly s (s.readKeys nodes).2 :=
  List.foldlRecOn (motive := fun (acc : Bool × State) => AccessOnly s acc.2) _ _ (.refl s) fun _ hacc _ _ => hacc.hbmRead _ _ _

/-- The reads of a record's page table change caches and memory alone. -/
theorem accessOnly_of_readNodes {bad : Bool} (h : s.readNodes r = (bad, u)) : AccessOnly s u := (readKeys_accessOnly s r.nodes).of_snd h

theorem takeNode_insts {key a : Nat} (h : s.takeNode key = some (a, t)) : t.insts = s.insts := by
  have hset : ∀ {b : Nat} {q : Seq}, some (b, { s with seq := q }) = some (a, t) → t.insts = s.insts := fun hb => by
    cases hb; rfl
  unfold State.takeNode at h
  dsimp only at h
  split at h
  · split at h
    · exact hset h
    · exact hset (Option.ite_none_left_eq_some.1 h).2
  · split at h
    · exact hset h
    · exact hset (Option.ite_none_left_eq_some.1 h).2

/-- Writing a record's nodes leaves the instances as they are, and of the record it changes the nodes alone. -/
theorem syncNodes_spec {old q : SeqRec} (h : s.syncNodes old r = some (q, t)) : t.insts = s.insts ∧ q = { r with nodes := q.nodes } := by
  obtain ⟨x, hgot, hx⟩ := Option.map_eq_some_iff.1 h
  have hgiven : ∀ l : List (Nat × Nat), (l.foldl (fun (s : State) e => s.giveNode e.1 e.2) s).insts = s.insts := fun l =>
    List.foldlRecOn (motive := fun (t : State) => t.insts = s.insts) _ _ rfl fun _ ht _ _ => ht
  have htaken : x.2.insts = s.insts := by
    refine List.foldlRecOn (motive := fun (o : Option (NMap Nat × State)) => ∀ x, o = some x → x.2.insts = s.insts) _ _ ?_ ?_ x hgot
    · intro y hy; cases hy; exact hgiven _
    · intro o ho k _ y hy
      obtain ⟨z, hz, hy⟩ := Option.bind_eq_some_iff.1 hy
      obtain ⟨⟨a, v⟩, hnode, rfl⟩ := Option.map_eq_some_iff.1 hy
      exact (takeNode_insts hnode).trans (ho z hz)
  cases hx
  refine ⟨Eq.trans (AccessOnly.insts ?_) htaken, rfl⟩
  exact List.foldlRecOn (motive := AccessOnly x.2) _ _ (.refl _) fun _ hs _ _ => .ite _ hs (hs.hbmWrite _ _ _)

/-- A record written: of what its owner holds only the table of records differs. -/
theorem putSeq_inst (h : s.putSeq i n r = some t) : ∃ nodes, t.inst i =
    { s.inst i with records := NMap.ins (s.inst i).records n { r with nodes := nodes } } := by
  obtain ⟨⟨q, v⟩, hsync, rfl⟩ := Option.map_eq_some_iff.1 h
  obtain ⟨hinsts, hq⟩ := syncNodes_spec hsync
  have hinst : v.inst i = s.inst i := congrArg (fun m => NMap.at m i ({} : Inst)) hinsts
  refine ⟨q.nodes, ?_⟩
  rw [updInst_eq, setInst_inst, if_pos rfl, hinst, ← hq]

/-! ## Handles (R271) -/

theorem seqOf_congr (hrecords : (t.inst i).records = (s.inst i).records) (hreuse : (t.inst i).reuse = (s.inst i).reuse) (h : Nat) :
    t.seqOf i h = s.seqOf i h := by
  unfold State.seqOf; rw [hrecords, hreuse]

theorem AccessOnly.seqOf (h : AccessOnly s t) (i k : Nat) : t.seqOf i k = s.seqOf i k :=
  seqOf_congr (by rw [h.inst]) (by rw [h.inst]) k

/-- The handle of a record: its number and its reuse count. -/
theorem seqOf_handle (hn : n < 65536) : s.seqOf i (n + (NMap.at (s.inst i).reuse n 0).toNat * 2 ^ 16) =
    (NMap.find (s.inst i).records n).map (fun r => (n, r)) := by
  have hnumber : (n + (NMap.at (s.inst i).reuse n 0).toNat * 2 ^ 16) % 2 ^ 16 = n := by omega
  have hcount : (n + (NMap.at (s.inst i).reuse n 0).toNat * 2 ^ 16) / 2 ^ 16 = (NMap.at (s.inst i).reuse n 0).toNat := by omega
  simp only [State.seqOf, hnumber, hcount, ne_eq, not_true, if_false]

theorem find_of_seqOf {h : Nat} (hseq : s.seqOf i h = some (n, r)) : n = h % 2 ^ 16 ∧ NMap.find (s.inst i).records n = some r := by
  obtain ⟨-, hmap⟩ := Option.ite_none_left_eq_some.1 hseq
  obtain ⟨q, hfind, hq⟩ := Option.map_eq_some_iff.1 hmap
  cases hq
  exact ⟨rfl, hfind⟩

/-- No record is taken where the quota is used up (R270, log 65). -/
theorem takeRecord_full (hquota : min (s.inst i).recq 65536 ≤ (s.inst i).records.length) (r : SeqRec) : s.takeRecord i r = (.error 6, s) := by
  unfold State.takeRecord
  dsimp only
  rw [if_pos hquota]

/-- A number picked is below the bound and passes the test. -/
theorem pickFree_some {m k : Nat} {p : Nat → Bool} (h : s.pickFree m p = (some k, t)) : k < m ∧ p k = true ∧ t = s.draw.2 := by
  obtain ⟨hfound, ht⟩ := Prod.mk.inj h
  obtain ⟨j, hj, rfl⟩ := List.mem_map.1 (List.mem_of_find?_eq_some hfound)
  exact ⟨Nat.mod_lt _ (Nat.zero_lt_of_lt (List.mem_range.1 hj)), List.find?_some hfound, ht.symm⟩

/-- What taking a record leaves: a number that was free is now the record's, its handle made with its reuse count. -/
theorem takeRecord_inst {h : Nat} (hok : s.takeRecord i r = (.ok h, t)) : ∃ n nodes, n < 65536 ∧ NMap.find (s.inst i).records n = none ∧
    h = n + (NMap.at (s.inst i).reuse n 0).toNat * 2 ^ 16 ∧
    t.inst i = { s.inst i with records := NMap.ins (s.inst i).records n { r with nodes := nodes } } := by
  unfold State.takeRecord at hok
  dsimp only at hok
  split at hok
  · cases hok
  · split at hok
    · rename_i n v hpick
      split at hok
      · rename_i w hput
        cases hok
        obtain ⟨hn, hfree, rfl⟩ := pickFree_some hpick
        obtain ⟨nodes, hinst⟩ := putSeq_inst hput
        exact ⟨n, nodes, hn, Option.isNone_iff_eq_none.1 hfree, rfl, hinst⟩
      · cases hok
    · cases hok

/-- A record taken stands under its handle, where none was. -/
theorem takeRecord_seqOf {h : Nat} (hok : s.takeRecord i r = (.ok h, t)) :
    NMap.find (s.inst i).records (h % 2 ^ 16) = none ∧ ∃ nodes, t.seqOf i h = some (h % 2 ^ 16, { r with nodes := nodes }) := by
  obtain ⟨n, nodes, hn, hfree, hh, hinst⟩ := takeRecord_inst hok
  have hnumber : h % 2 ^ 16 = n := by omega
  have hreuse : (t.inst i).reuse = (s.inst i).reuse := by rw [hinst]
  refine ⟨hnumber ▸ hfree, nodes, ?_⟩
  rw [hnumber, hh, ← hreuse, seqOf_handle hn, hinst, NMap_find_ins, if_pos rfl]
  rfl

/-- The records that there were stay under their handles. -/
theorem takeRecord_seqOf_old {h k m : Nat} {q : SeqRec} (hok : s.takeRecord i r = (.ok h, t)) (hold : s.seqOf i k = some (m, q)) :
    t.seqOf i k = some (m, q) := by
  obtain ⟨n, nodes, -, hfree, -, hinst⟩ := takeRecord_inst hok
  obtain ⟨hm, hfind⟩ := find_of_seqOf hold
  have hne : k % 2 ^ 16 ≠ n := fun heq => by rw [← hm.trans heq, hfind] at hfree; cases hfree
  rw [← hold]
  simp only [State.seqOf, hinst, NMap_find_ins, if_neg hne]

/-- A layout changed under its number changes no record. -/
theorem updLayout_seqOf (s : State) (i k h : Nat) (f : Layout → Layout) : (s.updLayout i k f).seqOf i h = s.seqOf i h := by
  unfold State.updLayout
  split
  · exact seqOf_congr (by simp [State.setLayout]) (by simp [State.setLayout]) h
  · rfl

/-! ## Entries on a sequence (R272, R523) -/

section
variable {op : Nat} (f : Entry → Nat → SeqRec → State → State) (he : s.seqEntry i idx op = some e)
include he

theorem onSeq_unnamed (hseq : s.seqOf i (e.f 20 4) = none) : s.onSeq i idx op f = s.complete i idx 0x0201 0 := by
  simp only [State.onSeq, he, hseq]

theorem onSeq_poisoned (hseq : s.seqOf i (e.f 20 4) = some (n, r)) (hheld : s.nodesHeld r = false) (hread : s.readNodes r = (true, u)) :
    s.onSeq i idx op f = u.complete i idx 0x0307 e.moved := by
  simp only [State.onSeq, he, hseq, hheld, hread]; rfl

theorem onSeq_runs (hseq : s.seqOf i (e.f 20 4) = some (n, r)) (hheld : s.nodesHeld r = false) (hread : s.readNodes r = (false, u)) :
    s.onSeq i idx op f = f e n r u := by
  simp only [State.onSeq, he, hseq, hheld, hread]; rfl

end

/-- The SEQ commands that act on the sequence a handle names. -/
theorem exec_onSeq (hi : i < 64) {op : Nat} {c : Instr} (hc : (op, c) ∈ [(3, Instr.seqFree i idx), (4, .seqFork i idx), (5, .seqCommit i idx),
    (6, .seqRollback i idx), (7, .seqEvict i idx), (8, .seqFetch i idx), (9, .seqQuery i idx)]) (s : State) :
    ∃ f, exec c s = .next (s.onSeq i idx op f) := by
  simp only [List.mem_cons, Prod.mk.injEq, List.not_mem_nil, or_false] at hc
  obtain ⟨rfl, rfl⟩ | ⟨rfl, rfl⟩ | ⟨rfl, rfl⟩ | ⟨rfl, rfl⟩ | ⟨rfl, rfl⟩ | ⟨rfl, rfl⟩ | ⟨rfl, rfl⟩ := hc
  all_goals exact ⟨_, onUnit_lt hi _⟩

/-- One more reference of each slot of a list, as a fork takes them (R285). -/
def Layout.addRefs (L : Layout) (slots : List Nat) : Layout :=
  slots.foldl (fun (L : Layout) a => { L with refs := NMap.ins L.refs a (L.refCount a + 1) }) L

/-- The tier 0 slots of some pages. -/
def slotsOf (pages : NMap KvLeaf) : List Nat := (pages.filter (fun p => p.2.tier = 1)).map (fun p => p.2.addr)

section
variable (hi : i < 64)
include hi

/-! ## SEQ_LAYOUT and SEQ_CREATE (R271, R273, R280) -/

theorem exec_seqLayout_bad (he : s.seqEntry i idx 1 = some e)
    (hnone : ∀ r ∈ (s.inst i).records, r.2.layout ≠ fld (e.f 17 1) 0 4) {st : Nat} (hpool : s.slotInHbm 2 i (e.f 40 8) 1 = (.bad st, u)) : exec (.seqLayout i idx) s = .next (u.complete i idx 1 0) := by
  have hunused : (s.inst i).records.any (fun r => r.2.layout = fld (e.f 17 1) 0 4) = false := by simpa using hnone
  refine (onUnit_lt hi _).trans ?_
  simp only [he, hunused, hpool]; rfl

theorem exec_seqLayout (he : s.seqEntry i idx 1 = some e)
    (hnone : ∀ r ∈ (s.inst i).records, r.2.layout ≠ fld (e.f 17 1) 0 4) {bs : List PByte} (hpool : s.slotInHbm 2 i (e.f 40 8) 1 = (.bytes bs, u)) : exec (.seqLayout i idx) s = .next ((u.setLayout i (fld (e.f 17 1) 0 4)
      { lg := e.f 18 2, tb := 128 * e.f 24 4, pool := BitVec.ofNat 56 (e.f 40 8), nslot := e.f 32 4, refs := [],
        zeroing := List.range (e.f 32 4) }).complete i idx 0 0) := by
  have hunused : (s.inst i).records.any (fun r => r.2.layout = fld (e.f 17 1) 0 4) = false := by simpa using hnone
  refine (onUnit_lt hi _).trans ?_
  simp only [he, hunused, hpool]; rfl

/-- SEQ_CREATE on a layout that is set up: the handle of the record taken, or the status with which none is. -/
theorem exec_seqCreate (he : s.seqEntry i idx 2 = some e) (hlayout : (s.layout i (fld (e.f 17 1) 0 4)).isSome = true) {got : Except Nat Nat}
    (hgot : s.takeRecord i { layout := fld (e.f 17 1) 0 4, cl := 0, tc := 0, pages := [], slot := none } = (got, t)) :
    exec (.seqCreate i idx) s = .next (match got with
      | .ok h => t.complete i idx 0 h
      | .error st => t.complete i idx st 0) := by
  refine (onUnit_lt hi _).trans ?_
  simp only [he, Option.isNone_eq_false_iff.2 hlayout, hgot]
  cases got <;> rfl

/-! ## Entries on the sequence that a handle names (R280, R282, R283, R285) -/

variable (hseq : s.seqOf i (e.f 20 4) = some (n, r)) (hheld : s.nodesHeld r = false) (hread : s.readNodes r = (false, u))
include hseq hheld hread

theorem exec_seqFree (he : s.seqEntry i idx 3 = some e) (hslot : r.slot = none) :
    exec (.seqFree i idx) s = .next ((u.freeRecord i n r).complete i idx 0 0) := by
  refine (onUnit_lt hi _).trans (congrArg _ ((onSeq_runs _ he hseq hheld hread).trans ?_))
  rw [hslot]; rfl

/-- SEQ_FORK of committed tokens whose slots can each take one more reference. -/
theorem exec_seqFork (he : s.seqEntry i idx 4 = some e) (hk : e.f 24 4 ≤ r.cl) {L : Layout} (hlayout : u.layout i r.layout = some L)
    {pages : NMap KvLeaf} (hpages : pages = r.pages.filter (fun p => 128 * p.1 < e.f 24 4))
    (hrefs : ∀ a ∈ slotsOf pages, L.refCount a < 65535) {h : Nat}
    (hgot : u.takeRecord i { layout := r.layout, cl := e.f 24 4, tc := 0, pages := pages, slot := none } = (.ok h, t)) :
    exec (.seqFork i idx) s = .next ((t.updLayout i r.layout (fun L => L.addRefs (slotsOf pages))).complete i idx 0 h) := by
  have hroom : (slotsOf pages).any (fun a => L.refCount a ≥ 65535) = false := by simpa using hrefs
  subst hpages
  refine (onUnit_lt hi _).trans (congrArg _ ((onSeq_runs _ he hseq hheld hread).trans ?_))
  simp only [slotsOf] at hroom
  simp only [if_neg (Nat.not_lt.2 hk), hlayout, hroom, hgot]
  rfl

theorem exec_seqCommit (he : s.seqEntry i idx 5 = some e) (hk : e.f 24 4 ≤ r.tc) : exec (.seqCommit i idx) s =
    .next ((u.setSeq i n { r with cl := r.cl + e.f 24 4, tc := r.tc - e.f 24 4 }).complete i idx 0 (r.cl + e.f 24 4)) :=
  (onUnit_lt hi _).trans (congrArg _ ((onSeq_runs _ he hseq hheld hread).trans (if_neg (Nat.not_lt.2 hk))))

theorem exec_seqQuery (he : s.seqEntry i idx 9 = some e) : exec (.seqQuery i idx) s =
    .next (u.complete i idx 0 (r.cl + r.tc * 2 ^ 64 + r.layout * 2 ^ 72 + r.slot.getD 0xFFFF * 2 ^ 80)) :=
  (onUnit_lt hi _).trans (congrArg _ (onSeq_runs _ he hseq hheld hread))

end

/-- Settles O27: each clause is the lemma of its entry; what CREATE and FORK leave under a handle is `takeRecord_seqOf`, and what they leave
of the other records `takeRecord_seqOf_old`. -/
theorem sequenceRecords : Obligations.SequenceRecords := by
  unfold Obligations.SequenceRecords
  intro s i idx e hi
  refine ⟨fun he hnone => ⟨fun bs u hpool => exec_seqLayout hi he hnone hpool, fun st u hpool => exec_seqLayout_bad hi he hnone hpool⟩,
    fun he hlayout => ⟨fun h t hgot => ?create, fun hquota => ?quota⟩, fun op c hc he => ?handle, fun n r u hseq hheld hread => ?runs⟩
  case create =>
    obtain ⟨hfree, nodes, hnew⟩ := takeRecord_seqOf hgot
    exact ⟨exec_seqCreate hi he hlayout hgot, congrArg (Option.map _) hnew, hfree⟩
  case quota => exact exec_seqCreate hi he hlayout (takeRecord_full hquota _)
  case handle =>
    obtain ⟨f, hexec⟩ := exec_onSeq hi hc s
    exact ⟨fun hseq => hexec.trans (congrArg _ (onSeq_unnamed f he hseq)),
      fun n r u hseq hheld hread => hexec.trans (congrArg _ (onSeq_poisoned f he hseq hheld hread))⟩
  case runs =>
    refine ⟨exec_seqFree hi hseq hheld hread, fun he hk L h t hlayout hrefs hgot => ?_, exec_seqCommit hi hseq hheld hread,
      exec_seqQuery hi hseq hheld hread⟩
    have hslots : ∀ a ∈ slotsOf (r.pages.filter (fun p => 128 * p.1 < e.f 24 4)), L.refCount a < 65535 := fun a ha => by
      obtain ⟨p, hp, rfl⟩ := List.mem_map.1 ha
      simp only [List.mem_filter, decide_eq_true_eq] at hp
      exact hrefs p hp.1.1 hp.1.2 hp.2
    obtain ⟨-, nodes, hnew⟩ := takeRecord_seqOf hgot
    have hold : u.seqOf i (e.f 20 4) = some (n, r) := ((accessOnly_of_readNodes hread).seqOf i _).trans hseq
    exact ⟨_, exec_seqFork hi hseq hheld hread he hk hlayout rfl hslots hgot, congrArg (Option.map _) ((updLayout_seqOf _ _ _ _ _).trans hnew),
      (updLayout_seqOf _ _ _ _ _).trans (takeRecord_seqOf_old hgot hold)⟩

end Sys2Proof.Machine
end

section
/-! SUPPORT. Page sets that move: roll-back, eviction, fetch, slots zeroed and the step boundary (R272 to R278, R280, R284, R289, R454). -/

namespace Sys2Proof.Machine
open Sys2Proof

variable {s t u : State} {i idx : Nat} {e : Entry} {n : Nat} {r : SeqRec}

/-! ## Completions: what they leave of the instances (R333) -/

theorem interrupt_inst (s : State) (v j : Nat) : (s.interrupt v).inst j = s.inst j := by
  unfold State.interrupt
  dsimp only
  split
  · rfl
  · split <;> rfl

theorem hostWrite_inst (s : State) (i bus : Nat) (bs : List Byte) (j : Nat) : (s.hostWrite i bus bs).inst j = s.inst j :=
  congrArg (fun m => NMap.at m j ({} : Inst)) (hostWrite_insts s i bus bs)

section
variable {α : Type} {P : Inst → α} (hP : ∀ x g, P { x with ring := g } = P x)
include hP

theorem updRing_inst (s : State) (i j : Nat) (f : Ring → Ring) : P ((s.updInst i (fun x => { x with ring := f x.ring })).inst j) = P (s.inst j) := by
  rw [updInst_eq, setInst_inst]
  split
  · rename_i hj; rw [hj]; exact hP _ _
  · rfl

theorem cqInterrupt_inst (s : State) (i j : Nat) : P ((s.cqInterrupt i).inst j) = P (s.inst j) := by
  unfold State.cqInterrupt
  dsimp only
  split
  · rfl
  · split
    · rw [interrupt_inst]
    · split
      · rw [interrupt_inst]; exact updRing_inst hP s i j (fun g => { g with cqPending := 0, cqFirst := none })
      · exact updRing_inst hP s i j (fun g => { g with cqPending := (s.inst i).ring.cqPending + 1, cqFirst := some (g.cqFirst.getD s.clock.now) })

/-- A completion written changes one ring, and nothing else of the instances. -/
theorem putCompletion_inst (s : State) (i tag status ty : Nat) (noirq : Bool) (result j : Nat) :
    P ((s.putCompletion i tag status ty noirq result).inst j) = P (s.inst j) := by
  have hwritten : ∀ bus bs, P (((s.hostWrite i bus bs).updInst i (fun x => { x with ring := { x.ring with cqtail := x.ring.cqtail + 1 } })).inst j) =
      P (s.inst j) := fun bus bs =>
    (updRing_inst hP _ i j (fun g => { g with cqtail := g.cqtail + 1 })).trans (congrArg P (hostWrite_inst s i bus bs j))
  unfold State.putCompletion
  dsimp only
  split
  · exact hwritten _ _
  · exact (cqInterrupt_inst hP _ i j).trans (hwritten _ _)

/-- What a completion leaves beside its rings: the entry off the list, and its status kept for the entries that name it (R182). -/
theorem complete_inst (he : s.entry i idx = some e) (status result : Nat) : P ((s.complete i idx status result).inst i) =
    P { s.inst i with
      entries := (s.inst i).entries.filter (fun e => e.index.toNat ≠ idx)
      launchLog := (s.inst i).launchLog.map (fun p => if p.1.toNat = idx then (p.1, some (BitVec.ofNat 16 status)) else p) } := by
  simp only [State.complete, he]
  split
  · rw [updInst_eq, setInst_inst, if_pos rfl]
  · rw [putCompletion_inst hP, updInst_eq, setInst_inst, if_pos rfl]

end

/-- An entry that completes leaves the list of fetched entries. -/
theorem complete_entry (s : State) (i idx status result : Nat) : (s.complete i idx status result).entry i idx = none := by
  cases he : s.entry i idx with
  | none => simp only [State.complete, he]
  | some e =>
    refine (complete_inst (P := fun x => x.entries.find? (fun e : Entry => e.index.toNat = idx)) (fun _ _ => rfl) he status result).trans ?_
    simp

/-- An entry that completes changes no sequence record. -/
theorem complete_records (s : State) (i idx status result : Nat) : ((s.complete i idx status result).inst i).records = (s.inst i).records := by
  cases he : s.entry i idx with
  | none => simp only [State.complete, he]
  | some e => exact complete_inst (P := Inst.records) (fun _ _ => rfl) he status result

/-! ## Entries changed, and the store's reads -/

theorem updEntry_seqOf (s : State) (i idx k : Nat) (f : Entry → Entry) : (s.updEntry i idx f).seqOf i k = s.seqOf i k :=
  seqOf_congr (by simp [State.updEntry]) (by simp [State.updEntry]) k

theorem updEntry_layout (s : State) (i idx k : Nat) (f : Entry → Entry) : (s.updEntry i idx f).layout i k = s.layout i k := by
  simp [State.layout, State.updEntry]

theorem updEntry_depsMet (s : State) (i idx own : Nat) (f : Entry → Entry) (tags : List (BitVec 16)) (dfail : Bool) :
    (s.updEntry i idx f).depsMet i own tags dfail = s.depsMet i own tags dfail := by
  simp [State.depsMet, State.updEntry]

theorem AccessOnly.seqEntry (h : AccessOnly s t) (i idx op : Nat) : t.seqEntry i idx op = s.seqEntry i idx op :=
  congrArg (Option.filter _) (h.begins i idx 3)

theorem AccessOnly.layout (h : AccessOnly s t) (i k : Nat) : t.layout i k = s.layout i k :=
  congrArg (fun x : Inst => NMap.find x.layouts k) (h.inst i)

/-! ## Roll-back (R284) -/

/-- A roll-back that is done keeps the committed length, no tentative token, and the page sets of committed tokens alone. -/
theorem rollback_spec {bs : List PByte} {q : SeqRec} (h : s.rollback i idx r = (.bytes bs, q, t)) :
    q.cl = r.cl ∧ q.tc = 0 ∧ ∀ p ∈ q.pages, 128 * p.1 < r.cl := by
  unfold State.rollback at h
  split at h
  · cases h
  · dsimp only at h
    obtain ⟨-, hrest⟩ := Prod.mk.inj h
    obtain ⟨hq, -⟩ := Prod.mk.inj hrest
    subst hq
    refine ⟨rfl, rfl, fun p hp => ?_⟩
    have := of_decide_eq_true (List.mem_filter.1 hp).2
    omega

section
variable (hi : i < 64)
include hi

/-! ## Slots zeroed (R274, R291) -/

theorem exec_slotZeroed {layout slotNo : Nat} {L : Layout} (hL : s.layout i layout = some L) (hslot : slotNo ∈ L.zeroing)
    (hworking : s.working = true) (hstep : s.stepUnderWay i = false) {bs : List PByte}
    (hwrite : s.storeWrite i (2 ^ 32) (L.slotAddr slotNo) (zeros L.psb) = (.bytes bs, t)) :
    exec (.slotZeroed i layout slotNo) s = .next (t.updLayout i layout (fun L => { L with zeroing := L.zeroing.erase slotNo })) := by
  have hwaits : (!L.zeroing.contains slotNo || !s.working || s.stepUnderWay i) = false := by simp [hslot, hworking, hstep]
  refine (onUnit_lt hi _).trans ?_
  simp only [hL, hwaits, hwrite]; rfl

/-! ## SEQ_ROLLBACK, SEQ_EVICT and SEQ_FETCH (R276 to R278, R280, R284) -/

section
variable (hseq : s.seqOf i (e.f 20 4) = some (n, r)) (hheld : s.nodesHeld r = false) (hread : s.readNodes r = (false, u))
include hseq hheld hread

theorem exec_seqRollback (he : s.seqEntry i idx 6 = some e) {bs : List PByte} {q : SeqRec} (hback : u.rollback i idx r = (.bytes bs, q, t)) :
    exec (.seqRollback i idx) s = .next ((t.setSeq i n q).complete i idx 0 q.cl) := by
  refine (onUnit_lt hi _).trans (congrArg _ ((onSeq_runs _ he hseq hheld hread).trans ?_))
  simp only [hback]

theorem exec_seqEvict_ungranted (he : s.seqEntry i idx 7 = some e) (hvariant : u.variant.getLsbD 3 = false) :
    exec (.seqEvict i idx) s = .next (u.complete i idx 4 0) := by
  refine (onUnit_lt hi _).trans (congrArg _ ((onSeq_runs _ he hseq hheld hread).trans ?_))
  rw [hvariant]; rfl

theorem exec_seqEvict (he : s.seqEntry i idx 7 = some e) (hvariant : u.variant.getLsbD 3 = true) :
    exec (.seqEvict i idx) s = .next (u.evictN (2 * (pagesIn e r (fun t => t = 1)).length + 1) i idx) := by
  refine (onUnit_lt hi _).trans (congrArg _ ((onSeq_runs _ he hseq hheld hread).trans ?_))
  rw [hvariant]; rfl

theorem exec_seqFetch (he : s.seqEntry i idx 8 = some e) :
    exec (.seqFetch i idx) s = .next (u.fetchN ((pagesIn e r (fun t => t ≠ 1)).length + 1) i idx) :=
  (onUnit_lt hi _).trans (congrArg _ (onSeq_runs _ he hseq hheld hread))

end
end

/-- An eviction with nothing left in tier 0 ends with the page sets that it moved. -/
theorem evictN_done {k : Nat} (he : s.seqEntry i idx 7 = some e) (hseq : s.seqOf i (e.f 20 4) = some (n, r))
    (hpages : pagesIn e r (fun t => t = 1) = []) :
    s.evictN (k + 1) i idx = (s.updEntry i idx (fun e => { e with started := true })).complete i idx 0 e.moved := by
  rw [State.evictN]
  simp only [he, updEntry_seqOf, hseq, hpages]

/-- An eviction whose writes are acknowledged moves the leaf of its first page set in tier 0 and goes on (R275, R277). -/
theorem evictN_acknowledged {k p : Nat} {l : KvLeaf} {ps : List (Nat × KvLeaf)} {L : Layout} {v : State}
    (he : s.seqEntry i idx 7 = some e) (hseq : s.seqOf i (e.f 20 4) = some (n, r)) (hpages : pagesIn e r (fun t => t = 1) = (p, l) :: ps)
    (hL : s.layout i r.layout = some L) (happlied : e.applied = true) (hremote : e.remote = []) (hgood : e.wbad = none)
    (hv : v = s.updEntry i idx (fun e => { e with started := true })) :
    s.evictN (k + 1) i idx = State.evictN k (((v.setSeq i n { r with pages := NMap.ins r.pages p (KvLeaf.mk (fld (e.f 17 1) 4 2)
      (alignDown (e.f 40 8 + (p - e.f 28 4) * stride L.psb) 256) ((s.inst i).evn - 1)) }).updLayout i r.layout (fun L => L.dropRef l.addr)).updEntry i idx
        (fun e => { e with applied := false, moved := e.moved + 1 })) i idx := by
  have hevn : (v.inst i).evn = (s.inst i).evn := by subst hv; simp [State.updEntry]
  have hlayout : v.layout i r.layout = some L := by subst hv; rw [updEntry_layout, hL]
  have hsame : v.seqOf i (e.f 20 4) = some (n, r) := by subst hv; rw [updEntry_seqOf, hseq]
  rw [State.evictN]
  simp only [he, ← hv, hsame, hpages, hlayout, happlied, hremote, hgood, hevn]
  rfl

/-- A fetch with nothing left outside tier 0 ends with the page sets that it moved. -/
theorem fetchN_done {k : Nat} (he : s.seqEntry i idx 8 = some e) (hseq : s.seqOf i (e.f 20 4) = some (n, r))
    (hpages : pagesIn e r (fun t => t ≠ 1) = []) :
    s.fetchN (k + 1) i idx = s.complete i idx 0 e.moved := by
  rw [State.fetchN]
  simp only [he, hseq, hpages]

/-! ## The step boundary (R289) -/

/-- A STEP that has begun, whose dependencies are met and whose list is read, comes to its boundary. -/
theorem exec_stepBoundary (hi : i < 64) (he : s.begins i idx 4 = some e) (happlied : e.applied = false)
    (hdeps : s.depsMet i idx (e.tags 44 (fld (e.f 30 1) 0 3)) true ≠ none) {bs : List PByte}
    (hread : (s.updEntry i idx (fun e => { e with started := true })).readList i idx e = (.bytes bs, t)) :
    exec (.stepBoundary i idx) s = .next (t.boundary i idx e (plain bs)) := by
  obtain ⟨ok, hok⟩ := Option.ne_none_iff_exists'.1 hdeps
  refine (onUnit_lt hi _).trans ?_
  simp only [he, happlied, updEntry_depsMet, hok, hread]
  rfl

/-- The list of a STEP with no records. -/
theorem stepList_none (hn : e.f 24 2 + e.f 26 2 + e.f 28 2 = 0) (bs : List Byte) : stepList e bs = ⟨[], [], []⟩ := by
  have hleaves : e.f 24 2 = 0 := by omega
  have hjoins : e.f 26 2 = 0 := by omega
  have hruns : e.f 28 2 = 0 := by omega
  simp only [stepList, hleaves, hjoins, hruns]
  rfl

theorem readList_none (s : State) (i idx : Nat) (hn : e.f 24 2 + e.f 26 2 + e.f 28 2 = 0) : s.readList i idx e = (.bytes [], s) := by
  simp [State.readList, hn]

/-- A list of no records passes its check within the batch quota. -/
theorem checkList_none (hquota : (s.inst i).activeSeqs ≤ (s.inst i).batchq) : s.checkList i ⟨[], [], []⟩ = none := by
  simpa [State.checkList] using hquota

/-- A STEP without a word to add at DONE, whose writes all went through, completes (R289). -/
theorem endStep_plain {x : Entry} (hdval : x.f 32 8 = 0) (hgood : x.wbad = none) : s.endStep i idx x = s.complete i idx 0 x.stepResult := by
  simp only [State.endStep, if_pos hdval, hgood]
  rfl

/-- The runs of a STEP that has none end it, where no batch is open and no answer is awaited. -/
theorem stepOn_none {x : Entry} (hentry : s.entry i idx = some x) (hremote : x.remote = []) (hbatches : s.ael.batches = [])
    (hdval : x.f 32 8 = 0) (hgood : x.wbad = none) : s.stepOn i idx 0 ⟨[], [], []⟩ =
      (s.updEntry i idx (fun e => { e with applied := true, buf := [] })).complete i idx 0 x.stepResult := by
  have hclose : s.closeBatches partTag = s := by simp [State.closeBatches, hbatches]
  have hnow : (s.updEntry i idx (fun e => { e with applied := true, buf := [] })).entry i idx = some { x with applied := true, buf := [] } := by
    rw [updEntry_entry (by simp), hentry]; rfl
  have hruns : s.runAll i idx (((List.range 0).zip ([] : List StepRec)).drop 0) = (true, s) := rfl
  simp only [State.stepOn, List.length_nil, hruns, hclose, hnow, hremote, if_true]
  exact endStep_plain hdval hgood

/-- A STEP of no records completes with nothing failed, and no sequence record is touched. -/
theorem boundary_none {x : Entry} (hentry : s.entry i idx = some x) (hrun : e.run = none) (hn : e.f 24 2 + e.f 26 2 + e.f 28 2 = 0)
    (hquota : (s.inst i).activeSeqs ≤ (s.inst i).batchq) (hremote : x.remote = []) (hbatches : s.ael.batches = []) (hdval : x.f 32 8 = 0)
    (hgood : x.wbad = none) (bs : List Byte) :
    (s.boundary i idx e bs).entry i idx = none ∧ ((s.boundary i idx e bs).inst i).records = (s.inst i).records := by
  have hbegun : (s.updEntry i idx (fun e => { e with run := some 0 })).entry i idx = some { x with run := some 0 } := by
    rw [updEntry_entry (by simp), hentry]; rfl
  have hboundary : s.boundary i idx e bs = (s.updEntry i idx (fun e => { e with run := some 0 })).stepOn i idx 0 ⟨[], [], []⟩ := by
    simp only [State.boundary, stepList_none hn, hrun, checkList_none hquota]
    rfl
  rw [hboundary, stepOn_none hbegun hremote hbatches hdval hgood]
  exact ⟨complete_entry _ _ _ _ _, (complete_records _ _ _ _ _).trans (by simp [State.updEntry])⟩

/-- Settles O28: the entries on a sequence run on the state that the reads of its page table leave (`onSeq_runs`), which differs from the first
in caches and memory alone (`AccessOnly`); a roll-back is `rollback_spec`, a step of an eviction `evictN_done` or `evictN_acknowledged`, a
STEP of no records `boundary_none`. -/
theorem pageSetsMove : Obligations.PageSetsMove := by
  unfold Obligations.PageSetsMove
  intro s i idx e hi
  refine ⟨fun layout slotNo L t hL hslot hworking hstep bs hwrite => exec_slotZeroed hi hL hslot hworking hstep hwrite,
    fun n r u v hseq hheld hread hv => ?sequence, fun he happlied hrun hdeps => ⟨fun bs t st hread hcheck => ?refused,
      fun hn hdval hgood hremote hbatches hquota => ?none⟩⟩
  case sequence =>
    have haccess := accessOnly_of_readNodes hread
    have hsame : u.seqOf i (e.f 20 4) = some (n, r) := (haccess.seqOf i _).trans hseq
    refine ⟨fun he bs q t hback => ?rollback, fun he => ⟨exec_seqEvict_ungranted hi hseq hheld hread he, fun hvariant hpages => ?idle,
      fun hvariant p l ps L new hpages hL happlied hremote hgood hnew => ?moved⟩, fun he hpages => ?fetch⟩
    case rollback =>
      obtain ⟨hcl, htc, hpages⟩ := rollback_spec hback
      exact ⟨hcl ▸ exec_seqRollback hi hseq hheld hread he hback, hcl, htc, hpages⟩
    case idle =>
      rw [exec_seqEvict hi hseq hheld hread he hvariant, hpages, hv]
      exact congrArg _ (evictN_done ((haccess.seqEntry i idx 7).trans he) hsame hpages)
    case moved =>
      rw [exec_seqEvict hi hseq hheld hread he hvariant, hpages, hnew, ← haccess.inst i]
      exact congrArg _ (evictN_acknowledged ((haccess.seqEntry i idx 7).trans he) hsame hpages ((haccess.layout i _).trans hL) happlied hremote
        hgood hv)
    case fetch =>
      rw [exec_seqFetch hi hseq hheld hread he, hpages]
      exact congrArg _ (fetchN_done ((haccess.seqEntry i idx 8).trans he) hsame hpages)
  case refused =>
    refine (exec_stepBoundary hi he happlied hdeps hread).trans (congrArg _ ?_)
    simp only [State.boundary, hrun, hcheck]
  case none =>
    have hentry : (s.updEntry i idx (fun e => { e with started := true })).entry i idx = some { e with started := true } := by
      rw [updEntry_entry (by simp), entry_of_begins he]; rfl
    have hroom : ((s.updEntry i idx (fun e => { e with started := true })).inst i).activeSeqs ≤
        ((s.updEntry i idx (fun e => { e with started := true })).inst i).batchq := by
      simpa [State.updEntry, Inst.activeSeqs] using hquota
    obtain ⟨hgone, hrecords⟩ := boundary_none hentry hrun hn hroom hremote hbatches hdval hgood (plain [])
    exact ⟨_, exec_stepBoundary hi he happlied hdeps (readList_none _ i idx hn), hgone, hrecords.trans (by simp [State.updEntry])⟩

end Sys2Proof.Machine
end

section
/-! SUPPORT. The model hot set: its MODEL entries, restores from backing copies, and saves of launches (R292 to R298, R431 to R435). -/

namespace Sys2Proof.Machine
open Sys2Proof

variable {s t u : State} {i idx : Nat} {e : Entry}

/-! ## Weight sets written (R292, R295) -/

/-- A set changed is the only one that is: its entry in the hot-set tables is written to local memory alone. -/
theorem putWset_wset (s : State) (n k : Nat) (w : WSet) : (s.putWset n w).wset k = if k = n then w else s.wset k :=
  (((AccessOnly.refl _).writeSet n).wset k).trans (setWset_wset s n w k)

theorem putWset_wset_same (s : State) (n : Nat) (w : WSet) : (s.putWset n w).wset n = w := (putWset_wset s n n w).trans (if_pos rfl)

/-- A use of a set leaves its references. -/
theorem useSet_refs (s : State) (n : Nat) : ((s.useSet n).wset n).refs = (s.wset n).refs := by
  unfold State.useSet
  rw [putWset_wset_same]

/-- A load of a resident set has nothing to do (R295). -/
theorem loadSet_resident {n : Nat} (hstate : (s.wset n).state = 3) (next : State → State) : s.loadSet i idx n next = next s := if_pos hstate

/-! ## MODEL entries that may begin (R293, R294) -/

section
variable {op : Nat}

theorem onSet_elsewhere (f : Entry → Nat → WSet → State → State) (he : s.modelEntry i idx op = some e) (hi : i ≠ 0) :
    s.onSet i idx op f = s.complete i idx 4 0 := by
  simp only [State.onSet, he, if_pos hi]

theorem onSet_runs (f : Entry → Nat → WSet → State → State) (he : s.modelEntry 0 idx op = some e) :
    s.onSet 0 idx op f = f e (e.f 18 1) (s.wset (e.f 18 1)) (s.updEntry 0 idx (fun e => { e with started := true })) := by
  simp only [State.onSet, he, ne_eq, not_true, if_false]

theorem onGrant_outside (f : Nat → WSet → State → State) (he : s.modelEntry i idx op = some e)
    (hgrant : (s.wset (e.f 18 1)).grant.getLsbD i = false) :
    s.onGrant i idx op f = s.complete i idx 4 0 := by
  simp only [State.onGrant, he, hgrant]; rfl

theorem onGrant_runs (f : Nat → WSet → State → State) (he : s.modelEntry i idx op = some e)
    (hgrant : (s.wset (e.f 18 1)).grant.getLsbD i = true) :
    s.onGrant i idx op f = f (e.f 18 1) (s.wset (e.f 18 1)) (s.updEntry i idx (fun e => { e with started := true })) := by
  simp only [State.onGrant, he, hgrant]; rfl

/-- The MODEL commands that are for the manager of the hot set alone, which has number 0 (R293). -/
theorem exec_onSet (hi : i < 64) {c : Instr} (hc : (op, c) ∈ [(1, Instr.modelRegister i idx), (2, .modelLoad i idx), (3, .modelEvict i idx),
    (4, .modelPin i idx), (5, .modelUnpin i idx), (8, .modelUnregister i idx)]) (s : State) : ∃ f, exec c s = .next (s.onSet i idx op f) := by
  simp only [List.mem_cons, Prod.mk.injEq, List.not_mem_nil, or_false] at hc
  obtain ⟨rfl, rfl⟩ | ⟨rfl, rfl⟩ | ⟨rfl, rfl⟩ | ⟨rfl, rfl⟩ | ⟨rfl, rfl⟩ | ⟨rfl, rfl⟩ := hc
  all_goals exact ⟨_, onUnit_lt hi _⟩

/-- The MODEL commands of the instances in a set's GRANT mask. -/
theorem exec_onGrant (hi : i < 64) {c : Instr} (hc : (op, c) ∈ [(6, Instr.modelAcquire i idx), (7, .modelRelease i idx)]) (s : State) :
    ∃ f, exec c s = .next (s.onGrant i idx op f) := by
  simp only [List.mem_cons, Prod.mk.injEq, List.not_mem_nil, or_false] at hc
  obtain ⟨rfl, rfl⟩ | ⟨rfl, rfl⟩ := hc
  all_goals exact ⟨_, onUnit_lt hi _⟩

end

/-! ## The MODEL entries on registered sets (R293 to R295, R432) -/

/-- The weight set that a REGISTER entry describes (R293). -/
def Entry.weightSet (e : Entry) : WSet :=
  { state := 1
    restorable := bit (e.f 17 1) 0
    bulk := bit (e.f 17 1) 1
    ck := bit (e.f 17 1) 2
    pages := e.f 20 4
    src := BitVec.ofNat 56 (e.f 24 8)
    backing := BitVec.ofNat 56 (e.f 32 8)
    grant := BitVec.ofNat 64 (e.f 40 8)
    ckt := BitVec.ofNat 56 (e.f 48 8) }

section
variable {w : WSet} (hw : w = s.wset (e.f 18 1)) (hu : u = s.updEntry 0 idx (fun e => { e with started := true }))
include hw hu

theorem exec_modelRegister (he : s.modelEntry 0 idx 1 = some e) (hstate : w.state = 0) {bs : List PByte}
    (hsource : u.sourceOutside 1 (e.f 24 8) 1 = (.bytes bs, t)) :
    exec (.modelRegister 0 idx) s = .next ((t.putWset (e.f 18 1) e.weightSet).complete 0 idx 0 0) := by
  subst hw hu
  refine (onUnit_lt (i := 0) (by decide) _).trans (congrArg _ ((onSet_runs _ he).trans ?_))
  simp only [hstate, hsource]
  rfl

theorem exec_modelPin (he : s.modelEntry 0 idx 4 = some e) (hstate : w.state ≠ 0) :
    exec (.modelPin 0 idx) s = .next ((u.putWset (e.f 18 1) { w with pin := true }).complete 0 idx 0 0) := by
  subst hw hu
  exact (onUnit_lt (i := 0) (by decide) _).trans (congrArg _ ((onSet_runs _ he).trans (if_neg hstate)))

theorem exec_modelUnpin (he : s.modelEntry 0 idx 5 = some e) (hstate : w.state ≠ 0) :
    exec (.modelUnpin 0 idx) s = .next ((u.putWset (e.f 18 1) { w with pin := false }).complete 0 idx 0 0) := by
  subst hw hu
  exact (onUnit_lt (i := 0) (by decide) _).trans (congrArg _ ((onSet_runs _ he).trans (if_neg hstate)))

theorem exec_modelLoad (he : s.modelEntry 0 idx 2 = some e) (hstate : w.state = 3) :
    exec (.modelLoad 0 idx) s = .next ((u.useSet (e.f 18 1)).complete 0 idx 0 w.first) := by
  have hregistered : w.state ≠ 0 := by rw [hstate]; decide
  have hsame : u.wset (e.f 18 1) = w := by subst hw hu; rfl
  refine (onUnit_lt (i := 0) (by decide) _).trans (congrArg _ ((onSet_runs _ he).trans ?_))
  rw [← hw, ← hu, if_neg hregistered, loadSet_resident (hsame ▸ hstate), hsame]

theorem exec_modelEvict (he : s.modelEntry 0 idx 3 = some e) (hstate : w.state = 3) (hrefs : w.refCount = 0)
    (hrestores : ∀ r ∈ s.seq.restores, r.set ≠ e.f 18 1) :
    exec (.modelEvict 0 idx) s = .next ((u.evictSet (e.f 18 1)).complete 0 idx 0 0) := by
  have hregistered : w.state ≠ 0 := by rw [hstate]; decide
  have hresident : w.state ≠ 1 := by rw [hstate]; decide
  have hidle : (w.state = 2 || u.seq.restores.any (fun r => r.set = e.f 18 1)) = false := by
    subst hu
    simpa [hstate, State.updEntry] using hrestores
  refine (onUnit_lt (i := 0) (by decide) _).trans (congrArg _ ((onSet_runs _ he).trans ?_))
  rw [← hw, ← hu, if_neg hregistered, if_neg hresident, if_neg (not_not.2 hrefs), hidle]
  rfl

theorem exec_modelUnregister (he : s.modelEntry 0 idx 8 = some e) (hstate : w.state = 1) :
    exec (.modelUnregister 0 idx) s = .next ((u.putWset (e.f 18 1) {}).complete 0 idx 0 0) := by
  subst hw hu
  exact (onUnit_lt (i := 0) (by decide) _).trans (congrArg _ ((onSet_runs _ he).trans (if_neg (not_not.2 hstate))))

end

/-! ## ACQUIRE and RELEASE (R294, R433) -/

section
variable (hi : i < 64) {w : WSet} (hw : w = s.wset (e.f 18 1)) (hu : u = s.updEntry i idx (fun e => { e with started := true }))
  (hgrant : w.grant.getLsbD i = true)
include hi hw hu hgrant

theorem exec_modelAcquire (he : s.modelEntry i idx 6 = some e) (hstate : w.state = 3) (hgood : s.err.failset.toNat.testBit (e.f 18 1) = false)
    (hroom : w.refCount < 65535) : exec (.modelAcquire i idx) s = .next (((u.putWset (e.f 18 1)
      { w with refs := NMap.put 0 w.refs i (NMap.at w.refs i 0 + 1) }).useSet (e.f 18 1)).complete i idx 0 w.first) := by
  have hregistered : w.state ≠ 0 := by rw [hstate]; decide
  have hsame : u.wset (e.f 18 1) = w := by subst hw hu; rfl
  have hfailset : u.err.failset.toNat.testBit (e.f 18 1) = false := by subst hu; exact hgood
  refine (onUnit_lt hi _).trans (congrArg _ ((onGrant_runs _ he (hw ▸ hgrant)).trans ?_))
  rw [← hw, ← hu, if_neg hregistered, loadSet_resident (hsame ▸ hstate), hsame, hfailset]
  exact if_neg (Nat.not_le.2 hroom)

theorem exec_modelRelease (he : s.modelEntry i idx 7 = some e) (hheld : NMap.at w.refs i 0 ≠ 0) {x : WSet}
    (hx : x = { w with refs := NMap.put 0 w.refs i (NMap.at w.refs i 0 - 1) }) :
    exec (.modelRelease i idx) s = .next ((u.putWset (e.f 18 1) x).complete i idx 0 x.refCount) := by
  subst hx hw hu
  exact (onUnit_lt hi _).trans (congrArg _ ((onGrant_runs _ he hgrant).trans (if_neg hheld)))

end

/-- Settles O29: each clause is the lemma of its entry, the sets read back through `putWset_wset_same`. -/
theorem modelEntries : Obligations.ModelEntries := by
  unfold Obligations.ModelEntries
  intro s i idx e w u hi hw hu
  refine ⟨fun op c hc he hzero => ?elsewhere, fun op c hc he hgrant => ?outside, fun he hzero hstate hsource => ?register,
    fun he hzero => ?pin, fun he hzero => ?unpin, fun he hzero => ?load, fun he hzero => ?evict, fun he hzero => ?unregister,
    fun he hgrant hstate hgood hroom => ?acquire, fun he hgrant hheld => ?release⟩
  case elsewhere =>
    obtain ⟨f, hexec⟩ := exec_onSet hi hc s
    exact hexec.trans (congrArg _ (onSet_elsewhere f he hzero))
  case outside =>
    obtain ⟨f, hexec⟩ := exec_onGrant hi hc s
    exact hexec.trans (congrArg _ (onGrant_outside f he (hw ▸ hgrant)))
  case register =>
    subst hzero
    obtain ⟨bs, hbs⟩ := hsource
    exact ⟨_, e.weightSet, exec_modelRegister hw hu he hstate (Prod.ext hbs rfl), putWset_wset_same _ _ _, rfl, rfl, BitVec.toNat_ofNat _ _,
      BitVec.toNat_ofNat _ _, rfl, rfl⟩
  case pin => subst hzero; exact exec_modelPin hw hu he
  case unpin => subst hzero; exact exec_modelUnpin hw hu he
  case load => subst hzero; exact exec_modelLoad hw hu he
  case evict => subst hzero; exact exec_modelEvict hw hu he
  case unregister => subst hzero; exact exec_modelUnregister hw hu he
  case acquire =>
    refine ⟨_, exec_modelAcquire hi hw hu hgrant he hstate hgood hroom, ?_⟩
    rw [useSet_refs, putWset_wset_same]
    exact NMap_at_put_same 0 w.refs i (NMap.at w.refs i 0 + 1)
  case release =>
    refine ⟨_, _, exec_modelRelease hi hw hu hgrant he hheld rfl, by rw [putWset_wset_same], ?_⟩
    rw [putWset_wset_same]
    exact NMap_at_put_same 0 w.refs i (NMap.at w.refs i 0 - 1)

/-! ## Restores (R431 to R433, R435) -/

section
variable {r : Restore} {pa : BitVec 56}

/-- RESTORE of a restore under way that has asked for nothing yet, where it is neither begun anew nor widened, asks for its backing copy. -/
theorem exec_restore {block : Bool} {p : Nat} (hp : p = alignDown pa.toNat (if block then 4096 else 128)) (hr : s.restoreAt p block = some r)
    (hasked : r.asked = false)
    (hline : block = true ∨ (s.linePoisoned (alignDown pa.toNat 128) = false ∧ s.wholeBlock (alignDown pa.toNat 128) = false))
    (hwalk : s.walkWaits agentPart 0 (s.backingVa r) = false) :
    exec (.restore pa block) s = .next (askBacking p block r (s.entryPage agentPart 0 .read (s.backingVa r))) := by
  have hclean : (!block && inHbm p && s.linePoisoned p) = false := by
    subst hp
    cases block
    · simp only [Bool.false_eq_true, false_or] at hline; simp [hline.1]
    · rfl
  have hnarrow : (!block && s.wholeBlock p) = false := by
    subst hp
    cases block
    · simp only [Bool.false_eq_true, false_or] at hline; simp [hline.2]
    · rfl
  have hexec : exec (.restore pa block) s = execRestore pa block s := rfl
  rw [hexec, execRestore]
  simp only [← hp, hclean, hnarrow, Bool.false_eq_true, if_false, hr, hasked, hwalk, Bool.or_self]

theorem askBacking_denied (p : Nat) (block : Bool) (r : Restore) (st : Nat) (s : State) :
    askBacking p block r (.error st, s) = s.updRestore p block (fun r => { r with asked := true, failed := true }) := rfl

theorem askBacking_local (p : Nat) (block : Bool) (r : Restore) {ba : Nat} (leaf : Nat) (s : State) (hlocal : inPeer ba = false) :
    askBacking p block r (.ok (ba, leaf), s) = s.updRestore p block (fun r => { r with asked := true }) := by
  simp only [askBacking, hlocal]; rfl

variable (hr : s.seq.restores.find? (fun r => r.asked && r.remote = [] && (r.pa = pa.toNat)) = some r)
include hr

theorem exec_restoreDone_failed : exec (.restoreDone pa false) s = .next (s.retryRestore r) := by
  have hexec : exec (.restoreDone pa false) s = execRestoreDone pa false s := rfl
  simp only [hexec, execRestoreDone, hr, Bool.not_false, if_true]

/-- A restore whose bytes are at hand and verified ends with the line written and one record (R431, R435). -/
theorem exec_restoreDone {bs : List Byte} (hwalk : s.walkWaits agentPart 0 (s.backingVa r) = false) (hbytes : s.backingBytes r = (some bs, t))
    (hok : t.restoredOk r bs = (true, u)) : exec (.restoreDone pa true) s =
      .next ((((u.devWrite {} r.pa (clean bs)).errRecord 5 0 (sliceUnit ((u.devWrite {} r.pa (clean bs)).homeSlice r.pa))
        (errDetail r.pa 0xFF 0 0x80 0) [0]).endRestore r.pa r.block)) := by
  have hexec : exec (.restoreDone pa true) s = execRestoreDone pa true s := rfl
  simp only [hexec, execRestoreDone, hr, Bool.not_true, Bool.false_eq_true, if_false, hwalk, hbytes, hok]

end

/-! ## Saves (R298) -/

/-- SAVE of a launch that pre-emption has ordered to save, and of which nothing is under way. -/
theorem exec_save (hi : i < 64) {l : Launch} (hl : s.launch i idx = some l) (hby : l.saveBy.isSome = true) (hgood : l.fault = none)
    (hidle : ∀ g ∈ s.coresWith i idx, (∀ m ∈ (s.core g).mats, m.inst ≠ i ∨ m.idx ≠ idx) ∧
      (∀ j ∈ (s.core g).copies, (j.inst ≠ i ∨ j.idx ≠ idx) ∨ j.tc = true) ∧ ∀ y ∈ (s.core g).slots, y.2.await = []) :
    exec (.save i idx) s = .next ((s.saveLaunch l).settleControls) := by
  have hbusy : (s.coresWith i idx).any (fun g => (s.core g).mats.any (fun m => m.inst = i && m.idx = idx)
      || (s.core g).copies.any (fun j => j.inst = i && j.idx = idx && !j.tc) || (s.core g).slots.any (fun e => e.2.await ≠ [])) = false := by
    refine List.any_eq_false.2 fun g hg => ?_
    obtain ⟨hmats, hcopies, hslots⟩ := hidle g hg
    have hmat : (s.core g).mats.any (fun m => m.inst = i && m.idx = idx) = false :=
      List.any_eq_false.2 fun m hm => by simpa [imp_iff_not_or] using hmats m hm
    have hcopy : (s.core g).copies.any (fun j => j.inst = i && j.idx = idx && !j.tc) = false :=
      List.any_eq_false.2 fun j hj => by simpa [imp_iff_not_or, or_assoc] using hcopies j hj
    have hslot : (s.core g).slots.any (fun e => e.2.await ≠ []) = false :=
      List.any_eq_false.2 fun y hy => by simpa using hslots y hy
    simp only [hmat, hcopy, hslot]
    decide
  have hordered : l.saveBy.isNone = false := Option.isNone_eq_false_iff.2 hby
  refine (onUnit_lt hi _).trans ?_
  simp only [hl, hbusy, hordered, hgood]
  rfl

/-- Settles O30: a restore asks through `exec_restore`, whose answer from its page is `askBacking_denied` or `askBacking_local`; the end of a
restore and a save are the lemmas of their commands. -/
theorem restoresAndSaves : Obligations.RestoresAndSaves := by
  unfold Obligations.RestoresAndSaves
  intro s
  refine ⟨fun pa block r hr hasked hline hwalk => ⟨fun st t hpage => ?denied, fun ba leaf t hpage hlocal => ?asked⟩,
    fun pa r hr => ⟨exec_restoreDone_failed hr, fun bs t u => exec_restoreDone hr⟩, fun i idx l hi => exec_save hi⟩
  case denied => rw [exec_restore rfl hr hasked hline hwalk, hpage, askBacking_denied]
  case asked => rw [exec_restore rfl hr hasked hline hwalk, hpage, askBacking_local _ _ _ _ _ hlocal]

end Sys2Proof.Machine
end

section
/-! SUPPORT. Instances that are reset, removed, pre-empted and resumed (R297, R300, R361 to R366). -/

namespace Sys2Proof.Machine
open Sys2Proof

/-! ## What a reset settles (R363 to R365) -/

/-- Generation, state and running reset, the records and layouts, and the indices of the rings. -/
def Inst.course (x : Inst) : BitVec 16 × InstState × Option ResetJob × NMap SeqRec × NMap Layout × BitVec 32 × BitVec 32 × BitVec 32 :=
  (x.gen, x.state, x.resetJob, x.records, x.layouts, x.ring.sqhead, x.ring.sqtail, x.ring.cqtail)

variable {b s : State}

theorem updInst_course (s : State) (i t : Nat) {f : Inst → Inst} (hf : ∀ x, (f x).course = x.course := by intro; rfl) :
    ((s.updInst i f).inst t).course = (s.inst t).course := by
  rw [updInst_eq, setInst_inst]
  split
  · rename_i ht; rw [ht]; exact hf _
  · rfl

/-- An event moves nothing but the event ring (R337). -/
theorem event_course (s : State) (i : Nat) (r : Record) (t : Nat) : ((s.event i r).inst t).course = (s.inst t).course := by
  have hput : ((s.putRecord i r).inst t).course = (s.inst t).course := by
    have hwritten : ∀ bus bs, ((s.hostWrite i bus bs).inst t).course = (s.inst t).course := fun bus bs =>
      congrArg Inst.course (hostWrite_inst s i bus bs t)
    unfold State.putRecord
    dsimp only
    split
    · exact (updInst_course _ _ _).trans (hwritten _ _)
    · rw [interrupt_inst]; exact (updInst_course _ _ _).trans (hwritten _ _)
  unfold State.event
  dsimp only
  split
  · exact updInst_course _ _ _
  · split
    · exact hput
    · split
      · exact updInst_course _ _ _
      · exact updInst_course _ _ _

theorem eventTo_course (s : State) (l : List Nat) (r : Record) (t : Nat) : ((s.eventTo l r).inst t).course = (s.inst t).course :=
  List.foldlRecOn (motive := fun (u : State) => (u.inst t).course = (s.inst t).course) _ _ rfl fun _ hu i _ => (event_course _ i r t).trans hu

theorem withDrains_inst (s : State) (l : List Drain) (t : Nat) : ({ s with drains := l } : State).inst t = s.inst t := rfl

theorem respond_course (s : State) (m status : Nat) (payload : List Byte) (t : Nat) :
    ((s.respond m status payload).inst t).course = (s.inst t).course := by
  unfold State.respond
  split
  · rfl
  · dsimp only
    split
    · refine (event_course _ _ _ _).trans ?_
      rw [withDrains_inst]
      exact updInst_course _ _ _
    · rw [withDrains_inst]
      exact updInst_course _ _ _

theorem answerRowless_course (s : State) (m t : Nat) : ((s.answerRowless m).inst t).course = (s.inst t).course := by
  unfold State.answerRowless
  split
  · split
    · exact respond_course _ _ _ _ _
    · rfl
  · rfl

theorem mbResult_course (s : State) (m status : Nat) (payload : List Byte) (t : Nat) :
    ((s.mbResult m status payload).inst t).course = (s.inst t).course := updInst_course _ _ _

/-! ## Clusters and pages given back (R252, R359, R366) -/

theorem CachesOnly.inst (h : CachesOnly b s) (i : Nat) : s.inst i = b.inst i := by
  obtain ⟨_, _, _, _, _, rfl⟩ := h; rfl

theorem CachesOnly.flushL2 (h : CachesOnly b s) (q : Nat) : CachesOnly b (s.flushL2 q) := by
  unfold State.flushL2
  refine CachesOnly.updCluster (List.foldlRecOn (motive := CachesOnly b) _ _ ?_ fun t ht l _ => ?_) q _
  · exact List.foldlRecOn (motive := CachesOnly b) _ _ h fun _ ht a _ => ht.takePut q a
  · dsimp only
    split
    · exact .ite _ (.ite _ ((ht.recall _ _ _).dirPut _ _) ((ht.recall _ _ _).updSlice _ _)) (ht.updCluster _ _)
    · exact ht.updCluster _ _

theorem CachesOnly.revokeClusters (h : CachesOnly b s) (cs : List Nat) : CachesOnly b (s.revokeClusters cs) :=
  List.foldlRecOn (motive := CachesOnly b) _ _ h fun _ ht n _ => (ht.flushL2 n).updCluster n _

theorem scrub_inst (s : State) (lo hi t : Nat) : (s.scrub lo hi).inst t = s.inst t := rfl

theorem tlbInv_inst (s : State) (i t : Nat) : (s.tlbInv i).inst t = s.inst t := rfl

theorem releasePages_course (s : State) (i a b t : Nat) : ((s.releasePages i a b).inst t).course = (s.inst t).course := by
  unfold State.releasePages
  rw [tlbInv_inst, ← scrub_inst s (a * 2 ^ 21) ((b + 1) * 2 ^ 21) t]
  exact updInst_course _ i t

theorem releaseRanges_course (s : State) (i t : Nat) (l : List (Nat × Nat)) :
    ((l.foldl (fun (s : State) r => s.releasePages i r.1 r.2) s).inst t).course = (s.inst t).course :=
  List.foldlRecOn (motive := fun (u : State) => (u.inst t).course = (s.inst t).course) _ _ rfl fun _ hu r _ =>
    (releasePages_course _ i r.1 r.2 t).trans hu

/-! ## The end of a reset or removal (R364 to R366) -/

theorem advanceEpoch_inst (s : State) (i : Nat) (active : Bool) (t : Nat) : (s.advanceEpoch i active).inst t = s.inst t := rfl

theorem withSeq_inst (s : State) (q : Seq) (t : Nat) : ({ s with seq := q } : State).inst t = s.inst t := rfl

/-- The store cleared: no record and no layout, and nothing else of what a reset settles. -/
theorem clearStore_course (s : State) (i : Nat) (active : Bool) :
    ((s.clearStore i active).inst i).course = { s.inst i with records := [], layouts := [] }.course := by
  unfold State.clearStore
  dsimp only
  rw [advanceEpoch_inst, ((AccessOnly.refl _).writeSets).inst i, withSeq_inst, updInst_eq, setInst_inst, if_pos rfl]
  rfl

/-- The store cleared for the next generation (R363 to R365). -/
theorem nextGen_course (s : State) (t now : Nat) (active : Bool) :
    (((s.updInst t (fun x => { x with gen := x.gen + 1, genAt := some now, ring := x.ring.restart, resetJob := none, preempting := false })).clearStore
      t active).inst t).course = ((s.inst t).gen + 1, (s.inst t).state, none, [], [], 0, 0, 0) := by
  rw [clearStore_course, updInst_eq, setInst_inst, if_pos rfl]
  rfl

theorem active_course (s : State) (t : Nat) : ((s.updInst t (fun x => { x with state := .active })).inst t).course =
    ((s.inst t).course.1, .active, (s.inst t).course.2.2) := by
  rw [updInst_eq, setInst_inst, if_pos rfl]
  rfl

/-- What a removal keeps: the generation, the rings, the mailbox and the reuse counts (R366, log 60). -/
theorem removed_course (s : State) (t : Nat) :
    ((s.updInst t (fun x =>
      { state := .removing, gen := x.gen, genAt := x.genAt, ring := x.ring, mb := { x.mb with cache := [] }, reuse := x.reuse })).inst t).course =
      ((s.inst t).course.1, .removing, none, [], [], (s.inst t).course.2.2.2.2.2) := by
  rw [updInst_eq, setInst_inst, if_pos rfl]
  rfl

/-- What the end of a reset leaves. -/
theorem finishReset_course_reset {t : Nat} {j : ResetJob} (hj : (s.inst t).resetJob = some j) (hreset : j.remove = false) :
    ((s.finishReset t).inst t).course = ((s.inst t).gen + 1, .active, none, [], [], 0, 0, 0) := by
  unfold State.finishReset
  rw [hj]
  dsimp only
  rw [hreset, if_neg Bool.false_ne_true, answerRowless_course, respond_course, eventTo_course, active_course, nextGen_course]

/-- What the end of a removal leaves. -/
theorem finishReset_course_remove {t : Nat} {j : ResetJob} (hj : (s.inst t).resetJob = some j) (hremove : j.remove = true) :
    ((s.finishReset t).inst t).course = ((s.inst t).gen + 1, .removing, none, [], [], 0, 0, 0) := by
  unfold State.finishReset
  rw [hj]
  dsimp only
  rw [hremove, if_pos rfl, mbResult_course, event_course, tlbInv_inst, removed_course, ((CachesOnly.refl _).revokeClusters _).inst t,
    releaseRanges_course, nextGen_course]

/-! ## Commands that may run (R29, R361, R511) -/

section
variable {mb op t : Nat} {r : MbRunning} (ht : t = targetOf r.payload)

/-- A command that may run and passes the checks acts, and control commands that waited move on (R29, R511). -/
theorem mbRun_ready (h : MbReady s mb op r) (act : List Byte → State → State) : s.mbRun mb op act = (act r.payload s).settleControls := by
  obtain ⟨-, hrunning, hop, hresult, hwaits, hcheck⟩ := h
  simp [State.mbRun, hrunning, hop, hresult, hwaits, hcheck]

theorem exec_mbRun (h : MbReady s mb op r) {c : Instr} {act : List Byte → State → State}
    (hexec : exec c s = onUnit (mb < 64) (s.mbRun mb op act)) : exec c s = .next (act r.payload s).settleControls := by
  rw [hexec, onUnit_lt h.1, mbRun_ready h]

include ht

theorem exec_reset (h : MbReady s mb 0x20 r) : exec (.reset mb) s = .next (s.beginReset mb t false).settleControls := by
  subst ht
  exact exec_mbRun h (act := fun p s => s.beginReset mb (targetOf p) false) rfl

theorem exec_remove (h : MbReady s mb 0x21 r) : exec (.remove mb) s = .next (s.beginReset mb t true).settleControls := by
  subst ht
  exact exec_mbRun h (act := fun p s => s.beginReset mb (targetOf p) true) rfl

theorem exec_preempt_preempted (h : MbReady s mb 0x22 r) (hstate : (s.inst t).state = .preempted) :
    exec (.preempt mb) s = .next (s.respond mb 0 []).settleControls := by
  subst ht
  exact (exec_mbRun h rfl).trans (congrArg _ (congrArg _ (if_pos hstate)))

/-- PREEMPT where no launch is registered marks its target and orders the target's clusters drained (R297). -/
theorem exec_preempt_idle (h : MbReady s mb 0x22 r) (hstate : (s.inst t).state ≠ .preempted)
    (hnone : ∀ l ∈ s.launches, l.inst ≠ t) (hfits : s.saveFits t [] = true) : exec (.preempt mb) s =
      .next ((((List.range 128).filter (fun n => (s.cluster n).owner = some t)).foldl
        (fun (s : State) n => s.control (clusterUnit n) .preempt)
        (s.updInst t (fun x => { x with preempting := true }))).settleControls).settleControls := by
  have hmine : ∀ p : Launch → Bool, s.launches.filter (fun l => l.inst = t && p l) = [] := fun p => by
    simpa using fun l hl hin => absurd hin (hnone l hl)
  have hexec : exec (.preempt mb) s = execPreempt mb s := rfl
  rw [hexec, execPreempt, onUnit_lt h.1, mbRun_ready h]
  subst ht
  have hlist := hmine (fun l => l.placed && l.fault.isNone && !l.saved)
  simp only [← Bool.and_assoc] at hlist
  dsimp only
  simp only [hlist, List.filter_nil, hfits, if_neg hstate]
  rfl

theorem exec_resume (h : MbReady s mb 0x23 r) (hstate : (s.inst t).state = .preempted) : exec (.resume mb) s =
    .next ((((s.launches.filter (fun l => l.inst = t && l.saved)).foldl (fun (s : State) l => s.restoreLaunch l)
      (s.updInst t (fun x => { x with state := .active }))).respond mb 0 []).settleControls) := by
  subst ht
  exact (exec_mbRun h rfl).trans (congrArg _ (congrArg _ (if_neg (not_not.2 hstate))))

end

/-- A reset or removal begins: the work stopped, and the rest at once where the generation may advance (R363, R365). -/
theorem beginReset_eq {mb t : Nat} {rm : Bool} {u : State}
    (hu : u = ((s.updInst t (fun x => { x with
        state := if rm then .removing else .resetting
        resetJob := some { remove := rm, mb := mb, sqhead := (s.inst t).ring.sqhead } })).stopInstance t).settleControls) :
    s.beginReset mb t rm = if u.genFree t then u.finishReset t else u := by
  rw [hu]; rfl

/-- What the end of a reset or removal leaves. -/
theorem finishReset_course {t : Nat} {j : ResetJob} (hj : (s.inst t).resetJob = some j) : ((s.finishReset t).inst t).course =
    ((s.inst t).gen + 1, if j.remove then .removing else .active, none, [], [], 0, 0, 0) := by
  cases hremove : j.remove
  · exact finishReset_course_reset hj hremove
  · exact finishReset_course_remove hj hremove

/-- Settles O37: each clause is the lemma of its command; what the end of a reset or removal leaves is read off `finishReset_course`. -/
theorem instanceLifecycle : Obligations.InstanceLifecycle := by
  unfold Obligations.InstanceLifecycle
  intro s mb r t ht
  refine ⟨fun op rm c hc hready u hu => ?reset, fun hi hfree j hj => ?expiry, exec_preempt_preempted ht, exec_preempt_idle ht,
    fun hready hstate => ⟨_, exec_resume ht hready hstate, rfl⟩⟩
  case reset =>
    have hexec : exec c s = .next (s.beginReset mb t rm).settleControls := by
      obtain ⟨rfl, rfl, rfl⟩ | ⟨rfl, rfl, rfl⟩ := hc
      · exact exec_reset ht hready
      · exact exec_remove ht hready
    rw [hexec, beginReset_eq hu]
    exact ⟨fun hfree => by rw [if_pos hfree], fun hheld => by rw [hheld]; rfl⟩
  case expiry =>
    have hcourse := finishReset_course hj
    simp only [Inst.course, Prod.mk.injEq] at hcourse
    obtain ⟨hgen, hstate, hjob, hrecords, hlayouts, hsqhead, hsqtail, hcqtail⟩ := hcourse
    refine ⟨_, (onUnit_lt hi _).trans (congrArg _ (if_pos hfree)), rfl, hgen, hrecords, hlayouts, hjob, ?_, hstate⟩
    rw [hsqhead, hsqtail, hcqtail]

end Sys2Proof.Machine
end

section
/-! SUPPORT. The cadence unit: what links, caches, records and the snapshot record leave of it, and what its commands do (R302 to R314). -/

namespace Sys2Proof.Machine
open Sys2Proof

variable {b s t : State}

/-! ## What messages, accesses and records leave of the cadence unit -/

theorem MessagesOnly.cad (h : MessagesOnly b s) : s.cad = b.cad := by obtain ⟨_, _, _, rfl⟩ := h; rfl

theorem AccessOnly.cad (h : AccessOnly b s) : s.cad = b.cad := by obtain ⟨_, _, _, _, _, rfl⟩ := h; rfl

theorem RecordsOnly.cad (h : RecordsOnly b s) : s.cad = b.cad := by obtain ⟨_, _, _, _, _, rfl⟩ := h; rfl

/-- The state of a result and a state. -/
theorem cad_of_snd {α : Type} {p : α × State} {a : α} (h : p.2.cad = b.cad) (e : p = (a, t)) : t.cad = b.cad := by
  rw [e] at h; exact h

theorem eventTo_cad (s : State) (l : List Nat) (r : Record) : (s.eventTo l r).cad = s.cad :=
  (List.foldlRecOn (motive := RecordsOnly s) _ _ (.refl s) fun _ ht i _ => ht.event i r).cad

theorem sendSymbol_cad (s : State) (mask : BitVec 24) (hops : Nat) (leader : BitVec 12) : (s.sendSymbol mask hops leader).cad = s.cad :=
  (List.foldlRecOn (motive := MessagesOnly s) _ _ (.refl s) fun _ ht _ _ => iteInduction (fun _ => ht.emit _ _ _ _ _) fun _ => ht).cad

/-! ## Writes for an entry (R211, R362, R384, R518) -/

theorem walk_cad (k : Nat) (s : State) (agent i va node : Nat) : (s.walk k agent i va node).2.cad = s.cad := by
  induction k generalizing s node with
  | zero => rfl
  | succ k ih =>
    have hread : ∀ c a n, (s.hbmRead c a n).2.cad = s.cad := fun c a n => ((AccessOnly.refl s).hbmRead c a n).cad
    unfold State.walk
    dsimp only
    split
    · exact ih _ _
    · split
      · rfl
      · split
        · exact hread _ _ _
        · split
          · exact hread _ _ _
          · split
            · split <;> exact hread _ _ _
            · exact iteInduction (motive := fun (r : (Tr × Nat) × State) => r.2.cad = s.cad) (fun _ => hread _ _ _) fun _ =>
                (ih _ _).trans (hread _ _ _)

theorem translate_cad (s : State) (agent i : Nat) (k : XKind) (va : Nat) : (s.translate agent i k va).2.cad = s.cad := by
  have hwalk := walk_cad 5 s agent i va (s.inst i).root.toNat
  unfold State.translate
  split
  · rfl
  · split
    · dsimp only
      split
      · rfl
      · split <;> rfl
    · split
      · have hgot := cad_of_snd hwalk ‹_›
        dsimp only
        split <;> exact hgot
      · exact cad_of_snd hwalk ‹_›

theorem entryPage_cad (s : State) (agent i : Nat) (k : XKind) (va : Nat) : (s.entryPage agent i k va).2.cad = s.cad := by
  have htranslate := translate_cad s agent i k va
  unfold State.entryPage
  split
  · exact cad_of_snd htranslate ‹_›
  · have hgot := cad_of_snd htranslate ‹_›
    split
    · exact hgot
    · split <;> exact hgot

theorem hostFailed_cad (s : State) (i tag : Nat) : (s.hostFailed i tag).cad = s.cad := by
  unfold State.hostFailed
  split
  · exact ((RecordsOnly.refl s).event i _).cad
  · rfl

theorem devWrite_cad (s : State) (c : Acc) (pa : Nat) (bs : List PByte) : (s.devWrite c pa bs).cad = s.cad := by
  unfold State.devWrite
  dsimp only
  split
  · exact ((AccessOnly.refl s).hbmWrite c pa bs).cad
  · split
    · split <;> exact hostWrite_cad s _ _ _
    · rfl

/-- A request to a peer and its batch change the links' state alone. -/
theorem MessagesOnly.sendWrite (h : MessagesOnly b s) (p : Packet) (stag bind : Nat) (data : List Byte) (fin : Bool) (owner : RemoteFor)
    (tag : BitVec 16) : MessagesOnly b (s.sendWrite p stag bind data fin owner tag).2 := by
  have hbatch : ∀ q, MessagesOnly b (s.batchWrite q stag bind fin).2 := fun q => by
    unfold State.batchWrite State.takeBatch
    dsimp only
    split <;> exact h.trans ⟨_, _, _, rfl⟩
  unfold State.sendWrite State.sendRequest
  exact (((hbatch _).withAel _).route _ _ _).withAel _

theorem MessagesOnly.writePeer (h : MessagesOnly b s) (i leaf pa stag : Nat) (data : List Byte) (fin : Bool) (owner : Nat → Nat → RemoteFor)
    (tag : BitVec 16) : MessagesOnly b (s.writePeer i leaf pa stag data fin owner tag).2 := by
  unfold State.writePeer
  split
  · exact h
  · exact List.foldlRecOn (motive := fun (acc : List Nat × State) => MessagesOnly b acc.2) _ _ h fun _ hacc _ _ => hacc.sendWrite _ _ _ _ _ _ _

theorem entryWriteN_cad (f : Nat) (s : State) (agent i idx : Nat) (k : XKind) (va : Nat) (bs : List PByte) (bulk : Bool) :
    (s.entryWriteN f agent i idx k va bs bulk).2.2.cad = s.cad := by
  induction f generalizing s va bs with
  | zero => rfl
  | succ f ih =>
    have hpage := entryPage_cad s agent i k va
    unfold State.entryWriteN
    dsimp only
    split
    · rfl
    · split
      · exact cad_of_snd hpage ‹_›
      · rename_i pa leaf u hu
        have hu := cad_of_snd hpage hu
        split
        · exact (hostFailed_cad u i idx).trans hu
        · refine (ih _ _ _).trans ?_
          split
          · exact (hostFailed_cad u i idx).trans hu
          · split
            · refine Eq.trans (MessagesOnly.cad (b := u) (s := (List.foldl (α := List Nat × State) _ _ _).2) ?_) hu
              exact List.foldlRecOn (motive := fun (acc : List Nat × State) => MessagesOnly u acc.2) _ _ (.refl u) fun _ hacc _ _ =>
                iteInduction (motive := fun (acc : List Nat × State) => MessagesOnly u acc.2) (fun _ => hacc) fun _ =>
                  hacc.writePeer _ _ _ _ _ _ _ _
            · exact (devWrite_cad u _ _ _).trans hu

/-! ## The snapshot record (R313) -/

theorem putSnap_cad (s : State) (va : Nat) (bs : List Byte) : (s.putSnap va bs).cad = s.cad :=
  ((MessagesOnly.refl _).closeBatches partTag).cad.trans (entryWriteN_cad _ s agentPart 0 (2 ^ 32) .write va (clean bs) false)

/-- The record under way moved on: of the cadence unit nothing else differs. -/
theorem driveSnap_cad (s : State) : ∃ job, s.driveSnap.cad = { s.cad with snapJob := job } := by
  unfold State.driveSnap
  dsimp only
  split
  · exact ⟨_, rfl⟩
  · split
    · split
      · exact ⟨_, rfl⟩
      · exact ⟨_, by rw [putSnap_cad]⟩
    · split
      · exact ⟨_, rfl⟩
      · exact ⟨_, by rw [putSnap_cad]⟩

/-- A snapshot that falls due changes the snapshot's own fields alone. -/
theorem snapshot_cad (s : State) : ∃ skip seq till job,
    s.snapshot.cad = { s.cad with snapskip := skip, snapseq := seq, snapUntil := till, snapJob := job } := by
  unfold State.snapshot
  dsimp only
  split
  · exact ⟨_, _, _, _, rfl⟩
  · obtain ⟨job, hjob⟩ := driveSnap_cad (State.driveSnap _)
    obtain ⟨first, hfirst⟩ := driveSnap_cad _
    exact ⟨_, _, _, job, by rw [hjob, hfirst]⟩

/-! ## Beats (R302 to R306, R311) -/

/-- What a counted beat leaves of the cadence unit: its number, phase 0, the measured period, the cadence regained, and a snapshot. -/
theorem countBeat_cad (s : State) (beat : BitVec 64) : ∃ meas skip seq till job, (s.countBeat beat).cad =
    { s.cad with
      beat := beat, phase := 0, meas := meas, lost := false, beatAt := some s.clock.now
      snapskip := skip, snapseq := seq, snapUntil := till, snapJob := job } := by
  have hevent : ∀ (c : Bool) (u : State) r, (if c then u.eventAll r else u).cad = u.cad := fun c u r => by
    cases c
    · rfl
    · exact eventTo_cad _ _ _
  have hout : ∀ (c : Bool) (u : State) m, (if c then u.send m else u).cad = u.cad := fun c u m => by cases c <;> rfl
  have hsymbol : ∀ (c : Bool) (u : State) mask hops leader, (if c then u.sendSymbol mask hops leader else u).cad = u.cad :=
    fun c u mask hops leader => by
      cases c
      · rfl
      · exact sendSymbol_cad _ _ _ _
  unfold State.countBeat
  dsimp only
  split
  · obtain ⟨skip, seq, till, job, hsnap⟩ := snapshot_cad _
    exact ⟨_, skip, seq, till, job, by rw [hsnap, hsymbol, hout, hevent]⟩
  · exact ⟨_, _, _, _, _, by rw [hsymbol, hout, hevent]⟩

/-- An edge where the pins are not the source, or with the main rails down, is no beat (R304). -/
theorem takeEdge_ignored (h : s.cad.src ≠ 1 ∨ s.board.rails = false) : s.takeEdge = s := if_pos (by simpa using h)

section
variable (hsrc : s.cad.src = 1) (hrails : s.board.rails = true)
include hsrc hrails

/-- An edge within half a period of the last beat is a glitch (R304). -/
theorem takeEdge_early {a : Nat} (hat : s.cad.beatAt = some a) (hearly : 2 * (s.clock.now - a) < s.cad.period.toNat) :
    s.takeEdge = { s with cad := { s.cad with glitch := sat16 s.cad.glitch 1 } } := by
  simp [State.takeEdge, hsrc, hrails, hat, hearly]

/-- Any other edge is a beat, but at the greatest number (R302, R304). -/
theorem takeEdge_due (hdue : ∀ a, s.cad.beatAt = some a → s.cad.period.toNat ≤ 2 * (s.clock.now - a)) :
    s.takeEdge = if s.cad.beat.toNat = 2 ^ 64 - 1 then s else s.countBeat (s.cad.beat + 1) := by
  cases hat : s.cad.beatAt with
  | none => simp [State.takeEdge, hsrc, hrails, hat]
  | some a => simp [State.takeEdge, hsrc, hrails, hat, Nat.not_lt.2 (hdue a hat)]

end

theorem exec_cadInEdge (s : State) : exec .cadInEdge s = .next (if s.cad.src ≠ 1 then s
    else if s.cad.delay = 0 then s.takeEdge
    else { s with cad := { s.cad with edges := s.cad.edges ++ [s.clock.now + s.cad.delay.toNat] } }) := rfl

/-- Without a delay an edge is taken at once (R304). -/
theorem exec_cadInEdge_now (hdelay : s.cad.delay = 0) : exec .cadInEdge s = .next s.takeEdge := by
  rw [exec_cadInEdge, if_pos hdelay]
  split
  · rw [takeEdge_ignored (.inl ‹_›)]
  · rfl

/-! ## Symbols (R304, R305) -/

/-- A symbol that names no later beat is ignored (R304). -/
theorem symbolIn_ignored (link hops leader : Nat) {beat : BitVec 64} (h : beat.toNat ≤ s.cad.beat.toNat) :
    s.symbolIn link hops leader beat = s := if_pos (by simp [h])

/-- A later beat on the receiving link is counted, and passed on with one more hop (R304, R305). -/
theorem symbolIn_cad {link : Nat} (hops leader : Nat) {beat : BitVec 64} (hsrc : s.cad.src = 2) (hlink : s.cad.rxlink.toNat = link)
    (hup : s.linkUp link = true) (hlater : s.cad.beat.toNat < beat.toNat) : (s.symbolIn link hops leader beat).cad =
      (({ s with cad := { s.cad with hops := BitVec.ofNat 4 hops } } : State).countBeat beat).cad := by
  unfold State.symbolIn
  dsimp only
  rw [if_neg (by simp [hsrc, hlink, hup, hlater])]
  split
  · rfl
  · exact sendSymbol_cad _ _ _ _

/-! ## Registers of the cadence unit (R302 to R304, R311, R314) -/

section
variable (hopen : s.regOpen 0 = true)
include hopen

theorem exec_swbeat (v : BitVec 64) (hsrc : s.cad.src = 3) :
    exec (.swbeat 0 v) s = .next (if s.cad.beat.toNat < v.toNat then s.countBeat v else s) := by
  show execSwbeat 0 v s = _
  simp [execSwbeat, hopen, hsrc]

theorem exec_cadBeatPreset {v : BitVec 64} (hsrc : s.cad.src = 0) (hv : s.cad.beat.toNat ≤ v.toNat) :
    exec (.cadBeatPreset 0 v) s = .next { s with cad := { s.cad with beat := v } } :=
  congrArg _ (if_pos (by simp [hopen, hsrc, hv]))

theorem exec_cadBeatRead : exec (.cadBeatRead 0) s = .next (({ s with cad := { s.cad with phaseLatch := s.cad.phase } }).send
    (.readCompletion (leBytes 8 s.cad.beat.toNat) false)) := congrArg _ (if_pos hopen)

theorem exec_cadClr {v : BitVec 32} (hv : v.getLsbD 0 = true) :
    exec (.cadClr 0 v) s = .next { s with cad := { s.cad with snapskip := 0, glitch := 0, late := {} } } :=
  congrArg _ (if_pos (by rw [hopen, hv]; rfl))

/-- A write of CAD.CFG with a receiving link of the package changes the cadence unit alone: a new source keeps the counter and the time of
the last beat, and its loss timer starts (R304, R311). -/
theorem exec_cadSourceChange {v : BitVec 32} (hlink : fld v.toNat 4 5 < 24) : ∃ c, exec (.cadSourceChange 0 v) s = .next { s with cad := c } ∧
    c.src = BitVec.ofNat 2 v.toNat ∧ c.rxlink = BitVec.ofNat 5 (fld v.toNat 4 5) ∧ c.beat = s.cad.beat ∧ c.beatAt = s.cad.beatAt ∧
    (c.src ≠ s.cad.src → c.selectAt = s.clock.now) := by
  have hexec : exec (.cadSourceChange 0 v) s = execCadSourceChange 0 v s := rfl
  rw [hexec, execCadSourceChange]
  dsimp only
  rw [if_neg (by simp [hopen, hlink])]
  split
  · exact ⟨_, rfl, rfl, rfl, rfl, rfl, fun h => absurd ‹_› h⟩
  · exact ⟨_, rfl, rfl, rfl, rfl, rfl, fun _ => rfl⟩

end

/-! ## Loss of the cadence (R311, R312) -/

/-- A source from which no beat has come for two periods is lost. -/
theorem loseCadence_cad (hsrc : s.cad.src ≠ 0) (hlost : s.cad.lost = false) (hdue : s.cad.since + 2 * s.cad.period.toNat ≤ s.clock.now) :
    (s.loseCadence false).cad = { s.cad with lost := true } := by
  unfold State.loseCadence
  dsimp only
  rw [if_neg (by simpa [hlost, hdue] using hsrc)]
  exact eventTo_cad _ _ _

/-- Settles O40: a beat's own fields are read off `countBeat_cad`; the other clauses are the lemma of their command. -/
theorem cadenceUnit : Obligations.CadenceUnit := by
  unfold Obligations.CadenceUnit
  intro s
  refine ⟨?beat, ?ignored, fun hdelay hsrc hrails => ⟨fun hdue => ?edge, ?glitch⟩, ?delayed, ?symbol, ?stale,
    fun v hopen => ⟨?later, ?earlier, exec_cadBeatPreset hopen, exec_cadBeatRead hopen⟩, ?source, fun v hopen => exec_cadClr hopen, ?lost⟩
  case beat =>
    rintro beat t rfl
    obtain ⟨meas, skip, seq, till, job, hcad⟩ := countBeat_cad s beat
    rw [hcad]
    exact ⟨rfl, rfl, rfl, rfl, rfl⟩
  case ignored =>
    rintro (hsrc | ⟨hdelay, hrails⟩)
    · rw [exec_cadInEdge, if_pos hsrc]
    · rw [exec_cadInEdge_now hdelay, takeEdge_ignored (.inr hrails)]
  case edge =>
    rw [exec_cadInEdge_now hdelay, takeEdge_due hsrc hrails hdue]
    exact ⟨fun h => congrArg _ (if_neg h), fun h => congrArg _ (if_pos h)⟩
  case glitch =>
    rintro ⟨a, hat, hearly⟩
    rw [exec_cadInEdge_now hdelay, takeEdge_early hsrc hrails hat hearly]
  case delayed =>
    intro hsrc hdelay
    rw [exec_cadInEdge, if_neg (not_not.2 hsrc), if_neg hdelay]
  case symbol =>
    intro link hops leader beat hlink hsrc hrx hup hlater
    obtain ⟨meas, skip, seq, till, job, hcad⟩ := countBeat_cad { s with cad := { s.cad with hops := BitVec.ofNat 4 hops } } beat
    refine ⟨_, if_pos (decide_eq_true hlink), ?_⟩
    rw [symbolIn_cad hops leader hsrc hrx hup hlater, hcad]
    exact ⟨rfl, rfl, rfl⟩
  case stale =>
    intro link hops leader beat hlink hle
    exact (if_pos (decide_eq_true hlink)).trans (congrArg _ (symbolIn_ignored link hops leader hle))
  case later => exact fun hsrc hlt => (exec_swbeat hopen v hsrc).trans (congrArg _ (if_pos hlt))
  case earlier => exact fun hsrc hle => (exec_swbeat hopen v hsrc).trans (congrArg _ (if_neg (Nat.not_lt.2 hle)))
  case source =>
    intro v hopen hlink
    obtain ⟨c, hexec, hsrc, hrx, hbeat, hat, hselect⟩ := exec_cadSourceChange hopen hlink
    exact ⟨_, hexec, hsrc, hrx, hbeat, fun h => ⟨hat, hselect h⟩, rfl⟩
  case lost => exact fun hsrc hlost hdue => ⟨_, rfl, loseCadence_cad hsrc hlost hdue⟩

end Sys2Proof.Machine
end

section
/-! SUPPORT. Registers of BAR0 for instances other than 0, what a ring's commands leave of the other instances, and the state after reset
(R314, R318, R323 to R338, R345). -/

namespace Sys2Proof.Machine
open Sys2Proof

/-! ## Accesses of BAR0 by instances other than 0 (R318) -/

section
variable {src : Nat} (hsrc : src ≠ 0) (s : State)
include hsrc

theorem regOpen_other : s.regOpen src = false := by simp [State.regOpen, hsrc]

theorem earlyOpen_other : s.earlyOpen src = false := by simp [State.earlyOpen, hsrc]

theorem bootOpen_other : s.bootOpen src = false := by simp [State.bootOpen, earlyOpen_other hsrc]

theorem windowOpen_other (off : Nat) : s.windowOpen src off = false := by simp [State.windowOpen, bootOpen_other hsrc]

theorem blockOpen_other (blk : Nat) : s.blockOpen src blk = false := by
  simp [State.blockOpen, earlyOpen_other hsrc, bootOpen_other hsrc, regOpen_other hsrc, hsrc]

/-- The commands that write where their block is open. -/
theorem exec_guarded_other (v : BitVec 32) (w : BitVec 64) : ∀ c ∈ [Instr.reelClr src v, .hbmFence src v, .hbmRetire src v,
    .hbmRetireUndoPage src v, .hbmRetireUndoChannel src v, .hbmMargin src v, .llcClr src v, .llcSel src v, .swbeat src w, .cadBeatPreset src w,
    .cadClr src v, .errFence src v, .bistGo src v, .persDefaults src v, .quiesce src v, .arm src v, .stageErase src v, .bootRecover src v],
    exec c s = .next s := by
  have hready := regOpen_other hsrc s
  have hearly := earlyOpen_other hsrc s
  have hboot := bootOpen_other hsrc s
  simp only [List.forall_mem_cons]
  refine ⟨?_, ?_, ?_, ?_, ?_, ?_, ?_, ?_, ?_, ?_, ?_, ?_, ?_, ?_, ?_, ?_, ?_, ?_, List.forall_mem_nil _⟩
  all_goals exact congrArg _ (if_neg (by simp [hready, hearly, hboot]))

/-- The commands that do nothing where their block is closed. -/
theorem exec_skipped_other (v : BitVec 32) (off : Nat) (data : List Byte) (en : Bool) : ∀ c ∈ [Instr.cadSourceChange src v, .d2dFence src v,
    .foehnClr src v, .thermClr src v, .dataWindowWrite src off data en], exec c s = .next s := by
  have hready := regOpen_other hsrc s
  have hwindow := windowOpen_other hsrc s off
  simp only [List.forall_mem_cons]
  refine ⟨?_, ?_, ?_, ?_, ?_, List.forall_mem_nil _⟩
  all_goals exact congrArg _ (if_pos (by simp [hready, hwindow]))

/-- The commands on a numbered range, collective, sector or ring. -/
theorem exec_unit_other {n : Nat} (hn : n < 64) (v : BitVec 32) : ∀ c ∈ [Instr.nearHomeEnable src n v, .collEnable src n v, .sectorGate src n v,
    .sectorUngate src n v, .ringEnable src n v, .ringDisable src n v], exec c s = .next s := by
  have hready := regOpen_other hsrc s
  have hearly := earlyOpen_other hsrc s
  simp only [List.forall_mem_cons]
  refine ⟨(onUnit_lt hn _).trans (congrArg _ (if_pos (by simp [hready]))), ?_, ?_, ?_, ?_, ?_, List.forall_mem_nil _⟩
  all_goals exact (onUnit_lt hn _).trans (congrArg _ (if_neg (by simp [hready, hearly])))

/-- A write of a register of BAR0 is discarded. -/
theorem exec_registerWrite_other {off : Nat} (hoff : off < 2 ^ 26) (size : Nat) (w : BitVec 64) :
    exec (.registerWrite src off size w) s = .next s := by
  have hclosed : (if s.blockOpen src (off / 2 ^ 16) then s.writeBar0 off size w.toNat else s) = s :=
    if_neg (by simp [blockOpen_other hsrc])
  have hexec : exec (.registerWrite src off size w) s = execRegisterWrite src off size w s := rfl
  rw [hexec, execRegisterWrite, if_pos hoff, hclosed, ite_self]

/-- A read of a register of BAR0 answers zeros. -/
theorem exec_counterLowRead_other {off : Nat} (hoff : off < 2 ^ 26) (size : Nat) :
    exec (.counterLowRead src ⟨off, size⟩) s = .next (s.send (.readCompletion (leBytes size 0) false)) := by
  have hexec : exec (.counterLowRead src ⟨off, size⟩) s = execCounterLowRead src ⟨off, size⟩ s := rfl
  rw [hexec, execCounterLowRead]
  dsimp only
  have hclosed : (!s.blockOpen src (off / 2 ^ 16)) = true := by rw [blockOpen_other hsrc]; rfl
  rw [if_neg (Nat.not_le.2 hoff), if_pos hclosed, ite_self]

theorem exec_cadBeatRead_other : exec (.cadBeatRead src) s = .next (s.send (.readCompletion (leBytes 8 0) false)) :=
  congrArg _ (if_neg (by simp [regOpen_other hsrc]))

theorem exec_dataWindowRead_other (off size : Nat) (en : Bool) :
    exec (.dataWindowRead src off size en) s = .next (s.send (.readCompletion (leBytes size 0) false)) :=
  congrArg _ (if_pos (by simp [windowOpen_other hsrc]))

end

/-! ## What a ring's commands leave of the other instances (R323 to R338) -/

/-- All instances but i are as they were, and so are HBM's bytes, the cores and the clusters. -/
structure OthersKept (i : Nat) (b s : State) : Prop where
  insts : ∀ j, j ≠ i → s.inst j = b.inst j
  hbm : s.mem.hbm = b.mem.hbm
  cores : s.cores = b.cores
  clusters : s.clusters = b.clusters

section
variable {i : Nat} {b s : State}

theorem OthersKept.refl (i : Nat) (b : State) : OthersKept i b b := ⟨fun _ _ => rfl, rfl, rfl, rfl⟩

/-- A change outside the instances, memory, the cores and the clusters. -/
theorem OthersKept.same {t : State} (h : OthersKept i b s) (e : (t.insts, t.mem, t.cores, t.clusters) = (s.insts, s.mem, s.cores, s.clusters)) :
    OthersKept i b t := by
  simp only [Prod.mk.injEq] at e
  obtain ⟨hinsts, hmem, hcores, hclusters⟩ := e
  exact ⟨fun j hj => (congrArg (fun m => NMap.at m j ({} : Inst)) hinsts).trans (h.insts j hj), hmem ▸ h.hbm, hcores.trans h.cores,
    hclusters.trans h.clusters⟩

theorem OthersKept.updInst (h : OthersKept i b s) (f : Inst → Inst) : OthersKept i b (s.updInst i f) :=
  ⟨fun j hj => by rw [updInst_eq, setInst_inst, if_neg hj, h.insts j hj], h.hbm, h.cores, h.clusters⟩

theorem OthersKept.hostWrite (h : OthersKept i b s) (bus : Nat) (bs : List Byte) : OthersKept i b (s.hostWrite i bus bs) := by
  refine ⟨fun j hj => (hostWrite_inst s i bus bs j).trans (h.insts j hj), ?_, (hostWrite_cores s i bus bs).trans h.cores,
    (hostWrite_clusters s i bus bs).trans h.clusters⟩
  unfold State.hostWrite
  split <;> exact h.hbm

theorem OthersKept.interrupt (h : OthersKept i b s) (v : Nat) : OthersKept i b (s.interrupt v) := by
  unfold State.interrupt
  dsimp only
  split
  · exact h
  · split <;> exact h.same rfl

theorem OthersKept.putRecord (h : OthersKept i b s) (r : Record) : OthersKept i b (s.putRecord i r) := by
  have hwritten := (h.hostWrite ((s.inst i).ring.eqbase.toNat + 32 * ((s.inst i).ring.eqtail.toNat % 2 ^ (s.inst i).ring.eqlog)) r.bytes).updInst
    (fun x => { x with ring := { x.ring with eqtail := x.ring.eqtail + 1 } })
  exact iteInduction (fun _ => hwritten) fun _ => hwritten.interrupt _

theorem OthersKept.event (h : OthersKept i b s) (r : Record) : OthersKept i b (s.event i r) := by
  unfold State.event
  exact iteInduction (fun _ => h.updInst _) fun _ => iteInduction (fun _ => h.putRecord r) fun _ =>
    iteInduction (fun _ => h.updInst _) fun _ => h.updInst _

/-- Held events take the slots that are released (R337). -/
theorem OthersKept.flushHeld (n : Nat) (h : OthersKept i b s) : OthersKept i b (s.flushHeld n i) := by
  induction n generalizing s with
  | zero => exact h
  | succ n ih =>
    unfold State.flushHeld
    dsimp only
    split
    · exact iteInduction (fun _ => (h.putRecord _).updInst _) fun _ => h
    · exact iteInduction (fun _ => ih ((h.updInst _).putRecord _)) fun _ => h

theorem OthersKept.cqInterrupt (h : OthersKept i b s) : OthersKept i b (s.cqInterrupt i) := by
  unfold State.cqInterrupt
  exact iteInduction (fun _ => h) fun _ => iteInduction (fun _ => h.interrupt _) fun _ =>
    iteInduction (fun _ => (h.updInst _).interrupt _) fun _ => h.updInst _

theorem OthersKept.complete (h : OthersKept i b s) (idx status result : Nat) : OthersKept i b (s.complete i idx status result) := by
  have hput : ∀ {u : State}, OthersKept i b u → ∀ tag ty noirq, OthersKept i b (u.putCompletion i tag status ty noirq result) :=
    fun hu _ _ _ => iteInduction (fun _ => (hu.hostWrite _ _).updInst _) fun _ => ((hu.hostWrite _ _).updInst _).cqInterrupt
  unfold State.complete
  split
  · exact h
  · exact iteInduction (fun _ => h.updInst _) fun _ => hput (h.updInst _) _ _ _

theorem OthersKept.updEntry (h : OthersKept i b s) (idx : Nat) (f : Entry → Entry) : OthersKept i b (s.updEntry i idx f) := h.updInst _

theorem OthersKept.listEntry (h : OthersKept i b s) (e : Entry) : OthersKept i b (s.listEntry i e) :=
  iteInduction (fun _ => (h.updInst _).updInst _) fun _ => h.updInst _

end

section
variable {i : Nat} (hi : i < 64) (s : State)
include hi

/-- A command on i, one of the 64 instances, whose effect leaves the other instances as they were. -/
theorem exists_othersKept {c : Instr} {t : State} (hexec : exec c s = onUnit (i < 64) t) (h : OthersKept i s t) :
    ∃ t, exec c s = .next t ∧ OthersKept i s t := ⟨t, hexec.trans (onUnit_lt hi t), h⟩

theorem doorbell_others (size : Nat) (v : BitVec 32) : ∃ t, exec (.doorbell i size v) s = .next t ∧ OthersKept i s t :=
  exists_othersKept hi s rfl <| iteInduction (fun _ => .refl i s) fun _ => iteInduction (fun _ => .refl i s) fun _ =>
    iteInduction (fun _ => ((OthersKept.refl i s).updInst _).event _) fun _ => (OthersKept.refl i s).updInst _

theorem cqdb_others (v : BitVec 32) : ∃ t, exec (.cqdb i v) s = .next t ∧ OthersKept i s t :=
  exists_othersKept hi s rfl <| iteInduction (fun _ => (OthersKept.refl i s).updInst _) fun _ => .refl i s

theorem eqdb_others (v : BitVec 32) : ∃ t, exec (.eqdb i v) s = .next t ∧ OthersKept i s t :=
  exists_othersKept hi s rfl <| iteInduction (fun _ => ((OthersKept.refl i s).updInst _).flushHeld 65) fun _ => .refl i s

theorem intctl_others (v : BitVec 32) : ∃ t, exec (.intctl i v) s = .next t ∧ OthersKept i s t := by
  have hset : ∀ f g : Inst → Inst, ∀ (p : Prop) [Decidable p] vec,
      OthersKept i s (if p then ((s.updInst i f).updInst i g).interrupt vec else s.updInst i f) := fun f g _ _ _ =>
    iteInduction (fun _ => (((OthersKept.refl i s).updInst f).updInst g).interrupt _) fun _ => (OthersKept.refl i s).updInst f
  exact exists_othersKept hi s rfl <| iteInduction (fun _ => .refl i s) fun _ =>
    iteInduction (fun _ => (hset _ _ _ _).interrupt _) fun _ => hset _ _ _ _

theorem cqCoalesceTimeout_others : ∃ t, exec (.cqCoalesceTimeout i) s = .next t ∧ OthersKept i s t := by
  refine exists_othersKept hi s rfl ?_
  dsimp only
  split
  · exact .refl i s
  · exact iteInduction (fun _ => .refl i s) fun _ => ((OthersKept.refl i s).updInst _).interrupt _

theorem entryFetch_others : ∃ t, exec (.entryFetch i) s = .next t ∧ OthersKept i s t := by
  cases hmay : s.mayFetch i with
  | false =>
    refine ⟨s, (onUnit_lt hi _).trans (congrArg _ (if_pos ?_)), .refl i s⟩
    rw [hmay]; rfl
  | true =>
    refine ⟨_, exec_entryFetch hi hmay rfl rfl, ?_⟩
    have hlisted := (OthersKept.refl i s).listEntry (s.headEntry i)
    exact iteInduction (fun _ => hlisted.complete _ _ _) fun _ => iteInduction (fun _ => hlisted.complete _ _ _) fun _ =>
      iteInduction (fun _ => hlisted.complete _ _ _) fun _ => iteInduction (fun _ => hlisted) fun _ =>
      iteInduction (fun _ => hlisted.updEntry _ _) fun _ => iteInduction (fun _ => (hlisted.updEntry _ _).same rfl) fun _ =>
      hlisted.updEntry _ _

variable (idx : Nat)

theorem launch_others : ∃ t, exec (.launch i idx) s = .next t ∧ OthersKept i s t := by
  refine exists_othersKept hi s rfl ?_
  dsimp only
  split
  · exact .refl i s
  · exact iteInduction (fun _ => .refl i s) fun _ => ((OthersKept.refl i s).updEntry idx _).same rfl

theorem fenceEntry_others : ∃ t, exec (.fenceEntry i idx) s = .next t ∧ OthersKept i s t := by
  refine exists_othersKept hi s rfl ?_
  split
  · exact .refl i s
  · exact iteInduction (fun _ => (OthersKept.refl i s).complete idx 0 0) fun _ => .refl i s

theorem event_others : ∃ t, exec (.event i idx) s = .next t ∧ OthersKept i s t := by
  refine exists_othersKept hi s rfl ?_
  split
  · exact .refl i s
  · exact iteInduction (fun _ => ((OthersKept.refl i s).event _).complete idx 0 0) fun _ => .refl i s

theorem taggedRelease_others : ∃ t, exec (.taggedRelease i idx) s = .next t ∧ OthersKept i s t := by
  refine exists_othersKept hi s rfl ?_
  split
  · exact .refl i s
  · exact iteInduction (fun _ => (OthersKept.refl i s).updEntry idx _) fun _ => .refl i s

end

/-- Settles O59: a closed block discards a write and answers zeros to a read, for each way in which a command tests its block; what a ring's
command changes of the instances is its own one. -/
theorem instancesAndRegistersStayApart : Obligations.InstancesAndRegistersStayApart := by
  unfold Obligations.InstancesAndRegistersStayApart
  refine ⟨fun s src n off size v w data en hsrc hn => ⟨?writes, fun hoff => ⟨exec_registerWrite_other hsrc s hoff size w,
    exec_counterLowRead_other hsrc s hoff size⟩, exec_cadBeatRead_other hsrc s, exec_dataWindowRead_other hsrc s off size en⟩,
    fun s i idx size v hi c hc => ?rings⟩
  case writes =>
    have hguarded := exec_guarded_other hsrc s v w
    have hskipped := exec_skipped_other hsrc s v off data en
    have hunit := exec_unit_other hsrc s hn v
    simp only [List.forall_mem_cons] at hguarded hskipped hunit ⊢
    simp only [hguarded, hskipped, hunit, true_and]
    exact List.forall_mem_nil _
  case rings =>
    have hkept : ∃ t, exec c s = .next t ∧ OthersKept i s t := by
      simp only [List.mem_cons, List.not_mem_nil, or_false] at hc
      obtain rfl | rfl | rfl | rfl | rfl | rfl | rfl | rfl | rfl | rfl := hc
      · exact doorbell_others hi s size v
      · exact cqdb_others hi s v
      · exact eqdb_others hi s v
      · exact intctl_others hi s v
      · exact entryFetch_others hi s
      · exact launch_others hi s idx
      · exact fenceEntry_others hi s idx
      · exact event_others hi s idx
      · exact taggedRelease_others hi s idx
      · exact cqCoalesceTimeout_others hi s
    obtain ⟨t, hexec, hothers, hhbm, hcores, hclusters⟩ := hkept
    exact ⟨t, hexec, hothers, hhbm, hcores, hclusters⟩

/-! ## The state after reset (R314, R345, R346, R424) -/

/-- A memory that lists no byte is in canonical form. -/
theorem memWf_empty : Mem.wf {} := ⟨⟨.nil, nofun⟩, ⟨.nil, nofun⟩⟩

/-- Settles O57: the values are those that `State.reset` lists, or the defaults of its blocks. -/
theorem resetValues : Obligations.ResetValues :=
  ⟨memWf_empty, rfl, rfl, rfl, rfl, rfl, rfl, rfl, rfl, rfl, rfl, rfl, rfl, rfl⟩

end Sys2Proof.Machine
end

section
/-! SUPPORT. The slots of the rings: doorbells, heads written by the host, interrupts and the ring set-up (R319, R323, R324, R335 to R338, R343). -/

namespace Sys2Proof.Machine
open Sys2Proof

/-! ## What records leave of their ring (R336, R337) -/

theorem interrupt_mem (s : State) (v : Nat) : (s.interrupt v).mem = s.mem :=
  iteInduction (motive := fun u : State => u.mem = s.mem) (fun _ => rfl) fun _ =>
    iteInduction (motive := fun u : State => u.mem = s.mem) (fun _ => rfl) fun _ => rfl

theorem updInst_inst_same (s : State) (i : Nat) (f : Inst → Inst) : (s.updInst i f).inst i = f (s.inst i) := by
  rw [updInst_eq, setInst_inst, if_pos rfl]

theorem putRecord_ring (s : State) (i : Nat) (r : Record) :
    ((s.putRecord i r).inst i).ring = { (s.inst i).ring with eqtail := (s.inst i).ring.eqtail + 1 } := by
  have hwritten : ∀ bus bs, (((s.hostWrite i bus bs).updInst i
      (fun x => { x with ring := { x.ring with eqtail := x.ring.eqtail + 1 } })).inst i).ring =
      { (s.inst i).ring with eqtail := (s.inst i).ring.eqtail + 1 } := fun bus bs => by
    rw [updInst_inst_same, hostWrite_inst]
  unfold State.putRecord
  dsimp only
  split
  · exact hwritten _ _
  · rw [interrupt_inst]; exact hwritten _ _

/-- An event moves the tail of its ring, the events held and the counts of those lost (R337). -/
theorem event_ring (s : State) (i : Nat) (r : Record) : ∃ tail drop lost held, ((s.event i r).inst i).ring =
    { (s.inst i).ring with eqtail := tail, eqdrop := drop, lost := lost, eqHeld := held } := by
  unfold State.event
  dsimp only
  split
  · exact ⟨_, _, _, _, by rw [updInst_inst_same]⟩
  · split
    · exact ⟨_, _, _, _, putRecord_ring s i r⟩
    · split
      · exact ⟨_, _, _, _, by rw [updInst_inst_same]⟩
      · exact ⟨_, _, _, _, by rw [updInst_inst_same]⟩

/-- Held events that take free slots move the tail, shorten the list of those held and may end the count of those lost (R337). -/
theorem flushHeld_ring (n i : Nat) (s : State) : ∃ tail lost held, ((s.flushHeld n i).inst i).ring =
    { (s.inst i).ring with eqtail := tail, lost := lost, eqHeld := held } ∧ held.length ≤ (s.inst i).ring.eqHeld.length := by
  induction n generalizing s with
  | zero => exact ⟨_, _, _, rfl, le_rfl⟩
  | succ n ih =>
    unfold State.flushHeld
    dsimp only
    split
    · split
      · exact ⟨_, _, _, by rw [updInst_inst_same, putRecord_ring], le_rfl⟩
      · exact ⟨_, _, _, rfl, le_rfl⟩
    case h_2 r rs hheld =>
      split
      · obtain ⟨tail, lost, held, hring, hlen⟩ :=
          ih ((s.updInst i (fun x => { x with ring := { x.ring with eqHeld := rs } })).putRecord i r)
        rw [putRecord_ring, updInst_inst_same] at hring hlen
        refine ⟨tail, lost, held, hring, hlen.trans ?_⟩
        rw [hheld]
        exact Nat.le_succ rs.length
      · exact ⟨_, _, _, rfl, le_rfl⟩

/-- With no event held and none lost there is nothing to write. -/
theorem flushHeld_none {s : State} {i : Nat} (n : Nat) (hheld : (s.inst i).ring.eqHeld = []) (hlost : (s.inst i).ring.lost = 0) :
    s.flushHeld n i = s := by
  cases n with
  | zero => rfl
  | succ n => simp [State.flushHeld, hheld, hlost]

/-- A head is taken if it lies ahead of the recorded one and not past the slots written. -/
theorem headOk_eq (w head tail : BitVec 32) : headOk w head tail = decide (0 < diff32 w head ∧ 0 ≤ diff32 tail w) := by
  rw [Bool.decide_and]; rfl

/-- A write of the RING.CFG fields that R323 accepts: the three sizes lie in 6 to 16. -/
def RingSizesOk (v : BitVec 32) : Prop := ∀ lo ∈ [0, 8, 16], 6 ≤ fld v.toNat lo 5 ∧ fld v.toNat lo 5 ≤ 16

/-- The fields of a ring that INTCTL writes (R338). -/
def Ring.withIntctl (g : Ring) (v : BitVec 32) : Ring :=
  { g with cqmask := v.getLsbD 0, eqmask := v.getLsbD 1, cqcnt := BitVec.ofNat 8 (fld v.toNat 8 8), cqtime := BitVec.ofNat 16 (fld v.toNat 16 16) }

/-- A state in which the fields of INTCTL have been written: nothing else of the ring has moved but what is pending for coalescing. -/
def IntctlKept (i : Nat) (v : BitVec 32) (s t : State) : Prop := t.mem = s.mem ∧
  ∃ n first, (t.inst i).ring = { (s.inst i).ring.withIntctl v with cqPending := n, cqFirst := first }

theorem IntctlKept.interrupt {i : Nat} {v : BitVec 32} {s t : State} (h : IntctlKept i v s t) (vec : Nat) :
    IntctlKept i v s (t.interrupt vec) := by
  obtain ⟨hmem, n, first, hring⟩ := h
  exact ⟨(interrupt_mem t vec).trans hmem, n, first, by rw [interrupt_inst, hring]⟩

theorem IntctlKept.clearPending {i : Nat} {v : BitVec 32} {s t : State} (h : IntctlKept i v s t) :
    IntctlKept i v s (t.updInst i (fun x => { x with ring := { x.ring with cqPending := 0, cqFirst := none } })) := by
  obtain ⟨hmem, n, first, hring⟩ := h
  exact ⟨hmem, 0, none, by rw [updInst_inst_same, hring]⟩

/-- A ring that RING.CFG has just enabled (R323). -/
def Ring.enabled (g : Ring) (v : BitVec 32) : Ring :=
  { g with
    sqlog := fld v.toNat 0 5, cqlog := fld v.toNat 8 5, eqlog := fld v.toNat 16 5, en := true
    sqhead := 0, sqtail := 0, cqtail := 0, eqtail := 0, cqhead := 0, eqhead := 0 }

section
variable {s : State} {i : Nat} {v : BitVec 32}

/-- The test by which a write of RING.CFG is discarded. -/
theorem ringSizesOk_iff : RingSizesOk v ↔ (!(6 ≤ fld v.toNat 0 5 && fld v.toNat 0 5 ≤ 16) || !(6 ≤ fld v.toNat 8 5 && fld v.toNat 8 5 ≤ 16) ||
    !(6 ≤ fld v.toNat 16 5 && fld v.toNat 16 5 ≤ 16)) = false := by
  simp [RingSizesOk, and_assoc]

theorem writeRingCfg_discarded (h : ¬ RingSizesOk v) : s.writeRingCfg i v = s :=
  if_pos (Bool.not_eq_false _ ▸ mt ringSizesOk_iff.2 h)

theorem writeRingCfg_disable (hen : (s.inst i).ring.en = true) (hv : v.getLsbD 31 = false) (hsizes : RingSizesOk v) :
    s.writeRingCfg i v = s.updInst i (fun x => { x with ring := { x.ring with en := false } }) :=
  (if_neg (Bool.not_eq_true _ ▸ ringSizesOk_iff.1 hsizes)).trans ((if_pos hen).trans (if_neg (Bool.not_eq_true _ ▸ hv)))

theorem writeRingCfg_enable (hen : (s.inst i).ring.en = false) (hentries : (s.inst i).entries = []) (hv : v.getLsbD 31 = true)
    (hsizes : RingSizesOk v) (hheld : (s.inst i).ring.eqHeld = []) (hlost : (s.inst i).ring.lost = 0) :
    s.writeRingCfg i v = (s.updInst i (fun x => { x with ring := { x.ring with
      sqlog := fld v.toNat 0 5, cqlog := fld v.toNat 8 5, eqlog := fld v.toNat 16 5 } })).updInst i (fun x => { x with
        launchLog := [], ring := { x.ring with en := true, sqhead := 0, sqtail := 0, cqtail := 0, eqtail := 0, cqhead := 0, eqhead := 0 } }) := by
  refine (if_neg (Bool.not_eq_true _ ▸ ringSizesOk_iff.1 hsizes)).trans ((if_neg (Bool.not_eq_true _ ▸ hen)).trans
    ((if_neg (not_not.2 hentries)).trans ((if_neg (by simp [hv])).trans (flushHeld_none _ ?_ ?_))))
  · rw [updInst_inst_same, updInst_inst_same]; exact hheld
  · rw [updInst_inst_same, updInst_inst_same]; exact hlost

end

section
variable {s : State} {i : Nat} {v : BitVec 32} (hi : i < 64)
include hi

/-! ## DOORBELL (R323, R324) -/

theorem exec_doorbell_ahead (hopen : s.doorOpen i = true) (hen : (s.inst i).ring.en = true) (hahead : 0 < diff32 v (s.inst i).ring.sqtail)
    (hfits : (v - (s.inst i).ring.sqhead).toNat ≤ 2 ^ (s.inst i).ring.sqlog) :
    exec (.doorbell i 4 v) s = .next (s.updInst i (fun x => { x with ring := { x.ring with sqtail := v } })) :=
  (onUnit_lt hi _).trans (congrArg _ ((if_neg (by simp [hopen, hen])).trans ((if_neg (not_le.2 hahead)).trans (if_neg (not_lt.2 hfits)))))

theorem exec_doorbell_behind (hbehind : diff32 v (s.inst i).ring.sqtail ≤ 0) : exec (.doorbell i 4 v) s = .next s :=
  (onUnit_lt hi _).trans (congrArg _ ((congrArg _ (if_pos hbehind)).trans (ite_self s)))

/-- A doorbell further ahead than the ring is long is an overrun: an event, and SQTAIL stays. -/
theorem exec_doorbell_overrun (hopen : s.doorOpen i = true) (hen : (s.inst i).ring.en = true) (hahead : 0 < diff32 v (s.inst i).ring.sqtail)
    (hover : 2 ^ (s.inst i).ring.sqlog < (v - (s.inst i).ring.sqhead).toNat) : ∃ t, exec (.doorbell i 4 v) s = .next t ∧
      (t.inst i).ring.overrun = true ∧ (t.inst i).ring.sqtail = (s.inst i).ring.sqtail := by
  refine ⟨_, (onUnit_lt hi _).trans (congrArg _ ((if_neg (by simp [hopen, hen])).trans ((if_neg (not_le.2 hahead)).trans (if_pos hover)))), ?_⟩
  obtain ⟨tail, drop, lost, held, hring⟩ := event_ring (s.updInst i (fun x => { x with ring := { x.ring with overrun := true } })) i
    (State.record (s.updInst i (fun x => { x with ring := { x.ring with overrun := true } })) 3 2 0 (blockUnit 4 0)
      (v.toNat + (s.inst i).ring.sqtail.toNat * 2 ^ 32))
  rw [hring, updInst_inst_same]
  exact ⟨rfl, rfl⟩

/-! ## CQDB and EQDB (R335) -/

theorem exec_cqdb_taken (hopen : s.doorOpen i = true) (hhead : 0 < diff32 v (s.inst i).ring.cqhead) (htail : 0 ≤ diff32 (s.inst i).ring.cqtail v) :
    exec (.cqdb i v) s = .next (s.updInst i (fun x => { x with ring := { x.ring with cqhead := v } })) :=
  (onUnit_lt hi _).trans (congrArg _ (if_pos (by simp [hopen, headOk_eq, hhead, htail])))

theorem exec_cqdb_ignored (h : diff32 (s.inst i).ring.cqtail v < 0 ∨ diff32 v (s.inst i).ring.cqhead ≤ 0) : exec (.cqdb i v) s = .next s :=
  (onUnit_lt hi _).trans (congrArg _ (if_neg (by simp only [headOk_eq, Bool.and_eq_true, decide_eq_true_eq]; omega)))

theorem exec_eqdb_ignored (h : diff32 (s.inst i).ring.eqtail v < 0 ∨ diff32 v (s.inst i).ring.eqhead ≤ 0) : exec (.eqdb i v) s = .next s :=
  (onUnit_lt hi _).trans (congrArg _ (if_neg (by simp only [headOk_eq, Bool.and_eq_true, decide_eq_true_eq]; omega)))

theorem exec_eqdb_taken (hopen : s.doorOpen i = true) (hhead : 0 < diff32 v (s.inst i).ring.eqhead) (htail : 0 ≤ diff32 (s.inst i).ring.eqtail v) :
    exec (.eqdb i v) s = .next ((s.updInst i (fun x => { x with ring := { x.ring with eqhead := v } })).flushHeld 65 i) :=
  (onUnit_lt hi _).trans (congrArg _ (if_pos (by simp [hopen, headOk_eq, hhead, htail])))

/-! ## Interrupts (R338) -/

theorem exec_cqCoalesceTimeout {n : Nat} (hfirst : (s.inst i).ring.cqFirst = some n) (htime : (s.inst i).ring.cqtime ≠ 0)
    (hdue : n + 1000 * (s.inst i).ring.cqtime.toNat ≤ s.clock.now) (hmask : (s.inst i).ring.cqmask = false) :
    exec (.cqCoalesceTimeout i) s = .next ((s.updInst i (fun x =>
      { x with ring := { x.ring with cqPending := 0, cqFirst := none } })).interrupt (s.inst i).ring.cqvec.toNat) := by
  refine (onUnit_lt hi _).trans (congrArg _ ?_)
  dsimp only
  rw [hfirst]
  exact if_neg (by simpa [hdue, hmask] using htime)

/-- INTCTL keeps the fields written; it may send interrupts. -/
theorem exec_intctl (hopen : s.ringsOpen = true) : ∃ t, exec (.intctl i v) s = .next t ∧ IntctlKept i v s t := by
  have hset : IntctlKept i v s (s.updInst i (fun x => { x with ring := x.ring.withIntctl v })) :=
    ⟨rfl, _, _, by rw [updInst_inst_same]⟩
  have hcq : ∀ (p : Prop) [Decidable p] vec, IntctlKept i v s (if p then
      ((s.updInst i (fun x => { x with ring := x.ring.withIntctl v })).updInst i
        (fun x => { x with ring := { x.ring with cqPending := 0, cqFirst := none } })).interrupt vec
      else s.updInst i (fun x => { x with ring := x.ring.withIntctl v })) := fun _ _ _ =>
    iteInduction (fun _ => hset.clearPending.interrupt _) fun _ => hset
  refine ⟨_, (onUnit_lt hi _).trans (congrArg _ (if_neg (by simp [hopen]))), ?_⟩
  exact iteInduction (motive := IntctlKept i v s) (fun _ => (hcq _ _).interrupt _) fun _ => hcq _ _

/-! ## The ring set-up (R323, R343) -/

theorem exec_ringEnable (hopen : s.earlyOpen 0 = true) (hen : (s.inst i).ring.en = false) (hentries : (s.inst i).entries = [])
    (hv : v.getLsbD 31 = true) (hsizes : RingSizesOk v) (hheld : (s.inst i).ring.eqHeld = []) (hlost : (s.inst i).ring.lost = 0) :
    ∃ t, exec (.ringEnable 0 i v) s = .next t ∧ t.mem = s.mem ∧ (t.inst i).ring = (s.inst i).ring.enabled v := by
  refine ⟨_, (onUnit_lt hi _).trans (congrArg _ ((if_pos hopen).trans (writeRingCfg_enable hen hentries hv hsizes hheld hlost))), rfl, ?_⟩
  rw [updInst_inst_same, updInst_inst_same]
  rfl

theorem exec_ringDisable (hopen : s.earlyOpen 0 = true) (hen : (s.inst i).ring.en = true) (hv : v.getLsbD 31 = false) (hsizes : RingSizesOk v) :
    exec (.ringDisable 0 i v) s = .next (s.updInst i (fun x => { x with ring := { x.ring with en := false } })) :=
  (onUnit_lt hi _).trans (congrArg _ ((if_pos hopen).trans (writeRingCfg_disable hen hv hsizes)))

theorem exec_ringDisable_discarded (hopen : s.earlyOpen 0 = true) (hsizes : ¬ RingSizesOk v) : exec (.ringDisable 0 i v) s = .next s :=
  (onUnit_lt hi _).trans (congrArg _ ((if_pos hopen).trans (writeRingCfg_discarded hsizes)))

end

theorem exec_quiesce {s : State} (v : BitVec 32) (hopen : s.earlyOpen 0 = true) :
    exec (.quiesce 0 v) s = .next { s with host := { s.host with quiesce := v.getLsbD 0 } } := congrArg _ (if_pos hopen)

/-- Settles O31: each clause is the lemma of its command and of the branch that it describes. -/
theorem ringSlots : Obligations.RingSlots := by
  unfold Obligations.RingSlots
  intro s i v hi
  refine ⟨exec_doorbell_ahead hi, fun _ => exec_doorbell_behind hi, exec_doorbell_overrun hi, exec_cqdb_taken hi, exec_cqdb_ignored hi,
    exec_eqdb_ignored hi, fun hopen hhead htail => ?eqdb, fun n => exec_cqCoalesceTimeout hi, fun hopen => ?intctl,
    fun hopen hen hentries hv hsizes hheld hlost => ?enable, fun hopen hen hv => ⟨exec_ringDisable hi hopen hen hv, fun hbad => ?discarded⟩,
    exec_quiesce v⟩
  case eqdb =>
    have hexec := exec_eqdb_taken hi hopen hhead htail
    obtain ⟨t, hexec', hothers, -⟩ := eqdb_others hi s v
    obtain rfl := Host.Outcome.next.inj (hexec'.symm.trans hexec)
    obtain ⟨tail, lost, held, hring, hlen⟩ := flushHeld_ring 65 i (s.updInst i (fun x => { x with ring := { x.ring with eqhead := v } }))
    rw [updInst_inst_same] at hring hlen
    exact ⟨_, hexec, by rw [hring], by rw [hring], by rw [hring]; exact hlen, hothers⟩
  case intctl =>
    obtain ⟨t, hexec, hmem, n, first, hring⟩ := exec_intctl (v := v) hi hopen
    obtain ⟨u, hexec', hothers, -⟩ := intctl_others hi s v
    obtain rfl := Host.Outcome.next.inj (hexec'.symm.trans hexec)
    exact ⟨_, hexec, by rw [hring]; rfl, by rw [hring]; rfl, by rw [hring]; rfl, by rw [hring]; rfl, hothers, hmem⟩
  case enable =>
    obtain ⟨t, hexec, hmem, hring⟩ := exec_ringEnable hi hopen hen hentries hv hsizes hheld hlost
    exact ⟨t, _, hexec, rfl, hring ▸ rfl, hring ▸ rfl, hring ▸ rfl, hmem⟩
  case discarded =>
    obtain ⟨lo, hlo, hout⟩ := hbad
    exact exec_ringDisable_discarded hi hopen fun hsizes => by have := hsizes lo hlo; omega

end Sys2Proof.Machine
end

section
/-! SUPPORT. The data port: one access of a write or a read, and what waits (R340 to R342, R473). -/

namespace Sys2Proof.Machine
open Sys2Proof

/-! ## Values -/

theorem anyPoison_clean (bs : List Byte) : anyPoison (clean bs) = false := by
  simp [anyPoison, clean]

theorem bytes_of_width_zero {d : DPort} (h : d.width = 0) : d.bytes = 4 := by
  rw [DPort.bytes, h]; rfl

/-- An access moves ADDR and nothing else. -/
theorem advance_eq (d : DPort) : d.advance = { d with addr := d.advance.addr } := by
  unfold DPort.advance
  split <;> rfl

variable {s : State}

theorem windowSize_four (hwidth : s.dport.width = 0) : s.windowSize 4 true = false := by
  rw [State.windowSize, bytes_of_width_zero hwidth]; rfl

/-! ## Bytes programmed in the staging area (R473) -/

/-- Programming moves the boot block and the clock's free values alone. -/
theorem stagingWrite_eq (s : State) (off : Nat) (bs : List Byte) : ∃ c b, s.stagingWrite off bs = { s with clock := c, boot := b } := by
  refine List.foldlRecOn (motive := fun t => ∃ c b, t = { s with clock := c, boot := b }) _ _ ⟨s.clock, s.boot, rfl⟩ fun t ht k _ => ?_
  obtain ⟨c, b, rfl⟩ := ht
  dsimp only
  split
  · exact ⟨_, _, rfl⟩
  · split
    · exact ⟨_, _, rfl⟩
    · exact ⟨_, _, rfl⟩

/-- What is programmed depends on the staging area and on the free values alone. -/
theorem stagingWrite_staging {t : State} (hclock : t.clock = s.clock) (hstaging : t.boot.staging = s.boot.staging) (off : Nat) (bs : List Byte) :
    (t.stagingWrite off bs).boot.staging = (s.stagingWrite off bs).boot.staging := by
  suffices h : (t.stagingWrite off bs).clock = (s.stagingWrite off bs).clock ∧
      (t.stagingWrite off bs).boot.staging = (s.stagingWrite off bs).boot.staging from h.2
  refine List.foldl_rel (r := fun t s : State => t.clock = s.clock ∧ t.boot.staging = s.boot.staging) ⟨hclock, hstaging⟩ ?_
  rintro k - t s ⟨hclock, hstaging⟩
  dsimp only
  rw [hstaging]
  split
  · exact ⟨hclock, hstaging⟩
  · split
    · simp only [State.draw, hclock, hstaging, and_self]
    · exact ⟨hclock, rfl⟩

/-! ## The accesses received (R342) -/

/-- A state with other accesses received and not yet performed. -/
def State.withWaiting (s : State) (l : List PortAccess) : State := { s with dport := { s.dport with waiting := l } }

theorem withWaiting_nil (h : s.dport.waiting = []) : s.withWaiting [] = s := by
  rw [← h]; rfl

/-- What waits at a home is read off the LLC, its slices and the restores under way. -/
theorem SameHomes.heldRun {t : State} (h : SameHomes s t) (hseq : t.seq = s.seq) (a n : Nat) : t.heldRun a n = s.heldRun a n := by
  have hslice : ∀ k, t.slice k = s.slice k := fun k => congrArg (fun m => NMap.at m k ({} : Slice)) h.slices
  have hheld : ∀ b, t.held b = s.held b := fun b => by
    simp only [State.held, State.lineBlocked, State.nearBusy, State.restoring, h.homeSlice, h.llc, hseq, hslice]
  simp only [State.heldRun, hheld]

theorem heldRun_withDport (s : State) (d : DPort) (a n : Nat) : ({ s with dport := d } : State).heldRun a n = s.heldRun a n :=
  SameHomes.heldRun (s := s) (t := { s with dport := d }) ⟨rfl, rfl⟩ rfl a n

theorem portStalls_withDport (s : State) (d : DPort) (sp : BitVec 2) (a n : Nat) :
    ({ s with dport := d } : State).portStalls sp a n = s.portStalls sp a n := by
  unfold State.portStalls
  rw [heldRun_withDport]

/-- The oldest access received is a write that cannot be performed: it and all behind it wait. -/
theorem drainPort_stalled {sp : BitVec 2} {a : Nat} {bs : List Byte} {r : List PortAccess} (hwaiting : s.dport.waiting = .write sp a bs :: r)
    (hstalls : s.portStalls sp a bs.length = true) : s.drainPort = s := by
  rw [State.drainPort, hwaiting, List.length_cons, State.drainPortN, hwaiting]
  exact if_pos hstalls

/-- The one access received is a write to the staging area. -/
theorem drainPort_program {a : Nat} {bs : List Byte} (hwaiting : s.dport.waiting = [.write 1 a bs]) (herasing : s.boot.erasing = false) :
    s.drainPort = (s.withWaiting []).stagingWrite a bs := by
  have hgoes : ¬ s.portStalls 1 a bs.length = true := Bool.not_eq_true _ ▸ herasing
  rw [State.drainPort, hwaiting, List.length_singleton, State.drainPortN, hwaiting]
  exact if_neg hgoes

/-- The one access received is a read whose line has to wait. -/
theorem drainPort_held {a w : Nat} (hwaiting : s.dport.waiting = [.read [some (0, a)] w]) (hheld : s.heldRun a w = true) : s.drainPort = s := by
  have hread : s.portRead [some (0, a)] w = (none, s) := if_pos (List.any_eq_true.2 ⟨a, List.mem_singleton.2 rfl, hheld⟩)
  rw [State.drainPort, hwaiting, List.length_singleton, State.drainPortN, hwaiting]
  dsimp only
  rw [hread]

/-- The one access received is a read of the staging area. -/
theorem drainPort_staging {a w : Nat} (hwaiting : s.dport.waiting = [.read [some (1, a)] w]) (herasing : s.boot.erasing = false) :
    s.drainPort = (s.withWaiting []).portAnswer (clean (flashBytes s.boot.staging a w)) := by
  have hread : s.portRead [some (1, a)] w = (some (clean (flashBytes s.boot.staging a w)), s) := by
    simp [State.portRead, hbmParts, State.portGet, herasing]
  rw [State.drainPort, hwaiting, List.length_singleton, State.drainPortN, hwaiting]
  dsimp only
  rw [hread]
  rfl

theorem portAccess_stalled {sp : BitVec 2} {a : Nat} {bs : List Byte} {r : List PortAccess} (hwaiting : s.dport.waiting = .write sp a bs :: r)
    (hstalls : s.portStalls sp a bs.length = true) (x : PortAccess) : s.portAccess x = s.withWaiting (s.dport.waiting ++ [x]) :=
  drainPort_stalled (s := s.withWaiting (s.dport.waiting ++ [x])) (congrArg (fun l => l ++ [x]) hwaiting)
    ((portStalls_withDport s _ sp a bs.length).trans hstalls)

section
variable (hwaiting : s.dport.waiting = [])
include hwaiting

theorem waiting_append (x : PortAccess) : (s.withWaiting (s.dport.waiting ++ [x])).dport.waiting = [x] :=
  congrArg (fun l => l ++ [x]) hwaiting

/-- Behind nothing that waits, bytes for the staging area are programmed at once. -/
theorem portAccess_program (herasing : s.boot.erasing = false) (a : Nat) (bs : List Byte) :
    s.portAccess (.write 1 a bs) = s.stagingWrite a bs :=
  (drainPort_program (waiting_append hwaiting _) herasing).trans (congrArg (fun t : State => t.stagingWrite a bs) (withWaiting_nil hwaiting))

theorem portAccess_held {a w : Nat} (hheld : s.heldRun a w = true) :
    s.portAccess (.read [some (0, a)] w) = s.withWaiting [.read [some (0, a)] w] :=
  (drainPort_held (waiting_append hwaiting _) ((heldRun_withDport s _ a w).trans hheld)).trans (congrArg s.withWaiting (waiting_append hwaiting _))

theorem portAccess_staging (herasing : s.boot.erasing = false) (a w : Nat) :
    s.portAccess (.read [some (1, a)] w) = s.portAnswer (clean (flashBytes s.boot.staging a w)) :=
  (drainPort_staging (waiting_append hwaiting _) herasing).trans
    (congrArg (fun t : State => t.portAnswer (clean (flashBytes s.boot.staging a w))) (withWaiting_nil hwaiting))

theorem stagingAccess_now (herasing : s.boot.erasing = false) (hstage : s.boot.stage ≠ 3) (a : Nat) (bs : List Byte) :
    s.stagingAccess a bs = State.stagingWrite { s with boot := { s.boot with stage := 0 } } a bs :=
  (if_neg hstage).trans ((congrArg (fun t : State => t.portAccess (.write 1 a bs)) (if_neg hstage)).trans
    (portAccess_program (s := { s with boot := { s.boot with stage := 0 } }) hwaiting herasing a bs))

end

theorem inSpace_staging (hspace : s.dport.space = 1) (n : Nat) : s.inSpace n = decide (s.dport.addr.toNat + n ≤ 2 ^ 26) := if_pos hspace

/-! ## Requests of one access (R340, R341) -/

theorem windowWrite_nil (n k : Nat) (s : State) : s.windowWrite n k [] = s := by
  cases k <;> rfl

theorem windowWrite_single {bs : List Byte} {n : Nat} (k : Nat) (hlen : bs.length = n) (hpos : 0 < n) :
    s.windowWrite n (k + 1) bs = s.windowPut bs := by
  subst hlen
  rw [State.windowWrite, if_neg (by simpa using List.ne_nil_of_length_pos hpos), List.take_length, List.drop_length, windowWrite_nil]

variable {off : Nat} {data : List Byte}

theorem exec_dataWindowWrite_one (hopen : s.windowOpen 0 off = true) (hwidth : s.dport.width = 0) (hlen : data.length = 4) :
    exec (.dataWindowWrite 0 off data true) s = .next (s.windowPut data) := by
  refine congrArg _ ((if_neg (by simp [hopen])).trans ((if_neg ?_).trans ?_))
  · rw [hlen, windowSize_four hwidth]; exact Bool.false_ne_true
  · rw [hlen, bytes_of_width_zero hwidth]; exact windowWrite_single 3 hlen (by decide)

/-- A state whose data port has taken one access. -/
def State.portAdvanced (s : State) : State := { s with dport := s.dport.advance }

theorem portAdvanced_waiting (s : State) : s.portAdvanced.dport.waiting = s.dport.waiting := by
  rw [State.portAdvanced, advance_eq]

theorem windowParts_one (hin : s.inSpace 4 = true) : s.windowParts 4 1 =
    ([some (s.dport.space, s.dport.addr.toNat)], s.portAdvanced) := by
  simp only [State.windowParts, hin, if_true, Bool.not_true, Bool.or_false, State.portAdvanced]
  rw [advance_eq]

theorem exec_dataWindowRead_one (hopen : s.windowOpen 0 off = true) (hwidth : s.dport.width = 0) (hin : s.inSpace 4 = true) :
    exec (.dataWindowRead 0 off 4 true) s = .next (s.portAdvanced.portAccess (.read [some (s.dport.space, s.dport.addr.toNat)] 4)) := by
  refine congrArg _ ((if_neg (by simp [hopen])).trans ((if_neg ?_).trans ?_))
  · rw [windowSize_four hwidth]; exact Bool.false_ne_true
  · rw [bytes_of_width_zero hwidth]
    exact congrArg (fun p : List (Option (BitVec 2 × Nat)) × State => p.2.portAccess (.read p.1 4)) (windowParts_one hin)

/-! ## What the accesses leave -/

theorem windowPut_staging (hspace : s.dport.space = 1) (hin : s.inSpace data.length = true) (hwaiting : s.dport.waiting = [])
    (herasing : s.boot.erasing = false) (hstage : s.boot.stage ≠ 3) : ∃ t, s.windowPut data = t ∧ t.dport = s.dport.advance ∧ t.mem = s.mem ∧
      t.boot.staging = (s.stagingWrite s.dport.addr.toNat data).boot.staging := by
  have hput : s.windowPut data = { s.stagingAccess s.dport.addr.toNat data with dport := (s.stagingAccess s.dport.addr.toNat data).dport.advance } :=
    congrArg (fun t : State => { t with dport := t.dport.advance }) ((if_neg (by simp [hin])).trans (if_pos hspace))
  rw [stagingAccess_now hwaiting herasing hstage] at hput
  obtain ⟨c, b, hwrite⟩ := stagingWrite_eq { s with boot := { s.boot with stage := 0 } } s.dport.addr.toNat data
  exact ⟨_, hput, by rw [hwrite], by rw [hwrite],
    stagingWrite_staging (s := s) (t := { s with boot := { s.boot with stage := 0 } }) rfl rfl _ _⟩

theorem windowPut_outside (hout : s.inSpace data.length = false) :
    s.windowPut data = { s with dport := { s.dport with range := true }.advance } :=
  congrArg (fun t : State => { t with dport := t.dport.advance }) (if_pos (by simp [hout]))

/-- Settles O34: a request of one access is that access; what becomes of it is said by the oldest access received (`drainPort`). -/
theorem dataPort : Obligations.DataPort := by
  unfold Obligations.DataPort
  refine ⟨fun s off src len en hclosed => congrArg _ (if_pos (by simp [hclosed])),
    fun s off src data en hclosed => congrArg _ (if_pos (by simp [hclosed])), fun s off data hopen => ⟨fun en hsize => ?size, ?program, ?outside,
    ?staging, ?held, ?behind⟩⟩
  case size => exact congrArg _ ((if_neg (by simp [hopen])).trans (if_pos hsize))
  case program =>
    intro hspace hwidth hwaiting hlen herasing hstage hfits
    have hin : s.inSpace data.length = true := by rw [hlen, inSpace_staging hspace]; exact decide_eq_true hfits
    obtain ⟨t, hput, hkept⟩ := windowPut_staging hspace hin hwaiting herasing hstage
    exact ⟨t, hput ▸ exec_dataWindowWrite_one hopen hwidth hlen, hkept⟩
  case outside =>
    intro hspace hwidth hlen hfits
    have hout : s.inSpace data.length = false := by rw [hlen, inSpace_staging hspace]; exact decide_eq_false (not_le.2 hfits)
    refine ⟨_, (exec_dataWindowWrite_one hopen hwidth hlen).trans (congrArg _ (windowPut_outside hout)), ?_, rfl, rfl⟩
    rw [advance_eq]
  case staging =>
    intro hspace hwidth hwaiting herasing hfits
    have hread := exec_dataWindowRead_one hopen hwidth ((inSpace_staging hspace 4).trans (decide_eq_true hfits))
    rw [hspace, portAccess_staging ((portAdvanced_waiting s).trans hwaiting) herasing] at hread
    refine ⟨_, hread, ?_, rfl, ?_⟩
    · simp only [State.portAnswer, send_dport, anyPoison_clean, Bool.or_false]; rfl
    · simp only [State.portAnswer, anyPoison_clean, plain_clean]; rfl
  case held =>
    intro hspace hwidth hin hwaiting hheld
    have hread := exec_dataWindowRead_one hopen hwidth hin
    rw [hspace, portAccess_held ((portAdvanced_waiting s).trans hwaiting) ((heldRun_withDport s _ _ _).trans hheld)] at hread
    exact ⟨_, hread, rfl, rfl, rfl⟩
  case behind =>
    intro sp a bs r hwaiting hstalls hspace hwidth hin
    have hread := exec_dataWindowRead_one hopen hwidth hin
    rw [hspace, portAccess_stalled ((portAdvanced_waiting s).trans hwaiting) ((portStalls_withDport s _ _ _ _).trans hstalls),
      portAdvanced_waiting] at hread
    exact ⟨_, hread, rfl, rfl, rfl⟩

end Sys2Proof.Machine
end

section
/-! SUPPORT. What control commands, drains and restores leave alone as they move on (R27 to R29, R197, R297, R300, R437, R438). -/

namespace Sys2Proof.Machine
open Sys2Proof

variable {b s : State}

/-! ## Cores and sectors -/

theorem Stands.caches {t : State} (h : Stands b s) (k : CachesOnly s t) : Stands b t := by
  obtain ⟨_, _, _, _, _, rfl⟩ := k
  exact h.same rfl

theorem Stands.updCluster (h : Stands b s) (n : Nat) (f : Cluster → Cluster) : Stands b (s.updCluster n f) := h.same rfl

theorem Stands.updSectorClk (h : Stands b s) (n : Nat) (f : SectorClk → SectorClk) : Stands b (s.updSectorClk n f) := h.same rfl

theorem Stands.setLink (h : Stands b s) (l : Nat) (x : Link) : Stands b (s.setLink l x) := h.same rfl

theorem Stands.setLaunch (h : Stands b s) (l : Launch) : Stands b (s.setLaunch l) := h.same rfl

theorem Stands.withTlb (h : Stands b s) (l : List TlbEntry) : Stands b { s with tlb := l } := h.same rfl

theorem Stands.withErr (h : Stands b s) (e : Err) : Stands b { s with err := e } := h.same rfl

theorem Stands.withBist (h : Stands b s) (x : Bist) : Stands b { s with bist := x } := h.same rfl

theorem Stands.withDrains (h : Stands b s) (ds : List Drain) : Stands b { s with drains := ds } := h.same rfl

theorem Stands.applyClock (h : Stands b s) (n : Nat) : Stands b (s.applyClock n) := h.same rfl

theorem Stands.controlEvent (h : Stands b s) (u : BitVec 32) (ended : Bool) (kind : Nat) : Stands b (s.controlEvent u ended kind) :=
  h.eventTo _ _

theorem Stands.wipeCore (h : Stands b s) (g : Nat) : Stands b (s.wipeCore g) :=
  ((h.endCopies g _ _).updCore g _).withTlb _

theorem Stands.wipeCores (h : Stands b s) (gs : List Nat) : Stands b (gs.foldl (fun (s : State) g => s.wipeCore g) s) :=
  List.foldlRecOn _ _ h (fun _ ht g _ => ht.wipeCore g)

/-! ## Tasks lost and launches killed (R194, R195) -/

theorem Stands.updLaunch (h : Stands b s) (i idx : Nat) (f : Launch → Launch) : Stands b (s.updLaunch i idx f) := by
  unfold State.updLaunch
  split
  · exact h.setLaunch _
  · exact h

theorem Stands.killAt (h : Stands b s) (i idx code : Nat) (u : BitVec 32) (pc : Word) (slot : Nat) :
    Stands b (s.killAt i idx code u pc slot) := h.updLaunch i idx _

theorem Stands.requeue (h : Stands b s) (g : Nat) (x : Group) : Stands b (s.requeue g x) := by
  unfold State.requeue
  exact (h.updLaunch _ _ _).updCluster _ _

theorem Stands.loseTask (h : Stands b s) (g slot : Nat) (logic : Bool) : Stands b (s.loseTask g slot logic) := by
  unfold State.loseTask
  split
  · exact h
  · exact iteInduction (fun _ => h.clearSlot g slot) fun _ => iteInduction (fun _ => (h.clearSlot g slot).killAt _ _ _ _ _ _) fun _ =>
      iteInduction (fun _ => (((h.clearSlot g slot).updLaunch _ _ _).updLaunch _ _ _).killAt _ _ _ _ _ _) fun _ =>
        ((h.clearSlot g slot).updLaunch _ _ _).requeue _ _

theorem Stands.coreLost (h : Stands b s) (g : Nat) (logic : Bool) : Stands b (s.coreLost g logic) := by
  refine Stands.wipeCore ?_ g
  rw [List.foldr_eq_foldl_reverse]
  exact List.foldlRecOn _ _ h fun _ ht slot _ => ht.loseTask g slot logic

/-! ## Fences of cores, clusters and sectors (R437 to R439) -/

theorem Stands.errRecord (h : Stands b s) (code flags : Nat) (u : BitVec 32) (detail : Nat) (dests : List Nat) :
    Stands b (s.errRecord code flags u detail dests) := by
  have hlog : ∀ r, Stands b (s.log r) := fun _ => h.same rfl
  exact iteInduction (fun _ => (hlog _).eventTo _ _) fun _ => List.foldlRecOn _ _ (hlog _) fun _ ht i _ => ht.eventLater i _

theorem Stands.killAll (h : Stands b s) (u : BitVec 32) (ls : List Launch) : Stands b (s.killAll u ls) :=
  List.foldlRecOn _ _ h fun _ ht _ _ => iteInduction (fun _ => ht) fun _ => ht.killAt _ _ _ _ _ _

theorem Stands.markFenced (h : Stands b s) (g : Nat) : Stands b (s.markFenced g) := h.withErr _

theorem Stands.unitRecord (h : Stands b s) (code : Nat) (u : BitVec 32) (dests : List Nat) : Stands b (s.unitRecord code u dests) :=
  h.errRecord _ _ _ _ _

theorem Stands.fenceCluster (h : Stands b s) (n : Nat) (queueError : Bool) : Stands b (s.fenceCluster n queueError) := by
  have hlost : Stands b ((coresOf n).foldl (fun (s : State) g => (s.coreLost g false).markFenced g) s) :=
    List.foldlRecOn _ _ h fun _ ht g _ => (ht.coreLost g false).markFenced g
  have hflushed := hlost.caches ((CachesOnly.refl _).flushL2 n)
  refine Stands.unitRecord (Stands.unitRecord ?_ _ _ _) _ _ _
  exact iteInduction (motive := Stands b) (fun _ => ((hflushed.updCluster n _).killAll _ _).updCluster n _) fun _ =>
    (hflushed.updCluster n _).killAll _ _

theorem Stands.fenceCore (h : Stands b s) (g : Nat) (logic : Bool) : Stands b (s.fenceCore g logic) := by
  have hmarked := (h.coreLost g logic).markFenced g
  exact iteInduction (motive := Stands b) (fun _ => (((hmarked.updCluster _ _).unitRecord _ _ _).unitRecord _ _ _).fenceCluster _ _) fun _ =>
    ((hmarked.updCluster _ _).unitRecord _ _ _).unitRecord _ _ _

theorem Stands.fenceSector (h : Stands b s) (x : Nat) : Stands b (s.fenceSector x) := by
  have hlost : Stands b ((sectorCores x).foldl (fun (s : State) g => s.coreLost g false) s) :=
    List.foldlRecOn _ _ h fun _ ht g _ => ht.coreLost g false
  exact ((((hlost.withErr _).updSectorClk x _).applyClock x).unitRecord _ _ _).unitRecord _ _ _

theorem Stands.fenceUnit (h : Stands b s) (u : BitVec 32) (queueError logic : Bool) : Stands b (s.fenceUnit u queueError logic) := by
  unfold State.fenceUnit
  refine iteInduction (fun _ => h) fun _ => ?_
  split
  · exact h.fenceCore _ _
  · exact h.fenceCluster _ _
  · exact h.fenceSector _
  · exact h

/-! ## Links under test (R372, R477) -/

theorem Stands.askWidth (h : Stands b s) (l m : Nat) : Stands b (s.askWidth l m) :=
  iteInduction (fun _ => h) fun _ => h.messages (((MessagesOnly.refl s).setLink l _).emit _ _ _ _ _)

theorem Stands.nextLane (h : Stands b s) (l : Nat) (lanes : List Nat) : Stands b (s.nextLane l lanes) := by
  induction lanes with
  | nil => exact h.same rfl
  | cons lane rest ih => exact iteInduction (fun _ => ih) fun _ => ((h.withBist _).setLink l _).askWidth _ _

theorem Stands.narrowLink (h : Stands b s) (l : Nat) : Stands b (s.narrowLink l) :=
  iteInduction (fun _ => h) fun _ => h.nextLane l _

/-! ## Control commands (R27 to R29, R412, R437, R479) -/

theorem Stands.beginControl (h : Stands b s) (d : Drain) : Stands b (s.beginControl d) := by
  have hstaged : Stands b ((unitCores d.unit).foldl
      (fun (s : State) g => if (s.core g).staged = [] then s else s.updCore g (fun c => { c with staged := [] })) s) :=
    List.foldlRecOn _ _ h fun _ ht g _ => iteInduction (fun _ => ht) fun _ => ht.updCore g _
  have hbegun : ∀ ds, Stands b { (unitCores d.unit).foldl
      (fun (s : State) g => if (s.core g).staged = [] then s else s.updCore g (fun c => { c with staged := [] })) s with drains := ds } :=
    fun ds => hstaged.withDrains ds
  unfold State.beginControl
  dsimp only
  split
  · exact iteInduction (fun _ => (hbegun _).controlEvent _ _ _) fun _ => hbegun _
  · exact (hbegun _).controlEvent _ _ _
  · exact (hbegun _).controlEvent _ _ _
  · exact hbegun _

theorem Stands.endControl (h : Stands b s) (d : Drain) : Stands b (s.endControl d) := h.withDrains _

theorem Stands.actControl (h : Stands b s) (d : Drain) : Stands b (s.actControl d) := by
  have hacted := fun ds => h.withDrains ds
  have hended := h.endControl d
  unfold State.actControl
  dsimp only
  split
  · exact iteInduction (fun _ => (hended.wipeCores _).controlEvent _ _ _) fun _ => hended
  · exact (hended.fenceUnit _ _ _).withErr _
  · exact (((hended.wipeCores _).updSectorClk _ _).applyClock _).controlEvent _ _ _
  · exact (hended.updSectorClk _ _).applyClock _
  · split
    · exact ((hacted _).updSectorClk _ _).applyClock _
    · split
      · exact (hacted _).narrowLink _
      · exact iteInduction (fun _ => (hacted _).caches ((CachesOnly.refl _).flushL2 _)) fun _ =>
          iteInduction (fun _ => h.same rfl) fun _ => hacted _
  · exact h
  · exact h

theorem Stands.runControls (n : Nat) (h : Stands b s) : Stands b (s.runControls n) := by
  induction n generalizing s with
  | zero => exact h
  | succ n ih =>
    unfold State.runControls
    split
    · exact h
    · exact ih (iteInduction (fun _ => h.actControl _) fun _ => h.beginControl _)

/-! ## Pre-emptions and restores (R297, R300) -/

theorem Stands.endPreempts (h : Stands b s) : Stands b s.endPreempts := by
  refine List.foldlRecOn _ _ h fun t ht e _ => iteInduction (fun _ => ?_) fun _ => ht
  exact ((ht.updInst _ _).withDrains _).respond _ _ _

theorem Stands.askCommit (h : Stands b s) (g slot : Nat) : Stands b (s.askCommit g slot) := h.same rfl

theorem Stands.restoreImage (h : Stands b s) (l : Launch) (m : CoreImage) : Stands b (s.restoreImage l m) :=
  List.foldlRecOn _ _ (h.updCore _ _) fun _ ht e _ => ht.askCommit m.core e.1

theorem Stands.restoreLaunch (h : Stands b s) (l : Launch) : Stands b (s.restoreLaunch l) := by
  have hset := fun l => h.setLaunch l
  unfold State.restoreLaunch
  dsimp only
  split
  · refine iteInduction (fun _ => (hset _).killAt _ _ _ _ _ _) fun _ => ?_
    exact List.foldlRecOn _ _ (hset _) fun _ ht m _ =>
      iteInduction (fun _ => List.foldlRecOn _ _ ht fun _ hu e _ => hu.requeue _ _) fun _ => ht.restoreImage l m
  · exact List.foldlRecOn _ _ (hset _) fun _ ht m _ => ht.restoreImage l m

theorem Stands.restoreDrained (h : Stands b s) : Stands b s.restoreDrained :=
  List.foldlRecOn _ _ h fun _ ht l _ => iteInduction (fun _ => ht.restoreLaunch l) fun _ => ht

theorem Stands.settleControls (h : Stands b s) : Stands b s.settleControls :=
  (Stands.runControls _ (h.runControls _).endPreempts).restoreDrained

end Sys2Proof.Machine
end

section
/-! SUPPORT. CALCOMMIT at the last value of WRITECNT, the state that refutes its clause (R494, R496, R497). -/

namespace Sys2Proof.Machine
open Sys2Proof

/-! ## Bytes of a block -/

/-- A field of a run of bytes is read off the map, as far as the run goes. -/
theorem leAt_bytes (m : NMap Byte) (off n len : Nat) : leAt (NMap.bytes 0 m 0 len) off n = ofLe (NMap.bytes 0 m off (min n (len - off))) := by
  refine congrArg ofLe (List.ext_getElem ?_ fun i _ _ => ?_)
  · simp [NMap.bytes]
  · simp [NMap.bytes]

/-- A field past every byte of a map is 0. -/
theorem leAt_past {m : NMap Byte} {off : Nat} (n len : Nat) (hm : ∀ e ∈ m, e.1 < off) : leAt (NMap.bytes 0 m 0 len) off n = 0 := by
  have hzero : ∀ i, NMap.at m (off + i) 0 = 0 := fun i => by
    unfold NMap.at
    cases hfind : NMap.find m (off + i) with
    | none => rfl
    | some x => exact absurd (hm _ (NMap_mem_of_find hfind)) (Nat.le_add_right off i).not_gt
  rw [leAt_bytes, NMap.bytes]
  simp only [hzero, List.map_const', ofLe_replicate_zero]

/-- What has been written is read back. -/
theorem bytes_putBytes_same (m : NMap Byte) (off : Nat) (bs : List Byte) : NMap.bytes 0 (NMap.putBytes 0 m off bs) off bs.length = bs := by
  refine List.ext_getElem (by simp [NMap.bytes]) fun i _ hi => ?_
  simp [NMap.bytes, NMap_at_putBytes, hi]

/-- What is written past a field leaves it. -/
theorem bytes_putBytes_past (m : NMap Byte) {off n pos : Nat} (bs : List Byte) (h : off + n ≤ pos) :
    NMap.bytes 0 (NMap.putBytes 0 m pos bs) off n = NMap.bytes 0 m off n := by
  refine List.map_congr_left fun i hi => ?_
  have hi := List.mem_range.1 hi
  rw [NMap_at_putBytes, if_neg (by omega)]

/-! ## CALCOMMIT (R497) -/

/-- The block programmed: the buffer with WRITECNT and DIGEST. -/
def calProgrammed (buf : NMap Byte) (count : List Byte) : NMap Byte :=
  let counted := NMap.putBytes 0 buf 12 count
  NMap.putBytes 0 counted 0x20 (leBytes 32 (calDigest (NMap.bytes 0 counted 0 4096)).toNat)

theorem calProgrammed_count (buf : NMap Byte) (n : Nat) : NMap.bytes 0 (calProgrammed buf (leBytes 4 n)) 12 4 = leBytes 4 n :=
  (bytes_putBytes_past _ _ (by decide)).trans (bytes_putBytes_same buf 12 (leBytes 4 n))

/-- A good buffer is programmed with the stored count plus 1, which stops at its last value. -/
theorem exec_calcommit {s : State} {mb : Nat} {r : MbRunning} {b : NMap Byte} (h : MbReady s mb 0x43 r) (hbuf : s.board.calBuf = some b)
    (hform : calForm (NMap.bytes 0 b 0 4096) s.sec.serial = true) : ∃ t : State, exec (.calcommit mb) s = .next t.settleControls ∧
      t.board.cal = calProgrammed b (leBytes 4 (min 0xFFFFFFFF (leAt s.calBlock 12 4 + 1))) := by
  have hrun := exec_mbRun (c := .calcommit mb) h rfl
  dsimp only at hrun
  rw [hbuf] at hrun
  dsimp only at hrun
  rw [hform, Bool.not_true, if_neg Bool.false_ne_true] at hrun
  exact ⟨_, hrun, rfl⟩

/-! ## The last value of WRITECNT -/

/-- A buffer of good form (R494). -/
def calGood : NMap Byte := [(0, 1), (0x42, 1), (0x46, 1)] ++ (List.range 64).map (fun n => (0x80 + 2 * n, 10))

theorem calGood_below : ∀ e ∈ calGood, e.1 < 0x100 := by decide

/-- Its fields from 0x100 on are 0; the others are read one by one. -/
theorem calForm_calGood : calForm (NMap.bytes 0 calGood 0 4096) 0 = true := by
  have hpast : ∀ off n, 0x100 ≤ off → leAt (NMap.bytes 0 calGood 0 4096) off n = 0 := fun off n hoff =>
    leAt_past n 4096 fun e he => (calGood_below e he).trans_le hoff
  unfold calForm
  simp (disch := omega) only [hpast]
  simp only [leAt_bytes]
  decide +kernel

/-- CALCOMMIT as mailbox 0 has received it. -/
def runningCommit : MbRunning := { token := 1, opcode := 0x43, payload := [0, 0, 0, 0], badHeader := false, result := none }

/-- A running module that has committed its calibration block 2^32 - 1 times, with a good buffer to commit. -/
def committedToTheLast : State :=
  { State.reset with
    host := { ready := true, step := 7 }
    insts := [(0, { state := .active, mb := { running := some runningCommit } })]
    board := { cal := [(12, 0xFF), (13, 0xFF), (14, 0xFF), (15, 0xFF)], calBuf := some calGood } }

theorem mbReady_committedToTheLast : MbReady committedToTheLast 0 0x43 runningCommit := by
  unfold MbReady
  decide

theorem writecnt_committedToTheLast : leAt committedToTheLast.calBlock 12 4 = 0xFFFFFFFF := by
  rw [State.calBlock, leAt_bytes]
  decide

/-- Refutes O53, by its clause of CALCOMMIT: it adds 1 to WRITECNT modulo 2^32, and the model's count stops at its last value. -/
theorem not_boardAndModuleCommands : ¬ Obligations.BoardAndModuleCommands := by
  unfold Obligations.BoardAndModuleCommands
  intro h
  obtain ⟨-, -, -, -, -, -, -, -, -, -, hcommands⟩ := h committedToTheLast
  obtain ⟨-, -, -, -, hcommit, -⟩ := hcommands 0 runningCommit
  obtain ⟨-, hgood⟩ := hcommit mbReady_committedToTheLast calGood rfl
  obtain ⟨t, hexec, -, -, -, hcount, -⟩ := hgood calForm_calGood
  obtain ⟨u, hexec', hcal⟩ := exec_calcommit mbReady_committedToTheLast rfl calForm_calGood
  have hsettled : t.settleControls = u.settleControls := Host.Outcome.next.inj (hexec.symm.trans hexec')
  have hboard : t.board = u.board := calc
    t.board = t.settleControls.board := (Stands.refl t).settleControls.board.symm
    _ = u.settleControls.board := by rw [hsettled]
    _ = u.board := (Stands.refl u).settleControls.board
  rw [hboard, hcal, calProgrammed_count, writecnt_committedToTheLast] at hcount
  exact absurd hcount (by decide)

end Sys2Proof.Machine
end

section
/-! SUPPORT. The mailbox: what a response leaves, GO, and the end of a command (R354 to R357, R511). -/

namespace Sys2Proof.Machine
open Sys2Proof

variable {s t : State} {m : Nat} {r : MbRunning}

/-! ## What records and responses leave of the instances -/

section
variable {α : Type} {P : Inst → α} (hP : ∀ x g, P { x with ring := g } = P x)
include hP

theorem putRecord_inst (s : State) (i : Nat) (r : Record) (j : Nat) : P ((s.putRecord i r).inst j) = P (s.inst j) := by
  have hwritten : ∀ bus bs, P (((s.hostWrite i bus bs).updInst i (fun x => { x with ring := { x.ring with eqtail := x.ring.eqtail + 1 } })).inst j) =
      P (s.inst j) := fun bus bs =>
    (updRing_inst hP _ i j (fun g => { g with eqtail := g.eqtail + 1 })).trans (congrArg P (hostWrite_inst s i bus bs j))
  unfold State.putRecord
  dsimp only
  split
  · exact hwritten _ _
  · exact (congrArg P (interrupt_inst _ _ j)).trans (hwritten _ _)

/-- An event changes one ring, and nothing else of the instances (R337). -/
theorem event_inst (s : State) (i : Nat) (r : Record) (j : Nat) : P ((s.event i r).inst j) = P (s.inst j) := by
  have hdropped := updRing_inst hP s i j (fun g => { g with eqdrop := sat16 g.eqdrop 1, lost := g.lost + 1 })
  unfold State.event
  dsimp only
  split
  · exact hdropped
  · split
    · exact putRecord_inst hP s i r j
    · split
      · exact updRing_inst hP s i j (fun g => { g with eqHeld := g.eqHeld ++ [r] })
      · exact hdropped

end

/-- A mailbox whose running command has answered (R354, R355). -/
def Mailbox.answered (b : Mailbox) (token : BitVec 32) (status : Nat) (payload : List Byte) : Mailbox :=
  { b with
    rspPayload := payload ++ b.rspPayload.drop payload.length
    rspToken := token
    rspStatus := BitVec.ofNat 16 status
    rspLen := BitVec.ofNat 16 payload.length
    done := token
    running := none
    cache := ({ token := token, status := BitVec.ofNat 16 status, payload := payload } :: b.cache).take 16 }

section
variable (hrunning : (s.inst m).mb.running = some r) (status : Nat) (payload : List Byte)
include hrunning

/-- A response changes the mailbox, and of the rest of its instance the rings alone. -/
theorem respond_inst_same {α : Type} {P : Inst → α} (hP : ∀ x g, P { x with ring := g } = P x) :
    P ((s.respond m status payload).inst m) = P { s.inst m with mb := (s.inst m).mb.answered r.token status payload } := by
  unfold State.respond
  rw [hrunning]
  dsimp only
  split
  · rw [event_inst hP, withDrains_inst, updInst_inst_same]; rfl
  · rw [withDrains_inst, updInst_inst_same]; rfl

theorem respond_mb : ((s.respond m status payload).inst m).mb = (s.inst m).mb.answered r.token status payload :=
  respond_inst_same hrunning status payload (P := Inst.mb) fun _ _ => rfl

theorem respond_running : ((s.respond m status payload).inst m).mb.running = none := by
  rw [respond_mb hrunning]; rfl

theorem respond_done : ((s.respond m status payload).inst m).mb.done = r.token := by
  rw [respond_mb hrunning]; rfl

theorem respond_status : ((s.respond m status payload).inst m).mb.rspStatus = BitVec.ofNat 16 status := by
  rw [respond_mb hrunning]; rfl

theorem respond_payload : ((s.respond m status payload).inst m).mb.rspPayload.take payload.length = payload := by
  rw [respond_mb hrunning]; exact List.take_left

end

/-- A response changes its own instance and no other. -/
theorem OthersKept.respond {b : State} (h : OthersKept m b s) (status : Nat) (payload : List Byte) :
    OthersKept m b (s.respond m status payload) := by
  unfold State.respond
  split
  · exact h
  · have hdone := fun (f : Inst → Inst) (ds : List Drain) => (h.updInst f).same (t := { s.updInst m f with drains := ds }) rfl
    exact iteInduction (fun _ => (hdone _ _).event _) fun _ => hdone _ _

theorem respond_inst_other {j : Nat} (hj : j ≠ m) (status : Nat) (payload : List Byte) :
    (s.respond m status payload).inst j = s.inst j := ((OthersKept.refl m s).respond status payload).insts j hj

/-- A response changes no instance but in its mailbox and its rings. -/
theorem respond_inst {α : Type} {P : Inst → α} (hring : ∀ x g, P { x with ring := g } = P x) (hmb : ∀ x b, P { x with mb := b } = P x)
    (s : State) (m status : Nat) (payload : List Byte) (j : Nat) : P ((s.respond m status payload).inst j) = P (s.inst j) := by
  by_cases hj : j = m
  · subst hj
    cases hrunning : (s.inst j).mb.running with
    | none => rw [State.respond, hrunning]
    | some r => exact (respond_inst_same hrunning status payload hring).trans (hmb _ _)
  · rw [respond_inst_other hj]

/-- Beside the instances a response changes what records change, and the list of control commands. -/
theorem respond_leaves (s : State) (m status : Nat) (payload : List Byte) : ∃ i mem h o e d, s.respond m status payload =
    { s with insts := i, mem := mem, host := h, out := o, err := e, drains := d } := by
  unfold State.respond
  split
  · exact ⟨_, _, _, _, _, _, rfl⟩
  · dsimp only
    split
    · obtain ⟨i, mem, h, o, e, heq⟩ := (RecordsOnly.refl _).event m _
      exact ⟨i, mem, h, o, e, _, heq⟩
    · exact ⟨_, _, _, _, _, _, rfl⟩

@[simp] theorem respond_seq (s : State) (m status : Nat) (payload : List Byte) : (s.respond m status payload).seq = s.seq := by
  obtain ⟨_, _, _, _, _, _, h⟩ := respond_leaves s m status payload; rw [h]

@[simp] theorem respond_sec (s : State) (m status : Nat) (payload : List Byte) : (s.respond m status payload).sec = s.sec := by
  obtain ⟨_, _, _, _, _, _, h⟩ := respond_leaves s m status payload; rw [h]

/-! ## Control commands that are ordered, and commands without a row -/

theorem MessagesOnly.toSteward {b : State} (h : MessagesOnly b s) (u : BitVec 32) : MessagesOnly b (s.toSteward u) :=
  iteInduction (fun _ => h) fun _ => h.dieMessage _ _ _ _ _ _

theorem MessagesOnly.inst {b : State} (h : MessagesOnly b s) (j : Nat) : s.inst j = b.inst j := by
  obtain ⟨_, _, _, rfl⟩ := h; rfl

/-- A control command received changes the list of those that wait, and sends a message. -/
theorem control_inst (s : State) (u : BitVec 32) (why : DrainWhy) (j : Nat) : (s.control u why).inst j = s.inst j :=
  ((MessagesOnly.refl s).toSteward u).inst j

theorem control_mem (s : State) (u : BitVec 32) (why : DrainWhy) : (s.control u why).mem = s.mem :=
  ((MessagesOnly.refl s).toSteward u).mem

theorem answerRowless_of_row (hrunning : (s.inst m).mb.running = some r) (hrow : r.rowless = false) : s.answerRowless m = s := by
  unfold State.answerRowless
  rw [hrunning]
  exact if_neg (by simp [hrow])

/-- A command of R357 has a row of its own, unless its form has to tell which operation it names. -/
theorem rowless_of_opcode {op : Nat} (hop : r.opcode.toNat = op) (hlisted : opcodes.contains op = true) (hlcs : op ≠ 0x38) (hpages : op ≠ 0x14) :
    r.rowless = false := by
  subst hop
  have hlisted : (!opcodes.contains r.opcode.toNat) = false := by rw [hlisted]; rfl
  simp only [MbRunning.rowless, hlisted, hlcs, hpages, decide_false, Bool.or_false, Bool.false_and]

/-! ## GO (R355) -/

/-- The command that stands in a mailbox's buffer, with a token. -/
def Mailbox.buffered (b : Mailbox) (v : BitVec 32) : MbRunning :=
  { token := v
    opcode := BitVec.ofNat 16 (ofLe (NMap.bytes 0 b.cmd 4 2))
    payload := NMap.bytes 0 b.cmd 16 (ofLe (NMap.bytes 0 b.cmd 6 2))
    badHeader := ofLe (NMap.bytes 0 b.cmd 8 8) ≠ 0
    result := none }

/-- A command taken as running; one that R29 and R361 order takes its place among the control commands. -/
def State.accept (s : State) (m : Nat) (r : MbRunning) : State :=
  let op := ofLe (NMap.bytes 0 (s.inst m).mb.cmd 4 2)
  let s := s.updInst m (fun x => { x with mb := { x.mb with running := some r } })
  let names := if op = 0x12 ∨ op = 0x13 then bitsOf 128 (leAt r.payload 16 16) else []
  if ordered op && !r.rowless then s.control 0 (.mailbox m (targetOf r.payload) names) else s

theorem accept_running (s : State) (m : Nat) (r : MbRunning) : ((s.accept m r).inst m).mb.running = some r := by
  have htaken : ((s.updInst m (fun x => { x with mb := { x.mb with running := some r } })).inst m).mb.running = some r := by
    rw [updInst_inst_same]
  unfold State.accept
  dsimp only
  split
  · rw [control_inst]; exact htaken
  · exact htaken

theorem accept_mem (s : State) (m : Nat) (r : MbRunning) : (s.accept m r).mem = s.mem :=
  iteInduction (motive := fun u : State => u.mem = s.mem) (fun _ => control_mem _ _ _) fun _ => rfl

section
variable {v : BitVec 32} (hidle : (s.inst m).mb.running = none)
include hidle

/-- A write of GO while no command runs. -/
theorem go_idle : s.go m v = if v = 0 ∨ v.toNat ≠ ofLe (NMap.bytes 0 (s.inst m).mb.cmd 0 4) then
      s.updInst m (fun x => { x with mb := { x.mb with dropped := true } })
    else match (s.inst m).mb.cache.find? (fun a => a.token = v) with
      | some a => s.updInst m (fun x => { x with mb := { x.mb with
          rspPayload := a.payload ++ x.mb.rspPayload.drop a.payload.length
          rspToken := a.token, rspStatus := a.status, rspLen := BitVec.ofNat 16 a.payload.length, done := a.token } })
      | none => (s.accept m ((s.inst m).mb.buffered v)).answerRowless m := by
  unfold State.go
  simp only [hidle, Bool.false_eq_true, if_false, Option.isSome_none, Bool.false_or, Bool.or_eq_true, decide_eq_true_eq]
  rfl

theorem go_dropped (h : v = 0 ∨ v.toNat ≠ ofLe (NMap.bytes 0 (s.inst m).mb.cmd 0 4)) :
    s.go m v = s.updInst m (fun x => { x with mb := { x.mb with dropped := true } }) := by
  rw [go_idle hidle]
  exact if_pos h

variable (hv : v ≠ 0) (htoken : v.toNat = ofLe (NMap.bytes 0 (s.inst m).mb.cmd 0 4))
include hv htoken

/-- A repeated token gets its kept response again. -/
theorem go_kept {a : MbResponse} (ha : (s.inst m).mb.cache.find? (fun a => a.token = v) = some a) :
    s.go m v = s.updInst m (fun x => { x with mb := { x.mb with
      rspPayload := a.payload ++ x.mb.rspPayload.drop a.payload.length
      rspToken := a.token, rspStatus := a.status, rspLen := BitVec.ofNat 16 a.payload.length, done := a.token } }) := by
  rw [go_idle hidle, if_neg (not_or.2 ⟨hv, not_not.2 htoken⟩), ha]

/-- The command of the buffer is taken as running, and changes neither memory nor anything else of its mailbox yet. -/
theorem go_taken (hnew : ∀ a ∈ (s.inst m).mb.cache, a.token ≠ v) (hrow : ((s.inst m).mb.buffered v).rowless = false) :
    ((s.go m v).inst m).mb.running = some ((s.inst m).mb.buffered v) ∧ (s.go m v).mem = s.mem := by
  have hcache : (s.inst m).mb.cache.find? (fun a => a.token = v) = none := List.find?_eq_none.2 fun a ha => by simpa using hnew a ha
  have hrunning := accept_running s m ((s.inst m).mb.buffered v)
  rw [go_idle hidle, if_neg (not_or.2 ⟨hv, not_not.2 htoken⟩), hcache]
  dsimp only
  rw [answerRowless_of_row hrunning hrow]
  exact ⟨hrunning, accept_mem _ _ _⟩

end

/-! ## The end of a command (R355, R365, R497) -/

section
variable {st : BitVec 16} {p : List Byte} (hrunning : (s.inst m).mb.running = some r) (hresult : r.result = some (st, p))
include hrunning hresult

/-- The end of a command that is no removal under way; that of CALCOMMIT ends the programming (R497). -/
theorem endCommand_plain (hkept : r.opcode ≠ 0x21 ∨ (s.inst (targetOf r.payload)).state ≠ .removing) {u : State}
    (hu : u = if r.opcode = 0x43 then { s with board := { s.board with calProgramming := false } } else s) :
    s.endCommand m = (u.respond m st.toNat p).settleControls := by
  have hgone : (decide (r.opcode = 0x21) && decide ((s.inst (targetOf r.payload)).state = .removing)) = false := by
    simpa [Classical.or_iff_not_imp_left] using hkept
  rw [hu]
  simp only [State.endCommand, hrunning, hresult, hgone]
  rfl

/-- The end of a removal frees its instance, and answers what waited there (R366). -/
theorem endCommand_removal (hremove : r.opcode = 0x21) (hstate : (s.inst (targetOf r.payload)).state = .removing) :
    s.endCommand m = (((s.updInst (targetOf r.payload) (fun x => { x with state := .free })).respond m st.toNat p).answerRowless
      (targetOf r.payload)).settleControls := by
  simp only [State.endCommand, hrunning, hresult, hremove, hstate]
  rfl

end

/-- The gate turns a command away with its status (R511). -/
theorem mbRun_refused {op st : Nat} (hrunning : (s.inst m).mb.running = some r) (hop : r.opcode.toNat = op) (hresult : r.result = none)
    (hwaits : s.mbWaits m r = false) (hcheck : s.mbCheck m r = some st) (act : List Byte → State → State) :
    s.mbRun m op act = (s.respond m st []).settleControls := by
  simp [State.mbRun, hrunning, hop, hresult, hwaits, hcheck]

/-- Settles O35: GO by the three cases of its token, the end of a command by whether it frees an instance, a response by `respond_mb`. -/
theorem mailboxProtocol : Obligations.MailboxProtocol := by
  unfold Obligations.MailboxProtocol
  intro s m hm
  have hgo : ∀ v, s.mbAnswers m = true → exec (.mbGo m v) s = .next (s.go m v) := fun v hanswers =>
    (onUnit_lt hm _).trans (congrArg _ (if_pos hanswers))
  refine ⟨fun v hanswers hidle hv htoken => ⟨fun hnew hlisted hlcs hpages => ?taken, fun a ha => ?kept⟩,
    fun v hanswers hidle h => (hgo v hanswers).trans (congrArg _ (go_dropped hidle h)),
    fun r st p hrunning hresult => ⟨fun hkept u hu => (onUnit_lt hm _).trans (congrArg _ (endCommand_plain hrunning hresult hkept hu)),
      fun hremove hstate => (onUnit_lt hm _).trans (congrArg _ (endCommand_removal hrunning hresult hremove hstate))⟩,
    fun r st p t hrunning ht => ?response,
    fun op act r st hrunning hop hresult hwaits hcheck => mbRun_refused hrunning hop hresult hwaits hcheck act⟩
  case taken =>
    have hopcode : ((s.inst m).mb.buffered v).opcode.toNat = ofLe (NMap.bytes 0 (s.inst m).mb.cmd 4 2) := by
      refine (BitVec.toNat_ofNat _ _).trans (Nat.mod_eq_of_lt ?_)
      have hmem : ofLe (NMap.bytes 0 (s.inst m).mb.cmd 4 2) ∈ opcodes := List.contains_iff_mem.1 hlisted
      have hsmall : ∀ op ∈ opcodes, op < 2 ^ 16 := by decide
      exact hsmall _ hmem
    obtain ⟨hrunning, hmem⟩ := go_taken hidle hv htoken hnew (rowless_of_opcode hopcode hlisted hlcs hpages)
    exact ⟨_, _, hgo v hanswers, hrunning, rfl, rfl, rfl, rfl, hmem⟩
  case kept =>
    refine ⟨_, (hgo v hanswers).trans (congrArg _ (go_kept hidle hv htoken ha)), ?_⟩
    rw [updInst_inst_same]
    exact ⟨rfl, rfl, List.take_left, hidle⟩
  case response =>
    subst ht
    exact ⟨respond_running hrunning _ _, respond_done hrunning _ _, by rw [respond_mb hrunning]; rfl, respond_status hrunning _ _,
      respond_payload hrunning _ _, by rw [respond_mb hrunning]; rfl, by rw [respond_mb hrunning]; rfl, fun j hj => respond_inst_other hj _ _⟩

end Sys2Proof.Machine
end

section
/-! SUPPORT. The configuration commands of the mailbox (R348 to R353, R359 to R362, R448). -/

namespace Sys2Proof.Machine
open Sys2Proof

variable {s u : State} {mb t : Nat} {r : MbRunning} {p : List Byte}

/-! ## One change made at several keys -/

/-- A change that is idempotent, made wherever an element of a list hits. -/
theorem foldl_keyed {σ ι κ α : Type} (read : σ → κ → α) (step : σ → ι → σ) (hits : ι → κ → Prop) [∀ i k, Decidable (hits i k)] (f : κ → α → α)
    (hf : ∀ k x, f k (f k x) = f k x) (hstep : ∀ s i k, read (step s i) k = if hits i k then f k (read s k) else read s k)
    (l : List ι) (s : σ) (k : κ) : read (l.foldl step s) k = if ∃ i ∈ l, hits i k then f k (read s k) else read s k := by
  induction l generalizing s with
  | nil => simp
  | cons i l ih =>
    rw [List.foldl_cons, ih, hstep]
    simp only [List.exists_mem_cons_iff]
    split <;> split <;> simp_all

/-! ## What responses leave of an instance -/

/-- State, generation and what a configuration sets of an instance. -/
def Inst.configuration (x : Inst) : InstState × BitVec 16 × BitVec 20 × Nat × Nat × BitVec 16 := (x.state, x.gen, x.pasid, x.recq, x.batchq, x.ways)

theorem respond_configuration (s : State) (m status : Nat) (payload : List Byte) (j : Nat) :
    ((s.respond m status payload).inst j).configuration = (s.inst j).configuration :=
  respond_inst (P := Inst.configuration) (fun _ _ => rfl) (fun _ _ => rfl) s m status payload j

theorem updInst_kept {α : Type} {P : Inst → α} {f : Inst → Inst} (s : State) (i j : Nat) (hf : ∀ x, P (f x) = P x := by intro; rfl) :
    P ((s.updInst i f).inst j) = P (s.inst j) := by
  rw [updInst_eq, setInst_inst]
  split
  · rename_i hj; rw [hj]; exact hf _
  · rfl

theorem mbResult_running (hrunning : (s.inst mb).mb.running = some r) (status : Nat) (payload : List Byte) :
    ((s.mbResult mb status payload).inst mb).mb.running = some { r with result := some (BitVec.ofNat 16 status, payload) } := by
  rw [State.mbResult, updInst_inst_same, hrunning]; rfl

theorem mbResult_ranges (s : State) (m status : Nat) (payload : List Byte) (j : Nat) :
    ((s.mbResult m status payload).inst j).ranges = (s.inst j).ranges := updInst_kept s m j

/-! ## CREATE and CONFIG (R359, R363, R448) -/

/-- CREATE takes what CONFIG sets, and begins a generation of the instance. -/
def Inst.created (x : Inst) (p : List Byte) (now : Nat) : Inst :=
  { x.configure p with state := .active, gen := x.gen + 1, genAt := some now, evn := 0, mb := { x.mb with cache := [] } }

theorem exec_create (h : MbReady s mb 0x10 r) (ht : t = targetOf r.payload) (hfree : (s.inst t).state = .free)
    (hconfig : s.configRefusal t r.payload = none) (hgen : s.genFree t = true) : exec (.create mb) s =
      .next (((((s.updInst t (fun x => x.created r.payload s.clock.now)).advanceEpoch t true).tlbInv t).respond mb 0 []).settleControls) := by
  subst ht
  refine (exec_mbRun h rfl).trans (congrArg _ (congrArg _ ?_))
  dsimp only
  rw [if_neg (not_not.2 hfree), hconfig]
  exact if_neg (by rw [hgen]; decide)

/-- CONFIG of an instance without work: no entry, no record, its ring disabled. -/
theorem exec_config (h : MbReady s mb 0x11 r) (ht : t = targetOf r.payload) (hconfig : s.configRefusal t r.payload = none)
    (hring : (s.inst t).ring.en = false) (hentries : (s.inst t).entries = []) (hrecords : (s.inst t).records = []) : ∃ u : State,
      exec (.config mb) s = .next ((u.respond mb 0 []).settleControls) ∧ ∀ j, u.inst j = (s.setInst t ((s.inst t).configure r.payload)).inst j := by
  subst ht
  refine ⟨if (s.inst (targetOf r.payload)).root.toNat = leAt r.payload 8 8 then
      s.setInst (targetOf r.payload) ((s.inst (targetOf r.payload)).configure r.payload)
    else (s.setInst (targetOf r.payload) ((s.inst (targetOf r.payload)).configure r.payload)).tlbInv (targetOf r.payload),
    (exec_mbRun h rfl).trans (congrArg _ (congrArg _ ?_)), fun j => ?_⟩
  · dsimp only
    rw [hconfig, hring, hentries, hrecords]
    simp
  · split
    · rfl
    · rfl

theorem advanceEpoch_sec (s : State) (i : Nat) (active : Bool) :
    NMap.at (s.advanceEpoch i active).sec.epochs i 0 = NMap.at s.sec.epochs i 0 + 1 ∧
    NMap.find (s.advanceEpoch i active).sec.deks i = some (Config.shake256 ([0x4B, 0x57, 0x4D, 0x2D, 0x49, 0x44, 0x4B] ++
      leBytes 32 s.sec.dataRoot.toNat ++ leBytes 1 i ++ leBytes 8 (NMap.at s.sec.epochs i 0 + 1).toNat)) ∧
    (s.advanceEpoch i active).sec.dataRoot = s.sec.dataRoot := by
  have hepoch : NMap.at (NMap.upd 0 s.sec.epochs i (fun e => e + 1)) i 0 = NMap.at s.sec.epochs i 0 + 1 := NMap_at_put_same _ _ _ _
  refine ⟨hepoch, ?_, rfl⟩
  rw [← hepoch]
  exact (NMap_find_ins _ _ _ _).trans (if_pos rfl)

/-! ## GRANT (R359) -/

/-- A core's local store cleared. -/
def Core.clearedStore (c : Core) : Core := { c with ls := [], lsPoison := [], lsSeed := [] }

/-- A cluster given to an instance, the local stores of its cores cleared. -/
def State.grantCluster (s : State) (t n : Nat) : State :=
  ((coresOf n).foldl (fun (s : State) g => s.updCore g Core.clearedStore) s).updCluster n (fun c => { c with owner := some t, pred := [] })

theorem clearedStores_core (gs : List Nat) (s : State) (g : Nat) :
    (gs.foldl (fun (s : State) g => s.updCore g Core.clearedStore) s).core g = if g ∈ gs then (s.core g).clearedStore else s.core g := by
  have h := foldl_keyed State.core (fun (s : State) g => s.updCore g Core.clearedStore) (fun i k => k = i) (fun _ => Core.clearedStore)
    (fun _ _ => rfl) (fun s i k => by
      rw [updCore_eq, setCore_core]
      split
      · rename_i hk; rw [hk]
      · rfl) gs s g
  simpa using h

theorem clearedStores_cluster (gs : List Nat) (s : State) (n : Nat) :
    (gs.foldl (fun (s : State) g => s.updCore g Core.clearedStore) s).cluster n = s.cluster n :=
  List.foldlRecOn (motive := fun u : State => u.cluster n = s.cluster n) _ _ rfl fun _ hu _ _ => hu

theorem clearedStores_inst (gs : List Nat) (s : State) (j : Nat) : (gs.foldl (fun (s : State) g => s.updCore g Core.clearedStore) s).inst j = s.inst j :=
  List.foldlRecOn (motive := fun u : State => u.inst j = s.inst j) _ _ rfl fun _ hu _ _ => hu

theorem grantClusters_cluster (t : Nat) (cs : List Nat) (s : State) (n : Nat) : (cs.foldl (fun (s : State) n => s.grantCluster t n) s).cluster n =
    if n ∈ cs then { s.cluster n with owner := some t, pred := [] } else s.cluster n := by
  have h := foldl_keyed State.cluster (fun (s : State) n => s.grantCluster t n) (fun i k => k = i)
    (fun _ (c : Cluster) => { c with owner := some t, pred := [] }) (fun _ _ => rfl) (fun s i k => by
      rw [State.grantCluster, updCluster_eq, setCluster_cluster]
      split
      · rename_i hk; rw [hk, clearedStores_cluster]
      · exact clearedStores_cluster _ _ _) cs s n
  simpa using h

theorem grantClusters_core (t : Nat) (cs : List Nat) (s : State) (g : Nat) : (cs.foldl (fun (s : State) n => s.grantCluster t n) s).core g =
    if ∃ n ∈ cs, g ∈ coresOf n then (s.core g).clearedStore else s.core g :=
  foldl_keyed State.core (fun (s : State) n => s.grantCluster t n) (fun n k => k ∈ coresOf n) (fun _ => Core.clearedStore) (fun _ _ => rfl)
    (fun s _ k => (setCluster_core _ _ _ k).trans (clearedStores_core _ s k)) cs s g

theorem grantClusters_inst (t : Nat) (cs : List Nat) (s : State) (j : Nat) :
    (cs.foldl (fun (s : State) n => s.grantCluster t n) s).inst j = s.inst j :=
  List.foldlRecOn (motive := fun u : State => u.inst j = s.inst j) _ _ rfl fun u hu n _ => by
    rw [State.grantCluster, updCluster_eq, setCluster_inst, clearedStores_inst, hu]

theorem exec_grant (h : MbReady s mb 0x12 r) (hp : p = r.payload) (ht : t = targetOf p) (hfree : ∀ n ∈ maskClusters p, (s.cluster n).owner = none) :
    exec (.grant mb) s =
      .next ((((maskClusters p).foldl (fun (s : State) n => s.grantCluster t n) s).mbResult mb 0 []).settleControls) := by
  subst hp ht
  exact (exec_mbRun h rfl).trans (congrArg _ (congrArg _ (if_neg (by simpa using hfree))))

/-! ## REVOKE, PAGES, BIND, TLBINV and PRIVATE (R252, R349, R353, R359, R362) -/

theorem exec_revoke (h : MbReady s mb 0x13 r) (hp : p = r.payload) (ht : t = targetOf p) (hidle : ∀ n ∈ maskClusters p, (s.cluster n).owner = some t ∧
      (s.cluster n).queue = [] ∧ ∀ g ∈ coresOf n, (s.core g).slots = []) :
    exec (.revoke mb) s = .next (((s.revokeClusters (maskClusters p)).mbResult mb 0 []).settleControls) := by
  subst hp ht
  refine (exec_mbRun h rfl).trans (congrArg _ (congrArg _ (if_pos (List.all_eq_true.2 fun n hn => ?_))))
  obtain ⟨howner, hqueue, hslots⟩ := hidle n hn
  simpa [howner, hqueue] using hslots

section
variable {a b : Nat} (hp : p = r.payload) (ht : t = targetOf p) (ha : a = leAt p 4 4) (hb : b = a + leAt p 8 4 - 1)
include hp ht ha hb

theorem exec_pagesAssign (h : MbReady s mb 0x14 r) (hop : leAt p 1 1 = 0) (hfree : s.freeRun a b = true)
    (hprivate : meets a b s.seq.privFirst s.seq.privCount = false) (hroom : (addRange (s.inst t).ranges a b).length ≤ 64) :
    exec (.pagesAssign mb) s =
      .next (((s.updInst t (fun x => { x with ranges := addRange (s.inst t).ranges a b })).respond mb 0 []).settleControls) := by
  subst hp ht ha hb
  exact (exec_mbRun h rfl).trans (congrArg _ (congrArg _ ((if_neg (not_not.2 hop)).trans
    ((if_neg (by simp [hfree, hprivate])).trans (if_neg (not_lt.2 hroom))))))

theorem exec_pagesRelease (h : MbReady s mb 0x14 r) (hop : leAt p 1 1 = 1) (hholds : holdsRun (s.inst t).ranges a b = true)
    (hroom : (cutRange (s.inst t).ranges a b).length ≤ 64) :
    exec (.pagesRelease mb) s = .next (((s.releasePages t a b).mbResult mb 0 []).settleControls) := by
  subst hp ht ha hb
  exact (exec_mbRun h rfl).trans (congrArg _ (congrArg _ ((if_neg (not_not.2 hop)).trans
    ((if_neg (by simp [hholds])).trans (if_neg (not_lt.2 hroom))))))

end

/-- Pages released read zero, and no other byte changes (R252, R359). -/
theorem releasePages_hbm (s : State) (t a b k : Nat) : NMap.at (s.releasePages t a b).mem.hbm k 0 =
    if a * 2 ^ 21 ≤ k ∧ k < (b + 1) * 2 ^ 21 then 0 else NMap.at s.mem.hbm k 0 := by
  have hfind : NMap.find (s.releasePages t a b).mem.hbm k =
      if (!(a * 2 ^ 21 ≤ k && k < (b + 1) * 2 ^ 21)) = true then NMap.find s.mem.hbm k else none :=
    NMap_find_filter (fun k => !(a * 2 ^ 21 ≤ k && k < (b + 1) * 2 ^ 21)) s.mem.hbm k
  rw [NMap.at, hfind]
  by_cases hk : a * 2 ^ 21 ≤ k ∧ k < (b + 1) * 2 ^ 21
  · have hin : (decide (a * 2 ^ 21 ≤ k) && decide (k < (b + 1) * 2 ^ 21)) = true := by rw [decide_eq_true hk.1, decide_eq_true hk.2]; rfl
    rw [if_pos hk, hin]; rfl
  · have hout : (decide (a * 2 ^ 21 ≤ k) && decide (k < (b + 1) * 2 ^ 21)) = false := by
      rw [← Bool.decide_and]; exact decide_eq_false hk
    rw [if_neg hk, hout]; rfl

theorem releasePages_ranges (s : State) (t a b : Nat) : ((s.releasePages t a b).inst t).ranges = cutRange (s.inst t).ranges a b := by
  rw [State.releasePages, tlbInv_inst, updInst_inst_same, scrub_inst]

/-- A binding of an instance set, or cleared where there is none (R362). -/
def State.setBinding (s : State) (t : Nat) (p : List Byte) : State :=
  s.updInst t (fun x => { x with binds := (
    if leAt p 2 1 = 1 then
      NMap.ins x.binds (leAt p 1 1) { module := BitVec.ofNat 12 (leAt p 4 2), rinst := BitVec.ofNat 6 (leAt p 6 1), rgen := BitVec.ofNat 16 (leAt p 8 2) }
    else NMap.del x.binds (leAt p 1 1)) })

theorem setBinding_find (s : State) (t : Nat) (p : List Byte) :
    (NMap.find ((s.setBinding t p).inst t).binds (leAt p 1 1)).map (fun c => (c.module, c.rinst, c.rgen)) =
      if leAt p 2 1 = 1 then some (BitVec.ofNat 12 (leAt p 4 2), BitVec.ofNat 6 (leAt p 6 1), BitVec.ofNat 16 (leAt p 8 2)) else none := by
  rw [State.setBinding, updInst_inst_same]
  dsimp only
  split
  · rw [NMap_find_ins, if_pos rfl]; rfl
  · rw [NMap_find_del, if_pos rfl]; rfl

/-- The store-private range placed, with no node and no record in it (R349). -/
def Seq.placed (q : Seq) (a n : Nat) : Seq :=
  { q with privFirst := a, privCount := n, nodeTop := hotTableBytes, nodeFree := [], leafFree := [], recTop := 0, recFree := [] }

theorem exec_privateRange (h : MbReady s mb 0x17 r) {a n : Nat} (ha : a = leAt r.payload 4 4) (hn : n = leAt r.payload 8 4)
    (hrecords : ∀ e ∈ s.insts, e.2.records = []) (hfree : s.freeRun a (a + n - 1) = true) : exec (.privateRange mb) s =
      .next ((({ s with seq := s.seq.placed a n }.writeSets).respond mb 0 []).settleControls) := by
  subst ha hn
  have hnone : s.insts.any (fun e => e.2.records ≠ []) = false := List.any_eq_false.2 fun e he => by simpa using hrecords e he
  exact (exec_mbRun h rfl).trans (congrArg _ (congrArg _ (if_neg (by rw [hnone, hfree]; decide))))

/-- Writing the sets' entries leaves where the store-private range lies. -/
theorem AccessOnly.storePrivate (h : AccessOnly s u) : u.seq.privFirst = s.seq.privFirst ∧ u.seq.privCount = s.seq.privCount := by
  obtain ⟨_, _, _, _, _, rfl⟩ := h; exact ⟨rfl, rfl⟩

/-- Settles O36: each command that passes the checks does what its lemma says, and its response or result leaves the settings. -/
theorem instanceConfiguration : Obligations.InstanceConfiguration := by
  unfold Obligations.InstanceConfiguration
  intro s mb r p t a b hp ht ha hb
  have htarget : t = targetOf r.payload := by rw [ht, hp]
  have hrunning : ∀ {op}, MbReady s mb op r → (s.inst mb).mb.running = some r := fun h => h.2.1
  refine ⟨fun h => ?query, fun h hstate hconfig hgen => ?create, fun h hconfig hring hentries hrecords => ?config, fun h hfree => ?grant,
    fun h hidle => exec_revoke h hp ht hidle, fun h hop hfree hprivate hroom => exec_pagesAssign hp ht ha hb h hop hfree hprivate hroom,
    fun h hop hholds hroom => ?release, fun h => ?bind, fun h => ?tlbinv, fun h hrecords hfree => ?privateRange⟩
  case query => subst hp ht; have hrun := exec_mbRun (c := .query mb) h rfl; exact hrun
  case tlbinv => subst hp ht; have hrun := exec_mbRun (c := .tlbinv mb) h rfl; exact hrun
  case create =>
    rw [hp] at hconfig ⊢
    have hcreated := respond_configuration (((s.updInst t (fun x => x.created r.payload s.clock.now)).advanceEpoch t true).tlbInv t) mb 0 [] t
    rw [tlbInv_inst, advanceEpoch_inst, updInst_inst_same] at hcreated
    simp only [Inst.configuration, Prod.mk.injEq] at hcreated
    obtain ⟨hactive, hnext, hpasid, hrecq, hbatchq, hways⟩ := hcreated
    have hrun : (((((s.updInst t (fun x => x.created r.payload s.clock.now)).advanceEpoch t true).tlbInv t).inst mb).mb.running) = some r := by
      rw [tlbInv_inst, advanceEpoch_inst, updInst_kept (P := fun x => x.mb.running), hrunning h]
    obtain ⟨hepochs, hdeks, hroot⟩ := advanceEpoch_sec (s.updInst t (fun x => x.created r.payload s.clock.now)) t true
    exact ⟨_, exec_create h htarget hstate hconfig hgen, hactive, hnext, hpasid, hrecq, hbatchq, hways, respond_done hrun _ _,
      respond_status hrun _ _, by rw [respond_sec]; exact hepochs, by rw [respond_sec]; exact hdeks, by rw [respond_sec]; exact hroot⟩
  case config =>
    rw [hp] at hconfig ⊢
    obtain ⟨u, hexec, hinst⟩ := exec_config h htarget hconfig hring hentries hrecords
    have hconfigured := respond_configuration u mb 0 [] t
    rw [hinst, setInst_inst, if_pos rfl] at hconfigured
    simp only [Inst.configuration, Prod.mk.injEq] at hconfigured
    obtain ⟨-, hsame, hpasid, hrecq, -, -⟩ := hconfigured
    have hrun : (u.inst mb).mb.running = some r := by
      rw [hinst]
      exact (updInst_kept (P := fun x => x.mb.running) (f := fun x => x.configure r.payload) s t mb).trans (hrunning h)
    exact ⟨_, hexec, hpasid, hrecq, hsame, respond_status hrun _ _⟩
  case grant =>
    refine ⟨_, exec_grant h hp ht hfree, fun n hn => ⟨?_, fun g hg => ?_⟩, fun n hn => ?_,
      mbResult_running ((congrArg (fun x : Inst => x.mb.running) (grantClusters_inst _ _ _ _)).trans (hrunning h)) 0 []⟩
    · exact congrArg Cluster.owner ((grantClusters_cluster t _ s n).trans (if_pos hn))
    · have hcore := (grantClusters_core t (maskClusters p) s g).trans (if_pos ⟨n, hn, hg⟩)
      exact ⟨congrArg Core.ls hcore, (congrArg Core.slots hcore).trans rfl⟩
    · exact (grantClusters_cluster t _ s n).trans (if_neg hn)
  case release =>
    refine ⟨_, exec_pagesRelease hp ht ha hb h hop hholds hroom, ?_, fun k hlo hhi => ?_, fun k hk => ?_⟩
    · exact (mbResult_ranges _ mb 0 [] t).trans (releasePages_ranges s t a b)
    · exact (releasePages_hbm s t a b k).trans (if_pos ⟨hlo, hhi⟩)
    · exact (releasePages_hbm s t a b k).trans (if_neg (by omega))
  case bind =>
    have hrun : ((s.setBinding t p).inst mb).mb.running = some r :=
      (updInst_kept (P := fun x => x.mb.running) s t mb).trans (hrunning h)
    have hexec : exec (.bind mb) s = .next (((s.setBinding t p).respond mb 0 []).settleControls) := by
      subst hp ht; have hrun := exec_mbRun (c := .bind mb) h rfl; exact hrun
    have hbinds : (((s.setBinding t p).respond mb 0 []).inst t).binds = ((s.setBinding t p).inst t).binds :=
      respond_inst (P := Inst.binds) (fun _ _ => rfl) (fun _ _ => rfl) _ mb 0 [] t
    exact ⟨_, hexec, respond_status hrun _ _, by rw [hbinds]; exact setBinding_find s t p⟩
  case privateRange =>
    rw [hp] at ha hfree ⊢
    have hwritten := (AccessOnly.refl { s with seq := s.seq.placed a (leAt r.payload 8 4) }).writeSets
    have hrun : ((({ s with seq := s.seq.placed a (leAt r.payload 8 4) } : State).writeSets).inst mb).mb.running = some r := by
      rw [hwritten.inst]; exact hrunning h
    exact ⟨_, exec_privateRange h ha rfl hrecords hfree, by rw [respond_seq]; exact hwritten.storePrivate.1, by rw [respond_seq]; exact hwritten.storePrivate.2,
      respond_status hrun _ _⟩

end Sys2Proof.Machine
end

section
/-! SUPPORT. The security commands of the mailbox: keys, certificates, licences, the life cycle and GCLR (R446 to R455, R458, R462). -/

namespace Sys2Proof.Machine
open Sys2Proof

variable {s : State} {mb st : Nat} {r : MbRunning} {p : List Byte}

/-! ## EVIDENCE and keys (R450 to R453) -/

theorem exec_evidence (h : MbReady s mb 0x31 r) {bs : List Byte} {u : State}
    (he : s.evidence (targetOf r.payload) ((r.payload.drop 4).take 32) = (st, bs, u)) :
    exec (.evidence mb) s = .next ((u.respond mb st bs).settleControls) := by
  have hrun := exec_mbRun (c := .evidence mb) h rfl
  dsimp only at hrun
  rw [he] at hrun
  exact hrun

/-- ENROLL of a module without a usable key draws its secrets, and key generation runs (R450). -/
theorem exec_enroll (h : MbReady s mb 0x32 r) (hkey : s.sec.enrolled = false) (hmanuf : s.sec.lcs ≠ 0) (hretired : s.sec.lcs ≠ 4) :
    ∃ u : State, exec (.enroll mb) s = .next u.settleControls ∧ u.sec.keygen = true ∧ u.sec.enrolled = s.sec.enrolled ∧ u.insts = s.insts ∧
      u.mem = s.mem := by
  have hrun := exec_mbRun (c := .enroll mb) h rfl
  have hmay : ¬((s.sec.enrolled && !s.sec.exhausted) || decide (s.sec.lcs = 0) || decide (s.sec.lcs = 4)) = true := by
    rw [hkey]
    simpa only [Bool.false_and, Bool.or_eq_true, decide_eq_true_eq, Bool.false_eq_true, false_or, not_or] using And.intro hmanuf hretired
  dsimp only at hrun
  rw [if_neg hmay] at hrun
  exact ⟨_, hrun, rfl, rfl, rfl, rfl⟩

/-- The security block once key generation has ended: root, index 0, and a key that is enrolled (R450). -/
def Sec.keyed (c : Sec) : Sec :=
  { c.putIndex 0 with
    root := Config.xmssRoot c.skSeed c.skPrf c.pubSeed, keygen := false, keygenOpen := false, enrolled := true, exhausted := false }

theorem sigIndex_keyed (c : Sec) : c.keyed.sigIndex = some 0 := by
  simp [Sec.keyed, Sec.putIndex, Sec.sigIndex]

theorem exec_keygenDone (hmb : mb < 64) (hrunning : (s.inst mb).mb.running = some r) (hop : r.opcode = 0x32) (hkeygen : s.sec.keygen = true) :
    ∃ key, exec (.keygenDone mb) s = .next (({ s with sec := s.sec.keyed } : State).respond mb 0 key) := by
  have hexec : exec (.keygenDone mb) s = execKeygenDone mb s := rfl
  rw [hexec, execKeygenDone, hrunning]
  exact ⟨_, (onUnit_lt hmb _).trans (congrArg _ (if_neg (by simp [hop, hkeygen])))⟩

/-! ## Licences (R446, R454, R455) -/

theorem leAt_take_drop (p : List Byte) (off len k n : Nat) (h : k + n ≤ len) : leAt ((p.drop off).take len) k n = leAt p (off + k) n := by
  rw [leAt, leAt, List.drop_take, List.drop_drop, List.take_take, min_eq_left (by omega)]

/-- The licence record that LICADD makes of a licence of 2,884 bytes. -/
def licenceOf (l : List Byte) : Licence := { id := BitVec.ofNat 32 (leAt l 4 4), grant := BitVec.ofNat 32 (leAt l 16 4), digest := Config.shake256 l }

/-- The first licence takes slot 0. -/
theorem exec_licadd_first (h : MbReady s mb 0x35 r) (hok : s.licenceOk 0 ((r.payload.drop 4).take 2884) = true) (hnone : s.sec.licences = []) :
    exec (.licadd mb) s = .next ((({ s with sec := { s.sec with
      licences := [(0, licenceOf ((r.payload.drop 4).take 2884))] } } : State).measureLicences).respond mb 0 []).settleControls := by
  have hrun := exec_mbRun (c := .licadd mb) h rfl
  dsimp only at hrun
  rw [hok, hnone] at hrun
  exact hrun

theorem exec_licadd_refused (h : MbReady s mb 0x35 r) (hbad : s.licenceOk 0 ((r.payload.drop 4).take 2884) = false) :
    exec (.licadd mb) s = .next ((s.respond mb 0x0503 []).settleControls) :=
  (exec_mbRun h rfl).trans (congrArg _ (congrArg _ (if_pos (by simp [hbad]))))

/-! ## The life cycle (R446) -/

/-- Without an ENROLL that runs nothing is answered when the store is zeroised. -/
theorem eraseStore_idle (h : s.sec.keygen = false) : s.eraseStore = s.zeroised := by
  unfold State.eraseStore
  dsimp only
  split
  · exact if_neg (by simp [h])
  · rfl

/-- The state in which a life-cycle change has been made. -/
def State.lcsChanged (s : State) (st kind : Nat) : State :=
  { s with sec := { s.sec with lcs := BitVec.ofNat 3 st, nonce := if kind = 0 then s.sec.nonce else none } }

/-- A life-cycle command that names its state and carries a good token, where it needs one, makes the change. -/
theorem lcs_changes (h : MbReady s mb 0x38 r) {kind : Nat} (hstate : leAt r.payload 1 1 = st)
    (htoken : kind ≠ 0 → s.licenceOk kind ((r.payload.drop 4).take 2884) = true) (act : State → State) :
    s.lcs mb st kind act = (((act s).lcsChanged st kind).respond mb 0 []).settleControls := by
  refine (mbRun_ready h _).trans (congrArg _ ((if_neg (not_not.2 hstate)).trans ((if_neg ?_).trans rfl)))
  by_cases hkind : kind = 0
  · simp [hkind]
  · simp [htoken hkind]

/-- What the change leaves, where what the command does beside it leaves the mailbox. -/
theorem exec_lcs (h : MbReady s mb 0x38 r) {kind : Nat} (hstate : leAt r.payload 1 1 = st) (hst : st < 8)
    (htoken : kind ≠ 0 → s.licenceOk kind ((r.payload.drop 4).take 2884) = true) {c : Instr} {act : State → State}
    (hexec : exec c s = onUnit (mb < 64) (s.lcs mb st kind act)) (hinsts : (act s).insts = s.insts) :
    ∃ u : State, exec c s = .next u.settleControls ∧ u.sec.lcs.toNat = st ∧ (u.inst mb).mb.rspStatus = 0 ∧
      u.sec.licences = (act s).sec.licences ∧ u.sec.debugcnt = (act s).sec.debugcnt := by
  have hrun : (((act s).lcsChanged st kind).inst mb).mb.running = some r :=
    (congrArg (fun m : NMap Inst => (NMap.at m mb {}).mb.running) hinsts).trans h.2.1
  refine ⟨((act s).lcsChanged st kind).respond mb 0 [], ?_, ?_, respond_status hrun _ _, by rw [respond_sec]; rfl, by rw [respond_sec]; rfl⟩
  · rw [hexec, onUnit_lt h.1, lcs_changes h hstate htoken]
  · rw [respond_sec]
    exact (BitVec.toNat_ofNat _ _).trans (Nat.mod_eq_of_lt hst)

/-- A change in a direction that R446 does not allow is turned away at the gate at the latest. -/
theorem mbCheck_lcs_refused (hop : r.opcode = 0x38) (h : s.lcsAllowed (leAt r.payload 1 1) = false) : s.mbCheck mb r ≠ none := by
  have hgate : s.mbGate mb r ≠ none := by
    unfold State.mbGate
    rw [hop, h]
    split_ifs <;> simp_all
  unfold State.mbCheck
  split
  · exact Option.some_ne_none _
  · exact absurd ‹_› hgate

/-! ## GCLR (R458) -/

theorem exec_gclr (h : MbReady s mb 0x39 r) (hactive : s.sec.active = 0) : ∃ u : State, exec (.gclr mb) s = .next ((u.respond mb 0 []).settleControls) ∧
    u.sec.locked = false ∧ u.insts = s.insts := by
  obtain ⟨o, ho⟩ := withAlert_out s { s with sec := { s.sec with locked := false } }
  refine ⟨_, (exec_mbRun h rfl).trans (congrArg _ (congrArg _ (if_neg (not_not.2 hactive)))), ?_, ?_⟩
  · rw [ho]
  · rw [ho]

theorem exec_gclr_refused (h : MbReady s mb 0x39 r) (hactive : s.sec.active ≠ 0) :
    exec (.gclr mb) s = .next ((s.respond mb 0x000C []).settleControls) :=
  (exec_mbRun h rfl).trans (congrArg _ (congrArg _ (if_pos hactive)))

/-- Settles O38: each command by its lemma; the life-cycle commands differ in what they do beside the change, which leaves the mailbox. -/
theorem securityCommands : Obligations.SecurityCommands := by
  unfold Obligations.SecurityCommands
  intro s mb r p hp
  subst hp
  have hrunning : ∀ {op}, MbReady s mb op r → (s.inst mb).mb.running = some r := fun h => h.2.1
  refine ⟨fun h => ?secq, fun h st bs u he => exec_evidence h he, fun h hkey hmanuf hretired => ?enroll,
    fun hmb hrun hop hkeygen => ?keygenDone, fun h => ?certw, fun h => ?certr, fun h hok hnone => ?licadd, fun h hbad => exec_licadd_refused h hbad,
    fun h => ?licdel, fun h => ?nonce, fun st kind c hc h hstate htoken hdeployed hdebug hreturn hretired hkeygen => ?lcs,
    mbCheck_lcs_refused, fun h hactive => ?gclr, fun h hactive => exec_gclr_refused h hactive⟩
  case secq => have hrun := exec_mbRun (c := .secq mb) h rfl; exact hrun
  case certr => have hrun := exec_mbRun (c := .certr mb) h rfl; exact hrun
  case enroll =>
    obtain ⟨u, hexec, hgenerates, henrolled, hinsts, hmem⟩ := exec_enroll h hkey hmanuf hretired
    refine ⟨u, hexec, hgenerates, henrolled.trans hkey, ?_, hmem⟩
    rw [State.inst, hinsts]
    exact hrunning h
  case keygenDone =>
    obtain ⟨key, hexec⟩ := exec_keygenDone hmb hrun hop hkeygen
    have hstatus := respond_status (s := { s with sec := s.sec.keyed }) (m := mb) (r := r) hrun 0 key
    refine ⟨_, hexec, ?_, ?_, ?_, ?_, hstatus⟩
    · rw [respond_sec]; rfl
    · rw [respond_sec]; rfl
    · rw [respond_sec]; exact sigIndex_keyed s.sec
    · rw [respond_sec]; rfl
  case certw =>
    refine ⟨_, exec_mbRun h rfl, fun k => (NMap_at_putBytes _ _ _ _ _).trans ?_⟩
    by_cases hk : k < (r.payload.drop 8).length
    · rw [if_pos (by omega), if_pos hk, Nat.add_sub_cancel_left, List.getD_eq_getElem _ _ hk, List.getD_eq_getElem _ _ hk]
    · rw [if_neg (by omega), if_neg hk]
  case licadd =>
    refine ⟨_, exec_licadd_first h hok hnone, ?_, ?_, respond_status (r := r) ?_ _ _⟩
    · rw [respond_sec, ← leAt_take_drop r.payload 4 2884 4 4 (by decide), ← leAt_take_drop r.payload 4 2884 16 4 (by decide)]; rfl
    · rw [State.variant, respond_sec]; exact BitVec.zero_or
    · exact hrunning h
  case licdel =>
    refine ⟨_, exec_mbRun h rfl, respond_status (r := r) ?_ _ _, fun e => ?_⟩
    · exact hrunning h
    · rw [respond_sec]
      exact List.mem_filter.trans (by simp)
  case nonce =>
    refine ⟨_, (s.drawBytes 32).1, exec_mbRun h rfl, by simp [State.drawBytes], by rw [respond_sec], ?_⟩
    have hpayload := respond_payload (s := { (s.drawBytes 32).2 with sec := { (s.drawBytes 32).2.sec with nonce := some (s.drawBytes 32).1 } })
      (m := mb) (hrunning h) 0 (s.drawBytes 32).1
    rwa [show (s.drawBytes 32).1.length = 32 by simp [State.drawBytes]] at hpayload
  case lcs =>
    have hidle := eraseStore_idle hkeygen
    have herased : s.eraseStore.insts = s.insts := by rw [hidle]; rfl
    have hgone : s.eraseStore.sec.licences = [] := by rw [hidle]; rfl
    rcases hc with ⟨rfl, rfl, rfl⟩ | ⟨rfl, rfl, rfl⟩ | ⟨rfl, rfl, rfl⟩ | ⟨rfl, rfl, rfl⟩
    · obtain ⟨u, hexec, hlcs, hstatus, -, -⟩ := exec_lcs (c := .lcsDeployed mb) h hstate (by decide) htoken rfl rfl
      exact ⟨u, hexec, hlcs, hstatus, fun hst => absurd rfl hst, fun hst => absurd hst (by decide)⟩
    · obtain ⟨u, hexec, hlcs, hstatus, hlicences, hcount⟩ := exec_lcs (c := .lcsDebug mb) h hstate (by decide) htoken rfl herased
      exact ⟨u, hexec, hlcs, hstatus, fun _ => hlicences.trans hgone, fun _ => hcount⟩
    · obtain ⟨u, hexec, hlcs, hstatus, hlicences, -⟩ := exec_lcs (c := .lcsReturn mb) h hstate (by decide) htoken rfl herased
      exact ⟨u, hexec, hlcs, hstatus, fun _ => hlicences.trans hgone, fun hst => absurd hst (by decide)⟩
    · obtain ⟨u, hexec, hlcs, hstatus, hlicences, -⟩ := exec_lcs (c := .lcsRetired mb) h hstate (by decide) htoken rfl herased
      exact ⟨u, hexec, hlcs, hstatus, fun _ => hlicences.trans hgone, fun hst => absurd hst (by decide)⟩
  case gclr =>
    obtain ⟨u, hexec, hlocked, hinsts⟩ := exec_gclr h hactive
    refine ⟨_, hexec, by rw [respond_sec]; exact hlocked, respond_status (r := r) ?_ _ _⟩
    rw [State.inst, hinsts]
    exact hrunning h

end Sys2Proof.Machine
end

section
/-! SUPPORT. Tamper sources: what a detection sets, its entry in the tamper log, and its level (R456 to R459, R461). -/

namespace Sys2Proof.Machine
open Sys2Proof

variable {s : State} {source level : Nat} {unpowered : Bool}

/-! ## The bit of a source -/

theorem sourceBit_getLsbD {source : Nat} (h : source < 7) (k : Nat) : (BitVec.ofNat 7 (1 <<< source)).getLsbD k = decide (k = source) := by
  rw [BitVec.getLsbD_ofNat, Nat.one_shiftLeft, Nat.testBit_two_pow]
  rcases eq_or_ne k source with rfl | hk
  · simp [h]
  · simp [hk, hk.symm]

theorem or_sourceBit {source : Nat} (h : source < 7) (x : BitVec 7) : (x ||| BitVec.ofNat 7 (1 <<< source)).getLsbD source = true := by
  simp [sourceBit_getLsbD h]

theorem and_not_sourceBit {source : Nat} (h : source < 7) (x : BitVec 7) (k : Nat) :
    (x &&& ~~~(BitVec.ofNat 7 (1 <<< source))).getLsbD k = (x.getLsbD k && decide (k ≠ source)) := by
  rw [BitVec.getLsbD_and, BitVec.getLsbD_not, sourceBit_getLsbD h]
  rcases lt_or_ge k 7 with hk | hk
  · simp [hk]
  · simp [BitVec.getLsbD_of_ge x k hk]

/-! ## The tamper log (R461; log 52) -/

theorem galeLevel_lt (s : State) (source : Nat) : s.galeLevel source < 4 := Nat.mod_lt _ (by decide)

/-- A detection without an entry of its source in the last second makes one. -/
theorem tamper_new (h : s.sec.tlogAt.find? (fun e => e.1 = source && s.clock.now < e.2.2 + 10 ^ 9) = none) :
    (s.tamper source level unpowered).sec.tlognext = s.sec.tlognext + 1 ∧
      NMap.at (s.tamper source level unpowered).sec.tlog s.sec.tlognext.toNat 0 = BitVec.ofNat 128
        (source + level * 2 ^ 8 + b2n unpowered * 2 ^ 24 + s.sec.seconds.toNat * 2 ^ 32 + s.pers.bootcnt.toNat * 2 ^ 64) := by
  unfold State.tamper
  dsimp only
  rw [h]
  exact ⟨rfl, NMap_at_put_same ..⟩

/-- A detection with an entry of its source in the last second counts in it. -/
theorem tamper_merged {e : Nat × Nat × Nat} (h : s.sec.tlogAt.find? (fun e => e.1 = source && s.clock.now < e.2.2 + 10 ^ 9) = some e) :
    (s.tamper source level unpowered).sec.tlognext = s.sec.tlognext ∧
      NMap.at (s.tamper source level unpowered).sec.tlog e.2.1 0 = BitVec.ofNat 128 (setFld (NMap.at s.sec.tlog e.2.1 0).toNat 16 8
        (min 255 (fld (NMap.at s.sec.tlog e.2.1 0).toNat 16 8 + 1))) := by
  unfold State.tamper
  dsimp only
  rw [h]
  exact ⟨rfl, NMap_at_put_same ..⟩

/-- A powered entry fits its 128 bits. -/
theorem tamperEntry_toNat (hsource : source < 7) (hlevel : level < 4) (seconds bootcnt : BitVec 32) :
    (BitVec.ofNat 128 (source + level * 2 ^ 8 + b2n false * 2 ^ 24 + seconds.toNat * 2 ^ 32 + bootcnt.toNat * 2 ^ 64)).toNat =
      source + level * 2 ^ 8 + seconds.toNat * 2 ^ 32 + bootcnt.toNat * 2 ^ 64 := by
  have hseconds := seconds.isLt
  have hbootcnt := bootcnt.isLt
  rw [BitVec.toNat_ofNat, Nat.mod_eq_of_lt (by simp only [b2n, Bool.false_eq_true, if_false]; omega)]
  simp [b2n]

/-! ## The level (R456, R458, R459) -/

/-- The key store once a level from 1 on has been applied. -/
def State.keysTaken (s : State) (level : Nat) : Sec := if level = 2 then s.lockKeys.zeroised.sec else s.lockKeys.sec

theorem applyLevel_zero : s.applyLevel source 0 unpowered = s := rfl

/-- A level from 1 on takes the keys; whether lock is in force is its only other change of the store. -/
theorem applyLevel_sec (h : level ≠ 0) :
    ∃ f, (s.applyLevel source level unpowered).sec = { s.keysTaken level with lockInForce := f } := by
  have htaken : ∃ f, (if level = 2 then s.lockKeys.eraseStore else s.lockKeys).sec = { s.keysTaken level with lockInForce := f } := by
    unfold State.keysTaken
    split
    · exact ⟨_, (eraseStore_stands s.lockKeys).sec⟩
    · exact ⟨_, rfl⟩
  unfold State.applyLevel
  rw [if_neg h]
  dsimp only
  generalize (if level = 2 then s.lockKeys.eraseStore else s.lockKeys) = t at htaken
  obtain ⟨f, hf⟩ := htaken
  obtain ⟨o, ho⟩ := withAlert_out s (if unpowered then t else t.enterLock source)
  rw [ho]
  refine ⟨(if unpowered then t else t.enterLock source).sec.lockInForce, ?_⟩
  have hstands : Stands t (if unpowered then t else t.enterLock source) := by
    split
    · exact Stands.refl t
    · exact (Stands.refl t).enterLock source
  exact hstands.sec.trans (by rw [hf])

/-! ## A detection (R457) -/

/-- The state in which a source is seen and active, before its entry and its level. -/
def State.sourceSeen (s : State) (source : Nat) : State :=
  { s with sec := { s.sec with
    active := s.sec.active ||| BitVec.ofNat 7 (1 <<< source)
    seen := s.sec.seen ||| BitVec.ofNat 7 (1 <<< source)
    battlow := s.sec.battlow || source = 5 } }

theorem detect_eq (s : State) (source : Nat) (unpowered : Bool) : s.detect source unpowered =
    ((s.sourceSeen source).tamper source (s.galeLevel source) unpowered).applyLevel source (s.galeLevel source) unpowered := rfl

/-- What a level leaves of the store: the sources and the tamper log. -/
theorem applyLevel_keepsLog (s : State) (source level : Nat) (unpowered : Bool) : ((s.applyLevel source level unpowered).sec.seen,
      (s.applyLevel source level unpowered).sec.active, (s.applyLevel source level unpowered).sec.tlog, (s.applyLevel source level unpowered).sec.tlognext) =
    (s.sec.seen, s.sec.active, s.sec.tlog, s.sec.tlognext) := by
  rcases eq_or_ne level 0 with rfl | h
  · rfl
  · obtain ⟨f, hf⟩ := applyLevel_sec (s := s) (source := source) (unpowered := unpowered) h
    rw [hf]
    unfold State.keysTaken
    split
    · rfl
    · rfl

theorem exec_galeDetection_powered (hsource : source < 7) (hrails : s.board.rails = true) :
    exec (.galeDetection source false) s = .next (s.detect source false) := by
  have hexec : exec (.galeDetection source false) s = execGaleDetection source false s := rfl
  rw [hexec, execGaleDetection, hrails]
  exact congrArg Host.Outcome.next (if_neg (by simpa using hsource))

theorem exec_firmwareIntegrityCheck_differs {running : List Byte} (hrails : s.board.rails = true) (hstep : 3 ≤ s.host.step.toNat)
    (hdiffers : Config.shake256 running ≠ NMap.at s.sec.meas 1 0) :
    exec (.firmwareIntegrityCheck running) s = .next (s.detect 6 false) := by
  have hexec : exec (.firmwareIntegrityCheck running) s = execFirmwareIntegrityCheck running s := rfl
  have hchecked : ¬(!s.board.rails || decide (s.host.step.toNat < 3) || decide (Config.shake256 running = NMap.at s.sec.meas 1 0)) = true := by
    simpa [hrails, Nat.not_lt.2 hstep] using hdiffers
  rw [hexec, execFirmwareIntegrityCheck, if_neg hchecked]

/-- Settles O39: a detection is the source's bits, its entry in the tamper log, and its level, which leaves the bits and the log. -/
theorem galeSources : Obligations.GaleSources := by
  unfold Obligations.GaleSources
  intro s source hsource
  refine ⟨fun un hrails hun => ?detection, ?cleared, fun running hrails hstep => ⟨fun hdiffers => ?differs, fun hsame => ?same⟩⟩
  case detection =>
    subst hun
    have hexec := exec_galeDetection_powered hsource hrails
    obtain ⟨log, entries, next, count, htamper⟩ := tamper_log (s.sourceSeen source) source (s.galeLevel source) false
    have hkept := applyLevel_keepsLog ((s.sourceSeen source).tamper source (s.galeLevel source) false) source (s.galeLevel source) false
    rw [← detect_eq] at hkept
    simp only [Prod.mk.injEq] at hkept
    obtain ⟨hseen, hactive, hlog, hnext⟩ := hkept
    refine ⟨_, hexec, ?_, ?_, fun hnone => ?_, fun e he => ?_, fun hlevel => ?_, fun hlevel => ?_, fun hlevel => ?_⟩
    · rw [hseen, htamper]
      exact or_sourceBit hsource _
    · rw [hactive, htamper]
      exact or_sourceBit hsource _
    · obtain ⟨hadvanced, hentry⟩ := tamper_new (s := s.sourceSeen source) (level := s.galeLevel source) (unpowered := false) hnone
      rw [hlog, hnext]
      exact ⟨(congrArg BitVec.toNat hentry).trans (tamperEntry_toNat hsource (galeLevel_lt s source) _ _), hadvanced⟩
    · rw [hlog, hnext]
      exact tamper_merged (s := s.sourceSeen source) he
    · obtain ⟨f, hf⟩ := applyLevel_sec (s := (s.sourceSeen source).tamper source (s.galeLevel source) false) (source := source)
        (unpowered := false) hlevel
      rw [detect_eq, hf]
      unfold State.keysTaken
      split
      · exact ⟨rfl, rfl, rfl⟩
      · exact ⟨rfl, rfl, rfl⟩
    · obtain ⟨f, hf⟩ := applyLevel_sec (s := (s.sourceSeen source).tamper source (s.galeLevel source) false) (source := source)
        (unpowered := false) (hlevel ▸ (by decide : (2 : Nat) ≠ 0))
      rw [detect_eq, hf, hlevel]
      exact ⟨rfl, rfl, rfl⟩
    · rw [detect_eq, htamper, hlevel, applyLevel_zero]
      exact ⟨rfl, rfl, rfl⟩
  case cleared =>
    have hexec : exec (.galeSourceCleared source) s = .next { s with sec := { s.sec with
        active := s.sec.active &&& ~~~(BitVec.ofNat 7 (1 <<< source)), battlow := s.sec.battlow && source ≠ 5 } } :=
      congrArg Host.Outcome.next (if_neg (by omega))
    refine ⟨_, hexec, ?_, rfl, rfl, fun k hk => ?_, rfl⟩
    · simp [and_not_sourceBit hsource]
    · simp [and_not_sourceBit hsource, hk]
  case differs => exact exec_firmwareIntegrityCheck_differs hrails hstep hdiffers
  case same => exact congrArg Host.Outcome.next (if_pos (by simp [hsame]))

end Sys2Proof.Machine
end

section
/-! SUPPORT. The management sideband: its answers, the staging area that it writes, and the warm reset that it orders (R473 to R475, R498 to R500). -/

namespace Sys2Proof.Machine
open Sys2Proof

variable {s : State}

/-! ## Answers (R498, R499; log 85) -/

theorem exec_mctpControl (hstandby : s.board.standby = true) (c : Byte) (d : List Byte) :
    exec (.mctpControl c d) s = .next ((s.mctp c.toNat d).2.sendSideband 0 c (s.mctp c.toNat d).1) := by
  have hexec : exec (.mctpControl c d) s = execMctpControl c d s := rfl
  rw [hexec, execMctpControl, hstandby]
  rfl

theorem exec_pldmCommand (hstandby : s.board.standby = true) (ty c : Byte) (d : List Byte) :
    exec (.pldmCommand ty c d) s = .next ((s.pldm ty.toNat c.toNat d).2.sendSideband (ty + 1) c (s.pldm ty.toNat c.toNat d).1) := by
  have hexec : exec (.pldmCommand ty c d) s = execPldmCommand ty c d s := rfl
  rw [hexec, execPldmCommand, hstandby]
  rfl

/-- Memory, and the address and the transmission unit that an answer carries. -/
def State.answering (s : State) : Mem × BitVec 7 × Nat := (s.mem, s.sidebandAddr, s.board.unit)

/-- An answer goes out with the address and the unit in force. -/
theorem sendSideband_out {t : State} (h : t.answering = s.answering) (kind code : Byte) (data : List Byte) :
    (t.sendSideband kind code data).out = t.out ++ [.sideband s.sidebandAddr s.board.unit kind code data] ∧
      (t.sendSideband kind code data).mem = s.mem := by
  simp only [State.answering, Prod.mk.injEq] at h
  obtain ⟨hmem, haddr, hunit⟩ := h
  exact ⟨by rw [← haddr, ← hunit]; rfl, hmem⟩

theorem withAlert_answering (s t : State) : (s.withAlert t).answering = t.answering := by
  obtain ⟨o, ho⟩ := withAlert_out s t
  rw [ho]
  rfl

/-- An MCTP control command sends nothing before its answer. -/
theorem mctp_answering (s : State) (c : Nat) (d : List Byte) : (s.mctp c d).2.answering = s.answering ∧ (s.mctp c d).2.out = s.out := by
  unfold State.mctp
  split
  · dsimp only
    split
    · exact ⟨rfl, rfl⟩
    · exact ⟨rfl, rfl⟩
  · exact ⟨rfl, rfl⟩
  · dsimp only
    split
    · exact ⟨rfl, rfl⟩
    · exact ⟨rfl, rfl⟩
  · exact ⟨rfl, rfl⟩
  · dsimp only
    split
    · exact ⟨rfl, rfl⟩
    · exact ⟨rfl, rfl⟩
  · exact ⟨rfl, rfl⟩

theorem numericSensor_answering (s : State) (k : Nat) : (s.numericSensor k).2.answering = s.answering := by
  unfold State.numericSensor
  split
  · rfl
  · rfl
  · rfl
  · rfl

theorem pldm_answering (s : State) (ty c : Nat) (d : List Byte) : (s.pldm ty c d).2.answering = s.answering := by
  unfold State.pldm
  split
  case h_1 => split <;> rfl
  case h_6 =>
    split
    · rfl
    · exact withAlert_answering _ _
  case h_7 =>
    dsimp only
    split
    · rfl
    · have hread := numericSensor_answering s (leAt d 0 2)
      split
      case h_1 h => rw [h] at hread; exact hread
      case h_2 h => rw [h] at hread; exact hread
  case h_8 =>
    dsimp only
    split
    · rfl
    · rfl
  all_goals rfl

/-- SetTID of a legal number. -/
theorem pldm_setTid {tid : Byte} (hzero : tid ≠ 0) (hall : tid ≠ 0xFF) :
    s.pldm 0 1 [tid] = ([0], { s with board := { s.board with tid := tid } }) :=
  if_neg (by simpa [byteAt] using And.intro hzero hall)

/-- The event poll takes the oldest event. -/
theorem pldm_poll {k : Byte} {now : Bool} {rest : List (Byte × Bool)} (h : s.board.pldm = (k, now) :: rest) (d : List Byte) :
    s.pldm 2 0x0B d = ([0, s.board.tid, 1, 0] ++ eventBytes k now, s.withAlert { s with board := { s.board with pldm := rest } }) := by
  unfold State.pldm
  dsimp only
  rw [h]
  rfl

/-- The reading of a state sensor. -/
theorem pldm_stateSensor {k : Byte} (hk : k.toNat < 6) : s.pldm 2 0x21 [k, 0] =
    ([0, 1, 0, BitVec.ofNat 8 (b2n (s.stateSensor k.toNat)), BitVec.ofNat 8 (b2n (NMap.at s.board.sensorState k.toNat false)), 0], s) := by
  have hnum : leAt [k, 0] 0 2 = k.toNat := by simp [leAt, ofLe]
  unfold State.pldm
  dsimp only
  rw [hnum]
  exact if_neg (Nat.not_le.2 hk)

/-- Set Endpoint ID of a legal number. -/
theorem mctp_setEid {op eid : Byte} (hop : op.toNat < 2) (hzero : eid ≠ 0) (hall : eid ≠ 0xFF) :
    s.mctp 1 [op, eid] = ([0, 0, eid, 0], { s with board := { s.board with eid := eid } }) := by
  have hlegal : ¬(decide (2 ≤ op.toNat % 4) || decide (eid = 0) || decide (eid = 0xFF)) = true := by
    simp only [Bool.or_eq_true, decide_eq_true_eq, not_or]
    exact ⟨⟨by omega, hzero⟩, hall⟩
  exact if_neg hlegal

/-! ## The staging area (R473; log 86) -/

/-- Bytes programmed where none has been since the last erase. -/
theorem stagingWrite_fresh {off : Nat} (bs : List Byte) (hlen : off + bs.length ≤ 2 ^ 26)
    (hfresh : ∀ a, off ≤ a → a < off + bs.length → NMap.find s.boot.staging a = none) :
    s.stagingWrite off bs = { s with boot := { s.boot with
      staging := (List.range bs.length).foldl (fun m k => NMap.ins m (off + k) (bs.getD k 0)) s.boot.staging } } := by
  suffices h : ∀ n, n ≤ bs.length → (List.range n).foldl _ s = { s with boot := { s.boot with
      staging := (List.range n).foldl (fun m k => NMap.ins m (off + k) (bs.getD k 0)) s.boot.staging } } from h _ le_rfl
  intro n hn
  induction n with
  | zero => rfl
  | succ n ih =>
    have hnone : NMap.find ((List.range n).foldl (fun m k => NMap.ins m (off + k) (bs.getD k 0)) s.boot.staging) (off + n) = none := by
      rw [NMap_find_insRange (fun k => bs.getD k 0), if_neg (by omega)]
      exact hfresh _ (by omega) (by omega)
    rw [List.range_succ, List.foldl_append, List.foldl_append, ih (by omega)]
    simp only [List.foldl_cons, List.foldl_nil, hnone]
    exact if_neg (by omega)

theorem writeStage_erase (h : s.boot.stage ≠ 3) :
    s.writeStage false true = { s with boot := { s.boot with erasing := true, stage := 0 } } := by
  unfold State.writeStage
  rw [if_pos (show (true && decide (s.boot.stage ≠ 3)) = true from decide_eq_true h)]
  rfl

theorem writeStage_arm (h : s.boot.stage = 0) : s.writeStage true false = { s with boot := { s.boot with stage := 1 } } := by
  simp [State.writeStage, h]

/-! ## Vendor-defined messages (R500) -/

section
variable (hopen : s.bootOpen 0 = true)
include hopen

/-- A vendor-defined command performed and answered. -/
theorem vdm_open (c : Nat) (act : State → List Byte × State) :
    s.vdm c act = (act s).2.sendSideband 0x7F (BitVec.ofNat 8 c) (act s).1 :=
  if_neg (by simp [hopen])

theorem exec_vdmWrite {off : Nat} {d : List Byte} (hsome : 0 < d.length) (hmost : d.length ≤ 1024) : exec (.vdmWrite off d) s =
    .next ((if 2 ^ 26 < off + d.length then { s with dport := { s.dport with range := true } } else s.stagingAccess off d).sendSideband 0x7F 4 []) := by
  have hexec : exec (.vdmWrite off d) s = execVdmWrite off d s := rfl
  have hsized : ¬(d.isEmpty || decide (1024 < d.length)) = true := by
    simp [List.ne_nil_of_length_pos hsome, hmost]
  rw [hexec, execVdmWrite, if_neg hsized, vdm_open hopen]
  rfl

/-- VDM_WARM begins a warm reset. -/
theorem exec_vdmWarm (hrails : s.board.rails = true) : ∃ t inputs, exec .vdmWarm s = .next t ∧
    Begun (s.sendSideband 0x7F 6 []).draw.2.startLost.wipe t false inputs s.boot.recover ∧
    Idle (s.sendSideband 0x7F 6 []).draw.2.startLost.wipe t := by
  have hexec : exec .vdmWarm s = execVdmWarm s := rfl
  obtain ⟨t, ht, hbegun, hidle⟩ := exec_warmReset_now (s := (s.sendSideband 0x7F 6 []).draw.2)
    { recoveryLow := (s.sendSideband 0x7F 6 []).draw.1.getLsbD 0 } hrails
  rw [hexec, execVdmWarm, if_pos hopen]
  exact ⟨t, _, ht, hbegun, hidle⟩

end

/-- Settles O54: the answers by the three parts of the sideband, MCTP, PLDM and the vendor-defined messages. -/
theorem sidebandCommands : Obligations.SidebandCommands := by
  unfold Obligations.SidebandCommands
  intro s hstandby
  refine ⟨fun a haddr => ?entdaa, fun op eid hop hzero hall => ?setEid, fun d => exec_mctpControl hstandby 2 d, fun c d => ?mctp,
    fun tid hzero hall => ?setTid, fun d => exec_pldmCommand hstandby 0 2 d, fun d k b rest hevents => ?poll, fun k hk => ?reading,
    fun ty c d => ?pldm, fun k hk hchanged => ?changed, fun k hk hsame => ?unchanged, fun hopen => ⟨fun nonce => ?evidence, fun hstage => ?erase,
      fun off d hsome hmost => ⟨fun hend herasing hstage hwaiting hfresh => ?write, fun hend => ?writeOutside⟩, fun hstage => ?arm,
      fun hrails => ?warm, ?recover, fun n => ?logread, fun on => ?locate⟩⟩
  case entdaa => exact congrArg Host.Outcome.next (if_neg (by simp [hstandby, haddr]))
  case setEid => rw [exec_mctpControl hstandby]; exact congrArg _ (congrArg (fun r => r.2.sendSideband 0 1 r.1) (mctp_setEid hop hzero hall))
  case mctp =>
    obtain ⟨hanswering, hout⟩ := mctp_answering s c.toNat d
    obtain ⟨hsent, hmem⟩ := sendSideband_out hanswering 0 c (s.mctp c.toNat d).1
    exact ⟨_, _, exec_mctpControl hstandby c d, hsent.trans (by rw [hout]), hmem⟩
  case setTid => rw [exec_pldmCommand hstandby]; exact congrArg _ (congrArg (fun r => r.2.sendSideband 1 1 r.1) (pldm_setTid hzero hall))
  case poll =>
    have hpoll : s.pldm (2 : Byte).toNat (0x0B : Byte).toNat d = _ := pldm_poll hevents d
    obtain ⟨hsent, -⟩ := sendSideband_out (pldm_answering s 2 0x0B d) 3 0x0B (s.pldm 2 0x0B d).1
    obtain ⟨o, ho⟩ := withAlert_out s { s with board := { s.board with pldm := rest } }
    rw [ho] at hpoll
    refine ⟨_, eventBytes k b, exec_pldmCommand hstandby 2 0x0B d, ?_, ?_⟩
    · exact congrArg (fun r : List Byte × State => r.2.board.pldm) hpoll
    · refine hsent.symm ▸ List.mem_append_right _ (List.mem_singleton.2 (congrArg _ ?_))
      exact (congrArg Prod.fst hpoll).symm
  case reading => rw [exec_pldmCommand hstandby]; exact congrArg _ (congrArg (fun r => r.2.sendSideband 3 0x21 r.1) (pldm_stateSensor hk))
  case pldm =>
    obtain ⟨hsent, hmem⟩ := sendSideband_out (pldm_answering s ty.toNat c.toNat d) (ty + 1) c (s.pldm ty.toNat c.toNat d).1
    exact ⟨_, _, exec_pldmCommand hstandby ty c d, by rw [hsent]; exact List.mem_append_right _ (List.mem_singleton.2 rfl), hmem⟩
  case changed =>
    obtain ⟨o, ho⟩ := withAlert_out s { s with board := { s.board with
      sensorState := NMap.put false s.board.sensorState k (s.stateSensor k), pldm := s.board.pldm ++ [(BitVec.ofNat 8 k, s.stateSensor k)] } }
    refine ⟨_, congrArg Host.Outcome.next (if_neg (by simp [hstandby, hchanged, hk])), ?_, ?_⟩
    · rw [ho]
    · rw [ho]; exact NMap_at_put_same ..
  case unchanged => exact congrArg Host.Outcome.next (if_pos (by simp [hsame]))
  case evidence => exact congrArg Host.Outcome.next (vdm_open hopen 2 _)
  case erase =>
    exact congrArg Host.Outcome.next ((vdm_open hopen 3 _).trans (congrArg (fun t : State => t.sendSideband 0x7F 3 []) (writeStage_erase hstage)))
  case write =>
    have hin : ¬ 2 ^ 26 < off + d.length := by omega
    refine ⟨_, exec_vdmWrite hopen hsome hmost, ?_, fun a => ?_⟩
    · rw [if_neg hin, stagingAccess_now hwaiting herasing hstage, stagingWrite_fresh (s := { s with boot := { s.boot with stage := 0 } }) d hend hfresh]
      rfl
    · rw [if_neg hin, stagingAccess_now hwaiting herasing hstage, stagingWrite_fresh (s := { s with boot := { s.boot with stage := 0 } }) d hend hfresh]
      exact NMap_find_insRange (fun k => d.getD k 0) off a d.length s.boot.staging
  case writeOutside => exact ⟨_, exec_vdmWrite hopen hsome hmost, by rw [if_pos hend]; rfl, by rw [if_pos hend]; rfl⟩
  case arm =>
    exact congrArg Host.Outcome.next ((vdm_open hopen 5 _).trans (congrArg (fun t : State => t.sendSideband 0x7F 5 []) (writeStage_arm hstage)))
  case warm =>
    obtain ⟨t, inputs, hexec, hbegun, hidle⟩ := exec_vdmWarm hopen hrails
    obtain ⟨hcores, -, -, -, -, -, -, hnow⟩ := wiped_leaves (s.sendSideband 0x7F 6 []).draw.2
    exact ⟨t, hexec, hbegun.starting, hbegun.t0.trans hnow, hidle.cores.trans hcores⟩
  case recover => exact congrArg Host.Outcome.next (vdm_open hopen 7 _)
  case logread => exact congrArg Host.Outcome.next (vdm_open hopen 8 _)
  case locate => exact congrArg Host.Outcome.next (vdm_open hopen 9 _)

end Sys2Proof.Machine
end

section
/-! SUPPORT. What sending on links leaves alone: the receiving side of every link, and all that packets are not (R370 to R379). -/

namespace Sys2Proof.Machine
open Sys2Proof

variable {s : State} {P : State → Prop} {A : Nat → Prop}

/-! ## The receiving side of a link -/

/-- A link with its sending side at rest. -/
def Link.receiving (k : Link) : Link :=
  { k with
    owed := [], sinceAck := 0, txBits := 0, txFill := 0, credits := [], txBuf := [], progressAt := 0, txNext := 0
    waiting := [], fwdAhead := 0, deficit := [], turn := 0, replay := 0 }

/-- The choice among a module's own traffic moves only the turns and deficits of the sender (R376). -/
theorem nextOwn_receiving (s : State) : ∀ (m : Nat) (k : Link) {w : Queued} {k' : Link}, s.nextOwn m k = some (w, k') → k'.receiving = k.receiving := by
  intro m
  induction m with
  | zero => intro k w k' h; cases h
  | succ m ih =>
    intro k w k' h
    unfold State.nextOwn at h
    dsimp only at h
    split at h
    · split at h
      · obtain ⟨-, rfl⟩ := Prod.mk.inj (Option.some.inj h); rfl
      · exact (ih _ h).trans rfl
    · exact (ih _ h).trans rfl

theorem nextPacket_receiving {k k' : Link} {w : Queued} (h : s.nextPacket k = some (w, k')) : k'.receiving = k.receiving := by
  have hahead : (if k.waiting.any (fun w => w.vc ≠ 2 && s.forwards w.packet) then k else { k with fwdAhead := 0 }).receiving = k.receiving := by
    split
    · rfl
    · rfl
  unfold State.nextPacket at h
  dsimp only at h
  split at h
  · obtain ⟨-, rfl⟩ := Prod.mk.inj (Option.some.inj h); rfl
  · generalize (if k.waiting.any (fun w => w.vc ≠ 2 && s.forwards w.packet) then k else { k with fwdAhead := 0 }) = j at h hahead
    split at h
    · obtain ⟨-, rfl⟩ := Prod.mk.inj (Option.some.inj h); exact hahead
    · rename_i hown
      rw [Option.some.inj h] at hown
      exact (nextOwn_receiving s _ _ hown).trans hahead
    · rename_i hown
      split at h
      · obtain ⟨-, rfl⟩ := Prod.mk.inj (Option.some.inj h); exact hahead
      · obtain ⟨-, rfl⟩ := Prod.mk.inj (Option.some.inj h); exact (nextOwn_receiving s _ _ hown).trans hahead
    · cases h

/-! ## The port of a packet -/

theorem argMin_mem {α : Type} {f : α → Nat} {l : List α} {x : α} (h : argMin f l = some x) : x ∈ l := by
  induction l generalizing x with
  | nil => cases h
  | cons y l ih =>
    rw [argMin] at h
    split at h
    · exact Option.some.inj h ▸ List.mem_cons_self
    · split at h
      · exact Option.some.inj h ▸ List.mem_cons_self
      · exact Option.some.inj h ▸ List.mem_cons_of_mem _ (ih ‹_›)

theorem port_up {p : Packet} {l : Nat} (h : s.port p = some l) : s.linkUp l = true := (List.mem_filter.1 (argMin_mem h)).2

/-! ## A predicate that sending keeps -/

/-- A predicate of states that sending on the links of A keeps, the links that are up among them. -/
structure KeptBySending (P : State → Prop) (A : Nat → Prop) : Prop where
  send : ∀ {s : State} (m : OutMsg), P s → P (s.send m)
  deliver : ∀ {s : State} (p : Packet), P s → P (s.deliver p)
  setLink : ∀ {s : State} {l : Nat} {k : Link}, A l → k.receiving = (s.link l).receiving → P s → P (s.setLink l k)
  up : ∀ {s : State} {l : Nat}, P s → s.linkUp l = true → A l

namespace KeptBySending
variable (h : KeptBySending P A)
include h

theorem emit {l : Nat} (hl : A l) (hs : P s) (head : Nat) (nak : Bool) (first : Nat) (body : List Byte) : P (s.emit l head nak first body) := by
  have hbits : ∀ {t : State} (f : List Byte), P t → P (t.putBits l f) := fun {t} f ht => by
    unfold State.putBits
    dsimp only
    split
    · exact h.setLink hl rfl ht
    · exact h.send _ (h.setLink hl rfl ht)
  unfold State.emit
  exact hbits _ (h.send _ (h.setLink hl rfl hs))

theorem sendControl {l : Nat} (hl : A l) (hs : P s) (nak : Bool) (messages : List (List Byte)) : P (s.sendControl l nak messages) :=
  h.emit hl hs _ _ _ _

theorem sendFlits {l : Nat} (hl : A l) (hs : P s) (fs : List SentFlit) : P (fs.foldl (fun (s : State) f => s.sendData l f) s) :=
  List.foldlRecOn _ _ hs fun _ ht _ _ => h.emit hl ht _ _ _ _

theorem transmit {l : Nat} (hl : A l) (hs : P s) (p : Packet) : P (s.transmit l p) := h.sendFlits hl (h.setLink (s := s) hl (by rfl) hs) _

theorem sendOn {l : Nat} (hl : A l) (hs : P s) (spent : Nat) (p : Packet) : P (s.sendOn l spent p) := by
  unfold State.sendOn
  dsimp only
  split
  · exact h.transmit hl hs p
  · exact h.setLink hl rfl hs

/-- A packet of no link: what arrives on one and is of no known kind would count there (R379). -/
theorem routeN (n : Nat) : ∀ {s : State}, P s → ∀ (res : Nat) (p : Packet), P (s.routeN n none res p).2 := by
  induction n with
  | zero => exact fun hs _ _ => hs
  | succ n ih =>
    intro s hs res p
    have hanswer : ∀ status, P (if isRequest p.opc.toNat then (s.routeN n none 0 (s.rejectOf p status)).2 else s) := fun status => by
      split
      · exact ih hs _ _
      · exact hs
    unfold State.routeN
    dsimp only
    split
    · exact hanswer _
    · split
      · split
        · exact hs
        · have hports := List.foldlRecOn (motive := P) (s.mcastPorts none { p with life := p.life - lifeCost res })
            (fun s l => s.sendOn l res { p with life := p.life - lifeCost res }) hs (fun t ht l hl => h.sendOn (h.up hs ?_) ht _ _)
          · dsimp only
            split
            · exact h.deliver _ hports
            · exact hports
          · exact (Bool.and_eq_true_iff.1 (List.mem_filter.1 hl).2).1
      · split
        · exact h.deliver _ hs
        · split
          · exact h.sendOn (h.up hs (port_up ‹_›)) hs _ _
          · exact hanswer _

theorem route (hs : P s) (res : Nat) (p : Packet) : P (s.route none res p).2 := h.routeN 2 hs res p

theorem sendQueued {l : Nat} (hl : A l) (hs : P s) (w : Queued) : P (s.sendQueued l w) := by
  unfold State.sendQueued
  dsimp only
  split
  · split
    · exact h.route hs _ _
    · exact hs
  · exact h.transmit hl hs _

theorem drainLink {l : Nat} (hl : A l) (n : Nat) : ∀ {s : State}, P s → P (s.drainLink n l) := by
  induction n with
  | zero => exact fun hs => hs
  | succ n ih =>
    intro s hs
    unfold State.drainLink
    split
    · exact hs
    · rename_i w k hnext
      have hkept : ({ k with waiting := k.waiting.erase w } : Link).receiving = (s.link l).receiving :=
        Eq.trans (b := k.receiving) rfl (nextPacket_receiving hnext)
      exact ih (h.sendQueued hl (h.setLink hl hkept hs) _)

/-- The flits of a replay buffer sent again (R373). -/
theorem resendFlits {l : Nat} (hl : A l) (hs : P s) (seq : BitVec 12) : P (s.resendFlits l seq) := h.sendFlits hl hs _

end KeptBySending

/-! ## Flits between dies (R395, R398, R402) -/

/-- Nothing differs but the bundles between dies and what has been sent. -/
def EddiesOnly (b s : State) : Prop := ∃ d o, s = { b with d2d := d, out := o }

namespace EddiesOnly
variable {b s : State}

theorem refl (b : State) : EddiesOnly b b := ⟨_, _, rfl⟩

theorem trans {t : State} (h : EddiesOnly b s) (k : EddiesOnly s t) : EddiesOnly b t := by
  obtain ⟨_, _, rfl⟩ := h
  obtain ⟨d, o, rfl⟩ := k
  exact ⟨d, o, rfl⟩

theorem messages (h : EddiesOnly b s) : MessagesOnly b s := by
  obtain ⟨d, o, rfl⟩ := h
  exact ⟨_, d, o, rfl⟩

theorem send (h : EddiesOnly b s) (m : OutMsg) : EddiesOnly b (s.send m) := h.trans ⟨_, _, rfl⟩

theorem setBundle (h : EddiesOnly b s) (n : Nat) (x : Bundle) : EddiesOnly b (s.setBundle n x) := h.trans ⟨_, _, rfl⟩

theorem emitEddy (h : EddiesOnly b s) (n d head : Nat) (nak : Bool) (first : Nat) (body : List Byte) :
    EddiesOnly b (s.emitEddy n d head nak first body) := (h.setBundle _ _).send _

theorem sendEddy (h : EddiesOnly b s) (n d : Nat) (f : SentEddy) : EddiesOnly b (s.sendEddy n d f) := by
  unfold State.sendEddy
  dsimp only
  split
  · exact (h.setBundle _ _).emitEddy _ _ _ _ _ _
  · exact h.setBundle _ _

theorem sendAlong (h : EddiesOnly b s) (hops : List Hop) (f : SentEddy) : EddiesOnly b (s.sendAlong hops f) :=
  List.foldlRecOn _ _ h fun _ ht _ _ => iteInduction (fun _ => ht) fun _ => ht.sendEddy _ _ _

theorem crossPackage (h : EddiesOnly b s) (south : Bool) (p : Packet) : EddiesOnly b (s.crossPackage south p) :=
  List.foldlRecOn _ _ h fun _ ht f _ => ht.sendAlong _ f

theorem handover (h : EddiesOnly b s) (n d : Nat) (x : EddyDir) : EddiesOnly b (s.handover n d x) := by
  refine List.foldlRecOn _ _ (List.foldlRecOn _ _ h fun t ht hop _ => ?_) fun _ ht f _ => ht.sendAlong _ f
  split
  · exact ht.emitEddy _ _ _ _ _ _
  · exact ht

end EddiesOnly

/-! ## Packets routed again (R378, R389) -/

/-- A predicate that the packets of a port that has gone keep as they are routed again. -/
structure KeptByRerouting (P : State → Prop) (A : Nat → Prop) : Prop extends KeptBySending P A where
  eddies : ∀ {s t : State}, P s → EddiesOnly s t → P t
  outst : ∀ {s : State} (o : List Outstanding), P s → P { s with ael := { s.ael with outst := o } }

namespace KeptByRerouting
variable (h : KeptByRerouting P A)
include h

theorem reroute (gone : Nat) (hs : P s) (w : Queued) : P (s.reroute gone w) := by
  have hwaits : ∀ {t : State} {l : Nat} (w : Queued), A l → P t → P (t.updLink l (fun k => { k with waiting := k.waiting ++ [w] })) :=
    fun _ hl ht => h.setLink hl rfl ht
  have hmoved : ∀ {t : State} (c : Bool) (o : List Outstanding), P t → P (if c then { t with ael := { t.ael with outst := o } } else t) :=
    fun _ _ ht => iteInduction (fun _ => h.outst _ ht) fun _ => ht
  unfold State.reroute
  dsimp only
  split
  · exact hs
  · split
    · have hl := h.up hs (port_up ‹_›)
      exact hwaits _ hl (hmoved _ _ (iteInduction (fun _ => h.eddies hs ((EddiesOnly.refl s).crossPackage _ _)) fun _ => hs))
    · split
      · exact h.route hs _ _
      · exact hs

/-- The packets that waited, and those that wait now on a link of A or with none waiting. -/
theorem rerouteAll (gone : Nat) (hidle : ∀ {s : State} {l : Nat}, P s → A l ∨ (s.link l).waiting = []) (hs : P s) (ws : List Queued) :
    P (s.rerouteAll gone ws) := by
  refine List.foldlRecOn _ _ (List.foldlRecOn _ _ hs fun _ ht w _ => h.reroute gone ht w) fun t ht l _ => ?_
  rcases hidle (l := l) ht with hl | hnone
  · exact h.drainLink hl _ ht
  · rw [hnone]
    exact ht

end KeptByRerouting

theorem messagesOnly_keptByRerouting (b : State) : KeptByRerouting (MessagesOnly b) fun _ => True where
  send m h := h.send m
  deliver p h := h.deliver p
  setLink _ _ h := h.setLink _ _
  up _ _ := trivial
  eddies h k := h.trans k.messages
  outst _ h := h.withAel _

theorem MessagesOnly.rerouteAll {b : State} (h : MessagesOnly b s) (gone : Nat) (ws : List Queued) : MessagesOnly b (s.rerouteAll gone ws) :=
  (messagesOnly_keptByRerouting b).rerouteAll gone (fun _ => .inl trivial) h ws

/-- Requests answered, one after the other. -/
theorem KeptBySending.rejectAll (h : KeptBySending P A) (hs : P s) (status : Nat) (lost : List Packet) :
    P (lost.foldl (fun (s : State) p => (s.route none 0 (s.rejectOf p status)).2) s) :=
  List.foldlRecOn _ _ hs fun _ ht _ _ => h.route ht _ _

end Sys2Proof.Machine
end

section
/-! SUPPORT. What the ends of work, fences and control commands leave alone: the sensors, the limits and pre-trip throttle, and where work only
ends, the bundles between dies (R27 to R29, R411, R437 to R441). -/

namespace Sys2Proof.Machine
open Sys2Proof

/-! ## Records and the ends of work -/

/-- A property of temperature, power and the bundles between dies alone. -/
structure KeptByEnds (P : State → Prop) : Prop where
  same : ∀ {s t : State}, P s → (t.therm, t.foehn, t.d2d) = (s.therm, s.foehn, s.d2d) → P t

namespace KeptByEnds
variable {P : State → Prop} {s : State} (hP : KeptByEnds P)
include hP

theorem records {t : State} (h : P s) (k : RecordsOnly s t) : P t := by
  obtain ⟨_, _, _, _, _, rfl⟩ := k
  exact hP.same h rfl

theorem event (h : P s) (i : Nat) (r : Record) : P (s.event i r) := hP.records h ((RecordsOnly.refl s).event i r)

theorem eventTo (h : P s) (l : List Nat) (r : Record) : P (s.eventTo l r) := List.foldlRecOn _ _ h fun _ ht i _ => hP.event ht i r

theorem errRecord (h : P s) (code flags : Nat) (u : BitVec 32) (detail : Nat) (dests : List Nat) : P (s.errRecord code flags u detail dests) :=
  hP.records h ((RecordsOnly.refl s).errRecord _ _ _ _ _)

theorem unitRecord (h : P s) (code : Nat) (u : BitVec 32) (dests : List Nat) : P (s.unitRecord code u dests) := hP.errRecord h _ _ _ _ _

theorem withAlert (h : P s) (before : State) : P (before.withAlert s) := by
  obtain ⟨o, ho⟩ := withAlert_out before s
  rw [ho]
  exact hP.same h rfl

theorem updCore (h : P s) (g : Nat) (f : Core → Core) : P (s.updCore g f) := hP.same h rfl

theorem updCluster (h : P s) (n : Nat) (f : Cluster → Cluster) : P (s.updCluster n f) := hP.same h rfl

theorem updInst (h : P s) (i : Nat) (f : Inst → Inst) : P (s.updInst i f) := hP.same h rfl

theorem sending : KeptBySending P fun _ => True :=
  ⟨fun _ h => hP.same h rfl, fun _ h => hP.same h rfl, fun _ _ h => hP.same h rfl, fun _ _ => trivial⟩

theorem closeBatches (h : P s) (stag : Nat) : P (s.closeBatches stag) := by
  refine List.foldlRecOn _ _ h fun t ht e _ => ?_
  have htaken : P { t with ael := { t.ael with txid := t.ael.txid + 1, batches := t.ael.batches.filter (fun b => b ≠ e) } } := hP.same ht rfl
  exact iteInduction (fun _ => htaken) fun _ => hP.sending.route htaken _ _

theorem closeEnded (h : P s) (g slot inst idx task : Nat) : P (s.closeEnded g slot inst idx task) := by
  unfold State.closeEnded
  dsimp only
  split
  · exact h
  · exact hP.closeBatches h _

theorem endCopies (h : P s) (g : Nat) (copy : CopyJob → Bool) (mat : MatOp → Bool) : P (s.endCopies g copy mat) :=
  List.foldlRecOn _ _ (hP.updCore h _ _) fun _ ht _ _ => hP.closeEnded ht _ _ _ _ _

theorem freeSlot (h : P s) (g slot : Nat) : P (s.freeSlot g slot) := by
  unfold State.freeSlot
  dsimp only
  split
  · exact hP.closeEnded (hP.updCore h _ _) _ _ _ _ _
  · exact hP.updCore h _ _

theorem clearSlot (h : P s) (g slot : Nat) : P (s.clearSlot g slot) := by
  unfold State.clearSlot
  split
  · exact h
  · exact hP.updCluster (hP.endCopies (hP.freeSlot h g slot) g _ _) _ _

theorem dropWork (h : P s) (i idx : Nat) : P (s.dropWork i idx) := by
  unfold State.dropWork
  refine hP.same (s := List.foldl _ _ _) ?_ rfl
  refine List.foldlRecOn _ _ ?_ fun _ ht g _ => hP.endCopies ht g _ _
  exact List.foldlRecOn _ _ h fun _ ht g _ => List.foldlRecOn _ _ ht fun _ hu e _ => hP.clearSlot hu g e.1

theorem complete (h : P s) (i idx status result : Nat) : P (s.complete i idx status result) := by
  have hinterrupt : ∀ {t : State}, P t → P (t.cqInterrupt i) := fun {t} ht => by
    unfold State.cqInterrupt
    dsimp only
    split
    · exact ht
    · split
      · exact hP.records ht ((RecordsOnly.refl t).interrupt _)
      · split
        · exact hP.records ht (((RecordsOnly.refl t).updInst _ _).interrupt _)
        · exact hP.updInst ht _ _
  unfold State.complete State.putCompletion
  split
  · exact h
  · dsimp only
    split
    · exact hP.updInst h _ _
    · have hput := fun (f g : Inst → Inst) (bus : Nat) (bs : List Byte) =>
        hP.records h ((((RecordsOnly.refl s).updInst i f).hostWrite i bus bs).updInst i g)
      split
      · exact hput _ _ _ _
      · exact hinterrupt (hput _ _ _ _)

theorem abandonAll (h : P s) (status : Nat) : P (s.abandonAll status) := by
  unfold State.abandonAll
  refine hP.same (s := List.foldl _ _ _) ?_ rfl
  refine List.foldlRecOn _ _ ?_ fun _ ht e _ => List.foldlRecOn _ _ ht fun _ hu x _ => hP.complete hu _ _ _ _
  exact List.foldlRecOn _ _ h fun _ ht l _ => hP.same (hP.dropWork ht _ _) rfl

theorem packageFatal (h : P s) (u : BitVec 32) : P (s.packageFatal u) := by
  have hfatal : P { s with err := { s.err with fatal := true } } := hP.same h rfl
  exact iteInduction (fun _ => h) fun _ => hP.withAlert (hP.errRecord (hP.abandonAll hfatal _) _ _ _ _ _) _

end KeptByEnds

/-! ## Control commands and fences -/

/-- What pre-trip throttle keeps of a sector (R420). -/
def SectorClk.throttle (k : SectorClk) : Bool × Option Nat := (k.pretrip, k.coolSince)

/-- A property of temperature and power, and of the sectors, of which control commands leave pre-trip throttle alone. -/
structure KeptByControls (P : State → Prop) : Prop where
  same : ∀ {s t : State}, P s → (t.therm, t.foehn) = (s.therm, s.foehn) → P t
  setSectorClk : ∀ {s : State} {n : Nat} {x : SectorClk}, P s → x.throttle = (s.sectorClk n).throttle → P (s.setSectorClk n x)

namespace KeptByControls
variable {P : State → Prop} {s : State} (hP : KeptByControls P)
include hP

theorem ends : KeptByEnds P := ⟨fun h e => hP.same h (by simp only [Prod.mk.injEq] at e ⊢; exact ⟨e.1, e.2.1⟩)⟩

theorem caches {t : State} (h : P s) (k : CachesOnly s t) : P t := by
  obtain ⟨_, _, _, _, _, rfl⟩ := k
  exact hP.same h rfl

theorem messages {t : State} (h : P s) (k : MessagesOnly s t) : P t := by
  obtain ⟨_, _, _, rfl⟩ := k
  exact hP.same h rfl

theorem withTlb (h : P s) (l : List TlbEntry) : P { s with tlb := l } := hP.same h rfl

theorem withErr (h : P s) (e : Err) : P { s with err := e } := hP.same h rfl

theorem withBist (h : P s) (x : Bist) : P { s with bist := x } := hP.same h rfl

theorem withDrains (h : P s) (ds : List Drain) : P { s with drains := ds } := hP.same h rfl

theorem setLink (h : P s) (l : Nat) (x : Link) : P (s.setLink l x) := hP.same h rfl

theorem setLaunch (h : P s) (l : Launch) : P (s.setLaunch l) := hP.same h rfl

/-- A sector changed in what is not pre-trip throttle. -/
theorem updSectorClk (h : P s) (n : Nat) {f : SectorClk → SectorClk} (hf : ∀ k, (f k).throttle = k.throttle) :
    P (s.updSectorClk n f) := hP.setSectorClk h (hf _)

theorem applyClock (h : P s) (n : Nat) : P (s.applyClock n) := by
  unfold State.applyClock
  exact hP.updSectorClk h n fun _ => rfl

theorem reclock (h : P s) (n : Nat) : P (s.reclock n) := by
  exact hP.setSectorClk h (iteInduction (motive := fun x : SectorClk => x.throttle = (s.sectorClk n).throttle) (fun _ => rfl) fun _ => rfl)

theorem settleClock (h : P s) (before : State) (n : Nat) : P (before.settleClock s n) := by
  have hleft : ∀ (c left : Bool) (why : Nat) {u : State}, P u → P (if c then u.floorEvent n left why else u) := fun c left why u hu => by
    cases c
    · exact hu
    · exact hP.ends.eventTo hu _ _
  unfold State.settleClock
  dsimp only
  split
  · exact hP.applyClock (hleft _ _ _ (hleft _ _ _ h)) n
  · exact hP.reclock (hleft _ _ _ (hleft _ _ _ h)) n

/-- A sector changed and its clock put into effect. -/
theorem reruled (h : P s) (n : Nat) {f : SectorClk → SectorClk} (hf : ∀ k, (f k).throttle = k.throttle) : P ((s.updSectorClk n f).applyClock n) :=
  hP.applyClock (hP.updSectorClk h n hf) n

/-! ### Tasks lost and launches killed (R194, R195) -/

theorem wipeCore (h : P s) (g : Nat) : P (s.wipeCore g) :=
  hP.withTlb (hP.ends.updCore (hP.ends.endCopies h g _ _) g _) _

theorem wipeCores (h : P s) (gs : List Nat) : P (gs.foldl (fun (s : State) g => s.wipeCore g) s) :=
  List.foldlRecOn _ _ h fun _ ht g _ => hP.wipeCore ht g

theorem updLaunch (h : P s) (i idx : Nat) (f : Launch → Launch) : P (s.updLaunch i idx f) := by
  unfold State.updLaunch
  split
  · exact hP.setLaunch h _
  · exact h

theorem requeue (h : P s) (g : Nat) (x : Group) : P (s.requeue g x) := by
  unfold State.requeue
  exact hP.ends.updCluster (hP.updLaunch h _ _ _) _ _

theorem killAt (h : P s) (i idx code : Nat) (u : BitVec 32) (pc : Word) (slot : Nat) : P (s.killAt i idx code u pc slot) := hP.updLaunch h i idx _

theorem loseTask (h : P s) (g slot : Nat) (logic : Bool) : P (s.loseTask g slot logic) := by
  unfold State.loseTask
  split
  · exact h
  · have hcleared := hP.ends.clearSlot h g slot
    exact iteInduction (fun _ => hcleared) fun _ => iteInduction (fun _ => hP.killAt hcleared _ _ _ _ _ _) fun _ =>
      iteInduction (fun _ => hP.killAt (hP.updLaunch (hP.updLaunch hcleared _ _ _) _ _ _) _ _ _ _ _ _) fun _ =>
        hP.requeue (hP.updLaunch hcleared _ _ _) _ _

theorem coreLost (h : P s) (g : Nat) (logic : Bool) : P (s.coreLost g logic) := by
  refine hP.wipeCore ?_ g
  rw [List.foldr_eq_foldl_reverse]
  exact List.foldlRecOn _ _ h fun _ ht slot _ => hP.loseTask ht g slot logic

theorem markFenced (h : P s) (g : Nat) : P (s.markFenced g) := hP.withErr h _

theorem killAll (h : P s) (u : BitVec 32) (ls : List Launch) : P (s.killAll u ls) :=
  List.foldlRecOn _ _ h fun _ ht _ _ => iteInduction (fun _ => ht) fun _ => hP.killAt ht _ _ _ _ _ _

/-! ### Fences of cores, clusters and sectors (R437 to R439) -/

theorem fencedRecords (h : P s) (u : BitVec 32) (dests dests' : List Nat) : P ((s.unitRecord 7 u dests).unitRecord 8 u dests') :=
  hP.ends.unitRecord (hP.ends.unitRecord h _ _ _) _ _ _

theorem fenceCluster (h : P s) (n : Nat) (queueError : Bool) : P (s.fenceCluster n queueError) := by
  have hlost : P ((coresOf n).foldl (fun (s : State) g => (s.coreLost g false).markFenced g) s) :=
    List.foldlRecOn _ _ h fun _ ht g _ => hP.markFenced (hP.coreLost ht g false) g
  have hflushed := hP.caches hlost ((CachesOnly.refl _).flushL2 n)
  refine hP.fencedRecords ?_ _ _ _
  exact iteInduction (motive := P) (fun _ => hP.ends.updCluster (hP.killAll (hP.ends.updCluster hflushed n _) _ _) n _) fun _ =>
    hP.killAll (hP.ends.updCluster hflushed n _) _ _

theorem fenceCore (h : P s) (g : Nat) (logic : Bool) : P (s.fenceCore g logic) := by
  have hmarked := hP.markFenced (hP.coreLost h g logic) g
  have htold := fun (f : Cluster → Cluster) (u : BitVec 32) (l l' : List Nat) => hP.fencedRecords (hP.ends.updCluster hmarked (clusterOf g) f) u l l'
  exact iteInduction (motive := P) (fun _ => hP.fenceCluster (htold _ _ _ _) _ _) fun _ => htold _ _ _ _

theorem fenceSector (h : P s) (x : Nat) : P (s.fenceSector x) := by
  have hlost : P ((sectorCores x).foldl (fun (s : State) g => s.coreLost g false) s) :=
    List.foldlRecOn _ _ h fun _ ht g _ => hP.coreLost ht g false
  unfold State.fenceSector
  dsimp only
  refine hP.fencedRecords ?_ _ _ _
  exact hP.reruled (hP.withErr hlost _) x fun _ => rfl

theorem fenceUnit (h : P s) (u : BitVec 32) (queueError logic : Bool) : P (s.fenceUnit u queueError logic) := by
  unfold State.fenceUnit
  refine iteInduction (fun _ => h) fun _ => ?_
  split
  · exact hP.fenceCore h _ _
  · exact hP.fenceCluster h _ _
  · exact hP.fenceSector h _
  · exact h

/-! ### Control commands (R27 to R29, R372, R412, R477, R479) -/

theorem askWidth (h : P s) (l m : Nat) : P (s.askWidth l m) := by
  unfold State.askWidth
  split
  · exact h
  · exact hP.messages h (((MessagesOnly.refl s).setLink l _).emit _ _ _ _ _)

theorem nextLane (h : P s) (l : Nat) (lanes : List Nat) : P (s.nextLane l lanes) := by
  induction lanes with
  | nil => exact hP.same h rfl
  | cons lane rest ih =>
    unfold State.nextLane
    dsimp only
    split
    · exact ih
    · exact hP.askWidth (hP.setLink (hP.withBist h _) l _) l _

theorem controlEvent (h : P s) (u : BitVec 32) (ended : Bool) (kind : Nat) : P (s.controlEvent u ended kind) := hP.ends.eventTo h _ _

theorem beginControl (h : P s) (d : Drain) : P (s.beginControl d) := by
  have hstaged : P ((unitCores d.unit).foldl
      (fun (s : State) g => if (s.core g).staged = [] then s else s.updCore g (fun c => { c with staged := [] })) s) :=
    List.foldlRecOn _ _ h fun _ ht g _ => iteInduction (fun _ => ht) fun _ => hP.ends.updCore ht g _
  have hbegun : ∀ ds, P { (unitCores d.unit).foldl
      (fun (s : State) g => if (s.core g).staged = [] then s else s.updCore g (fun c => { c with staged := [] })) s with drains := ds } :=
    fun ds => hP.withDrains hstaged ds
  unfold State.beginControl
  dsimp only
  split
  · exact iteInduction (fun _ => hP.controlEvent (hbegun _) _ _ _) fun _ => hbegun _
  · exact hP.controlEvent (hbegun _) _ _ _
  · exact hP.controlEvent (hbegun _) _ _ _
  · exact hbegun _

theorem endControl (h : P s) (d : Drain) : P (s.endControl d) := hP.withDrains h _

theorem actControl (h : P s) (d : Drain) : P (s.actControl d) := by
  have hacted := fun ds => hP.withDrains h ds
  have hended := hP.endControl h d
  unfold State.actControl
  dsimp only
  split
  · exact iteInduction (fun _ => hP.controlEvent (hP.wipeCores hended _) _ _ _) fun _ => hended
  · exact hP.withErr (hP.fenceUnit hended _ _ _) _
  · refine hP.controlEvent ?_ _ _ _
    exact hP.reruled (hP.wipeCores hended _) _ fun _ => rfl
  · exact hP.reruled hended _ fun _ => rfl
  · split
    · exact hP.reruled (hacted _) _ fun _ => rfl
    · split
      · exact iteInduction (fun _ => hacted _) fun _ => hP.nextLane (hacted _) _ _
      · exact iteInduction (fun _ => hP.caches (hacted _) ((CachesOnly.refl _).flushL2 _)) fun _ =>
          iteInduction (fun _ => hP.same h rfl) fun _ => hacted _
  · exact h
  · exact h

theorem runControls (n : Nat) (h : P s) : P (s.runControls n) := by
  induction n generalizing s with
  | zero => exact h
  | succ n ih =>
    unfold State.runControls
    split
    · exact h
    · exact ih (iteInduction (fun _ => hP.actControl h _) fun _ => hP.beginControl h _)

/-! ### Pre-emptions and restores (R297, R300) -/

theorem respond (h : P s) (m status : Nat) (payload : List Byte) : P (s.respond m status payload) := by
  obtain ⟨_, _, _, _, _, _, hleaves⟩ := respond_leaves s m status payload
  rw [hleaves]
  exact hP.same h rfl

theorem endPreempts (h : P s) : P s.endPreempts := by
  refine List.foldlRecOn _ _ h fun t ht e _ => iteInduction (fun _ => ?_) fun _ => ht
  exact hP.respond (hP.withDrains (hP.ends.updInst ht _ _) _) _ _ _

theorem askCommit (h : P s) (g slot : Nat) : P (s.askCommit g slot) := hP.same h rfl

theorem restoreImage (h : P s) (l : Launch) (m : CoreImage) : P (s.restoreImage l m) :=
  List.foldlRecOn _ _ (hP.ends.updCore h _ _) fun _ ht e _ => hP.askCommit ht m.core e.1

theorem restoreLaunch (h : P s) (l : Launch) : P (s.restoreLaunch l) := by
  have hset := fun l => hP.setLaunch h l
  unfold State.restoreLaunch
  dsimp only
  split
  · refine iteInduction (fun _ => hP.killAt (hset _) _ _ _ _ _ _) fun _ => ?_
    exact List.foldlRecOn _ _ (hset _) fun _ ht m _ =>
      iteInduction (fun _ => List.foldlRecOn _ _ ht fun _ hu e _ => hP.requeue hu _ _) fun _ => hP.restoreImage ht l m
  · exact List.foldlRecOn _ _ (hset _) fun _ ht m _ => hP.restoreImage ht l m

theorem settleControls (h : P s) : P s.settleControls := by
  refine List.foldlRecOn _ _ ?_ fun _ ht l _ => iteInduction (fun _ => hP.restoreLaunch ht l) fun _ => ht
  exact hP.runControls _ (hP.endPreempts (hP.runControls _ h))

/-! ### Fences of the fabric (R239, R265, R378, R402, R403, R439) -/

theorem homes : KeptByHomes P where
  updCluster h _ _ := hP.same h rfl
  updSlice h _ _ := hP.same h rfl
  hbmStore h _ _ _ _ := hP.caches h ((CachesOnly.refl _).hbmStore _ _ _ _)
  askSector h _ _ _ _ := iteInduction (motive := P) (fun _ => h) fun _ => hP.same h rfl
  restores h _ := hP.same h rfl
  records h k := hP.ends.records h k
  messages h k := hP.messages h k

theorem fenceSlice (h : P s) (n : Nat) : P (s.fenceSlice n) := by
  have hput : P ((s.clusters.map Prod.fst).foldl (fun (s : State) q =>
      ((s.cluster q).wb.map (fun l => l.a)).foldl (fun (s : State) a => if s.homeSlice (128 * a) = n then s.takePut q a else s) s) s) :=
    List.foldlRecOn _ _ h fun _ ht q _ => List.foldlRecOn _ _ ht fun _ hu a _ =>
      iteInduction (fun _ => hP.caches hu ((CachesOnly.refl _).takePut q a)) fun _ => hu
  unfold State.fenceSlice
  dsimp only
  refine hP.ends.errRecord (hP.ends.errRecord (hP.ends.eventTo ?_ _ _) _ _ _ _ _) _ _ _ _ _
  refine List.foldlRecOn _ _ (hP.homes.updSlice ?_ n _) fun _ ht c _ => hP.homes.homeEnter ht c 0
  refine List.foldlRecOn _ _ ?_ fun _ ht l _ => hP.caches ht ((CachesOnly.refl _).llcEvict n l)
  exact List.foldlRecOn _ _ hput fun _ ht e _ => hP.caches ht ((CachesOnly.refl _).recallEntry n e)

theorem loseSlice (h : P s) (n : Nat) : P (s.loseSlice n) :=
  iteInduction (fun _ => h) fun _ => iteInduction (fun _ => hP.ends.packageFatal h _) fun _ => hP.fenceSlice h n

theorem withHbm (h : P s) (m : Hbm) : P { s with hbm := m } := hP.same h rfl

theorem failReads (h : P s) (n : Nat) : P (s.failReads n) :=
  hP.homes.settleMisses (List.foldlRecOn _ _ (hP.withHbm h _) fun _ ht _ _ => hP.homes.updSlice ht _ _)

theorem fencePch (h : P s) (n : Nat) : P (s.fencePch n) := by
  unfold State.fencePch
  split
  · exact h
  · dsimp only
    refine hP.ends.errRecord (hP.ends.errRecord ?_ _ _ _ _ _) _ _ _ _ _
    exact List.foldlRecOn _ _ (hP.withHbm (hP.failReads (hP.withHbm h _) n) _) fun _ ht e _ => hP.ends.event ht e.1 _

theorem fenceStack (h : P s) (k : Nat) : P (s.fenceStack k) := by
  unfold State.fenceStack
  refine hP.ends.errRecord (hP.ends.errRecord (hP.withHbm ?_ _) _ _ _ _ _) _ _ _ _ _
  exact List.foldlRecOn _ _ h fun _ ht j _ => hP.fencePch ht _

/-! ### Links and bundles down (R311, R378, R392, R402, R403) -/

theorem handover (h : P s) (n d : Nat) (x : EddyDir) : P (s.handover n d x) := hP.messages h (((EddiesOnly.refl s).handover n d x).messages)

theorem fenceBundle (h : P s) (n : Nat) : P (s.fenceBundle n) := by
  have hshut : ∀ b, P (s.setBundle n b) := fun _ => hP.same h rfl
  have htold := hP.fencedRecords (hP.handover (hP.handover (hshut { s.bundle n with state := 2, dir0 := {}, dir1 := {} }) n 0 (s.bundle n).dir0)
    n 1 (s.bundle n).dir1) (bundleUnit n) [] []
  exact iteInduction (fun _ => h) fun _ => iteInduction (fun _ => hP.ends.packageFatal htold _) fun _ => htold

theorem fenceBridge (h : P s) (d : Nat) : P (s.fenceBridge d) := by
  unfold State.fenceBridge
  split
  · exact h
  · have htold : ∀ {t : State}, P t → P ((t.unitRecord 7 (bridgeUnit d) []).unitRecord 8 (bridgeUnit d) []) := fun ht => hP.fencedRecords ht _ _ _
    have hempty : ∀ {t : State} (n : Nat) (b : Bundle), P t → P (t.setBundle n b) := fun _ _ ht => hP.same ht rfl
    have hmoved : ∀ f : BitVec 4, P (((s.segments d).map (fun n => (n, s.bundle n))).foldl (fun (s : State) e => (s.handover e.1 0 e.2.dir0).handover e.1 1 e.2.dir1)
        ((s.segments d).foldl (fun (s : State) n => s.updBundle n (fun b => { b with dir0 := {}, dir1 := {} }))
          { s with d2d := { s.d2d with bridgeFenced := f } })) := fun f => by
      refine List.foldlRecOn _ _ (List.foldlRecOn _ _ (hP.same h rfl) fun _ ht n _ => hempty n _ ht) fun _ ht e _ => ?_
      exact hP.handover (hP.handover ht _ _ _) _ _ _
    exact iteInduction (motive := P) (fun _ => hP.ends.packageFatal (htold (hmoved _)) _) fun _ => htold (hmoved _)

theorem failColl (h : P s) (c : Nat) : P (s.failColl c) := by
  have hset : ∀ x, P (s.setColl c x) := fun _ => hP.same h rfl
  unfold State.failColl
  dsimp only
  split
  · exact h
  · exact hP.ends.eventTo (hset _) _ _

theorem failCut (h : P s) : P s.failCut := by
  refine List.foldlRecOn _ _ h fun t ht c _ => ?_
  split
  · exact ht
  · exact iteInduction (fun _ => ht) fun _ => hP.failColl ht c

theorem loseCadence (h : P s) (down : Bool) : P (s.loseCadence down) := by
  have hlost : ∀ c i, P { s with cad := c, insts := i } := fun _ _ => hP.same h rfl
  exact iteInduction (fun _ => h) fun _ => hP.ends.eventTo (hlost { s.cad with lost := true } _) _ _

theorem linkDown (h : P s) (l : Nat) : P (s.linkDown l) := by
  unfold State.linkDown
  dsimp only
  split
  · exact h
  · have hrerouted : ∀ {t : State} (lost : List Packet) (ws : List Queued), P t →
        P ((lost.foldl (fun (s : State) p => (s.route none 0 (s.rejectOf p 0x0302)).2) t).rerouteAll l ws) := fun {t} lost ws ht =>
      hP.messages ht (((messagesOnly_keptByRerouting t).rejectAll (MessagesOnly.refl t) 0x0302 lost).rerouteAll l ws)
    refine hP.failCut ?_
    exact iteInduction (motive := P) (fun _ => hP.loseCadence (hrerouted _ _ (hP.ends.unitRecord (hP.setLink h l _) _ _ _)) true) fun _ =>
      hrerouted _ _ (hP.ends.unitRecord (hP.setLink h l _) _ _ _)

theorem fenceLink (h : P s) (l : Nat) : P (s.fenceLink l) :=
  hP.setLink (iteInduction (motive := P) (fun _ => hP.linkDown h l) fun _ => hP.ends.unitRecord (hP.setLink h l _) _ _ _) l _

/-! ### What follows where a command ends (R29, R440) -/

theorem fenceFabric (h : P s) (u : BitVec 32) (n : Nat) : P (s.fenceFabric u n) := by
  unfold State.fenceFabric
  split
  · exact hP.loseSlice h n
  · exact hP.fencePch h n
  · exact hP.fenceLink h n
  · exact hP.fenceBundle h n
  · exact hP.fenceStack h n
  · exact hP.fenceBridge h n
  · exact h

theorem fenceFabricUnit (h : P s) (u : BitVec 32) (n : Nat) : P (s.fenceFabricUnit u n) := by
  have htold : ∀ {t : State} (c : Bool) (e : Err), P t → P (if c then { t with err := e } else t) := fun c e ht =>
    iteInduction (fun _ => hP.withErr ht e) fun _ => ht
  exact iteInduction (motive := P) (fun _ => htold _ _ h) fun _ => iteInduction (fun _ => htold _ _ (hP.ends.errRecord h _ _ _ _ _)) fun _ =>
    htold _ _ (hP.fenceFabric h u n)

theorem settleFabric (n : Nat) (h : P s) : P (s.settleFabric n) := by
  induction n generalizing s with
  | zero => exact h
  | succ n ih =>
    unfold State.settleFabric
    split
    · exact h
    · refine ih ?_
      split
      · exact hP.fenceFabricUnit (hP.endControl h _) _ _
      · exact hP.endControl h _

theorem settleAll (h : P s) : P s.settleAll := hP.settleControls (hP.settleFabric _ h)

/-! ### A test that ends (R479, R482) -/

theorem endTest (h : P s) (r us : Nat) : P (s.endTest r us) := by
  have hover := fun x => hP.withBist h x
  unfold State.endTest
  dsimp only
  split
  · exact hP.ends.eventTo (hover _) _ _
  · refine hP.settleAll (hP.ends.eventTo ?_ _ _)
    have hclocked : ∀ {t : State} (x : Nat), P t → P ((t.updSectorClk x (fun k => { k with test := false })).reclock x) :=
      fun x ht => hP.reclock (hP.updSectorClk ht x (f := fun k => { k with test := false }) fun _ => rfl) x
    split
    · split
      · exact hP.controlEvent (hclocked _ (hP.endControl (hover _) _)) _ _ _
      · exact hP.controlEvent (hP.endControl (hover _) _) _ _ _
    · split
      · exact hclocked _ (hP.endControl (hover _) _)
      · exact hP.endControl (hover _) _

theorem abortTest (h : P s) (x : Nat) : P (s.abortTest x) :=
  iteInduction (fun _ => h) fun _ => hP.endTest (iteInduction (motive := P) (fun _ => hP.wipeCores h _) fun _ => h) _ _

end KeptByControls

end Sys2Proof.Machine
end

section
/-! SUPPORT. Thermal samples, pre-trip throttle and the trip (R418 to R420, R422, R423, R425). -/

namespace Sys2Proof.Machine
open Sys2Proof

variable {b s t : State}

/-! ## Sensors and throttled sectors as they were -/

/-- The temperatures and the sectors in pre-trip throttle are those of an earlier state. -/
def Warm (b t : State) : Prop := t.therm = b.therm ∧ ∀ n, (t.sectorClk n).throttle = (b.sectorClk n).throttle

theorem Warm.refl (b : State) : Warm b b := ⟨rfl, fun _ => rfl⟩

theorem Warm.sensor (h : Warm b t) (i : Nat) : t.sensor i = b.sensor i := by rw [State.sensor, h.1]; rfl

theorem Warm.pretrip (h : Warm b t) (n : Nat) : (t.sectorClk n).pretrip = (b.sectorClk n).pretrip := congrArg Prod.fst (h.2 n)

theorem Warm.coolSince (h : Warm b t) (n : Nat) : (t.sectorClk n).coolSince = (b.sectorClk n).coolSince := congrArg Prod.snd (h.2 n)

theorem keptByControls_warm (b : State) : KeptByControls (Warm b) where
  same := by
    rintro s t ⟨htherm, hsectors⟩ e
    simp only [Prod.mk.injEq] at e
    obtain ⟨ht, hf⟩ := e
    exact ⟨ht.trans htherm, fun n => by rw [State.sectorClk, hf]; exact hsectors n⟩
  setSectorClk := by
    rintro s n x ⟨htherm, hsectors⟩ hx
    refine ⟨htherm, fun m => ?_⟩
    rw [setSectorClk_sectorClk]
    split
    · rename_i hm; rw [hx, hm]; exact hsectors n
    · exact hsectors m

/-! ## THERMAL_SAMPLE (R418, R420) -/

/-- A sample puts its sector in pre-trip throttle above 110 degrees, and changes neither a sensor nor another sector's throttle. -/
theorem sampleSector_pretrip (s : State) (n : Nat) (temp : Int) : (s.sampleSector n temp).therm = s.therm ∧
    ∀ m, ((s.sampleSector n temp).sectorClk m).pretrip = ((s.sectorClk m).pretrip || decide (m = n ∧ temp > degC 110)) := by
  have hwarm : ∃ x : SectorClk, x.pretrip = ((s.sectorClk n).pretrip || decide (temp > degC 110)) ∧
      Warm (s.setSectorClk n x) (s.sampleSector n temp) := by
    have hceil : ∀ o : Option Int, (match o with
        | some t => { s.sectorClk n with ceil := ceilingStep t (s.sectorClk n).ceil }
        | none => s.sectorClk n).pretrip = (s.sectorClk n).pretrip := fun o => by cases o <;> rfl
    have hkept := fun u => keptByControls_warm (s.setSectorClk n u)
    unfold State.sampleSector
    dsimp only
    refine ⟨_, ?_, (hkept _).settleClock (iteInduction (motive := Warm _) (fun _ => (hkept _).abortTest (Warm.refl _) n) fun _ => Warm.refl _) s n⟩
    exact congrArg (· || _) (hceil _)
  obtain ⟨x, hx, hsampled⟩ := hwarm
  refine ⟨hsampled.1, fun m => ?_⟩
  rw [hsampled.pretrip, setSectorClk_sectorClk]
  split
  · rename_i hm; rw [hx, hm]; simp
  · rename_i hm; simp [hm]

theorem sampleSectors_pretrip (ns : List Nat) (s : State) (temp : Int) :
    (ns.foldl (fun (s : State) n => s.sampleSector n temp) s).therm = s.therm ∧
    ∀ m, ((ns.foldl (fun (s : State) n => s.sampleSector n temp) s).sectorClk m).pretrip =
      ((s.sectorClk m).pretrip || decide (m ∈ ns ∧ temp > degC 110)) := by
  induction ns generalizing s with
  | nil => exact ⟨rfl, fun m => by simp⟩
  | cons n ns ih =>
    obtain ⟨htherm, hsectors⟩ := sampleSector_pretrip s n temp
    obtain ⟨hrest, hthrottled⟩ := ih (s.sampleSector n temp)
    refine ⟨hrest.trans htherm, fun m => (hthrottled m).trans ?_⟩
    rw [hsectors, Bool.or_assoc, ← Bool.decide_or]
    simp only [List.mem_cons, or_and_right]

/-- A sensor as a sample leaves it. -/
def Sens.sampled (x : Sens) (temp : BitVec 16) : Sens :=
  { x with temp := temp, peak := if x.peak.toInt < (BitVec.ofNat 15 (temp.toNat / 2)).toInt then BitVec.ofNat 15 (temp.toNat / 2) else x.peak }

/-- The part once a sample has reached its sensor and its sectors. -/
def State.sampled (s : State) (i : Nat) (temp : BitVec 16) : State :=
  (sensorSectors i).foldl (fun (s : State) n => s.sampleSector n temp.toInt) (s.setSensor i ((s.sensor i).sampled temp))

theorem sampled_sensor (s : State) (i : Nat) (temp : BitVec 16) : (s.sampled i temp).sensor i = (s.sensor i).sampled temp := by
  rw [State.sampled, State.sensor, (sampleSectors_pretrip _ _ _).1]
  exact NMap_at_put_same ..

theorem sampled_pretrip (s : State) (i : Nat) (temp : BitVec 16) (m : Nat) : ((s.sampled i temp).sectorClk m).pretrip =
    ((s.sectorClk m).pretrip || decide (m ∈ sensorSectors i ∧ temp.toInt > degC 110)) := (sampleSectors_pretrip _ _ _).2 m

/-- What follows a sample below the trip threshold is an event at most. -/
theorem exec_thermalSample {i : Nat} (hi : i < 280) (hpowered : s.powered = true) {raw : BitVec 16} (hworks : (s.sensor i).fail = false)
    (hbelow : trips (s.trimmed i raw) = false) : ∃ t, exec (.thermalSample i raw) s = .next t ∧ Warm (s.sampled i (s.trimmed i raw)) t := by
  have hexec : exec (.thermalSample i raw) s = execThermalSample i raw s := rfl
  have hruns : ¬(!s.powered || (s.sensor i).fail) = true := by simp [hpowered, hworks]
  rw [hexec, execThermalSample, onUnit, if_pos (decide_eq_true hi)]
  dsimp only
  rw [if_neg hruns, hbelow, if_neg Bool.false_ne_true]
  exact ⟨_, rfl, iteInduction (motive := Warm _) (fun _ => (keptByControls_warm _).ends.event (Warm.refl (s.sampled i (s.trimmed i raw))) _ _)
    fun _ => Warm.refl (s.sampled i (s.trimmed i raw))⟩

/-! ## PRE_TRIP_EXIT and SENSOR_FAILED (R411, R419, R420) -/

theorem exec_preTripExit {n a : Nat} (hn : n < 64) (hcool : (s.sectorClk n).coolSince = some a) (hthrottled : (s.sectorClk n).pretrip = true)
    (hover : a + 10 ^ 6 ≤ s.clock.now) : exec (.preTripExit n) s =
      .next (s.settleClock (s.setSectorClk n { s.sectorClk n with pretrip := false, coolSince := none }) n) := by
  have hexec : exec (.preTripExit n) s = execPreTripExit n s := rfl
  rw [hexec, execPreTripExit, onUnit_lt hn]
  dsimp only
  rw [hcool, hthrottled]
  exact congrArg _ (if_pos (by simpa using hover))

theorem exec_sensorFailed {i : Nat} (hi : i < 280) (hpowered : s.powered = true) (hworks : (s.sensor i).fail = false) {u : State}
    (hu : u = s.setSensor i { s.sensor i with fail := true }) : exec (.sensorFailed i) s =
      .next ((sensorSectors i).foldl (fun (t : State) n => s.settleClock t n) (u.event 0 (u.record 0xA 4 0 (sensorUnit i) i))) := by
  have hexec : exec (.sensorFailed i) s = execSensorFailed i s := rfl
  have hruns : ¬(!s.powered || (s.sensor i).fail) = true := by simp [hpowered, hworks]
  subst hu
  rw [hexec, execSensorFailed, onUnit, if_pos (decide_eq_true hi)]
  exact congrArg _ (if_neg hruns)

/-- A sensor that fails is marked, and no other changes. -/
theorem exec_sensorFailed_warm {i : Nat} (hi : i < 280) (hpowered : s.powered = true) (hworks : (s.sensor i).fail = false) :
    ∃ t, exec (.sensorFailed i) s = .next t ∧ Warm (s.setSensor i { s.sensor i with fail := true }) t := by
  have hkept := keptByControls_warm (s.setSensor i { s.sensor i with fail := true })
  exact ⟨_, exec_sensorFailed hi hpowered hworks rfl,
    List.foldlRecOn _ _ (hkept.ends.event (Warm.refl _) _ _) fun _ ht n _ => hkept.settleClock ht _ n⟩

/-! ## The trip (R422, R423) -/

/-- The loss of the rails keeps what the trip has written (log 61). -/
theorem losePower_keeps (hrails : s.board.rails = true) : s.losePower.board.rails = false ∧ s.losePower.board.thermtrip = s.board.thermtrip ∧
    (s.losePower.therm.tripped, s.losePower.therm.newest, s.losePower.therm.tripcnt, s.losePower.therm.trips) =
      (s.therm.tripped, s.therm.newest, s.therm.tripcnt, s.therm.trips) ∧ s.losePower.pers = s.startLost.pers := by
  have hcut : ∀ u : State, (u.wipe.board.thermtrip, u.wipe.therm.tripped, u.wipe.therm.newest, u.wipe.therm.tripcnt, u.wipe.therm.trips, u.wipe.pers) =
      (u.board.thermtrip, u.therm.tripped, u.therm.newest, u.therm.tripcnt, u.therm.trips, u.pers) := fun u => by
    unfold State.wipe State.cutErase
    dsimp only
    split
    · rfl
    · rfl
  have hcal : ∀ u : State, (u.cutCal.board.thermtrip, u.cutCal.therm, u.cutCal.pers) = (u.board.thermtrip, u.therm, u.pers) := fun u => by
    unfold State.cutCal
    split
    · rfl
    · rfl
  have hstart : (s.startLost.board, s.startLost.therm) = (s.board, s.therm) := by
    unfold State.startLost
    split
    · rfl
    · rfl
  have hwiped := hcut s.startLost.cutCal
  have hcal := hcal s.startLost
  simp only [Prod.mk.injEq] at hwiped hcal hstart ⊢
  obtain ⟨hboard, htherm⟩ := hstart
  obtain ⟨hpin, htherm', hpers⟩ := hcal
  obtain ⟨hpin', htripped, hnewest, hcount, htrips, hpers'⟩ := hwiped
  have hlost : s.losePower = s.withAlert (State.send { s.startLost.cutCal.wipe with
      board := { s.startLost.cutCal.wipe.board with rails := false, pwrGood := false } } (.pin 0 false)) := if_neg (by simp [hrails])
  obtain ⟨o, ho⟩ := withAlert_out s (State.send { s.startLost.cutCal.wipe with
      board := { s.startLost.cutCal.wipe.board with rails := false, pwrGood := false } } (.pin 0 false))
  rw [hlost, ho]
  refine ⟨rfl, ?_, ⟨?_, ?_, ?_, ?_⟩, hpers'.trans hpers⟩
  · exact hpin'.trans (hpin.trans (by rw [hboard]))
  · exact htripped.trans (by rw [htherm', htherm])
  · exact hnewest.trans (by rw [htherm', htherm])
  · exact hcount.trans (by rw [htherm', htherm])
  · exact htrips.trans (by rw [htherm', htherm])

/-- The part as the trip finds it: the record written and counted, and THERMTRIP_N asserted. -/
def State.tripping (s : State) (r : BitVec 256) : State :=
  State.send { s with
    therm := { s.therm with
      trips := NMap.put 0 s.therm.trips (s.therm.newest + 1).toNat r, newest := s.therm.newest + 1
      tripcnt := sat16 s.therm.tripcnt 1, tripped := true, tripNew := true }
    board := { s.board with thermtrip := true } } (.pin 1 false)

theorem tripping_trips (s : State) (r : BitVec 256) :
    (s.tripping r).therm.trips = NMap.put 0 s.therm.trips (s.therm.newest + 1).toNat r := rfl

/-- The trip counts no start that is lost. -/
theorem tripping_startLost (s : State) (r : BitVec 256) : (s.tripping r).startLost.pers = s.startLost.pers := by
  have hstart : (s.tripping r).boot = s.boot ∧ (s.tripping r).pers = s.pers := ⟨rfl, rfl⟩
  obtain ⟨hboot, hpers⟩ := hstart
  generalize s.tripping r = t at hboot hpers
  unfold State.startLost
  rw [hboot]
  split
  · dsimp only; rw [hpers]
  · exact hpers

theorem exec_squall {i : Nat} (hi : i < 280) (hpowered : s.powered = true) {raw : BitVec 16} (hworks : (s.sensor i).fail = false)
    (htrips : trips (s.trimmed i raw) = true) : exec (.squall i raw) s = .next ((s.tripping (s.tripRecord i (s.trimmed i raw))).losePower) := by
  have hexec : exec (.squall i raw) s = execSquall i raw s := rfl
  have hrails : s.board.rails = true ∧ s.therm.tripped = false := by simpa [State.powered] using hpowered
  have hdue : (trips (s.trimmed i raw) && !(s.sensor i).fail) = true := by simp [htrips, hworks]
  rw [hexec, execSquall, onUnit, if_pos (decide_eq_true hi)]
  exact congrArg _ ((if_pos hdue).trans (if_neg (by simp [hrails])))

/-! ## THERM_CLR (R425) -/

/-- A sensor whose peak is its temperature. -/
def Sens.settled (x : Sens) : Sens := { x with peak := BitVec.ofNat 15 (x.temp.toNat / 2) }

theorem settlePeaks_sensor (l : List Nat) (s : State) (j : Nat) :
    (l.foldl (fun (s : State) i => s.setSensor i (s.sensor i).settled) s).sensor j = if j ∈ l then (s.sensor j).settled else s.sensor j := by
  have h := foldl_keyed State.sensor (fun (s : State) i => s.setSensor i (s.sensor i).settled) (fun i j => j = i) (fun _ => Sens.settled)
    (fun _ _ => rfl) (fun s i j => by
      rw [setSensor_sensor]
      split
      · rename_i hj; rw [hj]
      · rfl) l s j
  simpa using h

theorem exec_thermClr {v : BitVec 32} (hopen : s.regOpen 0 = true) (hclr : v.getLsbD 0 = true) :
    ∃ t, exec (.thermClr 0 v) s = .next t ∧ ∀ j, j < 280 → t.sensor j = (s.sensor j).settled := by
  have hexec : exec (.thermClr 0 v) s = execThermClr 0 v s := rfl
  have htaken : ¬(!s.regOpen 0 || !v.getLsbD 0) = true := by simp [hopen, hclr]
  rw [hexec, execThermClr, if_neg htaken]
  exact ⟨_, rfl, fun j hj => (settlePeaks_sensor _ s j).trans (if_pos (List.mem_range.2 hj))⟩

/-- Settles O48: each command by its lemma; what follows a change of a sector, an aborted test included, leaves the sensors and the other
sectors' throttle. -/
theorem thermalCommands : Obligations.ThermalCommands := by
  unfold Obligations.ThermalCommands
  intro s i hi hpowered
  refine ⟨fun raw temp htemp hworks hbelow => ?sample, fun n a hn hcool hthrottled hover => ?exit, fun hworks => ?failed,
    fun hworks u hu => exec_sensorFailed hi hpowered hworks hu, fun raw temp htemp hworks htrips => ?squall, fun v hopen hclr => ?clr⟩
  case sample =>
    subst htemp
    obtain ⟨t, hexec, hwarm⟩ := exec_thermalSample hi hpowered hworks hbelow
    have hsensor := (hwarm.sensor i).trans (sampled_sensor s i _)
    refine ⟨t, hexec, by rw [hsensor]; rfl, ?_, fun hhot n hn => ?_, fun hcold n => ?_⟩
    · rintro high rfl
      rw [hsensor]
      rfl
    · rw [hwarm.pretrip, sampled_pretrip, decide_eq_true ⟨hn, hhot⟩, Bool.or_true]
    · rw [hwarm.pretrip, sampled_pretrip, decide_eq_false (fun h => absurd h.2 (not_lt.2 hcold)), Bool.or_false]
  case exit =>
    have hwarm := (keptByControls_warm (s.setSectorClk n { s.sectorClk n with pretrip := false, coolSince := none })).settleClock (Warm.refl _) s n
    refine ⟨_, exec_preTripExit hn hcool hthrottled hover, (hwarm.pretrip n).trans ?_, (hwarm.coolSince n).trans ?_⟩
    · rw [setSectorClk_sectorClk, if_pos rfl]
    · rw [setSectorClk_sectorClk, if_pos rfl]
  case failed =>
    obtain ⟨t, hexec, hwarm⟩ := exec_sensorFailed_warm hi hpowered hworks
    refine ⟨t, hexec, ?_, fun j hj => ?_⟩
    · rw [hwarm.sensor, setSensor_sensor, if_pos rfl]
    · rw [hwarm.sensor, setSensor_sensor, if_neg hj]
  case squall =>
    subst htemp
    have hrails : s.board.rails = true := by simp [State.powered] at hpowered; exact hpowered.1
    obtain ⟨hdown, hpin, htherm, hpers⟩ := losePower_keeps (s := s.tripping (s.tripRecord i (s.trimmed i raw))) hrails
    simp only [Prod.mk.injEq] at htherm
    obtain ⟨htripped, hnewest, hcount, hrecords⟩ := htherm
    refine ⟨_, exec_squall hi hpowered hworks htrips, hdown, hpin, htripped, hnewest, hcount, ?_, hpers.trans ?_⟩
    · rw [hrecords, tripping_trips, NMap_at_put_same]
    · exact tripping_startLost s _
  case clr => exact exec_thermClr hopen hclr

end Sys2Proof.Machine
end

section
/-! SUPPORT. Foehn: the choices of power, the clocks ordered after them, and the estimator (R410 to R417, R421, R424). -/

namespace Sys2Proof.Machine
open Sys2Proof

variable {b s t : State} {f : Figures}

/-! ## Sectors alone -/

/-- Nothing differs but the sectors. -/
def SectorsOnly (b s : State) : Prop := ∃ c, s = { b with foehn := { b.foehn with sectors := c } }

theorem SectorsOnly.refl (b : State) : SectorsOnly b b := ⟨_, rfl⟩

theorem SectorsOnly.setSectorClk (h : SectorsOnly b s) (n : Nat) (x : SectorClk) : SectorsOnly b (s.setSectorClk n x) := by
  obtain ⟨c, rfl⟩ := h
  exact ⟨_, rfl⟩

theorem SectorsOnly.setChoice (h : SectorsOnly b s) (n c : Nat) : SectorsOnly b (s.setChoice n c) := h.setSectorClk n _

theorem SectorsOnly.mem (h : SectorsOnly b s) : s.mem = b.mem := by
  obtain ⟨c, rfl⟩ := h; rfl

/-- What is no sector's of Foehn's figures. -/
theorem SectorsOnly.foehn (h : SectorsOnly b s) : { s.foehn with sectors := b.foehn.sectors } = b.foehn := by
  obtain ⟨c, rfl⟩ := h; rfl

/-! ## Changes of clock ordered (R410, R411) -/

/-- A sector but for the change of clock ordered. -/
def SectorClk.unordered (k : SectorClk) : SectorClk := { k with mode := 0, ordered := none, mv := 0 }

theorem SectorClk.unordered_choice (k : SectorClk) : k.unordered.choice = k.choice := rfl

theorem reclock_eq (s : State) (n : Nat) : ∃ x : SectorClk, x.unordered = (s.sectorClk n).unordered ∧ s.reclock n = s.setSectorClk n x := by
  unfold State.reclock
  generalize s.sectorTarget n = target
  obtain ⟨mode, step, mhz⟩ := target
  refine ⟨_, ?_, rfl⟩
  exact iteInduction (motive := fun x : SectorClk => x.unordered = (s.sectorClk n).unordered) (fun _ => rfl) fun _ => rfl

/-- An order leaves the choices and everything else that is no change of clock. -/
theorem orderClocks_leaves (s : State) : SectorsOnly s s.orderClocks ∧ ∀ n, (s.orderClocks.sectorClk n).unordered = (s.sectorClk n).unordered := by
  refine List.foldlRecOn (motive := fun t : State => SectorsOnly s t ∧ ∀ n, (t.sectorClk n).unordered = (s.sectorClk n).unordered) _ _
    ⟨.refl s, fun _ => rfl⟩ fun t ht n _ => ?_
  obtain ⟨honly, hsectors⟩ := ht
  split
  · obtain ⟨x, hx, hreclock⟩ := reclock_eq t n
    rw [hreclock]
    refine ⟨honly.setSectorClk n x, fun m => ?_⟩
    rw [setSectorClk_sectorClk]
    split
    · rename_i hm; rw [hx, hm, hsectors n]
    · exact hsectors m
  · exact ⟨honly, hsectors⟩

theorem orderClocks_choice (s : State) (n : Nat) : (s.orderClocks.sectorClk n).choice = (s.sectorClk n).choice := by
  rw [← SectorClk.unordered_choice, (orderClocks_leaves s).2 n, SectorClk.unordered_choice]

theorem orderClocks_foehn (s : State) : { s.orderClocks.foehn with sectors := s.foehn.sectors } = s.foehn := (orderClocks_leaves s).1.foehn

/-! ## Choices (R415) -/

theorem setChoice_choice (s : State) (n c m : Nat) : ((s.setChoice n c).sectorClk m).choice = if m = n then c else (s.sectorClk m).choice := by
  rw [State.setChoice, updSectorClk_eq, setSectorClk_sectorClk]
  split
  · rfl
  · rfl

/-- The step of a sector that follows its choice is at most the choice. -/
theorem stepOf_le_choice {n : Nat} (h : s.unheld n = true) : s.stepOf n ≤ (s.sectorClk n).choice := by
  have h : (s.sectorTarget n).1 < 3 := of_decide_eq_true h
  unfold State.stepOf
  unfold State.sectorTarget at h ⊢
  dsimp only at h ⊢
  split_ifs at h ⊢
  · exact absurd h (by decide)
  · exact absurd h (by decide)
  · exact absurd h (by decide)
  · exact absurd h (by decide)
  · exact absurd h (by decide)
  · exact min_le_left _ _
  · exact min_le_left _ _
  · exact min_le_left _ _

theorem lowerOne_some {why : Nat} (h : s.lowerOne f why = some t) :
    ∃ n, n < 64 ∧ s.unheld n = true ∧ s.stepOf n ≠ 0 ∧ t = s.setChoice n (s.stepOf n - 1) := by
  obtain ⟨n, hn, rfl⟩ := Option.map_eq_some_iff.1 h
  obtain ⟨hrange, hmay⟩ := List.mem_filter.1 (argMin_mem hn)
  simp only [Bool.and_eq_true, decide_eq_true_eq] at hmay
  exact ⟨n, List.mem_range.1 hrange, hmay.1.1, hmay.1.2, rfl⟩

theorem raiseOne_some (h : s.raiseOne = some t) : ∃ n, n < 64 ∧ (s.sectorClk n).choice < 20 ∧ t = s.setChoice n ((s.sectorClk n).choice + 1) := by
  obtain ⟨n, hn, rfl⟩ := Option.map_eq_some_iff.1 h
  obtain ⟨hrange, hmay⟩ := List.mem_filter.1 (argMin_mem hn)
  simp only [Bool.and_eq_true, decide_eq_true_eq] at hmay
  exact ⟨n, List.mem_range.1 hrange, hmay.2, rfl⟩

/-- Lowering changes sectors alone, and raises no choice. -/
theorem lowerAll_leaves (n : Nat) (s : State) (f : Figures) :
    SectorsOnly s (s.lowerAll n f) ∧ ∀ m, ((s.lowerAll n f).sectorClk m).choice ≤ (s.sectorClk m).choice := by
  suffices h : ∀ (t : State), SectorsOnly s t → (∀ m, (t.sectorClk m).choice ≤ (s.sectorClk m).choice) →
      SectorsOnly s (t.lowerAll n f) ∧ ∀ m, ((t.lowerAll n f).sectorClk m).choice ≤ (s.sectorClk m).choice from h s (.refl s) fun _ => le_rfl
  induction n with
  | zero => exact fun t ht hle => ⟨ht, hle⟩
  | succ n ih =>
    intro t ht hle
    unfold State.lowerAll
    dsimp only
    split
    · exact ⟨ht, hle⟩
    · split
      · rename_i u hu
        obtain ⟨k, -, hunheld, -, rfl⟩ := lowerOne_some hu
        refine ih _ (ht.setChoice _ _) fun m => ?_
        rw [setChoice_choice]
        split
        · rename_i hm
          have hstep := stepOf_le_choice hunheld
          have hk := hle k
          rw [hm]
          omega
        · exact hle m
      · exact ⟨ht, hle⟩

/-- Raised choices: sectors alone differ, no choice is lower, and none has gone above 20. -/
def Raised (s t : State) : Prop :=
  SectorsOnly s t ∧ ∀ m, (s.sectorClk m).choice ≤ (t.sectorClk m).choice ∧ ((s.sectorClk m).choice ≤ 20 → (t.sectorClk m).choice ≤ 20)

theorem Raised.refl (s : State) : Raised s s := ⟨.refl s, fun _ => ⟨le_rfl, id⟩⟩

theorem Raised.raiseOne {u : State} (h : Raised s t) (hu : t.raiseOne = some u) : Raised s u := by
  obtain ⟨k, -, hbelow, rfl⟩ := raiseOne_some hu
  refine ⟨h.1.setChoice _ _, fun m => ?_⟩
  rw [setChoice_choice]
  split
  · rename_i hm
    obtain ⟨hle, -⟩ := h.2 k
    rw [hm]
    omega
  · exact h.2 m

/-- Raising breaks no limit. -/
theorem raiseAll_leaves (n : Nat) (s : State) (f : Figures) :
    Raised s (s.raiseAll n f).1 ∧ (s.broken f = 0 → (s.raiseAll n f).1.broken f = 0) := by
  suffices h : ∀ t : State, Raised s t → Raised s (t.raiseAll n f).1 ∧ (t.broken f = 0 → (t.raiseAll n f).1.broken f = 0) from h s (.refl s)
  induction n with
  | zero => exact fun t ht => ⟨ht, id⟩
  | succ n ih =>
    intro t ht
    unfold State.raiseAll
    split
    · exact ⟨ht, id⟩
    · rename_i u hu
      split
      · rename_i hsound
        obtain ⟨hraised, hkeeps⟩ := ih u (ht.raiseOne hu)
        exact ⟨hraised, fun _ => hkeeps hsound⟩
      · exact ⟨ht, id⟩

/-- The choices of some sectors at the floor. -/
theorem floorChoices (l : List Nat) (s : State) {n : Nat} (hn : n ∈ l) :
    ((l.foldl (fun (s : State) n => s.setChoice n 0) s).sectorClk n).choice = 0 := by
  have h := foldl_keyed (fun (s : State) n => (s.sectorClk n).choice) (fun (s : State) n => s.setChoice n 0) (fun i k => k = i) (fun _ _ => 0)
    (fun _ _ => rfl) (fun s i k => setChoice_choice s i 0 k) l s n
  exact h.trans (if_pos ⟨n, hn, rfl⟩)

/-! ## FOEHN_UPDATE (R413 to R416) -/

/-- The part once the figures of an update are kept. -/
def State.metering (s : State) (f : Figures) : State := { s with foehn := (s.foehn.addEnergy f.meas).note f }

/-- The part as the choices of an attainable limit are made. -/
def State.attaining (s : State) (f : Figures) : State :=
  { s.metering f with foehn := { (s.metering f).foehn with
    attainSince := if s.foehn.unattainable then some (s.foehn.attainSince.getD s.clock.now) else none } }

/-- The limit that the floor power reaches: 1 sustained, 2 peak, 0 none. -/
def State.floorLimit (s : State) (p : Nat) : Nat := if s.foehn.sust.toNat * 1000 ≤ p then 1 else if s.foehn.peak.toNat * 1000 ≤ p then 2 else 0

/-- The part with the choices of some sectors at the floor and a limit that cannot be held. -/
def State.floored (s : State) (l : List Nat) (limit : Nat) : State :=
  let t := l.foldl (fun (s : State) n => s.setChoice n 0) s
  { t with foehn := { t.foehn with unattainable := true, attainSince := none, limiter := BitVec.ofNat 2 limit } }

/-- The choices made under the limits, and the limiter. -/
def State.chosen (s : State) (f : Figures) : State × Nat :=
  if s.broken f ≠ 0 then (s.lowerAll 1280 f, s.broken f) else s.raiseAll 1280 f

theorem exec_foehnUpdate (hpowered : s.powered = true) {m : Sense} {e : Nat} {a : List Nat} (hf : f = { meas := s.metered m, est := e, amps := a }) :
    exec (.foehnUpdate m e a) s = .next (
      if s.floorLimit ((s.metering f).floorPower f) ≠ 0 then
        (if s.foehn.unattainable then (s.metering f).floored (List.range 64) (s.floorLimit ((s.metering f).floorPower f))
         else ((s.metering f).floored (List.range 64) (s.floorLimit ((s.metering f).floorPower f))).event 0
          (((s.metering f).floored (List.range 64) (s.floorLimit ((s.metering f).floorPower f))).record 0xA 1 0 0 (s.floorLimit ((s.metering f).floorPower f)))).orderClocks
      else State.orderClocks { ((s.attaining f).chosen f).1 with
        foehn := { ((s.attaining f).chosen f).1.foehn with limiter := BitVec.ofNat 2 ((s.attaining f).chosen f).2 } }) := by
  have hexec : exec (.foehnUpdate m e a) s = execFoehnUpdate m e a s := rfl
  rw [hexec, execFoehnUpdate, if_neg (by simp [hpowered])]
  subst hf
  rfl

/-- What the floor leaves, whether it is told or not. -/
theorem floored_leaves (s : State) (l : List Nat) (limit : Nat) {t : State} (ht : t.foehn = (s.floored l limit).foehn) :
    t.orderClocks.foehn.unattainable = true ∧ t.orderClocks.foehn.limiter = BitVec.ofNat 2 limit ∧
      ∀ n ∈ l, (t.orderClocks.sectorClk n).choice = 0 := by
  obtain ⟨c, hordered⟩ := (orderClocks_leaves t).1
  refine ⟨?_, ?_, fun n hn => ?_⟩
  · rw [hordered]
    exact congrArg Foehn.unattainable ht
  · rw [hordered]
    exact congrArg Foehn.limiter ht
  · rw [orderClocks_choice, State.sectorClk, ht]
    exact floorChoices l s hn

/-- An event leaves Foehn's figures. -/
theorem event_foehn (s : State) (i : Nat) (r : Record) : (s.event i r).foehn = s.foehn := by
  obtain ⟨_, _, _, _, _, hrecord⟩ := (RecordsOnly.refl s).event i r
  rw [hrecord]

theorem event_sectorClk (s : State) (i : Nat) (r : Record) (n : Nat) : (s.event i r).sectorClk n = s.sectorClk n := by
  rw [State.sectorClk, event_foehn, State.sectorClk]

/-- Choices under the limits change sectors alone, and take none above 20. -/
theorem chosen_leaves (s : State) (f : Figures) : SectorsOnly s (s.chosen f).1 ∧
    ∀ n, (s.sectorClk n).choice ≤ 20 → ((s.chosen f).1.sectorClk n).choice ≤ 20 := by
  unfold State.chosen
  split
  · obtain ⟨honly, hfall⟩ := lowerAll_leaves 1280 s f
    exact ⟨honly, fun n hn => (hfall n).trans hn⟩
  · obtain ⟨honly, hchoices⟩ := (raiseAll_leaves 1280 s f).1
    exact ⟨honly, fun n => (hchoices n).2⟩

/-! ## The limit that is broken (R415) -/

theorem broken_eq_one (s : State) (f : Figures) : s.broken f = 1 ↔ s.sustOk (s.predict f s.clocks) = false := by
  unfold State.broken
  dsimp only
  split_ifs <;> simp_all

theorem broken_eq_two (s : State) (f : Figures) :
    s.broken f = 2 ↔ s.sustOk (s.predict f s.clocks) = true ∧ s.peakOk (s.predict f s.clocks) = false := by
  unfold State.broken
  dsimp only
  split_ifs <;> simp_all

theorem broken_eq_three (s : State) (f : Figures) : s.broken f = 3 ↔ s.sustOk (s.predict f s.clocks) = true ∧
    s.peakOk (s.predict f s.clocks) = true ∧ ∃ n, n < 64 ∧ s.unheld n = true ∧ s.currentOk f n = false := by
  have hany : (List.range 64).any (fun n => s.unheld n && !s.currentOk f n) = true ↔
      ∃ n, n < 64 ∧ s.unheld n = true ∧ s.currentOk f n = false := by simp [List.any_eq_true]
  rw [← hany]
  unfold State.broken
  dsimp only
  split_ifs <;> simp_all

/-! ## CORRECTION_FACTOR, DIVERGED and FLOOR_HOLD_RELEASE (R413, R416) -/

/-- An event and the order of clocks leave whether the figures diverge, and the floor hold. -/
theorem toldAndOrdered_foehn (s : State) (r : Record) : (s.event 0 r).orderClocks.foehn.diverged = s.foehn.diverged ∧
    (s.event 0 r).orderClocks.foehn.floorhold = s.foehn.floorhold := by
  obtain ⟨c, hordered⟩ := (orderClocks_leaves (s.event 0 r)).1
  rw [hordered]
  dsimp only
  rw [event_foehn]
  exact ⟨rfl, rfl⟩

theorem exec_diverged (hdisagree : 10 ≤ s.foehn.disagree) (hagrees : s.foehn.diverged = false) : ∃ t, exec .diverged s = .next t ∧
    t.foehn.diverged = true ∧ t.foehn.floorhold = true := by
  have hexec : exec .diverged s = execDiverged s := rfl
  rw [hexec, execDiverged, if_neg (by simp [hagrees, hdisagree])]
  dsimp only
  refine ⟨_, rfl, ?_, ?_⟩
  · rw [(toldAndOrdered_foehn _ _).1]
  · rw [(toldAndOrdered_foehn _ _).2]

theorem exec_floorHoldRelease (hagree : 100 ≤ s.foehn.agree) (hdiverged : s.foehn.diverged = true) : ∃ t, exec .floorHoldRelease s = .next t ∧
    t.foehn.diverged = false ∧ t.foehn.floorhold = false := by
  have hexec : exec .floorHoldRelease s = execFloorHoldRelease s := rfl
  rw [hexec, execFloorHoldRelease, if_neg (by simp [hdiverged, hagree])]
  dsimp only
  refine ⟨_, rfl, ?_, ?_⟩
  · rw [(toldAndOrdered_foehn _ _).1]
  · rw [(toldAndOrdered_foehn _ _).2]

theorem exec_correctionFactor (hpowered : s.powered = true) {a b : Nat} (hest : 0 < averageOr s.foehn.recentE b) : ∃ t, exec (.correctionFactor a b) s = .next t ∧
    t.foehn.recentM = [] ∧ t.foehn.recentE = [] ∧
    t.foehn.kfact = BitVec.ofNat 16 (min 0xFFFF (averageOr s.foehn.recentM a * 256 / averageOr s.foehn.recentE b)) ∧
    t.foehn.meas = BitVec.ofNat 16 (averageOr s.foehn.recentM a / 1000) ∧ t.foehn.est = BitVec.ofNat 16 (averageOr s.foehn.recentE b / 1000) ∧
    (t.foehn.disagree, t.foehn.agree) =
      if 5 * min (averageOr s.foehn.recentM a) (averageOr s.foehn.recentE b) < 4 * max (averageOr s.foehn.recentM a) (averageOr s.foehn.recentE b) then
        (s.foehn.disagree + 1, 0) else (0, s.foehn.agree + 1) := by
  have hexec : exec (.correctionFactor a b) s = execCorrectionFactor a b s := rfl
  rw [hexec, execCorrectionFactor, if_neg (by simp [hpowered])]
  dsimp only
  rw [if_neg hest.ne']
  refine ⟨_, rfl, rfl, rfl, rfl, rfl, rfl, ?_⟩
  by_cases hbad : 5 * min (averageOr s.foehn.recentM a) (averageOr s.foehn.recentE b) < 4 * max (averageOr s.foehn.recentM a) (averageOr s.foehn.recentE b)
  · simp [hbad]
  · simp [hbad]

/-! ## PEAK_EXCEEDED (R415, R417) -/

/-- A step comes off a sector that follows its choice above the floor. -/
theorem lowerOne_isSome {n why : Nat} (hn : n < 64) (hunheld : s.unheld n = true) (hstep : s.stepOf n ≠ 0) (hwhy : why ≠ 3) :
    ∃ t, s.lowerOne f why = some t := by
  have hmem : n ∈ (List.range 64).filter (fun n => s.unheld n && s.stepOf n ≠ 0 && (why ≠ 3 || !s.currentOk f n)) :=
    List.mem_filter.2 ⟨List.mem_range.2 hn, by simp [hunheld, hstep, hwhy]⟩
  have hsome : ∀ l : List Nat, n ∈ l → ∃ k, argMin (fun n => 20 - s.stepOf n) l = some k := fun l hl => by
    cases l with
    | nil => cases hl
    | cons x l =>
      rw [argMin]
      split
      · exact ⟨_, rfl⟩
      · split
        · exact ⟨_, rfl⟩
        · exact ⟨_, rfl⟩
  obtain ⟨k, hk⟩ := hsome _ hmem
  exact ⟨_, congrArg (Option.map _) hk⟩

theorem exec_peakExceeded (hpowered : s.powered = true) {m n : Nat} (hpeak : s.peakOk m = false) (hn : n < 64) (hunheld : s.unheld n = true)
    (hstep : s.stepOf n ≠ 0) : ∃ t, exec (.peakExceeded m) s = .next t ∧ t.foehn.limiter = 2 ∧ ∃ k, k < 64 ∧ (t.sectorClk k).choice < s.stepOf k := by
  have hexec : exec (.peakExceeded m) s = execPeakExceeded m s := rfl
  obtain ⟨u, hu⟩ := lowerOne_isSome (s := s) (f := { s.foehn.last with meas := m }) (why := 2) hn hunheld hstep (by decide)
  obtain ⟨k, hk, -, habove, rfl⟩ := lowerOne_some hu
  rw [hexec, execPeakExceeded, if_neg (by simp [hpowered, hpeak])]
  dsimp only
  rw [hu]
  dsimp only
  obtain ⟨-, hfall⟩ := lowerAll_leaves 1280 (s.setChoice k (s.stepOf k - 1)) { s.foehn.last with meas := m }
  generalize (s.setChoice k (s.stepOf k - 1)).lowerAll 1280 { s.foehn.last with meas := m } = t at hfall
  obtain ⟨c, hordered⟩ := (orderClocks_leaves { t with foehn := { t.foehn with limiter := 2 } }).1
  refine ⟨_, rfl, by rw [hordered], k, hk, ?_⟩
  rw [orderClocks_choice]
  have hlow := hfall k
  rw [setChoice_choice, if_pos rfl] at hlow
  exact lt_of_le_of_lt hlow (by omega)

/-! ## Clocks, gates, counters and droop (R410, R412, R421, R424) -/

theorem exec_clockChange (hpowered : s.powered = true) {n : Nat} (hn : n < 64) (hordered : (s.sectorClk n).ordered.isSome = true) :
    exec (.clockChange n) s = .next (s.applyClock n) := by
  have hexec : exec (.clockChange n) s = execClockChange n s := rfl
  rw [hexec, execClockChange, onUnit_lt hn, if_pos (by simp [hpowered, hordered])]

theorem applyClock_sectorClk (s : State) (n m : Nat) : (s.applyClock n).sectorClk m = if m = n then
    { s.sectorClk n with
      mode := BitVec.ofNat 3 (s.sectorTarget n).1, step := (s.sectorTarget n).2.1, mhz := (s.sectorTarget n).2.2, ordered := none
      mv := railFor n (s.sectorTarget n).2.2 }
    else s.sectorClk m := setSectorClk_sectorClk ..

/-- A write of the gate of a sector without control commands is a command where it changes the gate. -/
theorem writeGate_changes {n : Nat} {gate : Bool} (hsound : s.err.secfenced.getLsbD n = false) (hdrains : s.drains = [])
    (hgate : (s.sectorClk n).gate = !gate) :
    s.writeGate n gate = (s.control (sectorUnit n) (if gate then .gate else .ungate)).settleControls := by
  have hasked : s.gateAsked n = (s.sectorClk n).gate := by
    unfold State.gateAsked
    rw [hdrains]
    rfl
  unfold State.writeGate
  rw [if_neg]
  simp [hsound, hasked, hgate]

theorem writeSector_changes {n v : Nat} (hcap : fld v 0 5 ≤ 20) (hsound : s.err.secfenced.getLsbD n = false) (hdrains : s.drains = [])
    (hgate : (s.sectorClk n).gate = !bit v 19) : s.writeSector n v =
      ((s.updSectorClk n (fun k => { k with cap := BitVec.ofNat 5 v })).control (sectorUnit n) (if bit v 19 then .gate else .ungate)).settleControls.orderClocks := by
  unfold State.writeSector
  rw [if_neg (Nat.not_lt.2 hcap)]
  refine congrArg State.orderClocks (writeGate_changes (s := s.updSectorClk n (fun k => { k with cap := BitVec.ofNat 5 v })) hsound hdrains ?_)
  rw [updSectorClk_eq, setSectorClk_sectorClk, if_pos rfl]
  exact hgate

theorem clearDroops_sectorClk (l : List Nat) (s : State) (n : Nat) :
    (l.foldl (fun (s : State) n => s.updSectorClk n (fun k => { k with droops := {} })) s).sectorClk n = if n ∈ l then { s.sectorClk n with droops := {} } else s.sectorClk n := by
  have h := foldl_keyed State.sectorClk (fun (s : State) n => s.updSectorClk n (fun k => { k with droops := {} })) (fun i k => k = i) (fun _ k => { k with droops := {} })
    (fun _ _ => rfl) (fun s i k => by
      rw [updSectorClk_eq, setSectorClk_sectorClk]
      split
      · rename_i hk; rw [hk]
      · rfl) l s n
  simpa using h

theorem clearDroops_only (l : List Nat) (s : State) : SectorsOnly s (l.foldl (fun (s : State) n => s.updSectorClk n (fun k => { k with droops := {} })) s) :=
  List.foldlRecOn (motive := SectorsOnly s) _ _ (.refl s) fun _ ht _ _ => ht.setSectorClk _ _

theorem exec_foehnClr {v : BitVec 32} (hopen : s.regOpen 0 = true) (hclr : v.getLsbD 0 = true) : ∃ t c, exec (.foehnClr 0 v) s = .next t ∧
    t = { s with foehn := { s.foehn with satev := v.getLsbD 1, sectors := c, energy := {}, energyRest := 0 } } ∧
    ∀ n, n < 64 → NMap.at c n {} = { s.sectorClk n with droops := {} } := by
  have hexec : exec (.foehnClr 0 v) s = execFoehnClr 0 v s := rfl
  rw [hexec, execFoehnClr, if_neg (by simp [hopen])]
  dsimp only
  rw [if_neg (by simp [hclr])]
  have hsectors := clearDroops_sectorClk (List.range 64) { s with foehn := { s.foehn with satev := v.getLsbD 1 } }
  obtain ⟨c, hc⟩ := clearDroops_only (List.range 64) { s with foehn := { s.foehn with satev := v.getLsbD 1 } }
  rw [hc] at hsectors ⊢
  exact ⟨_, c, rfl, rfl, fun n hn => (hsectors n).trans (if_pos (List.mem_range.2 hn))⟩

/-- A droop counted, with the clock stretched above the floor. -/
def SectorClk.drooped (k : SectorClk) : SectorClk := { k with droops := k.droops.add 1, stretched := 1000 < k.mhz }

theorem exec_droop_counted (hpowered : s.powered = true) {n below : Nat} (hn : n < 64) (hmhz : (s.sectorClk n).mhz ≠ 0)
    (hbelow : NMap.at s.board.applied.droop n 50 < below) : ∃ t x, exec (.droop ⟨n, below⟩) s = .next t ∧
      (∀ m, t.sectorClk m = if m = n then x else s.sectorClk m) ∧ x.droops = (s.sectorClk n).drooped.droops ∧
      x.stretched = (s.sectorClk n).drooped.stretched := by
  have hexec : exec (.droop ⟨n, below⟩) s = execDroop ⟨n, below⟩ s := rfl
  have hcounts : ¬(!s.powered || decide ((s.sectorClk n).mhz = 0) || decide (below ≤ NMap.at s.board.applied.droop n 50)) = true := by
    simp [hpowered, hmhz, hbelow]
  rw [hexec, execDroop, onUnit_lt hn]
  dsimp only
  rw [if_neg hcounts]
  split_ifs
  · refine ⟨_, { (s.sectorClk n).drooped with droopAt := some s.clock.now }, rfl, fun m => ?_, rfl, rfl⟩
    rw [event_sectorClk, updSectorClk_eq, setSectorClk_sectorClk, setSectorClk_sectorClk, if_pos rfl, setSectorClk_sectorClk]
    split
    · rfl
    · rfl
  · exact ⟨_, (s.sectorClk n).drooped, rfl, fun m => setSectorClk_sectorClk _ n _ m, rfl, rfl⟩

/-- Where the floor power reaches a limit, every choice goes to the floor. -/
theorem exec_foehnUpdate_floor (hpowered : s.powered = true) {m : Sense} {e limit : Nat} {a : List Nat} (hf : f = { meas := s.metered m, est := e, amps := a })
    (hlimit : s.floorLimit ((s.metering f).floorPower f) = limit) (hreached : limit ≠ 0) : ∃ t, exec (.foehnUpdate m e a) s = .next t ∧
      t.foehn.unattainable = true ∧ t.foehn.limiter = BitVec.ofNat 2 limit ∧ ∀ n, n < 64 → (t.sectorClk n).choice = 0 := by
  have hexec := exec_foehnUpdate hpowered hf
  rw [hlimit, if_pos hreached] at hexec
  refine ⟨_, hexec, ?_⟩
  have htold : (if s.foehn.unattainable then (s.metering f).floored (List.range 64) limit else ((s.metering f).floored (List.range 64) limit).event 0
      (((s.metering f).floored (List.range 64) limit).record 0xA 1 0 0 limit)).foehn = ((s.metering f).floored (List.range 64) limit).foehn := by
    split
    · rfl
    · exact event_foehn _ _ _
  obtain ⟨hunattainable, hlimiter, hfloor⟩ := floored_leaves (s.metering f) (List.range 64) limit htold
  exact ⟨hunattainable, hlimiter, fun n hn => hfloor n (List.mem_range.2 hn)⟩

/-- Where it reaches none, the choices are those under the limits. -/
theorem exec_foehnUpdate_choices (hpowered : s.powered = true) {m : Sense} {e : Nat} {a : List Nat} (hf : f = { meas := s.metered m, est := e, amps := a })
    (hnone : s.floorLimit ((s.metering f).floorPower f) = 0) : ∃ t c, exec (.foehnUpdate m e a) s = .next t ∧
      t = { s.attaining f with foehn := { (s.attaining f).foehn with limiter := BitVec.ofNat 2 ((s.attaining f).chosen f).2, sectors := c } } ∧
      ∀ n, (t.sectorClk n).choice = (((s.attaining f).chosen f).1.sectorClk n).choice := by
  have hexec := exec_foehnUpdate hpowered hf
  rw [hnone, if_neg (not_not.2 rfl)] at hexec
  obtain ⟨c, hchosen⟩ := (chosen_leaves (s.attaining f) f).1
  obtain ⟨d, hordered⟩ := (orderClocks_leaves { ((s.attaining f).chosen f).1 with
    foehn := { ((s.attaining f).chosen f).1.foehn with limiter := BitVec.ofNat 2 ((s.attaining f).chosen f).2 } }).1
  refine ⟨_, d, hexec, hordered.trans ?_, fun n => orderClocks_choice _ n⟩
  rw [hchosen]

/-- Settles O47: an update by the limit that its floor power reaches, the others by their lemmas; choices fall and rise one step at a time. -/
theorem foehnCommands : Obligations.FoehnCommands := by
  unfold Obligations.FoehnCommands
  intro s hpowered
  refine ⟨fun m e a f u w hf hu hw => ⟨fun hsust => ?sustained, fun hsust hpeak => ?peak, fun hsust hpeak => ?choices, fun hsound => ?raise⟩,
    fun w f p hp => ?broken, fun a b m e hm he hest => ?correction, fun hdisagree hagrees => exec_diverged hdisagree hagrees,
    fun hagree hdiverged => exec_floorHoldRelease hagree hdiverged, fun a ha hunattainable hover => ?clear,
    fun m n hpeak hn hunheld hstep => exec_peakExceeded hpowered hpeak hn hunheld hstep, fun n hn hordered => ?clock,
    fun n v hn hopen hcap hsound hdrains => ⟨fun hv hgate => ?gate, fun hv hgate => ?ungate⟩, fun v hopen hclr => ?clr,
    fun n below hn hmhz hbelow => ?above, fun n below hn hmhz hbelow => ?droop, fun n hn => ?stretchEnd⟩
  case sustained =>
    subst hu
    exact exec_foehnUpdate_floor hpowered hf (if_pos hsust) (by decide)
  case peak =>
    subst hu
    exact exec_foehnUpdate_floor hpowered hf ((if_neg (not_le.2 hsust)).trans (if_pos hpeak)) (by decide)
  case choices =>
    have hattaining : w = s.attaining f := by rw [hw, hu]; rfl
    subst hu
    clear hw
    subst hattaining
    obtain ⟨t, c, hexec, ht, hchoices⟩ := exec_foehnUpdate_choices hpowered hf ((if_neg (not_le.2 hsust)).trans (if_neg (not_le.2 hpeak)))
    have hchosen : (s.attaining f).chosen f = if (s.attaining f).broken f = 0 then (s.attaining f).raiseAll 1280 f
        else ((s.attaining f).lowerAll 1280 f, (s.attaining f).broken f) := by
      rw [State.chosen, ite_not]
    refine ⟨t, hexec, by rw [ht]; rfl, by rw [ht]; rfl, by rw [ht]; rfl, by rw [ht]; rfl, ?_, fun n _ => ?_, fun n _ hn => ?_⟩
    · rw [ht]
      refine congrArg (BitVec.ofNat 2) ?_
      rw [hchosen]
      split
      · rfl
      · rfl
    · rw [hchoices, hchosen]
      split
      · rfl
      · rfl
    · rw [hchoices]
      exact (chosen_leaves (s.attaining f) f).2 n hn
  case raise =>
    obtain ⟨⟨-, hchoices⟩, hkeeps⟩ := raiseAll_leaves 1280 w f
    exact ⟨hkeeps hsound, fun n _ => (hchoices n).1⟩
  case broken =>
    subst hp
    exact ⟨broken_eq_one w f, broken_eq_two w f, broken_eq_three w f⟩
  case correction =>
    subst hm he
    exact exec_correctionFactor hpowered hest
  case clear =>
    have hexec : exec .unattainableClear s = execUnattainableClear s := rfl
    rw [hexec, execUnattainableClear, ha]
    exact congrArg _ (if_pos (by simpa [hunattainable] using hover))
  case clock =>
    refine ⟨_, exec_clockChange hpowered hn hordered, ?_, ?_, fun m hm => ?_, rfl⟩
    · rw [applyClock_sectorClk, if_pos rfl]
    · rw [applyClock_sectorClk, if_pos rfl]
    · rw [applyClock_sectorClk, if_neg hm]
  case gate =>
    have hbit : bit v.toNat 19 = true := hv
    have hexec : exec (.sectorGate 0 n v) s = execSectorGate 0 n v s := rfl
    rw [hexec, execSectorGate, onUnit_lt hn, if_pos hopen, writeSector_changes hcap hsound hdrains (by rw [hbit, hgate]; rfl), hbit]
    rfl
  case ungate =>
    have hbit : bit v.toNat 19 = false := hv
    have hexec : exec (.sectorUngate 0 n v) s = execSectorUngate 0 n v s := rfl
    rw [hexec, execSectorUngate, onUnit_lt hn, if_pos hopen, writeSector_changes hcap hsound hdrains (by rw [hbit, hgate]; rfl), hbit]
    rfl
  case clr =>
    obtain ⟨t, c, hexec, rfl, hsectors⟩ := exec_foehnClr hopen hclr
    refine ⟨_, hexec, rfl, rfl, fun n hn => ⟨?_, ?_⟩, rfl⟩
    · rw [State.sectorClk, hsectors n hn]
    · rw [State.sectorClk, hsectors n hn]
  case above =>
    have hexec : exec (.droop ⟨n, below⟩) s = execDroop ⟨n, below⟩ s := rfl
    rw [hexec, execDroop, onUnit_lt hn]
    exact congrArg _ (if_pos (by simp [hbelow]))
  case droop =>
    obtain ⟨t, x, hexec, hsectors, hdroops, hstretched⟩ := exec_droop_counted hpowered hn hmhz hbelow
    refine ⟨t, hexec, ?_, ?_, fun m hm => by rw [hsectors, if_neg hm]⟩
    · rw [hsectors, if_pos rfl, hstretched]
      rfl
    · rw [hsectors, if_pos rfl, hdroops]
      rfl
  case stretchEnd => exact onUnit_lt hn _

end Sys2Proof.Machine
end

section
/-! SUPPORT. Inbound requests at their target: what is checked, performed and answered (R362, R384 to R388, R429). -/

namespace Sys2Proof.Machine
open Sys2Proof

variable {s : State} {p : Packet}

/-! ## The checks (R362) -/

section
variable (hrails : s.board.rails = true) (hcool : s.therm.tripped = false)
include hrails hcool

theorem inbound_refused {opc st : Nat} (hopc : p.opc.toNat = opc) (hclose : opc ≠ 4) (hrefused : s.refusal p = some st) (f : State → State) :
    s.inbound opc p f = (s.take p).answer p 0x84 st [] := by
  unfold State.inbound
  rw [if_neg (by simp [hopc, hrails, hcool]), hrefused]
  exact if_neg hclose

theorem inbound_performed {opc : Nat} (hopc : p.opc.toNat = opc) (hallowed : s.refusal p = none) (hfree : s.heldRun p.addr.toNat (max 1 p.len) = false)
    (f : State → State) : s.inbound opc p f = f (s.take p) := by
  unfold State.inbound
  rw [if_neg (by simp [hopc, hrails, hcool]), hallowed]
  exact if_neg (by simp [hfree])

end

/-- The final flag of a batch is in the way of no packet that is rejected, that is its batch's only one, or that has no batch. -/
theorem finBlocked_false (h : s.refusal p ≠ none ∨ (p.fin = true ∧ p.count = 1) ∨ s.ael.tracker = []) : s.finBlocked p = false := by
  unfold State.finBlocked
  split
  · rename_i f hf
    rcases h with hrefused | honly | hnone
    · simp [Option.isNone_iff_eq_none, hrefused]
    · simp [honly]
    · rw [hnone] at hf; cases hf
  · rfl

/-! ## Answers leave the tracker and the answers kept -/

theorem answer_ael (s : State) (p : Packet) (opc status : Nat) (data : List Byte) :
    (s.answer p opc status data).ael.tracker = s.ael.tracker ∧ (s.answer p opc status data).ael.dedup = s.ael.dedup := by
  have hkept : KeptBySending (fun t => t.ael.tracker = s.ael.tracker ∧ t.ael.dedup = s.ael.dedup) fun _ => True :=
    ⟨fun _ h => h, fun _ h => h, fun _ _ h => h, fun _ _ => trivial⟩
  exact hkept.route ⟨rfl, rfl⟩ 0 _

theorem landWrite_tracker (s : State) (p : Packet) : (s.landWrite p).ael.tracker = s.ael.tracker := by
  obtain ⟨_, _, _, _, _, hwrite⟩ := (AccessOnly.refl s).hbmWrite (s.inboundAcc p) p.addr.toNat (clean p.data)
  rw [State.landWrite, (answer_ael _ _ _ _ _).1, hwrite]

/-! ## WRITE (R384, R385) -/

theorem exec_write_unblocked (h : s.finBlocked p = false) : ∃ f : State → State, exec (.write p) s = .next (s.inbound 1 p f) ∧
    ∀ t : State, (p.fin = true → p.count = 1 → f t = t.landWrite p) ∧ (p.fin = false → t.ael.tracker = [] → f t = (t.landWrite p).settleBatch
      { src := p.src, sinst := p.sinst, srctag := p.srctag, batch := p.batch, landed := 1, fin := none, close := none, last := t.clock.now }) := by
  have hexec : exec (.write p) s = execWrite p s := rfl
  rw [hexec, execWrite, if_neg (by simp [h])]
  refine ⟨_, rfl, fun t => ⟨fun hfin hcount => if_pos (by simp [hfin, hcount]), fun hfin hnone => ?_⟩⟩
  dsimp only
  rw [hnone, hfin]
  rfl

/-- A batch without a final flag and without a CLOSE enters the tracker. -/
theorem settleBatch_open {b : Batch} (hfin : b.fin = none) (hclose : b.close = none) (hnone : s.ael.tracker = []) : s.settleBatch b = s.setTracker [b] := by
  unfold State.settleBatch
  rw [hnone, hfin, hclose]
  rfl

/-! ## ATOMIC (R387, R388) -/

theorem exec_atomic_inbound (hok : atomOk p.aop.toNat p.atype.toNat = true) : ∃ f : State → State, exec (.atomic p) s = .next (s.inbound 3 p f) ∧
    (∀ (t : State) d, t.ael.dedup.find? (fun d => d.src = p.src && d.txid = p.txid) = some d → f t = t.answer p 0x83 d.status.toNat d.data) ∧
    ∀ t : State, t.ael.dedup = [] → ∃ d : Dedup, (f t).ael.dedup = [d] ∧ d.src = p.src ∧ d.txid = p.txid ∧ d.since = t.clock.now := by
  have hexec : exec (.atomic p) s = execAtomic p s := rfl
  rw [hexec, execAtomic, if_neg (by simp [hok])]
  refine ⟨_, rfl, fun t d hd => ?_, fun t hnone => ?_⟩
  · dsimp only
    rw [hd]
  · obtain ⟨_, _, _, _, _, hfar⟩ := (CachesOnly.refl t).atomFar (t.inboundAcc p) 128 p.addr.toNat (tySize p.atype.toNat)
      (fun v => atomFn p.aop.toNat p.atype.toNat v (if p.atype.toNat = 0xE then leAt p.data 0 32 else leAt p.data 0 (tySize p.atype.toNat))
        (if p.atype.toNat = 0xE then 0 else leAt p.data 8 (tySize p.atype.toNat)))
    dsimp only
    rw [hnone]
    dsimp only [List.find?_nil]
    rw [if_neg (show ¬([] : List Dedup).length ≥ 65536 by simp), (answer_ael _ _ _ _ _).2, hfar, hnone]
    exact ⟨_, rfl, rfl, rfl, rfl⟩

theorem exec_read (hread : p.opc = 2) (hrails : s.board.rails = true) (hcool : s.therm.tripped = false) (hallowed : s.refusal p = none)
    (hfree : s.heldRun p.addr.toNat (max 1 p.len) = false) {bs : List PByte} {t : State} {lo : Nat} (hlo : lo = p.addr.toNat / 32 * 32)
    (hbytes : (s.take p).hbmRead (s.inboundAcc p) lo ((p.addr.toNat + p.len + 31) / 32 * 32 - lo) = (bs, t)) : exec (.read p) s =
      .next (t.answer p 0x82 (if anyPoison bs then 0x0307 else 0) (plain ((bs.drop (p.addr.toNat - lo)).take p.len))) := by
  have hexec : exec (.read p) s = execRead p s := rfl
  have hacc : (s.take p).inboundAcc p = s.inboundAcc p := rfl
  rw [hexec, execRead, inbound_performed hrails hcool (by rw [hread]; rfl) hallowed hfree, hacc]
  subst hlo
  dsimp only
  rw [hbytes]

/-- Settles O43: each request by what its checks answer, and the performed ones by what they do to the lists, which no answer touches. -/
theorem remoteTarget : Obligations.RemoteTarget := by
  unfold Obligations.RemoteTarget
  intro s p hrails hcool
  refine ⟨fun st c hrefused hc => ?refused, fun hallowed hfree => ⟨fun hopc hfin hcount => ?only, fun hopc hfin hnone => ?batch,
      fun hopc bs t lo hlo hbytes => exec_read hopc hrails hcool hallowed hfree hlo hbytes, fun hopc hok d hd => ?kept, fun hopc hok hnone => ?atomic,
      fun hopc b hb => ?close⟩, fun key b hkey hlast => ?timeout, fun src txid => ?expiry⟩
  case refused =>
    rcases hc with ⟨hopc, rfl⟩ | ⟨hopc, rfl⟩ | ⟨hopc, rfl, hok⟩
    · obtain ⟨f, hexec, -⟩ := exec_write_unblocked (finBlocked_false (s := s) (p := p) (.inl (by simp [hrefused])))
      rw [hexec, inbound_refused hrails hcool (by rw [hopc]; rfl) (by decide) hrefused]
    · exact congrArg _ (inbound_refused hrails hcool (by rw [hopc]; rfl) (by decide) hrefused _)
    · obtain ⟨f, hexec, -⟩ := exec_atomic_inbound hok
      rw [hexec, inbound_refused hrails hcool (by rw [hopc]; rfl) (by decide) hrefused]
  case only =>
    obtain ⟨f, hexec, hf⟩ := exec_write_unblocked (finBlocked_false (.inr (.inl ⟨hfin, hcount⟩)))
    rw [hexec, inbound_performed hrails hcool (by rw [hopc]; rfl) hallowed hfree, (hf _).1 hfin hcount]
  case batch =>
    obtain ⟨f, hexec, hf⟩ := exec_write_unblocked (finBlocked_false (.inr (.inr hnone)))
    rw [inbound_performed hrails hcool (by rw [hopc]; rfl) hallowed hfree, (hf (s.take p)).2 hfin hnone,
      settleBatch_open (s := (s.take p).landWrite p) (by rfl) (by rfl) ((landWrite_tracker _ p).trans hnone)] at hexec
    exact ⟨_, _, hexec, rfl, by simp [Batch.isOf], rfl, rfl, rfl, rfl⟩
  case kept =>
    obtain ⟨f, hexec, hf, -⟩ := exec_atomic_inbound hok
    rw [hexec, inbound_performed hrails hcool (by rw [hopc]; rfl) hallowed hfree, hf (s.take p) d hd]
  case atomic =>
    obtain ⟨f, hexec, -, hf⟩ := exec_atomic_inbound hok
    rw [inbound_performed hrails hcool (by rw [hopc]; rfl) hallowed hfree] at hexec
    obtain ⟨d, hdedup, hsrc, htxid, hsince⟩ := hf (s.take p) hnone
    exact ⟨_, d, hexec, hdedup, hsrc, htxid, hsince⟩
  case close =>
    have hexec : exec (.close p) s = execClose p s := rfl
    have hb : (s.take p).ael.tracker.find? (fun b => b.isOf p) = some b := hb
    rw [hexec, execClose, inbound_performed hrails hcool (by rw [hopc]; rfl) hallowed hfree]
    rw [hb]
  case timeout =>
    have hexec : exec (.batchEntryTimeout key) s = execBatchEntryTimeout key s := rfl
    refine ⟨fun hfin => ?_, fun f hfin => ?_⟩
    · rw [hexec, execBatchEntryTimeout, hkey]
      dsimp only
      rw [if_neg (Nat.not_lt.2 hlast), hfin]
    · rw [hexec, execBatchEntryTimeout, hkey]
      dsimp only
      rw [if_neg (Nat.not_lt.2 hlast), hfin]
  case expiry => exact ⟨_, rfl, rfl, fun d => List.mem_filter.trans (by
    simp only [Bool.not_eq_true', Bool.and_eq_false_iff, decide_eq_false_iff_not, not_and_or, or_assoc])⟩

end Sys2Proof.Machine
end

section
/-! SUPPORT. The contexts of collectives: what reading their descriptors, sending their tokens and failing leave of them (R390 to R393). -/

namespace Sys2Proof.Machine
open Sys2Proof

variable {b s t : State} {c : Nat}

/-! ## Contexts set twice -/

theorem NMap_ins_ins {α : Type} (m : NMap α) (k : Nat) (x y : α) : NMap.ins (NMap.ins m k x) k y = NMap.ins m k y := by
  induction m with
  | nil => simp [NMap.ins]
  | cons e m ih =>
    obtain ⟨j, z⟩ := e
    rw [NMap.ins, NMap.ins]
    split
    · simp [NMap.ins]
    · split
      · simp [NMap.ins]
      · simp [NMap.ins, *]

theorem setColl_same (s : State) (c : Nat) (x : Coll) : (s.setColl c x).coll c = x := by rw [setColl_coll, if_pos rfl]

/-- A context set and set again, neither of them at rest, is the one set last. -/
theorem setColl_setColl {x y : Coll} (hx : x ≠ {}) (hy : y ≠ {}) : (s.setColl c x).setColl c y = s.setColl c y := by
  simp only [State.setColl, NMap.put, if_neg hx, if_neg hy, NMap_ins_ins]

/-! ## Reads of the engine (R350 to R353, R390) -/

/-- Nothing differs but what accesses change and the cached translations. -/
def PageOnly (b s : State) : Prop := ∃ q, AccessOnly { b with tlb := q } s

namespace PageOnly

theorem refl (b : State) : PageOnly b b := ⟨_, .refl _⟩

theorem trans (h : PageOnly b s) (k : PageOnly s t) : PageOnly b t := by
  obtain ⟨_, _, _, _, _, _, rfl⟩ := h
  obtain ⟨q, c, l, p, m, rs, rfl⟩ := k
  exact ⟨q, c, l, p, m, rs, rfl⟩

theorem access (h : PageOnly b s) (k : AccessOnly s t) : PageOnly b t := h.trans ⟨_, k⟩

theorem withTlb (h : PageOnly b s) (q : List TlbEntry) : PageOnly b { s with tlb := q } := h.trans ⟨q, .refl _⟩

theorem hbmRead (h : PageOnly b s) (a : Acc) (pa n : Nat) : PageOnly b (s.hbmRead a pa n).2 := h.access ((AccessOnly.refl s).hbmRead a pa n)

theorem of_snd {α : Type} {p : α × State} {a : α} (h : PageOnly b p.2) (e : p = (a, t)) : PageOnly b t := by
  rw [e] at h; exact h

theorem ael (h : PageOnly b s) : s.ael = b.ael := by obtain ⟨_, _, _, _, _, _, rfl⟩ := h; rfl

theorem coll (h : PageOnly b s) (c : Nat) : s.coll c = b.coll c := by rw [State.coll, h.ael, State.coll]

theorem walk (k : Nat) (h : PageOnly b s) (agent i va node : Nat) : PageOnly b (s.walk k agent i va node).2 := by
  induction k generalizing s node with
  | zero => exact h
  | succ k ih =>
    unfold State.walk
    dsimp only
    split
    · exact ih h _
    · split
      · exact h
      · have hread := fun a pa n => h.hbmRead a pa n
        split
        · exact hread _ _ _
        · split
          · exact hread _ _ _
          · split
            · split <;> exact hread _ _ _
            · exact iteInduction (motive := fun (r : (Tr × Nat) × State) => PageOnly b r.2) (fun _ => hread _ _ _) fun _ =>
                ih ((hread _ _ _).withTlb _) _

theorem translate (h : PageOnly b s) (agent i : Nat) (k : XKind) (va : Nat) : PageOnly b (s.translate agent i k va).2 := by
  have hwalk := h.walk 5 agent i va (s.inst i).root.toNat
  unfold State.translate
  split
  · exact h
  · split
    · dsimp only
      split
      · exact h
      · split <;> exact h
    · split
      · have hgot := (hwalk.of_snd ‹_›).withTlb
        dsimp only
        split <;> exact hgot _
      · exact hwalk.of_snd ‹_›

theorem entryPage (h : PageOnly b s) (agent i : Nat) (k : XKind) (va : Nat) : PageOnly b (s.entryPage agent i k va).2 := by
  have htranslate := h.translate agent i k va
  unfold State.entryPage
  split
  · exact htranslate.of_snd ‹_›
  · have hgot := htranslate.of_snd ‹_›
    split
    · exact hgot
    · split <;> exact hgot

theorem devRead (h : PageOnly b s) (a : Acc) (pa n : Nat) : PageOnly b (s.devRead a pa n).2 := by
  unfold State.devRead
  split
  · exact h.hbmRead a pa n
  · split <;> exact h

end PageOnly

/-- Bytes that the engine has read: a read that asks a peer or waits gives none. -/
theorem collRead_some {va n : Nat} {bs : List PByte} (h : s.collRead c va n = (some bs, t)) : PageOnly s t := by
  have hpage := (PageOnly.refl s).entryPage agentPart (s.coll c).inst.toNat .read va
  unfold State.collRead at h
  dsimp only at h
  split at h
  · cases h
  · split at h
    · cases h
    · have hu := hpage.of_snd ‹_›
      split at h
      · cases h
      · split at h
        · split at h
          · cases h; exact hu
          · split at h <;> cases h
        · split at h
          · cases h
          · split at h <;> cases h
            exact hu.devRead _ _ _

/-! ## Tokens and failures (R391, R392) -/

/-- A token leaves memory, and the steps received. -/
theorem sendToken_leaves (s : State) (c : Nat) (d : CollDesc) :
    ((s.sendToken c d).coll c).recvd = (s.coll c).recvd ∧ (s.sendToken c d).mem = s.mem := by
  have hkept : KeptBySending (fun t => (t.coll c).recvd = (s.coll c).recvd ∧ t.mem = s.mem) fun _ => True :=
    ⟨fun _ h => h, fun _ h => h, fun _ _ h => h, fun _ _ => trivial⟩
  have hroute : ∀ (t : State) (x : Coll) (p : Packet), x.recvd = (s.coll c).recvd → t.mem = s.mem →
      (((t.setColl c x).route none 0 p).2.coll c).recvd = (s.coll c).recvd ∧ ((t.setColl c x).route none 0 p).2.mem = s.mem :=
    fun t x p hx ht => hkept.route ⟨(congrArg Coll.recvd (setColl_same t c x)).trans hx, ht⟩ 0 p
  exact hroute _ _ _ rfl rfl

theorem eventTo_coll (s : State) (l : List Nat) (r : Record) : (s.eventTo l r).coll c = s.coll c := by
  obtain ⟨_, _, _, _, _, hrecords⟩ := List.foldlRecOn (motive := RecordsOnly s) l _ (.refl s) fun _ ht i _ => ht.event i r
  rw [State.eventTo, hrecords]
  rfl

theorem failColl_ends (h : (s.coll c).run.isSome = true) : ((s.failColl c).coll c).en = false ∧ ((s.failColl c).coll c).run = none ∧
    ((s.failColl c).coll c).runs = (s.coll c).runs := by
  obtain ⟨d, hd⟩ := Option.isSome_iff_exists.1 h
  unfold State.failColl
  dsimp only
  rw [hd]
  dsimp only
  rw [eventTo_coll, setColl_same]
  exact ⟨rfl, rfl, rfl⟩

/-! ## The commands -/

theorem exec_collEnable {v : BitVec 32} (hc : c < 64) (hopen : s.regOpen 0 = true) : exec (.collEnable 0 c v) s = .next (s.writeCollCtrl c v) :=
  (onUnit_lt hc _).trans (congrArg _ (if_pos hopen))

theorem exec_readyToken_idle {x : Coll} (hc : c < 64) (hx : x = s.coll c) (hunlocked : s.sec.lockInForce = false) :
    (x.en = false → exec (.readyToken c) s = .next (s.dropColl c true)) ∧
    (x.en = true → x.run = none → exec (.readyToken c) s = .next ((s.dropColl c true).setColl c { x with tokens := x.tokens + 1 })) ∧
    ∀ d, x.run = some d → x.en = true → exec (.readyToken c) s = .next (State.tryEnd (State.trySend ((s.dropColl c true).setColl c
      { x with tokens := x.tokens + 1, since := s.clock.now }) c) c) := by
  have hexec : exec (.readyToken c) s = execReadyToken c s := rfl
  have hcoll : (s.dropColl c true).coll c = x := hx.symm
  rw [hexec, execReadyToken, onUnit_lt hc, if_neg (by simp [hunlocked])]
  dsimp only
  rw [hcoll]
  refine ⟨fun hen => ?_, fun hen hrun => ?_, fun d hrun hen => ?_⟩
  · rw [if_pos (by simp [hen])]
  · rw [if_neg (by simp [hen]), if_pos (by simp [hrun])]
  · rw [if_neg (by simp [hen]), if_neg (by simp [hrun])]; rfl

/-- A chunk of a copy phase: written, counted, and a token sent where another step follows. -/
theorem exec_collChunk_copy {x : Coll} {d : CollDesc} {data : List Byte} (hc : c < 64) (hx : x = s.coll c) (hunlocked : s.sec.lockInForce = false)
    (hrun : x.run = some d) (hen : x.en = true) (hmore : x.recvd < d.steps) (hlen : data.length = d.chunk) (hcopy : d.reduces x.recvd = false)
    (hready : s.bufWaits (d.chunk / 65536 + 2) x.inst.toNat (d.chunkVa (d.recvs x.recvd)) d.chunk = false)
    (hwrite : (s.dropColl c false).bufWrite (d.chunk / 65536 + 2) x.inst.toNat (d.chunkVa (d.recvs x.recvd)) data = (true, t)) :
    ∃ u : State, exec (.collChunk c data) s = .next (State.tryEnd (State.trySend u c) c) ∧ (u.coll c).recvd = x.recvd + 1 ∧ u.mem = t.mem := by
  have hexec : exec (.collChunk c data) s = execCollChunk c data s := rfl
  subst hx
  rw [hexec, execCollChunk, onUnit_lt hc, if_neg (by simp [hunlocked])]
  dsimp only
  rw [hrun]
  dsimp only
  rw [if_neg (by simp [hen, hmore, hlen]), if_neg (by simp [hready]), if_neg (by simp [hcopy])]
  dsimp only
  rw [hwrite]
  refine ⟨_, rfl, ?_⟩
  obtain ⟨hrecvd, hmem⟩ := sendToken_leaves (t.setColl c { t.coll c with recvd := (s.coll c).recvd + 1, since := t.clock.now }) c d
  have hset : ((t.setColl c { t.coll c with recvd := (s.coll c).recvd + 1, since := t.clock.now }).coll c).recvd = (s.coll c).recvd + 1 :=
    congrArg Coll.recvd (setColl_same _ c _)
  split
  · exact ⟨hrecvd.trans hset, hmem⟩
  · exact ⟨hset, rfl⟩

theorem exec_collRunStart {db tb : List PByte} {u : State} {d : CollDesc} (hc : c < 64) (hen : (s.coll c).en = true) (hrun : (s.coll c).run = none)
    (hworking : s.working = true) (hup : s.ael.reduceUp ≠ 0) (hdesc : s.collRead c (s.coll c).desc.toNat 64 = (some db, t))
    (hclean : anyPoison db = false) (hd : collDesc (plain db) = some d) (htrig : t.collRead c d.trig.toNat 4 = (some tb, u))
    (hsound : anyPoison tb = false) (hmet : 0 ≤ diff32 (BitVec.ofNat 32 (ofLe (plain tb))) (BitVec.ofNat 32 ((s.coll c).runs + 1)))
    (hbeat : d.beat0 = 0) : exec (.collRunStart c) s = .next (((u.setColl c
      { u.coll c with buf := [], run := some d, sent := 0, recvd := 0, since := u.clock.now, txids := [] }).sendToken c d).trySend c) := by
  have hexec : exec (.collRunStart c) s = execCollRunStart c s := rfl
  have hkept : u.coll c = s.coll c := ((collRead_some hdesc).trans (collRead_some htrig)).coll c
  have henabled : ∀ {x : Coll}, x.en = true → x ≠ {} := fun h hx => by rw [hx] at h; cases h
  rw [hexec, execCollRunStart, onUnit_lt hc]
  dsimp only
  rw [if_neg (by simpa [hen, hrun, hworking] using hup), hdesc]
  dsimp only
  rw [if_neg (by simp [hclean]), hd]
  dsimp only
  rw [htrig]
  dsimp only
  rw [if_neg (by simp [hsound, hmet, hbeat]), setColl_same, setColl_setColl (henabled (by rw [hkept]; exact hen)) (henabled (by rw [hkept]; exact hen))]
  rfl

/-- Settles O45: each command by the state of its context, which reads of the engine, tokens and events leave as it is. -/
theorem collectives : Obligations.Collectives := by
  unfold Obligations.Collectives
  intro s c x hc hx
  refine ⟨fun v hopen hen hv hlink => ?enable, fun v hopen hen hv => ?disable, fun hlock => ⟨?tokenLocked, fun data => ?chunkLocked⟩,
    fun hen hrun hworking hup db t d tb u hdesc hclean hd htrig hsound hmet hbeat w hw => ?start,
    fun hunlocked => ?unlocked, fun hrun hlate => ?timeout⟩
  case enable =>
    rw [exec_collEnable hc hopen, State.writeCollCtrl, ← hx]
    dsimp only
    have hbit : bit v.toNat 8 = true := hv
    rw [if_neg (by simp [hen]), hbit, if_neg (by simp [hlink])]
    rfl
  case disable =>
    refine ⟨_, exec_collEnable hc hopen, ?_⟩
    have hbit : bit v.toNat 8 = false := hv
    rw [State.writeCollCtrl, ← hx]
    dsimp only
    rw [if_pos hen, hbit, if_neg (by decide), setColl_same]
    exact ⟨rfl, rfl, rfl⟩
  case tokenLocked => exact (onUnit_lt hc _).trans (congrArg _ (if_pos hlock))
  case chunkLocked => exact (onUnit_lt hc _).trans (congrArg _ (if_pos hlock))
  case start =>
    subst hx hw
    exact exec_collRunStart hc hen hrun hworking hup hdesc hclean hd htrig hsound hmet hbeat
  case unlocked =>
    obtain ⟨hoff, hearly, hrunning⟩ := exec_readyToken_idle hc hx hunlocked
    refine ⟨hoff, hearly, fun hrun data => ?_, hrunning, fun d data t hrun hen hmore hlen hcopy hready hwrite =>
      exec_collChunk_copy hc hx hunlocked hrun hen hmore hlen hcopy hready hwrite⟩
    have hexec : exec (.collChunk c data) s = execCollChunk c data s := rfl
    rw [hexec, execCollChunk, onUnit_lt hc, if_neg (by simp [hunlocked]), ← hx]
    dsimp only
    rw [hrun]
  case timeout =>
    subst hx
    exact ⟨_, (onUnit_lt hc _).trans (congrArg _ (if_pos (by simp [hrun, hlate]))), failColl_ends hrun⟩

end Sys2Proof.Machine
end

section
/-! SUPPORT. Flits between dies: what sending leaves of the bundles, and their fences (R394 to R403, R437 to R441). -/

namespace Sys2Proof.Machine
open Sys2Proof

variable {s : State} {P : State → Prop} {n d : Nat}

/-! ## Bundles and their directions -/

theorem setDir_dir {α : Type} (f : EddyDir → α) {b : Bundle} {x : EddyDir} (h : f x = f (b.dir d)) (e : Nat) :
    f ((b.setDir d x).dir e) = f (b.dir e) := by
  unfold Bundle.setDir Bundle.dir at *
  split_ifs at h ⊢
  · exact h
  · rfl
  · rfl
  · exact h

theorem setDir_dir_same (b : Bundle) (d : Nat) (x : EddyDir) : (b.setDir d x).dir d = x := by
  unfold Bundle.setDir Bundle.dir
  split <;> rfl

theorem setBundle_bundle_keeps {α : Type} (f : Bundle → α) {x : Bundle} (h : f x = f (s.bundle n)) (m : Nat) :
    f ((s.setBundle n x).bundle m) = f (s.bundle m) := by
  rw [setBundle_bundle]
  split
  · rename_i hm
    rw [h, hm]
  · rfl

theorem setDir_state (b : Bundle) (d : Nat) (x : EddyDir) : (b.setDir d x).state = b.state := by
  unfold Bundle.setDir
  split <;> rfl

/-! ## Predicates that flits keep -/

/-- A predicate that a flit of a bundle keeps, where its numbers and queues stay: it only clears what the other direction owes. -/
structure KeptByReports (P : State → Prop) : Prop where
  send : ∀ {s : State} (m : OutMsg), P s → P (s.send m)
  owes : ∀ {s : State} (n d : Nat) (o : NMap Nat) (a : Nat), P s →
    P (s.setBundle n ((s.bundle n).setDir d { (s.bundle n).dir d with owed := o, sinceAck := a }))

namespace KeptByReports
variable (h : KeptByReports P)
include h

theorem emitEddy (hs : P s) (n d head : Nat) (nak : Bool) (first : Nat) (body : List Byte) : P (s.emitEddy n d head nak first body) :=
  h.send _ (h.owes n (1 - d) _ _ hs)

theorem reportEddy (hs : P s) (n d : Nat) (nak : Bool) : P (s.reportEddy n d nak) := h.emitEddy hs _ _ _ _ _ _

/-- The handover message of a direction without flits (R402). -/
theorem handover_empty {x : EddyDir} (hx : x.unacked ++ x.waiting = []) (hs : P s) (n d : Nat) : P (s.handover n d x) := by
  obtain ⟨hunacked, hwaiting⟩ := List.append_eq_nil_iff.1 hx
  unfold State.handover
  rw [hunacked, hwaiting]
  refine List.foldlRecOn (motive := P) _ _ (List.foldlRecOn _ _ hs fun t ht hop _ => ?_) fun _ _ _ hnone => absurd hnone List.not_mem_nil
  split
  · exact h.emitEddy ht _ _ _ _ _ _
  · exact ht

end KeptByReports

/-- A predicate that every flit sent keeps: the senders' queues and numbers may change, the numbers expected may not. -/
structure KeptByEddies (P : State → Prop) : Prop where
  send : ∀ {s : State} (m : OutMsg), P s → P (s.send m)
  setDir : ∀ {s : State} (n d : Nat) {x : EddyDir}, x.rxExpected = ((s.bundle n).dir d).rxExpected → P s →
    P (s.setBundle n ((s.bundle n).setDir d x))

namespace KeptByEddies
variable (h : KeptByEddies P)
include h

theorem reports : KeptByReports P := ⟨h.send, fun n d _ _ hs => h.setDir n d rfl hs⟩

theorem transmitEddy (hs : P s) (n d : Nat) (f : SentEddy) : P (s.transmitEddy n d f) :=
  h.reports.emitEddy (h.setDir (s := s) n d (by rfl) hs) _ _ _ _ _ _

theorem sendEddy (hs : P s) (n d : Nat) (f : SentEddy) : P (s.sendEddy n d f) := by
  have hwaits : ∀ w, P (s.setBundle n ((s.bundle n).setDir d { (s.bundle n).dir d with waiting := w })) := fun _ => h.setDir n d rfl hs
  exact iteInduction (motive := P) (fun _ => h.transmitEddy hs n d f) fun _ => hwaits _

theorem drainEddy (m : Nat) (hs : P s) (n d : Nat) : P (s.drainEddy m n d) := by
  induction m generalizing s with
  | zero => exact hs
  | succ m ih =>
    have htaken : ∀ w, P (s.setBundle n ((s.bundle n).setDir d { (s.bundle n).dir d with waiting := w })) := fun _ => h.setDir n d rfl hs
    unfold State.drainEddy
    dsimp only
    split
    · exact hs
    · exact ih (h.transmitEddy (htaken _) n d _)

theorem handover (hs : P s) (n d : Nat) (x : EddyDir) : P (s.handover n d x) := by
  refine List.foldlRecOn _ _ (List.foldlRecOn _ _ hs fun t ht hop _ => ?_) fun _ ht f _ =>
    List.foldlRecOn _ _ ht fun _ hu hop _ => iteInduction (fun _ => hu) fun _ => h.sendEddy hu _ _ _
  split
  · exact h.reports.emitEddy ht _ _ _ _ _ _
  · exact ht

/-- The acknowledgement of a flit, without a NAK. -/
theorem applyEddyAck (hs : P s) (n d : Nat) (ack : BitVec 10) {nak : Bool} (hnak : nak = false) (cvc ccnt : Nat) :
    P (s.applyEddyAck n d ack nak cvc ccnt) := by
  subst hnak
  unfold State.applyEddyAck
  exact h.drainEddy _ (h.setDir (s := s) n d (by rfl) hs) n d

end KeptByEddies

/-- The number that a direction of a bundle expects, and memory. -/
theorem rxExpected_keptByEddies (n d : Nat) (k : BitVec 10) (m : Mem) : KeptByEddies fun t => ((t.bundle n).dir d).rxExpected = k ∧ t.mem = m where
  send _ h := h
  setDir _ _ _ hx h := ⟨(setBundle_bundle_keeps (fun b => (b.dir d).rxExpected) (setDir_dir EddyDir.rxExpected hx d) n).trans h.1, h.2⟩

/-- The states of the bundles, and the bridges fenced. -/
def State.HasStates (g : Nat → BitVec 2) (f : BitVec 4) (t : State) : Prop := (∀ m, (t.bundle m).state = g m) ∧ t.d2d.bridgeFenced = f

theorem hasStates_keptByEddies (g : Nat → BitVec 2) (f : BitVec 4) : KeptByEddies (State.HasStates g f) where
  send _ h := h
  setDir _ _ _ _ h := ⟨fun m => (setBundle_bundle_keeps Bundle.state (setDir_state _ _ _) m).trans (h.1 m), h.2⟩

/-- The states of the bundles, and the flits that are not acknowledged yet. -/
theorem unacked_keptByReports (g : Nat → BitVec 2) (f f' : Nat → List SentEddy) : KeptByReports fun t =>
    ∀ m, (t.bundle m).state = g m ∧ (t.bundle m).dir0.unacked = f m ∧ (t.bundle m).dir1.unacked = f' m where
  send _ h := h
  owes n d o a h m := by
    obtain ⟨hstate, hdir0, hdir1⟩ := h m
    exact ⟨(setBundle_bundle_keeps Bundle.state (setDir_state _ _ _) m).trans hstate,
      (setBundle_bundle_keeps (fun b => (b.dir 0).unacked) (setDir_dir EddyDir.unacked (by rfl) 0) m).trans hdir0,
      (setBundle_bundle_keeps (fun b => (b.dir 1).unacked) (setDir_dir EddyDir.unacked (by rfl) 1) m).trans hdir1⟩

/-! ## Bundles fenced (R402, R440) -/

theorem unitRecord_d2d (s : State) (code : Nat) (u : BitVec 32) (dests : List Nat) : (s.unitRecord code u dests).d2d = s.d2d := by
  have hkept : KeptByEnds fun t => t.d2d = s.d2d := ⟨fun h e => by simp only [Prod.mk.injEq] at e; exact e.2.2.trans h⟩
  exact hkept.unitRecord rfl _ _ _

theorem packageFatal_d2d (s : State) (u : BitVec 32) : (s.packageFatal u).d2d = s.d2d := by
  have hkept : KeptByEnds fun t => t.d2d = s.d2d := ⟨fun h e => by simp only [Prod.mk.injEq] at e; exact e.2.2.trans h⟩
  exact hkept.packageFatal rfl _

/-- A bundle without flits fenced: its handover messages leave the others' states and flits. -/
theorem fenceBundle_empty (hup : (s.bundle n).state = 0) (hcuts : s.cutsDie n = false)
    (hdir0 : (s.bundle n).dir0.unacked ++ (s.bundle n).dir0.waiting = []) (hdir1 : (s.bundle n).dir1.unacked ++ (s.bundle n).dir1.waiting = []) :
    ((s.fenceBundle n).bundle n).state = 2 ∧ ((s.fenceBundle n).bundle n).dir0.unacked = [] ∧ ((s.fenceBundle n).bundle n).dir1.unacked = [] ∧
    ∀ m, m ≠ n → ((s.fenceBundle n).bundle m).state = (s.bundle m).state ∧ ((s.fenceBundle n).bundle m).dir0.unacked = (s.bundle m).dir0.unacked ∧
      ((s.fenceBundle n).bundle m).dir1.unacked = (s.bundle m).dir1.unacked := by
  have hset : ∀ x : Bundle, ∀ m, ((s.setBundle n x).bundle m) = if m = n then x else s.bundle m := fun x m => setBundle_bundle s n x m
  have hover := fun x : Bundle => (unacked_keptByReports (fun m => if m = n then x.state else (s.bundle m).state)
    (fun m => if m = n then x.dir0.unacked else (s.bundle m).dir0.unacked) (fun m => if m = n then x.dir1.unacked else (s.bundle m).dir1.unacked)).handover_empty hdir1
      ((unacked_keptByReports _ _ _).handover_empty hdir0 (s := s.setBundle n x) (fun m => by rw [hset]; split <;> exact ⟨rfl, rfl, rfl⟩) n 0) n 1
  have hrecords : ∀ t : State, ∀ m, ((t.unitRecord 7 (bundleUnit n) []).unitRecord 8 (bundleUnit n) []).bundle m = t.bundle m := fun t m => by
    rw [State.bundle, unitRecord_d2d, unitRecord_d2d, State.bundle]
  unfold State.fenceBundle
  dsimp only
  rw [if_neg (by simp [hup]), if_neg (by simp [hcuts])]
  simp only [hrecords]
  have hfenced := hover { s.bundle n with state := 2, dir0 := {}, dir1 := {} }
  obtain ⟨hstate, hempty0, hempty1⟩ := hfenced n
  refine ⟨hstate.trans (if_pos rfl), hempty0.trans (if_pos rfl), hempty1.trans (if_pos rfl), fun m hm => ?_⟩
  obtain ⟨hstate, hempty0, hempty1⟩ := hfenced m
  exact ⟨hstate.trans (if_neg hm), hempty0.trans (if_neg hm), hempty1.trans (if_neg hm)⟩

theorem d2dFence_unit (hn : n < 160) : (BitVec.ofNat 32 (2 ^ 31 + n)).toNat % 256 = n ∧ (BitVec.ofNat 32 (2 ^ 31 + n)).getLsbD 31 = true := by
  refine ⟨by rw [BitVec.toNat_ofNat]; omega, ?_⟩
  rw [BitVec.getLsbD_ofNat, Nat.testBit_two_pow_add_eq, Nat.testBit_lt_two_pow (by omega)]
  rfl

/-- Both commands fence the bundle. -/
theorem exec_fenceBundle (hn : n < 160) {c : Instr} (hc : c = .bundleFence n ∨
    (s.regOpen 0 = true ∧ s.drains = [] ∧ s.cutsDie n = false ∧ c = .d2dFence 0 (BitVec.ofNat 32 (2 ^ 31 + n)))) : exec c s = .next (s.fenceBundle n) := by
  rcases hc with rfl | ⟨hopen, hdrains, hcuts, rfl⟩
  · have hexec : exec (.bundleFence n) s = execBundleFence n s := rfl
    rw [hexec, execBundleFence, onUnit, if_pos (decide_eq_true hn)]
  · obtain ⟨hunit, hgo⟩ := d2dFence_unit hn
    have hexec : exec (.d2dFence 0 (BitVec.ofNat 32 (2 ^ 31 + n))) s = execD2dFence 0 (BitVec.ofNat 32 (2 ^ 31 + n)) s := rfl
    rw [hexec, execD2dFence, hunit, hgo]
    dsimp only
    rw [if_neg (by simp [hopen, hn]), if_neg (by simp [hcuts]), State.fenceInTurn, hdrains]
    rfl

theorem exec_d2dFence_refused (hn : n < 160) (hup : (s.bundle n).state = 0) (hcuts : s.cutsDie n = true) (hopen : s.regOpen 0 = true) :
    exec (.d2dFence 0 (BitVec.ofNat 32 (2 ^ 31 + n))) s = .next (s.fenceRefused (bundleUnit n)) := by
  obtain ⟨hunit, hgo⟩ := d2dFence_unit hn
  have hexec : exec (.d2dFence 0 (BitVec.ofNat 32 (2 ^ 31 + n))) s = execD2dFence 0 (BitVec.ofNat 32 (2 ^ 31 + n)) s := rfl
  rw [hexec, execD2dFence, hunit, hgo]
  dsimp only
  rw [if_neg (by simp [hopen, hn]), if_pos (by simp [hup, hcuts])]

/-! ## Segments of a bridge (R403, R408) -/

theorem segs_getLsbD (s : State) (die : Nat) {i : Nat} (hi : i < 16) : (s.segs die).getLsbD i = decide ((s.bundle (160 + 16 * die + i)).state = 0) := by
  rw [State.segs, BitVec.getLsbD_ofNat, maskOf_testBit, decide_eq_true hi, Bool.true_and]
  simp [hi]

/-- The segments in use where one of them leaves. -/
theorem segs_without {t : State} {die seg : Nat}
    (ht : ∀ m, (t.bundle m).state = if m = 160 + 16 * die + seg then 2 else (s.bundle m).state) :
    t.segs die = s.segs die &&& ~~~(BitVec.ofNat 16 (1 <<< seg)) := by
  refine BitVec.eq_of_getLsbD_eq fun i hi => ?_
  rw [segs_getLsbD t die hi, ht, BitVec.getLsbD_and, segs_getLsbD s die hi, BitVec.getLsbD_not, BitVec.getLsbD_ofNat, Nat.one_shiftLeft, Nat.testBit_two_pow]
  by_cases his : i = seg
  · simp [his]
  · simp [hi, his, Ne.symm his]

/-- A bridge fenced leaves the states of its segments. -/
theorem fenceBridge_leaves {die : Nat} (hdie : die < 4) : (∀ m, ((s.fenceBridge die).bundle m).state = (s.bundle m).state) ∧
    (s.fenceBridge die).d2d.bridgeFenced.getLsbD die = true := by
  unfold State.fenceBridge
  split
  · exact ⟨fun _ => rfl, ‹_›⟩
  · have hbit : (s.d2d.bridgeFenced ||| BitVec.ofNat 4 (1 <<< die)).getLsbD die = true := by
      rw [BitVec.getLsbD_or, BitVec.getLsbD_ofNat, Nat.one_shiftLeft, Nat.testBit_two_pow_self, decide_eq_true hdie]
      exact Bool.or_true _
    have hkept := hasStates_keptByEddies (fun m => (s.bundle m).state) (s.d2d.bridgeFenced ||| BitVec.ofNat 4 (1 <<< die))
    have hempty : ∀ {t : State} {g : Nat → BitVec 2} {k : BitVec 4} (n : Nat) (f : Bundle → Bundle), (∀ b, (f b).state = b.state) → t.HasStates g k →
        (t.updBundle n f).HasStates g k := fun n f hf ht => ⟨fun m => (setBundle_bundle_keeps Bundle.state (hf _) m).trans (ht.1 m), ht.2⟩
    have hmarked : ({ s with d2d := { s.d2d with bridgeFenced := s.d2d.bridgeFenced ||| BitVec.ofNat 4 (1 <<< die) } } : State).HasStates
        (fun m => (s.bundle m).state) (s.d2d.bridgeFenced ||| BitVec.ofNat 4 (1 <<< die)) := ⟨fun _ => rfl, rfl⟩
    have hmoved := fun left : List Nat => List.foldlRecOn (left.map fun n => (n, s.bundle n))
      (fun (s : State) e => (s.handover e.1 0 e.2.dir0).handover e.1 1 e.2.dir1)
      (List.foldlRecOn left (fun (s : State) n => s.updBundle n (fun b => { b with dir0 := {}, dir1 := {} })) hmarked
        fun _ ht n _ => hempty n _ (fun _ => rfl) ht)
      fun _ ht e _ => hkept.handover (hkept.handover ht _ _ _) _ _ _
    obtain ⟨hstates, hfenced⟩ := hmoved (s.segments die)
    have hd2d : ∀ {t u : State}, t.d2d = u.d2d → ((∀ m, (u.bundle m).state = (s.bundle m).state) ∧ u.d2d.bridgeFenced.getLsbD die = true) →
        (∀ m, (t.bundle m).state = (s.bundle m).state) ∧ t.d2d.bridgeFenced.getLsbD die = true := fun e h => by
      simp only [State.bundle, e] at h ⊢
      exact h
    dsimp only
    refine hd2d (u := List.foldl _ (List.foldl _ _ _) _) ?_ ⟨hstates, by rw [hfenced]; exact hbit⟩
    split
    · rw [packageFatal_d2d, unitRecord_d2d, unitRecord_d2d]
    · rw [unitRecord_d2d, unitRecord_d2d]

/-- A segment in use fenced: its bit of SEGS clears, and with fewer than eight left its bridge is fenced. -/
theorem fenceSegment_leaves {die seg : Nat} (hdie : die < 4) (hup : (s.bundle (160 + 16 * die + seg)).state = 0) {left : BitVec 16}
    (hleft : left = s.segs die &&& ~~~(BitVec.ofNat 16 (1 <<< seg))) : (s.fenceSegment die seg).segs die = left ∧
      (popc 16 left.toNat < 8 → (s.fenceSegment die seg).d2d.bridgeFenced.getLsbD die = true) ∧
      (8 ≤ popc 16 left.toNat → (s.fenceSegment die seg).d2d.bridgeFenced = s.d2d.bridgeFenced) := by
  have hkept := hasStates_keptByEddies (fun m => if m = 160 + 16 * die + seg then 2 else (s.bundle m).state) s.d2d.bridgeFenced
  have hset : ∀ x : Bundle, x.state = 2 → (s.setBundle (160 + 16 * die + seg) x).HasStates
      (fun m => if m = 160 + 16 * die + seg then 2 else (s.bundle m).state) s.d2d.bridgeFenced :=
    fun x hx => ⟨fun m => by
      rw [setBundle_bundle, apply_ite Bundle.state, hx], rfl⟩
  have hmoved := hkept.handover (hkept.handover (hset { s.bundle (160 + 16 * die + seg) with state := 2, dir0 := {}, dir1 := {} } rfl)
    (160 + 16 * die + seg) 0 (s.bundle (160 + 16 * die + seg)).dir0) (160 + 16 * die + seg) 1 (s.bundle (160 + 16 * die + seg)).dir1
  unfold State.fenceSegment
  dsimp only
  rw [if_neg (by simp [hup])]
  obtain ⟨hstates, hbridge⟩ := hmoved
  have hsegs := (segs_without hstates).trans hleft.symm
  rw [hsegs]
  split
  · rename_i hfew
    obtain ⟨hsame, hfenced⟩ := fenceBridge_leaves hdie (s := State.handover _ _ 1 _)
    refine ⟨?_, fun _ => hfenced, fun hmany => absurd hfew (by omega)⟩
    exact (segs_without fun m => (hsame m).trans (hstates m)).trans hleft.symm
  · exact ⟨hsegs, fun hfew => absurd hfew ‹_›, fun _ => hbridge⟩

/-! ## Flits received (R395, R396) -/

/-- A clean flit: its acknowledgement comes first. -/
theorem exec_eddyFlit_clean (hn : n < 160) (hd : d < 2) (hup : (s.bundle n).state = 0) (hrails : s.board.rails = true) {gs : List (BitVec 144)}
    {fl tl : List (BitVec 128 × Bool)} {h : BitVec 128} (hdecode : decodeFlit gs = (some fl, [])) (hlen : gs.length = 16) (hfl : fl = (h, false) :: tl)
    (hnak : bit h.toNat 26 = false) : ∃ u : State, ((u.bundle n).dir d).rxExpected = ((s.bundle n).dir d).rxExpected ∧ u.mem = s.mem ∧
      (bit h.toNat 15 = true → tl.getD 0 (0, false) ≠ (0, false) → exec (.eddyFlit n d gs) s = .next (u.send (.eddyControl n d (tl.getD 0 (0, false))))) ∧
      (bit h.toNat 15 = false → BitVec.ofNat 10 h.toNat = ((s.bundle n).dir d).rxExpected → ∃ t : State,
        exec (.eddyFlit n d gs) s = .next (t.send (.eddyDeliver n d (fld h.toNat 10 2) (fld h.toNat 48 4) tl)) ∧
        ((t.bundle n).dir d).rxExpected = ((s.bundle n).dir d).rxExpected + 1 ∧ t.mem = s.mem) := by
  have hexec : exec (.eddyFlit n d gs) s = execEddyFlit n d gs s := rfl
  have hcorr : ∀ f : Bundle → Bundle, (∀ b, (f b).dir d = b.dir d) → (((s.updBundle n f).bundle n).dir d).rxExpected = ((s.bundle n).dir d).rxExpected :=
    fun f hf => congrArg EddyDir.rxExpected (setBundle_bundle_keeps (fun b => b.dir d) (hf _) n)
  have hacked := fun ack cvc ccnt => (rxExpected_keptByEddies n d ((s.bundle n).dir d).rxExpected s.mem).applyEddyAck (n := n) (d := 1 - d) (hnak := hnak)
    (s := s.updBundle n fun b => { b with corr := sat16 b.corr 0 }) (ack := ack) (cvc := cvc) (ccnt := ccnt) ⟨hcorr _ fun _ => rfl, rfl⟩
  rw [hexec, execEddyFlit, onUnit, if_pos (by simp; omega), if_neg (by simp [hup, hrails]), hdecode]
  dsimp only
  rw [if_pos hlen, hfl]
  dsimp only [List.headD_cons, List.foldl_nil, List.length_nil]
  refine ⟨_, (hacked _ _ _).1, (hacked _ _ _).2, fun hctl hm => congrArg Host.Outcome.next ((if_pos hctl).trans (if_neg hm)), fun hctl hnum =>
    ⟨_, congrArg Host.Outcome.next ((if_neg (by simp [hctl])).trans (if_pos ?_)), ?_⟩⟩
  · rw [(hacked _ _ _).1, hnum, BitVec.sub_self]
    rfl
  · have hset : ∀ {t : State} (x : EddyDir), t.mem = s.mem → x.rxExpected = ((s.bundle n).dir d).rxExpected + 1 →
        (((t.setBundle n ((t.bundle n).setDir d x)).bundle n).dir d).rxExpected = ((s.bundle n).dir d).rxExpected + 1 ∧
          (t.setBundle n ((t.bundle n).setDir d x)).mem = s.mem := fun x ht hx => by
      rw [setBundle_bundle, if_pos rfl, setDir_dir_same]
      exact ⟨hx, ht⟩
    have hnext := fun (sinceAck : Nat) (owed : NMap Nat) (u : State) hu hmem => hset (t := u)
      { (u.bundle n).dir d with rxExpected := ((u.bundle n).dir d).rxExpected + 1, nakSent := false, sinceAck, owed } hmem (congrArg (· + 1) hu)
    exact iteInduction (motive := fun t : State => ((t.bundle n).dir d).rxExpected = ((s.bundle n).dir d).rxExpected + 1 ∧ t.mem = s.mem)
      (fun _ => (rxExpected_keptByEddies n d _ s.mem).reports.reportEddy (hnext _ _ _ (hacked _ _ _).1 (hacked _ _ _).2) n d false)
      fun _ => hnext _ _ _ (hacked _ _ _).1 (hacked _ _ _).2

/-- Settles O46: a flit by what its acknowledgement leaves, fences by what handovers leave, the timers by their equations. -/
theorem dieToDie : Obligations.DieToDie := by
  unfold Obligations.DieToDie
  intro s n d b hn hd hb
  subst hb
  have hport : (24 + 2 * n + d - 24) / 2 = n ∧ (24 + 2 * n + d) % 2 = d ∧ ¬24 + 2 * n + d < 24 ∧ 24 + 2 * n + d < 472 := by omega
  obtain ⟨hnum, hdir, hbundle, hrange⟩ := hport
  refine ⟨fun gs fl h tl hup hrails hdecode hlen hfl hctl hnak hexpected => ?data, fun gs fl h m tl hup hrails hdecode hlen hfl hctl hnak hm => ?control,
    fun gs hup hrails hdecode => ?lost, fun hup hcuts hdir0 hdir1 c hc => ⟨_, exec_fenceBundle hn ?commands, fenceBundle_empty hup hcuts hdir0 hdir1⟩,
    fun c hc => exec_fenceBundle hn hc, fun hup hcuts hopen => exec_d2dFence_refused hn hup hcuts hopen,
    fun die seg left hdie hseg hup hleft => ⟨_, ?segment, fenceSegment_leaves hdie hup hleft⟩, fun q qs hq hup hlate => ?replay, fun hup => ?report⟩
  case data =>
    obtain ⟨u, -, -, -, hdata⟩ := exec_eddyFlit_clean hn hd hup hrails hdecode hlen hfl hnak
    obtain ⟨t, hexec, hnext, hmem⟩ := hdata hctl hexpected
    exact ⟨_, hexec, hnext, List.mem_append_right _ List.mem_cons_self, hmem⟩
  case control =>
    obtain ⟨u, hkept, hmem, hcontrol, -⟩ := exec_eddyFlit_clean hn hd hup hrails hdecode hlen hfl hnak
    exact ⟨_, hcontrol hctl hm, hkept, List.mem_append_right _ List.mem_cons_self, hmem⟩
  case lost =>
    have hexec : exec (.eddyFlit n d gs) s = execEddyFlit n d gs s := rfl
    rw [hexec, execEddyFlit, onUnit, if_pos (by simp; omega), if_neg (by simp [hup, hrails]), hdecode]
    dsimp only
    rw [ite_self]
    rfl
  case commands => exact hc.imp_right fun ⟨hopen, hdrains, hd2d⟩ => ⟨hopen, hdrains, hcuts, hd2d⟩
  case segment =>
    have hexec : exec (.bridgeSegmentFence die seg) s = execBridgeSegmentFence die seg s := rfl
    rw [hexec, execBridgeSegmentFence, onUnit, if_pos (by simp [hdie, hseg])]
  case replay =>
    have hexec : exec (.replayTimeout (24 + 2 * n + d)) s = execReplayTimeout (24 + 2 * n + d) s := rfl
    rw [hexec, execReplayTimeout, onUnit, if_pos (decide_eq_true hrange), if_neg hbundle, hnum, hdir]
    dsimp only
    rw [hq]
    dsimp only
    rw [if_neg (by simp [hup, hlate])]
  case report =>
    have hexec : exec (.ackReportTimer (24 + 2 * n + d)) s = execAckReportTimer (24 + 2 * n + d) s := rfl
    rw [hexec, execAckReportTimer, onUnit, if_pos (decide_eq_true hrange), if_neg hbundle, hnum, hdir]
    exact congrArg _ (if_neg (by simp [hup]))

end Sys2Proof.Machine
end

section
/-! SUPPORT. Links that train, change their width and go down: what a control flit leaves of a link, and what a link that is down keeps (R369 to
R378, R389, R439). -/

namespace Sys2Proof.Machine
open Sys2Proof

variable {s t : State} {l j : Nat} {k : Link}

theorem onLink (hl : l < 24) (t : State) : onUnit (l < 24) t = .next t := if_pos (decide_eq_true hl)

/-! ## Flits sent (R368, R370 to R372) -/

theorem setLink_same (s : State) (l : Nat) (k : Link) : (s.setLink l k).link l = k := by rw [setLink_link, if_pos rfl]

theorem setLink_other (s : State) (k : Link) (h : j ≠ l) : (s.setLink l k).link j = s.link j := by rw [setLink_link, if_neg h]

/-- A link without what a control flit changes of it: the credits it owes, the flits since its last report, the bits of its codeword. -/
def Link.quiet (k : Link) : Link := { k with owed := [], sinceAck := 0, txBits := 0, txFill := 0 }

theorem eq_of_quiet {x k : Link} (h : x.quiet = k.quiet) : ∃ o a b f, x = { k with owed := o, sinceAck := a, txBits := b, txFill := f } := by
  refine ⟨x.owed, x.sinceAck, x.txBits, x.txFill, ?_⟩
  calc x = { x.quiet with owed := x.owed, sinceAck := x.sinceAck, txBits := x.txBits, txFill := x.txFill } := rfl
    _ = { k.quiet with owed := x.owed, sinceAck := x.sinceAck, txBits := x.txBits, txFill := x.txFill } := by rw [h]

/-- What a link sends with a flit: the flit, and a codeword where it is full. -/
def Link.emitted (k : Link) (l head : Nat) (nak : Bool) (first : Nat) (body : List Byte) : List OutMsg :=
  let (cvc, ccnt) := (k.owed.find? (fun e => e.2 ≠ 0)).getD (0, 0)
  let f := flitBytes head ((k.rxExpected - 1).toNat + 4096 * b2n nak) cvc ccnt first body
  .flit l f :: if k.txFill + 2048 < 5140 then [] else [.codeword l (stripe k.active (codewordOf (k.txBits + ofLe f * 2 ^ k.txFill)))]

theorem emit_link_quiet (s : State) (l head : Nat) (nak : Bool) (first : Nat) (body : List Byte) :
    ((s.emit l head nak first body).link l).quiet = (s.link l).quiet := by
  have hput : ∀ (t : State) (f : List Byte), ((t.putBits l f).link l).quiet = (t.link l).quiet := fun t f => by
    unfold State.putBits
    dsimp only
    split
    · rw [setLink_same]
      rfl
    · rw [send_link, setLink_same]
      rfl
  unfold State.emit
  dsimp only
  rw [hput, send_link, setLink_same]
  rfl

theorem emit_link_other (s : State) (h : j ≠ l) (head : Nat) (nak : Bool) (first : Nat) (body : List Byte) :
    (s.emit l head nak first body).link j = s.link j := by
  have hput : ∀ (t : State) (f : List Byte), (t.putBits l f).link j = t.link j := fun t f => by
    unfold State.putBits
    dsimp only
    split
    · exact setLink_other _ _ h
    · exact setLink_other _ _ h
  unfold State.emit
  dsimp only
  rw [hput]
  exact setLink_other _ _ h

theorem emit_out (s : State) (l head : Nat) (nak : Bool) (first : Nat) (body : List Byte) :
    (s.emit l head nak first body).out = s.out ++ (s.link l).emitted l head nak first body := by
  unfold State.emit State.putBits Link.emitted
  dsimp only
  rw [send_link, setLink_same]
  dsimp only
  split
  · rfl
  · exact List.append_assoc _ _ _

theorem emitted_cons (k : Link) (l head : Nat) (nak : Bool) (first : Nat) (body : List Byte) :
    ∃ f c, k.emitted l head nak first body = .flit l f :: c ∧ c.length ≤ 1 := by
  refine ⟨_, _, rfl, ?_⟩
  split
  · exact Nat.zero_le 1
  · exact Nat.le_refl 1

/-! ## Widths (R369, R372, R377) -/

theorem widest_lt (m : Nat) : widest m < 16 := by
  unfold widest
  split_ifs with _ _ _ hnone
  · decide
  · decide
  · decide
  · decide
  · have hfirst : firstBit 4 m ≤ 3 := by
      unfold firstBit
      cases hfind : (List.range 4).find? (fun i => m.testBit i) with
      | some i =>
        have hi := List.mem_range.1 (List.mem_of_find?_eq_some hfind)
        exact Nat.le_of_lt_succ hi
      | none =>
        have hzero : m % 2 ^ 4 = 0 := Nat.eq_of_testBit_eq fun i => by
          rw [Nat.testBit_mod_two_pow, Nat.zero_testBit]
          by_cases hi : i < 4
          · have hbit := List.find?_eq_none.1 hfind i (List.mem_range.2 hi)
            simpa using fun _ => hbit
          · simp [hi]
        exact absurd hzero hnone
    calc 2 ^ firstBit 4 m ≤ 2 ^ 3 := Nat.pow_le_pow_right (by decide) hfirst
      _ < 16 := by decide

/-- A control flit of a link that has just been set. -/
theorem sendControl_setLink (s : State) (l : Nat) (k : Link) (nak : Bool) (ms : List (List Byte)) :
    (((s.setLink l k).sendControl l nak ms).link l).quiet = k.quiet := by
  rw [State.sendControl, emit_link_quiet, setLink_same]

theorem askWidth_leaves (m : Nat) (hm : (s.link l).good.toNat ≠ m) : ((s.askWidth l m).link l).asked = some (BitVec.ofNat 4 m) ∧
    ((s.askWidth l m).link l).good = (s.link l).good ∧ ((s.askWidth l m).link l).state = (s.link l).state ∧
    ∃ f c, (s.askWidth l m).out = s.out ++ .flit l f :: c ∧ c.length ≤ 1 := by
  rw [State.askWidth, if_neg hm, State.updLink]
  obtain ⟨_, _, _, _, hlink⟩ := eq_of_quiet (sendControl_setLink s l { s.link l with asked := some (BitVec.ofNat 4 m) } false [widthMessage m])
  obtain ⟨f, c, hf, hc⟩ := emitted_cons { s.link l with asked := some (BitVec.ofNat 4 m) } l (2 ^ 15) false 0 [widthMessage m].flatten
  rw [hlink]
  refine ⟨rfl, rfl, rfl, f, c, ?_, hc⟩
  rw [State.sendControl, emit_out, setLink_same, hf]
  rfl

theorem askWidth_fenced (s : State) (l m : Nat) : ((s.askWidth l m).link l).fenced = (s.link l).fenced := by
  obtain ⟨_, _, _, _, hlink⟩ := eq_of_quiet (sendControl_setLink s l { s.link l with asked := some (BitVec.ofNat 4 m) } false [widthMessage m])
  unfold State.askWidth
  split
  · rfl
  · rw [State.updLink, hlink]

theorem nextLane_fenced (l : Nat) (lanes : List Nat) : ((s.nextLane l lanes).link l).fenced = (s.link l).fenced := by
  induction lanes with
  | nil => rfl
  | cons lane rest ih =>
    unfold State.nextLane
    dsimp only
    split
    · exact ih
    · rw [askWidth_fenced, setLink_same]

/-! ## Records leave the links -/

theorem unitRecord_ael (s : State) (code : Nat) (u : BitVec 32) (dests : List Nat) : (s.unitRecord code u dests).ael = s.ael := by
  obtain ⟨_, _, _, _, _, hrecords⟩ := (RecordsOnly.refl s).errRecord code 0 u (errDetail 0 0xFF 0 0x80 0) (0 :: dests)
  rw [State.unitRecord, hrecords]

theorem unitRecord_link (s : State) (code : Nat) (u : BitVec 32) (dests : List Nat) (j : Nat) : (s.unitRecord code u dests).link j = s.link j := by
  rw [State.link, unitRecord_ael, State.link]

theorem event_link (s : State) (i : Nat) (r : Record) (j : Nat) : (s.event i r).link j = s.link j := by
  obtain ⟨_, _, _, _, _, hrecords⟩ := (RecordsOnly.refl s).event i r
  rw [hrecords]
  rfl

theorem eventTo_link (s : State) (dests : List Nat) (r : Record) (j : Nat) : (s.eventTo dests r).link j = s.link j :=
  List.foldlRecOn (motive := fun t : State => t.link j = s.link j) dests _ rfl fun t ht i _ => (event_link t i r j).trans ht

theorem laneDone_fenced (s : State) (l lane : Nat) (good : Bool) : ((s.laneDone l lane good).link l).fenced = (s.link l).fenced := by
  have hnext : ∀ (t : State) (lanes : List Nat), ((if (t.nextLane l lanes).bist.left = [] then
      (t.nextLane l lanes).askWidth l (widest ((t.nextLane l lanes).link l).sound) else t.nextLane l lanes).link l).fenced = (t.link l).fenced :=
    fun t lanes => by
      split
      · exact (askWidth_fenced _ l _).trans (nextLane_fenced l lanes)
      · exact nextLane_fenced l lanes
  unfold State.laneDone
  split
  · cases good
    · exact hnext { s with bist := { s.bist with fails := _, failmap := _ } } _
    · exact hnext s _
  · rw [unitRecord_link]
    exact askWidth_fenced s l _

/-! ## Links that go down (R378, R389, R439) -/

/-- A link that is down and has nothing waiting stays as it is while others send. -/
theorem link_keptByRerouting (hdown : k.state ≠ 2) : KeptByRerouting (fun t => t.link l = k) fun j => j ≠ l where
  send _ h := h
  deliver _ h := h
  setLink hj _ h := (setLink_other _ _ (Ne.symm hj)).trans h
  up h hup hj := by
    subst hj
    rw [State.linkUp, h, Bool.and_eq_true_iff] at hup
    exact hdown (of_decide_eq_true hup.1)
  eddies h e := by obtain ⟨_, _, rfl⟩ := e; exact h
  outst _ h := h

theorem failColl_link (s : State) (c j : Nat) : (s.failColl c).link j = s.link j := by
  unfold State.failColl
  dsimp only
  split
  · rfl
  · exact eventTo_link _ _ _ j

theorem failCut_link (s : State) (j : Nat) : s.failCut.link j = s.link j := by
  refine List.foldlRecOn (motive := fun t : State => t.link j = s.link j) _ _ rfl fun t ht c _ => ?_
  split
  · exact ht
  · exact iteInduction (motive := fun t : State => t.link j = s.link j) (fun _ => ht) fun _ => (failColl_link t c j).trans ht

theorem loseCadence_link (s : State) (down : Bool) (j : Nat) : (s.loseCadence down).link j = s.link j := by
  unfold State.loseCadence
  dsimp only
  split
  · rfl
  · exact eventTo_link _ _ _ j

/-- The link of a neighbour gone: emptied, narrowed, out of service, with the time. -/
theorem linkDown_link (hup : (s.link l).state = 2) : ∃ k : Link, (s.linkDown l).link l = k ∧ k.state = (if s.ael.en.getLsbD l then 0 else 3) ∧
    k.txBuf = [] ∧ k.waiting = [] ∧ k.width = 0 ∧ k.downAt = some s.clock.now := by
  have hdown : ∀ k : Link, k.state = (if s.ael.en.getLsbD l then 0 else 3) → k.waiting = [] → ∀ (lost : List Packet) (ws : List Queued),
      ((lost.foldl (fun (s : State) p => (s.route none 0 (s.rejectOf p 0x0302)).2) ((s.setLink l k).unitRecord 7 (linkUnit l) [])).rerouteAll l ws).link l = k :=
    fun k hk hidle lost ws => by
      have hkept : KeptByRerouting (fun t => t.link l = k) fun j => j ≠ l := link_keptByRerouting (by rw [hk]; split <;> decide)
      refine hkept.rerouteAll l (fun {u} {j} hu => ?_) (hkept.rejectAll ?_ _ _) ws
      · by_cases hj : j = l
        · exact .inr (by rw [hj, hu, hidle])
        · exact .inl hj
      · rw [unitRecord_link, setLink_same]
  have hlost : ∀ {u : State} {k : Link} (c : Bool), u.link l = k → (if c then u.loseCadence true else u).link l = k := fun {u k} c hu => by
    cases c
    · exact hu
    · exact (loseCadence_link u true l).trans hu
  unfold State.linkDown
  dsimp only
  rw [if_neg (by simp [hup]), failCut_link]
  refine ⟨_, hlost _ (hdown _ ?_ ?_ _ _), ?_⟩
  · rfl
  · rfl
  · exact ⟨rfl, rfl, rfl, rfl, rfl⟩

/-! ## Training (R369, R375) -/

theorem grants_at {n v : Nat} (h : v < n) (c : Nat) : NMap.at (if c = 0 then [] else (List.range n).map (fun v => (v, c))) v 0 = c := by
  have hfind : ∀ vs : List Nat, v ∈ vs → NMap.find (vs.map fun v => (v, c)) v = some c := by
    intro vs
    induction vs with
    | nil => intro hv; cases hv
    | cons w vs ih =>
      intro hv
      rw [List.map_cons, NMap.find]
      split
      · rfl
      · exact ih ((List.mem_cons.1 hv).resolve_left (Ne.symm ‹_›))
  split
  · exact (‹c = 0›).symm
  · rw [NMap.at, hfind _ (List.mem_range.2 h)]
    rfl

theorem train_link {lanes m cr : Nat} {peer : BitVec 12} (hm : m = widest (lanes &&& (15 - (s.link l).fenced.toNat))) (hsome : m ≠ 0) :
    (∀ j, j ≠ l → (s.train l lanes peer cr).link j = s.link j) ∧ ∃ k : Link, (s.train l lanes peer cr).link l = k ∧ k.state = 2 ∧
      k.good = BitVec.ofNat 4 m ∧ k.width = BitVec.ofNat 2 (widthCode m) ∧ k.peer = peer ∧ k.txNext = 0 ∧ k.rxExpected = 0 ∧ k.txBuf = [] ∧
      k.credits = if cr = 0 then [] else (List.range 5).map fun v => (v, cr) := by
  have htold : ∀ (t : State) (back : Bool) (j : Nat), (if back then t.unitRecord 8 (linkUnit l) [] else t).link j = t.link j := fun t back j => by
    cases back
    · rfl
    · exact unitRecord_link t _ _ _ j
  subst hm
  unfold State.train
  dsimp only
  rw [if_neg hsome]
  simp only [htold]
  refine ⟨fun j hj => by rw [State.sendControl, emit_link_other _ hj, setLink_other _ _ hj], ?_⟩
  obtain ⟨o, a, b, f, hlink⟩ := eq_of_quiet (sendControl_setLink s l _ false ((List.range 5).map fun vc => grantMessage vc 64))
  exact ⟨_, hlink, rfl, rfl, rfl, rfl, rfl, rfl, rfl, rfl⟩

/-- Settles O41: each command by its case, with what control flits, records and rerouting leave of the link. -/
theorem linkStates : Obligations.LinkStates := by
  unfold Obligations.LinkStates
  intro s l k hl hk
  subst hk
  refine ⟨fun hen hdown hnew hrails htrain => ?retry, fun lanes peer cr m hen hdown hnew hrails hm hsome => ?trained,
    fun mask hup hwide hmask hsound => ⟨fun hnone => ?request, fun a m hasked hm hsome => ?answer⟩, fun m t ht => ?width,
    fun lane m k' hlane hup hsound hused hk' hm => ⟨fun hsome => ?failed, fun hnone => ?lastFailed⟩, fun m t hup hm ht => ?ask,
    fun lane n k' hlane hup hn hk' => ?retrained, fun hup c hc => ?down, fun a ha hdown hnew hlate => ?reported⟩
  case retry => exact (onLink hl _).trans (congrArg _ (if_neg (by simpa [hen, hnew, hrails, htrain] using hdown)))
  case trained =>
    obtain ⟨hothers, k, hlink, hstate, hgood, hwidth, hpeer, hnext, hexpected, hbuf, hcredits⟩ :=
      train_link (s := s) (l := l) (cr := cr) (peer := peer) hm hsome
    have hexec : exec (.linkTrained l lanes peer cr) s = .next (s.train l lanes.toNat peer cr) :=
      (onLink hl _).trans (congrArg _ (if_neg (by simpa [hen, hnew, hrails] using hdown)))
    refine ⟨_, hexec, ?_⟩
    rw [hlink]
    refine ⟨hstate, ?_, hwidth, hpeer, hnext, hexpected, hbuf, fun v hv => ?_, hothers⟩
    · rw [hgood, BitVec.toNat_ofNat]
      exact Nat.mod_eq_of_lt (hm ▸ widest_lt _)
    · rw [hcredits]
      exact grants_at hv cr
  case request =>
    have hexec : exec (.widthRequest l mask) s = execWidthRequest l mask s := rfl
    have hfree : mask.toNat &&& (s.link l).fenced.toNat = 0 := congrArg BitVec.toNat hsound
    rw [hexec, execWidthRequest, onLink hl, State.widthAsked]
    rw [if_neg (by simp [hup, hwide, hfree, BitVec.toNat_eq] at hmask ⊢; exact hmask), hnone]
  case answer =>
    have hexec : exec (.widthRequest l mask) s = execWidthRequest l mask s := rfl
    have hfree : mask.toNat &&& (s.link l).fenced.toNat = 0 := congrArg BitVec.toNat hsound
    subst hm
    rw [hexec, execWidthRequest, onLink hl, State.widthAsked]
    rw [if_neg (by simp [hup, hwide, hfree, BitVec.toNat_eq] at hmask ⊢; exact hmask), hasked]
    exact congrArg Host.Outcome.next (if_neg hsome)
  case width =>
    subst ht
    rw [State.setWidth, State.updLink, setLink_same]
    exact ⟨rfl, rfl, rfl, rfl, fun j hj => setLink_other _ _ hj⟩
  case failed =>
    have hexec : exec (.laneFailure l lane) s = execLaneFailure l lane s := rfl
    subst hk' hm
    rw [hexec, execLaneFailure, onUnit, if_pos (by simp [hl, hlane]), State.failLane]
    dsimp only
    rw [if_neg (by simp [hup, hsound]), if_neg (by simp [hused])]
    exact congrArg Host.Outcome.next (if_neg hsome)
  case lastFailed =>
    have hexec : exec (.laneFailure l lane) s = execLaneFailure l lane s := rfl
    have hdown : ∀ k : Link, k.state = 2 → ((((s.setLink l k).unitRecord 7 (linkUnit l) []).linkDown l).link l).state ≠ 2 := fun k hk => by
      obtain ⟨k', hlink, hstate, -⟩ := linkDown_link (s := (s.setLink l k).unitRecord 7 (linkUnit l) []) (l := l)
        (by rw [unitRecord_link, setLink_same]; exact hk)
      rw [hlink, hstate]
      split <;> decide
    subst hk' hm
    rw [hexec, execLaneFailure, onUnit, if_pos (by simp [hl, hlane]), State.failLane]
    dsimp only
    rw [if_neg (by simp [hup, hsound]), if_neg (by simp [hused])]
    exact ⟨_, congrArg Host.Outcome.next (if_pos hnone), hdown _ hup⟩
  case ask =>
    subst ht
    obtain ⟨hasked, hgood, hstate, hout⟩ := askWidth_leaves m hm
    exact ⟨hasked, hgood, hstate.trans hup, hout⟩
  case retrained =>
    have hexec : ∀ good, exec (.laneRetrained l lane good) s = execLaneRetrained l lane good s := fun _ => rfl
    have hcase : ∀ good, exec (.laneRetrained l lane good) s = .next (if good then (s.setLink l k').laneDone l lane true
        else if n + 1 ≥ 3 then (s.setLink l { k' with fenced := (s.link l).fenced ||| BitVec.ofNat 4 (1 <<< lane) }).laneDone l lane false
        else s.setLink l { s.link l with laneFails := NMap.ins (s.link l).laneFails lane (n + 1) }) := fun good => by
      subst hk'
      rw [hexec, execLaneRetrained, onUnit, if_pos (by simp [hl, hlane])]
      dsimp only
      rw [hn]
      exact congrArg Host.Outcome.next (if_neg (by simp [hup]))
    refine ⟨fun hidle => ?_, fun u htest hu => ?_, fun hmany => ⟨_, hcase false, ?_⟩, fun hfew => ⟨_, hcase false, ?_⟩⟩
    · have hidle : (s.setLink l k').testsLane l lane = false := hidle
      rw [hcase, if_pos rfl, State.laneDone, if_neg (by simp [hidle]), setLink_same]
    · have htest : (s.setLink l k').testsLane l lane = true := htest
      subst hu
      rw [hcase, if_pos rfl, State.laneDone, if_pos htest]
      rfl
    · rw [if_neg (by decide), if_pos (by omega), laneDone_fenced, setLink_same]
      dsimp only
      rw [BitVec.getLsbD_or, BitVec.getLsbD_ofNat, Nat.one_shiftLeft, Nat.testBit_two_pow_self, decide_eq_true hlane]
      exact Bool.or_true _
    · rw [if_neg (by decide), if_neg (by omega), setLink_same]
      exact (NMap_find_ins _ _ _ _).trans (if_pos rfl)
  case down =>
    obtain ⟨k, hlink, hstate, hbuf, hwaiting, hwidth, hat⟩ := linkDown_link hup
    have hexec : exec c s = .next (s.linkDown l) := by
      rcases hc with rfl | ⟨reason, rfl⟩
      · exact onLink hl _
      · exact onLink hl _
    rw [← hlink] at hstate hbuf hwaiting hwidth hat
    exact ⟨_, hexec, hstate, hbuf, hwaiting, hwidth, hat⟩
  case reported =>
    have hexec : exec (.linkReportedDown l) s = execLinkReportedDown l s := rfl
    rw [hexec, execLinkReportedDown, onLink hl]
    dsimp only
    rw [ha]
    dsimp only
    rw [if_neg (by simpa [hnew] using And.intro hdown hlate)]
    refine ⟨_, rfl, ?_⟩
    rw [unitRecord_link, event_link, setLink_same]
    exact ⟨rfl, rfl⟩

end Sys2Proof.Machine
end

section
/-! SUPPORT. Flits received, discarded and acknowledged, and packets at the routers (R370 to R383). -/

namespace Sys2Proof.Machine
open Sys2Proof

variable {s t : State} {l : Nat} {k : Link}

/-! ## Flits discarded (R373, R374) -/

/-- What a link sends does not depend on its place in the codeword it receives. -/
theorem emitted_rx (k : Link) (n : Nat) (bad : Bool) (l head : Nat) (nak : Bool) (first : Nat) (body : List Byte) :
    ({ k with rxFill := n, rxBad := bad } : Link).emitted l head nak first body = k.emitted l head nak first body := rfl

/-- A flit discarded: counted, and one NAK sent for a gap. -/
theorem discardFlit_leaves (s : State) (l : Nat) : (s.discardFlit l).out = s.out ++ (if (s.link l).nakSent then [] else
    (s.link l).emitted l (2 ^ 15) true 0 []) ∧ ∃ o a b f, (s.discardFlit l).link l =
      { s.link l with crc := sat16 (s.link l).crc 1, nakSent := true, owed := o, sinceAck := a, txBits := b, txFill := f } := by
  unfold State.discardFlit
  dsimp only
  split
  · rw [setLink_same]
    exact ⟨(List.append_nil _).symm, _, _, _, _, rfl⟩
  · obtain ⟨o, a, b, f, hlink⟩ := eq_of_quiet (sendControl_setLink s l { s.link l with crc := sat16 (s.link l).crc 1, nakSent := true } true [])
    refine ⟨?_, o, a, b, f, hlink⟩
    rw [State.sendControl, emit_out, setLink_same]
    rfl

/-- One uncorrectable codeword of 1 ms is counted and fails no lane (R377). -/
theorem uncorrectable_first (h : (s.link l).uncTimes = []) (errors : List Nat) : ∃ u, (s.uncorrectable l errors).link l =
    { s.link l with uncorr := sat16 (s.link l).uncorr 1, uncTimes := u } := by
  have hfew : ∀ (lane : Nat) (e : Nat × Nat) (p : Nat × Nat → Bool), ¬8 ≤ ((e :: [].filter p).filter (fun e => e.1 = lane)).length := fun lane e p h8 => by
    have hone : ((e :: [].filter p).filter (fun e => e.1 = lane)).length ≤ 1 := List.length_filter_le _ _
    omega
  unfold State.uncorrectable
  dsimp only
  rw [State.updLink, setLink_same, h, if_neg (hfew _ _ _), setLink_same]
  exact ⟨_, rfl⟩

/-! ## Flits accepted (R371, R373, R375) -/

/-- The receiving side of a link, whatever is sent. -/
theorem receiving_keptBySending (l : Nat) (k : Link) : KeptBySending (fun t => (t.link l).receiving = k) fun _ => True where
  send _ h := h
  deliver _ h := h
  setLink {s j x} _ hx h := by
    by_cases hj : l = j
    · subst hj
      rw [setLink_same, hx, h]
    · rw [setLink_other _ _ hj, h]
  up _ _ := trivial

/-- An acknowledgement leaves the receiving side. -/
theorem applyAck_receiving (s : State) (l : Nat) (ack : BitVec 12) (nak : Bool) (cvc ccnt : Nat) :
    ((s.applyAck l ack nak cvc ccnt).link l).receiving = (s.link l).receiving := by
  have hkept := receiving_keptBySending l (s.link l).receiving
  have hset : ∀ {t : State} (x : Link), x.receiving = (s.link l).receiving → ((t.setLink l x).link l).receiving = (s.link l).receiving :=
    fun x hx => by rw [setLink_same, hx]
  unfold State.applyAck
  dsimp only
  refine hkept.drainLink trivial _ ?_
  split
  · refine hkept.resendFlits trivial (hset _ ?_) _
    rw [setLink_same]
    rfl
  · exact hset _ rfl

theorem eq_of_receiving {x k : Link} (h : x.receiving = k.receiving) : x.rxExpected = k.rxExpected ∧ x.nakSent = k.nakSent ∧ x.crc = k.crc :=
  ⟨(congrArg Link.rxExpected h :), (congrArg Link.nakSent h :), (congrArg Link.crc h :)⟩

theorem takeBody_link (s : State) (l vc first : Nat) (body : List Byte) : ∃ a h o i, (s.takeBody l vc first body).link l =
    { s.link l with assembling := a, partHeld := h, owed := o, inbox := i } := by
  rw [State.takeBody, State.updLink, setLink_same]
  exact ⟨_, _, _, _, rfl⟩

/-- The body of an accepted flit, and the report that may follow it. -/
theorem takeBody_report (s : State) (l vc first : Nat) (body : List Byte) (x : Link) (report : Prop) [Decidable report] : ∃ k : Link,
    (if report then ((s.setLink l x).takeBody l vc first body).sendControl l false [] else (s.setLink l x).takeBody l vc first body).link l = k ∧
      k.rxExpected = x.rxExpected ∧ k.nakSent = x.nakSent ∧ k.crc = x.crc := by
  obtain ⟨_, _, _, _, hbody⟩ := takeBody_link (s.setLink l x) l vc first body
  rw [setLink_same] at hbody
  split
  · obtain ⟨_, _, _, _, hlink⟩ := eq_of_quiet ((emit_link_quiet _ l _ _ _ _).trans (congrArg Link.quiet hbody))
    exact ⟨_, hlink, rfl, rfl, rfl⟩
  · exact ⟨_, hbody, rfl, rfl, rfl⟩

/-- A data flit with the expected number is accepted: the number moves, and the gap is over. -/
theorem flitIn_accepted {f : List Byte} (hlen : f.length = 256) (hcrc : leAt f 252 4 = crc32 (f.take 252)) (hdata : bit (leAt f 0 2) 15 = false)
    (hvc : fld (leAt f 0 2) 12 3 ≤ 4) (hack : fld (leAt f 2 2) 13 3 = 0) (hcvc : bit (leAt f 4 2) 3 = false) (hfirst : fld (leAt f 6 1) 4 4 = 0)
    (hzero : leAt f 7 5 = 0) (hnum : BitVec.ofNat 12 (leAt f 0 2) = (s.link l).rxExpected) :
    ((s.flitIn l f).link l).rxExpected = (s.link l).rxExpected + 1 ∧ ((s.flitIn l f).link l).nakSent = false ∧
      ((s.flitIn l f).link l).crc = (s.link l).crc := by
  have hacked := applyAck_receiving s l (BitVec.ofNat 12 (leAt f 2 2)) (bit (leAt f 2 2) 12) (fld (leAt f 4 2) 0 3) (fld (leAt f 4 2) 4 12)
  generalize hu : s.applyAck l (BitVec.ofNat 12 (leAt f 2 2)) (bit (leAt f 2 2) 12) (fld (leAt f 4 2) 0 3) (fld (leAt f 4 2) 4 12) = u at hacked
  obtain ⟨hexpected, -, hcount⟩ := eq_of_receiving hacked
  unfold State.flitIn
  dsimp only
  rw [if_neg (by simp [hlen, hcrc, hdata, hvc, hack, hcvc, hfirst, hzero]), hu, if_neg (by simp [hdata]), if_pos (by rw [hnum, hexpected, BitVec.sub_self]; rfl)]
  obtain ⟨k, hlink, hnext, hnak, hsame⟩ := takeBody_report u l (fld (leAt f 0 2) 12 3) (leAt f 6 1 % 16) ((f.drop 12).take 240)
    { u.link l with rxExpected := (u.link l).rxExpected + 1, nakSent := false, sinceAck := (u.link l).sinceAck + 1 } ((u.link l).sinceAck + 1 ≥ 32)
  rw [hlink]
  exact ⟨hnext.trans (congrArg (· + 1) hexpected), hnak, hsame.trans hcount⟩

theorem flitIn_discarded {f : List Byte} (hcrc : leAt f 252 4 ≠ crc32 (f.take 252)) : s.flitIn l f = s.discardFlit l := by
  unfold State.flitIn
  dsimp only
  rw [if_pos (by simp [hcrc])]

/-- What a flit comes to on a link that is up, by whether its codewords are sound (R368). -/
theorem exec_flitReceived (hl : l < 24) (hk : k = s.link l) (hup : k.state = 2) {f : List Byte} {errors : List Nat} {begins bad lost : Bool}
    (hbegins : begins = decide (k.rxFill = 0 ∨ 5140 < k.rxFill + 2048))
    (hbad : bad = (begins && decide (15 < (errors.filter (fun j => j < 544)).eraseDups.length)))
    (hlost : lost = (bad || decide (k.rxFill ≠ 0) && k.rxBad)) : ∃ errs : List Nat, ∃ u : State,
      u = s.setLink l { k with rxFill := (k.rxFill + 2048) % 5140, rxBad := if begins then bad else k.rxBad } ∧
      exec (.flitReceived l ⟨f, errors⟩) s = .next (if !lost then u.flitIn l f else if bad then (u.discardFlit l).uncorrectable l errs else u.discardFlit l) := by
  have hexec : exec (.flitReceived l ⟨f, errors⟩) s = execFlitReceived l ⟨f, errors⟩ s := rfl
  subst hk
  rw [hexec, execFlitReceived, onLink hl]
  dsimp only
  rw [← Bool.decide_or, ← hbegins, ← hbad, ← hlost]
  exact ⟨_, _, rfl, congrArg Host.Outcome.next (if_neg (not_not.2 hup))⟩

/-! ## Packets at the routers (R379, R383) -/

theorem lifeCost_short {res : Nat} (h : res ≤ 4000) : lifeCost res = 1 := by unfold lifeCost; omega

/-- A unicast packet of this module with little time in its router. -/
theorem exec_packetRoute {p : Packet} {res : Nat} (hrails : s.board.rails = true) (hmc : p.mc = false) (hres : res ≤ 4000) :
    (1 ≤ p.life → p.dst = s.ael.id → exec (.packetRoute none res p) s = .next (s.deliver { p with life := p.life - 1 })) ∧
    (1 ≤ p.life → p.dst ≠ s.ael.id → ∀ q, s.port { p with life := p.life - 1 } = some q →
      exec (.packetRoute none res p) s = .next (s.sendOn q res { p with life := p.life - 1 })) ∧
    (p.life = 0 → exec (.packetRoute none res p) s =
      .next (if isRequest p.opc.toNat then (s.routeN 1 none 0 (s.rejectOf p 0x0303)).2 else s)) := by
  have hexec : exec (.packetRoute none res p) s = .next (s.routeN 2 none res p).2 := by
    have hroute : exec (.packetRoute none res p) s = execPacketRoute none res p s := rfl
    rw [hroute, execPacketRoute]
    dsimp only
    rw [if_neg (by simp [hrails])]
    rfl
  rw [hexec, State.routeN]
  dsimp only
  rw [lifeCost_short hres]
  refine ⟨fun hlife hdst => ?_, fun hlife hdst q hq => ?_, fun hlife => ?_⟩
  · rw [if_neg (by omega), if_neg (by simp [hmc]), if_pos hdst]
  · rw [if_neg (by omega), if_neg (by simp [hmc]), if_neg hdst, hq]
  · rw [if_pos (by omega)]

/-- Settles O42: a flit by what it leaves of the receiving side, the timers by their equations, a packet by its route. -/
theorem flitsAndRoutes : Obligations.FlitsAndRoutes := by
  unfold Obligations.FlitsAndRoutes
  intro s l k hl hk
  refine ⟨fun f errors begins bad lost hup hbegins hbad hlost => ?flit, fun f fs hbuf hup hlate => ?replay, fun hup => ?report, fun vc w hw => ?stall,
    fun p res hrails hmc hres => ?packet⟩
  case flit =>
    obtain ⟨errs, u, hu, hexec⟩ := exec_flitReceived hl hk hup (f := f) hbegins hbad hlost
    have hlink : u.link l = { k with rxFill := (k.rxFill + 2048) % 5140, rxBad := if begins then bad else k.rxBad } := by rw [hu, setLink_same]
    obtain ⟨hout, o, a, b, g, hdiscarded⟩ := discardFlit_leaves u l
    rw [hlink] at hdiscarded hout
    refine ⟨fun hsound hcrc => ⟨u.discardFlit l, ?_, ?_⟩, fun hsound hlen hcrc hdata hvc hack hcvc hfirst hzero hnum => ⟨u.flitIn l f, ?_, ?_⟩,
      fun hgone hnone => ⟨_, hexec, ?_⟩⟩
    · rw [hexec, hsound, if_pos Bool.not_false, flitIn_discarded hcrc]
    · have hnak : (({ s with out := [] } : State).sendControl l true []).out = k.emitted l (2 ^ 15) true 0 [] := by
        rw [State.sendControl, emit_out, hk]
        rfl
      rw [hdiscarded, hnak]
      refine ⟨rfl, rfl, rfl, rfl, rfl, ?_⟩
      rw [hout, hu, setLink_out, emitted_rx]
    · rw [hexec, hsound, if_pos Bool.not_false]
    · have haccepted := flitIn_accepted (s := u) (l := l) hlen hcrc hdata hvc hack hcvc hfirst hzero (by rw [hlink]; exact hnum)
      rw [hlink] at haccepted
      exact haccepted
    · obtain ⟨v, huncorrectable⟩ := uncorrectable_first (s := u.discardFlit l) (l := l) (by rw [hdiscarded]; exact hnone) errs
      rw [hgone, if_neg (by decide)]
      cases bad
      · rw [if_neg (by decide), hdiscarded]
        exact ⟨rfl, rfl, rfl, rfl⟩
      · rw [if_pos rfl, huncorrectable, hdiscarded]
        exact ⟨rfl, rfl, rfl, rfl⟩
  case replay =>
    have hexec : exec (.replayTimeout l) s = execReplayTimeout l s := rfl
    subst hk
    rw [hexec, execReplayTimeout, onUnit, if_pos (decide_eq_true (by omega)), if_pos hl]
    dsimp only
    rw [hbuf]
    dsimp only
    rw [if_neg (by simp [hup, hlate])]
  case report =>
    have hexec : exec (.ackReportTimer l) s = execAckReportTimer l s := rfl
    subst hk
    rw [hexec, execAckReportTimer, onUnit, if_pos (decide_eq_true (by omega)), if_pos hl]
    exact congrArg _ (if_neg (by simp [hup]))
  case stall =>
    have hexec : exec (.creditStall l vc) s = execCreditStall l vc s := rfl
    subst hk
    rw [hexec, execCreditStall, onLink hl, hw]
    refine ⟨_, rfl, ?_⟩
    dsimp only
    rw [event_link, State.updLink, setLink_same]
  case packet =>
    obtain ⟨hdelivered, hsent, hover⟩ := exec_packetRoute (s := s) hrails hmc hres
    exact ⟨hdelivered, hsent, fun hlife hanswer => by rw [hover hlife, if_neg (by simp [hanswer])],
      fun hlife hrequest => by rw [hover hlife, if_pos hrequest]⟩

end Sys2Proof.Machine
end
